-- ==== Sys2Proof/Word.lean ====
section
/-! DEFINITION. The words of the TX9640 model: register words, the 64-bit counts and values of
records, bytes, and the numbers of the units (01_topology.md R15). -/

namespace Sys2Proof

/-- A register word (R437: registers are 32 bits wide). -/
abbrev Word := BitVec 32

/-- A 64-bit field of a record, a fence value or a virtual address field (R7, R41, R100). -/
abbrev Quad := BitVec 64

/-- One byte of memory. -/
abbrev Byte := BitVec 8

/-- A device physical address: 49 bits are significant (R21). -/
abbrev PhysAddr := BitVec 49

/-- A sparse table: keys strictly rising, no entry equal to the table's default. -/
abbrev Tbl (α : Type) := List (Nat × α)

/-- An SR-IOV function: 0 is the physical function, 1 to 63 the virtual ones (R34). -/
abbrev Fn := Fin 64

/-- A context number; the key ID of context n is n (R33). -/
abbrev CtxId := Fin 512

/-- A ring number (R61). -/
abbrev RingId := Fin 8192

/-- A master ID of R17 that is issued: 0x00 to 0x71. -/
abbrev MasterId := Fin 114

end Sys2Proof
end

