-- ==== Sys2Proof/Config.lean ====
section
/-! DEFINITION. What one part fixes (its ordering variant and fuses) and the values the spec leaves
open, each an opaque constant without a body: a statement about one holds for every value of it. -/

namespace Sys2Proof.Config

/-- The ordering variants of R4. -/
inductive Variant where
  | c | i | x
  deriving DecidableEq, Repr

/-- The ordering variant of this part (R4); no statement may assume which. -/
opaque variantCode : BitVec 2

/-- The variant named by the part's own marking. -/
def variant : Variant :=
  if variantCode = 0 then .c else if variantCode = 1 then .i else .x

/-- Maximum junction temperature in quarter degrees Celsius (R4, R416). -/
def tjMaxQuarter : Int := match variant with
  | .c => 400
  | .i => 420
  | .x => 400

/-- SEC_LC.ENG: only a TX9640-X reads 1 (R5). -/
def eng : Bool := decide (variant = .x)

/-- Base-die silicon revision, from fuses (R439 TOP_ID.BASE_REV). -/
opaque baseRev : BitVec 4
/-- Fused minimum security version (R389). -/
opaque svnMin : BitVec 6
/-- Fused KEY_REVOKE[3:0] (R389). -/
opaque keyRevoke : BitVec 4
/-- The lifecycle fuses as the part is shipped (R4): 0 BLANK, 1 PROVISIONED. -/
def lifecycle : BitVec 2 := match variant with
  | .c => 1
  | .i => 1
  | .x => 0
/-- Unique identifier from fuses, 16 bytes (R398 DEVICE_ID). -/
opaque deviceId : BitVec 128
/-- Fused spare-column map word of bank n of cluster c (R205). -/
opaque repairWord : Nat → Nat → BitVec 16

/-- The n-th fresh free value: what the spec leaves undefined at that use. -/
opaque freeValue : Nat → BitVec 64
/-- What a byte of a 32-byte unit written under one key tag reads as under another (R217, R377):
stored tag, reading tag, address, stored byte. -/
opaque cipherByte : Nat → Nat → Nat → Byte → Byte
/-- SHA-384 (FIPS): the digest of a byte string. -/
opaque sha384 : List Byte → List Byte
/-- ECDSA P-384 verification with a key of the ROM: key slot, message, signature (R389, R398). -/
opaque ecdsaVerifies : Nat → List Byte → List Byte → Bool
/-- ML-DSA-65 verification with a key of the ROM: key slot, message, signature (R389, R398). -/
opaque mldsaVerifies : Nat → List Byte → List Byte → Bool
/-- A nonce issued by the device, 32 bytes, for the n-th request (R398). -/
opaque nonceBytes : Nat → List Byte
/-- The certificate chain of slot 0 at boot n (R392). -/
opaque certChain : Nat → List Byte
/-- A signature by the alias key of boot n over a message (R392). -/
opaque aliasSign : Nat → List Byte → List Byte
/-- Digest of the boot ROM (measurement 1, R393). -/
opaque romDigest : List Byte

/-- An element function of R169 or R242 on an FP32 code where the spec gives an accuracy only:
function code (see Machine/Float.lean), FTZ, argument. -/
opaque elementFn : Nat → Bool → Word → Word
/-- E8M0 code of a value that E8M0 does not hold: sign, mantissa, exponent; the spec gives the format
no rounding (R131). -/
opaque e8m0Code : Bool → Nat → Int → Byte
/-- Where a tile's K steps are cut among arrays when ORDERED is 0 (R171): steps, parts, boundary. -/
opaque kCut : Nat → Nat → Nat → Nat
/-- Screen interpolation by "one fixed sequence" (R287): the value of a varying or of Z at a sample. -/
opaque interpolate : List Word → List Int → Word
/-- The vertex that clipping generates on an edge: plane, inside vertex, outside vertex, as the words
of clip position and varyings; the spec gives the planes and no arithmetic (R274). -/
opaque clipVertex : Nat → List Word → List Word → List Word
/-- Does bilinear interpolation (R329, R350) add two weighted samples, or a weighted difference; the
spec gives FP32 and the order of the axes, and no more. -/
opaque lerpTwoProducts : Bool
/-- Hash of three input bytes into the 32,768 chain heads of the compressor (R364). -/
opaque chainHash : Byte → Byte → Byte → BitVec 15
/-- Code lengths of a dynamic DEFLATE block from its symbol counts, within the limits of R364. -/
opaque dynamicLengths : List Nat → Nat → List Nat
/-- How a dynamic block runs its code lengths together: symbols 0 to 18 with their extra bits (R364). -/
opaque lengthRuns : List Nat → List (Nat × Nat)
/-- Offset into a code object's 64-byte header of a field whose place is not published (R239):
the format version, minimum REGS and minimum SHARED_BYTES that the header's bytes give. -/
opaque codeHeader : List Byte → Bool × Nat × Nat
/-- Built-in input that a code object's header puts in a register (R235): 0 none; 1 to 3 workgroup
index x, y, z; 4 to 6 thread index x, y, z; 7 and 8 CONST_VA low and high; 9 and up the inputs of a
vertex or a fragment in their order (R272, R286, R287). -/
opaque builtinInput : List Byte → Nat → Nat
/-- Byte offset from CODE_VA of the instruction at a PC (R257); the encoding is not published. -/
opaque pcOffset : List Byte → Nat → BitVec 32
/-- The 128 bytes of 16 spilled stack entries: kind PATH, mask, PC (R245). -/
opaque stackImage : List (Bool × Word × Nat) → List Byte
/-- The 16 entries that a fill reads from bytes that no spill wrote (R245). -/
opaque stackParse : List Byte → List (Bool × Word × Nat)
/-- The device's own BIN_STATE layout (R266): the bytes of a tile, from the heads and tails of its silk
lists by cluster. -/
opaque binStateBytes : List (Nat × Nat) → List Byte
/-- Is a cluster's epilogue unit at work at a time while its array holds a TENSOR_MMA tile (R190, EPI_BUSY). -/
opaque epilogueBusy : Nat → Nat → Bool

end Sys2Proof.Config
end

