-- ==== Sys2Proof/Syntax.lean ====
section
/-! DEFINITION. The commands of the TX9640: one constructor of Instr per row of
spec/opcode_table.json, in the table's order, with the operands that the rule of each row names.
What the environment decides (what the host has written by the time a read is served, what a panel
answers, what a sensor measures, which unit the device chooses) is an operand too. -/

namespace Sys2Proof

/-- What the host does around a device read of host memory (R78): the host stores made visible
before the read is served, and the host ranges [lo, hi) whose reads end with a PCIe error (R56). -/
structure HostIO where
  writes : List Host.Cell
  errs   : List (Nat × Nat)
  deriving DecidableEq, Repr

/-- A ring entry: ring and 64-bit entry number (R69). -/
structure EntryRef where
  ring : RingId
  seq  : Nat
  deriving DecidableEq, Repr

/-- An op of an entry, or a node of a launch, by its index (R80, R121). -/
structure OpRef where
  ring : RingId
  seq  : Nat
  op   : Nat
  deriving DecidableEq, Repr

/-- A resident thread group: core and slot (R257). -/
structure GroupRef where
  core : Fin 64
  slot : Fin 64
  deriving DecidableEq, Repr

/-- Register blocks of BAR0 (R435). -/
inductive BlockId where
  | top | rst | clk | pwr | err | sec | fe | mmu | fen | cmp
  | dsp (p : Fin 4) | hst | mon
  | tns (c : Fin 8) | spm (c : Fin 8) | shd (c : Fin 8)
  | l2 (d : Fin 2) | rsh (d : Fin 2)
  deriving DecidableEq, Repr

/-- The _LO registers whose read latches a _HI register (R437). -/
inductive CounterReg where
  | topTime | tnsIssue (c : Fin 8) | tnsStall (c : Fin 8) | dspFrame (p : Fin 4)
  deriving DecidableEq, Repr

/-- Kind of a memory access (R57 ACCESS). -/
inductive Access where
  | read | write | exec | atomic
  deriving DecidableEq, Repr

/-- Whose work an access belongs to, so that a fault is taken at the point of use (R55). -/
inductive Requester where
  | op (o : OpRef)
  | group (g : GroupRef)
  | layer (p : Fin 4) (l : Fin 8)
  | writeback (p : Fin 4)
  | plan (d : Fin 2)
  | none
  deriving DecidableEq, Repr

/-- Sources that raise an MSI-X vector at most once per microsecond (R124, R427, R452): contexts,
rings, the queues of a function, the error log, a function's vector 0, the wake pins, and a render
pass that asks for memory (R280). -/
inductive VecSource where
  | ctx (n : CtxId) | ring (r : RingId) | fenceEvents (f : Fn) | parkQueue (f : Fn) | errorLog
  | critical (f : Fn) | wake | grow (o : OpRef)
  deriving DecidableEq, Repr

/-- Units that power up and clear (R201, R202). -/
inductive PowerUnit where
  | cluster (c : Fin 8) | core (k : Fin 64) | die (d : Fin 2)
  deriving DecidableEq, Repr

/-- Where a clear's second read-back failed (R204). -/
inductive ClearResult where
  | pass | failBank (b : Fin 128) | failOther
  deriving DecidableEq, Repr

/-- Fields of a notify slot other than CTRL (R112). -/
inductive NotifyField where
  | threshold | addr | data
  deriving DecidableEq, Repr

/-- A source operand of a shader instruction: a register of the group or an immediate. -/
inductive Src where
  | reg (r : Fin 256)
  | imm (w : Word)
  deriving DecidableEq, Repr

/-- FP32 arithmetic of R242 and R144. -/
inductive FpOp where
  | add | mul | fma | div | sqrt | max | min
  deriving DecidableEq, Repr

/-- Functions of R242 with a stated accuracy. -/
inductive TransOp where
  | rcp | rsqrt | exp2 | log2 | sin | cos
  deriving DecidableEq, Repr

/-- Integer instructions of R242. -/
inductive IntOp where
  | add | sub | and | or | xor | mulLo | mulHiU | mulHiS | shl | shrU | shrS
  | divU | divS | remU | remS
  deriving DecidableEq, Repr

/-- Shuffle forms of R247. -/
inductive ShuffleForm where
  | indexed (idx : Src) | up (d : Nat) | down (d : Nat) | xor (m : Word)
  deriving DecidableEq, Repr

/-- Vote forms of R248. -/
inductive VoteKind where
  | any | all | ballot
  deriving DecidableEq, Repr

/-- Where a memory instruction goes: a virtual address, or the workgroup's shared memory (R236). -/
inductive MemSpace where
  | va | shared
  deriving DecidableEq, Repr

/-- Value type of an atomic (R251). -/
inductive AtomType where
  | int32 | uint32 | fp32 | int64 | uint64
  deriving DecidableEq, Repr

/-- Atomic operations of R251. -/
inductive AtomOp where
  | add | min | max | and | or | xor | exch | cmpxchg
  deriving DecidableEq, Repr

/-- A vertex shader's result for one vertex of one index and drawn copy (R272): clip position and
varyings, as FP32 codes. -/
structure VertexOut where
  index : Nat
  inst  : Nat
  clip  : List Word
  vary  : List Word
  deriving DecidableEq, Repr

/-- A fragment shader's result for one pixel of one primitive (R286): colours per attachment slot
and an optional written depth. -/
structure Fragment where
  batch : Nat
  prim  : Nat
  px    : Nat
  py    : Nat
  color : List (List Word)
  depth : Option Word
  deriving DecidableEq, Repr

/-- Horizontal pixels [x0, x1) of a layer whose data has not arrived for a line (R339). -/
structure LateSpan where
  layer : Fin 8
  x0    : Nat
  x1    : Nat
  deriving DecidableEq, Repr

/-- A connector of R311. -/
inductive Connector where
  | edp0 | edp1 | dp0 | dp1
  deriving DecidableEq, Repr

/-- A sink's reply to an AUX attempt (R356). -/
inductive AuxReply where
  | ack (data : List Byte) | nack | defer
  deriving DecidableEq, Repr

/-- The outcome of a compute die's checks as the base die finds them (R458). -/
structure DieCheck where
  answers   : Bool
  rev       : Byte
  revOk     : Bool
  fuseOk    : Bool
  ucodeVer  : Byte
  imageVer  : Byte
  digestOk  : Bool
  ucodeHash : List Byte
  clearOk   : Bool
  deriving DecidableEq, Repr

/-- Messages carried by IDE_KM in a secured session (R394). -/
inductive IdeKmMsg where
  | keyProg (stream : Fin 9) | keySetGo (stream : Fin 9) | keySetStop (stream : Fin 9) | query
  deriving DecidableEq, Repr

/-- Contents of a VENDOR_DEFINED_REQUEST (R391, R398). -/
inductive VendorMsg where
  | nonce
  | token (bytes : List Byte)
  | other (vendor : Nat)
  deriving DecidableEq, Repr

/-- What the Monarch controller measures every 100 microseconds (R412): package power in mW and the
ten sensors in quarter degrees Celsius. -/
structure Measurement where
  powerMw : Nat
  temps   : List Int
  deriving DecidableEq, Repr

/-- Voltage groups of R402. -/
inductive VGroup where
  | g0 | g1 | g2 | g3
  deriving DecidableEq, Repr

/-- An AVSBus answer (R406): no valid response, or a voltage in mV (for a read) or an
acknowledgement. -/
inductive AvsAnswer where
  | none | ok (mv : Nat)
  deriving DecidableEq, Repr

/-- Clock gate registers of R433. -/
inductive GateReg where
  | top | clu | coreLo | coreHi
  deriving DecidableEq, Repr

/-- Units that S1 clock-gates (R419). -/
inductive GateUnit where
  | cluster (c : Fin 8) | core (k : Fin 64) | pipe (p : Fin 4) | cmp (n : Fin 4)
  deriving DecidableEq, Repr

/-- The PLLs of R431, numbered 3 to 14 there. -/
inductive Pll where
  | base | pcie | link | die0 | die0Mem | die1 | die1Mem | display (p : Fin 4) | security
  deriving DecidableEq, Repr

/-- Links between dies (R18). -/
inductive Link where
  | d2d | base (d : Fin 2)
  deriving DecidableEq, Repr

/-- Supply rails whose loss R466 names. -/
inductive Rail where
  | vddBase | vddAon | die (d : Fin 2)
  deriving DecidableEq, Repr

/-- Addresses of the monitor's RD and WR (R479). -/
inductive MonAddr where
  | bar0 (off : Nat)
  | phys (pa : PhysAddr)
  deriving DecidableEq, Repr

/-- Why a monitor line is bad (R478). -/
inductive LineFault where
  | syntaxError | range | overrun
  deriving DecidableEq, Repr

/-- The commands. -/
inductive Instr where
  -- registers
  | registerWrite (fn : Fn) (off size : Nat) (value : Quad)
  | regSetBits (fn : Fn) (off size : Nat) (value : Quad)
  | regClearBits (fn : Fn) (off size : Nat) (value : Quad)
  | regToggleBits (fn : Fn) (off size : Nat) (value : Quad)
  | blkKeyWrite (fn : Fn) (block : BlockId) (value : Word)
  | blkKeyExpiry (fn : Fn) (block : BlockId) (t : Nat)
  | counterLoRead (fn : Fn) (reg : CounterReg)
  | slowRegWrite (fn : Fn) (off : Nat) (value : Word)
  | cfgParity (fn : Fn) (off : Nat) (value : Word)
  -- contexts and translation
  | mmuFnCtxWrite (fn f : Fn) (value : Word)
  | ctxCreate (fn : Fn) (ctx : CtxId)
  | ctxCreateDone (ctx : CtxId) (io : HostIO)
  | ctxDestroy (fn : Fn) (ctx : CtxId)
  | ctxAbort (fn : Fn) (ctx : CtxId)
  | ctxRelease (fn : Fn) (ctx : CtxId)
  | ctxReload (fn : Fn) (ctx : CtxId)
  | ctxReloadDone (io : HostIO)
  | drainEnd (ctx : CtxId)
  | stopInPlace (ctx : CtxId)
  | ctxRetired (ctx : CtxId)
  | placeApply (fn : Fn) (value : Word)
  | invalidateGo (fn : Fn) (value : Word)
  | invalidateDone (fn : Fn)
  | lateTranslation (m : MasterId) (ctx : CtxId) (va : Quad) (acc : Access) (who : Requester)
  | walkDone (walk : Nat) (io : HostIO)
  | vectorHoldoffExpiry (src : VecSource) (t : Nat)
  -- rings, entries and ops
  | feFnRingWrite (fn f : Fn) (value : Word)
  | ringEnable (fn : Fn)
  | ringEnableDone (ring : RingId) (io : HostIO)
  | ringDisable (fn : Fn)
  | ringDisableDone (ring : RingId)
  | ringSetPrio (fn : Fn)
  | ringParity (ring : RingId)
  | nudge (fn : Fn) (ring : RingId) (off size : Nat) (value : Quad)
  | doorbellPoll (ring : RingId) (t : Nat)
  | doorbellReadDone (ring : RingId) (io : HostIO)
  | ringFetchDone (ring : RingId) (io : HostIO)
  | edgeArrayReadDone (e : EntryRef) (io : HostIO)
  | cbFramingReadDone (e : EntryRef) (io : HostIO)
  | entryStart (e : EntryRef)
  | opDispatch (o : OpRef) (io : HostIO)
  | opNop (o : OpRef)
  | opTimestamp (o : OpRef) (t : Nat)
  | opCopy (o : OpRef) (chan : Fin 32)
  | opCopyDone (o : OpRef) (io : HostIO)
  | opFenceWait (o : OpRef)
  | opFenceSignal (o : OpRef)
  | entryComplete (e : EntryRef) (t : Nat)
  | opPreempt (o : OpRef)
  -- fences
  | fenceSignalApply (t : Nat)
  | fenceErrorApply (t : Nat)
  | fenceEventSpacingExpiry (fence : Fin 65536) (t : Nat)
  | fenceTimeoutScan (t : Nat)
  | fenFnLocalWrite (fn f : Fn) (value : Word)
  | fenFnSharedWrite (fn f : Fn) (value : Word)
  | fenAlloc (fn : Fn)
  | fenFree (fn : Fn)
  | fenRead (fn : Fn)
  | fenSetError (fn : Fn)
  | fenImport (fn : Fn)
  | fenUnimport (fn : Fn)
  | fenEvqBaseWrite (fn : Fn) (hi : Bool) (value : Word)
  | fencePageSignal (fn : Fn) (fence : Fin 1024) (size : Nat) (value : Quad)
  | fencePageError (fn : Fn) (fence : Fin 1024) (size : Nat) (value : Quad)
  | notifyCtrlWrite (fn : Fn) (fence : Fin 1024) (slot : Fin 8) (value : Quad)
  | notifyFieldWrite (fn : Fn) (fence : Fin 1024) (slot : Fin 8) (field : NotifyField) (value : Quad)
  -- graphs
  | graphBindDir (o : OpRef)
  | graphPublish (o : OpRef)
  | graphPublishValidated (o : OpRef) (io : HostIO)
  | graphDelete (o : OpRef) (io : HostIO)
  | launchAccept (e : EntryRef) (io : HostIO)
  -- tensor arrays
  | tensorMma (o : OpRef)
  | tensorVec (o : OpRef)
  | tensorMove (o : OpRef) (chan : Fin 32)
  | tensorTileDone (o : OpRef) (unit : Nat) (io : HostIO) (t : Nat)
  | narrowWrite (fn : Fn) (c : Fin 8) (value : Word)
  | narrowSwitchDone (c : Fin 8)
  -- on-chip memory and L2
  | spmArbWrite (fn : Fn) (c : Fin 8) (value : Word)
  | regionClear (fn : Fn) (c : Fin 8) (value : Word)
  | regionClearDone (c : Fin 8) (region : Fin 288)
  | powerGood (u : PowerUnit)
  | unitRelease (u : PowerUnit) (r : ClearResult)
  | l2LockWrite (fn : Fn) (d : Fin 2) (value : Word)
  | l2Clean (fn : Fn) (d : Fin 2) (value : Word)
  | l2CleanInv (fn : Fn) (d : Fin 2) (value : Word)
  | l2LockLoad (fn : Fn) (d : Fin 2) (value : Word)
  | l2OpDone (d : Fin 2) (io : HostIO)
  | l2LineFill (d : Fin 2) (miss : Nat) (io : HostIO)
  | wcBufferTimeout (d : Fin 2) (slice : Fin 16) (t : Nat)
  -- reshard DMA
  | rshArm (fn : Fn) (d : Fin 2) (value : Word)
  | rshAbort (fn : Fn) (d : Fin 2) (value : Word)
  | rshPlanStart (d : Fin 2)
  | rshEntryDone (d : Fin 2) (idx : Nat) (io : HostIO)
  -- shader cores
  | shdDispatch (o : OpRef) (io : HostIO)
  | shdDispatchIndirect (o : OpRef) (io : HostIO)
  | workgroupPlace (o : OpRef)
  | fp32Arith (g : GroupRef) (op : FpOp) (dst : Fin 256) (a b c : Src)
  | transcendental (g : GroupRef) (op : TransOp) (dst : Fin 256) (a : Src)
  | integerArith (g : GroupRef) (op : IntOp) (dst : Fin 256) (a b : Src)
  | floatToInteger (g : GroupRef) (trunc : Bool) (fmt : Fin 16) (dst : Fin 256) (a : Src)
  | srConversion (g : GroupRef) (fmt : Fin 16) (sat : Bool) (dst : Fin 256) (a seed pos : Src)
  | shdBranch (g : GroupRef) (cond : Src) (target rpc : Nat)
  | shdJoin (g : GroupRef)
  | shdYield (g : GroupRef)
  | exitLanes (g : GroupRef) (mask : Word)
  | stackFillDone (g : GroupRef) (io : HostIO)
  | shdShuffle (g : GroupRef) (form : ShuffleForm) (width : Nat) (dst src : Fin 256)
  | shdVote (g : GroupRef) (kind : VoteKind) (dst : Fin 256) (pred : Src)
  | memoryLoad (g : GroupRef) (sp : MemSpace) (dst : Fin 256) (addrLo addrHi : Src) (size : Nat)
  | memoryStore (g : GroupRef) (sp : MemSpace) (src : Fin 256) (addrLo addrHi : Src) (size : Nat)
  | shdAtomic (g : GroupRef) (sp : MemSpace) (op : AtomOp) (ty : AtomType) (ret : Option (Fin 256))
      (addrLo addrHi : Src) (operand compare : Fin 256)
  | workgroupFence (g : GroupRef)
  | deviceFenceRelease (g : GroupRef)
  | deviceFenceAcquire (g : GroupRef)
  | shdBarrier (g : GroupRef)
  | barrierTimeout (g : GroupRef)
  | shdTrap (g : GroupRef) (code : BitVec 16)
  | illegalInstr (g : GroupRef) (word : Word)
  | parkQueueRetry (fn : Fn) (io : HostIO)
  | feParkqBaseWrite (fn : Fn) (hi : Bool) (value : Word)
  | parkReplay (fn : Fn)
  | parkKill (fn : Fn)
  | shdWatchdog (t : Nat)
  -- tiled rendering
  | renderPass (o : OpRef) (io : HostIO)
  | batchDeal (o : OpRef) (c : Fin 8) (verts : List VertexOut) (io : HostIO)
  | batchBinned (o : OpRef) (c : Fin 8) (io : HostIO)
  | growPoll (o : OpRef) (io : HostIO) (t : Nat)
  | partialRenderDone (o : OpRef)
  | shadingStart (o : OpRef)
  | tileAssign (o : OpRef) (tile : Nat) (io : HostIO)
  | tileShaded (o : OpRef) (tile : Nat) (frags : List Fragment) (io : HostIO)
  | tileStored (o : OpRef) (tile : Nat) (t : Nat)
  | fbcClear (o : OpRef) (chan : Fin 32)
  | fbcClearDone (o : OpRef) (io : HostIO)
  -- display
  | dspCtlWrite (fn : Fn) (p : Fin 4) (value : Word)
  | displayCommit (o : OpRef) (io : HostIO)
  | commitTablesLoaded (p : Fin 4) (io : HostIO)
  | frameBoundary (p : Fin 4) (t : Nat)
  | pixelPllLockDone (p : Fin 4)
  | linkTrainingDone (p : Fin 4) (ok : Bool) (t : Nat)
  | lineCompose (p : Fin 4) (late : List LateSpan) (io : HostIO)
  | lineSignal (p : Fin 4) (entry : Fin 16)
  | samplePose (p : Fin 4) (entry : Fin 16)
  | poseReadDone (p : Fin 4) (io : HostIO)
  | warpBand (p : Fin 4) (entry : Fin 16)
  | warpBandDone (p : Fin 4) (io : HostIO)
  | writebackDone (p : Fin 4)
  | dspCntClr (fn : Fn) (p : Fin 4) (value : Word)
  | hpdChange (conn : Connector) (level : Bool)
  | auxGo (fn : Fn) (p : Fin 4) (value : Word)
  | auxReply (p : Fin 4) (reply : AuxReply)
  | auxTimeout (p : Fin 4)
  -- compression
  | cmpJob (o : OpRef)
  | cmpJobStart (ch : Fin 4)
  | cmpJobDone (ch : Fin 4) (io : HostIO)
  -- trust
  | secPin (fn : Fn) (value : Word) (t : Nat)
  | secRelease (fn : Fn) (value : Word)
  | secReleaseDone (m : MasterId) (r : ClearResult)
  | lcSecured (fn : Fn) (value : Word)
  | lcRma (fn : Fn) (value : Word)
  | secCfgWrite (fn : Fn) (value : Word)
  | entropyFail (test : Nat)
  | spdmGetVersion
  | spdmGetCapabilities
  | spdmNegotiateAlgorithms (offersSet : Bool)
  | spdmGetDigests
  | spdmGetCertificate (slot offset length : Nat)
  | spdmChallenge (slot : Nat) (nonce : List Byte)
  | spdmGetMeasurements (index : Nat) (signed : Bool) (nonce : List Byte)
  | spdmKeyExchange (reqId : BitVec 16)
  | spdmFinish (session : Nat) (macOk : Bool)
  | spdmHeartbeat (session : Nat)
  | spdmKeyUpdate (session : Nat)
  | spdmEndSession (session : Nat)
  | spdmVendorDefined (session : Option Nat) (msg : VendorMsg) (t : Nat)
  | spdmUnsupported (code : Byte)
  | ideKm (session : Nat) (msg : IdeKmMsg)
  | ideIntegrityFail (stream : Fin 9)
  | tdiLock (f : Fn) (stream : Option (Fin 9))
  | tdiStart (f : Fn)
  | tdiStop (f : Fn)
  | tdiGetReport (f : Fn)
  | tdiGetState (f : Fn)
  | tdispGetVersion (f : Fn)
  | vfFlr (f : Fn)
  | debugTokenExpiry (t : Nat)
  -- power, sleep and clocks
  | policyApply (fn : Fn) (value : Word)
  | policyApplyDone (io : HostIO)
  | powerMeasure (m : Measurement) (t : Nat)
  | avsFrameDone (a : AvsAnswer)
  | avsConfirmRead (g : VGroup)
  | avsTimeout (g : VGroup)
  | pllFrequencyMoveDone (g : VGroup)
  | statsWrite (t : Nat)
  | sleepS3 (fn : Fn) (value : Word)
  | sleepS4 (fn : Fn) (value : Word)
  | sleepEntryDone
  | sleepExitDone (t : Nat)
  | idleClockGate (u : GateUnit)
  | idlePowerGate (c : Fin 8)
  | wakePinEvent (pin : Fin 8) (level : Bool)
  | linkWakeEvent
  | clockMonitorWindow (fails : BitVec 15)
  | oscTrimWindow (step : Int) (inTolerance : Bool)
  | pllLockDone (pll : Pll)
  | clkGateWrite (fn : Fn) (reg : GateReg) (value : Word)
  -- error log, resets and time
  | errRetire (fn : Fn) (value : Word)
  | resetCore (fn : Fn) (index : BitVec 6)
  | resetTensorArray (fn : Fn) (index : BitVec 6)
  | resetTensorDmaChannel (fn : Fn) (index : BitVec 6)
  | resetCluster (fn : Fn) (index : BitVec 6)
  | resetComputeDie (fn : Fn) (index : BitVec 6)
  | resetDisplayPipe (fn : Fn) (index : BitVec 6)
  | resetCompressionChannel (fn : Fn) (index : BitVec 6)
  | resetReshardEngine (fn : Fn) (index : BitVec 6)
  | resetDieToDieLink (fn : Fn) (index : BitVec 6)
  | resetDone (r : ClearResult)
  | crossingReopen (x : Fin 92)
  | flitReplay (l : Link) (ok : Bool)
  | linkReplayLimit (l : Link)
  | dieCheckDone (d : Fin 2) (r : DieCheck)
  | timeSyncPulse (t : Nat) (copy0 copy1 : Nat)
  -- bring-up
  | pwrokRise (straps : BitVec 6)
  | pwrokFall
  | brownout (r : Rail)
  | xtalStable
  | romSelftestDone (pass : Bool)
  | perstDeassert
  | perstAssert
  | pcieLinkTrained
  | pfFlr
  | imgLoad (fn : Fn) (value : Word)
  | imageVerifyDone (io : HostIO)
  | fwReady (d0 d1 : DieCheck)
  -- boundary scan
  | tapReset
  | tapIdcode
  | tapSamplePreload (pins : BitVec 28) (preload : BitVec 40)
  | tapExtest
  | tapBypass (code : Byte)
  | tapVendorInstr (code : Byte)
  -- the Staquin monitor
  | monVer
  | monLc
  | monSts
  | monNonce
  | monToken (bytes : List Byte)
  | monTokenEnd (t : Nat)
  | monBaud (n : Nat)
  | monDump (block : BlockId)
  | monErrlog
  | monClk
  | monPwr
  | monRd (addr : MonAddr) (n : Nat)
  | monWr (addr : MonAddr) (value : Word)
  | monPin (id : Nat)
  | monRelease (id : Nat)
  | monFuse
  | monLineBad (why : LineFault)
  -- responses and reserve
  | memoryResponse (g : GroupRef) (err : Bool)
  | keyReserveRefill (equalHalves : Bool)
  | doeDiscovery (index : Nat)
  deriving DecidableEq, Repr

end Sys2Proof
end

