-- ==== Sys2Proof/Decode.lean ====
section
/-! DEFINITION. Decoding. The device is a block: its commands come from outside, and no row of the
opcode table has bits. -/

namespace Sys2Proof

/-- The command that a word spells by the table's bits: none, since no row gives bits. -/
def decodeTableWord (_nbits _w : Nat) : Option Instr := none

end Sys2Proof
end

