-- ==== Sys2Proof/Machine/RegMap.lean ====
section
/-! DEFINITION. The register map of BAR0: blocks and their offsets (R435, R190, R213, R221, R355),
and every register's fields by access code, reset value, parity and presence in a virtual
function's BAR0 (R8, R11, R436), from the register tables of the chapters. -/

namespace Sys2Proof.Machine

open Sys2Proof

/-- A register, or `count` registers at consecutive words, of a block: offset in the block and the
bit masks of its RW and RWP, RWK and W1C fields and of the command bits, which hold no value. -/
structure RegDef where
  base   : Nat
  count  : Nat
  rw     : Word
  rwk    : Word
  w1c    : Word
  cmd    : Word
  reset  : Word
  parity : Bool
  vf     : Bool
  deriving DecidableEq, Repr

/-- A row of the register map. -/
def regRow (base count : Nat) (rw rwk w1c cmd reset : Word) (parity vf : Bool) : RegDef :=
  { base, count, rw, rwk, w1c, cmd, reset, parity, vf }

def regsTop : List RegDef := [
  -- TOP_ID
  regRow 0x0000 1 0x0 0x0 0x0 0x0 0x0 false true,
  -- TOP_PRESENT
  regRow 0x0010 1 0x0 0x0 0x0 0x0 0x0 false true,
  -- TOP_TIME_LO
  regRow 0x0020 1 0x0 0x0 0x0 0x0 0x0 false true,
  -- TOP_TIME_HI
  regRow 0x0024 1 0x0 0x0 0x0 0x0 0x0 false true,
  -- TOP_STRAP
  regRow 0x0030 1 0x0 0x0 0x0 0x0 0x0 false false,
  -- TOP_DIE_ID_d
  regRow 0x0040 2 0x0 0x0 0x0 0x0 0x0 false false,
  -- TOP_SKEW_STS
  regRow 0x0050 1 0x0 0x0 0x0 0x0 0x0 false false]

def regsMmu : List RegDef := [
  -- MMU_CTX_TABLE_LO
  regRow 0x0000 1 0xFFFF8000 0x0 0x0 0x0 0x0 true true,
  -- MMU_CTX_TABLE_HI
  regRow 0x0004 1 0x1FFFF 0x0 0x0 0x0 0x0 true true,
  -- MMU_CTX_CMD
  regRow 0x0010 1 0x0 0x0 0x0 0xFFFFFFFF 0x0 false true,
  -- MMU_INV_VA_LO
  regRow 0x0020 1 0xFFFFF000 0x0 0x0 0x0 0x0 false true,
  -- MMU_INV_VA_HI
  regRow 0x0024 1 0xFFFF 0x0 0x0 0x0 0x0 false true,
  -- MMU_INV_CTL
  regRow 0x0028 1 0x3FFFFFFF 0x0 0x0 0x40000000 0x0 false true,
  -- MMU_INV_STS
  regRow 0x002C 1 0x0 0x0 0x0 0x0 0x0 false true,
  -- MMU_FN_CTX_f
  regRow 0x0100 64 0x0 0xFFDFF 0x80000000 0x0 0x0 true false,
  -- MMU_CTX_STATE_n
  regRow 0x0400 512 0x0 0x0 0x0 0x0 0x0 false true,
  -- MMU_PLACE_n
  regRow 0x0C00 64 0x0 0xFFFFFFFF 0x0 0x0 0x0 true false,
  -- MMU_PLACE_CTL
  regRow 0x0D00 1 0x0 0x0 0x4 0x1 0x0 false false,
  -- MMU_FBC_BASE_LO
  regRow 0x0D10 1 0x0 0xFFE00000 0x0 0x0 0x0 true false,
  -- MMU_FBC_BASE_HI
  regRow 0x0D14 1 0x0 0x1FFFF 0x0 0x0 0x0 true false,
  -- MMU_FBC_CTL
  regRow 0x0D18 1 0x0 0x1FF 0x0 0x0 0x0 true false]

def regsFe : List RegDef := [
  -- FE_RING_SEL
  regRow 0x0000 1 0x1FFF 0x0 0x0 0x0 0x0 false true,
  -- FE_RING_BASE_LO
  regRow 0x0004 1 0xFFFFF000 0x0 0x0 0x0 0x0 false true,
  -- FE_RING_BASE_HI
  regRow 0x0008 1 0x1FFFF 0x0 0x0 0x0 0x0 false true,
  -- FE_RING_RCB_LO
  regRow 0x000C 1 0xFFFFFF80 0x0 0x0 0x0 0x0 false true,
  -- FE_RING_RCB_HI
  regRow 0x0010 1 0x1FFFF 0x0 0x0 0x0 0x0 false true,
  -- FE_RING_CFG
  regRow 0x0014 1 0xFFFFFFFF 0x0 0x0 0x0 0x100 false true,
  -- FE_RING_CMD
  regRow 0x0018 1 0x0 0x0 0x0 0xFFFFFFFF 0x0 false true,
  -- FE_RING_STS
  regRow 0x001C 1 0x0 0x0 0x0 0x0 0x0 false true,
  -- FE_RING_PROD
  regRow 0x0020 1 0x0 0x0 0x0 0x0 0x0 false true,
  -- FE_RING_CONS
  regRow 0x0024 1 0x0 0x0 0x0 0x0 0x0 false true,
  -- FE_POLL_CTL
  regRow 0x0040 1 0x3FF 0x0 0x0 0x0 0xA true false,
  -- FE_FN_RING_f
  regRow 0x0100 64 0x0 0x7FFFFFF 0x80000000 0x0 0x0 true false,
  -- FE_PARKQ_LO
  regRow 0x0300 1 0xFFFFFFC0 0x0 0x0 0x0 0x0 false true,
  -- FE_PARKQ_HI
  regRow 0x0304 1 0x1FFFF 0x0 0x0 0x0 0x0 false true,
  -- FE_PARKQ_CFG
  regRow 0x0308 1 0x87FF000F 0x0 0x0 0x0 0x4 false true,
  -- FE_PARK_TAG
  regRow 0x0310 1 0xFFFFFFFF 0x0 0x0 0x0 0x0 false true,
  -- FE_PARK_CMD
  regRow 0x0314 1 0x0 0x0 0x0 0xFFFFFFFF 0x0 false true,
  -- FE_PARK_STS
  regRow 0x0318 1 0x0 0x0 0x0 0x0 0x0 false true,
  -- FE_WDOG
  regRow 0x0320 1 0xFFFF 0x0 0x0 0x0 0x7D0 false true]

def regsFen : List RegDef := [
  -- FEN_SEL
  regRow 0x0000 1 0x1FFFF 0x0 0x0 0x0 0x0 false true,
  -- FEN_CFG
  regRow 0x0004 1 0xFFFF0FFF 0x0 0x0 0x0 0x0 false true,
  -- FEN_DATA_LO
  regRow 0x0008 1 0xFFFFFFFF 0x0 0x0 0x0 0x0 false true,
  -- FEN_DATA_HI
  regRow 0x000C 1 0xFFFFFFFF 0x0 0x0 0x0 0x0 false true,
  -- FEN_COOKIE_LO
  regRow 0x0010 1 0xFFFFFFFF 0x0 0x0 0x0 0x0 false true,
  -- FEN_COOKIE_HI
  regRow 0x0014 1 0xFFFFFFFF 0x0 0x0 0x0 0x0 false true,
  -- FEN_CMD
  regRow 0x0018 1 0x0 0x0 0x0 0xFFFFFFFF 0x0 false true,
  -- FEN_STS
  regRow 0x001C 1 0x0 0x0 0x0 0x0 0x0 false true,
  -- FEN_EVQ_LO
  regRow 0x0020 1 0xFFFFFFC0 0x0 0x0 0x0 0x0 false true,
  -- FEN_EVQ_HI
  regRow 0x0024 1 0x1FFFF 0x0 0x0 0x0 0x0 false true,
  -- FEN_EVQ_CFG
  regRow 0x0028 1 0x87FF000F 0x0 0x0 0x0 0x4 false true,
  -- FEN_FN_LOCAL_f
  regRow 0x0100 64 0x0 0x1FFFFF 0x80000000 0x0 0x0 true false,
  -- FEN_FN_SHARED_f
  regRow 0x0200 64 0x0 0x1FFFFF 0x80000000 0x0 0x0 true false]

def regsTns : List RegDef := [
  -- TNS_CTL
  regRow 0x0000 1 0x0 0x1 0x0 0x0 0x0 true false,
  -- TNS_STS
  regRow 0x0004 1 0x0 0x0 0x0 0x0 0x0 false false,
  -- TNS_ISSUE_LO
  regRow 0x0010 1 0x0 0x0 0x0 0x0 0x0 false false,
  -- TNS_ISSUE_HI
  regRow 0x0014 1 0x0 0x0 0x0 0x0 0x0 false false,
  -- TNS_STALL_LO
  regRow 0x0018 1 0x0 0x0 0x0 0x0 0x0 false false,
  -- TNS_STALL_HI
  regRow 0x001C 1 0x0 0x0 0x0 0x0 0x0 false false]

def regsSpm : List RegDef := [
  -- SPM_ARB
  regRow 0x0000 1 0xFFFF 0x0 0x80000000 0x0 0x1348 true false,
  -- SPM_RGN_SEL
  regRow 0x0010 1 0x1FF 0x0 0x0 0x0 0x0 false false,
  -- SPM_RGN_STS
  regRow 0x0014 1 0x0 0x0 0x0 0x0 0x0 false false,
  -- SPM_RGN_CMD
  regRow 0x0018 1 0x0 0x1 0x0 0x1 0x0 false false,
  -- SPM_CLEAR_STS
  regRow 0x0020 1 0x0 0x0 0x0 0x0 0x0 false false,
  -- SPM_REPAIR_n
  regRow 0x0400 128 0x0 0x0 0x0 0x0 0x0 false false,
  -- SPM_REPAIR_SUM
  regRow 0x0600 1 0x0 0x0 0x0 0x0 0x0 false false]

def regsL2 : List RegDef := [
  -- L2_CTL
  regRow 0x0000 1 0x1 0x0 0x0 0x0 0x1 true false,
  -- L2_LOCK
  regRow 0x0004 1 0x0 0xFFFF 0x80000000 0x0 0x0 false false,
  -- L2_OP_PA_LO
  regRow 0x0010 1 0xFFFFFF80 0x0 0x0 0x0 0x0 false false,
  -- L2_OP_PA_HI
  regRow 0x0014 1 0x1FFFF 0x0 0x0 0x0 0x0 false false,
  -- L2_OP_LEN
  regRow 0x0018 1 0xFFFFFFF 0x0 0x0 0x0 0x0 false false,
  -- L2_OP_CTL
  regRow 0x001C 1 0x7FF 0x40000000 0x0 0x40000000 0x0 false false,
  -- L2_OP_STS
  regRow 0x0020 1 0x0 0x0 0x0 0x0 0x0 false false,
  -- L2_LFSR_s
  regRow 0x0100 16 0x0 0x0 0x0 0x0 0x0 false false]

def regsRsh : List RegDef := [
  -- RSH_PLAN_LO
  regRow 0x0000 1 0xFFFFFFC0 0x0 0x0 0x0 0x0 false false,
  -- RSH_PLAN_HI
  regRow 0x0004 1 0x1FFFF 0x0 0x0 0x0 0x0 false false,
  -- RSH_CTL
  regRow 0x0008 1 0x1FF 0x200 0x0 0x600 0x0 false false,
  -- RSH_STS
  regRow 0x000C 1 0x0 0x0 0x0 0x0 0x0 false false,
  -- RSH_DONE
  regRow 0x0010 1 0x0 0x0 0x0 0x0 0x0 false false,
  -- RSH_FAILED
  regRow 0x0014 1 0x0 0x0 0x0 0x0 0x0 false false]

def regsShd : List RegDef := [
  -- SHD_STS_k
  regRow 0x0000 8 0x0 0x0 0x0 0x0 0x0 false false]

def regsDsp : List RegDef := [
  -- DSP_CTL
  regRow 0x0000 1 0x0 0x1FFFF 0x80000000 0x0 0xE true false,
  -- DSP_STS
  regRow 0x0004 1 0x0 0x0 0x0 0x0 0x0 false false,
  -- DSP_FRAME_LO
  regRow 0x0008 1 0x0 0x0 0x0 0x0 0x0 false false,
  -- DSP_FRAME_HI
  regRow 0x000C 1 0x0 0x0 0x0 0x0 0x0 false false,
  -- DSP_CNT0
  regRow 0x0010 1 0x0 0x0 0x0 0x0 0x0 false false,
  -- DSP_CNT1
  regRow 0x0014 1 0x0 0x0 0x0 0x0 0x0 false false,
  -- DSP_LATE
  regRow 0x0018 1 0x0 0x0 0x0 0x0 0x0 false false,
  -- DSP_CNT_CLR
  regRow 0x001C 1 0x0 0x0 0x0 0xFFFFFFFF 0x0 false false,
  -- DSP_AUX_CTL
  regRow 0x0080 1 0x3FFFFFF 0x0 0x0 0x40000000 0x0 false false,
  -- DSP_AUX_STS
  regRow 0x0084 1 0x0 0x0 0x0 0x0 0x0 false false,
  -- DSP_AUX_DATA_n
  regRow 0x0090 4 0xFFFFFFFF 0x0 0x0 0x0 0x0 false false]

def regsCmp : List RegDef := [
  -- CMP_CH_STS_n
  regRow 0x0000 4 0x0 0x0 0x0 0x0 0x0 false false]

def regsSec : List RegDef := [
  -- SEC_LC
  regRow 0x0000 1 0x0 0x0 0x0 0x0 0x0 false false,
  -- SEC_LC_CTL
  regRow 0x0004 1 0x0 0x3 0x80000000 0x3 0x0 false false,
  -- SEC_CFG
  regRow 0x0008 1 0x0 0xF 0x80000000 0x0 0x0 true false,
  -- SEC_PIN_MAP_n
  regRow 0x0010 4 0x0 0x0 0x0 0x0 0x0 false false,
  -- SEC_PIN_SEL
  regRow 0x0020 1 0xFF 0x0 0x0 0x0 0x0 false false,
  -- SEC_PIN_REC_m
  regRow 0x0024 6 0x0 0x0 0x0 0x0 0x0 false false,
  -- SEC_PIN_CMD
  regRow 0x0040 1 0xFF 0x300 0x0 0x300 0x0 false false,
  -- SEC_BOOT_STS
  regRow 0x0050 1 0x0 0x0 0x0 0x0 0x0 false false]

def regsPwr : List RegDef := [
  -- PWR_CTL
  regRow 0x0000 1 0x7FF0037 0x0 0x0 0x8 0x0 false false,
  -- PWR_STS
  regRow 0x0004 1 0x0 0x0 0x0 0x0 0x0 false false,
  -- PWR_PLVL
  regRow 0x0008 1 0x0 0x0 0x0 0x0 0x0 false false,
  -- PWR_POLICY_LO
  regRow 0x0010 1 0xFFFFFF80 0x0 0x0 0x0 0x0 false false,
  -- PWR_POLICY_HI
  regRow 0x0014 1 0x1FFFF 0x0 0x0 0x0 0x0 false false,
  -- PWR_POLICY_CMD
  regRow 0x0018 1 0x0 0x0 0x0 0x1 0x0 false false,
  -- PWR_WAKE_CFG
  regRow 0x0020 1 0x77777777 0x0 0x0 0x0 0x0 false false,
  -- PWR_WAKE_STS
  regRow 0x0024 1 0x0 0x0 0x1FF 0x0 0x0 false false]

def regsClk : List RegDef := [
  -- CLK_GATE_TOP
  regRow 0x0000 1 0xFFF 0x0 0x0 0x0 0xFFF false false,
  -- CLK_GATE_CLU
  regRow 0x0004 1 0xFF 0x0 0x0 0x0 0xFF false false,
  -- CLK_GATE_CORE_LO
  regRow 0x0008 1 0xFFFFFFFF 0x0 0x0 0x0 0xFFFFFFFF false false,
  -- CLK_GATE_CORE_HI
  regRow 0x000C 1 0xFFFFFFFF 0x0 0x0 0x0 0xFFFFFFFF false false,
  -- CLK_GATE_STS
  regRow 0x0040 1 0x0 0x0 0x1 0x0 0x0 false false,
  -- CLK_MON_STS
  regRow 0x0050 1 0x0 0x0 0x7FFF 0x0 0x0 false false,
  -- CLK_TRIM
  regRow 0x0060 1 0x0 0x0 0x0 0x0 0x0 false false]

def regsErr : List RegDef := [
  -- ERR_CFG
  regRow 0x0000 1 0x800007FF 0x0 0x0 0x0 0x0 false false,
  -- ERR_STS
  regRow 0x0004 1 0x0 0x0 0x0 0x0 0x0 false false,
  -- ERR_OVF
  regRow 0x0008 1 0x0 0x0 0x80000000 0x0 0x0 false false,
  -- ERR_RETIRE
  regRow 0x000C 1 0x0 0x0 0x0 0xFFFFFFFF 0x0 false false,
  -- ERR_CRIT
  regRow 0x0010 1 0x0 0x0 0xC 0x0 0x0 false false,
  -- ERR_PARITY
  regRow 0x0014 1 0x0 0x0 0x40000000 0x0 0x0 false false,
  -- ERR_XING
  regRow 0x0018 1 0x0 0x0 0x0 0x0 0x0 false false]

def regsRst : List RegDef := [
  -- RST_CMD
  regRow 0x0000 1 0x3FF 0x40000000 0x0 0x40000000 0x0 false false]

def regsMon : List RegDef := [
  -- MON_STS
  regRow 0x0000 1 0x0 0x0 0x0 0x0 0x0 false false,
  -- MON_IMG_LO
  regRow 0x0004 1 0xFFFFF000 0x0 0x0 0x0 0x0 false false,
  -- MON_IMG_HI
  regRow 0x0008 1 0x1FFFF 0x0 0x0 0x0 0x0 false false,
  -- MON_IMG_LEN
  regRow 0x000C 1 0x1FFFFFF 0x0 0x0 0x0 0x0 false false,
  -- MON_CMD
  regRow 0x0010 1 0x0 0x0 0x0 0xFFFFFFFF 0x0 false false]

/-- The registers of a block. HST's table and pending bits are in Machine/Regs.lean. -/
def blockRegs : BlockId → List RegDef
  | .top => regsTop
  | .rst => regsRst
  | .clk => regsClk
  | .pwr => regsPwr
  | .err => regsErr
  | .sec => regsSec
  | .fe => regsFe
  | .mmu => regsMmu
  | .fen => regsFen
  | .cmp => regsCmp
  | .dsp _ => regsDsp
  | .hst => []
  | .mon => regsMon
  | .tns _ => regsTns
  | .spm _ => regsSpm
  | .shd _ => regsShd
  | .l2 _ => regsL2
  | .rsh _ => regsRsh

/-- CB(c) of R190. -/
def clusterBase (c : Fin 8) : Nat := 0x100000 + (c.val / 4) * 0x400000 + (c.val % 4) * 0x80000

/-- DB(d) of R213. -/
def dieBase (d : Fin 2) : Nat := 0x300000 + d.val * 0x400000

/-- BAR0 offset of a block (R435). -/
def blockBase : BlockId → Nat
  | .top => 0x000000
  | .rst => 0x010000
  | .clk => 0x020000
  | .pwr => 0x030000
  | .err => 0x040000
  | .sec => 0x050000
  | .fe => 0x060000
  | .mmu => 0x070000
  | .fen => 0x080000
  | .cmp => 0x090000
  | .dsp p => 0x0A0000 + p.val * 0x10000
  | .hst => 0x0E0000
  | .mon => 0x0F0000
  | .tns c => clusterBase c + 0x10000
  | .spm c => clusterBase c + 0x20000
  | .shd c => clusterBase c + 0x30000
  | .l2 d => dieBase d
  | .rsh d => dieBase d + 0x10000

/-- Every block. -/
def allBlocks : List BlockId :=
  [.top, .rst, .clk, .pwr, .err, .sec, .fe, .mmu, .fen, .cmp, .dsp 0, .dsp 1, .dsp 2, .dsp 3, .hst,
   .mon] ++ (List.finRange 8).flatMap (fun c => [.tns c, .spm c, .shd c]) ++
   (List.finRange 2).flatMap (fun d => [.l2 d, .rsh d])

/-- A number for each block, for the keys of its guards (R442). -/
def blockNum : BlockId → Nat
  | .top => 0 | .rst => 1 | .clk => 2 | .pwr => 3 | .err => 4 | .sec => 5 | .fe => 6 | .mmu => 7
  | .fen => 8 | .cmp => 9 | .dsp p => 10 + p.val | .hst => 14 | .mon => 15
  | .tns c => 16 + c.val | .spm c => 24 + c.val | .shd c => 32 + c.val
  | .l2 d => 40 + d.val | .rsh d => 42 + d.val

/-- The block that a BAR0 offset lies in and the offset within it. -/
def blockAt (off : Nat) : Option (BlockId × Nat) :=
  match allBlocks.find? (fun b => blockBase b ≤ off && decide (off < blockBase b + 0x10000)) with
  | some b => some (b, off - blockBase b)
  | none => none

/-- The register of a block at a primary offset, and its index within the row. -/
def regAt (b : BlockId) (rel : Nat) : Option (RegDef × Nat) :=
  match (blockRegs b).find? (fun d => d.base ≤ rel && decide (rel < d.base + 4 * d.count)) with
  | some d => some (d, (rel - d.base) / 4)
  | none => none

/-- Reset value of a register: the ranges of function 0 hold everything (R34, R61, R106). -/
def regResetOf (b : BlockId) (rel : Nat) (d : RegDef) : Word :=
  match b with
  | .mmu => if rel = 0x100 then BitVec.ofNat 32 (512 * 2 ^ 10) else d.reset
  | .fe => if rel = 0x100 then BitVec.ofNat 32 (8192 * 2 ^ 13) else d.reset
  | .fen => if rel = 0x100 ∨ rel = 0x200 then BitVec.ofNat 32 (1024 * 2 ^ 10) else d.reset
  | .top => if rel = 0 then 0x9640 ||| (Config.baseRev.setWidth 32 <<< 16) else d.reset
  | _ => d.reset

/-- Reset value by BAR0 offset; the mask word of each MSI-X entry is 1 (PCI Express). -/
def regReset (off : Nat) : Word :=
  match blockAt off with
  | some (.hst, rel) => if 0x8000 ≤ rel ∧ rel % 16 = 12 then 1 else 0
  | some (b, rel) => match regAt b rel with
    | some (d, _) => regResetOf b rel d
    | none => 0
  | none => 0

end Sys2Proof.Machine
end

