-- ==== Sys2Proof/Machine/State.lean ====
section
/-! DEFINITION. The state of the TX9640: every register, table, queue, buffer, counter, mode and pin
that the spec gives the device, as plain data, and the queue of commands that wait. -/

namespace Sys2Proof.Machine

open Sys2Proof

/-! ## Memory, translation and the L2 -/

/-- Translation fault codes of R56. -/
inductive FaultCode where
  | notValid | readDenied | writeDenied | execDenied | vaRange | ptFormat | placement
  | protectedPage | unmappedPa | keyMismatch | gated | hostError
  deriving DecidableEq, Repr

/-- The leaf that maps a page (R43), as a TLB entry holds it. -/
structure Leaf where
  base  : Nat      -- physical address of the page
  va    : Nat      -- virtual address of the page
  size  : Nat      -- bytes: 4 KiB, 64 KiB, 2 MiB or 1 GiB
  level : Nat
  r : Bool
  w : Bool
  x : Bool
  cache : Nat
  place : Nat
  fbc : Bool
  prot : Bool
  key : Nat
  deriving DecidableEq, Repr

/-- A TLB entry, tagged with its context (R52). -/
structure TlbEntry where
  ctx  : Nat
  leaf : Leaf
  deriving DecidableEq, Repr

/-- An invalidation in progress (R54): its function and context, and the loads translated through an
entry that it discarded and not yet complete. -/
structure Inval where
  fn    : Nat
  ctx   : Nat
  loads : List Nat
  deriving DecidableEq, Repr

/-- A page-table walk, running or queued (R52). -/
structure Walk where
  id     : Nat
  master : Nat
  ctx    : Nat
  va     : Nat
  acc    : Access
  who    : Requester
  deriving DecidableEq, Repr

/-- A line held by an L2 way (R206): the line number is PA / 128. -/
structure L2Line where
  line  : Nat
  way   : Nat
  key   : Nat
  fbc   : Bool
  dirty : Bool
  data  : List Byte
  deriving DecidableEq, Repr

/-- A missed line that waits for memory (R210), with the way chosen for it (R208), the bytes written
to it meanwhile, and whether a write-back write is among them. -/
structure L2Miss where
  id     : Nat
  line   : Nat
  way    : Nat
  key    : Nat
  fbc    : Bool
  merged : List (Nat × Byte)   -- offset in the line, byte; the later entry wins
  dirty  : Bool
  pref   : Bool                -- a next-line prefetch (R209)
  deriving DecidableEq, Repr

/-- A write-combining buffer of a slice (R211). -/
structure WcBuf where
  slice : Nat
  line  : Nat
  key   : Nat
  bytes : List (Nat × Byte)
  last  : Nat                  -- time of the last write
  deriving DecidableEq, Repr

/-- The range operation that an L2 runs (R214). -/
structure L2Op where
  op   : Nat
  line : Nat
  len  : Nat
  key  : Nat
  deriving DecidableEq, Repr

/-- One die's L2: lines, misses, combining buffers, replacement registers (R206 to R214). -/
structure L2 where
  lines   : List L2Line
  misses  : List L2Miss
  wc      : List WcBuf
  lfsr    : Tbl (BitVec 16)
  op      : Option L2Op
  skipped : Nat
  deriving DecidableEq, Repr

/-- A resource's power as R201 to R204 give it: off, clearing after power good, released, or left
unreleased because its clear failed. -/
inductive UnitPower where
  | off | clearing | on | failed
  deriving DecidableEq, Repr

/-! ## Contexts -/

/-- STATE of MMU_CTX_STATE_n (R38). -/
inductive CtxState where
  | free | active | draining | aborting | retired
  deriving DecidableEq, Repr

/-- Fence reasons of R102. -/
inductive Reason where
  | aborted | faulted | ownerGone | timeout | deviceLost
  deriving DecidableEq, Repr

/-- A context: what CREATE copies from the descriptor (R36), its fault-queue counts (R57), its key
slot (R376), its graph directory (R115) and the teardown's fixed reason (R105). -/
structure Ctx where
  state   : CtxState
  cmd     : Option Nat          -- the function whose CREATE or RELOAD is in progress
  gen     : BitVec 16
  ptRoot  : Option Nat
  fqBase  : Option Nat          -- none: no fault queue yet (context 0 before its first RELOAD)
  fqLog2  : Nat
  vector  : Nat
  drain   : Bool
  plainOk : Bool
  ftz     : Bool
  prot    : Bool
  prod    : Quad
  lost    : Quad
  key     : Option Nat          -- serial of the loaded key; none: EMPTY
  reason  : Reason              -- fixed when the context leaves ACTIVE (R105)
  dir     : Option Nat          -- graph directory
  drainDone : Bool              -- step 3 of a drain has ended
  deriving DecidableEq, Repr

/-! ## Rings, entries and ops -/

/-- STATE of a ring (R63). -/
inductive RingState where
  | disabled | fetching | idlePending | idle | halted
  deriving DecidableEq, Repr

/-- A ring command in progress (R64), with the function that gave it. -/
inductive RingCmd where
  | enable (fn : Nat) | disable (fn : Nat)
  deriving DecidableEq, Repr

/-- What a ring's outstanding read of DOORBELL is for. -/
inductive DoorbellRead where
  | enable | idleCheck | poll | drain
  deriving DecidableEq, Repr

/-- An entry of the internal ring table (R66), with the counts of R68 and R75. -/
structure Ring where
  state    : RingState
  base     : Nat
  rcb      : Nat
  type     : Nat
  prio     : Nat
  log2     : Nat
  pollIdle : Bool
  ctx      : Nat
  vector   : Nat
  halt     : Nat
  prod     : Quad              -- P
  cons     : Quad              -- C
  completed : Quad
  done     : List Quad         -- entries beyond COMPLETED that have completed
  dup      : Quad
  compLost : Quad
  cmd      : Option RingCmd
  reads    : List DoorbellRead -- outstanding reads of DOORBELL, oldest first
  dupWait  : Bool              -- stopped on a duplicate until P next increases (R77)
  limit    : Option Quad       -- drain limit (R58 step 1)
  stopped  : Bool              -- stopped by a teardown (R67)
  lastPoll : Nat
  deriving DecidableEq, Repr

/-- An edge of an edge array (R93) and what its table check found. -/
structure Edge where
  kind   : Nat
  flags  : Nat
  object : Nat
  value  : Quad
  formed : Bool                -- well formed under R93
  passed : Bool                -- its table check passed (R94)
  alloc  : Nat                 -- allocation of the fence checked (R483)
  sat    : Bool                -- a wait edge already satisfied
  dead   : Bool                -- RING_SEQ: its ring stopped before VALUE (R96)
  deriving DecidableEq, Repr

/-- How far an op has come. -/
inductive OpPhase where
  | waiting | running | done
  deriving DecidableEq, Repr

/-- An op that writes a report is over but for that: how it ends, and the master that writes (R186, R307). -/
structure Ending where
  status : Nat
  detail : Nat
  master : Nat
  deriving DecidableEq, Repr

/-- An op of a command buffer or a node of a launch (R80, R117). -/
structure Op where
  opcode : Nat
  va     : Nat                 -- virtual address of the op record
  len    : Nat                 -- bytes
  preds  : List Nat
  mask   : Nat                 -- the op's own cluster mask (0: the entry's)
  phase  : OpPhase
  status : Nat
  detail : Nat
  sticky : Nat
  skipped : Bool
  reason : Reason              -- reason behind a DEP_ERROR-like failure passed on (R103)
  rank   : Nat                 -- PRIO of its ring when it was dispatched (R64)
  spared : List Nat            -- rings whose raise by SET_PRIO does not pre-empt it (R64)
  body   : List Byte           -- the record, read again at dispatch (R84)
  emask  : Nat                 -- effective cluster mask (R85)
  units  : List Nat            -- masters that hold it
  ending : Option Ending       -- over, but for its report
  fence  : Option Edge         -- FENCE_WAIT: the edge it waits on
  patches : List (Nat × Nat)   -- node patches: argument offset, record offset (R117)
  deriving DecidableEq, Repr

/-- How far an accepted entry has come. -/
inductive EntryPhase where
  | edges                      -- its edge array is to be read
  | framing                    -- its command buffer's framing is to be read
  | waiting                    -- waits for its edges and its turn (R72, R95)
  | running
  | finished                   -- ready for its completion steps (R89)
  deriving DecidableEq, Repr

/-- A launch's own data: graph, version it pins, argument copy (R120). -/
structure Launch where
  graph   : Nat
  version : Nat
  root    : Nat
  args    : List Byte
  deriving DecidableEq, Repr

/-- An accepted ring entry: its 64 bytes, edges, ops and first failure. -/
structure Entry where
  ring    : Nat
  seq     : Nat
  ctx     : Nat
  raw     : List Byte
  phase   : EntryPhase
  edges   : List Edge
  nwait   : Nat
  ops     : List Op
  status  : Nat                -- failure that concerns no op, or the first of the framing
  opIndex : Nat
  detail  : Nat
  reason  : Reason             -- reason of the deciding edge's fence for DEP_ERROR
  launch  : Option Launch
  tAcc    : Nat                -- time of acceptance (R412)
  tRun    : Nat                -- 1 + time of its first op start; 0: none yet
  deriving DecidableEq, Repr

/-- A COPY or FBC_CLEAR that a tensor DMA channel runs (R86, R303). -/
structure CopyRun where
  op   : OpRef
  ctx  : Nat
  chan : Nat
  deriving DecidableEq, Repr

/-! ## Fences -/

inductive FenceState where
  | free | active | error | releasing
  deriving DecidableEq, Repr

/-- An import of a shared fence (R110). -/
structure FenceImport where
  ctx    : Nat
  signal : Bool
  peer   : Bool
  deriving DecidableEq, Repr

/-- A notify slot (R112). -/
structure NotifySlot where
  threshold : Quad
  addr      : Quad
  data      : Quad
  armed     : Bool
  result    : Nat
  reason    : Nat
  deriving DecidableEq, Repr

/-- A fence of the fence table: local fence n at n, shared fence s at 65,536 + s. -/
structure Fence where
  st      : FenceState
  value   : Quad
  ignored : Quad
  reason  : Option Reason
  owner   : Nat
  notify  : Bool
  pageSig : Bool
  pageErr : Bool
  timeout : Nat
  cookie  : Quad
  alloc   : Nat                -- number of the ALLOC that made it (R483)
  changed : Nat                -- time of the last change of value
  imports : List FenceImport
  slots   : List (Nat × NotifySlot)
  evLast  : Option Nat         -- time of the last fence event
  evHeld  : Bool               -- a value event is held back by the 1 microsecond spacing
  deriving DecidableEq, Repr

/-- A signal or an error on its way to the fence table (R100, R101). -/
structure FenceMsg where
  fence : Nat
  alloc : Nat
  what  : Quad ⊕ Reason
  page  : Bool                 -- from the fence page (R111)
  deriving DecidableEq, Repr

/-- A function's event or park queue counts, which the device keeps itself (R57, R109, R257). -/
structure QueueCnt where
  prod : Quad
  lost : Quad
  deriving DecidableEq, Repr

/-! ## Graphs -/

/-- A graph version that launches have pinned or that waits for retirement (R122, R123). -/
structure GraphVersion where
  ctx      : Nat
  graph    : Nat
  version  : Nat
  root     : Nat
  pins     : Nat
  launches : Nat
  current  : Bool
  retireVa : Nat
  fence    : Option (Nat × Nat × Quad)   -- fence, allocation, value
  deriving DecidableEq, Repr

/-! ## Errors, vectors and registers -/

/-- An entry of the error log (R448). -/
structure LogEntry where
  slot  : Nat
  t     : Nat
  seq   : Nat
  code  : Nat
  cls   : Nat
  src   : Nat
  flags : Nat
  ctx   : Nat
  info0 : Nat
  info1 : Nat
  deriving DecidableEq, Repr

/-- A source's vector spacing: time of its last raise and a raise held back (R124). -/
structure VecHold where
  src  : VecSource
  last : Nat
  pend : Option (Nat × Nat)    -- function, vector
  deriving DecidableEq, Repr

/-- An MSI-X message the device has sent (R125). -/
structure MsiMsg where
  fn   : Nat
  vec  : Nat
  addr : Nat
  data : Nat
  deriving DecidableEq, Repr

/-- A pin record (R383). -/
structure PinRec where
  cause  : Nat
  causes : Nat
  ctx    : Nat
  key    : Nat
  count  : Nat
  addr   : Nat
  t      : Nat
  deriving DecidableEq, Repr

/-- A crossing (R454): severed or open, and its epoch. -/
structure Crossing where
  severed : Bool
  epoch   : Byte
  deriving DecidableEq, Repr


/-! ## The groups of the state -/

/-- A record of one of the device's queues that waits for its queue (R447, R456): the fault queue of
context n, or the event queue of function n. -/
structure QueueRec where
  event : Bool
  n     : Nat
  bytes : List Byte
  deriving DecidableEq, Repr

/-- A reserved block code met at a die's codec, whose entry of the error log is still to be written (R299). -/
structure MetaErr where
  die  : Nat
  key  : Nat
  code : Nat
  pa   : Nat                   -- of the metadata entry
  deriving DecidableEq, Repr

/-- Memory behind translation: every byte stored (package bytes by channel and channel address,
R216; on-chip windows and host by physical address), the key under which each 16-byte AES block of
package memory was written, region owners, and the L2s. -/
structure MemSys where
  cells    : List Host.Cell
  keyTag   : Tbl Nat           -- 16-byte block of a channel: 0 plaintext, else key serial and unit of PA
  l2       : Tbl L2            -- by die
  owners   : Tbl Nat           -- region owner: scratchpad c * 256 + r, tile 2048 + k * 4 + r (R197)
  clearing : List Nat          -- regions that a CLEAR is zeroing (R198)
  locked   : Bool              -- MMU_PLACE_CTL.LOCKED
  hostErr  : List (Nat × Nat)  -- host ranges whose reads end with a PCIe error (R56)
  bars     : List (Nat × Nat)  -- host address ranges of the device's own BARs (R380)
  missId   : Nat
  posted   : List (Nat × List Byte)  -- the device's own writes that wait, oldest first (R447, R456)
  records  : List QueueRec     -- queue records that wait, oldest first
  metaErrs : List MetaErr      -- reserved block codes met, oldest first
  deriving DecidableEq, Repr

/-- The MMU: contexts, TLBs, walks, invalidations, and the key reserve of the security engine. -/
structure Mmu where
  ctxs    : Tbl Ctx
  results : Tbl Nat            -- MMU_CTX_STATE_n.RESULT of function f: f * 512 + n
  utlb    : Tbl (List TlbEntry)  -- by master
  dtlb    : Tbl (List TlbEntry)  -- by die
  walks   : List Walk          -- running, at most 32
  queue   : List Walk          -- misses in arrival order
  walkId  : Nat
  inval   : List Inval         -- invalidations in progress
  reloadLoads : List Nat       -- loads that a RELOAD waits for (R40, R54)
  invRes  : Tbl Nat            -- MMU_INV_STS.RESULT by function
  serial  : Nat                -- keys loaded so far
  reserve : Nat                -- key pairs in reserve (R375)
  entropy : Bool               -- the entropy source passes its health tests
  deriving DecidableEq, Repr

/-- The front end: rings, entries in progress, graph versions, copies. -/
structure FrontEnd where
  rings    : Tbl Ring
  results  : Tbl Nat           -- FE_RING_STS.RESULT by function
  entries  : List Entry
  versions : List GraphVersion
  copies   : List CopyRun
  deriving DecidableEq, Repr

/-- The fence table. -/
structure FenceSys where
  fences  : Tbl Fence
  queue   : List FenceMsg
  allocs  : Nat
  evq     : Tbl QueueCnt       -- by function
  results : Tbl Nat            -- FEN_STS.RESULT by function
  deriving DecidableEq, Repr

/-- Register storage, guards, parity, held writes and interrupt vectors. -/
structure RegSys where
  regs     : Tbl Word          -- stored fields that differ from reset: function * 2^26 + offset
  unlock   : Tbl Nat           -- 1 + time of an unconsumed unlock: block * 128 + agent
  denied   : Tbl Nat           -- DENIED: block * 128 + agent
  mismatch : List (Nat × Word) -- registers in parity mismatch and the value they read
  parityRefused : Bool
  held     : List (Nat × Nat × Nat)   -- writes that wait for a halted block or an exit (R426, R447)
  slowHeld : Tbl Nat           -- held writes of domain 3 by offset: 1 + value (R444)
  latch    : Tbl Word          -- latched _HI registers by offset
  vecs     : List VecHold
  pba      : Tbl Nat           -- pending bits: function * 2048 + vector
  msgs     : List MsiMsg       -- MSI-X messages sent, oldest first
  deriving DecidableEq, Repr

/-- The error log and its critical bits (R448 to R453), crossings, die identity and time copies. -/
structure ErrSys where
  entries   : List LogEntry
  seq       : Nat
  overflow  : Nat
  lost      : Bool
  escalated : Bool
  dieLost   : Bool
  thermal2  : Bool
  crossings : Tbl Crossing
  deriving DecidableEq, Repr

/-- Units present and powered (R25, R201). -/
structure Units where
  diePresent : Tbl Nat         -- 1 when present
  clusterPresent : Tbl Nat
  booted     : List Nat        -- dies that passed the checks at boot: the address map (R24)
  degraded   : Bool
  memGib8    : Nat
  excluded   : Tbl Nat         -- TOP_DIE_ID_d.EXCL of a die excluded at run time or at boot
  waking     : List Nat        -- power units that work has asked for (R203)
  clearFail : Tbl Nat          -- SPM_CLEAR_STS by cluster: 1 + FAIL_BANK, or 256 for FAIL_OTHER
  power      : Tbl UnitPower   -- cluster c: c; core k: 8 + k; die d: 72 + d
  deriving DecidableEq, Repr


/-! ## Tensor arrays -/

/-- What one array has computed of a tile whose K is split (R171): the partial sums of its segments
by segment number, as FP32 or INT32 codes. -/
structure TensorPart where
  tile   : Nat
  part   : Nat
  master : Nat
  segs   : List (Nat × List Nat)
  deriving DecidableEq, Repr

/-- A tensor op that runs (R171, R179, R184 to R186). Work items of slot j are numbered from 0; all
arrays of a mask share slot 0 where the device deals the work. -/
structure TensorRun where
  op      : OpRef
  ctx     : Nat
  next    : Tbl Nat            -- by slot: the next item not yet taken
  held    : List (Nat × Nat)   -- master, item
  parts   : List TensorPart    -- in order of arrival
  written : Nat                -- TILES_DONE
  flags   : Nat
  tStart  : Nat
  issue   : Nat
  used    : List Nat           -- masters that have held it
  preempts : Nat
  stopping : Bool              -- pre-emption asked for: no new item starts
  fail    : Option (Nat × Nat) -- first failure: STATUS, DETAIL
  deriving DecidableEq, Repr

/-- Where tile-relative and cluster-relative addresses go while a sip pass runs (R293). -/
structure SipWindow where
  core    : Nat
  base    : Nat                -- physical address of the tile's scratch
  size    : Nat
  cluster : Nat
  spm     : Nat                -- SPM_VA
  deriving DecidableEq, Repr

/-- The tensor arrays. -/
structure Tensors where
  runs   : List TensorRun
  sip    : Option SipWindow
  narrow : Tbl Nat             -- NARROW_ACT by cluster
  issue  : Tbl Quad            -- TNS_ISSUE by cluster
  stall  : Tbl Quad            -- TNS_STALL by cluster
  deriving DecidableEq, Repr

/-! ## Reshard DMA engines -/

/-- STATE of RSH_STS (R221). -/
inductive PlanState where
  | idle | armed | running | done | failed | aborted
  deriving DecidableEq, Repr

/-- How far a plan entry in progress is (R226): its walk is still to be made, it has ended by its check, or it
has passed step 2: the leaf, the table entry that holds it and its bytes from step 1. -/
inductive PlanStep where
  | waits
  | over (status detail : Nat)
  | moving (leaf : Leaf) (slot : Nat) (old : List Byte)
  deriving DecidableEq, Repr

/-- A plan entry in progress: its index, destination and PLACE (R223, R229). -/
structure PlanEntry where
  idx   : Nat
  dst   : Nat
  place : Nat
  step  : PlanStep
  deriving DecidableEq, Repr

/-- A die's reshard DMA engine and its plan (R221 to R231). -/
structure Reshard where
  state   : PlanState
  result  : Nat
  ctx     : Nat
  base    : Nat
  entries : Nat
  trigEn  : Bool
  trig    : Nat × Nat          -- fence and allocation
  trigValue : Quad
  doneFence : Nat × Nat
  doneValue : Quad
  next    : Nat                -- next entry to start
  begun   : List PlanEntry     -- entries in progress, oldest first
  ended   : List Nat           -- entries with a final STATUS
  failed  : Nat
  aborting : Bool
  satisfied : Bool             -- the trigger has reached TRIG_VALUE (R95)
  slotWait : Bool              -- waits for a slot of the pending-wait table (R224)
  armWait : Bool               -- an ARM whose header is still to be read (R447)
  deriving DecidableEq, Repr


/-! ## Shader cores -/

/-- An entry of the divergence stack (R243): PATH or RECONV, mask and PC. -/
structure StackEnt where
  path : Bool
  mask : Word
  pc   : Nat
  deriving DecidableEq, Repr

/-- A park (R256 to R258). -/
structure Park where
  tag   : Nat
  cause : Nat
  wg    : Bool                 -- its record covers the whole workgroup
  since : Nat
  deriving DecidableEq, Repr

/-- An L1 line of a core, under its key ID, with the context that loaded it (R250). -/
structure L1Line where
  core : Nat
  ctx  : Nat
  key  : Nat
  line : Nat
  data : List Byte
  deriving DecidableEq, Repr

/-- What an issued load or returning atomic waits to write (R256): register writes, the lanes that
read host memory, and the lines that the L1 takes; its number and the addresses it was translated
for (R54). -/
structure LoadWait where
  id     : Nat
  vas    : List Nat
  writes : List (Nat × Nat × Word)   -- lane, register, value
  host   : Word
  va     : Nat
  pa     : Nat
  lines  : List L1Line
  deriving DecidableEq, Repr

/-- What a group shades: threads of a workgroup, vertices of a batch, or fragments of a tile (R233, R306). -/
inductive GroupRole where
  | compute | vertex (batch : Nat) | fragment (tile : Nat)
  deriving DecidableEq, Repr

/-- A resident thread group (R233 to R257), with its code object: address, header and CONST_VA. Helper lanes
write nothing (R286). -/
structure Group where
  core   : Nat
  slot   : Nat
  op     : OpRef
  ctx    : Nat
  role   : GroupRole
  code   : Nat
  header : List Byte
  const  : Nat
  helper : Word
  wg     : Nat                 -- linear workgroup index
  idx    : Nat                 -- group index in the workgroup
  gran   : Nat                 -- register granules
  am     : Word
  em     : Word
  pc     : Nat
  stack  : List StackEnt       -- entries in the core, top first
  spilled : List (List StackEnt × List Byte)  -- chunks in the spill area, newest first, and their bytes
  inputs : List (List Word)    -- by lane: what a graphics group's lane starts with (R272, R286, R287)
  regs   : Tbl Nat             -- register * 32 + lane: 1 + value once written
  placed : Nat
  idle   : Nat                 -- time parked so far
  waiting : Bool               -- at a barrier
  filling : Bool
  load   : Option LoadWait
  park   : Option Park
  deriving DecidableEq, Repr

/-- A resident workgroup: threads arrived at its barrier, and its shared memory as first tile-memory
KiB and size (R236, R253). -/
structure Workgroup where
  op      : OpRef
  wg      : Nat
  core    : Nat
  arrived : Nat
  base    : Nat
  size    : Nat
  ctx     : Nat
  deriving DecidableEq, Repr

/-- A dispatch that runs (R237 to R240). -/
structure ShdRun where
  op     : OpRef
  ctx    : Nat
  header : List Byte
  gx     : Nat
  gy     : Nat
  total  : Nat
  next   : Nat
  cores  : List Nat            -- cores that have placed a workgroup of the op
  stopping : Bool
  deriving DecidableEq, Repr

/-- A park record that waits for room in its queue (R257). -/
structure HeldPark where
  fn   : Nat
  core : Nat
  slot : Nat
  rec' : List Byte
  deriving DecidableEq, Repr

/-- The shader cores and the park queues. -/
structure Shaders where
  runs   : List ShdRun
  wgs    : List Workgroup
  groups : List Group
  l1     : List L1Line
  parkq  : Tbl QueueCnt        -- by function
  held   : List HeldPark
  tag    : Nat                 -- next park tag
  loadNo : Nat                 -- loads issued so far
  parkRes : Tbl Nat            -- FE_PARK_STS.RESULT by function
  deriving DecidableEq, Repr


/-! ## Tiled rendering -/

/-- A binned primitive: kind (0 triangle, 1 line, 2 point), vertex records, index in its batch, FRONT
and the half-open ranges of tiles that its box overlaps (R274, R275). -/
structure BinPrim where
  kind  : Nat
  v     : List Nat
  pidx  : Nat
  front : Bool
  tx0   : Nat
  tx1   : Nat
  ty0   : Nat
  ty1   : Nat
  deriving DecidableEq, Repr

/-- A batch at a front end (R273): its start in the draws, vertex records, primitives, and how many
of its writes to bin memory are done. -/
structure BinBatch where
  num     : Nat
  cluster : Nat
  draw    : Nat
  first   : Nat                -- first primitive of the draw
  count   : Nat                -- primitives
  recs    : List (List Word)   -- X, Y, Z, INV_W, varyings
  prims   : List BinPrim
  verts   : List (Nat × Nat)   -- vertices that its shader runs for: index and drawn copy
  placed  : Nat                -- those that its groups have taken
  code    : Nat                -- the vertex shader: code object, header, registers
  header  : List Byte
  regs    : Nat
  const   : Nat
  done    : Nat
  block   : Nat                -- virtual address of its vertex block
  deriving DecidableEq, Repr

/-- A silk list of a tile at a cluster: head, last segment, entries in it (R275). -/
structure SilkList where
  head : Nat
  last : Nat
  used : Nat
  batch : Nat                  -- 1 + newest batch in it
  first : Nat                  -- 1 + first batch in it
  deriving DecidableEq, Repr

/-- Phases of a render pass (R273 to R291). -/
inductive PassPhase where
  | binning | shading | part
  deriving DecidableEq, Repr

/-- A render pass that runs. -/
structure PassRun where
  op       : OpRef
  ctx      : Nat
  desc     : List Byte
  sip      : List Byte
  sipOps   : List (List Byte)
  phase    : PassPhase
  draw     : Nat               -- next draw
  prim     : Nat               -- next primitive of it
  batch    : Nat               -- next batch number
  batches  : List BinBatch     -- at the front ends, oldest first
  lists    : Tbl SilkList      -- cluster * 2^17 + tile
  chunks   : Tbl (Nat × Nat)   -- by cluster: address and bytes used of the current chunk
  prod     : Quad
  start    : Quad
  cons     : Quad
  growSeq  : Nat
  growAt   : Option Nat        -- time of the pending grow fault
  waiting  : List Nat          -- clusters that wait for a chunk, in request order
  partials : Nat
  bcut     : Nat
  rewound  : Option Nat        -- batch at which binning last restarted
  partialTiles : List Nat
  nextTile : Nat
  counted  : List Nat          -- batches counted in PRIMS
  prims    : Nat
  cores    : List Nat          -- cores that have held a tile or group of the op
  nextFront : Nat              -- the front end that the next batch goes to (R273)
  paused   : Bool              -- stopped at a boundary by a pre-emption (R304)
  shaded   : Nat
  grows    : Nat
  preempts : Nat
  stopping : Bool
  fail     : Option (Nat × Nat)
  flags    : Nat
  tStart   : Nat
  deriving DecidableEq, Repr

/-- A tile that a core holds (R284): its buffer's first KiB and size, and whether it is shaded. -/
structure PassTile where
  op     : OpRef
  ctx    : Nat
  tile   : Nat
  core   : Nat
  base   : Nat
  size   : Nat
  placed : Nat                 -- fragment groups placed
  shaded : Bool
  deriving DecidableEq, Repr

/-- Render passes and the tiles that cores hold. -/
structure Renders where
  passes : List PassRun
  tiles  : List PassTile
  deriving DecidableEq, Repr


/-! ## Display pipes -/

inductive PipeState where
  | off | modeset | scanout
  deriving DecidableEq, Repr

/-- The tables of a layer as loaded (R321): scaler, CSC, LIN, GAMUT, ENC; empty: none. -/
structure LayerTabs where
  scaler : List Byte
  csc    : List Byte
  lin    : List Byte
  gamut  : List Byte
  enc    : List Byte
  deriving DecidableEq, Repr

/-- A layer in force: its record, tables, whether a fetch fault made it transparent (R340), and whether
LATE_CLEAR does for this frame (R322). -/
structure Layer where
  rec'   : List Byte
  tabs   : LayerTabs
  faulted : Bool
  lateClear : Bool
  prot   : Bool                -- met a protected page in this frame (R341)
  deriving DecidableEq, Repr

/-- A pending commit (R320 to R324). -/
structure Commit where
  op     : OpRef
  ctx    : Nat
  upd    : Bool
  modeset : Bool
  pipe   : List Byte           -- pipe state record
  layers : List (Nat × List Byte)
  acquire : List (Nat × Edge)
  release : List (Nat × Edge)
  wbFence : Option Edge
  events : List (Option Edge)  -- fences of the SIGNAL entries, by entry
  tabs   : List (Nat × LayerTabs)
  lut    : List Byte
  table  : List Byte
  loaded : Bool
  late   : Nat
  applied : Bool               -- a MODESET in progress
  mark   : Option (Nat × Quad) -- time and FRAME of the boundary that applied it
  deriving DecidableEq, Repr

/-- A warp band (R351): its pose, whether it waits for its slot, and the rows complete so far: colour
codes and alpha of each pixel, none where it is transparent. -/
structure Band where
  n    : Nat
  pose : List Word
  waits : Bool
  rows : List (List (Option (List Nat × Nat)))
  done : Bool
  deriving DecidableEq, Repr

/-- A request that a pipe sends on its AUX channel (R356). -/
structure AuxReq where
  addr  : Nat
  len   : Nat                  -- bytes
  write : Bool
  i2c   : Bool
  data  : List Byte            -- of a write
  deriving DecidableEq, Repr

/-- An AUX transaction (R356). -/
structure AuxTx where
  tries : Nat
  req   : AuxReq
  pause : Bool                 -- in the interval before a retry
  deriving DecidableEq, Repr

/-- A display pipe. -/
structure Pipe where
  st     : PipeState
  stage  : Nat                 -- of a mode set: 1 PLL, 2 training
  shown  : Nat                 -- DSP_STS [4:0] as copied at the start of the line (R355)
  stop   : Bool                -- ENABLE was cleared: OFF at the next boundary
  frame  : Quad
  line   : Nat
  due    : Bool                -- line VACTIVE has started and its boundary is still to come
  fired  : List Nat            -- event entries that have fired on this line
  ctx    : Nat
  gen    : BitVec 16           -- GEN of that context
  seq    : Nat                 -- SEQ of the last commit applied
  rec'   : List Byte
  lut    : List Byte
  table  : List Byte
  wbFence : Option Edge
  events : List (Option Edge)
  layers : List Layer
  pend   : Option Commit
  underrun : Nat
  fetchFault : Nat
  warpLate : Nat
  poseTorn : Nat
  protBlocked : Nat
  wbFault : Nat
  late   : List Nat            -- LATE counts of the layers
  protNow : Bool               -- PROT_BLOCKED has counted this frame
  pose   : List Word           -- newest pose, h0 to h8
  poseReads : List (Nat × Nat) -- outstanding pose reads, oldest first: context and address
  bandsFired : Nat
  bands  : List Band
  lateBands : List Nat         -- bands of this frame that WARP_LATE has counted
  wbDrop : Bool                -- the rest of this frame's writeback is dropped
  wbNoted : Bool
  wbPend : List (Quad × Edge)  -- frames whose writeback writes are still to be accepted, and their fence
  hdr    : List Byte           -- payload of the last static-metadata packet
  out    : List (List Nat)     -- the last composed line as sent to the connector
  aux    : Option AuxTx
  auxSent : List AuxReq        -- attempts sent, oldest first
  auxRes : Nat
  deriving DecidableEq, Repr

/-- A commit that is over but for its report (R325): the report as it stood, and how the op ends. -/
structure DspReport where
  op     : OpRef
  pipe   : Nat
  va     : Nat
  bytes  : List Byte
  status : Nat
  detail : Nat
  deriving DecidableEq, Repr

/-- The pipes, the hot-plug levels of the connectors, and reports that wait (R447, R456). -/
structure Displays where
  pipes : Tbl Pipe
  hpd   : Tbl Nat
  reports : List DspReport
  deriving DecidableEq, Repr


/-! ## Compression -/

/-- The compression channels: jobs that wait, in order of dispatch, and jobs on a channel (R369). -/
structure Cmps where
  queue : List OpRef
  runs  : List (Nat × OpRef)
  deriving DecidableEq, Repr

/-! ## Power, sleep and clocks -/

/-- A policy (R410); order and limits are by group. -/
structure Policy where
  sustained : Nat
  peak      : Nat
  tj        : Int              -- quarter degrees
  autoExit  : Bool
  idleGate  : Nat
  fastest   : List Nat
  slowest   : List Nat
  order     : List Nat
  weights   : List Nat         -- by context; empty: 8 for every one
  statsVa   : Nat
  deriving DecidableEq, Repr

/-- Steps of the P-level sequencer for a group (R405, R409). -/
inductive SeqStep where
  | idle
  | lowerFreq (lv : Nat)
  | lowerVolt (lv left : Nat)          -- frames left
  | raiseVolt (lv left : Nat)
  | confirm (lv : Nat) (rails : List Nat)  -- rails still to confirm
  | raiseFreq (lv : Nat)
  | restore (left : Nat)
  deriving DecidableEq, Repr

/-- An AVSBus frame (R406): its group, rail, whether it reads, and the voltage in mV that it writes. -/
structure AvsFrame where
  group : Nat
  rail  : Nat
  read  : Bool
  mv    : Nat
  deriving DecidableEq, Repr

/-- Completed entries of a ring in a statistics window (R417). -/
structure RingStat where
  wait  : Nat
  run   : Nat
  count : Nat
  deriving DecidableEq, Repr

/-- STATE of PWR_STS but for S1 and S2, which follow from activity (R419). -/
inductive Sleep where
  | s0 | s3 | s4 | entering | exiting
  deriving DecidableEq, Repr

/-- The PWR and CLK blocks and the Monarch controller's power management. -/
structure Power where
  plvl     : List Nat          -- frequency level in force, by group
  volt     : List Nat          -- level whose voltage the rails carry
  goal     : List Nat          -- newest target
  seq      : List SeqStep
  avs      : List AvsFrame     -- frames in order; the first is on the bus
  throttle : Nat
  policy   : Policy
  polBusy  : Bool
  polRes   : Nat
  avg      : Nat               -- 1 s average in mW, times 10,000
  last     : Nat               -- last measurement, mW
  temps    : List Int
  calm     : Nat               -- measurements in a row that permit a raise
  winSum   : Nat               -- sum of the measurements of the current 10 ms window
  winN     : Nat
  hot      : Bool              -- first thermal stage: THERM_N is asserted
  stats    : Nat               -- statistics windows written
  ringStat : Tbl RingStat
  sleep    : Sleep
  deep     : Nat               -- 3 or 4: the state being entered or left
  slpRes   : Nat
  wakeSrc  : Nat
  wakePin  : Nat
  saved    : List Nat          -- levels when the entry began
  wakeHeld : Option (Nat × Nat)  -- an exit cause met during an entry, with its pin
  levels   : Nat               -- sampled levels of WAKE_IN
  rosWake  : Nat               -- PWR_WAKE_STS as last copied (R11 ROS, R427)
  rosTrim  : Nat               -- CLK_TRIM as last copied: CODE, REF, LOCKED, HOLD in their places
  gated    : List Nat          -- idle units whose clock is gated: cluster c, 8 + core k, 72 + pipe, 76 + channel
  trim     : Nat
  trimRef  : Bool
  trimLock : Bool
  trimHold : Bool
  fallback : Nat               -- CLK_MON_STS.FALLBACK
  locking  : List Nat          -- sources whose PLL is locking
  failedOnce : Nat             -- sources that have failed since they last locked well
  gateReg  : Nat               -- CLK_GATE_STS.REG
  deriving DecidableEq, Repr

/-! ## Resets, dies and time -/

/-- TOP_DIE_ID_d but for EXCL (R458). -/
structure DieId where
  rev      : Nat
  ucode    : Nat
  reloaded : Bool
  hash     : List Byte         -- SHA-384 of the microcode as loaded
  deriving DecidableEq, Repr

/-- The RST block and what TOP shows of the dies. -/
structure Resets where
  result  : Nat
  busy    : Option (Nat × Nat)   -- KIND and INDEX of a reset in progress
  dieDown : Tbl Nat              -- a die in reset: 1 + its cause
  dies    : Tbl DieId
  skew    : Tbl Int              -- at the last pulse, by die
  resyncs : Nat
  marks   : List (Nat × Nat)     -- die and time of its TIME_SKEW corrections
  replays : Tbl Nat              -- failed replays in a row, by link
  deriving DecidableEq, Repr

/-! ## Bring-up -/

/-- Where the sequence of R471 stands; dark: PWROK is low. -/
inductive BootStep where
  | dark | xtal | pll | rom | up
  deriving DecidableEq, Repr

/-- MON_STS.STAGE. -/
inductive BootStage where
  | romWait | verifying | bootFail | fwInit | ready
  deriving DecidableEq, Repr

/-- Bring-up, straps, pins and the verified image. -/
structure Boot where
  step    : BootStep
  straps  : Nat
  perst   : Bool               -- PERST_N is asserted
  link    : Bool               -- the host link is trained
  stage   : BootStage
  result  : Nat
  tries   : Nat
  boots   : Nat                -- images booted so far: alias keys made (R392)
  svn     : Nat
  fwHash  : List Byte          -- measurement 2
  deriving DecidableEq, Repr

/-- The TAP (R476, R477): current instruction, preloaded cells, the data register last captured. -/
structure Tap where
  ir      : Byte
  preload : BitVec 40
  dr      : Nat
  deriving DecidableEq, Repr

/-- The code that ends a reply of the Staquin monitor (R478). -/
inductive MonCode where
  | ok | syntaxErr | range | level | busy | overrun
  deriving DecidableEq, Repr

/-- A reply: its values in order, and its code. -/
structure MonReply where
  vals : List Nat
  code : MonCode
  deriving DecidableEq, Repr

/-- The Staquin monitor. -/
structure Monitor where
  baud    : Nat
  token   : List Byte
  replies : List MonReply
  deriving DecidableEq, Repr

/-! ## Attestation and the host link's security -/

/-- A secured session (R391). -/
structure Session where
  id    : Nat
  open' : Bool                 -- FINISH has been answered
  keys  : Nat                  -- key updates
  deriving DecidableEq, Repr

/-- What the device answers over DOE (R391 to R398). -/
inductive SpdmReply where
  | version | capabilities | algorithms
  | digests (d : List Byte)
  | certificate (part : List Byte) (rest : Nat)
  | challengeAuth (chain summary nonce sig : List Byte)
  | measurements (count : Nat) (blocks : List (Nat × List Byte)) (sig : List Byte)
  | keyExchange (session : Nat) (sig : List Byte)
  | finish | heartbeat | keyUpdate | endSession
  | vendor (bytes : List Byte)
  | ideKm (ok : Bool)
  | tdispVersion
  | tdiState (st : Nat)
  | tdiReport (fields : List Nat)
  | tdiOk | tdiError
  | doeProtocol (kind next : Nat)
  | error (code : Nat)
  deriving DecidableEq, Repr

/-- An IDE stream (R394). -/
structure IdeStream where
  keyed  : Bool
  secure : Bool
  deriving DecidableEq, Repr

/-- TDISP states, with their codes 0 to 3. -/
inductive TdiState where
  | unlocked | locked | run | error
  deriving DecidableEq, Repr

/-- A TDI (R395, R396). -/
structure Tdi where
  st     : TdiState
  stream : Option Nat
  deriving DecidableEq, Repr
/-- The security engine (R374 to R401). -/
structure Sec where
  pinned  : List Nat           -- masters frozen by a pin (R382)
  logged  : List Nat           -- masters whose pin was only recorded (R385)
  recs    : List (Nat × PinRec)
  heldRecs : List (Nat × PinRec)  -- records that wait for the SEC block (R447)
  pinBusy : Option Nat         -- the master that SEC_PIN_CMD acts on
  pinRes  : Nat
  flr     : List Nat           -- contexts of a function-level reset, released once RETIRED (R397)
  lcBurn  : Option Nat         -- lifecycle written to the fuses since manufacture
  lcNow   : Option Nat         -- lifecycle in force where it is not Config.lifecycle
  rmaOk   : Bool               -- an RMA token was accepted in this power cycle
  debug   : Nat
  debugEnd : Nat
  tokens  : Bool               -- a token was accepted since reset
  nonce   : Option (List Byte × Nat)   -- issued nonce and its time
  nonces  : Nat
  debugLog : List Byte         -- measurement 6
  svnBurn : Option Nat         -- fused minimum SVN raised by COMMIT_SVN
  spdm    : Nat                -- connection: 1 after GET_VERSION, 2 capabilities, 3 algorithms
  sessions : List Session
  sessionNo : Nat
  replies : List SpdmReply     -- answers sent over DOE, oldest first
  ide     : Tbl IdeStream
  tdi     : Tbl Tdi
  deriving DecidableEq, Repr

/-! ## Defaults -/

/-- A context that is FREE. -/
def Ctx.freeCtx : Ctx :=
  { state := .free, cmd := none, gen := 0, ptRoot := none, fqBase := none, fqLog2 := 4,
    vector := 0, drain := false, plainOk := false, ftz := false, prot := false, prod := 0,
    lost := 0, key := none, reason := .ownerGone, dir := none, drainDone := false }

/-- Context 0 after reset: ACTIVE, with no page table until its first RELOAD (R40). -/
def Ctx.zeroCtx : Ctx := { Ctx.freeCtx with state := .active }

/-- A ring that has never been enabled. -/
def Ring.off : Ring :=
  { state := .disabled, base := 0, rcb := 0, type := 0, prio := 0, log2 := 4, pollIdle := false,
    ctx := 0, vector := 0, halt := 0, prod := 0, cons := 0, completed := 0, done := [], dup := 0,
    compLost := 0, cmd := none, reads := [], dupWait := false, limit := none, stopped := false,
    lastPoll := 0 }

/-- A FREE fence. -/
def Fence.freeFence : Fence :=
  { st := .free, value := 0, ignored := 0, reason := none, owner := 0, notify := false,
    pageSig := false, pageErr := false, timeout := 0, cookie := 0, alloc := 0, changed := 0,
    imports := [], slots := [], evLast := none, evHeld := false }

/-- An empty L2; every slice's replacement register holds 0x1D2B (R201). -/
def L2.empty : L2 :=
  { lines := [], misses := [], wc := [], lfsr := [], op := none, skipped := 0 }

/-- Counts that start at 0. -/
def QueueCnt.zero : QueueCnt := { prod := 0, lost := 0 }

/-- An open crossing at epoch 0. -/
def Crossing.opened : Crossing := { severed := false, epoch := 0 }

/-- An idle reshard engine. -/
def Reshard.idleEngine : Reshard :=
  { state := .idle, result := 0, ctx := 0, base := 0, entries := 0, trigEn := false, trig := (0, 0),
    trigValue := 0, doneFence := (0, 0), doneValue := 0, next := 0, begun := [], ended := [], failed := 0,
    aborting := false, satisfied := false, slotWait := false, armWait := false }

def LayerTabs.none' : LayerTabs := { scaler := [], csc := [], lin := [], gamut := [], enc := [] }

/-- A layer that is disabled. -/
def Layer.off : Layer :=
  { rec' := List.replicate 128 0, tabs := LayerTabs.none', faulted := false, lateClear := false, prot := false }

/-- A pipe that is OFF. -/
def Pipe.off : Pipe :=
  { st := .off, stage := 0, shown := 0, stop := false, frame := 0, line := 0, due := false, fired := [], ctx := 0, gen := 0, seq := 0,
    rec' := List.replicate 128 0, lut := [], table := [], wbFence := none, events := [],
    layers := List.replicate 8 Layer.off, pend := none, underrun := 0,
    fetchFault := 0, warpLate := 0, poseTorn := 0, protBlocked := 0, wbFault := 0,
    late := List.replicate 8 0, protNow := false, pose := List.replicate 9 0, poseReads := [],
    bandsFired := 0, bands := [], lateBands := [], wbDrop := false, wbNoted := false, wbPend := [], hdr := [],
    out := [], aux := none, auxSent := [], auxRes := 0 }

/-- The default policy of R410; it names no ORDER, no FLAGS and no IDLE_GATE_US. -/
def Policy.default' : Policy :=
  { sustained := 45, peak := 210, tj := Config.tjMaxQuarter - 20, autoExit := false, idleGate := 10,
    fastest := [0, 0, 0, 0], slowest := [7, 7, 7, 7], order := [0, 1, 2, 3], weights := [], statsVa := 0 }

def RingStat.zero : RingStat := { wait := 0, run := 0, count := 0 }

/-- Power management after reset: every group at P7 (R409). -/
def Power.cold : Power :=
  { plvl := [7, 7, 7, 7], volt := [7, 7, 7, 7], goal := [7, 7, 7, 7], seq := [.idle, .idle, .idle, .idle], avs := [], throttle := 0,
    policy := Policy.default', polBusy := false, polRes := 0, avg := 0, last := 0, temps := [], calm := 0, winSum := 0, winN := 0, hot := false,
    stats := 0, ringStat := [], sleep := .s0, deep := 0, slpRes := 0, wakeSrc := 0, wakePin := 0, saved := [], wakeHeld := none,
    levels := 0, rosWake := 0, rosTrim := 0x800, gated := [], trim := 0x800, trimRef := false, trimLock := false, trimHold := false, fallback := 0, locking := [],
    failedOnce := 0, gateReg := 0 }

def DieId.none' : DieId := { rev := 0, ucode := 0, reloaded := false, hash := List.replicate 48 0 }

def Resets.none' : Resets :=
  { result := 0, busy := none, dieDown := [], dies := [], skew := [], resyncs := 0, marks := [], replays := [] }

/-- Before PWROK rises. -/
def Boot.dark : Boot :=
  { step := .dark, straps := 0, perst := true, link := false, stage := .romWait, result := 0, tries := 0, boots := 0, svn := 0, fwHash := List.replicate 48 0 }

/-- The TAP in Test-Logic-Reset, with IDCODE (R476). -/
def Tap.reset' : Tap := { ir := 1, preload := 0, dr := 0 }

def Monitor.idle : Monitor := { baud := 115200, token := [], replies := [] }

def IdeStream.none' : IdeStream := { keyed := false, secure := false }

def Tdi.none' : Tdi := { st := .unlocked, stream := none }

/-- The security engine before its boot. -/
def Sec.cold : Sec :=
  { pinned := [], logged := [], recs := [], heldRecs := [], pinBusy := none, pinRes := 0, flr := [], lcBurn := none, lcNow := none, rmaOk := false,
    debug := 0, debugEnd := 0, tokens := false, nonce := none, nonces := 0, debugLog := List.replicate 48 0, svnBurn := none, spdm := 0,
    sessions := [], sessionNo := 0, replies := [], ide := [], tdi := [] }

/-! ## The state -/

/-- Why a command stops the machine. No command of the device does: the spec gives every event an
effect, and every error a record in the state. -/
inductive Fault where
  /-- Raised by no meaning; kept so that the type of outcomes has its three cases. Safe. -/
  | none
  deriving DecidableEq, Repr

/-- Why a command has no meaning. -/
inductive Refusal where
  /-- Raised by exec for a command that the model does not give a meaning. Safe. -/
  | notModelled (mnemonic : String)
  deriving DecidableEq, Repr

/-- The device. -/
structure State where
  mem  : MemSys
  mmu  : Mmu
  fe   : FrontEnd
  fen  : FenceSys
  reg  : RegSys
  err  : ErrSys
  unit : Units
  sec  : Sec
  tns  : Tensors
  rsh  : Tbl Reshard           -- by die
  shd  : Shaders
  rnd  : Renders
  dsp  : Displays
  cmp  : Cmps
  pwr  : Power
  rst  : Resets
  boot : Boot
  tap  : Tap
  mon  : Monitor
  time : Nat                   -- the 1 GHz timestamp (R459)
  free : Nat                   -- the model's own: free values used so far
  pending : List Instr         -- commands that wait, first in first out
  deriving DecidableEq, Repr

/-- The device right after a device reset. -/
def State.reset : State :=
  { mem := { cells := [], keyTag := [], l2 := [], owners := [], clearing := [], locked := false,
             hostErr := [], bars := [], missId := 0, posted := [], records := [], metaErrs := [] },
    mmu := { ctxs := [], results := [], utlb := [], dtlb := [], walks := [], queue := [],
             walkId := 0, inval := [], reloadLoads := [], invRes := [], serial := 0, reserve := 64, entropy := true },
    fe := { rings := [], results := [], entries := [], versions := [], copies := [] },
    fen := { fences := [], queue := [], allocs := 0, evq := [], results := [] },
    reg := { regs := [], unlock := [], denied := [], mismatch := [], parityRefused := false,
             held := [], slowHeld := [], latch := [], vecs := [], pba := [], msgs := [] },
    err := { entries := [], seq := 0, overflow := 0, lost := false, escalated := false,
             dieLost := false, thermal2 := false, crossings := [] },
    unit := { diePresent := [], clusterPresent := [], booted := [], degraded := false, memGib8 := 0,
              excluded := [], waking := [], clearFail := [], power := [] },
    sec := Sec.cold,
    tns := { runs := [], sip := none, narrow := [], issue := [], stall := [] },
    rsh := [],
    shd := { runs := [], wgs := [], groups := [], l1 := [], parkq := [], held := [], tag := 0, loadNo := 0, parkRes := [] },
    rnd := { passes := [], tiles := [] },
    dsp := { pipes := [], hpd := [], reports := [] },
    cmp := { queue := [], runs := [] },
    pwr := Power.cold, rst := Resets.none', boot := Boot.dark, tap := Tap.reset', mon := Monitor.idle,
    time := 0, free := 0, pending := [] }

end Sys2Proof.Machine
end

