-- ==== Sys2Proof/Machine/Ops.lean ====
section
/-! DEFINITION. Shared operations: sparse tables in canonical form, little-endian bytes (R7), the
groups of the state, stored register fields and free values. -/

namespace Sys2Proof.Machine

open Sys2Proof

/-! ## Sparse tables -/

/-- The value of a key, or the default for a key not listed. -/
def tblGet {α : Type} (d : α) : Tbl α → Nat → α
  | [], _ => d
  | (k', v) :: t, k => if k = k' then v else tblGet d t k

/-- Lists a key before the first greater one. -/
def tblPut {α : Type} (k : Nat) (v : α) : Tbl α → Tbl α
  | [] => [(k, v)]
  | e :: t => if k < e.1 then (k, v) :: e :: t else e :: tblPut k v t

/-- Sets a key; a key at the default is not listed, and keys stay strictly rising. In a table of any form
the key then reads as it was set, and every other key as before. -/
def tblSet {α : Type} [DecidableEq α] (d : α) (t : Tbl α) (k : Nat) (v : α) : Tbl α :=
  let t := t.filter fun e => e.1 ≠ k
  if v = d then t else tblPut k v t

/-- The canonical form: keys strictly rising, no value at the default. -/
def tblWf {α : Type} [DecidableEq α] (d : α) : Tbl α → Bool
  | [] => true
  | [(_, v)] => decide (v ≠ d)
  | (k, v) :: (k', v') :: t => decide (v ≠ d) && decide (k < k') && tblWf d ((k', v') :: t)

/-- Drops the keys that a test names. -/
def tblDrop {α : Type} (p : Nat → Bool) (t : Tbl α) : Tbl α := t.filter (fun e => !p e.1)

/-! ## Bytes -/

/-- A little-endian number (R7). -/
def leNat : List Byte → Nat
  | [] => 0
  | b :: bs => b.toNat + 256 * leNat bs

/-- The n little-endian bytes of a number (R7). -/
def natLe : Nat → Nat → List Byte
  | 0, _ => []
  | n + 1, v => BitVec.ofNat 8 v :: natLe n (v / 256)

/-- An n-byte field of a record at a byte offset. -/
def fld (bs : List Byte) (off n : Nat) : Nat := leNat ((bs.drop off).take n)

/-- n bytes of a record at a byte offset; bytes past its end are 0. -/
def slice (bs : List Byte) (off n : Nat) : List Byte :=
  (bs.drop off).take n ++ List.replicate (n - ((bs.drop off).take n).length) 0

/-- Every byte of a part of a record is 0 (R9). -/
def zeros (bs : List Byte) (off n : Nat) : Bool := ((bs.drop off).take n).all (· = 0)

/-- Bits [hi:lo] of a number. -/
def bits (v hi lo : Nat) : Nat := v / 2 ^ lo % 2 ^ (hi + 1 - lo)

/-- Bit i of a number. -/
def bit (v i : Nat) : Bool := decide (v / 2 ^ i % 2 = 1)

/-- 1 for true. -/
def b2n (b : Bool) : Nat := if b then 1 else 0

/-- A 64-bit value. -/
def q64 (n : Nat) : Quad := BitVec.ofNat 64 n

/-- A 32-bit register word. -/
def w32 (n : Nat) : Word := BitVec.ofNat 32 n

/-- Numbers 0 to n - 1. -/
def upTo (n : Nat) : List Nat := List.range n

/-- Replaces the bytes of a record from an offset. -/
def splice (bs : List Byte) (off : Nat) (new : List Byte) : List Byte :=
  bs.take off ++ new ++ bs.drop (off + new.length)

/-! ## Groups of the state -/

def State.onMem (f : MemSys → MemSys) (s : State) : State := { s with mem := f s.mem }
def State.onMmu (f : Mmu → Mmu) (s : State) : State := { s with mmu := f s.mmu }
def State.onFe (f : FrontEnd → FrontEnd) (s : State) : State := { s with fe := f s.fe }
def State.onFen (f : FenceSys → FenceSys) (s : State) : State := { s with fen := f s.fen }
def State.onReg (f : RegSys → RegSys) (s : State) : State := { s with reg := f s.reg }
def State.onErr (f : ErrSys → ErrSys) (s : State) : State := { s with err := f s.err }
def State.onUnit (f : Units → Units) (s : State) : State := { s with unit := f s.unit }
def State.onSec (f : Sec → Sec) (s : State) : State := { s with sec := f s.sec }
def State.onTns (f : Tensors → Tensors) (s : State) : State := { s with tns := f s.tns }

def State.onShd (f : Shaders → Shaders) (s : State) : State := { s with shd := f s.shd }

def State.onRnd (f : Renders → Renders) (s : State) : State := { s with rnd := f s.rnd }

def State.onDsp (f : Displays → Displays) (s : State) : State := { s with dsp := f s.dsp }

def State.onCmp (f : Cmps → Cmps) (s : State) : State := { s with cmp := f s.cmp }

def State.onPwr (f : Power → Power) (s : State) : State := { s with pwr := f s.pwr }

def State.onRst (f : Resets → Resets) (s : State) : State := { s with rst := f s.rst }

def State.onBoot (f : Boot → Boot) (s : State) : State := { s with boot := f s.boot }

def State.onTap (f : Tap → Tap) (s : State) : State := { s with tap := f s.tap }

def State.onMon (f : Monitor → Monitor) (s : State) : State := { s with mon := f s.mon }

/-! ## Tables of the state -/

def ctxDefault (n : Nat) : Ctx := if n = 0 then Ctx.zeroCtx else Ctx.freeCtx

/-- Context n. -/
def State.ctx (s : State) (n : Nat) : Ctx := tblGet (ctxDefault n) s.mmu.ctxs n

def State.setCtx (n : Nat) (c : Ctx) (s : State) : State :=
  s.onMmu fun m => { m with ctxs := tblSet (ctxDefault n) m.ctxs n c }

/-- Ring r. -/
def State.ring (s : State) (r : Nat) : Ring := tblGet Ring.off s.fe.rings r

def State.setRing (r : Nat) (x : Ring) (s : State) : State :=
  s.onFe fun f => { f with rings := tblSet Ring.off f.rings r x }

/-- Fence of the table: local n at n, shared n at 65,536 + n. -/
def State.fence (s : State) (n : Nat) : Fence := tblGet Fence.freeFence s.fen.fences n

def State.setFence (n : Nat) (x : Fence) (s : State) : State :=
  s.onFen fun f => { f with fences := tblSet Fence.freeFence f.fences n x }

/-- Key of shared fence n. -/
def sharedKey (n : Nat) : Nat := 65536 + n

/-- Reshard engine of die d. -/
def State.plan (s : State) (d : Nat) : Reshard := tblGet Reshard.idleEngine s.rsh d

def State.setPlan (d : Nat) (x : Reshard) (s : State) : State :=
  { s with rsh := tblSet Reshard.idleEngine s.rsh d x }

/-- Display pipe p. -/
def State.pipe (s : State) (p : Nat) : Pipe := tblGet Pipe.off s.dsp.pipes p

def State.setPipe (p : Nat) (x : Pipe) (s : State) : State :=
  s.onDsp fun d => { d with pipes := tblSet Pipe.off d.pipes p x }

def State.onPipe (p : Nat) (f : Pipe → Pipe) (s : State) : State := s.setPipe p (f (s.pipe p))

/-- L2 of die d. -/
def State.l2 (s : State) (d : Nat) : L2 := tblGet L2.empty s.mem.l2 d

def State.setL2 (d : Nat) (x : L2) (s : State) : State :=
  s.onMem fun m => { m with l2 := tblSet L2.empty m.l2 d x }

/-- Power of cluster c (key c), core k (8 + k) or die d (72 + d). -/
def State.power (s : State) (u : Nat) : UnitPower := tblGet .off s.unit.power u

def State.setPower (u : Nat) (p : UnitPower) (s : State) : State :=
  s.onUnit fun x => { x with power := tblSet .off x.power u p }

def State.crossing (s : State) (n : Nat) : Crossing := tblGet Crossing.opened s.err.crossings n

def State.setCrossing (n : Nat) (x : Crossing) (s : State) : State :=
  s.onErr fun e => { e with crossings := tblSet Crossing.opened e.crossings n x }

def State.isPinned (s : State) (m : Nat) : Bool := s.sec.pinned.contains m

def State.diePresent (s : State) (d : Nat) : Bool := decide (tblGet 0 s.unit.diePresent d = 1)
def State.clusterPresent (s : State) (c : Nat) : Bool :=
  decide (tblGet 0 s.unit.clusterPresent c = 1)

/-! ## Stored register fields -/

/-- Key of a register of a function. -/
def regKey (fn off : Nat) : Nat := fn * 2 ^ 26 + off

/-- The stored fields of a register: reset value until written. -/
def State.raw (s : State) (fn off : Nat) : Word := tblGet (regReset off) s.reg.regs (regKey fn off)

def State.setRaw (fn off : Nat) (w : Word) (s : State) : State :=
  s.onReg fun g => { g with regs := tblSet (regReset off) g.regs (regKey fn off) w }

/-- Field [hi:lo] of a stored register. -/
def State.rawBits (s : State) (fn off hi lo : Nat) : Nat := bits (s.raw fn off).toNat hi lo

/-- A register in parity mismatch halts its block (R445, R447). -/
def State.halted (s : State) (b : BlockId) : Bool :=
  s.reg.mismatch.any fun e => match blockAt (e.1 % 2 ^ 26) with
    | some (b', _) => decide (b' = b)
    | none => false

/-- A 49-bit base held in a LO and a HI register. -/
def State.rawBase (s : State) (fn lo hi : Nat) : Nat :=
  (s.raw fn lo).toNat + 2 ^ 32 * (s.raw fn hi).toNat

/-- Clock gate of a cluster, and of a core (R433). -/
def clkCluster (s : State) (c : Nat) : Bool := bit (s.raw 0 0x020004).toNat c

def clkCore (s : State) (k : Nat) : Bool := bit (s.raw 0 (0x020008 + 4 * (k / 32))).toNat (k % 32)

/-- A unit that RST_CMD is resetting, by KIND and INDEX (R457). -/
def inReset (s : State) (kind idx : Nat) : Bool := decide (s.rst.busy = some (kind, idx))

/-- A cluster, or a core with its cluster, is out of reset and its crossing is open (R454 to R457). -/
def clusterUp (s : State) (c : Nat) : Bool := !inReset s 3 c && !(s.crossing (80 + c)).severed

def coreUp (s : State) (k : Nat) : Bool := !inReset s 0 k && !(s.crossing (16 + k)).severed && clusterUp s (k / 8)

/-! ## Free values -/

/-- The next free value, and the state after its use. -/
def State.fresh (s : State) : Quad × State :=
  (Config.freeValue s.free, { s with free := s.free + 1 })

/-! ## Lists -/

/-- Replaces the elements that a test names. -/
def mapIf {α : Type} (p : α → Bool) (f : α → α) (l : List α) : List α :=
  l.map fun a => if p a then f a else a

/-- Applies a state change for each element of a list, in order. -/
def eachDo {α : Type} (l : List α) (f : α → State → State) (s : State) : State :=
  l.foldl (fun s a => f a s) s

/-- Is bit n of a list-valued set. -/
def nats (p : Nat → Bool) (n : Nat) : List Nat := (upTo n).filter p

end Sys2Proof.Machine
end

