-- ==== Sys2Proof/Machine/Sleep.lean ====
section
/-! DEFINITION. What every chapter needs of time and power: interrupt messages (R125), the P-level
sequencer (R405 to R408), the start of an exit from a sleep state (R425, R426), wake levels (R427),
and the passing of time with the slow clock (R444). -/

namespace Sys2Proof.Machine

open Sys2Proof

/-! ## Vectors -/

def msixOff (vec : Nat) : Nat := 0x0E8000 + 16 * vec

/-- Sends an MSI-X message, or holds it pending while the vector is masked (R125). -/
def deliver (fn vec : Nat) (s : State) : State :=
  let o := msixOff vec
  if (s.raw fn (o + 12)).toNat % 2 = 1 then
    s.onReg fun g => { g with pba := tblSet 0 g.pba (fn * 2048 + vec) 1 }
  else
    let m : MsiMsg := { fn, vec, addr := s.rawBase fn o (o + 4), data := (s.raw fn (o + 8)).toNat }
    s.onReg fun g => { g with msgs := g.msgs ++ [m], pba := tblSet 0 g.pba (fn * 2048 + vec) 0 }

/-- Raises a source's vector, at most once per microsecond (R124); a raise that comes too early is
held, and covers what came meanwhile. -/
def raiseSrc (src : VecSource) (fn vec : Nat) (s : State) : State :=
  match s.reg.vecs.find? fun h => h.src = src with
  | none => deliver fn vec (s.onReg fun g => { g with vecs := g.vecs ++ [{ src, last := s.time, pend := none }] })
  | some h =>
    if s.time < h.last + 1000 then
      s.onReg fun g => { g with vecs := mapIf (fun h => h.src = src) (fun h => { h with pend := some (fn, vec) }) g.vecs }
    else
      deliver fn vec (s.onReg fun g => { g with vecs := mapIf (fun h => h.src = src) (fun h => { h with last := s.time, pend := none }) g.vecs })

/-- Raises the vector that a source has been given; vector 0 is no source's own. -/
def raiseVec (src : VecSource) (fn vec : Nat) (s : State) : State := if vec = 0 then s else raiseSrc src fn vec s

/-- Raises vector 0 of a function: its critical event (R124). -/
def raiseCritical (fn : Nat) (s : State) : State := if h : fn < 64 then raiseSrc (.critical ⟨fn, h⟩) fn 0 s else s

/-! ## The P-level sequencer -/

/-- AVSBus rails of a voltage group (R403, R406). -/
def groupRails (g : Nat) : List Nat := [[0], [1], [2, 3], [4]].getD g []

/-- Voltage of a P-level in mV (R402). -/
def levelMv (lv : Nat) : Nat := [850, 800, 760, 720, 680, 640, 600, 550].getD lv 550

def plvlOf (s : State) (g : Nat) : Nat := s.pwr.plvl.getD g 7
def voltOf (s : State) (g : Nat) : Nat := s.pwr.volt.getD g 7
def goalOf (s : State) (g : Nat) : Nat := s.pwr.goal.getD g 7
def seqOf (s : State) (g : Nat) : SeqStep := s.pwr.seq.getD g .idle

def setSeq (g : Nat) (x : SeqStep) (s : State) : State := s.onPwr fun p => { p with seq := p.seq.set g x }

/-- Queues the voltage writes of one step: a frame for each rail of the group (R406). -/
def writeVolt (g lv : Nat) (s : State) : State :=
  s.onPwr fun p => { p with avs := p.avs ++ (groupRails g).map fun r => { group := g, rail := r, read := false, mv := levelMv lv } }

/-- The step that follows, from the level in force towards the newest target (R405, R408). A target
whose voltage the rails carry needs its confirming reads only. -/
def nextStep (g : Nat) (s : State) : State :=
  let a := plvlOf s g
  let b := goalOf s g
  if a < b then setSeq g (.lowerFreq b) s
  else if b < a then setSeq g (.raiseVolt b (groupRails g).length) (writeVolt g b s)
  else if voltOf s g ≠ a then setSeq g (.lowerVolt a (groupRails g).length) (writeVolt g a s)
  else setSeq g .idle s

/-- A new target of a group; a change in progress first ends its current step (R408). -/
def setGoal (g lv : Nat) (s : State) : State :=
  let s := s.onPwr fun p => { p with goal := p.goal.set g lv }
  if seqOf s g = .idle ∧ lv ≠ plvlOf s g then nextStep g s else s

/-! ## Sleep states -/

/-- In S0 to S2. -/
def awake (s : State) : Bool := decide (s.pwr.sleep = .s0)

/-- In S3, where cluster 0 core 0, tensor array 0, pipe A and the front end still work. -/
def inS3 (s : State) : Bool := decide (s.pwr.sleep = .s3)

/-- The L2s hold no lines and pass every request through (R421), until the exit has cleared them. -/
def passThrough (s : State) : Bool := inS3 s || (decide (s.pwr.sleep = .exiting) && decide (s.pwr.deep = 3))

def offWakeCfg : Nat := 0x030020
def offWakeSts : Nat := 0x030024

/-- Sets status bits of PWR_WAKE_STS. -/
def wakeBits (m : Word) (s : State) : State := s.setRaw 0 offWakeSts (s.raw 0 offWakeSts ||| m)

/-- A cause of an exit: 1 pin, 2 host link, 3 op, 4 memory request, 5 critical event. In S3 or S4 the
exit starts, and every group heads for the level that it had when the entry began; during an entry
the exit starts once the entry is complete (R425, R426). -/
def startExit (src pin : Nat) (s : State) : State :=
  match s.pwr.sleep with
  | .s3 | .s4 =>
    let s := s.onPwr fun p => { p with sleep := .exiting, wakeHeld := some (src, pin) }
    let s := if src = 2 then wakeBits 0x100 s else s
    (upTo 4).foldl (fun s g => setGoal g (s.pwr.saved.getD g 7) s) s
  | .entering => s.onPwr fun p => { p with wakeHeld := p.wakeHeld.or (some (src, pin)) }
  | _ => s

/-- Work that needs a unit that S3 has off: with AUTO_EXIT the package exits, without it the work
waits (R424). -/
def wantsExit (s : State) : State := if s.pwr.policy.autoExit then startExit 3 0 s else s

/-- A request to a channel in self-refresh waits, the package exits, and it is then served (R424).
The model serves it as the exit starts: package memory keeps its contents. -/
def wakeChannel (ch : Nat) (s : State) : State := if inS3 s && decide (2 ≤ ch) then startExit 4 0 s else s

/-- Units whose clock S1 gates: cluster c, 8 + core k, 72 + pipe, 76 + channel. A gated unit that
receives work wakes (R419). -/
def ungate (us : List Nat) (s : State) : State :=
  s.onPwr fun p => { p with gated := p.gated.filter fun u => !us.contains u }

/-! ## Wake pins (R427) -/

def wakeVector (s : State) : Nat := s.rawBits 0 0x030000 26 16

/-- A wake event has set its bit: the vector in S0 to S2; in S3 and S4 an exit, at whose end the
vector is raised (R425, R427). -/
def wakeEvent (src pin : Nat) (s : State) : State :=
  match s.pwr.sleep with
  | .s0 => raiseVec .wake 0 (wakeVector s) s
  | _ => startExit src pin s

/-- EN, HIGH and LEVEL of a pin. -/
def pinEn (s : State) (i : Nat) : Bool := s.rawBits 0 offWakeCfg (4 * i) (4 * i) = 1
def pinHigh (s : State) (i : Nat) : Bool := s.rawBits 0 offWakeCfg (4 * i + 1) (4 * i + 1) = 1
def pinLevel (s : State) (i : Nat) : Bool := s.rawBits 0 offWakeCfg (4 * i + 2) (4 * i + 2) = 1

/-- Pins that are enabled, level-sensed and at their active level. -/
def levelPins (s : State) : List Nat :=
  (upTo 8).filter fun i => pinEn s i && pinLevel s i && decide (bit s.pwr.levels i = pinHigh s i)

/-- Level-sensed pins raise their events for as long as they are active. -/
def levelWakes (s : State) : State :=
  (levelPins s).foldl (fun s i =>
    if bit (s.raw 0 offWakeSts).toNat i then s else wakeEvent 1 i (wakeBits (w32 (2 ^ i)) s)) s

/-! ## Time -/

/-- Slow-clock edges up to time t: 1.2 MHz, one edge each 2,500 / 3 ns (R26 domain 3). -/
def slowEdges (t : Nat) : Nat := t * 3 / 2500

/-- CLK_TRIM's fields as the slow domain holds them. -/
def trimWord (p : Power) : Nat := p.trim + b2n p.trimRef * 2 ^ 16 + b2n p.trimLock * 2 ^ 17 + b2n p.trimHold * 2 ^ 18

/-- The slow-domain copies are refreshed (R11 ROS). -/
def rosRefresh (s : State) : State := s.onPwr fun p => { p with rosWake := (s.raw 0 offWakeSts).toNat + p.levels * 2 ^ 16, rosTrim := trimWord p }

/-- Held writes of domain 3 take effect at a slow-clock edge (R444), and the slow-domain copies are
refreshed. The bit of an active level-sensed pin stays set. -/
def slowApply (s : State) : State :=
  let cfg := tblGet 0 s.reg.slowHeld offWakeCfg
  let sts := tblGet 0 s.reg.slowHeld offWakeSts
  let s := if cfg = 0 then s else s.setRaw 0 offWakeCfg (w32 (cfg - 1) &&& 0x77777777)
  let keep := (levelPins s).foldl (fun m i => m ||| w32 (2 ^ i)) 0
  let s := if sts = 0 then s
    else s.setRaw 0 offWakeSts (s.raw 0 offWakeSts &&& (~~~(w32 (sts - 1)) ||| keep))
  rosRefresh (levelWakes (s.onReg fun g => { g with slowHeld := [] }))

/-- Time passes to t; time never runs back. -/
def advanceTo (t : Nat) (s : State) : State :=
  if t ≤ s.time then s
  else
    let s' := if slowEdges s.time < slowEdges t then slowApply s else s
    { s' with time := t }

/-- One nanosecond passes: what a step does when no command waits. -/
def tick (s : State) : State := advanceTo (s.time + 1) s

end Sys2Proof.Machine
end

