-- ==== Sys2Proof/Machine/Mem.lean ====
section
/-! DEFINITION. Memory after translation: the physical address map (R21, R24), the channel mapping
(R215, R216), inline encryption (R217, R377), the framebuffer codec (R296 to R302), the L2 of each
die (R206 to R214), region ownership (R197) and the host side of the host link. -/

namespace Sys2Proof.Machine

open Sys2Proof

/-! ## Cells -/

/-- What a cell that nothing has written reads as. -/
def cellDefault : Byte := 0

/-- The canonical form of the cell list. -/
def Memory.wf (cells : List Host.Cell) : Bool := tblWf cellDefault cells

def cellGet (a : Nat) (s : State) : Byte := tblGet cellDefault s.mem.cells a

def cellSet (a : Nat) (b : Byte) (s : State) : State :=
  s.onMem fun m => { m with cells := tblSet cellDefault m.cells a b }

/-- Stores consecutive bytes. -/
def cellsSet : Nat → List Byte → State → State
  | _, [], s => s
  | a, b :: bs, s => cellsSet (a + 1) bs (cellSet a b s)

def cellsGet (a n : Nat) (s : State) : List Byte := (upTo n).map fun i => cellGet (a + i) s

/-- What the host does around a device read (R78): its stores land, and its failing ranges hold. -/
def applyIO (io : HostIO) (s : State) : State :=
  let s := io.writes.foldl (fun s c => cellSet (2 ^ 48 + c.1 % 2 ^ 48) c.2 s) s
  s.onMem fun m => { m with hostErr := io.errs }

/-! ## The physical address map -/

/-- What a physical address names (R21). -/
inductive Target where
  | pkg (ch addr : Nat)
  | spm (c off : Nat)
  | tile (k off : Nat)
  | host (addr : Nat)
  | unmapped
  deriving DecidableEq, Repr

/-- The entry of a placement granule in force: 0 until APPLY; the upper half of a degraded package
is unpopulated (R47 to R49). -/
def granEntry (s : State) (g : Nat) : Nat :=
  if s.unit.degraded ∧ 128 ≤ g then 0xC0
  else if s.mem.locked then
    bits (s.raw 0 (0x070C00 + 4 * (g / 4))).toNat (8 * (g % 4) + 7) (8 * (g % 4))
  else 0

def entryClass (e : Nat) : Nat := bits e 7 6
def entryTarget (e : Nat) : Nat := bits e 4 0

/-- Channels of the address map: those of the dies that passed the checks at boot (R24). -/
def mapChannels (s : State) : List Nat :=
  (upTo 32).filter fun ch => s.unit.booted.contains (ch / 16)

/-- Channel-local granules of a channel below granule g. -/
def localBelow (s : State) (ch g : Nat) : Nat :=
  ((upTo g).filter fun h => let e := granEntry s h
    decide (entryClass e = 2) && decide (entryTarget e = ch)).length

/-- The package interleave set: channels without a channel-local granule (R48, R215). -/
def packageSet (s : State) : List Nat := (mapChannels s).filter fun ch => localBelow s ch 256 = 0

/-- The die interleave set of die d. -/
def dieSet (s : State) (d : Nat) : List Nat := (packageSet s).filter fun ch => ch / 16 = d

/-- Package-interleaved granules below g. -/
def packBelow (s : State) (g : Nat) : Nat :=
  ((upTo g).filter fun h => entryClass (granEntry s h) = 0).length

/-- Die-local granules of die d below g. -/
def dieBelow (s : State) (d g : Nat) : Nat :=
  ((upTo g).filter fun h => let e := granEntry s h
    decide (entryClass e = 1) && decide (entryTarget e = d)).length

/-- Bytes of each channel that a pool of n granules over m channels takes, in whole chunks. -/
def poolShare (n m : Nat) : Nat := if m = 0 then 0 else ((n * 2 ^ 20 + m - 1) / m) * 1024

/-- The channel and channel address of logical offset L of a pool (R216). -/
def interleave (set : List Nat) (base L : Nat) : Option (Nat × Nat) :=
  let m := set.length
  if m = 0 then none
  else
    let chunk := L / 1024
    let q := chunk / m
    match set[(chunk % m + q % m) % m]? with
    | some ch => some (ch, base + q * 1024 + L % 1024)
    | none => none

/-- The channel and channel address of a package address (R216). -/
def channelOf (s : State) (pa : Nat) : Option (Nat × Nat) :=
  let g := pa / 2 ^ 30
  let o := pa % 2 ^ 30
  let e := granEntry s g
  match entryClass e with
  | 0 => interleave (packageSet s) 0 (packBelow s g * 2 ^ 30 + o)
  | 1 => interleave (dieSet s (entryTarget e))
      (poolShare (packBelow s 256) (packageSet s).length)
      (dieBelow s (entryTarget e) g * 2 ^ 30 + o)
  | 2 => some (entryTarget e, localBelow s (entryTarget e) g * 2 ^ 30 + o)
  | _ => none

/-- What a physical address names, in the map in force (R21, R24, R47). -/
def target (s : State) (pa : Nat) : Target :=
  if 2 ^ 48 ≤ pa then .host (pa % 2 ^ 48)
  else if pa < s.unit.memGib8 * 2 ^ 33 then
    match channelOf s pa with
    | some (ch, a) => .pkg ch a
    | none => .unmapped
  else if 0x8000000000 ≤ pa ∧ pa < 0x8000000000 + 8 * 0x1000000 then
    let c := (pa - 0x8000000000) / 0x1000000
    if s.unit.booted.contains (c / 4) then .spm c (pa % 0x1000000) else .unmapped
  else if 0x8100000000 ≤ pa ∧ pa < 0x8100000000 + 64 * 0x40000 then
    let k := (pa - 0x8100000000) / 0x40000
    if s.unit.booted.contains (k / 32) then .tile k (pa % 0x40000) else .unmapped
  else .unmapped

/-! ## Inline encryption -/

/-- The tag under which an AES block is written: 0 for plaintext, and for every key ID under
SEC_CFG.XTS_BYPASS (R401); else the serial of the key and the unit's physical number, the tweak
(R377). -/
def cipherTag (s : State) (key pa : Nat) : Nat :=
  if key = 0 ∨ bit (s.raw 0 0x050008).toNat 0 then 0 else ((s.ctx key).key.getD 0) * 2 ^ 44 + pa / 32

/-- Cell address of a channel address. -/
def chanCell (ch addr : Nat) : Nat := ch * 2 ^ 33 + addr

def tagOf (s : State) (cell : Nat) : Nat := tblGet 0 s.mem.keyTag (cell / 16)

/-- One byte of a block as read under a tag (R217): its plaintext only under the tag it was written. -/
def dramByte (tag pa cell : Nat) (s : State) : Byte :=
  let t := tagOf s cell
  let b := cellGet cell s
  if t = tag then b else Config.cipherByte t tag pa b

/-- A read of n bytes of package memory at pa, at the memory controller. -/
def dramRead (key pa n : Nat) (s : State) : List Byte :=
  (upTo n).map fun i => match channelOf s (pa + i) with
    | some (ch, a) => dramByte (cipherTag s key (pa + i)) (pa + i) (chanCell ch a) s
    | none => 0

/-- The AES block of a cell is taken under a tag before part of it is written: under a key, as the
read before a partial write returns it; under key ID 0, as the stored ciphertext that a masked write
leaves (R217). The other block of the unit keeps its ciphertext either way: what a key decrypts and
encrypts again is unchanged. -/
def retag (tag pa cell : Nat) (s : State) : State :=
  if tagOf s cell = tag then s
  else
    let c0 := cell / 16 * 16
    let p0 := pa / 16 * 16
    let bs := (upTo 16).map fun i => dramByte tag (p0 + i) (c0 + i) s
    let s := cellsSet c0 bs s
    s.onMem fun m => { m with keyTag := tblSet 0 m.keyTag (cell / 16) tag }

/-- A write at the memory controller. -/
def dramWrite (key : Nat) : Nat → List Byte → State → State
  | _, [], s => s
  | pa, b :: bs, s =>
    let s := match channelOf s pa with
      | some (ch, a) =>
        let cell := chanCell ch a
        cellSet cell b (retag (cipherTag s key pa) pa cell s)
      | none => s
    dramWrite key (pa + 1) bs s

/-! ## The framebuffer codec -/

/-- Base of the metadata table (R296). -/
def fbcBase (s : State) : Nat := s.rawBase 0 0x070D10 0x070D14

/-- First frame that the table does not cover. -/
def fbcLimit (s : State) : Nat := s.rawBits 0 0x070D18 8 0 * 2 ^ 18

/-- Byte channel c of word i of a block (R300). -/
def blkByte (bs : List Byte) (c i : Nat) : Nat := (bs.getD (4 * i + c) 0).toNat

def fbcPred (i : Nat) : Nat := if i % 8 ≠ 0 then i - 1 else i - 8

/-- z[c][i] of R300. -/
def fbcZ (bs : List Byte) (c i : Nat) : Nat :=
  let d := (blkByte bs c i + 256 - blkByte bs c (fbcPred i)) % 256
  if d < 128 then 2 * d else 2 * (256 - d) - 1

/-- Bit length of a number. -/
def bitLen (n : Nat) : Nat := if n = 0 then 0 else Nat.log2 n + 1

/-- k[c] of R300. -/
def fbcK (bs : List Byte) (c : Nat) : Nat :=
  bitLen (((upTo 63).map fun i => fbcZ bs c (i + 1)).foldl Nat.max 0)

/-- Packs (value, width) pairs from bit 0 upward. -/
def packBits : List (Nat × Nat) → Nat
  | [] => 0
  | (v, k) :: l => v % 2 ^ k + 2 ^ k * packBits l

/-- Size in bytes of the compressed form of R300. -/
def fbcSize (bs : List Byte) : Nat :=
  8 + (63 * (fbcK bs 0 + fbcK bs 1 + fbcK bs 2 + fbcK bs 3) + 7) / 8

/-- The compressed form of R300, filled with zeros to whole sectors. -/
def fbcEncode (bs : List Byte) : List Byte :=
  let ks := (upTo 4).map (fbcK bs)
  let head := bs.take 4 ++ natLe 2 (packBits (ks.map fun k => (k, 4))) ++ [0, 0]
  let fields := (upTo 4).flatMap fun c => (upTo 63).map fun i => (fbcZ bs c (i + 1), fbcK bs c)
  let size := fbcSize bs
  slice (head ++ natLe (size - 8) (packBits fields)) 0 ((size + 31) / 32 * 32)

/-- Unpacks n values of width k from a number, and what is left. -/
def unpackBits (k : Nat) : Nat → Nat → List Nat × Nat
  | 0, v => ([], v)
  | n + 1, v => let (l, w) := unpackBits k n (v / 2 ^ k); (v % 2 ^ k :: l, w)

/-- The residual of a code z. -/
def fbcUnZ (z : Nat) : Nat := if z % 2 = 0 then z / 2 else 256 * 65536 - (z + 1) / 2

/-- Rebuilds a byte channel from its first byte and codes. -/
def fbcChannel (first : Nat) (zs : List Nat) : List Nat :=
  zs.foldl (fun acc z => acc ++ [((acc.getD (fbcPred acc.length) 0) + fbcUnZ z) % 256]) [first]

/-- Decodes a compressed block (R300, "reverses each step exactly"). -/
def fbcDecode (bs : List Byte) : List Byte :=
  let ks := fld bs 4 2
  let v := leNat (bs.drop 8)
  let go := (upTo 4).foldl (fun (acc : List (List Nat) × Nat) c =>
    let (zs, rest) := unpackBits (bits ks (4 * c + 3) (4 * c)) 63 acc.2
    (acc.1 ++ [fbcChannel (bs.getD c 0).toNat zs], rest)) ([], v)
  (upTo 64).flatMap fun i => (upTo 4).map fun c => BitVec.ofNat 8 ((go.1.getD c []).getD i 0)

/-- The metadata entry of a frame as read under a key (R298). -/
def fbcEntry (key frame : Nat) (s : State) : List Byte := dramRead key (fbcBase s + 32 * frame) 32 s

def fbcTag : Nat := 0x46424331

/-- A valid entry (R298). -/
def fbcValid (e : List Byte) : Bool := decide (fld e 12 4 = fbcTag) && zeros e 16 16

/-- Code of block i of an entry; an invalid entry reads as RAW (R298). -/
def fbcCode (e : List Byte) (i : Nat) : Nat :=
  if fbcValid e then bits (fld e 0 8) (4 * i + 3) (4 * i) else 8

/-- Reads block i of a frame through the codec: its 256 bytes, and a reserved code met (R299). -/
def fbcReadBlock (key frame i : Nat) (s : State) : List Byte × Option Nat :=
  let e := fbcEntry key frame s
  let pa := frame * 4096 + i * 256
  let code := fbcCode e i
  if code = 0 then (List.replicate 256 0, none)
  else if code ≤ 7 then (fbcDecode (dramRead key pa (32 * code) s), none)
  else if code = 8 then (dramRead key pa 256 s, none)
  else if code = 9 then ((List.replicate 64 (slice e 8 4)).flatten, none)
  else (dramRead key pa 256 s, some code)

/-- Sets block i's code in an entry; an invalid entry becomes one whose other blocks are RAW and
whose CLEAR_WORD is 0 (R298). -/
def fbcSetCode (e : List Byte) (i code : Nat) : List Byte :=
  let codes := if fbcValid e then fld e 0 8 else leNat (List.replicate 8 0x88)
  let cw := if fbcValid e then slice e 8 4 else List.replicate 4 0
  let old := bits codes (4 * i + 3) (4 * i)
  natLe 8 (codes - old * 16 ^ i + code * 16 ^ i) ++ cw ++ natLe 4 fbcTag ++ List.replicate 16 0

/-- Writes a whole block through the codec, with the first code that applies (R301). -/
def fbcWriteBlock (key frame i : Nat) (bs : List Byte) (s : State) : State :=
  let e := fbcEntry key frame s
  let cw := if fbcValid e then slice e 8 4 else List.replicate 4 0
  let pa := frame * 4096 + i * 256
  let n := (fbcSize bs + 31) / 32
  let (code, s) :=
    if bs.all (· = 0) then (0, s)
    else if (upTo 64).all (fun j => slice bs (4 * j) 4 = cw) then (9, s)
    else if n ≤ 7 then (n, dramWrite key pa (fbcEncode bs) s)
    else (8, dramWrite key pa bs s)
  dramWrite key (fbcBase s + 32 * frame) (fbcSetCode e i code) s

/-! ## L2 -/

/-- Set of a line: PA[20:11] (R206). -/
def l2Set (line : Nat) : Nat := bits line 13 4

/-- Slice of a line: PA[10:7] xor PA[14:11] xor PA[24:21] (R206). -/
def l2Slice (line : Nat) : Nat := (bits line 3 0) ^^^ (bits line 7 4) ^^^ (bits line 17 14)

/-- The replacement register's step (R208). -/
def l2Step (x : BitVec 16) : BitVec 16 :=
  let b := ((x >>> 15) ^^^ (x >>> 14) ^^^ (x >>> 12) ^^^ (x >>> 3)) &&& 1
  (x <<< 1) ||| b

def lfsrReset : BitVec 16 := 0x1D2B

/-- Locked ways of a die (R213). -/
def lockedWay (s : State) (d w : Nat) : Bool := bit (s.raw 0 (0x300004 + d * 0x400000)).toNat w

/-- The first unlocked way from v on, at most 16 tried. -/
def unlockedFrom (s : State) (d : Nat) : Nat → Nat → Nat
  | 0, v => v
  | n + 1, v => if lockedWay s d v then unlockedFrom s d n ((v + 1) % 16) else v

/-- Two lines that share a set of a slice. -/
def sameSet (a b : Nat) : Bool := decide (l2Set a = l2Set b) && decide (l2Slice a = l2Slice b)

/-- Is a line of the same set in a way, or on its way into it. -/
def wayHeld (x : L2) (line w : Nat) : Bool :=
  x.lines.any (fun l => decide (l.way = w) && sameSet l.line line) ||
    x.misses.any fun m => decide (m.way = w) && sameSet m.line line

/-- The memory contents of a line below the L2, and a reserved block code met. -/
def lineBelow (key line : Nat) (fbc : Bool) (s : State) : List Byte × Option Nat :=
  let pa := line * 128
  if 2 ^ 48 ≤ pa then (cellsGet pa 128 s, none)
  else if fbc then
    let (bs, e) := fbcReadBlock key (pa / 4096) (pa % 4096 / 256) s
    (slice bs (pa % 256) 128, e)
  else (dramRead key pa 128 s, none)

/-- Bytes written over a line; the later entry of the list wins. -/
def overlay (data : List Byte) (w : List (Nat × Byte)) : List Byte :=
  w.foldl (fun d e => d.set e.1 e.2) data

/-- The die whose L2 holds a line (R207). -/
def lineDie (s : State) (line : Nat) : Nat :=
  let pa := line * 128
  if 2 ^ 48 ≤ pa then
    if s.unit.degraded then s.unit.booted.headD 0 else bits pa 12 12
  else match channelOf s pa with
    | some (ch, _) => ch / 16
    | none => 0

/-- A reserved block code met at the codec of a die (R299). -/
def metaMet (d key line : Nat) (code : Option Nat) (s : State) : State := match code with
  | some code => s.onMem fun m => { m with metaErrs := m.metaErrs ++ [{ die := d, key, code, pa := fbcBase s + 32 * (line / 32) }] }
  | none => s

/-- Writes bytes of a line to memory below the L2, not through the codec. -/
def lineOut (key line off : Nat) (bs : List Byte) (s : State) : State :=
  let pa := line * 128 + off
  if 2 ^ 48 ≤ pa then cellsSet pa bs s else dramWrite key pa bs s

/-- Writes back a line; a line of a framebuffer page goes out as part of its whole block, the
partner taken from the L2 when held there (R302). -/
def writeBack (l : L2Line) (s : State) : State :=
  let pa := l.line * 128
  if l.fbc ∧ pa < 2 ^ 48 then
    let partner := if l.line % 2 = 0 then l.line + 1 else l.line - 1
    let held := (s.l2 (lineDie s partner)).lines.find? fun x =>
      decide (x.line = partner) && decide (x.key = l.key)
    let (other, s) := match held with
      | some x => (x.data, s)
      | none =>
        let (bs, code) := lineBelow l.key partner true s
        (bs, metaMet (lineDie s partner) l.key partner code s)
    let block := if l.line % 2 = 0 then l.data ++ other else other ++ l.data
    fbcWriteBlock l.key (pa / 4096) (pa % 4096 / 256) block s
  else lineOut l.key l.line 0 l.data s

/-- Drops lines of a die that a test names, without writing them back. -/
def l2Drop (d : Nat) (p : L2Line → Bool) (s : State) : State :=
  let x := s.l2 d
  s.setL2 d { x with lines := x.lines.filter fun l => !p l }

/-- Writes a combining buffer to memory and frees it (R211). -/
def wcFlush (d : Nat) (w : WcBuf) (s : State) : State :=
  let s := w.bytes.foldl (fun s e => lineOut w.key w.line e.1 [e.2] s) s
  let x := s.l2 d
  s.setL2 d { x with wc := x.wc.filter fun v => !(decide (v.line = w.line) && decide (v.slice = w.slice)) }

/-- Writes the combining buffers of a die that a test names. -/
def wcFlushIf (d : Nat) (p : WcBuf → Bool) (s : State) : State :=
  ((s.l2 d).wc.filter p).foldl (fun s w => wcFlush d w s) s

/-- Before a signal, every combining buffer is written (R211). -/
def wcFlushAll (s : State) : State := wcFlushIf 1 (fun _ => true) (wcFlushIf 0 (fun _ => true) s)

/-- Places a line in a way of a die's L2. -/
def l2Place (d line way key : Nat) (fbc dirty : Bool) (data : List Byte) (s : State) : State :=
  let x := s.l2 d
  s.setL2 d { x with lines := x.lines ++ [{ line, way, key, fbc, dirty, data }] }

/-- Ends a miss: its line goes into the way chosen for it, with the bytes written meanwhile. Only
bytes of write-back writes make it dirty: the others are in memory already (R210). -/
def l2Fill (d : Nat) (m : L2Miss) (s : State) : State :=
  let x := s.l2 d
  let s := s.setL2 d { x with misses := x.misses.filter fun y => y.id ≠ m.id }
  let (bs, code) := lineBelow m.key m.line m.fbc s
  l2Place d m.line m.way m.key m.fbc m.dirty (overlay bs m.merged) (metaMet d m.key m.line code s)

/-- Ends every miss of a die that a test names. -/
def l2FillIf (d : Nat) (p : L2Miss → Bool) (s : State) : State :=
  ((s.l2 d).misses.filter p).foldl (fun s m => l2Fill d m s) s

/-- Chooses the way that takes a new line (R208), writing back a dirty victim. A way that a fill in
progress is to take is no invalid way; where it is the victim, its fill ends first. -/
def l2Victim (d line : Nat) (s : State) : Nat × State :=
  let x := s.l2 d
  match (upTo 16).find? fun w => !lockedWay s d w && !wayHeld x line w with
  | some w => (w, s)
  | none =>
    let sl := l2Slice line
    let v := l2Step (tblGet lfsrReset x.lfsr sl)
    let w := unlockedFrom s d 16 (v.toNat % 16)
    let s := s.setL2 d { x with lfsr := tblSet lfsrReset x.lfsr sl v }
    let s := l2FillIf d (fun m => decide (m.way = w) && sameSet m.line line) s
    let out := fun (l : L2Line) => decide (l.way = w) && sameSet l.line line
    let s := ((s.l2 d).lines.filter fun l => out l && l.dirty).foldl (fun s l => writeBack l s) s
    (w, l2Drop d out s)

/-- Places a line in a die's L2, in the way that R208 chooses. -/
def l2Insert (d line key : Nat) (fbc dirty : Bool) (data : List Byte) (s : State) : State :=
  let (w, s) := l2Victim d line s
  l2Place d line w key fbc dirty data s

/-- A line found under another key is written back if dirty, then dropped (R206); a miss of another
key is ended first in the same way. -/
def l2OtherKey (d line key : Nat) (s : State) : State :=
  let s := l2FillIf d (fun m => decide (m.line = line) && decide (m.key ≠ key)) s
  let other := fun (l : L2Line) => decide (l.line = line) && decide (l.key ≠ key)
  let s := ((s.l2 d).lines.filter fun l => other l && l.dirty).foldl (fun s l => writeBack l s) s
  l2Drop d other s

/-- Starts a miss; its way is chosen now (R208, R213). -/
def l2Miss (d line key : Nat) (fbc pref : Bool) (merged : List (Nat × Byte)) (s : State) : State :=
  let (way, s) := l2Victim d line s
  let x := s.l2 d
  let m : L2Miss := { id := s.mem.missId, line, way, key, fbc, merged, dirty := !merged.isEmpty, pref }
  let s := s.setL2 d { x with misses := x.misses ++ [m] }
  s.onMem fun m => { m with missId := m.missId + 1 }

/-- Attributes of an access that the L2 sees (R46, R210), and the compute die that it comes from; none
for the base die. -/
structure Attr where
  key   : Nat
  cache : Nat      -- 0 write-back, 1 write-through, 2 write-combining, 3 uncached
  fbc   : Bool
  die   : Option Nat
  deriving DecidableEq, Repr

/-- The attributes of a device access as key ID 0 that no page describes. -/
def Attr.plain : Attr := { key := 0, cache := 3, fbc := false, die := none }

def prefetchOn (s : State) (d : Nat) : Bool := bit (s.raw 0 (0x300000 + d * 0x400000)).toNat 0

/-- The crossing between a requester's die, or the base die, and a compute die (R18, R454). -/
def farLink (die : Option Nat) (d : Nat) : Option Nat :=
  match die with
  | none => some d
  | some e => if e = d then none else some 2

/-- The link from a requester to a die is SEVERED. -/
def linkCut (s : State) (die : Option Nat) (d : Nat) : Bool := (farLink die d).any fun x => (s.crossing x).severed

def l2Halted (s : State) (d : Nat) : Bool := s.halted (.l2 ⟨d % 2, Nat.mod_lt _ (by decide)⟩)

/-- A die that R462 excludes at run time. -/
def dieExcluded (s : State) (d : Nat) : Bool := decide (tblGet 0 s.unit.excluded d ≠ 0)

/-- A request to a die waits while the link to it is severed or its L2 halted, and is SEVERED when
the die is excluded (R19, R447, R456, R462). -/
def dieGate (s : State) (die : Option Nat) (d : Nat) : Option Bool :=
  if dieExcluded s d then some true
  else if linkCut s die d ∨ l2Halted s d then some false
  else none

/-- A line's data as the L2 of a die has it: held, or with what waits to be merged. -/
def l2Held (x : L2) (line : Nat) : Bool := x.lines.any fun l => l.line = line

/-- The prefetch of R209: the next line of the frame, under the same key, when it is not held and the
die that holds it can be reached. Its combining buffer is written first (R211). -/
def l2Prefetch (d line : Nat) (a : Attr) (s : State) : State :=
  let next := line + 1
  let nd := lineDie s next
  let held := l2Held (s.l2 nd) next || (s.l2 nd).misses.any (fun m => m.line = next)
  if next / 32 = line / 32 ∧ line * 128 < 2 ^ 48 ∧ prefetchOn s d ∧ ¬ held ∧ dieGate s (some d) nd = none then
    l2Miss nd next a.key a.fbc true [] (wcFlushIf nd (fun w => w.line = next) s)
  else s

/-- Reads a whole line through a die's L2. -/
def l2ReadLine (d line : Nat) (a : Attr) (s : State) : List Byte × State :=
  let s := wcFlushIf d (fun w => w.line = line) s
  let s := l2OtherKey d line a.key s
  let x := s.l2 d
  match x.lines.find? fun l => l.line = line with
  | some l => (l.data, s)
  | none =>
    let below := (lineBelow a.key line a.fbc s).1
    match x.misses.find? fun m => m.line = line with
    | some m => (overlay below m.merged, s)
    | none =>
      if a.fbc ∨ a.cache ≤ 1 then (below, l2Prefetch d line a (l2Miss d line a.key a.fbc false [] s))
      else (below, s)

/-- Adds written bytes to a miss of a line, if there is one; bytes of a write-back write make it
dirty. -/
def l2Merge (d line : Nat) (wb : Bool) (w : List (Nat × Byte)) (s : State) : State :=
  let x := s.l2 d
  s.setL2 d { x with misses := mapIf (fun m => m.line = line) (fun m => { m with merged := m.merged ++ w, dirty := m.dirty || wb }) x.misses }

/-- (offset, byte) pairs of a write. -/
def offBytes (off : Nat) (bs : List Byte) : List (Nat × Byte) := (upTo bs.length).zip bs |>.map
  fun e => (off + e.1, e.2)

/-- Merges a write into a combining buffer (R211). -/
def wcWrite (d line key off : Nat) (bs : List Byte) (s : State) : State :=
  let s := wcFlushIf d (fun w => decide (w.line = line) && decide (w.key ≠ key)) s
  let sl := l2Slice line
  let x := s.l2 d
  let w := offBytes off bs
  let s := match x.wc.find? fun b => b.line = line with
    | some _ =>
      let put := fun (b : WcBuf) =>
        { b with bytes := b.bytes.filter (fun e => !w.any fun f => f.1 = e.1) ++ w, last := s.time }
      s.setL2 d { x with wc := mapIf (fun b => b.line = line) put x.wc }
    | none =>
      let mine := x.wc.filter fun b => b.slice = sl
      let s := match mine with
        | b :: _ => if 8 ≤ mine.length then wcFlush d b s else s
        | [] => s
      let x := s.l2 d
      s.setL2 d { x with wc := x.wc ++ [{ slice := sl, line, key, bytes := w, last := s.time }] }
  wcFlushIf d (fun b => decide (b.line = line) && decide (128 ≤ b.bytes.length)) s

/-- Writes part of a line through a die's L2 (R210). -/
def l2WriteLine (d line off : Nat) (bs : List Byte) (a : Attr) (s : State) : State :=
  let wb := a.fbc ∨ a.cache = 0
  let s := if a.cache = 2 ∧ ¬ a.fbc then s else wcFlushIf d (fun w => w.line = line) s
  let s := l2OtherKey d line a.key s
  let x := s.l2 d
  match x.lines.find? fun l => l.line = line with
  | some l =>
    let l' := { l with data := splice l.data off bs, dirty := if wb then true else l.dirty }
    let s := s.setL2 d { x with lines := mapIf (fun y => y.line = line) (fun _ => l') x.lines }
    if wb then s else lineOut a.key line off bs s
  | none =>
    let pend := x.misses.any fun m => m.line = line
    if wb then
      if pend then l2Merge d line true (offBytes off bs) s
      else if bs.length = 128 then l2Insert d line a.key a.fbc true bs s
      else l2Miss d line a.key a.fbc false (offBytes off bs) s
    else if a.cache = 2 ∧ ¬ pend then wcWrite d line a.key off bs s
    else lineOut a.key line off bs (l2Merge d line false (offBytes off bs) s)

/-! ## Accesses at a physical address -/

/-- How an access at a physical address ends: done, with a fault (R56 cases 6 to 9), with SEVERED
(R455, R462), or not yet, because the unit it needs is halted, clearing or in reset. -/
inductive Acc (α : Type) where
  | ok (a : α) (s : State)
  | fault (c : FaultCode) (s : State)
  | severed
  | wait

/-- Region of a scratchpad or tile window address (R197, R200). -/
def regionOf : Target → Nat
  | .spm c off => c * 256 + off / 0x10000
  | .tile k off => 2048 + k * 4 + off / 0x10000
  | _ => 0

def State.owner (s : State) (r : Nat) : Nat := tblGet 0 s.mem.owners r

/-- Is the unit behind a window powered and released (R23). -/
def windowOn (s : State) : Target → Bool
  | .spm c _ => decide (s.power c = .on)
  | .tile k _ => decide (s.power (8 + k) = .on)
  | _ => true

/-- The block SPM of a window's cluster is halted, and no bank grants (R447). -/
def portsHalted (s : State) : Target → Bool
  | .spm c _ => s.halted (.spm ⟨c % 8, Nat.mod_lt _ (by decide)⟩)
  | _ => false

/-- A window of a unit: its die, and the crossings to it beyond its die's link (R454). -/
def windowPath : Target → Nat × List Nat
  | .spm c _ => (c / 4, [80 + c])
  | .tile k _ => (k / 32, [80 + k / 8, 16 + k])
  | _ => (0, [])

/-- A window whose unit is in reset: requests to it wait (R456, R457). -/
def windowInReset (s : State) : Target → Bool
  | .spm c _ => inReset s 3 c
  | .tile k _ => inReset s 0 k || inReset s 3 (k / 8)
  | _ => false

/-- A request to a window: SEVERED, waits, GATED (R23), or goes on (none). -/
def windowGate (s : State) (die : Option Nat) (t : Target) : Option (Option FaultCode × Bool) :=
  let (d, xs) := windowPath t
  if dieExcluded s d then some (none, true)
  else if linkCut s die d ∨ xs.any (fun x => (s.crossing x).severed) ∨ windowInReset s t then some (none, false)
  else if !windowOn s t then some (some .gated, false)
  else if s.mem.clearing.contains (regionOf t) ∨ portsHalted s t then some (none, false)
  else none

/-- A die that can hold host lines: it is up, so that its L2 is to be asked (R207, R210). -/
def hostDieUp (s : State) (d : Nat) : Bool := !dieExcluded s d && decide (tblGet 0 s.rst.dieDown d = 0)

/-- A host request waits for the L2 that may hold its line; with that die in reset or excluded no L2
holds it, and the request goes to the host. -/
def hostGate (s : State) (die : Option Nat) (d : Nat) : Bool := hostDieUp s d && (linkCut s die d || l2Halted s d)

/-- The attributes of a host request: nothing is kept in the L2 of a die that is down. -/
def hostAttr (s : State) (d : Nat) (a : Attr) : Attr := if hostDieUp s d then a else { a with cache := 3, fbc := false }

/-- The failing part of a host read. -/
def hostFails (s : State) (addr n : Nat) : Bool :=
  s.mem.hostErr.any fun e => decide (addr < e.2) && decide (e.1 < addr + n)

/-- A host address that loops back to the device's own BARs (R380). -/
def ownBar (s : State) (addr : Nat) : Bool := s.mem.bars.any fun e => decide (e.1 ≤ addr) && decide (addr < e.2)

/-- Result of the region owner's check (R197): the new owner, or none for KEY_MISMATCH. -/
def ownerCheck (s : State) (ctx key reg : Nat) (isWrite : Bool) : Option Nat :=
  let o := s.owner reg
  if o = 0 then (if isWrite ∧ key ≠ 0 then some ctx else some 0)
  else if o = ctx then some o
  else none

/-- Both L2s written back and emptied: misses end, and combining buffers reach memory. -/
def l2Empty (s : State) : State :=
  [0, 1].foldl (fun s d =>
    let s := (s.l2 d).misses.foldl (fun s m => l2Fill d m s) s
    let s := (s.l2 d).lines.foldl (fun s l => if l.dirty then writeBack l s else s) s
    s.setL2 d { s.l2 d with lines := [], misses := [] }) (wcFlushAll s)

/-- In Chrysalis the L2s keep no line, and written data reaches memory at once (R421). -/
def l2Pass (s : State) : State := if passThrough s then l2Empty s else s

/-- A host read of an address that no L2 line answers reads the host: the bytes of the access, or the
whole line where the page lets the L2 keep it. -/
def hostReadFails (s : State) (d : Nat) (a : Attr) (addr n : Nat) : Bool :=
  let line := (2 ^ 48 + addr) / 128
  let hit := (s.l2 d).lines.any fun l => decide (l.line = line) && decide (l.key = a.key)
  !hit && (if a.fbc ∨ a.cache ≤ 1 then hostFails s (addr / 128 * 128) 128 else hostFails s addr n)

/-- Reads n bytes within one 128-byte line at a physical address for a context. -/
def paReadPart (ctx : Nat) (a : Attr) (pa n : Nat) (s : State) : Acc (List Byte) :=
  let t := target s pa
  match t with
  | .unmapped => .fault .unmappedPa s
  | .pkg ch _ =>
    let d := lineDie s (pa / 128)
    match dieGate s a.die d with
    | some true => .severed
    | some false => .wait
    | none =>
      let (bs, s) := l2ReadLine d (pa / 128) a (wakeChannel ch s)
      .ok (slice bs (pa % 128) n) (l2Pass s)
  | .host addr =>
    let d := lineDie s (pa / 128)
    let a := hostAttr s d a
    if hostGate s a.die d then .wait
    else if hostReadFails s d a addr n then .fault .hostError s
    else
      let (bs, s) := l2ReadLine d (pa / 128) a s
      .ok (slice bs (pa % 128) n) (l2Pass s)
  | .spm _ _ | .tile _ _ =>
    match windowGate s a.die t with
    | some (some c, _) => .fault c s
    | some (none, true) => .severed
    | some (none, false) => .wait
    | none => match ownerCheck s ctx a.key (regionOf t) false with
      | none => .fault .keyMismatch s
      | some _ => .ok (cellsGet pa n s) s

/-- Writes bytes within one line at a physical address for a context. -/
def paWritePart (ctx : Nat) (a : Attr) (pa : Nat) (bs : List Byte) (s : State) : Acc Unit :=
  let t := target s pa
  match t with
  | .unmapped => .fault .unmappedPa s
  | .pkg ch _ =>
    let d := lineDie s (pa / 128)
    match dieGate s a.die d with
    | some true => .severed
    | some false => .wait
    | none => .ok () (l2Pass (l2WriteLine d (pa / 128) (pa % 128) bs a (wakeChannel ch s)))
  | .host _ =>
    let d := lineDie s (pa / 128)
    let a := hostAttr s d a
    if hostGate s a.die d then .wait
    else .ok () (l2Pass (l2WriteLine d (pa / 128) (pa % 128) bs a s))
  | .spm _ _ | .tile _ _ =>
    match windowGate s a.die t with
    | some (some c, _) => .fault c s
    | some (none, true) => .severed
    | some (none, false) => .wait
    | none => match ownerCheck s ctx a.key (regionOf t) true with
      | none => .fault .keyMismatch s
      | some o => .ok () ((cellsSet pa bs s).onMem fun m => { m with owners := tblSet 0 m.owners (regionOf t) o })

/-- The parts of an access of n bytes at an address, cut at 128-byte lines. -/
def cutLines : Nat → Nat → Nat → List (Nat × Nat)
  | 0, _, _ => []
  | _ + 1, _, 0 => []
  | f + 1, pa, n =>
    let k := Nat.min n (128 - pa % 128)
    (pa, k) :: cutLines f (pa + k) (n - k)

/-- Reads n bytes at a physical address. -/
def paRead (ctx : Nat) (a : Attr) (pa n : Nat) (s : State) : Acc (List Byte) :=
  (cutLines (n + 1) pa n).foldl (fun acc p => match acc with
    | .ok bs s => match paReadPart ctx a p.1 p.2 s with
      | .ok b s => .ok (bs ++ b) s
      | .fault c s => .fault c s
      | .severed => .severed
      | .wait => .wait
    | other => other) (.ok [] s)

/-- Writes bytes at a physical address. -/
def paWrite (ctx : Nat) (a : Attr) (pa : Nat) (bs : List Byte) (s : State) : Acc Unit :=
  (cutLines (bs.length + 1) pa bs.length).foldl (fun acc p => match acc with
    | .ok _ s => match paWritePart ctx a p.1 ((bs.drop (p.1 - pa)).take p.2) s with
      | .ok _ s => .ok () s
      | .fault c s => .fault c s
      | .severed => .severed
      | .wait => .wait
    | other => other) (.ok () s)

/-- How an access of the device itself ends: done, failed, or not yet. -/
inductive Dev (α : Type) where
  | done (a : α)
  | failed
  | wait
  deriving Repr

/-- Done: what the access gave. -/
def Dev.get? {α : Type} : Dev α → Option α
  | .done a => some a
  | _ => none

/-- The way an access at a physical address ends, for the device itself. -/
def Acc.dev {α : Type} : Acc α → Dev (α × State)
  | .ok a s => .done (a, s)
  | .wait => .wait
  | _ => .failed

/-- A host address of the device's own BARs: the device's own accesses fail there (R482). -/
def loopsBack (s : State) (pa : Nat) : Bool := decide (2 ^ 48 ≤ pa) && ownBar s (pa % 2 ^ 48)

/-- A read by the device itself as key ID 0. It fails when the address names no memory, loops back to
the device, or a host read fails (R57, R71, R482). -/
def devRead (pa n : Nat) (s : State) : Dev (List Byte × State) :=
  if loopsBack s pa then .failed else (paRead 0 Attr.plain pa n s).dev

/-- The cause of R381 for which an access of the device itself is a violation (R482): 3 REG_ACCESS in the device's own
BARs (R380), 1 KEY_MISMATCH at a bank whose region a context owns (R379). -/
def devCause (pa n : Nat) (s : State) : Option Nat :=
  if loopsBack s pa then some 3
  else match paRead 0 Attr.plain pa n s with
    | .fault .keyMismatch _ => some 1
    | _ => none

/-- A write by the device itself as key ID 0, or none when the address names no memory. -/
def devWriteNow (pa : Nat) (bs : List Byte) (s : State) : Dev State :=
  if loopsBack s pa then .failed
  else match (paWrite 0 Attr.plain pa bs s).dev with
    | .done (_, s) => .done s
    | .failed => .failed
    | .wait => .wait

/-- A posted write by the device itself as key ID 0, or none when the address names no memory. One that
must wait joins the others that wait, in order; the device goes on (R447, R456). -/
def devWrite (pa : Nat) (bs : List Byte) (s : State) : Option State :=
  match devWriteNow pa bs s with
  | .done s => some s
  | .failed => none
  | .wait => some (s.onMem fun m => { m with posted := m.posted ++ [(pa, bs)] })

/-- Posted writes that waited are made, in their order, as far as they now can be. -/
def retryPosted (s : State) : State :=
  s.mem.posted.foldl (fun s w => (devWrite w.1 w.2 s).getD s) (s.onMem fun m => { m with posted := [] })

end Sys2Proof.Machine
end

