-- ==== Sys2Proof/Machine/Errors.lean ====
section
/-! DEFINITION. The critical event (R452), the error log (R448 to R453), and the ends of ops and entries that other files share (R89 to R91, R103). -/

namespace Sys2Proof.Machine

open Sys2Proof

/-! ## The critical event -/

/-- The critical event of the physical function: vector 0, with CRIT_N (R124, R452). It wakes a
sleeping package (R425 WAKE_SRC). -/
def criticalEvent (s : State) : State := startExit 5 0 (raiseCritical 0 s)

/-! ## The function that owns a context, a ring, a fence -/

/-- FIRST and COUNT of a range register's fields. -/
def rangeHas (w : Word) (firstHi countLo countHi n : Nat) : Bool :=
  let f := bits w.toNat firstHi 0
  let c := bits w.toNat countHi countLo
  decide (f ≤ n) && decide (n < f + c)

/-- Does context n lie in the range of function f (R34). -/
def fnHasCtx (s : State) (f n : Nat) : Bool := rangeHas (s.raw 0 (0x070100 + 4 * f)) 8 10 19 n

/-- Does ring n lie in the range of function f (R61). -/
def fnHasRing (s : State) (f n : Nat) : Bool := rangeHas (s.raw 0 (0x060100 + 4 * f)) 12 13 26 n

/-- Does local fence n lie in the range of function f (R106): blocks of 64. -/
def fnHasLocal (s : State) (f n : Nat) : Bool := rangeHas (s.raw 0 (0x080100 + 4 * f)) 9 10 20 (n / 64)

/-- Does shared fence n lie in the range of function f. -/
def fnHasShared (s : State) (f n : Nat) : Bool := rangeHas (s.raw 0 (0x080200 + 4 * f)) 9 10 20 n

/-- The function whose range holds context n; 0 when none does. -/
def fnOfCtx (s : State) (n : Nat) : Nat := ((upTo 64).find? fun f => fnHasCtx s f n).getD 0

def fnOfRing (s : State) (n : Nat) : Nat := ((upTo 64).find? fun f => fnHasRing s f n).getD 0

/-- The function that owns a fence of the table. -/
def fnOfFence (s : State) (n : Nat) : Nat :=
  ((upTo 64).find? fun f => if n < 65536 then fnHasLocal s f n else fnHasShared s f (n - 65536)).getD 0

/-! ## Entry status codes (R91) -/

def stOk : Nat := 0x00
def stBadRecord : Nat := 0x01
def stBadOpcode : Nat := 0x02
def stBadLength : Nat := 0x03
def stBadPred : Nat := 0x04
def stCbFault : Nat := 0x05
def stEdgeFault : Nat := 0x06
def stTransFault : Nat := 0x07
def stDepError : Nat := 0x08
def stNoCluster : Nat := 0x09
def stGraphInvalid : Nat := 0x0A
def stOpError : Nat := 0x0B
def stPinned : Nat := 0x0C
def stSevered : Nat := 0x0D
def stDeviceLost : Nat := 0x0E
def stWatchdog : Nat := 0x0F

/-- Values of the fault codes (R56). -/
def FaultCode.num : FaultCode → Nat
  | .notValid => 0x01 | .readDenied => 0x02 | .writeDenied => 0x03 | .execDenied => 0x04
  | .vaRange => 0x05 | .ptFormat => 0x06 | .placement => 0x07 | .protectedPage => 0x08
  | .unmappedPa => 0x09 | .keyMismatch => 0x0A | .gated => 0x0B | .hostError => 0x0C

/-- Values of the reasons (R102). -/
def Reason.num : Reason → Nat
  | .aborted => 1 | .faulted => 2 | .ownerGone => 3 | .timeout => 4 | .deviceLost => 5

/-- The reason of a value of R102. -/
def reasonOf : Nat → Option Reason
  | 1 => some .aborted | 2 => some .faulted | 3 => some .ownerGone | 4 => some .timeout
  | 5 => some .deviceLost | _ => none

/-- The reason that a failure's STATUS gives its fences (R103); DEP_ERROR passes on its own. -/
def statusReason (status : Nat) (dep : Reason) : Reason :=
  if status = stDepError then dep
  else if status = stSevered ∨ status = stDeviceLost then .deviceLost
  else if status = stCbFault ∨ status = stTransFault ∨ status = stOpError ∨ status = stPinned ∨
      status = stWatchdog then .faulted
  else .aborted

/-! ## Loads in flight (R54) -/

/-- Loads in flight of a context that were translated for an address which a test names. -/
def loadsOn (s : State) (ctx : Nat) (p : Nat → Bool) : List Nat :=
  (s.shd.groups.filter fun g => g.ctx = ctx).filterMap fun g => match g.load with
    | some l => if l.vas.any p then some l.id else none
    | none => none

/-- Every one of the loads has completed or been dropped. -/
def loadsGone (s : State) (ids : List Nat) : Bool :=
  !s.shd.groups.any fun g => g.load.any fun l => ids.contains l.id

/-! ## Entries and ops -/

def State.entry? (s : State) (ring seq : Nat) : Option Entry :=
  s.fe.entries.find? fun e => decide (e.ring = ring) && decide (e.seq = seq)

def State.onEntry (ring seq : Nat) (f : Entry → Entry) (s : State) : State :=
  s.onFe fun x => { x with entries := mapIf (fun e => decide (e.ring = ring) && decide (e.seq = seq)) f x.entries }

/-- An op and its entry. -/
def State.op? (s : State) (o : OpRef) : Option (Entry × Op) :=
  match s.entry? o.ring.val o.seq with
  | some e => (e.ops[o.op]?).map fun p => (e, p)
  | none => none

def State.onOp (o : OpRef) (f : Op → Op) (s : State) : State :=
  s.onEntry o.ring.val o.seq fun e => { e with ops := e.ops.modify o.op f }

/-- Context of an op's entry. -/
def opCtx (s : State) (o : OpRef) : Nat := match s.entry? o.ring.val o.seq with
  | some e => e.ctx
  | none => 0

/-- Is an op running. -/
def opRunning (s : State) (o : OpRef) : Bool := match s.op? o with
  | some (_, p) => decide (p.phase = .running)
  | none => false

/-- An op ends with a status, and the ops that depend on a failed op are skipped (R81, R90). A skip
carries the failure's reason, which a skipped FENCE_SIGNAL uses (R103). -/
def skipFrom (ops : List Op) : List Op :=
  (upTo ops.length).foldl (fun ops i => match ops[i]? with
    | some p =>
      if p.phase = .waiting then
        match p.preds.findSome? (fun j => match ops[j]? with
          | some q => if q.phase = .done ∧ (q.status ≠ stOk ∨ q.skipped) then some q else none
          | none => none) with
        | some q =>
          let why := if q.skipped then q.reason else statusReason q.status q.reason
          ops.set i { p with phase := .done, skipped := true, reason := why }
        | none => ops
      else ops
    | none => ops) ops

/-- Every op of an entry has completed or been skipped (R89). -/
def opsDone (e : Entry) : Bool := e.ops.all fun p => p.phase = .done

/-- An entry whose ops are all done is ready for its completion steps. -/
def settle (e : Entry) : Entry :=
  if e.phase = .running ∧ opsDone e then { e with phase := .finished } else e

/-- The op ends: its status, DETAIL and sticky flags; a running op frees its units. -/
def endOp (o : OpRef) (status detail sticky : Nat) (s : State) : State :=
  s.onEntry o.ring.val o.seq fun e => match e.ops[o.op]? with
    | some p =>
      if p.phase = .done then e
      else
        let p' := { p with phase := .done, status, detail, sticky := p.sticky ||| sticky, units := [], ending := none }
        settle { e with ops := skipFrom (e.ops.set o.op p') }
    | none => e

/-- An op takes a translation fault (R55). -/
def faultOp (o : OpRef) (c : FaultCode) (s : State) : State := endOp o stTransFault c.num 0 s

/-- Drops what belongs to a dispatch that no longer runs: it has been completed, killed or
discarded, its resident groups are gone and their parks are invalid (R259, R260, R262). -/
def shdSweep (s : State) : State :=
  let live := fun (o : OpRef) => opRunning s o
  s.onShd fun x =>
    let groups := x.groups.filter fun g => live g.op
    { x with runs := x.runs.filter (fun r => live r.op), wgs := x.wgs.filter (fun w => live w.op), groups, held := x.held.filter fun h => groups.any fun g => decide (g.core = h.core) && decide (g.slot = h.slot) && g.park.isSome }

/-- A running op is over but for its report, which Machine/Ends.lean writes. -/
def opEnding (o : OpRef) (status detail master : Nat) (s : State) : State :=
  s.onOp o fun p => if p.phase = .running ∧ p.ending.isNone then { p with units := [], ending := some { status, detail, master } } else p

/-- A tensor op loses a master: it fails, and ends when its other units have finished the tiles they hold
(R185). -/
def tensorLose (m status : Nat) (r : TensorRun) (s : State) : State :=
  let fail := r.fail.getD (status, 0)
  let held := r.held.filter fun h => h.1 ≠ m
  let s := s.onTns fun t => { t with runs := mapIf (fun q => q.op = r.op) (fun q => { q with fail := some fail, held }) t.runs }
  if held = [] then opEnding r.op fail.1 fail.2 m s else s.onOp r.op fun p => { p with units := p.units.filter (· ≠ m) }

/-- A failed pass bins no more, and its vertex groups are gone (R309); it ends once its cores hold no
tile. -/
def passFail (o : OpRef) (status detail : Nat) (s : State) : State :=
  let s := s.onRnd fun x => { x with passes := mapIf (fun p => p.op = o) (fun p => { p with fail := p.fail.or (some (status, detail)), batches := [], growAt := none, waiting := [] }) x.passes }
  let vertex := fun (g : Group) => decide (g.op = o) && match g.role with
    | .vertex _ => true
    | _ => false
  let s := shdSweep (s.onShd fun x => { x with groups := x.groups.filter fun g => !vertex g })
  match s.rnd.passes.find? fun p => p.op = o with
  | some p => match p.fail with
    | some (st, d) => if s.rnd.tiles.all fun t => t.op ≠ o then opEnding o st d 0xFF s else s
    | none => s
  | none => s

/-- A render pass loses a core: the tiles and groups on it are gone, and the pass fails (R306, R309). -/
def passLose (m status : Nat) (o : OpRef) (s : State) : State :=
  let mine := fun (p : OpRef) (k : Nat) => decide (p = o) && decide (k = m)
  let s := s.onRnd fun x => { x with tiles := x.tiles.filter fun t => !mine t.op t.core }
  let s := s.onShd fun x => { x with groups := x.groups.filter fun g => !mine g.op g.core }
  passFail o status 0 (s.onOp o fun p => { p with units := p.units.filter (· ≠ m) })

/-- Every running op that a master holds ends: a tensor op and a render pass as their own rules say, any
other at once, with its groups on every core (R185, R262, R309, R382). -/
def endOpsOn (m status : Nat) (s : State) : State :=
  let s := (s.tns.runs.filter fun r => r.held.any fun h => h.1 = m).foldl (fun s r => tensorLose m status r s) s
  let s := (s.rnd.passes.filter fun p => (s.op? p.op).any fun q => q.2.units.contains m).foldl (fun s p => passLose m status p.op s) s
  let hit := s.fe.entries.flatMap fun e =>
    ((upTo e.ops.length).filter fun i => match e.ops[i]? with
      | some p => decide (p.phase = .running) && p.units.contains m
      | none => false).map fun i => (e.ring, e.seq, i)
  shdSweep (hit.foldl (fun s h => s.onEntry h.1 h.2.1 fun e => match e.ops[h.2.2]? with
    | some p =>
      let p' := { p with phase := .done, status, detail := 0, units := [] }
      settle { e with ops := skipFrom (e.ops.set h.2.2 p') }
    | none => e) s)

/-- An entry fails before any op ran. -/
def failEntry (ring seq status opIndex detail : Nat) (s : State) : State :=
  s.onEntry ring seq fun e =>
    { e with phase := .finished, status, opIndex, detail, ops := [] }

/-! ## The error log -/

/-- In-service entries of a source. -/
def inService (s : State) (src : Nat) : Nat := (s.err.entries.filter fun e => e.src = src).length

def classHeld (s : State) (c : Nat) : Bool := s.err.entries.any fun e => e.cls = c

/-- Is an error written, or lost (R451). -/
def logRoom (s : State) (cls : Nat) : Bool :=
  let free := 32 - s.err.entries.length
  if classHeld s cls then decide (((upTo 7).filter fun c => !classHeld s c).length < free)
  else decide (0 < free)

/-- Writes an error to the log, or counts it lost; the vector and the critical event follow (R450 to
R452). Escalation is the caller's (Machine/Faults.lean). -/
def logWrite (code cls src ctx info0 info1 : Nat) (critical : Bool) (s : State) : State :=
  let n := inService s src
  let flags := b2n (1 ≤ n) + 2 * b2n (2 ≤ n) + 4 * b2n critical
  if logRoom s cls then
    let slot := ((upTo 32).find? fun i => !s.err.entries.any fun e => e.slot = i).getD 0
    let seq := s.err.seq + 1
    let e : LogEntry := { slot, t := s.time, seq, code, cls, src, flags, ctx, info0, info1 }
    let s := s.onErr fun x => { x with entries := x.entries ++ [e], seq }
    let cfg := s.raw 0 0x040000
    let s := if bit cfg.toNat 31 then raiseVec .errorLog 0 (bits cfg.toNat 10 0) s else s
    if critical then criticalEvent s else s
  else
    let s := s.onErr fun x => { x with overflow := Nat.min (x.overflow + 1) 0xFFFFFF, lost := true }
    if critical then criticalEvent s else s

/-- CLASS of each code of R453. -/
def codeClass (code : Nat) : Nat :=
  if code = 0x01 then 0 else if code = 0x10 ∨ code = 0x11 then 1
  else if code = 0x20 ∨ code = 0x21 then 2 else if code = 0x30 then 3
  else if 0x40 ≤ code ∧ code ≤ 0x43 then 4 else if code = 0x50 ∨ code = 0x51 then 5 else 6

end Sys2Proof.Machine
end

