-- ==== Sys2Proof/Machine/Faults.lean ====
section
/-! DEFINITION. What an error does beyond its own unit: the abort of a context (R58, R67, R105),
pinning (R381 to R385), logging with escalation (R450), fault records (R57) and control blocks. -/

namespace Sys2Proof.Machine

open Sys2Proof

/-! ## Ring control blocks (R68) -/

def RingState.num : RingState → Nat
  | .disabled => 0 | .fetching => 1 | .idlePending => 2 | .idle => 3 | .halted => 4

/-- Writes a field of a ring's control block; a write that names no memory is not performed. -/
def rcbWrite (r off n v : Nat) (s : State) : State :=
  (devWrite ((s.ring r).rcb + off) (natLe n v) s).getD s

/-- Writes CONSUMER (R68, R78 step 1). -/
def rcbConsumer (r : Nat) (s : State) : State := rcbWrite r 64 8 (s.ring r).cons.toNat s

/-- Sets a ring's STATE, there and in its control block. -/
def ringTo (r : Nat) (st : RingState) (s : State) : State :=
  rcbWrite r 80 4 st.num (s.setRing r { s.ring r with state := st })

/-- A ring stops for good before it has accepted an entry that a RING_SEQ edge names: such an edge is never
satisfied, whatever the ring does once enabled again (R96). DEDUCED (log 86): an entry already accepted
runs to completion (R64) and still satisfies its edge. -/
def deadEdges (r : Nat) (s : State) : State :=
  let dies := fun (w : Edge) => decide (w.kind = 1) && decide (w.object = r) && decide ((s.ring r).cons < w.value)
  s.onFe fun f => { f with entries := f.entries.map fun e => { e with edges := mapIf dies (fun w => { w with dead := true }) e.edges } }

/-- A ring halts (R92): STATE and HALT_CODE in the control block and the ring table, then VECTOR. -/
def haltRing (r code : Nat) (s : State) : State :=
  let x := s.ring r
  let s := deadEdges r (s.setRing r { x with state := .halted, halt := code, reads := [], dupWait := false })
  let s := rcbWrite r 84 2 code (rcbWrite r 80 4 RingState.halted.num s)
  if h : r < 8192 then raiseVec (.ring ⟨r, h⟩) (fnOfRing s r) x.vector s else s

/-! ## Fence messages -/

/-- Puts a signal or an error behind those already on their way to the fence table (R100). -/
def sendFence (fence alloc : Nat) (what : Quad ⊕ Reason) (s : State) : State :=
  s.onFen fun f => { f with queue := f.queue ++ [{ fence, alloc, what, page := false }] }

/-- Every fence that a context owns. -/
def fencesOf (s : State) (n : Nat) : List Nat :=
  (s.fen.fences.filter fun e => decide (e.2.owner = n) && decide (e.2.st ≠ .free)).map (·.1)

/-! ## Teardown -/

/-- A launch that ends unpins its version (R122); teardown retires none. -/
def unpin (ctx : Nat) (l : Launch) (s : State) : State :=
  let mine := fun (v : GraphVersion) => decide (v.ctx = ctx) && decide (v.graph = l.graph) && decide (v.version = l.version)
  s.onFe fun f => { f with versions := mapIf mine (fun v => { v with pins := v.pins - 1 }) f.versions }

/-- Entries of a context whose work has not started, or has none running, are discarded; the
waiting ops of the others never start, and their FENCE_WAITs are dropped (R58 steps 2 and 3). Entries
that have finished keep their completion. -/
def discardWaiting (n : Nat) (s : State) : State :=
  let runs := fun (p : Op) => decide (p.phase = .running) && p.fence.isNone
  let live := fun (e : Entry) => decide (e.ctx ≠ n) || decide (e.phase = .finished) || e.ops.any runs
  let gone := s.fe.entries.filter fun e => !live e
  let s := gone.foldl (fun s e => match e.launch with
    | some l => unpin n l s
    | none => s) s
  let stop := fun (p : Op) => if p.phase ≠ .done ∧ !runs p then { p with phase := .done, skipped := true } else p
  s.onFe fun f =>
    let kept := f.entries.filter live
    let cut := fun (e : Entry) => { e with ops := e.ops.map stop }
    { f with entries := mapIf (fun e => decide (e.ctx = n) && decide (e.phase ≠ .finished)) cut kept }

/-- Step 1 of R58 in abort mode: the context's rings stop, and show IDLE unless HALTED (R67). -/
def stopRings (n : Nat) (s : State) : State :=
  let mine := (s.fe.rings.filter fun e => decide (e.2.ctx = n) && decide (e.2.state ≠ .disabled)).map (·.1)
  mine.foldl (fun s r =>
    let x := s.ring r
    let s := s.setRing r { x with stopped := true, reads := [], limit := none, dupWait := false }
    let s := rcbConsumer r s
    if x.state = .halted then s else ringTo r .idle s) s

/-- Step 2 of R58: every fence of the context is put on its way into the terminal error, and the
context's own pending waits are dropped. -/
def loseFences (n : Nat) (s : State) : State :=
  let why := (s.ctx n).reason
  (fencesOf s n).foldl (fun s k => sendFence k (s.fence k).alloc (.inr why) s) s

/-- The context goes to ABORTING (R39, R58). The reason is fixed when it first leaves ACTIVE
(R105); a context that is ABORTING, RETIRED or FREE, and context 0, is left alone (R40, R60). -/
def abortCtx (n : Nat) (why : Reason) (s : State) : State :=
  let c := s.ctx n
  if n = 0 then s
  else match c.state with
    | .active | .draining =>
      let reason := if c.state = .active then why else c.reason
      let s := s.setCtx n { c with state := .aborting, reason }
      discardWaiting n (loseFences n (stopRings n s))
    | _ => s

/-- Does a context still run work: ABORTING and RETIRED contexts' boundaries discard (R58 step 3). -/
def ctxRuns (s : State) (n : Nat) : Bool :=
  match (s.ctx n).state with
  | .active | .draining => true
  | _ => false

/-- An op of an aborting context is discarded: no record is written for it. -/
def discardOp (o : OpRef) (s : State) : State :=
  let s := s.onOp o fun p => { p with phase := .done, skipped := true, units := [] }
  match s.entry? o.ring.val o.seq with
  | some e =>
    if opsDone e then
      let s := match e.launch with
        | some l => unpin e.ctx l s
        | none => s
      s.onFe fun f => { f with entries := f.entries.filter fun x => !(decide (x.ring = e.ring) && decide (x.seq = e.seq)) }
    else s
  | none => s

/-! ## Pinning -/

/-- SEC_CFG.PIN_LOG_ONLY (R385). -/
def pinLogOnly (s : State) : Bool := bit (s.raw 0 0x050008).toNat 2

def pinRecOf (s : State) (m : Nat) : Option PinRec := (s.sec.recs.find? fun e => e.1 = m).map (·.2)

/-- Stores a master's pin record; a halted SEC block writes it after the rewrite (R447). -/
def storePinRec (m : Nat) (p : PinRec) (s : State) : State :=
  if s.halted .sec then s.onSec fun x => { x with heldRecs := x.heldRecs ++ [(m, p)] }
  else s.onSec fun x => { x with recs := x.recs.filter (fun e => e.1 ≠ m) ++ [(m, p)] }

/-- A cause met while pinned sets its bit and counts (R383). -/
def PinRec.again (p : PinRec) (cause : Nat) : PinRec :=
  { p with causes := p.causes ||| 2 ^ (cause - 1), count := Nat.min (p.count + 1) 0xFFFF }

/-- A plan that is armed or running. -/
def planActive (x : Reshard) : Bool := decide (x.state = .armed) || decide (x.state = .running)

/-- A plan ends early: its STATE, and DONE_FENCE into ERROR (R225, R231). -/
def planStop (d : Nat) (st : PlanState) (why : Reason) (s : State) : State :=
  let x := s.plan d
  sendFence x.doneFence.1 x.doneFence.2 (.inr why) (s.setPlan d { x with state := st, aborting := false, begun := [] })

/-- A pinned reshard engine writes nothing more: its plan is FAILED (R231). -/
def pinPlan (m : Nat) (s : State) : State :=
  if (m = 0x70 ∨ m = 0x71) ∧ planActive (s.plan (m - 0x70)) then planStop (m - 0x70) .failed .faulted s else s

/-- What a pin does in the unit itself. -/
def pinUnit (m : Nat) (s : State) : State := pinPlan m s

/-- A master is frozen (R382): each op that holds it completes with PINNED, its record is written, its map
bit set and the error logged. -/
def freezeMaster (m : Nat) (p : PinRec) (s : State) : State :=
  logWrite 0x10 1 m p.ctx p.cause p.addr false
    (storePinRec m p (pinUnit m (endOpsOn m stPinned (s.onSec fun x => { x with pinned := x.pinned ++ [m] }))))

/-- A violation under PIN_LOG_ONLY performs steps 1 and 5 of R382 alone (R385): a further one counts in the
record, and is logged again. Its log entry is judged as any other: a third in service pins the master with
ESCALATED (R450). -/
def noteMaster (m : Nat) (p : PinRec) (s : State) : State :=
  let q := if s.sec.logged.contains m then ((pinRecOf s m).map fun r => r.again p.cause).getD p else p
  let n := inService s m
  let s := s.onSec fun x => { x with logged := if x.logged.contains m then x.logged else x.logged ++ [m] }
  let s := logWrite 0x10 1 m p.ctx p.cause q.addr false (storePinRec m q s)
  if n < 2 then s else freezeMaster m { p with cause := 6, causes := 2 ^ 5, key := 0, addr := 0 } s

/-- Pins a master (R382). One already pinned only counts (R383). -/
def pinMaster (m cause ctx key addr : Nat) (s : State) : State :=
  let p : PinRec := { cause, causes := 2 ^ (cause - 1), ctx, key, count := 1, addr, t := s.time }
  if s.isPinned m then
    match pinRecOf s m with
    | some q => storePinRec m (q.again cause) s
    | none => s
  else if pinLogOnly s ∧ cause ≤ 4 then noteMaster m p s
  else freezeMaster m p s

/-! ## Logging with escalation -/

/-- An error arrives (R450): it is written or lost, and with two or more entries of its source in
service it also pins the source, aborts the context named, or raises the critical event. -/
def logError (code src ctx info0 info1 : Nat) (critical : Bool) (s : State) : State :=
  let n := inService s src
  let s := logWrite code (codeClass code) src ctx info0 info1 critical s
  if n < 2 then s
  else if src < 0x72 then pinMaster src 6 ctx 0 0 s
  else if ctx ≠ 0 then abortCtx ctx .ownerGone s
  else criticalEvent (s.onErr fun e => { e with escalated := true })

/-! ## Reserved block codes -/

/-- The log entries of reserved block codes met since (R299). The codec is below the error log: the entry is
written with the command that met the code, or with the next one that fills lines or works on memory. -/
def metaLog (s : State) : State :=
  s.mem.metaErrs.foldl (fun s e => logError 0x21 (0x88 + e.die) e.key e.code e.pa false s) (s.onMem fun m => { m with metaErrs := [] })

/-! ## Fault records -/

/-- ACCESS of a fault record (R57). -/
def accNum : Access → Nat
  | .read => 1 | .write => 2 | .exec => 4 | .atomic => 8

/-- What a fault record tells (R57). -/
structure FaultInfo where
  va     : Nat
  pa     : Nat
  ctx    : Nat
  master : Nat
  code   : FaultCode
  acc    : Access
  level  : Nat
  ring   : Nat
  seq    : Nat
  deriving DecidableEq, Repr

/-- The 32 bytes of a fault record. -/
def FaultInfo.bytes (f : FaultInfo) (gen : Nat) : List Byte :=
  natLe 8 f.va ++ natLe 8 f.pa ++ natLe 2 f.ctx ++ natLe 2 gen ++ natLe 1 f.master ++
  natLe 1 f.code.num ++ natLe 1 (accNum f.acc) ++ natLe 1 f.level ++ natLe 2 f.ring ++ natLe 2 0 ++
  natLe 4 f.seq

/-- A queue of the device: full when PRODUCER - CONSUMER is at least its size, or when CONSUMER
cannot be read; a record that cannot be written is lost (R57). Answers the counts and whether the
record was written; none while the read of CONSUMER must wait. -/
def queuePut (base log2 recBytes : Nat) (c : QueueCnt) (rec : List Byte) (s : State) :
    Option (QueueCnt × Bool × State) :=
  let header := fun (c : QueueCnt) (s : State) =>
    let s := (devWrite base (natLe 8 c.prod.toNat) s).getD s
    (devWrite (base + 16) (natLe 8 c.lost.toNat) s).getD s
  let lose := fun (s : State) =>
    let c := { c with lost := c.lost + 1 }
    some (c, false, header c s)
  match devRead (base + 8) 8 s with
  | .wait => none
  | .failed => lose s
  | .done (bs, s) =>
    let used := c.prod - q64 (leNat bs)
    if 2 ^ log2 ≤ used.toNat then lose s
    else
      match devWrite (base + 64 + recBytes * (c.prod.toNat % 2 ^ log2)) rec s with
      | none => lose s
      | some s =>
        let c := { c with prod := c.prod + 1 }
        some (c, true, header c s)

/-- A violation by the front end, fence table, walkers or Monarch controller: logged, pins nothing
(R482). Causes: 1 KEY_MISMATCH, 3 REG_ACCESS. -/
def isolationError (src ctx cause pa : Nat) (s : State) : State := logError 0x11 src ctx cause pa false s

/-- An access of the device itself that was not performed is logged where it is a violation (R482). -/
def noteViolation (src ctx pa n : Nat) (s : State) : State :=
  match devCause pa n s with
  | some c => isolationError src ctx c pa s
  | none => s

/-- The access to a queue of the device that fails as a record is put there, as its address and length: the read of
CONSUMER, or else the write of the record (R57). -/
def queueAccess (base log2 recBytes : Nat) (c : QueueCnt) (s : State) : Option (Nat × Nat) :=
  match devRead (base + 8) 8 s with
  | .wait => none
  | .failed => some (base + 8, 8)
  | .done (bs, _) =>
    if 2 ^ log2 ≤ (c.prod - q64 (leNat bs)).toNat then none
    else some (base + 64 + recBytes * (c.prod.toNat % 2 ^ log2), recBytes)

/-- A violation that a record met at its queue is logged once (R482). DEDUCED (log 116): the header's writes after it
are part of the same record. -/
def noteQueue (src ctx : Nat) (at' : Option (Nat × Nat)) (s : State) : State :=
  match at' with
  | some (pa, n) => noteViolation src ctx pa n s
  | none => s

/-- A record waits behind those of its queue that wait already. -/
def keepRecord (r : QueueRec) (s : State) : State := s.onMem fun m => { m with records := m.records ++ [r] }

def recordWaits (s : State) (event : Bool) (n : Nat) : Bool := s.mem.records.any fun r => r.event == event && decide (r.n = n)

/-- Writes a record to the fault queue of a context, or counts it LOST, and raises VECTOR after a record
written (R57); a violation there is one of the walkers (R482). Context 0 has no
queue before its first RELOAD (R40). -/
def faultPut (n : Nat) (rec : List Byte) (s : State) : State :=
  let c := s.ctx n
  match c.fqBase with
  | none => s
  | some base =>
    let wait := keepRecord { event := false, n, bytes := rec } s
    let at' := queueAccess base c.fqLog2 32 { prod := c.prod, lost := c.lost } s
    if recordWaits s false n then wait
    else match queuePut base c.fqLog2 32 { prod := c.prod, lost := c.lost } rec s with
      | none => wait
      | some (q, written, s) =>
        let s := s.setCtx n { s.ctx n with prod := q.prod, lost := q.lost }
        let s := noteQueue 0x81 n at' s
        if written then
          if h : n < 512 then raiseVec (.ctx ⟨n, h⟩) (fnOfCtx s n) c.vector s else s
        else s

/-- Writes the fault record of a fault taken (R57). -/
def faultRecord (f : FaultInfo) (s : State) : State := faultPut f.ctx (f.bytes (s.ctx f.ctx).gen.toNat) s

/-- A master takes a fault: its record, and its pin when a key rule is the fault taken (R56). -/
def takeFault (f : FaultInfo) (key : Nat) (s : State) : State :=
  let s := faultRecord f s
  if f.code = .keyMismatch then pinMaster f.master 1 f.ctx key f.pa s else s

end Sys2Proof.Machine
end

