-- ==== Sys2Proof/Machine/FenceOps.lean ====
section
/-! DEFINITION. The fence table (R100 to R112, R483): waits, signals, errors, notify slots, fence
events, and the fence commands. -/

namespace Sys2Proof.Machine

open Sys2Proof

/-! ## Waits -/

/-- How a wait stands. -/
inductive Wait where
  | sat | pending | error (r : Reason)
  deriving DecidableEq, Repr

/-- Key of the fence that an edge names. -/
def Edge.key (e : Edge) : Nat := if e.kind = 3 then sharedKey e.object else e.object

/-- How the wait of an edge stands (R95 to R97, R483). A ring enabled again counts from its CONSUMER
(R64); an entry accepted before that and still running has not completed. -/
def edgeWait (s : State) (e : Edge) : Wait :=
  if e.sat then .sat
  else if e.kind = 1 then
    if !e.dead ∧ e.value ≤ (s.ring e.object).completed ∧ (s.entry? e.object e.value.toNat).isNone then .sat else .pending
  else
    let f := s.fence e.key
    if f.st = .free ∨ f.alloc ≠ e.alloc then
      if e.flags % 2 = 1 then .sat else .error .aborted
    else if e.value ≤ f.value then .sat
    else match f.st, f.reason with
      | .active, _ => .pending
      | _, some r => if e.flags % 2 = 1 then .sat else .error r
      | _, none => if e.flags % 2 = 1 then .sat else .error .aborted

/-- Looks again at the waits of an entry: satisfied edges stay so, and the first one in error ends
the wait with DEP_ERROR (R97). -/
def recheckEntry (s : State) (e : Entry) : Entry :=
  if e.phase ≠ .waiting then e
  else
    let ws := e.edges.take e.nwait
    match ws.findSome? (fun w => match edgeWait s w with
      | .error r => some r
      | _ => none) with
    | some r => { e with phase := .finished, status := stDepError, opIndex := 0xFFFF, reason := r, ops := [] }
    | none =>
      let ws' := ws.map fun w => if edgeWait s w = .sat then { w with sat := true } else w
      { e with edges := ws' ++ e.edges.drop e.nwait }

/-- Looks again at a running FENCE_WAIT (R114): its outcome as STATUS and DETAIL. -/
def recheckOp (s : State) (p : Op) : Option (Nat × Nat) :=
  if p.phase = .running ∧ p.opcode = 1 then
    match p.fence with
    | some w => match edgeWait s w with
      | .sat => some (stOk, 0)
      | .error r => some (stOpError, r.num)
      | .pending => none
    | none => none
  else none

/-- Ends the FENCE_WAIT ops of an entry whose wait has ended. -/
def recheckOps (s : State) (e : Entry) : Entry :=
  let end1 := fun (p : Op) => match recheckOp s p with
    | some (st, d) => { p with phase := .done, status := st, detail := d }
    | none => p
  if e.ops.any (fun p => (recheckOp s p).isSome) then settle { e with ops := skipFrom (e.ops.map end1) } else e

/-- How the trigger of an armed plan stands, as a wait edge would (R95, R225). -/
def planWait (s : State) (x : Reshard) : Wait :=
  let f := s.fence x.trig.1
  if x.slotWait then .pending
  else if !x.trigEn ∨ x.satisfied then .sat
  else if f.st = .free ∨ f.alloc ≠ x.trig.2 then .error .aborted
  else if x.trigValue ≤ f.value then .sat
  else if f.st = .active then .pending
  else .error (f.reason.getD .aborted)

/-- A plan whose trigger has reached its value stays satisfied (R95). -/
def latchPlan (s : State) (x : Reshard) : Reshard := if x.state = .armed ∧ planWait s x = .sat then { x with satisfied := true } else x

/-- Releases every wait that the state now satisfies or ends (R95, R97). -/
def releaseWaits (s : State) : State :=
  let s := s.onFe fun f => { f with entries := f.entries.map fun e => recheckOps s (recheckEntry s e) }
  { s with rsh := s.rsh.map fun e => (e.1, latchPlan s e.2) }

/-- Wait edges of an entry that take a slot of the pending-wait table: every one until its edge array is
read, then the unsatisfied ones. -/
def entryWaits (e : Entry) : Nat := match e.phase with
  | .edges => e.nwait
  | .framing | .waiting => ((e.edges.take e.nwait).filter fun w => !w.sat).length
  | _ => 0

/-- Unsatisfied wait edges, FENCE_WAIT ops and plan triggers held by the pending-wait table (R99, R224). -/
def pendingWaits (s : State) : Nat :=
  (s.fe.entries.map fun e => entryWaits e + (e.ops.filter fun p => decide (p.phase = .running) && p.fence.isSome).length).sum +
  (s.rsh.filter fun e => decide (e.2.state = .armed) && e.2.trigEn && !e.2.satisfied && !e.2.slotWait).length

/-- Slots of the pending-wait table. -/
def waitSlots : Nat := 16384

/-! ## Notify slots -/

def NotifySlot.empty : NotifySlot :=
  { threshold := 0, addr := 0, data := 0, armed := false, result := 0, reason := 0 }

def Fence.slot (f : Fence) (i : Nat) : NotifySlot := tblGet NotifySlot.empty f.slots i

/-- Fires the armed slots of a fence whose condition is met (R112): RESULT and REASON, ARMED
cleared, then one posted write of DATA. DESIGN CHOICE (log 82): bits of ADDR above bit 47, which R112 does
not mention, are dropped. -/
def fireSlots (k : Nat) (s : State) : State :=
  (upTo 8).foldl (fun s i =>
    let f := s.fence k
    let n := f.slot i
    if n.armed ∧ f.st ≠ .free ∧ (n.threshold ≤ f.value ∨ f.st ≠ .active) then
      let hit := decide (n.threshold ≤ f.value)
      let n' := { n with armed := false, result := if hit then 1 else 2, reason := if hit then 0 else (f.reason.map Reason.num).getD 0 }
      let s := s.setFence k { f with slots := tblSet NotifySlot.empty f.slots i n' }
      let pa := 2 ^ 48 + n.addr.toNat % 2 ^ 48
      match devWrite pa (natLe 8 n.data.toNat) s with
      | some s => s
      | none => isolationError 0x82 f.owner 3 pa s
    else s) s

/-! ## Fence events -/

def State.evq (s : State) (fn : Nat) : QueueCnt := tblGet QueueCnt.zero s.fen.evq fn

def State.setEvq (fn : Nat) (q : QueueCnt) (s : State) : State :=
  s.onFen fun f => { f with evq := tblSet QueueCnt.zero f.evq fn q }

/-- LOG2, VECTOR and ENABLE of a function's event queue. -/
def evqCfg (s : State) (fn : Nat) : Nat × Nat × Bool :=
  let cfg := (s.raw fn 0x080028).toNat
  (bits cfg 3 0, bits cfg 26 16, bit cfg 31)

/-- Writes a record to the event queue of a function, or counts it LOST (R57, R109). -/
def eventPut (fn owner : Nat) (rec : List Byte) (s : State) : State :=
  let (log2, vec, _) := evqCfg s fn
  let base := s.rawBase fn 0x080020 0x080024
  let wait := keepRecord { event := true, n := fn, bytes := rec } s
  let at' := queueAccess base log2 32 (s.evq fn) s
  if recordWaits s true fn then wait
  else match queuePut base log2 32 (s.evq fn) rec s with
    | none => wait
    | some (q, ok, s) =>
      let s := s.setEvq fn q
      let s := noteQueue 0x82 owner at' s
      if ok then
        if h : fn < 64 then raiseVec (.fenceEvents ⟨fn, h⟩) fn vec s else s
      else s

/-- Device writes and queue records that waited for a halted block or a severed link are made, in their
order, as far as they now can be (R447, R456). -/
def retryWaiting (s : State) : State :=
  let s := retryPosted s
  s.mem.records.foldl (fun s r => if r.event then eventPut r.n 0 r.bytes s else faultPut r.n r.bytes s) (s.onMem fun m => { m with records := [] })

/-- Writes a fence event to the queue of its function, or counts it LOST (R109). -/
def fenceEvent (k : Nat) (type : Nat) (s : State) : State :=
  let f := s.fence k
  let s := s.setFence k { f with evLast := some s.time, evHeld := false }
  let fn := fnOfFence s k
  let (log2, vec, on) := evqCfg s fn
  let q := s.evq fn
  if on ∧ vec ≠ 0 ∧ 4 ≤ log2 ∧ log2 ≤ 12 then
    let reason := if type = 1 then (f.reason.map Reason.num).getD 0 else 0
    let body := natLe 8 f.cookie.toNat ++ natLe 8 f.value.toNat ++ natLe 2 k ++ natLe 1 type ++
      natLe 1 reason ++ natLe 4 0 ++ natLe 8 s.time
    eventPut fn f.owner body s
  else s.setEvq fn { q with lost := q.lost + 1 }

/-- A value change of a notifying local fence: an event now, or held by the spacing (R109). -/
def valueEvent (k : Nat) (s : State) : State :=
  let f := s.fence k
  if f.notify ∧ k < 65536 then
    match f.evLast with
    | some t => if s.time < t + 1000 then s.setFence k { f with evHeld := true } else fenceEvent k 0 s
    | none => fenceEvent k 0 s
  else s

/-- The error event of a notifying local fence: at once, and alone (R109). -/
def errorEvent (k : Nat) (s : State) : State :=
  if (s.fence k).notify ∧ k < 65536 then fenceEvent k 1 s else s

/-! ## Signals and errors -/

/-- A signal reaches the fence table (R100, R101): a greater value is taken, any other counts. -/
def fenceSignal (k : Nat) (v : Quad) (s : State) : State :=
  let f := s.fence k
  if f.st = .active ∧ f.value < v then
    let s := s.setFence k { f with value := v, changed := s.time }
    valueEvent k (fireSlots k (releaseWaits s))
  else s.setFence k { f with ignored := f.ignored + 1 }

/-- An error reaches the fence table (R101): terminal, and the first reason stays. -/
def fenceError (k : Nat) (why : Reason) (s : State) : State :=
  let f := s.fence k
  if f.st = .active then
    let s := s.setFence k { f with st := .error, reason := some why }
    errorEvent k (fireSlots k (releaseWaits s))
  else s

/-- Applies one message; one whose fence has been freed since is dropped (R483). -/
def applyMsg (m : FenceMsg) (s : State) : State :=
  let f := s.fence m.fence
  if f.st = .free ∨ f.alloc ≠ m.alloc then s
  else match m.what with
    | .inl v =>
      if m.page ∧ !f.pageSig then s.setFence m.fence { f with ignored := f.ignored + 1 }
      else fenceSignal m.fence v s
    | .inr why => if m.page ∧ !f.pageErr then s else fenceError m.fence why s

/-- Applies the messages of one fence that arrived before now, in order. -/
def drainFence (k : Nat) (s : State) : State :=
  let mine := s.fen.queue.filter fun m => m.fence = k
  let s := s.onFen fun f => { f with queue := f.queue.filter fun m => m.fence ≠ k }
  mine.foldl (fun s m => applyMsg m s) s

/-- An unsatisfied waiter of a fence: a wait edge, a FENCE_WAIT op or an armed slot (R104). -/
def hasWaiter (s : State) (k : Nat) : Bool :=
  let f := s.fence k
  let on := fun (w : Edge) => decide (w.kind ≠ 1) && decide (w.key = k) && decide (w.alloc = f.alloc) &&
    decide (edgeWait s w = .pending)
  s.fe.entries.any (fun e =>
    (decide (e.phase = .waiting) && (e.edges.take e.nwait).any on) ||
    e.ops.any fun p => decide (p.phase = .running) && decide (p.opcode = 1) && (p.fence.any on)) ||
  f.slots.any fun n => n.2.armed

/-- One fence at a timeout scan (R104). -/
def scanFence (k : Nat) (s : State) : State :=
  let s := drainFence k s
  let f := s.fence k
  if f.st = .active ∧ f.timeout ≠ 0 ∧ hasWaiter s k ∧ f.changed + f.timeout * 1000000 ≤ s.time then
    fenceError k .timeout s
  else s

/-! ## Freeing -/

/-- FREE of an ACTIVE or ERROR fence (R108, R110). -/
def freeFence (k : Nat) (s : State) : State :=
  let s := fenceError k .aborted s
  let f := s.fence k
  if k < 65536 ∨ f.imports = [] then releaseWaits (s.setFence k Fence.freeFence)
  else s.setFence k { f with st := .releasing }

/-- Removes one import that a test names; a RELEASING fence without imports becomes FREE (R110). -/
def dropImport (k : Nat) (i : FenceImport) (s : State) : State :=
  let f := s.fence k
  let f' := { f with imports := f.imports.erase i }
  if f.st = .releasing ∧ f'.imports = [] then releaseWaits (s.setFence k Fence.freeFence)
  else s.setFence k f'

/-! ## Commands (R107, R108) -/

/-- Results that registers show. -/
def resOk : Nat := 0
def resBadRecord : Nat := 1
def resRange : Nat := 2
def resState : Nat := 3
def resFetch : Nat := 4

/-- The fence that FEN_SEL of a function names, if it lies in the function's range. -/
def fenSelected (s : State) (fn : Nat) : Option Nat :=
  let sel := (s.raw fn 0x080000).toNat
  let n := bits sel 15 0
  if bit sel 16 then
    if n < 1024 ∧ fnHasShared s fn n then some (sharedKey n) else none
  else if fnHasLocal s fn n then some n else none

def fenResult (fn res : Nat) (s : State) : State :=
  s.onFen fun f => { f with results := tblSet 0 f.results fn res }

/-- Runs a command on the selected fence, after the messages that arrived before it. -/
def fenCommand (fn : Nat) (f : Nat → State → Nat × State) (s : State) : State :=
  match fenSelected s fn with
  | none => fenResult fn resRange s
  | some k =>
    let (res, s) := f k (drainFence k s)
    fenResult fn res s

def fenDoAlloc (fn k : Nat) (s : State) : Nat × State :=
  let cfg := (s.raw fn 0x080004).toNat
  let ctx := bits cfg 8 0
  if !fnHasCtx s fn ctx then (resRange, s)
  else if (s.fence k).st ≠ .free ∨ (s.ctx ctx).state ≠ .active then (resState, s)
  else
    let shared := decide (65536 ≤ k)
    let alloc := s.fen.allocs + 1
    let f : Fence := { Fence.freeFence with st := .active, value := q64 (s.rawBase fn 0x080008 0x08000C), owner := ctx, notify := bit cfg 9 && !shared, pageSig := bit cfg 10 && shared, pageErr := bit cfg 11 && shared, timeout := bits cfg 31 16, cookie := q64 (s.rawBase fn 0x080010 0x080014), alloc, changed := s.time }
    (resOk, (s.setFence k f).onFen fun x => { x with allocs := alloc })

def fenDoFree (k : Nat) (s : State) : Nat × State :=
  match (s.fence k).st with
  | .active | .error => (resOk, freeFence k s)
  | _ => (resState, s)

def fenDoRead (fn k : Nat) (s : State) : Nat × State :=
  let f := s.fence k
  if f.st = .free then (resState, s)
  else (resOk, (s.setRaw fn 0x080008 (w32 f.value.toNat)).setRaw fn 0x08000C (w32 (f.value.toNat / 2 ^ 32)))

def fenDoSetError (fn k : Nat) (s : State) : Nat × State :=
  if (s.fence k).st ≠ .active then (resState, s)
  else match reasonOf (bits (s.raw fn 0x080008).toNat 7 0) with
    | none => (resBadRecord, s)
    | some why => (resOk, fenceError k why s)

/-- The import that DATA_LO names (R110); a peer's ignores IMPORTER. -/
def importArg (s : State) (fn : Nat) : FenceImport :=
  let d := (s.raw fn 0x080008).toNat
  { ctx := if bit d 10 then 0 else bits d 8 0, signal := bit d 9, peer := bit d 10 }

/-- A virtual function may name only its own contexts (R110). -/
def importRange (s : State) (fn : Nat) (i : FenceImport) : Bool :=
  decide (fn = 0) || i.peer || fnHasCtx s fn i.ctx

def fenDoImport (fn k : Nat) (s : State) : Nat × State :=
  let i := importArg s fn
  if k < 65536 then (resBadRecord, s)
  else if !importRange s fn i then (resRange, s)
  else
    let f := s.fence k
    match f.st with
    | .active | .error =>
      if 32 ≤ f.imports.length then (resState, s)
      else (resOk, s.setFence k { f with imports := f.imports ++ [i] })
    | _ => (resState, s)

def fenDoUnimport (fn k : Nat) (s : State) : Nat × State :=
  let i := importArg s fn
  if k < 65536 then (resBadRecord, s)
  else if !importRange s fn i then (resRange, s)
  else
    let f := s.fence k
    if f.st = .free ∨ !f.imports.contains i then (resState, s) else (resOk, dropImport k i s)

/-- Step 8 of R58 for the fences: the context's imports go, and its own shared fences that are not
RELEASING are freed (R110). Its local fences stay in ERROR until the driver frees them. -/
def retireFences (n : Nat) (s : State) : State :=
  let keys := s.fen.fences.map (·.1)
  let s := keys.foldl (fun s k =>
    ((s.fence k).imports.filter fun i => !i.peer && decide (i.ctx = n)).foldl (fun s i => dropImport k i s) s) s
  keys.foldl (fun s k =>
    let f := s.fence k
    if 65536 ≤ k ∧ f.st ≠ .free ∧ f.owner = n ∧ f.st ≠ .releasing then freeFence k s else s) s

/-- Applies what is still on its way to the fences of a context (R58 step 2). -/
def settleFences (n : Nat) (s : State) : State := (fencesOf s n).foldl (fun s k => drainFence k s) s

end Sys2Proof.Machine
end

