-- ==== Sys2Proof/Machine/Translate.lean ====
section
/-! DEFINITION. Translation (R41 to R47, R52, R53), the checks of a leaf (R46, R56), and accesses
through a context's virtual addresses. -/

namespace Sys2Proof.Machine

open Sys2Proof

/-! ## Masters and their TLBs (R17, R52) -/

/-- The compute die of a master; none for base-die masters. -/
def masterDie (m : Nat) : Option Nat :=
  if m < 0x40 then some (m / 32)
  else if m < 0x48 then some ((m - 0x40) / 4)
  else if m < 0x68 then some ((m - 0x48) / 16)
  else if m = 0x70 ∨ m = 0x71 then some (m - 0x70)
  else none

/-- Entries of a master's micro-TLB. -/
def utlbSize (m : Nat) : Nat := if m < 0x40 then 64 else 32

def dtlbSize : Nat := 8192

def TlbEntry.hits (t : TlbEntry) (ctx va : Nat) : Bool :=
  decide (t.ctx = ctx) && decide (t.leaf.va ≤ va) && decide (va < t.leaf.va + t.leaf.size)

/-- Adds an entry to a TLB, the newest last. DESIGN CHOICE (log 74): R52 gives no replacement policy; the
entry that was added or used longest ago leaves a full TLB. -/
def tlbAdd (size : Nat) (t : TlbEntry) (l : List TlbEntry) : List TlbEntry :=
  let l := l.filter (· ≠ t) ++ [t]
  l.drop (l.length - size)

def utlbOf (s : State) (m : Nat) : List TlbEntry := tblGet [] s.mmu.utlb m
def dtlbOf (s : State) (d : Nat) : List TlbEntry := tblGet [] s.mmu.dtlb d

def installU (m : Nat) (t : TlbEntry) (s : State) : State :=
  s.onMmu fun x => { x with utlb := tblSet [] x.utlb m (tlbAdd (utlbSize m) t (tblGet [] x.utlb m)) }

def installD (d : Nat) (t : TlbEntry) (s : State) : State :=
  s.onMmu fun x => { x with dtlb := tblSet [] x.dtlb d (tlbAdd dtlbSize t (tblGet [] x.dtlb d)) }

/-- Discards the TLB entries that a test names, everywhere. -/
def tlbDiscard (p : TlbEntry → Bool) (s : State) : State :=
  let cut := fun (t : Tbl (List TlbEntry)) =>
    (t.map fun e => (e.1, e.2.filter fun x => !p x)).filter fun e => e.2 ≠ []
  s.onMmu fun x => { x with utlb := cut x.utlb, dtlb := cut x.dtlb }

/-- A TLB entry that serves a master's request (R52). -/
def tlbLookup (s : State) (m ctx va : Nat) : Option TlbEntry :=
  match (utlbOf s m).find? fun t => t.hits ctx va with
  | some t => some t
  | none => match masterDie m with
    | some d => (dtlbOf s d).find? fun t => t.hits ctx va
    | none => none

/-! ## The walk -/

/-- A fault of translation or of an access: the code, LEVEL and PA of R57, the key it met, and
whether the request looped back to the device's own BARs (R380) instead. -/
structure Flt where
  code  : FaultCode
  level : Nat
  pa    : Nat
  key   : Nat
  bar   : Bool
  va    : Option Nat           -- where it is not the start of the access: the address that faulted
  deriving DecidableEq, Repr

def Flt.mk' (code : FaultCode) (level pa : Nat) : Flt := { code, level, pa, key := 0, bar := false, va := none }

/-- How a translation or an access through it ends. -/
inductive Res (α : Type) where
  | ok (a : α) (s : State)
  | fault (f : Flt) (s : State)
  | severed (s : State)
  | wait (s : State)

def Res.state {α : Type} : Res α → State
  | .ok _ s => s
  | .fault _ s => s
  | .severed s => s
  | .wait s => s

/-- A table read of n bytes as key ID 0 through the L2, or from host memory (R45). A pointer that names
memory which the walkers may not read faults at the level of the entry that holds it: 3 for PT_ROOT
(R482). DESIGN CHOICE (log 75): so does a table in a window whose unit is gated or being cleared; the
spec gives such a read no code of its own. -/
def walkRead (ctx level pa n : Nat) (s : State) : Res (List Byte) :=
  let above := Flt.mk' .ptFormat (Nat.min (level + 1) 3) pa
  if loopsBack s pa then .fault above (isolationError 0x81 ctx 3 pa s)
  else match paRead 0 { Attr.plain with cache := if 2 ^ 48 ≤ pa then 3 else 0 } pa n s with
    | .ok bs s => .ok bs s
    | .fault .keyMismatch s => .fault above (isolationError 0x81 ctx 1 pa s)
    | .fault .hostError s => .fault (.mk' .hostError level (pa / 4096 * 4096)) s
    | .fault _ s => .fault above s
    | .severed => .severed s
    | .wait => .wait s

/-- Names memory that a table can lie in (R45). -/
def namesMemory (s : State) (pa : Nat) : Bool := decide (target s pa ≠ .unmapped)

/-- Bytes of a leaf page at a level (R42). -/
def pageSize (level : Nat) : Nat := 2 ^ (12 + 9 * level)

/-- The rules of a leaf's own bits (R43, R45). -/
def leafFormed (e level : Nat) : Bool :=
  let frame := bits e 48 12 * 4096
  decide (bits e 54 49 = 0) && decide (bits e 8 7 ≠ 3) && decide (level ≤ 2) &&
  decide (frame % pageSize level = 0) && (decide (level = 0) || !bit e 11) &&
  !((bit e 9 || bit e 10) && decide (2 ^ 48 ≤ frame))

/-- The leaf of an entry. -/
def leafOf (e level va : Nat) : Leaf :=
  { base := bits e 48 12 * 4096, va := va / pageSize level * pageSize level, size := pageSize level,
    level, r := bit e 2, w := bit e 3, x := bit e 4, cache := bits e 6 5, place := bits e 8 7,
    fbc := bit e 9, prot := bit e 10, key := bits e 63 55 }

/-- A 64 KiB group of 16 entries is consistent (R44). -/
def groupFormed (es : List Nat) : Bool :=
  let e0 := es.headD 0
  let f0 := bits e0 48 12
  decide (f0 % 16 = 0) && (upTo 16).all fun i =>
    let e := es.getD i 0
    decide (bits e 11 0 = bits e0 11 0) && decide (bits e 63 49 = bits e0 63 49) && decide (bits e 48 12 = f0 + i)

/-- The walker at a level, with the table's address (R42 to R45). Fuel: levels left. -/
def walkAt (ctx va : Nat) : Nat → Nat → State → Res Leaf
  | 0, _, s => .fault (.mk' .ptFormat 0 0) s
  | f + 1, table, s =>
    let level := f
    let idx := va / pageSize level % 512
    match walkRead ctx level (table + 8 * idx) 8 s with
    | .fault x s => .fault x s
    | .severed s => .severed s
    | .wait s => .wait s
    | .ok bs s =>
      let e := leNat bs
      if level = 0 ∧ bit e 11 then
        match walkRead ctx level (table + 8 * (idx / 16 * 16)) 128 s with
        | .fault x s => .fault x s
        | .severed s => .severed s
        | .wait s => .wait s
        | .ok gs s =>
          let es := (upTo 16).map fun i => fld gs (8 * i) 8
          let e0 := es.headD 0
          if !bit e0 0 then .fault (.mk' .notValid 0 0) s
          else if !bit e0 1 ∨ !leafFormed e0 0 ∨ !groupFormed es then .fault (.mk' .ptFormat 0 0) s
          else
            let l := leafOf e0 0 va
            .ok { l with va := va / 65536 * 65536, size := 65536 } s
      else if !bit e 0 then .fault (.mk' .notValid level 0) s
      else if bit e 1 then
        if leafFormed e level then .ok (leafOf e level va) s else .fault (.mk' .ptFormat level 0) s
      else if level = 0 ∨ bits e 11 2 ≠ 0 ∨ bits e 63 49 ≠ 0 then .fault (.mk' .ptFormat level 0) s
      else
        let next := bits e 48 12 * 4096
        if namesMemory s next then walkAt ctx va f next s else .fault (.mk' .ptFormat level next) s

/-- A walk of a context's address (R40, R41, R45). -/
def walkVa (ctx va : Nat) (s : State) : Res Leaf :=
  if 2 ^ 48 ≤ va then .fault (.mk' .vaRange 0xFF 0) s
  else match (s.ctx ctx).ptRoot with
    | none => .fault (.mk' .notValid 0xFF 0) s
    | some root =>
      if namesMemory s root then walkAt ctx va 4 root s else .fault (.mk' .ptFormat 3 root) s

/-! ## The checks of a leaf -/

/-- The key rule of R46. -/
def keyRule (s : State) (ctx : Nat) (l : Leaf) : Bool :=
  decide (l.key = ctx) || (decide (l.key = 0) && (s.ctx ctx).plainOk)

/-- The protected rule of R46. -/
def protRule (s : State) (ctx : Nat) (l : Leaf) (acc : Access) : Bool :=
  let sess := (s.ctx ctx).prot
  match acc with
  | .read | .exec => sess || !l.prot
  | .write => !sess || l.prot
  | .atomic => sess == l.prot

/-- Placement of a leaf against its granule, and the cover of the framebuffer table (R46, R296). -/
def placeRule (s : State) (l : Leaf) (pa : Nat) : Bool :=
  match target s pa with
  | .pkg _ _ => decide (entryClass (granEntry s (pa / 2 ^ 30)) = l.place) &&
      (!l.fbc || decide (pa / 4096 < fbcLimit s))
  | _ => true

/-- Checks 3 to 7 of R56 for an access through a leaf. -/
def leafCheck (s : State) (ctx va : Nat) (acc : Access) (l : Leaf) : Option Flt :=
  let pa := l.base + (va - l.va)
  let f := fun (c : FaultCode) => some (Flt.mk' c l.level 0)
  if !keyRule s ctx l then some { code := .keyMismatch, level := l.level, pa, key := l.key, bar := false, va := none }
  else if (acc = .read ∨ acc = .atomic) ∧ !l.r then f .readDenied
  else if (acc = .write ∨ acc = .atomic) ∧ !l.w then f .writeDenied
  else if acc = .exec ∧ !l.x then f .execDenied
  else if !protRule s ctx l acc then f .protectedPage
  else if target s pa = .unmapped then some (.mk' .unmappedPa 0xFF pa)
  else if !placeRule s l pa then f .placement
  else if loopsBack s pa then some { code := .unmappedPa, level := 0xFF, pa, key := 0, bar := true, va := none }
  else none

/-- Attributes that the memory side sees of a master's access; a window ignores FBC and CACHE (R46). -/
def Leaf.attr (m : Nat) (l : Leaf) : Attr := { key := l.key, cache := l.cache, fbc := l.fbc, die := masterDie m }

/-- The front end, which has no TLB of its own and no master ID (R71). -/
def noMaster : Nat := 0xFF

/-- Translates an address for an access (R52, R56): micro-TLB, die TLB, then a walk, whose leaf is
kept. A halted MMU starts no walk (R447). -/
def xlate (m ctx va : Nat) (acc : Access) (s : State) : Res Leaf :=
  if 2 ^ 48 ≤ va then .fault (.mk' .vaRange 0xFF 0) s
  else
    let check := fun (l : Leaf) (s : State) => match leafCheck s ctx va acc l with
      | some f => Res.fault f s
      | none => Res.ok l s
    match tlbLookup s m ctx va with
    | some t => check t.leaf (installU m t s)
    | none =>
      if s.halted .mmu then .wait s
      else match walkVa ctx va s with
        | .ok l s =>
          let t : TlbEntry := { ctx, leaf := l }
          let s := if m = noMaster then s else installU m t s
          let s := match masterDie m with
            | some d => installD d t s
            | none => s
          check l s
        | other => other

/-! ## Accesses through virtual addresses -/

/-- The fault of an access after translation (R56 cases 8 and 9), with the owner that refused. -/
def accFault (s : State) (c : FaultCode) (pa : Nat) : Flt :=
  { code := c, level := 0xFF, pa, key := s.owner (regionOf (target s pa)), bar := false, va := none }

/-- Cuts a range at 4 KiB pages. -/
def cutPages : Nat → Nat → Nat → List (Nat × Nat)
  | 0, _, _ => []
  | _ + 1, _, 0 => []
  | f + 1, va, n =>
    let k := Nat.min n (4096 - va % 4096)
    (va, k) :: cutPages f (va + k) (n - k)

def pageCuts (va n : Nat) : List (Nat × Nat) := cutPages (n / 4096 + 2) va n

/-- Reads n bytes at a context's virtual address for a master. -/
def vaRead (m ctx va n : Nat) (acc : Access) (s : State) : Res (List Byte) :=
  (pageCuts va n).foldl (fun r p => match r with
    | .ok bs s => match xlate m ctx p.1 acc s with
      | .ok l s =>
        let pa := l.base + (p.1 - l.va)
        match paRead ctx (l.attr m) pa p.2 s with
        | .ok b s => .ok (bs ++ b) s
        | .fault c s => .fault { accFault s c pa with va := some p.1 } s
        | .severed => .severed s
        | .wait => .wait s
      | .fault f s => .fault { f with va := some p.1 } s
      | .severed s => .severed s
      | .wait s => .wait s
    | other => other) (.ok [] s)

/-- Writes bytes at a context's virtual address for a master. -/
def vaWrite (m ctx va : Nat) (bs : List Byte) (s : State) : Res Unit :=
  (pageCuts va bs.length).foldl (fun r p => match r with
    | .ok _ s => match xlate m ctx p.1 .write s with
      | .ok l s =>
        let pa := l.base + (p.1 - l.va)
        match paWrite ctx (l.attr m) pa ((bs.drop (p.1 - va)).take p.2) s with
        | .ok _ s => .ok () s
        | .fault c s => .fault { accFault s c pa with va := some p.1 } s
        | .severed => .severed s
        | .wait => .wait s
      | .fault f s => .fault { f with va := some p.1 } s
      | .severed s => .severed s
      | .wait s => .wait s
    | other => other) (.ok () s)

/-- The fault record's fields for a fault of a master's work at an entry (R57). VA is the first address
that faulted: the start of the access, or of the 4 KiB page that it reaches into. -/
def Flt.info (f : Flt) (m ctx va : Nat) (acc : Access) (ring seq : Nat) : FaultInfo :=
  { va := f.va.getD va, pa := f.pa, ctx, master := m, code := f.code, acc, level := f.level, ring, seq }

/-- What a fault does for the work of a ring entry: its record, or the pin of a violation. A request
that loops back to the device pins with REG_ACCESS and writes no record (R380). -/
def masterFault (f : Flt) (m ctx va : Nat) (acc : Access) (ring seq : Nat) (s : State) : State :=
  if f.bar then pinMaster m 3 ctx f.key f.pa s
  else takeFault (f.info m ctx va acc ring seq) f.key s

/-- An op's master takes a fault: the record or pin, then the op's own end (R55). Under PIN_LOG_ONLY
a violation of another cause than the key rule ends the op with OP_ERROR (R385). -/
def opFault (f : Flt) (o : OpRef) (m va : Nat) (acc : Access) (s : State) : State :=
  let ctx := opCtx s o
  let s := masterFault f m ctx va acc o.ring.val o.seq s
  if f.bar then endOp o stOpError 3 0 s else faultOp o f.code s

/-- An access of the front end for an entry fails (R71, R482): DETAIL, after the violation is
logged. -/
def feFault (f : Flt) (ctx : Nat) (s : State) : Nat × State :=
  if f.bar then (FaultCode.unmappedPa.num, isolationError 0x80 ctx 3 f.pa s)
  else if f.code = .keyMismatch then (f.code.num, isolationError 0x80 ctx 1 f.pa s)
  else (f.code.num, s)

end Sys2Proof.Machine
end

