-- ==== Sys2Proof/Machine/Regs.lean ====
section
/-! DEFINITION. How a write of BAR0 lands: windows, functions, guards, parity, W1C fields and the
MSI-X table (R436 to R446, R125). What a write does then is each block's own. -/

namespace Sys2Proof.Machine

open Sys2Proof

/-- The Staquin monitor as an agent of register writes (R480): it acts on the physical function's
registers under an unlock of its own. -/
def monitorAgent : Nat := 64

/-- The function whose registers an agent's writes reach. -/
def agentFn (agent : Nat) : Nat := if agent = monitorAgent then 0 else agent

/-! ## What reaches the registers (R396, R426, R471) -/

/-- Accesses of a function arrive: the link is trained, and a TDI in RUN takes only what comes on its
stream in secure state (R396). -/
def fnArrives (s : State) (fn : Nat) : Bool :=
  let t := tblGet Tdi.none' s.sec.tdi fn
  s.boot.link && (decide (t.st ≠ .run) || match t.stream with
    | some k => (tblGet IdeStream.none' s.sec.ide k).secure
    | none => true)

/-- BAR0 as a whole, BAR2 and BAR4 are mapped from STAGE READY on (R471). -/
def barOpen (s : State) (fn : Nat) : Bool := decide (s.boot.stage = .ready) && fnArrives s fn

/-- Keeps a write until a halted block, or the package, goes on (R426, R447). Offsets of BAR2 follow
those of BAR0 from 2^26 on, and those of BAR4 from 2^27 on. -/
def holdWrite (fn off v : Nat) (s : State) : State :=
  s.onReg fun g => { g with held := g.held ++ [(fn, off, v)] }

/-- A write of a function reaches a block that lies in a running domain: in S4 it is link activity
and completes after the exit; in S3 it wakes the package under LINK_S3 (R424 to R426). -/
def hostWrite (fn off v : Nat) (f : State → State) (s : State) : State :=
  match s.pwr.sleep with
  | .s4 => startExit 2 0 (holdWrite fn off v s)
  | .s3 => f (if s.rawBits 0 0x030000 5 5 = 1 then startExit 2 0 s else s)
  | .entering => if s.pwr.deep = 4 then startExit 2 0 (holdWrite fn off v s) else f s
  | .exiting => if s.pwr.deep = 4 then holdWrite fn off v s else f s
  | .s0 => f s

def blkKey : Word := 0x5EAF0B17

/-- A write that reached its block: the agent, the BAR0 offset, the stored fields before, the value
it would leave in them with its command bits, the value written, and the W1C bits it clears. -/
structure RegWr where
  agent : Nat
  off   : Nat
  old   : Word
  new   : Word
  val   : Word
  w1c   : Word
  deriving DecidableEq, Repr

/-- The register domain of a block is off, in reset or clearing (R437). -/
def blockOff (s : State) : BlockId → Bool
  | .tns c | .spm c | .shd c => decide (s.power c.val ≠ .on)
  | .l2 d | .rsh d => decide (s.power (72 + d.val) ≠ .on)
  | _ => false

def guardKey (b : BlockId) (agent : Nat) : Nat := blockNum b * 128 + agent

/-- An unconsumed unlock that has not expired (R442). -/
def unlocked (s : State) (b : BlockId) (agent : Nat) : Bool :=
  let t := tblGet 0 s.reg.unlock (guardKey b agent)
  decide (t ≠ 0) && decide (s.time < t - 1 + 1000000)

def setUnlock (b : BlockId) (agent t : Nat) (s : State) : State :=
  s.onReg fun g => { g with unlock := tblSet 0 g.unlock (guardKey b agent) t }

def setDenied (b : BlockId) (agent v : Nat) (s : State) : State :=
  s.onReg fun g => { g with denied := tblSet 0 g.denied (guardKey b agent) v }

/-- A write of BLK_KEY: the key unlocks the block for the agent and clears DENIED, any other value
locks it (R442). A virtual function has none (R436). -/
def blkKeyDo (b : BlockId) (agent : Nat) (v : Word) (s : State) : State :=
  if agentFn agent ≠ 0 ∨ blockOff s b then s
  else if v = blkKey then setDenied b agent 0 (setUnlock b agent (s.time + 1) s)
  else setUnlock b agent 0 s

/-- The four windows of a block (R440). -/
inductive Window where
  | primary | setBits | clearBits | toggleBits
  deriving DecidableEq, Repr

def windowOf (rel : Nat) : Option (Window × Nat) :=
  if rel < 0x1000 then some (.primary, rel)
  else if rel < 0x2000 then some (.setBits, rel - 0x1000)
  else if rel < 0x3000 then some (.clearBits, rel - 0x2000)
  else if rel < 0x4000 then some (.toggleBits, rel - 0x3000)
  else none

/-- The value that a write would leave in the writable fields. -/
def newValue (d : RegDef) (win : Window) (old val : Word) : Word :=
  let m := d.rw ||| d.rwk
  match win with
  | .primary => (old &&& ~~~(m ||| d.cmd)) ||| (val &&& (m ||| d.cmd))
  | .setBits => (old &&& ~~~m) ||| ((old ||| val) &&& m)
  | .clearBits => (old &&& ~~~m) ||| ((old &&& ~~~val) &&& m)
  | .toggleBits => (old &&& ~~~m) ||| ((old ^^^ val) &&& m)

/-- What became of a write before its block sees it. -/
inductive Staged where
  | done (s : State)             -- ignored, denied, refused
  | run (w : RegWr) (s : State)  -- the block performs it
  | rewritten (b : BlockId) (s : State)  -- a register in mismatch took its last value again (R446)

/-- A register in mismatch. -/
def inMismatch (s : State) (key : Nat) : Bool := s.reg.mismatch.any fun e => e.1 = key

/-- Stores the fields that a write leaves; command bits hold no value, and W1C bits clear after the
fields (R443). -/
def storeWr (w : RegWr) (cmd : Word) (s : State) : State :=
  s.setRaw (agentFn w.agent) w.off (w.new &&& ~~~cmd &&& ~~~w.w1c)

/-- Clears only the W1C bits of a write. -/
def clearWr (w : RegWr) (s : State) : State :=
  s.setRaw (agentFn w.agent) w.off (w.old &&& ~~~w.w1c)

/-- A write whose fields are refused: the fields stay, and the REFUSED bit is set, after its W1C
part (R443). -/
def refuseWr (w : RegWr) (refused : Word) (s : State) : State :=
  s.setRaw (agentFn w.agent) w.off ((w.old &&& ~~~w.w1c) ||| refused)

/-- Checks of a 4-byte write at a block's primary or alias offset (R436, R437, R440 to R442, R446). -/
def stage (agent off : Nat) (val : Word) (s : State) : Staged :=
  match blockAt off with
  | none => .done s
  | some (b, rel) => match windowOf rel with
    | none => .done s
    | some (win, prim) => match regAt b prim with
      | none => .done s
      | some (d, _) =>
        let fn := agentFn agent
        let poff := blockBase b + prim
        if fn ≠ 0 ∧ !d.vf then .done s
        else if blockOff s b then .done s
        else
          let old := s.raw fn poff
          let new := newValue d win old val
          let w : RegWr := { agent, off := poff, old, new, val := if win = .primary then val else 0, w1c := if win = .primary then val &&& d.w1c else 0 }
          let touches := decide ((new &&& d.rwk) ≠ (old &&& d.rwk))
          let key := regKey fn poff
          if inMismatch s key then
            if win ≠ .primary then .done s
            else
              let same := decide ((val &&& (d.rw ||| d.rwk)) = (old &&& (d.rw ||| d.rwk)))
              let guarded := decide (d.rwk ≠ 0)
              if guarded ∧ !unlocked s b agent then .done (setDenied b agent 1 s)
              else
                let s := if guarded then setUnlock b agent 0 s else s
                if same then
                  .rewritten b ((clearWr w s).onReg fun g => { g with mismatch := g.mismatch.filter fun e => e.1 ≠ key })
                else .done ((refuseWr w d.w1c s).onReg fun g => { g with parityRefused := true })
          else if touches then
            if unlocked s b agent then .run w (setUnlock b agent 0 s) else .done (setDenied b agent 1 s)
          else .run w s

/-- Does a write change the given fields. -/
def RegWr.changes (w : RegWr) (mask : Word) : Bool := decide ((w.new &&& mask) ≠ (w.old &&& mask))

/-! ## The MSI-X table (R125, R435) -/

/-- A 4-byte write of the MSI-X table; unmasking a vector raises it if it is pending. -/
def msixWrite (fn off : Nat) (val : Word) (s : State) : State :=
  let rel := off - 0x0E8000
  let s' := s.setRaw fn off (if rel % 16 = 12 then val &&& 1 else val)
  let vec := rel / 16
  if rel % 16 = 12 ∧ val.toNat % 2 = 0 ∧ tblGet 0 s.reg.pba (fn * 2048 + vec) = 1 then deliver fn vec s' else s'

end Sys2Proof.Machine
end

