-- ==== Sys2Proof/Machine/Contexts.lean ====
section
/-! DEFINITION. Contexts, placement and invalidation: the commands of R33 to R60 and R484. -/

namespace Sys2Proof.Machine

open Sys2Proof

abbrev Out := Host.Outcome State Fault Refusal

/-! ## Function ranges -/

/-- Do two ranges overlap. -/
def overlap (f1 c1 f2 c2 : Nat) : Bool :=
  decide (c1 ≠ 0) && decide (c2 ≠ 0) && decide (f1 < f2 + c2) && decide (f2 < f1 + c1)

/-- Would range [first, first + count) of function f overlap another function's. -/
def rangeClash (s : State) (base firstHi countLo countHi f first count : Nat) : Bool :=
  (upTo 64).any fun g =>
    let w := (s.raw 0 (base + 4 * g)).toNat
    decide (g ≠ f) && overlap first count (bits w firstHi 0) (bits w countHi countLo)

def refusedBit : Word := 0x80000000

/-- A write of MMU_FN_CTX_f (R34, R35). -/
def fnCtxEffect (f : Nat) (w : RegWr) (s : State) : State :=
  if !w.changes 0xFFDFF then clearWr w s
  else
    let first := bits w.new.toNat 8 0
    let count := bits w.new.toNat 19 10
    let of := bits w.old.toNat 8 0
    let oc := bits w.old.toNat 19 10
    let busy := (upTo 512).any fun n => decide (n ≠ 0) && (s.ctx n).state ≠ .free &&
      ((decide (first ≤ n) && decide (n < first + count)) || (decide (of ≤ n) && decide (n < of + oc)))
    let bad := rangeClash s 0x070100 8 10 19 f first count || decide (512 < first + count) ||
      (decide (f = 0) && (decide (first ≠ 0) || decide (count = 0))) || busy
    if bad then refuseWr w refusedBit s else storeWr w 0 s

/-! ## Context commands (R39, R40) -/

def ctxResult (fn n res : Nat) (s : State) : State :=
  s.onMmu fun m => { m with results := tblSet 0 m.results (fn * 512 + n) res }

def offCtxCmd : Nat := 0x070010

/-- A command to context n from a function: RANGE, then STATE while another command is in progress,
then the command's own rule. A halted MMU holds it. -/
def ctxCommand (fn n op : Nat) (f : State → State) (s : State) : State :=
  let v := n + 4096 * op
  if !barOpen s fn then s
  else hostWrite fn offCtxCmd v (fun s =>
    if s.halted .mmu then holdWrite fn offCtxCmd v s
    else if !fnHasCtx s fn n then ctxResult fn n resRange s
    else if (s.ctx n).cmd.isSome then ctxResult fn n resState s
    else f s) s

/-- Does TOP_PRESENT show a die; without one every CREATE has result STATE (R458). -/
def anyDie (s : State) : Bool := s.diePresent 0 || s.diePresent 1

def createDo (fn n : Nat) (s : State) : State :=
  let c := s.ctx n
  if c.state = .free ∧ anyDie s then s.setCtx n { c with cmd := some fn }
  else ctxResult fn n resState s

/-- What a descriptor gives, if it passes the checks of R37. -/
def descriptor (bs : List Byte) : Option Ctx :=
  let root := fld bs 0 8
  let fq := fld bs 8 8
  let log2 := fld bs 16 1
  let vec := fld bs 18 2
  let flags := fld bs 20 2
  if root % 4096 = 0 ∧ root < 2 ^ 49 ∧ fq % 64 = 0 ∧ fq < 2 ^ 49 ∧ 4 ≤ log2 ∧ log2 ≤ 12 ∧
      1 ≤ vec ∧ vec ≤ 2047 ∧ flags < 16 ∧ zeros bs 17 1 ∧ zeros bs 22 42 then
    some { Ctx.freeCtx with ptRoot := some root, fqBase := some fq, fqLog2 := log2, vector := vec, drain := bit flags 0, plainOk := bit flags 1, ftz := bit flags 2, prot := bit flags 3 }
  else none

/-- Reads entry n of a function's descriptor table; the read may fail, or wait (R37, R447, R482). -/
def readDescriptor (fn n : Nat) (s : State) : Dev (List Byte) × State :=
  let pa := s.rawBase fn 0x070000 0x070004 + 64 * n
  match devRead pa 64 s with
  | .done (bs, s) => (.done bs, s)
  | .wait => (.wait, s)
  | .failed => (.failed, noteViolation 0x81 n pa 64 s)

/-- The command in progress to a context ends with a result. -/
def ctxEnd (fn n res : Nat) (s : State) : State :=
  ctxResult fn n res (s.setCtx n { s.ctx n with cmd := none })

/-- CREATE completes or fails (R37, R38, R375, R376). -/
def createDone (n : Nat) (io : HostIO) (s : State) : State :=
  let s := applyIO io s
  let c := s.ctx n
  match c.cmd with
  | none => s
  | some fn =>
    if n = 0 ∨ s.halted .sec ∨ s.halted .mmu then s
    else
      let (bs, s) := readDescriptor fn n s
      match bs with
      | .wait => s
      | .failed => ctxEnd fn n resFetch s
      | .done bs => match descriptor bs with
        | none => ctxEnd fn n resBadRecord s
        | some d =>
          if s.mmu.reserve = 0 then ctxEnd fn n resState s
          else
            let serial := s.mmu.serial + 1
            let s := s.onMmu fun m => { m with serial, reserve := m.reserve - 1 }
            let s := tlbDiscard (fun t => t.ctx = n) s
            let s := s.setCtx n { d with state := .active, gen := c.gen + 1, key := some serial }
            ctxResult fn n resOk s

/-- Starts the drain of a context: each ring reads DOORBELL once more (R58 step 1), but for one that a
DISABLE is stopping. -/
def startDrain (n : Nat) (s : State) : State :=
  s.onFe fun f => { f with rings := f.rings.map fun e =>
    if e.2.ctx = n ∧ e.2.state ≠ .disabled ∧ e.2.state ≠ .halted ∧ e.2.cmd.isNone then
      (e.1, { e.2 with reads := e.2.reads ++ [.drain] })
    else e }

def destroyDo (fn n : Nat) (s : State) : State :=
  let c := s.ctx n
  if n = 0 ∨ c.state ≠ .active then ctxResult fn n resState s
  else if c.drain then
    ctxResult fn n resOk (startDrain n (s.setCtx n { c with state := .draining, reason := .ownerGone }))
  else ctxResult fn n resOk (abortCtx n .ownerGone s)

def abortDo (fn n : Nat) (s : State) : State :=
  match (s.ctx n).state with
  | .active | .draining =>
    if n = 0 then ctxResult fn n resState s else ctxResult fn n resOk (abortCtx n .ownerGone s)
  | _ => ctxResult fn n resState s

def releaseDo (fn n : Nat) (s : State) : State :=
  let c := s.ctx n
  if c.state = .retired then
    ctxResult fn n resOk (s.setCtx n { ctxDefault n with gen := c.gen })
  else ctxResult fn n resState s

def reloadDo (fn n : Nat) (s : State) : State :=
  if n = 0 then s.setCtx 0 { s.ctx 0 with cmd := some fn } else ctxResult fn n resState s

/-- RELOAD completes or fails (R40); DRAIN and PROT_SESSION are ignored. One that passes is in force at
once; its RESULT waits for the loads translated through a discarded entry, and a later RELOAD_DONE gives
it (R54). -/
def reloadDone (io : HostIO) (s : State) : State :=
  let s := applyIO io s
  let c := s.ctx 0
  match c.cmd with
  | none => s
  | some fn =>
    if s.halted .mmu then s
    else if s.mmu.reloadLoads ≠ [] then
      if loadsGone s s.mmu.reloadLoads then ctxEnd fn 0 resOk (s.onMmu fun m => { m with reloadLoads := [] }) else s
    else
      let (bs, s) := readDescriptor 0 0 s
      match bs with
      | .wait => s
      | .failed => ctxEnd fn 0 resFetch s
      | .done bs => match descriptor bs with
        | none => ctxEnd fn 0 resBadRecord s
        | some d =>
          let s := s.setCtx 0 { s.ctx 0 with ptRoot := d.ptRoot, fqBase := d.fqBase, fqLog2 := d.fqLog2, vector := d.vector, plainOk := d.plainOk, ftz := d.ftz, prod := 0, lost := 0 }
          let s := tlbDiscard (fun t => t.ctx = 0) s
          let loads := loadsOn s 0 fun _ => true
          if loads = [] then ctxEnd fn 0 resOk s else s.onMmu fun m => { m with reloadLoads := loads }

/-! ## Teardown -/

/-- Zeroes a range of cells. -/
def zeroCells (base n : Nat) (s : State) : State :=
  s.onMem fun m => { m with cells := m.cells.filter fun c => !(decide (base ≤ c.1) && decide (c.1 < base + n)) }

/-- First address of a region of R197 or R200. -/
def regionBase (r : Nat) : Nat :=
  if r < 2048 then 0x8000000000 + (r / 256) * 0x1000000 + (r % 256) * 0x10000
  else 0x8100000000 + ((r - 2048) / 4) * 0x40000 + ((r - 2048) % 4) * 0x10000

/-- A region becomes NONE with every word zero (R198). -/
def clearRegion (r : Nat) (s : State) : State :=
  (zeroCells (regionBase r) 0x10000 s).onMem fun m => { m with owners := tblSet 0 m.owners r 0 }

/-- Regions that a context owns. -/
def ownedBy (s : State) (n : Nat) : List Nat := (s.mem.owners.filter fun e => e.2 = n).map (·.1)

/-- L2 lines, misses and combining buffers of a key ID are dropped, not written back (R58 step 5). -/
def l2Forget (key : Nat) (s : State) : State :=
  (upTo 2).foldl (fun s d =>
    let x := s.l2 d
    s.setL2 d { x with lines := x.lines.filter (fun l => l.key ≠ key), misses := x.misses.filter (fun m => m.key ≠ key), wc := x.wc.filter (fun w => w.key ≠ key) }) s

/-- Every ring of a context that is not DISABLED becomes DISABLED (R67). -/
def disableRings (n : Nat) (s : State) : State :=
  let mine := (s.fe.rings.filter fun e => decide (e.2.ctx = n) && decide (e.2.state ≠ .disabled)).map (·.1)
  mine.foldl (fun s r =>
    let s := rcbConsumer r s
    ringTo r .disabled (s.setRing r { s.ring r with reads := [], stopped := false, limit := none, dupWait := false })) s

/-- Does any op of a context still run. -/
def ctxBusy (s : State) (n : Nat) : Bool :=
  s.fe.entries.any fun e => decide (e.ctx = n) && e.ops.any fun p => p.phase = .running

/-- A drain's context is idle: every accepted entry has completed and every ring has accepted up to
its limit (R58 step 3). -/
def drainIdle (s : State) (n : Nat) : Bool :=
  !(s.fe.entries.any fun e => decide (e.ctx = n)) &&
  s.fe.rings.all fun e => decide (e.2.ctx ≠ n) || decide (e.2.state = .disabled) ||
    decide (e.2.state = .halted) || (match e.2.limit with
      | some l => decide (l ≤ e.2.cons)
      | none => false)

/-- DRAIN_END: the drain's wait has ended, and step 2 runs (R58). -/
def drainEndDo (n : Nat) (s : State) : State :=
  let c := s.ctx n
  if c.state = .draining ∧ !c.drainDone ∧ drainIdle s n then
    let s := s.setCtx n { c with drainDone := true }
    loseFences n (stopRings n s)
  else s

/-- Steps 4 to 8 of R58. -/
def retireDo (n : Nat) (s : State) : State :=
  let c := s.ctx n
  let ready := decide (c.state = .aborting) || (decide (c.state = .draining) && c.drainDone)
  if n ≠ 0 ∧ ready ∧ !ctxBusy s n then
    let s := settleFences n s
    let s := s.onFe fun f => { f with entries := f.entries.filter (fun e => e.ctx ≠ n), versions := f.versions.filter (fun v => v.ctx ≠ n) }
    let s := l2Forget n (tlbDiscard (fun t => t.ctx = n) s)
    let s := eachDo (ownedBy s n) clearRegion s
    let s := s.setCtx n { s.ctx n with state := .retired, ptRoot := none, key := none, dir := none, drainDone := false }
    let s := retireFences n (disableRings n s)
    if h : n < 512 then raiseVec (.ctx ⟨n, h⟩) (fnOfCtx s n) c.vector s else s
  else s

/-! ## Placement (R47 to R49, R297) -/

/-- An entry of the table is well formed (R48). -/
def placeFormed (s : State) (e : Nat) : Bool :=
  let t := entryTarget e
  !bit e 5 && match entryClass e with
    | 0 | 3 => decide (t = 0)
    | 1 => decide (t ≤ 1) && s.diePresent t
    | _ => s.diePresent (t / 16)

/-- Entry n of the table as written, before it is in force. -/
def placeRaw (s : State) (g : Nat) : Nat :=
  bits (s.raw 0 (0x070C00 + 4 * (g / 4))).toNat (8 * (g % 4) + 7) (8 * (g % 4))

/-- GiB that a pool of k granules over m channels puts on each, times m; none: no channel. -/
def shareOk (loc k m kd md : Nat) : Bool :=
  -- loc + k/m + kd/md ≤ 8
  decide ((loc * m * md + k * md + kd * m) ≤ 8 * m * md)

/-- The table is valid against channel capacity (R48). -/
def placeValid (s : State) : Bool :=
  let n := if s.unit.degraded then 128 else 256
  let es := (upTo n).map (placeRaw s)
  let loc := fun ch => (es.filter fun e => decide (entryClass e = 2) && decide (entryTarget e = ch)).length
  let chans := (mapChannels s).filter fun ch => loc ch = 0
  let k := (es.filter fun e => entryClass e = 0).length
  let kd := fun d => (es.filter fun e => decide (entryClass e = 1) && decide (entryTarget e = d)).length
  let m := chans.length
  let md := fun d => (chans.filter fun ch => ch / 16 = d).length
  es.all (placeFormed s) && (upTo 32).all (fun ch => decide (loc ch ≤ 8)) &&
  (decide (k = 0) || decide (0 < m)) && (upTo 2).all (fun d => decide (kd d = 0) || decide (0 < md d)) &&
  chans.all fun ch => shareOk 0 k (Nat.max m 1) (kd (ch / 16)) (Nat.max (md (ch / 16)) 1)

/-- COVER_GIB and the framebuffer table lie in populated memory (R297). -/
def fbcValidTable (s : State) : Bool :=
  let cover := s.rawBits 0 0x070D18 8 0
  let base := fbcBase s
  let last := base + cover * 2 ^ 23 - 1
  decide (cover ≤ 256) && (decide (cover = 0) || (decide (last < s.unit.memGib8 * 2 ^ 33) &&
    (upTo (last / 2 ^ 30 + 1)).all fun g => decide (g < base / 2 ^ 30) || decide (entryClass (placeRaw s g) ≠ 3)))

/-- A write of MMU_PLACE_CTL: APPLY validates the table and locks it (R48). -/
def placeEffect (w : RegWr) (s : State) : State :=
  let apply := bit w.val.toNat 0 && !s.mem.locked
  if apply ∧ !(placeValid s && fbcValidTable s) then refuseWr w 4 s
  else
    let s := clearWr w s
    if apply then s.onMem fun m => { m with locked := true } else s

/-! ## Invalidation (R54, R484) -/

def offInvCtl : Nat := 0x070028

def invResult (fn res : Nat) (s : State) : State :=
  s.onMmu fun m => { m with invRes := tblSet 0 m.invRes fn res }

/-- A GO of MMU_INV_CTL: the entries that overlap the range go, and the invalidation waits for the loads
translated through them (R54). -/
def invGo (fn : Nat) (s : State) : State :=
  let ctl := (s.raw fn offInvCtl).toNat
  let ctx := bits ctl 8 0
  let all := bit ctl 9
  let pages := bits ctl 29 10
  if !fnHasCtx s fn ctx then invResult fn resRange s
  else if !all ∧ pages = 0 then invResult fn resBadRecord s
  else
    let va := s.rawBase fn 0x070020 0x070024
    let hit := fun (t : TlbEntry) => decide (t.ctx = ctx) &&
      (all || (decide (t.leaf.va < va + pages * 4096) && decide (va < t.leaf.va + t.leaf.size)))
    let gone := ((s.mmu.utlb ++ s.mmu.dtlb).flatMap fun e => e.2).filter hit
    let old := fun (a : Nat) => all || (decide (va ≤ a) && decide (a < va + pages * 4096)) || gone.any fun t => t.hits ctx a
    let loads := loadsOn s ctx old
    invResult fn resOk ((tlbDiscard hit s).onMmu fun m => { m with inval := m.inval ++ [{ fn, ctx, loads }] })

def invBusy (s : State) (fn : Nat) : Bool := s.mmu.inval.any fun e => e.fn = fn

/-- A write of MMU_INV_CTL: the fields, then GO unless an invalidation is in progress. -/
def invEffect (w : RegWr) (s : State) : State :=
  let fn := agentFn w.agent
  let s := storeWr w 0x40000000 s
  if bit w.val.toNat 30 ∧ !invBusy s fn then
    if s.halted .mmu then holdWrite fn offInvCtl w.val.toNat s else invGo fn s
  else s

/-! ## The meanings -/

/-- CREATE (R39). -/
def execCtxCreate (fn : Fn) (n : CtxId) (s : State) : Out :=
  .next (ctxCommand fn.val n.val 1 (createDo fn.val n.val) s)

/-- CREATE_DONE (R37). -/
def execCtxCreateDone (n : CtxId) (io : HostIO) (s : State) : Out := .next (createDone n.val io s)

/-- DESTROY (R39, R58). -/
def execCtxDestroy (fn : Fn) (n : CtxId) (s : State) : Out :=
  .next (ctxCommand fn.val n.val 2 (destroyDo fn.val n.val) s)

/-- ABORT (R39, R58). -/
def execCtxAbort (fn : Fn) (n : CtxId) (s : State) : Out :=
  .next (ctxCommand fn.val n.val 3 (abortDo fn.val n.val) s)

/-- RELEASE (R39). -/
def execCtxRelease (fn : Fn) (n : CtxId) (s : State) : Out :=
  .next (ctxCommand fn.val n.val 4 (releaseDo fn.val n.val) s)

/-- RELOAD (R40). -/
def execCtxReload (fn : Fn) (n : CtxId) (s : State) : Out :=
  .next (ctxCommand fn.val n.val 5 (reloadDo fn.val n.val) s)

/-- RELOAD_DONE (R40). -/
def execCtxReloadDone (io : HostIO) (s : State) : Out := .next (reloadDone io s)

/-- INVALIDATE_DONE: BUSY ends, once every load translated through a discarded entry is gone (R54). -/
def execInvalidateDone (fn : Fn) (s : State) : Out :=
  .next (s.onMmu fun m => { m with inval := m.inval.filter fun e => decide (e.fn ≠ fn.val) || !loadsGone s e.loads })

/-- VECTOR_HOLDOFF_EXPIRY: a raise held back by the spacing is made (R124). -/
def execVectorHoldoffExpiry (src : VecSource) (t : Nat) (s : State) : Out :=
  let s := advanceTo t s
  .next (match s.reg.vecs.find? fun h => h.src = src with
    | some h => match h.pend with
      | some (fn, vec) => if s.time < h.last + 1000 then s else raiseSrc src fn vec s
      | none => s
    | none => s)

end Sys2Proof.Machine
end

