-- ==== Sys2Proof/Machine/Rings.lean ====
section
/-! DEFINITION. Rings, doorbells, entries and command buffers (R61 to R92, R485, R93 to R98). -/

namespace Sys2Proof.Machine

open Sys2Proof

/-! ## Ring ranges and commands -/

/-- A write of FE_FN_RING_f (R61, R62). -/
def fnRingEffect (f : Nat) (w : RegWr) (s : State) : State :=
  if !w.changes 0x7FFFFFF then clearWr w s
  else
    let first := bits w.new.toNat 12 0
    let count := bits w.new.toNat 26 13
    let of := bits w.old.toNat 12 0
    let oc := bits w.old.toNat 26 13
    let busy := s.fe.rings.any fun e => e.2.state ≠ .disabled &&
      ((decide (first ≤ e.1) && decide (e.1 < first + count)) || (decide (of ≤ e.1) && decide (e.1 < of + oc)))
    let bad := rangeClash s 0x060100 12 13 26 f first count || decide (8192 < first + count) ||
      (decide (f = 0) && decide (first ≠ 0)) || busy
    if bad then refuseWr w refusedBit s else storeWr w 0 s

def ringResult (fn res : Nat) (s : State) : State :=
  s.onFe fun f => { f with results := tblSet 0 f.results fn res }

/-- The ring that FE_RING_SEL of a function names. -/
def ringSelected (s : State) (fn : Nat) : Nat := bits (s.raw fn 0x060000).toNat 12 0

/-- A ring command of a function on its selected ring: RANGE, then STATE while one is in progress
(R64). -/
def ringCommand (fn op : Nat) (f : Nat → State → State) (s : State) : State :=
  if !barOpen s fn then s
  else hostWrite fn 0x060018 op (fun s =>
    let r := ringSelected s fn
    if !fnHasRing s fn r then ringResult fn resRange s
    else if (s.ring r).cmd.isSome then ringResult fn resState s
    else f r s) s

/-- ENABLE: checks 1 to 3 of R65, then the control block is read. -/
def enableDo (fn r : Nat) (s : State) : State :=
  let x := s.ring r
  if x.state ≠ .disabled then ringResult fn resState s
  else
    let base := s.rawBase fn 0x060004 0x060008
    let rcb := s.rawBase fn 0x06000C 0x060010
    let cfg := (s.raw fn 0x060014).toNat
    let type := bits cfg 2 0
    let log2 := bits cfg 10 6
    let ctx := bits cfg 20 12
    let vec := bits cfg 31 21
    if 5 < type ∨ log2 < 4 ∨ 16 < log2 ∨ vec = 0 ∨ base < 2 ^ 48 ∨ rcb < 2 ^ 48 then ringResult fn resBadRecord s
    else if !fnHasCtx s fn ctx then ringResult fn resRange s
    else if (s.ctx ctx).state ≠ .active then ringResult fn resState s
    else s.setRing r { x with base, rcb, type, prio := bits cfg 5 3, log2, pollIdle := bit cfg 11, ctx, vector := vec, cmd := some (.enable fn) }

/-- The command in progress on a ring ends. -/
def ringEnd (fn r res : Nat) (s : State) : State :=
  ringResult fn res (s.setRing r { s.ring r with cmd := none })

/-- A read by the front end of a ring structure fails: a loop-back is logged (R482). -/
def feReadFailed (r pa : Nat) (s : State) : State :=
  if loopsBack s pa then isolationError 0x80 (s.ring r).ctx 3 pa s else s

/-- ENABLE ends: checks 4 and 5 of R65, then the device half of the control block (R64). DEDUCED (log 87):
a ring whose context has begun to drain meanwhile makes no further read of DOORBELL: its limit is the count
that it starts with. -/
def enableDone (r : Nat) (io : HostIO) (s : State) : State :=
  let s := applyIO io s
  let x := s.ring r
  match x.cmd with
  | some (.enable fn) =>
    match devRead x.rcb 72 s with
    | .wait => s
    | .failed => ringEnd fn r resFetch (feReadFailed r x.rcb s)
    | .done (bs, s) =>
      if !zeros bs 8 56 then ringEnd fn r resBadRecord s
      else
        let c := q64 (fld bs 64 8)
        let live := ctxRuns s x.ctx
        let s := s.setRing r { x with state := .idle, halt := 0, prod := c, cons := c, completed := c, done := [], dup := 0, compLost := 0, cmd := none, reads := if (s.ctx x.ctx).state = .active then [.enable] else [], dupWait := false, limit := if (s.ctx x.ctx).state = .draining then some c else none, stopped := !live, lastPoll := s.time }
        let s := (devWrite (x.rcb + 64) (natLe 8 c.toNat ++ natLe 8 c.toNat ++ natLe 4 3 ++ List.replicate 44 0) s).getD s
        ringResult fn resOk s
  | _ => s

def disableDo (fn r : Nat) (s : State) : State :=
  let x := s.ring r
  if x.state = .disabled then ringResult fn resState s
  else s.setRing r { x with cmd := some (.disable fn), reads := [] }

/-- DISABLE ends: CONSUMER and STATE = DISABLED (R64). -/
def disableDone (r : Nat) (s : State) : State :=
  let x := s.ring r
  match x.cmd with
  | some (.disable fn) =>
    let s := deadEdges r (rcbConsumer r s)
    let s := ringTo r .disabled (s.setRing r { x with cmd := none, reads := [], limit := none, dupWait := false })
    ringResult fn resOk s
  | _ => s

/-- SET_PRIO (R64): no op that runs is pre-empted because of it, so each keeps in mind a ring that it did
not yield to before. -/
def setPrioDo (fn r : Nat) (s : State) : State :=
  let x := s.ring r
  if x.state = .disabled then ringResult fn resState s
  else
    let new := bits (s.raw fn 0x060014).toNat 5 3
    let spare := fun (p : Op) => if p.phase = .running ∧ x.prio ≤ p.rank ∧ p.rank < new then { p with spared := r :: p.spared } else p
    let s := s.onFe fun f => { f with entries := f.entries.map fun e => { e with ops := e.ops.map spare } }
    ringResult fn resOk (s.setRing r { x with prio := new })

/-! ## Producer counts (R75) -/

def ringSize (x : Ring) : Nat := 2 ^ x.log2

/-- A producer count arrives from a nudge, a poll or an idle check. Once a drain has its limit, counts are
ignored (R58 step 1). -/
def newCount (r : Nat) (v : Quad) (s : State) : State :=
  let x := s.ring r
  if v ≤ x.prod ∨ x.limit.isSome then s
  else if ringSize x < (v - x.cons).toNat then haltRing r 0x21 s
  else
    let s := s.setRing r { x with prod := v, dupWait := false }
    if x.state = .idle then ringTo r .fetching s else s

/-- A ring that takes nudges: enabled, not HALTED, its context ACTIVE (R75). -/
def takesNudges (s : State) (x : Ring) : Bool :=
  decide (x.state ≠ .disabled) && decide (x.state ≠ .halted) && decide ((s.ctx x.ctx).state = .active)

def nudgeDo (fn r off size : Nat) (v : Quad) (s : State) : State :=
  if off ≠ 0 ∨ size ≠ 8 ∨ !barOpen s fn then s
  else hostWrite fn (2 ^ 26 + r) v.toNat (fun s => if fnHasRing s fn r ∧ takesNudges s (s.ring r) then newCount r v s else s) s

/-- FE_POLL_CTL.INTERVAL_US; what a write leaves is clamped (R63). -/
def pollInterval (s : State) : Nat := s.rawBits 0 0x060040 9 0

def pollCtlEffect (w : RegWr) (s : State) : State :=
  let v := w.new.toNat % 1024
  let v := if v = 0 then 1 else if 1000 < v then 1000 else v
  s.setRaw 0 w.off (w32 v)

/-- A poll of DOORBELL is issued when its interval has passed (R76). -/
def pollDo (r : Nat) (s : State) : State :=
  let x := s.ring r
  let polled := decide (x.state = .fetching) || decide (x.state = .idlePending) || (decide (x.state = .idle) && x.pollIdle)
  if polled ∧ x.cmd = none ∧ takesNudges s x ∧ x.lastPoll + pollInterval s * 1000 ≤ s.time then
    s.setRing r { x with reads := x.reads ++ [.poll], lastPoll := s.time }
  else s

/-- R78 steps 1 to 3. -/
def idleCheck (r : Nat) (s : State) : State :=
  let s := ringTo r .idlePending (rcbConsumer r s)
  s.setRing r { s.ring r with reads := (s.ring r).reads ++ [.idleCheck] }

/-- A read of DOORBELL returns (R64, R75, R76, R78 step 4, R58 step 1). -/
def doorbellDo (r : Nat) (io : HostIO) (s : State) : State :=
  let s := applyIO io s
  let x := s.ring r
  match x.reads with
  | [] => s
  | k :: rest =>
    let z := s
    let s := s.setRing r { x with reads := rest }
    match devRead x.rcb 8 s, k with
    | .wait, _ => z
    | .failed, .drain =>
      let s := s.setRing r { s.ring r with limit := some x.prod }
      if x.cons < x.prod then s else ringTo r .idle (rcbConsumer r s)
    | .failed, _ => if x.state = .halted then s else haltRing r 0x22 (feReadFailed r x.rcb s)
    | .done (bs, s), .drain =>
      let s := newCount r (q64 (leNat bs)) s
      let y := s.ring r
      if y.state = .halted then s
      else
        let s := s.setRing r { y with limit := some y.prod }
        if y.cons < y.prod then ringTo r .fetching s else ringTo r .idle (rcbConsumer r s)
    | .done (bs, s), .idleCheck =>
      let s := newCount r (q64 (leNat bs)) s
      let y := s.ring r
      if y.state = .idlePending then
        if y.cons < y.prod ∧ !y.dupWait then ringTo r .fetching s else ringTo r .idle s
      else s
    | .done (bs, s), _ => newCount r (q64 (leNat bs)) s

/-! ## Accepting entries (R69, R70, R77, R485) -/

/-- Fields of a ring entry (R69). -/
def entKind (b : List Byte) : Nat := fld b 4 1
def entFlags (b : List Byte) : Nat := fld b 5 1
def entMask (b : List Byte) : Nat := fld b 6 1
def entTarget (b : List Byte) : Nat := fld b 8 8
def entLength (b : List Byte) : Nat := fld b 16 4
def entNwait (b : List Byte) : Nat := fld b 20 2
def entNsignal (b : List Byte) : Nat := fld b 22 2
def entEdgeVa (b : List Byte) : Nat := fld b 24 8
def entCompVa (b : List Byte) : Nat := fld b 32 8
def entCookie (b : List Byte) : Nat := fld b 40 8
def entArgVa (b : List Byte) : Nat := fld b 48 8

/-- The edge fields of an entry fail (R485): no edge array is read. -/
def edgesBad (b : List Byte) : Bool :=
  let n := entNwait b + entNsignal b
  decide (64 < entNwait b) || decide (64 < entNsignal b) || (decide (entEdgeVa b = 0) && decide (n ≠ 0)) ||
  (decide (entEdgeVa b ≠ 0) && decide (n = 0)) || decide (entEdgeVa b % 16 ≠ 0)

/-- Another field of an entry fails (R485). -/
def fieldsBad (b : List Byte) : Bool :=
  let k := entKind b
  decide (2 < k) || decide (4 ≤ entFlags b) || !zeros b 7 1 || !zeros b 56 8 ||
  (decide (k = 1) && decide (entTarget b % 16 ≠ 0)) ||
  (decide (k = 2) && decide (entTarget b / 4096 ≠ 0)) || (decide (k = 0) && decide (entTarget b ≠ 0)) ||
  (decide (k ≠ 1) && decide (entLength b ≠ 0)) || decide (entCompVa b % 32 ≠ 0) ||
  (decide (k ≠ 2) && decide (entArgVa b ≠ 0))

/-- A LENGTH that an EXEC entry may not have. -/
def lengthBad (b : List Byte) : Bool :=
  decide (entKind b = 1) && (decide (entLength b = 0) || decide (1048576 < entLength b))

/-- The phase after an entry's edges are known. -/
def afterEdges (b : List Byte) : EntryPhase := if entKind b = 1 then .framing else .waiting

/-- An accepted entry, after the checks of R485 and R82. -/
def acceptEntry (t r : Nat) (x : Ring) (seq : Quad) (b : List Byte) : Entry :=
  let launchType := decide (entKind b = 2) && decide (3 ≤ x.type)
  let bad := edgesBad b || fieldsBad b
  let status := if bad then stBadRecord else if lengthBad b then stBadLength else if launchType then stBadOpcode else stOk
  let hasEdges := decide (entNwait b + entNsignal b ≠ 0)
  let phase := if edgesBad b then .finished else if hasEdges then .edges else if status ≠ stOk then .finished else afterEdges b
  { ring := r, seq := seq.toNat, ctx := x.ctx, raw := b, phase, edges := [], nwait := entNwait b, ops := [], status, opIndex := 0xFFFF, detail := 0, reason := .aborted, launch := none, tAcc := t, tRun := 0 }

/-- SEQ against the expected entry, as a signed 32-bit difference (R77). -/
def seqDiff (b : List Byte) (e : Quad) : Int := (w32 (fld b 0 4) - e.setWidth 32).toInt

/-- Slots of one fetch read, in order (R76, R77, R92). Fuel: slots left of the read. -/
def fetchSlots (r : Nat) : Nat → State → State
  | 0, s => s
  | n + 1, s =>
    let x := s.ring r
    let e := x.cons + 1
    let pa := x.base + 64 * (x.cons.toNat % ringSize x)
    match devRead pa 64 s with
    | .wait => s
    | .failed => haltRing r 0x22 (feReadFailed r pa (rcbConsumer r s))
    | .done (b, s) =>
      let d := seqDiff b e
      if d < 0 then
        let s := s.setRing r { x with dup := x.dup + 1, dupWait := true }
        rcbWrite r 88 8 (x.dup + 1).toNat s
      else if 0 < d then haltRing r 0x20 (rcbConsumer r s)
      else if entNwait b ≠ 0 ∧ !edgesBad b ∧ waitSlots < pendingWaits s + entNwait b then s
      else
        let s := s.setRing r { x with cons := e }
        let s := s.onFe fun f => { f with entries := f.entries ++ [acceptEntry s.time r x e b] }
        fetchSlots r n s

/-- A fetch read returns (R76, R77, R78, R92). In a drain no idle check is made (R67): a duplicate below the
limit leaves the ring waiting for a count that cannot come, until an ABORT. -/
def fetchDo (r : Nat) (io : HostIO) (s : State) : State :=
  let s := applyIO io s
  let x := s.ring r
  let bound := match x.limit with
    | some l => l
    | none => x.prod
  let may := decide (x.state = .fetching) && !x.stopped && x.cmd.isNone && !s.halted .fe && !x.dupWait &&
    (decide ((s.ctx x.ctx).state = .active) || (decide ((s.ctx x.ctx).state = .draining) && x.limit.isSome))
  if may ∧ x.cons < bound then
    let slot := x.cons.toNat % ringSize x
    let n := Nat.min 8 (Nat.min (bound - x.cons).toNat (ringSize x - slot))
    let s := fetchSlots r n s
    let y := s.ring r
    if y.state ≠ .fetching then s
    else
      let s := rcbConsumer r s
      if y.dupWait then (if x.limit.isSome then s else idleCheck r s)
      else if y.cons = bound then
        if x.limit.isSome then ringTo r .idle s else idleCheck r s
      else s
  else s

/-! ## Reads of the front end through the context (R71) -/

/-- Reads bytes of an entry's structures. -/
def feRead (ctx va n : Nat) (s : State) : Res (List Byte) := vaRead noMaster ctx va n .read s

/-! ## Edges (R93, R94) -/

/-- An edge of an edge array and its form (R93). -/
def parseEdge (b : List Byte) (isSignal : Bool) : Edge :=
  let kind := fld b 0 1
  let flags := fld b 1 1
  let formed := decide (1 ≤ kind) && decide (kind ≤ 3) && decide (flags ≤ 1) && zeros b 4 4 &&
    !(isSignal && decide (kind = 1))
  { kind, flags, object := fld b 2 2, value := q64 (fld b 8 8), formed, passed := false, alloc := 0, sat := false, dead := false }

/-- The table check of an edge for an entry of a context on a ring (R94); it notes the allocation of
the fence it checked (R483). -/
def checkEdge (s : State) (ctx ring : Nat) (isSignal : Bool) (e : Edge) : Edge :=
  if !e.formed then e
  else if e.kind = 1 then
    let x := s.ring e.object
    let ok := decide (e.object < 8192) && fnHasRing s (fnOfRing s ring) e.object && decide (x.state ≠ .disabled) && decide (x.ctx = ctx)
    { e with passed := ok }
  else if e.kind = 2 then
    let f := s.fence e.object
    { e with passed := decide (f.st ≠ .free) && decide (f.owner = ctx), alloc := f.alloc }
  else
    let f := s.fence (sharedKey e.object)
    let imp := f.imports.any fun i => !i.peer && decide (i.ctx = ctx) && (!isSignal || i.signal)
    { e with passed := decide (e.object < 1024) && decide (f.st ≠ .free) && (decide (f.owner = ctx) || imp), alloc := f.alloc }

/-- A RING_SEQ edge that nothing can satisfy from the start: of its own ring, at or after its own entry, or
of a HALTED ring beyond what that ring has accepted (R96). -/
def markDead (s : State) (ring seq : Nat) (e : Edge) : Edge :=
  let x := s.ring e.object
  { e with dead := decide (e.kind = 1) && ((decide (e.object = ring) && decide (seq ≤ e.value.toNat)) || (decide (x.state = .halted) && decide (x.cons < e.value))) }

/-- The edge array of an entry returns (R93, R94, R71). An entry that failed its own checks keeps that code
whatever the edge array holds (R485). DESIGN CHOICE (log 78): so does a LAUNCH on a ring type that takes
none. -/
def edgesDo (r seq : Nat) (io : HostIO) (s : State) : State :=
  let s := applyIO io s
  match s.entry? r seq with
  | none => s
  | some e =>
    if e.phase ≠ .edges ∨ s.halted .fe then s
    else
      let n := e.nwait + entNsignal e.raw
      match feRead e.ctx (entEdgeVa e.raw) (16 * n) s with
      | .ok bs s =>
        let es := (upTo n).map fun i => markDead s r seq (checkEdge s e.ctx r (decide (e.nwait ≤ i)) (parseEdge (slice bs (16 * i) 16) (decide (e.nwait ≤ i))))
        let malformed := es.any fun x => !x.formed
        let failed := es.any fun x => !x.passed
        let status := if e.status ≠ stOk then e.status else if malformed then stBadRecord else if failed then stEdgeFault else stOk
        let detail := if e.status = stOk ∧ !malformed ∧ failed then FaultCode.notValid.num else e.detail
        let phase := if status ≠ stOk then .finished else afterEdges e.raw
        s.onEntry r seq fun e => { e with edges := es, status, detail, phase }
      | .fault f s =>
        let (d, s) := feFault f e.ctx s
        s.onEntry r seq fun e =>
          { e with phase := .finished, status := if e.status = stOk then stEdgeFault else e.status, detail := if e.status = stOk then d else e.detail }
      | .severed s => s.onEntry r seq fun e => { e with phase := .finished, status := if e.status = stOk then stSevered else e.status }
      | .wait s => s

/-! ## Framing (R80 to R83) -/

/-- The length in granules that an opcode's record has (R83). -/
def opcodeLen (op : Nat) : Option Nat :=
  match op with
  | 0x0000 => some 1 | 0x0001 => some 2 | 0x0002 => some 2 | 0x0003 => some 2 | 0x0004 => some 3
  | 0x0010 => some 6 | 0x0011 => some 6 | 0x0020 => some 4 | 0x0021 => some 2 | 0x0030 => some 11
  | 0x0031 => some 7 | 0x0032 => some 6 | 0x0040 => some 5 | 0x0050 => some 4 | 0x0060 => some 4
  | _ => none

/-- Ring types that accept an opcode (R82): 0 graphics, 1 compute, 2 tensor, 3 copy, 4 compression,
5 display-commit. -/
def opcodeOn (op type : Nat) : Bool :=
  match op with
  | 0x0000 | 0x0001 | 0x0002 | 0x0003 => true
  | 0x0004 => decide (type ≤ 3)
  | 0x0010 | 0x0011 => decide (type ≤ 1)
  | 0x0020 | 0x0021 => decide (type = 0)
  | 0x0030 | 0x0031 | 0x0032 => decide (type = 1) || decide (type = 2)
  | 0x0040 => decide (type = 4)
  | 0x0050 => decide (type = 5)
  | 0x0060 => decide (type = 1)
  | _ => false

/-- Predecessors of a record at index i, or none when R83 check 5 fails. -/
def recordPreds (h : List Byte) (i : Nat) : Option (List Nat) :=
  let n := fld h 4 1
  let chain := bit (fld h 5 1) 0
  let ps := (upTo 4).map fun j => fld h (8 + 2 * j) 2
  if 4 < n ∨ (ps.drop n).any (· ≠ 0) ∨ (ps.take n).any (fun p => decide (i ≤ p)) ∨ (chain ∧ i = 0) then none
  else some (ps.take n ++ if chain then [i - 1] else [])

/-- A new op of a record. -/
def mkOp (opcode va len mask : Nat) (preds : List Nat) (patches : List (Nat × Nat)) : Op :=
  { opcode, va, len, preds, mask, phase := .waiting, status := 0, detail := 0, sticky := 0, skipped := false, reason := .aborted, rank := 0, spared := [], body := [], emask := 0, units := [], ending := none, fence := none, patches }

/-- The framing's outcome: the ops, or a failure (STATUS, OP_INDEX, DETAIL). -/
inductive Framing where
  | ops (l : List Op)
  | bad (status idx detail : Nat)
  | wait
  deriving Repr

/-- The most records that a command buffer holds (R80). -/
def maxRecords : Nat := 65535

/-- Reads and checks the record headers of a command buffer in order (R83). Fuel: records. DESIGN CHOICE
(log 77): a read that faults or is severed gives as OP_INDEX the index of the record being read. -/
def frameRecords (ctx va total type : Nat) : Nat → Nat → Nat → List Op → State → Framing × State
  | 0, i, at_, acc, s => (if at_ < total ∧ 65535 ≤ i then .bad stBadLength 0xFFFF 0 else .ops acc, s)
  | n + 1, i, at_, acc, s =>
    if total ≤ at_ then (.ops acc, s)
    else match feRead ctx (va + 16 * at_) 16 s with
      | .fault f s => let (d, s) := feFault f ctx s; (.bad stCbFault i d, s)
      | .severed s => (.bad stSevered i 0, s)
      | .wait s => (.wait, s)
      | .ok h s =>
        let op := fld h 0 2
        let len := fld h 2 2
        if len = 0 ∨ total < at_ + len then (.bad stBadLength i 0, s)
        else if 2 ≤ fld h 5 1 ∨ !zeros h 7 1 then (.bad stBadRecord i 0, s)
        else if !opcodeOn op type then (.bad stBadOpcode i 0, s)
        else if opcodeLen op ≠ some len then (.bad stBadLength i 0, s)
        else match recordPreds h i with
          | none => (.bad stBadPred i 0, s)
          | some ps =>
            frameRecords ctx va total type n (i + 1) (at_ + len)
              (acc ++ [mkOp op (va + 16 * at_) (16 * len) (fld h 6 1) ps []]) s

/-- The framing of an EXEC entry's command buffer returns (R83, R71). -/
def framingDo (r seq : Nat) (io : HostIO) (s : State) : State :=
  let s := applyIO io s
  match s.entry? r seq with
  | none => s
  | some e =>
    if e.phase ≠ .framing ∨ s.halted .fe then s
    else match frameRecords e.ctx (entTarget e.raw) (entLength e.raw) (s.ring r).type maxRecords 0 0 [] s with
      | (.ops l, s) => s.onEntry r seq fun e => { e with phase := .waiting, ops := l }
      | (.bad st i d, s) => failEntry r seq st i d s
      | (.wait, s) => s

/-! ## Starting entries (R72, R95) -/

/-- R72 lets an entry start: without OVERLAP the entry before it has finished its ops; with OVERLAP
the entry before it has been dispatched. -/
def ringTurn (s : State) (e : Entry) : Bool :=
  match s.entry? e.ring (e.seq - 1) with
  | none => true
  | some p => if bit (entFlags e.raw) 0 then decide (p.phase = .running) || decide (p.phase = .finished)
      else decide (p.phase = .finished)

/-- Every wait edge of an entry is satisfied. -/
def edgesSat (e : Entry) : Bool := (e.edges.take e.nwait).all fun w => w.sat

/-- ENTRY_START (R72, R95 to R97): a NOP entry has nothing more to do; an EXEC entry's ops may run. A
LAUNCH starts at its acceptance. -/
def startDo (r seq : Nat) (s : State) : State :=
  match s.entry? r seq with
  | none => s
  | some e =>
    if e.phase ≠ .waiting ∨ s.halted .fe ∨ !ctxRuns s e.ctx then s
    else
      let e' := recheckEntry s e
      let s := s.onEntry r seq fun _ => e'
      if e'.phase = .waiting ∧ edgesSat e' ∧ ringTurn s e' then
        match entKind e'.raw with
        | 0 => s.onEntry r seq fun e => { e with phase := .finished }
        | 1 => s.onEntry r seq fun e => { e with phase := .running }
        | _ => s
      else s

end Sys2Proof.Machine
end

