-- ==== Sys2Proof/Machine/EntryOps.lean ====
section
/-! DEFINITION. The front end's own ops and the completion of entries (R84 to R92, R98, R103, R114),
and the retirement of graph versions (R122). -/

namespace Sys2Proof.Machine

open Sys2Proof

/-! ## Fence ops (R114) -/

/-- The edge of a FENCE_WAIT or FENCE_SIGNAL record, checked; none: the op fails with ABORTED. -/
def fenceOpEdge (s : State) (ctx ring : Nat) (body : List Byte) (isSignal : Bool) : Option Edge :=
  let e := checkEdge s ctx ring isSignal (parseEdge (slice body 16 16) isSignal)
  if e.formed ∧ e.passed ∧ e.kind ≠ 1 then some e else none

/-- FENCE_WAIT starts: it ends at once when its edge is satisfied or in error (R114). The pending
table holds it otherwise; a full table makes it wait (R99). -/
def fenceWaitDo (o : OpRef) (s : State) : State :=
  match s.op? o with
  | none => s
  | some (e, p) =>
    if p.phase ≠ .running ∨ p.opcode ≠ 1 ∨ p.fence.isSome then s
    else match fenceOpEdge s e.ctx e.ring p.body false with
      | none => endOp o stOpError 1 0 s
      | some w => match edgeWait s w with
        | .sat => endOp o stOk 0 0 s
        | .error r => endOp o stOpError r.num 0 s
        | .pending =>
          if waitSlots ≤ pendingWaits s then s else s.onOp o fun p => { p with fence := some w }

/-- FENCE_SIGNAL signals at once; combining buffers are written before it (R114, R211). -/
def fenceSignalOpDo (o : OpRef) (s : State) : State :=
  match s.op? o with
  | none => s
  | some (e, p) =>
    if p.phase ≠ .running ∨ p.opcode ≠ 2 then s
    else match fenceOpEdge s e.ctx e.ring p.body true with
      | none => endOp o stOpError 1 0 s
      | some w => endOp o stOk 0 0 (sendFence w.key w.alloc (.inl w.value) (wcFlushAll s))

/-- Patches of a node replace 8 bytes of its record by bytes of the argument block (R117). -/
def patchBody (args : List Byte) (ps : List (Nat × Nat)) (b : List Byte) : List Byte :=
  ps.foldl (fun b p => splice b p.2 (slice args p.1 8)) b

/-- A skipped FENCE_SIGNAL puts its fence into ERROR with the reason of the failure before it
(R103, R114); none while its record cannot be read. DESIGN CHOICE (log 79): R103 does not say when. The
model does it as the entry completes, from the record as it then stands, a launch node's with its patches,
and a record that cannot be read names no fence. -/
def skippedSignal (e : Entry) (p : Op) (s : State) : Option State :=
  if p.skipped ∧ p.opcode = 2 then
    match feRead e.ctx p.va 32 s with
    | .ok b s =>
      let b := match e.launch with
        | some l => patchBody l.args p.patches b
        | none => b
      match fenceOpEdge s e.ctx e.ring b true with
      | some w => some (sendFence w.key w.alloc (.inr p.reason) s)
      | none => some s
    | .fault f s => some (feFault f e.ctx s).2
    | .severed s => some s
    | .wait _ => none
  else some s

/-! ## TIMESTAMP and COPY (R86) -/

/-- A running op of an opcode, with its context still running work; otherwise it is discarded. -/
def withOp (o : OpRef) (opcode : Nat) (f : Entry → Op → State → State) (s : State) : State :=
  match s.op? o with
  | none => s
  | some (e, p) =>
    if p.phase ≠ .running ∨ p.opcode ≠ opcode ∨ p.ending.isSome then s
    else if !ctxRuns s e.ctx then discardOp o s
    else f e p s

/-- TIMESTAMP writes the time at which it starts. The front end takes its fault: the op ends with
TRANSLATION_FAULT, and no fault record names a master. -/
def timestampDo (o : OpRef) (s : State) : State :=
  withOp o 3 (fun e p s =>
    match vaWrite noMaster e.ctx (fld p.body 16 8) (natLe 8 s.time) s with
    | .ok _ s => endOp o stOk 0 0 s
    | .fault f s => let (d, s) := feFault f e.ctx s; endOp o stTransFault d 0 s
    | .severed s => endOp o stSevered 0 0 s
    | .wait s => s) s

/-! ## Priority (R87) -/

/-- The effective cluster mask of an op (R85, R117). -/
def effMask (s : State) (e : Entry) (p : Op) : Nat :=
  let own := if p.mask ≠ 0 then p.mask else if entMask e.raw ≠ 0 then entMask e.raw else 0xFF
  ((upTo 8).filter fun c => bit own c && s.clusterPresent c).foldl (fun a c => a + 2 ^ c) 0

/-- Opcodes that ignore the mask (R85). -/
def maskFree (opcode : Nat) : Bool := decide (opcode = 0x40) || decide (opcode = 0x50)

/-- An op that could start, or waits for units: its predecessors have completed. -/
def readyOp (e : Entry) (p : Op) : Bool :=
  decide (e.phase = .running) && (decide (p.phase = .waiting) || (decide (p.phase = .running) && decide (p.units = []) && p.fence.isNone && p.ending.isNone)) &&
  p.preds.all fun j => match e.ops[j]? with
    | some q => decide (q.phase = .done) && decide (q.status = stOk) && !q.skipped
    | none => false

/-- Kinds of unit that ops compete for: 1 tensor arrays, 2 tensor DMA channels, 3 shader cores; 0 none. -/
def unitKind (opcode : Nat) : Nat :=
  match opcode with
  | 0x30 | 0x32 => 1
  | 0x04 | 0x21 | 0x31 => 2
  | 0x10 | 0x11 | 0x20 => 3
  | _ => 0

/-- A render pass that has started; in its binning phase it holds no core. -/
def passStarted (s : State) (e : Entry) (i : Nat) : Bool :=
  s.rnd.passes.any fun x => decide (x.op.ring.val = e.ring) && decide (x.op.seq = e.seq) && decide (x.op.op = i)

/-- An op of a ring of higher PRIO is ready for the same kind of unit in a cluster of this op's mask: it
starts first (R87). -/
def yields (s : State) (o : OpRef) : Bool :=
  match s.op? o with
  | none => false
  | some (e, p) => s.fe.entries.any fun f =>
    decide ((s.ring e.ring).prio < (s.ring f.ring).prio) && ctxRuns s f.ctx &&
    (upTo f.ops.length).any fun i => match f.ops[i]? with
      | some q => decide (unitKind q.opcode ≠ 0) && decide (unitKind q.opcode = unitKind p.opcode) &&
          decide (effMask s f q &&& p.emask ≠ 0) && readyOp f q && !passStarted s f i
      | none => false

/-- Master ID of a tensor DMA channel: channel n is channel n mod 4 of cluster n / 4 (R17). -/
def dmaMaster (chan : Nat) : Nat := 0x48 + chan

/-- A channel that can take an op of a mask. -/
def chanFree (s : State) (mask chan : Nat) : Bool :=
  bit mask (chan / 4) && decide (s.power (chan / 4) = .on) && clkCluster s (chan / 4) && clusterUp s (chan / 4) && !inReset s 2 chan && !s.isPinned (dmaMaster chan) &&
  !(s.fe.entries.any fun e => e.ops.any fun p => p.units.contains (dmaMaster chan))

/-- Every channel of a mask is pinned: the op cannot start (R185). -/
def chansPinned (s : State) (mask : Nat) : Bool :=
  (upTo 32).all fun ch => !bit mask (ch / 4) || s.isPinned (dmaMaster ch)

/-- An op takes a channel. -/
def takeChannel (o : OpRef) (chan : Nat) (s : State) : State :=
  match s.op? o with
  | some (e, p) =>
    if chansPinned s p.emask then endOp o stPinned 0 0 s
    else if chanFree s p.emask chan ∧ p.units = [] ∧ !yields s o then
      (s.onOp o fun p => { p with units := [dmaMaster chan] }).onFe fun f =>
        { f with copies := f.copies ++ [{ op := o, ctx := e.ctx, chan }] }
    else s
  | none => s

def dropCopy (o : OpRef) (s : State) : State :=
  s.onFe fun f => { f with copies := f.copies.filter fun c => c.op ≠ o }

/-- The pieces of a copy: each stays in one page of source and destination. -/
def copyPieces : Nat → Nat → Nat → Nat → List (Nat × Nat × Nat)
  | 0, _, _, _ => []
  | _ + 1, _, _, 0 => []
  | f + 1, src, dst, n =>
    let k := Nat.min n (Nat.min (4096 - src % 4096) (4096 - dst % 4096))
    (src, dst, k) :: copyPieces f (src + k) (dst + k) (n - k)

/-- A fill pattern repeated from an offset. -/
def fillBytes (pat off n : Nat) : List Byte :=
  (upTo n).map fun i => (natLe 4 pat).getD ((off + i) % 4) 0

/-- Free bytes. -/
def freeBytes : Nat → State → List Byte × State
  | 0, s => ([], s)
  | n + 1, s =>
    let (v, s) := s.fresh
    let (bs, s) := freeBytes n s
    (v.setWidth 8 :: bs, s)

/-- What a copy onto bytes of its own source leaves, in the direction in which source bytes come before the
bytes that overwrite them: each byte whose source the copy itself overwrites is, as a free bit has it, the
source before the copy or the byte that the copy put there (R86). -/
def overlapPick (gap : Nat) (orig : List Byte) (s : State) : List Byte × State :=
  orig.foldl (fun (acc : List Byte × State) b =>
    if acc.1.length < gap then (acc.1 ++ [b], acc.2)
    else
      let (v, s) := acc.2.fresh
      (acc.1 ++ [if v.getLsbD 0 then acc.1.getD (acc.1.length - gap) b else b], s)) ([], s)

/-- The destination of a copy of n bytes whose ranges overlap, from the source before it. -/
def overlapBytes (src dst : Nat) (orig : List Byte) (s : State) : List Byte × State :=
  if src < dst then overlapPick (dst - src) orig s
  else
    let (bs, s) := overlapPick (src - dst) orig.reverse s
    (bs.reverse, s)

/-- COPY ends: its bytes move in order, up to the first fault (R55, R86). -/
def copyDoneDo (o : OpRef) (io : HostIO) (s : State) : State :=
  let s := applyIO io s
  let chan := (s.fe.copies.find? fun c => c.op = o).map (·.chan)
  match chan with
  | none => s
  | some ch =>
    let m := dmaMaster ch
    match s.op? o with
    | none => dropCopy o s
    | some (e, p) =>
      if p.phase ≠ .running then dropCopy o s
      else if !ctxRuns s e.ctx then discardOp o (dropCopy o s)
      else if p.opcode ≠ 4 then s
      else
        let src := fld p.body 16 8
        let dst := fld p.body 24 8
        let n := fld p.body 32 8
        let fill := bit (fld p.body 40 4) 0
        let pat := fld p.body 44 4
        let step := fun (acc : Option State × State) (c : Nat × Nat × Nat) =>
          match acc with
          | (some s, s0) =>
            let rd : Res (List Byte) := if fill then .ok (fillBytes pat (c.2.1 - dst) c.2.2) s else vaRead m e.ctx c.1 c.2.2 .read s
            match rd with
            | .fault f s => (none, opFault f o m c.1 .read s)
            | .severed s => (none, endOp o stSevered 0 0 s)
            | .wait _ => (none, s0)
            | .ok bs s => match vaWrite m e.ctx c.2.1 bs s with
              | .ok _ s => (some s, s0)
              | .fault f s => (none, opFault f o m c.2.1 .write s)
              | .severed s => (none, endOp o stSevered 0 0 s)
              | .wait _ => (none, s0)
          | (none, s) => (none, s)
        let pieces := copyPieces (n / 2048 + 4) (if fill then dst else src) dst n
        match pieces.foldl (fun acc c => match acc with
          | (some _, s0) => match step acc c with
            | (none, s') => (none, s')
            | (some s, _) => (some s, s0)
          | other => other) (some s, s) with
        | (none, s') => if opRunning s' o then s' else dropCopy o s'
        | (some s', _) =>
          let s' := if !fill ∧ src ≠ dst ∧ Nat.max src dst < Nat.min src dst + n then
              match vaRead m e.ctx src n .read s with
              | .ok orig _ =>
                let (bs, s') := overlapBytes src dst orig s'
                match vaWrite m e.ctx dst bs s' with
                | .ok _ s' => s'
                | other => other.state
              | _ => s'
            else s'
          dropCopy o (endOp o stOk 0 0 s')

/-! ## Dispatch (R81, R84, R85) -/

/-- Reserved fields of the front end's own records, and fields out of range (R9, R86, R118). DESIGN CHOICE
(logs 76, 80): the spec gives no code to a misaligned DST_VA of a TIMESTAMP, to BYTES of a COPY out of range
or to a GRAPH above 4,095; each gives BAD_RECORD here, as a reserved field does (R91). A misaligned
RETIRE_VA is accepted. -/
def bodyBad (opcode : Nat) (b : List Byte) : Bool :=
  match opcode with
  | 3 => !zeros b 24 8 || decide (fld b 16 8 % 8 ≠ 0)
  | 4 =>
    let mode := fld b 40 4
    decide (2 ≤ mode) || decide (fld b 32 8 = 0) || decide (2 ^ 40 < fld b 32 8) ||
    (decide (mode = 1) && decide (fld b 16 8 ≠ 0))
  | 0x60 => !zeros b 17 1 || !zeros b 20 4 || decide (2 ≤ fld b 42 1) || !zeros b 43 5 || !zeros b 56 8 ||
      decide (4096 ≤ fld b 18 2)
  | _ => false

/-- Asks for the power of every gated cluster of a mask (R203). -/
def wakeClusters (mask : Nat) (s : State) : State :=
  let want := (upTo 8).filter fun c => bit mask c && decide (s.power c = .off)
  s.onUnit fun u => { u with waking := u.waking ++ want.filter fun c => !u.waking.contains c }

/-- OP_DISPATCH: the op's body is read again and copied, and the op runs (R81, R84, R85). -/
def dispatchDo (o : OpRef) (io : HostIO) (s : State) : State :=
  let s := applyIO io s
  match s.op? o with
  | none => s
  | some (e, p) =>
    let ready := p.preds.all fun j => match e.ops[j]? with
      | some q => decide (q.phase = .done) && decide (q.status = stOk) && !q.skipped
      | none => false
    if e.phase ≠ .running ∨ p.phase ≠ .waiting ∨ !ready ∨ s.halted .fe then s
    else if !ctxRuns s e.ctx then discardOp o s
    else
      let mask := effMask s e p
      if !maskFree p.opcode ∧ mask = 0 then endOp o stNoCluster 0 0 s
      else match feRead e.ctx p.va p.len s with
        | .fault f s => let (d, s) := feFault f e.ctx s; endOp o stCbFault d 0 s
        | .severed s => endOp o stSevered 0 0 s
        | .wait s => s
        | .ok b s =>
          let b := match e.launch with
            | some l => patchBody l.args p.patches b
            | none => b
          if bodyBad p.opcode b then endOp o stBadRecord 0 0 s
          else
            let s := if maskFree p.opcode then s else wakeClusters mask s
            let s := s.onEntry o.ring.val o.seq fun e => { e with tRun := if e.tRun = 0 then s.time + 1 else e.tRun }
            s.onOp o fun p => { p with phase := .running, body := b, emask := mask, rank := (s.ring e.ring).prio, spared := [] }

/-! ## Versions (R122) -/

/-- A version that is not current and has no pins retires: its record, then its fence. It stays while its
record must wait (R447). -/
def retireVersion (v : GraphVersion) (s : State) : State :=
  let drop := fun (s : State) => s.onFe fun f => { f with versions := f.versions.erase v }
  let signal := fun (s : State) => match v.fence with
    | some (k, a, val) => sendFence k a (.inl val) (wcFlushAll s)
    | none => s
  let record := natLe 8 v.root ++ natLe 8 v.version ++ natLe 2 v.graph ++ natLe 2 0 ++
    natLe 4 (Nat.min v.launches 0xFFFFFFFF) ++ natLe 8 s.time
  if v.retireVa = 0 then signal (drop s)
  else match vaWrite noMaster v.ctx v.retireVa record s with
    | .wait _ => s
    | .fault f s => signal (drop (feFault f v.ctx s).2)
    | .ok _ s => signal (drop s)
    | .severed s => signal (drop s)

/-- Retires every version of a context that can retire; teardown retires none. -/
def retireReady (ctx : Nat) (s : State) : State :=
  if !ctxRuns s ctx then s
  else (s.fe.versions.filter fun v => decide (v.ctx = ctx) && !v.current && decide (v.pins = 0)).foldl
    (fun s v => retireVersion v s) s

/-! ## Completion (R89) -/

/-- The first failure of an entry in op-index order: STATUS, OP_INDEX, DETAIL, and its reason. -/
def entryResult (e : Entry) : Nat × Nat × Nat × Reason :=
  if e.status ≠ stOk then (e.status, e.opIndex, e.detail, statusReason e.status e.reason)
  else match (upTo e.ops.length).find? fun i => (e.ops[i]?).any fun p => p.status ≠ stOk with
    | some i => match e.ops[i]? with
      | some p => (p.status, i, p.detail, statusReason p.status p.reason)
      | none => (stOk, 0xFFFF, 0, .aborted)
    | none => (stOk, 0xFFFF, 0, .aborted)

def skippedCount (e : Entry) : Nat := (e.ops.filter fun p => p.skipped).length

def stickyUnion (e : Entry) : Nat := e.ops.foldl (fun a p => a ||| p.sticky) 0

/-- The 32-byte completion record (R89). -/
def completionRecord (e : Entry) (t : Nat) : List Byte :=
  let (st, i, d, _) := entryResult e
  natLe 8 e.seq ++ natLe 8 (entCookie e.raw) ++ natLe 2 st ++ natLe 2 i ++ natLe 1 (stickyUnion e) ++
  natLe 1 d ++ natLe 2 (Nat.min (skippedCount e) 0xFFFF) ++ natLe 8 t

/-- One completion record could not be written (R89, R485). -/
def loseCompletion (r : Nat) (s : State) : State :=
  let x := s.ring r
  rcbWrite r 96 8 (x.compLost + 1).toNat (s.setRing r { x with compLost := x.compLost + 1 })

/-- Step 1 of R89; none while the write must wait (R447). -/
def writeCompletion (e : Entry) (s : State) : Option State :=
  let va := entCompVa e.raw
  if va = 0 then some s
  else if va % 32 ≠ 0 then some (loseCompletion e.ring s)
  else match vaWrite noMaster e.ctx va (completionRecord e s.time) s with
    | .ok _ s => some s
    | .fault f s => some (loseCompletion e.ring (feFault f e.ctx s).2)
    | .severed s => some (loseCompletion e.ring s)
    | .wait _ => none

/-- Step 2 of R89: signal edges in edge-array order (R98, R103); only edges that passed their check
act (R94). -/
def signalEdges (e : Entry) (s : State) : State :=
  let (st, _, _, why) := entryResult e
  ((e.edges.drop e.nwait).filter fun x => x.formed && x.passed).foldl (fun s x =>
    sendFence x.key x.alloc (if st = stOk then .inl x.value else .inr why) s) (wcFlushAll s)

/-- Step 3 of R89: COMPLETED is the largest n such that entries 1 to n have completed (R68). -/
def advanceCompleted : Nat → Ring → Ring
  | 0, x => x
  | n + 1, x =>
    if x.done.contains (x.completed + 1) then
      advanceCompleted n { x with completed := x.completed + 1, done := x.done.filter (· ≠ x.completed + 1) }
    else x

def completeSeq (r seq : Nat) (s : State) : State :=
  let x := s.ring r
  if q64 seq ≤ x.completed then s
  else
    let y := advanceCompleted (x.done.length + 1) { x with done := x.done ++ [q64 seq] }
    rcbWrite r 72 8 y.completed.toNat (s.setRing r y)

/-- The times of a completed entry count in its ring's statistics (R412, R417). An entry that started no
op waited until its completion. -/
def countEntry (e : Entry) (s : State) : State :=
  let start := if e.tRun = 0 then s.time else e.tRun - 1
  let x := tblGet RingStat.zero s.pwr.ringStat e.ring
  let y : RingStat := { wait := x.wait + (start - e.tAcc), run := x.run + (s.time - start), count := x.count + 1 }
  s.onPwr fun p => { p with ringStat := tblSet RingStat.zero p.ringStat e.ring y }

/-- The steps of R89 from the second on, once the completion record is written: a launch gives up its pin
(R122). -/
def completeRest (e : Entry) (s : State) : State :=
  let s := completeSeq e.ring e.seq (signalEdges e s)
  let s := match e.launch with
    | some l => retireReady e.ctx (unpin e.ctx l s)
    | none => s
  let s := releaseWaits s
  if bit (entFlags e.raw) 1 then s
  else if h : e.ring < 8192 then raiseVec (.ring ⟨e.ring, h⟩) (fnOfRing s e.ring) (s.ring e.ring).vector s else s

/-- ENTRY_COMPLETE: the steps of R89 in order. Nothing is done while a skipped signal's record or the
completion record must wait. -/
def completeDo (r seq : Nat) (s : State) : State :=
  match s.entry? r seq with
  | none => s
  | some e =>
    if e.phase ≠ .finished then s
    else
      let z := s
      let s := s.onFe fun f => { f with entries := f.entries.filter fun x => !(decide (x.ring = r) && decide (x.seq = seq)) }
      let signalled := e.ops.foldl (fun (a : Option State) p => a.bind (skippedSignal e p)) (some (countEntry e s))
      match signalled.bind (writeCompletion e) with
      | none => z
      | some s => completeRest e s

/-! ## The meanings of the ring family -/

/-- ENABLE (R64, R65). -/
def execRingEnable (fn : Fn) (s : State) : Out := .next (ringCommand fn.val 1 (enableDo fn.val) s)

/-- ENABLE_DONE (R64, R65). -/
def execRingEnableDone (r : RingId) (io : HostIO) (s : State) : Out := .next (enableDone r.val io s)

/-- DISABLE (R64). -/
def execRingDisable (fn : Fn) (s : State) : Out := .next (ringCommand fn.val 2 (disableDo fn.val) s)

/-- DISABLE_DONE (R64). -/
def execRingDisableDone (r : RingId) (s : State) : Out := .next (disableDone r.val s)

/-- SET_PRIO (R64). -/
def execRingSetPrio (fn : Fn) (s : State) : Out := .next (ringCommand fn.val 3 (setPrioDo fn.val) s)

/-- RING_PARITY (R66). -/
def execRingParity (r : RingId) (s : State) : Out :=
  .next (if (s.ring r.val).state = .disabled then s else haltRing r.val 0x23 s)

/-- NUDGE (R74, R75). -/
def execNudge (fn : Fn) (r : RingId) (off size : Nat) (v : Quad) (s : State) : Out :=
  .next (nudgeDo fn.val r.val off size v s)

/-- DOORBELL_POLL (R76). -/
def execDoorbellPoll (r : RingId) (t : Nat) (s : State) : Out := .next (pollDo r.val (advanceTo t s))

/-- DOORBELL_READ_DONE (R75, R76, R78). -/
def execDoorbellReadDone (r : RingId) (io : HostIO) (s : State) : Out := .next (doorbellDo r.val io s)

/-- RING_FETCH_DONE (R70, R77, R78, R92). -/
def execRingFetchDone (r : RingId) (io : HostIO) (s : State) : Out := .next (fetchDo r.val io s)

/-- EDGE_ARRAY_READ_DONE (R93, R94). -/
def execEdgeArrayReadDone (e : EntryRef) (io : HostIO) (s : State) : Out := .next (edgesDo e.ring.val e.seq io s)

/-- CB_FRAMING_READ_DONE (R83). -/
def execCbFramingReadDone (e : EntryRef) (io : HostIO) (s : State) : Out := .next (framingDo e.ring.val e.seq io s)

/-- ENTRY_START (R72, R95). -/
def execEntryStart (e : EntryRef) (s : State) : Out := .next (startDo e.ring.val e.seq s)

/-- NOP (R86). -/
def execOpNop (o : OpRef) (s : State) : Out := .next (withOp o 0 (fun _ _ s => endOp o stOk 0 0 s) s)

/-- TIMESTAMP (R86). -/
def execOpTimestamp (o : OpRef) (t : Nat) (s : State) : Out := .next (timestampDo o (advanceTo t s))

/-- COPY takes a channel (R86). -/
def execOpCopy (o : OpRef) (chan : Fin 32) (s : State) : Out :=
  .next (withOp o 4 (fun _ _ s => takeChannel o chan.val s) s)

/-- COPY_DONE (R86). -/
def execOpCopyDone (o : OpRef) (io : HostIO) (s : State) : Out := .next (metaLog (copyDoneDo o io s))

/-- FENCE_WAIT (R114). -/
def execOpFenceWait (o : OpRef) (s : State) : Out := .next (fenceWaitDo o s)

/-- FENCE_SIGNAL (R114). -/
def execOpFenceSignal (o : OpRef) (s : State) : Out := .next (fenceSignalOpDo o s)

/-- ENTRY_COMPLETE (R89). -/
def execEntryComplete (e : EntryRef) (t : Nat) (s : State) : Out :=
  .next (completeDo e.ring.val e.seq (advanceTo t s))

end Sys2Proof.Machine
end

