-- ==== Sys2Proof/Machine/Graphs.lean ====
section
/-! DEFINITION. Graph objects: directory, validation, publication, deletion and launch (R115 to
R123). -/

namespace Sys2Proof.Machine

open Sys2Proof

/-- DETAIL codes of R119. -/
def grNoDir : Nat := 0x10
def grDirBound : Nat := 0x11
def grFormat : Nat := 0x12
def grAbsent : Nat := 0x13

/-- Fields of a GRAPH_PATCH record (R118). -/
def gpSubop (b : List Byte) : Nat := fld b 16 1
def gpGraph (b : List Byte) : Nat := fld b 18 2
def gpVa (b : List Byte) : Nat := fld b 24 8

/-- A GRAPH_PATCH of one SUBOP; an invalid SUBOP fails whichever command meets it. -/
def withPatch (o : OpRef) (subop : Nat) (f : Entry → Op → State → State) (s : State) : State :=
  withOp o 0x60 (fun e p s =>
    if 2 < gpSubop p.body then endOp o stOpError grFormat 0 s
    else if gpSubop p.body = subop then f e p s else s) s

/-- BIND_DIR gives the context its directory, once (R115). DESIGN CHOICE (log 80): a misaligned VA, or a GRAPH
that is not 0, gives GRAPH_FORMAT. -/
def bindDirDo (o : OpRef) (s : State) : State :=
  withPatch o 0 (fun e p s =>
    let c := s.ctx e.ctx
    if c.dir.isSome then endOp o stOpError grDirBound 0 s
    else if gpVa p.body % 4096 ≠ 0 ∨ gpGraph p.body ≠ 0 then endOp o stOpError grFormat 0 s
    else endOp o stOk 0 0 (s.setCtx e.ctx { c with dir := some (gpVa p.body) })) s

/-- A graph's structures as read: done, malformed (GRAPH_FORMAT), a fault's DETAIL, or not yet. -/
inductive Got (α : Type) where
  | ok (a : α) (s : State)
  | bad (s : State)
  | fault (detail : Nat) (s : State)
  | severed (s : State)
  | wait (s : State)

/-- Reads bytes of a graph structure through the context. -/
def grRead (ctx va n : Nat) (s : State) : Got (List Byte) :=
  match feRead ctx va n s with
  | .ok b s => .ok b s
  | .fault f s => let (d, s) := feFault f ctx s; .fault d s
  | .severed s => .severed s
  | .wait s => .wait s

def Got.bind {α β : Type} (g : Got α) (f : α → State → Got β) : Got β :=
  match g with
  | .ok a s => f a s
  | .bad s => .bad s
  | .fault d s => .fault d s
  | .severed s => .severed s
  | .wait s => .wait s

/-- A node as a launch uses it: opcode, record address and bytes, predecessors, mask, patches. -/
structure Node where
  opcode  : Nat
  va      : Nat
  len     : Nat
  preds   : List Nat
  mask    : Nat
  patches : List (Nat × Nat)
  deriving DecidableEq, Repr

/-- A graph's root and nodes. -/
structure Graph where
  argBytes : Nat
  nodes    : List Node
  deriving DecidableEq, Repr

/-- A root record is well formed (R116). -/
def rootFormed (va : Nat) (b : List Byte) : Bool :=
  decide (va % 64 = 0) && decide (1 ≤ fld b 0 4) && decide (fld b 0 4 ≤ 65535) && decide (fld b 4 4 ≤ 4096) &&
  decide (fld b 4 4 % 8 = 0) && decide (fld b 8 8 % 32 = 0) && decide (fld b 16 8 % 2 = 0) && zeros b 25 39

/-- A used patch lies within ARG_BYTES and the op record (R117, R118). -/
def patchFormed (argBytes opLen : Nat) (p : Nat × Nat) : Bool :=
  decide (p.1 % 8 = 0) && decide (p.1 + 8 ≤ argBytes) && decide (p.2 % 8 = 0) && decide (16 ≤ p.2) &&
  decide (p.2 + 8 ≤ 16 * opLen)

/-- The used patches of a node record. -/
def nodePatches (b : List Byte) : List (Nat × Nat) :=
  (if bit (fld b 24 1) 0 then [(fld b 16 2, fld b 18 2)] else []) ++
  (if bit (fld b 24 1) 1 then [(fld b 20 2, fld b 22 2)] else [])

/-- An opcode that some graphics, compute or tensor ring accepts, other than GRAPH_PATCH (R118). -/
def graphOpcode (op : Nat) : Bool := decide (op ≠ 0x60) && (opcodeOn op 0 || opcodeOn op 1 || opcodeOn op 2)

/-- Reads and validates node i (R117, R118). -/
def readNode (ctx rootMask argBytes nodeVa predVa i : Nat) (s : State) : Got Node :=
  (grRead ctx (nodeVa + 32 * i) 32 s).bind fun b s =>
    let opVa := fld b 0 8
    let opLen := fld b 8 2
    let npred := fld b 10 2
    let ps := nodePatches b
    if opVa % 16 ≠ 0 ∨ 1024 < npred ∨ 4 ≤ fld b 24 1 ∨ !zeros b 26 6 ∨ !ps.all (patchFormed argBytes opLen) then .bad s
    else
      let readPreds := if npred = 0 then Got.ok [] s else grRead ctx (predVa + 2 * fld b 12 4) (2 * npred) s
      readPreds.bind fun pb s =>
        let preds := (upTo npred).map fun j => fld pb (2 * j) 2
        if preds.any (fun p => decide (i ≤ p)) then .bad s
        else (grRead ctx opVa 16 s).bind fun h s =>
          let opcode := fld h 0 2
          if !graphOpcode opcode ∨ fld h 2 2 ≠ opLen ∨ opcodeLen opcode ≠ some opLen ∨ !zeros h 4 2 ∨ !zeros h 7 9 then .bad s
          else
            let mask := if fld h 6 1 ≠ 0 then fld h 6 1 else if fld b 25 1 ≠ 0 then fld b 25 1 else rootMask
            .ok { opcode, va := opVa, len := 16 * opLen, preds, mask, patches := ps } s

/-- Reads and validates a whole version (R118). -/
def readGraph (ctx rootVa : Nat) (s : State) : Got Graph :=
  (grRead ctx rootVa 64 s).bind fun b s =>
    if !rootFormed rootVa b then .bad s
    else
      let argBytes := fld b 4 4
      let go := (upTo (fld b 0 4)).foldl (fun (g : Got (List Node)) i => g.bind fun acc s =>
        (readNode ctx (fld b 24 1) argBytes (fld b 8 8) (fld b 16 8) i s).bind fun n s => .ok (acc ++ [n]) s) (.ok [] s)
      go.bind fun nodes s => .ok { argBytes, nodes } s

/-- TYPES of a version (R115): the ring types that accept every node's opcode. -/
def graphTypes (g : Graph) : Nat :=
  ((upTo 3).map fun t => if g.nodes.all fun n => opcodeOn n.opcode t then 2 ^ t else 0).sum

/-- PUBLISH starts: it needs a directory (R119). Its validation ends in PUBLISH_VALIDATED. -/
def publishDo (o : OpRef) (s : State) : State :=
  withPatch o 1 (fun e _ s =>
    if (s.ctx e.ctx).dir.isNone then endOp o stOpError grNoDir 0 s else s) s

/-- The retirement that a GRAPH_PATCH asks for: RETIRE_VA and the fence it signals. A fence that the
context does not own is not signalled. -/
def retireAsk (s : State) (ctx : Nat) (b : List Byte) : Nat × Option (Nat × Nat × Quad) :=
  let k := fld b 40 2
  let f := s.fence k
  let fence := if bit (fld b 42 1) 0 ∧ f.st ≠ .free ∧ f.owner = ctx then some (k, f.alloc, q64 (fld b 48 8)) else none
  (fld b 32 8, fence)

/-- The version that a PUBLISH or DELETE replaces is no longer current; it retires now or when its
last launch completes (R122). -/
def replaceVersion (ctx graph version root : Nat) (ask : Nat × Option (Nat × Nat × Quad)) (s : State) : State :=
  let mine := fun (v : GraphVersion) => decide (v.ctx = ctx) && decide (v.graph = graph) && decide (v.version = version)
  let s := if s.fe.versions.any mine then
      s.onFe fun f => { f with versions := mapIf mine (fun v => { v with current := false, retireVa := ask.1, fence := ask.2 }) f.versions }
    else
      let v : GraphVersion := { ctx, graph, version, root, pins := 0, launches := 0, current := false, retireVa := ask.1, fence := ask.2 }
      s.onFe fun f => { f with versions := f.versions ++ [v] }
  retireReady ctx s

/-- Writes a graph's directory entry, or its first bytes. -/
def writeDir (o : OpRef) (ctx va : Nat) (bs : List Byte) (ok : State → State) (s : State) : State :=
  match vaWrite noMaster ctx va bs s with
  | .ok _ s => ok s
  | .fault f s => let (d, s) := feFault f ctx s; endOp o stTransFault d 0 s
  | .severed s => endOp o stSevered 0 0 s
  | .wait s => s

/-- PUBLISH_VALIDATED: the new version passes and becomes current, or fails (R118, R119). -/
def publishedDo (o : OpRef) (io : HostIO) (s : State) : State :=
  let s := applyIO io s
  withPatch o 1 (fun e p s =>
    match (s.ctx e.ctx).dir with
    | none => endOp o stOpError grNoDir 0 s
    | some dir =>
      let va := dir + 32 * gpGraph p.body
      match readGraph e.ctx (gpVa p.body) s with
      | .bad s => endOp o stOpError grFormat 0 s
      | .fault d s => endOp o stTransFault d 0 s
      | .severed s => endOp o stSevered 0 0 s
      | .wait s => s
      | .ok g s => match grRead e.ctx va 32 s with
        | .ok b s =>
          let root := fld b 0 8
          let ver := fld b 8 8
          let new := natLe 8 (gpVa p.body) ++ natLe 8 (ver + 1) ++ natLe 1 (graphTypes g) ++ List.replicate 15 0
          let ask := retireAsk s e.ctx p.body
          writeDir o e.ctx va new (fun s =>
            let s := if root = 0 then s else replaceVersion e.ctx (gpGraph p.body) ver root ask s
            endOp o stOk 0 0 s) s
        | .bad s => s
        | .fault d s => endOp o stTransFault d 0 s
        | .severed s => endOp o stSevered 0 0 s
        | .wait s => s) s

/-- DELETE (R118, R119). DESIGN CHOICE (log 80): a VA that is not 0 gives GRAPH_FORMAT. -/
def deleteDo (o : OpRef) (io : HostIO) (s : State) : State :=
  let s := applyIO io s
  withPatch o 2 (fun e p s =>
    match (s.ctx e.ctx).dir with
    | none => endOp o stOpError grNoDir 0 s
    | some dir =>
      if gpVa p.body ≠ 0 then endOp o stOpError grFormat 0 s
      else
        let va := dir + 32 * gpGraph p.body
        match grRead e.ctx va 32 s with
        | .ok b s =>
          let root := fld b 0 8
          if root = 0 then endOp o stOpError grAbsent 0 s
          else
            let ask := retireAsk s e.ctx p.body
            writeDir o e.ctx va (natLe 8 0) (fun s =>
              endOp o stOk 0 0 (replaceVersion e.ctx (gpGraph p.body) (fld b 8 8) root ask s)) s
        | .bad s => s
        | .fault d s => endOp o stTransFault d 0 s
        | .severed s => endOp o stSevered 0 0 s
        | .wait s => s) s

/-- A launch pins a version (R120, R123). -/
def pinVersion (ctx graph version root : Nat) (s : State) : State :=
  let mine := fun (v : GraphVersion) => decide (v.ctx = ctx) && decide (v.graph = graph) && decide (v.version = version)
  if s.fe.versions.any mine then
    s.onFe fun f => { f with versions := mapIf mine (fun v => { v with pins := v.pins + 1, launches := v.launches + 1 }) f.versions }
  else
    let v : GraphVersion := { ctx, graph, version, root, pins := 1, launches := 1, current := true, retireVa := 0, fence := none }
    s.onFe fun f => { f with versions := f.versions ++ [v] }

/-- The argument block's copy; its fault is the entry's (R71, R120). -/
def readArgs (ctx argVa n : Nat) (s : State) : Got (List Byte) := if n = 0 then .ok [] s else grRead ctx argVa n s

/-- The nodes of an accepted launch, as ops. -/
def launchOps (g : Graph) : List Op := g.nodes.map fun n => mkOp n.opcode n.va n.len n.mask n.preds n.patches

/-- LAUNCH_ACCEPT (R120, R123): in one step the directory is read, the version pinned and the
arguments copied. DESIGN CHOICE (log 81): a version that no longer passes R118 when it is launched gives
GRAPH_INVALID. -/
def acceptDo (r seq : Nat) (io : HostIO) (s : State) : State :=
  let s := applyIO io s
  match s.entry? r seq with
  | none => s
  | some e0 =>
    if e0.phase ≠ .waiting ∨ entKind e0.raw ≠ 2 ∨ s.halted .fe ∨ !ctxRuns s e0.ctx then s
    else
      let e := recheckEntry s e0
      let s := s.onEntry r seq fun _ => e
      if e.phase ≠ .waiting ∨ !edgesSat e ∨ !ringTurn s e then s
      else
        let invalid := failEntry r seq stGraphInvalid 0xFFFF 0
        match (s.ctx e.ctx).dir with
        | none => invalid s
        | some dir =>
          let graph := entTarget e.raw
          match grRead e.ctx (dir + 32 * graph) 32 s with
          | .bad s => s
          | .wait s => s
          | .fault d s => failEntry r seq stCbFault 0xFFFF d s
          | .severed s => failEntry r seq stSevered 0xFFFF 0 s
          | .ok b s =>
            let root := fld b 0 8
            let ver := fld b 8 8
            if root = 0 then invalid s
            else match readGraph e.ctx root s with
              | .bad s => invalid s
              | .wait s => s
              | .fault d s => failEntry r seq stCbFault 0xFFFF d s
              | .severed s => failEntry r seq stSevered 0xFFFF 0 s
              | .ok g s =>
                if (g.argBytes = 0) ≠ (entArgVa e.raw = 0) then invalid s
                else if !bit (fld b 16 1) (s.ring r).type then failEntry r seq stBadOpcode 0xFFFF 0 s
                else
                  let held := s.fe.versions.any fun v => decide (v.ctx = e.ctx) && decide (v.graph = graph) && decide (v.version = ver)
                  if !held ∧ 4096 ≤ s.fe.versions.length then s
                  else match readArgs e.ctx (entArgVa e.raw) g.argBytes s with
                    | .bad s => s
                    | .wait s => s
                    | .fault d s => failEntry r seq stEdgeFault 0xFFFF d s
                    | .severed s => failEntry r seq stSevered 0xFFFF 0 s
                    | .ok args s =>
                      let l : Launch := { graph, version := ver, root, args }
                      (pinVersion e.ctx graph ver root s).onEntry r seq fun e =>
                        { e with phase := .running, ops := launchOps g, launch := some l }

/-- BIND_DIR (R115, R118). -/
def execGraphBindDir (o : OpRef) (s : State) : Out := .next (bindDirDo o s)

/-- PUBLISH (R118). -/
def execGraphPublish (o : OpRef) (s : State) : Out := .next (publishDo o s)

/-- PUBLISH_VALIDATED (R118, R122). -/
def execGraphPublishValidated (o : OpRef) (io : HostIO) (s : State) : Out := .next (publishedDo o io s)

/-- DELETE (R118, R122). -/
def execGraphDelete (o : OpRef) (io : HostIO) (s : State) : Out := .next (deleteDo o io s)

/-- LAUNCH_ACCEPT (R120). -/
def execLaunchAccept (e : EntryRef) (io : HostIO) (s : State) : Out := .next (acceptDo e.ring.val e.seq io s)

end Sys2Proof.Machine
end

