-- ==== Sys2Proof/Machine/Ends.lean ====
section
/-! DEFINITION. How the ops that write a report end: tensor ops (R186) and render passes (R283, R307). -/

namespace Sys2Proof.Machine

open Sys2Proof

/-- A write of the device on an op's way out: done or dropped with its fault noted; none while it must
wait (R447). -/
def Res.settled (r : Res Unit) (fault : Flt → State → State) : Option State := match r with
  | .ok _ s => some s
  | .fault f s => some (fault f s)
  | .severed s => some s
  | .wait _ => none

/-! ## Tensor ops -/

def State.run? (s : State) (o : OpRef) : Option TensorRun := s.tns.runs.find? fun r => r.op = o

def State.onRun (o : OpRef) (f : TensorRun → TensorRun) (s : State) : State :=
  s.onTns fun t => { t with runs := mapIf (fun r => r.op = o) f t.runs }

def dropRun (o : OpRef) (s : State) : State :=
  s.onTns fun t => { t with runs := t.runs.filter fun r => r.op ≠ o }

/-- The record's REPORT_VA by opcode. -/
def reportVa (opcode : Nat) (b : List Byte) : Nat :=
  if opcode = 0x30 then fld b 160 8 else if opcode = 0x32 then fld b 88 8 else fld b 104 8

/-- The 32-byte op report (R186). -/
def opReport (r : TensorRun) (status detail t : Nat) : List Byte :=
  natLe 8 r.tStart ++ natLe 8 t ++ natLe 4 r.written ++ natLe 1 r.flags ++ natLe 1 status ++ natLe 1 detail ++
  natLe 1 (Nat.min r.preempts 255) ++ natLe 4 (Nat.min r.issue 0xFFFFFFFF) ++ natLe 1 r.used.length ++ natLe 3 0

/-- A tensor op that is over writes its report, and then completes with the flags of its work; one that
teardown discarded writes none (R186). A report whose write faults is not written. -/
def closeRun (r : TensorRun) (s : State) : State :=
  match s.op? r.op with
  | none => dropRun r.op s
  | some (e, p) =>
    if p.phase ≠ .running then dropRun r.op s
    else match p.ending with
      | none => s
      | some x =>
        if !ctxRuns s e.ctx then discardOp r.op (dropRun r.op s)
        else
          let va := reportVa p.opcode p.body
          let done := if va = 0 then some s
            else (vaWrite x.master e.ctx va (opReport r x.status x.detail s.time) s).settled fun f s => masterFault f x.master e.ctx va .write e.ring e.seq s
          match done with
          | some s => endOp r.op x.status x.detail r.flags (dropRun r.op s)
          | none => s

/-- A tensor op is over (R186). -/
def endTensor (o : OpRef) (m status detail : Nat) (s : State) : State :=
  let s := opEnding o status detail m s
  match s.run? o with
  | some r => closeRun r s
  | none => s

/-! ## Render passes -/

def State.pass? (s : State) (o : OpRef) : Option PassRun := s.rnd.passes.find? fun p => p.op = o

def State.onPass (o : OpRef) (f : PassRun → PassRun) (s : State) : State :=
  s.onRnd fun x => { x with passes := mapIf (fun p => p.op = o) f x.passes }

def tilesOf (s : State) (o : OpRef) : List PassTile := s.rnd.tiles.filter fun t => t.op = o

/-- Virtual address of the pass's chunk pool (R266). -/
def pPool (d : List Byte) : Nat := fld d 8 8

/-- The pool is set back: its CONSUMER is START, and every chunk is free (R283). -/
def poolBack (p : PassRun) (s : State) : Option State :=
  (vaWrite noMaster p.ctx (pPool p.desc + 8) (natLe 8 p.start.toNat) s).settled fun f s => (feFault f p.ctx s).2

/-- The run of a pass is gone, with its tiles and groups. -/
def dropPass (o : OpRef) (s : State) : State :=
  (s.onRnd fun x => { x with passes := x.passes.filter (fun q => q.op ≠ o), tiles := x.tiles.filter fun t => t.op ≠ o }).onShd
    fun x => { x with groups := x.groups.filter fun g => g.op ≠ o }

/-- The pass report (R307). -/
def passReport (p : PassRun) (status detail t : Nat) : List Byte :=
  natLe 8 p.tStart ++ natLe 8 t ++ natLe 4 p.prims ++ natLe 4 p.shaded ++ natLe 2 (Nat.min p.grows 0xFFFF) ++
  natLe 1 (Nat.min p.partials 255) ++ natLe 1 (Nat.min p.preempts 255) ++ natLe 1 status ++ natLe 1 detail ++ natLe 2 0

/-- A pass that is over sets back its pool, writes its report, and completes with the flags of its sip ops;
one that teardown discarded sets back its pool alone (R154, R283, R307). -/
def closePass (p : PassRun) (s : State) : State :=
  let gone := fun (s : State) => match poolBack p s with
    | some s => shdSweep (dropPass p.op s)
    | none => s
  match s.op? p.op with
  | none => gone s
  | some (e, q) =>
    if q.phase ≠ .running then gone s
    else match q.ending with
      | none => s
      | some x =>
        if !ctxRuns s e.ctx then gone (discardOp p.op s)
        else
          let va := fld q.body 40 8
          match (poolBack p s).bind fun s => if va = 0 then some s
              else (vaWrite noMaster e.ctx va (passReport p x.status x.detail s.time) s).settled fun f s => (feFault f e.ctx s).2 with
          | some s => endOp p.op x.status x.detail p.flags (shdSweep (dropPass p.op s))
          | none => s

/-- A pass is over. -/
def endPass (o : OpRef) (status detail : Nat) (s : State) : State :=
  let s := opEnding o status detail noMaster s
  match s.pass? o with
  | some p => closePass p s
  | none => s

/-! ## Commits -/

/-- A commit that is over writes its report, and then completes; one that teardown discarded writes none (R325,
R342). A report whose write faults is not written: its fault is recorded, or pins the pipe (R46, R57). -/
def closeReport (r : DspReport) (s : State) : State :=
  let drop := fun (s : State) => s.onDsp fun d => { d with reports := d.reports.erase r }
  match s.op? r.op with
  | none => drop s
  | some (e, p) =>
    if p.phase ≠ .running then drop s
    else if !ctxRuns s e.ctx then discardOp r.op (drop s)
    else
      let m := 0x6C + r.pipe
      let done := if r.va = 0 then some s
        else (vaWrite m e.ctx r.va r.bytes s).settled fun f s => masterFault f m e.ctx r.va .write e.ring e.seq s
      match done with
      | some s => endOp r.op r.status r.detail 0 (drop s)
      | none => s

/-- A commit is over. -/
def endCommit (r : DspReport) (s : State) : State :=
  closeReport r ((opEnding r.op r.status r.detail (0x6C + r.pipe) s).onDsp fun d => { d with reports := d.reports ++ [r] })

/-- Ops that are over but for their report complete, and the runs of ops that no longer run are dropped. -/
def closeOps (s : State) : State :=
  let s := s.tns.runs.foldl (fun s r => closeRun r s) s
  let s := s.dsp.reports.foldl (fun s r => closeReport r s) s
  s.rnd.passes.foldl (fun s p => closePass p s) s

/-- A halted block goes on, or a link or a unit is back: what waited for it is done (R447, R456). -/
def goOn (s : State) : State :=
  let s := retryWaiting s
  closeOps ((s.fe.versions.map (·.ctx)).eraseDups.foldl (fun s n => retireReady n s) s)

end Sys2Proof.Machine
end

