-- ==== Sys2Proof/Machine/Flags.lean ====
section
/-! DEFINITION. Sticky flags of arithmetic (R153), and results that carry the flags they set. -/

namespace Sys2Proof.Machine

open Sys2Proof

def fInexact : Nat := 1
def fOvf : Nat := 2
def fUnf : Nat := 4
def fNan : Nat := 8
def fSat : Nat := 16

/-- A result with the flags that it set. -/
structure Fl (α : Type) where
  val : α
  fl  : Nat
  deriving DecidableEq, Repr

def Fl.pure {α : Type} (a : α) : Fl α := { val := a, fl := 0 }

def Fl.bind {α β : Type} (x : Fl α) (f : α → Fl β) : Fl β :=
  let y := f x.val
  { val := y.val, fl := x.fl ||| y.fl }

/-- Applies a flagged function to each element. -/
def flMap {α β : Type} (f : α → Fl β) (l : List α) : Fl (List β) :=
  { val := l.map fun a => (f a).val, fl := l.foldl (fun n a => n ||| (f a).fl) 0 }

end Sys2Proof.Machine
end

