-- ==== Sys2Proof/Machine/Float.lean ====
section
/-! DEFINITION. The number formats and arithmetic rules of R126 to R156: encodings, rounding,
overflow, NaN and zero rules, sticky flags, MX blocks, packing and the row generators. -/

namespace Sys2Proof.Machine

open Sys2Proof

/-! ## Exact values -/

/-- A number as the arithmetic sees it: NaN, an infinity, or (-1)^neg × m × 2^e. -/
inductive Val where
  | nan
  | inf (neg : Bool)
  | fin (neg : Bool) (m : Nat) (e : Int)
  deriving DecidableEq, Repr

def Val.zero : Val := .fin false 0 0

def Val.isZero : Val → Bool
  | .fin _ 0 _ => true
  | _ => false

def Val.isNan : Val → Bool
  | .nan => true
  | _ => false

def Val.neg : Val → Val
  | .nan => .nan
  | .inf n => .inf !n
  | .fin n m e => .fin (!n) m e

/-- The value scaled by 2^k. -/
def Val.scale (k : Int) : Val → Val
  | .fin n m e => .fin n m (e + k)
  | v => v

/-- An integer as a value. -/
def Val.ofInt (i : Int) : Val := .fin (decide (i < 0)) i.natAbs 0

/-- Magnitude at a common exponent not above the value's own. -/
def magAt (m : Nat) (e base : Int) : Nat := m * 2 ^ (e - base).toNat

/-- Signed magnitude at a common exponent. -/
def Val.intAt (base : Int) : Val → Int
  | .fin n m e => if n then -(magAt m e base : Int) else (magAt m e base : Int)
  | _ => 0

/-- a < b for numbers that are no NaN. -/
def Val.lt : Val → Val → Bool
  | .nan, _ => false
  | _, .nan => false
  | .inf true, .inf true => false
  | .inf true, _ => true
  | .inf false, _ => false
  | _, .inf n => !n
  | .fin n m e, .fin n' m' e' =>
    let b := min e e'
    decide (Val.intAt b (.fin n m e) < Val.intAt b (.fin n' m' e'))

/-! ## Formats (R126 to R131) -/

/-- What marks infinity and NaN in a format (R128). -/
inductive Special where
  | ieee | e4m3 | finite
  deriving DecidableEq, Repr

/-- Parameters of a floating-point format (R127). -/
structure FFmt where
  ebits   : Nat
  mbits   : Nat
  bias    : Nat
  special : Special
  deriving DecidableEq, Repr

def fmtFp32 : FFmt := { ebits := 8, mbits := 23, bias := 127, special := .ieee }
def fmtFp19 : FFmt := { ebits := 8, mbits := 10, bias := 127, special := .ieee }
def fmtBf16 : FFmt := { ebits := 8, mbits := 7, bias := 127, special := .ieee }
def fmtFp16 : FFmt := { ebits := 5, mbits := 10, bias := 15, special := .ieee }
def fmtE5m2 : FFmt := { ebits := 5, mbits := 2, bias := 15, special := .ieee }
def fmtE4m3 : FFmt := { ebits := 4, mbits := 3, bias := 7, special := .e4m3 }
def fmtE3m2 : FFmt := { ebits := 3, mbits := 2, bias := 3, special := .finite }
def fmtE2m3 : FFmt := { ebits := 2, mbits := 3, bias := 1, special := .finite }
def fmtE2m1 : FFmt := { ebits := 2, mbits := 1, bias := 1, special := .finite }

/-- The floating-point format of a code (R126). -/
def floatFmt : Nat → Option FFmt
  | 0x1 => some fmtFp32 | 0x2 => some fmtFp16 | 0x3 => some fmtBf16 | 0x4 => some fmtE4m3
  | 0x5 => some fmtE5m2 | 0x6 => some fmtE3m2 | 0x7 => some fmtE2m3 | 0x8 => some fmtE2m1
  | 0xF => some fmtFp19 | _ => none

/-- Range of an integer format (R130). -/
def intFmt : Nat → Option (Int × Int)
  | 0xA => some (-128, 127) | 0xB => some (0, 255) | 0xC => some (-8, 7)
  | 0xD => some (-32768, 32767) | 0xE => some (-2147483648, 2147483647) | _ => none

/-- Stored width of an element in bits (R126, R129). -/
def fmtWidth : Nat → Nat
  | 0x1 | 0xE | 0xF => 32 | 0x2 | 0x3 | 0xD => 16 | 0x6 | 0x7 => 6 | 0x8 | 0xC => 4 | _ => 8

/-- Formats on which FTZ acts (R142). -/
def ftzFmt (code : Nat) : Bool := decide (code = 1) || decide (code = 2) || decide (code = 3) || decide (code = 0xF)

/-- Destinations that may round stochastically (R134). -/
def srFmt (code : Nat) : Bool := decide (4 ≤ code) && decide (code ≤ 8)

/-- A format byte as code and MX; none: BAD_RECORD (R126). -/
def fmtByte (b : Nat) : Option (Nat × Bool) :=
  let code := b % 16
  let mx := bit b 4
  if 32 ≤ b ∨ code = 0 ∨ (mx ∧ !(srFmt code || decide (code = 0xA))) then none else some (code, mx)

/-- Value of an E8M0 code (R131). -/
def e8m0Val (c : Nat) : Val := if c = 0xFF then .nan else .fin false 1 ((c : Int) - 127)

/-- Value of a code of a floating-point format (R127, R128). -/
def decodeFloat (f : FFmt) (c : Nat) : Val :=
  let m := c % 2 ^ f.mbits
  let e := c / 2 ^ f.mbits % 2 ^ f.ebits
  let n := decide (c / 2 ^ (f.mbits + f.ebits) % 2 = 1)
  let top := 2 ^ f.ebits - 1
  if f.special = .ieee ∧ e = top then (if m = 0 then .inf n else .nan)
  else if f.special = .e4m3 ∧ e = top ∧ m = 2 ^ f.mbits - 1 then .nan
  else if e = 0 then .fin n m (1 - (f.bias : Int) - f.mbits)
  else .fin n (2 ^ f.mbits + m) ((e : Int) - f.bias - f.mbits)

/-- A subnormal code of a format. -/
def subnormal (f : FFmt) (c : Nat) : Bool :=
  decide (c / 2 ^ f.mbits % 2 ^ f.ebits = 0) && decide (c % 2 ^ f.mbits ≠ 0)

/-- Value of a stored element (R126 to R131); under FTZ a subnormal input reads as zero (R142). -/
def decodeElem (code : Nat) (ftz : Bool) (c : Nat) : Val :=
  match floatFmt code with
  | some f =>
    let c := if code = 0xF then c / 2 ^ 13 else c
    let v := decodeFloat f c
    if ftz && ftzFmt code && subnormal f c then (match v with
      | .fin n _ _ => .fin n 0 0
      | v => v) else v
  | none => match intFmt code with
    | some (lo, _) =>
      let w := fmtWidth code
      let c := c % 2 ^ w
      if lo < 0 ∧ 2 ^ (w - 1) ≤ c then Val.ofInt ((c : Int) - 2 ^ w) else Val.ofInt c
    | none => e8m0Val (c % 256)

/-! ## Rounding (R133, R134, R137) -/

/-- Rounds m × 2^(-k), k > 0, to an integer: to nearest even, or with a 16-bit draw (R134). -/
def roundShift (m k : Nat) (draw : Option Nat) : Nat × Bool :=
  let lo := m / 2 ^ k
  let rem := m % 2 ^ k
  if rem = 0 then (lo, false)
  else match draw with
    | some r => (if 2 ^ 16 ≤ rem * 2 ^ 16 / 2 ^ k + r then lo + 1 else lo, true)
    | none =>
      let up := decide (2 ^ k < 2 * rem) || (decide (2 ^ k = 2 * rem) && decide (lo % 2 = 1))
      (if up then lo + 1 else lo, true)

/-- Code of the largest finite magnitude. -/
def maxCode (f : FFmt) : Nat := match f.special with
  | .ieee => (2 ^ f.ebits - 1) * 2 ^ f.mbits - 1
  | .e4m3 => 2 ^ (f.ebits + f.mbits) - 2
  | .finite => 2 ^ (f.ebits + f.mbits) - 1

def infCode (f : FFmt) : Nat := (2 ^ f.ebits - 1) * 2 ^ f.mbits

/-- The canonical NaN, or 0 in a format without one (R128, R139). -/
def nanCode (f : FFmt) : Nat := match f.special with
  | .ieee => infCode f + 2 ^ (f.mbits - 1)
  | .e4m3 => 2 ^ (f.ebits + f.mbits) - 1
  | .finite => 0

def signCode (f : FFmt) (n : Bool) : Nat := if n then 2 ^ (f.ebits + f.mbits) else 0

/-- Exponent of the smallest normal. -/
def eMin (f : FFmt) : Int := 1 - (f.bias : Int)

/-- floor(log2) of a nonzero magnitude m × 2^e. -/
def log2Of (m : Nat) (e : Int) : Int := (Nat.log2 m : Int) + e

/-- The magnitude code of a nonzero finite value, as if the exponent range had no top, and whether
it was rounded (R133). -/
def magCode (f : FFmt) (draw : Option Nat) (m : Nat) (e : Int) : Nat × Bool :=
  let q := max (log2Of m e) (eMin f) - f.mbits
  let base := (q - (eMin f - f.mbits)).toNat * 2 ^ f.mbits
  if q ≤ e then (base + m * 2 ^ (e - q).toNat, false)
  else
    let (n, x) := roundShift m (q - e).toNat draw
    (base + n, x)

/-- What an overflow of sign n writes (R138), with its clamp flag. -/
def overflowCode (f : FFmt) (sat n : Bool) : Nat × Nat :=
  match f.special, sat with
  | .ieee, false => (signCode f n + infCode f, 0)
  | .e4m3, false => (signCode f n + nanCode f, 0)
  | _, _ => (signCode f n + maxCode f, fSat)

/-- Encodes a value in a floating-point format (R133 to R143). -/
def encodeFloat (f : FFmt) (draw : Option Nat) (sat flush : Bool) : Val → Fl Nat
  | .nan => { val := nanCode f, fl := fNan }
  | .inf n =>
    let (c, x) := overflowCode f sat n
    { val := c, fl := if f.special = .e4m3 ∧ !sat then fNan else x }
  | .fin n 0 _ => { val := signCode f n, fl := 0 }
  | .fin n m e =>
    let tiny := decide (log2Of m e < eMin f)
    if tiny && flush then { val := signCode f n, fl := fUnf ||| fInexact }
    else
      let (c, inexact) := magCode f draw m e
      if maxCode f < c then
        let (c', x) := overflowCode f sat n
        { val := c', fl := fOvf ||| fInexact ||| x }
      else { val := signCode f n + c, fl := (if inexact then fInexact else 0) ||| (if tiny && inexact then fUnf else 0) }

/-- A value rounded to an integer by RNE. -/
def roundInt (m : Nat) (e : Int) : Nat × Bool :=
  if 0 ≤ e then (m * 2 ^ e.toNat, false) else roundShift m (-e).toNat none

/-- Encodes a value in an integer format (R137 to R139). -/
def encodeInt (lo hi : Int) (w : Nat) : Val → Fl Nat
  | .nan => { val := 0, fl := fNan }
  | .inf n => { val := ((if n then lo else hi) % 2 ^ w).toNat, fl := fSat }
  | .fin n m e =>
    let (r, inexact) := roundInt m e
    let v : Int := if n then -(r : Int) else r
    if v < lo then { val := (lo % 2 ^ w).toNat, fl := fOvf ||| fSat ||| fInexact }
    else if hi < v then { val := (hi % 2 ^ w).toNat, fl := fOvf ||| fSat ||| fInexact }
    else { val := (v % 2 ^ w).toNat, fl := if inexact then fInexact else 0 }

/-- Encodes a value as E8M0: a power of two in range and NaN have codes; the spec rounds no other
value to this format (R131). -/
def encodeE8m0 : Val → Nat
  | .nan => 0xFF
  | .inf n => (Config.e8m0Code n 0 0).toNat
  | .fin n m e =>
    let l := log2Of m e
    if !n ∧ m ≠ 0 ∧ m = 2 ^ Nat.log2 m ∧ -127 ≤ l ∧ l ≤ 127 then (l + 127).toNat
    else (Config.e8m0Code n m e).toNat

/-- Encodes a value in the format of a code, as it is stored (R129, R133 to R143). DESIGN CHOICE (log 83): a
conversion to E8M0 of a value that E8M0 does not hold, whose code is open (log 25), sets no sticky flag, and
NAN_IN for a NaN alone; R131 and R155 name none. -/
def encodeElem (code : Nat) (draw : Option Nat) (sat ftz : Bool) (v : Val) : Fl Nat :=
  match floatFmt code with
  | some f =>
    let r := encodeFloat f (if srFmt code then draw else none) sat (ftz && ftzFmt code) v
    if code = 0xF then { r with val := r.val * 2 ^ 13 } else r
  | none => match intFmt code with
    | some (lo, hi) => encodeInt lo hi (fmtWidth code) v
    | none => { val := encodeE8m0 v, fl := if v.isNan then fNan else 0 }

/-- Rounds a value to FP32 (R133, R137, R142). -/
def roundFp32 (sat ftz : Bool) (v : Val) : Fl Val :=
  let r := encodeFloat fmtFp32 none sat ftz v
  { val := decodeFloat fmtFp32 r.val, fl := r.fl }

/-! ## Sums and products (R143, R144, R146) -/

/-- The exact sum of terms (R143, R146). -/
def exactSum (l : List Val) : Fl Val :=
  if l.any Val.isNan ∨ (l.contains (.inf true) ∧ l.contains (.inf false)) then { val := .nan, fl := fNan }
  else if l.contains (.inf false) then .pure (.inf false)
  else if l.contains (.inf true) then .pure (.inf true)
  else
    let base := l.foldl (fun b v => match v with
      | .fin _ (_ + 1) e => min b e
      | _ => b) 0
    let sum := (l.map fun v => if v.isZero then 0 else Val.intAt base v).sum
    let allNeg := decide (l ≠ []) && l.all fun v => match v with
      | .fin n m _ => n && decide (m = 0)
      | _ => false
    if sum = 0 then .pure (.fin allNeg 0 0) else .pure (.fin (decide (sum < 0)) sum.natAbs base)

/-- The exact product (R143). -/
def exactMul : Val → Val → Fl Val
  | .nan, _ => { val := .nan, fl := fNan }
  | _, .nan => { val := .nan, fl := fNan }
  | .inf n, .inf n' => .pure (.inf (n != n'))
  | .inf n, .fin n' m _ => if m = 0 then { val := .nan, fl := fNan } else .pure (.inf (n != n'))
  | .fin n m _, .inf n' => if m = 0 then { val := .nan, fl := fNan } else .pure (.inf (n != n'))
  | .fin n m e, .fin n' m' e' => .pure (.fin (n != n') (m * m') (e + e'))

/-- Rounds the result of an arithmetic operation: an infinity or NaN stays (R143), and a finite value
overflows under R138. -/
def roundOp (sat ftz : Bool) : Val → Fl Val
  | .fin n m e => roundFp32 sat ftz (.fin n m e)
  | v => .pure v

def fpAdd (sat ftz : Bool) (a b : Val) : Fl Val := (exactSum [a, b]).bind (roundOp sat ftz)
def fpMul (sat ftz : Bool) (a b : Val) : Fl Val := (exactMul a b).bind (roundOp sat ftz)
def fpFma (sat ftz : Bool) (a b c : Val) : Fl Val :=
  ((exactMul a b).bind fun p => exactSum [p, c]).bind (roundOp sat ftz)

/-- Division rounded to FP32: the quotient to 64 further bits and a sticky one. -/
def fpDiv (sat ftz : Bool) (a b : Val) : Fl Val :=
  match a, b with
  | .nan, _ => { val := .nan, fl := fNan }
  | _, .nan => { val := .nan, fl := fNan }
  | .inf _, .inf _ => { val := .nan, fl := fNan }
  | .inf n, .fin n' _ _ => .pure (.inf (n != n'))
  | .fin n _ _, .inf n' => .pure (.fin (n != n') 0 0)
  | .fin n m e, .fin n' m' e' =>
    if m' = 0 then (if m = 0 then { val := .nan, fl := fNan } else .pure (.inf (n != n')))
    else
      let k := 128 + Nat.log2 m' + 1
      let q := m * 2 ^ k / m'
      let sticky := if m * 2 ^ k % m' = 0 then 0 else 1
      roundFp32 sat ftz (.fin (n != n') (2 * q + sticky) (e - e' - k - 1))

/-- Integer square root, by bisection on bits. Fuel: bits. -/
def isqrtAux : Nat → Nat → Nat → Nat
  | 0, _, r => r
  | b + 1, n, r => let c := r + 2 ^ b; if c * c ≤ n then isqrtAux b n c else isqrtAux b n r

def isqrt (n : Nat) : Nat := isqrtAux (Nat.log2 n / 2 + 1) n 0

/-- Square root rounded to FP32. -/
def fpSqrt (ftz : Bool) (a : Val) : Fl Val :=
  match a with
  | .nan => { val := .nan, fl := fNan }
  | .inf n => if n then { val := .nan, fl := fNan } else .pure (.inf false)
  | .fin n m e =>
    if m = 0 then .pure (.fin n 0 0)
    else if n then { val := .nan, fl := fNan }
    else
      let odd := e % 2 ≠ 0
      let m1 := (if odd then 2 * m else m) * 4 ^ 64
      let e1 := (if odd then e - 1 else e) / 2 - 64
      let r := isqrt m1
      roundFp32 false ftz (.fin false (2 * r + (if r * r = m1 then 0 else 1)) (e1 - 1))

/-- Maximum of two values (R144). -/
def fpMax (a b : Val) : Fl Val :=
  match a, b with
  | .nan, .nan => { val := .nan, fl := fNan }
  | .nan, b => { val := b, fl := fNan }
  | a, .nan => { val := a, fl := fNan }
  | a, b =>
    if a.isZero ∧ b.isZero then .pure (if (match a with
      | .fin n _ _ => n
      | _ => false) then b else a)
    else .pure (if a.lt b then b else a)

/-- Minimum of two values (R144). -/
def fpMin (a b : Val) : Fl Val :=
  match a, b with
  | .nan, .nan => { val := .nan, fl := fNan }
  | .nan, b => { val := b, fl := fNan }
  | a, .nan => { val := a, fl := fNan }
  | a, b =>
    if a.isZero ∧ b.isZero then .pure (if (match a with
      | .fin n _ _ => n
      | _ => false) then a else b)
    else .pure (if b.lt a then b else a)

/-! ## Element functions (R169) -/

/-- Functions with a stated accuracy: 1 GELU, 2 SILU, 3 EXP, 4 RECIP, 5 RSQRT; the shader's are at
16 and above (R242). -/
def fnGelu : Nat := 1
def fnSilu : Nat := 2
def fnExp : Nat := 3
def fnRecip : Nat := 4
def fnRsqrt : Nat := 5
def fnExp2 : Nat := 16
def fnLog2 : Nat := 17
def fnSin : Nat := 18
def fnCos : Nat := 19

/-- FP32 code of a value that FP32 holds. -/
def fp32Code (v : Val) : Nat := (encodeFloat fmtFp32 none false false v).val

def fp32Val (ftz : Bool) (c : Nat) : Val := decodeElem 1 ftz c

/-- Exponent of the unit in the last place of an FP32 value. -/
def ulpExp : Val → Int
  | .fin _ m e => if m = 0 then -149 else max (log2Of m e) (-126) - 23
  | _ => 104

/-! ### Reference values (R169, R242)

The functions without an exact rational form are computed here in fixed point with 512 fraction bits, by
series that have converged far below the accuracies that the spec states, so that a free result can be
held against its bound. -/

/-- Fraction bits of a fixed-point number. -/
def fixBits : Nat := 512

def fixOne : Int := 2 ^ fixBits
def fixMul (a b : Int) : Int := a * b / fixOne
def fixDiv (a b : Int) : Int := a * fixOne / b

/-- A value of moderate size in fixed point. -/
def fixOf : Val → Int
  | .fin n m e =>
    let k := e + fixBits
    let a : Nat := if 0 ≤ k then m * 2 ^ k.toNat else m / 2 ^ (-k).toNat
    if n then -(a : Int) else a
  | _ => 0

def ofFix (x : Int) : Val := .fin (decide (x < 0)) x.natAbs (-(fixBits : Int))

/-- A series whose terms are each the one before times x, over a number that the index gives. Fuel: terms. -/
def fixSeries (x : Int) (den : Nat → Nat) : Nat → Nat → Int → Int → Int
  | 0, _, _, acc => acc
  | n + 1, i, t, acc =>
    let t := fixMul t x / den i
    fixSeries x den n (i + 1) t (acc + t)

/-- e^x for a magnitude of at most 256: the series at x / 2^10, squared ten times. -/
def fixExp (x : Int) : Int :=
  (upTo 10).foldl (fun y _ => fixMul y y) (fixSeries (x / 2 ^ 10) (fun i => i + 1) 60 0 fixOne fixOne)

/-- z + z2 z / 3 + z2² z / 5 and so on, from exponent k. Fuel: terms. -/
def fixOdd (z2 : Int) : Nat → Nat → Int → Int → Int
  | 0, _, _, acc => acc
  | n + 1, k, t, acc => fixOdd z2 n (k + 2) (fixMul t z2) (acc + t / k)

/-- Natural logarithm of f in [1, 2], as twice the area tangent of (f - 1) / (f + 1). -/
def fixLn (f : Int) : Int :=
  let z := fixDiv (f - fixOne) (f + fixOne)
  2 * fixOdd (fixMul z z) 180 1 z 0

def fixLn2 : Int := fixLn (2 * fixOne)

/-- Arc tangent of 1 / n. -/
def fixAtanInv (n : Nat) : Int :=
  let z := fixOne / n
  fixOdd (-(fixMul z z)) 130 1 z 0

/-- π, by Machin's formula. -/
def fixPi : Int := 16 * fixAtanInv 5 - 4 * fixAtanInv 239

/-- Sine and cosine of an argument in [0, 2π). -/
def fixSin (x : Int) : Int := fixSeries (-(fixMul x x)) (fun i => (2 * i + 2) * (2 * i + 3)) 90 0 x x
def fixCos (x : Int) : Int := fixSeries (-(fixMul x x)) (fun i => (2 * i + 1) * (2 * i + 2)) 90 0 fixOne fixOne

/-- e^x as a value; beyond a magnitude of 200, far outside FP32, a value as far outside stands for it. -/
def expVal (x : Int) : Val :=
  if 200 * fixOne < x then .fin false 1 280
  else if x < -(200 * fixOne) then .fin false 1 (-280)
  else ofFix (fixExp x)

/-- x / (1 + e^(-u)) for x and u of one sign, with the same stand-ins. -/
def logisticVal (x : Val) (u : Int) : Val :=
  if 200 * fixOne < u then x
  else if u < -(200 * fixOne) then .fin true 1 (-280)
  else ofFix (fixDiv (fixOf x) (fixOne + fixExp (-u)))

/-- A value in fixed point, one of at least 2^b replaced by ±2^b: what lies beyond makes no difference. -/
def fixCut (b : Nat) : Val → Int
  | .fin n m e =>
    if m ≠ 0 ∧ (b : Int) ≤ log2Of m e then (if n then -(2 ^ b * fixOne) else 2 ^ b * fixOne) else fixOf (.fin n m e)
  | _ => 0

/-- 2 √(2/π) (x + 0.044715 x³): GELU is x / (1 + e^(-u)) for this u. -/
def geluArg (x : Val) : Int :=
  let y := fixCut 6 x
  let root : Int := isqrt (2 * fixOne * fixOne * fixOne / fixPi).toNat
  2 * fixMul root (y + fixMul (fixMul y y) y * 44715 / 1000000)

/-- log2 of a positive value. -/
def log2Val : Val → Val
  | .fin _ m e =>
    let k := Nat.log2 m
    ofFix (((k : Int) + e) * fixOne + fixDiv (fixLn ((m : Int) * fixOne / 2 ^ k)) fixLn2)
  | v => v

/-- 1 / x, to far beyond FP32, with a sticky bit. -/
def recipVal : Val → Val
  | .fin n m e =>
    let k := 128 + Nat.log2 m + 1
    .fin n (2 * (2 ^ k / m) + (if 2 ^ k % m = 0 then 0 else 1)) (-e - k - 1)
  | v => v

/-- 1 / √x of a positive value. -/
def rsqrtVal : Val → Val
  | .fin _ m e =>
    let odd := decide (e % 2 ≠ 0)
    let m1 := if odd then 2 * m else m
    let e1 := if odd then e - 1 else e
    .fin false (isqrt (2 ^ (2 * fixBits) / m1)) (-(e1 / 2) - fixBits)
  | v => v

/-- The magnitude is beyond 2^15, where SIN and COS first reduce their argument (R242). -/
def bigArg : Val → Bool
  | .fin _ m e => (Val.fin false 1 15).lt (.fin false m e)
  | _ => false

/-- The argument of SIN and COS: one beyond 2^15 is reduced modulo 2π, and the remainder rounded to FP32 by
RNE. DESIGN CHOICE (log 91): the remainder is the one in [0, 2π). -/
def trigArg (x : Val) : Int :=
  let r := fixOf x % (2 * fixPi)
  if bigArg x then fixOf (roundFp32 false false (ofFix r)).val else r

/-- The value of a function at a finite argument without a special value. -/
def refVal (fn : Nat) (x : Val) : Val :=
  if fn = fnRecip then recipVal x
  else if fn = fnRsqrt then rsqrtVal x
  else if fn = fnExp then expVal (fixCut 9 x)
  else if fn = fnExp2 then expVal (fixMul (fixCut 9 x) fixLn2)
  else if fn = fnSilu then logisticVal x (fixCut 9 x)
  else if fn = fnGelu then logisticVal x (geluArg x)
  else if fn = fnLog2 then log2Val x
  else if fn = fnSin then ofFix (fixSin (trigArg x))
  else ofFix (fixCos (trigArg x))

/-- Is v within a number of its ulps of a, or within a quarter count of 2^k (R169: ulps are those of the
FP32 result). -/
def within (ulps : Nat) (quarters : Nat) (k : Int) (a v : Val) : Bool :=
  match a, v with
  | .fin _ _ ea, .fin _ _ ev =>
    let u := ulpExp v
    let b := min (min ea ev) (min u (k - 2))
    let d := (Val.intAt b a - Val.intAt b v).natAbs
    decide (d ≤ magAt ulps u b) || decide (d ≤ magAt quarters (k - 2) b)
  | _, _ => false

/-- The nonzero magnitude of a value lies below FP32's normal range. -/
def tinyVal : Val → Bool
  | .fin _ m e => decide (m ≠ 0) && decide (log2Of m e < -126)
  | _ => false

/-- The stated accuracy of a function's result at an argument (R169, R242). -/
def accurate (fn : Nat) (x a v : Val) : Bool :=
  if fn = fnRecip then within 1 0 0 a v
  else if fn = fnRsqrt ∨ fn = fnExp2 then within 2 0 0 a v
  else if fn = fnExp then (if tinyVal a then within 0 4 (-149) a v else within 2 0 0 a v)
  else if fn = fnSilu ∨ fn = fnGelu then within 4 4 (-24) a v
  else if fn = fnLog2 then
    within 2 (if x.lt (.fin false 1 (-1)) ∨ (Val.fin false 2 0).lt x then 0 else 4) (-22) a v
  else within 0 4 (-21) a v

/-- A result of stated accuracy: the free value where it lies within the bound, and the correctly rounded
one elsewhere; overflow and flushing follow the rounded one. INEXACT is set (R169). -/
def freeResult (fn : Nat) (sat ftz : Bool) (x : Val) : Fl Val :=
  let a := refVal fn x
  let r := roundFp32 sat ftz a
  let v := fp32Val false (Config.elementFn fn ftz (w32 (fp32Code x))).toNat
  let free := decide (r.fl &&& fOvf = 0) && !(tinyVal a && ftz) && accurate fn x a v
  { val := if free then v else r.val, fl := r.fl ||| fInexact }

/-- RECIP of a zero (R169): an infinity with OVF, or the largest finite value with OVF and SAT. -/
def recipZero (sat n : Bool) : Fl Val :=
  if sat then { val := decodeFloat fmtFp32 (signCode fmtFp32 n + maxCode fmtFp32), fl := fOvf ||| fSat }
  else { val := .inf n, fl := fOvf }

/-- An element function of the epilogue, of TENSOR_VEC (R169) or of a shader (R242). -/
def elementFn (fn : Nat) (sat ftz : Bool) (x : Val) : Fl Val :=
  let free := freeResult fn sat ftz x
  match x with
  | .nan => { val := .nan, fl := fNan }
  | .inf n =>
    if fn = fnRecip then .pure (.fin n 0 0)
    else if fn = fnRsqrt then (if n then { val := .nan, fl := fNan } else .pure (.fin false 0 0))
    else if fn = fnExp ∨ fn = fnExp2 then .pure (if n then .fin false 0 0 else .inf false)
    else if fn = fnLog2 then (if n then { val := .nan, fl := fNan } else .pure (.inf false))
    else if fn = fnSin ∨ fn = fnCos then { val := .nan, fl := fNan }
    else .pure (if n then .fin true 0 0 else .inf false)
  | .fin n m _ =>
    if m = 0 ∧ (fn = fnExp ∨ fn = fnExp2) then .pure (.fin false 1 0)
    else if fn = fnLog2 ∧ m = 0 then .pure (.inf true)
    else if fn = fnLog2 ∧ n then { val := .nan, fl := fNan }
    else if m = 0 ∧ (fn = fnRecip ∨ fn = fnRsqrt) then recipZero sat n
    else if fn = fnRsqrt ∧ n then { val := .nan, fl := fNan }
    else free

/-- RELU (R169). -/
def relu (x : Val) : Fl Val :=
  match x with
  | .nan => { val := .nan, fl := fNan }
  | .inf n => .pure (if n then Val.zero else x)
  | .fin n m _ => .pure (if n ∨ m = 0 then Val.zero else x)

/-! ## Stochastic rounding (R135) -/

/-- One step of the Galois register. -/
def lfsrStep (s : BitVec 32) : BitVec 32 :=
  (s >>> 1) ^^^ (if s.getLsbD 0 then 0x80200003 else 0)

def step16 (s : BitVec 32) : BitVec 32 := (upTo 16).foldl (fun s _ => lfsrStep s) s

/-- Seed of a tile row. -/
def rowSeed (seed tm tn i : Nat) : BitVec 32 :=
  let s := BitVec.ofNat 32 seed ^^^ (BitVec.ofNat 32 (0x85EBCA6B * tm)) ^^^
    (BitVec.ofNat 32 (0xC2B2AE35 * tn)) ^^^ (BitVec.ofNat 32 (0x27D4EB2F * (i + 1)))
  if s = 0 then 1 else s

/-- The 32 draws of a tile row, in column order. -/
def rowDraws (seed tm tn i : Nat) : List Nat :=
  ((upTo 32).foldl (fun (acc : List Nat × BitVec 32) _ =>
    let s := step16 acc.2
    (acc.1 ++ [s.toNat % 65536], s)) ([], rowSeed seed tm tn i)).1

/-! ## MX blocks (R132, R141) -/

/-- emax of an element format (R141). -/
def mxEmax : Nat → Int
  | 0x4 => 8 | 0x5 => 15 | 0x6 => 4 | 0x7 => 2 | 0x8 => 2 | _ => 0

/-- floor(log2) of the largest magnitude of a block; none: every element is zero. -/
def blockLog (xs : List Val) : Option Int :=
  xs.foldl (fun b v => match v with
    | .fin _ (k + 1) e => some (max (b.getD (log2Of (k + 1) e)) (log2Of (k + 1) e))
    | _ => b) none

/-- Encodes a block of 32 values: scale and element codes (R141). -/
def mxEncode (code : Nat) (draws : List (Option Nat)) (xs : List Val) : Fl (Nat × List Nat) :=
  if xs.any Val.isNan then { val := (0xFF, xs.map fun _ => 0), fl := fNan }
  else
    let e : Int := if xs.any (fun v => decide (v = .inf true) || decide (v = .inf false)) then 127
      else match blockLog xs with
        | none => 0
        | some l => max (-127) (min 127 (l - mxEmax code))
    let k : Int := if code = 0xA then 6 - e else -e
    (flMap (fun (x : Val × Option Nat) => encodeElem code x.2 true false (x.1.scale k)) (xs.zip draws)).bind
      fun cs => .pure ((e + 127).toNat, cs)

/-- Value of an MX element under its scale (R132). -/
def mxVal (code scale c : Nat) : Val :=
  if scale = 0xFF then .nan
  else (decodeElem code false c).scale ((scale : Int) - 127 - (if code = 0xA then 6 else 0))

/-! ## Packing (R129) -/

/-- Bytes that n elements take. -/
def rowBytes (code n : Nat) : Nat := (n * fmtWidth code + 7) / 8

/-- Elements first to first + n - 1 of packed bytes. -/
def unpackElems (code first n : Nat) (bs : List Byte) : List Nat :=
  let w := fmtWidth code
  (upTo n).map fun i =>
    let b := (first + i) * w
    fld bs (b / 8) ((w + 7) / 8 + 1) / 2 ^ (b % 8) % 2 ^ w

/-- Packs elements into bytes from bit 0. -/
def packElems (code : Nat) (cs : List Nat) : List Byte :=
  let w := fmtWidth code
  natLe (rowBytes code cs.length) (packBits (cs.map fun c => (c, w)))

/-- The innermost element count that a sub-byte format needs (R129). -/
def packOk (code n : Nat) : Bool :=
  if fmtWidth code = 6 then decide (n % 4 = 0) else if fmtWidth code = 4 then decide (n % 2 = 0) else true

/-- ROUND, SAT of a rounding byte for a destination; none: BAD_RECORD (R136). -/
def roundByte (b : Nat) (dst : Nat) : Option (Bool × Bool) :=
  if 8 ≤ b ∨ 2 ≤ b % 4 ∨ (b % 4 = 1 ∧ !srFmt dst) then none else some (decide (b % 4 = 1), bit b 2)

end Sys2Proof.Machine
end

