-- ==== Sys2Proof/Machine/Tensor.lean ====
section
/-! DEFINITION. The tensor arrays: records, dispatch checks, tiles and their arithmetic, TENSOR_VEC,
TENSOR_MOVE, pre-emption boundaries, reports and narrow mode (R145 to R191). -/

namespace Sys2Proof.Machine

open Sys2Proof

/-! ## Access -/

def Res.bind {α β : Type} (r : Res α) (f : α → State → Res β) : Res β :=
  match r with
  | .ok a s => f a s
  | .fault x s => .fault x s
  | .severed s => .severed s
  | .wait s => .wait s

/-- An access with what a fault record needs: the address and the kind of the access that failed. -/
inductive Tr (α : Type) where
  | ok (a : α) (s : State)
  | fault (f : Flt) (va : Nat) (acc : Access) (s : State)
  | bad (detail : Nat) (s : State)      -- META_BAD or INDEX_RANGE
  | severed (s : State)
  | wait (s : State)

def Tr.bind {α β : Type} (r : Tr α) (f : α → State → Tr β) : Tr β :=
  match r with
  | .ok a s => f a s
  | .fault x va acc s => .fault x va acc s
  | .bad d s => .bad d s
  | .severed s => .severed s
  | .wait s => .wait s

/-- Runs a step for each element of a list and gathers the results. -/
def trMap {α β : Type} (l : List α) (f : α → State → Tr β) (s : State) : Tr (List β) :=
  l.foldl (fun r a => r.bind fun acc s => (f a s).bind fun b s => .ok (acc ++ [b]) s) (.ok [] s)

/-- Where an address of a tensor op leads: through translation, or into the tile's scratch while a
sip pass runs; none: a form that is not valid (R293). -/
def sipAddr (s : State) (va n : Nat) : Option (Nat ⊕ Nat) :=
  match s.tns.sip with
  | none => some (.inl va)
  | some w =>
    if bit va 63 then
      (if bits va 62 18 = 0 ∧ va % 2 ^ 18 + n ≤ w.size then some (.inr (w.base + va % 2 ^ 18)) else none)
    else if bit va 62 then
      (if bits va 61 24 = 0 then some (.inl (w.spm + w.cluster * 0x1000000 + va % 2 ^ 24)) else none)
    else some (.inl va)

def Res.tr {α : Type} (va : Nat) (acc : Access) : Res α → Tr α
  | .ok b s => .ok b s
  | .fault f s => .fault f va acc s
  | .severed s => .severed s
  | .wait s => .wait s

/-- A physical access of a sip op to its tile's memory (R293). -/
def Acc.tr {α : Type} (va pa : Nat) (acc : Access) (s : State) : Acc α → Tr α
  | .ok b s => .ok b s
  | .fault c s => .fault (accFault s c pa) va acc s
  | .severed => .severed s
  | .wait => .wait s

/-- A read of a tensor op through its context for a master. -/
def tRead (m ctx va n : Nat) (s : State) : Tr (List Byte) :=
  if n = 0 then .ok [] s
  else match sipAddr s va n with
    | some (.inl va) => (vaRead m ctx va n .read s).tr va .read
    | some (.inr pa) => (paRead ctx { key := ctx, cache := 3, fbc := false, die := masterDie m } pa n s).tr va pa .read s
    | none => .fault (.mk' .vaRange 0xFF 0) va .read s

/-- A write of a tensor op. -/
def tWrite (m ctx va : Nat) (bs : List Byte) (s : State) : Tr Unit :=
  if bs = [] then .ok () s
  else match sipAddr s va bs.length with
    | some (.inl va) => (vaWrite m ctx va bs s).tr va .write
    | some (.inr pa) => (paWrite ctx { key := ctx, cache := 3, fbc := false, die := masterDie m } pa bs s).tr va pa .write s
    | none => .fault (.mk' .vaRange 0xFF 0) va .write s

/-- An op's sticky flags take those of a conversion as it is made, whatever becomes of its item (R153). -/
def orFlags (o : OpRef) (fl : Nat) (s : State) : State := s.onRun o fun r => { r with flags := r.flags ||| fl }

/-- Elements first to first + n - 1 of a packed row. -/
def readElems (m ctx va code first n : Nat) (s : State) : Tr (List Nat) :=
  let w := fmtWidth code
  let b0 := first * w / 8
  let b1 := ((first + n) * w + 7) / 8
  (tRead m ctx (va + b0) (b1 - b0) s).bind fun bs s =>
    .ok ((upTo n).map fun i => leNat bs / 2 ^ ((first + i) * w - 8 * b0) % 2 ^ w) s

/-- Writes elements of a packed row from element first, which starts a byte. -/
def writeElems (m ctx va code first : Nat) (cs : List Nat) (s : State) : Tr Unit :=
  tWrite m ctx (va + first * fmtWidth code / 8) (packElems code cs) s

/-! ## DETAIL codes (R187) -/

def dShape : Nat := 0x30
def dFormatPair : Nat := 0x31
def dAlign : Nat := 0x32
def dLayout : Nat := 0x33
def dOverlap : Nat := 0x34
def dMetaBad : Nat := 0x35
def dIndexRange : Nat := 0x36
def dFunc : Nat := 0x37

/-- The arrays of a mask in increasing cluster number. -/
def maskArrays (mask : Nat) : List Nat := nats (bit mask) 8

def arrayMaster (c : Nat) : Nat := 0x40 + c

/-! ## TENSOR_MMA: the record (R166) -/

/-- The body of a TENSOR_MMA, with the number of arrays of its mask. -/
structure Mma where
  m : Nat
  n : Nat
  k : Nat
  fa : Nat
  ax : Bool
  fb : Nat
  bx : Bool
  fc : Nat
  cByte : Nat
  fd : Nat
  dx : Bool
  sr : Bool
  sat : Bool
  acc : Bool
  passes : Nat
  splitA : Bool
  sparse : Nat
  ordered : Bool
  segLog2 : Nat
  dist : Nat
  seed : Nat
  aVa : Nat
  bVa : Nat
  cVa : Nat
  dVa : Nat
  saVa : Nat
  sbVa : Nat
  metaVa : Nat
  lda : Nat
  ldb : Nat
  ldc : Nat
  ldd : Nat
  csa : Nat
  csb : Nat
  csc : Nat
  csd : Nat
  ta : Bool
  tb : Bool
  epiN : Nat
  epi : List Nat
  ev0 : Nat
  ev1 : Nat
  scalar : Nat
  report : Nat
  sdVa : Nat
  arrays : Nat
  deriving DecidableEq, Repr

/-- Reads the body; none: BAD_RECORD (R9, R126, R136). -/
def parseMma (b : List Byte) (arrays : Nat) : Option Mma :=
  let mode := fld b 33 1
  let epi := (upTo 4).map fun i => fld b (132 + i) 1
  match fmtByte (fld b 28 1), fmtByte (fld b 29 1), fmtByte (fld b 30 1), fmtByte (fld b 31 1) with
  | some (fa, ax), some (fb, bx), some (fc, _), some (fd, dx) =>
    match roundByte (fld b 32 1) fd with
    | some (sr, sat) =>
      if bit mode 7 ∨ 16 ≤ fld b 34 1 ∨ 4 ≤ fld b 35 1 ∨ 4 ≤ fld b 128 1 ∨ !zeros b 130 2 ∨ !zeros b 156 4 ∨
          epi.any (fun f => bit f 7) ∨ (epi.drop (fld b 129 1)).any (· ≠ 0) then none
      else some {
        m := fld b 16 4, n := fld b 20 4, k := fld b 24 4, fa, ax, fb, bx, fc, cByte := fld b 30 1, fd, dx, sr, sat,
        acc := bit mode 0, passes := bits mode 2 1, splitA := bit mode 3, sparse := bits mode 5 4, ordered := bit mode 6,
        segLog2 := fld b 34 1, dist := fld b 35 1, seed := fld b 36 4, aVa := fld b 40 8, bVa := fld b 48 8,
        cVa := fld b 56 8, dVa := fld b 64 8, saVa := fld b 72 8, sbVa := fld b 80 8, metaVa := fld b 88 8,
        lda := fld b 96 4, ldb := fld b 100 4, ldc := fld b 104 4, ldd := fld b 108 4, csa := fld b 112 4,
        csb := fld b 116 4, csc := fld b 120 4, csd := fld b 124 4, ta := bit (fld b 128 1) 0, tb := bit (fld b 128 1) 1,
        epiN := fld b 129 1, epi, ev0 := fld b 136 8, ev1 := fld b 144 8, scalar := fld b 152 4, report := fld b 160 8,
        sdVa := fld b 168 8, arrays }
    | none => none
  | _, _, _, _ => none

/-- K step of a format as an A or B format, and whether it counts as floating point (R145). -/
def abFormat (code : Nat) (mx : Bool) : Option (Nat × Bool) :=
  match code with
  | 0x1 | 0x2 | 0x3 => some (16, true)
  | 0x4 | 0x5 | 0x6 | 0x7 => some (32, true)
  | 0x8 => some (64, true)
  | 0xA => some (32, mx)
  | 0xB => some (32, false)
  | 0xC => some (64, false)
  | _ => none

def Mma.sparseA (r : Mma) : Bool := decide (r.sparse = 1)
def Mma.sparseB (r : Mma) : Bool := decide (r.sparse = 2)

/-- The op's K step (R145). -/
def Mma.kstep (r : Mma) : Nat :=
  let a := ((abFormat r.fa r.ax).map (·.1)).getD 16
  let b := ((abFormat r.fb r.bx).map (·.1)).getD 16
  Nat.min a b * (if r.sparseA ∨ r.sparseB then 2 else 1)

/-- Is the op floating point: MXINT8 counts as floating point (R145). -/
def Mma.isFloat (r : Mma) : Bool := ((abFormat r.fa r.ax).map (·.2)).getD true

/-- K and N of each array's own matrices (R171). -/
def Mma.kOwn (r : Mma) : Nat := if r.dist = 2 then r.k / r.arrays else r.k
def Mma.nOwn (r : Mma) : Nat := if r.dist = 1 then r.n / r.arrays else r.n

/-- Stored elements of a row of A, and of a column of B. -/
def Mma.aRow (r : Mma) : Nat := if r.ta then r.m else if r.sparseA then r.kOwn / 2 else r.kOwn
def Mma.bRow (r : Mma) : Nat := if r.tb then r.nOwn else if r.sparseB then r.kOwn / 2 else r.kOwn

def dimBad (n : Nat) : Bool := decide (n = 0) || decide (1048576 < n)

def Mma.shapeBad (r : Mma) : Bool :=
  let step := r.kstep
  dimBad r.m || dimBad r.n || dimBad r.k || ((r.ax || r.bx) && decide (r.k % 32 ≠ 0)) ||
  ((r.sparseA || r.sparseB) && decide (r.k % 4 ≠ 0)) || !packOk r.fa r.aRow || !packOk r.fb r.bRow ||
  !packOk r.fd r.nOwn || (r.dx && decide (r.n % 32 ≠ 0)) ||
  (decide (r.dist = 1) && decide (r.n % (32 * r.arrays) ≠ 0)) ||
  (decide (r.dist = 2) && (decide (r.k % r.arrays ≠ 0) || decide (r.kOwn % step ≠ 0) ||
    (r.ordered && decide (r.kOwn % (2 ^ r.segLog2 * step) ≠ 0))))

def Mma.pairBad (r : Mma) : Bool :=
  match abFormat r.fa r.ax, abFormat r.fb r.bx with
  | some (_, x), some (_, y) =>
    let a32 := decide (r.fa = 1)
    let b32 := decide (r.fb = 1)
    let cOk := if x then [1, 2, 3, 0xF].contains r.cByte else decide (r.cByte = 0xE)
    (x != y) || (a32 != b32) || (a32 != decide (r.passes ≠ 0)) || !cOk ||
    (!r.acc && decide (r.cByte ≠ 1) && decide (r.cByte ≠ 0xE)) || decide (r.fd = 9)
  | _, _ => true

def Mma.alignBad (r : Mma) : Bool :=
  [r.aVa, r.bVa, r.cVa, r.dVa, r.saVa, r.sbVa, r.sdVa, r.metaVa, r.ev0, r.ev1, r.lda, r.ldb, r.ldc, r.ldd].any
    (fun x => decide (x % 16 ≠ 0)) || decide (r.report % 32 ≠ 0) ||
  decide (r.lda < rowBytes r.fa r.aRow) || decide (r.ldb < rowBytes r.fb r.bRow) ||
  decide (r.ldd < rowBytes r.fd r.nOwn) || (r.acc && decide (r.ldc < rowBytes r.fc r.nOwn))

/-- A transposed operand may be neither sub-byte, MX nor sparse. -/
def transBad (t : Bool) (code : Nat) (mx sparse : Bool) : Bool := t && (decide (fmtWidth code < 8) || mx || sparse)

/-- LAYOUT of R170. DESIGN CHOICE (log 85): so is a C_VA that is not 0 without ACCUM, which R166 forbids and
R170 does not list. -/
def Mma.layoutBad (r : Mma) : Bool :=
  transBad r.ta r.fa r.ax r.sparseA || transBad r.tb r.fb r.bx r.sparseB ||
  (decide (r.saVa ≠ 0) != r.ax) || (decide (r.sbVa ≠ 0) != r.bx) || (decide (r.sdVa ≠ 0) != r.dx) ||
  (decide (r.metaVa ≠ 0) != (r.sparseA || r.sparseB)) || (!r.acc && decide (r.cVa ≠ 0)) ||
  (decide (r.dist = 0) && [r.csa, r.csb, r.csc, r.csd].any (· ≠ 0)) ||
  (decide (r.dist = 2) && (decide (r.csc ≠ 0) || decide (r.csd ≠ 0)))

/-- Does a byte range meet a row of a strided matrix. -/
def meetsRow (lo len base rows ld rb : Nat) : Bool :=
  if rows = 0 ∨ lo + len ≤ base then false
  else
    let i := Nat.min (rows - 1) (if ld = 0 then 0 else (lo + len - 1 - base) / ld)
    decide (lo < base + i * ld + rb)

/-- Views of the arrays that have addresses of their own. -/
def Mma.slots (r : Mma) : Nat := if r.dist = 0 then 1 else r.arrays

def Mma.overlapBad (r : Mma) : Bool :=
  r.acc &&
  !(decide (r.cVa = r.dVa) && decide (r.ldc = r.ldd) && decide (r.cByte = r.fd + (if r.dx then 16 else 0)) && decide (r.csc = r.csd)) &&
  (upTo r.slots).any fun i => (upTo r.slots).any fun j => (upTo r.m).any fun row =>
    meetsRow (r.cVa + i * r.csc + row * r.ldc) (rowBytes r.fc r.nOwn) (r.dVa + j * r.csd) r.m r.ldd (rowBytes r.fd r.nOwn)

/-- The vector that a stage uses. -/
def Mma.stageVec (r : Mma) (f : Nat) : Nat := if bit f 6 then r.ev1 else r.ev0

def Mma.funcBad (r : Mma) : Bool :=
  decide (r.sparse = 3) || decide (r.dist = 3) || decide (4 < r.epiN) || (r.epi.take r.epiN).any fun f =>
    let code := f % 64
    decide (code = 0) || decide (0xA < code) || (decide (2 ≤ code) && decide (code ≤ 5) && decide (r.stageVec f = 0))

/-- The dispatch checks of R170, in the order listed there. -/
def Mma.check (r : Mma) : Option Nat :=
  if r.shapeBad then some dShape
  else if r.pairBad then some dFormatPair
  else if r.alignBad then some dAlign
  else if r.layoutBad then some dLayout
  else if r.overlapBad then some dOverlap
  else if r.funcBad then some dFunc
  else none

/-! ## Tiles and their work items (R162, R171) -/

def cdiv (a b : Nat) : Nat := if b = 0 then 0 else (a + b - 1) / b

/-- K steps of an array's own K range. -/
def Mma.steps (r : Mma) : Nat := cdiv r.kOwn r.kstep

/-- Segments of an array's own K range (R151). -/
def Mma.segs (r : Mma) : Nat := if r.ordered then cdiv r.steps (2 ^ r.segLog2) else r.steps

def Mma.tilesM (r : Mma) : Nat := cdiv r.m 32
def Mma.tilesN (r : Mma) : Nat := cdiv r.nOwn 32
def Mma.tiles (r : Mma) : Nat := r.tilesM * r.tilesN

/-- Bytes of a strip of 32 rows of A, or columns of B, with scales and metadata (R161). -/
def stripBytes (code k : Nat) (mx sparse : Bool) : Nat :=
  32 * rowBytes code (if sparse then k / 2 else k) + (if mx then 32 * (k / 32) else 0) + (if sparse then 32 * cdiv k 8 else 0)

/-- Tile number i in the order of R162, as local (tm, tn). -/
def Mma.tileAt (r : Mma) (i : Nat) : Nat × Nat :=
  let aFits := decide (stripBytes r.fa r.kOwn r.ax r.sparseA ≤ 98304)
  let bFits := decide (stripBytes r.fb r.kOwn r.bx r.sparseB ≤ 98304)
  if !aFits ∧ bFits then (i % r.tilesM, i / r.tilesM) else (i / r.tilesN, i % r.tilesN)

/-- Arrays that share one tile's K range (R171). -/
def Mma.parts (r : Mma) : Nat :=
  if r.dist = 2 then r.arrays
  else if r.dist = 0 ∧ r.tiles < r.arrays then Nat.max 1 (Nat.min (r.arrays / Nat.max r.tiles 1) r.segs)
  else 1

/-- Items of a slot: for TILES, every part of every tile; else the tiles of the array. -/
def Mma.items (r : Mma) : Nat := if r.dist = 0 then r.tiles * r.parts else r.tiles

/-- Tile and part of item i of slot j. -/
def Mma.itemAt (r : Mma) (slot i : Nat) : Nat × Nat :=
  if r.dist = 0 then (i / r.parts, i % r.parts) else if r.dist = 2 then (i, slot) else (i, 0)

/-- Boundary i of p parts of n steps: whole equal shares of segments when ORDERED, else where the
device cuts. -/
def cutAt (ordered : Bool) (n p : Nat) : Nat → Nat
  | 0 => 0
  | i + 1 => if p ≤ i + 1 then n
    else if ordered then (i + 1) * n / p
    else Nat.max (cutAt ordered n p i) (Nat.min n (Config.kCut n p (i + 1)))

/-- K steps [lo, hi) of a part, in its array's own range. -/
def Mma.partSteps (r : Mma) (part : Nat) : Nat × Nat :=
  if r.dist = 2 ∨ r.parts = 1 then (0, r.steps)
  else
    let unit := if r.ordered then 2 ^ r.segLog2 else 1
    (Nat.min r.steps (unit * cutAt r.ordered r.segs r.parts part),
     Nat.min r.steps (unit * cutAt r.ordered r.segs r.parts (part + 1)))

/-- Slot whose addresses a part or an array uses (R171). -/
def Mma.view (r : Mma) (slot part : Nat) : Nat := if r.dist = 0 then 0 else if r.dist = 2 then part else slot

/-! ## Operands (R167, R174, R149) -/

/-- An operand element: none when 2:4 sparsity removes it; FP32-grade parts hi and lo. -/
abbrev Elem := Option (Val × Val)

/-- Splits an FP32 operand (R149). DESIGN CHOICE (log 84): the op's SAT bit, which belongs to the conversion
to FMT_D, does not apply here: a high part that rounds past BF16's largest finite value is infinite. -/
def splitFp32 (passes : Nat) (ftz : Bool) (x : Val) : Fl (Val × Val) :=
  let hi := encodeFloat fmtBf16 none false ftz x
  let h := decodeFloat fmtBf16 hi.val
  if passes < 2 then { val := (h, Val.zero), fl := hi.fl }
  else
    let d := exactSum [x, h.neg]
    let lo := encodeFloat fmtBf16 none false ftz d.val
    { val := (h, decodeFloat fmtBf16 lo.val), fl := hi.fl ||| d.fl ||| lo.fl }

/-- Decodes an operand element. -/
def operandElem (code : Nat) (mx : Bool) (passes : Nat) (ftz : Bool) (c : Nat) : Fl Elem :=
  let v := decodeElem code ftz c
  if passes ≠ 0 then (splitFp32 passes ftz v).bind fun p => .pure (some p)
  else .pure (some (if mx ∧ code = 0xA then v.scale (-6) else v, Val.zero))

/-- Places stored elements at the positions that metadata nibbles name (R174); none: a nibble whose
first position is not less than its second (R175). -/
def expandSparse : List Nat → List Elem → Option (List Elem)
  | [], _ => some []
  | nib :: ns, es =>
    let p := nib % 4
    let q := nib / 4 % 4
    if q ≤ p then none
    else match expandSparse ns (es.drop 2) with
      | some rest => some (((([none, none, none, none] : List Elem).set p (es.getD 0 none)).set q (es.getD 1 none)) ++ rest)
      | none => none

/-- A row of an operand over a K range: elements, block scales, flags. -/
structure OpRow where
  elems  : List Elem
  scales : List Nat
  fl     : Nat
  deriving DecidableEq, Repr

/-- Raw codes of one row or column of an operand over [k0, k0 + n) of its own K. -/
def rawRow (m ctx base ld code row k0 n : Nat) (trans sparse : Bool) (s : State) : Tr (List Nat) :=
  if trans then
    (trMap (upTo n) (fun i s => readElems m ctx (base + (k0 + i) * ld) code row 1 s) s).bind fun l s => .ok l.flatten s
  else if sparse then readElems m ctx (base + row * ld) code (k0 / 2) (n / 2) s
  else readElems m ctx (base + row * ld) code k0 n s

/-- Metadata nibbles g to g + n - 1 of a sparse row: group g of row r lies in byte r × K/8 + g/2, in its low
nibble for even g (R167). DEDUCED (log 88): both quotients are whole, so that with K not a multiple of 8 an
odd row's first byte is the one that the row before it ends in. -/
def metaNibbles (m ctx metaVa kOwn row g n : Nat) (s : State) : Tr (List Nat) :=
  readElems m ctx (metaVa + row * kOwn / 8) 0xC g n s

/-- Reads one row of A, or column of B, with its metadata and scales (R167, R174). -/
def operandRow (o : OpRef) (m ctx base ld code row k0 n kOwn scaleVa metaVa passes : Nat) (mx trans sparse ftz : Bool)
    (s : State) : Tr OpRow :=
  (rawRow m ctx base ld code row k0 n trans sparse s).bind fun cs s =>
    let es := flMap (operandElem code mx passes ftz) cs
    let s := orFlags o es.fl s
    let scales := fun (s : State) => if mx then
        (tRead m ctx (scaleVa + row * (kOwn / 32) + k0 / 32) (cdiv (k0 + n) 32 - k0 / 32) s).bind fun bs s => .ok (bs.map (·.toNat)) s
      else Tr.ok [] s
    if sparse then
      (metaNibbles m ctx metaVa kOwn row (k0 / 4) (n / 4) s).bind fun nibs s =>
        match expandSparse nibs es.val with
        | none => .bad dMetaBad s
        | some l => (scales s).bind fun sc s => .ok { elems := l, scales := sc, fl := es.fl } s
    else (scales s).bind fun sc s => .ok { elems := es.val, scales := sc, fl := es.fl } s

/-! ## Dot units (R146 to R152) -/

/-- Products of one element pair in every pass (R149). -/
def elemProducts (passes : Nat) (splitA : Bool) (a b : Val × Val) : List (Val × Val) :=
  (a.1, b.1) ::
  ((if passes = 3 ∨ (passes = 2 ∧ !splitA) then [(a.1, b.2)] else []) ++
   (if passes = 3 ∨ (passes = 2 ∧ splitA) then [(a.2, b.1)] else []))

/-- Exponent of a block's scale, or none for NaN. -/
def scaleExp (mx : Bool) (l : List Nat) (i : Nat) : Option Int :=
  if !mx then some 0 else let c := l.getD i 0x7F; if c = 0xFF then none else some ((c : Int) - 127)

/-- Terms of a K step: elements i in [lo, hi) of the rows read from k0 on (R146). -/
def stepTerms (r : Mma) (a b : OpRow) (k0 lo hi : Nat) : List (Fl Val) :=
  (upTo (hi - lo)).flatMap fun d =>
    let i := lo + d
    let blk := (k0 + i) / 32 - k0 / 32
    match a.elems.getD i none, b.elems.getD i none with
    | some x, some y =>
      match scaleExp r.ax a.scales blk, scaleExp r.bx b.scales blk with
      | some ea, some eb => (elemProducts r.passes r.splitA x y).map fun p =>
          let m := exactMul p.1 p.2
          { m with val := m.val.scale (ea + eb) }
      | _, _ => [{ val := .nan, fl := fNan }]
    | _, _ => []

/-- INT32 clamp of an accumulation (R148). -/
def clampInt32 (i : Int) : Fl Int :=
  if i < -2147483648 then { val := -2147483648, fl := fOvf ||| fSat }
  else if 2147483647 < i then { val := 2147483647, fl := fOvf ||| fSat }
  else .pure i

/-- An integer value as an integer. -/
def Val.toInt (v : Val) : Int := Val.intAt 0 v

/-- One K step: C plus the step's terms, rounded once (R146), or added in INT32 (R148). -/
def dotStep (r : Mma) (ftz : Bool) (terms : List (Fl Val)) (c : Val) : Fl Val :=
  let fl := terms.foldl (fun n t => n ||| t.fl) 0
  let vs := terms.map (·.val)
  if r.isFloat then
    let x := (exactSum (c :: vs)).bind (roundFp32 r.sat ftz)
    { x with fl := x.fl ||| fl }
  else
    let y := clampInt32 (c.toInt + (vs.map Val.toInt).sum)
    { val := Val.ofInt y.val, fl := y.fl }

/-- K steps [lo, hi) of a part in order, from C. Rows were read from element k0 on. -/
def dotRun (r : Mma) (ftz : Bool) (a b : OpRow) (k0 lo hi : Nat) (c : Val) : Fl Val :=
  (upTo (hi - lo)).foldl (fun acc d => acc.bind fun c =>
    let k := (lo + d) * r.kstep
    dotStep r ftz (stepTerms r a b k0 (k - k0) (Nat.min (k + r.kstep) r.kOwn - k0)) c) (.pure c)

/-- One addition of partial sums (R151, R152). -/
def addPartial (r : Mma) (ftz : Bool) (a b : Val) : Fl Val :=
  if r.isFloat then (exactSum [a, b]).bind (roundFp32 r.sat ftz)
  else
    let y := clampInt32 (a.toInt + b.toInt)
    { val := Val.ofInt y.val, fl := y.fl }

/-- One level of the tree of R151. -/
def treeLevel {α : Type} (f : α → α → Fl α) : List α → Fl (List α)
  | a :: b :: l =>
    let x := f a b
    let rest := treeLevel f l
    { val := x.val :: rest.val, fl := x.fl ||| rest.fl }
  | l => .pure l

/-- The fixed tree of R151. Fuel: levels. -/
def treeSum {α : Type} (f : α → α → Fl α) (d : α) : Nat → List α → Fl α
  | _, [] => .pure d
  | _, [a] => .pure a
  | 0, a :: _ => .pure a
  | n + 1, l => (treeLevel f l).bind fun l' => treeSum f d n l'

/-! ## A part of a tile -/

/-- An accumulator as a code: FP32 or INT32. -/
def accCode (r : Mma) (v : Val) : Nat := if r.isFloat then fp32Code v else (v.toInt % 2 ^ 32).toNat

def accVal (r : Mma) (c : Nat) : Val := if r.isFloat then decodeFloat fmtFp32 c else decodeElem 0xE false c

/-- Rows and columns of a tile that the matrix has (R172). -/
def Mma.rowsOf (r : Mma) (tm : Nat) : Nat := Nat.min 32 (r.m - 32 * tm)
def Mma.colsOf (r : Mma) (tn : Nat) : Nat := Nat.min 32 (r.nOwn - 32 * tn)

/-- Reads the operand rows of a part of a tile. -/
def partOperands (o : OpRef) (r : Mma) (m ctx view tm tn k0 n : Nat) (ftz : Bool) (s : State) : Tr (List OpRow × List OpRow) :=
  let sa := view * r.csa
  let sb := view * r.csb
  let row := fun (i : Nat) (s : State) => operandRow o m ctx (r.aVa + sa) r.lda r.fa (32 * tm + i) k0 n r.kOwn (r.saVa + sa)
    (r.metaVa + sa) r.passes r.ax r.ta r.sparseA ftz s
  let col := fun (j : Nat) (s : State) => operandRow o m ctx (r.bVa + sb) r.ldb r.fb (32 * tn + j) k0 n r.kOwn (r.sbVa + sb)
    (r.metaVa + sb) r.passes r.bx r.tb r.sparseB ftz s
  (trMap (upTo (r.rowsOf tm)) row s).bind fun as s =>
    (trMap (upTo (r.colsOf tn)) col s).bind fun bs s => .ok (as, bs) s

def opRowsFlags (l : List OpRow) : Nat := l.foldl (fun n x => n ||| x.fl) 0

/-- The values of a tile for K steps [lo, hi), each from its C. -/
def tileRun (r : Mma) (ftz : Bool) (as bs : List OpRow) (k0 lo hi : Nat) (c : Nat → Nat → Val) : Fl (List Val) :=
  flMap (fun (x : (OpRow × Nat) × (OpRow × Nat)) => dotRun r ftz x.1.1 x.2.1 k0 lo hi (c x.1.2 x.2.2))
    ((as.zip (upTo as.length)).flatMap fun a => (bs.zip (upTo bs.length)).map fun b => (a, b))

/-- The input C of a tile (R167); zeros without ACCUM. -/
def readC (r : Mma) (m ctx view tm tn : Nat) (ftz : Bool) (s : State) : Tr (List (List Val)) :=
  trMap (upTo (r.rowsOf tm)) (fun i s =>
    if r.acc then
      (readElems m ctx (r.cVa + view * r.csc + (32 * tm + i) * r.ldc) r.fc (32 * tn) (r.colsOf tn) s).bind fun cs s =>
        .ok (cs.map (decodeElem r.fc ftz)) s
    else .ok (List.replicate (r.colsOf tn) Val.zero) s) s

def at2 (l : List (List Val)) (i j : Nat) : Val := (l.getD i []).getD j Val.zero

/-! ## Epilogue and output (R160, R168, R172, R173) -/

/-- One epilogue stage on a value at global (m, n). -/
def epiStage (r : Mma) (ftz : Bool) (vecs : Nat → List Nat) (i j : Nat) (f : Nat) (x : Val) : Fl Val :=
  let code := f % 64
  let vec := fun (k : Nat) => fp32Val ftz ((vecs f).getD k 0)
  match code with
  | 1 => fpMul r.sat ftz x (fp32Val ftz r.scalar)
  | 2 => fpAdd r.sat ftz x (vec j)
  | 3 => fpAdd r.sat ftz x (vec i)
  | 4 => fpMul r.sat ftz x (vec j)
  | 5 => fpMul r.sat ftz x (vec i)
  | 6 => relu x
  | 7 => elementFn fnGelu r.sat ftz x
  | 8 => elementFn fnSilu r.sat ftz x
  | 9 => elementFn fnExp r.sat ftz x
  | _ => elementFn fnRecip r.sat ftz x

/-- The part of a stage's vector that a tile uses: by column for BIAS_COL and SCALE_COL, by row for
BIAS_ROW and SCALE_ROW. -/
def stageVecRead (r : Mma) (m ctx m0 n0 rows cols f : Nat) (s : State) : Tr (Nat × List Nat) :=
  let code := f % 64
  if code = 2 ∨ code = 4 then (readElems m ctx (r.stageVec f) 1 n0 cols s).bind fun l s => .ok (f, l) s
  else if code = 3 ∨ code = 5 then (readElems m ctx (r.stageVec f) 1 m0 rows s).bind fun l s => .ok (f, l) s
  else .ok (f, []) s

/-- A value after the epilogue: an INT32 accumulator becomes FP32, but for an integer FMT_D without
stages (R168). -/
def epilogue (r : Mma) (ftz : Bool) (vecs : List (Nat × List Nat)) (i j : Nat) (x : Val) : Fl Val :=
  let start : Fl Val := if !r.isFloat ∧ !(r.epiN = 0 ∧ (intFmt r.fd).isSome ∧ !r.dx) then roundFp32 r.sat ftz x else .pure x
  let get := fun (f : Nat) => ((vecs.find? fun e => e.1 = f).map (·.2)).getD []
  (r.epi.take r.epiN).foldl (fun acc f => acc.bind (epiStage r ftz get i j f)) start

/-- A row of 32 output elements as codes, with its scale for an MX format (R135, R141). -/
def encodeRow (code : Nat) (mx sr sat ftz : Bool) (seed tm tn i : Nat) (vs : List Val) : Fl (List Nat × List Nat) :=
  let draws : List (Option Nat) := if sr then (rowDraws seed tm tn i).map some else List.replicate 32 none
  if mx then (mxEncode code draws vs).bind fun x => .pure (x.2, [x.1])
  else (flMap (fun (x : Val × Option Nat) => encodeElem code x.2 sat ftz x.1) (vs.zip draws)).bind fun cs => .pure (cs, [])

/-- Converts and writes a finished tile (R168, R172, R173); the flags of its conversions. -/
def writeTile (o : OpRef) (r : Mma) (m ctx view tm tn tnGlobal : Nat) (ftz : Bool) (vals : List (List Val)) (s : State) : Tr Nat :=
  let rows := r.rowsOf tm
  let cols := r.colsOf tn
  (trMap (r.epi.take r.epiN) (stageVecRead r m ctx (32 * tm) (32 * tnGlobal) rows cols) s).bind fun vecs s =>
    (trMap (upTo rows) (fun i s =>
      let out := flMap (fun (x : Val × Nat) => epilogue r ftz vecs i x.2 x.1) ((vals.getD i []).zip (upTo cols))
      let enc := out.bind (encodeRow r.fd r.dx r.sr r.sat ftz r.seed tm tnGlobal i)
      let row := 32 * tm + i
      let s := orFlags o enc.fl s
      (writeElems m ctx (r.dVa + view * r.csd + row * r.ldd) r.fd (32 * tn) enc.val.1 s).bind fun _ s =>
        (tWrite m ctx (r.sdVa + view * r.csd + row * (r.nOwn / 32) + tn) (enc.val.2.map (BitVec.ofNat 8)) s).bind fun _ s =>
          .ok enc.fl s) s).bind fun fls s => .ok (fls.foldl (· ||| ·) 0) s

/-! ## Running tensor ops -/

/-! ## Narrow mode (R189, R191) -/

def offTnsCtl (c : Nat) : Nat := 0x110000 + (c / 4) * 0x400000 + (c % 4) * 0x80000

/-- An array is to change its mode: it issues nothing from its boundary until the change is made. -/
def narrowWaits (s : State) (m : Nat) : Bool :=
  decide (0x40 ≤ m) && decide (m < 0x48) && decide ((s.raw 0 (offTnsCtl (m - 0x40))).toNat % 2 ≠ tblGet 0 s.tns.narrow (m - 0x40))

def arrayHeld (s : State) (c : Nat) : Bool := s.fe.entries.any fun e => e.ops.any fun p => p.units.contains (arrayMaster c)

/-- NARROW_ACT follows NARROW, once the array has reached its boundary. -/
def narrowDoneDo (c : Nat) (s : State) : State :=
  if arrayHeld s c then s
  else s.onTns fun t => { t with narrow := tblSet 0 t.narrow c ((s.raw 0 (offTnsCtl c)).toNat % 2) }

/-- Clusters whose array an op may take now. -/
def arrayFree (s : State) (c : Nat) : Bool :=
  !narrowWaits s (arrayMaster c) && !arrayHeld s c && decide (s.power c = .on) && clkCluster s c && clusterUp s c && !inReset s 1 c && !s.isPinned (arrayMaster c)

/-- Items of a slot of an op. -/
def opItems (opcode : Nat) (b : List Byte) (arrays : Nat) : Nat :=
  if opcode = 0x30 then ((parseMma b arrays).map Mma.items).getD 0
  else if opcode = 0x32 then cdiv (fld b 16 4) 32
  else
    let t := decide (fld b 99 1 % 4 = 1)
    fld b 64 4 * cdiv (if t then fld b 60 4 else fld b 56 4) 32 * cdiv (if t then fld b 56 4 else fld b 60 4) 32

/-- Slots of an op: one per array where each has its own items (R171). -/
def ownSlots (opcode : Nat) (b : List Byte) : Bool := decide (opcode = 0x30) && decide (fld b 35 1 ≠ 0)

/-- The slot of a master in an op. -/
def slotOf (p : Op) (m : Nat) : Nat :=
  if ownSlots p.opcode p.body then (maskArrays p.emask).findIdx (fun c => arrayMaster c = m) else 0

/-- Item i of a slot is a further part of a tile that the op has begun: a pre-emption waits for that tile
(R184). -/
def tileBegun (r : TensorRun) (p : Op) (slot i : Nat) : Bool :=
  match if p.opcode = 0x30 then parseMma p.body (maskArrays p.emask).length else none with
  | some x => (decide (x.dist = 0) && decide (i % x.parts ≠ 0)) || (decide (x.dist = 2) && (upTo x.arrays).any fun j => decide (j ≠ slot) && decide (i < tblGet 0 r.next j))
  | none => false

/-- A free master takes the op's next item, if there is one. -/
def takeItem (o : OpRef) (m : Nat) (s : State) : State :=
  match s.run? o, s.op? o with
  | some r, some (_, p) =>
    let slot := slotOf p m
    let i := tblGet 0 r.next slot
    if (r.stopping ∧ !tileBegun r p slot i) ∨ r.fail.isSome ∨ narrowWaits s m ∨ opItems p.opcode p.body (maskArrays p.emask).length ≤ i then s
    else
      let used := if r.used.contains m then r.used else r.used ++ [m]
      let s := s.onRun o fun r => { r with next := tblSet 0 r.next slot (i + 1), held := r.held ++ [(m, i)], used }
      s.onOp o fun p => { p with units := p.units ++ [m] }
  | _, _ => s

/-- Frees a master from an op. -/
def leaveItem (o : OpRef) (m : Nat) (s : State) : State :=
  let s := s.onRun o fun r => { r with held := r.held.filter fun h => h.1 ≠ m }
  s.onOp o fun p => { p with units := p.units.filter (· ≠ m) }

/-- A new run of an op, or the one that a pre-emption left. -/
def startRun (o : OpRef) (ctx : Nat) (s : State) : State :=
  match s.run? o with
  | some _ => s
  | none =>
    let r : TensorRun := { op := o, ctx, next := [], held := [], parts := [], written := 0, flags := 0, tStart := s.time, issue := 0, used := [], preempts := 0, stopping := false, fail := none }
    s.onTns fun t => { t with runs := t.runs ++ [r] }

/-- An op that needs a pinned array: every array of its mask, or one of an NSPLIT or KSPLIT (R185). -/
def arraysPinned (s : State) (p : Op) : Bool :=
  let cs := maskArrays p.emask
  if ownSlots p.opcode p.body then cs.any fun c => s.isPinned (arrayMaster c)
  else cs.all fun c => s.isPinned (arrayMaster c)

/-- An op record's checks: a failure as STATUS and DETAIL, or none (R170, R178, R182). -/
def recordCheck {α : Type} (parsed : Option α) (check : α → Option Nat) : Option (Nat × Nat) :=
  match parsed with
  | none => some (stBadRecord, 0)
  | some r => (check r).map fun d => (stOpError, d)

/-- TENSOR_MMA and TENSOR_VEC start, or take arrays of their mask that have become free (R171, R179): an op
that a pre-emption left, an array that has changed its mode. An op that now needs a pinned array ends
(R185). -/
def arraysDo (o : OpRef) (opcode : Nat) (check : Op → Option (Nat × Nat)) (s : State) : State :=
  withOp o opcode (fun e p s =>
    let cs := maskArrays p.emask
    let free := cs.filter fun c => arrayFree s c
    match s.run? o with
    | none =>
      match check p with
      | some (st, d) => endOp o st d 0 s
      | none =>
      if arraysPinned s p then
        let m := arrayMaster (cs.headD 0)
        endTensor o m stPinned 0 (startRun o e.ctx s)
      else if free = [] ∨ (ownSlots opcode p.body ∧ free.length ≠ cs.length) ∨ yields s o then s
      else free.foldl (fun s c => takeItem o (arrayMaster c) s) (startRun o e.ctx s)
    | some r =>
      if r.held = [] ∧ arraysPinned s p then endTensor o (arrayMaster (cs.headD 0)) stPinned 0 s
      else if (ownSlots opcode p.body ∧ r.held = [] ∧ free.length ≠ cs.length) ∨ yields s o then s
      else free.foldl (fun s c => takeItem o (arrayMaster c) s) s) s

/-- The op's first failure in time is kept (R185). -/
def noteFail (o : OpRef) (status detail : Nat) (s : State) : State :=
  s.onRun o fun r => { r with fail := r.fail.or (some (status, detail)) }

/-- The failure of an access of a tensor op: the record or pin, then the op's failure. -/
def noteFault (o : OpRef) (m ctx : Nat) (f : Flt) (va : Nat) (acc : Access) (s : State) : State :=
  let s := masterFault f m ctx va acc o.ring.val o.seq s
  if f.bar then noteFail o stOpError 3 s else noteFail o stTransFault f.code.num s

/-- After a master has ended its item: the next item, the end of the op, or the boundary of a pre-emption,
which counts there (R184, R186). -/
def afterItem (o : OpRef) (m : Nat) (s : State) : State :=
  let s := leaveItem o m s
  match s.run? o, s.op? o with
  | some r, some (e, p) =>
    if !ctxRuns s e.ctx then
      if r.held = [] then discardOp o (dropRun o s) else s
    else match r.fail with
      | some (st, d) => if r.held = [] then endTensor o m st d s else s
      | none =>
        let total := opItems p.opcode p.body (maskArrays p.emask).length
        let slots := if ownSlots p.opcode p.body then (maskArrays p.emask).length else 1
        let all := (upTo slots).all fun j => decide (total ≤ tblGet 0 r.next j)
        if r.held = [] ∧ all then endTensor o m stOk 0 s
        else if r.held = [] ∧ r.stopping ∧ r.parts = [] then s.onRun o fun r => { r with stopping := false, preempts := r.preempts + 1 }
        else if s.isPinned m then s
        else takeItem o m s
  | _, _ => s

/-- Adds to the counters of an array (R190): the cycles in which K steps issued, and those of its epilogue
cycles in which no K step did; how far the two overlap, and the stalls, are timing. -/
def countCycles (c issued epi : Nat) (s : State) : State :=
  let (a, s) := s.fresh
  let (b, s) := s.fresh
  s.onTns fun t => { t with issue := tblSet 0 t.issue c (tblGet 0 t.issue c + q64 (issued + a.toNat % (epi + 1))), stall := tblSet 0 t.stall c (tblGet 0 t.stall c + b) }

/-- Epilogue cycles of a tile of a TENSOR_MMA at most: its base, its stages and the additions of partial
sums, each by the row groups of narrow mode (R152, R160, R168, R189). A TENSOR_VEC's issue cycles are its
epilogue's (R179). -/
def epiCycles (s : State) (r : Mma) (m adds : Nat) : Nat :=
  let stages := ((r.epi.take r.epiN).map fun f => if 7 ≤ f % 64 then 8 else 4).sum
  (4 + stages + 4 * adds) * (if tblGet 0 s.tns.narrow (m - 0x40) = 1 then 2 else 1)

/-- Issue cycles of K steps on an array: narrow mode runs them for each of eight row groups (R159,
R189). -/
def issueOf (s : State) (r : Mma) (m steps : Nat) : Nat :=
  steps * Nat.max r.passes 1 * (if tblGet 0 s.tns.narrow (m - 0x40) = 1 then 8 else 1)

/-- Combines the parts of a tile and writes it (R151, R152, R171). -/
def combineTile (o : OpRef) (r : Mma) (m ctx view tm tn tnG : Nat) (ftz : Bool) (ps : List TensorPart) (s : State) : Tr Nat :=
  let cols := r.colsOf tn
  (readC r m ctx view tm tn ftz s).bind fun cs s =>
    let cell := fun (i j : Nat) =>
      let get := fun (seg : Nat × List Nat) => accVal r (seg.2.getD (i * cols + j) 0)
      let segs := ps.flatMap (·.segs)
      let add := addPartial r ftz
      if r.ordered then
        let vs := ((upTo (r.segs * (if r.dist = 2 then r.arrays else 1))).filterMap fun g => segs.find? fun x => x.1 = g).map get
        let t := treeSum add Val.zero 32 vs
        if r.acc then t.bind (add (at2 cs i j)) else t
      else
        let vs := segs.map get
        match (if r.acc then at2 cs i j :: vs else vs) with
        | [] => .pure Val.zero
        | v :: l => l.foldl (fun acc x => acc.bind fun y => add y x) (.pure v)
    let vals := (upTo (r.rowsOf tm)).map fun i => flMap (cell i) (upTo cols)
    let fl := vals.foldl (fun n v => n ||| v.fl) 0
    let adds := (ps.flatMap (·.segs)).length + b2n r.acc - 1
    (writeTile o r m ctx view tm tn tnG ftz (vals.map (·.val)) (orFlags o fl s)).bind fun f s =>
      .ok (fl ||| f) (countCycles (m - 0x40) 0 (epiCycles s r m adds) s)

/-- An array ends its part of a tile of a TENSOR_MMA: the tile written when its last part is done. -/
def mmaItem (r : Mma) (o : OpRef) (m ctx slot item : Nat) (ftz : Bool) (s : State) : Tr State :=
  let (tile, part) := r.itemAt slot item
  let view := r.view slot part
  let (tm, tn) := r.tileAt tile
  let tnG := if r.dist = 1 then slot * r.tilesN + tn else tn
  let (lo, hi) := r.partSteps part
  let k0 := lo * r.kstep
  let n := Nat.min (hi * r.kstep) r.kOwn - k0
  (partOperands o r m ctx view tm tn k0 n ftz s).bind fun ops s =>
    let (as, bs) := ops
    let fl := opRowsFlags as ||| opRowsFlags bs
    let issue := issueOf s r m (hi - lo)
    let note := fun (fl : Nat) (done : Bool) (s : State) => s.onRun o fun x =>
      { x with flags := x.flags ||| fl, issue := x.issue + issue, written := x.written + b2n done }
    if !r.ordered ∧ r.parts = 1 then
      (readC r m ctx view tm tn ftz s).bind fun cs s =>
        let v := tileRun r ftz as bs k0 lo hi (at2 cs)
        let cols := r.colsOf tn
        let rows := (upTo (r.rowsOf tm)).map fun i => (v.val.drop (i * cols)).take cols
        (writeTile o r m ctx view tm tn tnG ftz rows (orFlags o v.fl s)).bind fun f s =>
          .ok (note (fl ||| v.fl ||| f) true (countCycles (m - 0x40) issue (epiCycles s r m 0) s)) s
    else
      let len := if r.ordered then 2 ^ r.segLog2 else Nat.max (hi - lo) 1
      let first := if r.dist = 2 then part * r.segs else lo / len
      let segs := flMap (fun g =>
        let a := lo + g * len
        (tileRun r ftz as bs k0 a (Nat.min (a + len) hi) fun _ _ => Val.zero).bind fun vs =>
          .pure (if r.ordered then first + g else part, vs.map (accCode r))) (upTo (cdiv (hi - lo) len))
      let key := if r.dist = 2 then tile else tile + slot * r.tiles
      let mine : TensorPart := { tile := key, part, master := m, segs := segs.val }
      let others := ((s.run? o).map (·.parts)).getD []
      let ps := (others.filter fun p => p.tile = key) ++ [mine]
      let s := countCycles (m - 0x40) issue 0 (orFlags o segs.fl s)
      if ps.length < r.parts then
        let s := s.onRun o fun x => { x with parts := x.parts ++ [mine] }
        .ok (note (fl ||| segs.fl) false s) s
      else
        let low := ps.foldl (fun a p => Nat.min a p.master) m
        (combineTile o r low ctx view tm tn tnG ftz ps s).bind fun f s =>
          let s := s.onRun o fun x => { x with parts := x.parts.filter fun p => p.tile ≠ key }
          .ok (note (fl ||| segs.fl ||| f) true s) s

/-! ## TENSOR_VEC (R176 to R179) -/

/-- The body of a TENSOR_VEC. -/
structure Vec where
  rows : Nat
  cols : Nat
  fx : Nat
  xx : Bool
  fy : Nat
  yx : Bool
  yByte : Nat
  fo : Nat
  ox : Bool
  sr : Bool
  sat : Bool
  f1 : Nat
  f2 : Nat
  ymode : Nat
  yrecip : Bool
  red : Nat
  xVa : Nat
  yVa : Nat
  outVa : Nat
  redVa : Nat
  ldx : Nat
  ldy : Nat
  ldo : Nat
  alpha : Nat
  beta : Nat
  seed : Nat
  report : Nat
  deriving DecidableEq, Repr

/-- Reads the body; none: BAD_RECORD. -/
def parseVec (b : List Byte) : Option Vec :=
  match fmtByte (fld b 24 1), fmtByte (fld b 25 1), fmtByte (fld b 26 1) with
  | some (fx, xx), some (fy, yx), some (fo, ox) => match roundByte (fld b 27 1) fo with
    | some (sr, sat) =>
      if 16 ≤ fld b 30 1 ∨ 4 ≤ fld b 31 1 then none
      else some {
        rows := fld b 16 4, cols := fld b 20 4, fx, xx, fy, yx, yByte := fld b 25 1, fo, ox, sr, sat, f1 := fld b 28 1,
        f2 := fld b 29 1, ymode := fld b 30 1 % 8, yrecip := bit (fld b 30 1) 3, red := fld b 31 1, xVa := fld b 32 8,
        yVa := fld b 40 8, outVa := fld b 48 8, redVa := fld b 56 8, ldx := fld b 64 4, ldy := fld b 68 4,
        ldo := fld b 72 4, alpha := fld b 76 4, beta := fld b 80 4, seed := fld b 84 4, report := fld b 88 8 }
    | none => none
  | _, _, _ => none

/-- The dispatch checks of R178. -/
def Vec.check (v : Vec) : Option Nat :=
  let pass := decide (v.f1 = 0) || decide (v.f1 = 6)
  if 6 < v.f1 ∨ 6 < v.f2 ∨ 4 < v.ymode ∨ (pass ∧ v.ymode ≠ 0) ∨ (!pass ∧ v.ymode = 0) ∨
      (v.red ≠ 0 ∧ v.outVa = 0 ∧ v.redVa = 0) ∨ v.xx ∨ v.yx ∨ (v.ox ∧ v.red ≠ 0) ∨ (v.ymode = 0 ∧ v.yByte ≠ 1) then some dFunc
  else if dimBad v.rows ∨ dimBad v.cols ∨ (v.ox ∧ v.cols % 32 ≠ 0) ∨ !packOk v.fx v.cols ∨ !packOk v.fo v.cols ∨
      ((v.ymode = 3 ∨ v.ymode = 4) ∧ !packOk v.fy v.cols) ∨ (v.ymode = 2 ∧ !packOk v.fy v.rows) then some dShape
  else if [v.xVa, v.yVa, v.outVa, v.redVa, v.ldx, v.ldy, v.ldo].any (fun x => decide (x % 16 ≠ 0)) ∨ v.report % 16 ≠ 0 ∨
      v.ldx < rowBytes v.fx v.cols ∨ (v.ymode = 4 ∧ v.ldy < rowBytes v.fy v.cols) ∨
      (v.outVa ≠ 0 ∧ v.ldo < rowBytes v.fo v.cols) then some dAlign
  else none

/-- An operand code converted to FP32 (R140, R177 step 1). -/
def toFp32 (code : Nat) (sat ftz : Bool) (c : Nat) : Fl Val :=
  match decodeElem code ftz c with
  | .nan => { val := .nan, fl := fNan }
  | .inf n => .pure (.inf n)
  | v => roundFp32 sat ftz v

/-- F1 (R176). -/
def vecF1 (v : Vec) (ftz : Bool) (x y : Val) : Fl Val :=
  match v.f1 with
  | 0 => .pure x
  | 1 => fpAdd v.sat ftz x y
  | 2 => fpAdd v.sat ftz x y.neg
  | 3 => fpMul v.sat ftz x y
  | 4 => fpMax x y
  | 5 => fpMin x y
  | _ => fpFma v.sat ftz x (fp32Val ftz v.alpha) (fp32Val ftz v.beta)

/-- F2 (R176). -/
def vecF2 (v : Vec) (ftz : Bool) (x : Val) : Fl Val :=
  match v.f2 with
  | 0 => .pure x
  | 1 => relu x
  | 2 => elementFn fnGelu v.sat ftz x
  | 3 => elementFn fnSilu v.sat ftz x
  | 4 => elementFn fnExp v.sat ftz x
  | 5 => elementFn fnRecip v.sat ftz x
  | _ => elementFn fnRsqrt v.sat ftz x

/-- Cuts a list into chunks of n. Fuel: its length. -/
def chunks {α : Type} (n : Nat) : Nat → List α → List (List α)
  | 0, _ => []
  | _ + 1, [] => []
  | f + 1, l => l.take n :: chunks n f (l.drop n)

/-- The sum of a row: chunks of 256 by the tree of R151, then in chunk order (R177). -/
def rowSum (sat ftz : Bool) (l : List Val) : Fl Val :=
  let cs := flMap (treeSum (fpAdd sat ftz) Val.zero 8) (chunks 256 l.length l)
  cs.bind fun sums => match sums with
    | [] => .pure Val.zero
    | a :: rest => rest.foldl (fun acc x => acc.bind fun y => fpAdd sat ftz y x) (.pure a)

/-- RED of a row (R177). -/
def vecRed (v : Vec) (ftz : Bool) (l : List Val) : Fl Val :=
  match v.red, l with
  | 1, a :: rest => rest.foldl (fun acc x => acc.bind fun y => fpMax y x) (.pure a)
  | 2, l => rowSum v.sat ftz l
  | 3, l => (flMap (fun x => fpMul v.sat ftz x x) l).bind (rowSum v.sat ftz)
  | _, _ => .pure Val.zero

/-- The Y operands of a row, after Y_RECIP (R176). -/
def vecY (v : Vec) (m ctx row : Nat) (ftz : Bool) (s : State) : Tr (Fl (List Val)) :=
  let recip := fun (x : Fl Val) => if v.yrecip then x.bind (elementFn fnRecip v.sat ftz) else x
  let all := fun (l : List Nat) => flMap (fun c => recip (toFp32 v.fy v.sat ftz c)) l
  let one := fun (x : Fl Val) => { val := List.replicate v.cols x.val, fl := x.fl : Fl (List Val) }
  match v.ymode with
  | 0 => .ok (.pure (List.replicate v.cols Val.zero)) s
  | 1 => .ok (one (recip (toFp32 1 v.sat ftz v.alpha))) s
  | 2 => (readElems m ctx v.yVa v.fy row 1 s).bind fun l s => .ok (one (recip (toFp32 v.fy v.sat ftz (l.headD 0)))) s
  | 3 => (readElems m ctx v.yVa v.fy 0 v.cols s).bind fun l s => .ok (all l) s
  | _ => (readElems m ctx (v.yVa + row * v.ldy) v.fy 0 v.cols s).bind fun l s => .ok (all l) s

/-- Converts a row of OUT in tiles of 32 columns (R135, R141). -/
def vecOutRow (v : Vec) (ftz : Bool) (row : Nat) (l : List Val) : Fl (List Nat × List Nat) :=
  let cs := chunks 32 l.length l
  (flMap (fun (x : List Val × Nat) => encodeRow v.fo v.ox v.sr v.sat ftz v.seed (row / 32) x.2 (row % 32) x.1)
    (cs.zip (upTo cs.length))).bind fun parts => .pure (parts.flatMap (·.1), parts.flatMap (·.2))

/-- One row of a TENSOR_VEC; its flags. -/
def vecRow (o : OpRef) (v : Vec) (m ctx : Nat) (ftz : Bool) (row : Nat) (s : State) : Tr Nat :=
  (readElems m ctx (v.xVa + row * v.ldx) v.fx 0 v.cols s).bind fun xs s =>
    let x := flMap (toFp32 v.fx v.sat ftz) xs
    (vecY v m ctx row ftz (orFlags o x.fl s)).bind fun ys s =>
      let y := flMap (fun (p : Val × Val) => (vecF1 v ftz p.1 p.2).bind (vecF2 v ftz)) (x.val.zip ys.val)
      let red := vecRed v ftz y.val
      let out := if v.outVa = 0 then .pure ([], []) else vecOutRow v ftz row y.val
      let s := orFlags o (ys.fl ||| y.fl ||| red.fl ||| out.fl) s
      (writeElems m ctx (v.outVa + row * v.ldo) v.fo 0 out.val.1 s).bind fun _ s =>
        (tWrite m ctx (v.redVa + row * (v.cols / 32)) (out.val.2.map (BitVec.ofNat 8)) s).bind fun _ s =>
          let redBytes := if v.red ≠ 0 ∧ v.redVa ≠ 0 then natLe 4 (fp32Code red.val) else []
          (tWrite m ctx (v.redVa + 4 * row) redBytes s).bind fun _ s =>
            .ok (x.fl ||| ys.fl ||| y.fl ||| red.fl ||| out.fl) s

/-- Issue cycles of a block of rows (R179). -/
def vecCycles (v : Vec) (rows : Nat) : Nat :=
  let slow := decide (2 ≤ v.f2) || (v.yrecip && decide (v.ymode = 4))
  cdiv (rows * v.cols) (if slow then 128 else 256) + (if v.yrecip ∧ v.ymode = 3 then cdiv v.cols 128 else 0)

/-- An array ends a block of 32 rows. -/
def vecItem (v : Vec) (o : OpRef) (m ctx item : Nat) (ftz : Bool) (s : State) : Tr State :=
  let rows := Nat.min 32 (v.rows - 32 * item)
  (trMap (upTo rows) (fun i s => vecRow o v m ctx ftz (32 * item + i) s) s).bind fun fls s =>
    let fl := fls.foldl (· ||| ·) 0
    let s := s.onRun o fun x => { x with flags := x.flags ||| fl, issue := x.issue + vecCycles v rows, written := x.written + 1 }
    let s := countCycles (m - 0x40) (vecCycles v rows) 0 s
    .ok s s

/-! ## TENSOR_MOVE (R180 to R183) -/

/-- The body of a TENSOR_MOVE. -/
structure Move where
  src : Nat
  dst : Nat
  srcScale : Nat
  dstScale : Nat
  index : Nat
  rows : Nat
  cols : Nat
  planes : Nat
  srcLd : Nat
  dstLd : Nat
  srcRows : Nat
  srcPlane : Nat
  dstPlane : Nat
  fs : Nat
  sx : Bool
  fd : Nat
  dx : Bool
  sr : Bool
  sat : Bool
  mode : Nat
  seed : Nat
  report : Nat
  deriving DecidableEq, Repr

def parseMove (b : List Byte) : Option Move :=
  match fmtByte (fld b 96 1), fmtByte (fld b 97 1) with
  | some (fs, sx), some (fd, dx) => match roundByte (fld b 98 1) fd with
    | some (sr, sat) =>
      if 4 ≤ fld b 99 1 then none
      else some {
        src := fld b 16 8, dst := fld b 24 8, srcScale := fld b 32 8, dstScale := fld b 40 8, index := fld b 48 8,
        rows := fld b 56 4, cols := fld b 60 4, planes := fld b 64 4, srcLd := fld b 68 4, dstLd := fld b 72 4,
        srcRows := fld b 76 4, srcPlane := fld b 80 8, dstPlane := fld b 88 8, fs, sx, fd, dx, sr, sat,
        mode := fld b 99 1, seed := fld b 100 4, report := fld b 104 8 }
    | none => none
  | _, _ => none

def Move.transpose (v : Move) : Bool := decide (v.mode = 1)
def Move.gather (v : Move) : Bool := decide (v.mode = 2)
def Move.dRows (v : Move) : Nat := if v.transpose then v.cols else v.rows
def Move.dCols (v : Move) : Nat := if v.transpose then v.rows else v.cols
/-- Rows of a source plane. -/
def Move.sRows (v : Move) : Nat := if v.gather then v.srcRows else v.rows

/-- The dispatch checks of R182. -/
def Move.check (v : Move) : Option Nat :=
  if dimBad v.rows ∨ dimBad v.cols ∨ v.planes = 0 ∨ 65536 < v.planes ∨ (v.sx ∧ v.cols % 32 ≠ 0) ∨
      (v.dx ∧ v.dCols % 32 ≠ 0) ∨ !packOk v.fs v.cols ∨ !packOk v.fd v.dCols then some dShape
  else if [v.src, v.dst, v.srcScale, v.dstScale, v.index, v.srcLd, v.dstLd, v.srcPlane, v.dstPlane].any (fun x => decide (x % 16 ≠ 0)) ∨
      v.report % 16 ≠ 0 then some dAlign
  else if (v.transpose ∧ (v.sx ∨ fmtWidth v.fs < 8)) ∨ (1 < v.planes ∧ (v.srcPlane < v.sRows * v.srcLd ∨ v.dstPlane < v.dRows * v.dstLd)) ∨
      (decide (v.srcScale ≠ 0) != v.sx) ∨ (decide (v.dstScale ≠ 0) != v.dx) ∨ (decide (v.index ≠ 0) != v.gather) ∨
      (!v.gather ∧ v.srcRows ≠ 0) then some dLayout
  else if v.mode = 3 then some dFunc
  else none

/-- Source values of elements [c0, c0 + n) of row r of plane p. -/
def moveSrcRow (v : Move) (m ctx p r c0 n : Nat) (ftz : Bool) (s : State) : Tr (List Val) :=
  (readElems m ctx (v.src + p * v.srcPlane + r * v.srcLd) v.fs c0 n s).bind fun cs s =>
    if v.sx then
      (tRead m ctx (v.srcScale + p * (v.sRows * v.cols / 32) + r * (v.cols / 32) + c0 / 32) (cdiv (c0 + n) 32 - c0 / 32) s).bind fun sc s =>
        .ok ((cs.zip (upTo n)).map fun x => mxVal v.fs (sc.getD ((c0 + x.2) / 32 - c0 / 32) 0).toNat x.1) s
    else .ok (cs.map (decodeElem v.fs ftz)) s

/-- The values of one destination row of a tile. -/
def moveRow (v : Move) (m ctx p row c0 n : Nat) (ftz : Bool) (s : State) : Tr (List Val) :=
  if v.transpose then
    (trMap (upTo n) (fun j s => moveSrcRow v m ctx p (c0 + j) row 1 ftz s) s).bind fun l s => .ok l.flatten s
  else if v.gather then
    (tRead m ctx (v.index + 4 * row) 4 s).bind fun b s =>
      if v.srcRows ≤ leNat b then .bad dIndexRange s else moveSrcRow v m ctx p (leNat b) c0 n ftz s
  else moveSrcRow v m ctx p row c0 n ftz s

/-- One destination row of a tile is converted and written (R181); its flags. -/
def moveRowOut (o : OpRef) (v : Move) (m ctx p tm tn : Nat) (ftz : Bool) (i : Nat) (s : State) : Tr Nat :=
  let row := 32 * tm + i
  let n := Nat.min 32 (v.dCols - 32 * tn)
  (moveRow v m ctx p row (32 * tn) n ftz s).bind fun vs s =>
    let enc := encodeRow v.fd v.dx v.sr v.sat ftz v.seed (p * cdiv v.dRows 32 + tm) tn i vs
    let s := orFlags o enc.fl s
    (writeElems m ctx (v.dst + p * v.dstPlane + row * v.dstLd) v.fd (32 * tn) enc.val.1 s).bind fun _ s =>
      (tWrite m ctx (v.dstScale + p * (v.dRows * v.dCols / 32) + row * (v.dCols / 32) + tn) (enc.val.2.map (BitVec.ofNat 8)) s).bind fun _ s =>
        .ok enc.fl s

/-- A channel ends a destination tile, in tile order (p, tm, tn) (R184). Its issue cycles are timing: a free
value (log 89). -/
def moveItem (v : Move) (o : OpRef) (m ctx item : Nat) (ftz : Bool) (s : State) : Tr State :=
  let tms := cdiv v.dRows 32
  let tns := cdiv v.dCols 32
  let p := item / (tms * tns)
  let tm := item / tns % tms
  let tn := item % tns
  (trMap (upTo (Nat.min 32 (v.dRows - 32 * tm))) (fun i s => moveRowOut o v m ctx p tm tn ftz i s) s).bind fun fls s =>
    let fl := fls.foldl (· ||| ·) 0
    let (c, s) := s.fresh
    let s := s.onRun o fun x => { x with flags := x.flags ||| fl, issue := x.issue + c.toNat, written := x.written + 1 }
    .ok s s

/-- TENSOR_MOVE takes a channel, or its channel again after a pre-emption (R180, R184). -/
def moveDo (o : OpRef) (chan : Nat) (s : State) : State :=
  withOp o 0x31 (fun e p s =>
    match if (s.run? o).isSome then none else recordCheck (parseMove p.body) Move.check with
    | some (st, d) => endOp o st d 0 s
    | none =>
    if p.units ≠ [] then s
    else if chansPinned s p.emask then endTensor o (dmaMaster chan) stPinned 0 (startRun o e.ctx s)
    else if chanFree s p.emask chan ∧ !yields s o then takeItem o (dmaMaster chan) (startRun o e.ctx s)
    else s) s

/-! ## Boundaries -/

/-- One item of a running tensor op. -/
def runItem (p : Op) (o : OpRef) (m ctx slot item : Nat) (ftz : Bool) (s : State) : Tr State :=
  if p.opcode = 0x30 then match parseMma p.body (maskArrays p.emask).length with
    | some r => mmaItem r o m ctx slot item ftz s
    | none => .ok s s
  else if p.opcode = 0x32 then match parseVec p.body with
    | some v => vecItem v o m ctx item ftz s
    | none => .ok s s
  else match parseMove p.body with
    | some v => moveItem v o m ctx item ftz s
    | none => .ok s s

/-- TENSOR_TILE_DONE: a unit reaches its boundary (R184, R185). -/
def tileDoneDo (o : OpRef) (m : Nat) (io : HostIO) (s : State) : State :=
  let s := applyIO io s
  match s.run? o, s.op? o with
  | some r, some (e, p) => match r.held.find? fun h => h.1 = m with
    | none => s
    | some h =>
      if p.phase ≠ .running ∨ !ctxRuns s e.ctx ∨ s.isPinned m then afterItem o m s
      else match runItem p o m e.ctx (slotOf p m) h.2 (s.ctx e.ctx).ftz s with
        | .ok s _ => afterItem o m s
        | .fault f va acc s => afterItem o m (noteFault o m e.ctx f va acc s)
        | .bad d s => afterItem o m (noteFail o stOpError d s)
        | .severed s => afterItem o m (noteFail o stSevered 0 s)
        | .wait s => s
  | _, _ => s

/-! ## The meanings -/

/-- TENSOR_MMA is checked and starts, or takes free arrays (R170, R171). -/
def execTensorMma (o : OpRef) (s : State) : Out :=
  .next (arraysDo o 0x30 (fun p => recordCheck (parseMma p.body (maskArrays p.emask).length) Mma.check) s)

/-- TENSOR_VEC is checked and starts, or takes free arrays (R178, R179). -/
def execTensorVec (o : OpRef) (s : State) : Out :=
  .next (arraysDo o 0x32 (fun p => recordCheck (parseVec p.body) Vec.check) s)

/-- TENSOR_MOVE takes a channel (R180). -/
def execTensorMove (o : OpRef) (chan : Fin 32) (s : State) : Out := .next (moveDo o chan.val s)

/-- TENSOR_TILE_DONE (R184 to R186). -/
def execTensorTileDone (o : OpRef) (unit : Nat) (io : HostIO) (t : Nat) (s : State) : Out :=
  .next (metaLog (tileDoneDo o unit io (advanceTo t s)))

/-- NARROW_SWITCH_DONE (R191). -/
def execNarrowSwitchDone (c : Fin 8) (s : State) : Out := .next (narrowDoneDo c.val s)

end Sys2Proof.Machine
end

