-- ==== Sys2Proof/Machine/Memory.lean ====
section
/-! DEFINITION. Scratchpad arbitration, region clears, wake clears, and the L2's operations (R192 to
R214). -/

namespace Sys2Proof.Machine

open Sys2Proof

/-! ## Bank mapping (R192, R199) -/

/-- Bank of a scratchpad offset. -/
def spmBank (o : Nat) : Nat :=
  let w := o / 16
  let row := w / 128
  (w % 128) ^^^ (row % 128) ^^^ (row / 128)

/-- Bank of a tile-memory offset. -/
def tileBank (o : Nat) : Nat :=
  let w := o / 16
  (w % 16) ^^^ (w / 16 % 16)

/-! ## SPM registers -/

/-- A write of SPM_ARB: weights that are 0 or do not sum to 16 are refused (R196). -/
def spmArbEffect (w : RegWr) (s : State) : State :=
  let v := w.new.toNat
  let ws := [bits v 3 0, bits v 7 4, bits v 11 8, bits v 15 12]
  if w.changes 0xFFFF ∧ (ws.any (· = 0) ∨ ws.sum ≠ 16) then refuseWr w refusedBit s else storeWr w 0 s

/-- The region that SPM_RGN_SEL of a cluster selects: scratchpad 0 to 255, tile memory 256 to 287. -/
def regionSelected (s : State) (c : Nat) : Option Nat :=
  let v := (s.raw 0 (0x120010 + (c / 4) * 0x400000 + (c % 4) * 0x80000)).toNat
  if bit v 8 then (if bits v 7 5 = 0 then some (256 + bits v 4 0) else none) else some (bits v 7 0)

/-- Owner-table number of a region of a cluster. -/
def regionKey (c r : Nat) : Nat := if r < 256 then c * 256 + r else 2048 + c * 32 + (r - 256)

/-- A write of SPM_RGN_CMD: CLEAR starts unless a clear of the region runs (R198). -/
def regionClearEffect (c : Nat) (w : RegWr) (s : State) : State :=
  if !bit w.new.toNat 0 then s
  else match regionSelected s c with
    | none => s
    | some r =>
      let k := regionKey c r
      if s.mem.clearing.contains k then s else s.onMem fun m => { m with clearing := m.clearing ++ [k] }

/-- A CLEAR ends: every word zero, owner NONE (R198). -/
def regionClearedDo (c r : Nat) (s : State) : State :=
  let k := regionKey c r
  if s.mem.clearing.contains k then
    goOn (clearRegion k (s.onMem fun m => { m with clearing := m.clearing.filter (· ≠ k) }))
  else s

/-! ## Clearing on wake (R201 to R204) -/

def unitKey : PowerUnit → Nat
  | .cluster c => c.val
  | .core k => 8 + k.val
  | .die d => 72 + d.val

/-- Cluster of a core or of a cluster. -/
def unitCluster : PowerUnit → Option Nat
  | .cluster c => some c.val
  | .core k => some (k.val / 8)
  | .die _ => none

def clearSkip (s : State) : Bool := bit (s.raw 0 0x050008).toNat 3

/-- Masters of a cluster: its cores, its array and its DMA channels (R17). -/
def clusterMasters (c : Nat) : List Nat :=
  ((upTo 8).map fun i => 8 * c + i) ++ [0x40 + c] ++ (upTo 4).map fun i => 0x48 + 4 * c + i

/-- A power domain reports power good: the unit starts its clear (R201, R202). No unit powers up in a
sleep state or during an entry to one, nor while the second thermal stage holds it gated (R416, R419, R425). -/
def powerGoodDo (u : PowerUnit) (s : State) : State :=
  let k := unitKey u
  if s.power k = .off ∧ (awake s ∨ s.pwr.sleep = .exiting) ∧ !s.err.thermal2 then
    (s.setPower k .clearing).onUnit fun x => { x with waking := x.waking.filter (· ≠ k) }
  else s

/-- Zeroes a cluster's scratchpad and its owners, a core's tile memory, whose L1 is dropped, or empties a
die's L2 (R201). Under CLEAR_SKIP no zeros are written (R401). -/
def wakeClear (u : PowerUnit) (s : State) : State :=
  let none' := fun (lo n : Nat) (s : State) =>
    s.onMem fun m => { m with owners := m.owners.filter (fun e => !(decide (lo ≤ e.1) && decide (e.1 < lo + n))), clearing := m.clearing.filter (fun k => !(decide (lo ≤ k) && decide (k < lo + n))) }
  match u with
  | .cluster c =>
    let s := if clearSkip s then s else zeroCells (0x8000000000 + c.val * 0x1000000) 0x1000000 s
    none' (c.val * 256) 256 s
  | .core k =>
    let s := if clearSkip s then s else zeroCells (0x8100000000 + k.val * 0x40000) 0x40000 s
    none' (2048 + k.val * 4) 4 (s.onShd fun x => { x with l1 := x.l1.filter fun l => l.core ≠ k.val })
  | .die d =>
    let o := 0x300000 + d.val * 0x400000
    let s := s.setL2 d.val L2.empty
    [0x04, 0x10, 0x14, 0x18, 0x1C].foldl (fun s r => s.setRaw 0 (o + r) 0) s

/-- A clear fails: the unit stays unreleased, every master of its cluster is pinned with CLEAR_FAIL,
SPM_CLEAR_STS shows it and it is logged (R204, R453). -/
def clearFailed (c : Nat) (r : ClearResult) (s : State) : State :=
  let v := match r with
    | .failBank b => 1 + b.val
    | _ => 256
  let s := s.onUnit fun x => { x with clearFail := tblSet 0 x.clearFail c v }
  let s := (clusterMasters c).foldl (fun s m => pinMaster m 5 0 0 0 s) s
  let info := c + (if v = 256 then 2 ^ 15 else (v - 1) * 256)
  logError 0x20 (0x88 + c / 4) 0 info 0 false s

/-- The clear of a die's L2 fails: it stays unreleased and is logged. DESIGN CHOICE (log 90): R204 pins the
masters of a cluster, and the L2 is no cluster's; the cluster of INFO0 is a free value. -/
def dieClearFailed (d : Nat) (s : State) : State :=
  let (v, s) := s.fresh
  logError 0x20 (0x88 + d) 0 (v.toNat % 256 + 2 ^ 15) 0 false s

/-- A unit's clear ends (R202, R204). A cluster is released once its cores have finished theirs. -/
def unitReleaseDo (u : PowerUnit) (r : ClearResult) (s : State) : State :=
  let k := unitKey u
  if s.power k ≠ .clearing then s
  else
    let coresDone : Bool := match u with
      | .cluster c => (upTo 8).all fun i => decide (s.power (8 + 8 * c.val + i) = .on)
      | _ => true
    match r with
    | .pass =>
      if coresDone then
        let s := (wakeClear u s).setPower k .on
        match u with
        | .cluster c => s.onUnit fun x => { x with clearFail := tblSet 0 x.clearFail c.val 0 }
        | _ => s
      else s
    | r =>
      let s := s.setPower k .failed
      match unitCluster u with
      | some c => clearFailed c r s
      | none => dieClearFailed (k - 72) s

/-! ## L2 registers (R213, R214) -/

/-- A write of L2_LOCK: more than 8 ways are refused (R213). -/
def l2LockEffect (w : RegWr) (s : State) : State :=
  let n := (nats (bit w.new.toNat) 16).length
  if w.changes 0xFFFF ∧ 8 < n then refuseWr w refusedBit s else storeWr w 0 s

def l2Off (d : Nat) : Nat := 0x300000 + d * 0x400000

/-- A write of L2_OP_CTL: the fields, then GO unless an operation runs (R214). -/
def l2OpEffect (d : Nat) (w : RegWr) (s : State) : State :=
  let s := storeWr w 0x40000000 s
  let x := s.l2 d
  let op := bits w.new.toNat 1 0
  if !bit w.new.toNat 30 ∨ x.op.isSome ∨ op = 0 then s
  else
    let line := s.rawBase 0 (l2Off d + 0x10) (l2Off d + 0x14) / 128
    let len := (s.raw 0 (l2Off d + 0x18)).toNat % 2 ^ 28
    let x := { x with skipped := 0 }
    if len = 0 then s.setL2 d x
    else s.setL2 d { x with op := some { op, line, len, key := bits w.new.toNat 10 2 } }

/-- CLEAN or CLEAN_INV of the held lines of a range; a write that waits for its line ends first. -/
def l2Clean (d line len : Nat) (drop : Bool) (s : State) : State :=
  let s := l2FillIf d (fun m => m.dirty && decide (line ≤ m.line) && decide (m.line < line + len)) s
  let hit := fun (l : L2Line) => decide (line ≤ l.line) && decide (l.line < line + len)
  let s := ((s.l2 d).lines.filter fun l => hit l && l.dirty).foldl (fun s l => writeBack l s) s
  if drop then l2Drop d hit s
  else
    let x := s.l2 d
    s.setL2 d { x with lines := mapIf hit (fun l => { l with dirty := false }) x.lines }

def l2Skip (d : Nat) (s : State) : State :=
  let x := s.l2 d
  s.setL2 d { x with skipped := x.skipped + 1 }

/-- LOCK_LOAD of one line (R214). -/
def lockLoad (d key line : Nat) (s : State) : State :=
  let isPkg := match target s (line * 128) with
    | .pkg _ _ => true
    | _ => false
  if !isPkg ∨ lineDie s line ≠ d ∨ (s.ctx key).state ≠ .active then l2Skip d s
  else
    let s := ((s.l2 d).misses.filter fun m => m.line = line).foldl (fun s m => l2Fill d m s) s
    let x := s.l2 d
    let held := x.lines.find? fun l => decide (l.line = line) && decide (l.key = key)
    match held with
    | some l =>
      if lockedWay s d l.way then s
      else match (upTo 16).find? fun w => lockedWay s d w && !wayHeld x line w with
        | some w =>
          s.setL2 d { x with lines := mapIf (fun y => decide (y.line = line) && decide (y.key = key)) (fun y => { y with way := w }) x.lines }
        | none => l2Skip d s
    | none =>
      let s := l2OtherKey d line key s
      let x := s.l2 d
      match (upTo 16).find? fun w => lockedWay s d w && !wayHeld x line w with
      | some w =>
        let s := wcFlushIf d (fun b => b.line = line) s
        let x := s.l2 d
        let data := (lineBelow key line false s).1
        s.setL2 d { x with lines := x.lines ++ [{ line, way := w, key, fbc := false, dirty := false, data }] }
      | none => l2Skip d s

/-- The range operation of a die ends (R214). -/
def l2OpDoneDo (d : Nat) (io : HostIO) (s : State) : State :=
  let s := applyIO io s
  match (s.l2 d).op with
  | none => s
  | some o =>
    let s := match o.op with
      | 1 => l2Clean d o.line o.len false s
      | 2 => l2Clean d o.line o.len true s
      | _ => (upTo o.len).foldl (fun s i => lockLoad d o.key (o.line + i) s) s
    metaLog (s.setL2 d { s.l2 d with op := none })

/-! ## Fills and combining buffers -/

/-- The bytes of a line that a failed host read does not return are free. -/
def freeLine (m : L2Miss) (s : State) : List Byte × State :=
  let (bs, s) := freeBytes 128 s
  (overlay bs m.merged, s)

/-- A missed line arrives (R209, R210). A framebuffer block fills both of its lines, and a reserved
block code is logged (R299, R302). Where a host read fails, only a line that holds write-back bytes is
kept: other bytes have reached the host. -/
def l2LineFillDo (d miss : Nat) (io : HostIO) (s : State) : State :=
  let s := applyIO io s
  match (s.l2 d).misses.find? fun m => m.id = miss with
  | none => s
  | some m =>
    let pa := m.line * 128
    if 2 ^ 48 ≤ pa ∧ hostFails s (pa % 2 ^ 48) 128 then
      let x := s.l2 d
      let s := s.setL2 d { x with misses := x.misses.filter fun y => y.id ≠ miss }
      if !m.dirty then s
      else
        let (data, s) := freeLine m s
        l2Place d m.line m.way m.key m.fbc true data s
    else if m.fbc ∧ pa < 2 ^ 48 then
      let s := metaLog (l2Fill d m s)
      let partner := if m.line % 2 = 0 then m.line + 1 else m.line - 1
      let x := s.l2 d
      if x.lines.any (fun l => l.line = partner) ∨ x.misses.any (fun y => y.line = partner) then s
      else l2Insert d partner m.key true false (lineBelow m.key partner true s).1 s
    else l2Fill d m s

/-- Buffers of a slice without a write for 1 microsecond are written (R211). -/
def wcTimeoutDo (d slice : Nat) (s : State) : State :=
  wcFlushIf d (fun b => decide (b.slice = slice) && decide (b.last + 1000 ≤ s.time)) s

/-! ## The meanings -/

/-- REGION_CLEAR_DONE (R198). -/
def execRegionClearDone (c : Fin 8) (r : Fin 288) (s : State) : Out := .next (regionClearedDo c.val r.val s)

/-- POWER_GOOD (R201, R202). -/
def execPowerGood (u : PowerUnit) (s : State) : Out := .next (powerGoodDo u s)

/-- UNIT_RELEASE (R202, R204). -/
def execUnitRelease (u : PowerUnit) (r : ClearResult) (s : State) : Out := .next (unitReleaseDo u r s)

/-- L2_OP_DONE (R214). -/
def execL2OpDone (d : Fin 2) (io : HostIO) (s : State) : Out := .next (l2OpDoneDo d.val io s)

/-- L2_LINE_FILL (R210, R302). -/
def execL2LineFill (d : Fin 2) (miss : Nat) (io : HostIO) (s : State) : Out := .next (l2LineFillDo d.val miss io s)

/-- WC_BUFFER_TIMEOUT (R211). -/
def execWcBufferTimeout (d : Fin 2) (slice : Fin 16) (t : Nat) (s : State) : Out :=
  .next (wcTimeoutDo d.val slice.val (advanceTo t s))

end Sys2Proof.Machine
end

