-- ==== Sys2Proof/Machine/Reshard.lean ====
section
/-! DEFINITION. The reshard DMA engines: plans, arming, entries and early ends (R221 to R231). -/

namespace Sys2Proof.Machine

open Sys2Proof

def rshMaster (d : Nat) : Nat := 0x70 + d
def rshOff (d : Nat) : Nat := 0x310000 + d * 0x400000

/-! ## ARM (R222, R224) -/

/-- The plan of a header, for a context; none: BAD_RECORD. -/
def planOf (s : State) (ctx base : Nat) (h : List Byte) : Option Reshard :=
  let trig := fld h 16 2
  let done := fld h 18 2
  let n := fld h 20 4
  if !zeros h 27 37 ∨ 2 ≤ fld h 26 1 ∨ n = 0 ∨ 1048576 < n then none
  else some {
    state := .armed, result := 0, ctx, base, entries := n, trigEn := bit (fld h 26 1) 0, trig := (trig, (s.fence trig).alloc),
    trigValue := q64 (fld h 0 8), doneFence := (done, (s.fence done).alloc), doneValue := q64 (fld h 8 8), next := 0,
    begun := [], ended := [], failed := 0, aborting := false, satisfied := false, slotWait := false, armWait := false }

/-- A local fence that is ACTIVE and owned by a context. -/
def fenceOf (s : State) (k ctx : Nat) : Bool := decide ((s.fence k).st = .active) && decide ((s.fence k).owner = ctx)

/-! ## Entries -/

def planEntry (x : Reshard) (i : Nat) : Nat := x.base + 64 + 32 * i

/-- Writes STATUS, DETAIL and OLD_PA of an entry as key ID 0. -/
def planStatus (x : Reshard) (i status detail oldPa : Nat) (s : State) : State :=
  let s := (devWrite (planEntry x i + 17) (natLe 1 status ++ natLe 1 detail) s).getD s
  (devWrite (planEntry x i + 24) (natLe 8 oldPa) s).getD s

/-- Writes NOT_RUN to entries of a plan. -/
def planNotRun (x : Reshard) (is : List Nat) (s : State) : State := is.foldl (fun s i => planStatus x i 8 0 0 s) s

/-- Entries without a final STATUS, in index order. -/
def planLeft (x : Reshard) : List Nat := (upTo x.entries).filter fun i => !x.ended.contains i

/-- The trigger fence is in ERROR before it reached its value: no entry runs (R225). -/
def planTriggerError (d : Nat) (why : Reason) (s : State) : State :=
  let x := s.plan d
  let s := planNotRun x (upTo x.entries) s
  planStop d .aborted why (s.setPlan d { s.plan d with ended := upTo x.entries })

/-- The table entry that maps a page: its address, and its bytes, those of the whole group for a 64 KiB page
(R42, R44). Fuel: levels. -/
def leafSlot (ctx va : Nat) : Nat → Nat → State → Res (Nat × List Byte)
  | 0, _, s => .fault (.mk' .ptFormat 0 0) s
  | f + 1, table, s =>
    let slot := table + 8 * (va / pageSize f % 512)
    match walkRead ctx f slot 8 s with
    | .fault x s => .fault x s
    | .severed s => .severed s
    | .wait s => .wait s
    | .ok bs s =>
      let e := leNat bs
      if !bit e 0 then .fault (.mk' .notValid f 0) s
      else if f = 0 ∧ bit e 11 then
        match walkRead ctx f (slot / 128 * 128) 128 s with
        | .fault x s => .fault x s
        | .severed s => .severed s
        | .wait s => .wait s
        | .ok gs s => .ok (slot / 128 * 128, gs) s
      else if bit e 1 then .ok (slot, bs) s
      else leafSlot ctx va f (bits e 48 12 * 4096) s

/-- An entry's final STATUS counts, and a plan whose entries have all ended completes (R221, R230,
R231). -/
def planEnded (d i status detail oldPa : Nat) (s : State) : State :=
  let s := planStatus (s.plan d) i status detail oldPa s
  let x := s.plan d
  let bad := (decide (3 ≤ status) && decide (status ≤ 7)) || decide (status = 9)
  let x := { x with ended := x.ended ++ [i], begun := x.begun.filter (fun e => e.idx ≠ i), failed := x.failed + b2n bad }
  let s := s.setPlan d x
  if x.ended.length < x.entries then s
  else if x.aborting then planStop d .aborted .aborted s
  else sendFence x.doneFence.1 x.doneFence.2 (.inl x.doneValue) (wcFlushAll (s.setPlan d { x with state := .done }))

/-- A leaf entry rewritten for a new frame (R226 step 4). -/
def moveLeaf (e frame place : Nat) : Nat :=
  e - bits e 48 12 * 4096 - bits e 8 7 * 128 + frame * 4096 + place * 128

/-- A leaf entry without W (R226 step 2). -/
def lockLeaf (e : Nat) : Nat := if bit e 3 then e - 8 else e

/-- Free RING and SEQ of a fault record whose work has no ring entry. -/
def freeRecord (f : FaultInfo) (s : State) : FaultInfo × State :=
  let (a, s) := s.fresh
  let (b, s) := s.fresh
  ({ f with ring := a.toNat % 8192, seq := b.toNat % 2 ^ 32 }, s)

/-- A fault of work that no ring entry carries: its record, or the pin (R57, R380). -/
def engineFault (f : Flt) (m ctx va : Nat) (acc : Access) (s : State) : State :=
  if f.bar then pinMaster m 3 ctx f.key f.pa s
  else
    let (i, s) := freeRecord (f.info m ctx va acc 0 0) s
    takeFault i f.key s

/-- Changes an entry in progress. -/
def onBegun (d i : Nat) (f : PlanEntry → PlanEntry) (s : State) : State :=
  let x := s.plan d
  s.setPlan d { x with begun := mapIf (fun e => e.idx = i) f x.begun }

/-- An entry's check has ended it; its STATUS is still to be written. -/
def entryOver (d i status detail : Nat) (s : State) : State := onBegun d i (fun e => { e with step := .over status detail }) s

/-- A fault of an entry's walk: its record or pin. A pin stops the plan; any other fault ends the entry with
FAULT, a violation under PIN_LOG_ONLY too (R228, R231, R385). -/
def walkFault (d i : Nat) (f : Flt) (ctx va : Nat) (s : State) : State :=
  entryOver d i 3 f.code.num (engineFault f (rshMaster d) ctx va .read s)

/-- Is a destination a package frame of the class that NEW_PLACE names (R228). -/
def dstOk (s : State) (dst size place : Nat) : Bool :=
  decide (dst % size = 0) && (match target s dst with
    | .pkg _ _ => decide (entryClass (granEntry s (dst / 2 ^ 30)) = place)
    | _ => false)

/-- Writes the table entries of a leaf, and invalidates the page for the context (R54, R226). -/
def putLeaf (ctx : Nat) (l : Leaf) (slot : Nat) (es : List Nat) (s : State) : State :=
  let s := (devWrite slot (es.flatMap (natLe 8)) s).getD s
  tlbDiscard (fun t => decide (t.ctx = ctx) && decide (t.leaf.va < l.va + l.size) && decide (l.va < t.leaf.va + t.leaf.size)) s

/-- The table entries in bytes of a table. -/
def tableEntries (old : List Byte) : List Nat := (upTo (old.length / 8)).map fun j => fld old (8 * j) 8

/-- Is the page of an address in progress at the other engine, in the same context (R229). -/
def pageTaken (s : State) (d ctx va : Nat) : Bool :=
  let y := s.plan (1 - d)
  decide (y.state = .running) && decide (y.ctx = ctx) && y.begun.any fun e => match e.step with
    | .moving l _ _ => decide (l.va ≤ va) && decide (va < l.va + l.size)
    | _ => false

/-- Is physical memory of a package channel named. -/
def onPackage (s : State) (pa : Nat) : Bool := match target s pa with
  | .pkg _ _ => true
  | _ => false

/-- Steps 1 and 2 of R226 for an entry in progress, through the engine's micro-TLB: the walk, the checks of
R228, and the leaf rewritten without W. An entry whose page the other engine moves, or whose reads must
wait, stays as it is. -/
def planBegin (d i : Nat) (s : State) : State :=
  let x := s.plan d
  match devRead (planEntry x i) 32 s with
  | .wait => s
  | .failed => entryOver d i 7 0 s
  | .done (e, s) =>
    let va := fld e 0 8
    let dst := fld e 8 8
    let place := fld e 16 1
    if 3 ≤ place ∨ !zeros e 19 5 then entryOver d i 7 0 s
    else if pageTaken s d x.ctx va then s
    else match xlate (rshMaster d) x.ctx va .read s with
      | .fault f s => walkFault d i f x.ctx va s
      | .severed s => entryOver d i 3 0 s
      | .wait s => s
      | .ok l s =>
        if l.level = 2 then entryOver d i 4 0 s
        else if !onPackage s l.base then entryOver d i 9 0 s
        else match leafSlot x.ctx va 4 ((s.ctx x.ctx).ptRoot.getD 0) s with
          | .fault f s => walkFault d i f x.ctx va s
          | .severed s => entryOver d i 3 0 s
          | .wait s => s
          | .ok (slot, old) s =>
            if 2 ^ 48 ≤ slot then entryOver d i 6 0 s
            else if dst = l.base ∧ place = l.place then entryOver d i 2 0 s
            else if !dstOk s dst l.size place then entryOver d i 5 0 s
            else
              let s := onBegun d i (fun e => { e with dst, place, step := .moving l slot old }) s
              if l.w then putLeaf x.ctx l slot ((tableEntries old).map lockLeaf) s else s

/-- Starts the next entries of a running plan, at most 16 in progress (R229). -/
def planFill (d : Nat) (s : State) : State :=
  (upTo 16).foldl (fun s _ =>
    let x := s.plan d
    if x.state = .running ∧ !x.aborting ∧ x.begun.length < 16 ∧ x.next < x.entries then
      planBegin d x.next (s.setPlan d { x with next := x.next + 1, begun := x.begun ++ [{ idx := x.next, dst := 0, place := 0, step := .waits }] })
    else s) s

/-- An entry past step 2 fails: unless the engine is now pinned, its leaf goes back to its value from step 1,
and it ends with FAULT (R228, R231). -/
def moveFailed (d i ctx : Nat) (l : Leaf) (slot : Nat) (old : List Byte) (code : Nat) (s : State) : State :=
  if (s.plan d).state ≠ .running then s
  else planEnded d i 3 code 0 (if l.w then putLeaf ctx l slot (tableEntries old) s else s)

/-- Lines of a frame leave both L2s, those on their way into one too (R226 step 5). -/
def dropFrame (base size : Nat) (s : State) : State :=
  (upTo 2).foldl (fun s e =>
    let mine := fun (line : Nat) => decide (base / 128 ≤ line) && decide (line < (base + size) / 128)
    l2Clean e (base / 128) (size / 128) true (l2FillIf e (fun m => mine m.line) (wcFlushIf e (fun w => mine w.line) s))) s

/-- Steps 3 to 6 of R226. They wait for the requests translated through the page's old entry (R54, R227). -/
def planMove (d i ctx : Nat) (l : Leaf) (slot : Nat) (old : List Byte) (dst place : Nat) (s : State) : State :=
  let a := l.attr (rshMaster d)
  if loadsOn s ctx (fun v => decide (l.va ≤ v) && decide (v < l.va + l.size)) ≠ [] then s
  else match paRead ctx a l.base l.size s with
    | .wait => s
    | .severed => moveFailed d i ctx l slot old 0 s
    | .fault c s' => moveFailed d i ctx l slot old c.num (engineFault (accFault s' c l.base) (rshMaster d) ctx l.va .read s')
    | .ok bs s1 => match paWrite ctx a dst bs s1 with
      | .wait => s
      | .severed => moveFailed d i ctx l slot old 0 s1
      | .fault c s' => moveFailed d i ctx l slot old c.num (engineFault (accFault s' c dst) (rshMaster d) ctx l.va .write s')
      | .ok _ s =>
        let es := tableEntries old
        let s := putLeaf ctx l slot ((upTo es.length).map fun j => moveLeaf (es.getD j 0) (dst / 4096 + j) place) s
        planEnded d i 1 0 l.base (dropFrame l.base l.size s)

/-- The plan of a context that is torn down: the engine writes nothing more; STATE after it is open
(R231). -/
def planTorn (d : Nat) (s : State) : State :=
  let (v, s) := s.fresh
  s.setPlan d { s.plan d with state := if v.toNat % 2 = 0 then .failed else .aborted, aborting := false, begun := [] }

/-- A plan's context is in teardown: it is ABORTING or gone, or its drain has come to its end. -/
def planCtxGone (s : State) (x : Reshard) : Bool := !ctxRuns s x.ctx || (s.ctx x.ctx).drainDone

/-- A plan that waits for a slot of the pending-wait table takes one that is free (R224). -/
def planSlot (d : Nat) (s : State) : State :=
  let x := s.plan d
  if x.state = .armed ∧ x.slotWait ∧ pendingWaits s < waitSlots then s.setPlan d (latchPlan s { x with slotWait := false }) else s

/-- Armed plans whose trigger fence is in ERROR, or whose context is torn down, end (R225, R231). -/
def planHooks (s : State) : State :=
  (upTo 2).foldl (fun s d =>
    let s := planSlot d s
    let x := s.plan d
    if x.state = .armed then
      if planCtxGone s x then planTorn d s
      else match planWait s x with
        | .error why => planTriggerError d why s
        | _ => s
    else s) s

/-- ARM of an engine: the checks of R224, then ARMED, or RUNNING when nothing triggers it. A trigger that
has not reached its value takes a slot of the pending-wait table, or waits for one. A pinned engine is
frozen and arms nothing. While its header cannot be read the ARM waits (R447). -/
def armDo (d : Nat) (s : State) : State :=
  let s := s.setPlan d { s.plan d with armWait := false }
  let x := s.plan d
  let res := fun (r : Nat) (s : State) => s.setPlan d { s.plan d with result := r }
  let ctx := (s.raw 0 (rshOff d + 8)).toNat % 512
  let base := s.rawBase 0 (rshOff d) (rshOff d + 4)
  if planActive x ∨ s.isPinned (rshMaster d) ∨ (s.ctx ctx).state ≠ .active then res resState s
  else if 2 ^ 48 ≤ base then res resBadRecord s
  else match devRead base 64 s with
    | .wait => s.setPlan d { x with armWait := true }
    | .failed => res resBadRecord s
    | .done (h, s) =>
      if !fenceOf s (fld h 16 2) ctx ∨ !fenceOf s (fld h 18 2) ctx then res resRange s
      else match planOf s ctx base h with
        | none => res resBadRecord s
        | some p =>
          if !p.trigEn then planFill d (s.setPlan d { p with state := .running })
          else
            let full := decide (waitSlots ≤ pendingWaits s) && planWait s p != .sat
            s.setPlan d (latchPlan s { p with slotWait := full })

/-- An ARM whose header could not be read goes on. -/
def armRetry (s : State) : State := (upTo 2).foldl (fun s d => if (s.plan d).armWait then armDo d s else s) s

/-- RSH_PLAN_START: the trigger decides (R225). -/
def planStartDo (d : Nat) (s : State) : State :=
  let s := planSlot d s
  let x := s.plan d
  if x.state ≠ .armed then s
  else if planCtxGone s x then planTorn d s
  else match planWait s x with
    | .sat => planFill d (s.setPlan d { x with state := .running })
    | .pending => s
    | .error why => planTriggerError d why s

/-- RSH_ENTRY_DONE: an entry in progress ends, and the next one starts (R229). -/
def entryDoneDo (d i : Nat) (io : HostIO) (s : State) : State :=
  let s := applyIO io s
  let x := s.plan d
  let entry := fun (s : State) => (s.plan d).begun.find? fun e => e.idx = i
  if x.state ≠ .running ∨ s.isPinned (rshMaster d) then s
  else if planCtxGone s x then planTorn d s
  else match entry s with
    | none => s
    | some e =>
      let s := if e.step = .waits then planBegin d i s else s
      let s := match entry s with
        | some e => match e.step with
          | .waits => s
          | .over st det => planEnded d i st det 0 s
          | .moving l slot old => planMove d i x.ctx l slot old e.dst e.place s
        | none => s
      metaLog (planFill d s)

/-- ABORT (R231): a running plan starts no further entry; one not past step 2 is not started. -/
def rshAbortDo (d : Nat) (s : State) : State :=
  let x := s.plan d
  match x.state with
  | .armed => planTriggerError d .aborted s
  | .running =>
    if x.aborting then s
    else
      let begun := x.begun.filter fun e => e.step ≠ .waits
      let rest := (planLeft x).filter fun i => !begun.any fun e => e.idx = i
      let s := planNotRun x rest s
      let x := { s.plan d with ended := x.ended ++ rest, begun, aborting := true }
      let s := s.setPlan d x
      if begun = [] then planStop d .aborted .aborted s else s
  | _ => s

/-- A write of RSH_CTL: CTX, then ARM and ABORT. -/
def rshEffect (d : Nat) (w : RegWr) (s : State) : State :=
  let s := storeWr w 0x600 s
  let s := if bit w.new.toNat 9 then armDo d s else s
  if bit w.val.toNat 10 then rshAbortDo d s else s

/-- RSH_PLAN_START (R225). -/
def execRshPlanStart (d : Fin 2) (s : State) : Out := .next (planStartDo d.val s)

/-- RSH_ENTRY_DONE (R226, R228, R230). -/
def execRshEntryDone (d : Fin 2) (idx : Nat) (io : HostIO) (s : State) : Out := .next (entryDoneDo d.val idx io s)

end Sys2Proof.Machine
end

