-- ==== Sys2Proof/Machine/Operands.lean ====
section
/-! DEFINITION. Dispatches, workgroups and thread groups, and the operands of a group's instructions:
registers of lanes, built-in inputs, immediates, and the writes of results (R233 to R235). -/

namespace Sys2Proof.Machine

open Sys2Proof

/-! ## Runs, workgroups and groups -/

def State.shdRun? (s : State) (o : OpRef) : Option ShdRun := s.shd.runs.find? fun r => r.op = o

def State.group? (s : State) (core slot : Nat) : Option Group :=
  s.shd.groups.find? fun g => decide (g.core = core) && decide (g.slot = slot)

/-- Stores a group at its core and slot. -/
def setGroup (g : Group) (s : State) : State :=
  s.onShd fun x => { x with groups := mapIf (fun h => decide (h.core = g.core) && decide (h.slot = g.slot)) (fun _ => g) x.groups }

/-- Is a group of workgroup w of a dispatch. -/
def Group.inWg (g : Group) (o : OpRef) (w : Nat) : Bool := decide (g.op = o) && decide (g.wg = w) && decide (g.role = .compute)

/-- Is a group at the place of another. -/
def Group.same (g h : Group) : Bool := decide (h.core = g.core) && decide (h.slot = g.slot)

/-- A group's slot and registers are free. -/
def dropGroup (g : Group) (s : State) : State := s.onShd fun x => { x with groups := x.groups.filter fun h => !g.same h }

def wgGroups (s : State) (o : OpRef) (w : Nat) : List Group := s.shd.groups.filter fun g => g.inWg o w

/-- The op holds the cores that hold its groups or its tiles. -/
def syncUnits (o : OpRef) (s : State) : State :=
  let cores := ((s.shd.groups.filter fun g => g.op = o).map (·.core) ++ (tilesOf s o).map (·.core)).dedup
  s.onOp o fun p => { p with units := cores }

/-- Every group of an op is discarded; the op ends with a status (R259, R260). -/
def killOp (o : OpRef) (status detail : Nat) (s : State) : State := shdSweep (endOp o status detail 0 s)

/-- A park's cause is a translation code (R256). -/
def transCause (c : Nat) : Bool := decide (c < 0x40)

/-- A group's op fails: a dispatch ends with every group of it; a render pass loses the group, and fails as a
pass does (R259, R306, R309). -/
def killGroup (g : Group) (status detail : Nat) (s : State) : State :=
  if g.role = .compute then killOp g.op status detail s
  else closeOps (passFail g.op status detail (syncUnits g.op (dropGroup g s)))

/-- A kill fails the op with its cause (R259). -/
def killFor (g : Group) (cause : Nat) (s : State) : State :=
  killGroup g (if transCause cause then stTransFault else stOpError) cause s

/-! ## Registers of a group -/

/-- Threads of a workgroup along x, y and z, from the dispatch record (R238). -/
def wgDims (b : List Byte) : Nat × Nat × Nat := (fld b 44 2, fld b 46 2, fld b 48 2)

/-- Workgroup and thread indices of a lane of a dispatch (R235). -/
def indexValue (r : ShdRun) (b : List Byte) (g : Group) (lane code : Nat) : Word :=
  let (wx, wy, _) := wgDims b
  let t := g.idx * 32 + lane
  match code with
  | 1 => w32 (g.wg % r.gx)
  | 2 => w32 (g.wg / r.gx % r.gy)
  | 3 => w32 (g.wg / r.gx / r.gy)
  | 4 => w32 (t % wx)
  | 5 => w32 (t / wx % wy)
  | 6 => w32 (t / wx / wy)
  | _ => 0

/-- The record of a running op. -/
def opBody (s : State) (o : OpRef) : List Byte := match s.op? o with
  | some (_, p) => p.body
  | none => []

/-- A built-in input of a lane (R235): CONST_VA, the indices of a dispatch, and what a vertex or a fragment
starts with (R272, R287). -/
def builtinValue (s : State) (g : Group) (lane code : Nat) : Word :=
  if code = 7 then w32 g.const
  else if code = 8 then w32 (g.const / 2 ^ 32)
  else if 9 ≤ code then (g.inputs.getD lane []).getD (code - 9) 0
  else match s.shdRun? g.op with
    | some r => indexValue r (opBody s g.op) g lane code
    | none => 0

/-- A register of a lane: what was written, else a built-in input, else zero (R235). -/
def laneReg (s : State) (g : Group) (r lane : Nat) : Word :=
  let v := tblGet 0 g.regs (r * 32 + lane)
  if v ≠ 0 then w32 (v - 1)
  else if g.header = [] then 0
  else builtinValue s g lane (Config.builtinInput g.header r)

/-- A source operand of a lane. -/
def laneSrc (s : State) (g : Group) (x : Src) (lane : Nat) : Word := match x with
  | .reg r => laneReg s g r.val lane
  | .imm w => w

/-- Lanes of a mask. -/
def lanesOf (m : Word) : List Nat := (upTo 32).filter fun i => m.getLsbD i

def maskOf (l : List Nat) : Word := l.foldl (fun m i => m ||| (1 <<< i)) 0

def popcount (m : Word) : Nat := (lanesOf m).length

/-- Writes registers of lanes. -/
def Group.write (ws : List (Nat × Nat × Word)) (g : Group) : Group :=
  { g with regs := ws.foldl (fun t w => tblSet 0 t (w.2.1 * 32 + w.1) (1 + w.2.2.toNat)) g.regs }

/-- The instruction is over: the next one follows. -/
def Group.advance (g : Group) : Group := { g with pc := g.pc + 1 }

/-- Writes a register in every active lane and advances. -/
def writeLanes (g : Group) (dst : Nat) (f : Nat → Word) (s : State) : State :=
  setGroup (g.write ((lanesOf g.am).map fun i => (i, dst, f i))).advance s

end Sys2Proof.Machine
end

