-- ==== Sys2Proof/Machine/Shader.lean ====
section
/-! DEFINITION. Shader cores and thread groups (R233 to R262). -/

namespace Sys2Proof.Machine

open Sys2Proof

/-! ## Park records and the park queue (R257, R258) -/

def parkCfg (s : State) (fn : Nat) : Nat := (s.raw fn 0x060308).toNat

/-- The queue takes records (R257). -/
def parkqOn (s : State) (fn : Nat) : Bool :=
  let c := parkCfg s fn
  bit c 31 && decide (bits c 26 16 ≠ 0) && decide (4 ≤ bits c 3 0) && decide (bits c 3 0 ≤ 12)

def parkqCnt (s : State) (fn : Nat) : QueueCnt := tblGet QueueCnt.zero s.shd.parkq fn

def setParkq (fn : Nat) (c : QueueCnt) (s : State) : State :=
  s.onShd fun x => { x with parkq := tblSet QueueCnt.zero x.parkq fn c }

def loseParkRec (fn : Nat) (s : State) : State :=
  let c := parkqCnt s fn
  setParkq fn { c with lost := c.lost + 1 } s

/-- How the write of a park record ends. -/
inductive ParkPut where
  | written (s : State)
  | full (s : State)
  | lost (s : State)

def parkqHeader (fn base : Nat) (s : State) : State :=
  let c := parkqCnt s fn
  let s := (devWrite base (natLe 8 c.prod.toNat) s).getD s
  (devWrite (base + 16) (natLe 8 c.lost.toNat) s).getD s

/-- Writes a record to a function's park queue, as key ID 0 (R257). A CONSUMER that cannot be read, or not
yet, holds the record. A violation at the queue is logged, with the context of the record (R482). -/
def parkPut (fn : Nat) (rec' : List Byte) (s : State) : ParkPut :=
  let base := s.rawBase fn 0x060300 0x060304
  let c := parkqCnt s fn
  let log2 := bits (parkCfg s fn) 3 0
  let note := noteViolation 0x80 (fld rec' 24 2)
  match devRead (base + 8) 8 s with
  | .failed => .full (note (base + 8) 8 s)
  | .wait => .full s
  | .done (bs, s) =>
    if 2 ^ log2 ≤ (c.prod - q64 (leNat bs)).toNat then .full s
    else
      let at' := base + 64 + 64 * (c.prod.toNat % 2 ^ log2)
      match devWrite at' rec' s with
      | none => .lost (parkqHeader fn base (loseParkRec fn (note at' 64 s)))
      | some s =>
        let s := parkqHeader fn base (setParkq fn { c with prod := c.prod + 1 } s)
        .written (if h : fn < 64 then raiseVec (.parkQueue ⟨fn, h⟩) fn (bits (parkCfg s fn) 26 16) s else s)

/-- A tag is in use by a park. -/
def tagUsed (s : State) (t : Nat) : Bool := s.shd.groups.any fun g => match g.park with
  | some p => decide (p.tag = t)
  | none => false

/-- The next tag that no park holds (R258). Fuel: parks there can be. -/
def nextTag (s : State) : Nat → Nat → Nat
  | 0, t => t
  | n + 1, t => if tagUsed s t then nextTag s n ((t + 1) % 2 ^ 32) else t

/-- The 64-byte park record (R257). -/
def parkRecord (s : State) (g : Group) (wgRec : Bool) (cause va seq info0 info1 tag : Nat) : List Byte :=
  let pc := (Config.pcOffset g.header g.pc).toNat
  natLe 8 g.wg ++ natLe 8 va ++ natLe 8 seq ++ natLe 2 g.ctx ++ natLe 2 (s.ctx g.ctx).gen.toNat ++
  natLe 1 g.core ++ natLe 1 g.slot ++ natLe 1 cause ++ natLe 1 (b2n wgRec) ++ natLe 4 tag ++
  natLe 4 pc ++ natLe 4 info0 ++ natLe 4 info1 ++ natLe 2 g.op.ring.val ++ natLe 2 g.op.op ++
  natLe 4 g.op.seq ++ natLe 1 (if wgRec then 0 else g.idx) ++
  natLe 1 (Nat.min 255 (g.stack.length + 16 * g.spilled.length)) ++ natLe 6 0

/-- A group parks, or every group of its workgroup does (R256, R257). With the queue off, or with a
record that cannot be written, the workgroup is killed at once. -/
def parkGroup (g : Group) (wgRec : Bool) (cause va seq info0 info1 : Nat) (s : State) : State :=
  let fn := fnOfCtx s g.ctx
  if !parkqOn s fn then killFor g cause (loseParkRec fn s)
  else
    let tag := nextTag s 4097 s.shd.tag
    let rec' := parkRecord s g wgRec cause va seq info0 info1 tag
    let p : Park := { tag, cause, wg := wgRec, since := s.time }
    let s := s.onShd fun x =>
      { x with tag := (tag + 1) % 2 ^ 32, groups := mapIf (fun h => if wgRec then h.inWg g.op g.wg else g.same h) (fun h => { h with park := some p }) x.groups }
    match parkPut fn rec' s with
    | .written s => s
    | .full s => s.onShd fun x => { x with held := x.held ++ [{ fn, core := g.core, slot := g.slot, rec' }] }
    | .lost s => killFor g cause s

/-- A group takes a fault (R55, R256): a violation pins the core; another fault writes its record and
parks the group. Under PIN_LOG_ONLY a violation fails the op alone (R385). -/
def groupFault (g : Group) (f : Flt) (va : Nat) (acc : Access) (lanes : Word) (s : State) : State :=
  let before := (s.ctx g.ctx).prod
  let s := shdSweep (masterFault f g.core g.ctx va acc g.op.ring.val g.op.seq s)
  if f.bar ∨ f.code = .keyMismatch then
    closeOps (if s.isPinned g.core then s
      else killGroup g (if f.bar then stOpError else stTransFault) (if f.bar then 3 else f.code.num) s)
  else
    let after := (s.ctx g.ctx).prod
    parkGroup g false f.code.num va (if after = before then 0 else after.toNat) g.am.toNat lanes.toNat s

/-- Held records are written when CONSUMER is found to have advanced (R257). -/
def parkRetryDo (fn : Nat) (io : HostIO) (s : State) : State :=
  let s := shdSweep (applyIO io s)
  (s.shd.held.filter fun h => h.fn = fn).foldl (fun s h =>
    if !s.shd.held.contains h then s
    else match parkPut fn h.rec' s with
      | .full s => s
      | .written s => s.onShd fun x => { x with held := x.held.erase h }
      | .lost s =>
        let s := s.onShd fun x => { x with held := x.held.erase h }
        match s.group? h.core h.slot with
        | some g => killFor g ((g.park.map (·.cause)).getD 0) s
        | none => s) s

/-! ## Leaving: exits, barriers, completion -/

/-- Threads of a workgroup that have not exited. -/
def nonExited (s : State) (o : OpRef) (w : Nat) : Nat :=
  ((wgGroups s o w).map fun g => popcount (~~~g.em)).sum

def onWg (o : OpRef) (w : Nat) (f : Workgroup → Workgroup) (s : State) : State :=
  s.onShd fun x => { x with wgs := mapIf (fun v => decide (v.op = o) && decide (v.wg = w)) f x.wgs }

/-- The barrier completes when every non-exited thread has arrived (R253). -/
def barrierCheck (o : OpRef) (w : Nat) (s : State) : State :=
  match s.shd.wgs.find? fun v => decide (v.op = o) && decide (v.wg = w) with
  | some v =>
    if v.arrived ≠ 0 ∧ v.arrived = nonExited s o w then
      (onWg o w (fun v => { v with arrived := 0 }) s).onShd fun x =>
        { x with groups := mapIf (fun g => g.inWg o w && g.waiting) (fun g => { g.advance with waiting := false }) x.groups }
    else s
  | none => s

/-- A dispatch whose workgroups have all exited completes (R240). -/
def runDone (o : OpRef) (s : State) : State :=
  match s.shdRun? o with
  | some r =>
    if r.total ≤ r.next ∧ s.shd.wgs.all (fun w => w.op ≠ o) then shdSweep (endOp o stOk 0 0 s) else s
  | none => s

/-- A group has exited: its slot and registers are free, and so is its workgroup once it is the last. -/
def groupDone (g : Group) (s : State) : State :=
  let s := dropGroup g s
  if g.role ≠ .compute then syncUnits g.op s
  else
    let s := if (wgGroups s g.op g.wg).isEmpty then
        s.onShd fun x => { x with wgs := x.wgs.filter fun w => !(decide (w.op = g.op) && decide (w.wg = g.wg)) }
      else barrierCheck g.op g.wg s
    runDone g.op (syncUnits g.op s)

/-! ## The divergence stack (R243 to R246) -/

/-- A pop that leaves the core empty starts a fill while entries are spilled (R245). -/
def Group.popped (g : Group) : Group :=
  if g.stack = [] ∧ g.spilled ≠ [] then { g with filling := true } else g

/-- JOIN; with no active lane left it joins again. Fuel: entries in the core. -/
def Group.joins : Nat → Group → Group
  | 0, g => g
  | n + 1, g => match g.stack with
    | [] => g
    | e :: st =>
      let g' := { g with stack := st, am := e.mask &&& ~~~g.em, pc := if e.path then e.pc else g.pc + 1 }
      if g'.am = 0 ∧ g'.stack ≠ [] then Group.joins n g' else g'.popped

/-- exit_lanes of R243. -/
def Group.exits (x : Word) (g : Group) : Group :=
  let g' := { g with em := g.em ||| x, am := g.am &&& ~~~x }
  if g'.am = 0 then (if g'.stack = [] then g' else Group.joins g'.stack.length g') else g'.advance

/-- No lane of the group runs again. -/
def Group.over (g : Group) : Bool := decide (g.am = 0) && decide (g.stack = []) && decide (g.spilled = [])

/-- Stores a group after a pop or an exit; one that is over is done. -/
def settleGroup (g : Group) (s : State) : State :=
  let s := setGroup g s
  if g.over then groupDone g s else if g.role = .compute then barrierCheck g.op g.wg s else s

def entPack (e : StackEnt) : Bool × Word × Nat := (e.path, e.mask, e.pc)

/-- 128 bytes of an image. -/
def image128 (bs : List Byte) : List Byte := slice bs 0 128

/-- Spill bytes of a group's slot (R238). A vertex or fragment group has no spill area (R271). -/
def spillBytes (s : State) (g : Group) : Nat := if g.role = .compute then fld (opBody s g.op) 64 4 else 0

/-- Address of chunk n of a group's spill area (R245). -/
def spillVa (b : List Byte) (g : Group) (n : Nat) : Nat :=
  fld b 56 8 + (64 * g.core + g.slot) * fld b 64 4 + 128 * n

/-- How a push ends. -/
inductive Push where
  | ok (g : Group) (s : State)
  | overflow
  | fault (f : Flt) (va : Nat) (s : State)
  | severed (s : State)
  | wait

/-- A push (R245, R246): the 33rd entry writes the oldest 16 to the spill area first. -/
def pushEnt (e : StackEnt) (g : Group) (s : State) : Push :=
  if g.stack.length < 32 then .ok { g with stack := e :: g.stack } s
  else
    let b := opBody s g.op
    let n := g.spilled.length
    if spillBytes s g / 128 ≤ n then .overflow
    else
      let old := g.stack.drop 16
      let img := image128 (Config.stackImage (old.map entPack))
      let va := spillVa b g n
      match vaWrite g.core g.ctx va img s with
      | .ok _ s => .ok { g with stack := e :: g.stack.take 16, spilled := (old, img) :: g.spilled } s
      | .fault f s => .fault f va s
      | .severed s => .severed s
      | .wait _ => .wait

/-- Most entries of a group's stack (R246). -/
def stackLimit (s : State) (g : Group) : Nat := 32 + 16 * (spillBytes s g / 128)

/-- Pushes entries in order, all or none. -/
def pushAll : List StackEnt → Group → State → Push
  | [], g, s => .ok g s
  | e :: l, g, s => match pushEnt e g s with
    | .ok g s => pushAll l g s
    | other => other

/-- Pushes for an instruction, then goes on; a push that fails parks the group unchanged. -/
def withPush (g : Group) (l : List StackEnt) (k : Group → Group) (s : State) : State :=
  match pushAll l g s with
  | .ok g' s => setGroup (k g') s
  | .overflow => parkGroup g false 0x44 0 0 g.am.toNat (stackLimit s g) s
  | .fault f va s => groupFault g f va .write g.am s
  | .severed s => killGroup g stSevered 0 s
  | .wait => s

/-- branch of R243. -/
def branchDo (cond : Src) (target rpc : Nat) (g : Group) (s : State) : State :=
  let c := maskOf ((upTo 32).filter fun i => laneSrc s g cond i ≠ 0)
  let t := g.am &&& c
  let n := g.am &&& ~~~c
  if n = 0 then setGroup { g with pc := target } s
  else if t = 0 then setGroup g.advance s
  else
    let fresh := match g.stack with
      | e :: _ => e.path || decide (e.pc ≠ rpc)
      | [] => true
    let r : StackEnt := { path := false, mask := g.am, pc := rpc }
    let p : StackEnt := { path := true, mask := n, pc := g.pc + 1 }
    withPush g (if fresh then [r, p] else [p]) (fun g => { g with am := t, pc := target }) s

/-- join of R243. On an empty stack there is nothing to pop. -/
def joinDo (g : Group) (s : State) : State :=
  if g.stack = [] then s else settleGroup (Group.joins g.stack.length g) s

/-- yield of R243. Its pop may leave the core empty, and then starts a fill as any pop does (R245). -/
def yieldDo (g : Group) (s : State) : State :=
  match g.stack with
  | e :: st =>
    if e.path then
      let w : StackEnt := { path := true, mask := g.am, pc := g.pc + 1 }
      setGroup { g with stack := w :: st, am := e.mask &&& ~~~g.em, pc := e.pc, filling := decide (st = []) && decide (g.spilled ≠ []) } s
    else setGroup g.advance s
  | [] => setGroup g.advance s

/-- A fill returns: 16 entries are back in the core. Bytes that are no longer what the spill wrote
give entries that the spec does not name (R245, R246). -/
def fillDo (core slot : Nat) (io : HostIO) (s : State) : State :=
  let s := shdSweep (applyIO io s)
  match s.group? core slot with
  | none => s
  | some g => match g.spilled with
    | [] => s
    | (es, img) :: rest =>
      if !g.filling ∨ g.park.isSome ∨ s.isPinned core ∨ !ctxRuns s g.ctx then s
      else
        let va := spillVa (opBody s g.op) g rest.length
        match vaRead g.core g.ctx va 128 .read s with
        | .ok bs s =>
          let es := if bs = img then es
            else (upTo 16).map fun i => match (Config.stackParse bs)[i]? with
              | some e => { path := e.1, mask := e.2.1, pc := e.2.2 }
              | none => { path := false, mask := 0, pc := 0 }
          let g := { g with stack := g.stack ++ es, spilled := rest, filling := false }
          settleGroup (if g.am = 0 then Group.joins g.stack.length g else g) s
        | .fault f s => groupFault g f va .read g.am s
        | .severed s => killGroup g stSevered 0 s
        | .wait s => s

/-! ## Issue -/

/-- A group can issue (R241): resident, ready, its core running, its context running work. -/
def canIssue (s : State) (g : Group) : Bool :=
  g.park.isNone && !g.waiting && !g.filling && g.load.isNone && !s.isPinned g.core &&
  decide (s.power (8 + g.core) = .on) && ctxRuns s g.ctx

/-- Fetches the instruction at a group's PC through a page with X (R238): its first byte is read. -/
def fetchAt (g : Group) (s : State) : Nat × Res (List Byte) :=
  let va := g.code + (Config.pcOffset g.header g.pc).toNat
  (va, vaRead g.core g.ctx va 1 .exec s)

/-- An instruction of a group: it is fetched, and acts. -/
def issue (r : GroupRef) (f : Group → State → State) (s : State) : State :=
  let s := shdSweep s
  match s.group? r.core.val r.slot.val with
  | none => s
  | some g =>
    if !canIssue s g then s
    else
      let (va, x) := fetchAt g s
      match x with
      | .ok _ s => f g s
      | .fault e s => groupFault g e va .exec g.am s
      | .severed s => killGroup g stSevered 0 s
      | .wait s => s

/-! ## Dispatch (R238 to R240) -/

def dtShape : Nat := 0x48
def dtResource : Nat := 0x49
def dtCode : Nat := 0x4A
def dtField : Nat := 0x4B

/-- Threads and groups of a workgroup (R233). -/
def wgThreads (b : List Byte) : Nat := let (x, y, z) := wgDims b; x * y * z
def wgGroupCount (b : List Byte) : Nat := (wgThreads b + 31) / 32

/-- A dispatch's grid. -/
def gridBad (gx gy gz : Nat) : Bool :=
  decide (gx = 0) || decide (gy = 0) || decide (65535 < gy) || decide (gz = 0) || decide (65535 < gz)

/-- The checks of R239 that need only the record; the first that fails. -/
def dispatchCheck (b : List Byte) (indirect : Bool) : Option Nat :=
  let t := wgThreads b
  let regs := fld b 50 1
  let bl := fld b 51 1
  let sh := fld b 52 4
  let spVa := fld b 56 8
  let sp := fld b 64 4
  let cVa := fld b 24 8
  let cn := fld b 68 4
  let gridSet := decide (fld b 32 12 ≠ 0)
  if (!indirect && gridBad (fld b 32 4) (fld b 36 4) (fld b 40 4)) ∨ t = 0 ∨ 1024 < t then some dtShape
  else if regs < 8 ∨ sh % 1024 ≠ 0 ∨ 131072 < sh ∨ 64 < ((wgGroupCount b + 3) / 4) * ((regs + 7) / 8) ∨ 255 < regs then some dtResource
  else if fld b 16 8 % 256 ≠ 0 ∨ cVa % 16 ≠ 0 ∨ spVa % 128 ≠ 0 ∨ (indirect ∧ fld b 72 8 % 16 ≠ 0) ∨
      (bl ≠ 0 ∧ (bl < 16 ∨ 30 < bl)) ∨ sp % 128 ≠ 0 ∨ 4096 < sp ∨ (spVa = 0 ∧ sp ≠ 0) ∨ (spVa ≠ 0 ∧ sp = 0) ∨
      cn % 16 ≠ 0 ∨ 65536 < cn ∨ (cVa = 0 ∧ cn ≠ 0) ∨ (indirect ∧ gridSet) then some dtField
  else none

/-- A read of the front end for a dispatch; a fault ends the op (R239). -/
def dispatchRead (o : OpRef) (ctx va n : Nat) (k : List Byte → State → State) (s : State) : State :=
  match feRead ctx va n s with
  | .ok bs s => k bs s
  | .fault f s => let (d, s) := feFault f ctx s; endOp o stTransFault d 0 s
  | .severed s => endOp o stSevered 0 0 s
  | .wait s => s

/-- The dispatch starts over a grid. -/
def startDispatch (o : OpRef) (ctx : Nat) (hdr : List Byte) (gx gy gz : Nat) (s : State) : State :=
  let r : ShdRun := { op := o, ctx, header := hdr, gx, gy, total := gx * gy * gz, next := 0, cores := [], stopping := false }
  s.onShd fun x => { x with runs := x.runs ++ [r] }

/-- DISPATCH or DISPATCH_INDIRECT is checked and starts (R239). -/
def shdStart (indirect : Bool) (o : OpRef) (e : Entry) (p : Op) (s : State) : State :=
  let b := p.body
  if (s.shdRun? o).isSome then s
  else if !zeros b 80 16 ∨ (!indirect ∧ fld b 72 8 ≠ 0) then endOp o stBadRecord 0 0 s
  else match dispatchCheck b indirect with
    | some d => endOp o stOpError d 0 s
    | none => dispatchRead o e.ctx (fld b 16 8) 64 (fun hdr s =>
        let (known, minRegs, minShared) := Config.codeHeader hdr
        if !known ∨ fld b 50 1 < minRegs ∨ fld b 52 4 < minShared then endOp o stOpError dtCode 0 s
        else if indirect then
          dispatchRead o e.ctx (fld b 72 8) 12 (fun g s =>
            let gx := fld g 0 4
            let gy := fld g 4 4
            let gz := fld g 8 4
            if gx = 0 ∨ gy = 0 ∨ gz = 0 then endOp o stOk 0 0 s
            else if gridBad gx gy gz then endOp o stOpError dtShape 0 s
            else startDispatch o e.ctx hdr gx gy gz s) s
        else startDispatch o e.ctx hdr (fld b 32 4) (fld b 36 4) (fld b 40 4) s) s

/-! ## Placement (R233 to R237) -/

def coreGroups (s : State) (k : Nat) : List Group := s.shd.groups.filter fun g => g.core = k

/-- Granules that an engine's groups take. -/
def engineUsed (s : State) (k e : Nat) : Nat :=
  (((coreGroups s k).filter fun g => g.idx % 4 = e).map (·.gran)).sum

def engineCount (s : State) (k e : Nat) : Nat := ((coreGroups s k).filter fun g => g.idx % 4 = e).length

/-- Groups of a workgroup of n on engine e. -/
def engineShare (n e : Nat) : Nat := (n + 3 - e) / 4

/-- Every engine of a core has room for its groups (R234). -/
def engineRoom (s : State) (k n gran : Nat) : Bool :=
  (upTo 4).all fun e => decide (engineCount s k e + engineShare n e ≤ 16) &&
    decide (engineUsed s k e + engineShare n e * gran ≤ 64)

/-- Owner-table number of a core's tile-memory region. -/
def tileRegion (k r : Nat) : Nat := 2048 + k * 4 + r

/-- Allocations of a core's tile memory: first KiB, size in KiB, context (R236, R283). -/
def tileAllocs (s : State) (k : Nat) : List (Nat × Nat × Nat) :=
  ((s.rnd.tiles.filter fun t => t.core = k).map fun t => (t.base, t.size, t.ctx)) ++
  (s.shd.wgs.filter fun w => w.core = k).map fun w => (w.base, w.size, w.ctx)

/-- A stretch of a core's tile memory may be allocated to a context: no allocation overlaps it, and
its regions serve no other context (R236). -/
def tileFits (s : State) (allocs : List (Nat × Nat × Nat)) (k ctx base size : Nat) : Bool :=
  decide (base + size ≤ 256) &&
  allocs.all (fun a => decide (a.1 + a.2.1 ≤ base) || decide (base + size ≤ a.1)) &&
  (upTo 4).all fun r =>
    decide (base + size ≤ 64 * r) || decide (64 * (r + 1) ≤ base) ||
    ((decide (s.owner (tileRegion k r) = 0) || decide (s.owner (tileRegion k r) = ctx)) &&
      allocs.all fun a => decide (a.2.1 = 0) || decide (a.1 + a.2.1 ≤ 64 * r) || decide (64 * (r + 1) ≤ a.1) ||
        decide (a.2.2 = ctx))

/-- The lowest place for an allocation of a core's tile memory. -/
def tilePlace (s : State) (k ctx size : Nat) : Option Nat :=
  if size = 0 then some 0
  else (upTo 257).find? fun b => tileFits s (tileAllocs s k) k ctx b size

/-- A core that may take work of a mask. -/
def coreOpen (s : State) (mask k : Nat) : Bool :=
  bit mask (k / 8) && decide (s.power (k / 8) = .on) && decide (s.power (8 + k) = .on) && clkCluster s (k / 8) && clkCore s k && coreUp s k && !s.isPinned k

/-- The core that takes the next workgroup (R237), with the place of its shared memory. -/
def placeCore (s : State) (mask ctx n gran shared : Nat) : Option (Nat × Nat) :=
  (upTo 64).foldl (fun best k =>
    if coreOpen s mask k ∧ engineRoom s k n gran then
      match tilePlace s k ctx shared with
      | some b => match best with
        | some (k', _) => if (coreGroups s k).length < (coreGroups s k').length then some (k, b) else best
        | none => some (k, b)
      | none => best
    else best) none

/-- Changes the lines of the L1s, those that loads on their way bring too (R250). -/
def onL1 (f : List L1Line → List L1Line) (s : State) : State :=
  s.onShd fun x => { x with l1 := f x.l1, groups := x.groups.map fun g => { g with load := g.load.map fun w => { w with lines := f w.lines } } }

/-- The core's L1 drops lines of a context (R250). -/
def l1Drop (k ctx : Nat) (s : State) : State :=
  onL1 (fun ls => ls.filter fun l => !(decide (l.core = k) && decide (l.ctx = ctx))) s

/-- The lowest free slots of a core. -/
def freeSlots (s : State) (k n : Nat) : List Nat :=
  ((upTo 64).filter fun i => (s.group? k i).isNone).take n

/-- The next workgroup of a dispatch becomes resident (R233 to R237). -/
def placeWorkgroup (o : OpRef) (s : State) : State :=
  let s := shdSweep s
  match s.shdRun? o, s.op? o with
  | some r, some (_, p) =>
    let resident := s.shd.wgs.any fun w => w.op = o
    if r.total ≤ r.next ∨ (r.stopping ∧ resident) ∨ (!resident ∧ yields s o) ∨ !ctxRuns s r.ctx then s
    else
      let b := p.body
      let n := wgGroupCount b
      let gran := (fld b 50 1 + 7) / 8
      match placeCore s p.emask r.ctx n gran (fld b 52 4 / 1024) with
      | none => s
      | some (k, base) =>
        let s := if r.cores.contains k then s else l1Drop k r.ctx s
        let slots := freeSlots s k n
        let threads := wgThreads b
        let groups := (upTo n).map fun i =>
          let lanes := maskOf ((upTo 32).filter fun l => i * 32 + l < threads)
          { core := k, slot := slots.getD i 0, op := o, ctx := r.ctx, role := .compute, code := fld b 16 8, header := r.header, const := fld b 24 8, helper := 0, wg := r.next, idx := i, gran, am := lanes, em := ~~~lanes, pc := 0, stack := [], spilled := [], inputs := [], regs := [], placed := s.time, idle := 0, waiting := false, filling := false, load := none, park := none }
        let w : Workgroup := { op := o, wg := r.next, core := k, arrived := 0, base, size := fld b 52 4 / 1024, ctx := r.ctx }
        let r' := { r with next := r.next + 1, stopping := false, cores := if r.cores.contains k then r.cores else r.cores ++ [k] }
        syncUnits o (s.onShd fun x => { x with runs := mapIf (fun q => q.op = o) (fun _ => r') x.runs, wgs := x.wgs ++ [w], groups := x.groups ++ groups })
  | _, _ => s

/-! ## Arithmetic (R242) -/

def fp32Do (ftz : Bool) (op : FpOp) (a b c : Word) : Word :=
  let v := fun (w : Word) => fp32Val ftz w.toNat
  w32 (fp32Code (match op with
    | .add => (fpAdd false ftz (v a) (v b)).val
    | .mul => (fpMul false ftz (v a) (v b)).val
    | .fma => (fpFma false ftz (v a) (v b) (v c)).val
    | .div => (fpDiv false ftz (v a) (v b)).val
    | .sqrt => (fpSqrt ftz (v a)).val
    | .max => (fpMax (v a) (v b)).val
    | .min => (fpMin (v a) (v b)).val))

def transCode : TransOp → Nat
  | .rcp => fnRecip | .rsqrt => fnRsqrt | .exp2 => fnExp2 | .log2 => fnLog2 | .sin => fnSin | .cos => fnCos

def transDo (ftz : Bool) (op : TransOp) (a : Word) : Word :=
  w32 (fp32Code (elementFn (transCode op) false ftz (fp32Val ftz a.toNat)).val)

/-- Integer instructions of R242. -/
def intDo (op : IntOp) (a b : Word) : Word :=
  match op with
  | .add => a + b
  | .sub => a - b
  | .and => a &&& b
  | .or => a ||| b
  | .xor => a ^^^ b
  | .mulLo => a * b
  | .mulHiU => w32 (a.toNat * b.toNat / 2 ^ 32)
  | .mulHiS => BitVec.ofInt 32 ((a.toInt * b.toInt) / 2 ^ 32)
  | .shl => a <<< (b.toNat % 32)
  | .shrU => a >>> (b.toNat % 32)
  | .shrS => a.sshiftRight (b.toNat % 32)
  | .divU => if b = 0 then 0xFFFFFFFF else a / b
  | .remU => if b = 0 then a else a % b
  | .divS => if b = 0 then 0xFFFFFFFF else a.sdiv b
  | .remS => if b = 0 then a else a.srem b

/-- Truncation toward zero. -/
def Val.trunc : Val → Val
  | .fin n m e => if 0 ≤ e then .fin n m e else .fin n (m / 2 ^ (-e).toNat) 0
  | v => v

/-- Code of a float converted to an integer format (R130, R138, R139, R242). -/
def toIntCode (trunc ftz : Bool) (fmt : Nat) (lo hi : Int) (a : Word) : Nat :=
  let v := fp32Val ftz a.toNat
  (encodeInt lo hi (fmtWidth fmt) (if trunc then v.trunc else v)).val

/-- Writes a code of w bits in every active lane. The spec does not state a register's bits above a
narrower code: they are free. -/
def writeCodes (g : Group) (dst w : Nat) (f : Nat → Nat) (s : State) : State :=
  if 32 ≤ w then writeLanes g dst (fun i => w32 (f i)) s
  else
    let n := s.free
    let s := { s with free := n + 32 }
    writeLanes g dst (fun i => (w32 (f i) &&& w32 (2 ^ w - 1)) ||| ((Config.freeValue (n + i)).setWidth 32 <<< w)) s

/-- Float to integer; an operand that names no integer format is no instruction. -/
def toIntDo (trunc : Bool) (fmt dst : Nat) (a : Src) (g : Group) (s : State) : State :=
  match intFmt fmt with
  | some (lo, hi) => writeCodes g dst (fmtWidth fmt) (fun i => toIntCode trunc (s.ctx g.ctx).ftz fmt lo hi (laneSrc s g a i)) s
  | none => s

/-- The 16-bit draw of a shader's SR conversion (R242). -/
def srDraw (seed p : Word) : Nat :=
  let x := seed ^^^ (0x9E3779B9 * p)
  (step16 (if x = 0 then 1 else x)).toNat % 65536

/-- SR conversion to a format of R134. -/
def srConvDo (fmt : Nat) (sat : Bool) (dst : Nat) (a seed pos : Src) (g : Group) (s : State) : State :=
  let ftz := (s.ctx g.ctx).ftz
  if srFmt fmt then
    writeCodes g dst (fmtWidth fmt) (fun i => (encodeElem fmt (some (srDraw (laneSrc s g seed i) (laneSrc s g pos i))) sat ftz (fp32Val ftz (laneSrc s g a i).toNat)).val) s
  else s

/-! ## Shuffles and votes (R247, R248) -/

/-- Source lane of lane i. -/
def shuffleLane (s : State) (g : Group) (form : ShuffleForm) (w i : Nat) : Nat :=
  let seg := i / w * w
  match form with
  | .indexed idx => seg + (laneSrc s g idx i).toNat % w
  | .up d => if d < w ∧ seg + d ≤ i then i - d else i
  | .down d => if d < w ∧ i + d < seg + w then i + d else i
  | .xor m => i ^^^ (m.toNat % w)

def voteDo (kind : VoteKind) (am holds : Word) : Word :=
  match kind with
  | .any => if holds = 0 then 0 else 1
  | .all => if holds = am then 1 else 0
  | .ballot => holds

/-! ## Memory (R249 to R252) -/

/-- A lane's access after translation: lane, address, physical address, attributes. -/
structure LaneAcc where
  lane : Nat
  va   : Nat
  pa   : Nat
  attr : Attr

/-- How the checks of a memory instruction end. -/
inductive Checked where
  | ok (l : List LaneAcc) (s : State)
  | fault (f : Flt) (va : Nat) (lanes : Word) (s : State)
  | severed (s : State)
  | wait (s : State)

/-- How a request goes at its target: it faults there, ends SEVERED, waits, or is served. -/
inductive Reach where
  | served
  | fault (f : Flt)
  | severed
  | wait

/-- The check at a lane's target that the core makes at translation (R249): gated windows, clearing
regions, region owners, and the links and units on the way. -/
def reach (s : State) (ctx : Nat) (a : Attr) (pa : Nat) (isWrite : Bool) : Reach :=
  let d := lineDie s (pa / 128)
  let t := target s pa
  match t with
  | .unmapped => .fault (accFault s .unmappedPa pa)
  | .pkg _ _ => match dieGate s a.die d with
    | some true => .severed
    | some false => .wait
    | none => .served
  | .host _ => if hostGate s a.die d then .wait else .served
  | .spm _ _ | .tile _ _ => match windowGate s a.die t with
    | some (some c, _) => .fault (accFault s c pa)
    | some (none, true) => .severed
    | some (none, false) => .wait
    | none => if (ownerCheck s ctx a.key (regionOf t) isWrite).isNone then .fault (accFault s .keyMismatch pa) else .served

/-- The checks of the lanes so far: their accesses, the lowest lane's fault with every faulting lane, and
whether a request ends SEVERED or waits. -/
structure LaneChecks where
  accs    : List LaneAcc
  first   : Option (Flt × Nat × Word)
  severed : Bool
  waits   : Bool

/-- A lane faults. -/
def LaneChecks.bad (r : LaneChecks) (lane va : Nat) (f : Flt) : LaneChecks :=
  match r.first with
  | some (f0, va0, m) => { r with first := some (f0, va0, m ||| (1 <<< lane)) }
  | none => { r with first := some (f, va, 1 <<< lane) }

/-- Translates one lane's address and checks its target. -/
def checkLane (g : Group) (acc : Access) (a : Nat × Nat) (r : LaneChecks) (s : State) : LaneChecks × State :=
  match xlate g.core g.ctx a.2 acc s with
  | .ok leaf s =>
    let pa := leaf.base + (a.2 - leaf.va)
    let x := { r with accs := r.accs ++ [{ lane := a.1, va := a.2, pa, attr := leaf.attr g.core }] }
    match reach s g.ctx (leaf.attr g.core) pa (decide (acc ≠ .read)) with
    | .served => (x, s)
    | .fault f => (r.bad a.1 a.2 f, s)
    | .severed => ({ x with severed := true }, s)
    | .wait => ({ x with waits := true }, s)
  | .fault f s => (r.bad a.1 a.2 f, s)
  | .severed s => ({ r with severed := true }, s)
  | .wait s => ({ r with waits := true }, s)

/-- Translates every active lane's address before any access (R249). Of several faults the lowest
lane's is taken, and every faulting lane is shown. -/
def checkLanes (g : Group) (acc : Access) (addrs : List (Nat × Nat)) (s : State) : Checked :=
  let (r, s) := addrs.foldl (fun (r : LaneChecks × State) a => checkLane g acc a r.1 r.2)
    ({ accs := [], first := none, severed := false, waits := false }, s)
  match r.first with
  | some (f, va, m) => .fault f va m s
  | none => if r.severed then .severed s else if r.waits then .wait s else .ok r.accs s

/-- Address of a lane. -/
def laneAddr (s : State) (g : Group) (lo hi : Src) (i : Nat) : Nat :=
  (laneSrc s g lo i).toNat + 2 ^ 32 * (laneSrc s g hi i).toNat

/-- Lanes that make an instruction's access: every active lane, but a helper lane writes nothing (R286). -/
def accLanes (g : Group) (acc : Access) : List Nat := lanesOf (if acc = .read then g.am else g.am &&& ~~~g.helper)

def activeAddrs (s : State) (g : Group) (acc : Access) (lo hi : Src) : List (Nat × Nat) :=
  (accLanes g acc).map fun i => (i, laneAddr s g lo hi i)

/-- Alignment first, then translation; what fails parks the group or pins the core (R249). -/
def withLanes (g : Group) (acc : Access) (size : Nat) (lo hi : Src) (k : List LaneAcc → State → State)
    (s : State) : State :=
  let addrs := activeAddrs s g acc lo hi
  let odd := addrs.filter fun a => a.2 % size ≠ 0
  match odd with
  | (_, va) :: _ => parkGroup g false 0x40 va 0 g.am.toNat (maskOf (odd.map (·.1))).toNat s
  | [] => match checkLanes g acc addrs s with
    | .ok l s => k l s
    | .fault f va m s => groupFault g f va acc m s
    | .severed s => killGroup g stSevered 0 s
    | .wait s => s

/-- The L1 holds lines of write-back and write-through pages of package and host memory (R250). -/
def l1Cached (s : State) (a : LaneAcc) : Bool :=
  decide (a.attr.cache ≤ 1) && match target s a.pa with
    | .pkg _ _ => true
    | .host _ => true
    | _ => false

/-- A line that the core's L1 still holds for the group; replacement is the device's own, so whether
it still holds it is open. -/
def l1Find (s : State) (g : Group) (a : LaneAcc) : Option L1Line :=
  s.shd.l1.find? fun l => decide (l.core = g.core) && decide (l.ctx = g.ctx) && decide (l.key = a.attr.key) &&
    decide (l.line = a.pa / 128)

/-- A lane's read: through the L1 where it holds the line, else from the target; the line is then a
candidate for the L1. -/
def laneRead (g : Group) (n : Nat) (a : LaneAcc) (s : State) : Acc (List Byte × Option L1Line) :=
  if l1Cached s a then
    let (hit, s) := match l1Find s g a with
      | some l => let (v, s) := s.fresh; (if v.getLsbD 0 then some l else none, s)
      | none => (none, s)
    match hit with
    | some l => .ok (slice l.data (a.pa % 128) n, none) s
    | none => match paRead g.ctx a.attr (a.pa / 128 * 128) 128 s with
      | .ok bs s =>
        .ok (slice bs (a.pa % 128) n, some { core := g.core, ctx := g.ctx, key := a.attr.key, line := a.pa / 128, data := bs }) s
      | .fault c s => .fault c s
      | .severed => .severed
      | .wait => .wait
  else match paRead g.ctx a.attr a.pa n s with
    | .ok bs s => .ok (bs, none) s
    | .fault c s => .fault c s
    | .severed => .severed
    | .wait => .wait

/-- Lines of the L1 of 128 KiB. -/
def l1Lines : Nat := 1024

/-- The L1 takes lines; the oldest of a core leave when it is full. -/
def l1Take (core : Nat) (ls : List L1Line) (s : State) : State :=
  s.onShd fun x =>
    let same := fun (a b : L1Line) => decide (a.core = b.core) && decide (a.ctx = b.ctx) && decide (a.key = b.key) && decide (a.line = b.line)
    let kept := x.l1.filter fun l => !(ls.any fun m => same l m)
    let mine := (kept ++ ls).filter fun l => l.core = core
    let others := kept.filter fun l => l.core ≠ core
    { x with l1 := others ++ mine.drop (mine.length - l1Lines) }

/-- A write updates the lines that the core's L1 holds (R250). -/
def l1Update (core key pa : Nat) (bs : List Byte) (s : State) : State :=
  onL1 (mapIf (fun l => decide (l.core = core) && decide (l.key = key) && decide (l.line = pa / 128)) fun l => { l with data := splice l.data (pa % 128) bs }) s

/-- An atomic leaves no copy of its word in the core's L1. -/
def l1Forget (core pa : Nat) (s : State) : State :=
  onL1 (fun ls => ls.filter fun l => !(decide (l.core = core) && decide (l.line = pa / 128))) s

/-- Register writes of one lane's loaded bytes. A value below 4 bytes fills the low bytes; the spec
does not state the register's other bits. -/
def loadWrites (dst lane size : Nat) (bs : List Byte) (high : Word) : List (Nat × Nat × Word) :=
  (upTo ((size + 3) / 4)).map fun j =>
    let v := w32 (fld bs (4 * j) 4)
    (lane, dst + j, if size < 4 then v ||| (high <<< (8 * size)) else v)

/-- Free bits for the upper part of short loads. -/
def highBits (size : Nat) (s : State) : Word × State :=
  if size < 4 then let (v, s) := s.fresh; (v.setWidth 32, s) else (0, s)

/-- The reads of a load, lane by lane (R249). -/
def loadLanes (g : Group) (dst size : Nat) (l : List LaneAcc) (s : State) : Acc LoadWait :=
  l.foldl (fun r a => match r with
    | .ok w s => match laneRead g size a s with
      | .ok (bs, line) s =>
        let (h, s) := highBits size s
        let host := match target s a.pa with
          | .host _ => w.host ||| (1 <<< a.lane)
          | _ => w.host
        let first := w.host = 0 ∧ host ≠ 0
        .ok { w with writes := w.writes ++ loadWrites dst a.lane size bs h, host, va := if first then a.va else w.va, pa := if first then a.pa else w.pa, lines := w.lines ++ line.toList } s
      | .fault c s => .fault c s
      | .severed => .severed
      | .wait => .wait
    | other => other) (.ok { id := 0, vas := l.map (·.va), writes := [], host := 0, va := 0, pa := 0, lines := [] } s)

/-- A group's load or returning atomic is on its way, under the next number (R54, R241, R256). -/
def beginLoad (g : Group) (w : LoadWait) (s : State) : State :=
  setGroup { g with load := some { w with id := s.shd.loadNo } } (s.onShd fun x => { x with loadNo := x.loadNo + 1 })

/-- The group waits for its data. -/
def waitLoad (g : Group) (r : Acc LoadWait) (s0 : State) : State :=
  match r with
  | .ok w s => beginLoad g w s
  | .severed => killGroup g stSevered 0 s0
  | _ => s0

/-- No read of the host fails before its response says so. -/
def hostQuiet (s : State) : State := s.onMem fun m => { m with hostErr := [] }

/-- The shared memory of a group's workgroup: first byte in its core's tile memory, and size. -/
def sharedOf (s : State) (g : Group) : Nat × Nat :=
  match s.shd.wgs.find? fun w => decide (w.op = g.op) && decide (w.wg = g.wg) with
  | some w => (w.base * 1024, w.size * 1024)
  | none => (0, 0)

/-- Lanes' accesses to shared memory, by offset; those beyond the allocation are left out. -/
def sharedLanes (s : State) (g : Group) (acc : Access) (size : Nat) (lo : Src) : List LaneAcc :=
  let (base, n) := sharedOf s g
  ((accLanes g acc).filter fun i => (laneSrc s g lo i).toNat + size ≤ n).map fun i =>
    let o := (laneSrc s g lo i).toNat
    { lane := i, va := o, pa := 0x8100000000 + g.core * 0x40000 + base + o, attr := { key := g.ctx, cache := 3, fbc := false, die := masterDie g.core } }

/-- Alignment and owners of a shared-memory instruction (R197, R236, R249). -/
def withShared (g : Group) (acc : Access) (size : Nat) (lo : Src) (k : List LaneAcc → State → State)
    (s : State) : State :=
  let odd := (accLanes g acc).filter fun i => (laneSrc s g lo i).toNat % size ≠ 0
  match odd with
  | i :: _ => parkGroup g false 0x40 (laneSrc s g lo i).toNat 0 g.am.toNat (maskOf odd).toNat s
  | [] =>
    let l := sharedLanes s g acc size lo
    -- every access lies in one allocation of the core's own tile memory: the first that is not served decides
    match l.findSome? fun a => match reach s g.ctx a.attr a.pa (decide (acc ≠ .read)) with
      | .served => none
      | r => some (a, r) with
    | some (a, .fault f) => groupFault g f a.va acc (1 <<< a.lane) s
    | some (_, .severed) => killGroup g stSevered 0 s
    | some _ => s
    | none => k l s

/-- Lanes whose shared access lies beyond the allocation read free values. -/
def sharedMisses (g : Group) (dst size : Nat) (l : List LaneAcc) (s : State) : List (Nat × Nat × Word) × State :=
  ((lanesOf g.am).filter fun i => l.all fun a => a.lane ≠ i).foldl (fun (r : List (Nat × Nat × Word) × State) i =>
    (upTo ((size + 3) / 4)).foldl (fun r j => let (v, s) := r.2.fresh; (r.1 ++ [(i, dst + j, v.setWidth 32)], s)) r) ([], s)

def loadDo (sp : MemSpace) (dst : Nat) (lo hi : Src) (size : Nat) (g : Group) (s : State) : State :=
  match sp with
  | .va => withLanes g .read size lo hi (fun l s => let s := hostQuiet s; waitLoad g (loadLanes g dst size l s) s) s
  | .shared => withShared g .read size lo (fun l s =>
      match loadLanes g dst size l s with
      | .ok w s =>
        let (ws, s) := sharedMisses g dst size l s
        beginLoad g { w with vas := [], writes := w.writes ++ ws } s
      | _ => s) s

/-- Bytes that a lane stores. -/
def storeBytes (s : State) (g : Group) (src size lane : Nat) : List Byte :=
  ((upTo ((size + 3) / 4)).flatMap fun j => natLe 4 (laneReg s g (src + j) lane).toNat).take size

/-- Two lanes of one store name the same bytes. -/
def overlapping (l : List LaneAcc) : Bool := !decide (l.map (·.pa)).Nodup

/-- Lanes of a store in the order in which they land. Lanes that name the same bytes land in an order
that the spec leaves open. -/
def storeOrder (l : List LaneAcc) (s : State) : List LaneAcc × State :=
  if overlapping l then
    let (v, s) := s.fresh
    let k := v.toNat % l.length
    (l.drop k ++ l.take k, s)
  else (l, s)

/-- One lane's write, and the L1's copy. -/
def laneWrite (g : Group) (a : LaneAcc) (bs : List Byte) (s : State) : State :=
  match paWrite g.ctx a.attr a.pa bs s with
  | .ok _ s => l1Update g.core a.attr.key a.pa bs s
  | .fault _ s => s
  | _ => s

/-- Every lane stores, then the group goes on. -/
def storeLanes (g : Group) (src size : Nat) (l : List LaneAcc) (s : State) : State :=
  let (l, s) := storeOrder l s
  let s := l.foldl (fun s a => laneWrite g a (storeBytes s g src size a.lane) s) s
  setGroup g.advance s

def storeDo (sp : MemSpace) (src : Nat) (lo hi : Src) (size : Nat) (g : Group) (s : State) : State :=
  match sp with
  | .va => withLanes g .write size lo hi (storeLanes g src size) s
  | .shared => withShared g .write size lo (storeLanes g src size) s

/-! ## Atomics (R251, R252) -/

def atomSize : AtomType → Nat
  | .int64 | .uint64 => 8
  | _ => 4

/-- Signed value of a word of n bytes. -/
def signedOf (n v : Nat) : Int := if v < 2 ^ (8 * n - 1) then (v : Int) else (v : Int) - 2 ^ (8 * n)

/-- The word after one lane's update. -/
def atomApply (ftz : Bool) (op : AtomOp) (ty : AtomType) (old x cmp : Nat) : Nat :=
  let n := atomSize ty
  let lt := fun (a b : Nat) => match ty with
    | .int32 | .int64 => decide (signedOf n a < signedOf n b)
    | _ => decide (a < b)
  match op with
  | .add => match ty with
    | .fp32 => fp32Code (fpAdd false ftz (fp32Val ftz old) (fp32Val ftz x)).val
    | _ => (old + x) % 2 ^ (8 * n)
  | .min => match ty with
    | .fp32 => fp32Code (fpMin (fp32Val ftz old) (fp32Val ftz x)).val
    | _ => if lt x old then x else old
  | .max => match ty with
    | .fp32 => fp32Code (fpMax (fp32Val ftz old) (fp32Val ftz x)).val
    | _ => if lt old x then x else old
  | .and => old &&& x
  | .or => old ||| x
  | .xor => old ^^^ x
  | .exch => x
  | .cmpxchg => if old = cmp then x else old

/-- A value of n bytes from the registers from r on. -/
def regValue (s : State) (g : Group) (r n lane : Nat) : Nat :=
  (laneReg s g r lane).toNat + (if n = 8 then 2 ^ 32 * (laneReg s g (r + 1) lane).toNat else 0)

/-- Every lane's update in lane order, each against what the lanes before it left: lanes of one
address are one indivisible operation (R252). Answers the returned values. -/
def atomLanes (g : Group) (op : AtomOp) (ty : AtomType) (operand compare : Nat) (l : List LaneAcc)
    (s : State) : List (Nat × Nat) × State :=
  let n := atomSize ty
  l.foldl (fun r a =>
    match paRead g.ctx a.attr a.pa n r.2 with
    | .ok bs s =>
      let old := leNat bs
      let new := atomApply (s.ctx g.ctx).ftz op ty old (regValue s g operand n a.lane) (regValue s g compare n a.lane)
      match paWrite g.ctx a.attr a.pa (natLe n new) s with
      | .ok _ s => (r.1 ++ [(a.lane, old)], l1Forget g.core a.pa s)
      | _ => r
    | _ => r) ([], s)

/-- The updates, and after them the returned values, which come with the response; without any the group
goes on. A lane without an access reads a free value. -/
def atomEnd (g : Group) (op : AtomOp) (ty : AtomType) (ret : Option Nat) (operand compare : Nat) (l : List LaneAcc)
    (vas : List Nat) (s : State) : State :=
  let n := atomSize ty
  let (olds, s) := atomLanes g op ty operand compare l s
  match ret with
  | none => setGroup g.advance s
  | some d =>
    let (extra, s) := sharedMisses g d n l s
    let ws := olds.flatMap fun o => loadWrites d o.1 n (natLe n o.2) 0
    beginLoad g { id := 0, vas, writes := ws ++ extra, host := 0, va := 0, pa := 0, lines := [] } s

def atomicDo (sp : MemSpace) (op : AtomOp) (ty : AtomType) (ret : Option Nat) (lo hi : Src)
    (operand compare : Nat) (g : Group) (s : State) : State :=
  let n := atomSize ty
  match sp with
  | .va => withLanes g .atomic n lo hi (fun l s =>
      let bad := l.filter fun a => match target s a.pa with
        | .host _ => true
        | .pkg _ _ => a.attr.fbc
        | _ => false
      match bad with
      | a :: _ => parkGroup g false 0x45 a.va 0 g.am.toNat (maskOf (bad.map (·.lane))).toNat s
      | [] => atomEnd g op ty ret operand compare l (l.map (·.va)) s) s
  | .shared => withShared g .atomic n lo (fun l s => atomEnd g op ty ret operand compare l [] s) s

/-- MEMORY_RESPONSE: the data arrives and the group is ready, or a host read that ended with a PCIe
error parks it and replay repeats the instruction (R256). -/
def responseDo (core slot : Nat) (err : Bool) (s : State) : State :=
  let s := shdSweep s
  match s.group? core slot with
  | none => s
  | some g => match g.load with
    | none => s
    | some w =>
      if g.park.isSome ∨ s.isPinned core ∨ !ctxRuns s g.ctx then s
      else if err ∧ w.host ≠ 0 then
        let g := { g with load := none }
        groupFault g { code := .hostError, level := 0xFF, pa := w.pa, key := 0, bar := false, va := none } w.va .read w.host (setGroup g s)
      else l1Take core w.lines (setGroup ({ g with load := none }.write w.writes).advance s)

/-! ## Barriers (R253, R254)

A vertex or fragment group shares no barrier with another: one that all its lanes reach lets it go on. -/

def barrierDo (g : Group) (s : State) : State :=
  if g.role ≠ .compute then setGroup (if g.am = ~~~g.em then g.advance else { g with waiting := true }) s
  else
  let s := onWg g.op g.wg (fun w => { w with arrived := w.arrived + popcount g.am }) s
  barrierCheck g.op g.wg (setGroup { g with waiting := true } s)

/-- BARRIER_TIMEOUT: every group of the workgroup parks, with one record (R254). The timer does not
count while a group of the workgroup is parked. -/
def barrierTimeoutDo (core slot : Nat) (s : State) : State :=
  let s := shdSweep s
  match s.group? core slot with
  | none => s
  | some g =>
    if g.role ≠ .compute then
      (if g.waiting ∧ g.park.isNone ∧ !s.isPinned core ∧ ctxRuns s g.ctx then
        parkGroup g false 0x42 0 0 (popcount g.am) (popcount (~~~g.em)) s else s)
    else
    let gs := wgGroups s g.op g.wg
    match s.shd.wgs.find? fun w => decide (w.op = g.op) && decide (w.wg = g.wg) with
    | some w =>
      if w.arrived = 0 ∨ gs.any (·.park.isSome) ∨ s.isPinned core ∨ !ctxRuns s g.ctx then s
      else
        let low := gs.foldl (fun a b => if b.slot < a.slot then b else a) g
        parkGroup low true 0x42 0 0 w.arrived (nonExited s g.op g.wg) s
    | none => s

/-! ## Park commands (R258, R259), the watchdog (R260) -/

/-- The groups of a function's current park with a tag. -/
def parkedBy (s : State) (fn tag : Nat) : List Group := s.shd.groups.filter fun g => match g.park with
  | some p => decide (p.tag = tag) && decide (fnOfCtx s g.ctx = fn)
  | none => false

def parkResult (fn res : Nat) (s : State) : State :=
  s.onShd fun x => { x with parkRes := tblSet 0 x.parkRes fn res }

/-- Time that a park has lasted is not residency (R260). -/
def unpark (now : Nat) (g : Group) : Group := match g.park with
  | some p =>
    let g := { g with park := none, idle := g.idle + (now - p.since) }
    if p.cause = 0x41 then g.advance else g
  | none => g

/-- REPLAY (R258). A record that still waits for the queue goes with its park. -/
def replayDo (fn : Nat) (s : State) : State :=
  let s := shdSweep s
  let tag := (s.raw fn 0x060310).toNat
  match parkedBy s fn tag with
  | [] => parkResult fn resState s
  | gs =>
    let s := s.onShd fun x =>
      { x with groups := x.groups.map fun g => if gs.contains g then unpark s.time g else g }
    parkResult fn resOk (shdSweep s)

/-- KILL (R258, R259). -/
def killDo (fn : Nat) (s : State) : State :=
  let s := shdSweep s
  match parkedBy s fn (s.raw fn 0x060310).toNat with
  | [] => parkResult fn resState s
  | g :: _ => parkResult fn resOk (killFor g ((g.park.map (·.cause)).getD 0) s)

/-- A write of FE_PARK_CMD: 1 REPLAY, 2 KILL. -/
def parkCommand (fn op : Nat) (s : State) : State :=
  if !barOpen s fn then s
  else hostWrite fn 0x060314 op (fun s => if op = 1 then replayDo fn s else if op = 2 then killDo fn s else s) s

/-- Time that a group has been resident and not parked. -/
def residency (now : Nat) (g : Group) : Nat :=
  now - g.placed - g.idle - (match g.park with
    | some p => now - p.since
    | none => 0)

/-- WATCHDOG: ops with a group beyond the limit end (R260). -/
def watchdogDo (s : State) : State :=
  let s := shdSweep s
  let late := s.shd.groups.filter fun g =>
    decide (s.rawBits (fnOfCtx s g.ctx) 0x060320 15 0 * 1000000 < residency s.time g)
  late.foldl (fun s g => if (s.group? g.core g.slot).any fun h => decide (h.op = g.op) then killGroup g stWatchdog 0 s else s) s

/-- A write of FE_PARKQ_LO or FE_PARKQ_HI also zeroes the counts (R257). -/
def parkqBaseEffect (w : RegWr) (s : State) : State :=
  setParkq (agentFn w.agent) QueueCnt.zero (storeWr w 0 s)

/-- Groups and L1 lines of a context that retires are gone (R58, R259). -/
def shdRetire (ctx : Nat) (s : State) : State :=
  s.onShd fun x =>
    { x with groups := x.groups.filter (fun g => g.ctx ≠ ctx), wgs := x.wgs.filter (fun w => w.ctx ≠ ctx), runs := x.runs.filter (fun r => r.ctx ≠ ctx), l1 := x.l1.filter (fun l => decide (l.ctx ≠ ctx) && decide (l.key ≠ ctx)) }

/-- Ready: DISPATCH pre-empted starts no further workgroup (R261). -/
def shdStop (o : OpRef) (s : State) : State :=
  s.onShd fun x => { x with runs := mapIf (fun r => r.op = o) (fun r => { r with stopping := true }) x.runs }

/-! ## The meanings -/

/-- DISPATCH (R238, R239). -/
def execShdDispatch (o : OpRef) (io : HostIO) (s : State) : Out :=
  .next (withOp o 0x10 (shdStart false o) (applyIO io s))

/-- DISPATCH_INDIRECT (R238, R239). -/
def execShdDispatchIndirect (o : OpRef) (io : HostIO) (s : State) : Out :=
  .next (withOp o 0x11 (shdStart true o) (applyIO io s))

/-- FP32_ARITH (R242). -/
def execFp32Arith (g : GroupRef) (op : FpOp) (dst : Fin 256) (a b c : Src) (s : State) : Out :=
  .next (issue g (fun g s => writeLanes g dst.val (fun i =>
    fp32Do (s.ctx g.ctx).ftz op (laneSrc s g a i) (laneSrc s g b i) (laneSrc s g c i)) s) s)

/-- TRANSCENDENTAL (R242). -/
def execTranscendental (g : GroupRef) (op : TransOp) (dst : Fin 256) (a : Src) (s : State) : Out :=
  .next (issue g (fun g s => writeLanes g dst.val (fun i => transDo (s.ctx g.ctx).ftz op (laneSrc s g a i)) s) s)

/-- INTEGER_ARITH (R242). -/
def execIntegerArith (g : GroupRef) (op : IntOp) (dst : Fin 256) (a b : Src) (s : State) : Out :=
  .next (issue g (fun g s => writeLanes g dst.val (fun i => intDo op (laneSrc s g a i) (laneSrc s g b i)) s) s)

/-- FLOAT_TO_INTEGER (R242). -/
def execFloatToInteger (g : GroupRef) (trunc : Bool) (fmt : Fin 16) (dst : Fin 256) (a : Src) (s : State) : Out :=
  .next (issue g (toIntDo trunc fmt.val dst.val a) s)

/-- SR_CONVERSION (R242). -/
def execSrConversion (g : GroupRef) (fmt : Fin 16) (sat : Bool) (dst : Fin 256) (a seed pos : Src) (s : State) : Out :=
  .next (issue g (srConvDo fmt.val sat dst.val a seed pos) s)

/-- BRANCH (R243). -/
def execShdBranch (g : GroupRef) (cond : Src) (target rpc : Nat) (s : State) : Out :=
  .next (issue g (branchDo cond target rpc) s)

/-- JOIN (R243). -/
def execShdJoin (g : GroupRef) (s : State) : Out := .next (issue g joinDo s)

/-- YIELD (R243, R255). -/
def execShdYield (g : GroupRef) (s : State) : Out := .next (issue g yieldDo s)

/-- EXIT_LANES (R243). -/
def execExitLanes (g : GroupRef) (mask : Word) (s : State) : Out :=
  .next (issue g (fun g s => settleGroup (g.exits mask) s) s)

/-- STACK_FILL_DONE (R245, R246). -/
def execStackFillDone (g : GroupRef) (io : HostIO) (s : State) : Out := .next (fillDo g.core.val g.slot.val io s)

/-- SHUFFLE (R247). -/
def execShdShuffle (g : GroupRef) (form : ShuffleForm) (width : Nat) (dst src : Fin 256) (s : State) : Out :=
  .next (issue g (fun g s => writeLanes g dst.val (fun i => laneReg s g src.val (shuffleLane s g form width i)) s) s)

/-- VOTE (R248). -/
def execShdVote (g : GroupRef) (kind : VoteKind) (dst : Fin 256) (pred : Src) (s : State) : Out :=
  .next (issue g (fun g s =>
    let holds := maskOf ((lanesOf g.am).filter fun i => laneSrc s g pred i ≠ 0)
    writeLanes g dst.val (fun _ => voteDo kind g.am holds) s) s)

/-- MEMORY_LOAD (R249). -/
def execMemoryLoad (g : GroupRef) (sp : MemSpace) (dst : Fin 256) (lo hi : Src) (size : Nat) (s : State) : Out :=
  .next (issue g (loadDo sp dst.val lo hi size) s)

/-- MEMORY_STORE (R249). -/
def execMemoryStore (g : GroupRef) (sp : MemSpace) (src : Fin 256) (lo hi : Src) (size : Nat) (s : State) : Out :=
  .next (issue g (storeDo sp src.val lo hi size) s)

/-- ATOMIC (R251, R252). -/
def execShdAtomic (g : GroupRef) (sp : MemSpace) (op : AtomOp) (ty : AtomType) (ret : Option (Fin 256))
    (lo hi : Src) (operand compare : Fin 256) (s : State) : Out :=
  .next (issue g (atomicDo sp op ty (ret.map (·.val)) lo hi operand.val compare.val) s)

/-- WORKGROUP_FENCE (R250): writes reach the L1 and the targets as they are made. -/
def execWorkgroupFence (g : GroupRef) (s : State) : Out := .next (issue g (fun g s => setGroup g.advance s) s)

/-- DEVICE_FENCE_RELEASE (R250): writes are accepted at their targets as they are made. -/
def execDeviceFenceRelease (g : GroupRef) (s : State) : Out := .next (issue g (fun g s => setGroup g.advance s) s)

/-- DEVICE_FENCE_ACQUIRE (R250). -/
def execDeviceFenceAcquire (g : GroupRef) (s : State) : Out :=
  .next (issue g (fun g s => l1Drop g.core g.ctx (setGroup g.advance s)) s)

/-- BARRIER (R253). -/
def execShdBarrier (g : GroupRef) (s : State) : Out := .next (issue g barrierDo s)

/-- BARRIER_TIMEOUT (R254). -/
def execBarrierTimeout (g : GroupRef) (s : State) : Out := .next (barrierTimeoutDo g.core.val g.slot.val s)

/-- TRAP (R256). -/
def execShdTrap (g : GroupRef) (code : BitVec 16) (s : State) : Out :=
  .next (issue g (fun g s => parkGroup g false 0x41 0 0 g.am.toNat code.toNat s) s)

/-- ILLEGAL_INSTR (R256). -/
def execIllegalInstr (g : GroupRef) (word : Word) (s : State) : Out :=
  .next (issue g (fun g s => parkGroup g false 0x43 0 0 g.am.toNat word.toNat s) s)

/-- PARK_QUEUE_RETRY (R257). -/
def execParkQueueRetry (fn : Fn) (io : HostIO) (s : State) : Out := .next (parkRetryDo fn.val io s)

/-- REPLAY (R258). -/
def execParkReplay (fn : Fn) (s : State) : Out := .next (parkCommand fn.val 1 s)

/-- KILL (R258, R259). -/
def execParkKill (fn : Fn) (s : State) : Out := .next (parkCommand fn.val 2 s)

/-- WATCHDOG (R260). -/
def execShdWatchdog (t : Nat) (s : State) : Out := .next (watchdogDo (advanceTo t s))

/-- MEMORY_RESPONSE (R256). -/
def execMemoryResponse (g : GroupRef) (err : Bool) (s : State) : Out :=
  .next (metaLog (responseDo g.core.val g.slot.val err s))

end Sys2Proof.Machine
end

