-- ==== Sys2Proof/Machine/Raster.lean ====
section
/-! DEFINITION. Rasterisation and per-sample operations of render passes (R267, R268, R274, R287,
R288, R290): attachment formats, surface layout, clipping, screen mapping, coverage, blending. -/

namespace Sys2Proof.Machine

open Sys2Proof

/-! ## Attachment formats and layout (R267, R268) -/

/-- Bytes per sample, channels, and slot (0 colour, 1 depth, 2 stencil) of a format. -/
def attFormat : Nat → Option (Nat × Nat × Nat)
  | 1 | 2 | 3 => some (4, 4, 0)
  | 4 => some (8, 4, 0)
  | 5 => some (4, 1, 0)
  | 6 => some (4, 2, 0)
  | 7 => some (4, 1, 1)
  | 8 => some (1, 1, 2)
  | _ => none

def fmtBytes (f : Nat) : Nat := ((attFormat f).map (·.1)).getD 0
def fmtChannels (f : Nat) : Nat := ((attFormat f).map (·.2.1)).getD 0

/-- Offset of a tile-local pixel in a sample plane of b bytes per sample. -/
def pixelOff (b x y : Nat) : Nat := ((y / 8) * 4 + x / 8) * 64 * b + ((y % 8) * 8 + x % 8) * b

/-- Offset of a sample in its attachment's tile. -/
def sampleOff (b x y smp : Nat) : Nat := smp * 1024 * b + pixelOff b x y

/-- The pixel of an index in the order of R268. -/
def pixelAt (p : Nat) : Nat × Nat :=
  let blk := p / 64
  let q := p % 64
  ((blk % 4) * 8 + q % 8, (blk / 4) * 8 + q / 8)

/-! ## Exact values -/

def vInt (i : Int) : Val := Val.ofInt i
def vSub (a b : Val) : Val := (exactSum [a, b.neg]).val
def vAdd (a b : Val) : Val := (exactSum [a, b]).val
def vMul (a b : Val) : Val := (exactMul a b).val
def vGe (a b : Val) : Bool := !Val.lt a b && !a.isNan && !b.isNan
def finite : Val → Bool
  | .fin _ _ _ => true
  | _ => false

/-- A value to 2^-8 by RNE, as a fixed-point integer (R287). -/
def snap8 : Val → Option Int
  | .fin n m e =>
    let r : Int := (roundInt m (e + 8)).1
    some (if n then -r else r)
  | _ => none

/-! ## Transfer functions (R288) -/

/-- Largest v with v^5 ≤ n, by bits from b down. -/
def root5Aux (n : Nat) : Nat → Nat → Nat
  | 0, v => v
  | b + 1, v => let w := v + 2 ^ b; if w ^ 5 ≤ n then root5Aux n b w else root5Aux n b v

def root5 (n : Nat) : Nat := root5Aux n (Nat.log2 n / 5 + 1) 0

/-- The sRGB decode of an 8-bit code, rounded to FP32: c / 12.92 up to 0.04045, and
((c + 0.055) / 1.055)^2.4 above. -/
def srgbDecode (c : Nat) : Val :=
  if c ≤ 10 then (fpDiv false false (vInt (100 * c)) (vInt (255 * 1292))).val
  else
    -- y^5 = r^12 with r = (1000 c + 14025) / 269025; y to 2^-48, and one more bit for the rest
    let y := root5 ((1000 * c + 14025) ^ 12 * 2 ^ 240 / 269025 ^ 12)
    (roundFp32 false false (.fin false (2 * y + 1) (-49))).val

/-- Is the sRGB encode of x, on a scale of 255, above c + 1/2 (strictly, or equal with c odd). -/
def srgbAbove (x : Val) (c : Nat) : Bool :=
  match x with
  | .fin false m e =>
    let num := if 0 ≤ e then m * 2 ^ e.toNat else m
    let den := if 0 ≤ e then 1 else 2 ^ (-e).toNat
    if num * 10000000 ≤ 31308 * den then
      -- 12.92 x against (c + 1/2) / 255
      let l := num * 1292 * 255 * 2
      let r := (2 * c + 1) * 100 * den
      decide (r < l) || (decide (r = l) && decide (c % 2 = 1))
    else
      -- x^5 against ((c + 1/2) / 255 + 0.055) / 1.055 to the 12th
      let l := num ^ 5 * 538050 ^ 12
      let r := (2000 * c + 1000 + 28050) ^ 12 * den ^ 5
      decide (r < l) || (decide (r = l) && decide (c % 2 = 1))
  | _ => false

/-- The sRGB encode of a value in [0, 1]. -/
def srgbEncode (x : Val) : Nat := ((upTo 255).filter fun c => srgbAbove x c).length

/-- Clamps to [0, 1]; NaN gives 0. -/
def clamp01 (x : Val) : Val := (fpMin (.fin false 1 0) (fpMax (.fin false 0 0) x).val).val

/-- Value to a UNORM code of n bits (R288). -/
def unormEncode (n : Nat) (x : Val) : Nat :=
  match vMul (clamp01 x) (vInt (2 ^ n - 1)) with
  | .fin _ m e => (roundInt m e).1
  | _ => 0

def unormDecode (n c : Nat) : Val := (fpDiv false false (vInt c) (vInt (2 ^ n - 1))).val

/-- Channel bit positions and widths of the packed formats. -/
def chanBits (f ch : Nat) : Nat × Nat :=
  if f = 3 then (if ch < 3 then (10 * ch, 10) else (30, 2))
  else if f = 4 ∨ f = 6 then (16 * ch, 16)
  else if f = 5 ∨ f = 7 then (0, 32)
  else (8 * ch, 8)

/-- A channel of a stored sample as FP32. -/
def chanDecode (f ch v : Nat) : Val :=
  let (lo, w) := chanBits f ch
  let c := v / 2 ^ lo % 2 ^ w
  if f = 2 ∧ ch < 3 then srgbDecode c
  else if f ≤ 3 then unormDecode w c
  else if w = 16 then decodeFloat fmtFp16 c
  else decodeFloat fmtFp32 c

/-- A channel's code (R288 step 4). -/
def chanEncode (ftz : Bool) (f ch : Nat) (x : Val) : Nat :=
  let (_, w) := chanBits f ch
  if f = 2 ∧ ch < 3 then srgbEncode (clamp01 x)
  else if f ≤ 3 then unormEncode w x
  else if w = 16 then (encodeFloat fmtFp16 none false ftz x).val
  else (encodeFloat fmtFp32 none false ftz x).val

/-- Replaces channels of a stored sample. -/
def setChan (f ch code v : Nat) : Nat :=
  let (lo, w) := chanBits f ch
  v - (v / 2 ^ lo % 2 ^ w) * 2 ^ lo + code % 2 ^ w * 2 ^ lo

/-- The four channels of a stored sample; a missing colour channel reads 0 and a missing alpha 1. -/
def sampleDecode (f v : Nat) : List Val :=
  (upTo 4).map fun ch => if ch < fmtChannels f then chanDecode f ch v else if ch = 3 then .fin false 1 0 else Val.zero

/-! ## Blending (R271, R288) -/

def one : Val := .fin false 1 0

/-- A blend factor for a channel. -/
def blendFactor (ftz : Bool) (code ch : Nat) (src dst : List Val) : Val :=
  let at' := fun (l : List Val) (i : Nat) => l.getD i Val.zero
  let inv := fun (x : Val) => (fpAdd false ftz one x.neg).val
  match code with
  | 0 => Val.zero
  | 1 => one
  | 2 => at' src ch
  | 3 => inv (at' src ch)
  | 4 => at' dst ch
  | 5 => inv (at' dst ch)
  | 6 => at' src 3
  | 7 => inv (at' src 3)
  | 8 => at' dst 3
  | _ => inv (at' dst 3)

/-- A blend record (R271). -/
def blendChan (ftz : Bool) (b : List Byte) (src dst : List Val) (ch : Nat) : Val :=
  let c0 := fld b 0 1
  let x := src.getD ch Val.zero
  let y := dst.getD ch Val.zero
  if !bit c0 0 then x
  else
    let op := if ch = 3 then bits c0 6 4 else bits c0 3 1
    let sf := if ch = 3 then fld b 3 1 else fld b 1 1
    let df := if ch = 3 then fld b 4 1 else fld b 2 1
    let p := (fpMul false ftz x (blendFactor ftz sf ch src dst)).val
    let q := (fpMul false ftz y (blendFactor ftz df ch src dst)).val
    match op with
    | 0 => (fpAdd false ftz p q).val
    | 1 => (fpAdd false ftz p q.neg).val
    | 2 => (fpAdd false ftz q p.neg).val
    | 3 => (fpMin x y).val
    | _ => (fpMax x y).val

/-- One sample's blend and write: the new stored sample. -/
def blendSample (ftz : Bool) (f : Nat) (b : List Byte) (color : List Val) (v : Nat) : Nat :=
  let src := if f ≤ 3 then color.map clamp01 else color
  let dst := sampleDecode f v
  (upTo (fmtChannels f)).foldl (fun v' ch =>
    if bit (fld b 5 1) ch then setChan f ch (chanEncode ftz f ch (blendChan ftz b src dst ch)) v' else v') v

/-! ## Compare and stencil (R271, R288) -/

/-- A compare of code c, given less and equal. -/
def compareCode (c : Nat) (lt eq gt : Bool) : Bool :=
  match c with
  | 0 => false | 1 => lt | 2 => eq | 3 => lt || eq | 4 => gt | 5 => !eq | 6 => gt || eq | _ => true

def compareNat (c a b : Nat) : Bool := compareCode c (decide (a < b)) (decide (a = b)) (decide (b < a))

def compareVal (c : Nat) (a b : Val) : Bool :=
  let lt := Val.lt a b
  let gt := Val.lt b a
  compareCode c lt (!lt && !gt && !a.isNan && !b.isNan) gt

/-- A stencil op on a stored value. -/
def stencilOp (op ref v : Nat) : Nat :=
  match op with
  | 0 => v
  | 1 => 0
  | 2 => ref
  | 3 => if v = 255 then 255 else v + 1
  | 4 => v - 1
  | 5 => 255 - v
  | 6 => (v + 1) % 256
  | _ => (v + 255) % 256

/-- Writes only the bits of the mask. -/
def maskWrite (mask old new : Nat) : Nat := (old &&& (255 - mask)) ||| (new &&& mask)

/-! ## Clipping (R274) -/

/-- A vertex on its way through the clipper: its key when it is one of the draw's own, and the words
of its clip position and varyings. -/
structure ClipVert where
  key   : Option (Nat × Nat)
  words : List Word
  deriving DecidableEq, Repr

def wordVal (ftz : Bool) (w : Word) : Val := fp32Val ftz w.toNat

def ClipVert.co (ftz : Bool) (v : ClipVert) (i : Nat) : Val := wordVal ftz (v.words.getD i 0)

/-- The viewport as values: VX, VY, VW, VH. -/
abbrev View := List Val

/-- Is a vertex inside plane p: near, far, and the guard band 16,384 pixels outside the viewport. -/
def insidePlane (ftz : Bool) (vp : View) (p : Nat) (v : ClipVert) : Bool :=
  let w := v.co ftz 3
  let band := fun (c size : Val) (low : Bool) =>
    -- (c + w) size / 2 against (min 0 size - 16384) w or (max 0 size + 16384) w
    let f := (vMul (vAdd c w) size).scale (-1)
    let edge := if low then vSub (fpMin Val.zero size).val (vInt 16384) else vAdd (fpMax Val.zero size).val (vInt 16384)
    if low then vGe f (vMul edge w) else vGe (vMul edge w) f
  match p with
  | 0 => vGe (v.co ftz 2) Val.zero
  | 1 => vGe w (v.co ftz 2)
  | 2 => band (v.co ftz 0) (vp.getD 2 Val.zero) true
  | 3 => band (v.co ftz 0) (vp.getD 2 Val.zero) false
  | 4 => band (v.co ftz 1) (vp.getD 3 Val.zero) true
  | _ => band (v.co ftz 1) (vp.getD 3 Val.zero) false

/-- The generated vertex where an edge meets a plane. -/
def meet (p : Nat) (a b : ClipVert) : ClipVert :=
  { key := none, words := (upTo a.words.length).map fun i => (Config.clipVertex p a.words b.words).getD i 0 }

/-- Clips a polygon against a plane. -/
def clipPoly (inside : ClipVert → Bool) (p : Nat) (poly : List ClipVert) : List ClipVert :=
  match poly.getLast? with
  | none => []
  | some last =>
    (poly.foldl (fun (r : List ClipVert × ClipVert) v =>
      let a := r.2
      let out := if inside a then (if inside v then [v] else [meet p a v])
        else if inside v then [meet p v a, v] else []
      (r.1 ++ out, v)) ([], last)).1

/-- Clips a segment. -/
def clipSeg (inside : ClipVert → Bool) (p : Nat) (seg : List ClipVert) : List ClipVert :=
  match seg with
  | [a, b] =>
    if inside a then (if inside b then seg else [a, meet p a b]) else if inside b then [meet p b a, b] else []
  | _ => []

/-- Clips a primitive; what is left of it, as vertices in order. A coordinate that is no finite number
leaves nothing. -/
def clipPrim (ftz : Bool) (vp : View) (kind : Nat) (vs : List ClipVert) : List ClipVert :=
  if vs.any fun v => (upTo 4).any fun i => !finite (v.co ftz i) then []
  else (upTo 6).foldl (fun poly p =>
    let inside := insidePlane ftz vp p
    if poly.all inside then poly
    else match kind with
      | 0 => clipPoly inside p poly
      | 1 => clipSeg inside p poly
      | _ => []) vs

/-! ## Screen mapping (R287) -/

/-- X, Y, Z, INV_W of a vertex in FP32, each operation in the order written. -/
def screenMap (ftz : Bool) (vp : View) (zmin zmax : Val) (v : ClipVert) : List Val :=
  let div := fun (a b : Val) => (fpDiv false ftz a b).val
  let add := fun (a b : Val) => (fpAdd false ftz a b).val
  let mul := fun (a b : Val) => (fpMul false ftz a b).val
  let w := v.co ftz 3
  let x := add (vp.getD 0 Val.zero) (div (mul (add (div (v.co ftz 0) w) one) (vp.getD 2 Val.zero)) (vInt 2))
  let y := add (vp.getD 1 Val.zero) (div (mul (add (div (v.co ftz 1) w) one) (vp.getD 3 Val.zero)) (vInt 2))
  let z := add zmin (mul (div (v.co ftz 2) w) (add zmax zmin.neg))
  [x, y, z, div one w]

/-- A vertex record: X, Y, Z, INV_W and the varyings (R276). -/
def vertexRecord (ftz : Bool) (vp : View) (zmin zmax : Val) (v : ClipVert) : List Word :=
  (screenMap ftz vp zmin zmax v).map (fun x => w32 (fp32Code x)) ++ v.words.drop 4

/-! ## Coverage (R287) -/

/-- A point in units of 2^-8 pixel. -/
abbrev Pt := Int × Int

/-- Snapped position of a vertex record. -/
def recPoint (r : List Word) : Option Pt :=
  match snap8 (fp32Val false (r.getD 0 0).toNat), snap8 (fp32Val false (r.getD 1 0).toNat) with
  | some x, some y => some (x, y)
  | _, _ => none

/-- Edge function of (a, b) at p; positive on the inner side of a triangle of positive area with Y
downward. -/
def edgeFn (a b p : Pt) : Int := (b.1 - a.1) * (p.2 - a.2) - (b.2 - a.2) * (p.1 - a.1)

/-- Twice the signed area. -/
def area2 (a b c : Pt) : Int := edgeFn a b c

/-- Is an edge of a polygon of positive area a top edge (horizontal, the polygon below it) or a left
edge (not horizontal, the polygon to its right). -/
def topLeft (a b : Pt) : Bool :=
  if a.2 = b.2 then decide (a.1 < b.1) else decide (b.2 < a.2)

/-- A convex polygon of positive area covers a sample. -/
def polyCovers (poly : List Pt) (p : Pt) : Bool :=
  match poly.getLast? with
  | none => false
  | some last =>
    (poly.foldl (fun (r : Bool × Pt) b =>
      let e := edgeFn r.2 b p
      (r.1 && (decide (0 < e) || (decide (e = 0) && topLeft r.2 b)), b)) (true, last)).1

/-- Makes a polygon's area positive. -/
def orient (poly : List Pt) : List Pt :=
  match poly with
  | a :: b :: c :: _ => if area2 a b c < 0 then poly.reverse else poly
  | _ => poly

/-- The polygon that a primitive covers: a triangle, a parallelogram 1 pixel wide across the minor
axis of a line, or the square around a point. -/
def primPoly (kind : Nat) (ps : List Pt) : List Pt :=
  match kind, ps with
  | 0, l => orient l
  | 1, [a, b] =>
    if (b.2 - a.2).natAbs ≤ (b.1 - a.1).natAbs then
      orient [(a.1, a.2 - 128), (b.1, b.2 - 128), (b.1, b.2 + 128), (a.1, a.2 + 128)]
    else orient [(a.1 - 128, a.2), (b.1 - 128, b.2), (b.1 + 128, b.2), (a.1 + 128, a.2)]
  | _, [a] => [(a.1 - 128, a.2 - 128), (a.1 + 128, a.2 - 128), (a.1 + 128, a.2 + 128), (a.1 - 128, a.2 + 128)]
  | _, _ => []

/-- Position of a sample in a pixel, in 2^-8 pixel (R287). -/
def samplePos (samples i : Nat) : Pt :=
  match samples, i with
  | 1, _ => (128, 128)
  | 2, 0 => (192, 192)
  | 2, _ => (64, 64)
  | _, 0 => (96, 32)
  | _, 1 => (224, 96)
  | _, 2 => (32, 160)
  | _, _ => (160, 224)

/-- A pixel's sample. -/
def sampleAt (samples px py i : Nat) : Pt :=
  let o := samplePos samples i
  (256 * px + o.1, 256 * py + o.2)

/-! ## Interpolation (R287) -/

def vAbs : Val → Val
  | .fin _ m e => .fin false m e
  | .inf _ => .inf false
  | v => v

/-- Weights of a primitive's vertices at a point, up to a common factor: the edge functions opposite them, or
the distances along a line's major axis. -/
def interpWeights (kind : Nat) (ps : List Pt) (p : Pt) : List Int :=
  match kind, ps with
  | 0, [a, b, c] => [edgeFn b c p, edgeFn c a p, edgeFn a b p]
  | 1, [a, b] => if (b.2 - a.2).natAbs ≤ (b.1 - a.1).natAbs then [b.1 - p.1, p.1 - a.1] else [b.2 - p.2, p.2 - a.2]
  | _, _ => [1]

/-- The weighted sum of values. -/
def weighted (f : Val → Val) (ws : List Int) (vs : List Val) : Val :=
  (exactSum ((ws.zip vs).map fun x => f (vMul (vInt x.1) x.2))).val

/-- A quotient of weighted sums in FP32. The spec gives one fixed sequence and does not state it: the result is
a free value. DESIGN CHOICE (log 92): it lies within 2^-16 of the terms' magnitudes, and is the correctly rounded
quotient where the free value does not. -/
def interpQuot (ftz : Bool) (free : Word) (ws : List Int) (ns ds : List Val) : Word :=
  let num := weighted id ws ns
  let den := weighted id ws ds
  let v := fp32Val false free.toNat
  let err := vAbs (vSub (vMul v den) num)
  let bound := (vAdd (weighted vAbs ws ns) (vMul (vAbs v) (weighted vAbs ws ds))).scale (-16)
  if finite num && finite den && finite v && vGe bound err then free
  else w32 (fp32Code (fpDiv false ftz num den).val)

/-- Z of a primitive of vertex records at a point, linear in screen space. -/
def interpZ (ftz : Bool) (kind : Nat) (vs : List (List Word)) (p : Pt) : Word :=
  interpQuot ftz (Config.interpolate (vs.flatMap fun v => v.take 4) [p.1, p.2]) (interpWeights kind (vs.filterMap recPoint) p)
    (vs.map fun v => fp32Val ftz (v.getD 2 0).toNat) (vs.map fun _ => vInt 1)

/-- Word j of the varyings at a point, with perspective correction through INV_W. -/
def interpVary (ftz : Bool) (kind : Nat) (vs : List (List Word)) (j : Nat) (p : Pt) : Word :=
  let q := vs.map fun v => fp32Val ftz (v.getD 3 0).toNat
  interpQuot ftz (Config.interpolate (vs.flatMap fun v => v.take 4 ++ [v.getD (4 + j) 0]) [p.1, p.2]) (interpWeights kind (vs.filterMap recPoint) p)
    ((vs.zip q).map fun x => vMul (fp32Val ftz (x.1.getD (4 + j) 0).toNat) x.2) q

/-- The tiles that a primitive's box overlaps, inside the scissor (R274). -/
def boxTiles (poly : List Pt) (sx0 sy0 sx1 sy1 : Nat) : Nat × Nat × Nat × Nat :=
  let xs := poly.map (·.1)
  let ys := poly.map (·.2)
  let lo := fun (l : List Int) => l.foldl min (l.headD 0)
  let hi := fun (l : List Int) => l.foldl max (l.headD 0)
  -- pixels [x0, x1) of the scissor that the open box meets
  let x0 := Nat.max sx0 ((lo xs) / 256).toNat
  let x1 := Nat.min sx1 ((hi xs + 255) / 256).toNat
  let y0 := Nat.max sy0 ((lo ys) / 256).toNat
  let y1 := Nat.min sy1 ((hi ys + 255) / 256).toNat
  if x1 ≤ x0 ∨ y1 ≤ y0 then (0, 0, 0, 0) else (x0 / 32, (x1 + 31) / 32, y0 / 32, (y1 + 31) / 32)

/-- Facing and culling of a triangle (R287): none when it is discarded. -/
def triFront (raster : Nat) (a b c : Pt) : Option Bool :=
  let ar := area2 a b c
  if ar = 0 then none
  else
    let front := if bit raster 2 then decide (ar < 0) else decide (0 < ar)
    let cull := bits raster 1 0
    if (cull = 1 ∧ !front) ∨ (cull = 2 ∧ front) then none else some front

/-! ## Draws (R270) -/

/-- Vertices per primitive. -/
def topoSize : Nat → Nat
  | 0 => 3 | 1 => 3 | 2 => 2 | _ => 1

/-- Triangles of a strip of vertices: odd triangles swap their first two. -/
def stripTris : Bool → List Nat → List (List Nat)
  | odd, a :: b :: c :: l => (if odd then [b, a, c] else [a, b, c]) :: stripTris (!odd) (b :: c :: l)
  | _, _ => []

/-- Cuts a list at an index. -/
def splitAtIdx (stop : Nat) (l : List Nat) : List (List Nat) :=
  let (cur, done) := l.foldl (fun (r : List Nat × List (List Nat)) i =>
    if i = stop then ([], r.2 ++ [r.1]) else (r.1 ++ [i], r.2)) ([], [])
  done ++ [cur]

/-- Primitives of one drawn copy, as vertex indices. Without an index buffer the indices count up. -/
def drawPrims (topology fmt base first : Nat) (raw : List Nat) : List (List Nat) :=
  let bias := fun (i : Nat) => if fmt = 0 then first + i else (i + base) % 2 ^ 32
  match topology with
  | 1 =>
    let runs := if fmt = 0 then [raw] else splitAtIdx (if fmt = 1 then 0xFFFF else 0xFFFFFFFF) raw
    (runs.flatMap (stripTris false)).map (·.map bias)
  | t => ((chunks (topoSize t) raw.length raw).filter fun p => p.length = topoSize t).map (·.map bias)

/-! ## Resolve (R290) -/

/-- Resolves the samples of a pixel: summed in sample order in FP32, times 1 / SAMPLES, converted. -/
def resolveSample (ftz : Bool) (f : Nat) (vs : List Nat) : Nat :=
  match vs with
  | [v] => v
  | _ =>
    let n := vs.length
    (upTo (fmtChannels f)).foldl (fun r ch =>
      let xs := vs.map fun v => chanDecode f ch v
      let sum := match xs with
        | [] => Val.zero
        | x :: l => l.foldl (fun a b => (fpAdd false ftz a b).val) x
      let avg := (fpMul false ftz sum (.fin false 1 (-(Nat.log2 n : Int)))).val
      setChan f ch (chanEncode ftz f ch avg) r) 0

end Sys2Proof.Machine
end

