-- ==== Sys2Proof/Machine/Render.lean ====
section
/-! DEFINITION. Render passes, bin memory, tiles, sip passes and FBC_CLEAR (R264 to R309). -/

namespace Sys2Proof.Machine

open Sys2Proof

/-! ## The pass descriptor (R266, R267) -/

def pW (d : List Byte) : Nat := fld d 0 2
def pH (d : List Byte) : Nat := fld d 2 2
def pSamples (d : List Byte) : Nat := fld d 4 1
def pColors (d : List Byte) : Nat := fld d 5 1
def pFlags (d : List Byte) : Nat := fld d 6 1
def pScratch (d : List Byte) : Nat := fld d 36 4
def pGrowWait (d : List Byte) : Nat := fld d 34 2
def pTX (d : List Byte) : Nat := (pW d + 31) / 32
def pTY (d : List Byte) : Nat := (pH d + 31) / 32
def pTiles (d : List Byte) : Nat := pTX d * pTY d

/-- Attachment record j: colour 0 to 3, depth, stencil. -/
def att (d : List Byte) (j : Nat) : List Byte := slice d (64 + 32 * j) 32
def attPresent (d : List Byte) (j : Nat) : Bool :=
  if j < 4 then decide (j < pColors d) else bit (pFlags d) (j - 4)
def attSurf (a : List Byte) : Nat := fld a 0 8
def attResolve (a : List Byte) : Nat := fld a 8 8
def attFmt (a : List Byte) : Nat := fld a 16 1
def attLoad (a : List Byte) : Nat := fld a 17 1
def attStore (a : List Byte) : Nat := fld a 18 1
def attLinear (a : List Byte) : Bool := decide (fld a 19 1 = 1)
def attPitch (a : List Byte) : Nat := fld a 20 4

/-- Present attachments in slot order. -/
def atts (d : List Byte) : List Nat := (upTo 6).filter (attPresent d)

/-- T_a of an attachment (R268). -/
def attTile (d : List Byte) (j : Nat) : Nat := 1024 * fmtBytes (attFmt (att d j)) * pSamples d

/-- Offset of an attachment in a tile buffer (R268). -/
def attOff (d : List Byte) (j : Nat) : Nat := (((atts d).filter (· < j)).map (attTile d)).sum

/-- Offset of the scratch, and the footprint F. -/
def scratchOff (d : List Byte) : Nat := ((atts d).map (attTile d)).sum
def footprint (d : List Byte) : Nat := scratchOff d + pScratch d

/-! ## Checks at dispatch (R269, R295, R308) -/

def dtPassShape : Nat := 0x50
def dtFootprint : Nat := 0x51
def dtAttach : Nat := 0x52
def dtPipe : Nat := 0x53
def dtExhausted : Nat := 0x54
def dtFbcOnly : Nat := 0x55
def dtPool : Nat := 0x56
def dtSip : Nat := 0x57

/-- An attachment record is bad (R267, R269). -/
def attBad (d : List Byte) (j : Nat) : Bool :=
  let a := att d j
  if !attPresent d j then !zeros a 0 32
  else
    let slot := if j < 4 then 0 else if j = 4 then 1 else 2
    let b := fmtBytes (attFmt a)
    (match attFormat (attFmt a) with
      | some f => decide (f.2.2 ≠ slot)
      | none => true) ||
    decide (attSurf a = 0) || decide (attSurf a % 4096 ≠ 0) || decide (2 < attLoad a) || decide (1 < attStore a) ||
    decide (1 < fld a 19 1) || (decide (attResolve a ≠ 0) && decide (4 ≤ j)) ||
    (if attLinear a then decide (attPitch a % 256 ≠ 0) || decide (attPitch a < pW d * b) else decide (attPitch a ≠ 0))

/-- The checks that need only the descriptor, in the order of R269. -/
def passCheck (d : List Byte) : Option Nat :=
  let s := pSamples d
  let sip := bit (pFlags d) 2
  if pW d = 0 ∨ 8192 < pW d ∨ pH d = 0 ∨ 8192 < pH d ∨ (s ≠ 1 ∧ s ≠ 2 ∧ s ≠ 4) ∨ 4 < pColors d ∨ atts d = [] then some dtPassShape
  else if 131072 < footprint d ∨ pScratch d % 1024 ≠ 0 ∨ (sip ∧ (s ≠ 1 ∨ pScratch d < 32768)) then some dtFootprint
  else if (upTo 6).any (attBad d) then some dtAttach
  else if pPool d = 0 ∨ pPool d % 64 ≠ 0 ∨ fld d 16 8 = 0 ∨ fld d 16 8 % 4096 ≠ 0 ∨ (fld d 32 2 = 0 ∧ pGrowWait d ≠ 0) then some dtPool
  else none

/-- Reserved fields of the descriptor. -/
def passReserved (d : List Byte) : Bool :=
  decide (8 ≤ pFlags d) || !zeros d 7 1 || !zeros d 40 24 || decide (2048 ≤ fld d 32 2) ||
  (!bit (pFlags d) 2 && decide (fld d 24 8 ≠ 0))

/-- Cuts sip op records; none: their LENs do not fit. Fuel: records. -/
def sipRecords : Nat → List Byte → Option (List (List Byte))
  | 0, b => if b = [] then some [] else none
  | n + 1, b =>
    let len := 16 * fld b 2 2
    if len = 0 ∨ b.length < len then none
    else (sipRecords n (b.drop len)).map fun l => b.take len :: l

/-- Bytes of a stage's vector in a TENSOR_MMA: one FP32 value for each column, or for each row (R168). -/
def stageBytes (r : Mma) (second : Bool) : Nat :=
  (r.epi.take r.epiN).foldl (fun n f =>
    if bit f 6 ≠ second then n
    else if f % 64 = 2 ∨ f % 64 = 4 then Nat.max n (4 * r.n)
    else if f % 64 = 3 ∨ f % 64 = 5 then Nat.max n (4 * r.m) else n) 0

/-- Addresses of a sip op record with the bytes that it names there. -/
def sipExtents (b : List Byte) : List (Nat × Nat) :=
  let area := fun (rows ld len : Nat) => if rows = 0 then 0 else (rows - 1) * ld + len
  let planes := fun (n plane len : Nat) => if n = 0 then 0 else (n - 1) * plane + len
  match fld b 0 2 with
  | 0x30 => match parseMma b 1 with
    | some r => [(r.aVa, area (if r.ta then r.kOwn else r.m) r.lda (rowBytes r.fa r.aRow)),
        (r.bVa, area (if r.tb then r.kOwn else r.n) r.ldb (rowBytes r.fb r.bRow)),
        (r.cVa, if r.acc then area r.m r.ldc (rowBytes r.fc r.n) else 0), (r.dVa, area r.m r.ldd (rowBytes r.fd r.n)),
        (r.saVa, if r.ax then r.m * (r.k / 32) else 0), (r.sbVa, if r.bx then r.n * (r.k / 32) else 0),
        (r.metaVa, if r.sparseA then (r.m * r.k + 7) / 8 else if r.sparseB then (r.n * r.k + 7) / 8 else 0),
        (r.ev0, stageBytes r false), (r.ev1, stageBytes r true), (r.sdVa, if r.dx then r.m * (r.n / 32) else 0)]
    | none => []
  | 0x32 => match parseVec b with
    | some v => [(v.xVa, area v.rows v.ldx (rowBytes v.fx v.cols)), (v.yVa, if v.ymode = 4 then area v.rows v.ldy (rowBytes v.fy v.cols) else 0),
        (v.outVa, if v.outVa = 0 then 0 else area v.rows v.ldo (rowBytes v.fo v.cols)), (v.redVa, if v.red ≠ 0 then 4 * v.rows else 0)]
    | none => []
  | _ => match parseMove b with
    | some v => [(v.src, planes v.planes v.srcPlane (area v.sRows v.srcLd (rowBytes v.fs v.cols))),
        (v.dst, planes v.planes v.dstPlane (area v.dRows v.dstLd (rowBytes v.fd v.dCols))),
        (v.srcScale, if v.sx then v.planes * (v.sRows * v.cols / 32) else 0), (v.dstScale, if v.dx then v.planes * (v.dRows * v.dCols / 32) else 0),
        (v.index, if v.gather then 4 * v.rows else 0)]
    | none => []

/-- A sip address that its descriptor does not allow (R293, R295). -/
def sipAddrBad (spm scratch : Nat) (x : Nat × Nat) : Bool :=
  if bit x.1 63 then decide (bits x.1 62 18 = 0) && decide (scratch < x.1 % 2 ^ 18 + x.2)
  else bit x.1 62 && decide (bits x.1 61 24 = 0) && decide (spm = 0)

/-- A sip op record fails R295. -/
def sipOpBad (spm scratch : Nat) (b : List Byte) : Bool :=
  let op := fld b 0 2
  decide (op < 0x30) || decide (0x32 < op) || decide (opcodeLen op ≠ some (fld b 2 2)) || decide (fld b 4 1 ≠ 0) ||
  bit (fld b 5 1) 0 || decide (reportVa op b ≠ 0) || (decide (op = 0x30) && decide (fld b 35 1 ≠ 0)) ||
  (sipExtents b).any (sipAddrBad spm scratch)

/-- A sip op record whose reserved header fields are not zero (R9, R80). -/
def sipReserved (b : List Byte) : Bool := decide (2 ≤ fld b 5 1) || !zeros b 7 1 || !zeros b 8 8

/-- A sip descriptor fails R295. -/
def sipBad (d sip : List Byte) (ops : Option (List (List Byte))) : Bool :=
  let n := fld sip 12 1
  let in0 := fld sip 14 1
  let in1 := fld sip 15 1
  let out := fld sip 16 1
  let outCh := fld sip 17 1
  let has := fun (j : Nat) => decide (j < 4) && attPresent d j
  let ch := fun (j : Nat) => fmtChannels (attFmt (att d j))
  decide (n = 0) || decide (16 < n) || !has in0 || (decide (in1 ≠ 0xFF) && !has in1) || !has out ||
  decide (8 < ch in0 + (if in1 = 0xFF then 0 else ch in1)) || decide (outCh = 0) || decide (ch out < outCh) ||
  (decide (fld sip 13 1 ≠ 2) && decide (fld sip 13 1 ≠ 3)) ||
  match ops with
  | some l => decide (l.length ≠ n) || l.any (sipOpBad (fld sip 24 8) (pScratch d))
  | none => true

/-! ## Passes -/

/-- A field of the pool is written. -/
def poolPut (p : PassRun) (off n v : Nat) (s : State) : Tr Unit := tWrite noMaster p.ctx (pPool p.desc + off) (natLe n v) s

def listKey (c t : Nat) : Nat := c * 2 ^ 17 + t

def SilkList.none' : SilkList := { head := 0, last := 0, used := 0, batch := 0, first := 0 }

def silkOf (p : PassRun) (c t : Nat) : SilkList := tblGet SilkList.none' p.lists (listKey c t)

/-- A tile's part of BIN_STATE is written: the heads and tails of its lists (R266). -/
def binStatePut (p : PassRun) (t : Nat) (s : State) : Tr Unit :=
  tWrite noMaster p.ctx (fld p.desc 16 8 + 128 * t)
    (slice (Config.binStateBytes ((upTo 8).map fun c => ((silkOf p c t).head, (silkOf p c t).last))) 0 128) s

/-- BIN_STATE of every tile. -/
def binStateInit (p : PassRun) (s : State) : Tr Unit :=
  (trMap (upTo (pTiles p.desc)) (binStatePut p) s).bind fun _ s => .ok () s

/-- The groups of a tile or a batch are gone. -/
def dropRole (o : OpRef) (gone : GroupRole → Bool) (s : State) : State :=
  shdSweep (s.onShd fun x => { x with groups := x.groups.filter fun g => !(decide (g.op = o) && gone g.role) })

/-- A tile is held no longer, and neither are its groups. -/
def dropTile (t : PassTile) (s : State) : State :=
  let s := dropRole t.op (fun r => decide (r = .fragment t.tile)) s
  syncUnits t.op (s.onRnd fun x => { x with tiles := x.tiles.filter fun y => !(decide (y.op = t.op) && decide (y.tile = t.tile)) })

/-- An access of a cluster's front end for a pass fails. -/
def passFeFault (o : OpRef) (ctx : Nat) (f : Flt) (s : State) : State :=
  let (d, s) := feFault f ctx s
  closeOps (passFail o stTransFault d s)

/-- An access of a core or an array for a pass fails: its record or pin, then the pass (R309). -/
def passFault (o : OpRef) (m ctx : Nat) (f : Flt) (va : Nat) (acc : Access) (s : State) : State :=
  let s := masterFault f m ctx va acc o.ring.val o.seq s
  closeOps (if f.bar then passFail o stOpError 3 s else passFail o stTransFault f.code.num s)

/-- A pass fails after dispatch (R309). -/
def failPass (o : OpRef) (status detail : Nat) (s : State) : State := closeOps (passFail o status detail s)

/-- The outcome of an access for a pass. -/
def passTr {α : Type} (o : OpRef) (m ctx : Nat) (r : Tr α) (s0 : State) (k : α → State → State) : State :=
  match r with
  | .ok a s => k a s
  | .fault f va acc s => if m = noMaster then passFeFault o ctx f s else passFault o m ctx f va acc s
  | .bad d s => failPass o stOpError d s
  | .severed s => failPass o stSevered 0 s
  | .wait _ => s0

/-- A pass that waits for a slot or its pool (R279). -/
def passBlocked (s : State) (ctx : Nat) (d : List Byte) : Bool :=
  decide (16 ≤ s.rnd.passes.length) || s.rnd.passes.any fun p => decide (p.ctx = ctx) && decide (pPool p.desc = pPool d)

/-- The pass starts binning: its pool is read, START and the counts of the pass are written. -/
def passStart (o : OpRef) (ctx : Nat) (d sip : List Byte) (ops : List (List Byte)) (s : State) : State :=
  let p0 : PassRun := { op := o, ctx, desc := d, sip, sipOps := ops, phase := .binning, draw := 0, prim := 0, batch := 0, batches := [], lists := [], chunks := [], prod := 0, start := 0, cons := 0, growSeq := 0, growAt := none, waiting := [], partials := 0, bcut := 0, rewound := none, partialTiles := [], nextTile := 0, counted := [], prims := 0, cores := [], nextFront := 0, paused := false, shaded := 0, grows := 0, preempts := 0, stopping := false, fail := none, flags := 0, tStart := s.time }
  match tRead noMaster ctx (pPool d) 64 s with
  | .fault f _ _ s => let (c, s) := feFault f ctx s; endOp o stTransFault c 0 s
  | .bad c s => endOp o stOpError c 0 s
  | .severed s => endOp o stSevered 0 0 s
  | .wait s => s
  | .ok b s =>
    if !zeros b 26 2 ∨ !zeros b 48 16 ∨ 2 ≤ fld b 25 1 then endOp o stBadRecord 0 0 s
    else
      let c := q64 (fld b 8 8)
      let p := { p0 with prod := q64 (fld b 0 8), cons := c, start := c }
      let go := s.onRnd fun x => { x with passes := x.passes ++ [p] }
      if fld b 24 1 < 4 ∨ 20 < fld b 24 1 ∨ fld b 16 8 % 8 ≠ 0 then failPass o stOpError dtPool go
      else passTr o noMaster ctx ((tWrite noMaster ctx (pPool d + 28) (natLe 4 0 ++ natLe 8 c.toNat ++ natLe 8 0) go).bind fun _ s =>
        binStateInit p s) s fun _ s => s

/-- RENDER_PASS is checked, and starts when a slot and its pool are free (R269, R279). -/
def renderDo (o : OpRef) (e : Entry) (q : Op) (s : State) : State :=
  let s := closeOps s
  let b := q.body
  if (s.pass? o).isSome then s
  else if !zeros b 36 4 ∨ !zeros b 48 16 ∨ fld b 16 8 % 64 ≠ 0 ∨ fld b 24 8 % 64 ≠ 0 ∨ fld b 40 8 % 32 ≠ 0 ∨
      fld b 32 4 = 0 ∨ 1048576 < fld b 32 4 then endOp o stBadRecord 0 0 s
  else dispatchRead o e.ctx (fld b 16 8) 256 (fun d s =>
    if passReserved d then endOp o stBadRecord 0 0 s
    else match passCheck d with
      | some c => endOp o stOpError c 0 s
      | none =>
        if bit (pFlags d) 2 then
          dispatchRead o e.ctx (fld d 24 8) 64 (fun sip s =>
            if !zeros sip 18 6 ∨ !zeros sip 32 32 then endOp o stBadRecord 0 0 s
            else if fld sip 8 4 = 0 ∨ 256 < fld sip 8 4 ∨ fld sip 0 8 % 16 ≠ 0 then endOp o stOpError dtSip 0 s
            else dispatchRead o e.ctx (fld sip 0 8) (16 * fld sip 8 4) (fun recs s =>
              let ops := sipRecords (fld sip 12 1) recs
              if (ops.getD []).any sipReserved then endOp o stBadRecord 0 0 s
              else if sipBad d sip ops then endOp o stOpError dtSip 0 s
              else if passBlocked s e.ctx d then s
              else passStart o e.ctx d sip (ops.getD []) s) s) s
        else if passBlocked s e.ctx d then s
        else passStart o e.ctx d [] [] s) s

/-! ## Draws and pipelines (R270, R271) -/

/-- A draw record with a field out of range. -/
def drawBad (d b : List Byte) : Bool :=
  let fmt := fld b 37 1
  let size := if fmt = 2 then 4 else 2
  let x0 := fld b 48 2
  let y0 := fld b 50 2
  let x1 := fld b 52 2
  let y1 := fld b 54 2
  decide (fld b 0 8 % 128 ≠ 0) || decide (3 < fld b 36 1) || decide (2 < fmt) || decide (fld b 20 4 = 0) ||
  (decide (fmt ≠ 0) && decide (fld b 8 8 % size ≠ 0)) || !zeros b 38 2 || decide (fld b 40 8 % 16 ≠ 0) || !zeros b 56 8 ||
  decide (x1 ≤ x0) || decide (pW d < x1) || decide (y1 ≤ y0) || decide (pH d < y1)

/-- A blend record with a field out of range. -/
def blendBad (b : List Byte) : Bool :=
  let c := fld b 0 1
  bit c 7 || decide (4 < bits c 3 1) || decide (4 < bits c 6 4) || (upTo 4).any (fun i => decide (9 < fld b (1 + i) 1)) ||
  decide (16 ≤ fld b 5 1) || !zeros b 6 2

/-- A pipeline record with a field out of range. -/
def pipeBad (b : List Byte) : Bool :=
  let zmin := fp32Val false (fld b 48 4)
  let zmax := fp32Val false (fld b 52 4)
  let fs := fld b 8 8
  let r := fld b 19 1
  decide (fld b 0 8 % 256 ≠ 0) || decide (fs % 256 ≠ 0) || decide (fld b 16 1 < 8) ||
  (if fs = 0 then decide (fld b 17 1 ≠ 0) else decide (fld b 17 1 < 8)) || decide (7 < fld b 18 1) || decide (8 ≤ r) ||
  decide (bits r 1 0 = 3) || decide (32 ≤ fld b 20 1) || decide (16 ≤ fld b 21 1) || decide (512 ≤ fld b 22 2) ||
  !zeros b 28 4 || !zeros b 56 8 || !zeros b 96 32 ||
  !(vGe zmin Val.zero && vGe zmax zmin && vGe (.fin false 1 0) zmax) ||
  (upTo 4).any fun j => blendBad (slice b (64 + 8 * j) 8)

/-- A code object fails the checks of R239; a vertex or fragment group has no shared memory. -/
def codeBad (hdr : List Byte) (regs : Nat) : Bool :=
  let (known, minRegs, minShared) := Config.codeHeader hdr
  !known || decide (regs < minRegs) || decide (0 < minShared)

/-- A draw and its pipeline, read by a master of the pass. -/
def readDraw (m : Nat) (p : PassRun) (drawVa draw : Nat) (s : State) : Tr (List Byte × List Byte) :=
  (tRead m p.ctx (drawVa + 64 * draw) 64 s).bind fun db s =>
    (tRead m p.ctx (fld db 0 8) 128 s).bind fun pb s => .ok (db, pb) s

/-! ## Batches (R273, R274) -/

/-- Viewport and depth range of a pipeline. -/
def viewOf (pb : List Byte) : View := (upTo 4).map fun i => fp32Val false (fld pb (32 + 4 * i) 4)
def zRange (pb : List Byte) : Val × Val := (fp32Val false (fld pb 48 4), fp32Val false (fld pb 52 4))

/-- A batch under construction: keyed vertices, records, primitives, primitives taken. -/
structure Cut where
  keys  : List (Nat × Nat)     -- key of record i, for the vertices of the draw
  recs  : List (List Word)
  prims : List BinPrim
  taken : Nat

/-- Kind of primitive of a topology. -/
def topoKind : Nat → Nat
  | 0 => 0 | 1 => 0 | 2 => 1 | _ => 2

/-- Fans a clipped polygon into primitives of vertex positions. -/
def fanOf (kind n : Nat) : List (List Nat) :=
  if kind = 0 then (upTo (n - 2)).map fun i => [0, i + 1, i + 2]
  else if n = 0 then [] else [upTo n]

/-- Records of the given vertices: those of the draw are shared in a batch, generated ones are new. -/
def addVerts (mk : ClipVert → List Word) : List ClipVert → Cut → List Nat × Cut
  | [], c => ([], c)
  | v :: vs, c =>
    let found := match v.key with
      | some k => c.keys.findIdx? (· = k)
      | none => none
    match found with
    | some i => let (l, c) := addVerts mk vs c; (i :: l, c)
    | none =>
      let i := c.recs.length
      -- a generated vertex takes a key that no vertex of a draw has
      let (l, c) := addVerts mk vs { c with keys := c.keys ++ [v.key.getD (2 ^ 64, i)], recs := c.recs ++ [mk v] }
      (i :: l, c)

/-- A primitive's places in the tiles, unless it is culled (R274, R287). -/
def binPrim (raster kind pidx : Nat) (recs : List (List Word)) (v : List Nat) (sc : Nat × Nat × Nat × Nat) : Option BinPrim :=
  let pts := v.filterMap fun i => recPoint (recs.getD i [])
  if pts.length ≠ v.length then none
  else
    let front := match kind, pts with
      | 0, [a, b, c] => triFront raster a b c
      | _, _ => some true
    match front with
    | none => none
    | some fr =>
      let (tx0, tx1, ty0, ty1) := boxTiles (primPoly kind pts) sc.1 sc.2.1 sc.2.2.1 sc.2.2.2
      if tx0 = tx1 then none else some { kind, v, pidx, front := fr, tx0, tx1, ty0, ty1 }

/-- Takes primitives into a batch until it closes (R273); none: a vertex that it needs is not shaded. -/
def cutBatch (ftz : Bool) (db pb : List Byte) (vert : Nat × Nat → Option ClipVert) : List (List (Nat × Nat)) → Cut → Option Cut
  | [], c => some c
  | ks :: rest, c =>
    let vs := ks.map vert
    if vs.any Option.isNone then none
    else
      let vs := vs.filterMap id
      let kind := topoKind (fld db 36 1)
      let vp := viewOf pb
      let (zmin, zmax) := zRange pb
      let poly := clipPrim ftz vp kind vs
      let mk := vertexRecord ftz vp zmin zmax
      let (_, c1) := addVerts mk vs c
      let (idx, c1) := addVerts mk poly c1
      if 256 ≤ c.taken ∨ (0 < c.taken ∧ 256 < c1.recs.length) then some c
      else
        let sc := (fld db 48 2, fld db 50 2, fld db 52 2, fld db 54 2)
        let new := (fanOf kind poly.length).filterMap fun f =>
          binPrim (fld pb 19 1) kind c.taken c1.recs (f.map fun i => idx.getD i 0) sc
        cutBatch ftz db pb vert rest { c1 with prims := c1.prims ++ new, taken := c.taken + 1 }

/-- Primitives of a draw from one on, at most 256, as vertex keys: instance-major (R270). -/
def primsFrom (db : List Byte) (raw : List Nat) (first : Nat) : List (List (Nat × Nat)) × Nat :=
  let ps := drawPrims (fld db 36 1) (fld db 37 1) (fld db 28 4) (fld db 24 4) raw
  let n := ps.length
  let total := n * fld db 20 4
  let l := (upTo (Nat.min 256 (total - first))).map fun i =>
    let k := first + i
    (ps.getD (k % n) []).map fun v => (v, (fld db 32 4 + k / n) % 2 ^ 32)
  (l, total)

/-- Raw indices of a draw: its index buffer, or places. -/
def readIndices (ctx : Nat) (db : List Byte) (s : State) : Tr (List Nat) :=
  let n := fld db 16 4
  match fld db 37 1 with
  | 0 => .ok (upTo n) s
  | fmt =>
    let size := if fmt = 1 then 2 else 4
    (tRead noMaster ctx (fld db 8 8 + size * fld db 24 4) (size * n) s).bind fun b s =>
      .ok ((upTo n).map fun i => fld b (size * i) size) s

/-- Batches that a cluster's front end holds. -/
def frontOf (p : PassRun) (c : Nat) : List BinBatch := p.batches.filter fun b => b.cluster = c

/-- A front end of the mask that can take a batch (R273). -/
def frontOpen (s : State) (p : PassRun) (mask c : Nat) : Bool :=
  bit mask c && decide (s.power c = .on) && clkCluster s c && clusterUp s c && decide ((frontOf p c).length < 2) && !p.waiting.contains c

/-- The cluster that the next batch goes to: the next of the mask, round from the last, whose front end can
take one (R273). -/
def nextCluster (s : State) (p : PassRun) (mask : Nat) : Option Nat :=
  ((upTo 8).map fun i => (p.nextFront + i) % 8).find? (frontOpen s p mask)

/-- Pre-emption holds a pass at a draw boundary: while a batch of an earlier draw is not binned, and while the
work that it yields to is ready (R304). -/
def heldAtDraw (s : State) (p : PassRun) : Bool :=
  p.stopping && decide (p.prim = 0) && (decide (p.batches ≠ []) || yields s p.op)

/-- A pre-empted pass at its boundary gives its units up, which counts there (R304). -/
def passBoundary (o : OpRef) (s : State) : State :=
  s.onPass o fun p =>
    let at' := if p.phase = .binning then decide (p.prim = 0) && decide (p.batches = []) else decide (tilesOf s o = [])
    if p.stopping ∧ !p.paused ∧ p.fail.isNone ∧ at' ∧ (s.op? o).any (fun q => q.2.ending.isNone) then { p with paused := true, preempts := p.preempts + 1 } else p

/-- A batch as it is dealt to a front end, and the pass after it. -/
def dealBatch (c : Nat) (db pb hdr : List Byte) (total : Nat) (cut : Cut) (p : PassRun) : PassRun :=
  let b : BinBatch := { num := p.batch, cluster := c, draw := p.draw, first := p.prim, count := cut.taken, recs := cut.recs, prims := cut.prims, verts := cut.keys.filter fun k => k.1 ≠ 2 ^ 64, placed := 0, code := fld pb 0 8, header := hdr, regs := fld pb 16 1, const := fld db 40 8, done := 0, block := 0 }
  let next := p.prim + cut.taken
  { p with batches := p.batches ++ [b], batch := p.batch + 1, draw := if next < total then p.draw else p.draw + 1, prim := if next < total then next else 0, stopping := p.stopping && decide (p.prim ≠ 0), paused := false, nextFront := (c + 1) % 8 }

/-- BATCH_DEAL: the next batch goes to a front end, with what its vertex shader gives (R272 to R274). -/
def dealDo (o : OpRef) (c : Nat) (verts : List VertexOut) (io : HostIO) (s : State) : State :=
  let s := closeOps (applyIO io s)
  match s.pass? o, s.op? o with
  | some p, some (_, q) =>
    if p.phase ≠ .binning ∨ p.fail.isSome ∨ fld q.body 32 4 ≤ p.draw ∨ nextCluster s p q.emask ≠ some c ∨ heldAtDraw s p ∨ !ctxRuns s p.ctx then s
    else passTr o noMaster p.ctx (readDraw noMaster p (fld q.body 24 8) p.draw s) s fun r s =>
      let (db, pb) := r
      if drawBad p.desc db ∨ pipeBad pb then failPass o stOpError dtPipe s
      else
        let heads := (tRead noMaster p.ctx (fld pb 0 8) 64 s).bind fun vs s =>
          (if fld pb 8 8 = 0 then .ok [] s else tRead noMaster p.ctx (fld pb 8 8) 64 s).bind fun fs s => .ok (vs, fs) s
        passTr o noMaster p.ctx heads s fun h s =>
          if codeBad h.1 (fld pb 16 1) ∨ (h.2 ≠ [] ∧ codeBad h.2 (fld pb 17 1)) then failPass o stOpError dtPipe s
          else passTr o noMaster p.ctx (readIndices p.ctx db s) s fun raw s =>
            let (prims, total) := primsFrom db raw p.prim
            if prims = [] then s.onPass o fun p => { p with draw := p.draw + 1, prim := 0, stopping := false, paused := false }
            else
              let words := 4 + 4 * fld pb 18 1
              let vert := fun (k : Nat × Nat) => (verts.find? fun v => decide (v.index = k.1) && decide (v.inst = k.2)).map fun v =>
                { key := some k, words := (upTo words).map fun i => (v.clip ++ v.vary).getD i 0 : ClipVert }
              match cutBatch (s.ctx p.ctx).ftz db pb vert prims { keys := [], recs := [], prims := [], taken := 0 } with
              | none => s
              | some cut => s.onPass o (dealBatch c db pb h.1 total cut)
  | _, _ => s

/-! ## Bin memory (R275 to R278) -/

/-- How an allocation in bin memory ends. -/
inductive Take (α : Type) where
  | ok (a : α) (p : PassRun) (s : State)
  | empty (p : PassRun) (s : State)
  | bad (s : State)                    -- POOL_BAD
  | fault (f : Flt) (s : State)
  | severed (s : State)
  | wait

def Take.bind {α β : Type} (r : Take α) (f : α → PassRun → State → Take β) : Take β :=
  match r with
  | .ok a p s => f a p s
  | .empty p s => .empty p s
  | .bad s => .bad s
  | .fault x s => .fault x s
  | .severed s => .severed s
  | .wait => .wait

/-- A memory access on the way. -/
def Tr.take {α : Type} (p : PassRun) : Tr α → Take α
  | .ok a s => .ok a p s
  | .fault f _ _ s => .fault f s
  | .bad _ s => .bad s
  | .severed s => .severed s
  | .wait _ => .wait

/-- Takes the next chunk of the pool (R277, R278, R280). -/
def takeChunk (c : Nat) (p : PassRun) (s : State) : Take Unit :=
  ((tRead noMaster p.ctx (pPool p.desc) 64 s).take p).bind fun b p s =>
    let p := { p with prod := if p.cons < p.prod then p.prod else q64 (fld b 0 8) }
    if p.prod ≤ p.cons then .empty p s
    else
      let slot := p.cons.toNat % 2 ^ fld b 24 1
      ((tRead noMaster p.ctx (fld b 16 8 + 8 * slot) 8 s).take p).bind fun a p s =>
        let va := leNat a
        if va % 65536 ≠ 0 then .bad s
        else
          let p := { p with cons := p.cons + 1, chunks := tblSet (0, 0) p.chunks c (va + 1, 0) }
          ((tWrite noMaster p.ctx (pPool p.desc + 8) (natLe 8 p.cons.toNat) s).take p)

/-- Room for an item of whole segments in a cluster's chunk; the address it gets. -/
def allocItem (c size : Nat) (p : PassRun) (s : State) : Take Nat :=
  let fit := fun (p : PassRun) (s : State) (k : Unit → Take Nat) =>
    let (va, used) := tblGet (0, 0) p.chunks c
    if va ≠ 0 ∧ used + size ≤ 65536 then
      .ok (va - 1 + used) { p with chunks := tblSet (0, 0) p.chunks c (va, used + size) } s
    else k ()
  fit p s fun _ => (takeChunk c p s).bind fun _ p s => fit p s fun _ => .empty p s

/-- Appends entries to a list; a new segment, when one is needed, is already allocated. -/
def silkPut (p : PassRun) : List Nat → Option Nat → SilkList → State → Tr SilkList
  | [], _, l, s => .ok l s
  | e :: es, seg, l, s =>
    if l.head ≠ 0 ∧ l.used < 31 then
      (tWrite noMaster p.ctx (l.last + 8 + 8 * l.used) (natLe 8 e) s).bind fun _ s =>
        silkPut p es seg { l with used := l.used + 1 } s
    else match seg with
      | none => .ok l s
      | some va =>
        let link := if l.head = 0 then Tr.ok () s else tWrite noMaster p.ctx l.last (natLe 8 va) s
        link.bind fun _ s => (tWrite noMaster p.ctx va (natLe 8 0 ++ natLe 8 e ++ List.replicate 240 0) s).bind fun _ s =>
          silkPut p es none { l with head := if l.head = 0 then va else l.head, last := va, used := 1 } s

/-- Entries of R275. -/
def batchEntry (num draw : Nat) : Nat := 1 + num % 2 ^ 32 * 16 + draw % 2 ^ 20 * 2 ^ 36
def vblockEntry (va : Nat) : Nat := 2 + va / 64 % 2 ^ 42 * 16
def primEntry (x : BinPrim) : Nat :=
  let v := fun (i : Nat) => x.v.getD i 0
  3 + v 0 * 16 + v 1 * 2 ^ 12 + v 2 * 2 ^ 20 + x.pidx * 2 ^ 28 + x.kind * 2 ^ 36 + b2n x.front * 2 ^ 38

/-- Appends a primitive to a tile's list, after the batch's own entries when it is the batch's first
there. -/
def appendPrim (b : BinBatch) (x : BinPrim) (t : Nat) (p : PassRun) (s : State) : Take Unit :=
  let c := b.cluster
  let l := silkOf p c t
  let es := (if l.batch = b.num + 1 then [] else [batchEntry b.num b.draw, vblockEntry b.block]) ++ [primEntry x]
  let need := l.head = 0 ∨ 31 < l.used + es.length
  let seg : Take (Option Nat) := if need then (allocItem c 256 p s).bind fun va p s => .ok (some va) p s else .ok none p s
  seg.bind fun va p s => ((silkPut p es va l s).take p).bind fun l' p s =>
    let p := { p with lists := tblSet SilkList.none' p.lists (listKey c t) { l' with batch := b.num + 1, first := if l.head = 0 then b.num + 1 else l.first } }
    (binStatePut p t s).take p

/-- The writes of a batch after its vertex block, in order: primitive and tile. -/
def binWork (d : List Byte) (b : BinBatch) : List (BinPrim × Nat) :=
  b.prims.flatMap fun x => (upTo (x.ty1 - x.ty0)).flatMap fun j => (upTo (x.tx1 - x.tx0)).map fun i =>
    (x, (x.ty0 + j) * pTX d + x.tx0 + i)

/-- The vertex block of a batch (R276). -/
def writeBlock (b : BinBatch) (p : PassRun) (s : State) : Take Nat :=
  let bytes := b.recs.flatMap fun r => r.flatMap fun w => natLe 4 w.toNat
  (allocItem b.cluster ((bytes.length + 255) / 256 * 256) p s).bind fun va p s =>
    ((tWrite noMaster p.ctx va bytes s).take p).bind fun _ p s => .ok va p s

/-- Goes on with a batch where it stopped. -/
def binSteps : List (BinPrim × Nat) → BinBatch → PassRun → State → BinBatch × Take Unit
  | [], b, p, s => (b, .ok () p s)
  | (x, t) :: l, b, p, s => match appendPrim b x t p s with
    | .ok _ p s => binSteps l { b with done := b.done + 1 } p s
    | other => (b, other)

/-- Bins a batch: its vertex block first, unless nothing of it is left. -/
def binRun (b : BinBatch) (p : PassRun) (s : State) : BinBatch × Take Unit :=
  let work := binWork p.desc b
  if work = [] then (b, .ok () p s)
  else if b.done = 0 then match writeBlock b p s with
    | .ok va p s => binSteps work { b with done := 1, block := va } p s
    | .empty p s => (b, .empty p s)
    | .bad s => (b, .bad s)
    | .fault f s => (b, .fault f s)
    | .severed s => (b, .severed s)
    | .wait => (b, .wait)
  else binSteps (work.drop (b.done - 1)) b p s

def storePass (p : PassRun) (s : State) : State := s.onPass p.op fun _ => p

/-- The batch at which binning will restart, with its place in the draws (R281). -/
def restartAt (p : PassRun) : Nat × Nat × Nat :=
  p.batches.foldl (fun r b => if b.num < r.1 then (b.num, b.draw, b.first) else r) (p.batch, p.draw, p.prim)

/-- A partial render starts (R281 step 1): the batches that are not binned are given up, with their groups. -/
def partialStart (o : OpRef) (s : State) : State :=
  let s := s.onPass o fun p =>
    let (n, d, f) := restartAt p
    { p with phase := .part, bcut := n, batch := n, draw := d, prim := f, batches := [], growAt := none, waiting := [], nextTile := 0 }
  syncUnits o (dropRole o (fun r => match r with
    | .vertex _ => true
    | _ => false) s)

/-- The device clears DECLINE and starts a partial render (R280 step 5). -/
def partialBegin (p : PassRun) (s0 s : State) : State :=
  passTr p.op noMaster p.ctx (poolPut p 25 1 0 s) s0 fun _ s => partialStart p.op s

/-- A cluster finds no chunk: a grow fault, or one more cluster of the pending one (R280). -/
def growRaise (c : Nat) (p : PassRun) (s0 s : State) : State :=
  let p := { p with waiting := p.waiting ++ [c] }
  match p.growAt with
  | some _ => storePass p s
  | none =>
    let p := { p with growAt := some s.time, growSeq := p.growSeq + 1, grows := p.grows + 1 }
    passTr p.op noMaster p.ctx (poolPut p 28 4 p.growSeq (storePass p s)) s0 fun _ s =>
      if pGrowWait p.desc = 0 then partialBegin p s0 s else raiseVec (.grow p.op) (fnOfCtx s p.ctx) (fld p.desc 32 2) s

/-- The outcome of work in bin memory for a cluster. -/
def binEnd (o : OpRef) (c ctx : Nat) (r : Take Unit) (s0 : State) (k : PassRun → State → State) (keep : PassRun → PassRun) : State :=
  match r with
  | .ok _ p s => k p s
  | .empty p s => growRaise c (keep p) s0 s
  | .bad s => failPass o stOpError dtPool s
  | .fault f s => passFeFault o ctx f s
  | .severed s => failPass o stSevered 0 s
  | .wait => s0

/-- Every vertex of a batch has been shaded: its groups were all placed, and all have exited (R273, R306). -/
def batchShaded (s : State) (o : OpRef) (b : BinBatch) : Bool :=
  decide (b.placed = b.verts.length) && s.shd.groups.all fun g => !(decide (g.op = o) && decide (g.role = .vertex b.num))

/-- BATCH_BINNED: the oldest batch of a front end is binned (R274), once its vertices are shaded. -/
def binnedDo (o : OpRef) (c : Nat) (io : HostIO) (s : State) : State :=
  let s := closeOps (applyIO io s)
  match s.pass? o with
  | none => s
  | some p => match frontOf p c with
    | [] => s
    | b :: _ =>
      if p.phase ≠ .binning ∨ p.waiting.contains c ∨ !batchShaded s o b ∨ !ctxRuns s p.ctx then s
      else
        let (b', r) := binRun b p s
        binEnd o c p.ctx r s
          (fun p s => passBoundary o (storePass { p with batches := p.batches.filter (fun x => x.num ≠ b.num), prims := if p.counted.contains b.num then p.prims else p.prims + b.count, counted := if p.counted.contains b.num then p.counted else p.counted ++ [b.num] } s))
          (fun p => { p with batches := mapIf (fun x => x.num = b.num) (fun _ => b') p.batches })

/-- Waiting clusters take chunks in request order (R280 step 4). -/
def grantChunks (s0 : State) : List Nat → PassRun → State → State
  | [], p, s => storePass p s
  | c :: cs, p, s => match takeChunk c p s with
    | .ok _ p s => grantChunks s0 cs p s
    | .empty p s =>
      let s := growRaise c p s0 s
      match s.pass? p.op with
      | some p => if p.phase = .binning ∧ p.fail.isNone then grantChunks s0 cs p s else s
      | none => s
    | .bad s => failPass p.op stOpError dtPool s
    | .fault f s => passFeFault p.op p.ctx f s
    | .severed s => failPass p.op stSevered 0 s
    | .wait => s0

/-- GROW_POLL (R280 steps 3 to 5). -/
def growPollDo (o : OpRef) (io : HostIO) (s : State) : State :=
  let s := closeOps (applyIO io s)
  match s.pass? o with
  | none => s
  | some p => match p.growAt with
    | none => s
    | some since =>
      if !ctxRuns s p.ctx then s
      else passTr o noMaster p.ctx (tRead noMaster p.ctx (pPool p.desc) 64 s) s fun b s' =>
        let prod := q64 (fld b 0 8)
        if p.cons < prod then
          grantChunks s p.waiting { p with prod, growAt := none, waiting := [] } s'
        else if bit (fld b 25 1) 0 ∨ since + pGrowWait p.desc * 1000 ≤ s.time then partialBegin p s s'
        else s'

/-! ## Tiles (R284 to R289) -/

/-- A tile has an entry that this phase shades. -/
def tileListed (p : PassRun) (t : Nat) : Bool :=
  (upTo 8).any fun c =>
    let l := silkOf p c t
    decide (l.head ≠ 0) && (decide (p.phase ≠ .part) || decide (l.first ≤ p.bcut))

/-- A tile is shaded in this phase: one with entries, or one that a partial render left to finish. -/
def tileShades (p : PassRun) (t : Nat) : Bool :=
  tileListed p t || (decide (p.phase ≠ .part) && p.partialTiles.contains t)

/-- A tile without entries still has a clear value to store or resolve (R289). -/
def tileClears (p : PassRun) : Bool :=
  decide (p.phase ≠ .part) && (atts p.desc).any fun j =>
    let a := att p.desc j
    decide (attLoad a = 1) && (decide (attStore a = 0) || decide (attResolve a ≠ 0))

/-- The next tile that needs something. -/
def nextTile (p : PassRun) : Option Nat :=
  ((upTo (pTiles p.desc)).drop p.nextTile).find? fun t => tileShades p t || tileClears p

/-- Every tile of a phase is dealt and stored. -/
def phaseOver (s : State) (p : PassRun) : Bool := (nextTile p).isNone && decide (tilesOf s p.op = [])

/-- A pass whose tiles are all stored completes (R289). -/
def passDone (o : OpRef) (s : State) : State :=
  match s.pass? o with
  | some p => match p.fail with
    | some (st, d) => if tilesOf s o = [] then endPass o st d s else s
    | none => if p.phase = .shading ∧ phaseOver s p then endPass o stOk 0 s else s
  | none => s

/-- Address of a tile of a surface. -/
def surfTile (d : List Byte) (j t : Nat) : Nat := attSurf (att d j) + t * attTile d j

/-- A tile of one repeated sample value. -/
def fillTile (d : List Byte) (j v : Nat) : List Byte :=
  (List.replicate (1024 * pSamples d) (natLe (fmtBytes (attFmt (att d j))) v)).flatten

def clearVal (a : List Byte) : Nat := fld a 24 8 % 2 ^ (8 * fmtBytes (attFmt a))

/-- The metadata entry of a cleared frame (R298, R303). -/
def fbcClearEntry (word : Nat) : List Byte :=
  natLe 8 (if word = 0 then 0 else 0x9999999999999999) ++ natLe 4 word ++ natLe 4 fbcTag ++ List.replicate 16 0

/-- Clears a frame through its metadata, and drops its lines from both L2s (R303). -/
def fbcClearFrame (key frame word : Nat) (s : State) : State :=
  let s := dramWrite key (fbcBase s + 32 * frame) (fbcClearEntry word) s
  (upTo 2).foldl (fun s d =>
    let x := s.l2 d
    s.setL2 d { x with lines := x.lines.filter (fun l => l.line / 32 ≠ frame), misses := x.misses.filter (fun m => m.line / 32 ≠ frame) }) s

/-- Writes a cleared tile: on an FBC page of a 4-byte format, only metadata (R289). -/
def writeClear (m : Nat) (p : PassRun) (j t : Nat) (s : State) : Tr Unit :=
  let a := att p.desc j
  let va := surfTile p.desc j t
  let v := clearVal a
  match xlate m p.ctx va .write s with
  | .ok l s =>
    let pa := l.base + (va - l.va)
    let viaMeta := l.fbc && decide (fmtBytes (attFmt a) = 4) && (match target s pa with
      | .pkg _ _ => true
      | _ => false)
    if viaMeta then
      (trMap (upTo (pSamples p.desc)) (fun i s => match xlate m p.ctx (va + 4096 * i) .write s with
        | .ok l s =>
          let frame := (l.base + (va + 4096 * i - l.va)) / 4096
          if l.fbc then .ok () (fbcClearFrame l.key frame v s)
          else tWrite m p.ctx (va + 4096 * i) ((fillTile p.desc j v).take 4096) s
        | .fault f s => .fault f va .write s
        | .severed s => .severed s
        | .wait s => .wait s) s).bind fun _ s => .ok () s
    else tWrite m p.ctx va (fillTile p.desc j v) s
  | .fault f s => .fault f va .write s
  | .severed s => .severed s
  | .wait s => .wait s

/-- Address of a resolved pixel; none beyond the picture of a LINEAR surface (R268). -/
def resolveAddr (d : List Byte) (j t x y : Nat) : Option Nat :=
  let a := att d j
  let b := fmtBytes (attFmt a)
  if attLinear a then
    let px := t % pTX d * 32 + x
    let py := t / pTX d * 32 + y
    if px < pW d ∧ py < pH d then some (attResolve a + py * attPitch a + px * b) else none
  else some (attResolve a + t * 1024 * b + pixelOff b x y)

/-- Writes an attachment's resolved tile; val gives the code of a pixel. -/
def writeResolve (m : Nat) (p : PassRun) (j t : Nat) (val : Nat → Nat → Nat) (s : State) : Tr Unit :=
  let a := att p.desc j
  let f := attFmt a
  if attResolve a = 0 then .ok () s
  else (trMap (upTo 1024) (fun i s =>
    let (x, y) := pixelAt i
    match resolveAddr p.desc j t x y with
    | some va => tWrite m p.ctx va (natLe (fmtBytes f) (val x y)) s
    | none => .ok () s) s).bind fun _ s => .ok () s

/-- A tile without entries: clear values go to memory without a core, to its resolved copy too (R289). -/
def clearTile (p : PassRun) (t : Nat) (s : State) : Tr Unit :=
  (trMap (atts p.desc) (fun j s =>
    let a := att p.desc j
    if attLoad a ≠ 1 then .ok () s
    else
      let st := if attStore a = 0 then writeClear noMaster p j t s else .ok () s
      st.bind fun _ s => writeResolve noMaster p j t (fun _ _ => clearVal a) s) s).bind
    fun _ s => .ok () s

/-- A core with room for a tile buffer, and the buffer's place (R284). -/
def tileCore (s : State) (mask ctx size : Nat) : Option (Nat × Nat) :=
  let held := fun (k : Nat) => (s.rnd.tiles.filter fun t => t.core = k).length
  (upTo 64).foldl (fun best k =>
    if coreOpen s mask k ∧ held k < 2 then
      match tilePlace s k ctx size with
      | some b => match best with
        | some (k', _) => if held k < held k' then some (k, b) else best
        | none => some (k, b)
      | none => best
    else best) none

/-- Physical address of a tile's buffer. -/
def tilePa (t : PassTile) : Nat := 0x8100000000 + t.core * 0x40000 + t.base * 1024

/-- A core's access to its own tile memory. -/
def tileAttr (t : PassTile) : Attr := { key := t.ctx, cache := 3, fbc := false, die := masterDie t.core }

def tileWrite (t : PassTile) (off : Nat) (bs : List Byte) (s : State) : Tr Unit :=
  (paWrite t.ctx (tileAttr t) (tilePa t + off) bs s).tr 0 (tilePa t + off) .write s

def tileRead (t : PassTile) (off n : Nat) (s : State) : Tr (List Byte) :=
  (paRead t.ctx (tileAttr t) (tilePa t + off) n s).tr 0 (tilePa t + off) .read s

/-- Fills a tile's buffer at the start of its shading (R289, R281 step 5). -/
def loadTile (p : PassRun) (t : PassTile) (s : State) : Tr Unit :=
  (trMap (atts p.desc) (fun j s =>
    let a := att p.desc j
    let bytes := if attLoad a = 0 ∨ p.partialTiles.contains t.tile then tRead t.core p.ctx (surfTile p.desc j t.tile) (attTile p.desc j) s
      else .ok (fillTile p.desc j (if attLoad a = 1 then clearVal a else 0)) s
    bytes.bind fun bs s => tileWrite t (attOff p.desc j) bs s) s).bind fun _ s => .ok () s

/-- A core takes part in a pass: with its first tile or group of the op it drops its L1 lines of the context
(R250). -/
def joinCore (o : OpRef) (k ctx : Nat) (s : State) : State :=
  match s.pass? o with
  | some p => if p.cores.contains k then s else (l1Drop k ctx s).onPass o fun p => { p with cores := p.cores ++ [k] }
  | none => s

/-- An earlier RENDER_PASS of the ring still has tiles to store: an entry's passes are ordered among themselves
by predecessors alone (R291). -/
def earlierPass (s : State) (o : OpRef) : Bool :=
  s.fe.entries.any fun e => decide (e.ring = o.ring.val) && decide (e.seq < o.seq) &&
    e.ops.any fun p => decide (p.opcode = 0x20) && decide (p.phase ≠ .done)

/-- Pre-emption holds a pass at a tile boundary: while a core holds a tile, and while the work that it yields to
is ready (R304). -/
def heldAtTile (s : State) (p : PassRun) : Bool := p.stopping && (decide (tilesOf s p.op ≠ []) || yields s p.op)

/-- TILE_ASSIGN (R284, R289). The tiles of a partial render, too, wait for those of an earlier pass (R291). -/
def assignDo (o : OpRef) (t : Nat) (io : HostIO) (s : State) : State :=
  let s := closeOps (applyIO io s)
  match s.pass? o, s.op? o with
  | some p, some (_, q) =>
    if p.phase = .binning ∨ p.fail.isSome ∨ nextTile p ≠ some t ∨ heldAtTile s p ∨ (p.phase = .part ∧ earlierPass s o) ∨ !ctxRuns s p.ctx then s
    else
      let go := s.onPass o fun p => { p with nextTile := t + 1, stopping := false, paused := false }
      if !tileShades p t then
        passTr o noMaster p.ctx (clearTile p t go) s fun _ s => passDone o s
      else match tileCore s q.emask p.ctx (footprint p.desc / 1024) with
        | none => s
        | some (k, base) =>
          let pt : PassTile := { op := o, ctx := p.ctx, tile := t, core := k, base, size := footprint p.desc / 1024, placed := 0, shaded := false }
          let s' := syncUnits o (joinCore o k p.ctx (go.onRnd fun x => { x with tiles := x.tiles ++ [pt] }))
          match loadTile p pt s' with
          | .ok _ s => s
          | .wait _ => s
          | .fault f va acc s => passFault o k p.ctx f va acc (dropTile pt s)  -- a tile that could not be loaded is not held
          | .bad d s => failPass o stOpError d (dropTile pt s)
          | .severed s => failPass o stSevered 0 (dropTile pt s)
  | _, _ => s

/-! ## Shading a tile (R286 to R288) -/

/-- A primitive of a tile as its core reads it from the silk lists. -/
structure TilePrim where
  batch : Nat
  pidx  : Nat
  db    : List Byte
  pb    : List Byte
  kind  : Nat
  front : Bool
  verts : List (List Word)

/-- Reads a silk list: its raw entries in order. Fuel: segments. -/
def silkRead (m ctx : Nat) : Nat → Nat → State → Tr (List Nat)
  | 0, _, s => .ok [] s
  | n + 1, va, s =>
    if va = 0 then .ok [] s
    else (tRead m ctx va 256 s).bind fun b s =>
      let es := (upTo 31).map fun i => fld b (8 + 8 * i) 8
      let body := es.takeWhile fun e => e % 16 ≠ 0
      if body.length < 31 then .ok body s
      else (silkRead m ctx n (fld b 0 8) s).bind fun rest s => .ok (body ++ rest) s

/-- The reader's place in a list: batch, its draw and pipeline, its block. -/
structure SilkCur where
  batch : Nat
  db    : List Byte
  pb    : List Byte
  block : Nat
  out   : List TilePrim

/-- Reads the primitives of a tile's list that the phase shades. -/
def silkPrims (m : Nat) (p : PassRun) (drawVa : Nat) (es : List Nat) (s : State) : Tr (List TilePrim) :=
  (es.foldl (fun (r : Tr SilkCur) e => r.bind fun c s =>
    match e % 16 with
    | 1 => (readDraw m p drawVa (bits e 55 36) s).bind fun d s => .ok { c with batch := bits e 35 4, db := d.1, pb := d.2 } s
    | 2 => .ok { c with block := bits e 45 4 * 64 } s
    | 3 =>
      let size := 16 + 16 * fld c.pb 18 1
      let kind := bits e 37 36
      let n := if kind = 0 then 3 else if kind = 1 then 2 else 1
      (trMap (upTo n) (fun i s => tRead m p.ctx (c.block + size * bits e (11 + 8 * i) (4 + 8 * i)) size s) s).bind fun vs s =>
        let verts := vs.map fun b => (upTo (size / 4)).map fun i => w32 (fld b (4 * i) 4)
        .ok { c with out := c.out ++ [{ batch := c.batch, pidx := bits e 35 28, db := c.db, pb := c.pb, kind, front := bit e 38, verts }] } s
    | _ => .ok c s) (.ok { batch := 0, db := [], pb := [], block := 0, out := [] } s)).bind fun c s =>
      .ok (c.out.filter fun x => decide (p.phase ≠ .part) || decide (x.batch < p.bcut)) s

/-- Inserts a list's primitive by batch index, after those of the same batch. -/
def insertPrim (x : TilePrim) : List TilePrim → List TilePrim
  | [] => [x]
  | y :: l => if x.batch < y.batch then x :: y :: l else y :: insertPrim x l

/-- The tile's primitives in the pass's order: the lists merged by batch (R286). -/
def tilePrims (m : Nat) (p : PassRun) (drawVa t : Nat) (s : State) : Tr (List TilePrim) :=
  (trMap (upTo 8) (fun c s =>
    let l := silkOf p c t
    if l.head = 0 then .ok [] s
    else (silkRead m p.ctx 65536 l.head s).bind fun es s => silkPrims m p drawVa es s) s).bind fun ls s =>
      .ok (ls.flatten.foldl (fun acc x => insertPrim x acc) []) s

/-- Z of a primitive at a sample, clamped to the depth range (R287). -/
def sampleZ (ftz : Bool) (x : TilePrim) (at' : Pt) : Val :=
  let (zmin, zmax) := zRange x.pb
  let z := fp32Val ftz (interpZ ftz x.kind x.verts at').toNat
  (fpMin (fpMax z zmin).val zmax).val

/-- Stencil, depth, blend and write of one fragment at one sample (R288): the new attachment values, by
slot. -/
def sampleOps (ftz : Bool) (d : List Byte) (x : TilePrim) (fr : Fragment) (at' : Pt) (vals : List Nat) : List Nat :=
  let sc := fld x.pb 21 1
  let ops := fld x.pb 22 2
  let ref := fld x.pb 24 1
  let mask := fld x.pb 25 1
  let dep := fld x.pb 20 1
  let st := vals.getD 5 0
  let hasS := attPresent d 5 && bit sc 3
  let setS := fun (op : Nat) (v : List Nat) => if hasS then v.set 5 (maskWrite mask st (stencilOp op ref st)) else v
  if hasS ∧ !compareNat (bits sc 2 0) (ref &&& mask) (st &&& mask) then setS (bits ops 2 0) vals
  else
    let z := match fr.depth with
      | some w => fp32Val false w.toNat
      | none => sampleZ ftz x at'
    let zs := decodeFloat fmtFp32 (vals.getD 4 0)
    if attPresent d 4 ∧ bit dep 3 ∧ !compareVal (bits dep 2 0) z zs then setS (bits ops 5 3) vals
    else
      let v := setS (bits ops 8 6) vals
      let v := if attPresent d 4 ∧ bit dep 4 then v.set 4 (fp32Code z) else v
      (upTo (pColors d)).foldl (fun v j =>
        match fr.color[j]? with
        | some col =>
          let color := (upTo 4).map fun i => fp32Val ftz (col.getD i 0).toNat
          v.set j (blendSample ftz (attFmt (att d j)) (slice x.pb (64 + 8 * j) 8) color (v.getD j 0))
        | none => v) v

/-- Is a sample of a pixel covered by a primitive, with the draw's scissor and SAMPLE_MASK (R287). -/
def primCovers (d : List Byte) (x : TilePrim) (poly : List Pt) (px py smp : Nat) : Bool :=
  decide (fld x.db 48 2 ≤ px) && decide (px < fld x.db 52 2) && decide (fld x.db 50 2 ≤ py) && decide (py < fld x.db 54 2) &&
  bit (fld x.pb 26 2) smp && polyCovers poly (sampleAt (pSamples d) px py smp)

/-- A pixel has a covered sample. -/
def pixelHit (d : List Byte) (x : TilePrim) (px py : Nat) : Bool :=
  let poly := primPoly x.kind (x.verts.filterMap recPoint)
  (upTo (pSamples d)).any (primCovers d x poly px py)

/-- The quads of a tile that a primitive's fragment shader runs for, in rows, by their first pixel; none without
a fragment shader. -/
def primQuads (d : List Byte) (tile : Nat) (x : TilePrim) : List (Nat × Nat) :=
  if fld x.pb 8 8 = 0 then []
  else ((upTo 256).map fun i => (tile % pTX d * 32 + 2 * (i % 16), tile / pTX d * 32 + 2 * (i / 16))).filter fun q =>
    pixelHit d x q.1 q.2 || pixelHit d x (q.1 + 1) q.2 || pixelHit d x q.1 (q.2 + 1) || pixelHit d x (q.1 + 1) (q.2 + 1)

/-- A tile's fragment groups in primitive order: 8 quads of one primitive each (R286). DESIGN CHOICE (log 93): a
group takes no quads of a second primitive. -/
def fragGroups (d : List Byte) (tile : Nat) (prims : List TilePrim) : List (TilePrim × List (Nat × Nat)) :=
  prims.flatMap fun x => (chunks 8 256 (primQuads d tile x)).map fun q => (x, q)

/-- The pixel of a lane of a fragment group. -/
def lanePixel (qs : List (Nat × Nat)) (lane : Nat) : Nat × Nat :=
  let q := qs.getD (lane / 4) (0, 0)
  (q.1 + lane % 2, q.2 + lane / 2 % 2)

/-- What a fragment's lane starts with: its pixel, FRONT, Z and the varyings at the pixel's centre (R287). -/
def fragInputs (ftz : Bool) (x : TilePrim) (px py : Nat) : List Word :=
  let c : Pt := (256 * (px : Int) + 128, 256 * (py : Int) + 128)
  [w32 px, w32 py, w32 (b2n x.front), interpZ ftz x.kind x.verts c] ++ (upTo (4 * fld x.pb 18 1)).map fun j => interpVary ftz x.kind x.verts j c

/-- The fragment that the shader gave for a pixel of a primitive; a pipeline without a fragment shader
has one without colours; none: the pixel is discarded. -/
def fragOf (frags : List Fragment) (x : TilePrim) (px py : Nat) : Option Fragment :=
  if fld x.pb 8 8 = 0 then some { batch := x.batch, prim := x.pidx, px, py, color := [], depth := none }
  else frags.find? fun f => decide (f.batch = x.batch) && decide (f.prim = x.pidx) && decide (f.px = px) && decide (f.py = py)

/-- The attachment values of one sample after every primitive of the tile. -/
def shadeSample (ftz : Bool) (d : List Byte) (prims : List (TilePrim × List Pt)) (frags : List Fragment)
    (px py smp : Nat) (vals : List Nat) : List Nat :=
  prims.foldl (fun vals x =>
    if primCovers d x.1 x.2 px py smp then
      match fragOf frags x.1 px py with
      | some fr => sampleOps ftz d x.1 fr (sampleAt (pSamples d) px py smp) vals
      | none => vals
    else vals) vals

/-- The attachment values of a sample as the tile's buffer holds them, by slot. -/
def bufVals (d : List Byte) (buf : List Byte) (x y smp : Nat) : List Nat :=
  (upTo 6).map fun j => if attPresent d j then
      let b := fmtBytes (attFmt (att d j))
      fld buf (attOff d j + sampleOff b x y smp) b
    else 0

/-- The tile's buffer from its samples' values. -/
def bufOf (d : List Byte) (val : Nat → Nat → Nat → List Nat) : List Byte :=
  (atts d).flatMap fun j => (upTo (pSamples d)).flatMap fun smp => (upTo 1024).flatMap fun i =>
    let (x, y) := pixelAt i
    natLe (fmtBytes (attFmt (att d j))) ((val x y smp).getD j 0)

/-! ## Sip passes (R292 to R294) -/

/-- SIP_IN: row p holds pixel p's channels in PACK_FMT. -/
def sipIn (ftz : Bool) (d sip buf : List Byte) : List Byte :=
  let fmt := if fld sip 13 1 = 2 then fmtFp16 else fmtBf16
  let chans := fun (j x y : Nat) =>
    let f := attFmt (att d j)
    let v := (bufVals d buf x y 0).getD j 0
    (upTo (fmtChannels f)).map fun ch => chanDecode f ch v
  (upTo 1024).flatMap fun i =>
    let (x, y) := pixelAt i
    let vs := chans (fld sip 14 1) x y ++ (if fld sip 15 1 = 0xFF then [] else chans (fld sip 15 1) x y)
    (upTo 8).flatMap fun c => natLe 2 (match vs[c]? with
      | some v => (encodeFloat fmt none false ftz v).val
      | none => 0)

/-- The buffer after SIP_OUT has been unpacked into OUT. -/
def sipOut (ftz : Bool) (d sip buf out : List Byte) : List Byte :=
  let fmt := if fld sip 13 1 = 2 then fmtFp16 else fmtBf16
  let j := fld sip 16 1
  let f := attFmt (att d j)
  let val := fun (x y smp : Nat) =>
    let v := bufVals d buf x y smp
    let p := pixelOff 1 x y
    v.set j ((upTo (fld sip 17 1)).foldl (fun w ch =>
      setChan f ch (chanEncode ftz f ch (decodeFloat fmt (fld out (16 * p + 2 * ch) 2))) w) (v.getD j 0))
  bufOf d val

/-- A sip op as an op of one array. -/
def sipOp (q : Op) (c : Nat) (b : List Byte) : Op := { q with opcode := fld b 0 2, body := b, emask := 2 ^ c }

/-- How a sip pass ends. -/
inductive SipEnd where
  | ok (buf : List Byte) (s : State)
  | fail (status detail : Nat) (s : State)
  | fault (m : Nat) (f : Flt) (va : Nat) (acc : Access) (s : State)
  | wait

def sipTr {α : Type} (m : Nat) (r : Tr α) (k : α → State → SipEnd) : SipEnd :=
  match r with
  | .ok a s => k a s
  | .fault f va acc s => .fault m f va acc s
  | .bad d s => .fail stOpError d s
  | .severed s => .fail stSevered 0 s
  | .wait _ => .wait

/-- Runs the sip ops in order on an array; each is checked when it first runs (R295). -/
def sipRun (o : OpRef) (q : Op) (c ctx : Nat) (ftz : Bool) : List (List Byte) → State → Option (Nat × Nat) × Tr Unit
  | [], s => (none, .ok () s)
  | b :: bs, s =>
    let op := fld b 0 2
    let chk := if op = 0x30 then recordCheck (parseMma b 1) Mma.check else if op = 0x32 then recordCheck (parseVec b) Vec.check
      else recordCheck (parseMove b) Move.check
    match chk with
    | some e => (some e, .ok () s)
    | none =>
      let p := sipOp q c b
      -- each op has a run of its own
      let r := (upTo (opItems op b 1)).foldl (fun (r : Tr Unit) i => r.bind fun _ s =>
        (runItem p o (arrayMaster c) ctx 0 i ftz s).bind fun s' _ => .ok () s') (.ok () (s.onRun o fun x => { x with parts := [] }))
      match r with
      | .ok _ s => sipRun o q c ctx ftz bs s
      | other => (none, other)

/-- The sip pass of a tile (R294). -/
def sipDo (o : OpRef) (q : Op) (p : PassRun) (t : PassTile) (buf : List Byte) (s : State) : SipEnd :=
  let c := t.core / 8
  let ftz := (s.ctx p.ctx).ftz
  let so := scratchOff p.desc
  let m := arrayMaster c
  if s.isPinned m then .fail stPinned 0 s
  else if s.power c ≠ .on then .wait
  else sipTr t.core (tileWrite t so (sipIn ftz p.desc p.sip buf) s) fun _ s =>
    let w : SipWindow := { core := t.core, base := tilePa t + so, size := pScratch p.desc, cluster := c, spm := fld p.sip 24 8 }
    let s := startRun o p.ctx (s.onTns fun x => { x with sip := some w })
    let close := fun (s : State) =>
      let fl := ((s.run? o).map (·.flags)).getD 0
      ((dropRun o s).onTns fun x => { x with sip := none }).onPass o fun p => { p with flags := p.flags ||| fl }
    match sipRun o q c p.ctx ftz p.sipOps s with
    | (some (st, d), r) => (match r with
      | .ok _ s => .fail st d (close s)
      | _ => .wait)
    | (none, .ok _ s) =>
      let s := close s
      sipTr t.core (tileRead t (so + 16384) 16384 s) fun out s =>
        let buf := sipOut ftz p.desc p.sip buf out
        sipTr t.core (tileWrite t 0 buf s) fun _ s => .ok buf s
    | (none, .fault f va acc s) => .fault m f va acc (close s)
    | (none, .bad d s) => .fail stOpError d (close s)
    | (none, .severed s) => .fail stSevered 0 (close s)
    | (none, .wait _) => .wait

/-- The tile is shaded, and goes on to its store. -/
def markShaded (t : PassTile) (s : State) : State :=
  s.onRnd fun x => { x with tiles := mapIf (fun y => decide (y.op = t.op) && decide (y.tile = t.tile)) (fun y => { y with shaded := true }) x.tiles }

/-- A tile whose primitives cannot be read cannot be finished: it is held no longer, and the pass fails. -/
def tileLists {α : Type} (o : OpRef) (t : PassTile) (ctx : Nat) (r : Tr α) (s0 : State) (k : α → State → State) : State :=
  match r with
  | .ok a s => k a s
  | .wait _ => s0
  | .fault f va acc s => passFault o t.core ctx f va acc (dropTile t s)
  | .bad d s => failPass o stOpError d (dropTile t s)
  | .severed s => failPass o stSevered 0 (dropTile t s)

/-- What comes after a tile's samples: its resolve and its sip pass. A failure leaves the tile shaded, to be
stored (R309). -/
def tileEnd (o : OpRef) (q : Op) (p : PassRun) (t : PassTile) (buf : List Byte) (s0 s : State) : State :=
  let d := p.desc
  let ftz := (s.ctx p.ctx).ftz
  let res := trMap (atts d) (fun j s => writeResolve t.core p j t.tile (fun x y =>
    resolveSample ftz (attFmt (att d j)) ((upTo (pSamples d)).map fun smp => (bufVals d buf x y smp).getD j 0)) s) s
  match res with
  | .fault f va acc s => passFault o t.core p.ctx f va acc (markShaded t s)
  | .bad c s => failPass o stOpError c (markShaded t s)
  | .severed s => failPass o stSevered 0 (markShaded t s)
  | .wait _ => s0
  | .ok _ s =>
    if bit (pFlags d) 2 then match sipDo o q p t buf s with
      | .ok _ s => markShaded t s
      | .fail st c s => failPass o st c (markShaded t s)
      | .fault m f va acc s => passFault o m p.ctx f va acc (markShaded t s)
      | .wait => s0
    else markShaded t s

/-- TILE_SHADED: the tile's fragment groups have run, and its samples take their values in primitive order; then
its resolve and sip pass (R286 to R290, R294). -/
def shadedDo (o : OpRef) (tile : Nat) (frags : List Fragment) (io : HostIO) (s : State) : State :=
  let s := closeOps (applyIO io s)
  match s.pass? o, s.op? o, (tilesOf s o).find? fun t => t.tile = tile with
  | some p, some (_, q), some t =>
    if t.shaded ∨ s.isPinned t.core ∨ !ctxRuns s p.ctx ∨ (s.shd.groups.any fun g => decide (g.op = o) && decide (g.role = .fragment tile)) then s
    else
      let d := p.desc
      let ftz := (s.ctx p.ctx).ftz
      tileLists o t p.ctx (tilePrims t.core p (fld q.body 24 8) tile s) s fun prims s' =>
        if t.placed < (fragGroups d tile prims).length then s
        else tileLists o t p.ctx (tileRead t 0 (scratchOff d) s') s fun buf s' =>
          let polys := prims.map fun x => (x, primPoly x.kind (x.verts.filterMap recPoint))
          let ox := tile % pTX d * 32
          let oy := tile / pTX d * 32
          let buf := bufOf d fun x y smp => shadeSample ftz d polys frags (ox + x) (oy + y) smp (bufVals d buf x y smp)
          tileLists o t p.ctx (tileWrite t 0 buf s') s fun _ s' =>
            if p.phase = .part then markShaded t s' else tileEnd o q p t buf s s'
  | _, _, _ => s

/-- TILE_STORED (R281, R289): attachments go to their surfaces, and the pass completes with its last
tile. -/
def storedDo (o : OpRef) (tile : Nat) (s : State) : State :=
  let s := closeOps s
  match s.pass? o, (tilesOf s o).find? fun t => t.tile = tile with
  | some p, some t =>
    if !t.shaded ∨ s.isPinned t.core ∨ !ctxRuns s p.ctx then s
    else
      let d := p.desc
      let js := (atts d).filter fun j => decide (p.phase = .part) || decide (attStore (att d j) = 0)
      let r := trMap js (fun j s => (tileRead t (attOff d j) (attTile d j) s).bind fun bs s =>
        tWrite t.core p.ctx (surfTile d j tile) bs s) s
      match r with
      | .ok _ s =>
        let s := (dropTile t s).onPass o fun p => { p with shaded := p.shaded + 1, partialTiles := if p.phase = .part ∧ !p.partialTiles.contains tile then p.partialTiles ++ [tile] else p.partialTiles }
        passBoundary o (passDone o s)
      | .fault f va acc s => passFault o t.core p.ctx f va acc (dropTile t s)
      | .bad c s => failPass o stOpError c (dropTile t s)
      | .severed s => failPass o stSevered 0 (dropTile t s)
      | .wait _ => s
  | _, _ => s

/-- PARTIAL_RENDER_DONE (R281 steps 3 and 4, R282). -/
def partialDoneDo (o : OpRef) (s : State) : State :=
  let s := closeOps s
  match s.pass? o with
  | none => s
  | some p =>
    if p.phase ≠ .part ∨ !phaseOver s p ∨ p.fail.isSome then s
    else if p.rewound = some p.bcut then failPass o stOpError dtExhausted s
    else
      let p := { p with phase := .binning, cons := p.start, partials := p.partials + 1, lists := [], chunks := [], rewound := some p.bcut, nextTile := 0 }
      passTr o noMaster p.ctx ((poolPut p 8 8 p.start.toNat (storePass p s)).bind fun _ s => (poolPut p 40 8 p.partials s).bind fun _ s => binStateInit p s) s
        fun _ s => s

/-- SHADING_START (R284, R291). -/
def shadingDo (o : OpRef) (s : State) : State :=
  let s := closeOps s
  match s.pass? o, s.op? o with
  | some p, some (_, q) =>
    if p.phase ≠ .binning ∨ p.fail.isSome ∨ p.draw < fld q.body 32 4 ∨ p.batches ≠ [] ∨ earlierPass s o ∨ (p.stopping ∧ yields s o) ∨ !ctxRuns s p.ctx then s
    else passDone o (s.onPass o fun p => { p with phase := .shading, nextTile := 0, stopping := false, paused := false })
  | _, _ => s

/-- A pass is pre-empted at its next boundary (R304). -/
def passStop (o : OpRef) (s : State) : State :=
  passBoundary o (s.onPass o fun p => { p with stopping := true })

/-! ## Vertex and fragment groups (R272, R286, R305, R306) -/

/-- A core has room for one more group on an engine (R234). -/
def groupRoom (s : State) (k e gran : Nat) : Bool :=
  decide (engineCount s k e < 16) && decide (engineUsed s k e + gran ≤ 64) && decide (freeSlots s k 1 ≠ [])

/-- The core of a cluster that takes a vertex group: the one with the fewest groups that has room. -/
def vertexCore (s : State) (mask c e gran : Nat) : Option Nat :=
  ((upTo 8).map (8 * c + ·)).foldl (fun best k =>
    if coreOpen s mask k ∧ groupRoom s k e gran then match best with
      | some k' => if (coreGroups s k).length < (coreGroups s k').length then some k else best
      | none => some k
    else best) none

/-- A group of a pass becomes resident on a core. -/
def placeGroup (p : PassRun) (k gran idx wg : Nat) (role : GroupRole) (code regsConst : Nat) (hdr : List Byte) (lanes helper : Word)
    (inputs : List (List Word)) (s : State) : State :=
  let s := joinCore p.op k p.ctx s
  let g : Group := { core := k, slot := (freeSlots s k 1).headD 0, op := p.op, ctx := p.ctx, role, code, header := hdr, const := regsConst, helper, wg, idx, gran, am := lanes, em := ~~~lanes, pc := 0, stack := [], spilled := [], inputs, regs := [], placed := s.time, idle := 0, waiting := false, filling := false, load := none, park := none }
  syncUnits p.op (s.onShd fun x => { x with groups := x.groups ++ [g] })

/-- The next vertex group of the oldest batch that has one, on a core of its cluster: 32 vertices, with their
index and instance (R272). -/
def placeVertex (p : PassRun) (mask : Nat) (s : State) : State :=
  match p.batches.find? fun b => b.placed < b.verts.length with
  | none => s
  | some b =>
    let idx := b.placed / 32 % 32
    let gran := (b.regs + 7) / 8
    match vertexCore s mask b.cluster (idx % 4) gran with
    | none => s
    | some k =>
      let vs := (b.verts.drop b.placed).take 32
      let s := s.onPass p.op fun p => { p with batches := mapIf (fun x => x.num = b.num) (fun x => { x with placed := b.placed + vs.length }) p.batches }
      placeGroup p k gran idx b.num (.vertex b.num) b.code b.const b.header (maskOf (upTo vs.length)) 0 (vs.map fun v => [w32 v.1, w32 v.2]) s

/-- The next fragment group of the first held tile that has one and whose core has room (R286). -/
def placeFragment (p : PassRun) (drawVa : Nat) : List PassTile → State → State
  | [], s => s
  | t :: ts, s =>
    if t.shaded ∨ s.isPinned t.core then placeFragment p drawVa ts s
    else tileLists p.op t p.ctx (tilePrims t.core p drawVa t.tile s) s fun prims s' =>
      match (fragGroups p.desc t.tile prims)[t.placed]? with
      | none => placeFragment p drawVa ts s
      | some (x, qs) =>
        let idx := t.placed % 32
        let gran := (fld x.pb 17 1 + 7) / 8
        if !groupRoom s t.core (idx % 4) gran then placeFragment p drawVa ts s
        else tileLists p.op t p.ctx (tRead t.core p.ctx (fld x.pb 8 8) 64 s') s fun hdr s' =>
          let n := 4 * qs.length
          let off := maskOf ((upTo n).filter fun l => !pixelHit p.desc x (lanePixel qs l).1 (lanePixel qs l).2)
          let inputs := (upTo n).map fun l => fragInputs (s'.ctx p.ctx).ftz x (lanePixel qs l).1 (lanePixel qs l).2
          let s' := s'.onRnd fun r => { r with tiles := mapIf (fun y => decide (y.op = t.op) && decide (y.tile = t.tile)) (fun y => { y with placed := y.placed + 1 }) r.tiles }
          placeGroup p t.core gran idx t.tile (.fragment t.tile) (fld x.pb 8 8) (fld x.db 40 8) hdr (maskOf (upTo n)) off inputs s'

/-- WORKGROUP_PLACE: the next workgroup of a dispatch, or the next group of a pass (R237, R305). -/
def placeDo (o : OpRef) (s : State) : State :=
  match s.pass? o, s.op? o with
  | some p, some (_, q) =>
    if !ctxRuns s p.ctx then s
    else if p.phase = .binning then (if p.fail.isSome then s else placeVertex p q.emask s)
    else placeFragment p (fld q.body 24 8) (tilesOf s o) s
  | _, _ => placeWorkgroup o s

/-! ## FBC_CLEAR (R303) -/

/-- FBC_CLEAR takes a channel. -/
def fbcClearDo (o : OpRef) (chan : Nat) (b : List Byte) (s : State) : State :=
  if fld b 16 8 % 4096 ≠ 0 ∨ fld b 24 4 = 0 ∨ 1048576 < fld b 24 4 then endOp o stBadRecord 0 0 s else takeChannel o chan s

/-- The frames of an FBC_CLEAR, in order, up to the first that stops it. -/
def fbcFrames (o : OpRef) (m ctx word : Nat) : List Nat → State → State
  | [], s => endOp o stOk 0 0 s
  | va :: l, s => match xlate m ctx va .write s with
    | .ok leaf s =>
      let pa := leaf.base + (va - leaf.va)
      let pkg : Bool := match target s pa with
        | .pkg _ _ => true
        | _ => false
      if leaf.fbc && pkg then fbcFrames o m ctx word l (fbcClearFrame leaf.key (pa / 4096) word s)
      else endOp o stOpError dtFbcOnly 0 s
    | .fault f s => opFault f o m va .write s
    | .severed s => endOp o stSevered 0 0 s
    | .wait s => s

/-- FBC_CLEAR_DONE. -/
def fbcDoneDo (o : OpRef) (io : HostIO) (s : State) : State :=
  let s := applyIO io s
  match s.fe.copies.find? fun c => c.op = o, s.op? o with
  | some c, some (e, p) =>
    if p.phase ≠ .running then dropCopy o s
    else if !ctxRuns s e.ctx then discardOp o (dropCopy o s)
    else if p.opcode ≠ 0x21 then s
    else
      let frames := (upTo (fld p.body 24 4)).map fun i => fld p.body 16 8 + 4096 * i
      let s := fbcFrames o (dmaMaster c.chan) e.ctx (fld p.body 28 4) frames s
      if opRunning s o then s else dropCopy o s
  | _, _ => s

/-! ## The meanings -/

/-- WORKGROUP_PLACE (R237, R305). -/
def execWorkgroupPlace (o : OpRef) (s : State) : Out := .next (placeDo o s)

/-- RENDER_PASS (R269, R279). -/
def execRenderPass (o : OpRef) (io : HostIO) (s : State) : Out :=
  .next (withOp o 0x20 (fun e p s => if yields s o then s else renderDo o e p s) (applyIO io s))

/-- BATCH_DEAL (R273). -/
def execBatchDeal (o : OpRef) (c : Fin 8) (verts : List VertexOut) (io : HostIO) (s : State) : Out :=
  .next (dealDo o c.val verts io s)

/-- BATCH_BINNED (R274). -/
def execBatchBinned (o : OpRef) (c : Fin 8) (io : HostIO) (s : State) : Out := .next (binnedDo o c.val io s)

/-- GROW_POLL (R280). -/
def execGrowPoll (o : OpRef) (io : HostIO) (t : Nat) (s : State) : Out := .next (growPollDo o io (advanceTo t s))

/-- PARTIAL_RENDER_DONE (R281, R282). -/
def execPartialRenderDone (o : OpRef) (s : State) : Out := .next (partialDoneDo o s)

/-- SHADING_START (R284). -/
def execShadingStart (o : OpRef) (s : State) : Out := .next (shadingDo o s)

/-- TILE_ASSIGN (R284). -/
def execTileAssign (o : OpRef) (tile : Nat) (io : HostIO) (s : State) : Out := .next (metaLog (assignDo o tile io s))

/-- TILE_SHADED (R286 to R290, R294). -/
def execTileShaded (o : OpRef) (tile : Nat) (frags : List Fragment) (io : HostIO) (s : State) : Out :=
  .next (metaLog (shadedDo o tile frags io s))

/-- TILE_STORED (R289). -/
def execTileStored (o : OpRef) (tile : Nat) (t : Nat) (s : State) : Out := .next (metaLog (storedDo o tile (advanceTo t s)))

/-- FBC_CLEAR (R303). -/
def execFbcClear (o : OpRef) (chan : Fin 32) (s : State) : Out :=
  .next (withOp o 0x21 (fun _ p s => fbcClearDo o chan.val p.body s) s)

/-- FBC_CLEAR_DONE (R303). -/
def execFbcClearDone (o : OpRef) (io : HostIO) (s : State) : Out := .next (metaLog (fbcDoneDo o io s))

end Sys2Proof.Machine
end

