-- ==== Sys2Proof/Machine/Pixel.lean ====
section
/-! DEFINITION. The pixel arithmetic of the display pipes (R327 to R335, R343, R350): decoding, colour
stages, scaling, blending, the 3D LUT, output reduction, warp coordinates. -/

namespace Sys2Proof.Machine

open Sys2Proof

/-! ## Fields of a layer record (R319) and of a pipe state record (R318) -/

def lBuf (b : List Byte) : Nat := fld b 0 8
def lBuf1 (b : List Byte) : Nat := fld b 8 8
def lPitch0 (b : List Byte) : Nat := fld b 16 4
def lPitch1 (b : List Byte) : Nat := fld b 20 4
def lFmt (b : List Byte) : Nat := fld b 24 1
def lTiled (b : List Byte) : Bool := decide (fld b 25 1 = 1)
def lOn (b : List Byte) : Bool := bit (fld b 26 1) 0
def lLateClear (b : List Byte) : Bool := bit (fld b 26 1) 1
def lV4 (b : List Byte) : Bool := bit (fld b 26 1) 2
def lZ (b : List Byte) : Nat := fld b 27 1
def lSrcX (b : List Byte) : Nat := fld b 28 2
def lSrcY (b : List Byte) : Nat := fld b 30 2
def lSrcW (b : List Byte) : Nat := fld b 32 2
def lSrcH (b : List Byte) : Nat := fld b 34 2

/-- A signed 16-bit field. -/
def int16 (n : Nat) : Int := if n < 32768 then (n : Int) else (n : Int) - 65536

def lDstX (b : List Byte) : Int := int16 (fld b 36 2)
def lDstY (b : List Byte) : Int := int16 (fld b 38 2)
def lDstW (b : List Byte) : Nat := fld b 40 2
def lDstH (b : List Byte) : Nat := fld b 42 2
def lAlpha (b : List Byte) : Nat := fld b 44 2

/-- NV12 or P010. -/
def lYuv (b : List Byte) : Bool := decide (lFmt b = 0x10) || decide (lFmt b = 0x11)

def dHact (b : List Byte) : Nat := fld b 0 2
def dHtot (b : List Byte) : Nat := fld b 2 2
def dVact (b : List Byte) : Nat := fld b 8 2
def dVtot (b : List Byte) : Nat := fld b 10 2
def dBpc (b : List Byte) : Nat := fld b 21 1
def dFlags (b : List Byte) : Nat := fld b 22 1
def dWarp (b : List Byte) : Nat := fld b 62 1

/-- Bytes per pixel of plane 0. -/
def lBytes (f : Nat) : Nat := if f = 4 then 8 else if f = 0x10 then 1 else if f = 0x11 then 2 else 4

/-! ## Rounding -/

/-- Nearest integer, halves up, of a finite value. -/
def roundUpHalf (v : Val) : Int := match v with
  | .fin n m e =>
    let b := min e (-1)
    let i := Val.intAt b (.fin n m e)
    -- floor (i 2^b + 1/2)
    (i + 2 ^ (-b - 1).toNat) / 2 ^ (-b).toNat
  | .inf n => if n then -1 else 2 ^ 30
  | .nan => 0

/-- Rounded, halves up, and clamped. -/
def roundClamp (hi : Nat) (v : Val) : Nat := Nat.min hi (roundUpHalf v).toNat

/-! ## Decoding (R328) -/

/-- Colour channels and alpha of a stored pixel of the RGBA formats. -/
def decodeRgba (f v : Nat) : List Val × Nat :=
  let rgb := (upTo 3).map fun c => chanDecode f c v
  let alpha := match f with
    | 1 => (v / 2 ^ 24 % 256 * 4095 + 127) / 255
    | 3 => v / 2 ^ 30 % 4 * 1365
    | _ => roundClamp 4095 (vMul (clamp01 (chanDecode 4 3 v)) (vInt 4095))
  (rgb, alpha)

/-- A luma or chroma code: 8 bits, or the 10 bits in [15:6]. -/
def yuvCode (f v : Nat) : Val := if f = 0x11 then unormDecode 10 (v / 64) else unormDecode 8 v

/-- Bilinear step from a to b in FP32 (R329, R350). -/
def lerp (ftz : Bool) (f a b : Val) : Val :=
  let mul := fun (x y : Val) => (fpMul false ftz x y).val
  let add := fun (x y : Val) => (fpAdd false ftz x y).val
  if Config.lerpTwoProducts then add (mul (add one f.neg) a) (mul f b) else add a (mul f (add b a.neg))

/-- The chroma samples around luma (x, y) and the weights of the second of each axis: positions
(2i, 2j + 1/2), clamped at the plane's edges (R329). -/
def chromaAt (x y w h : Nat) : (Nat × Nat) × (Nat × Nat) × Val × Val :=
  let i0 := Nat.min (x / 2) (w - 1)
  let i1 := Nat.min (x / 2 + 1) (w - 1)
  let fx : Val := if x % 2 = 0 then Val.zero else .fin false 1 (-1)
  let (j0, j1, fy) : Nat × Nat × Val :=
    if y % 2 = 1 then (y / 2, y / 2 + 1, .fin false 1 (-2))
    else if y = 0 then (0, 0, Val.zero) else (y / 2 - 1, y / 2, .fin false 3 (-2))
  ((i0, i1), (Nat.min j0 (h - 1), Nat.min j1 (h - 1)), fx, fy)

/-! ## Colour stages (R330) -/

def fpM (ftz : Bool) (a b : Val) : Val := (fpMul false ftz a b).val
def fpA (ftz : Bool) (a b : Val) : Val := (fpAdd false ftz a b).val

/-- A 3 × 4 matrix. -/
def matrixStage (ftz : Bool) (t : List Byte) (c : List Val) : List Val :=
  if t = [] then c
  else (upTo 3).map fun r =>
    let m := fun (i : Nat) => fp32Val ftz (fld t (16 * r + 4 * i) 4)
    let x := fun (i : Nat) => c.getD i Val.zero
    fpA ftz (fpA ftz (fpA ftz (fpM ftz (m 0) (x 0)) (fpM ftz (m 1) (x 1))) (fpM ftz (m 2) (x 2))) (m 3)

/-- Floor of a value that is not negative. -/
def floorVal : Val → Nat
  | .fin false m e => if 0 ≤ e then m * 2 ^ e.toNat else m / 2 ^ (-e).toNat
  | _ => 0

/-- LIN of one channel. -/
def linStage (ftz : Bool) (t : List Byte) (ch : Nat) (x : Val) : Val :=
  if t = [] then x
  else
    let p := (clamp01 x).scale 10
    let i := Nat.min (floorVal p) 1023
    let f := fpA ftz p (vInt (-(i : Int)))
    let e := fun (k : Nat) => decodeElem 2 ftz (fld t (2056 * ch + 2 * k) 2)
    fpA ftz (e i) (fpM ftz f (fpA ftz (e (i + 1)) (e i).neg))

/-- ENC of one channel: the 14-bit code of the blend space. -/
def encStage (ftz : Bool) (t : List Byte) (ch : Nat) (v : Val) : Nat :=
  if t = [] then roundClamp 16383 (fpM ftz (clamp01 v) (vInt 16383))
  else
    let e := fun (k : Nat) => vInt (fld t (1536 * ch + 2 * k) 2)
    match v with
    | .nan => 0
    | .inf n => if n then 0 else roundClamp 16383 (e 736)
    | .fin n m ex =>
      if n ∨ m = 0 then 0
      else
        let l := log2Of m ex
        if 7 ≤ l then roundClamp 16383 (e 736)
        else if l < -16 then roundClamp 16383 ((fpM ftz (e 0) v).scale 16)
        else
          -- v = 2^l (1 + r), j = floor (32 r), t = 32 r - j
          let r := (vSub (Val.scale (-l) v) one).scale 5
          let j := floorVal r
          let k := 32 * (l + 16).toNat + j
          let w := vSub r (vInt j)
          roundClamp 16383 (fpA ftz (e k) (fpM ftz w (fpA ftz (e (k + 1)) (e k).neg)))

/-- Stages 4 of R326: the blend-space colour. -/
def colourStages (ftz : Bool) (t : LayerTabs) (c : List Val) : List Nat :=
  let c := matrixStage ftz t.csc c
  let c := (upTo 3).map fun ch => linStage ftz t.lin ch (c.getD ch Val.zero)
  let c := matrixStage ftz t.gamut c
  (upTo 3).map fun ch => encStage ftz t.enc ch (c.getD ch Val.zero)

/-! ## Scaling (R331) -/

/-- A pixel on its way through the scaler: three colours and alpha. -/
abbrev Px := List Val

/-- Step of an axis. -/
def scaleStep (S D : Nat) : Nat := S * 65536 / D

/-- Integer position and phase of output index i. -/
def scalePos (S D i : Nat) : Int × Nat :=
  let step := scaleStep S D
  let p : Int := (i * step : Nat) + (step / 2 : Nat) - 0x8000
  (p / 65536, (p % 65536).toNat / 1024)

/-- Coefficient t of a phase: horizontal, 8 to a phase. -/
def hCoef (tab : List Byte) (ph t : Nat) : Int := int16 (fld tab (2 * (8 * ph + t)) 2)
def vCoef (tab : List Byte) (ph t : Nat) : Int := int16 (fld tab (1024 + 2 * (6 * ph + t)) 2)

/-- Taps of an axis: source index and coefficient. -/
def hTaps (tab : List Byte) (S D i : Nat) : List (Nat × Int) :=
  let (n, ph) := scalePos S D i
  (upTo 8).map fun (t : Nat) => ((max 0 (min (n + (t : Int) - 3) ((S : Int) - 1))).toNat, hCoef tab ph t)

def vTaps (tab : List Byte) (v4 : Bool) (S D i : Nat) : List (Nat × Int) :=
  let (n, ph) := scalePos S D i
  let ts := if v4 then [1, 2, 3, 4] else upTo 6
  ts.map fun (t : Nat) => ((max 0 (min (n + (t : Int) - 2) ((S : Int) - 1))).toNat, vCoef tab ph t)

/-- Sum of weighted samples in tap order, over 256. -/
def tapSum (ftz : Bool) (l : List (Int × Px)) : Px :=
  (upTo 4).map fun c =>
    (l.foldl (fun acc x => fpA ftz acc (fpM ftz (vInt x.1) (x.2.getD c Val.zero))) Val.zero).scale (-8)

/-! ## Blending and output (R333 to R335, R343) -/

def effAlpha (a plane : Nat) : Nat := (a * plane + 2047) / 4095

def blend14 (s a d : Nat) : Nat := (s * a + d * (4095 - a) + 2047) / 4095

/-- The 3D LUT (R334). -/
def lut3d (t : List Byte) (c : List Nat) : List Nat :=
  if t = [] then c
  else
    let idx := c.map fun v => Nat.min (32 * v / 16383) 31
    let fr := (c.zip idx).map fun x => 32 * x.1 - 16383 * x.2
    let f := fun (a : Nat) => fr.getD a 0
    -- axes by descending fraction, ties in the order red, green, blue
    let order := [0, 1, 2].foldl (fun (l : List Nat) a =>
      (l.takeWhile fun b => decide (f a ≤ f b)) ++ [a] ++ (l.dropWhile fun b => decide (f a ≤ f b))) []
    let corners := order.foldl (fun (r : List (List Nat)) a =>
      let last := r.getLastD idx
      r ++ [last.modify a (· + 1)]) [idx]
    let fs := order.map f
    let w := [16383 - fs.getD 0 0, fs.getD 0 0 - fs.getD 1 0, fs.getD 1 0 - fs.getD 2 0, fs.getD 2 0]
    (upTo 3).map fun ch =>
      ((w.zip corners).foldl (fun acc x =>
        let g := fun (i : Nat) => x.2.getD i 0
        acc + x.1 * fld t (8 * ((g 0 * 33 + g 1) * 33 + g 2) + 2 * ch) 2) 8191) / 16383

def bayer : List Nat := [0, 8, 2, 10, 12, 4, 14, 6, 3, 11, 1, 9, 15, 7, 13, 5]

/-- Reduction of a channel to n bits (R335). -/
def reduceBits (dither : Bool) (n x y v : Nat) : Nat :=
  let t := if dither then (2 * bayer.getD (4 * (y % 4) + x % 4) 0 + 1) * 16383 / 32 else 8191
  (v * (2 ^ n - 1) + t) / 16383

/-- A composed pixel in a writeback format (R343). -/
def wbPixel (fmt : Nat) (dither : Bool) (x y : Nat) (c : List Nat) : Nat :=
  let ch := fun (i : Nat) => c.getD i 0
  match fmt with
  | 1 => (upTo 3).foldl (fun v i => v + reduceBits dither 8 x y (ch i) * 256 ^ i) (255 * 2 ^ 24)
  | 3 => (upTo 3).foldl (fun v i => v + reduceBits dither 10 x y (ch i) * 1024 ^ i) (3 * 2 ^ 30)
  | _ =>
    -- v / 16,383 in one rounding to FP16: a quotient with a sticky bit below it
    let q := fun (v : Nat) => let n := v * 2 ^ 40 / 16383
      (encodeFloat fmtFp16 none false false (.fin false (2 * n + b2n (v * 2 ^ 40 % 16383 ≠ 0)) (-41))).val
    (upTo 3).foldl (fun v i => v + q (ch i) * 65536 ^ i) (0x3C00 * 65536 ^ 3)

/-! ## Addresses (R327) -/

/-- Address of a pixel of a plane of b bytes per pixel. -/
def planeAddr (tiled : Bool) (va pitch b x y : Nat) : Nat :=
  if tiled then va + ((y / 32) * (pitch / 32) + x / 32) * 1024 * b + pixelOff b (x % 32) (y % 32)
  else va + y * pitch + x * b

/-! ## Warp (R350) -/

/-- Source position of a destination pixel under a pose; none: the pixel is transparent. -/
def warpPos (ftz : Bool) (h : List Word) (x y : Nat) : Option (Val × Val) :=
  let v := fun (i : Nat) => fp32Val ftz (h.getD i 0).toNat
  let xs : Val := .fin false (2 * x + 1) (-1)
  let ys : Val := .fin false (2 * y + 1) (-1)
  let row := fun (i : Nat) => fpA ftz (fpA ftz (fpM ftz (v i) xs) (fpM ftz (v (i + 1)) ys)) (v (i + 2))
  let w := row 6
  let div := fun (a b : Val) => (fpDiv false ftz a b).val
  let u := div (row 0) w
  let t := div (row 3) w
  if vGe Val.zero w ∨ w.isNan ∨ !finite u ∨ !finite t then none else some (u, t)

/-- Floor of a finite value. -/
def floorInt : Val → Int
  | .fin n m e => let b := min e 0; Val.intAt b (.fin n m e) / 2 ^ (-b).toNat
  | _ => 0

end Sys2Proof.Machine
end

