-- ==== Sys2Proof/Machine/Display.lean ====
section
/-! DEFINITION. The display pipes: binding, commits, frame boundaries, composition, line events, late
warp, writeback and AUX (R310 to R358). -/

namespace Sys2Proof.Machine

open Sys2Proof

/-- The state that a read or write through translation leaves, however it ends. -/
def Tr.state {α : Type} : Tr α → State
  | .ok _ s => s
  | .fault _ _ _ s => s
  | .bad _ s => s
  | .severed s => s
  | .wait s => s

/-! ## A pipe -/

def dspMaster (p : Nat) : Nat := 0x6C + p
def dspOff (p : Nat) : Nat := 0x0A0000 + p * 0x10000
def dspEnable (s : State) (p : Nat) : Bool := decide (s.rawBits 0 (dspOff p) 0 0 = 1)
def dspConn (s : State) (p : Nat) : Nat := s.rawBits 0 (dspOff p) 3 1
def dspRing (s : State) (p : Nat) : Nat := s.rawBits 0 (dspOff p) 16 4

/-- Is a pipe scanning out. -/
def scanning (s : State) (p : Nat) : Bool := decide ((s.pipe p).st = .scanout) && !s.isPinned (dspMaster p)

/-- The commit that is pending on a pipe: one whose op still runs. -/
def livePend (s : State) (p : Nat) : Option Commit :=
  match (s.pipe p).pend with
  | some c => if opRunning s c.op then some c else none
  | none => none

/-- Does the warp layer of a pipe state record name a layer. -/
def warpLayer (r : List Byte) : Option Nat := if dWarp r < 8 then some (dWarp r) else none

/-- FTZ of a context (R142). -/
def ctxFtz (s : State) (ctx : Nat) : Bool := (s.ctx ctx).ftz

/-! ## Checks of a commit (R311 to R319, R332, R338, R343, R350) -/

def dtPipeOwner : Nat := 0x60
def dtModeset : Nat := 0x61
def dtTiming : Nat := 0x62
def dtLink : Nat := 0x63
def dtLayer : Nat := 0x64
def dtScalerWidth : Nat := 0x65
def dtScaleRange : Nat := 0x66
def dtFetchRate : Nat := 0x67
def dtWarp : Nat := 0x68
def dtEvent : Nat := 0x69
def dtAcquire : Nat := 0x6A

/-- Reserved fields of the op, and the fields of R317 that name no valid commit. -/
def commitBad (b : List Byte) : Bool :=
  let fl := fld b 17 1
  decide (4 ≤ fl) || (bit fl 1 && !bit fl 0) || !zeros b 19 5 || !zeros b 48 16 ||
  (if bit fl 0 then decide (fld b 24 8 % 64 ≠ 0) else decide (fld b 24 8 ≠ 0)) ||
  (if fld b 18 1 = 0 then decide (fld b 32 8 ≠ 0) else decide (fld b 32 8 % 128 ≠ 0)) || decide (fld b 40 8 % 32 ≠ 0)

/-- Reserved fields of a pipe state record, and addresses and colours out of range that have no code
of their own. -/
def stateReserved (r : List Byte) : Bool :=
  decide (32 ≤ fld r 22 1) || !zeros r 23 1 || !zeros r 30 2 || !zeros r 96 32 ||
  (upTo 3).any (fun i => decide (16383 < fld r (24 + 2 * i) 2)) || decide (fld r 32 8 % 256 ≠ 0) || decide (fld r 80 8 % 64 ≠ 0)

def layerReserved (r : List Byte) : Bool := decide (8 ≤ fld r 26 1) || !zeros r 46 2 || !zeros r 120 8

/-- The mode (R318): timing, pixel rate, link, depth and sync polarities. -/
def modeOf (r : List Byte) : List Byte × Nat := (slice r 0 22, bits (dFlags r) 4 3)

/-- Rate codes that a connector allows (R311). -/
def rateOk (conn code : Nat) : Bool :=
  if conn ≤ 1 then decide (code ≤ 7) else decide (code = 0) || decide (code = 3) || (decide (6 ≤ code) && decide (code ≤ 10))

/-- Gb/s per lane of a rate code, times 100. -/
def rate100 (code : Nat) : Nat := [162, 216, 243, 270, 324, 432, 540, 810, 1000, 1350, 2000].getD code 0

/-- A mode fits its link (R313), in kb/s times 100 and the denominators of the efficiency. -/
def fits (pclk bpc lanes code : Nat) : Bool :=
  let (num, den) : Nat × Nat := if code ≤ 7 then (8, 10) else (128, 132)
  decide (pclk * 3 * bpc * 100 * den ≤ lanes * rate100 code * 10000 * num * 99)

/-- R315, with the link and depth of R311 and R312. -/
def timingBad (conn : Nat) (r : List Byte) : Bool :=
  let ha := dHact r
  let ht := dHtot r
  let va := dVact r
  let vt := dVtot r
  let pclk := fld r 16 4
  let link := fld r 20 1
  let lanes := link % 8
  let code := link / 8
  decide (ha % 2 = 1) || decide (ha < 64) || decide (7680 < ha) || decide (ht % 2 = 1) || decide (ht < ha + 64) ||
  decide (va < 64) || decide (4320 < va) || decide (vt < va + 8) || decide (8191 < vt) ||
  !(decide (ha < fld r 4 2) && decide (fld r 4 2 < fld r 6 2) && decide (fld r 6 2 ≤ ht)) ||
  !(decide (va ≤ fld r 12 2) && decide (fld r 12 2 < fld r 14 2) && decide (fld r 14 2 ≤ vt)) ||
  decide (pclk < 25000) || decide (2400000 < pclk) || !(decide (dBpc r = 8) || decide (dBpc r = 10) || decide (dBpc r = 12)) ||
  (if conn = 7 then decide (link ≠ 0)
   else !(decide (lanes = 1) || decide (lanes = 2) || decide (lanes = 4)) || !rateOk conn code || !fits pclk (dBpc r) lanes code)

/-- An edge field of a layer or of WB_FENCE: all zero, or an edge of a local or shared fence. -/
def edgeField (s : State) (ctx ring : Nat) (isSignal : Bool) (b : List Byte) : Option Edge :=
  if zeros b 0 16 then none else some (checkEdge s ctx ring isSignal (parseEdge b isSignal))

/-- An edge field that is not allowed. -/
def edgeBad (e : Option Edge) : Bool := match e with
  | some e => !(e.formed && e.passed && decide (e.kind ≠ 1))
  | none => false

/-- A layer record out of range (R319, R328), but for its Z and its edges. -/
def layerBad (r : List Byte) : Bool :=
  if !lOn r then !zeros r 0 26 || decide (fld r 26 1 ≠ 0) || !zeros r 27 101
  else
    let f := lFmt r
    let side := fun (n : Nat) => decide (n = 0) || decide (8192 < n)
    !(decide (f = 1) || decide (f = 3) || decide (f = 4) || lYuv r) || decide (1 < fld r 25 1) || (lTiled r && lYuv r) ||
    (decide (lBuf1 r ≠ 0) && !lYuv r) || (lYuv r && decide (lBuf1 r = 0)) ||
    decide (lPitch0 r = 0) || (if lTiled r then decide (lPitch0 r % 32 ≠ 0) else decide (lPitch0 r % 64 ≠ 0)) ||
    (if lYuv r then decide (lPitch1 r = 0) || decide (lPitch1 r % 64 ≠ 0) else decide (lPitch1 r ≠ 0)) ||
    decide (7 < lZ r) || side (lSrcW r) || side (lSrcH r) || side (lDstW r) || side (lDstH r) || decide (4095 < lAlpha r) ||
    decide (fld r 80 8 % 64 ≠ 0) || decide (fld r 88 8 % 16 ≠ 0) || decide (fld r 96 8 % 64 ≠ 0) ||
    decide (fld r 104 8 % 16 ≠ 0) || decide (fld r 112 8 % 64 ≠ 0)

/-- Two enabled layers with one Z. -/
def zClash (ls : List (List Byte)) : Bool :=
  let zs := (ls.filter lOn).map lZ
  decide (zs.eraseDups.length ≠ zs.length)

/-- Line-buffer width of the scaler (R332). -/
def scalerWidthBad (r : List Byte) : Bool :=
  decide (lSrcH r ≠ lDstH r) && decide ((if lV4 r then 7680 else 5120) < lSrcW r)

def axisBad (va S D : Nat) : Bool :=
  decide (S ≠ D) && (decide (scaleStep S D < 0x2000) || decide (0x40000 < scaleStep S D) || decide (va = 0))

def scaleRangeBad (r : List Byte) : Bool := axisBad (fld r 80 8) (lSrcW r) (lDstW r) || axisBad (fld r 80 8) (lSrcH r) (lDstH r)

/-- Per-line demand of the enabled layers, in half bytes (R338). -/
def fetchDemand (pipe : List Byte) (ls : List (List Byte)) : Nat :=
  ((upTo ls.length).map fun l =>
    let r := ls.getD l []
    let b2 := if lFmt r = 0x10 then 3 else if lFmt r = 0x11 then 6 else 2 * lBytes (lFmt r)
    if !lOn r then 0
    else if warpLayer pipe = some l then lDstW r * b2 * 2
    else lSrcW r * b2 * ((lSrcH r + lDstH r - 1) / Nat.max (lDstH r) 1)).sum +
  (if bit (dFlags pipe) 2 then dHact pipe * 2 * lBytes (fld pipe 60 1) else 0)

/-- The warp layer (R350) and WARP_FLOOR. -/
def warpBad (pipe : List Byte) (ls : List (List Byte)) : Bool :=
  match warpLayer pipe with
  | none => decide (dWarp pipe ≠ 0xFF) || decide (fld pipe 63 1 ≠ 0)
  | some l =>
    let r := ls.getD l []
    decide (7 < fld pipe 63 1) || (lOn r && (lYuv r || decide (fld r 80 8 ≠ 0) || decide (4096 < lDstW r)))

/-- Writeback fields (R318, R343). -/
def wbBad (s : State) (ctx ring : Nat) (r : List Byte) : Bool :=
  let va := fld r 48 8
  let f := fld r 60 1
  let e := edgeField s ctx ring true (slice r 64 16)
  if va = 0 then bit (dFlags r) 2 || !zeros r 64 16
  else
    decide (va % 4096 ≠ 0) || !(decide (f = 1) || decide (f = 3) || decide (f = 4)) || decide (1 < fld r 61 1) ||
    (if fld r 61 1 = 1 then decide (fld r 56 4 ≠ 0) else decide (fld r 56 4 % 256 ≠ 0) || decide (fld r 56 4 < dHact r * lBytes f)) ||
    e.isNone || edgeBad e || decide (fld r 72 8 ≠ 0)

/-- The layer records in force after a commit. -/
def layersAfter (x : Pipe) (new : List (Nat × List Byte)) : List (List Byte) :=
  (upTo 8).map fun l => match new.find? fun e => e.1 = l with
    | some e => e.2
    | none => ((x.layers[l]?).getD Layer.off).rec'

/-- The checks at dispatch, in the order of the codes of R358: STATUS and DETAIL; none: it passes. -/
def commitCheck (s : State) (ctx ring p : Nat) (upd modeset : Bool) (pipe : List Byte) (new : List (Nat × List Byte)) : Option (Nat × Nat) :=
  let x := s.pipe p
  let ls := layersAfter x new
  let on := (upTo 8).filter fun l => lOn (ls.getD l [])
  let scaled := (on.filter fun l => warpLayer pipe ≠ some l).map fun l => ls.getD l []
  let acq := fun (r : List Byte) => edgeField s ctx ring false (slice r 48 16)
  let rel := fun (r : List Byte) => edgeField s ctx ring true (slice r 64 16)
  if (upd && stateReserved pipe) || new.any (fun e => layerReserved e.2) then some (stBadRecord, 0)
  else if !modeset && (decide (x.st = .off) || decide (modeOf pipe ≠ modeOf x.rec')) then some (stOpError, dtModeset)
  else if upd && timingBad (dspConn s p) pipe then some (stOpError, dtTiming)
  else if new.any (fun e => layerBad e.2 || edgeBad (acq e.2) || edgeBad (rel e.2)) || zClash ls then some (stOpError, dtLayer)
  else if scaled.any scalerWidthBad then some (stOpError, dtScalerWidth)
  else if scaled.any scaleRangeBad then some (stOpError, dtScaleRange)
  else if 2 * 32 * dHtot pipe < fetchDemand pipe ls then some (stOpError, dtFetchRate)
  else if warpBad pipe ls || (upd && wbBad s ctx ring pipe) then some (stOpError, dtWarp)
  else if upd && decide (fld pipe 40 8 % 64 ≠ 0) then some (stOpError, dtEvent)
  else none

/-! ## How a commit ends -/

/-- The commit report (R325): T_APPLIED and FRAME are those of the boundary that applied it, or of now. -/
def reportBytes (s : State) (p : Nat) (mark : Option (Nat × Quad)) (late status detail : Nat) : List Byte :=
  let (t, f) := mark.getD (s.time, (s.pipe p).frame)
  natLe 8 t ++ natLe 8 f.toNat ++ natLe 4 (Nat.min late 0xFFFFFFFF) ++ natLe 1 status ++ natLe 1 detail ++ natLe 10 0

/-- The RELEASE fences of a failed commit go into ERROR (R323). -/
def failReleases (es : List Edge) (why : Reason) (s : State) : State :=
  (es.filter fun e => e.formed && e.passed).foldl (fun s e => sendFence e.key e.alloc (.inr why) s) s

/-- REPORT_VA of a commit; a misaligned one names no report. -/
def commitReportVa (s : State) (o : OpRef) : Nat := match s.op? o with
  | some (_, q) => if fld q.body 40 8 % 32 = 0 then fld q.body 40 8 else 0
  | none => 0

/-- A commit is over: its report, and its completion. -/
def commitEnd (p : Nat) (o : OpRef) (mark : Option (Nat × Quad)) (late status detail : Nat) (s : State) : State :=
  endCommit { op := o, pipe := p, va := commitReportVa s o, bytes := reportBytes s p mark late status detail, status, detail } s

/-- A pending commit fails: nothing of it is applied. A mode set in progress has applied, and has signalled its
RELEASE fences. -/
def commitFail (p : Nat) (c : Commit) (status detail : Nat) (why : Reason) (s : State) : State :=
  let s := s.onPipe p fun x => { x with pend := none }
  let s := if c.applied then s else failReleases (c.release.map (·.2)) why s
  commitEnd p c.op c.mark c.late status detail s

/-- A commit whose context no longer runs work is discarded without a completion (R342). -/
def dropPend (p : Nat) (s : State) : State :=
  match s.pipe p |>.pend with
  | none => s
  | some c =>
    if !opRunning s c.op then s.onPipe p fun x => { x with pend := none }
    else if !ctxRuns s c.ctx then discardOp c.op (s.onPipe p fun x => { x with pend := none })
    else s

/-! ## DISPLAY_COMMIT (R320) -/

/-- Reads the records of a commit: the pipe state record and the masked layers' records. -/
def readRecords (m ctx stateVa layersVa mask : Nat) (upd : Bool) (s : State) : Tr (List Byte × List (Nat × List Byte)) :=
  let pipe : Tr (List Byte) := if upd then (vaRead m ctx stateVa 128 .read s).tr stateVa .read else .ok [] s
  pipe.bind fun pipe s =>
    (trMap ((upTo 8).filter (bit mask)) (fun l s =>
      ((vaRead m ctx (layersVa + 128 * l) 128 .read s).tr (layersVa + 128 * l) .read).bind fun b s => .ok (l, b) s) s).bind
      fun ls s => .ok (pipe, ls) s

/-- A commit that passed its checks becomes the pipe's pending commit. -/
def commitOf (s : State) (o : OpRef) (ctx ring : Nat) (upd modeset : Bool) (pipe : List Byte) (ls : List (Nat × List Byte)) : Commit :=
  let edges := fun (isSignal : Bool) (off : Nat) => ls.filterMap fun e => (edgeField s ctx ring isSignal (slice e.2 off 16)).map fun x => (e.1, x)
  { op := o, ctx, upd, modeset, pipe, layers := ls, acquire := edges false 48, release := edges true 64,
    wbFence := if upd then edgeField s ctx ring true (slice pipe 64 16) else none, events := [], tabs := [], lut := [], table := [],
    loaded := false, late := 0, applied := false, mark := none }

/-- The RELEASE fences of a commit that fails before its records have been checked: those of the records that
can be read (R323). -/
def recordReleases (m ctx ring layersVa mask : Nat) (s : State) : List Edge :=
  ((upTo 8).filter (bit mask)).filterMap fun l => match vaRead m ctx (layersVa + 128 * l) 128 .read s with
    | .ok b _ => edgeField s ctx ring true (slice b 64 16)
    | _ => none

/-- A commit fails at its dispatch (R320): its RELEASE fences go into ERROR, and it reports. -/
def commitRefuse (p : Nat) (o : OpRef) (e : Entry) (b : List Byte) (status detail : Nat) (s : State) : State :=
  if 4 ≤ p then endOp o status detail 0 s
  else
    let rel := recordReleases (dspMaster p) e.ctx e.ring (fld b 32 8) (fld b 18 1) s
    commitEnd p o none 0 status detail (failReleases rel .aborted s)

/-- A commit takes a fault: its record or pin, then its end; a pinned pipe writes no report. Under PIN_LOG_ONLY a
violation of another cause than the key rule ends it with OP_ERROR (R55, R320, R385). -/
def commitFault (p : Nat) (o : OpRef) (mark : Option (Nat × Quad)) (late : Nat) (f : Flt) (va : Nat) (acc : Access) (s : State) : State :=
  let s := masterFault f (dspMaster p) (opCtx s o) va acc o.ring.val o.seq s
  if s.isPinned (dspMaster p) then (if f.bar then endOp o stOpError 3 0 s else faultOp o f.code s)
  else if f.bar then commitEnd p o mark late stOpError 3 s else commitEnd p o mark late stTransFault f.code.num s

/-- DISPLAY_COMMIT is checked when it is dispatched; while another commit is pending on its pipe it
waits (R320, R322). In S3 only pipe A works (R424). -/
def commitDo (o : OpRef) (io : HostIO) (s : State) : State :=
  withOp o 0x50 (fun e q s =>
    let b := q.body
    let p := fld b 16 1
    if q.units ≠ [] ∨ q.ending.isSome then s
    else if commitBad b then commitRefuse p o e b stBadRecord 0 s
    else if 4 ≤ p ∨ dspRing s p ≠ e.ring ∨ !dspEnable s p then commitRefuse p o e b stOpError dtPipeOwner s
    else if s.isPinned (dspMaster p) then endOp o stPinned 0 0 s
    else if (livePend s p).isSome then s
    else if !awake s ∧ p ≠ 0 then wantsExit s
    else
      let s := ungate [72 + p] (dropPend p s)
      let upd := bit (fld b 17 1) 0
      let modeset := bit (fld b 17 1) 1
      match readRecords (dspMaster p) e.ctx (fld b 24 8) (fld b 32 8) (fld b 18 1) upd s with
      | .fault f va acc s =>
        let rel := recordReleases (dspMaster p) e.ctx e.ring (fld b 32 8) (fld b 18 1) s
        commitFault p o none 0 f va acc (failReleases rel .aborted s)
      | .bad d s => commitRefuse p o e b stOpError d s
      | .severed s => commitRefuse p o e b stSevered 0 s
      | .wait _ => s
      | .ok (pipe, ls) s =>
        let now := if upd then pipe else (s.pipe p).rec'
        match commitCheck s e.ctx e.ring p upd modeset now ls with
        | some (st, d) =>
          let rel := ls.filterMap fun x => edgeField s e.ctx e.ring true (slice x.2 64 16)
          commitEnd p o none 0 st d (failReleases rel .aborted s)
        | none =>
          let c := commitOf s o e.ctx e.ring upd modeset now ls
          (s.onOp o fun q => { q with units := [dspMaster p] }).onPipe p fun x => { x with pend := some c }) (applyIO io s)

/-! ## Tables (R321, R330, R331, R334, R346, R347) -/

/-- A table, or nothing for address 0. -/
def readTable (m ctx va n : Nat) (s : State) : Tr (List Byte) :=
  if va = 0 then .ok [] s else (vaRead m ctx va n .read s).tr va .read

def readLayerTabs (m ctx : Nat) (r : List Byte) (s : State) : Tr LayerTabs :=
  (readTable m ctx (fld r 80 8) 1792 s).bind fun scaler s =>
  (readTable m ctx (fld r 88 8) 48 s).bind fun csc s =>
  (readTable m ctx (fld r 96 8) 6162 s).bind fun lin s =>
  (readTable m ctx (fld r 104 8) 48 s).bind fun gamut s =>
  (readTable m ctx (fld r 112 8) 4546 s).bind fun enc s =>
  .ok { scaler, csc, lin, gamut, enc } s

/-- A table entry out of range: ENC and scaler coefficients. -/
def tabsBad (t : LayerTabs) : Bool :=
  (decide (t.enc ≠ []) && (upTo 3).any fun ch => (upTo 737).any fun i => decide (16383 < fld t.enc (1536 * ch + 2 * i) 2)) ||
  (decide (t.scaler ≠ []) && (upTo 896).any fun i => let c := int16 (fld t.scaler (2 * i) 2); decide (c < -512) || decide (511 < c))

def lutBad (t : List Byte) : Bool :=
  decide (t ≠ []) && (upTo 35937).any fun i => (upTo 3).any fun ch => decide (16383 < fld t (8 * i + 2 * ch) 2)

/-- Entry k of an event table. -/
def event (t : List Byte) (k : Nat) : List Byte := slice t (32 * k) 32
def evKind (e : List Byte) : Nat := fld e 6 1
def evLine (e : List Byte) : Nat := fld e 0 2
def evRepeat (e : List Byte) : Nat := fld e 2 2
def evCount (e : List Byte) : Nat := fld e 4 2

/-- The fence of a SIGNAL entry. -/
def evEdge (s : State) (ctx ring : Nat) (e : List Byte) : Option Edge :=
  if evKind e ≠ 1 then none
  else
    let x : Edge := { kind := fld e 8 1, flags := 0, object := fld e 10 2, value := 0, formed := decide (fld e 8 1 = 2) || decide (fld e 8 1 = 3), passed := false, alloc := 0, sat := false, dead := false }
    some (checkEdge s ctx ring true x)

def eventReserved (e : List Byte) : Bool := !zeros e 7 1 || !zeros e 9 1 || !zeros e 12 20

/-- An entry out of range (R346, R347). -/
def eventBad (s : State) (ctx ring : Nat) (pipe e : List Byte) : Bool :=
  let k := evKind e
  let vt := dVtot pipe
  decide (k ≠ 0) && (decide (3 < k) || decide (vt ≤ evLine e) || decide (evCount e = 0) || decide (255 < evCount e) ||
    (decide (evRepeat e = 0) && decide (evCount e ≠ 1)) || decide (vt ≤ evRepeat e * (evCount e - 1)) ||
    (if k = 1 then edgeBad (evEdge s ctx ring e) else decide (fld e 8 1 ≠ 0) || decide (fld e 10 2 ≠ 0)) ||
    (decide (2 ≤ k) && ((warpLayer pipe).isNone || decide (fld pipe 80 8 = 0))))

def eventsBad (s : State) (ctx ring : Nat) (pipe t : List Byte) : Bool :=
  let es := (upTo 16).map (event t)
  decide (t ≠ []) && (es.any (eventBad s ctx ring pipe) || decide (1 < (es.filter fun e => evKind e = 3).length))

/-- Tables of the pipe and of the masked layers. -/
def readTables (m : Nat) (c : Commit) (s : State) : Tr (List (Nat × LayerTabs) × List Byte × List Byte) :=
  (trMap c.layers (fun e s => (readLayerTabs m c.ctx e.2 s).bind fun t s => .ok (e.1, t) s) s).bind fun tabs s =>
  (if c.upd then readTable m c.ctx (fld c.pipe 32 8) 287496 s else .ok [] s).bind fun lut s =>
  (if c.upd then readTable m c.ctx (fld c.pipe 40 8) 512 s else .ok [] s).bind fun table s =>
  .ok (tabs, lut, table) s

/-! ## Applying a commit (R321 to R324) -/

/-- Do the ACQUIRE edges of a commit hold; the layers whose edge is unsatisfied. -/
def lateLayers (s : State) (c : Commit) : List Nat :=
  (c.acquire.filter fun e => edgeWait s e.2 ≠ .sat).map (·.1)

def layerRec (x : Pipe) (l : Nat) : List Byte := ((x.layers[l]?).getD Layer.off).rec'

/-- The layer that a record puts in force; a fetch fault lasts until the buffer changes (R340). -/
def newLayer (old : Layer) (r : List Byte) (t : LayerTabs) : Layer :=
  let same := decide (lBuf r = lBuf old.rec') && decide (lBuf1 r = lBuf1 old.rec')
  { rec' := r, tabs := t, faulted := old.faulted && same, lateClear := false, prot := false }

/-- The pipe's state replaced by a commit's. -/
def applyTo (gen : BitVec 16) (c : Commit) (x : Pipe) : Pipe :=
  let ls := (upTo 8).map fun l =>
    let old := (x.layers[l]?).getD Layer.off
    match c.layers.find? fun e => e.1 = l with
    | some e => newLayer old e.2 ((c.tabs.find? fun t => t.1 = l).map (·.2) |>.getD LayerTabs.none')
    | none => old
  let x := { x with layers := ls, ctx := c.ctx, gen, seq := c.op.seq, wbNoted := false }
  if c.upd then { x with rec' := c.pipe, lut := c.lut, table := c.table, wbFence := c.wbFence, events := c.events } else x

/-- RELEASE edges signalled by a commit: the layers whose buffer it changes or which it disables. -/
def releases (x : Pipe) (c : Commit) : List Edge :=
  (c.release.filter fun e =>
    let old := layerRec x e.1
    let new := ((c.layers.find? fun y => y.1 = e.1).map (·.2)).getD old
    decide (lBuf new ≠ lBuf old) || decide (lBuf1 new ≠ lBuf1 old) || (lOn old && !lOn new)).map (·.2)

def signalAll (es : List Edge) (s : State) : State :=
  es.foldl (fun s e => sendFence e.key e.alloc (.inl e.value) s) (if es = [] then s else wcFlushAll s)

/-- Puts a commit in force and signals its RELEASE edges. -/
def commitInForce (p : Nat) (c : Commit) (s : State) : State :=
  let rel := releases (s.pipe p) c
  signalAll rel (s.onPipe p (applyTo (s.ctx c.ctx).gen c))

/-- A commit completes. -/
def commitDone (p : Nat) (c : Commit) (s : State) : State :=
  commitEnd p c.op c.mark c.late stOk 0 (s.onPipe p fun x => { x with pend := none })

/-- Applies a loaded commit whose edges hold: at once complete, or the start of a mode set. A mode set of a pipe
that is OFF is applied at no boundary: DEDUCED (log 94), its report gives the boundary at which scanout starts. -/
def commitApply (p : Nat) (c : Commit) (s : State) : State :=
  let mark := if (s.pipe p).st = .scanout then some (s.time, (s.pipe p).frame) else none
  let s := commitInForce p c s
  if c.modeset then
    s.onPipe p fun x => { x with st := .modeset, stage := 1, pend := some { c with applied := true, mark }, due := false, out := [], bands := [], poseReads := [] }
  else commitDone p c s

/-- A layer record of a commit asks for LATE_CLEAR. -/
def wantsClear (c : Commit) (l : Nat) : Bool :=
  (c.layers.find? fun e => e.1 = l).any fun e => lLateClear e.2

/-- LATE of a commit that waits at a boundary (R322). -/
def commitLate (p : Nat) (c : Commit) (late : List Nat) (s : State) : State :=
  if late = [] then s
  else s.onPipe p fun x =>
    let cnt := (upTo 8).map fun l => Nat.min 15 (x.late.getD l 0 + b2n (late.contains l))
    let ls := (upTo 8).map fun l =>
      let y := (x.layers[l]?).getD Layer.off
      { y with lateClear := late.contains l && wantsClear c l }
    { x with late := cnt, layers := ls, pend := some { c with late := Nat.min 0xFFFFFFFF (c.late + 1) } }

/-- Would a commit put in force a warp layer with WARP_FLOOR below 7 (R354, R424). -/
def fastWarp (x : Pipe) (c : Commit) : Bool :=
  match warpLayer c.pipe with
  | some l => decide (fld c.pipe 63 1 < 7) && lOn ((layersAfter x c.layers).getD l [])
  | none => false

/-- The pending commit at a boundary, or on a pipe that is OFF: applied, late, or left (R321, R322,
R324). A halted DSP block applies none (R447). In S3 a fast warp layer makes the package exit first
(R424). -/
def tryCommit (p : Nat) (atBoundary : Bool) (s : State) : State :=
  match livePend s p with
  | none => s
  | some c =>
    if (if h : p < 4 then s.halted (.dsp ⟨p, h⟩) else true) ∨ !c.loaded ∨ c.applied ∨ inReset s 5 p ∨ (s.crossing (5 + p)).severed then s
    else if !awake s ∧ fastWarp (s.pipe p) c then startExit 3 0 s
    else
      let late := lateLayers s c
      if late = [] then commitApply p c s
      else if atBoundary then commitLate p c late s else s

/-- Commits whose ACQUIRE fence has gone into ERROR end at once (R322); layers that LATE_CLEAR hides show their
buffer again from the next frame. -/
def commitHooks (s : State) : State :=
  (upTo 4).foldl (fun s p => match livePend s p with
    | some c =>
      match c.acquire.findSome? (fun e => match edgeWait s e.2 with
        | .error r => some r
        | _ => none) with
      | some r => if c.applied then s else commitFail p c stOpError dtAcquire r s
      | none => s
    | none => s) s

/-- COMMIT_TABLES_LOADED. -/
def tablesLoaded (p : Nat) (io : HostIO) (s : State) : State :=
  let s := dropPend p (applyIO io s)
  let m := dspMaster p
  match livePend s p with
  | none => s
  | some c =>
    if c.loaded ∨ s.isPinned m then s
    else match readTables m c s with
      | .fault f va acc s' =>
        commitFault p c.op none c.late f va acc ((failReleases (c.release.map (·.2)) .aborted s').onPipe p fun x => { x with pend := none })
      | .bad d s => commitFail p c stOpError d .aborted s
      | .severed s => commitFail p c stSevered 0 .aborted s
      | .wait _ => s
      | .ok (tabs, lut, table) s =>
        let ring := c.op.ring.val
        if (upTo 16).any (fun k => decide (table ≠ []) && eventReserved (event table k)) then commitFail p c stBadRecord 0 .aborted s
        else if tabs.any (fun t => tabsBad t.2) || lutBad lut then commitFail p c stOpError dtLayer .aborted s
        else if eventsBad s c.ctx ring c.pipe table then commitFail p c stOpError dtEvent .aborted s
        else
          let events := (upTo 16).map fun k => if table = [] then none else evEdge s c.ctx ring (event table k)
          let s := s.onPipe p fun x => { x with pend := some { c with tabs, lut, table, events, loaded := true } }
          if (s.pipe p).st = .off then tryCommit p false s else s

/-! ## Frame boundaries (R314) -/

/-- What a new frame starts with. -/
def newFrame (x : Pipe) : Pipe :=
  { x with due := false, protNow := false, bandsFired := 0, bands := [], lateBands := [], wbDrop := false, layers := x.layers.map fun y => { y with lateClear := false, prot := false } }

/-- The layers of a context that is gone are shown no longer (R59, R342). -/
def orphanLayers (p : Nat) (s : State) : State :=
  let x := s.pipe p
  if ctxRuns s x.ctx ∧ (s.ctx x.ctx).gen = x.gen then s
  else s.onPipe p fun x => { x with layers := x.layers.map fun _ => Layer.off }

/-- A fault of a pipe's own fetch or write: its record, with the ring of DSP_CTL and the entry of the commit in
force, or the pin (R57, R340, R345). -/
def displayFault (p : Nat) (f : Flt) (ctx va : Nat) (acc : Access) (s : State) : State :=
  masterFault f (dspMaster p) ctx va acc (dspRing s p) (s.pipe p).seq s

/-- The HDR payload of the frame (R336). -/
def sendHdr (p : Nat) (s : State) : State :=
  let x := s.pipe p
  let va := fld x.rec' 88 8
  if va = 0 ∨ dspConn s p = 7 then s.onPipe p fun x => { x with hdr := [] }
  else match vaRead (dspMaster p) x.ctx va 32 .read s with
    | .ok b s => s.onPipe p fun x => { x with hdr := b }
    | .fault f s => (displayFault p f x.ctx va .read s).onPipe p fun x => { x with hdr := [] }
    | other => other.state.onPipe p fun x => { x with hdr := [] }

/-- The pipe stops scanning out: the link is down and STATE is OFF. -/
def pipeOff (x : Pipe) : Pipe :=
  { (newFrame x) with st := .off, stage := 0, stop := false, out := [], hdr := [], poseReads := [] }

/-- The copies that DSP_STS shows of STATE, HPD, PENDING and WARP_ON (R355). -/
def stsNow (s : State) (p : Nat) : Nat :=
  let x := s.pipe p
  let conn := dspConn s p
  let st := match x.st with
    | .off => 0 | .modeset => 1 | .scanout => 2
  let warp := decide (x.st ≠ .off) && (warpLayer x.rec').any fun l => lOn (layerRec x l)
  (if s.isPinned (dspMaster p) then 3 else st) + 4 * (if conn < 4 then tblGet 0 s.dsp.hpd conn else 0) + 8 * b2n (livePend s p).isSome + 16 * b2n warp

/-- The copies are updated at the start of a line. -/
def copySts (p : Nat) (s : State) : State := let v := stsNow s p; s.onPipe p fun x => { x with shown := v }

/-- FRAME_BOUNDARY. -/
def boundaryDo (p : Nat) (s : State) : State :=
  let s := dropPend p s
  let x := s.pipe p
  if s.isPinned (dspMaster p) then s
  else if x.st = .off then tryCommit p false s
  else if x.st ≠ .scanout ∨ !x.due then s
  else
    let s := s.onPipe p fun x => { (newFrame x) with frame := x.frame + 1 }
    if x.stop then s.onPipe p pipeOff
    else
      let s := tryCommit p true (orphanLayers p s)
      copySts p (if (s.pipe p).st = .scanout then sendHdr p s else s)

/-- Scanout starts at line VACTIVE, which is a boundary, and the mode set's commit completes; where a teardown has
discarded that commit, the mode set goes on, and the boundary is one like another (R314, R324, R342). -/
def scanStart (p : Nat) (s : State) : State :=
  let s := s.onPipe p fun x => { (newFrame x) with st := .scanout, stage := 0, line := dVact x.rec', frame := x.frame + 1, fired := [] }
  let s := orphanLayers p s
  let s := match livePend s p with
    | some c => if c.applied then commitDone p c s else tryCommit p true s
    | none => s
  copySts p (if (s.pipe p).st = .scanout then sendHdr p s else s)

/-- PIXEL_PLL_LOCK_DONE. -/
def pllLocked (p : Nat) (s : State) : State :=
  let s := dropPend p s
  if (s.pipe p).st ≠ .modeset ∨ (s.pipe p).stage ≠ 1 ∨ s.isPinned (dspMaster p) then s
  else if dspConn s p = 7 then scanStart p s
  else s.onPipe p fun x => { x with stage := 2 }

/-- LINK_TRAINING_DONE. -/
def trainingDone (p : Nat) (ok : Bool) (s : State) : State :=
  let s := dropPend p s
  if (s.pipe p).st ≠ .modeset ∨ (s.pipe p).stage ≠ 2 ∨ s.isPinned (dspMaster p) then s
  else if ok then scanStart p s
  else
    let s := s.onPipe p pipeOff
    match livePend s p with
    | some c => if c.applied then commitFail p c stOpError dtLink .aborted s else tryCommit p false s
    | none => s

/-! ## Fetch (R327 to R331) -/

/-- Does a range lie on a protected page, as far as its translation goes. -/
def onProt (m ctx va n : Nat) (s : State) : Bool :=
  (pageCuts va n).any fun c => match xlate m ctx c.1 .read s with
    | .ok l _ => l.prot
    | _ => false

/-- Bytes and whether a protected page was met. -/
def fetch (m ctx va n : Nat) (s : State) : Tr (List Byte × Bool) :=
  ((vaRead m ctx va n .read s).tr va .read).bind fun b s' => .ok (b, onProt m ctx va n s') s'

/-- Bytes of pixels x0 to x0 + n - 1 of row y of a plane. -/
def fetchRow (m ctx : Nat) (tiled : Bool) (va pitch b x0 n y : Nat) (s : State) : Tr (List Byte × Bool) :=
  if tiled then
    (trMap ((upTo n).map (x0 + ·)) (fun x s => fetch m ctx (planeAddr true va pitch b x y) b s) s).bind fun ps s =>
      .ok (ps.flatMap (·.1), ps.any (·.2)) s
  else fetch m ctx (planeAddr false va pitch b x0 y) (n * b) s

/-- Chroma of a row of luma positions: Cb and Cr of each (R329). -/
def chromaRow (ftz : Bool) (f x0 n y w h : Nat) (r0 r1 : List Byte) : List (Val × Val) :=
  let c := if f = 0x11 then 2 else 1
  (upTo n).map fun i =>
    let ((i0, i1), _, fx, fy) := chromaAt (x0 + i) y w h
    let g := fun (row : List Byte) (j ch : Nat) => yuvCode f (fld row ((2 * j + ch) * c) c)
    let v := fun (ch : Nat) => lerp ftz fy (lerp ftz fx (g r0 i0 ch) (g r0 i1 ch)) (lerp ftz fx (g r1 i0 ch) (g r1 i1 ch))
    (v 0, v 1)

/-- Row r of a layer's source rectangle, decoded and upsampled: colour and alpha of each pixel. -/
def sourceRow (m ctx : Nat) (ftz : Bool) (l : List Byte) (r : Nat) (s : State) : Tr (List Px × Bool) :=
  let f := lFmt l
  let y := lSrcY l + r
  let b := lBytes f
  (fetchRow m ctx (lTiled l) (lBuf l) (lPitch0 l) b (lSrcX l) (lSrcW l) y s).bind fun (bs, pr) s =>
    if lYuv l then
      let w := (lSrcX l + lSrcW l + 1) / 2
      let h := (lSrcY l + lSrcH l + 1) / 2
      let (_, (j0, j1), _, _) := chromaAt 0 y w h
      (fetchRow m ctx false (lBuf1 l) (lPitch1 l) (2 * b) 0 w j0 s).bind fun (r0, p0) s =>
      (fetchRow m ctx false (lBuf1 l) (lPitch1 l) (2 * b) 0 w j1 s).bind fun (r1, p1) s =>
        let cs := chromaRow ftz f (lSrcX l) (lSrcW l) y w h r0 r1
        .ok ((upTo (lSrcW l)).map fun i =>
          let c := cs.getD i (Val.zero, Val.zero)
          [yuvCode f (fld bs (b * i) b), c.1, c.2, vInt 4095], pr || p0 || p1) s
    else
      .ok ((upTo (lSrcW l)).map fun i => let (rgb, a) := decodeRgba f (fld bs (b * i) b); rgb ++ [vInt (a : Int)], pr) s

/-- Clamp after the scaler, and alpha as an integer (R331). -/
def scaledPx (f : Nat) (c : Px) : Px :=
  let v := fun (i : Nat) => c.getD i Val.zero
  let col := (upTo 3).map fun i => if f = 4 then v i else clamp01 (v i)
  col ++ [vInt (roundClamp 4095 (v 3) : Nat)]

/-- Horizontal pass of a row. -/
def scaleH (ftz : Bool) (l : List Byte) (tab : List Byte) (row : List Px) : List Px :=
  if lSrcW l = lDstW l then row
  else (upTo (lDstW l)).map fun i => tapSum ftz ((hTaps tab (lSrcW l) (lDstW l) i).map fun t => (t.2, row.getD t.1 []))

/-- Row dy of a layer's destination rectangle after the scaler. -/
def layerRow (m ctx : Nat) (ftz : Bool) (l : List Byte) (t : LayerTabs) (dy : Nat) (s : State) : Tr (List Px × Bool) :=
  let taps : List (Nat × Int) := if lSrcH l = lDstH l then [(dy, 256)] else vTaps t.scaler (lV4 l) (lSrcH l) (lDstH l) dy
  (trMap taps (fun x s => (sourceRow m ctx ftz l x.1 s).bind fun (row, pr) s => .ok ((x.2, scaleH ftz l t.scaler row), pr) s) s).bind
    fun rows s =>
      let one := (rows.headD ((0, []), false)).1.2
      let px := if lSrcH l = lDstH l then one
        else (upTo (lDstW l)).map fun i => tapSum ftz (rows.map fun r => (r.1.1, r.1.2.getD i []))
      let px := if lSrcW l = lDstW l ∧ lSrcH l = lDstH l then px else px.map (scaledPx (lFmt l))
      .ok (px, rows.any (·.2)) s

/-- Blend-space colour and effective alpha of a pixel. -/
def finishPx (ftz : Bool) (l : List Byte) (t : LayerTabs) (c : Px) : List Nat × Nat :=
  (colourStages ftz t (c.take 3), effAlpha (roundClamp 4095 (c.getD 3 Val.zero)) (lAlpha l))

/-! ## Composition -/

/-- A layer's pixels on a screen line: per destination pixel, none where it is transparent. -/
abbrev LineRow := List (Option (List Nat × Nat))

def onLayer (p l : Nat) (f : Layer → Layer) (s : State) : State :=
  s.onPipe p fun x => { x with layers := x.layers.modify l f }

/-- A layer fetch faults (R340): one record and one count for each layer and commit. -/
def layerFault (p l : Nat) (f : Flt) (ctx va : Nat) (s : State) : State :=
  let again := (((s.pipe p).layers[l]?).getD Layer.off).faulted
  if again ∧ f.code ≠ .keyMismatch ∧ !f.bar then s
  else
    let s := displayFault p f ctx va .read s
    (onLayer p l (fun y => { y with faulted := true }) s).onPipe p fun x => { x with fetchFault := if again then x.fetchFault else Nat.min 255 (x.fetchFault + 1) }

/-- A layer met a protected page on a pipe whose connector is external (R341). -/
def layerProt (p l : Nat) (s : State) : State :=
  (onLayer p l (fun y => { y with prot := true }) s).onPipe p fun x =>
    { x with protNow := true, protBlocked := if x.protNow then x.protBlocked else Nat.min 255 (x.protBlocked + 1) }

def externalConn (s : State) (p : Nat) : Bool := decide (dspConn s p = 2) || decide (dspConn s p = 3)

/-- The warp layer's row from its band, once it is complete in its slot (R352). -/
def warpRow (p dy : Nat) (s : State) : LineRow × State :=
  let x := s.pipe p
  let n := dy / 64
  match (x.bands.find? fun b => b.n = n).bind fun b => b.rows[dy % 64]? with
  | some row => (row, s)
  | none =>
    if x.lateBands.contains n then ([], s)
    else ([], s.onPipe p fun x => { x with lateBands := x.lateBands ++ [n], warpLate := Nat.min 255 (x.warpLate + 1) })

/-- A layer on a screen line, and whether its data did not arrive. -/
def layerLine (p l y : Nat) (s : State) : LineRow × Bool × State :=
  let x := s.pipe p
  let lay := (x.layers[l]?).getD Layer.off
  let r := lay.rec'
  let dy := (y : Int) - lDstY r
  if !lOn r ∨ lay.lateClear ∨ lay.faulted ∨ lay.prot ∨ dy < 0 ∨ (lDstH r : Int) ≤ dy then ([], false, s)
  else if warpLayer x.rec' = some l then let (row, s) := warpRow p dy.toNat s; (row, false, s)
  else
    let ftz := ctxFtz s x.ctx
    match layerRow (dspMaster p) x.ctx ftz r lay.tabs dy.toNat s with
    | .ok (px, pr) s =>
      if pr && externalConn s p then ([], false, layerProt p l s)
      else (px.map fun c => some (finishPx ftz r lay.tabs c), false, s)
    | .fault f va _ s => ([], false, layerFault p l f x.ctx va s)
    | other => ([], true, other.state)

/-- Layers in increasing Z. -/
def byZ (x : Pipe) : List Nat :=
  ((upTo 8).flatMap fun z => (upTo 8).filter fun l => lOn (layerRec x l) && decide (lZ (layerRec x l) = z))

/-- Blends one layer's row over a line. -/
def blendRow (late : List LateSpan) (l : Nat) (r : List Byte) (row : LineRow) (line : List (List Nat)) : List (List Nat) :=
  (upTo line.length).map fun x =>
    let d := line.getD x []
    let dx := (x : Int) - lDstX r
    let cut := late.any fun z => decide (z.layer.val = l) && decide (z.x0 ≤ x) && decide (x < z.x1)
    if dx < 0 ∨ (lDstW r : Int) ≤ dx ∨ cut then d
    else match row.getD dx.toNat none with
      | some (c, a) => (upTo 3).map fun i => blend14 (c.getD i 0) a (d.getD i 0)
      | none => d

/-- Does a late span hit pixels of a layer that is shown on a line (R339). -/
def spanHits (x : Pipe) (y : Nat) (z : LateSpan) : Bool :=
  let lay := (x.layers[z.layer.val]?).getD Layer.off
  let r := lay.rec'
  lOn r && !lay.faulted && !lay.lateClear && !lay.prot && decide (lDstY r ≤ (y : Int)) && decide ((y : Int) < lDstY r + (lDstH r : Int)) &&
  decide (max (max (z.x0 : Int) (lDstX r)) 0 < min (min (z.x1 : Int) (lDstX r + (lDstW r : Int))) (dHact x.rec' : Int))

/-- A writeback write faults: one record for each commit, and the count (R345). -/
def wbFaulted (p : Nat) (f : Flt) (ctx va : Nat) (acc : Access) (s : State) : State :=
  let s := if (s.pipe p).wbNoted ∧ f.code ≠ .keyMismatch ∧ !f.bar then s else displayFault p f ctx va acc s
  s.onPipe p fun x => { x with wbNoted := true, wbFault := Nat.min 255 (x.wbFault + 1) }

/-- The pipe writes the lines of its frame back: between the frame's first line and its last. -/
def wbUnderWay (x : Pipe) : Bool :=
  decide (x.line + 1 = dVtot x.rec') || decide (x.line + 1 < dVact x.rec')

/-- A writeback write that had waited for its translation faults. What is left of its frame is dropped, and that
frame's fence is not signalled; a frame counts once (R345). -/
def wbLateFault (p : Nat) (f : Flt) (ctx va : Nat) (acc : Access) (s : State) : State :=
  let x := s.pipe p
  if wbUnderWay x then
    (if x.wbDrop ∧ f.code ≠ .keyMismatch ∧ !f.bar then s else wbFaulted p f ctx va acc (s.onPipe p fun x => { x with wbDrop := true }))
  else if x.wbPend = [] ∧ f.code ≠ .keyMismatch ∧ !f.bar then s
  else wbFaulted p f ctx va acc (s.onPipe p fun x => { x with wbPend := x.wbPend.dropLast })

/-- A row of writeback (R343 to R345). -/
def wbRow (p y : Nat) (line : List (List Nat)) (s : State) : State :=
  let x := s.pipe p
  let r := x.rec'
  let f := fld r 60 1
  let b := lBytes f
  let va := fld r 48 8
  let pitch := if fld r 61 1 = 1 then (dHact r + 31) / 32 * 32 else fld r 56 4
  if !bit (dFlags r) 2 ∨ x.wbDrop then s
  else
    let px := fun (i : Nat) => natLe b (wbPixel f (bit (dFlags r) 0) i y (line.getD i []))
    let w : Tr Unit := if fld r 61 1 = 1 then
        (trMap (upTo line.length) (fun i s => (vaWrite (dspMaster p) x.ctx (planeAddr true va pitch b i y) (px i) s).tr va .write) s).bind fun _ s => .ok () s
      else (vaWrite (dspMaster p) x.ctx (planeAddr false va pitch b 0 y) ((upTo line.length).flatMap px) s).tr (va + y * pitch) .write
    match w with
    | .ok _ s => if y + 1 = dVact r then s.onPipe p fun x => { x with wbPend := x.wbPend ++ (x.wbFence.map fun e => (x.frame, e)).toList } else s
    | .fault ft fva acc s => wbFaulted p ft x.ctx fva acc (s.onPipe p fun x => { x with wbDrop := true })
    | other => other.state.onPipe p fun x => { x with wbDrop := true }

/-- The source rows that a layer reads in a frame: those that the taps of its visible rows name. -/
def rowsRead (r : List Byte) (t : LayerTabs) (vact : Nat) : List Nat :=
  let dys : List Nat := (upTo (lDstH r)).filter fun (dy : Nat) => decide (0 ≤ lDstY r + (dy : Int)) && decide (lDstY r + (dy : Int) < (vact : Int))
  if lSrcH r = lDstH r then dys else (dys.flatMap fun dy => (vTaps t.scaler (lV4 r) (lSrcH r) (lDstH r) dy).map (·.1)).eraseDups

/-- The addresses that a source row of a layer is read from. -/
def rowSpans (l : List Byte) (row : Nat) : List (Nat × Nat) :=
  let b := lBytes (lFmt l)
  let y := lSrcY l + row
  if lTiled l then (upTo (lSrcW l)).map fun i => (planeAddr true (lBuf l) (lPitch0 l) b (lSrcX l + i) y, b)
  else
    let luma := (planeAddr false (lBuf l) (lPitch0 l) b (lSrcX l) y, lSrcW l * b)
    if lYuv l then
      let w := (lSrcX l + lSrcW l + 1) / 2
      let (_, (j0, j1), _, _) := chromaAt 0 y w ((lSrcY l + lSrcH l + 1) / 2)
      luma :: [j0, j1].map fun j => (planeAddr false (lBuf1 l) (lPitch1 l) (2 * b) 0 j, w * 2 * b)
    else [luma]

/-- Layers of an external connector that read a protected page in the frame are transparent in all of it (R341).
The warp layer is treated so from the band that reads one. -/
def protAhead (p : Nat) (s : State) : State :=
  let x := s.pipe p
  if !externalConn s p then s
  else ((upTo 8).filter fun l =>
    let lay := (x.layers[l]?).getD Layer.off
    let r := lay.rec'
    lOn r && !lay.faulted && !lay.lateClear && decide (warpLayer x.rec' ≠ some l) && (rowsRead r lay.tabs (dVact x.rec')).any fun row =>
      (rowSpans r row).any fun a => onProt (dspMaster p) x.ctx a.1 a.2 s).foldl (fun s l => layerProt p l s) s

/-- Composes screen line y and sends it on. -/
def composeLine (p y : Nat) (late : List LateSpan) (s : State) : State :=
  let x := s.pipe p
  let r := x.rec'
  let late := late.filter fun z => warpLayer r ≠ some z.layer.val
  let s := if y = 0 then protAhead p s else s
  let bg := (upTo 3).map fun i => fld r (24 + 2 * i) 2
  let (line, miss, s) := (byZ x).foldl (fun (acc : List (List Nat) × Bool × State) l =>
    let (row, m, s) := layerLine p l y acc.2.2
    (blendRow late l (layerRec x l) row acc.1, acc.2.1 || m, s)) (List.replicate (dHact r) bg, false, s)
  let under := miss || late.any (spanHits x y)
  let s := if under then s.onPipe p fun x => { x with underrun := Nat.min 255 (x.underrun + 1) } else s
  let line := line.map (lut3d x.lut)
  let fl := dFlags r
  let out := if bit fl 1 ∧ dspConn s p ≠ 7 then (upTo line.length).map fun i => (line.getD i []).map fun v => reduceBits (bit fl 0) (dBpc r) i y v else []
  wbRow p y line (s.onPipe p fun x => { x with out })

/-! ## Line events (R346 to R348) -/

/-- Does entry k fire at the start of a line. -/
def firesOn (x : Pipe) (k : Nat) (line : Nat) : Bool :=
  let e := event x.table k
  decide (x.table ≠ []) && decide (evKind e ≠ 0) && (upTo (evCount e)).any fun i => decide ((evLine e + i * evRepeat e) % dVtot x.rec' = line)

/-- Every entry of the line below k has fired. -/
def firedBelow (x : Pipe) (k : Nat) : Bool := (upTo k).all fun j => !firesOn x j x.line || x.fired.contains j

/-- An entry of a kind that acts now: the boundary of its line first, then the entries in order. -/
def eventNow (s : State) (p k kind : Nat) : Bool :=
  let x := s.pipe p
  scanning s p && !x.due && decide (evKind (event x.table k) = kind) && firesOn x k x.line && !x.fired.contains k && firedBelow x k

def markFired (p k : Nat) (s : State) : State := s.onPipe p fun x => { x with fired := x.fired ++ [k] }

/-- Position of a line (R314). -/
def linePos (x : Pipe) : Nat := (x.line + dVtot x.rec' - dVact x.rec') % dVtot x.rec'

/-- SIGNAL (R348). -/
def signalDo (p k : Nat) (s : State) : State :=
  if !eventNow s p k 1 then s
  else
    let x := s.pipe p
    let s := markFired p k s
    match x.events.getD k none with
    | some e => signalAll [{ e with value := x.frame * 65536 + q64 (linePos x) }] s
    | none => s

/-! ## Late warp (R349 to R353) -/

/-- SAMPLE_POSE starts a read of the pose record, at the address and in the context of that moment. -/
def sampleDo (p k : Nat) (s : State) : State :=
  if eventNow s p k 2 then (markFired p k s).onPipe p fun x => { x with poseReads := x.poseReads ++ [(x.ctx, fld x.rec' 80 8)] } else s

/-- POSE_READ_DONE: a torn or failed read counts; another becomes the newest pose. -/
def poseDo (p : Nat) (io : HostIO) (s : State) : State :=
  let s := applyIO io s
  match (s.pipe p).poseReads with
  | [] => s
  | (ctx, va) :: rest =>
    if !scanning s p then s
    else
      let past := fun (s : State) => s.onPipe p fun x => { x with poseReads := rest }
      let torn := fun (s : State) => (past s).onPipe p fun x => { x with poseTorn := Nat.min 255 (x.poseTorn + 1) }
      match vaRead (dspMaster p) ctx va 64 .read s with
      | .ok b s =>
        if fld b 0 8 ≠ fld b 56 8 then torn s
        else (past s).onPipe p fun x => { x with pose := (upTo 9).map fun i => w32 (fld b (8 + 4 * i) 4) }
      | .fault f s => torn (displayFault p f ctx va .read s)
      | .severed s => torn s
      | .wait _ => s

/-- Bands of the warp layer. -/
def bandCount (r : List Byte) : Nat := (lDstH r + 63) / 64

/-- The last screen row composed in this frame; -1: none. -/
def composedTo (x : Pipe) : Int :=
  if dVact x.rec' ≤ x.line + 1 ∧ x.line < dVact x.rec' then (dVact x.rec' : Int) - 1
  else if x.line + 1 = dVtot x.rec' then 0
  else if dVact x.rec' ≤ x.line then -1 else (x.line : Int) + 1

/-- The last row of band n has been composed. -/
def bandOver (x : Pipe) (r : List Byte) (n : Nat) : Bool :=
  decide (lDstY r + (Nat.min (64 * n + 63) (lDstH r - 1) : Nat) ≤ composedTo x)

/-- Slot of band n is free. -/
def slotFree (x : Pipe) (r : List Byte) (n : Nat) : Bool := decide (n < 2) || bandOver x r (n - 2)

/-- WARP_BAND starts a band, or lets it wait for its slot (R351). -/
def warpBandDo (p k : Nat) (s : State) : State :=
  if !eventNow s p k 3 then s
  else (markFired p k s).onPipe p fun x =>
    match warpLayer x.rec' with
    | none => x
    | some l =>
      let r := layerRec x l
      let n := x.bandsFired
      let x := { x with bandsFired := n + 1 }
      if !lOn r ∨ bandCount r ≤ n then x
      else if slotFree x r n then
        { x with bands := x.bands.filter (fun b => b.n + 2 ≠ n) ++ [{ n, pose := x.pose, waits := false, rows := [], done := false }] }
      else { x with bands := x.bands ++ [{ n, pose := [], waits := true, rows := [], done := false }] }

/-- Waiting bands whose slot has become free start with the newest pose. -/
def startBands (x : Pipe) : Pipe :=
  match warpLayer x.rec' with
  | none => x
  | some l =>
    let r := layerRec x l
    let go := (x.bands.filter fun b => b.waits && slotFree x r b.n).map (·.n)
    if go = [] then x
    else
      let kept := x.bands.filter fun b => !go.contains (b.n + 2)
      { x with bands := mapIf (fun b => go.contains b.n) (fun b => { b with waits := false, pose := x.pose }) kept }

/-- A texel of the source rectangle at integer coordinates; outside it colour and alpha are 0. -/
def texel (m ctx : Nat) (l : List Byte) (u v : Int) (s : State) : Tr (Px × Bool) :=
  let f := lFmt l
  let b := lBytes f
  if u < 0 ∨ v < 0 ∨ (lSrcW l : Int) ≤ u ∨ (lSrcH l : Int) ≤ v then .ok (List.replicate 4 Val.zero, false) s
  else (fetch m ctx (planeAddr (lTiled l) (lBuf l) (lPitch0 l) b (lSrcX l + u.toNat) (lSrcY l + v.toNat)) b s).bind fun (bs, pr) s =>
    let (rgb, a) := decodeRgba f (fld bs 0 b)
    .ok (rgb ++ [vInt (a : Int)], pr) s

/-- A warped pixel (R350): none where it is transparent. -/
def warpPx (m ctx : Nat) (ftz : Bool) (l : List Byte) (t : LayerTabs) (h : List Word) (x y : Nat) (s : State) : Tr (Option (List Nat × Nat) × Bool) :=
  match warpPos ftz h x y with
  | none => .ok (none, false) s
  | some (u, v) =>
    let half : Val := .fin true 1 (-1)
    let u := fpA ftz u half
    let v := fpA ftz v half
    let iu := floorInt u
    let iv := floorInt v
    let fu := fpA ftz u (vInt (-iu))
    let fv := fpA ftz v (vInt (-iv))
    (texel m ctx l iu iv s).bind fun (a, p0) s => (texel m ctx l (iu + 1) iv s).bind fun (b, p1) s =>
    (texel m ctx l iu (iv + 1) s).bind fun (c, p2) s => (texel m ctx l (iu + 1) (iv + 1) s).bind fun (d, p3) s =>
      let px := (upTo 4).map fun i =>
        let g := fun (q : Px) => q.getD i Val.zero
        lerp ftz fv (lerp ftz fu (g a) (g b)) (lerp ftz fu (g c) (g d))
      .ok (some (finishPx ftz l t px), p0 || p1 || p2 || p3) s

/-- Rows of a band. -/
def bandRows (r : List Byte) (n : Nat) : Nat := Nat.min 64 (lDstH r - 64 * n)

/-- Computes a running band up to its first k rows. -/
def bandTo (p l k : Nat) (b : Band) (s : State) : State :=
  let x := s.pipe p
  let lay := (x.layers[l]?).getD Layer.off
  let r := lay.rec'
  let ys := (upTo k).drop b.rows.length
  let ftz := ctxFtz s x.ctx
  match trMap ys (fun i s => trMap (upTo (lDstW r)) (fun px s => warpPx (dspMaster p) x.ctx ftz r lay.tabs b.pose px (64 * b.n + i) s) s) s with
  | .ok rows s =>
    let rows' := b.rows ++ rows.map fun row => row.map (·.1)
    let s := s.onPipe p fun x => { x with bands := mapIf (fun y => y.n = b.n) (fun y => { y with rows := rows' }) x.bands }
    if externalConn s p && rows.any (fun row => row.any (·.2)) then layerProt p l s else s
  | .fault f va _ s => layerFault p l f x.ctx va s
  | other => other.state

/-- Bands that run have completed some more of their rows by the next line: how many is open (R352, R353). -/
def bandsRun (p : Nat) (s : State) : State :=
  let x := s.pipe p
  match warpLayer x.rec' with
  | none => s
  | some l =>
    let lay := (x.layers[l]?).getD Layer.off
    if lay.faulted then s
    else (x.bands.filter fun b => !b.waits && !b.done).foldl (fun s b =>
      let (v, s) := s.fresh
      bandTo p l (b.rows.length + v.toNat % (bandRows lay.rec' b.n - b.rows.length + 1)) b s) s

/-- WARP_BAND_DONE: the oldest band that runs is complete in its slot. -/
def bandDone (p : Nat) (io : HostIO) (s : State) : State :=
  let s := applyIO io s
  let x := s.pipe p
  match warpLayer x.rec', x.bands.find? fun b => !b.waits && !b.done with
  | some l, some b =>
    let lay := (x.layers[l]?).getD Layer.off
    let n := bandRows lay.rec' b.n
    if !scanning s p ∨ lay.faulted then s
    else (bandTo p l n b s).onPipe p fun x =>
      { x with bands := mapIf (fun y => decide (y.n = b.n) && decide (n ≤ y.rows.length)) (fun y => { y with done := true }) x.bands }
  | _, _ => s

/-! ## Lines -/

/-- LINE_COMPOSE: the next line starts, and the screen line that leaves after it is composed (R352).
The boundary and the events of the line before it come first. -/
def lineDo (p : Nat) (late : List LateSpan) (io : HostIO) (s : State) : State :=
  let s := applyIO io s
  let x := s.pipe p
  if !scanning s p ∨ x.due ∨ !firedBelow x 16 then s
  else
    let line := (x.line + 1) % dVtot x.rec'
    let s := s.onPipe p fun x => { x with line, fired := [], due := decide (line = dVact x.rec') }
    let y := (line + 1) % dVtot x.rec'
    let s := if y < dVact x.rec' then composeLine p y late (bandsRun p s) else s
    copySts p (s.onPipe p startBands)

/-- WRITEBACK_DONE: every write of the oldest frame on its way has been accepted, and the fence that was in force
in that frame is signalled (R344). -/
def wbDone (p : Nat) (s : State) : State :=
  match (s.pipe p).wbPend with
  | (f, e) :: rest =>
    if s.isPinned (dspMaster p) then s
    else signalAll [{ e with value := f }] (s.onPipe p fun x => { x with wbPend := rest })
  | [] => s

/-! ## Registers -/

/-- A pipe loses its ENABLE (R316). -/
def disablePipe (p : Nat) (s : State) : State :=
  let s := match livePend s p with
    | some c => commitFail p c stOpError dtPipeOwner .aborted s
    | none => s
  s.onPipe p fun x => match x.st with
    | .scanout => { x with stop := true }
    | .modeset => { (pipeOff x) with pend := none }
    | .off => x

/-- A write of DSP_CTL (R316). -/
def dspCtlEffect (p : Nat) (w : RegWr) (s : State) : State :=
  let en := bit w.old.toNat 0
  let conn := bits w.new.toNat 3 1
  let used := (upTo 4).any fun q => decide (q ≠ p) && dspEnable s q && decide (dspConn s q = conn)
  if (4 ≤ conn ∧ conn ≤ 6) ∨ (conn ≠ 7 ∧ used) ∨ (en ∧ w.changes 0x1FFFE) then refuseWr w refusedBit s
  else
    let s := storeWr w 0 s
    if en ∧ !bit w.new.toNat 0 then disablePipe p s else s

/-- A write of DSP_CNT_CLR (R355). -/
def cntClrEffect (p : Nat) (w : RegWr) (s : State) : State :=
  if bit w.val.toNat 0 then
    s.onPipe p fun x => { x with underrun := 0, fetchFault := 0, warpLate := 0, poseTorn := 0, protBlocked := 0, wbFault := 0, late := List.replicate 8 0 }
  else s

def offAuxCtl (p : Nat) : Nat := dspOff p + 0x80

/-- Link training runs (R324 step 3). -/
def inTraining (s : State) (p : Nat) : Bool :=
  decide ((s.pipe p).st = .modeset) && decide ((s.pipe p).stage = 2)

/-- Bytes of DSP_AUX_DATA_n. -/
def auxBytes (s : State) (p : Nat) : List Byte := (upTo 4).flatMap fun n => natLe 4 (s.raw 0 (dspOff p + 0x90 + 4 * n)).toNat

/-- An attempt of a transaction goes out on the connector's AUX channel: address, kind and, of a write, its bytes. -/
def auxSend (p : Nat) (a : AuxTx) (s : State) : State :=
  s.onPipe p fun x => { x with aux := some { a with pause := false }, auxSent := x.auxSent ++ [a.req] }

/-- A write of DSP_AUX_CTL (R356): GO starts the transaction that the registers describe. -/
def auxCtlEffect (p : Nat) (w : RegWr) (s : State) : State :=
  let s := storeWr w 0x40000000 s
  if bit w.val.toNat 30 ∧ (s.pipe p).aux.isNone ∧ !inTraining s p ∧ dspConn s p ≠ 7 then
    let i2c := bit w.new.toNat 25
    let len := bits w.new.toNat 23 20 + 1
    let write := bit w.new.toNat 24
    auxSend p { tries := 0, req := { addr := bits w.new.toNat (if i2c then 6 else 19) 0, len, write, i2c, data := if write then (auxBytes s p).take len else [] }, pause := false } s
  else s

/-- A read transaction leaves its bytes in DSP_AUX_DATA_n. -/
def auxStore (p len : Nat) (bs : List Byte) (s : State) : State :=
  let old := auxBytes s p
  let new := splice old 0 ((bs.take len).take 16)
  eachDo (upTo 4) (fun n s => s.setRaw 0 (dspOff p + 0x90 + 4 * n) (w32 (fld new (4 * n) 4))) s

def auxEnd (p res : Nat) (s : State) : State := s.onPipe p fun x => { x with aux := none, auxRes := res }

/-- AUX_REPLY: the sink answers an attempt. -/
def auxReplyDo (p : Nat) (r : AuxReply) (s : State) : State :=
  match (s.pipe p).aux with
  | none => s
  | some a =>
    if a.pause then s
    else match r with
      | .ack bs => auxEnd p 0 (if a.req.write then s else auxStore p a.req.len bs s)
      | .nack => auxEnd p 1 s
      | .defer =>
        if 7 ≤ a.tries then auxEnd p 2 s
        else s.onPipe p fun x => { x with aux := some { a with tries := a.tries + 1, pause := true } }

/-- AUX_TIMEOUT: 400 microseconds end the interval before a retry, or an attempt without a reply. -/
def auxTimeoutDo (p : Nat) (s : State) : State :=
  match (s.pipe p).aux with
  | none => s
  | some a => if a.pause then auxSend p a s else auxEnd p 3 s

def connNum : Connector → Nat
  | .edp0 => 0 | .edp1 => 1 | .dp0 => 2 | .dp1 => 3

/-! ## The meanings -/

/-- DISPLAY_COMMIT (R317 to R320). -/
def execDisplayCommit (o : OpRef) (io : HostIO) (s : State) : Out := .next (commitDo o io s)

/-- COMMIT_TABLES_LOADED (R321). -/
def execCommitTablesLoaded (p : Fin 4) (io : HostIO) (s : State) : Out := .next (tablesLoaded p.val io s)

/-- FRAME_BOUNDARY (R314, R321 to R323). -/
def execFrameBoundary (p : Fin 4) (t : Nat) (s : State) : Out := .next (boundaryDo p.val (advanceTo t s))

/-- PIXEL_PLL_LOCK_DONE (R324). -/
def execPixelPllLockDone (p : Fin 4) (s : State) : Out := .next (pllLocked p.val s)

/-- LINK_TRAINING_DONE (R324). -/
def execLinkTrainingDone (p : Fin 4) (ok : Bool) (t : Nat) (s : State) : Out := .next (trainingDone p.val ok (advanceTo t s))

/-- LINE_COMPOSE (R326 to R345, R352). -/
def execLineCompose (p : Fin 4) (late : List LateSpan) (io : HostIO) (s : State) : Out := .next (metaLog (lineDo p.val late io s))

/-- SIGNAL (R348). -/
def execLineSignal (p : Fin 4) (entry : Fin 16) (s : State) : Out := .next (signalDo p.val entry.val s)

/-- SAMPLE_POSE (R349). -/
def execSamplePose (p : Fin 4) (entry : Fin 16) (s : State) : Out := .next (sampleDo p.val entry.val s)

/-- POSE_READ_DONE (R349). -/
def execPoseReadDone (p : Fin 4) (io : HostIO) (s : State) : Out := .next (poseDo p.val io s)

/-- WARP_BAND (R351). -/
def execWarpBand (p : Fin 4) (entry : Fin 16) (s : State) : Out := .next (warpBandDo p.val entry.val s)

/-- WARP_BAND_DONE (R350, R351). -/
def execWarpBandDone (p : Fin 4) (io : HostIO) (s : State) : Out := .next (bandDone p.val io s)

/-- WRITEBACK_DONE (R344). -/
def execWritebackDone (p : Fin 4) (s : State) : Out := .next (wbDone p.val s)

/-- HPD_CHANGE (R355). -/
def execHpdChange (conn : Connector) (level : Bool) (s : State) : Out :=
  .next (s.onDsp fun d => { d with hpd := tblSet 0 d.hpd (connNum conn) (b2n level) })

/-- AUX_REPLY (R356). -/
def execAuxReply (p : Fin 4) (reply : AuxReply) (s : State) : Out := .next (auxReplyDo p.val reply s)

/-- AUX_TIMEOUT (R356). -/
def execAuxTimeout (p : Fin 4) (s : State) : Out := .next (auxTimeoutDo p.val s)

end Sys2Proof.Machine
end

