-- ==== Sys2Proof/Machine/Codec.lean ====
section
/-! DEFINITION. The formats of the compression engine as functions of byte strings: checks, DEFLATE,
zlib, gzip and TPX-LZ, both ways (R361 to R368). -/

namespace Sys2Proof.Machine

open Sys2Proof

/-! ## Checks -/

/-- One bit of a reflected CRC register. -/
def crcBit (poly c : Nat) : Nat := if c % 2 = 1 then (c / 2) ^^^ poly else c / 2

def crcByte (poly c : Nat) (b : Byte) : Nat := (upTo 8).foldl (fun c _ => crcBit poly c) (c ^^^ b.toNat)

/-- A reflected CRC with initial value and final XOR 0xFFFF_FFFF. -/
def crcOf (poly : Nat) (bs : List Byte) : Nat := bs.foldl (crcByte poly) 0xFFFFFFFF ^^^ 0xFFFFFFFF

/-- CRC-32 of RFC 1952. -/
def crc32 (bs : List Byte) : Nat := crcOf 0xEDB88320 bs

/-- CRC-32C (R362). -/
def crc32c (bs : List Byte) : Nat := crcOf 0x82F63B78 bs

/-- Adler-32 of RFC 1950. -/
def adler32 (bs : List Byte) : Nat :=
  let (a, b) := bs.foldl (fun (x : Nat × Nat) c => let a := (x.1 + c.toNat) % 65521; (a, (x.2 + a) % 65521)) (1, 0)
  b * 65536 + a

/-! ## Decoding: the state and its ends -/

def dcIllegal : Nat := 0x70
def dcFar : Nat := 0x71
def dcOverrun : Nat := 0x72
def dcCheck : Nat := 0x73
def dcTrunc : Nat := 0x74
def dcHeader : Nat := 0x75
def dcJob : Nat := 0x76
def dcFull : Nat := 0x77

/-- A decoder: the bit position reached, the output, where the stream's (or member's) output starts,
and the output length and bit position at which each element began, newest first. -/
structure Dec where
  pos   : Nat
  out   : List Byte
  base  : Nat
  marks : List (Nat × Nat)
  deriving DecidableEq, Repr

/-- A step of a decoder: it goes on, or meets its first fault: code, and bit position of the element
at fault. -/
inductive DRes where
  | ok (d : Dec)
  | fail (d : Dec) (code pos : Nat)
  deriving DecidableEq, Repr

def DRes.bind (r : DRes) (f : Dec → DRes) : DRes := match r with
  | .ok d => f d
  | other => other

/-- Bit p of a source, from the least significant bit of its first byte. -/
def bitAt (src : List Byte) (p : Nat) : Nat := (src.getD (p / 8) 0).toNat / 2 ^ (p % 8) % 2

def getBits (src : List Byte) (p n : Nat) : Nat := ((upTo n).map fun i => bitAt src (p + i) * 2 ^ i).sum

/-- Are n bits left. -/
def has (src : List Byte) (p n : Nat) : Bool := decide (p + n ≤ 8 * src.length)

/-- An element produces bytes (R368). -/
def emit (lim : Nat) (d : Dec) (start : Nat) (next : Nat) (bs : List Byte) : DRes :=
  if lim < d.out.length + bs.length then .fail d dcOverrun start
  else .ok { d with pos := next, out := d.out ++ bs, marks := (d.out.length, start) :: d.marks }

/-- n bytes copied one at a time from dist bytes back (R363). -/
def copyBack : Nat → Nat → List Byte → List Byte
  | 0, _, out => out
  | n + 1, dist, out => copyBack n dist (out ++ [out.getD (out.length - dist) 0])

/-! ## Huffman codes (RFC 1951) -/

/-- Symbols of a code length, in order. -/
def symsOf (lens : List Nat) (l : Nat) : List Nat := (upTo lens.length).filter fun i => decide (lens.getD i 0 = l)

/-- Unused code space, in units of 2^-15: negative when over-subscribed. -/
def codeLeft (lens : List Nat) : Int :=
  (2 ^ 15 : Int) - (((upTo 15).map fun i => (symsOf lens (i + 1)).length * 2 ^ (14 - i)).sum : Nat)

/-- How a code is read. -/
inductive SymRes where
  | sym (s pos : Nat)
  | trunc
  | bad
  deriving DecidableEq, Repr

/-- Reads a canonical code bit by bit. Fuel: lengths left of 15. -/
def readSymAt (lens : List Nat) (src : List Byte) : Nat → Nat → Nat → Nat → SymRes
  | 0, _, _, _ => .bad
  | f + 1, p, code, first =>
    if !has src p 1 then .trunc
    else
      let code := code + bitAt src p
      let ss := symsOf lens (15 - f)
      if code - first < ss.length ∧ first ≤ code then .sym (ss.getD (code - first) 0) (p + 1)
      else readSymAt lens src f (p + 1) (2 * code) (2 * (first + ss.length))

def readSym (lens : List Nat) (src : List Byte) (p : Nat) : SymRes := readSymAt lens src 15 p 0 0

def fixedLit : List Nat := List.replicate 144 8 ++ List.replicate 112 9 ++ List.replicate 24 7 ++ List.replicate 8 8
def fixedDist : List Nat := List.replicate 32 5

/-- Base and extra bits of length code 257 + i. -/
def lenBase : List (Nat × Nat) :=
  [(3, 0), (4, 0), (5, 0), (6, 0), (7, 0), (8, 0), (9, 0), (10, 0), (11, 1), (13, 1), (15, 1), (17, 1), (19, 2), (23, 2), (27, 2),
   (31, 2), (35, 3), (43, 3), (51, 3), (59, 3), (67, 4), (83, 4), (99, 4), (115, 4), (131, 5), (163, 5), (195, 5), (227, 5), (258, 0)]

/-- Base and extra bits of distance code i. -/
def distBase : List (Nat × Nat) :=
  [(1, 0), (2, 0), (3, 0), (4, 0), (5, 1), (7, 1), (9, 2), (13, 2), (17, 3), (25, 3), (33, 4), (49, 4), (65, 5), (97, 5), (129, 6),
   (193, 6), (257, 7), (385, 7), (513, 8), (769, 8), (1025, 9), (1537, 9), (2049, 10), (3073, 10), (4097, 11), (6145, 11),
   (8193, 12), (12289, 12), (16385, 13), (24577, 13)]

/-! ## Inflate -/

/-- The match that a length code starts. -/
def inflateMatch (lim : Nat) (dist : List Nat) (src : List Byte) (d : Dec) (sym p : Nat) : DRes :=
  if 286 ≤ sym then .fail d dcIllegal d.pos
  else
    let (lb, le) := lenBase.getD (sym - 257) (0, 0)
    if !has src p le then .fail d dcTrunc d.pos
    else
      let len := lb + getBits src p le
      let q := p + le
      match readSym dist src q with
      | .trunc => .fail d dcTrunc d.pos
      | .bad => .fail d dcIllegal q
      | .sym ds q' =>
        if 30 ≤ ds then .fail d dcIllegal q
        else
          let (db, de) := distBase.getD ds (0, 0)
          if !has src q' de then .fail d dcTrunc d.pos
          else
            let ds := db + getBits src q' de
            if d.out.length - d.base < ds then .fail d dcFar q
            else if lim < d.out.length + len then .fail d dcOverrun d.pos
            else .ok { d with pos := q' + de, out := copyBack len ds d.out, marks := (d.out.length, d.pos) :: d.marks }

/-- Codes of a block up to its end code. Fuel: codes. -/
def inflateCodes (lim : Nat) (lit dist : List Nat) (src : List Byte) : Nat → Dec → DRes
  | 0, d => .fail d dcTrunc d.pos
  | f + 1, d => match readSym lit src d.pos with
    | .trunc => .fail d dcTrunc d.pos
    | .bad => .fail d dcIllegal d.pos
    | .sym s p =>
      if s < 256 then (emit lim d d.pos p [BitVec.ofNat 8 s]).bind (inflateCodes lim lit dist src f)
      else if s = 256 then .ok { d with pos := p }
      else (inflateMatch lim dist src d s p).bind (inflateCodes lim lit dist src f)

/-- Bytes of a stored block, one by one. -/
def inflateStored (lim : Nat) (src : List Byte) : Nat → Dec → DRes
  | 0, d => .ok d
  | n + 1, d =>
    if !has src d.pos 8 then .fail d dcTrunc d.pos
    else (emit lim d d.pos (d.pos + 8) [src.getD (d.pos / 8) 0]).bind (inflateStored lim src n)

/-- Order of the code-length code lengths. -/
def clOrder : List Nat := [16, 17, 18, 0, 8, 7, 9, 6, 10, 5, 11, 4, 12, 3, 13, 2, 14, 1, 15]

/-- Code lengths of a dynamic block: the lengths read and the position, or a fault. Fuel: codes. -/
def readLens (cl : List Nat) (src : List Byte) (total : Nat) : Nat → Nat → List Nat → (List Nat × Nat) ⊕ (Nat × Nat)
  | 0, p, _ => .inr (dcTrunc, p)
  | f + 1, p, acc =>
    if total ≤ acc.length then .inl (acc, p)
    else match readSym cl src p with
      | .trunc => .inr (dcTrunc, p)
      | .bad => .inr (dcIllegal, p)
      | .sym s q =>
        if s < 16 then readLens cl src total f q (acc ++ [s])
        else
          let (bits', base) : Nat × Nat := if s = 16 then (2, 3) else if s = 17 then (3, 3) else (7, 11)
          if !has src q bits' then .inr (dcTrunc, p)
          else if s = 16 ∧ acc = [] then .inr (dcIllegal, p)
          else
            let n := base + getBits src q bits'
            if total < acc.length + n then .inr (dcIllegal, p)
            else readLens cl src total f (q + bits') (acc ++ List.replicate n (if s = 16 then acc.getLastD 0 else 0))

/-- A distance code that RFC 1951 allows: complete, a single code of one bit, or none. -/
def distOk (lens : List Nat) : Bool :=
  decide (codeLeft lens = 0) || lens.all (· = 0) || (decide ((lens.filter (· ≠ 0)).length = 1) && decide ((symsOf lens 1).length = 1))

/-- A block after its 3-bit header. -/
def inflateBlock (lim fuel : Nat) (src : List Byte) (type : Nat) (d : Dec) (start : Nat) : DRes :=
  match type with
  | 0 =>
    let p := (d.pos + 7) / 8 * 8
    if !has src p 32 then .fail d dcTrunc p
    else
      let len := getBits src p 16
      if getBits src (p + 16) 16 ≠ 65535 - len then .fail d dcIllegal p
      else inflateStored lim src len { d with pos := p + 32 }
  | 1 => inflateCodes lim fixedLit fixedDist src fuel d
  | 2 =>
    let p := d.pos
    if !has src p 14 then .fail d dcTrunc start
    else
      let hlit := 257 + getBits src p 5
      let hdist := 1 + getBits src (p + 5) 5
      let hclen := 4 + getBits src (p + 10) 4
      let p1 := p + 14
      if !has src p1 (3 * hclen) then .fail d dcTrunc p1
      else
        let raw := (upTo hclen).map fun i => (clOrder.getD i 0, getBits src (p1 + 3 * i) 3)
        let cl := (upTo 19).map fun i => ((raw.find? fun e => e.1 = i).map (·.2)).getD 0
        if codeLeft cl ≠ 0 then .fail d dcIllegal p1
        else match readLens cl src (hlit + hdist) (hlit + hdist + 1) (p1 + 3 * hclen) [] with
          | .inr (c, q) => .fail d c q
          | .inl (lens, q) =>
            let lit := lens.take hlit
            let dist := lens.drop hlit
            if codeLeft lit ≠ 0 ∨ !distOk dist then .fail d dcIllegal p1
            else inflateCodes lim lit dist src fuel { d with pos := q }
  | _ => .fail d dcIllegal start

/-- Blocks up to the final one. Fuel: blocks. -/
def inflateAt (lim : Nat) (src : List Byte) : Nat → Dec → DRes
  | 0, d => .fail d dcTrunc d.pos
  | f + 1, d =>
    if !has src d.pos 3 then .fail d dcTrunc d.pos
    else
      let final := getBits src d.pos 1
      let type := getBits src (d.pos + 1) 2
      (inflateBlock lim (8 * src.length + 1) src type { d with pos := d.pos + 3 } d.pos).bind fun d =>
        if final = 1 then .ok d else inflateAt lim src f d

def inflate (lim : Nat) (src : List Byte) (d : Dec) : DRes := inflateAt lim src (8 * src.length + 1) d

/-- The next byte boundary. -/
def Dec.align (d : Dec) : Dec := { d with pos := (d.pos + 7) / 8 * 8 }

/-- Output of the stream, or of the member. -/
def Dec.own (d : Dec) : List Byte := d.out.drop d.base

def byteAt (src : List Byte) (i : Nat) : Nat := (src.getD i 0).toNat

/-- A big-endian number of 4 bytes. -/
def be32 (src : List Byte) (i : Nat) : Nat :=
  ((byteAt src i * 256 + byteAt src (i + 1)) * 256 + byteAt src (i + 2)) * 256 + byteAt src (i + 3)

/-- zlib (R361). -/
def unzlib (lim : Nat) (src : List Byte) (d : Dec) : DRes :=
  if !has src 0 16 then .fail d dcTrunc 0
  else
    let cmf := byteAt src 0
    let flg := byteAt src 1
    if cmf % 16 ≠ 8 ∨ 7 < cmf / 16 then .fail d dcHeader 0
    else if (cmf * 256 + flg) % 31 ≠ 0 ∨ flg / 32 % 2 = 1 then .fail d dcHeader 8
    else (inflate lim src { d with pos := 16 }).bind fun d =>
      let d := d.align
      if !has src d.pos 32 then .fail d dcTrunc d.pos
      else if be32 src (d.pos / 8) ≠ adler32 d.own then .fail d dcCheck d.pos
      else .ok { d with pos := d.pos + 32 }

/-- The byte after a zero-terminated field; none: the source ends. Fuel: bytes. -/
def skipText (src : List Byte) : Nat → Nat → Option Nat
  | 0, _ => none
  | f + 1, i => if src.length ≤ i then none else if byteAt src i = 0 then some (i + 1) else skipText src f (i + 1)

/-- A gzip header at byte i: where the data starts, or a fault and its byte. -/
def gzHeader (src : List Byte) (i : Nat) : Nat ⊕ (Nat × Nat) :=
  if src.length < i + 10 then .inr (dcTrunc, i)
  else if byteAt src i ≠ 0x1F ∨ byteAt src (i + 1) ≠ 0x8B then .inr (dcHeader, i)
  else if byteAt src (i + 2) ≠ 8 then .inr (dcHeader, i + 2)
  else
    let flg := byteAt src (i + 3)
    if 32 ≤ flg then .inr (dcHeader, i + 3)
    else
      let j := i + 10
      let j1 : Option Nat := if bit flg 2 then (if src.length < j + 2 then none else some (j + 2 + fld src j 2)) else some j
      match j1 with
      | none => .inr (dcTrunc, j)
      | some j1 =>
        if src.length < j1 then .inr (dcTrunc, j)
        else match (if bit flg 3 then skipText src (src.length + 1) j1 else some j1) with
          | none => .inr (dcTrunc, j1)
          | some j2 => match (if bit flg 4 then skipText src (src.length + 1) j2 else some j2) with
            | none => .inr (dcTrunc, j2)
            | some j3 =>
              if !bit flg 1 then .inl j3
              else if src.length < j3 + 2 then .inr (dcTrunc, j3)
              else if fld src j3 2 ≠ crc32 ((src.drop i).take (j3 - i)) % 65536 then .inr (dcCheck, j3)
              else .inl (j3 + 2)

/-- gzip members (R361). `cut`: the source goes on after the bytes given. Fuel: members. -/
def ungzip (lim : Nat) (src : List Byte) (cut : Bool) : Nat → Dec → DRes
  | 0, d => .ok d
  | f + 1, d => match gzHeader src (d.pos / 8) with
    | .inr (c, i) => .fail d c (8 * i)
    | .inl j => (inflate lim src { d with pos := 8 * j, base := d.out.length }).bind fun d =>
      let d := d.align
      let i := d.pos / 8
      if !has src d.pos 64 then .fail d dcTrunc d.pos
      else if fld src i 4 ≠ crc32 d.own then .fail d dcCheck d.pos
      else if fld src (i + 4) 4 ≠ d.own.length % 2 ^ 32 then .fail d dcCheck (d.pos + 32)
      else
        let d := { d with pos := d.pos + 64 }
        if src.length < i + 10 then (if cut then .fail d dcTrunc d.pos else .ok d)
        else if byteAt src (i + 8) = 0x1F ∧ byteAt src (i + 9) = 0x8B then ungzip lim src cut f d else .ok d

/-! ## TPX-LZ (R362, R363) -/

/-- One element of a payload that ends at byte `stop`. -/
def tpxElement (lim : Nat) (src : List Byte) (stop : Nat) (d : Dec) : DRes :=
  let i := d.pos / 8
  -- bytes of the element must lie in the payload, and in the source
  let need := fun (n : Nat) (k : DRes) =>
    if stop < i + n then DRes.fail d dcIllegal d.pos else if src.length < i + n then DRes.fail d dcTrunc d.pos else k
  let lits := fun (hdr n : Nat) => need (hdr + n) (emit lim d d.pos (8 * (i + hdr + n)) ((src.drop (i + hdr)).take n))
  need 1 <|
    let c := byteAt src i
    if c ≤ 0x7B then lits 1 (c + 1)
    else if c = 0x7C then need 2 (lits 2 (125 + byteAt src (i + 1)))
    else if c = 0x7D then need 3 (lits 3 (381 + fld src (i + 1) 2))
    else if c < 0x80 then .fail d dcIllegal d.pos
    else
      let k := c / 8 % 16
      let h := c % 8
      let go := fun (used len : Nat) =>
        let off := fun (used off : Nat) =>
          if d.out.length < off then DRes.fail d dcFar d.pos
          else if lim < d.out.length + len then .fail d dcOverrun d.pos
          else .ok { d with pos := 8 * (i + used), out := copyBack len off d.out, marks := (d.out.length, d.pos) :: d.marks }
        if 4096 < len then .fail d dcIllegal d.pos
        else if h = 7 then need (used + 2) (off (used + 2) (fld src (i + used) 2 + 1))
        else need (used + 1) (off (used + 1) (h * 256 + byteAt src (i + used) + 1))
      if k < 15 then go 1 (k + 3)
      else need 2 <|
        let e := byteAt src (i + 1)
        if e < 255 then go 2 (18 + e) else need 4 (go 4 (273 + fld src (i + 2) 2))

/-- The elements of a payload. Fuel: elements. -/
def tpxPayload (lim : Nat) (src : List Byte) (stop : Nat) : Nat → Dec → DRes
  | 0, d => .ok d
  | f + 1, d => if stop ≤ d.pos / 8 then .ok d else (tpxElement lim src stop d).bind (tpxPayload lim src stop f)

/-- Blocks up to the last one. Fuel: blocks. -/
def tpxBlocks (lim : Nat) (src : List Byte) : Nat → Dec → DRes
  | 0, d => .fail d dcTrunc d.pos
  | f + 1, d =>
    let i := d.pos / 8
    if src.length < i + 4 then .fail d dcTrunc d.pos
    else
      let h := fld src i 4
      if 2 ^ 24 ≤ h then .fail d dcHeader d.pos
      else
        let n := h % 2 ^ 22
        let d := { d with pos := d.pos + 32 }
        let r := if bit h 22 then inflateStored lim src n d else tpxPayload lim src (i + 4 + n) (n + 1) d
        r.bind fun d => if bit h 23 then .ok d else tpxBlocks lim src f d

/-- A TPX-LZ frame. -/
def untpx (lim : Nat) (src : List Byte) (d : Dec) : DRes :=
  if src.length < 16 then .fail d dcTrunc 0
  else if fld src 0 4 ≠ 0x4C585054 then .fail d dcHeader 0
  else if byteAt src 4 ≠ 1 then .fail d dcHeader 32
  else if !zeros src 5 3 then .fail d dcHeader 40
  else
    let size := fld src 8 8
    (tpxBlocks (Nat.min lim size) src (src.length + 1) { d with pos := 128 }).bind fun d =>
      if !has src d.pos 32 then .fail d dcTrunc d.pos
      else if d.out.length ≠ size ∨ fld src (d.pos / 8) 4 ≠ crc32c d.out then .fail d dcCheck d.pos
      else .ok { d with pos := d.pos + 32 }

/-- Decompression of a format: 0 DEFLATE, 1 zlib, 2 gzip, 3 TPX-LZ. -/
def unpack (format lim : Nat) (src : List Byte) (cut : Bool) : DRes :=
  let d : Dec := { pos := 0, out := [], base := 0, marks := [] }
  match format with
  | 0 => (inflate lim src d).bind fun d => .ok d.align
  | 1 => unzlib lim src d
  | 2 => ungzip lim src cut (src.length + 1) d
  | _ => untpx lim src d

/-- CHECK of R367. -/
def jobCheck (format : Nat) (bs : List Byte) : Nat :=
  match format with
  | 1 => adler32 bs
  | 3 => crc32c bs
  | _ => crc32 bs

/-! ## Compressing (R364) -/

/-- A literal, or a match: length and distance. -/
inductive LzTok where
  | lit (b : Byte)
  | ref (len dist : Nat)
  deriving DecidableEq, Repr

/-- Length of the match of positions i > j, at most n. -/
def matchLen (src : List Byte) (i j : Nat) : Nat → Nat
  | 0 => 0
  | n + 1 =>
    let k := matchLen src i j n
    if k = n ∧ i + n < src.length ∧ src.getD (i + n) 0 = src.getD (j + n) 0 then n + 1 else k

/-- Hash of the 3 bytes at a position. -/
def hashAt (src : List Byte) (i : Nat) : BitVec 15 :=
  Config.chainHash (src.getD i 0) (src.getD (i + 1) 0) (src.getD (i + 2) 0)

/-- Earlier positions on the chain of position i, newest first. -/
def chainOf (src : List Byte) (window level i : Nat) : List Nat :=
  if src.length < i + 3 then []
  else (((upTo i).reverse.filter fun j => decide (hashAt src j = hashAt src i))).take (2 ^ level) |>.filter fun j => decide (i - j ≤ window)

/-- The longest match at a position, at least 3 bytes, the nearest of equal ones. -/
def bestMatch (src : List Byte) (window level maxLen stop i : Nat) : Option (Nat × Nat) :=
  let best := (chainOf src window level i).foldl (fun (b : Nat × Nat) j =>
    let l := matchLen src i j (Nat.min maxLen (stop - i))
    if b.1 < l then (l, i - j) else b) (0, 0)
  if 3 ≤ best.1 then some best else none

/-- Tokens of input [i, stop). Fuel: positions. -/
def lzTokens (src : List Byte) (window level maxLen stop : Nat) : Nat → Nat → List LzTok
  | 0, _ => []
  | f + 1, i =>
    if stop ≤ i then []
    else match bestMatch src window level maxLen stop i with
      | none => .lit (src.getD i 0) :: lzTokens src window level maxLen stop f (i + 1)
      | some (l, d) =>
        let lazy' : Bool := decide (4 ≤ level) && (bestMatch src window level maxLen stop (i + 1)).any fun m => decide (l < m.1)
        if lazy' ∧ i + 1 < stop then .lit (src.getD i 0) :: lzTokens src window level maxLen stop f (i + 1)
        else .ref l d :: lzTokens src window level maxLen stop f (i + l)

/-- Cuts [i, n) into blocks of at most b bytes. Fuel: blocks. -/
def cutBlocks (n b : Nat) : Nat → Nat → List (Nat × Nat)
  | 0, _ => []
  | f + 1, i => if n ≤ i then [] else (i, Nat.min n (i + b)) :: cutBlocks n b f (i + b)

/-- Code number of a base table: the last whose base is not above a value. -/
def baseCode (t : List (Nat × Nat)) (v : Nat) : Nat := (t.filter fun e => decide (e.1 ≤ v)).length - 1

/-- Length code of a match: 258 has its own. -/
def lenCode (l : Nat) : Nat := if l = 258 then 28 else Nat.min 27 (baseCode lenBase l)

/-- A bit string: value and length, least significant bit first. -/
abbrev Bits := List (Nat × Nat)

def bitCount (b : Bits) : Nat := (b.map (·.2)).sum

/-- Packs bit strings into bytes. -/
def bytesOf (b : Bits) : List Byte :=
  let v := (b.foldl (fun (acc : Nat × Nat) x => (acc.1 + x.1 % 2 ^ x.2 * 2 ^ acc.2, acc.2 + x.2)) (0, 0)).1
  natLe ((bitCount b + 7) / 8) v

/-- Canonical code of a symbol, most significant bit first in the stream. -/
def codeOf (lens : List Nat) (s : Nat) : Nat × Nat :=
  let l := lens.getD s 0
  let first := (upTo l).foldl (fun c i => 2 * (c + (if i = 0 then 0 else (symsOf lens i).length))) 0
  let v := first + ((symsOf lens l).filter (· < s)).length
  (((upTo l).map fun i => v / 2 ^ i % 2 * 2 ^ (l - 1 - i)).sum, l)

/-- Symbols of tokens: literal/length and distance. -/
def tokBits (lit dist : List Nat) : LzTok → Bits
  | .lit b => [codeOf lit b.toNat]
  | .ref l d =>
    let lc := lenCode l
    let dc := baseCode distBase d
    [codeOf lit (257 + lc), (l - (lenBase.getD lc (0, 0)).1, (lenBase.getD lc (0, 0)).2), codeOf dist dc,
     (d - (distBase.getD dc (0, 0)).1, (distBase.getD dc (0, 0)).2)]

def litSym : LzTok → Nat
  | .lit b => b.toNat
  | .ref l _ => 257 + lenCode l

def distSym : LzTok → Option Nat
  | .lit _ => none
  | .ref _ d => some (baseCode distBase d)

def countsOf (n : Nat) (ss : List Nat) : List Nat := (upTo n).map fun i => (ss.filter (· = i)).length

/-- A code that a dynamic block may carry: lengths within the limit, a code for every symbol used. -/
def codeValid (limit : Nat) (counts lens : List Nat) (single : Bool) : Bool :=
  decide (lens.length = counts.length) && lens.all (fun l => decide (l ≤ limit)) && (decide (codeLeft lens = 0) || (single && distOk lens)) &&
  (upTo counts.length).all fun i => decide (counts.getD i 0 = 0) || decide (lens.getD i 0 ≠ 0)

/-- What run symbols stand for. -/
def expandRuns (rs : List (Nat × Nat)) : List Nat :=
  rs.foldl (fun acc r =>
    if r.1 < 16 then acc ++ [r.1]
    else if r.1 = 16 then acc ++ List.replicate (3 + r.2 % 4) (acc.getLastD 0)
    else if r.1 = 17 then acc ++ List.replicate (3 + r.2 % 8) 0
    else acc ++ List.replicate (11 + r.2 % 128) 0) []

/-- A dynamic block's bits after its 3-bit header; none: the lengths chosen are no code. -/
def dynamicBits (toks : List LzTok) : Option Bits :=
  let litCnt := countsOf 286 (toks.map litSym ++ [256])
  let distCnt := countsOf 30 (toks.filterMap distSym)
  let lit := Config.dynamicLengths litCnt 15
  let dist := if distCnt.all (· = 0) then List.replicate 30 0 else Config.dynamicLengths distCnt 15
  if !codeValid 15 litCnt lit false || !codeValid 15 distCnt dist true then none
  else
    let nl := Nat.max 257 ((upTo 286).foldl (fun m i => if lit.getD i 0 ≠ 0 then i + 1 else m) 0)
    let nd := Nat.max 1 ((upTo 30).foldl (fun m i => if dist.getD i 0 ≠ 0 then i + 1 else m) 0)
    let lens := lit.take nl ++ dist.take nd
    let runs := Config.lengthRuns lens
    let runs := if expandRuns runs = lens ∧ runs.all (fun r => r.1 ≤ 18) ∧ (runs.headD (0, 0)).1 ≠ 16 then runs else lens.map fun l => (l, 0)
    let clCnt := countsOf 19 (runs.map (·.1))
    let cl := Config.dynamicLengths clCnt 7
    if !codeValid 7 clCnt cl false then none
    else
      let nc := Nat.max 4 ((upTo 19).foldl (fun m i => if cl.getD (clOrder.getD i 0) 0 ≠ 0 then i + 1 else m) 0)
      let extra := fun (s : Nat) => if s = 16 then 2 else if s = 17 then 3 else if s = 18 then 7 else 0
      some ([(nl - 257, 5), (nd - 1, 5), (nc - 4, 4)] ++ (upTo nc).map (fun i => (cl.getD (clOrder.getD i 0) 0, 3)) ++
        runs.flatMap (fun r => [codeOf cl r.1, (r.2, extra r.1)]) ++ toks.flatMap (tokBits lit dist) ++ [codeOf lit 256])

/-- One DEFLATE block: the smallest of stored, fixed and dynamic, a tie in that order. -/
def deflateBlock (src : List Byte) (level lo hi : Nat) (final : Nat) (before : Nat) : Bits :=
  let toks := lzTokens src 32768 level 258 hi (hi - lo + 1) lo
  let fixed : Bits := [(final, 1), (1, 2)] ++ toks.flatMap (tokBits fixedLit fixedDist) ++ [codeOf fixedLit 256]
  let pad := (8 - (before + 3) % 8) % 8
  let n := hi - lo
  let stored : Bits := [(final, 1), (0, 2), (0, pad), (n, 16), (65535 - n, 16)] ++ ((src.drop lo).take n).map fun b => (b.toNat, 8)
  let best := if bitCount stored ≤ bitCount fixed then stored else fixed
  match dynamicBits toks with
  | some b =>
    let dyn : Bits := [(final, 1), (2, 2)] ++ b
    if bitCount dyn < bitCount best then dyn else best
  | none => best

/-- The blocks of `total` input bytes, at most b bytes each, whose input lies in the first n. -/
def blocksIn (n total b : Nat) : List (Nat × Nat) := (cutBlocks total b (n + 1) 0).filter fun x => decide (x.2 ≤ n)

/-- A DEFLATE stream of `total` bytes; of a shorter source, the whole bytes of the blocks that it completes. -/
def deflate (src : List Byte) (total level : Nat) : List Byte :=
  let bs := (blocksIn src.length total 65535).foldl (fun acc b => acc ++ deflateBlock src level b.1 b.2 (b2n (b.2 = total)) (bitCount acc)) []
  if src.length = total then bytesOf bs else (bytesOf bs).take (bitCount bs / 8)

/-- A literal run in the shortest control form. -/
def litRun (bs : List Byte) : List Byte :=
  let n := bs.length
  if n = 0 then []
  else if n ≤ 124 then natLe 1 (n - 1) ++ bs
  else if n ≤ 380 then [0x7C] ++ natLe 1 (n - 125) ++ bs
  else [0x7D] ++ natLe 2 (n - 381) ++ bs

/-- A literal run cut into runs of at most 65,916 bytes. Fuel: runs. -/
def litRuns : Nat → List Byte → List Byte
  | 0, _ => []
  | f + 1, bs => if bs = [] then [] else litRun (bs.take 65916) ++ litRuns f (bs.drop 65916)

/-- A match in the shortest forms. -/
def tpxRef (l d : Nat) : List Byte :=
  let k := if l ≤ 17 then l - 3 else 15
  let h := if d ≤ 1792 then (d - 1) / 256 else 7
  natLe 1 (128 + 8 * k + h) ++ (if l ≤ 17 then [] else if l ≤ 272 then natLe 1 (l - 18) else [0xFF] ++ natLe 2 (l - 273)) ++
  (if d ≤ 1792 then natLe 1 ((d - 1) % 256) else natLe 2 (d - 1))

/-- Elements of tokens: literals gather into runs. -/
def tpxElements (toks : List LzTok) : List Byte :=
  let flush := fun (l : List Byte) => litRuns (l.length + 1) l
  let (out, run) := toks.foldl (fun (acc : List Byte × List Byte) t => match t with
    | .lit b => (acc.1, acc.2 ++ [b])
    | .ref l d => (acc.1 ++ flush acc.2 ++ tpxRef l d, [])) ([], [])
  out ++ flush run

/-- The blocks of a TPX-LZ frame of `total` bytes that a source completes. -/
def tpx (src : List Byte) (total level : Nat) : List Byte :=
  (blocksIn src.length total 262144).flatMap fun b =>
    let pay := tpxElements (lzTokens src 65536 level 4096 b.2 (b.2 - b.1 + 1) b.1)
    let raw := (src.drop b.1).take (b.2 - b.1)
    let last := b2n (b.2 = total) * 2 ^ 23
    if pay.length < raw.length then natLe 4 (pay.length + last) ++ pay else natLe 4 (raw.length + 2 ^ 22 + last) ++ raw

/-- FLEVEL of a level (R361). -/
def zlibLevel (level : Nat) : Nat := if level ≤ 1 then 0 else if level ≤ 5 then 1 else if level = 6 then 2 else 3

/-- The header of a compressed stream of `total` bytes (R361, R362). -/
def packHead (format level total : Nat) : List Byte :=
  match format with
  | 0 => []
  | 1 =>
    let flg := zlibLevel level * 64
    [0x78] ++ natLe 1 (flg + (31 - (0x78 * 256 + flg) % 31) % 31)
  | 2 => [0x1F, 0x8B, 8, 0, 0, 0, 0, 0] ++ natLe 1 (if level = 1 then 4 else if 10 ≤ level then 2 else 0) ++ [0xFF]
  | _ => natLe 4 0x4C585054 ++ natLe 1 1 ++ natLe 3 0 ++ natLe 8 total

/-- The trailer of a compressed stream. -/
def packTail (format : Nat) (src : List Byte) : List Byte :=
  match format with
  | 0 => []
  | 1 => (natLe 4 (adler32 src)).reverse
  | 2 => natLe 4 (crc32 src) ++ natLe 4 (src.length % 2 ^ 32)
  | _ => natLe 4 (crc32c src)

/-- Compression of a source of `total` bytes to a format (R361, R364). Of a source that is cut short: what the
blocks that it completes produce. -/
def pack (format level total : Nat) (src : List Byte) : List Byte :=
  packHead format level total ++ (if format ≤ 2 then deflate src total level else tpx src total level) ++
  (if src.length = total then packTail format src else [])

end Sys2Proof.Machine
end

