-- ==== Sys2Proof/Machine/Compress.lean ====
section
/-! DEFINITION. Compression jobs and their channels (R359 to R373). -/

namespace Sys2Proof.Machine

open Sys2Proof

def cmpMaster (ch : Nat) : Nat := 0x68 + ch

/-! ## The record (R359, R360) -/

def jDir (b : List Byte) : Nat := fld b 16 1
def jFormat (b : List Byte) : Nat := fld b 17 1
def jLevel (b : List Byte) : Nat := fld b 18 1
def jSrc (b : List Byte) : Nat := fld b 24 8
def jSrcBytes (b : List Byte) : Nat := fld b 32 8
def jDst (b : List Byte) : Nat := fld b 40 8
def jDstBytes (b : List Byte) : Nat := fld b 48 8
def jComp (b : List Byte) : Nat := fld b 56 8

def jobReserved (b : List Byte) : Bool := !zeros b 19 5 || !zeros b 64 16

def jobBad (b : List Byte) : Bool :=
  let len := fun (n : Nat) => decide (n = 0) || decide (2 ^ 40 < n)
  decide (1 < jDir b) || decide (3 < jFormat b) ||
  (if jDir b = 0 then decide (jLevel b = 0) || decide (12 < jLevel b) else decide (jLevel b ≠ 0)) ||
  len (jSrcBytes b) || len (jDstBytes b) || overlap (jSrc b) (jSrcBytes b) (jDst b) (jDstBytes b) || decide (jComp b % 32 ≠ 0)

/-! ## Channels (R369) -/

def cmpQueued (s : State) (o : OpRef) : Bool := s.cmp.queue.contains o || s.cmp.runs.any fun r => decide (r.2 = o)

/-- Jobs whose op has ended, or whose context no longer runs work, leave (R371). -/
def cmpSweep (s : State) : State :=
  let live := fun (s : State) (o : OpRef) => opRunning s o && ctxRuns s (opCtx s o)
  let gone := (s.cmp.queue ++ s.cmp.runs.map (·.2)).filter fun o => opRunning s o && !ctxRuns s (opCtx s o)
  let s := gone.foldl (fun s o => discardOp o s) s
  s.onCmp fun c => { queue := c.queue.filter (live s), runs := c.runs.filter fun r => live s r.2 }

/-- CMP_JOB: the checks, then the job waits for a channel. In S3 compression is off (R424). -/
def jobDo (o : OpRef) (b : List Byte) (s : State) : State :=
  if cmpQueued s o then s
  else if jobReserved b then endOp o stBadRecord 0 0 s
  else if jobBad b then endOp o stOpError dcJob 0 s
  else
    let s := s.onCmp fun c => { c with queue := c.queue ++ [o] }
    if awake s then s else wantsExit s

/-- Clock gate of a channel (R433). -/
def cmpGateOn (s : State) (ch : Nat) : Bool := decide (s.rawBits 0 0x020000 (8 + ch) (8 + ch) = 1)

/-- A channel that can take a job. -/
def cmpFree (s : State) (ch : Nat) : Bool :=
  !(s.cmp.runs.any fun r => r.1 = ch) && !s.isPinned (cmpMaster ch) && cmpGateOn s ch && awake s && !inReset s 6 ch && !(s.crossing (88 + ch)).severed

/-- The job that starts next: of the highest PRIO, from a ring that a free value names, since the shares of R87
are shares over time; then the oldest of that ring. -/
def nextJob (s : State) : Option OpRef × State :=
  let (v, s) := s.fresh
  let prio := fun (o : OpRef) => (s.ring o.ring.val).prio
  let top := s.cmp.queue.foldl (fun m o => Nat.max m (prio o)) 0
  let best := s.cmp.queue.filter fun o => prio o = top
  let rings := (best.map (·.ring)).eraseDups
  let ring := rings[v.toNat % rings.length]?
  (best.find? fun o => some o.ring = ring, s)

/-- CMP_JOB_START: a free channel takes the next job. -/
def jobStart (ch : Nat) (s : State) : State :=
  let s := cmpSweep s
  if !cmpFree s ch then s
  else match nextJob s with
    | (none, s) => s
    | (some o, s) =>
      let s := s.onCmp fun c => { queue := c.queue.filter (· ≠ o), runs := c.runs ++ [(ch, o)] }
      (ungate [76 + ch] s).onOp o fun p => { p with units := [cmpMaster ch] }

/-! ## The end of a job (R365 to R368, R371) -/

/-- What stops a range of a job's accesses, and where. -/
abbrev Stop := Option (Res Unit × Nat)

/-- A fault that was found for a job's address before the job met it (R52): access, address and fault. -/
abbrev Ahead := Option (Access × Nat × Flt)

/-- The fault ahead, if it is one of a kind of access that lies in a range. -/
def aheadIn (ahead : Ahead) (acc : Access) (va n : Nat) : Option (Nat × Flt) :=
  ahead.bind fun x => if x.1 = acc ∧ va ≤ x.2.1 ∧ x.2.1 < va + n then some x.2 else none

/-- Bytes of a range before the fault ahead. -/
def clearLen (hit : Option (Nat × Flt)) (va n : Nat) : Nat := match hit with
  | some h => h.1 - va
  | none => n

/-- A range that met no stop before the fault ahead stops there. -/
def stopAhead (hit : Option (Nat × Flt)) (stop : Stop) (s : State) : Stop := match stop, hit with
  | none, some h => some (.fault h.2 s, h.1)
  | _, _ => stop

/-- The bytes of a range up to the first that cannot be read, and what stopped there. -/
def readUpTo (m ctx va n : Nat) (ahead : Ahead) (s : State) : List Byte × Stop × State :=
  let hit := aheadIn ahead .read va n
  let (bs, stop, s) := (pageCuts va (clearLen hit va n)).foldl (fun acc p => match acc with
    | (bs, none, s) => match vaRead m ctx p.1 p.2 .read s with
      | .ok b s => (bs ++ b, none, s)
      | .fault f s => (bs, some (.fault f s, p.1), s)
      | .severed s => (bs, some (.severed s, p.1), s)
      | .wait s => (bs, some (.wait s, p.1), s)
    | other => other) (([], none, s) : List Byte × Stop × State)
  (bs, stopAhead hit stop s, s)

/-- Writes output in order up to the first byte that cannot be written: bytes written, and what
stopped there. -/
def writeUpTo (m ctx va : Nat) (bs : List Byte) (ahead : Ahead) (s : State) : Nat × Stop × State :=
  let hit := aheadIn ahead .write va bs.length
  let (n, stop, s) := (pageCuts va (clearLen hit va bs.length)).foldl (fun acc p => match acc with
    | (n, none, s) => match vaWrite m ctx p.1 ((bs.drop (p.1 - va)).take p.2) s with
      | .ok _ s => (n + p.2, none, s)
      | .fault f s => (n, some (.fault f s, p.1), s)
      | .severed s => (n, some (.severed s, p.1), s)
      | .wait s => (n, some (.wait s, p.1), s)
    | other => other) ((0, none, s) : Nat × Stop × State)
  (n, stopAhead hit stop s, s)

/-- What a job reports (R367). -/
structure JobEnd where
  used    : Nat
  written : Nat
  fault   : Nat
  check   : Nat
  bit     : Nat
  status  : Nat
  detail  : Nat
  deriving DecidableEq, Repr

def noOffset : Nat := 0xFFFFFFFFFFFFFFFF

/-- The bytes of the job completion record (R367). -/
def JobEnd.bytes (j : JobEnd) : List Byte :=
  natLe 8 j.used ++ natLe 8 j.written ++ natLe 8 j.fault ++ natLe 4 j.check ++ natLe 1 j.bit ++ natLe 1 j.status ++ natLe 1 j.detail ++ natLe 1 0

def dropJob (o : OpRef) (s : State) : State := s.onCmp fun c => { c with runs := c.runs.filter fun r => r.2 ≠ o }

/-- A job writes its record and completes. A record whose write faults is not written: the fault is recorded, or
pins the channel, and the job's STATUS stays (R46, R57, R367). None while the write must wait (R447). -/
def jobClose (o : OpRef) (m ctx va : Nat) (j : JobEnd) (s : State) : Option State :=
  let done := fun (s : State) => dropJob o (endOp o j.status j.detail 0 s)
  if va = 0 then some (done s)
  else match vaWrite m ctx va j.bytes s with
    | .ok _ s => some (done s)
    | .fault f s => some (masterFault f m ctx va .write o.ring.val o.seq (done s))
    | .severed s => some (done s)
    | .wait _ => none

/-- The job ends at what stopped it, or as it says. A fault that pins the channel writes no record. None while a
request of it must wait. -/
def jobEnd (o : OpRef) (m ctx va : Nat) (j : JobEnd) (stop : Stop) (acc : Access) (s : State) : Option State :=
  match stop with
  | some (.wait _, _) => none
  | some (.fault f _, fva) =>
    let s := masterFault f m ctx fva acc o.ring.val o.seq s
    let j := if f.bar then { j with status := stOpError, detail := 3 } else { j with status := stTransFault, detail := f.code.num }
    if s.isPinned m then some (dropJob o (endOp o j.status j.detail 0 s)) else jobClose o m ctx va j s
  | some (.severed _, _) => jobClose o m ctx va { j with status := stSevered, detail := 0 } s
  | _ => jobClose o m ctx va j s

/-- The element that an output byte belongs to: output length and bit position at its start. -/
def markAt (d : Dec) (n : Nat) : Nat × Nat := (d.marks.find? fun e => decide (e.1 ≤ n)).getD (0, 0)

/-- A fault bit, for the DEFLATE family. -/
def faultBit (format pos : Nat) : Nat := if format = 3 then 0 else pos % 8

/-- Decompression (R366, R368). None: a request of it must wait, or the job does not end at the fault ahead. -/
def unpackJob (o : OpRef) (m ctx : Nat) (b : List Byte) (ahead : Ahead) (s : State) : Option State :=
  let fmt := jFormat b
  let (src, stop, s1) := readUpTo m ctx (jSrc b) (jSrcBytes b) ahead s
  let r := unpack fmt (jDstBytes b) src stop.isSome
  let d : Dec := match r with
    | .ok d => d
    | .fail d _ _ => d
  let out := d.out
  let (n, wstop, s2) := writeUpTo m ctx (jDst b) out ahead s1
  match stop, wstop with
  | some (.wait _, _), _ => none
  | _, some (.wait _, _) => none
  | _, some w =>
    -- a destination fault: only the whole elements before it are written
    let (len, pos) := markAt d n
    let s2 := (writeUpTo m ctx (jDst b) (out.take len) none s1).2.2
    jobEnd o m ctx (jComp b) { used := pos / 8, written := len, fault := pos / 8, check := jobCheck fmt (out.take len), bit := faultBit fmt pos, status := stTransFault, detail := 0 } (some w) .write s2
  | _, none =>
    let check := jobCheck fmt out
    match r with
    | .fail _ code pos =>
      if code = dcTrunc ∧ stop.isSome then
        jobEnd o m ctx (jComp b) { used := pos / 8, written := out.length, fault := pos / 8, check, bit := faultBit fmt pos, status := stTransFault, detail := 0 } stop .read s2
      else if ahead.isSome then none
      else jobEnd o m ctx (jComp b) { used := pos / 8, written := out.length, fault := pos / 8, check, bit := faultBit fmt pos, status := stOpError, detail := code } none .read s2
    | .ok d =>
      if ahead.isSome then none
      else jobEnd o m ctx (jComp b) { used := d.pos / 8, written := out.length, fault := noOffset, check, bit := 0, status := stOk, detail := 0 } none .read s2

/-- Compression (R364, R365). SRC_USED of a job that its destination stops is open; CHECK is that of the source
bytes it counts. A source that stops leaves the output of the blocks before that byte. -/
def packJob (o : OpRef) (m ctx : Nat) (b : List Byte) (ahead : Ahead) (s : State) : Option State :=
  let fmt := jFormat b
  let (src, stop, s1) := readUpTo m ctx (jSrc b) (jSrcBytes b) ahead s
  let out := pack fmt (jLevel b) (jSrcBytes b) src
  let (n, wstop, s2) := writeUpTo m ctx (jDst b) (out.take (jDstBytes b)) ahead s1
  let (v, s3) := s2.fresh
  let used := v.toNat % (src.length + 1)
  let at' := fun (used fault status detail : Nat) =>
    ({ used, written := n, fault, check := jobCheck fmt (src.take used), bit := 0, status, detail } : JobEnd)
  match stop, wstop with
  | some (.wait _, _), _ => none
  | _, some (.wait _, _) => none
  | _, some w => jobEnd o m ctx (jComp b) (at' used used stTransFault 0) (some w) .write s3
  | _, none =>
    if jDstBytes b < out.length then
      (if ahead.isSome then none else jobEnd o m ctx (jComp b) (at' used noOffset stOpError dcFull) none .read s3)
    else if stop.isSome then jobEnd o m ctx (jComp b) (at' src.length src.length stTransFault 0) stop .read s2
    else if ahead.isSome then none
    else jobEnd o m ctx (jComp b) (at' src.length noOffset stOk 0) none .read s2

/-- A job runs to its end, or to the fault ahead; the state stays as it is where it must wait. -/
def jobRun (o : OpRef) (m ctx : Nat) (b : List Byte) (ahead : Ahead) (s : State) : State :=
  ((if jDir b = 0 then packJob o m ctx b ahead s else unpackJob o m ctx b ahead s)).getD s

/-- CMP_JOB_DONE. -/
def jobDone (ch : Nat) (io : HostIO) (s : State) : State :=
  let s := cmpSweep (applyIO io s)
  match s.cmp.runs.find? fun r => r.1 = ch with
  | none => s
  | some (_, o) => match s.op? o with
    | none => s
    | some (e, q) => if s.isPinned (cmpMaster ch) then s else jobRun o (cmpMaster ch) e.ctx q.body none s

/-! ## The meanings -/

/-- CMP_JOB (R359, R360). -/
def execCmpJob (o : OpRef) (s : State) : Out := .next (withOp o 0x40 (fun _ q s => jobDo o q.body s) s)

/-- CMP_JOB_START (R369). -/
def execCmpJobStart (ch : Fin 4) (s : State) : Out := .next (jobStart ch.val s)

/-- CMP_JOB_DONE (R365 to R371). -/
def execCmpJobDone (ch : Fin 4) (io : HostIO) (s : State) : Out := .next (metaLog (jobDone ch.val io s))

end Sys2Proof.Machine
end

