-- ==== Sys2Proof/Machine/Trust.lean ====
section
/-! DEFINITION. The security engine: release of pinned masters, lifecycle, attestation, IDE and TDISP,
function-level resets and debug tokens (R374 to R401, R482). -/

namespace Sys2Proof.Machine

open Sys2Proof

/-! ## Pin and release (R382 to R385) -/

/-- The cluster that a master lies in. -/
def masterCluster (m : Nat) : Option Nat :=
  if m < 0x40 then some (m / 8) else if m < 0x48 then some (m - 0x40) else if m < 0x68 then some ((m - 0x48) / 4) else none

/-- Pinned with CLEAR_FAIL. -/
def clearPinned (s : State) (m : Nat) : Bool := s.isPinned m && (pinRecOf s m).any fun r => decide (r.cause = 5)

/-- A master leaves the pin map. -/
def unpinMaster (m : Nat) (s : State) : State :=
  s.onSec fun x => { x with pinned := x.pinned.filter (· ≠ m), logged := x.logged.filter (· ≠ m) }

/-- A PIN or RELEASE of SEC_PIN_CMD: BUSY until a release completes. A master whose violation was only
recorded (R385) is not frozen: its RELEASE clears its map bit and nothing else. -/
def pinCommand (m : Nat) (rel pin : Bool) (s : State) : State :=
  let res := fun (r : Nat) (s : State) => s.onSec fun x => { x with pinRes := r }
  if s.sec.pinBusy.isSome ∨ (!rel ∧ !pin) then s
  else if rel then
    if m < 0x72 ∧ s.isPinned m then res 0 (s.onSec fun x => { x with pinBusy := some m })
    else if m < 0x72 ∧ s.sec.logged.contains m then res 0 (unpinMaster m s)
    else res 3 s
  else if m < 0x72 ∧ !s.isPinned m then res 0 (pinMaster m 7 0 0 0 s) else res 3 s

def offPinCmd : Nat := 0x050040

/-- A write of SEC_PIN_CMD. A halted SEC block holds the command (R447). -/
def pinEffect (w : RegWr) (s : State) : State :=
  let s := storeWr w 0x300 s
  let rel := bit w.new.toNat 8
  let pin := bit w.new.toNat 9
  if s.halted .sec ∧ (rel ∨ pin) then holdWrite 0 (2 ^ 28 + offPinCmd) w.new.toNat s
  else pinCommand (bits w.new.toNat 7 0) rel pin s

/-- The clear of R384 in a master's own storage. -/
def masterClear (m : Nat) (s : State) : State :=
  if h : m < 64 then
    wakeClear (.core ⟨m, h⟩) s
  else if 0x6C ≤ m ∧ m < 0x70 then s.onPipe (m - 0x6C) fun x => { (pipeOff x) with pend := none, wbPend := [] }
  else s

/-- The whole clear of a cluster (R202): its scratchpad and its cores. -/
def clusterClear (c : Nat) (s : State) : State :=
  if h : c < 8 then
    let s := wakeClear (.cluster ⟨c, h⟩) s
    eachDo (upTo 8) (fun i s => masterClear (8 * c + i) s) s
  else s

/-- A cluster and its cores are released again. -/
def clusterOn (c : Nat) (s : State) : State :=
  let s := eachDo (upTo 8) (fun i s => if s.power (8 + 8 * c + i) = .failed then s.setPower (8 + 8 * c + i) .on else s) s
  let s := if s.power c = .failed then s.setPower c .on else s
  s.onUnit fun x => { x with clearFail := tblSet 0 x.clearFail c 0 }

/-- A master's release: the clear has ended. Only clears with a read-back can fail. -/
def releaseRun (m : Nat) (r : ClearResult) (s : State) : State :=
  match masterCluster m with
  | none => masterClear m (unpinMaster m s)
  | some c =>
    let whole := clearPinned s m
    let ms := if whole then (clusterMasters c).filter (clearPinned s) else [m]
    let s := eachDo ms unpinMaster s
    match r with
    | .pass => if whole then clusterOn c (clusterClear c s) else masterClear m s
    | r =>
      if 0x48 ≤ m ∧ !whole then masterClear m s
      else clearFailed c r (if m < 64 ∧ !whole then s.setPower (8 + m) .failed else s)

/-- SEC_RELEASE_DONE. -/
def releaseDone (m : Nat) (r : ClearResult) (s : State) : State :=
  if s.sec.pinBusy ≠ some m then s else releaseRun m r (s.onSec fun x => { x with pinBusy := none })

/-! ## Lifecycle and configuration (R386, R401) -/

/-- The lifecycle state in force: 0 BLANK, 1 PROVISIONED, 2 SECURED, 3 RMA. -/
def lifecycle (s : State) : Nat := s.sec.lcNow.getD Config.lifecycle.toNat

/-- The lifecycle state that the fuses hold. -/
def fusedLc (s : State) : Nat := s.sec.lcBurn.getD (lifecycle s)

/-- A write of SEC_LC_CTL. A TX9640-X never becomes SECURED (R5). -/
def lcEffect (w : RegWr) (s : State) : State :=
  let t := bits w.new.toNat 1 0
  let s := clearWr w s
  if t < 2 then s
  else
    let ok := if t = 2 then decide (fusedLc s = 1) && !Config.eng else decide (fusedLc s ≠ 3) && s.sec.rmaOk
    if ok then s.onSec fun x => { x with lcBurn := some t } else refuseWr w refusedBit s

/-- A write of SEC_CFG. -/
def secCfgEffect (w : RegWr) (s : State) : State :=
  let live := s.mmu.ctxs.any fun e => decide (e.1 ≠ 0) && decide (e.2.state ≠ .free)
  if w.changes 0xF ∧ (lifecycle s = 2 ∨ live) then refuseWr w refusedBit s else storeWr w 0 s

/-- CERTIFIED (R401). -/
def certified (s : State) : Bool :=
  decide (lifecycle s = 2) && !Config.eng && decide (s.sec.debug = 0) && !s.sec.tokens && decide (s.rawBits 0 0x050008 3 0 = 0)

/-- SEC_LC as read. -/
def secLc (s : State) : Nat :=
  lifecycle s + 4 * b2n Config.eng + 8 * s.sec.debug + 32 * b2n (certified s) + 64 * b2n (fusedLc s ≠ lifecycle s)

/-- Fused minimum SVN. -/
def svnMin (s : State) : Nat := s.sec.svnBurn.getD Config.svnMin.toNat

/-- TOP_PRESENT as read (R25). -/
def topPresent (s : State) : Nat :=
  ((upTo 2).map fun d => b2n (s.diePresent d) * 2 ^ d).sum + ((upTo 8).map fun c => b2n (s.clusterPresent c) * 2 ^ (8 + c)).sum +
  b2n s.unit.degraded * 2 ^ 16 + s.unit.memGib8 * 2 ^ 20

/-- ENTROPY_FAIL (R375). -/
def entropyFail (test : Nat) (s : State) : State :=
  logError 0x50 0x83 0 test 0 false (s.onMmu fun m => { m with entropy := false })

/-- KEY_RESERVE_REFILL (R375): a drawn pair with equal halves is discarded. -/
def reserveRefill (equalHalves : Bool) (s : State) : State :=
  if s.mmu.entropy ∧ s.mmu.reserve < 64 ∧ !equalHalves then s.onMmu fun m => { m with reserve := m.reserve + 1 } else s

/-! ## Attestation (R391 to R393) -/

/-- Error codes of SPDM. -/
def seInvalid : Nat := 0x01
def seSession : Nat := 0x02
def seUnexpected : Nat := 0x04
def seDecrypt : Nat := 0x06
def seUnsupported : Nat := 0x07
def seLimit : Nat := 0x0A
def seRequired : Nat := 0x0B

def reply (r : SpdmReply) (s : State) : State := s.onSec fun x => { x with replies := x.replies ++ [r] }

/-- A request over DOE: the link is up, and a halted SEC block lets it wait (R447). -/
def doe (f : State → State) (s : State) : State := if s.boot.link ∧ !s.halted .sec then f s else s

/-- A request that needs the negotiated algorithms. -/
def spdmReady (f : State → State) (s : State) : State :=
  doe (fun s => if s.sec.spdm < 3 then reply (.error seUnexpected) s else f s) s

def digest0 : List Byte := List.replicate 48 0

/-- Measurement i (R393). -/
def measurement (s : State) (i : Nat) : List Byte :=
  let die := fun (d : Nat) => if tblGet 0 s.unit.excluded d = 0 then (tblGet DieId.none' s.rst.dies d).hash else digest0
  match i with
  | 1 => Config.romDigest
  | 2 => s.boot.fwHash ++ natLe 4 s.boot.svn
  | 3 => die 0
  | 4 => die 1
  | 5 => natLe 1 (secLc s) ++ natLe 1 (s.rawBits 0 0x050008 3 0) ++ natLe 1 (svnMin s) ++ natLe 1 Config.keyRevoke.toNat ++ natLe 4 (topPresent s) ++ natLe 8 0
  | _ => s.sec.debugLog

def chainHash0 (s : State) : List Byte := Config.sha384 (Config.certChain s.boot.boots)

/-- A fresh device nonce. -/
def drawNonce (s : State) : List Byte × State :=
  (Config.nonceBytes s.sec.nonces, s.onSec fun x => { x with nonces := x.nonces + 1 })

/-- A signature by the alias key. -/
def sign (s : State) (msg : List Byte) : List Byte := Config.aliasSign s.boot.boots msg

def challengeDo (slot : Nat) (nonce : List Byte) (s : State) : State :=
  if slot ≠ 0 then reply (.error seInvalid) s
  else
    let (n, s) := drawNonce s
    let summary := Config.sha384 ((upTo 6).flatMap fun i => measurement s (i + 1))
    reply (.challengeAuth (chainHash0 s) summary n (sign s (chainHash0 s ++ nonce ++ n ++ summary))) s

def measureDo (index : Nat) (signed : Bool) (nonce : List Byte) (s : State) : State :=
  let blocks : Option (List (Nat × List Byte)) :=
    if index = 0 then some []
    else if index = 0xFF then some ((upTo 6).map fun i => (i + 1, measurement s (i + 1)))
    else if index ≤ 6 then some [(index, measurement s index)] else none
  match blocks with
  | none => reply (.error seInvalid) s
  | some bs =>
    let (n, s) := drawNonce s
    let sig := if signed then sign s (nonce ++ n ++ bs.flatMap (·.2)) else []
    reply (.measurements 6 bs sig) s

def certificateDo (slot off len : Nat) (s : State) : State :=
  let c := Config.certChain s.boot.boots
  if slot ≠ 0 ∨ c.length ≤ off then reply (.error seInvalid) s
  else
    let part := (c.drop off).take len
    reply (.certificate part (c.length - off - part.length)) s

def keyExchangeDo (reqId : Nat) (s : State) : State :=
  if 2 ≤ s.sec.sessions.length then reply (.error seLimit) s
  else
    let n := (s.sec.sessionNo + 1) % 65536
    let id := n * 65536 + reqId
    let x : Session := { id, open' := false, keys := 0 }
    reply (.keyExchange id (sign s (natLe 4 id))) (s.onSec fun y => { y with sessions := y.sessions ++ [x], sessionNo := n })

def session? (s : State) (id : Nat) : Option Session := s.sec.sessions.find? fun x => x.id = id

/-- A request inside an open session. -/
def inSession (id : Nat) (f : State → State) (s : State) : State :=
  match session? s id with
  | some x => if x.open' then f s else reply (.error seUnexpected) s
  | none => reply (.error seSession) s

def dropSession (id : Nat) (s : State) : State :=
  s.onSec fun y => { y with sessions := y.sessions.filter fun x => x.id ≠ id }

def finishDo (id : Nat) (macOk : Bool) (s : State) : State :=
  match session? s id with
  | none => reply (.error seSession) s
  | some x =>
    if x.open' then reply (.error seUnexpected) s
    else if macOk then reply .finish (s.onSec fun y => { y with sessions := mapIf (fun x => x.id = id) (fun x => { x with open' := true }) y.sessions })
    else reply (.error seDecrypt) (dropSession id s)

/-! ## Debug tokens (R398, R399) -/

/-- The level in force: 3 outside SECURED, else 1 until a token raises it (R387, R481). -/
def debugLevel (s : State) : Nat :=
  if lifecycle s ≠ 2 then 3 else if s.sec.debug = 0 then 1 else s.sec.debug

/-- A new nonce replaces the one before. -/
def issueNonce (s : State) : List Byte × State :=
  let (n, s) := drawNonce s
  (n, s.onSec fun x => { x with nonce := some (n, s.time) })

/-- The key of the ROM that verifies tokens. -/
def debugAuthority : Nat := 8

/-- Every field of a token checks and both signatures verify. -/
def tokenOk (s : State) (b : List Byte) : Bool :=
  let lvl := fld b 5 1
  let life := fld b 6 2
  decide (b.length = 3469) && decide (fld b 0 4 = 0x4B544244) && decide (fld b 4 1 = 1) &&
  (decide (lvl = 2) || decide (lvl = 3) || decide (lvl = 0x80)) && decide (60 ≤ life) && decide (life ≤ 28800) &&
  decide (fld b 8 16 = Config.deviceId.toNat) && zeros b 56 8 &&
  (s.sec.nonce.any fun n => decide (slice b 24 32 = n.1) && decide (s.time ≤ n.2 + 600000000000)) &&
  Config.ecdsaVerifies debugAuthority (Config.sha384 (slice b 0 64)) (slice b 64 96) &&
  Config.mldsaVerifies debugAuthority (slice b 0 64) (slice b 160 3309)

/-- Aborts every context other than 0 that a test names. -/
def abortAll (p : Nat → Bool) (why : Reason) (s : State) : State :=
  let ns := (s.mmu.ctxs.filter fun e => decide (e.1 ≠ 0) && decide (e.2.state ≠ .free) && p e.1).map (·.1)
  eachDo ns (fun n s => abortCtx n why s) s

/-- An accepted token is logged and extends measurement 6 (R399, R481). -/
def recordToken (b : List Byte) (s : State) : State :=
  let s := s.onSec fun x => { x with debugLog := Config.sha384 (x.debugLog ++ Config.sha384 b), tokens := true }
  logError 0x51 0x83 0 (fld b 5 1) (fld b 6 2) false s

/-- A token is presented: whether it is accepted, and its effects. Its nonce is spent either way. -/
def presentToken (b : List Byte) (s : State) : Bool × State :=
  let ok := tokenOk s b
  let s := s.onSec fun x => { x with nonce := none }
  let lvl := fld b 5 1
  if !ok then (false, s)
  else if lvl ≠ 0x80 ∧ lvl < s.sec.debug then (true, s)
  else
    let s := recordToken b s
    if lvl = 0x80 then (true, s.onSec fun x => { x with rmaOk := true })
    else if lifecycle s ≠ 2 then (true, s)
    else
      let s := if lvl = 3 then abortAll (fun _ => true) .deviceLost s else s
      (true, s.onSec fun x => { x with debug := lvl, debugEnd := s.time + fld b 6 2 * 1000000000 })

/-- DEBUG_TOKEN_EXPIRY. -/
def tokenExpiry (s : State) : State :=
  if s.sec.debug ≠ 0 ∧ s.sec.debugEnd ≤ s.time then s.onSec fun x => { x with debug := 0 } else s

def vendorDo (msg : VendorMsg) (s : State) : State :=
  match msg with
  | .nonce => let (n, s) := issueNonce s; reply (.vendor n) s
  | .token b => let (ok, s) := presentToken b s; reply (if ok then .vendor [] else .error seInvalid) s
  | .other _ => reply (.error seUnsupported) s

/-! ## IDE and TDISP (R394 to R396) -/

def State.ide? (s : State) (k : Nat) : IdeStream := tblGet IdeStream.none' s.sec.ide k
def State.setIde (k : Nat) (x : IdeStream) (s : State) : State := s.onSec fun y => { y with ide := tblSet IdeStream.none' y.ide k x }
def State.tdi? (s : State) (f : Nat) : Tdi := tblGet Tdi.none' s.sec.tdi f
def State.setTdi (f : Nat) (x : Tdi) (s : State) : State := s.onSec fun y => { y with tdi := tblSet Tdi.none' y.tdi f x }

/-- The ranges of a function are locked (R396). -/
def tdiLocked (s : State) (f : Nat) : Bool := decide ((s.tdi? f).st = .locked) || decide ((s.tdi? f).st = .run)

/-- Every context of a function is aborted with DEVICE_LOST, and its vector 0 is raised. -/
def tdiLose (f : Nat) (s : State) : State := raiseCritical f (abortAll (fnHasCtx s f) .deviceLost s)

def tdiToError (f : Nat) (s : State) : State := tdiLose f (s.setTdi f { s.tdi? f with st := .error })

/-- IDE_KM in a session (R394). -/
def ideKmDo (msg : IdeKmMsg) (s : State) : State :=
  match msg with
  | .keyProg k => reply (.ideKm true) (s.setIde k.val { s.ide? k.val with keyed := true })
  | .keySetGo k =>
    let x := s.ide? k.val
    if x.keyed then reply (.ideKm true) (s.setIde k.val { x with secure := true }) else reply (.ideKm false) s
  | .keySetStop k => reply (.ideKm true) (s.setIde k.val { keyed := false, secure := false })
  | .query => reply (.ideKm true) s

/-- IDE_INTEGRITY_FAIL: the stream is insecure, and every TDI that uses it enters ERROR. -/
def ideFail (k : Nat) (s : State) : State :=
  if !(s.ide? k).secure then s
  else
    let s := s.setIde k { s.ide? k with secure := false }
    let fs := (upTo 64).filter fun f => decide ((s.tdi? f).stream = some k) && tdiLocked s f
    eachDo fs tdiToError s

/-- A TDISP message for a virtual function; the physical function is no TDI (R395). -/
def tdisp (f : Nat) (g : State → State) (s : State) : State := doe (fun s => if f = 0 then reply .tdiError s else g s) s

def tdiLockDo (f : Nat) (stream : Option Nat) (s : State) : State :=
  let ok : Bool := match stream with
    | some k => (s.ide? k).secure
    | none => true
  if (s.tdi? f).st = .unlocked ∧ ok then reply .tdiOk (s.setTdi f { st := .locked, stream }) else reply .tdiError s

def tdiStartDo (f : Nat) (s : State) : State :=
  if (s.tdi? f).st = .locked then reply .tdiOk (s.setTdi f { s.tdi? f with st := .run }) else reply .tdiError s

def tdiStopDo (f : Nat) (s : State) : State := reply .tdiOk ((tdiLose f s).setTdi f Tdi.none')

def tdiStNum : TdiState → Nat
  | .unlocked => 0 | .locked => 1 | .run => 2 | .error => 3

/-- BAR0, BAR2 and BAR4 sizes, and the ranges of contexts, rings and fences (R395). -/
def tdiReport (s : State) (f : Nat) : List Nat :=
  let c := (s.raw 0 (0x070100 + 4 * f)).toNat
  let r := (s.raw 0 (0x060100 + 4 * f)).toNat
  let l := (s.raw 0 (0x080100 + 4 * f)).toNat
  let h := (s.raw 0 (0x080200 + 4 * f)).toNat
  [0x100000, 0x2000000, 0x400000, bits c 8 0, bits c 19 10, bits r 12 0, bits r 26 13, bits l 9 0, bits l 20 10, bits h 9 0, bits h 20 10]

/-! ## Function-level reset of a virtual function (R397) -/

/-- Fences of a function's ranges end: ERROR with DEVICE_LOST, then FREE or RELEASING. Imports that its
contexts hold anywhere are removed first. -/
def flrFences (f : Nat) (s : State) : State :=
  let keys := s.fen.fences.map (·.1)
  let s := keys.foldl (fun s k =>
    ((s.fence k).imports.filter fun i => !i.peer && fnHasCtx s f i.ctx).foldl (fun s i => dropImport k i s) s) s
  keys.foldl (fun s k =>
    let x := s.fence k
    let own := if k < 65536 then fnHasLocal s f k else fnHasShared s f (k - 65536)
    if own ∧ x.st ≠ .free ∧ x.st ≠ .releasing then freeFence k (fenceError k .deviceLost s) else s) s

/-- What a fence's error ends besides waits: plans that its trigger held (R225) and commits that wait for
it (R322); and what is over but for its report completes. -/
def errorHooks (s : State) : State := closeOps (commitHooks (planHooks s))

/-- A context that is RETIRED becomes FREE as RELEASE does. -/
def autoRelease (n : Nat) (s : State) : State :=
  let c := s.ctx n
  if c.state = .retired ∧ s.sec.flr.contains n then
    (s.setCtx n { ctxDefault n with gen := c.gen }).onSec fun x => { x with flr := x.flr.filter (· ≠ n) }
  else s

/-- Every register of a function's own BAR0 returns to its reset value, with its results, queues and
pending bits. -/
def flrRegs (f : Nat) (s : State) : State :=
  let mine := fun (k : Nat) => decide (k / 2 ^ 26 = f)
  let s := s.onReg fun g => { g with regs := tblDrop mine g.regs, pba := tblDrop (fun k => decide (k / 2048 = f)) g.pba, held := g.held.filter fun h => h.1 ≠ f }
  let s := s.onFe fun x => { x with results := tblSet 0 x.results f 0 }
  let s := s.onFen fun x => { x with results := tblSet 0 x.results f 0, evq := tblSet QueueCnt.zero x.evq f QueueCnt.zero }
  let s := s.onMmu fun x => { x with results := tblDrop (fun k => decide (k / 512 = f)) x.results, invRes := tblSet 0 x.invRes f 0, inval := x.inval.filter fun e => e.fn ≠ f }
  s.onShd fun x => { x with parkq := tblSet QueueCnt.zero x.parkq f QueueCnt.zero, parkRes := tblSet 0 x.parkRes f 0, held := x.held.filter fun h => h.fn ≠ f }

def flrDo (f : Nat) (s : State) : State :=
  if f = 0 then s
  else
    let s := if tdiLocked s f then s.setTdi f { s.tdi? f with st := .error } else s
    let mine := (s.mmu.ctxs.filter fun e => decide (e.1 ≠ 0) && decide (e.2.state ≠ .free) && fnHasCtx s f e.1).map (·.1)
    let s := abortAll (fnHasCtx s f) .deviceLost s
    let s := s.onSec fun x => { x with flr := x.flr ++ mine.filter fun n => !x.flr.contains n }
    let s := eachDo mine autoRelease s
    let rings := (s.fe.rings.filter fun e => fnHasRing s f e.1).map (·.1)
    let s := eachDo rings (fun r s => s.setRing r Ring.off) s
    errorHooks (flrRegs f (flrFences f s))

/-! ## The meanings -/

/-- SEC_RELEASE_DONE (R384). -/
def execSecReleaseDone (m : MasterId) (r : ClearResult) (s : State) : Out := .next (releaseDone m.val r s)

/-- ENTROPY_FAIL (R375). -/
def execEntropyFail (test : Nat) (s : State) : Out := .next (entropyFail test s)

/-- GET_VERSION (R391): the connection starts anew. -/
def execSpdmGetVersion (s : State) : Out :=
  .next (doe (fun s => reply .version (s.onSec fun x => { x with spdm := 1, sessions := [] })) s)

/-- GET_CAPABILITIES (R391). -/
def execSpdmGetCapabilities (s : State) : Out :=
  .next (doe (fun s => if s.sec.spdm = 1 then reply .capabilities (s.onSec fun x => { x with spdm := 2 }) else reply (.error seUnexpected) s) s)

/-- NEGOTIATE_ALGORITHMS (R391). -/
def execSpdmNegotiateAlgorithms (offersSet : Bool) (s : State) : Out :=
  .next (doe (fun s =>
    if s.sec.spdm ≠ 2 then reply (.error seUnexpected) s
    else if offersSet then reply .algorithms (s.onSec fun x => { x with spdm := 3 }) else reply (.error seInvalid) s) s)

/-- GET_DIGESTS (R391, R392). -/
def execSpdmGetDigests (s : State) : Out := .next (spdmReady (fun s => reply (.digests (chainHash0 s)) s) s)

/-- GET_CERTIFICATE (R391, R392). -/
def execSpdmGetCertificate (slot offset length : Nat) (s : State) : Out :=
  .next (spdmReady (certificateDo slot offset length) s)

/-- CHALLENGE (R391, R392). -/
def execSpdmChallenge (slot : Nat) (nonce : List Byte) (s : State) : Out := .next (spdmReady (challengeDo slot nonce) s)

/-- GET_MEASUREMENTS (R393). -/
def execSpdmGetMeasurements (index : Nat) (signed : Bool) (nonce : List Byte) (s : State) : Out :=
  .next (spdmReady (measureDo index signed nonce) s)

/-- KEY_EXCHANGE (R391). -/
def execSpdmKeyExchange (reqId : BitVec 16) (s : State) : Out := .next (spdmReady (keyExchangeDo reqId.toNat) s)

/-- FINISH (R391). -/
def execSpdmFinish (session : Nat) (macOk : Bool) (s : State) : Out := .next (spdmReady (finishDo session macOk) s)

/-- HEARTBEAT (R391). -/
def execSpdmHeartbeat (session : Nat) (s : State) : Out := .next (spdmReady (inSession session (reply .heartbeat)) s)

/-- KEY_UPDATE (R391). -/
def execSpdmKeyUpdate (session : Nat) (s : State) : Out :=
  .next (spdmReady (inSession session fun s =>
    reply .keyUpdate (s.onSec fun y => { y with sessions := mapIf (fun x => x.id = session) (fun x => { x with keys := x.keys + 1 }) y.sessions })) s)

/-- END_SESSION (R391). -/
def execSpdmEndSession (session : Nat) (s : State) : Out :=
  .next (spdmReady (inSession session fun s => reply .endSession (dropSession session s)) s)

/-- VENDOR_DEFINED_REQUEST (R391, R398, R399). -/
def execSpdmVendorDefined (session : Option Nat) (msg : VendorMsg) (t : Nat) (s : State) : Out :=
  .next (spdmReady (match session with
    | some id => inSession id (vendorDo msg)
    | none => vendorDo msg) (advanceTo t s))

/-- UNSUPPORTED_REQUEST (R391). -/
def execSpdmUnsupported (_code : Byte) (s : State) : Out := .next (doe (reply (.error seUnsupported)) s)

/-- IDE_KM (R394). -/
def execIdeKm (session : Nat) (msg : IdeKmMsg) (s : State) : Out :=
  .next (spdmReady (fun s => if (session? s session).isSome then inSession session (ideKmDo msg) s else reply (.error seRequired) s) s)

/-- IDE_INTEGRITY_FAIL (R394, R396). -/
def execIdeIntegrityFail (k : Fin 9) (s : State) : Out := .next (ideFail k.val s)

/-- LOCK_INTERFACE (R395, R396). -/
def execTdiLock (f : Fn) (stream : Option (Fin 9)) (s : State) : Out := .next (tdisp f.val (tdiLockDo f.val (stream.map (·.val))) s)

/-- START_INTERFACE (R395, R396). -/
def execTdiStart (f : Fn) (s : State) : Out := .next (tdisp f.val (tdiStartDo f.val) s)

/-- STOP_INTERFACE (R396). -/
def execTdiStop (f : Fn) (s : State) : Out := .next (tdisp f.val (tdiStopDo f.val) s)

/-- GET_DEVICE_INTERFACE_REPORT (R395). -/
def execTdiGetReport (f : Fn) (s : State) : Out :=
  .next (tdisp f.val (fun s => if tdiLocked s f.val then reply (.tdiReport (tdiReport s f.val)) s else reply .tdiError s) s)

/-- GET_DEVICE_INTERFACE_STATE (R395). -/
def execTdiGetState (f : Fn) (s : State) : Out :=
  .next (tdisp f.val (fun s => reply (.tdiState (tdiStNum (s.tdi? f.val).st)) s) s)

/-- GET_VERSION of TDISP (R395). -/
def execTdispGetVersion (f : Fn) (s : State) : Out := .next (tdisp f.val (reply .tdispVersion) s)

/-- VF_FLR (R397). -/
def execVfFlr (f : Fn) (s : State) : Out := .next (flrDo f.val s)

/-- DEBUG_TOKEN_EXPIRY (R399). -/
def execDebugTokenExpiry (t : Nat) (s : State) : Out := .next (tokenExpiry (advanceTo t s))

/-- KEY_RESERVE_REFILL (R375). -/
def execKeyReserveRefill (equalHalves : Bool) (s : State) : Out := .next (reserveRefill equalHalves s)

/-- DOE_DISCOVERY (R391): DOE discovery, CMA/SPDM and secured CMA/SPDM. -/
def execDoeDiscovery (index : Nat) (s : State) : Out :=
  .next (doe (reply (if index < 3 then .doeProtocol index (if index = 2 then 0 else index + 1) else .doeProtocol 0xFF 0)) s)

end Sys2Proof.Machine
end

