-- ==== Sys2Proof/Machine/Power.lean ====
section
/-! DEFINITION. Power: P-levels and their sequencer, the policy, measurement and limits, sleep states,
wake events, clock monitors and gates (R402 to R433). -/

namespace Sys2Proof.Machine

open Sys2Proof

/-! ## AVSBus frames and frequency moves (R405 to R409) -/

/-- The raise is abandoned, or a lowering keeps its old voltage: the entry of the error log names the
rail and its target (R409). -/
def avsFail (g rail mv : Nat) (s : State) : State :=
  let s := logError 0x60 0x84 0 rail mv false s
  let s := s.onPwr fun p => { p with avs := p.avs.filter fun f => f.group ≠ g }
  let back := fun (c : Nat) (s : State) =>
    let s := s.onPwr fun p => { p with goal := p.goal.set g (if p.goal.getD g 7 = c then p.plvl.getD g 7 else p.goal.getD g 7) }
    setSeq g (.restore (groupRails g).length) (writeVolt g (plvlOf s g) s)
  match seqOf s g with
  | .raiseVolt c _ => back c s
  | .confirm c _ => back c s
  | _ =>
    let s := setSeq g .idle s
    if goalOf s g ≠ plvlOf s g then nextStep g s else s

/-- A voltage write is acknowledged. -/
def voltWritten (g : Nat) (s : State) : State :=
  let carry := fun (lv : Nat) (s : State) => s.onPwr fun p => { p with volt := p.volt.set g lv }
  match seqOf s g with
  | .lowerVolt b left => if 1 < left then setSeq g (.lowerVolt b (left - 1)) s else nextStep g (carry b s)
  | .raiseVolt c left =>
    if 1 < left then setSeq g (.raiseVolt c (left - 1)) s
    else
      let s := carry c s
      if goalOf s g = c then setSeq g (.confirm c (groupRails g)) s else nextStep g s
  | .restore left => if 1 < left then setSeq g (.restore (left - 1)) s else nextStep g (carry (plvlOf s g) s)
  | _ => s

/-- A confirming read answers: once every rail is within 5 mV of its target the frequency moves,
unless a newer target has arrived (R405, R408). -/
def voltRead (g rail mv : Nat) (s : State) : State :=
  match seqOf s g with
  | .confirm c rails =>
    let t := levelMv c
    if t ≤ mv + 5 ∧ mv ≤ t + 5 then
      let rest := rails.filter (· ≠ rail)
      if rest ≠ [] then setSeq g (.confirm c rest) s
      else if goalOf s g = c then setSeq g (.raiseFreq c) s
      else nextStep g s
    else s
  | _ => s

/-- The frame on the bus ends. -/
def frameDone (a : AvsAnswer) (s : State) : State :=
  match s.pwr.avs with
  | [] => s
  | f :: rest =>
    let s := s.onPwr fun p => { p with avs := rest }
    match a with
    | .none =>
      let target := match seqOf s f.group with
        | .confirm c _ => levelMv c
        | _ => f.mv
      avsFail f.group f.rail target s
    | .ok mv => if f.read then voltRead f.group f.rail mv s else voltWritten f.group s

/-- A read of every rail that is still to confirm (R407). -/
def confirmRead (g : Nat) (s : State) : State :=
  match seqOf s g with
  | .confirm _ rails =>
    let new := rails.filter fun r => !s.pwr.avs.any fun f => f.read && decide (f.rail = r)
    s.onPwr fun p => { p with avs := p.avs ++ new.map fun r => { group := g, rail := r, read := true, mv := 0 } }
  | _ => s

/-- No confirmation for 200 microseconds, or no valid response (R409). -/
def avsTimeout (g : Nat) (s : State) : State :=
  match seqOf s g with
  | .confirm c (r :: _) => avsFail g r (levelMv c) s
  | _ => match s.pwr.avs.find? fun f => f.group = g with
    | some f => avsFail g f.rail f.mv s
    | none => s

/-- A PLL reaches its new frequency. -/
def freqMoved (g : Nat) (s : State) : State :=
  let force := fun (lv : Nat) (s : State) => s.onPwr fun p => { p with plvl := p.plvl.set g lv }
  match seqOf s g with
  | .lowerFreq b => nextStep g (force b s)
  | .raiseFreq c => nextStep g (force c s)
  | _ => s

/-! ## Limits (R410 to R416) -/

/-- The WARP_FLOOR that a pipe holds (R354, R414). -/
def pipeFloor (s : State) (p : Nat) : Option Nat :=
  let x := s.pipe p
  match warpLayer x.rec' with
  | some l => if x.st ≠ .off ∧ lOn (layerRec x l) then some (fld x.rec' 63 1) else none
  | none => none

/-- The fastest floor of the pipes; the shader group has none. -/
def warpFloor (s : State) (g : Nat) : Nat :=
  if g = 2 then 7 else ((upTo 4).filterMap (pipeFloor s)).foldl Nat.min 7

/-- The fastest and slowest levels that a group may be set to (R413, R414). -/
def fastestOf (s : State) (g : Nat) : Nat := Nat.min (s.pwr.policy.fastest.getD g 0) (warpFloor s g)
def slowestOf (s : State) (g : Nat) : Nat := Nat.min (s.pwr.policy.slowest.getD g 7) (warpFloor s g)

/-- Every group within its limits; P7 in the first thermal stage (R416). -/
def limitGoals (s : State) : State :=
  eachDo (upTo 4) (fun g s =>
    let lv := if s.pwr.hot then 7 else Nat.max (fastestOf s g) (Nat.min (slowestOf s g) (goalOf s g))
    if lv = goalOf s g then s else setGoal g lv s) s

/-- Groups in rising ORDER. -/
def byOrder (s : State) : List Nat := (upTo 4).filterMap fun k => (upTo 4).find? fun g => s.pwr.policy.order.getD g 0 = k

/-- Lowers the group with the lowest ORDER that may be slower (R413 case 1). -/
def lowerOne (s : State) : State :=
  match (byOrder s).find? fun g => decide (goalOf s g < slowestOf s g) with
  | some g => setGoal g (goalOf s g + 1) s
  | none => s

/-- Raises the group with the highest ORDER that may be faster (R413 case 2). -/
def raiseOne (s : State) : State :=
  match (byOrder s).reverse.find? fun g => decide (fastestOf s g < goalOf s g) with
  | some g => setGoal g (goalOf s g - 1) s
  | none => s

/-- The hottest sensor, in quarter degrees. -/
def hottest (l : List Int) : Option Int := match l with
  | [] => none
  | t :: ts => some (ts.foldl max t)

/-- No work of a unit or in a cluster. -/
def coreIdle (s : State) (k : Nat) : Bool :=
  !(s.shd.groups.any fun g => g.core = k) && !(s.shd.wgs.any fun w => w.core = k) && !(s.rnd.tiles.any fun t => t.core = k)

def clusterIdle (s : State) (c : Nat) : Bool :=
  (upTo 8).all (fun i => coreIdle s (8 * c + i)) &&
  !(s.fe.entries.any fun e => e.ops.any fun p => decide (p.phase = .running) && p.units.any fun m => (clusterMasters c).contains m) &&
  !(s.tns.runs.any fun r => r.held.any fun h => (clusterMasters c).contains h.1) && !(s.fe.copies.any fun r => r.chan / 4 = c) &&
  !(s.rnd.passes.any fun r => r.batches.any fun b => b.cluster = c) && !(s.mem.clearing.any fun k => if k < 2048 then k / 256 = c else (k - 2048) / 32 = c)

/-- Power-gates a cluster and its cores (R428). A unit whose clear has failed stays as it is. -/
def gateCluster (c : Nat) (s : State) : State :=
  eachDo (c :: (upTo 8).map fun i => 8 + 8 * c + i) (fun k s => if s.power k = .on ∨ s.power k = .clearing then s.setPower k .off else s) s

/-- The two thermal stages (R416). Clusters whose work has not yet ended are gated at a later
measurement. -/
def thermal (t : Int) (s : State) : State :=
  let info := (w32 (t % 2 ^ 32).toNat).toNat
  let cool := decide (t < Config.tjMaxQuarter - 20)
  let s :=
    if decide (Config.tjMaxQuarter < t) && !s.pwr.hot then logError 0x62 0x84 0 1 info false (s.onPwr fun p => { p with hot := true })
    else if cool then s.onPwr fun p => { p with hot := false }
    else s
  let s :=
    if decide (Config.tjMaxQuarter + 40 < t) && !s.err.thermal2 then
      abortAll (fun _ => true) .deviceLost (logError 0x62 0x84 0 2 info true (s.onErr fun e => { e with thermal2 := true }))
    else if cool then s.onErr fun e => { e with thermal2 := false }
    else s
  if s.err.thermal2 then eachDo (upTo 8) (fun c s => if clusterIdle s c then gateCluster c s else s) s else s

/-- Issue suppression in eighths (R415): the window is projected at the power just measured. -/
def throttleDo (mw : Nat) (s : State) : State :=
  let total := s.pwr.winSum + mw * (100 - s.pwr.winN)
  let limit := s.pwr.policy.peak * 1000 * 100
  s.onPwr fun p => { p with throttle := if p.hot then 7 else if limit < total then Nat.min 7 (p.throttle + 1) else if total < limit then p.throttle - 1 else p.throttle }

/-- The Monarch controller works: firmware has booted, and the package is in none but S0 to S3. -/
def monarchRuns (s : State) : Bool := decide (s.boot.stage = .ready) && (awake s || inS3 s)

/-- POWER_MEASURE: averages, the window of 10 ms, the thermal stages, suppression and one level
(R412 to R416). In S3 the levels stay at P7. -/
def measureNow (m : Measurement) (s : State) : State :=
  if !monarchRuns s then s
  else
    let p := s.pwr
    let fresh := decide (100 ≤ p.winN)
    let avg := p.avg + m.powerMw - p.avg / 10000
    let lim := p.policy.sustained * 1000
    let calm := decide (avg * 100 ≤ lim * 10000 * 95) && decide (m.powerMw * 100 ≤ lim * 95)
    let s := s.onPwr fun p =>
      let winSum := if fresh then m.powerMw else p.winSum + m.powerMw
      let winN := if fresh then 1 else p.winN + 1
      { p with avg, last := m.powerMw, temps := m.temps, winSum, winN, calm := if calm then Nat.min 100 (p.calm + 1) else 0 }
    let hot := hottest m.temps
    let s := match hot with
      | some t => thermal t s
      | none => s
    let s := throttleDo m.powerMw s
    if !awake s then s
    else
      let s := limitGoals s
      let tooHot := decide (s.pwr.policy.tj < hot.getD (-1000))
      if s.pwr.hot then s
      else if (decide (lim * 10000 ≤ avg) && decide (lim < m.powerMw)) || tooHot then lowerOne s
      else if decide (100 ≤ s.pwr.calm) then raiseOne s
      else s

/-! ## The policy record (R410, R411, R418) -/

/-- A write of PWR_POLICY_CMD. -/
def policyEffect (w : RegWr) (s : State) : State :=
  if bit w.val.toNat 0 && !s.pwr.polBusy then s.onPwr fun p => { p with polBusy := true, polRes := 0 } else s

/-- The policy of a record, when every field is in range. -/
def policyOf (b : List Byte) : Option Policy :=
  let g := fun (i k : Nat) => fld b (8 + 4 * i + k) 1
  let sustained := fld b 0 2
  let peak := fld b 2 2
  let tj := fld b 4 1
  let gate := fld b 6 2
  let order := (upTo 4).map fun i => g i 2
  let good := decide (45 ≤ sustained) && decide (sustained ≤ 175) && decide (sustained ≤ peak) && decide (peak ≤ 210) &&
    decide (60 ≤ tj) && decide (4 * (tj : Int) ≤ Config.tjMaxQuarter - 20) && decide (fld b 5 1 < 2) && decide (10 ≤ gate) &&
    (upTo 4).all (fun i => decide (g i 0 ≤ g i 1) && decide (g i 1 ≤ 7) && decide (g i 2 ≤ 3) && decide (g i 3 = 0)) &&
    decide (order.Nodup) && decide (fld b 32 8 % 4096 = 0) && zeros b 40 88
  if good then
    some { sustained, peak, tj := 4 * (tj : Int), autoExit := decide (fld b 5 1 = 1), idleGate := gate,
           fastest := (upTo 4).map fun i => g i 0, slowest := (upTo 4).map fun i => g i 1, order, weights := [], statsVa := fld b 32 8 }
  else none

/-- Weights of the contexts: 0 stands for 8 (R418). -/
def weightsOf (b : List Byte) : List Nat := b.map fun w => if w = 0 then 8 else w.toNat

/-- POLICY_APPLY_DONE: the record and its weight table are read and checked, and put in force whole,
or not at all. -/
def policyDone (io : HostIO) (s : State) : State :=
  if !s.pwr.polBusy ∨ !monarchRuns s then s
  else
    let fin := fun (r : Nat) (s : State) => s.onPwr fun p => { p with polBusy := false, polRes := r }
    let s := applyIO io s
    let base := s.rawBase 0 0x030010 0x030014
    match devRead base 128 s with
    | .wait => s
    | .failed => fin 4 (noteViolation 0x87 0 base 128 s)
    | .done (b, s1) => match policyOf b with
      | none => fin 1 s1
      | some pol =>
        let va := fld b 24 8
        match if va = 0 then Dev.done ([], s1) else devRead va 512 s1 with
        | .wait => s
        | .failed => fin 4 (noteViolation 0x87 0 va 512 s1)
        | .done (t, s2) =>
          if t.any (fun w => decide (15 < w.toNat)) then fin 1 s2
          else
            let s := fin 0 (s2.onPwr fun p => { p with policy := { pol with weights := weightsOf t } })
            if awake s then limitGoals s else s

/-! ## Statistics (R417) -/

/-- PWR_PLVL[15:0]. -/
def plvlBits (s : State) : Nat := ((upTo 4).map fun g => plvlOf s g * 16 ^ g).sum

/-- Bytes 8 to 55 of the header. -/
def statsHeader (s : State) : List Byte :=
  let hot := ((hottest s.pwr.temps).getD 0 % 2 ^ 16).toNat
  natLe 8 s.time ++ natLe 4 (s.pwr.avg / 10000) ++ natLe 4 (s.pwr.winSum / Nat.max 1 s.pwr.winN) ++ natLe 2 hot ++ natLe 2 (plvlBits s) ++ natLe 1 s.pwr.throttle ++ List.replicate 27 0

def ringRecord (x : RingStat) : List Byte :=
  natLe 4 (x.wait / Nat.max 1 x.count) ++ natLe 4 (x.run / Nat.max 1 x.count) ++ natLe 4 x.count ++ natLe 4 0

/-- STATS_WRITE: SEQ, the ring records and the header, then SEQ_END; a write that fails is not
performed, and is logged where it is a violation (R482). -/
def statsNow (s : State) : State :=
  let va := s.pwr.policy.statsVa
  if va = 0 ∨ !monarchRuns s then s
  else
    let s := s.onPwr fun p => { p with stats := p.stats + 1 }
    let put := fun (off : Nat) (bs : List Byte) (s : State) => (devWrite (va + off) bs s).getD (noteViolation 0x87 0 (va + off) bs.length s)
    let s := put 0 (natLe 8 s.pwr.stats) s
    let s := eachDo (upTo 8192) (fun r s => put (64 + 16 * r) (ringRecord (tblGet RingStat.zero s.pwr.ringStat r)) s) s
    let s := put 56 (natLe 8 s.pwr.stats) (put 8 (statsHeader s) s)
    s.onPwr fun p => { p with ringStat := [] }

/-! ## Sleep (R419 to R426) -/

/-- Masters of the island that S3 keeps: core 0, tensor array 0 with its DMA channels, and pipe A when
it is kept. -/
def islandMaster (keep : Bool) (m : Nat) : Bool :=
  decide (m = 0) || decide (m = 0x40) || (decide (0x48 ≤ m) && decide (m < 0x4C)) || (keep && decide (m = 0x6C))

/-- Running work that S3 has no room for (R422). -/
def busyS3 (keep : Bool) (s : State) : Bool :=
  (s.fe.entries.any fun e => e.ops.any fun p => decide (p.phase = .running) && p.units.any fun m => !islandMaster keep m) ||
  (s.shd.groups.any fun g => decide (g.core ≠ 0)) || (s.shd.wgs.any fun w => decide (w.core ≠ 0)) || (s.rnd.tiles.any fun t => decide (t.core ≠ 0)) ||
  (s.rnd.passes.any fun r => r.batches.any fun b => decide (b.cluster ≠ 0)) || decide (s.cmp.queue ≠ []) || decide (s.cmp.runs ≠ [])

/-- Running work that S4 has no room for. A pending wait is none (R422). -/
def busyS4 (s : State) : Bool :=
  (s.fe.entries.any fun e => e.ops.any fun p => decide (p.phase = .running) && p.fence.isNone) ||
  !s.shd.groups.isEmpty || !s.shd.wgs.isEmpty ||
  (s.fe.rings.any fun r => decide (r.2.state = .fetching) || decide (r.2.state = .idlePending)) ||
  [0, 1].any fun d => decide ((s.plan d).state = .running)

/-- RESULT of a GO (R422). -/
def sleepCheck (target : Nat) (keep : Bool) (s : State) : Nat :=
  let on := fun (p : Nat) => decide ((s.pipe p).st ≠ .off)
  if !awake s then 3
  else if target = 3 then
    if busyS3 keep s then 4
    else if [1, 2, 3].any on || (on 0 && !keep) then 5
    else if on 0 && (pipeFloor s 0).any fun f => decide (f < 7) then 6
    else 0
  else if busyS4 s then 4
  else if (upTo 4).any on then 5
  else 0

/-- An accepted GO: STATE is ENTERING, and the groups that stay powered head for P7 (R423). -/
def startEntry (target : Nat) (s : State) : State :=
  let s := s.onPwr fun p => { p with sleep := .entering, deep := target, saved := p.plvl, wakeHeld := none, gated := [] }
  eachDo [0, 2, 3] (fun g s => setGoal g 7 s) s

/-- A write of PWR_CTL. -/
def sleepEffect (w : RegWr) (s : State) : State :=
  let s := storeWr w 8 s
  let target := bits w.new.toNat 2 0
  if !bit w.new.toNat 3 ∨ (target ≠ 3 ∧ target ≠ 4) then s
  else
    let r := sleepCheck target (bit w.new.toNat 4) s
    let s := s.onPwr fun p => { p with slpRes := r }
    if r = 0 then startEntry target s else s

/-- Units that stay on in S3: cluster 0, core 0 and die 0. -/
def islandUnit (k : Nat) : Bool := decide (k = 0) || decide (k = 8) || decide (k = 72)

/-- Powers a unit down; a failed clear is kept. -/
def unitOff (k : Nat) (s : State) : State := if s.power k = .on ∨ s.power k = .clearing then s.setPower k .off else s

/-- A unit's clear and release at once. -/
def unitOn (k : Nat) (s : State) : State :=
  if s.power k ≠ .off then s
  else if h : k < 8 then (wakeClear (.cluster ⟨k, h⟩) s).setPower k .on
  else if h : k - 8 < 64 then (wakeClear (.core ⟨k - 8, h⟩) s).setPower k .on
  else if h : k - 72 < 2 then (wakeClear (.die ⟨k - 72, h⟩) s).setPower k .on
  else s

/-- Die of a power key. -/
def unitDie (k : Nat) : Nat := if k < 8 then k / 4 else if k < 72 then (k - 8) / 32 else k - 72

/-- SLEEP_ENTRY_DONE (R423): every group that stays powered is at P7 and no engine is at work. The L2s
are clean and empty, the units are off, array 0 is narrow with NARROW set (R190). A level-sensed pin that is active, or a
request that came meanwhile, starts the exit at once (R426, R427). -/
def entryDone (s : State) : State :=
  let settled := [0, 2, 3].all fun g => decide (seqOf s g = .idle) && decide (plvlOf s g = 7)
  let busy := [0, 1].any fun d => decide ((s.plan d).state = .running) || (s.l2 d).op.isSome
  if s.pwr.sleep ≠ .entering ∨ !settled ∨ busy then s
  else
    let s := l2Empty s
    let keep := fun (k : Nat) => decide (s.pwr.deep = 3) && islandUnit k
    let s := eachDo (upTo 74) (fun k s => if keep k then (if s.diePresent 0 then unitOn k s else s) else unitOff k s) s
    let s := (s.setRaw 0 (offTnsCtl 0) (s.raw 0 (offTnsCtl 0) ||| 1)).onTns fun t => { t with narrow := tblSet 0 t.narrow 0 1 }
    let pins := levelPins s
    let held := s.pwr.wakeHeld.or ((pins.head?).map fun i => (1, i))
    let s := wakeBits (pins.foldl (fun m i => m ||| w32 (2 ^ i)) 0) s
    let s := s.onPwr fun p => { p with sleep := if p.deep = 3 then .s3 else .s4, wakeHeld := none }
    match held with
    | some (src, pin) => startExit src pin s
    | none => s

/-- SLEEP_EXIT_DONE (R425) but for the held writes: every group has reached its level, or its raise was
abandoned, and no unit is being cleared; NARROW is cleared; units that were off are cleared and released; STATE, WAKE_SRC, WAKE_PIN and the vector. The
locks of die 0's L2 outlast S3 (R421). -/
def exitDone (s : State) : State :=
  if s.pwr.sleep ≠ .exiting ∨ (upTo 4).any (fun g => decide (seqOf s g ≠ .idle)) ∨ (upTo 74).any (fun k => decide (s.power k = .clearing)) then s
  else
    let s := if s.pwr.deep = 3 then s.setL2 0 L2.empty else s
    let s := eachDo (upTo 74) (fun k s => if s.diePresent (unitDie k) && !s.err.thermal2 then unitOn k s else s) s
    let s := (s.setRaw 0 (offTnsCtl 0) (s.raw 0 (offTnsCtl 0) &&& ~~~1)).onTns fun t => { t with narrow := tblSet 0 t.narrow 0 0 }
    let (src, pin) := s.pwr.wakeHeld.getD (0, 0)
    let s := s.onPwr fun p => { p with sleep := .s0, wakeSrc := src, wakePin := if src = 1 then pin else p.wakePin, wakeHeld := none }
    limitGoals (raiseVec .wake 0 (wakeVector s) s)

/-- A unit that S1 may gate has no work. -/
def gateKey (s : State) : GateUnit → Nat × Bool
  | .cluster c => (c.val, clusterIdle s c.val)
  | .core k => (8 + k.val, coreIdle s k.val)
  | .pipe p => (72 + p.val, decide ((s.pipe p.val).st = .off) && (s.pipe p.val).pend.isNone)
  | .cmp n => (76 + n.val, !s.cmp.runs.any fun r => r.1 = n.val)

/-- IDLE_CLOCK_GATE (R419). -/
def clockGate (u : GateUnit) (s : State) : State :=
  let (k, idle) := gateKey s u
  if idle && awake s && !s.pwr.gated.contains k then s.onPwr fun p => { p with gated := p.gated ++ [k] } else s

/-- IDLE_POWER_GATE (R419). -/
def powerGate (c : Nat) (s : State) : State :=
  if clusterIdle s c && awake s && decide (s.power c = .on) then gateCluster c s else s

/-! ## Wake events (R427) -/

/-- WAKE_PIN_EVENT: a pin has held a level for two slow cycles. In the last 8 slow cycles of an entry
an edge is lost; whether it falls there is a free value, as the model keeps no times of an entry's
steps. -/
def wakePin (i : Nat) (level : Bool) (s : State) : State :=
  let was := bit s.pwr.levels i
  let s := s.onPwr fun p => { p with levels := if level = was then p.levels else if level then p.levels + 2 ^ i else p.levels - 2 ^ i }
  if !pinEn s i then s
  else if pinLevel s i then levelWakes s
  else if was = level ∨ level ≠ pinHigh s i then s
  else
    let (v, s) := if s.pwr.sleep = .entering then s.fresh else (0, s)
    if bit v.toNat 0 then s else wakeEvent 1 i (wakeBits (w32 (2 ^ i)) s)

/-- LINK_WAKE_EVENT: in S3 only under LINK_S3 (R424). -/
def linkWake (s : State) : State :=
  if inS3 s && decide (s.rawBits 0 0x030000 5 5 = 0) then s else wakeEvent 2 0 (wakeBits 0x100 s)

/-! ## Clocks (R429 to R433) -/

def offMonSts : Nat := 0x020050

/-- A display PLL fails: the connector is blanked, the pending commit fails, and the pipe is OFF. -/
def displayPllFail (p : Nat) (s : State) : State :=
  let s := dropPend p s
  let s := match livePend s p with
    | some c => commitFail p c stOpError dtLink .faulted s
    | none => s
  s.onPipe p pipeOff

/-- Sources that start to lock again, on domain 2 meanwhile. -/
def relock (ns : List Nat) (s : State) : State :=
  s.onPwr fun p => { p with fallback := ns.foldl (fun f n => f ||| 2 ^ n) p.fallback, locking := p.locking ++ ns.filter fun n => !p.locking.contains n }

/-- Source n fails its window (R431). The trim loses its reference with it, or takes the other one. -/
def sourceFail (fails n : Nat) (s : State) : State :=
  let s := s.setRaw 0 offMonSts (s.raw 0 offMonSts ||| w32 (2 ^ n))
  let s := if n = 0 then
      let s := relock ((upTo 12).map (· + 3)) (s.onPwr fun p => { p with fallback := p.fallback ||| 1 })
      s.onPwr fun p => if p.trimRef then p else if bit fails 2 then { p with trimHold := true } else { p with trimRef := true }
    else if n = 1 then s.onPwr fun p => { p with fallback := p.fallback ||| 2 }
    else if n = 2 then s.onPwr fun p => if p.trimRef then { p with trimHold := true } else p
    else if 10 ≤ n ∧ n ≤ 13 then displayPllFail (n - 10) s
    else if bit s.pwr.failedOnce n then s.onPwr fun p => { p with fallback := p.fallback ||| 2 ^ n, locking := p.locking.filter (· ≠ n) }
    else relock [n] (s.onPwr fun p => { p with failedOnce := p.failedOnce ||| 2 ^ n })
  logError 0x61 0x85 0 n 0 true s

/-- CLOCK_MONITOR_WINDOW. -/
def monitorWindow (fails : Nat) (s : State) : State := eachDo (nats (bit fails) 15) (sourceFail fails) s

/-- OSC_TRIM_WINDOW: at most one code; none while the code is held (R430). -/
def trimWindow (step : Int) (ok : Bool) (s : State) : State :=
  s.onPwr fun p =>
    if p.trimHold then p
    else { p with trim := if 0 < step then Nat.min 0xFFF (p.trim + 1) else if step < 0 then p.trim - 1 else p.trim, trimLock := ok }

/-- The number of a PLL among the sources (R431). -/
def pllNum : Pll → Nat
  | .base => 3 | .pcie => 4 | .link => 5 | .die0 => 6 | .die0Mem => 7 | .die1 => 8 | .die1Mem => 9
  | .display p => 10 + p.val | .security => 14

/-- A PLL locks again: its domains leave the fallback. -/
def pllRelocked (n : Nat) (s : State) : State :=
  if s.pwr.locking.contains n then
    s.onPwr fun p => { p with locking := p.locking.filter (· ≠ n), fallback := p.fallback &&& (0x7FFF ^^^ 2 ^ n) }
  else s

/-- Gates as one list: TOP 0 to 11, CLUSTER 12 to 19, CORE 20 to 83 (R432). -/
def gatesOf (top clu lo hi : Nat) : Nat := top + 2 ^ 12 * clu + 2 ^ 20 * lo + 2 ^ 52 * hi

/-- The parent gates of a gate. -/
def gateParents (i : Nat) : List Nat :=
  if i < 12 then [] else if i < 20 then [2 * ((i - 12) / 4)] else [12 + (i - 20) / 8, 1 + 2 * ((i - 20) / 32)]

/-- The compute die of a gate. -/
def gateDie (i : Nat) : Option Nat :=
  if i < 4 then some (i / 2) else if i < 12 then none else if i < 20 then some ((i - 12) / 4) else some ((i - 20) / 32)

/-- Why a write of the gates is refused (R432). -/
def gateRefused (s : State) (old new : Nat) : Bool :=
  (upTo 84).any fun i =>
    let set := !bit old i && bit new i
    let clr := bit old i && !bit new i
    (set && (gateParents i).any fun p => !bit new p) ||
    (clr && (upTo 84).any fun j => bit new j && (gateParents j).contains i) ||
    (clr && decide (4 ≤ i) && decide (i < 8) && decide ((s.pipe (i - 4)).st ≠ .off)) ||
    (set && (gateDie i).any fun d => !s.diePresent d)

/-- A write of a gate register: it is stored, or refused whole. -/
def gateEffect (reg : Nat) (w : RegWr) (s : State) : State :=
  let rd := fun (i : Nat) => (s.raw 0 (0x020000 + 4 * i)).toNat
  let wr := fun (i : Nat) => if i = reg then w.new.toNat else rd i
  if gateRefused s (gatesOf (rd 0) (rd 1) (rd 2) (rd 3)) (gatesOf (wr 0) (wr 1) (wr 2) (wr 3)) then
    (s.setRaw 0 0x020040 (s.raw 0 0x020040 ||| 1)).onPwr fun p => { p with gateReg := reg }
  else storeWr w 0 s

/-! ## The meanings of the power family -/

/-- POLICY_APPLY_DONE (R411). -/
def execPolicyApplyDone (io : HostIO) (s : State) : Out := .next (policyDone io s)

/-- POWER_MEASURE (R413). -/
def execPowerMeasure (m : Measurement) (t : Nat) (s : State) : Out := .next (measureNow m (advanceTo t s))

/-- AVS_FRAME_DONE (R406). -/
def execAvsFrameDone (a : AvsAnswer) (s : State) : Out := .next (frameDone a s)

def groupNum : VGroup → Nat
  | .g0 => 0 | .g1 => 1 | .g2 => 2 | .g3 => 3

/-- AVS_CONFIRM_READ (R407). -/
def execAvsConfirmRead (g : VGroup) (s : State) : Out := .next (confirmRead (groupNum g) s)

/-- AVS_TIMEOUT (R409). -/
def execAvsTimeout (g : VGroup) (s : State) : Out := .next (avsTimeout (groupNum g) s)

/-- PLL_FREQUENCY_MOVE_DONE (R407). -/
def execPllFrequencyMoveDone (g : VGroup) (s : State) : Out := .next (freqMoved (groupNum g) s)

/-- STATS_WRITE (R417). -/
def execStatsWrite (t : Nat) (s : State) : Out := .next (statsNow (advanceTo t s))

/-- SLEEP_ENTRY_DONE (R423). -/
def execSleepEntryDone (s : State) : Out := .next (entryDone s)

/-- IDLE_CLOCK_GATE (R419). -/
def execIdleClockGate (u : GateUnit) (s : State) : Out := .next (clockGate u s)

/-- IDLE_POWER_GATE (R419). -/
def execIdlePowerGate (c : Fin 8) (s : State) : Out := .next (powerGate c.val s)

/-- WAKE_PIN_EVENT (R427). -/
def execWakePinEvent (pin : Fin 8) (level : Bool) (s : State) : Out := .next (wakePin pin.val level s)

/-- LINK_WAKE_EVENT (R427). -/
def execLinkWakeEvent (s : State) : Out := .next (linkWake s)

/-- CLOCK_MONITOR_WINDOW (R431). -/
def execClockMonitorWindow (fails : BitVec 15) (s : State) : Out := .next (monitorWindow fails.toNat s)

/-- OSC_TRIM_WINDOW (R430). -/
def execOscTrimWindow (step : Int) (inTolerance : Bool) (s : State) : Out := .next (trimWindow step inTolerance s)

end Sys2Proof.Machine
end

