-- ==== Sys2Proof/Machine/Resets.lean ====
section
/-! DEFINITION. Guards and parity that fail, retirement of log entries, unit and die resets, links,
crossings, die checks and time copies (R20, R442 to R449, R454 to R462). -/

namespace Sys2Proof.Machine

open Sys2Proof

/-! ## Register guards and parity (R442, R445) -/

/-- BLK_KEY_EXPIRY: an unlock is over 1 ms after it was written. -/
def keyExpiry (b : BlockId) (fn : Nat) (s : State) : State :=
  let t := tblGet 0 s.reg.unlock (guardKey b fn)
  if t ≠ 0 ∧ t - 1 + 1000000 ≤ s.time then setUnlock b fn 0 s else s

/-- SOURCE of an error of a block's registers (R448). Blocks of a master take its ID, the others on a
die its fabric. -/
def blockSource : BlockId → Nat
  | .fe => 0x80 | .mmu => 0x81 | .fen => 0x82 | .sec => 0x83
  | .dsp p => 0x6C + p.val
  | .tns c => 0x40 + c.val
  | .spm c => 0x88 + c.val / 4
  | .l2 d => 0x88 + d.val
  | _ => 0x87

/-- CFG_PARITY: a parity-protected register mismatches, and its writable fields read a value; its block halts. -/
def parityFail (fn off : Nat) (v : Word) (s : State) : State :=
  match blockAt off with
  | none => s
  | some (b, rel) => match regAt b rel with
    | none => s
    | some (d, _) =>
      if !d.parity ∨ off % 4 ≠ 0 ∨ (fn ≠ 0 ∧ !d.vf) ∨ blockOff s b ∨ inMismatch s (regKey fn off) then s
      else
        let v := v &&& (d.rw ||| d.rwk)
        let s := s.onReg fun g => { g with mismatch := g.mismatch ++ [(regKey fn off, v)] }
        logError 0x01 (blockSource b) 0 off v.toNat false s

/-- A write of ERR_RETIRE (R449). -/
def retireEntry (seq : Nat) (s : State) : State :=
  s.onErr fun e => { e with entries := e.entries.filter fun x => x.seq ≠ seq }

/-! ## Crossings (R454 to R456) -/

/-- The source that logs a severed crossing: the surviving side. -/
def crossingSource (x : Nat) : Nat :=
  if x = 0 then 0x8B else if x = 1 then 0x8C else if x = 2 then 0x8A else if x = 3 then 0x86 else if x = 4 then 0x83
  else if x < 16 then 0x87 else if x < 80 then 0x88 + (x - 16) / 32 else if x < 88 then 0x88 + (x - 80) / 4 else 0x87

/-- A crossing becomes SEVERED, once; the count of requests that end with it is a free value, as the
model holds no request in flight. -/
def sever (x : Nat) (s : State) : State :=
  if (s.crossing x).severed then s
  else
    let s := s.setCrossing x { s.crossing x with severed := true }
    let (n, s) := s.fresh
    logError 0x30 (crossingSource x) 0 x n.toNat false s

/-- Both sides are out of reset. -/
def sidesUp (s : State) (x : Nat) : Bool :=
  let dieUp := fun (d : Nat) => decide (tblGet 0 s.rst.dieDown d = 0) && decide (tblGet 0 s.unit.excluded d = 0)
  if x < 2 then dieUp x && !inReset s 8 0
  else if x = 2 then dieUp 0 && dieUp 1 && !inReset s 8 0
  else if x = 3 then s.boot.link
  else if x = 4 then true
  else if x < 16 then !inReset s 5 (x - 5)
  else if x < 80 then dieUp ((x - 16) / 32) && !inReset s 0 (x - 16) && !inReset s 3 ((x - 16) / 8)
  else if x < 88 then dieUp ((x - 80) / 4) && !inReset s 3 (x - 80)
  else !inReset s 6 (x - 88)

/-- What waited for a unit, a link or a halted block is done: writes, reports, retire records, and plans that
are to be armed (R447, R456). -/
def resume (s : State) : State := armRetry (goOn s)

/-- CROSSING_REOPEN: both sides have sent OPEN with the incremented epoch. -/
def reopen (x : Nat) (s : State) : State :=
  if (s.crossing x).severed ∧ sidesUp s x then resume (s.setCrossing x { severed := false, epoch := (s.crossing x).epoch + 1 }) else s

/-! ## Work of a unit -/

/-- Running ops that a test on the entry and the op names. -/
def opsWhere (p : Entry → Op → Bool) (s : State) : List OpRef :=
  s.fe.entries.flatMap fun e =>
    if h : e.ring < 8192 then
      (upTo e.ops.length).filterMap fun i => match e.ops[i]? with
        | some q => if q.phase = .running && p e q then some { ring := ⟨e.ring, h⟩, seq := e.seq, op := i } else none
        | none => none
    else []

/-- The work of masters ends: their ops complete with a status, and what they held is discarded. An op of a
context that is torn down is discarded (R58). -/
def dropWork (ms : List Nat) (st : Nat) (s : State) : State :=
  let gone := opsWhere (fun e q => !ctxRuns s e.ctx && q.units.any fun m => ms.contains m) s
  let s := eachDo ms (fun m s => endOpsOn m st s) (gone.foldl (fun s o => discardOp o s) s)
  let s := s.onFe fun f => { f with copies := f.copies.filter fun c => !ms.contains (dmaMaster c.chan) }
  let s := s.onCmp fun c => { c with runs := c.runs.filter fun r => !ms.contains (cmpMaster r.1) }
  closeOps (shdSweep s)

/-- Passes with a batch at a cluster's front end fail with a status (R309). -/
def dropFronts (c st : Nat) (s : State) : State :=
  closeOps ((s.rnd.passes.filter fun p => p.batches.any fun b => b.cluster = c).foldl (fun s p => passFail p.op st 0 s) s)

/-- A pipe's work ends: its commit fails, and it is OFF. -/
def dropPipe (p : Nat) (s : State) : State :=
  let s := dropPend p s
  let s := match livePend s p with
    | some c => commitFail p c stSevered 0 .deviceLost s
    | none => s
  s.onPipe p fun x => { (pipeOff x) with pend := none }

/-- A plan whose engine is reset (R231): as for a teardown, with DEVICE_LOST. -/
def dropPlan (d : Nat) (s : State) : State := if planActive (s.plan d) then planStop d .failed .deviceLost s else s

/-! ## Unit resets (R457) -/

def offRst : Nat := 0x010000

/-- Masters of a unit. -/
def unitMasters (kind i : Nat) : List Nat :=
  match kind with
  | 0 => [i] | 1 => [0x40 + i] | 2 => [0x48 + i] | 3 => clusterMasters i | 5 => [0x6C + i] | 6 => [0x68 + i] | 7 => [0x70 + i]
  | _ => []

/-- The crossing that joins a unit to one that is not reset with it. -/
def unitCrossing (kind i : Nat) : Option Nat :=
  match kind with
  | 0 => some (16 + i) | 3 => some (80 + i) | 5 => some (5 + i) | 6 => some (88 + i) | 8 => some 2
  | _ => none

/-- Units of a kind, and the die of one. -/
def kindCount (kind : Nat) : Nat := [64, 8, 32, 8, 2, 4, 4, 2, 1].getD kind 0

def kindDie (kind i : Nat) : List Nat :=
  match kind with
  | 0 => [i / 32] | 1 => [i / 4] | 2 => [i / 16] | 3 => [i / 4] | 7 => [i] | 8 => [0, 1]
  | _ => []

/-- Core resets and cluster resets hold the unit until its clear ends. -/
def holdUnit (k : Nat) (s : State) : State := if s.power k = .on ∨ s.power k = .failed then s.setPower k .clearing else s

/-- Steps 1 and 2, and the start of step 3. -/
def unitReset (kind i : Nat) (s : State) : State :=
  let s := if kind = 3 then dropFronts i stSevered s else if kind = 5 then dropPipe i s else if kind = 7 then dropPlan i s else s
  let s := dropWork (unitMasters kind i) stSevered s
  let s := match unitCrossing kind i with
    | some x => sever x s
    | none => s
  if kind = 0 then holdUnit (8 + i) s
  else if kind = 3 then eachDo (upTo 8) (fun j s => holdUnit (8 + 8 * i + j) s) (holdUnit i s)
  else s

/-! ## Die resets (R460 to R462) -/

/-- A master of a die. -/
def onDie (d m : Nat) : Bool := decide (masterDie m = some d)

/-- Contexts that held a unit of a die, or that a master of the die issued a request for (R461). -/
def dieCtxs (s : State) (d : Nat) : List Nat :=
  let ops := s.fe.entries.filterMap fun e =>
    if e.ops.any (fun p => decide (p.phase = .running) && p.units.any (onDie d)) then some e.ctx else none
  let held := (s.tns.runs.filter fun r => r.held.any fun h => onDie d h.1).map (·.ctx)
  let groups := (s.shd.groups.filter fun g => g.core / 32 = d).map (·.ctx)
  let wgs := (s.shd.wgs.filter fun w => w.core / 32 = d).map (·.ctx)
  let tiles := (s.rnd.tiles.filter fun t => t.core / 32 = d).map (·.ctx)
  let fronts := (s.rnd.passes.filter fun p => p.batches.any fun b => b.cluster / 4 = d).map (·.ctx)
  let plan := if planActive (s.plan d) then [(s.plan d).ctx] else []
  let walks := ((s.mmu.walks ++ s.mmu.queue).filter fun w => onDie d w.master).map (·.ctx)
  (ops ++ held ++ groups ++ wgs ++ tiles ++ fronts ++ plan ++ walks).dedup

/-- Registers of a die's blocks go back to their reset values, with their guards and mismatches. -/
def dieRegs (d : Nat) (s : State) : State :=
  let mine := fun (key : Nat) => decide (0x100000 + d * 0x400000 ≤ key) && decide (key < 0x500000 + d * 0x400000)
  let blocks := (allBlocks.filter fun b => mine (blockBase b)).map blockNum
  s.onReg fun g => { g with regs := tblDrop mine g.regs, mismatch := g.mismatch.filter (fun e => !mine e.1), unlock := tblDrop (fun k => blocks.contains (k / 128)) g.unlock, denied := tblDrop (fun k => blocks.contains (k / 128)) g.denied }

/-- Everything that a die's reset takes with it: its work, TLBs, caches and registers. Package memory
keeps its contents; dirty L2 lines are lost. -/
def dieLose (d : Nat) (s : State) : State :=
  let ms := ((upTo 0x72).filter fun m => onDie d m)
  let s := eachDo ((upTo 4).map (4 * d + ·)) (fun c s => dropFronts c stSevered s) (dropWork ms stSevered s)
  let s := (dropPlan d s).setPlan d Reshard.idleEngine
  let s := s.onMmu fun m => { m with utlb := tblDrop (onDie d) m.utlb, dtlb := tblDrop (· = d) m.dtlb, walks := m.walks.filter (fun w => !onDie d w.master), queue := m.queue.filter (fun w => !onDie d w.master) }
  let s := s.onShd fun x => { x with l1 := x.l1.filter fun l => l.core / 32 ≠ d }
  let s := s.onTns fun t => { t with narrow := tblDrop (fun c => c / 4 = d) t.narrow, issue := tblDrop (fun c => c / 4 = d) t.issue, stall := tblDrop (fun c => c / 4 = d) t.stall }
  let s := s.onMem fun m => { m with clearing := m.clearing.filter fun k => (if k < 2048 then k / 1024 else (k - 2048) / 128) ≠ d }
  let s := dieRegs d (s.setL2 d L2.empty)
  eachDo (upTo 74) (fun k s => if unitDie k = d then s.setPower k .off else s) s

/-- A die in use or excluded at run time goes into reset for a cause (R460 steps 1 to 5). -/
def dieReset (d cause : Nat) (s : State) : State :=
  if tblGet 0 s.rst.dieDown d ≠ 0 then s
  else
    let ctxs := (dieCtxs s d).filter fun n => decide (n ≠ 0) && ctxRuns s n
    let fns := (ctxs.map (fnOfCtx s)).dedup.filter (· ≠ 0)
    let s := s.onUnit fun u => { u with diePresent := tblSet 0 u.diePresent d 0, clusterPresent := tblDrop (fun c => c / 4 = d) u.clusterPresent }
    let s := s.onRst fun r => { r with dieDown := tblSet 0 r.dieDown d (1 + cause), marks := r.marks.filter fun m => m.1 ≠ d }
    let s := logError 0x43 0x87 0 (d + 256 * cause) ctxs.length true (s.onErr fun e => { e with dieLost := true })
    let s := eachDo ctxs (fun n s => abortCtx n .deviceLost s) s
    let s := sever 2 (sever d (dieLose d s))
    fns.foldl (fun s f => raiseCritical f s) s

/-- The reason that excludes a die, in the order of R458. -/
def dieReason (r : DieCheck) : Nat :=
  if !r.answers then 1 else if !r.revOk then 2 else if !r.fuseOk then 5 else if !r.digestOk then 3 else if !r.clearOk then 4 else 0

/-- A die's identity as its checks found it; step 4 reloads a microcode of another version. -/
def dieIdentify (d : Nat) (r : DieCheck) (s : State) : State :=
  if !r.answers ∨ !r.revOk ∨ !r.fuseOk then s.onRst fun x => { x with dies := tblSet DieId.none' x.dies d { DieId.none' with rev := if r.answers then r.rev.toNat else 0 } }
  else
    let reload := decide (r.ucodeVer ≠ r.imageVer)
    let s := s.onRst fun x => { x with dies := tblSet DieId.none' x.dies d { rev := r.rev.toNat, ucode := r.imageVer.toNat, reloaded := reload, hash := r.ucodeHash } }
    if reload then logError 0x41 0x87 0 d (r.ucodeVer.toNat + 256 * r.imageVer.toNat) false s else s

/-- A die fails a check: it is excluded (R458, R462). -/
def dieExclude (d reason : Nat) (s : State) : State :=
  logError 0x40 0x87 0 (d + 256 * reason) 0 false (s.onUnit fun u => { u with excluded := tblSet 0 u.excluded d reason })

/-- A die passes: its clusters, cores and L2 are cleared and released, and TOP_PRESENT shows it. -/
def dieEnter (d : Nat) (s : State) : State :=
  let s := s.onUnit fun u =>
    { u with diePresent := tblSet 0 u.diePresent d 1, clusterPresent := (upTo 4).foldl (fun t i => tblSet 0 t (4 * d + i) 1) u.clusterPresent, excluded := tblSet 0 u.excluded d 0 }
  eachDo (upTo 74) (fun k s => if unitDie k = d then unitOn k (unitOff k s) else s) s

/-- DIE_CHECK_DONE: steps 7 to 10 of R460. Masters of the die are released, as by a reset of each. -/
def dieCheck (d : Nat) (r : DieCheck) (s : State) : State :=
  if tblGet 0 s.rst.dieDown d = 0 then s
  else
    let s := dieIdentify d r (s.onRst fun x => { x with dieDown := tblSet 0 x.dieDown d 0, busy := if x.busy = some (4, d) then none else x.busy })
    let reason := dieReason r
    if reason ≠ 0 then resume (dieExclude d reason s)
    else
      let s := eachDo ((upTo 0x72).filter fun m => onDie d m) unpinMaster s
      reopen 2 (reopen d (dieEnter d s))

/-! ## RST_CMD -/

/-- RESULT of a GO: 0 OK, 2 RANGE, 3 STATE (R457). -/
def resetResult (s : State) (kind i : Nat) : Nat :=
  if kindCount kind ≤ i then 2
  else if (kindDie kind i).any (fun d => decide (tblGet 0 s.rst.dieDown d ≠ 0)) then 3
  else if (kindDie kind i).any (fun d => !s.diePresent d) then 2
  else if kind = 4 ∧ tblGet 0 s.rst.dieDown i ≠ 0 then 3
  else 0

/-- A write of RST_CMD; GO is ignored while BUSY. -/
def resetEffect (w : RegWr) (s : State) : State :=
  let s := storeWr w 0x40000000 s
  let kind := bits w.new.toNat 3 0
  let i := bits w.new.toNat 9 4
  if !bit w.new.toNat 30 ∨ s.rst.busy.isSome then s
  else
    let r := resetResult s kind i
    let s := s.onRst fun x => { x with result := r, busy := if r = 0 then some (kind, i) else none }
    if r ≠ 0 then s else if kind = 4 then dieReset i 1 s else unitReset kind i s

/-- The clears that end a unit's reset, with the release of its masters (R384, R457). -/
def resetClears (kind i : Nat) (r : ClearResult) (s : State) : State :=
  if kind = 3 then
    let s := eachDo (clusterMasters i) unpinMaster s
    match r with
    | .pass =>
      let s := clusterClear i s
      eachDo (i :: (upTo 8).map fun j => 8 + 8 * i + j) (fun k s => if s.power k = .clearing then s.setPower k .on else s) (clusterOn i s)
    | r => clearFailed i r (eachDo (i :: (upTo 8).map fun j => 8 + 8 * i + j) (fun k s => if s.power k = .clearing then s.setPower k .failed else s) s)
  else if kind = 0 then
    let s := releaseRun i r s
    if s.power (8 + i) = .clearing then s.setPower (8 + i) (if r = .pass then .on else .failed) else s
  else eachDo (unitMasters kind i) (fun m s => releaseRun m r s) s

/-- RESET_DONE. A die's reset ends with its checks. -/
def resetDone (r : ClearResult) (s : State) : State :=
  match s.rst.busy with
  | none => s
  | some (kind, i) =>
    if kind = 4 then s
    else
      let s := s.onRst fun x => { x with busy := none }
      if kind = 8 then s else resume (resetClears kind i r s)

/-! ## Links (R20) -/

def linkNum : Link → Nat
  | .base d => d.val | .d2d => 2

/-- FLIT_REPLAY: replays of one flit that fail in a row. -/
def flitReplay (x : Nat) (ok : Bool) (s : State) : State :=
  s.onRst fun r => { r with replays := tblSet 0 r.replays x (if ok then 0 else tblGet 0 r.replays x + 1) }

/-- LINK_REPLAY_LIMIT: after 16 failed replays the crossing is SEVERED; a base link takes its die with
it (R460 cause 2). -/
def replayLimit (x : Nat) (s : State) : State :=
  if tblGet 0 s.rst.replays x < 16 then s
  else
    let s := sever x (s.onRst fun r => { r with replays := tblSet 0 r.replays x 0 })
    if x < 2 then dieReset x 2 s else s

/-! ## Time (R459) -/

/-- A signed value in 8 bits, saturating. -/
def sat8 (i : Int) : Int := max (-128) (min 127 i)

/-- A die's copy is compared with the pulse. -/
def dieSync (d copy : Nat) (s : State) : State :=
  let skew : Int := (copy : Int) - s.time
  let s := s.onRst fun r => { r with skew := tblSet 0 r.skew d (sat8 skew) }
  if skew.natAbs ≤ 4 then s
  else
    let s := s.onRst fun r => { r with resyncs := Nat.min 255 (r.resyncs + 1), marks := (r.marks ++ [(d, s.time)]).filter fun m => decide (s.time < m.2 + 1000000000) }
    let s := logError 0x42 0x87 0 d (skew % 2 ^ 64).toNat false s
    if 3 < (s.rst.marks.filter fun m => m.1 = d).length then dieReset d 3 s else s

/-- TIME_SYNC_PULSE: die 0 relays the pulse to die 1, unless it is excluded. -/
def timeSync (copy0 copy1 : Nat) (s : State) : State :=
  let relay := decide (tblGet 0 s.unit.excluded 0 ≠ 0) || (s.diePresent 0 && !(s.crossing 2).severed)
  let s1 := if s.diePresent 0 ∧ !(s.crossing 0).severed then dieSync 0 copy0 s else s
  if s1.diePresent 1 ∧ relay then dieSync 1 copy1 s1 else s1

/-! ## The meanings -/

/-- BLK_KEY_EXPIRY (R442). -/
def execBlkKeyExpiry (fn : Fn) (b : BlockId) (t : Nat) (s : State) : Out := .next (keyExpiry b fn.val (advanceTo t s))

/-- CFG_PARITY (R445). -/
def execCfgParity (fn : Fn) (off : Nat) (v : Word) (s : State) : Out := .next (parityFail fn.val off v s)

/-- RESET_DONE (R457). -/
def execResetDone (r : ClearResult) (s : State) : Out := .next (resetDone r s)

/-- CROSSING_REOPEN (R456). -/
def execCrossingReopen (x : Fin 92) (s : State) : Out := .next (reopen x.val s)

/-- FLIT_REPLAY (R20). -/
def execFlitReplay (l : Link) (ok : Bool) (s : State) : Out := .next (flitReplay (linkNum l) ok s)

/-- LINK_REPLAY_LIMIT (R20). -/
def execLinkReplayLimit (l : Link) (s : State) : Out := .next (replayLimit (linkNum l) s)

/-- DIE_CHECK_DONE (R460). -/
def execDieCheckDone (d : Fin 2) (r : DieCheck) (s : State) : Out := .next (dieCheck d.val r s)

/-- TIME_SYNC_PULSE (R459). -/
def execTimeSyncPulse (t copy0 copy1 : Nat) (s : State) : Out := .next (timeSync copy0 copy1 (advanceTo t s))

end Sys2Proof.Machine
end

