-- ==== Sys2Proof/Machine/Boot.lean ====
section
/-! DEFINITION. Bring-up: straps, the boot sequence, device resets, the verified image, and boundary
scan (R388, R389, R465 to R477). -/

namespace Sys2Proof.Machine

open Sys2Proof

/-! ## Device resets (R466, R472, R473) -/

/-- Registers of the slow domain, which the always-on block keeps (R473). -/
def slowReg (key : Nat) : Bool := decide (key = offWakeCfg) || decide (key = offWakeSts)

/-- Everything but the always-on block goes back to its reset value; a fall of PWROK takes that too.
Package memory and every key are lost, host memory is not the device's. A lifecycle transition that is
in the fuses takes effect (R386). What the device has already sent, the pins' levels, the fuses, and
the model's own counters outlast the reset. -/
def deviceReset (full : Bool) (s : State) : State :=
  let r := State.reset
  let p := s.pwr
  { r with
    mem := { r.mem with cells := s.mem.cells.filter (fun c => decide (2 ^ 48 ≤ c.1)), hostErr := s.mem.hostErr, bars := s.mem.bars },
    mmu := { r.mmu with serial := s.mmu.serial },
    reg := { r.reg with regs := if full then [] else tblDrop (fun k => !slowReg k) s.reg.regs, msgs := s.reg.msgs },
    sec := { Sec.cold with
      lcBurn := s.sec.lcBurn, lcNow := s.sec.lcBurn, rmaOk := !full && s.sec.rmaOk, svnBurn := s.sec.svnBurn,
      nonces := s.sec.nonces, sessionNo := s.sec.sessionNo, replies := s.sec.replies },
    dsp := { r.dsp with hpd := s.dsp.hpd },
    pwr := if full then { Power.cold with levels := p.levels }
      else { Power.cold with volt := p.volt, levels := p.levels, trim := p.trim, trimRef := p.trimRef, trimLock := p.trimLock, trimHold := p.trimHold, rosWake := p.rosWake, rosTrim := p.rosTrim },
    boot := { Boot.dark with perst := s.boot.perst, straps := if full then 0 else s.boot.straps, boots := s.boot.boots },
    tap := s.tap, mon := { Monitor.idle with replies := s.mon.replies },
    free := s.free, pending := s.pending }

/-- The base and security PLLs lock (R471 step 3). -/
def startPlls (s : State) : State := (s.onPwr fun p => { p with locking := [3, 14] }).onBoot fun b => { b with step := .pll }

/-- R473 from step 3, with the link kept by a function-level reset. -/
def warmReset (link : Bool) (s : State) : State := startPlls ((deviceReset false s).onBoot fun b => { b with link })

/-- R473 for PERST_N: from step 5, where its deassertion is awaited. -/
def perstReset (s : State) : State := (deviceReset false s).onBoot fun b => { b with step := .up, stage := .romWait }

/-- PWROK falls, or a rail browns out (R466). -/
def powerLost (s : State) : State := deviceReset true s

/-! ## The boot sequence (R471) -/

/-- PWROK_RISE: the straps are latched; the trim takes the reference that they declare (R430). -/
def pwrokRise (straps : Nat) (s : State) : State :=
  if s.boot.step ≠ .dark then s
  else (s.onBoot fun b => { b with step := .xtal, straps }).onPwr fun p => { p with trimRef := bit straps 0 }

/-- XTAL_STABLE, or REFCLK detected. -/
def xtalStable (s : State) : State := if s.boot.step = .xtal then startPlls s else s

/-- EXTEST holds the device in reset while it is current (R476). -/
def extesting (s : State) : Bool := decide (s.tap.ir = 3)

/-- PLL_LOCK_DONE: an output is released. Bring-up goes on once the base and security PLLs have
locked. -/
def pllLock (n : Nat) (s : State) : State :=
  if extesting s then s
  else
    let s := pllRelocked n s
    if s.boot.step = .pll ∧ !s.pwr.locking.contains 3 ∧ !s.pwr.locking.contains 14 then s.onBoot fun b => { b with step := .rom } else s

/-- ROM_SELFTEST_DONE; a failure is a failed boot (R389). -/
def romDone (pass : Bool) (s : State) : State :=
  if s.boot.step ≠ .rom then s
  else s.onBoot fun b => { b with step := .up, stage := if pass then .romWait else .bootFail, result := if pass then 0 else 8 }

/-- PCIE_LINK_TRAINED. -/
def linkTrained (s : State) : State :=
  if s.boot.step = .up ∧ !s.boot.perst ∧ !s.boot.link then s.onBoot fun b => { b with link := true } else s

/-- PERST_N asserts: after step 5 it is a device reset. -/
def perstFall (s : State) : State :=
  if s.boot.perst then s
  else
    let s := s.onBoot fun b => { b with perst := true }
    if s.boot.link then perstReset s else s

/-- A write of MON_CMD (R472). -/
def loadEffect (w : RegWr) (s : State) : State :=
  if bit w.val.toNat 0 ∧ s.boot.step = .up ∧ (s.boot.stage = .romWait ∨ s.boot.stage = .bootFail) then
    s.onBoot fun b => { b with stage := .verifying, tries := Nat.min 255 (b.tries + 1) }
  else s

/-! ## The image (R388, R389, R475) -/

/-- Key of the ROM for a slot: production pairs 0 to 3, development pairs 4 to 7. -/
def imageKey (s : State) (slot : Nat) : Nat := if lifecycle s = 0 then 4 + slot else slot

/-- The checks of the header and signatures in order: 0, or the code of the first that fails. -/
def imageCheck (s : State) (b : List Byte) : Nat :=
  let slot := fld b 6 2
  let svn := fld b 8 4
  let flags := fld b 12 4
  let head := b.take 128
  if fld b 0 4 ≠ 0x4E4F4D42 ∨ fld b 4 2 ≠ 1 ∨ 3 < slot ∨ 63 < svn ∨ 4 ≤ flags ∨ fld b 16 8 + 4096 ≠ b.length ∨ !zeros b 72 56 ∨ !zeros b 3533 563 ∨
      (bit flags 0 ∧ lifecycle s ≠ 0) then 2
  else if lifecycle s ≠ 0 ∧ bit Config.keyRevoke.toNat slot then 7
  else if svn < svnMin s then 6
  else if !Config.ecdsaVerifies (imageKey s slot) (Config.sha384 head) (slice b 128 96) then 4
  else if !Config.mldsaVerifies (imageKey s slot) head (slice b 224 3309) then 5
  else if Config.sha384 (b.drop 4096) ≠ slice b 24 48 then 3
  else 0

/-- A booted image: COMMIT_SVN raises the fused minimum, a new alias key is derived, and the firmware
raises G3 to P0 (R389, R392, R471 step 7). -/
def bootImage (b : List Byte) (s : State) : State :=
  let svn := fld b 8 4
  let s := if bit (fld b 12 4) 1 then s.onSec fun x => { x with svnBurn := some (Nat.max svn (svnMin s)) } else s
  setGoal 3 0 (s.onBoot fun x => { x with stage := .fwInit, result := 0, boots := x.boots + 1, svn, fwHash := slice b 24 48 })

/-- IMAGE_VERIFY_DONE. A ROM whose self-tests failed boots nothing. -/
def verifyDone (io : HostIO) (s : State) : State :=
  if s.boot.stage ≠ .verifying then s
  else
    let s := applyIO io s
    let fail := fun (r : Nat) (s : State) => s.onBoot fun x => { x with stage := .bootFail, result := r }
    let base := s.rawBase 0 0x0F0004 0x0F0008
    let n := (s.raw 0 0x0F000C).toNat
    if s.boot.result = 8 then fail 8 s
    else if n ≤ 4096 ∨ 16777216 < n ∨ base < 2 ^ 48 then fail 2 s
    else match devRead base n s with
      | .wait => s
      | .failed => fail 1 s
      | .done (b, s) =>
        let r := imageCheck s b
        if r = 0 then bootImage b s else fail r s

/-- FW_READY: the checks of R458 on both dies, then TOP_PRESENT and the address map of R24. -/
def fwReady (d0 d1 : DieCheck) (s : State) : State :=
  if s.boot.stage ≠ .fwInit then s
  else
    let one := fun (d : Nat) (r : DieCheck) (s : State) =>
      let s := dieIdentify d r s
      if dieReason r = 0 then dieEnter d s else dieExclude d (dieReason r) s
    let s := one 1 d1 (one 0 d0 s)
    let on := [0, 1].filter fun d => s.diePresent d
    let s := s.onUnit fun u => { u with booted := on, degraded := decide (on.length = 1), memGib8 := 16 * on.length }
    s.onBoot fun b => { b with stage := .ready }

/-! ## Boundary scan (R476, R477) -/

/-- The instruction changes; when EXTEST ends, R473 applies. -/
def tapLoad (code : Byte) (dr : Nat) (s : State) : State :=
  let leaves := extesting s && decide (code ≠ 3)
  let s := s.onTap fun t => { t with ir := code, dr }
  if leaves && decide (s.boot.step ≠ .dark) then warmReset false s else s

/-- The identification register. -/
def idcode : Nat := Config.baseRev.toNat * 2 ^ 28 + 0x9640 * 2 ^ 12 + 0x5D3 * 2 + 1

/-- The boundary register, TDI first: 18 input cells, six pins with input, output and enable cells, and
the four HPD inputs. What the output and enable cells capture is a free value. -/
def boundary (pins : Nat) (out : Nat) : Nat :=
  let inputs := (upTo 18).map (bit pins)
  let driven := (upTo 6).flatMap fun i => [bit pins (18 + i), bit out (2 * i), bit out (2 * i + 1)]
  let hpd := (upTo 4).map fun i => bit pins (24 + i)
  (inputs ++ driven ++ hpd).foldl (fun n b => 2 * n + b2n b) 0

/-- EXTEST: the device is in reset while the instruction is current. -/
def extestDo (s : State) : State :=
  let s := (s.onTap fun t => { t with ir := 3 })
  if s.boot.step = .dark ∨ s.boot.step = .xtal then s else warmReset false s

/-- A code of the BYPASS instruction, or one that no instruction has. -/
def bypassCode (c : Nat) : Bool := decide (c = 0) || (decide (3 < c) && decide (c < 0x80)) || decide (c = 0xFF)

/-! ## The meanings -/

/-- PLL_LOCK_DONE (R429, R431, R471). -/
def execPllLockDone (p : Pll) (s : State) : Out := .next (pllLock (pllNum p) s)

/-- PWROK_RISE (R467, R471). -/
def execPwrokRise (straps : BitVec 6) (s : State) : Out := .next (pwrokRise straps.toNat s)

/-- PWROK_FALL (R466). -/
def execPwrokFall (s : State) : Out := .next (powerLost s)

/-- BROWNOUT (R466): a compute-die rail takes its die with it. -/
def execBrownout (r : Rail) (s : State) : Out :=
  .next (match r with
    | .vddBase | .vddAon => powerLost s
    | .die d => if s.boot.stage = .ready ∧ s.diePresent d.val then dieReset d.val 2 (sever d.val s) else s)

/-- XTAL_STABLE (R471). -/
def execXtalStable (s : State) : Out := .next (xtalStable s)

/-- ROM_SELFTEST_DONE (R471). -/
def execRomSelftestDone (pass : Bool) (s : State) : Out := .next (romDone pass s)

/-- PERST_N_DEASSERT (R471). -/
def execPerstDeassert (s : State) : Out := .next (s.onBoot fun b => { b with perst := false })

/-- PERST_N_ASSERT (R473). -/
def execPerstAssert (s : State) : Out := .next (perstFall s)

/-- PCIE_LINK_TRAINED (R471). -/
def execPcieLinkTrained (s : State) : Out := .next (linkTrained s)

/-- PF_FLR (R473). -/
def execPfFlr (s : State) : Out := .next (if s.boot.link then warmReset true s else s)

/-- IMAGE_VERIFY_DONE (R389, R475). -/
def execImageVerifyDone (io : HostIO) (s : State) : Out := .next (verifyDone io s)

/-- FW_READY (R458, R471). -/
def execFwReady (d0 d1 : DieCheck) (s : State) : Out := .next (fwReady d0 d1 s)

/-- TAP_RESET (R476). -/
def execTapReset (s : State) : Out := .next (tapLoad 1 idcode s)

/-- IDCODE (R476). -/
def execTapIdcode (s : State) : Out := .next (tapLoad 1 idcode s)

/-- SAMPLE/PRELOAD (R476, R477). -/
def execTapSamplePreload (pins : BitVec 28) (preload : BitVec 40) (s : State) : Out :=
  let (v, s) := s.fresh
  .next (tapLoad 2 (boundary pins.toNat v.toNat) (s.onTap fun t => { t with preload }))

/-- EXTEST (R476). -/
def execTapExtest (s : State) : Out := .next (extestDo s)

/-- BYPASS (R476). -/
def execTapBypass (code : Byte) (s : State) : Out := .next (if bypassCode code.toNat then tapLoad code 0 s else s)

/-- A Basmoson instruction (R476): below level 3 it acts as BYPASS; at level 3 the register that it
selects is a free value. -/
def execTapVendorInstr (code : Byte) (s : State) : Out :=
  .next (if code.toNat < 0x80 ∨ code.toNat = 0xFF then s
    else if debugLevel s < 3 then tapLoad code 0 s
    else
      let (v, s) := s.fresh
      tapLoad code v.toNat s)

end Sys2Proof.Machine
end

