-- ==== Sys2Proof/Machine/Fences.lean ====
section
/-! DEFINITION. The meanings of the fence family: messages applied, events, scans, the commands of
FEN_CMD, fence pages and notify slots (R100 to R112, R447). -/

namespace Sys2Proof.Machine

open Sys2Proof

/-! ## The fence table -/

/-- The oldest message is applied if it is of the kind named. A halted FEN applies none. -/
def applyHead (isSignal : Bool) (s : State) : State :=
  match s.fen.queue with
  | [] => s
  | m :: rest =>
    if s.halted .fen ∨ m.what.isLeft ≠ isSignal then s
    else errorHooks (applyMsg m (s.onFen fun f => { f with queue := rest }))

/-- A value event that the spacing held back is written (R109). -/
def spacingExpiry (k : Nat) (s : State) : State :=
  let f := s.fence k
  if f.evHeld ∧ f.st = .active ∧ f.notify ∧ (f.evLast.any fun t => decide (t + 1000 ≤ s.time)) then fenceEvent k 0 s else s

/-- A scan of every fence (R104). -/
def timeoutScan (s : State) : State :=
  if s.halted .fen then s else errorHooks ((s.fen.fences.map (·.1)).foldl (fun s k => scanFence k s) s)

/-! ## Ranges (R106) -/

/-- Keys of the fences of a range register's value. -/
def rangeFences (shared : Bool) (v : Nat) (k : Nat) : Bool :=
  let n := if shared then k - 65536 else k / 64
  (decide (65536 ≤ k) == shared) && decide (bits v 9 0 ≤ n) && decide (n < bits v 9 0 + bits v 20 10)

/-- A write of FEN_FN_LOCAL_f or FEN_FN_SHARED_f. -/
def fnFenEffect (shared : Bool) (f : Nat) (w : RegWr) (s : State) : State :=
  if !w.changes 0x1FFFFF then clearWr w s
  else
    let first := bits w.new.toNat 9 0
    let count := bits w.new.toNat 20 10
    let busy := s.fen.fences.any fun e => decide (e.2.st ≠ .free) && (rangeFences shared w.new.toNat e.1 || rangeFences shared w.old.toNat e.1)
    let bad := rangeClash s (if shared then 0x080200 else 0x080100) 9 10 20 f first count || decide (1024 < first + count) ||
      (decide (f = 0) && decide (first ≠ 0)) || busy
    if bad then refuseWr w refusedBit s else storeWr w 0 s

/-- A write of FEN_EVQ_LO or FEN_EVQ_HI also zeroes the queue's counts (R109). -/
def evqBaseEffect (w : RegWr) (s : State) : State := (storeWr w 0 s).setEvq (agentFn w.agent) QueueCnt.zero

/-! ## Commands (R107, R108) -/

def offFenCmd : Nat := 0x080018

/-- What each OP does. -/
def fenOp (fn op : Nat) : Option (Nat → State → Nat × State) :=
  match op with
  | 1 => some (fenDoAlloc fn) | 2 => some fenDoFree | 3 => some (fenDoRead fn) | 4 => some (fenDoSetError fn)
  | 5 => some (fenDoImport fn) | 6 => some (fenDoUnimport fn) | _ => none

/-- FEN_STS.BUSY: a command of the function waits in a halted FEN (R107, R447). -/
def fenBusy (s : State) (fn : Nat) : Bool := s.reg.held.any fun h => decide (h.1 = fn) && decide (h.2.1 = offFenCmd)

/-- A write of FEN_CMD. A halted FEN holds it; a further one is ignored while it is BUSY (R107, R447). -/
def fenceCommand (fn op : Nat) (s : State) : State :=
  if !barOpen s fn then s
  else hostWrite fn offFenCmd op (fun s =>
    match fenOp fn op with
    | none => s
    | some f => if s.halted .fen then (if fenBusy s fn then s else holdWrite fn offFenCmd op s) else errorHooks (fenCommand fn f s)) s

/-! ## Fence pages (R111, R112) -/

/-- Offset of a page offset of shared fence n among the held writes. -/
def pageOff (n off : Nat) : Nat := 2 ^ 27 + n * 4096 + off

/-- A message of a fence page joins those on their way. A halted FEN takes 4,096 of them; beyond that
the host link holds them (R447). -/
def pageMessage (fn n off : Nat) (v : Nat) (what : Quad ⊕ Reason) (s : State) : State :=
  let k := sharedKey n
  if s.halted .fen ∧ 4096 ≤ s.fen.queue.length then holdWrite fn (pageOff n off) v s
  else s.onFen fun f => { f with queue := f.queue ++ [{ fence := k, alloc := (s.fence k).alloc, what, page := true }] }

/-- A notify slot's CTRL: RESULT and REASON cleared, then armed or cancelled; an armed slot whose
condition holds fires at once. -/
def slotCtrl (k i : Nat) (v : Nat) (s : State) : State :=
  let f := s.fence k
  fireSlots k (s.setFence k { f with slots := tblSet NotifySlot.empty f.slots i { f.slot i with armed := bit v 0, result := 0, reason := 0 } })

/-- THRESHOLD, ADDR and DATA of a slot, unless it is armed. -/
def slotField (k i j : Nat) (v : Nat) (s : State) : State :=
  let f := s.fence k
  let n := f.slot i
  if n.armed then s
  else
    let n := if j = 0 then { n with threshold := q64 v } else if j = 1 then { n with addr := q64 v } else { n with data := q64 v }
    s.setFence k { f with slots := tblSet NotifySlot.empty f.slots i n }

/-- An aligned 8-byte write of a function at an offset of a fence page. -/
def pageWrite (fn n off v : Nat) (s : State) : State :=
  if !barOpen s fn then s
  else hostWrite fn (pageOff n off) v (fun s =>
    let k := sharedKey n
    if !fnHasShared s fn n ∨ (s.fence k).st = .free then s
    else if off = 0 then pageMessage fn n off v (.inl (q64 v)) s
    else if off = 8 then pageMessage fn n off v (.inr .aborted) s
    else if off < 0x100 ∨ 0x200 ≤ off ∨ off % 8 ≠ 0 then s
    else if s.halted .fen then holdWrite fn (pageOff n off) v s
    else
      let i := (off - 0x100) / 32
      let j := off % 32 / 8
      if j = 3 then slotCtrl k i v s else slotField k i j v s) s

def fieldNum : NotifyField → Nat
  | .threshold => 0 | .addr => 1 | .data => 2

/-! ## The meanings -/

/-- FENCE_SIGNAL_APPLY (R100). -/
def execFenceSignalApply (t : Nat) (s : State) : Out := .next (applyHead true (advanceTo t s))

/-- FENCE_ERROR_APPLY (R101). -/
def execFenceErrorApply (t : Nat) (s : State) : Out := .next (applyHead false (advanceTo t s))

/-- FENCE_EVENT_SPACING_EXPIRY (R109). -/
def execFenceEventSpacingExpiry (k : Fin 65536) (t : Nat) (s : State) : Out := .next (spacingExpiry k.val (advanceTo t s))

/-- FENCE_TIMEOUT_SCAN (R104). -/
def execFenceTimeoutScan (t : Nat) (s : State) : Out := .next (timeoutScan (advanceTo t s))

/-- ALLOC (R108). -/
def execFenAlloc (fn : Fn) (s : State) : Out := .next (fenceCommand fn.val 1 s)

/-- FREE (R108). -/
def execFenFree (fn : Fn) (s : State) : Out := .next (fenceCommand fn.val 2 s)

/-- READ (R108). -/
def execFenRead (fn : Fn) (s : State) : Out := .next (fenceCommand fn.val 3 s)

/-- SET_ERROR (R108). -/
def execFenSetError (fn : Fn) (s : State) : Out := .next (fenceCommand fn.val 4 s)

/-- IMPORT (R108, R110). -/
def execFenImport (fn : Fn) (s : State) : Out := .next (fenceCommand fn.val 5 s)

/-- UNIMPORT (R108, R110). -/
def execFenUnimport (fn : Fn) (s : State) : Out := .next (fenceCommand fn.val 6 s)

/-- FENCE_PAGE_SIGNAL (R111); only aligned 8-byte accesses take effect. -/
def execFencePageSignal (fn : Fn) (n : Fin 1024) (size : Nat) (v : Quad) (s : State) : Out :=
  .next (if size = 8 then pageWrite fn.val n.val 0 v.toNat s else s)

/-- FENCE_PAGE_ERROR (R111). -/
def execFencePageError (fn : Fn) (n : Fin 1024) (size : Nat) (v : Quad) (s : State) : Out :=
  .next (if size = 8 then pageWrite fn.val n.val 8 v.toNat s else s)

/-- NOTIFY_CTRL_WRITE (R112). -/
def execNotifyCtrlWrite (fn : Fn) (n : Fin 1024) (i : Fin 8) (v : Quad) (s : State) : Out :=
  .next (pageWrite fn.val n.val (0x100 + 32 * i.val + 24) v.toNat s)

/-- NOTIFY_FIELD_WRITE (R112). -/
def execNotifyFieldWrite (fn : Fn) (n : Fin 1024) (i : Fin 8) (j : NotifyField) (v : Quad) (s : State) : Out :=
  .next (pageWrite fn.val n.val (0x100 + 32 * i.val + 8 * fieldNum j) v.toNat s)

end Sys2Proof.Machine
end

