-- ==== Sys2Proof/Machine/RegWrite.lean ====
section
/-! DEFINITION. What a write of a BAR0 register does at its block (R439), with its arrival (R426,
R437, R438, R471), and the meaning of every command that is a register write. -/

namespace Sys2Proof.Machine

open Sys2Proof

/-! ## Each block's own writes -/

/-- A write of a function's range register; while the function's TDI is locked its range keeps
(R396). -/
def lockedRange (f : Nat) (mask : Word) (w : RegWr) (eff : State → State) (s : State) : State :=
  if w.changes mask ∧ tdiLocked s f then refuseWr w refusedBit s else eff s

/-- OP and CTX of MMU_CTX_CMD (R39). -/
def ctxCmdWrite (fn v : Nat) (s : State) : State :=
  let n := bits v 8 0
  match bits v 14 12 with
  | 1 => ctxCommand fn n 1 (createDo fn n) s
  | 2 => ctxCommand fn n 2 (destroyDo fn n) s
  | 3 => ctxCommand fn n 3 (abortDo fn n) s
  | 4 => ctxCommand fn n 4 (releaseDo fn n) s
  | 5 => ctxCommand fn n 5 (reloadDo fn n) s
  | _ => s

/-- A write of the MMU (R34, R39, R47, R54, R297). The placement table and the FBC registers ignore
writes once locked (R47). -/
def mmuEffect (rel : Nat) (w : RegWr) (s : State) : State :=
  if rel = 0x10 then ctxCmdWrite (agentFn w.agent) w.val.toNat s
  else if rel = 0x28 then invEffect w s
  else if 0x100 ≤ rel ∧ rel < 0x200 then
    let f := (rel - 0x100) / 4
    lockedRange f 0xFFDFF w (fnCtxEffect f w) s
  else if rel = 0xD00 then placeEffect w s
  else if 0xC00 ≤ rel ∧ s.mem.locked then s
  else storeWr w 0 s

/-- A write of FE_RING_CMD (R64). -/
def ringCmdWrite (fn v : Nat) (s : State) : State :=
  match bits v 1 0 with
  | 1 => ringCommand fn 1 (enableDo fn) s
  | 2 => ringCommand fn 2 (disableDo fn) s
  | 3 => ringCommand fn 3 (setPrioDo fn) s
  | _ => s

/-- A write of the front end (R61 to R64, R257, R258, R260). A limit of 0 is stored as 1. -/
def feEffect (rel : Nat) (w : RegWr) (s : State) : State :=
  if rel = 0x18 then ringCmdWrite (agentFn w.agent) w.val.toNat s
  else if rel = 0x40 then pollCtlEffect w s
  else if 0x100 ≤ rel ∧ rel < 0x200 then
    let f := (rel - 0x100) / 4
    lockedRange f 0x7FFFFFF w (fnRingEffect f w) s
  else if rel = 0x300 ∨ rel = 0x304 then parkqBaseEffect w s
  else if rel = 0x314 then parkCommand (agentFn w.agent) (bits w.val.toNat 1 0) s
  else if rel = 0x320 then s.setRaw (agentFn w.agent) w.off (if w.new = 0 then 1 else w.new)
  else storeWr w 0 s

/-- A write of the fence block (R106 to R109). -/
def fenEffect (rel : Nat) (w : RegWr) (s : State) : State :=
  if rel = 0x18 then fenceCommand (agentFn w.agent) (bits w.val.toNat 2 0) s
  else if rel = 0x20 ∨ rel = 0x24 then evqBaseEffect w s
  else if 0x100 ≤ rel ∧ rel < 0x300 then
    let shared := decide (0x200 ≤ rel)
    let f := (rel - (if shared then 0x200 else 0x100)) / 4
    lockedRange f 0x1FFFFF w (fnFenEffect shared f w) s
  else storeWr w 0 s

/-- A write of domain 3 is held until the next slow-clock edge; held ones of W1C bits add up (R444). -/
def slowWrite (w : RegWr) (s : State) : State :=
  if w.off = offWakeCfg then s.onReg fun g => { g with slowHeld := tblSet 0 g.slowHeld w.off (w.new.toNat + 1) }
  else
    let old := w32 (tblGet 0 s.reg.slowHeld w.off - 1)
    let v := old ||| w.w1c
    if v = 0 then s else s.onReg fun g => { g with slowHeld := tblSet 0 g.slowHeld w.off (v.toNat + 1) }

/-- A write of the PWR block (R411, R422, R444). -/
def pwrEffect (rel : Nat) (w : RegWr) (s : State) : State :=
  if rel = 0 then sleepEffect w s
  else if rel = 0x18 then policyEffect w s
  else if rel = 0x20 ∨ rel = 0x24 then slowWrite w s
  else storeWr w 0 s

/-- A write of the ERR block (R448, R451, R452). LOST and the count clear together. -/
def errEffect (rel : Nat) (w : RegWr) (s : State) : State :=
  if rel = 8 then
    if bit w.w1c.toNat 31 then s.onErr fun e => { e with lost := false, overflow := 0 } else s
  else if rel = 0xC then (if w.val = 0 then s else retireEntry w.val.toNat s)
  else if rel = 0x10 then
    s.onErr fun e => { e with escalated := e.escalated && !bit w.w1c.toNat 2, dieLost := e.dieLost && !bit w.w1c.toNat 3 }
  else if rel = 0x14 then
    s.onReg fun g => { g with parityRefused := g.parityRefused && !bit w.w1c.toNat 30 }
  else storeWr w 0 s

/-- A write of the security engine (R384, R386, R401). -/
def secEffect (rel : Nat) (w : RegWr) (s : State) : State :=
  if rel = 4 then lcEffect w s
  else if rel = 8 then secCfgEffect w s
  else if rel = 0x40 then pinEffect w s
  else storeWr w 0 s

/-- A write of a display pipe's registers (R316, R355, R356). -/
def dspEffect (p rel : Nat) (w : RegWr) (s : State) : State :=
  if rel = 0 then dspCtlEffect p w s
  else if rel = 0x1C then cntClrEffect p w s
  else if rel = 0x80 then auxCtlEffect p w s
  else storeWr w 0 s

/-- A write of an L2 block (R213, R214). -/
def l2Effect (d rel : Nat) (w : RegWr) (s : State) : State :=
  if rel = 4 then l2LockEffect w s
  else if rel = 0x1C then l2OpEffect d w s
  else storeWr w 0 s

/-- What a block does with a write that it accepts. -/
def regEffect (b : BlockId) (rel : Nat) (w : RegWr) (s : State) : State :=
  match b with
  | .mmu => mmuEffect rel w s
  | .fe => feEffect rel w s
  | .fen => fenEffect rel w s
  | .pwr => pwrEffect rel w s
  | .err => errEffect rel w s
  | .sec => secEffect rel w s
  | .dsp p => dspEffect p.val rel w s
  | .l2 d => l2Effect d.val rel w s
  | .rst => resetEffect w s
  | .clk => if rel < 0x10 then gateEffect (rel / 4) w s else storeWr w 0 s
  | .mon => if rel = 0x10 then loadEffect w s else storeWr w 0 s
  | .spm c => if rel = 0 then spmArbEffect w s else if rel = 0x18 then regionClearEffect c.val w s else storeWr w 0 s
  | .rsh d => if rel = 8 then rshEffect d.val w s else storeWr w 0 s
  | .top | .cmp | .hst | .tns _ | .shd _ => storeWr w 0 s

/-! ## A write's way to its block -/

/-- Blocks that the host reaches before STAGE READY (R471). -/
def romBlock : BlockId → Bool
  | .top | .sec | .mon | .hst => true
  | _ => false

/-- A 4-byte write that has reached its block (R436 to R446). -/
def landWrite (b : BlockId) (rel agent off : Nat) (val : Word) (s : State) : State :=
  if b = .hst ∧ 0x8000 ≤ rel then msixWrite (agentFn agent) off val s
  else if rel = 0xFF0 then blkKeyDo b agent val s
  else match stage agent off val s with
    | .done s => s
    | .run w s => regEffect b (w.off - blockBase b) w s
    | .rewritten _ s => s

/-- An aligned 4-byte write of an agent. A virtual function's BAR0 has 1 MiB (R436). -/
def regCore (agent off : Nat) (val : Word) (s : State) : State :=
  match blockAt off with
  | none => s
  | some (b, rel) =>
    let fn := agentFn agent
    if agent = monitorAgent then landWrite b rel agent off val s
    else if fn ≠ 0 ∧ 2 ^ 20 ≤ off then s
    else if !(if romBlock b then fnArrives s fn else barOpen s fn) then s
    else hostWrite fn off val.toNat (landWrite b rel agent off val) s

/-- A held event goes on: a pin command, a fence page, a nudge page or a register write. -/
def heldEvent (e : Nat × Nat × Nat) (s : State) : State :=
  let (fn, off, v) := e
  if 2 ^ 28 ≤ off then
    if s.halted .sec then holdWrite fn off v s else pinCommand (bits v 7 0) (bit v 8) (bit v 9) s
  else if 2 ^ 27 ≤ off then pageWrite fn ((off - 2 ^ 27) / 4096) ((off - 2 ^ 27) % 4096) v s
  else if 2 ^ 26 ≤ off then nudgeDo fn (off - 2 ^ 26) 0 8 (q64 v) s
  else regCore fn off (w32 v) s

/-- What waited for a halted block or for an exit goes on in its order (R426, R447). -/
def replayHeld (s : State) : State :=
  let l := s.reg.held
  l.foldl (fun s e => heldEvent e s) (s.onReg fun g => { g with held := [] })

/-- Pin records that waited for the SEC block are written (R447). -/
def replayRecs (s : State) : State :=
  if s.halted .sec then s
  else
    let l := s.sec.heldRecs
    l.foldl (fun s e => storePinRec e.1 e.2 s) (s.onSec fun x => { x with heldRecs := [] })

/-- Queued walks in the order in which they start: those of the display pipes, then the others, each in
arrival order (R52, R337). -/
def walkOrder (q : List Walk) : List Walk :=
  let shows := fun (w : Walk) => decide (0x6C ≤ w.master) && decide (w.master < 0x70)
  q.filter shows ++ q.filter fun w => !shows w

/-- Queued walks start while fewer than 32 run and the MMU is not halted (R52, R447). -/
def promoteWalks (s : State) : State :=
  if s.halted .mmu then s
  else s.onMmu fun x =>
    let q := walkOrder x.queue
    { x with walks := x.walks ++ q.take (32 - x.walks.length), queue := q.drop (32 - x.walks.length) }

/-- A 4-byte write. The rewrite that ends a block's mismatch lets what waited for the block go on. -/
def regWrite4 (agent off : Nat) (val : Word) (s : State) : State :=
  let t := regCore agent off val s
  if t.reg.mismatch.length < s.reg.mismatch.length then resume (promoteWalks (replayHeld (replayRecs t))) else t

/-- A write of a register by size: 4 bytes, or 8 as two of 4, the lower first; others and misaligned
ones are ignored (R437). -/
def regWrite (fn off size : Nat) (v : Quad) (s : State) : State :=
  if size = 4 ∧ off % 4 = 0 then regWrite4 fn off (v.setWidth 32) s
  else if size = 8 ∧ off % 8 = 0 then
    regWrite4 fn (off + 4) ((v >>> 32).setWidth 32) (regWrite4 fn off (v.setWidth 32) s)
  else s

/-- A write through an alias of the register at a primary offset (R440). -/
def aliasWrite (delta fn off size : Nat) (v : Quad) (s : State) : State :=
  match blockAt off with
  | some (_, rel) => if rel < 0x1000 then regWrite fn (off + delta) size v s else s
  | none => s

/-- An exit ends, and what waited for it goes on (R425, R426). -/
def exitFinish (s : State) : State :=
  let t := exitDone s
  if s.pwr.sleep = .exiting ∧ awake t then replayHeld t else t

/-! ## The meanings -/

/-- REGISTER_WRITE (R437, R439). -/
def execRegisterWrite (fn : Fn) (off size : Nat) (v : Quad) (s : State) : Out := .next (regWrite fn.val off size v s)

/-- REG_SET_ALIAS (R440). -/
def execRegSetBits (fn : Fn) (off size : Nat) (v : Quad) (s : State) : Out := .next (aliasWrite 0x1000 fn.val off size v s)

/-- REG_CLEAR_ALIAS (R440). -/
def execRegClearBits (fn : Fn) (off size : Nat) (v : Quad) (s : State) : Out := .next (aliasWrite 0x2000 fn.val off size v s)

/-- REG_TOGGLE_ALIAS (R440). -/
def execRegToggleBits (fn : Fn) (off size : Nat) (v : Quad) (s : State) : Out := .next (aliasWrite 0x3000 fn.val off size v s)

/-- BLK_KEY_WRITE (R442). -/
def execBlkKeyWrite (fn : Fn) (b : BlockId) (v : Word) (s : State) : Out := .next (regWrite4 fn.val (blockBase b + 0xFF0) v s)

/-- SLOW_REG_WRITE (R444): PWR_WAKE_CFG or PWR_WAKE_STS, at a primary offset or an alias. -/
def execSlowRegWrite (fn : Fn) (off : Nat) (v : Word) (s : State) : Out :=
  .next (if (off % 0x1000 = 0x20 ∨ off % 0x1000 = 0x24) ∧ 0x030000 ≤ off ∧ off < 0x034000 then regWrite4 fn.val off v s else s)

/-- MMU_FN_CTX_WRITE (R35). -/
def execMmuFnCtxWrite (fn f : Fn) (v : Word) (s : State) : Out := .next (regWrite4 fn.val (0x070100 + 4 * f.val) v s)

/-- APPLY of MMU_PLACE_CTL (R48). -/
def execPlaceApply (fn : Fn) (v : Word) (s : State) : Out := .next (regWrite4 fn.val 0x070D00 (v ||| 1) s)

/-- INVALIDATE_GO (R484). -/
def execInvalidateGo (fn : Fn) (v : Word) (s : State) : Out := .next (regWrite4 fn.val offInvCtl (v ||| 0x40000000) s)

/-- FE_FN_RING_WRITE (R62). -/
def execFeFnRingWrite (fn f : Fn) (v : Word) (s : State) : Out := .next (regWrite4 fn.val (0x060100 + 4 * f.val) v s)

/-- FEN_FN_LOCAL_WRITE (R106). -/
def execFenFnLocalWrite (fn f : Fn) (v : Word) (s : State) : Out := .next (regWrite4 fn.val (0x080100 + 4 * f.val) v s)

/-- FEN_FN_SHARED_WRITE (R106). -/
def execFenFnSharedWrite (fn f : Fn) (v : Word) (s : State) : Out := .next (regWrite4 fn.val (0x080200 + 4 * f.val) v s)

/-- FEN_EVQ_BASE_WRITE (R109). -/
def execFenEvqBaseWrite (fn : Fn) (hi : Bool) (v : Word) (s : State) : Out :=
  .next (regWrite4 fn.val (if hi then 0x080024 else 0x080020) v s)

/-- NARROW_WRITE (R191). -/
def execNarrowWrite (fn : Fn) (c : Fin 8) (v : Word) (s : State) : Out := .next (regWrite4 fn.val (offTnsCtl c.val) v s)

/-- SPM_ARB_WRITE (R196). -/
def execSpmArbWrite (fn : Fn) (c : Fin 8) (v : Word) (s : State) : Out := .next (regWrite4 fn.val (clusterBase c + 0x20000) v s)

/-- CLEAR of SPM_RGN_CMD (R198). -/
def execRegionClear (fn : Fn) (c : Fin 8) (v : Word) (s : State) : Out :=
  .next (regWrite4 fn.val (clusterBase c + 0x20018) (v ||| 1) s)

/-- L2_LOCK_WRITE (R213). -/
def execL2LockWrite (fn : Fn) (d : Fin 2) (v : Word) (s : State) : Out := .next (regWrite4 fn.val (dieBase d + 4) v s)

/-- A GO of L2_OP_CTL with an operation. -/
def l2Go (fn : Fn) (d : Fin 2) (op v : Word) (s : State) : State :=
  regWrite4 fn.val (dieBase d + 0x1C) ((v &&& 0xFFFFFFFC) ||| op ||| 0x40000000) s

/-- L2_CLEAN (R214). -/
def execL2Clean (fn : Fn) (d : Fin 2) (v : Word) (s : State) : Out := .next (l2Go fn d 1 v s)

/-- L2_CLEAN_INV (R214). -/
def execL2CleanInv (fn : Fn) (d : Fin 2) (v : Word) (s : State) : Out := .next (l2Go fn d 2 v s)

/-- LOCK_LOAD (R214). -/
def execL2LockLoad (fn : Fn) (d : Fin 2) (v : Word) (s : State) : Out := .next (l2Go fn d 3 v s)

/-- ARM of RSH_CTL (R224). -/
def execRshArm (fn : Fn) (d : Fin 2) (v : Word) (s : State) : Out :=
  .next (regWrite4 fn.val (rshOff d.val + 8) ((v &&& 0x1FF) ||| 0x200) s)

/-- ABORT of RSH_CTL (R231). -/
def execRshAbort (fn : Fn) (d : Fin 2) (v : Word) (s : State) : Out :=
  .next (regWrite4 fn.val (rshOff d.val + 8) ((v &&& 0x1FF) ||| 0x400) s)

/-- FE_PARKQ_BASE_WRITE (R257). -/
def execFeParkqBaseWrite (fn : Fn) (hi : Bool) (v : Word) (s : State) : Out :=
  .next (regWrite4 fn.val (if hi then 0x060304 else 0x060300) v s)

/-- DSP_CTL_WRITE (R316). -/
def execDspCtlWrite (fn : Fn) (p : Fin 4) (v : Word) (s : State) : Out := .next (regWrite4 fn.val (dspOff p.val) v s)

/-- DSP_CNT_CLR (R355). -/
def execDspCntClr (fn : Fn) (p : Fin 4) (v : Word) (s : State) : Out := .next (regWrite4 fn.val (dspOff p.val + 0x1C) v s)

/-- GO of DSP_AUX_CTL (R356). -/
def execAuxGo (fn : Fn) (p : Fin 4) (v : Word) (s : State) : Out :=
  .next (regWrite4 fn.val (dspOff p.val + 0x80) (v ||| 0x40000000) s)

/-- PIN of SEC_PIN_CMD (R384). -/
def execSecPin (fn : Fn) (v : Word) (t : Nat) (s : State) : Out :=
  .next (regWrite4 fn.val offPinCmd ((v &&& 0xFF) ||| 0x200) (advanceTo t s))

/-- RELEASE of SEC_PIN_CMD (R384). -/
def execSecRelease (fn : Fn) (v : Word) (s : State) : Out := .next (regWrite4 fn.val offPinCmd ((v &&& 0xFF) ||| 0x100) s)

/-- SEC_LC_CTL with TARGET SECURED (R386). -/
def execLcSecured (fn : Fn) (v : Word) (s : State) : Out := .next (regWrite4 fn.val 0x050004 ((v &&& 0xFFFFFFFC) ||| 2) s)

/-- SEC_LC_CTL with TARGET RMA (R386). -/
def execLcRma (fn : Fn) (v : Word) (s : State) : Out := .next (regWrite4 fn.val 0x050004 (v ||| 3) s)

/-- SEC_CFG_WRITE (R401). -/
def execSecCfgWrite (fn : Fn) (v : Word) (s : State) : Out := .next (regWrite4 fn.val 0x050008 v s)

/-- APPLY of PWR_POLICY_CMD (R411). -/
def execPolicyApply (fn : Fn) (v : Word) (s : State) : Out := .next (regWrite4 fn.val 0x030018 (v ||| 1) s)

/-- GO of PWR_CTL with TARGET S3 (R422). -/
def execSleepS3 (fn : Fn) (v : Word) (s : State) : Out := .next (regWrite4 fn.val 0x030000 ((v &&& 0xFFFFFFF0) ||| 0xB) s)

/-- GO of PWR_CTL with TARGET S4 (R422). -/
def execSleepS4 (fn : Fn) (v : Word) (s : State) : Out := .next (regWrite4 fn.val 0x030000 ((v &&& 0xFFFFFFF0) ||| 0xC) s)

/-- SLEEP_EXIT_DONE (R425, R426). -/
def execSleepExitDone (t : Nat) (s : State) : Out := .next (exitFinish (advanceTo t s))

def gateRegNum : GateReg → Nat
  | .top => 0 | .clu => 1 | .coreLo => 2 | .coreHi => 3

/-- CLK_GATE_WRITE (R432, R433). -/
def execClkGateWrite (fn : Fn) (r : GateReg) (v : Word) (s : State) : Out :=
  .next (regWrite4 fn.val (0x020000 + 4 * gateRegNum r) v s)

/-- ERR_RETIRE (R452). -/
def execErrRetire (fn : Fn) (v : Word) (s : State) : Out := .next (regWrite4 fn.val 0x04000C v s)

/-- A GO of RST_CMD (R457). -/
def resetGo (kind : Nat) (fn : Fn) (index : BitVec 6) (s : State) : State :=
  regWrite4 fn.val offRst (w32 (kind + 16 * index.toNat + 2 ^ 30)) s

/-- RESET_CORE (R457). -/
def execResetCore (fn : Fn) (i : BitVec 6) (s : State) : Out := .next (resetGo 0 fn i s)

/-- RESET_TENSOR_ARRAY (R457). -/
def execResetTensorArray (fn : Fn) (i : BitVec 6) (s : State) : Out := .next (resetGo 1 fn i s)

/-- RESET_TENSOR_DMA_CHANNEL (R457). -/
def execResetTensorDmaChannel (fn : Fn) (i : BitVec 6) (s : State) : Out := .next (resetGo 2 fn i s)

/-- RESET_CLUSTER (R457). -/
def execResetCluster (fn : Fn) (i : BitVec 6) (s : State) : Out := .next (resetGo 3 fn i s)

/-- RESET_COMPUTE_DIE (R457, R458). -/
def execResetComputeDie (fn : Fn) (i : BitVec 6) (s : State) : Out := .next (resetGo 4 fn i s)

/-- RESET_DISPLAY_PIPE (R457). -/
def execResetDisplayPipe (fn : Fn) (i : BitVec 6) (s : State) : Out := .next (resetGo 5 fn i s)

/-- RESET_COMPRESSION_CHANNEL (R457). -/
def execResetCompressionChannel (fn : Fn) (i : BitVec 6) (s : State) : Out := .next (resetGo 6 fn i s)

/-- RESET_RESHARD_ENGINE (R457). -/
def execResetReshardEngine (fn : Fn) (i : BitVec 6) (s : State) : Out := .next (resetGo 7 fn i s)

/-- RESET_DIE_TO_DIE_LINK (R457). -/
def execResetDieToDieLink (fn : Fn) (i : BitVec 6) (s : State) : Out := .next (resetGo 8 fn i s)

/-- LOAD of MON_CMD (R471 step 6). -/
def execImgLoad (fn : Fn) (v : Word) (s : State) : Out := .next (regWrite4 fn.val 0x0F0010 (v ||| 1) s)

end Sys2Proof.Machine
end

