-- ==== Sys2Proof/Machine/ReadReg.lean ====
section
/-! DEFINITION. What a read of BAR0 returns (R436, R437, R440): the stored fields of a register, and
the read-only fields that each block shows of its state. -/

namespace Sys2Proof.Machine

open Sys2Proof

/-! ## Fields -/

/-- Fields of a register as (lowest bit, value), laid over the stored bits. -/
def packFields (l : List (Nat × Nat)) : Word := l.foldl (fun w e => w ||| w32 (e.2 * 2 ^ e.1)) 0

def topShown (rel : Nat) (s : State) : Word :=
  if rel = 0x10 then w32 (topPresent s)
  else if rel = 0x20 then w32 s.time
  else if rel = 0x24 then tblGet 0 s.reg.latch 0x24
  else if rel = 0x30 then w32 s.boot.straps
  else if rel = 0x40 ∨ rel = 0x44 then
    let d := (rel - 0x40) / 4
    let x := tblGet DieId.none' s.rst.dies d
    packFields [(0, x.rev), (8, x.ucode), (16, b2n x.reloaded), (17, tblGet 0 s.unit.excluded d)]
  else if rel = 0x50 then
    let k := fun (d : Nat) => ((sat8 (tblGet 0 s.rst.skew d)) % 256).toNat
    packFields [(0, k 0), (8, k 1), (16, Nat.min 255 s.rst.resyncs)]
  else 0

def ctxStateNum : CtxState → Nat
  | .free => 0 | .active => 1 | .draining => 2 | .aborting => 3 | .retired => 4

/-- MMU_CTX_STATE_n, MMU_PLACE_CTL.LOCKED and the invalidation's BUSY and RESULT. A virtual function
reads only its own RESULT of a context outside its range (R38). -/
def mmuShown (fn rel : Nat) (s : State) : Word :=
  if rel = 0x28 then packFields [(31, b2n (invBusy s fn))]
  else if rel = 0x2C then w32 (tblGet 0 s.mmu.invRes fn)
  else if 0x400 ≤ rel ∧ rel < 0xC00 then
    let n := (rel - 0x400) / 4
    let c := s.ctx n
    let res := (4, tblGet 0 s.mmu.results (fn * 512 + n))
    if fn ≠ 0 ∧ !fnHasCtx s fn n then packFields [res]
    else packFields [(0, ctxStateNum c.state), (3, b2n c.cmd.isSome), res, (16, c.gen.toNat)]
  else if rel = 0xD00 then packFields [(1, b2n s.mem.locked)]
  else 0

/-- Parks of a function, by tag. -/
def parkCount (s : State) (fn : Nat) : Nat :=
  ((s.shd.groups.filterMap fun g => if fnOfCtx s g.ctx = fn then g.park.map (·.tag) else none).dedup).length

/-- FE_RING_STS, FE_RING_PROD and FE_RING_CONS of the selected ring (R63), and FE_PARK_STS. -/
def feShown (fn rel : Nat) (s : State) : Word :=
  let r := ringSelected s fn
  let x := s.ring r
  let own := fnHasRing s fn r
  if rel = 0x1C then
    let res := (4, tblGet 0 s.fe.results fn)
    if own then packFields [(0, x.state.num), (3, b2n x.cmd.isSome), res, (8, x.halt)] else packFields [res]
  else if rel = 0x20 then (if own then x.prod.setWidth 32 else 0)
  else if rel = 0x24 then (if own then x.cons.setWidth 32 else 0)
  else if rel = 0x318 then packFields [(0, tblGet 0 s.shd.parkRes fn), (16, parkCount s fn)]
  else 0

def fenceStNum : FenceState → Nat
  | .free => 0 | .active => 1 | .error => 2 | .releasing => 3

/-- FEN_STS (R107). -/
def fenShown (fn rel : Nat) (s : State) : Word :=
  if rel = 0x1C then
    let res := (4, tblGet 0 s.fen.results fn)
    let busy := (31, b2n (fenBusy s fn))
    match fenSelected s fn with
    | none => packFields [res, busy]
    | some k =>
      let f := s.fence k
      packFields [(0, fenceStNum f.st), res, busy, (8, (f.reason.map Reason.num).getD 0), (16, f.imports.length)]
  else 0

/-- Does an op hold an array: the array's master is in use. -/
def arrayRun (s : State) (c : Nat) : Option TensorRun := s.tns.runs.find? fun r => r.held.any fun h => h.1 = 0x40 + c

/-- EPI_BUSY: the model drains a tile with the command that ends it, so while an array holds a tile of a
TENSOR_MMA whether the epilogue is at work is a free value (R158). -/
def epiBusy (s : State) (c : Nat) : Bool := match (arrayRun s c).bind fun r => s.op? r.op with
  | some (_, p) => decide (p.opcode = 0x30) && Config.epilogueBusy c s.time
  | none => false

/-- TNS_STS and the counters. -/
def tnsShown (c rel : Nat) (s : State) : Word :=
  if rel = 4 then
    let r := arrayRun s c
    packFields [(0, b2n r.isSome), (1, tblGet 0 s.tns.narrow c), (2, b2n (s.isPinned (0x40 + c))), (3, b2n (epiBusy s c)), (8, (r.map (·.ctx)).getD 0)]
  else if rel = 0x10 then (tblGet 0 s.tns.issue c).setWidth 32
  else if rel = 0x18 then (tblGet 0 s.tns.stall c).setWidth 32
  else if rel = 0x14 ∨ rel = 0x1C then tblGet 0 s.reg.latch (offTnsCtl c + rel)
  else 0

def repairValid (w : BitVec 16) : Nat := b2n (bit w.toNat 7) + b2n (bit w.toNat 15)

/-- SPM_RGN_STS, SPM_CLEAR_STS and the repair map. -/
def spmShown (c rel : Nat) (s : State) : Word :=
  if rel = 0x14 then
    match regionSelected s c with
    | none => 0
    | some r => packFields [(0, s.owner (regionKey c r)), (31, b2n (s.mem.clearing.contains (regionKey c r)))]
  else if rel = 0x20 then
    let f := tblGet 0 s.unit.clearFail c
    let failed := decide (s.power c = .failed) || decide (f ≠ 0)
    packFields [(0, b2n (decide (s.power c = .clearing))), (1, b2n failed), (2, if f = 0 ∨ 256 ≤ f then 0 else f - 1), (9, b2n (decide (256 ≤ f)))]
  else if 0x400 ≤ rel ∧ rel < 0x600 then (Config.repairWord c ((rel - 0x400) / 4)).setWidth 32
  else if rel = 0x600 then
    let l := (upTo 128).map fun n => repairValid (Config.repairWord c n)
    packFields [(0, (l.filter (· ≠ 0)).length), (8, l.sum)]
  else 0

/-- SHD_STS_k. -/
def shdShown (c rel : Nat) (s : State) : Word :=
  let k := 8 * c + rel / 4
  let gs := coreGroups s k
  let free := ((upTo 4).map fun e => 64 - engineUsed s k e).foldl Nat.min 64
  let used := ((tileAllocs s k).map fun a => a.2.1).sum
  packFields [(0, gs.length), (8, (gs.filter fun g => g.park.isSome).length), (15, b2n (s.isPinned k)),
    (16, b2n (decide (s.power (8 + k) ≠ .on))), (17, free), (24, Nat.min 255 (256 - used))]

def l2Shown (d rel : Nat) (s : State) : Word :=
  let x := s.l2 d
  if rel = 0x1C then packFields [(31, b2n x.op.isSome)]
  else if rel = 0x20 then w32 x.skipped
  else if 0x100 ≤ rel ∧ rel < 0x140 then (tblGet lfsrReset x.lfsr ((rel - 0x100) / 4)).setWidth 32
  else 0

def planStateNum : PlanState → Nat
  | .idle => 0 | .armed => 1 | .running => 2 | .done => 3 | .failed => 4 | .aborted => 5

/-- RSH_STS, RSH_DONE and RSH_FAILED. -/
def rshShown (d rel : Nat) (s : State) : Word :=
  let x := s.plan d
  if rel = 0xC then
    packFields [(0, planStateNum x.state), (4, x.result), (8, x.begun.length), (16, b2n (s.isPinned (rshMaster d)))]
  else if rel = 0x10 then w32 x.ended.length
  else if rel = 0x14 then w32 x.failed
  else 0

/-- The status registers of a pipe. While it scans out, DSP_STS shows the copies made at the start of the line (R355). -/
def dspShown (p rel : Nat) (s : State) : Word :=
  let x := s.pipe p
  if rel = 4 then packFields [(0, if scanning s p then x.shown else stsNow s p), (16, x.line)]
  else if rel = 8 then x.frame.setWidth 32
  else if rel = 0xC then tblGet 0 s.reg.latch (dspOff p + 0xC)
  else if rel = 0x10 then packFields [(0, x.underrun), (8, x.fetchFault), (16, x.warpLate), (24, x.poseTorn)]
  else if rel = 0x14 then packFields [(0, x.protBlocked), (8, x.wbFault)]
  else if rel = 0x18 then packFields ((upTo 8).map fun l => (4 * l, x.late.getD l 0))
  else if rel = 0x80 then packFields [(31, b2n x.aux.isSome)]
  else if rel = 0x84 then w32 x.auxRes
  else 0

/-- CMP_CH_STS_n. -/
def cmpShown (rel : Nat) (s : State) : Word :=
  let ch := rel / 4
  let pin := (1, b2n (s.isPinned (cmpMaster ch)))
  match s.cmp.runs.find? fun r => r.1 = ch with
  | none => packFields [pin]
  | some r => match s.op? r.2 with
    | none => packFields [pin]
    | some (e, p) => packFields [(0, 1), pin, (2, e.ctx), (11, jDir p.body % 2), (12, jFormat p.body % 4)]

/-- The 24 bytes of a pin record (R383). -/
def pinRecBytes (p : PinRec) : List Byte :=
  natLe 1 p.cause ++ natLe 1 p.causes ++ natLe 2 p.ctx ++ natLe 2 p.key ++ natLe 2 p.count ++ natLe 8 p.addr ++ natLe 8 p.t

def secShown (rel : Nat) (s : State) : Word :=
  if rel = 0 then w32 (secLc s)
  else if 0x10 ≤ rel ∧ rel < 0x20 then
    packFields ((upTo 32).map fun i => let m := 32 * ((rel - 0x10) / 4) + i; (i, b2n (s.isPinned m || s.sec.logged.contains m)))
  else if 0x24 ≤ rel ∧ rel < 0x3C then
    match pinRecOf s (s.rawBits 0 0x050020 7 0) with
    | some p => w32 (fld (pinRecBytes p) (rel - 0x24) 4)
    | none => 0
  else if rel = 0x40 then packFields [(10, s.sec.pinRes), (31, b2n s.sec.pinBusy.isSome)]
  else if rel = 0x50 then packFields [(0, s.boot.result), (8, s.boot.tries), (16, svnMin s)]
  else 0

/-- STATE of PWR_STS: S1 with a unit's clock gated, S2 with a cluster in use power-gated (R419). -/
def sleepNum (s : State) : Nat :=
  match s.pwr.sleep with
  | .s3 => 3 | .s4 => 4 | .entering => 5 | .exiting => 6
  | .s0 => if (upTo 8).any fun c => s.clusterPresent c && decide (s.power c = .off) then 2
    else if s.pwr.gated ≠ [] then 1 else 0

def pwrSts (s : State) : Word := packFields [(0, sleepNum s), (4, s.pwr.slpRes), (8, s.pwr.wakeSrc), (12, s.pwr.wakePin)]

def plvlWord (s : State) : Word :=
  packFields [(0, plvlBits s), (16, ((upTo 4).map fun g => b2n (decide (seqOf s g ≠ .idle)) * 2 ^ g).sum), (24, s.pwr.throttle)]

def pwrShown (rel : Nat) (s : State) : Word :=
  if rel = 4 then pwrSts s
  else if rel = 8 then plvlWord s
  else if rel = 0x18 then packFields [(4, s.pwr.polRes), (31, b2n s.pwr.polBusy)]
  else 0

def clkShown (rel : Nat) (s : State) : Word :=
  if rel = 0x40 then packFields [(1, s.pwr.gateReg)]
  else if rel = 0x50 then packFields [(16, s.pwr.fallback)]
  else if rel = 0x60 then w32 s.pwr.rosTrim
  else 0

/-- The 32 bytes of a log entry (R448). -/
def logBytes (e : LogEntry) : List Byte :=
  natLe 8 e.t ++ natLe 4 e.seq ++ natLe 1 e.code ++ natLe 1 e.cls ++ natLe 1 e.src ++ natLe 1 e.flags ++ natLe 2 e.ctx ++
    natLe 2 0 ++ natLe 4 e.info0 ++ natLe 8 e.info1

/-- A word of the error log; a free slot has SEQ 0, and its other bytes read 0. -/
def logWord (rel : Nat) (s : State) : Word :=
  let i := (rel - 0x400) / 32
  match s.err.entries.find? fun e => e.slot = i with
  | some e => w32 (fld (logBytes e) (rel % 32) 4)
  | none => 0

def errShown (rel : Nat) (s : State) : Word :=
  if rel = 4 then packFields [(0, s.err.entries.length), (8, ((upTo 7).map fun c => b2n (classHeld s c) * 2 ^ c).sum)]
  else if rel = 8 then packFields [(0, s.err.overflow), (31, b2n s.err.lost)]
  else if rel = 0x10 then
    packFields [(0, b2n (decide (s.rawBits 0 offMonSts 14 0 ≠ 0))), (1, b2n s.err.thermal2), (2, b2n s.err.escalated), (3, b2n s.err.dieLost)]
  else if rel = 0x14 then
    let offs := s.reg.mismatch.map fun e => e.1 % 2 ^ 26
    packFields [(0, match offs with
      | [] => 0
      | o :: os => os.foldl Nat.min o), (30, b2n s.reg.parityRefused), (31, b2n (decide (offs ≠ [])))]
  else if rel = 0x18 then
    packFields [(0, b2n (s.crossing 0).severed), (1, b2n (s.crossing 1).severed), (2, b2n (s.crossing 2).severed)]
  else 0

def stageNum : BootStage → Nat
  | .romWait => 0 | .verifying => 1 | .bootFail => 2 | .fwInit => 3 | .ready => 4

def monSts (s : State) : Word := packFields [(0, stageNum s.boot.stage), (8, s.boot.result)]

/-! ## A read -/

/-- What a block shows over a register's stored fields. -/
def shown (b : BlockId) (fn rel : Nat) (s : State) : Word :=
  match b with
  | .top => topShown rel s
  | .mmu => mmuShown fn rel s
  | .fe => feShown fn rel s
  | .fen => fenShown fn rel s
  | .tns c => tnsShown c.val rel s
  | .spm c => spmShown c.val rel s
  | .shd c => shdShown c.val rel s
  | .l2 d => l2Shown d.val rel s
  | .rsh d => rshShown d.val rel s
  | .dsp p => dspShown p.val rel s
  | .cmp => cmpShown rel s
  | .sec => secShown rel s
  | .pwr => pwrShown rel s
  | .clk => clkShown rel s
  | .err => errShown rel s
  | .rst => if rel = 0 then packFields [(12, s.rst.result), (31, b2n s.rst.busy.isSome)] else 0
  | .mon => if rel = 0 then monSts s else 0
  | .hst => 0

/-- BLK_KEY as the reading agent sees it (R442). -/
def keyWord (b : BlockId) (agent : Nat) (s : State) : Word :=
  packFields [(0, b2n (unlocked s b agent)), (1, tblGet 0 s.reg.denied (guardKey b agent))]

/-- A register by its primary offset; one in mismatch reads the value that it holds (R445). -/
def regWord (b : BlockId) (prim agent : Nat) (s : State) : Word :=
  let fn := agentFn agent
  match regAt b prim with
  | none => 0
  | some (d, _) =>
    if fn ≠ 0 ∧ !d.vf then 0
    else
      let off := blockBase b + prim
      let m := d.rw ||| d.rwk
      let raw := match s.reg.mismatch.find? fun e => e.1 = regKey fn off with
        | some e => (s.raw fn off &&& ~~~m) ||| (e.2 &&& m)
        | none => s.raw fn off
      if off = offWakeSts then w32 s.pwr.rosWake else raw ||| shown b fn prim s

/-- SPM_CLEAR_STS is read while its cluster clears and after its clear has failed, for it shows them (R204); any
other register of a block that is off, in reset or clearing reads 0 (R437). DEDUCED (log 95). -/
def readsZero (s : State) (b : BlockId) (prim : Nat) : Bool :=
  blockOff s b && !(match b with
    | .spm c => decide (prim = 0x20) && (decide (s.power c.val = .clearing) || decide (s.power c.val = .failed))
    | _ => false)

/-- A word of HST: the MSI-X table, and the pending bits at 0x00E_4000. -/
def hstWord (rel fn : Nat) (s : State) : Word :=
  if 0x8000 ≤ rel then s.raw fn (0x0E0000 + rel)
  else if 0x4000 ≤ rel ∧ rel < 0x4100 then
    packFields ((upTo 32).map fun i => (i, tblGet 0 s.reg.pba (fn * 2048 + 8 * (rel - 0x4000) + i)))
  else 0

/-- An aligned 4-byte read of an agent (R436, R437, R440). -/
def readReg (agent off : Nat) (s : State) : Word :=
  let fn := agentFn agent
  match blockAt off with
  | none => 0
  | some (b, rel) =>
    if b = .hst then hstWord rel fn s
    else if fn ≠ 0 ∧ 2 ^ 20 ≤ off then 0
    else match windowOf rel with
      | none => 0
      | some (_, prim) =>
        if readsZero s b prim then 0
        else if prim = 0xFF0 then (if fn = 0 then keyWord b agent s else 0)
        else if b = .err ∧ 0x400 ≤ prim ∧ prim < 0x800 then (if fn = 0 then logWord prim s else 0)
        else regWord b prim agent s

/-! ## Nudge pages and fence pages (R74, R111, R112) -/

/-- A function's read of size bytes at an offset of BAR2: the counts and STATE of the page's ring. -/
def nudgeRead (fn off size : Nat) (s : State) : Nat :=
  let r := off / 4096
  let x := s.ring r
  let v := if off % 4096 / 8 = 0 then x.prod.toNat else if off % 4096 / 8 = 1 then x.cons.toNat else if off % 4096 / 8 = 2 then x.state.num else 0
  if barOpen s fn ∧ fnHasRing s fn r ∧ off % size = 0 then fld (natLe 8 v) (off % 8) size else 0

/-- What a notify slot reads. -/
def slotRead (x : NotifySlot) (j : Nat) : Nat :=
  if j = 0 then x.threshold.toNat else if j = 1 then x.addr.toNat else if j = 2 then x.data.toNat
  else b2n x.armed + 256 * x.result + 65536 * x.reason

/-- A function's read of size bytes at an offset of BAR4: only aligned 8-byte reads of a page of its own. -/
def pageRead (fn off size : Nat) (s : State) : Nat :=
  let n := off / 4096
  let o := off % 4096
  let f := s.fence (sharedKey n)
  if size ≠ 8 ∨ off % 8 ≠ 0 ∨ !barOpen s fn ∨ !fnHasShared s fn n ∨ f.st = .free then 0
  else if o = 0 then f.value.toNat
  else if o = 8 then fenceStNum f.st + 256 * (f.reason.map Reason.num).getD 0
  else if o = 0x10 then f.ignored.toNat
  else if o < 0x100 ∨ 0x200 ≤ o then 0
  else slotRead (f.slot ((o - 0x100) / 32)) (o % 32 / 8)

/-! ## Latches (R437) -/

/-- The latched register of a counter: the offset of its _HI register, its value, and its block. -/
def latchOf (s : State) : CounterReg → Nat × Nat × BlockId
  | .topTime => (0x24, s.time, .top)
  | .tnsIssue c => (offTnsCtl c.val + 0x14, (tblGet 0 s.tns.issue c.val).toNat, .tns c)
  | .tnsStall c => (offTnsCtl c.val + 0x1C, (tblGet 0 s.tns.stall c.val).toNat, .tns c)
  | .dspFrame p => (dspOff p.val + 0xC, (s.pipe p.val).frame.toNat, .dsp p)

/-- A read of a _LO register latches its _HI register, unless its block is off. -/
def setLatch (r : CounterReg) (s : State) : State :=
  let (off, v, b) := latchOf s r
  if blockOff s b then s else s.onReg fun g => { g with latch := tblSet 0 g.latch off (w32 (v / 2 ^ 32)) }

/-- A function's read. A virtual function has TOP_TIME_LO only. -/
def latchRead (fn : Nat) (r : CounterReg) (s : State) : State :=
  if (fn ≠ 0 ∧ r ≠ .topTime) ∨ !(if r = .topTime then fnArrives s fn else barOpen s fn) then s else setLatch r s

/-- The counters whose _LO register a read latches, with its offset. -/
def counterAt (off : Nat) : Option CounterReg :=
  if off = 0x20 then some .topTime
  else match (List.finRange 8).find? fun c => off = offTnsCtl c.val + 0x10 with
    | some c => some (.tnsIssue c)
    | none => match (List.finRange 8).find? fun c => off = offTnsCtl c.val + 0x18 with
      | some c => some (.tnsStall c)
      | none => ((List.finRange 4).find? fun p => off = dspOff p.val + 8).map .dspFrame

/-- A word that a function reads. Before STAGE READY only the blocks of the ROM are mapped (R471). -/
def hostWord (fn off : Nat) (s : State) : Nat :=
  match blockAt off with
  | none => 0
  | some (b, _) => if if romBlock b then fnArrives s fn else barOpen s fn then (readReg fn off s).toNat else 0

/-- A function's read of size bytes of BAR0: 8 bytes are read as two words, the lower first, 1 or 2 are bytes of
their word, and a read that is not aligned gives 0 (R437). -/
def regRead (fn off size : Nat) (s : State) : Nat :=
  if !([1, 2, 4, 8].contains size) ∨ off % size ≠ 0 then 0
  else if size = 8 then
    let t := match counterAt off with
      | some r => latchRead fn r s
      | none => s
    hostWord fn off s + 2 ^ 32 * hostWord fn (off + 4) t
  else fld (natLe 4 (hostWord fn (off - off % 4) s)) (off % 4) size

/-- COUNTER_LO_READ (R437). -/
def execCounterLoRead (fn : Fn) (r : CounterReg) (s : State) : Out := .next (latchRead fn.val r s)

end Sys2Proof.Machine
end

