-- ==== Sys2Proof/Machine/Monitor.lean ====
section
/-! DEFINITION. The Staquin monitor: its commands, levels and replies (R478 to R481). -/

namespace Sys2Proof.Machine

open Sys2Proof

/-! ## Replies -/

def monReply (code : MonCode) (vals : List Nat) (s : State) : State :=
  s.onMon fun m => { m with replies := m.replies ++ [{ vals, code }] }

/-- The boot ROM runs, and no firmware (R471). -/
def inRom (s : State) : Bool :=
  decide (s.boot.stage = .romWait) || decide (s.boot.stage = .verifying) || decide (s.boot.stage = .bootFail)

/-- The monitor takes a line: the controller runs, and the UART_OFF strap is low (R467, R481). -/
def monOn (s : State) : Bool :=
  decide (s.boot.step = .up) && !bit s.boot.straps 4 && decide (s.pwr.sleep ≠ .s4)

/-- A command: from the ROM only those marked, then the level (R479). -/
def monCmd (level : Nat) (rom : Bool) (f : State → State) (s : State) : State :=
  if !monOn s then s
  else if inRom s && !rom then monReply .syntaxErr [] s
  else if debugLevel s < level then monReply .level [] s
  else f s

/-- A command that answers OK with values of the state. -/
def monShow (level : Nat) (rom : Bool) (vals : State → List Nat) (s : State) : State :=
  monCmd level rom (fun s => monReply .ok (vals s) s) s

def rd (s : State) (off : Nat) : Nat := (readReg monitorAgent off s).toNat

/-! ## What commands show -/

def stsVals (s : State) : List Nat :=
  [rd s 0x0F0000, rd s 0x050050, rd s 0x030004, rd s 0x040004, s.sec.debug,
    if s.sec.debug = 0 then 0 else (s.sec.debugEnd - s.time) / 1000000000]

/-- Offsets of a block's primary registers, BLK_KEY among them; HST has its table and pending bits. -/
def primaries (b : BlockId) : List Nat :=
  if b = .hst then ((upTo 64).map fun i => 0x0E4000 + 4 * i) ++ (upTo 8192).map fun i => 0x0E8000 + 4 * i
  else ((blockRegs b).flatMap fun d => (upTo d.count).map fun i => blockBase b + d.base + 4 * i) ++ [blockBase b + 0xFF0]

def errlogVals (s : State) : List Nat := [rd s 0x040004, rd s 0x040008] ++ s.err.entries.map fun e => leNat (logBytes e)

def clkVals (s : State) : List Nat :=
  [rd s 0x020050, rd s 0x020060, rd s 0x020000, rd s 0x020004, rd s 0x020008, rd s 0x02000C]

/-- Power is shown in mW, and each sensor in quarter degrees as a 32-bit word. -/
def pwrVals (s : State) : List Nat :=
  [rd s 0x030008, s.pwr.avg / 10000, if s.pwr.winN = 0 then 0 else s.pwr.winSum / s.pwr.winN] ++
    (s.pwr.temps.map fun t => (t % 2 ^ 32).toNat) ++ [rd s 0x030004]

/-- Every fuse that the spec names; the identity seed reads as zeros. -/
def fuseVals (s : State) : List Nat :=
  [fusedLc s, b2n Config.eng, Config.baseRev.toNat, Config.keyRevoke.toNat, svnMin s, Config.deviceId.toNat] ++
    ((upTo 8).flatMap fun c => (upTo 128).map fun n => (Config.repairWord c n).toNat) ++ [0]

/-! ## RD and WR (R480) -/

/-- How a monitor access ends. -/
inductive MonAcc where
  | val (v : Nat) (s : State)
  | bad (c : MonCode) (s : State)

/-- A register that an offset names, in any window. -/
def mapped (b : BlockId) (rel : Nat) : Bool :=
  if b = .hst then decide (0x8000 ≤ rel) || (decide (0x4000 ≤ rel) && decide (rel < 0x4100))
  else match windowOf rel with
    | none => false
    | some (_, p) => (regAt b p).isSome || decide (p = 0xFF0) || (decide (b = .err) && decide (0x400 ≤ p) && decide (p < 0x800))

/-- The block of an offset that the monitor may access, or the code that refuses it. -/
def monBlock (s : State) (off : Nat) : Option BlockId × MonCode :=
  if off % 4 ≠ 0 then (none, .range)
  else match blockAt off with
    | none => (none, .range)
    | some (b, rel) => if !mapped b rel then (none, .range) else if s.halted b || blockOff s b then (none, .busy) else (some b, .ok)

def monReadReg (off : Nat) (s : State) : MonAcc :=
  match monBlock s off with
  | (none, c) => .bad c s
  | (some _, _) =>
    .val (rd s off) (match counterAt off with
      | some r => setLatch r s
      | none => s)

/-- How an access of device memory that ended badly is answered. -/
def memCode : FaultCode → MonCode
  | .gated => .busy
  | _ => .range

/-- A host address of the device's own BARs (R380). -/
def loops (s : State) (pa : Nat) : Bool := decide (2 ^ 48 ≤ pa) && ownBar s (pa % 2 ^ 48)

def monReadMem (pa : Nat) (s : State) : MonAcc :=
  if pa % 4 ≠ 0 ∨ loops s pa then .bad .range s
  else match paRead 0 Attr.plain pa 4 s with
    | .ok bs s => .val (leNat bs) s
    | .fault c s => .bad (memCode c) s
    | .severed | .wait => .bad .busy s

def monReadOne (a : MonAddr) (i : Nat) (s : State) : MonAcc :=
  match a with
  | .bar0 off => monReadReg (off + 4 * i) s
  | .phys pa => monReadMem (pa.toNat + 4 * i) s

/-- RD: n words, or the code of the first that cannot be read. -/
def monReads (a : MonAddr) : Nat → Nat → List Nat → State → State
  | 0, _, vs, s => monReply .ok vs s
  | f + 1, i, vs, s => match monReadOne a i s with
    | .val v s => monReads a f (i + 1) (vs ++ [v]) s
    | .bad c s => monReply c vs s

def monReadDo (a : MonAddr) (n : Nat) (s : State) : State :=
  if n = 0 then monReply .range [] s else monReads a n 0 [] s

def monWriteDo (a : MonAddr) (v : Word) (s : State) : State :=
  match a with
  | .bar0 off => match monBlock s off with
    | (none, c) => monReply c [] s
    | (some _, _) => monReply .ok [] (regWrite4 monitorAgent off v s)
  | .phys pa =>
    if pa.toNat % 4 ≠ 0 ∨ loops s pa.toNat then monReply .range [] s
    else match paWrite 0 Attr.plain pa.toNat (natLe 4 v.toNat) s with
      | .ok _ s => monReply .ok [] s
      | .fault c s => monReply (memCode c) [] s
      | .severed | .wait => monReply .busy [] s

/-- PIN or RELEASE of a master. -/
def monPinDo (id : Nat) (rel : Bool) (s : State) : State :=
  if 0x72 ≤ id then monReply .range [] s
  else if s.halted .sec then monReply .busy [] s
  else monReply .ok [] (pinCommand id rel (!rel) s)

/-! ## Tokens and the line -/

def tokenLine (bs : List Byte) (s : State) : State :=
  if 128 < bs.length then monReply .range [] s else monReply .ok [] (s.onMon fun m => { m with token := m.token ++ bs })

/-- END submits the token (R399); one that fails is answered as out of range. -/
def tokenEnd (s : State) : State :=
  let b := s.mon.token
  let (ok, s) := presentToken b (s.onMon fun m => { m with token := [] })
  monReply (if ok then .ok else .range) [] s

def baudDo (n : Nat) (s : State) : State :=
  if [115200, 230400, 460800, 921600, 1500000, 3000000].contains n then
    (monReply .ok [] s).onMon fun m => { m with baud := n }
  else monReply .range [] s

def lineCode : LineFault → MonCode
  | .syntaxError => .syntaxErr | .range => .range | .overrun => .overrun

/-! ## The meanings -/

/-- VER. -/
def execMonVer (s : State) : Out := .next (monShow 1 true (fun s => [rd s 0, rd s 0x40, rd s 0x44, s.boot.svn]) s)

/-- LC. -/
def execMonLc (s : State) : Out := .next (monShow 1 true (fun s => [secLc s]) s)

/-- STS. -/
def execMonSts (s : State) : Out := .next (monShow 1 true stsVals s)

/-- NONCE (R398). -/
def execMonNonce (s : State) : Out :=
  .next (monCmd 1 false (fun s => let (n, s) := issueNonce s; monReply .ok (n.map (·.toNat)) s) s)

/-- TOKEN hex. -/
def execMonToken (bytes : List Byte) (s : State) : Out := .next (monCmd 1 false (tokenLine bytes) s)

/-- TOKEN END (R399). -/
def execMonTokenEnd (t : Nat) (s : State) : Out := .next (monCmd 1 false tokenEnd (advanceTo t s))

/-- BAUD n. -/
def execMonBaud (n : Nat) (s : State) : Out := .next (monCmd 1 true (baudDo n) s)

/-- DUMP block. -/
def execMonDump (b : BlockId) (s : State) : Out :=
  .next (monCmd 2 false (fun s => if s.halted b || blockOff s b then monReply .busy [] s else monReply .ok ((primaries b).map (rd s)) s) s)

/-- ERRLOG. -/
def execMonErrlog (s : State) : Out := .next (monShow 2 false errlogVals s)

/-- CLK. -/
def execMonClk (s : State) : Out := .next (monShow 2 false clkVals s)

/-- PWR. -/
def execMonPwr (s : State) : Out := .next (monShow 2 false pwrVals s)

/-- RD (R480). -/
def execMonRd (a : MonAddr) (n : Nat) (s : State) : Out := .next (monCmd 3 false (monReadDo a n) s)

/-- WR (R480). -/
def execMonWr (a : MonAddr) (v : Word) (s : State) : Out := .next (monCmd 3 false (monWriteDo a v) s)

/-- PIN id. -/
def execMonPin (id : Nat) (s : State) : Out := .next (monCmd 3 false (monPinDo id false) s)

/-- RELEASE id. -/
def execMonRelease (id : Nat) (s : State) : Out := .next (monCmd 3 false (monPinDo id true) s)

/-- FUSE. -/
def execMonFuse (s : State) : Out := .next (monShow 3 false fuseVals s)

/-- A line that is no command, or arrives too fast (R478). -/
def execMonLineBad (why : LineFault) (s : State) : Out := .next (if monOn s then monReply (lineCode why) [] s else s)

end Sys2Proof.Machine
end

