-- ==== Sys2Proof/Machine/Teardown.lean ====
section
/-! DEFINITION. Late translations and walks (R52, R55), dispatch and pre-emption of ops (R81, R88,
R424), and the ends of a teardown (R58). -/

namespace Sys2Proof.Machine

open Sys2Proof

/-! ## Faults at the point of use (R55) -/

/-- A tensor op takes a fault or a severed request: its failure is noted, and it ends once it holds nothing. -/
def lateTensor (o : OpRef) (m : Nat) (s : State) : State := match s.run? o with
  | some r => match r.fail with
    | some (st, d) => if r.held = [] then endTensor o m st d s else s
    | none => s
  | none => s

/-- The pipe and the pending commit of a commit's op. -/
def commitOn (s : State) (o : OpRef) : Option (Nat × Commit) :=
  (upTo 4).findSome? fun p => match livePend s p with
    | some c => if c.op = o then some (p, c) else none
    | none => none

/-- A pending commit leaves its pipe; its RELEASE fences go into ERROR unless they have been signalled. -/
def commitDrop (p : Nat) (c : Commit) (s : State) : State :=
  let s := s.onPipe p fun x => { x with pend := none }
  if c.applied then s else failReleases (c.release.map (·.2)) .aborted s

/-- The fault record or pin of a fault that an op's own master took, and the op's end, by what runs it: a tensor
op, a render pass, a compression job, a commit, or any other (R55, R185, R309, R320, R368). -/
def lateOpFault (o : OpRef) (m : Nat) (f : Flt) (va : Nat) (acc : Access) (s : State) : State :=
  match s.op? o with
  | none => s
  | some (e, p) =>
    if p.phase ≠ .running then s
    else if (s.run? o).isSome then lateTensor o m (noteFault o m e.ctx f va acc s)
    else if (s.pass? o).isSome then passFault o m e.ctx f va acc s
    else if s.cmp.runs.any fun r => r.2 = o then jobRun o m e.ctx p.body (some (acc, va, f)) s
    else match commitOn s o with
      | some (q, c) => commitFault q o c.mark c.late f va acc (commitDrop q c s)
      | none => shdSweep (dropCopy o (opFault f o m va acc s))

/-- A late fault goes to the work that used the address. -/
def lateFault (who : Requester) (m ctx : Nat) (f : Flt) (va : Nat) (acc : Access) (s : State) : State :=
  match who with
  | .op o => lateOpFault o m f va acc s
  | .group g => match s.group? g.core.val g.slot.val with
    | some x => if x.park.isSome then s else groupFault x f va acc x.am s
    | none => s
  | .layer p l => layerFault p.val l.val f ctx va s
  | .writeback p => wbLateFault p.val f ctx va acc s
  | .plan d => match (s.plan d.val).begun.find? fun e => e.step = .waits with
    | some e => if (s.plan d.val).state = .running then walkFault d.val e.idx f ctx va s else s
    | none => s
  | .none => engineFault f m ctx va acc s

/-- A request that ends with SEVERED ends its op (R455). -/
def lateSevered (who : Requester) (m : Nat) (s : State) : State :=
  match who with
  | .op o =>
    if !opRunning s o then s
    else if (s.run? o).isSome then lateTensor o m (noteFail o stSevered 0 s)
    else if (s.pass? o).isSome then failPass o stSevered 0 s
    else match s.cmp.runs.any (fun r => r.2 = o), s.op? o, commitOn s o with
      | true, some (e, p), _ =>
        let j : JobEnd := { used := 0, written := 0, fault := 0, check := jobCheck (jFormat p.body) [], bit := 0, status := stSevered, detail := 0 }
        (jobClose o m e.ctx (jComp p.body) j s).getD s
      | _, _, some (q, c) => commitFail q c stSevered 0 .deviceLost s
      | _, _, none => shdSweep (dropCopy o (endOp o stSevered 0 0 s))
  | .plan d => match (s.plan d.val).begun.find? fun e => e.step = .waits with
    | some e => if (s.plan d.val).state = .running then entryOver d.val e.idx 3 0 s else s
    | none => s
  | _ => s

/-! ## Translation at use (R52) -/

/-- The work of a context may issue requests; the device's own context 0 always may. -/
def mayIssue (s : State) (m ctx : Nat) : Bool := !s.isPinned m && (decide (ctx = 0) || ctxRuns s ctx)

/-- LATE_TRANSLATION: a hit is checked; a miss becomes a walk, of which 32 run and others queue in
arrival order. A halted MMU starts none (R447). -/
def translateLate (m ctx va : Nat) (acc : Access) (who : Requester) (s : State) : State :=
  if !mayIssue s m ctx then s
  else if 2 ^ 48 ≤ va then lateFault who m ctx (.mk' .vaRange 0xFF 0) va acc s
  else match tlbLookup s m ctx va with
    | some t =>
      let s := installU m t s
      match leafCheck s ctx va acc t.leaf with
      | some f => lateFault who m ctx f va acc s
      | none => s
    | none =>
      let w : Walk := { id := s.mmu.walkId, master := m, ctx, va, acc, who }
      promoteWalks (s.onMmu fun x => { x with walkId := x.walkId + 1, queue := x.queue ++ [w] })

/-- WALK_DONE: the leaf is kept, or the fault is taken at the point of use. A walk whose memory waits
stays; one of a context that is torn down is dropped (R58). -/
def walkEnd (id : Nat) (io : HostIO) (s : State) : State :=
  let s := applyIO io s
  match s.mmu.walks.find? fun w => w.id = id with
  | none => s
  | some w =>
    let drop := fun (s : State) => promoteWalks (s.onMmu fun x => { x with walks := x.walks.filter fun v => v.id ≠ id })
    if !mayIssue s w.master w.ctx then drop s
    else match walkVa w.ctx w.va s with
      | .wait s => s
      | .severed s => drop (lateSevered w.who w.master s)
      | .fault f s => drop (lateFault w.who w.master w.ctx f w.va w.acc s)
      | .ok l s =>
        let t : TlbEntry := { ctx := w.ctx, leaf := l }
        let s := installU w.master t s
        let s := match masterDie w.master with
          | some d => installD d t s
          | none => s
        drop (match leafCheck s w.ctx w.va w.acc l with
          | some f => lateFault w.who w.master w.ctx f w.va w.acc s
          | none => s)

/-! ## Dispatch and sleep (R424, R426) -/

/-- An op that S3 cannot run: its mask has no cluster 0, or it is a compression job. A commit of
another pipe is held by its own meaning. -/
def needsExit (s : State) (e : Entry) (p : Op) : Bool :=
  decide (p.opcode = 0x40) || (!maskFree p.opcode && !bit (effMask s e p) 0)

/-- The clocks of an op's clusters and their cores run again (R419). -/
def ungateMask (mask : Nat) (s : State) : State :=
  ungate (((upTo 8).filter (bit mask)).flatMap fun c => c :: (upTo 8).map fun i => 8 + 8 * c + i) s

/-- OP_DISPATCH in every sleep state. -/
def opDispatchDo (o : OpRef) (io : HostIO) (s : State) : State :=
  match s.op? o with
  | none => applyIO io s
  | some (e, p) =>
    if awake s then dispatchDo o io (ungateMask (if maskFree p.opcode then 0 else effMask s e p) s)
    else if inS3 s && !needsExit s e p then dispatchDo o io s
    else if needsExit s e p && decide (s.pwr.sleep ≠ .s4) && decide (s.pwr.deep = 3) && decide (p.phase = .waiting) then wantsExit (applyIO io s)
    else applyIO io s

/-! ## Pre-emption (R88, R184, R261, R304) -/

/-- A ready op on a ring of strictly higher priority than a running op's: that of its ring when it was dispatched
or now. A SET_PRIO pre-empts no work that runs already (R64, R88). -/
def outranked (s : State) (o : OpRef) (p : Op) : Bool :=
  let mine := Nat.max p.rank (s.ring o.ring.val).prio
  s.fe.entries.any fun e => decide (mine < (s.ring e.ring).prio) && !p.spared.contains e.ring && ctxRuns s e.ctx &&
    (upTo e.ops.length).any fun i => match e.ops[i]? with
      | some q => readyOp e q && !passStarted s e i
      | none => false

/-- The op of a context that is torn down is discarded where it stands. -/
def stopOp (o : OpRef) (s : State) : State := cmpSweep (closeOps (shdSweep (dropRun o (discardOp o (dropCopy o s)))))

/-- PREEMPT: a running op of a kind that has boundaries yields its units at its next one. -/
def preemptDo (o : OpRef) (s : State) : State :=
  match s.op? o with
  | none => s
  | some (e, p) =>
    if p.phase ≠ .running then s
    else if !ctxRuns s e.ctx then stopOp o s
    else if !outranked s o p then s
    else match s.run? o with
      | some r => if r.stopping ∨ r.held = [] then s else s.onRun o fun r => { r with stopping := true }
      | none => match s.pass? o with
        | some q => if q.stopping then s else passStop o s
        | none => shdStop o s

/-! ## Teardown (R58, R59) -/

/-- Running ops of a context. -/
def runningOps (s : State) (n : Nat) : List OpRef := opsWhere (fun e _ => decide (e.ctx = n)) s

/-- The plan of a context is torn down (R231). -/
def tearPlans (n : Nat) (s : State) : State :=
  eachDo [0, 1] (fun d s => if planActive (s.plan d) ∧ (s.plan d).ctx = n then planTorn d s else s) s

/-- The pending commits of a context go (R342). -/
def tearCommits (n : Nat) (s : State) : State :=
  eachDo (upTo 4) (fun p s => if (s.pipe p).pend.any fun c => decide (c.ctx = n) then dropPend p s else s) s

/-- STOP_IN_PLACE: what has not reached a boundary is stopped and discarded (R58 step 3). -/
def stopInPlaceDo (n : Nat) (s : State) : State :=
  if (s.ctx n).state ≠ .aborting then s
  else eachDo (runningOps s n) stopOp (tearPlans n (tearCommits n s))

/-- A drain waits for the context's plan too. -/
def plansRun (s : State) (n : Nat) : Bool := [0, 1].any fun d => decide ((s.plan d).state = .running) && decide ((s.plan d).ctx = n)

/-- RETIRED: steps 4 to 8 of R58, with every request, park, group and walk of the context gone. A pass whose pool
is still to be set back holds it up (R283). -/
def retireCtx (n : Nat) (s : State) : State :=
  let s := closeOps s
  let c := s.ctx n
  let ready := decide (c.state = .aborting) || (decide (c.state = .draining) && c.drainDone)
  if n = 0 ∨ !ready ∨ ctxBusy s n ∨ (s.rnd.passes.any fun p => p.ctx = n) then s
  else
    let s := shdRetire n (tearPlans n (tearCommits n s))
    let s := s.onMmu fun x => { x with walks := x.walks.filter (fun w => w.ctx ≠ n), queue := x.queue.filter fun w => w.ctx ≠ n }
    promoteWalks (errorHooks (autoRelease n (retireDo n s)))

/-! ## The meanings -/

/-- LATE_TRANSLATION (R52). -/
def execLateTranslation (m : MasterId) (ctx : CtxId) (va : Quad) (acc : Access) (who : Requester) (s : State) : Out :=
  .next (translateLate m.val ctx.val va.toNat acc who s)

/-- WALK_DONE (R45, R52). -/
def execWalkDone (walk : Nat) (io : HostIO) (s : State) : Out := .next (walkEnd walk io s)

/-- OP_DISPATCH (R81, R84, R85, R424). -/
def execOpDispatch (o : OpRef) (io : HostIO) (s : State) : Out := .next (opDispatchDo o io s)

/-- PREEMPT (R88). -/
def execOpPreempt (o : OpRef) (s : State) : Out := .next (preemptDo o s)

/-- DRAIN_END (R58). -/
def execDrainEnd (n : CtxId) (s : State) : Out := .next (if plansRun s n.val then s else drainEndDo n.val s)

/-- STOP_IN_PLACE (R58). -/
def execStopInPlace (n : CtxId) (s : State) : Out := .next (stopInPlaceDo n.val s)

/-- RETIRED (R58). -/
def execCtxRetired (n : CtxId) (s : State) : Out := .next (retireCtx n.val s)

end Sys2Proof.Machine
end

