-- ==== Sys2Proof/Machine/Dispatch.lean ====
section
/-! DEFINITION. The dispatch of commands to their meanings: one arm per constructor of Instr. -/

namespace Sys2Proof.Machine

open Sys2Proof

/-- The effect of a command on everything but the queue. -/
def exec (i : Instr) (s : State) : Host.Outcome State Fault Refusal :=
  match i with
  -- registers
  | .registerWrite fn off size value => Sys2Proof.Machine.execRegisterWrite fn off size value s
  | .regSetBits fn off size value => Sys2Proof.Machine.execRegSetBits fn off size value s
  | .regClearBits fn off size value => Sys2Proof.Machine.execRegClearBits fn off size value s
  | .regToggleBits fn off size value => Sys2Proof.Machine.execRegToggleBits fn off size value s
  | .blkKeyWrite fn block value => Sys2Proof.Machine.execBlkKeyWrite fn block value s
  | .blkKeyExpiry fn block t => Sys2Proof.Machine.execBlkKeyExpiry fn block t s
  | .counterLoRead fn reg => Sys2Proof.Machine.execCounterLoRead fn reg s
  | .slowRegWrite fn off value => Sys2Proof.Machine.execSlowRegWrite fn off value s
  | .cfgParity fn off value => Sys2Proof.Machine.execCfgParity fn off value s
  -- contexts and translation
  | .mmuFnCtxWrite fn f value => Sys2Proof.Machine.execMmuFnCtxWrite fn f value s
  | .ctxCreate fn ctx => Sys2Proof.Machine.execCtxCreate fn ctx s
  | .ctxCreateDone ctx io => Sys2Proof.Machine.execCtxCreateDone ctx io s
  | .ctxDestroy fn ctx => Sys2Proof.Machine.execCtxDestroy fn ctx s
  | .ctxAbort fn ctx => Sys2Proof.Machine.execCtxAbort fn ctx s
  | .ctxRelease fn ctx => Sys2Proof.Machine.execCtxRelease fn ctx s
  | .ctxReload fn ctx => Sys2Proof.Machine.execCtxReload fn ctx s
  | .ctxReloadDone io => Sys2Proof.Machine.execCtxReloadDone io s
  | .drainEnd ctx => Sys2Proof.Machine.execDrainEnd ctx s
  | .stopInPlace ctx => Sys2Proof.Machine.execStopInPlace ctx s
  | .ctxRetired ctx => Sys2Proof.Machine.execCtxRetired ctx s
  | .placeApply fn value => Sys2Proof.Machine.execPlaceApply fn value s
  | .invalidateGo fn value => Sys2Proof.Machine.execInvalidateGo fn value s
  | .invalidateDone fn => Sys2Proof.Machine.execInvalidateDone fn s
  | .lateTranslation m ctx va acc who => Sys2Proof.Machine.execLateTranslation m ctx va acc who s
  | .walkDone walk io => Sys2Proof.Machine.execWalkDone walk io s
  | .vectorHoldoffExpiry src t => Sys2Proof.Machine.execVectorHoldoffExpiry src t s
  -- rings, entries and ops
  | .feFnRingWrite fn f value => Sys2Proof.Machine.execFeFnRingWrite fn f value s
  | .ringEnable fn => Sys2Proof.Machine.execRingEnable fn s
  | .ringEnableDone ring io => Sys2Proof.Machine.execRingEnableDone ring io s
  | .ringDisable fn => Sys2Proof.Machine.execRingDisable fn s
  | .ringDisableDone ring => Sys2Proof.Machine.execRingDisableDone ring s
  | .ringSetPrio fn => Sys2Proof.Machine.execRingSetPrio fn s
  | .ringParity ring => Sys2Proof.Machine.execRingParity ring s
  | .nudge fn ring off size value => Sys2Proof.Machine.execNudge fn ring off size value s
  | .doorbellPoll ring t => Sys2Proof.Machine.execDoorbellPoll ring t s
  | .doorbellReadDone ring io => Sys2Proof.Machine.execDoorbellReadDone ring io s
  | .ringFetchDone ring io => Sys2Proof.Machine.execRingFetchDone ring io s
  | .edgeArrayReadDone e io => Sys2Proof.Machine.execEdgeArrayReadDone e io s
  | .cbFramingReadDone e io => Sys2Proof.Machine.execCbFramingReadDone e io s
  | .entryStart e => Sys2Proof.Machine.execEntryStart e s
  | .opDispatch o io => Sys2Proof.Machine.execOpDispatch o io s
  | .opNop o => Sys2Proof.Machine.execOpNop o s
  | .opTimestamp o t => Sys2Proof.Machine.execOpTimestamp o t s
  | .opCopy o chan => Sys2Proof.Machine.execOpCopy o chan s
  | .opCopyDone o io => Sys2Proof.Machine.execOpCopyDone o io s
  | .opFenceWait o => Sys2Proof.Machine.execOpFenceWait o s
  | .opFenceSignal o => Sys2Proof.Machine.execOpFenceSignal o s
  | .entryComplete e t => Sys2Proof.Machine.execEntryComplete e t s
  | .opPreempt o => Sys2Proof.Machine.execOpPreempt o s
  -- fences
  | .fenceSignalApply t => Sys2Proof.Machine.execFenceSignalApply t s
  | .fenceErrorApply t => Sys2Proof.Machine.execFenceErrorApply t s
  | .fenceEventSpacingExpiry fence t => Sys2Proof.Machine.execFenceEventSpacingExpiry fence t s
  | .fenceTimeoutScan t => Sys2Proof.Machine.execFenceTimeoutScan t s
  | .fenFnLocalWrite fn f value => Sys2Proof.Machine.execFenFnLocalWrite fn f value s
  | .fenFnSharedWrite fn f value => Sys2Proof.Machine.execFenFnSharedWrite fn f value s
  | .fenAlloc fn => Sys2Proof.Machine.execFenAlloc fn s
  | .fenFree fn => Sys2Proof.Machine.execFenFree fn s
  | .fenRead fn => Sys2Proof.Machine.execFenRead fn s
  | .fenSetError fn => Sys2Proof.Machine.execFenSetError fn s
  | .fenImport fn => Sys2Proof.Machine.execFenImport fn s
  | .fenUnimport fn => Sys2Proof.Machine.execFenUnimport fn s
  | .fenEvqBaseWrite fn hi value => Sys2Proof.Machine.execFenEvqBaseWrite fn hi value s
  | .fencePageSignal fn fence size value => Sys2Proof.Machine.execFencePageSignal fn fence size value s
  | .fencePageError fn fence size value => Sys2Proof.Machine.execFencePageError fn fence size value s
  | .notifyCtrlWrite fn fence slot value => Sys2Proof.Machine.execNotifyCtrlWrite fn fence slot value s
  | .notifyFieldWrite fn fence slot field value => Sys2Proof.Machine.execNotifyFieldWrite fn fence slot field value s
  -- graphs
  | .graphBindDir o => Sys2Proof.Machine.execGraphBindDir o s
  | .graphPublish o => Sys2Proof.Machine.execGraphPublish o s
  | .graphPublishValidated o io => Sys2Proof.Machine.execGraphPublishValidated o io s
  | .graphDelete o io => Sys2Proof.Machine.execGraphDelete o io s
  | .launchAccept e io => Sys2Proof.Machine.execLaunchAccept e io s
  -- tensor arrays
  | .tensorMma o => Sys2Proof.Machine.execTensorMma o s
  | .tensorVec o => Sys2Proof.Machine.execTensorVec o s
  | .tensorMove o chan => Sys2Proof.Machine.execTensorMove o chan s
  | .tensorTileDone o unit io t => Sys2Proof.Machine.execTensorTileDone o unit io t s
  | .narrowWrite fn c value => Sys2Proof.Machine.execNarrowWrite fn c value s
  | .narrowSwitchDone c => Sys2Proof.Machine.execNarrowSwitchDone c s
  -- on-chip memory and L2
  | .spmArbWrite fn c value => Sys2Proof.Machine.execSpmArbWrite fn c value s
  | .regionClear fn c value => Sys2Proof.Machine.execRegionClear fn c value s
  | .regionClearDone c region => Sys2Proof.Machine.execRegionClearDone c region s
  | .powerGood u => Sys2Proof.Machine.execPowerGood u s
  | .unitRelease u r => Sys2Proof.Machine.execUnitRelease u r s
  | .l2LockWrite fn d value => Sys2Proof.Machine.execL2LockWrite fn d value s
  | .l2Clean fn d value => Sys2Proof.Machine.execL2Clean fn d value s
  | .l2CleanInv fn d value => Sys2Proof.Machine.execL2CleanInv fn d value s
  | .l2LockLoad fn d value => Sys2Proof.Machine.execL2LockLoad fn d value s
  | .l2OpDone d io => Sys2Proof.Machine.execL2OpDone d io s
  | .l2LineFill d miss io => Sys2Proof.Machine.execL2LineFill d miss io s
  | .wcBufferTimeout d slice t => Sys2Proof.Machine.execWcBufferTimeout d slice t s
  -- reshard DMA
  | .rshArm fn d value => Sys2Proof.Machine.execRshArm fn d value s
  | .rshAbort fn d value => Sys2Proof.Machine.execRshAbort fn d value s
  | .rshPlanStart d => Sys2Proof.Machine.execRshPlanStart d s
  | .rshEntryDone d idx io => Sys2Proof.Machine.execRshEntryDone d idx io s
  -- shader cores
  | .shdDispatch o io => Sys2Proof.Machine.execShdDispatch o io s
  | .shdDispatchIndirect o io => Sys2Proof.Machine.execShdDispatchIndirect o io s
  | .workgroupPlace o => Sys2Proof.Machine.execWorkgroupPlace o s
  | .fp32Arith g op dst a b c => Sys2Proof.Machine.execFp32Arith g op dst a b c s
  | .transcendental g op dst a => Sys2Proof.Machine.execTranscendental g op dst a s
  | .integerArith g op dst a b => Sys2Proof.Machine.execIntegerArith g op dst a b s
  | .floatToInteger g trunc fmt dst a => Sys2Proof.Machine.execFloatToInteger g trunc fmt dst a s
  | .srConversion g fmt sat dst a seed pos => Sys2Proof.Machine.execSrConversion g fmt sat dst a seed pos s
  | .shdBranch g cond target rpc => Sys2Proof.Machine.execShdBranch g cond target rpc s
  | .shdJoin g => Sys2Proof.Machine.execShdJoin g s
  | .shdYield g => Sys2Proof.Machine.execShdYield g s
  | .exitLanes g mask => Sys2Proof.Machine.execExitLanes g mask s
  | .stackFillDone g io => Sys2Proof.Machine.execStackFillDone g io s
  | .shdShuffle g form width dst src => Sys2Proof.Machine.execShdShuffle g form width dst src s
  | .shdVote g kind dst pred => Sys2Proof.Machine.execShdVote g kind dst pred s
  | .memoryLoad g sp dst addrLo addrHi size => Sys2Proof.Machine.execMemoryLoad g sp dst addrLo addrHi size s
  | .memoryStore g sp src addrLo addrHi size => Sys2Proof.Machine.execMemoryStore g sp src addrLo addrHi size s
  | .shdAtomic g sp op ty ret addrLo addrHi operand compare => Sys2Proof.Machine.execShdAtomic g sp op ty ret addrLo addrHi operand compare s
  | .workgroupFence g => Sys2Proof.Machine.execWorkgroupFence g s
  | .deviceFenceRelease g => Sys2Proof.Machine.execDeviceFenceRelease g s
  | .deviceFenceAcquire g => Sys2Proof.Machine.execDeviceFenceAcquire g s
  | .shdBarrier g => Sys2Proof.Machine.execShdBarrier g s
  | .barrierTimeout g => Sys2Proof.Machine.execBarrierTimeout g s
  | .shdTrap g code => Sys2Proof.Machine.execShdTrap g code s
  | .illegalInstr g word => Sys2Proof.Machine.execIllegalInstr g word s
  | .parkQueueRetry fn io => Sys2Proof.Machine.execParkQueueRetry fn io s
  | .feParkqBaseWrite fn hi value => Sys2Proof.Machine.execFeParkqBaseWrite fn hi value s
  | .parkReplay fn => Sys2Proof.Machine.execParkReplay fn s
  | .parkKill fn => Sys2Proof.Machine.execParkKill fn s
  | .shdWatchdog t => Sys2Proof.Machine.execShdWatchdog t s
  -- tiled rendering
  | .renderPass o io => Sys2Proof.Machine.execRenderPass o io s
  | .batchDeal o c verts io => Sys2Proof.Machine.execBatchDeal o c verts io s
  | .batchBinned o c io => Sys2Proof.Machine.execBatchBinned o c io s
  | .growPoll o io t => Sys2Proof.Machine.execGrowPoll o io t s
  | .partialRenderDone o => Sys2Proof.Machine.execPartialRenderDone o s
  | .shadingStart o => Sys2Proof.Machine.execShadingStart o s
  | .tileAssign o tile io => Sys2Proof.Machine.execTileAssign o tile io s
  | .tileShaded o tile frags io => Sys2Proof.Machine.execTileShaded o tile frags io s
  | .tileStored o tile t => Sys2Proof.Machine.execTileStored o tile t s
  | .fbcClear o chan => Sys2Proof.Machine.execFbcClear o chan s
  | .fbcClearDone o io => Sys2Proof.Machine.execFbcClearDone o io s
  -- display
  | .dspCtlWrite fn p value => Sys2Proof.Machine.execDspCtlWrite fn p value s
  | .displayCommit o io => Sys2Proof.Machine.execDisplayCommit o io s
  | .commitTablesLoaded p io => Sys2Proof.Machine.execCommitTablesLoaded p io s
  | .frameBoundary p t => Sys2Proof.Machine.execFrameBoundary p t s
  | .pixelPllLockDone p => Sys2Proof.Machine.execPixelPllLockDone p s
  | .linkTrainingDone p ok t => Sys2Proof.Machine.execLinkTrainingDone p ok t s
  | .lineCompose p late io => Sys2Proof.Machine.execLineCompose p late io s
  | .lineSignal p entry => Sys2Proof.Machine.execLineSignal p entry s
  | .samplePose p entry => Sys2Proof.Machine.execSamplePose p entry s
  | .poseReadDone p io => Sys2Proof.Machine.execPoseReadDone p io s
  | .warpBand p entry => Sys2Proof.Machine.execWarpBand p entry s
  | .warpBandDone p io => Sys2Proof.Machine.execWarpBandDone p io s
  | .writebackDone p => Sys2Proof.Machine.execWritebackDone p s
  | .dspCntClr fn p value => Sys2Proof.Machine.execDspCntClr fn p value s
  | .hpdChange conn level => Sys2Proof.Machine.execHpdChange conn level s
  | .auxGo fn p value => Sys2Proof.Machine.execAuxGo fn p value s
  | .auxReply p reply => Sys2Proof.Machine.execAuxReply p reply s
  | .auxTimeout p => Sys2Proof.Machine.execAuxTimeout p s
  -- compression
  | .cmpJob o => Sys2Proof.Machine.execCmpJob o s
  | .cmpJobStart ch => Sys2Proof.Machine.execCmpJobStart ch s
  | .cmpJobDone ch io => Sys2Proof.Machine.execCmpJobDone ch io s
  -- trust
  | .secPin fn value t => Sys2Proof.Machine.execSecPin fn value t s
  | .secRelease fn value => Sys2Proof.Machine.execSecRelease fn value s
  | .secReleaseDone m r => Sys2Proof.Machine.execSecReleaseDone m r s
  | .lcSecured fn value => Sys2Proof.Machine.execLcSecured fn value s
  | .lcRma fn value => Sys2Proof.Machine.execLcRma fn value s
  | .secCfgWrite fn value => Sys2Proof.Machine.execSecCfgWrite fn value s
  | .entropyFail test => Sys2Proof.Machine.execEntropyFail test s
  | .spdmGetVersion => Sys2Proof.Machine.execSpdmGetVersion s
  | .spdmGetCapabilities => Sys2Proof.Machine.execSpdmGetCapabilities s
  | .spdmNegotiateAlgorithms offersSet => Sys2Proof.Machine.execSpdmNegotiateAlgorithms offersSet s
  | .spdmGetDigests => Sys2Proof.Machine.execSpdmGetDigests s
  | .spdmGetCertificate slot offset length => Sys2Proof.Machine.execSpdmGetCertificate slot offset length s
  | .spdmChallenge slot nonce => Sys2Proof.Machine.execSpdmChallenge slot nonce s
  | .spdmGetMeasurements index signed nonce => Sys2Proof.Machine.execSpdmGetMeasurements index signed nonce s
  | .spdmKeyExchange reqId => Sys2Proof.Machine.execSpdmKeyExchange reqId s
  | .spdmFinish session macOk => Sys2Proof.Machine.execSpdmFinish session macOk s
  | .spdmHeartbeat session => Sys2Proof.Machine.execSpdmHeartbeat session s
  | .spdmKeyUpdate session => Sys2Proof.Machine.execSpdmKeyUpdate session s
  | .spdmEndSession session => Sys2Proof.Machine.execSpdmEndSession session s
  | .spdmVendorDefined session msg t => Sys2Proof.Machine.execSpdmVendorDefined session msg t s
  | .spdmUnsupported code => Sys2Proof.Machine.execSpdmUnsupported code s
  | .ideKm session msg => Sys2Proof.Machine.execIdeKm session msg s
  | .ideIntegrityFail stream => Sys2Proof.Machine.execIdeIntegrityFail stream s
  | .tdiLock f stream => Sys2Proof.Machine.execTdiLock f stream s
  | .tdiStart f => Sys2Proof.Machine.execTdiStart f s
  | .tdiStop f => Sys2Proof.Machine.execTdiStop f s
  | .tdiGetReport f => Sys2Proof.Machine.execTdiGetReport f s
  | .tdiGetState f => Sys2Proof.Machine.execTdiGetState f s
  | .tdispGetVersion f => Sys2Proof.Machine.execTdispGetVersion f s
  | .vfFlr f => Sys2Proof.Machine.execVfFlr f s
  | .debugTokenExpiry t => Sys2Proof.Machine.execDebugTokenExpiry t s
  -- power, sleep and clocks
  | .policyApply fn value => Sys2Proof.Machine.execPolicyApply fn value s
  | .policyApplyDone io => Sys2Proof.Machine.execPolicyApplyDone io s
  | .powerMeasure m t => Sys2Proof.Machine.execPowerMeasure m t s
  | .avsFrameDone a => Sys2Proof.Machine.execAvsFrameDone a s
  | .avsConfirmRead g => Sys2Proof.Machine.execAvsConfirmRead g s
  | .avsTimeout g => Sys2Proof.Machine.execAvsTimeout g s
  | .pllFrequencyMoveDone g => Sys2Proof.Machine.execPllFrequencyMoveDone g s
  | .statsWrite t => Sys2Proof.Machine.execStatsWrite t s
  | .sleepS3 fn value => Sys2Proof.Machine.execSleepS3 fn value s
  | .sleepS4 fn value => Sys2Proof.Machine.execSleepS4 fn value s
  | .sleepEntryDone => Sys2Proof.Machine.execSleepEntryDone s
  | .sleepExitDone t => Sys2Proof.Machine.execSleepExitDone t s
  | .idleClockGate u => Sys2Proof.Machine.execIdleClockGate u s
  | .idlePowerGate c => Sys2Proof.Machine.execIdlePowerGate c s
  | .wakePinEvent pin level => Sys2Proof.Machine.execWakePinEvent pin level s
  | .linkWakeEvent => Sys2Proof.Machine.execLinkWakeEvent s
  | .clockMonitorWindow fails => Sys2Proof.Machine.execClockMonitorWindow fails s
  | .oscTrimWindow step inTolerance => Sys2Proof.Machine.execOscTrimWindow step inTolerance s
  | .pllLockDone pll => Sys2Proof.Machine.execPllLockDone pll s
  | .clkGateWrite fn reg value => Sys2Proof.Machine.execClkGateWrite fn reg value s
  -- error log, resets and time
  | .errRetire fn value => Sys2Proof.Machine.execErrRetire fn value s
  | .resetCore fn index => Sys2Proof.Machine.execResetCore fn index s
  | .resetTensorArray fn index => Sys2Proof.Machine.execResetTensorArray fn index s
  | .resetTensorDmaChannel fn index => Sys2Proof.Machine.execResetTensorDmaChannel fn index s
  | .resetCluster fn index => Sys2Proof.Machine.execResetCluster fn index s
  | .resetComputeDie fn index => Sys2Proof.Machine.execResetComputeDie fn index s
  | .resetDisplayPipe fn index => Sys2Proof.Machine.execResetDisplayPipe fn index s
  | .resetCompressionChannel fn index => Sys2Proof.Machine.execResetCompressionChannel fn index s
  | .resetReshardEngine fn index => Sys2Proof.Machine.execResetReshardEngine fn index s
  | .resetDieToDieLink fn index => Sys2Proof.Machine.execResetDieToDieLink fn index s
  | .resetDone r => Sys2Proof.Machine.execResetDone r s
  | .crossingReopen x => Sys2Proof.Machine.execCrossingReopen x s
  | .flitReplay l ok => Sys2Proof.Machine.execFlitReplay l ok s
  | .linkReplayLimit l => Sys2Proof.Machine.execLinkReplayLimit l s
  | .dieCheckDone d r => Sys2Proof.Machine.execDieCheckDone d r s
  | .timeSyncPulse t copy0 copy1 => Sys2Proof.Machine.execTimeSyncPulse t copy0 copy1 s
  -- bring-up
  | .pwrokRise straps => Sys2Proof.Machine.execPwrokRise straps s
  | .pwrokFall => Sys2Proof.Machine.execPwrokFall s
  | .brownout r => Sys2Proof.Machine.execBrownout r s
  | .xtalStable => Sys2Proof.Machine.execXtalStable s
  | .romSelftestDone pass => Sys2Proof.Machine.execRomSelftestDone pass s
  | .perstDeassert => Sys2Proof.Machine.execPerstDeassert s
  | .perstAssert => Sys2Proof.Machine.execPerstAssert s
  | .pcieLinkTrained => Sys2Proof.Machine.execPcieLinkTrained s
  | .pfFlr => Sys2Proof.Machine.execPfFlr s
  | .imgLoad fn value => Sys2Proof.Machine.execImgLoad fn value s
  | .imageVerifyDone io => Sys2Proof.Machine.execImageVerifyDone io s
  | .fwReady d0 d1 => Sys2Proof.Machine.execFwReady d0 d1 s
  -- boundary scan
  | .tapReset => Sys2Proof.Machine.execTapReset s
  | .tapIdcode => Sys2Proof.Machine.execTapIdcode s
  | .tapSamplePreload pins preload => Sys2Proof.Machine.execTapSamplePreload pins preload s
  | .tapExtest => Sys2Proof.Machine.execTapExtest s
  | .tapBypass code => Sys2Proof.Machine.execTapBypass code s
  | .tapVendorInstr code => Sys2Proof.Machine.execTapVendorInstr code s
  -- the Staquin monitor
  | .monVer => Sys2Proof.Machine.execMonVer s
  | .monLc => Sys2Proof.Machine.execMonLc s
  | .monSts => Sys2Proof.Machine.execMonSts s
  | .monNonce => Sys2Proof.Machine.execMonNonce s
  | .monToken bytes => Sys2Proof.Machine.execMonToken bytes s
  | .monTokenEnd t => Sys2Proof.Machine.execMonTokenEnd t s
  | .monBaud n => Sys2Proof.Machine.execMonBaud n s
  | .monDump block => Sys2Proof.Machine.execMonDump block s
  | .monErrlog => Sys2Proof.Machine.execMonErrlog s
  | .monClk => Sys2Proof.Machine.execMonClk s
  | .monPwr => Sys2Proof.Machine.execMonPwr s
  | .monRd addr n => Sys2Proof.Machine.execMonRd addr n s
  | .monWr addr value => Sys2Proof.Machine.execMonWr addr value s
  | .monPin id => Sys2Proof.Machine.execMonPin id s
  | .monRelease id => Sys2Proof.Machine.execMonRelease id s
  | .monFuse => Sys2Proof.Machine.execMonFuse s
  | .monLineBad why => Sys2Proof.Machine.execMonLineBad why s
  -- responses and reserve
  | .memoryResponse g err => Sys2Proof.Machine.execMemoryResponse g err s
  | .keyReserveRefill equalHalves => Sys2Proof.Machine.execKeyReserveRefill equalHalves s
  | .doeDiscovery index => Sys2Proof.Machine.execDoeDiscovery index s

end Sys2Proof.Machine
end

