-- ==== Sys2Proof/Safety.lean ====
section
/-! DEFINITION. What a safe run is (no step faults or is refused, and the memory keeps its canonical
form), and the conditions under which the statements say that a command completes. -/

namespace Sys2Proof.Machine

open Sys2Proof

/-- An outcome that goes on. -/
def goesOn : Host.Outcome State Fault Refusal → Bool
  | .next _ => true
  | .fault _ => false
  | .refused _ => false

/-- The stored bytes are in canonical form: addresses strictly rising, none equal to what an unlisted
address reads as; and so is the table of the L2s. -/
def memInv (s : State) : Prop := Memory.wf s.mem.cells = true ∧ tblWf L2.empty s.mem.l2 = true

/-- The table of stored register fields is in order, so that a field reads as what was last written. -/
def regInv (s : State) : Prop := s.reg.regs.Pairwise fun a b => a.1 < b.1

/-- k steps from a state all go on. -/
def runsOn : Nat → State → Prop
  | 0, _ => True
  | k + 1, s => ∃ t, step s = .next t ∧ runsOn k t

/-! ## Conditions of the statements -/

/-- A write of BAR0 by function fn lands at once: the stage is READY and the link trained (R471), the
package is awake (R426), and no register is in parity mismatch (R447). -/
def quiet (s : State) (fn : Nat) : Prop := barOpen s fn = true ∧ awake s = true ∧ s.reg.mismatch = []

/-- An error of a source and a class is written to the log, with no vector and no escalation: fewer than
two entries of the source are in service, the class has room, and ERR_CFG.EN is 0 (R450 to R452). -/
def logsPlainly (s : State) (src cls : Nat) : Prop :=
  inService s src < 2 ∧ logRoom s cls = true ∧ bit (s.raw 0 0x040000).toNat 31 = false

/-- The log with one entry more, in the lowest free slot (R448). -/
def withLog (code cls src ctx info0 info1 : Nat) (s : State) : State :=
  { s with err := { s.err with
      entries := s.err.entries ++ [{ slot := ((upTo 32).find? fun i => !s.err.entries.any fun e => e.slot = i).getD 0, t := s.time, seq := s.err.seq + 1, code, cls, src, flags := b2n (decide (1 ≤ inService s src)), ctx, info0, info1 }],
      seq := s.err.seq + 1 } }

/-- An op that runs and is not over. -/
def inFlight (s : State) (o : OpRef) : Prop := ∃ e p, s.op? o = some (e, p) ∧ p.phase = .running ∧ p.ending = none

/-- Nothing waits on a fence outside the entries, or for its report to be written: no plan is armed, no pipe
has a pending commit (R225, R322), and no tensor op, commit or pass is over but for its report (R186, R307,
R325). -/
def noHooks (s : State) : Prop :=
  (∀ d : Fin 2, (s.plan d.val).state ≠ .armed) ∧ (∀ p : Fin 4, (s.pipe p.val).pend = none) ∧
  (∀ r ∈ s.tns.runs, inFlight s r.op) ∧ s.dsp.reports = [] ∧ ∀ p ∈ s.rnd.passes, inFlight s p.op

/-- A fence's own changes reach its waiters only: it has no notify slot and writes no event. -/
def plainFence (f : Fence) : Prop := f.slots = [] ∧ f.notify = false

/-- Registers that only store what is written to them, in the blocks MMU, FE and FEN: the descriptor
table's base, the invalidation's address, the ring and fence command interfaces and the park tag. -/
def storingRegs : List Nat :=
  [0x070000, 0x070004, 0x070020, 0x070024, 0x060000, 0x060004, 0x060008, 0x06000C, 0x060010, 0x060014, 0x060308, 0x060310,
   0x080000, 0x080004, 0x080008, 0x08000C, 0x080010, 0x080014, 0x080028]

/-- Group g stands at a slot of a core, can issue (R241), and its instruction's fetch answers in state u. Ops
that have ended are swept away first. -/
def issuing (r : GroupRef) (g : Group) (s u : State) : Prop :=
  (shdSweep s).group? r.core.val r.slot.val = some g ∧ canIssue (shdSweep s) g = true ∧ ∃ l, (fetchAt g (shdSweep s)).2 = .ok l u

/-- No barrier of any workgroup has a thread waiting. -/
def noArrivals (s : State) : Prop := ∀ w ∈ s.shd.wgs, w.arrived = 0

end Sys2Proof.Machine
end

