-- ==== Sys2Proof/Certificates/Slice0/Obligations.lean ====
section
/-! DEFINITION. The statements for the provers: what each command does, the general rules of the queue,
and the invariants. -/

open Sys2Proof Sys2Proof.Machine

/-- A step runs the command at the front of the queue: step with c in front is exec of c on the state with the rest of
the queue. -/
def Obligations.StepRunsTheFront : Prop :=
  ∀ (c : Instr) (rest : List Instr) (s : State), s.pending = c :: rest → step s = exec c { s with pending := rest }

/-- Every command goes on, in every state, and so does every step: ordinary data never stops the block. -/
def Obligations.EveryCommandGoesOn : Prop :=
  (∀ (c : Instr) (s : State), ∃ t, exec c s = .next t) ∧ ∀ s : State, ∃ t, step s = .next t

/-- A command's effect leaves the queue as it is, so a step takes exactly the command in front. -/
def Obligations.TheQueueIsFirstInFirstOut : Prop :=
  (∀ (c : Instr) (s t : State), exec c s = .next t → t.pending = s.pending) ∧
  (∀ s t : State, step s = .next t → t.pending = s.pending.tail)

/-- The device at reset: no context, ring, fence or op, no register stored, every unit off, the key reserve full, no
entry in the log and the queue empty; memory and the register table are in canonical form. -/
def Obligations.ResetIsEmptyAndInForm : Prop :=
  memInv State.reset ∧ regInv State.reset ∧ State.reset.pending = [] ∧
  (∀ n, (State.reset.ctx n).state = if n = 0 then .active else .free) ∧ (∀ n, State.reset.ring n = Ring.off) ∧ State.reset.fe.entries = [] ∧
  (∀ n, (State.reset.fence n).st = .free) ∧ (∀ fn off, State.reset.raw fn off = regReset off) ∧ (∀ k, State.reset.power k = .off) ∧
  State.reset.mmu.reserve = 64 ∧ State.reset.err.entries = [] ∧ (∀ m, State.reset.isPinned m = false) ∧ (∀ a, cellGet a State.reset = 0)

/-- Every step keeps the canonical form of memory and of the register table, from every state that has it, whichever
command is in front: addresses strictly rising and no byte stored that an unlisted address reads as, the L2s likewise,
and each register listed once, so that reads give what was last written. -/
def Obligations.EveryStepKeepsTheForm : Prop :=
  ∀ s t : State, memInv s → regInv s → step s = .next t → memInv t ∧ regInv t

/-- What REGISTER_WRITE does to registers that only store: those of the context table and of the ring and fence
command interfaces, which every function has. The writable fields take the value, the other bits keep theirs, and
nothing else changes; each alias ORs, clears or toggles the same fields. An 8-byte write is two 4-byte writes, the
lower address first; any other size and any misaligned write is ignored. -/
def Obligations.RegisterWriteStoresFields : Prop :=
  (∀ (fn : Fn) (off : Nat) (v : Quad) (s : State) (b : BlockId) (rel i : Nat) (d : RegDef),
    quiet s fn.val → off ∈ storingRegs → blockAt off = some (b, rel) → regAt b rel = some (d, i) →
    exec (.registerWrite fn off 4 v) s =
        .next (s.setRaw fn.val off ((s.raw fn.val off &&& ~~~d.rw) ||| (v.setWidth 32 &&& d.rw))) ∧
    exec (.regSetBits fn off 4 v) s =
        .next (s.setRaw fn.val off ((s.raw fn.val off &&& ~~~d.rw) ||| ((s.raw fn.val off ||| v.setWidth 32) &&& d.rw))) ∧
    exec (.regClearBits fn off 4 v) s =
        .next (s.setRaw fn.val off ((s.raw fn.val off &&& ~~~d.rw) ||| ((s.raw fn.val off &&& ~~~v.setWidth 32) &&& d.rw))) ∧
    exec (.regToggleBits fn off 4 v) s =
        .next (s.setRaw fn.val off ((s.raw fn.val off &&& ~~~d.rw) ||| ((s.raw fn.val off ^^^ v.setWidth 32) &&& d.rw)))) ∧
  (∀ (fn : Fn) (off : Nat) (v : Quad) (s t : State), off % 8 = 0 → exec (.registerWrite fn off 4 v) s = .next t →
    exec (.registerWrite fn off 8 v) s = exec (.registerWrite fn (off + 4) 4 (v >>> 32)) t) ∧
  (∀ (fn : Fn) (off size : Nat) (v : Quad) (s : State),
    size ≠ 4 ∧ size ≠ 8 ∨ off % size ≠ 0 → exec (.registerWrite fn off size v) s = .next s)

/-- BLK_KEY: the physical function's write of the key unlocks a block that is on for it and clears DENIED, any other
value locks it; a virtual function has no such register. A write that changes a guarded field without an unlock is
discarded whole and sets DENIED. -/
def Obligations.BlkKeyGuardsItsBlock : Prop :=
  (∀ (fn : Fn) (b : BlockId) (v : Word) (s : State), quiet s fn.val → blockOff s b = false →
    exec (.blkKeyWrite fn b v) s = .next (
      if fn.val ≠ 0 then s
      else if v = 0x5EAF0B17 then setDenied b 0 0 (setUnlock b 0 (s.time + 1) s)
      else setUnlock b 0 0 s)) ∧
  (∀ (off : Nat) (v : Quad) (s : State) (b : BlockId) (rel i : Nat) (d : RegDef), quiet s 0 →
    blockAt off = some (b, rel) → regAt b rel = some (d, i) → rel < 0x1000 → rel ≠ 0xFF0 → off % 4 = 0 →
    blockOff s b = false → unlocked s b 0 = false →
    (((s.raw 0 off &&& ~~~(d.rw ||| d.rwk ||| d.cmd)) ||| (v.setWidth 32 &&& (d.rw ||| d.rwk ||| d.cmd))) &&& d.rwk) ≠ (s.raw 0 off &&& d.rwk) →
    exec (.registerWrite 0 off 4 v) s = .next (setDenied b 0 1 s)) ∧
  (∀ (fn : Fn) (b : BlockId) (t : Nat) (s : State),
    exec (.blkKeyExpiry fn b t) s = .next (
      let s' := advanceTo t s
      if tblGet 0 s'.reg.unlock (guardKey b fn.val) ≠ 0 ∧ tblGet 0 s'.reg.unlock (guardKey b fn.val) + 999999 ≤ s'.time then
        setUnlock b fn.val 0 s' else s'))

/-- A read of a counter's _LO register latches its _HI register: the upper 32 bits of the count at the time of the
read, and nothing else changes. TOP_TIME_LO is every function's; the others are the physical function's, and those of
a cluster latch while the cluster is on. A write of PWR_WAKE_CFG or PWR_WAKE_STS is held, and takes effect at the next
slow-clock edge: a later write of PWR_WAKE_CFG replaces the held value, the held 1s of PWR_WAKE_STS are ORed. -/
def Obligations.CountersLatchAndSlowWritesWait : Prop :=
  (
  ∀ (fn : Fn) (s : State), quiet s fn.val →
    exec (.counterLoRead fn .topTime) s =
      .next { s with reg := { s.reg with latch := tblSet 0 s.reg.latch 0x24 (w32 (s.time / 2 ^ 32)) } } ∧
    (∀ c : Fin 8, exec (.counterLoRead fn (.tnsIssue c)) s = .next (
      if fn.val ≠ 0 ∨ s.power c.val ≠ .on then s else
      { s with reg := { s.reg with latch := tblSet 0 s.reg.latch (clusterBase c + 0x10014) (w32 ((tblGet 0 s.tns.issue c.val).toNat / 2 ^ 32)) } })) ∧
    (∀ c : Fin 8, exec (.counterLoRead fn (.tnsStall c)) s = .next (
      if fn.val ≠ 0 ∨ s.power c.val ≠ .on then s else
      { s with reg := { s.reg with latch := tblSet 0 s.reg.latch (clusterBase c + 0x1001C) (w32 ((tblGet 0 s.tns.stall c.val).toNat / 2 ^ 32)) } })) ∧
    (∀ p : Fin 4, exec (.counterLoRead fn (.dspFrame p)) s = .next (
      if fn.val ≠ 0 then s else
      { s with reg := { s.reg with latch := tblSet 0 s.reg.latch (0x0A000C + p.val * 0x10000) (w32 ((s.pipe p.val).frame.toNat / 2 ^ 32)) } }))) ∧
  (
  (∀ (v : Word) (s : State), quiet s 0 →
    exec (.slowRegWrite 0 0x030020 v) s = .next
      { s with reg := { s.reg with slowHeld := tblSet 0 s.reg.slowHeld 0x030020 (((s.raw 0 0x030020 &&& ~~~0x77777777) ||| (v &&& 0x77777777)).toNat + 1) } }) ∧
  (∀ (v : Word) (s : State), quiet s 0 → (v &&& 0x1FF) ≠ 0 →
    exec (.slowRegWrite 0 0x030024 v) s = .next
      { s with reg := { s.reg with slowHeld := tblSet 0 s.reg.slowHeld 0x030024 ((w32 (tblGet 0 s.reg.slowHeld 0x030024 - 1) ||| (v &&& 0x1FF)).toNat + 1) } }) ∧
  (∀ (v : Word) (s : State), quiet s 0 →
    let old := s.raw 0 0x030020
    let held (w : Word) : State := { s with reg := { s.reg with slowHeld := tblSet 0 s.reg.slowHeld 0x030020 (((old &&& ~~~0x77777777) ||| (w &&& 0x77777777)).toNat + 1) } }
    exec (.slowRegWrite 0 0x031020 v) s = .next (held (old ||| v)) ∧
    exec (.slowRegWrite 0 0x032020 v) s = .next (held (old &&& ~~~v)) ∧
    exec (.slowRegWrite 0 0x033020 v) s = .next (held (old ^^^ v)) ∧
    (tblGet 0 s.reg.slowHeld 0x030024 = 0 → ((v &&& 0x1FF) = 0 → exec (.slowRegWrite 0 0x030024 v) s = .next s) ∧
      exec (.slowRegWrite 0 0x031024 v) s = .next s ∧ exec (.slowRegWrite 0 0x032024 v) s = .next s ∧ exec (.slowRegWrite 0 0x033024 v) s = .next s)) ∧
  (∀ (fn : Fn) (off : Nat) (v : Word) (s : State), quiet s fn.val → fn.val ≠ 0 → exec (.slowRegWrite fn off v) s = .next s) ∧
  (∀ (fn : Fn) (off : Nat) (v : Word) (s : State), ((off % 0x1000 ≠ 0x20 ∧ off % 0x1000 ≠ 0x24) ∨ off < 0x030000 ∨ 0x034000 ≤ off) → exec (.slowRegWrite fn off v) s = .next s) ∧
  (∀ s : State, s.pending = [] → slowEdges s.time < slowEdges (s.time + 1) →
    let cfg := tblGet 0 s.reg.slowHeld 0x030020
    let ones := tblGet 0 s.reg.slowHeld 0x030024
    let a := if cfg = 0 then s else s.setRaw 0 0x030020 (w32 (cfg - 1) &&& 0x77777777)
    let b := if ones = 0 then a else a.setRaw 0 0x030024 (a.raw 0 0x030024 &&& ~~~w32 (ones - 1))
    levelPins a = [] → levelPins b = [] → step s = .next { b with
      reg := { b.reg with slowHeld := [] }
      pwr := { b.pwr with
        rosWake := (b.raw 0 0x030024).toNat + s.pwr.levels * 65536
        rosTrim := s.pwr.trim + (if s.pwr.trimRef then 65536 else 0) + (if s.pwr.trimLock then 131072 else 0) + (if s.pwr.trimHold then 262144 else 0) }
      time := s.time + 1 }) ∧
  (∀ s : State, s.pending = [] → ¬ slowEdges s.time < slowEdges (s.time + 1) → step s = .next { s with time := s.time + 1 }))

/-- A parity mismatch of a protected register of a block that is on: the register's writable fields read the value
that they now hold, its block halts, and CFG_PARITY is logged with the register's offset and that value. Nothing else
changes: no stored register, byte of memory, ring, fence or context. A register without parity, one in a virtual
function that has none, one of a block that is off, one in mismatch already and an offset that names no register have
no such event. -/
def Obligations.ParityMismatchHaltsTheBlock : Prop :=
  (∀ (fn : Fn) (off : Nat) (v : Word) (s : State) (b : BlockId) (rel i : Nat) (d : RegDef),
    blockAt off = some (b, rel) → regAt b rel = some (d, i) →
    let held := v &&& (d.rw ||| d.rwk)
    (d.parity = true → off % 4 = 0 → (fn.val = 0 ∨ d.vf = true) → blockOff s b = false → inMismatch s (regKey fn.val off) = false →
      logsPlainly s (blockSource b) 0 → ∃ t, exec (.cfgParity fn off v) s = .next t ∧
      t = withLog 0x01 0 (blockSource b) 0 off held.toNat
        { s with reg := { s.reg with mismatch := s.reg.mismatch ++ [(regKey fn.val off, held)] } } ∧
      t.halted b = true ∧ readReg fn.val off t &&& (d.rw ||| d.rwk) = held) ∧
    (d.parity = false ∨ off % 4 ≠ 0 ∨ (fn.val ≠ 0 ∧ d.vf = false) ∨ blockOff s b = true ∨ inMismatch s (regKey fn.val off) = true →
      exec (.cfgParity fn off v) s = .next s)) ∧
  (∀ (fn : Fn) (off : Nat) (v : Word) (s : State),
    (∀ b rel, blockAt off = some (b, rel) → regAt b rel = none) → exec (.cfgParity fn off v) s = .next s)

/-- An entry of the error log is in service from its writing until its SEQ is written to ERR_RETIRE, which frees its
slot and leaves every other entry; a SEQ that no slot holds changes nothing, so none is retired twice. The register is
the physical function's. -/
def Obligations.EntriesAreRetiredOnce : Prop :=
  (∀ (v : Word) (s : State), quiet s 0 →
    ((∀ e ∈ s.err.entries, e.seq ≠ v.toNat) → exec (.errRetire 0 v) s = .next s) ∧
    (v ≠ 0 →
      let t : State := { s with err := { s.err with entries := s.err.entries.filter fun e => decide (e.seq ≠ v.toNat) } }
      exec (.errRetire 0 v) s = .next t ∧ exec (.errRetire 0 v) t = .next t)) ∧
  (∀ (fn : Fn) (v : Word) (s : State), quiet s fn.val → fn.val ≠ 0 → exec (.errRetire fn v) s = .next s) ∧
  (∀ (code cls src ctx info0 info1 : Nat) (s : State), logRoom s cls = true → bit (s.raw 0 0x040000).toNat 31 = false →
    inService (logWrite code cls src ctx info0 info1 false s) src = inService s src + 1)

/-- A write of FE_FN_RING_f that changes FIRST or COUNT is refused if the new range overlaps another function's, runs
past ring 8,191, does not start function 0 at ring 0, or if a ring of the old or the new range is not DISABLED; under
an unlock any other is stored, while the function's TDI is not locked. A write that leaves both as they are is never
refused, and its W1C part clears REFUSED. -/
def Obligations.RingRangesAreChecked : Prop :=
  ∀ (f : Fn) (v : Word) (s : State), quiet s 0 →
    let off := 0x060100 + 4 * f.val
    let old := s.raw 0 off
    let new := (old &&& ~~~0x7FFFFFF) ||| (v &&& 0x7FFFFFF)
    let first := bits new.toNat 12 0
    let count := bits new.toNat 26 13
    let u := setUnlock .fe 0 0 s
    let ok := (∀ g : Fn, g ≠ f → overlap first count (bits (s.raw 0 (0x060100 + 4 * g.val)).toNat 12 0) (bits (s.raw 0 (0x060100 + 4 * g.val)).toNat 26 13) = false) ∧
      first + count ≤ 8192 ∧ (f.val = 0 → first = 0) ∧
      ∀ e ∈ s.fe.rings, e.2.state = .disabled ∨ (rangeHas new 12 13 26 e.1 = false ∧ rangeHas old 12 13 26 e.1 = false)
    ((new &&& 0x7FFFFFF) ≠ (old &&& 0x7FFFFFF) → unlocked s .fe 0 = true →
      (ok → tdiLocked s f.val = false → exec (.feFnRingWrite 0 f v) s = .next (u.setRaw 0 off (new &&& ~~~(v &&& 0x80000000)))) ∧
      (¬ ok → exec (.feFnRingWrite 0 f v) s = .next (u.setRaw 0 off ((old &&& ~~~(v &&& 0x80000000)) ||| 0x80000000)))) ∧
    ((new &&& 0x7FFFFFF) = (old &&& 0x7FFFFFF) → exec (.feFnRingWrite 0 f v) s = .next (s.setRaw 0 off (old &&& ~~~(v &&& 0x80000000))))

/-- A write of MMU_FN_CTX_f under an unlock: the range is stored when it overlaps no other function's, ends by context
511, keeps context 0 in function 0, and every context but 0 of the old and the new range is FREE; otherwise the fields
stay and REFUSED is set. Writes of FEN_FN_LOCAL_f and FEN_FN_SHARED_f under an unlock, with the checks of fences: no
overlap, none past the last, function 0 from the first, every fence of the old and the new range FREE. Range registers
belong to the physical function, and a write that leaves the range alone is never refused: it clears REFUSED when it
writes 1 to it, and does no more. -/
def Obligations.ContextAndFenceRangesAreChecked : Prop :=
  (
  ∀ (f : Fn) (v : Word) (s : State), quiet s 0 → unlocked s .mmu 0 = true → tdiLocked s f.val = false →
    let off := 0x070100 + 4 * f.val
    let old := s.raw 0 off
    let new := (old &&& ~~~0xFFDFF) ||| (v &&& 0xFFDFF)
    let first := bits new.toNat 8 0
    let count := bits new.toNat 19 10
    let u := setUnlock .mmu 0 0 s
    let ok := (∀ g : Fn, g ≠ f → overlap first count (bits (s.raw 0 (0x070100 + 4 * g.val)).toNat 8 0) (bits (s.raw 0 (0x070100 + 4 * g.val)).toNat 19 10) = false) ∧
      first + count ≤ 512 ∧ (f.val = 0 → first = 0 ∧ count ≠ 0) ∧
      ∀ n : CtxId, n.val ≠ 0 → (s.ctx n.val).state = .free ∨ (rangeHas new 8 10 19 n.val = false ∧ rangeHas old 8 10 19 n.val = false)
    (new &&& 0xFFDFF) ≠ (old &&& 0xFFDFF) →
    (ok → exec (.mmuFnCtxWrite 0 f v) s = .next (u.setRaw 0 off (new &&& ~~~(v &&& 0x80000000)))) ∧
    (¬ ok → exec (.mmuFnCtxWrite 0 f v) s = .next (u.setRaw 0 off ((old &&& ~~~(v &&& 0x80000000)) ||| 0x80000000)))) ∧
  (
  ∀ (shared : Bool) (f : Fn) (v : Word) (s : State), quiet s 0 → unlocked s .fen 0 = true → tdiLocked s f.val = false →
    let base := if shared then 0x080200 else 0x080100
    let off := base + 4 * f.val
    let old := s.raw 0 off
    let new := (old &&& ~~~0x1FFFFF) ||| (v &&& 0x1FFFFF)
    let first := bits new.toNat 9 0
    let count := bits new.toNat 20 10
    let u := setUnlock .fen 0 0 s
    let ok := (∀ g : Fn, g ≠ f → overlap first count (bits (s.raw 0 (base + 4 * g.val)).toNat 9 0) (bits (s.raw 0 (base + 4 * g.val)).toNat 20 10) = false) ∧
      first + count ≤ 1024 ∧ (f.val = 0 → first = 0) ∧
      ∀ e ∈ s.fen.fences, e.2.st = .free ∨ (rangeFences shared new.toNat e.1 = false ∧ rangeFences shared old.toNat e.1 = false)
    let cmd : Instr := if shared then .fenFnSharedWrite 0 f v else .fenFnLocalWrite 0 f v
    (new &&& 0x1FFFFF) ≠ (old &&& 0x1FFFFF) →
    (ok → exec cmd s = .next (u.setRaw 0 off (new &&& ~~~(v &&& 0x80000000)))) ∧
    (¬ ok → exec cmd s = .next (u.setRaw 0 off ((old &&& ~~~(v &&& 0x80000000)) ||| 0x80000000)))) ∧
  (
  ∀ (fn f : Fn) (v : Word) (s : State), quiet s fn.val →
    (fn.val ≠ 0 →
      exec (.mmuFnCtxWrite fn f v) s = .next s ∧ exec (.feFnRingWrite fn f v) s = .next s ∧
      exec (.fenFnLocalWrite fn f v) s = .next s ∧ exec (.fenFnSharedWrite fn f v) s = .next s) ∧
    (fn.val = 0 →
      (((s.raw 0 (0x070100 + 4 * f.val) &&& 0xFFDFF) = (v &&& 0xFFDFF)) →
        exec (.mmuFnCtxWrite fn f v) s = .next (s.setRaw 0 (0x070100 + 4 * f.val) (s.raw 0 (0x070100 + 4 * f.val) &&& ~~~(v &&& 0x80000000)))) ∧
      (((s.raw 0 (0x080100 + 4 * f.val) &&& 0x1FFFFF) = (v &&& 0x1FFFFF)) →
        exec (.fenFnLocalWrite fn f v) s = .next (s.setRaw 0 (0x080100 + 4 * f.val) (s.raw 0 (0x080100 + 4 * f.val) &&& ~~~(v &&& 0x80000000)))) ∧
      (((s.raw 0 (0x080200 + 4 * f.val) &&& 0x1FFFFF) = (v &&& 0x1FFFFF)) →
        exec (.fenFnSharedWrite fn f v) s = .next (s.setRaw 0 (0x080200 + 4 * f.val) (s.raw 0 (0x080200 + 4 * f.val) &&& ~~~(v &&& 0x80000000))))))

/-- Context commands on a context in the function's range, with no command to it in progress: each is valid in its
states only, and answers STATE (3) in any other. CREATE starts, and takes its result when the descriptor has been
read; RELEASE of a RETIRED context makes it FREE with its GEN; RELOAD is context 0's. A context outside the range
answers RANGE (2), one with a command in progress STATE. -/
def Obligations.ContextCommandsFollowTheirStates : Prop :=
  ∀ (fn : Fn) (n : CtxId) (s : State), quiet s fn.val →
    let c := s.ctx n.val
    let answer (r : Nat) (u : State) : State := { u with mmu := { u.mmu with results := tblSet 0 u.mmu.results (fn.val * 512 + n.val) r } }
    (fnHasCtx s fn.val n.val = false →
      exec (.ctxCreate fn n) s = .next (answer 2 s) ∧ exec (.ctxDestroy fn n) s = .next (answer 2 s) ∧
      exec (.ctxAbort fn n) s = .next (answer 2 s) ∧ exec (.ctxRelease fn n) s = .next (answer 2 s) ∧
      exec (.ctxReload fn n) s = .next (answer 2 s)) ∧
    (fnHasCtx s fn.val n.val = true → c.cmd.isSome = true →
      exec (.ctxCreate fn n) s = .next (answer 3 s) ∧ exec (.ctxDestroy fn n) s = .next (answer 3 s) ∧
      exec (.ctxAbort fn n) s = .next (answer 3 s) ∧ exec (.ctxRelease fn n) s = .next (answer 3 s) ∧
      exec (.ctxReload fn n) s = .next (answer 3 s)) ∧
    (fnHasCtx s fn.val n.val = true → c.cmd = none →
      exec (.ctxCreate fn n) s = .next (
        if c.state = .free ∧ (s.diePresent 0 = true ∨ s.diePresent 1 = true) then s.setCtx n.val { c with cmd := some fn.val } else answer 3 s) ∧
      exec (.ctxRelease fn n) s = .next (
        if c.state = .retired then answer 0 (s.setCtx n.val { ctxDefault n.val with gen := c.gen }) else answer 3 s) ∧
      exec (.ctxReload fn n) s = .next (if n.val = 0 then s.setCtx 0 { s.ctx 0 with cmd := some fn.val } else answer 3 s) ∧
      (n.val = 0 ∨ c.state ≠ .active → exec (.ctxDestroy fn n) s = .next (answer 3 s)) ∧
      (n.val = 0 ∨ (c.state ≠ .active ∧ c.state ≠ .draining) → exec (.ctxAbort fn n) s = .next (answer 3 s)))

/-- DESTROY and ABORT of a context that they are valid for. ABORT, and DESTROY without DRAIN, go to ABORTING with the
reason OWNER_GONE, unless an earlier reason is fixed, stop each of the context's rings, which shows IDLE unless it is
HALTED and has its CONSUMER and STATE written to its control block, put each fence of the context on its way to that
error, discard the context's entries without running work and skip the waiting ops of the others, and answer OK.
DESTROY with DRAIN goes to DRAINING and has each of the context's live rings that no DISABLE stops read DOORBELL once
more. Nothing else changes: no register, log entry, other context, ring, entry or fence, and no byte of memory but the
control blocks' fields. -/
def Obligations.DestroyAndAbortTearDown : Prop :=
  ∀ (fn : Fn) (n : CtxId) (s : State), quiet s fn.val → fnHasCtx s fn.val n.val = true → (s.ctx n.val).cmd = none → n.val ≠ 0 →
    let c := s.ctx n.val
    let reason := if c.state = .active then Reason.ownerGone else c.reason
    let stopped (s : State) : State :=
      ((s.fe.rings.filter fun e => decide (e.2.ctx = n.val) && decide (e.2.state ≠ .disabled)).map (·.1)).foldl (fun u r =>
        let v := rcbWrite r 64 8 (u.ring r).cons.toNat (u.setRing r { u.ring r with stopped := true, reads := [], limit := none, dupWait := false })
        if (u.ring r).state = .halted then v else rcbWrite r 80 4 3 (v.setRing r { v.ring r with state := .idle })) s
    let runs (p : Op) : Bool := decide (p.phase = .running) && p.fence.isNone
    let live (e : Entry) : Bool := decide (e.ctx ≠ n.val) || decide (e.phase = .finished) || e.ops.any runs
    let unpins (v : GraphVersion) (e : Entry) : Bool := !live e && e.launch.any fun l => decide (v.ctx = e.ctx) && decide (v.graph = l.graph) && decide (v.version = l.version)
    let ended : State :=
      let u := stopped { s with mmu := { s.mmu with ctxs := tblSet (ctxDefault n.val) s.mmu.ctxs n.val { c with state := .aborting, reason } } }
      { u with
        mmu := { u.mmu with results := tblSet 0 s.mmu.results (fn.val * 512 + n.val) 0 }
        fen := { u.fen with queue := s.fen.queue ++ (fencesOf s n.val).map fun k => { fence := k, alloc := (s.fence k).alloc, what := .inr reason, page := false } }
        fe := { u.fe with
          entries := (s.fe.entries.filter live).map fun e => if e.ctx = n.val ∧ e.phase ≠ .finished then
            { e with ops := e.ops.map fun p => if p.phase ≠ .done ∧ runs p = false then { p with phase := .done, skipped := true } else p } else e
          versions := s.fe.versions.map fun v => { v with pins := v.pins - (s.fe.entries.filter (unpins v)).length } } }
    (c.state = .active ∨ c.state = .draining → exec (.ctxAbort fn n) s = .next ended) ∧
    (c.state = .active → c.drain = false → exec (.ctxDestroy fn n) s = .next ended) ∧
    (∀ u : State, awake u = true → ∃ m rings, stopped u = { u with mem := m, fe := { u.fe with rings } } ∧ ∀ r, (stopped u).ring r =
      if (u.ring r).ctx = n.val ∧ (u.ring r).state ≠ .disabled then
        { u.ring r with stopped := true, reads := [], limit := none, dupWait := false, state := if (u.ring r).state = .halted then .halted else .idle }
      else u.ring r) ∧
    (c.state = .active → c.drain = true → exec (.ctxDestroy fn n) s = .next
      { s with
        mmu := { s.mmu with ctxs := tblSet (ctxDefault n.val) s.mmu.ctxs n.val { c with state := .draining, reason := .ownerGone },
                            results := tblSet 0 s.mmu.results (fn.val * 512 + n.val) 0 },
        fe := { s.fe with rings := s.fe.rings.map fun e => if e.2.ctx = n.val ∧ e.2.state ≠ .disabled ∧ e.2.state ≠ .halted ∧ e.2.cmd = none then
          (e.1, { e.2 with reads := e.2.reads ++ [.drain] }) else e } })

/-- CREATE and RELOAD end by what the descriptor holds. A read that must wait leaves the command in progress, one
that fails answers FETCH (4), and is logged where it is a violation, and a record that fails a check BAD_RECORD (1),
with the context as it was; a CREATE that passes makes the context ACTIVE with the descriptor's fields, a new GEN and
a fresh key, discards its TLB entries and answers OK, or answers STATE (3) where the key reserve is empty; a RELOAD
that passes installs the root, the fault queue, the vector and the flags of context 0, keeps its GEN and its key
slot, and answers OK once the loads translated before have completed. A descriptor is accepted exactly when its
reserved fields are zero, PT_ROOT is a page of 49 bits, FQ_BASE a 64-byte boundary of 49 bits, FQ_LOG2 4 to 12,
VECTOR 1 to 2,047 and FLAGS within its bits; it gives the context those fields. -/
def Obligations.CreateAndReloadEnd : Prop :=
  (
  ∀ (n : CtxId) (io : HostIO) (s : State) (fn : Nat), s.reg.mismatch = [] →
    let s0 := applyIO io s
    let pa (f : Nat) := s0.rawBase f 0x070000 0x070004 + 64 * n.val
    ((s0.ctx n.val).cmd = none → exec (.ctxCreateDone n io) s = .next s0) ∧
    (n.val ≠ 0 → (s0.ctx n.val).cmd = some fn →
      (devRead (pa fn) 64 s0 = .wait → exec (.ctxCreateDone n io) s = .next s0) ∧
      (∀ bs u, devRead (pa fn) 64 s0 = .done (bs, u) → descriptor bs = none →
        exec (.ctxCreateDone n io) s = .next (ctxResult fn n.val 1 (u.setCtx n.val { u.ctx n.val with cmd := none }))) ∧
      (∀ bs u d, devRead (pa fn) 64 s0 = .done (bs, u) → descriptor bs = some d → u.mmu.reserve ≠ 0 →
        exec (.ctxCreateDone n io) s = .next (ctxResult fn n.val 0
          ((tlbDiscard (fun t => t.ctx = n.val) { u with mmu := { u.mmu with serial := u.mmu.serial + 1, reserve := u.mmu.reserve - 1 } }).setCtx n.val
            { d with state := .active, gen := (s0.ctx n.val).gen + 1, key := some (u.mmu.serial + 1) }))) ∧
      (∀ bs u d, devRead (pa fn) 64 s0 = .done (bs, u) → descriptor bs = some d → u.mmu.reserve = 0 →
        exec (.ctxCreateDone n io) s = .next (ctxResult fn n.val 3 (u.setCtx n.val { u.ctx n.val with cmd := none }))) ∧
      (devRead (pa fn) 64 s0 = .failed → exec (.ctxCreateDone n io) s = .next (
        let u := noteViolation 0x81 n.val (pa fn) 64 s0
        ctxResult fn n.val 4 (u.setCtx n.val { u.ctx n.val with cmd := none })))) ∧
    ((s0.ctx 0).cmd = none → exec (.ctxReloadDone io) s = .next s0) ∧
    ((s0.ctx 0).cmd = some fn →
      let pa0 := s0.rawBase 0 0x070000 0x070004
      let ended (r : Nat) (u : State) : State := ctxResult fn 0 r (u.setCtx 0 { u.ctx 0 with cmd := none })
      (s0.mmu.reloadLoads ≠ [] → exec (.ctxReloadDone io) s = .next (
        if loadsGone s0 s0.mmu.reloadLoads = true then ended 0 { s0 with mmu := { s0.mmu with reloadLoads := [] } } else s0)) ∧
      (s0.mmu.reloadLoads = [] →
        (devRead pa0 64 s0 = .wait → exec (.ctxReloadDone io) s = .next s0) ∧
        (∀ bs u, devRead pa0 64 s0 = .done (bs, u) → descriptor bs = none → exec (.ctxReloadDone io) s = .next (ended 1 u)) ∧
        (∀ bs u d, devRead pa0 64 s0 = .done (bs, u) → descriptor bs = some d →
          let v := tlbDiscard (fun t => t.ctx = 0) (u.setCtx 0
            { u.ctx 0 with ptRoot := d.ptRoot, fqBase := d.fqBase, fqLog2 := d.fqLog2, vector := d.vector, plainOk := d.plainOk, ftz := d.ftz, prod := 0, lost := 0 })
          let loads := loadsOn v 0 fun _ => true
          (loads = [] → exec (.ctxReloadDone io) s = .next (ended 0 v)) ∧
          (loads ≠ [] → exec (.ctxReloadDone io) s = .next { v with mmu := { v.mmu with reloadLoads := loads } })) ∧
        (devRead pa0 64 s0 = .failed → exec (.ctxReloadDone io) s = .next (ended 4 (noteViolation 0x81 0 pa0 64 s0)))))) ∧
  (
  ∀ bs : List Byte,
    let root := fld bs 0 8
    let fq := fld bs 8 8
    let log2 := fld bs 16 1
    let vec := fld bs 18 2
    let flags := fld bs 20 2
    (descriptor bs).isSome = decide (root % 4096 = 0 ∧ root < 2 ^ 49 ∧ fq % 64 = 0 ∧ fq < 2 ^ 49 ∧ 4 ≤ log2 ∧ log2 ≤ 12 ∧ 1 ≤ vec ∧ vec ≤ 2047 ∧
      flags < 16 ∧ zeros bs 17 1 = true ∧ zeros bs 22 42 = true) ∧
    ∀ d, descriptor bs = some d → d.ptRoot = some root ∧ d.fqBase = some fq ∧ d.fqLog2 = log2 ∧ d.vector = vec ∧
      d.drain = bit flags 0 ∧ d.plainOk = bit flags 1 ∧ d.ftz = bit flags 2 ∧ d.prot = bit flags 3 ∧ d.prod = 0 ∧ d.lost = 0)

/-- The ends of a teardown. DRAIN_END, once the context's entries have completed, its rings have reached their limits
and no plan of it runs, stops its rings, which show IDLE, and puts each of its fences on its way to its reason.
STOP_IN_PLACE leaves no op of an ABORTING context running, and no entry, register, error or context of another's
changed. RETIRED, when nothing of the context runs and no pool of a pass of it is to be set back, leaves it no entry,
version, walk, TLB entry or region, its rings DISABLED, and the context RETIRED without key, root and directory. Each
does nothing where its step is not due. -/
def Obligations.TeardownStepsEnd : Prop :=
  ∀ (n : CtxId) (s : State),
    let c := s.ctx n.val
    let ready := c.state = .aborting ∨ (c.state = .draining ∧ c.drainDone = true)
    let planRuns := ∃ d : Fin 2, (s.plan d.val).state = .running ∧ (s.plan d.val).ctx = n.val
    let stopped (s : State) : State :=
      ((s.fe.rings.filter fun e => decide (e.2.ctx = n.val) && decide (e.2.state ≠ .disabled)).map (·.1)).foldl (fun u r =>
        let v := rcbWrite r 64 8 (u.ring r).cons.toNat (u.setRing r { u.ring r with stopped := true, reads := [], limit := none, dupWait := false })
        if (u.ring r).state = .halted then v else rcbWrite r 80 4 3 (v.setRing r { v.ring r with state := .idle })) s
    (awake s = true → c.state = .draining → c.drainDone = false → drainIdle s n.val = true → ¬ planRuns →
      exec (.drainEnd n) s = .next (
        let u := stopped { s with mmu := { s.mmu with ctxs := tblSet (ctxDefault n.val) s.mmu.ctxs n.val { c with drainDone := true } } }
        { u with fen := { s.fen with queue := s.fen.queue ++ (fencesOf s n.val).map fun k => { fence := k, alloc := (s.fence k).alloc, what := .inr c.reason, page := false } } })) ∧
    (c.state ≠ .draining ∨ c.drainDone = true ∨ drainIdle s n.val = false ∨ planRuns → exec (.drainEnd n) s = .next s) ∧
    (c.state = .aborting → ∃ t, exec (.stopInPlace n) s = .next t ∧ (∀ o : OpRef, opRunning t o = true → opCtx t o ≠ n.val) ∧
      (s.rnd.passes = [] → s.dsp.reports = [] → (∀ r ∈ s.tns.runs, inFlight s r.op) → (s.fe.entries.map fun e => (e.ring, e.seq)).Nodup →
        (∀ e, e.ctx ≠ n.val → (e ∈ t.fe.entries ↔ e ∈ s.fe.entries)) ∧
        t = { s with
          fe := { s.fe with entries := t.fe.entries, versions := t.fe.versions, copies := t.fe.copies }
          tns := t.tns, rsh := t.rsh, shd := t.shd, dsp := t.dsp, cmp := t.cmp, free := t.free })) ∧
    (c.state ≠ .aborting → exec (.stopInPlace n) s = .next s) ∧
    (noHooks s → n.val ≠ 0 → ready → ctxBusy s n.val = false → (∀ p ∈ s.rnd.passes, p.ctx ≠ n.val) → ∃ t, exec (.ctxRetired n) s = .next t ∧
      (∀ e ∈ t.fe.entries, e.ctx ≠ n.val) ∧ (∀ v ∈ t.fe.versions, v.ctx ≠ n.val) ∧ (∀ w ∈ t.mmu.walks ++ t.mmu.queue, w.ctx ≠ n.val) ∧
      (∀ g ∈ t.shd.groups, g.ctx ≠ n.val) ∧
      (awake s = true → n.val ∉ s.sec.flr → (∀ e ∈ s.fen.fences, plainFence e.2) →
        t.ctx n.val = { c with state := .retired, ptRoot := none, key := none, dir := none, drainDone := false } ∧
        (∀ e ∈ t.mmu.utlb ++ t.mmu.dtlb, ∀ x ∈ e.2, x.ctx ≠ n.val) ∧ (∀ e ∈ t.mem.owners, e.2 ≠ n.val) ∧
        (∀ r, (t.ring r).ctx = n.val → (t.ring r).state = .disabled) ∧
        (s.rnd.passes = [] → ∀ m, m ≠ n.val → t.ctx m = s.ctx m))) ∧
    (noHooks s → n.val = 0 ∨ ¬ ready ∨ ctxBusy s n.val = true ∨ (∃ p ∈ s.rnd.passes, p.ctx = n.val) → exec (.ctxRetired n) s = .next s)

/-- GO of MMU_INV_CTL: a context outside the function's range answers RANGE (2), no ALL and no page BAD_RECORD (1),
and nothing is invalidated; any other GO answers OK, discards the context's TLB entries that overlap the range, and is
in progress until every load translated through a discarded entry has completed; a GO meanwhile is ignored. MMU_INV_STS
shows the result of the last GO. -/
def Obligations.InvalidationGo : Prop :=
  (∀ (fn : Fn) (v : Word) (s : State), quiet s fn.val → invBusy s fn.val = false →
    let ctl := (s.raw fn.val 0x070028 &&& ~~~0x7FFFFFFF) ||| (v &&& 0x3FFFFFFF)
    let u := s.setRaw fn.val 0x070028 ctl
    let w := (u.raw fn.val 0x070028).toNat
    let ctx := bits w 8 0
    let pages := bits w 29 10
    let va := u.rawBase fn.val 0x070020 0x070024
    let answer (r : Nat) (x : State) : State := { x with mmu := { x.mmu with invRes := tblSet 0 x.mmu.invRes fn.val r } }
    let hit (t : TlbEntry) : Bool := decide (t.ctx = ctx) && (bit w 9 || (decide (t.leaf.va < va + pages * 4096) && decide (va < t.leaf.va + t.leaf.size)))
    (∀ r x, 1 ≤ r → r ≤ 2 → x.raw fn.val 0x07002C = 0 → readReg fn.val 0x07002C (answer r x) = BitVec.ofNat 32 r) ∧
    (∀ x : State, x.mmu.invRes = tblSet 0 u.mmu.invRes fn.val 0 → x.raw fn.val 0x07002C = 0 → (u.mmu.invRes.Pairwise fun a b => a.1 < b.1) → readReg fn.val 0x07002C x = 0) ∧
    (fnHasCtx u fn.val ctx = false → exec (.invalidateGo fn v) s = .next (answer 2 u)) ∧
    (fnHasCtx u fn.val ctx = true → bit w 9 = false → pages = 0 → exec (.invalidateGo fn v) s = .next (answer 1 u)) ∧
    let gone := ((u.mmu.utlb ++ u.mmu.dtlb).flatMap fun e => e.2).filter hit
    let old (a : Nat) : Bool := bit w 9 || (decide (va ≤ a) && decide (a < va + pages * 4096)) || gone.any fun t => t.hits ctx a
    (fnHasCtx u fn.val ctx = true → (bit w 9 = true ∨ pages ≠ 0) → ∃ t, exec (.invalidateGo fn v) s = .next t ∧
      t = { u with mmu := { u.mmu with utlb := t.mmu.utlb, dtlb := t.mmu.dtlb, inval := u.mmu.inval ++ [{ fn := fn.val, ctx, loads := loadsOn u ctx old }], invRes := tblSet 0 u.mmu.invRes fn.val 0 } } ∧
      (∀ e ∈ t.mmu.utlb ++ t.mmu.dtlb, ∀ x ∈ e.2, hit x = false) ∧
      (∀ e ∈ u.mmu.utlb, ∀ x ∈ e.2, hit x = false → ∃ e' ∈ t.mmu.utlb, e'.1 = e.1 ∧ x ∈ e'.2) ∧
      (∀ e ∈ u.mmu.dtlb, ∀ x ∈ e.2, hit x = false → ∃ e' ∈ t.mmu.dtlb, e'.1 = e.1 ∧ x ∈ e'.2))) ∧
  (∀ (fn : Fn) (s : State), exec (.invalidateDone fn) s = .next
    { s with mmu := { s.mmu with inval := s.mmu.inval.filter fun e => decide (e.fn ≠ fn.val) || !loadsGone s e.loads } }) ∧
  (∀ (fn : Fn) (v : Word) (s : State), quiet s fn.val → invBusy s fn.val = true →
    exec (.invalidateGo fn v) s = .next (s.setRaw fn.val 0x070028 ((s.raw fn.val 0x070028 &&& ~~~0x7FFFFFFF) ||| (v &&& 0x3FFFFFFF))))

/-- APPLY of MMU_PLACE_CTL: a valid table with a valid framebuffer table is locked, an invalid one sets REFUSED and
stays open; a locked table takes no further APPLY. Each entry of a table locked is well formed. -/
def Obligations.PlacementApply : Prop :=
  (∀ (v : Word) (s : State), quiet s 0 →
    let kept := s.raw 0 0x070D00 &&& ~~~(v &&& 4)
    (s.mem.locked = false → placeValid s = true → fbcValidTable s = true → exec (.placeApply 0 v) s = .next
      { s.setRaw 0 0x070D00 kept with mem := { s.mem with locked := true } }) ∧
    (s.mem.locked = false → (placeValid s = false ∨ fbcValidTable s = false) → exec (.placeApply 0 v) s = .next (s.setRaw 0 0x070D00 (kept ||| 4))) ∧
    (s.mem.locked = true → exec (.placeApply 0 v) s = .next (s.setRaw 0 0x070D00 kept))) ∧
  (∀ (s : State) (g : Nat), placeValid s = true → g < (if s.unit.degraded then 128 else 256) →
    let e := placeRaw s g
    bit e 5 = false ∧ (entryClass e = 0 ∨ entryClass e = 3 → entryTarget e = 0) ∧
    (entryClass e = 1 → entryTarget e ≤ 1 ∧ s.diePresent (entryTarget e) = true) ∧
    (entryClass e = 2 → s.diePresent (entryTarget e / 16) = true)) ∧
  (∀ (fn : Fn) (v : Word) (s : State), quiet s fn.val → fn.val ≠ 0 → exec (.placeApply fn v) s = .next s)

/-- A translation at use. Beyond 48 bits it faults VA_RANGE; a hit in a TLB installs its entry in the master's own TLB
and is checked there; a miss becomes a walk, which runs while fewer than 32 do and else waits its turn: those of the
display pipes come first, the others in arrival order. A master that is pinned, and a context that runs no work, issue
none. A walk that ends in a leaf leaves the walks, and keeps the leaf in the TLBs; a leaf that the access fails, and a
walk that faults, give the fault to the requester; a walk whose memory waits stays; one whose context has gone is
dropped. -/
def Obligations.TranslationsHitOrWalk : Prop :=
  (∀ (m : MasterId) (ctx : CtxId) (va : Quad) (acc : Access) (who : Requester) (s : State),
    (mayIssue s m.val ctx.val = false → exec (.lateTranslation m ctx va acc who) s = .next s) ∧
    (mayIssue s m.val ctx.val = true → 2 ^ 48 ≤ va.toNat → exec (.lateTranslation m ctx va acc who) s =
      .next (lateFault who m.val ctx.val { code := .vaRange, level := 0xFF, pa := 0, key := 0, bar := false, va := none } va.toNat acc s)) ∧
    (mayIssue s m.val ctx.val = true → va.toNat < 2 ^ 48 →
      (∀ t, tlbLookup s m.val ctx.val va.toNat = some t →
        let u : State := { s with mmu := { s.mmu with utlb := tblSet [] s.mmu.utlb m.val (tlbAdd (utlbSize m.val) t (utlbOf s m.val)) } }
        (leafCheck u ctx.val va.toNat acc t.leaf = none → exec (.lateTranslation m ctx va acc who) s = .next u) ∧
        (∀ f, leafCheck u ctx.val va.toNat acc t.leaf = some f → exec (.lateTranslation m ctx va acc who) s = .next (lateFault who m.val ctx.val f va.toNat acc u))) ∧
      (tlbLookup s m.val ctx.val va.toNat = none → s.reg.mismatch = [] →
        let w : Walk := { id := s.mmu.walkId, master := m.val, ctx := ctx.val, va := va.toNat, acc, who }
        let q := walkOrder (s.mmu.queue ++ [w])
        let k := 32 - s.mmu.walks.length
        exec (.lateTranslation m ctx va acc who) s = .next { s with mmu := { s.mmu with
          walkId := s.mmu.walkId + 1, walks := s.mmu.walks ++ q.take k, queue := q.drop k } }))) ∧
  (∀ (id : Nat) (io : HostIO) (s : State),
    let s0 := applyIO io s
    let ended (u : State) : State :=
      let ws := u.mmu.walks.filter fun v => decide (v.id ≠ id)
      let q := walkOrder u.mmu.queue
      { u with mmu := { u.mmu with walks := ws ++ q.take (32 - ws.length), queue := q.drop (32 - ws.length) } }
    (s0.mmu.walks.find? (fun w => decide (w.id = id)) = none → exec (.walkDone id io) s = .next s0) ∧
    (∀ w, s0.mmu.walks.find? (fun w => decide (w.id = id)) = some w → s.reg.mismatch = [] →
      (mayIssue s0 w.master w.ctx = false → exec (.walkDone id io) s = .next (ended s0)) ∧
      (mayIssue s0 w.master w.ctx = true →
        (∀ u, walkVa w.ctx w.va s0 = .wait u → exec (.walkDone id io) s = .next u) ∧
        (∀ f u, walkVa w.ctx w.va s0 = .fault f u → (lateFault w.who w.master w.ctx f w.va w.acc u).reg.mismatch = [] →
          exec (.walkDone id io) s = .next (ended (lateFault w.who w.master w.ctx f w.va w.acc u))) ∧
        (∀ l u, walkVa w.ctx w.va s0 = .ok l u → u.reg.mismatch = [] →
          let entry : TlbEntry := { ctx := w.ctx, leaf := l }
          let v : State := { u with mmu := { u.mmu with
            utlb := tblSet [] u.mmu.utlb w.master (tlbAdd (utlbSize w.master) entry (tblGet [] u.mmu.utlb w.master))
            dtlb := match masterDie w.master with
              | some d => tblSet [] u.mmu.dtlb d (tlbAdd dtlbSize entry (tblGet [] u.mmu.dtlb d))
              | none => u.mmu.dtlb } }
          (leafCheck v w.ctx w.va w.acc l = none → exec (.walkDone id io) s = .next (ended v)) ∧
          (∀ f, leafCheck v w.ctx w.va w.acc l = some f → (lateFault w.who w.master w.ctx f w.va w.acc v).reg.mismatch = [] →
            exec (.walkDone id io) s = .next (ended (lateFault w.who w.master w.ctx f w.va w.acc v))))))) ∧
  (∀ q : List Walk, walkOrder q = q.filter (fun w => decide (0x6C ≤ w.master ∧ w.master < 0x70)) ++ q.filter fun w => decide (¬ (0x6C ≤ w.master ∧ w.master < 0x70)))

/-- Ring commands on the selected ring. Outside the function's range they answer RANGE (2), while a command to the
ring is in progress STATE (3). ENABLE of a DISABLED ring checks the staged registers in order and then reads the
control block; DISABLE of any other ring drops its outstanding reads; SET_PRIO takes the staged priority at once, and
spares the ops that run from a pre-emption by it. ENABLE ends by the control block: reserved bytes that are not zero
answer BAD_RECORD, a failed read FETCH, a read that must wait ends nothing; else its CONSUMER is the ring's every
count, the device half of the block shows STATE IDLE (3) and zero counts, and DOORBELL is read, but for a ring whose
context has begun to drain (log 87). DISABLE ends with CONSUMER and STATE written. A parity error halts an enabled
ring with code 0x23: HALTED and the code go to the ring table and to the control block, the ring's waiters fail, and
its vector is raised. -/
def Obligations.RingCommandsFollowTheirStates : Prop :=
  (
  ∀ (fn : Fn) (s : State), quiet s fn.val →
    let r := ringSelected s fn.val
    let x := s.ring r
    let cfg := (s.raw fn.val 0x060014).toNat
    let base := s.rawBase fn.val 0x060004 0x060008
    let rcb := s.rawBase fn.val 0x06000C 0x060010
    let ctx := bits cfg 20 12
    let bad := 5 < bits cfg 2 0 ∨ bits cfg 10 6 < 4 ∨ 16 < bits cfg 10 6 ∨ bits cfg 31 21 = 0 ∨ base < 2 ^ 48 ∨ rcb < 2 ^ 48
    let answer (k : Nat) (u : State) : State := { u with fe := { u.fe with results := tblSet 0 u.fe.results fn.val k } }
    (fnHasRing s fn.val r = false →
      exec (.ringEnable fn) s = .next (answer 2 s) ∧ exec (.ringDisable fn) s = .next (answer 2 s) ∧ exec (.ringSetPrio fn) s = .next (answer 2 s)) ∧
    (fnHasRing s fn.val r = true → x.cmd.isSome = true →
      exec (.ringEnable fn) s = .next (answer 3 s) ∧ exec (.ringDisable fn) s = .next (answer 3 s) ∧ exec (.ringSetPrio fn) s = .next (answer 3 s)) ∧
    (fnHasRing s fn.val r = true → x.cmd = none →
      exec (.ringSetPrio fn) s = .next (if x.state = .disabled then answer 3 s else answer 0 { s with fe := { s.fe with
        rings := tblSet Ring.off s.fe.rings r { x with prio := bits cfg 5 3 }
        entries := s.fe.entries.map fun e => { e with ops := e.ops.map fun p =>
          if p.phase = .running ∧ x.prio ≤ p.rank ∧ p.rank < bits cfg 5 3 then { p with spared := r :: p.spared } else p } } }) ∧
      exec (.ringDisable fn) s = .next (if x.state = .disabled then answer 3 s else s.setRing r { x with cmd := some (.disable fn.val), reads := [] }) ∧
      (x.state ≠ .disabled → exec (.ringEnable fn) s = .next (answer 3 s)) ∧
      (x.state = .disabled → bad → exec (.ringEnable fn) s = .next (answer 1 s)) ∧
      (x.state = .disabled → ¬ bad → fnHasCtx s fn.val ctx = false → exec (.ringEnable fn) s = .next (answer 2 s)) ∧
      (x.state = .disabled → ¬ bad → fnHasCtx s fn.val ctx = true → (s.ctx ctx).state ≠ .active → exec (.ringEnable fn) s = .next (answer 3 s)) ∧
      (x.state = .disabled → ¬ bad → fnHasCtx s fn.val ctx = true → (s.ctx ctx).state = .active → exec (.ringEnable fn) s = .next
        (s.setRing r { x with base, rcb, type := bits cfg 2 0, prio := bits cfg 5 3, log2 := bits cfg 10 6, pollIdle := bit cfg 11, ctx, vector := bits cfg 31 21, cmd := some (.enable fn.val) })))) ∧
  (
  ∀ (r : RingId) (io : HostIO) (s : State) (fn : Nat),
    let s0 := applyIO io s
    let x := s0.ring r.val
    let answer (k : Nat) (u : State) : State := { u with fe := { u.fe with results := tblSet 0 u.fe.results fn k } }
    ((∀ f, x.cmd ≠ some (.enable f)) → exec (.ringEnableDone r io) s = .next s0) ∧
    (x.cmd = some (.enable fn) →
      (devRead x.rcb 72 s0 = .wait → exec (.ringEnableDone r io) s = .next s0) ∧
      (devRead x.rcb 72 s0 = .failed → loopsBack s0 x.rcb = false →
        exec (.ringEnableDone r io) s = .next (answer 4 (s0.setRing r.val { x with cmd := none }))) ∧
      (∀ bs u, devRead x.rcb 72 s0 = .done (bs, u) → zeros bs 8 56 = false →
        exec (.ringEnableDone r io) s = .next (answer 1 (u.setRing r.val { u.ring r.val with cmd := none }))) ∧
      (∀ bs u, devRead x.rcb 72 s0 = .done (bs, u) → zeros bs 8 56 = true →
        let c := q64 (fld bs 64 8)
        let v := u.setRing r.val { x with
          state := .idle, halt := 0, prod := c, cons := c, completed := c, done := [], dup := 0, compLost := 0, cmd := none
          reads := if (u.ctx x.ctx).state = .active then [.enable] else []
          dupWait := false
          limit := if (u.ctx x.ctx).state = .draining then some c else none
          stopped := decide ((u.ctx x.ctx).state ≠ .active ∧ (u.ctx x.ctx).state ≠ .draining)
          lastPoll := u.time }
        exec (.ringEnableDone r io) s = .next (answer 0
          ((devWrite (x.rcb + 64) (natLe 8 c.toNat ++ natLe 8 c.toNat ++ natLe 4 3 ++ List.replicate 44 0) v).getD v)))) ∧
    ((∀ f, (s.ring r.val).cmd ≠ some (.disable f)) → exec (.ringDisableDone r) s = .next s) ∧
    ((s.ring r.val).cmd = some (.disable fn) → exec (.ringDisableDone r) s = .next (answer 0
      (ringTo r.val .disabled ((deadEdges r.val (rcbWrite r.val 64 8 (s.ring r.val).cons.toNat s)).setRing r.val { s.ring r.val with cmd := none, reads := [], limit := none, dupWait := false })))) ∧
    ((s.ring r.val).state = .disabled → exec (.ringParity r) s = .next s) ∧
    ((s.ring r.val).state ≠ .disabled → exec (.ringParity r) s = .next (haltRing r.val 0x23 s))) ∧
  (∀ (r : RingId) (code : Nat) (s : State),
    let x := s.ring r.val
    let dead (w : Edge) : Edge := if w.kind = 1 ∧ w.object = r.val ∧ x.cons < w.value then { w with dead := true } else w
    let edges : List Entry := s.fe.entries.map fun e => { e with edges := e.edges.map dead }
    deadEdges r.val s = { s with fe := { s.fe with entries := edges } } ∧
    let u : State := rcbWrite r.val 84 2 code (rcbWrite r.val 80 4 4 { s with fe := { s.fe with
      rings := tblSet Ring.off s.fe.rings r.val { x with state := .halted, halt := code, reads := [], dupWait := false }, entries := edges } })
    haltRing r.val code s = raiseVec (.ring r) (fnOfRing u r.val) x.vector u ∧
    (awake s = true → ∃ m, u = { s with mem := m, fe := u.fe } ∧ u.fe = { s.fe with
      rings := tblSet Ring.off s.fe.rings r.val { x with state := .halted, halt := code, reads := [], dupWait := false }, entries := edges }) ∧
    (∀ (fn vec : Nat) (v : State), ∃ g, raiseVec (.ring r) fn vec v = { v with reg := g } ∧ g.regs = v.reg.regs ∧ g.mismatch = v.reg.mismatch) ∧
    ∀ (off n k : Nat) (v : State), rcbWrite r.val off n k v = (devWrite ((v.ring r.val).rcb + off) (natLe n k) v).getD v)

/-- Producer counts. A nudge takes effect as one aligned 8-byte write at the ring's page only, on a ring in the
function's range whose context is ACTIVE; its count arrives as one that a poll or another read of DOORBELL finds. A
count that arrives: one not greater than the last, or one at a ring whose drain has its limit, changes nothing; one
too far ahead halts the ring with code 0x21; any other is taken, ends a wait for an overwritten slot, and wakes an
idle ring. A poll is issued when its interval has passed. A read of DOORBELL that returns takes the oldest read
outstanding: the count arrives; after an idle check the ring goes idle if nothing new came; in a drain the count sets
the ring's limit, up to which it still fetches. A read that fails halts the ring with code 0x22, but for a drain's,
which takes the last count as the limit; one that must wait ends nothing. -/
def Obligations.ProducerCountsArrive : Prop :=
  (∀ (fn : Fn) (r : RingId) (off size : Nat) (v : Quad) (s : State), off ≠ 0 ∨ size ≠ 8 ∨ barOpen s fn.val = false → exec (.nudge fn r off size v) s = .next s) ∧
  (∀ (fn : Fn) (r : RingId) (v : Quad) (s : State), quiet s fn.val →
    exec (.nudge fn r 0 8 v) s = .next (if fnHasRing s fn.val r.val = true ∧ takesNudges s (s.ring r.val) = true then newCount r.val v s else s)) ∧
  (∀ (r : RingId) (v : Quad) (s : State),
    let x := s.ring r.val
    (v ≤ x.prod ∨ x.limit.isSome = true → newCount r.val v s = s) ∧
    (x.prod < v → x.limit = none → 2 ^ x.log2 < (v - x.cons).toNat → newCount r.val v s = haltRing r.val 0x21 s) ∧
    (x.prod < v → x.limit = none → (v - x.cons).toNat ≤ 2 ^ x.log2 → x.state ≠ .idle →
      newCount r.val v s = s.setRing r.val { x with prod := v, dupWait := false }) ∧
    (x.prod < v → x.limit = none → (v - x.cons).toNat ≤ 2 ^ x.log2 → x.state = .idle →
      newCount r.val v s = ringTo r.val .fetching (s.setRing r.val { x with prod := v, dupWait := false }))) ∧
  (∀ (r : RingId) (t : Nat) (s : State),
    let u := advanceTo t s
    let x := u.ring r.val
    let polled := x.state = .fetching ∨ x.state = .idlePending ∨ (x.state = .idle ∧ x.pollIdle = true)
    exec (.doorbellPoll r t) s = .next (
      if polled ∧ x.cmd = none ∧ takesNudges u x = true ∧ x.lastPoll + u.rawBits 0 0x060040 9 0 * 1000 ≤ u.time then
        u.setRing r.val { x with reads := x.reads ++ [.poll], lastPoll := u.time } else u)) ∧
  (∀ (r : RingId) (io : HostIO) (s : State),
    let s0 := applyIO io s
    let x := s0.ring r.val
    (x.reads = [] → exec (.doorbellReadDone r io) s = .next s0) ∧
    ∀ (k : DoorbellRead) (rest : List DoorbellRead), x.reads = k :: rest →
      let s1 := s0.setRing r.val { x with reads := rest }
      (devRead x.rcb 8 s1 = .wait → exec (.doorbellReadDone r io) s = .next s0) ∧
      (devRead x.rcb 8 s1 = .failed → k ≠ .drain → exec (.doorbellReadDone r io) s = .next (
        if x.state = .halted then s1 else haltRing r.val 0x22 (feReadFailed r.val x.rcb s1))) ∧
      (devRead x.rcb 8 s1 = .failed → k = .drain → exec (.doorbellReadDone r io) s = .next (
        let t := s1.setRing r.val { s1.ring r.val with limit := some x.prod }
        if x.cons < x.prod then t else ringTo r.val .idle (rcbConsumer r.val t))) ∧
      ∀ bs u, devRead x.rcb 8 s1 = .done (bs, u) →
        let t := newCount r.val (q64 (leNat bs)) u
        let y := t.ring r.val
        let l := t.setRing r.val { y with limit := some y.prod }
        (k = .poll ∨ k = .enable → exec (.doorbellReadDone r io) s = .next t) ∧
        (k = .idleCheck → y.state ≠ .idlePending → exec (.doorbellReadDone r io) s = .next t) ∧
        (k = .idleCheck → y.state = .idlePending → exec (.doorbellReadDone r io) s = .next (
          if y.cons < y.prod ∧ y.dupWait = false then ringTo r.val .fetching t else ringTo r.val .idle t)) ∧
        (k = .drain → y.state = .halted → exec (.doorbellReadDone r io) s = .next t) ∧
        (k = .drain → y.state ≠ .halted → exec (.doorbellReadDone r io) s = .next (
          if y.cons < y.prod then ringTo r.val .fetching l else ringTo r.val .idle (rcbConsumer r.val l))))

/-- Fetching. A ring that is FETCHING, with no command in progress, no overwritten slot met and its context ACTIVE, or
DRAINING with the ring's limit set, reads the slots up to its producer count or limit, at most eight and not past the
ring's end; other rings take nothing. Slot by slot: the slot that carries the next SEQ is accepted, and the consumer
count rises by one; a SEQ behind counts a duplicate and ends the fetch; a SEQ ahead halts the ring with code 0x20, a
slot whose read fails with 0x22; a slot that must wait, or whose waits the table of pending waits has no room for, is
not taken. Then CONSUMER is written; when all is taken, or at a duplicate, DOORBELL is read again, and a drain that
reached its limit leaves the ring IDLE. What an entry is when it is taken: bad edge fields finish it with BAD_RECORD
and no edge array is read; other bad fields BAD_RECORD, a bad LENGTH BAD_LENGTH, a LAUNCH on a ring that takes none
BAD_OPCODE, after its edge array if it has one; an entry that passes reads its edges, then its framing if it is an
EXEC, and then waits for its turn. -/
def Obligations.FetchedEntriesAreChecked : Prop :=
  (
  ∀ (r : RingId) (io : HostIO) (s : State), s.reg.mismatch = [] →
    let s0 := applyIO io s
    let x := s0.ring r.val
    let ctxGo := (s0.ctx x.ctx).state = .active ∨ ((s0.ctx x.ctx).state = .draining ∧ x.limit.isSome = true)
    let bound := x.limit.getD x.prod
    (x.state ≠ .fetching ∨ x.stopped = true ∨ x.cmd.isSome = true ∨ x.dupWait = true ∨ ¬ ctxGo ∨ bound ≤ x.cons → exec (.ringFetchDone r io) s = .next s0) ∧
    (x.state = .fetching → x.stopped = false → x.cmd = none → x.dupWait = false → ctxGo → x.cons < bound →
      let slot := x.cons.toNat % 2 ^ x.log2
      let n := Nat.min 8 (Nat.min (bound - x.cons).toNat (2 ^ x.log2 - slot))
      let t := fetchSlots r.val n s0
      let y := t.ring r.val
      let u := rcbConsumer r.val t
      (y.state ≠ .fetching → exec (.ringFetchDone r io) s = .next t) ∧
      (y.state = .fetching → y.dupWait = true ∨ y.cons = bound →
        exec (.ringFetchDone r io) s = .next (if x.limit = none then idleCheck r.val u else if y.dupWait = true then u else ringTo r.val .idle u)) ∧
      (y.state = .fetching → y.dupWait = false → y.cons ≠ bound → exec (.ringFetchDone r io) s = .next u))) ∧
  (
  ∀ (r : RingId) (n : Nat) (s : State),
    let x := s.ring r.val
    let pa := x.base + 64 * (x.cons.toNat % 2 ^ x.log2)
    fetchSlots r.val 0 s = s ∧
    (devRead pa 64 s = .wait → fetchSlots r.val (n + 1) s = s) ∧
    (devRead pa 64 s = .failed → fetchSlots r.val (n + 1) s = haltRing r.val 0x22 (feReadFailed r.val pa (rcbConsumer r.val s))) ∧
    (∀ b u, devRead pa 64 s = .done (b, u) →
      let d := (w32 (fld b 0 4) - (x.cons + 1).setWidth 32).toInt
      (d < 0 → fetchSlots r.val (n + 1) s = rcbWrite r.val 88 8 (x.dup + 1).toNat (u.setRing r.val { x with dup := x.dup + 1, dupWait := true })) ∧
      (0 < d → fetchSlots r.val (n + 1) s = haltRing r.val 0x20 (rcbConsumer r.val u)) ∧
      (d = 0 → fld b 20 2 ≠ 0 → edgesBad b = false → 16384 < pendingWaits u + fld b 20 2 → fetchSlots r.val (n + 1) s = u) ∧
      (d = 0 → (fld b 20 2 = 0 ∨ edgesBad b = true ∨ pendingWaits u + fld b 20 2 ≤ 16384) →
        fetchSlots r.val (n + 1) s = fetchSlots r.val n { u with fe := { u.fe with
          rings := tblSet Ring.off u.fe.rings r.val { x with cons := x.cons + 1 }
          entries := u.fe.entries ++ [acceptEntry u.time r.val x (x.cons + 1) b] } })) ∧
    (x.state = .fetching → ∀ u, idleCheck r.val u = (let t := ringTo r.val .idlePending (rcbConsumer r.val u)
      t.setRing r.val { t.ring r.val with reads := (t.ring r.val).reads ++ [.idleCheck] }))) ∧
  (
  ∀ (t r : Nat) (x : Ring) (seq : Quad) (b : List Byte),
    let e := acceptEntry t r x seq b
    let n := fld b 20 2 + fld b 22 2
    let k := fld b 4 1
    let badEdges := 64 < fld b 20 2 ∨ 64 < fld b 22 2 ∨ (fld b 24 8 = 0 ∧ n ≠ 0) ∨ (fld b 24 8 ≠ 0 ∧ n = 0) ∨ fld b 24 8 % 16 ≠ 0
    let badFields := 2 < k ∨ 4 ≤ fld b 5 1 ∨ zeros b 7 1 = false ∨ zeros b 56 8 = false ∨ (k = 1 ∧ fld b 8 8 % 16 ≠ 0) ∨
      (k = 2 ∧ 4096 ≤ fld b 8 8) ∨ (k = 0 ∧ fld b 8 8 ≠ 0) ∨ (k ≠ 1 ∧ fld b 16 4 ≠ 0) ∨ fld b 32 8 % 32 ≠ 0 ∨ (k ≠ 2 ∧ fld b 48 8 ≠ 0)
    let badLength := k = 1 ∧ (fld b 16 4 = 0 ∨ 1048576 < fld b 16 4)
    e.ring = r ∧ e.seq = seq.toNat ∧ e.ctx = x.ctx ∧ e.raw = b ∧ e.nwait = fld b 20 2 ∧ e.tAcc = t ∧ e.ops = [] ∧ e.opIndex = 0xFFFF ∧
    e.edges = [] ∧ e.detail = 0 ∧ e.launch = none ∧
    (edgesBad b = true ↔ badEdges) ∧
    (badEdges → e.status = 0x01 ∧ e.phase = .finished) ∧
    (¬ badEdges →
      (badFields → e.status = 0x01) ∧
      (¬ badFields → badLength → e.status = 0x03) ∧
      (¬ badFields → k = 2 → 3 ≤ x.type → e.status = 0x02) ∧
      (¬ badFields → ¬ badLength → (k ≠ 2 ∨ x.type < 3) → e.status = 0) ∧
      (n ≠ 0 → e.phase = .edges) ∧
      (e.status = 0 → n = 0 → e.phase = if k = 1 then .framing else .waiting) ∧
      (e.status ≠ 0 → n = 0 → e.phase = .finished)))

/-- The entry's edge array and its command buffer return, and the entry starts. An array that is well formed and
passes its table check leaves the entry's edges, and the entry goes on to its framing or its turn; a malformed edge
ends it with BAD_RECORD, a failed check with EDGE_FAULT, a read that faults with EDGE_FAULT and the fault's code, a
severed one with SEVERED; an entry that had failed its own checks keeps that code whatever happens here (R485; for a
LAUNCH on a ring type that takes none this is the model's choice, log 78). Framing leaves the ops of the records, or
ends the entry with the first check's status; each record's checks are made in order. An entry whose turn it is and
whose waits are satisfied starts: a NOP entry is finished, an EXEC entry runs. A read that must wait, and an event
that no entry waits for, change nothing. -/
def Obligations.EntriesAreReadAndStart : Prop :=
  (∀ (e : EntryRef) (io : HostIO) (s : State), s.reg.mismatch = [] →
    let s0 := applyIO io s
    ((∀ x, s0.entry? e.ring.val e.seq = some x → x.phase ≠ .edges) → exec (.edgeArrayReadDone e io) s = .next s0) ∧
    (∀ x, s0.entry? e.ring.val e.seq = some x → x.phase = .edges →
      let n := x.nwait + fld x.raw 22 2
      let read := feRead x.ctx (fld x.raw 24 8) (16 * n) s0
      (∀ u, read = .wait u → exec (.edgeArrayReadDone e io) s = .next u) ∧
      (∀ u, read = .severed u → exec (.edgeArrayReadDone e io) s = .next
        (u.onEntry e.ring.val e.seq fun y => { y with phase := .finished, status := if y.status = 0 then 0x0D else y.status })) ∧
      (∀ f u, read = .fault f u → exec (.edgeArrayReadDone e io) s = .next
        ((feFault f x.ctx u).2.onEntry e.ring.val e.seq fun y => { y with
          phase := .finished, status := if y.status = 0 then 0x06 else y.status, detail := if y.status = 0 then (feFault f x.ctx u).1 else y.detail })) ∧
      ∀ bs u, read = .ok bs u →
        let es := (upTo n).map fun i => markDead u e.ring.val e.seq (checkEdge u x.ctx e.ring.val (decide (x.nwait ≤ i)) (parseEdge (slice bs (16 * i) 16) (decide (x.nwait ≤ i))))
        (x.status = 0 → (∀ y ∈ es, y.formed = true ∧ y.passed = true) → exec (.edgeArrayReadDone e io) s = .next
          (u.onEntry e.ring.val e.seq fun y => { y with edges := es, status := 0, detail := x.detail, phase := if fld x.raw 4 1 = 1 then .framing else .waiting })) ∧
        (x.status = 0 → (∃ y ∈ es, y.formed = false) → exec (.edgeArrayReadDone e io) s = .next
          (u.onEntry e.ring.val e.seq fun y => { y with edges := es, status := 0x01, detail := x.detail, phase := .finished })) ∧
        (x.status = 0 → (∀ y ∈ es, y.formed = true) → (∃ y ∈ es, y.passed = false) → exec (.edgeArrayReadDone e io) s = .next
          (u.onEntry e.ring.val e.seq fun y => { y with edges := es, status := 0x06, detail := 0x01, phase := .finished })) ∧
        (x.status ≠ 0 → exec (.edgeArrayReadDone e io) s = .next
          (u.onEntry e.ring.val e.seq fun y => { y with edges := es, status := x.status, detail := x.detail, phase := .finished }))) ∧
    ((∀ x, s0.entry? e.ring.val e.seq = some x → x.phase ≠ .framing) → exec (.cbFramingReadDone e io) s = .next s0) ∧
    (∀ x u, s0.entry? e.ring.val e.seq = some x → x.phase = .framing →
      let read := frameRecords x.ctx (fld x.raw 8 8) (fld x.raw 16 4) (s0.ring e.ring.val).type 65535 0 0 [] s0
      (∀ l, read = (.ops l, u) → exec (.cbFramingReadDone e io) s = .next (u.onEntry e.ring.val e.seq fun y => { y with phase := .waiting, ops := l })) ∧
      (∀ st i d, read = (.bad st i d, u) →
        exec (.cbFramingReadDone e io) s = .next (u.onEntry e.ring.val e.seq fun y => { y with phase := .finished, status := st, opIndex := i, detail := d, ops := [] })) ∧
      (read = (.wait, u) → exec (.cbFramingReadDone e io) s = .next u))) ∧
  (∀ (e : EntryRef) (s : State), s.reg.mismatch = [] →
    ((∀ x, s.entry? e.ring.val e.seq = some x → x.phase ≠ .waiting ∨ ctxRuns s x.ctx = false) → exec (.entryStart e) s = .next s) ∧
    ∀ x, s.entry? e.ring.val e.seq = some x → x.phase = .waiting → ctxRuns s x.ctx = true →
      let y := recheckEntry s x
      let t := s.onEntry e.ring.val e.seq fun _ => y
      let goes := y.phase = .waiting ∧ (∀ w ∈ y.edges.take y.nwait, w.sat = true) ∧ ringTurn t y = true
      ((∀ w ∈ x.edges.take x.nwait, w.sat = true) → y = x) ∧
      (¬ goes ∨ 2 ≤ fld y.raw 4 1 → exec (.entryStart e) s = .next t) ∧
      (goes → fld y.raw 4 1 = 0 → exec (.entryStart e) s = .next (s.onEntry e.ring.val e.seq fun _ => { y with phase := .finished })) ∧
      (goes → fld y.raw 4 1 = 1 → exec (.entryStart e) s = .next (s.onEntry e.ring.val e.seq fun _ => { y with phase := .running }))) ∧
  (∀ (ctx va total type n i at_ : Nat) (acc : List Op) (s u : State) (h : List Byte), at_ < total → feRead ctx (va + 16 * at_) 16 s = .ok h u →
    let op := fld h 0 2
    let len := fld h 2 2
    let got := frameRecords ctx va total type (n + 1) i at_ acc s
    let badLen := len = 0 ∨ total < at_ + len
    let badRec := 2 ≤ fld h 5 1 ∨ zeros h 7 1 = false
    (badLen → got = (.bad 0x03 i 0, u)) ∧
    (¬ badLen → badRec → got = (.bad 0x01 i 0, u)) ∧
    (¬ badLen → ¬ badRec → opcodeOn op type = false → got = (.bad 0x02 i 0, u)) ∧
    (¬ badLen → ¬ badRec → opcodeOn op type = true → opcodeLen op ≠ some len → got = (.bad 0x03 i 0, u)) ∧
    (¬ badLen → ¬ badRec → opcodeOn op type = true → opcodeLen op = some len → recordPreds h i = none → got = (.bad 0x04 i 0, u)) ∧
    (∀ ps, ¬ badLen → ¬ badRec → opcodeOn op type = true → opcodeLen op = some len → recordPreds h i = some ps →
      got = frameRecords ctx va total type n (i + 1) (at_ + len) (acc ++ [mkOp op (va + 16 * at_) (16 * len) (fld h 6 1) ps []]) u))

/-- An op is dispatched once its predecessors have ended well: its record is read through the context, a launch
node's with its patches, and a record with no bad field runs with the record, its effective cluster mask and its
ring's priority; the clocks of its clusters run again and its gated clusters are asked for. An op with no cluster ends
with NO_CLUSTER, a bad record with BAD_RECORD, a read that faults with CB_FAULT and its code, a severed one with
SEVERED; a read that must wait ends nothing, an op that is not ready stays, and an op of a context that runs no work
is discarded. Asleep, an op that S3 can run is dispatched as it stands, and one that it cannot asks for an exit. An op
that ends: the op named is done, with its status and detail, its sticky flags joined, and no unit held; ops that had
ended keep their ends; an op that waits on a failed or skipped one is skipped. Everything but the entries is
unchanged. -/
def Obligations.OpsDispatchAndEnd : Prop :=
  (∀ (o : OpRef) (io : HostIO) (s : State), s.op? o = none → exec (.opDispatch o io) s = .next (applyIO io s)) ∧
  (
  ∀ (o : OpRef) (io : HostIO) (s : State) (e : Entry) (p : Op), s.op? o = some (e, p) → s.reg.mismatch = [] →
    let mask := effMask s e p
    let free := maskFree p.opcode
    let ready := e.phase = .running ∧ p.phase = .waiting ∧ ∀ j ∈ p.preds, ∃ q, e.ops[j]? = some q ∧ q.phase = .done ∧ q.status = 0 ∧ q.skipped = false
    let sleeps := inS3 s = true ∧ needsExit s e p = false
    let s0 := applyIO io (if awake s then ungateMask (if free then 0 else mask) s else s)
    (awake s = false → ¬ sleeps → exec (.opDispatch o io) s = .next (
      if needsExit s e p = true ∧ s.pwr.sleep ≠ .s4 ∧ s.pwr.deep = 3 ∧ p.phase = .waiting then wantsExit (applyIO io s) else applyIO io s)) ∧
    (awake s = true ∨ sleeps →
      (¬ ready → exec (.opDispatch o io) s = .next s0) ∧
      (ready → ctxRuns s e.ctx = false → exec (.opDispatch o io) s = .next (discardOp o s0)) ∧
      (ready → ctxRuns s e.ctx = true → free = false → mask = 0 → exec (.opDispatch o io) s = .next (endOp o 0x09 0 0 s0)) ∧
      (ready → ctxRuns s e.ctx = true → (free = true ∨ mask ≠ 0) →
        let read := feRead e.ctx p.va p.len s0
        (∀ u, read = .wait u → exec (.opDispatch o io) s = .next u) ∧
        (∀ u, read = .severed u → exec (.opDispatch o io) s = .next (endOp o 0x0D 0 0 u)) ∧
        (∀ f u, read = .fault f u → exec (.opDispatch o io) s = .next (endOp o 0x05 (feFault f e.ctx u).1 0 (feFault f e.ctx u).2)) ∧
        ∀ b0 u, read = .ok b0 u →
          let b := (e.launch.map fun l => patchBody l.args p.patches b0).getD b0
          (bodyBad p.opcode b = true → exec (.opDispatch o io) s = .next (endOp o 0x01 0 0 u)) ∧
          (bodyBad p.opcode b = false → exec (.opDispatch o io) s = .next (
            let v := if free then u else wakeClusters mask u
            (v.onEntry o.ring.val o.seq fun e => { e with tRun := if e.tRun = 0 then v.time + 1 else e.tRun }).onOp o
              fun p => { p with phase := .running, body := b, emask := mask, rank := (v.ring e.ring).prio, spared := [] }))))) ∧
  (
  ∀ (o : OpRef) (st d k : Nat) (s : State) (e : Entry) (p : Op), s.op? o = some (e, p) → p.phase ≠ .done →
    let t := endOp o st d k s
    t = { s with fe := { s.fe with entries := t.fe.entries } } ∧
    ∃ e' p', t.op? o = some (e', p') ∧ p' = { p with phase := .done, status := st, detail := d, sticky := p.sticky ||| k, units := [], ending := none } ∧
      e'.ops.length = e.ops.length ∧
      (∀ (i : Nat) (q : Op), e.ops[i]? = some q → i ≠ o.op → q.phase = .done → e'.ops[i]? = some q) ∧
      (∀ (i : Nat) (q q' : Op), e.ops[i]? = some q → i ≠ o.op → e'.ops[i]? = some q' → q.phase ≠ .done →
        q' = q ∨ (q.phase = .waiting ∧ q'.phase = .done ∧ q'.skipped = true ∧ (∃ j ∈ q.preds, ∃ f, e'.ops[j]? = some f ∧ (f.status ≠ 0 ∨ f.skipped = true)))))

/-- The ops of the front end. NOP ends well and does nothing else. TIMESTAMP stores the 8 bytes of the time at its
address and ends well; a fault of the store ends it with TRANSLATION_FAULT. FENCE_WAIT ends when its edge is
satisfied, with OP_ERROR and the fence's reason when it is in error, and with OP_ERROR when its edge fails its check;
otherwise it waits, and takes a place in the table of pending waits. FENCE_SIGNAL puts its signal on its way, after the
writes of the combining buffers, and ends well. COPY takes a free channel of its mask, with no other op that R87 puts
first; its end moves the bytes, or repeats its pattern, page by page, and ends well; the first piece that faults or is
severed ends it there, with the pieces before it moved, and one that must wait ends nothing. Where the destination
overlaps the source, each byte that the copy itself overwrites is left open between the source before the copy and the
bytes it had put there. -/
def Obligations.FrontEndOpsAndCopiesRun : Prop :=
  (
  ∀ (o : OpRef) (s : State) (e : Entry) (p : Op), s.op? o = some (e, p) → p.phase = .running → p.ending = none →
    (p.opcode = 0 → exec (.opNop o) s = .next (if ctxRuns s e.ctx = true then endOp o 0 0 0 s else discardOp o s)) ∧
    (p.opcode = 3 → ∀ (s0 : State) (t : Nat), s = advanceTo t s0 → ctxRuns s e.ctx = true →
      let wrote := vaWrite noMaster e.ctx (fld p.body 16 8) (natLe 8 s.time) s
      (∀ u, wrote = .ok () u → exec (.opTimestamp o t) s0 = .next (endOp o 0 0 0 u)) ∧
      (∀ f u, wrote = .fault f u → exec (.opTimestamp o t) s0 = .next (endOp o 0x07 (feFault f e.ctx u).1 0 (feFault f e.ctx u).2)) ∧
      (∀ u, wrote = .severed u → exec (.opTimestamp o t) s0 = .next (endOp o 0x0D 0 0 u)) ∧
      (∀ u, wrote = .wait u → exec (.opTimestamp o t) s0 = .next u)) ∧
    (p.opcode = 1 → p.fence = none →
      (fenceOpEdge s e.ctx e.ring p.body false = none → exec (.opFenceWait o) s = .next (endOp o 0x0B 1 0 s)) ∧
      (∀ w, fenceOpEdge s e.ctx e.ring p.body false = some w →
        (edgeWait s w = .sat → exec (.opFenceWait o) s = .next (endOp o 0 0 0 s)) ∧
        (∀ r, edgeWait s w = .error r → exec (.opFenceWait o) s = .next (endOp o 0x0B r.num 0 s)) ∧
        (edgeWait s w = .pending → exec (.opFenceWait o) s = .next (if 16384 ≤ pendingWaits s then s else s.onOp o fun p => { p with fence := some w })))) ∧
    (p.opcode = 2 →
      (fenceOpEdge s e.ctx e.ring p.body true = none → exec (.opFenceSignal o) s = .next (endOp o 0x0B 1 0 s)) ∧
      (∀ w, fenceOpEdge s e.ctx e.ring p.body true = some w →
        exec (.opFenceSignal o) s = .next (endOp o 0 0 0 (sendFence w.key w.alloc (.inl w.value) (wcFlushAll s)))))) ∧
  (
  ∀ (o : OpRef) (s : State) (e : Entry) (p : Op), s.op? o = some (e, p) → p.phase = .running → p.ending = none → p.opcode = 4 → ctxRuns s e.ctx = true →
    ∀ chan : Fin 32,
      (chansPinned s p.emask = true → exec (.opCopy o chan) s = .next (endOp o 0x0C 0 0 s)) ∧
      (chansPinned s p.emask = false → chanFree s p.emask chan.val = true → p.units = [] → yields s o = false →
        exec (.opCopy o chan) s = .next (let u := s.onOp o fun p => { p with units := [0x48 + chan.val] }
          { u with fe := { u.fe with copies := u.fe.copies ++ [{ op := o, ctx := e.ctx, chan := chan.val }] } })) ∧
      (chansPinned s p.emask = false → chanFree s p.emask chan.val = false ∨ p.units ≠ [] ∨ yields s o = true → exec (.opCopy o chan) s = .next s)) ∧
  (
  ∀ (o : OpRef) (io : HostIO) (s : State) (e : Entry) (p : Op) (c : CopyRun), s.op? o = some (e, p) → p.phase = .running → p.opcode = 4 → ctxRuns s e.ctx = true →
    s.fe.copies.find? (fun c => c.op = o) = some c →
      let s0 := applyIO io s
      let m := 0x48 + c.chan
      let src := fld p.body 16 8
      let dst := fld p.body 24 8
      let n := fld p.body 32 8
      let fill := bit (fld p.body 40 4) 0
      let drop (t : State) : State := { t with fe := { t.fe with copies := t.fe.copies.filter fun c => c.op ≠ o } }
      let ends (t : State) : State := metaLog (if opRunning t o = true then t else drop t)
      let pieces := copyPieces (n / 2048 + 4) (if fill then dst else src) dst n
      let take (q : Nat × Nat × Nat) (t : State) : Res (List Byte) :=
        if fill then .ok (fillBytes (fld p.body 44 4) (q.2.1 - dst) q.2.2) t else vaRead m e.ctx q.1 q.2.2 .read t
      let moved (ps : List (Nat × Nat × Nat)) : Option State := ps.foldl (fun a q => a.bind fun t => match take q t with
        | .ok bs t => match vaWrite m e.ctx q.2.1 bs t with
          | .ok _ t => some t
          | _ => none
        | _ => none) (some s0)
      (∀ v, moved pieces = some v →
        (fill = true ∨ src = dst ∨ Nat.min src dst + n ≤ Nat.max src dst → exec (.opCopyDone o io) s = .next (metaLog (drop (endOp o 0 0 0 v)))) ∧
        (fill = false → src ≠ dst → Nat.max src dst < Nat.min src dst + n → ∀ bs u, vaRead m e.ctx src n .read s0 = .ok bs u →
          exec (.opCopyDone o io) s = .next (metaLog (drop (endOp o 0 0 0 (vaWrite m e.ctx dst (overlapBytes src dst bs v).1 (overlapBytes src dst bs v).2).state))))) ∧
      (∀ before q after t, pieces = before ++ q :: after → moved before = some t →
        (∀ f u, take q t = .fault f u → exec (.opCopyDone o io) s = .next (ends (opFault f o m q.1 .read u))) ∧
        (∀ u, take q t = .severed u → exec (.opCopyDone o io) s = .next (ends (endOp o 0x0D 0 0 u))) ∧
        (∀ u, take q t = .wait u → exec (.opCopyDone o io) s = .next (metaLog s0)) ∧
        (∀ bs u, take q t = .ok bs u →
          (∀ f v, vaWrite m e.ctx q.2.1 bs u = .fault f v → exec (.opCopyDone o io) s = .next (ends (opFault f o m q.2.1 .write v))) ∧
          (∀ v, vaWrite m e.ctx q.2.1 bs u = .severed v → exec (.opCopyDone o io) s = .next (ends (endOp o 0x0D 0 0 v))) ∧
          (∀ v, vaWrite m e.ctx q.2.1 bs u = .wait v → exec (.opCopyDone o io) s = .next (metaLog s0)))))

/-- An entry's completion: the entry leaves; each FENCE_SIGNAL of it that was skipped puts its fence into ERROR; its
completion record of 32 bytes is written where it names one, or is lost and counted where it cannot be; its signal
edges go to the fence table in their order; COMPLETED takes every entry that has completed in a row; a launch gives up
its pin; and the ring's vector is raised unless the entry's flag says no. Nothing happens to an entry that is not
finished, nor while a write of it must wait. PREEMPT marks a running tensor op that holds an item, a render pass, or a
dispatch, when a ready op on a ring of higher priority waits: it stops at its next boundary. Where nothing outranks
the op, it goes on untouched; an op of a context that is torn down is discarded where it stands. -/
def Obligations.EntriesCompleteOrYield : Prop :=
  (
  ∀ (e : EntryRef) (t : Nat) (s0 : State),
    let s := advanceTo t s0
    ((∀ x, s.entry? e.ring.val e.seq = some x → x.phase ≠ .finished) → exec (.entryComplete e t) s0 = .next s) ∧
    (∀ x, s.entry? e.ring.val e.seq = some x → x.phase = .finished →
      let left : State := { s with fe := { s.fe with entries := s.fe.entries.filter fun y => !(decide (y.ring = e.ring.val) && decide (y.seq = e.seq)) } }
      let written := (x.ops.foldl (fun a p => a.bind (skippedSignal x p)) (some (countEntry x left))).bind (writeCompletion x)
      (written = none → exec (.entryComplete e t) s0 = .next s) ∧
      (∀ u, written = some u → exec (.entryComplete e t) s0 = .next (completeRest x u)))) ∧
  (
  ∀ (x : Entry) (s : State),
    let record := completionRecord x s.time
    let va := fld x.raw 32 8
    let wrote := vaWrite noMaster x.ctx va record s
    (va = 0 → writeCompletion x s = some s) ∧
    (va % 32 ≠ 0 → writeCompletion x s = some (loseCompletion x.ring s)) ∧
    (va ≠ 0 → va % 32 = 0 →
      (∀ u, wrote = .ok () u → writeCompletion x s = some u) ∧
      (∀ f u, wrote = .fault f u → writeCompletion x s = some (loseCompletion x.ring (feFault f x.ctx u).2)) ∧
      (∀ u, wrote = .severed u → writeCompletion x s = some (loseCompletion x.ring u)) ∧
      (∀ u, wrote = .wait u → writeCompletion x s = none)) ∧
    loseCompletion x.ring s = rcbWrite x.ring 96 8 ((s.ring x.ring).compLost + 1).toNat (s.setRing x.ring { s.ring x.ring with compLost := (s.ring x.ring).compLost + 1 }) ∧
    record.length = 32 ∧ fld record 0 8 = x.seq % 2 ^ 64 ∧ fld record 8 8 = fld x.raw 40 8 ∧ fld record 16 2 = (entryResult x).1 % 2 ^ 16 ∧
    fld record 18 2 = (entryResult x).2.1 % 2 ^ 16 ∧ fld record 20 1 = stickyUnion x % 2 ^ 8 ∧ fld record 21 1 = (entryResult x).2.2.1 % 2 ^ 8 ∧
    fld record 22 2 = Nat.min (x.ops.filter fun p => p.skipped).length 0xFFFF ∧ fld record 24 8 = s.time % 2 ^ 64) ∧
  (
  ∀ (x : Entry) (s : State),
    let flushed := wcFlushAll s
    let sent : State := { flushed with fen := { flushed.fen with queue := flushed.fen.queue ++ (((x.edges.drop x.nwait).filter fun w => w.formed && w.passed).map fun w =>
      { fence := w.key, alloc := w.alloc, what := if (entryResult x).1 = 0 then .inl w.value else .inr (entryResult x).2.2.2, page := false }) } }
    let counted := completeSeq x.ring x.seq sent
    let waits := releaseWaits ((x.launch.map fun l => retireReady x.ctx (unpin x.ctx l counted)).getD counted)
    (bit (fld x.raw 5 1) 1 = true → completeRest x s = waits) ∧
    (bit (fld x.raw 5 1) 1 = false → ∀ h : x.ring < 8192, completeRest x s = raiseVec (.ring ⟨x.ring, h⟩) (fnOfRing waits x.ring) (waits.ring x.ring).vector waits)) ∧
  (
  ∀ (r : RingId) (seq : Nat) (s : State),
    let x := s.ring r.val
    let y := advanceCompleted (x.done.length + 1) { x with done := x.done ++ [q64 seq] }
    (q64 seq ≤ x.completed → completeSeq r.val seq s = s) ∧
    (x.completed < q64 seq → completeSeq r.val seq s = rcbWrite r.val 72 8 y.completed.toNat (s.setRing r.val y)) ∧
    y = { x with completed := y.completed, done := y.done } ∧ (y.completed + 1) ∉ y.done ∧
    (∀ v ∈ y.done, v ∈ x.done ∨ v = q64 seq) ∧
    (∃ k : Nat, y.completed = x.completed + BitVec.ofNat 64 k ∧ ∀ i, i < k → x.completed + BitVec.ofNat 64 (i + 1) ∈ x.done ++ [q64 seq])) ∧
  (
  ∀ (o : OpRef) (s : State) (e : Entry) (p : Op), s.op? o = some (e, p) →
    (p.phase ≠ .running → exec (.opPreempt o) s = .next s) ∧
    (p.phase = .running → ctxRuns s e.ctx = false → exec (.opPreempt o) s = .next (stopOp o s)) ∧
    (p.phase = .running → ctxRuns s e.ctx = true →
      (outranked s o p = false → exec (.opPreempt o) s = .next s) ∧
      (outranked s o p = true →
        (∀ r, s.run? o = some r → exec (.opPreempt o) s = .next (if r.stopping = true ∨ r.held = [] then s else
          { s with tns := { s.tns with runs := mapIf (fun r => r.op = o) (fun r => { r with stopping := true }) s.tns.runs } })) ∧
        (s.run? o = none → ∀ q, s.pass? o = some q → exec (.opPreempt o) s = .next (if q.stopping = true then s else passStop o s)) ∧
        (s.run? o = none → s.pass? o = none →
          exec (.opPreempt o) s = .next { s with shd := { s.shd with runs := mapIf (fun r => r.op = o) (fun r => { r with stopping := true }) s.shd.runs } }))))

/-- The commands of FEN_CMD on the selected fence, after the messages of it that arrived before. A fence outside the
function's range answers RANGE (2). ALLOC of a FREE fence for an ACTIVE context of the function makes it ACTIVE with
the staged fields; FREE makes an ACTIVE or ERROR fence FREE and releases its waits, or RELEASING while it has imports;
READ copies the value to FEN_DATA; SET_ERROR puts an ACTIVE fence into ERROR with a reason of R102; IMPORT and UNIMPORT
are those of a shared fence, and the last UNIMPORT of a RELEASING fence frees it. A fence in another state answers
STATE (3). A halted FEN holds the command, and ignores a further one while it is BUSY. -/
def Obligations.FenceCommandsFollowTheirStates : Prop :=
  (
  ∀ (fn : Fn) (s : State), quiet s fn.val →
    let answer (k : Nat) (u : State) : State := errorHooks { u with fen := { u.fen with results := tblSet 0 u.fen.results fn.val k } }
    (fenSelected s fn.val = none →
      exec (.fenAlloc fn) s = .next (answer 2 s) ∧ exec (.fenFree fn) s = .next (answer 2 s) ∧ exec (.fenRead fn) s = .next (answer 2 s) ∧
      exec (.fenSetError fn) s = .next (answer 2 s) ∧ exec (.fenImport fn) s = .next (answer 2 s) ∧ exec (.fenUnimport fn) s = .next (answer 2 s)) ∧
    (∀ k, fenSelected s fn.val = some k →
      let d := drainFence k s
      let f := d.fence k
      let cfg := (d.raw fn.val 0x080004).toNat
      let data := (d.raw fn.val 0x080008).toNat
      let ctx := bits cfg 8 0
      let shared := 65536 ≤ k
      (fnHasCtx d fn.val ctx = false → exec (.fenAlloc fn) s = .next (answer 2 d)) ∧
      (fnHasCtx d fn.val ctx = true → f.st ≠ .free ∨ (d.ctx ctx).state ≠ .active → exec (.fenAlloc fn) s = .next (answer 3 d)) ∧
      (fnHasCtx d fn.val ctx = true → f.st = .free → (d.ctx ctx).state = .active → exec (.fenAlloc fn) s = .next (answer 0
        { d with fen := { d.fen with
            fences := tblSet Fence.freeFence d.fen.fences k
              { Fence.freeFence with st := .active, value := q64 (d.rawBase fn.val 0x080008 0x08000C), owner := ctx,
                                     notify := bit cfg 9 && !decide shared, pageSig := bit cfg 10 && decide shared, pageErr := bit cfg 11 && decide shared,
                                     timeout := bits cfg 31 16, cookie := q64 (d.rawBase fn.val 0x080010 0x080014), alloc := d.fen.allocs + 1, changed := d.time },
            allocs := d.fen.allocs + 1 } })) ∧
      (f.st = .free ∨ f.st = .releasing → exec (.fenFree fn) s = .next (answer 3 d)) ∧
      (f.st = .active ∨ f.st = .error →
        let e := fenceError k .aborted d
        exec (.fenFree fn) s = .next (answer 0 (if ¬ shared ∨ (e.fence k).imports = [] then releaseWaits (e.setFence k Fence.freeFence)
          else e.setFence k { e.fence k with st := .releasing }))) ∧
      (f.st = .free → exec (.fenRead fn) s = .next (answer 3 d)) ∧
      (f.st ≠ .free → exec (.fenRead fn) s = .next (answer 0 ((d.setRaw fn.val 0x080008 (w32 f.value.toNat)).setRaw fn.val 0x08000C (w32 (f.value.toNat / 2 ^ 32))))) ∧
      (f.st ≠ .active → exec (.fenSetError fn) s = .next (answer 3 d)) ∧
      (f.st = .active → (data % 256 = 0 ∨ 5 < data % 256) → exec (.fenSetError fn) s = .next (answer 1 d)) ∧
      (∀ why, f.st = .active → reasonOf (data % 256) = some why → exec (.fenSetError fn) s = .next (answer 0 (fenceError k why d))) ∧
      (let i : FenceImport := { ctx := if bit data 10 then 0 else bits data 8 0, signal := bit data 9, peer := bit data 10 }
       let mayName := fn.val = 0 ∨ i.peer = true ∨ fnHasCtx d fn.val i.ctx = true
       (¬ shared → exec (.fenImport fn) s = .next (answer 1 d) ∧ exec (.fenUnimport fn) s = .next (answer 1 d)) ∧
       (shared → ¬ mayName → exec (.fenImport fn) s = .next (answer 2 d) ∧ exec (.fenUnimport fn) s = .next (answer 2 d)) ∧
       (shared → mayName → (f.st = .active ∨ f.st = .error) → f.imports.length < 32 →
         exec (.fenImport fn) s = .next (answer 0 (d.setFence k { f with imports := f.imports ++ [i] }))) ∧
       (shared → mayName → (f.st = .free ∨ f.st = .releasing ∨ 32 ≤ f.imports.length) → exec (.fenImport fn) s = .next (answer 3 d)) ∧
       (shared → mayName → (f.st = .free ∨ f.imports.contains i = false) → exec (.fenUnimport fn) s = .next (answer 3 d)) ∧
       (shared → mayName → f.st ≠ .free → f.imports.contains i = true → exec (.fenUnimport fn) s = .next (answer 0 (
         if f.st = .releasing ∧ f.imports.erase i = [] then releaseWaits (d.setFence k Fence.freeFence)
         else d.setFence k { f with imports := f.imports.erase i })))))) ∧
  (
  ∀ (k : Nat) (why : Reason) (s : State),
    let f := s.fence k
    (f.st ≠ .active → fenceError k why s = s) ∧
    (f.st = .active → fenceError k why s = errorEvent k (fireSlots k (releaseWaits (s.setFence k { f with st := .error, reason := some why })))) ∧
    (noHooks s → errorHooks s = s) ∧
    ((∀ m ∈ s.fen.queue, m.fence ≠ k) → drainFence k s = s)) ∧
  (
  ∀ (fn : Fn) (s : State), barOpen s fn.val = true → awake s = true → s.halted .fen = true →
    let held (op : Nat) : State := if fenBusy s fn.val = true then s else holdWrite fn.val 0x080018 op s
    exec (.fenAlloc fn) s = .next (held 1) ∧ exec (.fenFree fn) s = .next (held 2) ∧ exec (.fenRead fn) s = .next (held 3) ∧
    exec (.fenSetError fn) s = .next (held 4) ∧ exec (.fenImport fn) s = .next (held 5) ∧ exec (.fenUnimport fn) s = .next (held 6))

/-- The fence table applies the message in front, of the kind that arrived: a greater value is taken and releases the
waits it satisfies, fires the notify slots and makes the value event; any other counts as ignored; an error is
terminal, and releases, fires and makes its event with it; a fence that is no longer ACTIVE takes neither; a message of
an allocation that is gone is dropped. An empty queue, and a halted FEN, apply none. -/
def Obligations.FenceMessagesApply : Prop :=
  (∀ (t : Nat) (s0 : State),
    let s := advanceTo t s0
    s.fen.queue = [] ∨ s.halted .fen = true → exec (.fenceSignalApply t) s0 = .next s ∧ exec (.fenceErrorApply t) s0 = .next s) ∧
  (∀ (t : Nat) (s0 : State) (m : FenceMsg) (rest : List FenceMsg),
    let s := advanceTo t s0
    s.halted .fen = false → s.fen.queue = m :: rest →
    let f := s.fence m.fence
    let u := { s with fen := { s.fen with queue := rest } }
    (∀ why, m.what = .inr why → exec (.fenceSignalApply t) s0 = .next s) ∧
    (∀ v, m.what = .inl v → exec (.fenceErrorApply t) s0 = .next s) ∧
    (∀ v, m.what = .inl v →
      (f.st = .free ∨ f.alloc ≠ m.alloc → exec (.fenceSignalApply t) s0 = .next (errorHooks u)) ∧
      (f.st ≠ .free → f.alloc = m.alloc → (m.page = true ∧ f.pageSig = false) ∨ f.st ≠ .active ∨ v ≤ f.value →
        exec (.fenceSignalApply t) s0 = .next (errorHooks (u.setFence m.fence { f with ignored := f.ignored + 1 }))) ∧
      (f.alloc = m.alloc → m.page = false ∨ f.pageSig = true → f.st = .active → f.value < v → exec (.fenceSignalApply t) s0 = .next
        (errorHooks (valueEvent m.fence (fireSlots m.fence (releaseWaits (u.setFence m.fence { f with value := v, changed := s.time }))))))) ∧
    (∀ why, m.what = .inr why →
      (f.alloc ≠ m.alloc ∨ (m.page = true ∧ f.pageErr = false) ∨ f.st ≠ .active → exec (.fenceErrorApply t) s0 = .next (errorHooks u)) ∧
      (f.alloc = m.alloc → m.page = false ∨ f.pageErr = true → f.st = .active → exec (.fenceErrorApply t) s0 = .next
        (errorHooks (errorEvent m.fence (fireSlots m.fence (releaseWaits (u.setFence m.fence { f with st := .error, reason := some why })))))))) ∧
  (∀ (k : Nat) (s : State),
    let f := s.fence k
    ((f.slots = [] → fireSlots k s = s) ∧
    (f.notify = false ∨ 65536 ≤ k → valueEvent k s = s ∧ errorEvent k s = s) ∧
    (f.notify = true → k < 65536 → errorEvent k s = fenceEvent k 1 s ∧
      valueEvent k s = if ∃ l, f.evLast = some l ∧ s.time < l + 1000 then s.setFence k { f with evHeld := true } else fenceEvent k 0 s)))

/-- Timers of the fence table. A scan looks at every fence, after the messages of it that arrived before: it puts one
into ERROR with TIMEOUT when it is ACTIVE, has a timeout and a waiter, and its value has not changed for that long,
and leaves every other as it is. A value event that the spacing held back is written after a microsecond: to the
queue of the fence's function where that has one, else it counts as lost. An event is written behind those that wait,
or waits itself; one that finds the queue full is lost; one written raises the queue's vector. A violation of the
device itself, an access to its own BARs or to a bank whose region a context owns, is logged with its source, context
and address. A write of FEN_EVQ_LO or FEN_EVQ_HI stores the base and zeroes the counts of the function's event queue;
FE_PARKQ_LO and FE_PARKQ_HI do the same for its park queue. A source's held raise is made once a microsecond has
passed since its last one: the vector's message is sent with the table's address and data, or stays pending while the
vector is masked. Sooner, or with nothing held, nothing happens. -/
def Obligations.FenceTimersVectorsAndQueues : Prop :=
  (
  ∀ (t : Nat) (s0 : State),
    let s := advanceTo t s0
    (s.halted .fen = true → exec (.fenceTimeoutScan t) s0 = .next s) ∧
    (s.halted .fen = false → exec (.fenceTimeoutScan t) s0 = .next (errorHooks ((s.fen.fences.map (·.1)).foldl (fun u k => scanFence k u) s)))) ∧
  (
  ∀ (k : Nat) (s : State),
    let d := drainFence k s
    let f := d.fence k
    let due := f.st = .active ∧ f.timeout ≠ 0 ∧ hasWaiter d k = true ∧ f.changed + f.timeout * 1000000 ≤ d.time
    (¬ due → scanFence k s = d) ∧
    (due → scanFence k s = errorEvent k (fireSlots k (releaseWaits (d.setFence k { f with st := .error, reason := some .timeout }))))) ∧
  (
  ∀ (k : Fin 65536) (t : Nat) (s0 : State),
    let s := advanceTo t s0
    let f := s.fence k.val
    let u := s.setFence k.val { f with evLast := some s.time, evHeld := false }
    let fn := fnOfFence u k.val
    let q := u.evq fn
    let cfg := (u.raw fn 0x080028).toNat
    let on := bit cfg 31 = true ∧ bits cfg 26 16 ≠ 0 ∧ 4 ≤ bits cfg 3 0 ∧ bits cfg 3 0 ≤ 12
    let due := f.evHeld = true ∧ f.st = .active ∧ f.notify = true ∧ ∃ t, f.evLast = some t ∧ t + 1000 ≤ s.time
    (¬ due → exec (.fenceEventSpacingExpiry k t) s0 = .next s) ∧
    (due → ¬ on → exec (.fenceEventSpacingExpiry k t) s0 = .next (u.setEvq fn { q with lost := q.lost + 1 })) ∧
    (due → on → exec (.fenceEventSpacingExpiry k t) s0 = .next (eventPut fn f.owner
      (natLe 8 f.cookie.toNat ++ natLe 8 f.value.toNat ++ natLe 2 k.val ++ natLe 1 0 ++ natLe 1 0 ++ natLe 4 0 ++ natLe 8 u.time) u))) ∧
  (
  ∀ (fn : Fn) (owner : Nat) (rec : List Byte) (s : State),
    let cfg := (s.raw fn.val 0x080028).toNat
    let base := s.rawBase fn.val 0x080020 0x080024
    let put := queuePut base (bits cfg 3 0) 32 (s.evq fn.val) rec s
    let kept : State := { s with mem := { s.mem with records := s.mem.records ++ [{ event := true, n := fn.val, bytes := rec }] } }
    let waits := recordWaits s true fn.val
    (waits = true ∨ put = none → eventPut fn.val owner rec s = kept) ∧
    (∀ q ok u, waits = false → put = some (q, ok, u) →
      let v := u.setEvq fn.val q
      let w := noteQueue 0x82 owner (queueAccess base (bits cfg 3 0) 32 (s.evq fn.val) s) v
      eventPut fn.val owner rec s = if ok = true then raiseVec (.fenceEvents fn) fn.val (bits cfg 26 16) w else w) ∧
    (∀ q ok u, put = some (q, ok, u) → q = if ok = true then { s.evq fn.val with prod := (s.evq fn.val).prod + 1 } else { s.evq fn.val with lost := (s.evq fn.val).lost + 1 })) ∧
  (
  ∀ (src ctx pa n : Nat) (s : State),
    let entry (cause : Nat) : State := logError 0x11 src ctx cause pa false s
    let loops := 2 ^ 48 ≤ pa ∧ ∃ e ∈ s.mem.bars, e.1 ≤ pa % 2 ^ 48 ∧ pa % 2 ^ 48 < e.2
    (loops → noteViolation src ctx pa n s = entry 3) ∧
    (∀ u, ¬ loops → paRead 0 Attr.plain pa n s = .fault .keyMismatch u → noteViolation src ctx pa n s = entry 1) ∧
    (¬ loops → (∀ u, paRead 0 Attr.plain pa n s ≠ .fault .keyMismatch u) → noteViolation src ctx pa n s = s)) ∧
  (
  ∀ (fn : Fn) (v : Word) (s : State), quiet s fn.val →
    let parked (u : State) : State := { u with shd := { u.shd with parkq := tblSet QueueCnt.zero u.shd.parkq fn.val QueueCnt.zero } }
    exec (.fenEvqBaseWrite fn false v) s = .next ((s.setRaw fn.val 0x080020 ((s.raw fn.val 0x080020 &&& ~~~0xFFFFFFC0) ||| (v &&& 0xFFFFFFC0))).setEvq fn.val QueueCnt.zero) ∧
    exec (.fenEvqBaseWrite fn true v) s = .next ((s.setRaw fn.val 0x080024 ((s.raw fn.val 0x080024 &&& ~~~0x1FFFF) ||| (v &&& 0x1FFFF))).setEvq fn.val QueueCnt.zero) ∧
    exec (.feParkqBaseWrite fn false v) s = .next (parked (s.setRaw fn.val 0x060300 ((s.raw fn.val 0x060300 &&& ~~~0xFFFFFFC0) ||| (v &&& 0xFFFFFFC0)))) ∧
    exec (.feParkqBaseWrite fn true v) s = .next (parked (s.setRaw fn.val 0x060304 ((s.raw fn.val 0x060304 &&& ~~~0x1FFFF) ||| (v &&& 0x1FFFF))))) ∧
  (
  ∀ (src : VecSource) (t : Nat) (s0 : State),
    let s := advanceTo t s0
    (s.reg.vecs.find? (fun h => h.src = src) = none → exec (.vectorHoldoffExpiry src t) s0 = .next s) ∧
    (∀ h, s.reg.vecs.find? (fun h => h.src = src) = some h →
      (h.pend = none ∨ s.time < h.last + 1000 → exec (.vectorHoldoffExpiry src t) s0 = .next s) ∧
      (∀ fn vec, h.pend = some (fn, vec) → h.last + 1000 ≤ s.time →
        let o := 0x0E8000 + 16 * vec
        let vecs := mapIf (fun h => h.src = src) (fun h => { h with last := s.time, pend := none }) s.reg.vecs
        ((s.raw fn (o + 12)).toNat % 2 = 1 → exec (.vectorHoldoffExpiry src t) s0 = .next
          { s with reg := { s.reg with vecs, pba := tblSet 0 s.reg.pba (fn * 2048 + vec) 1 } }) ∧
        ((s.raw fn (o + 12)).toNat % 2 = 0 → exec (.vectorHoldoffExpiry src t) s0 = .next
          { s with reg := { s.reg with
              vecs, pba := tblSet 0 s.reg.pba (fn * 2048 + vec) 0,
              msgs := s.reg.msgs ++ [{ fn, vec, addr := (s.raw fn o).toNat + 2 ^ 32 * (s.raw fn (o + 4)).toNat, data := (s.raw fn (o + 8)).toNat }] } }))))

/-- Fence pages and notify slots, for a function whose range holds the shared fence. Only aligned 8-byte writes take
effect; a signal and an error join the messages; THRESHOLD, ADDR and DATA of a slot take writes unless it is armed;
CTRL clears the slot's result and arms or cancels it, and the armed slots whose condition holds fire at once, in their
order: each is disarmed, with RESULT 1 where its threshold is reached, else RESULT 2 and the fence's reason, and its
DATA is written to its address in host memory; an address in the device's own BARs is a violation. A halted FEN keeps
slot writes for later, and takes 4,096 messages. -/
def Obligations.FencePagesAndSlots : Prop :=
  (
  ∀ (fn : Fn) (n : Fin 1024) (v : Quad) (s : State), barOpen s fn.val = true → awake s = true →
    let k := 65536 + n.val
    let f := s.fence k
    let mine := fnHasShared s fn.val n.val = true ∧ f.st ≠ .free
    let halted := s.halted .fen
    let full := halted = true ∧ 4096 ≤ s.fen.queue.length
    let send (what : Quad ⊕ Reason) : State :=
      { s with fen := { s.fen with queue := s.fen.queue ++ [{ fence := k, alloc := f.alloc, what, page := true }] } }
    (∀ size, size ≠ 8 → exec (.fencePageSignal fn n size v) s = .next s ∧ exec (.fencePageError fn n size v) s = .next s) ∧
    (¬ mine → exec (.fencePageSignal fn n 8 v) s = .next s ∧ exec (.fencePageError fn n 8 v) s = .next s ∧
      ∀ i j, exec (.notifyCtrlWrite fn n i v) s = .next s ∧ exec (.notifyFieldWrite fn n i j v) s = .next s) ∧
    (mine → ¬ full → exec (.fencePageSignal fn n 8 v) s = .next (send (.inl v)) ∧ exec (.fencePageError fn n 8 v) s = .next (send (.inr .aborted))) ∧
    (mine → full → exec (.fencePageSignal fn n 8 v) s = .next (holdWrite fn.val (2 ^ 27 + n.val * 4096) v.toNat s) ∧
      exec (.fencePageError fn n 8 v) s = .next (holdWrite fn.val (2 ^ 27 + n.val * 4096 + 8) v.toNat s)) ∧
    (mine → ∀ i : Fin 8, let x := f.slot i.val
      let put (y : NotifySlot) : State := s.setFence k { f with slots := tblSet NotifySlot.empty f.slots i.val y }
      let keep (j : Nat) : State := holdWrite fn.val (2 ^ 27 + n.val * 4096 + (0x100 + 32 * i.val + 8 * j)) v.toNat s
      (halted = true → exec (.notifyFieldWrite fn n i .threshold v) s = .next (keep 0) ∧ exec (.notifyFieldWrite fn n i .addr v) s = .next (keep 1) ∧
        exec (.notifyFieldWrite fn n i .data v) s = .next (keep 2) ∧ exec (.notifyCtrlWrite fn n i v) s = .next (keep 3)) ∧
      (halted = false →
        (x.armed = true → ∀ j, exec (.notifyFieldWrite fn n i j v) s = .next s) ∧
        (x.armed = false →
          exec (.notifyFieldWrite fn n i .threshold v) s = .next (put { x with threshold := v }) ∧
          exec (.notifyFieldWrite fn n i .addr v) s = .next (put { x with addr := v }) ∧
          exec (.notifyFieldWrite fn n i .data v) s = .next (put { x with data := v })) ∧
        exec (.notifyCtrlWrite fn n i v) s = .next (fireSlots k (put { x with armed := decide (v.toNat % 2 = 1), result := 0, reason := 0 }))))) ∧
  (
  ∀ (k : Nat) (s : State),
    let f := s.fence k
    let fires (x : NotifySlot) : Prop := x.armed = true ∧ f.st ≠ .free ∧ (x.threshold ≤ f.value ∨ f.st ≠ .active)
    ((∀ i < 8, ¬ fires (f.slot i)) → fireSlots k s = s) ∧
    (∀ (i : Fin 8) (x : NotifySlot), f.slots = [(i.val, x)] → fires x →
      let hit := x.threshold ≤ f.value
      let u := s.setFence k { f with slots := [(i.val, { x with
        armed := false, result := if hit then 1 else 2, reason := if hit then 0 else (f.reason.map Reason.num).getD 0 })] }
      let pa := 2 ^ 48 + x.addr.toNat % 2 ^ 48
      fireSlots k s = (devWrite pa (natLe 8 x.data.toNat) u).getD (isolationError 0x82 f.owner 3 pa u)))

/-- GRAPH_PATCH. An invalid SUBOP ends the op with OP_ERROR, GRAPH_FORMAT; a command of another SUBOP than the op's
does nothing. BIND_DIR gives the context its directory once, GRAPH_DIR_BOUND after that, and takes a 4,096-byte
boundary and GRAPH_ID 0 (the code of other values is the model's choice, log 80). PUBLISH needs a directory; once its
root has passed validation the directory's 32 bytes hold the new root, the version one higher and the ring types, and
the version before is no longer current; a root that fails ends it with GRAPH_FORMAT. DELETE writes a root of 0; with
no version in the directory it ends with GRAPH_ABSENT. A read or a write that faults ends the op with
TRANSLATION_FAULT and the fault's code, a severed one with SEVERED, and one that must wait ends nothing. -/
def Obligations.GraphPatchesRun : Prop :=
  ∀ (o : OpRef) (io : HostIO) (s : State) (e : Entry) (p : Op), s.op? o = some (e, p) → p.phase = .running → p.ending = none → p.opcode = 0x60 → ctxRuns s e.ctx = true →
    let sub := fld p.body 16 1
    let g := fld p.body 18 2
    let va := fld p.body 24 8
    let c := s.ctx e.ctx
    let s0 := applyIO io s
    let published (t : State) : Prop := exec (.graphPublishValidated o io) s = .next t
    let deleted (t : State) : Prop := exec (.graphDelete o io) s = .next t
    (2 < sub → exec (.graphBindDir o) s = .next (endOp o 0x0B 0x12 0 s) ∧ exec (.graphPublish o) s = .next (endOp o 0x0B 0x12 0 s) ∧
      deleted (endOp o 0x0B 0x12 0 s0) ∧ published (endOp o 0x0B 0x12 0 s0)) ∧
    (sub ≤ 2 → (sub ≠ 0 → exec (.graphBindDir o) s = .next s) ∧ (sub ≠ 1 → exec (.graphPublish o) s = .next s ∧ published s0) ∧ (sub ≠ 2 → deleted s0)) ∧
    (sub = 0 →
      (c.dir ≠ none → exec (.graphBindDir o) s = .next (endOp o 0x0B 0x11 0 s)) ∧
      (c.dir = none → va % 4096 ≠ 0 ∨ g ≠ 0 → exec (.graphBindDir o) s = .next (endOp o 0x0B 0x12 0 s)) ∧
      (c.dir = none → va % 4096 = 0 → g = 0 → exec (.graphBindDir o) s = .next (endOp o 0 0 0 (s.setCtx e.ctx { c with dir := some va })))) ∧
    (sub = 1 →
      (c.dir = none → exec (.graphPublish o) s = .next (endOp o 0x0B 0x10 0 s) ∧ published (endOp o 0x0B 0x10 0 s0)) ∧
      (c.dir ≠ none → exec (.graphPublish o) s = .next s) ∧
      (∀ d, c.dir = some d →
        let version := readGraph e.ctx va s0
        (∀ u, version = .bad u → published (endOp o 0x0B 0x12 0 u)) ∧
        (∀ k u, version = .fault k u → published (endOp o 0x07 k 0 u)) ∧
        (∀ u, version = .severed u → published (endOp o 0x0D 0 0 u)) ∧
        (∀ u, version = .wait u → published u) ∧
        ∀ gr u, version = .ok gr u →
          let entry := feRead e.ctx (d + 32 * g) 32 u
          (∀ f v, entry = .fault f v → published (endOp o 0x07 (feFault f e.ctx v).1 0 (feFault f e.ctx v).2)) ∧
          (∀ v, entry = .severed v → published (endOp o 0x0D 0 0 v)) ∧
          (∀ v, entry = .wait v → published v) ∧
          ∀ b v, entry = .ok b v →
            let wrote := vaWrite noMaster e.ctx (d + 32 * g) (natLe 8 va ++ natLe 8 (fld b 8 8 + 1) ++ natLe 1 (graphTypes gr) ++ List.replicate 15 0) v
            (∀ w, wrote = .ok () w → published (endOp o 0 0 0 (
              if fld b 0 8 = 0 then w else replaceVersion e.ctx g (fld b 8 8) (fld b 0 8) (retireAsk v e.ctx p.body) w))) ∧
            (∀ f w, wrote = .fault f w → published (endOp o 0x07 (feFault f e.ctx w).1 0 (feFault f e.ctx w).2)) ∧
            (∀ w, wrote = .severed w → published (endOp o 0x0D 0 0 w)) ∧
            (∀ w, wrote = .wait w → published w))) ∧
    (sub = 2 →
      (c.dir = none → deleted (endOp o 0x0B 0x10 0 s0)) ∧
      (c.dir ≠ none → va ≠ 0 → deleted (endOp o 0x0B 0x12 0 s0)) ∧
      (∀ d, c.dir = some d → va = 0 →
        let entry := feRead e.ctx (d + 32 * g) 32 s0
        (∀ f v, entry = .fault f v → deleted (endOp o 0x07 (feFault f e.ctx v).1 0 (feFault f e.ctx v).2)) ∧
        (∀ v, entry = .severed v → deleted (endOp o 0x0D 0 0 v)) ∧
        (∀ v, entry = .wait v → deleted v) ∧
        ∀ b u, entry = .ok b u →
          (fld b 0 8 = 0 → deleted (endOp o 0x0B 0x13 0 u)) ∧
          (fld b 0 8 ≠ 0 →
            let wrote := vaWrite noMaster e.ctx (d + 32 * g) [0, 0, 0, 0, 0, 0, 0, 0] u
            (∀ w, wrote = .ok () w → deleted (endOp o 0 0 0 (replaceVersion e.ctx g (fld b 8 8) (fld b 0 8) (retireAsk u e.ctx p.body) w))) ∧
            (∀ f w, wrote = .fault f w → deleted (endOp o 0x07 (feFault f e.ctx w).1 0 (feFault f e.ctx w).2)) ∧
            (∀ w, wrote = .severed w → deleted (endOp o 0x0D 0 0 w)) ∧
            (∀ w, wrote = .wait w → deleted w))))

/-- A launch whose turn it is, and whose waits are satisfied, pins the current version, copies its arguments and runs
its nodes as ops. It ends with GRAPH_INVALID where the context has no directory, the directory names no version, the
version no longer passes its checks (the model's choice, log 81), or ARG_VA and ARG_BYTES do not agree, and with
BAD_OPCODE where the ring's type is not among the version's; a read that faults ends it with CB_FAULT, or EDGE_FAULT
for the arguments, and with full version slots it stays. A version that PUBLISH or DELETE replaces is no longer current
and keeps the retirement asked for; every version of the context that is not current and that no launch pins retires:
its record is written at RETIRE_VA, unless that is 0, and its fence is signalled after it; while the record must wait
it stays. A fence that the context does not own is not signalled. -/
def Obligations.VersionsPinAndRetire : Prop :=
  (
  ∀ (r : EntryRef) (io : HostIO) (s0 : State), s0.reg.mismatch = [] →
    let s := applyIO io s0
    let ends (t : State) : Prop := exec (.launchAccept r io) s0 = .next t
    ((∀ x, s.entry? r.ring.val r.seq = some x → x.phase ≠ .waiting ∨ fld x.raw 4 1 ≠ 2 ∨ ctxRuns s x.ctx = false) → ends s) ∧
    ∀ x, s.entry? r.ring.val r.seq = some x → x.phase = .waiting → fld x.raw 4 1 = 2 → ctxRuns s x.ctx = true →
      let y := recheckEntry s x
      let s1 := s.onEntry r.ring.val r.seq fun _ => y
      let goes := y.phase = .waiting ∧ (∀ w ∈ y.edges.take y.nwait, w.sat = true) ∧ ringTurn s1 y = true
      let fail (st d : Nat) (u : State) : State :=
        u.onEntry r.ring.val r.seq fun e => { e with phase := .finished, status := st, opIndex := 0xFFFF, detail := d, ops := [] }
      let g := fld x.raw 8 8
      let argVa := fld x.raw 48 8
      (¬ goes → ends s1) ∧
      (goes → (s.ctx x.ctx).dir = none → ends (fail 0x0A 0 s1)) ∧
      (goes → ∀ d, (s.ctx x.ctx).dir = some d →
        let entry := grRead x.ctx (d + 32 * g) 32 s1
        (∀ k u, entry = .fault k u → ends (fail 0x05 k u)) ∧
        (∀ u, entry = .severed u → ends (fail 0x0D 0 u)) ∧
        (∀ u, entry = .wait u → ends u) ∧
        ∀ b u, entry = .ok b u →
          let version := readGraph x.ctx (fld b 0 8) u
          (fld b 0 8 = 0 → ends (fail 0x0A 0 u)) ∧
          (fld b 0 8 ≠ 0 →
            (∀ v, version = .bad v → ends (fail 0x0A 0 v)) ∧
            (∀ k v, version = .fault k v → ends (fail 0x05 k v)) ∧
            (∀ v, version = .severed v → ends (fail 0x0D 0 v)) ∧
            (∀ v, version = .wait v → ends v) ∧
            ∀ gr v, version = .ok gr v →
              let held := v.fe.versions.any fun w => decide (w.ctx = x.ctx) && decide (w.graph = g) && decide (w.version = fld b 8 8)
              let agree := gr.argBytes = 0 ↔ argVa = 0
              let typed := bit (fld b 16 1) (v.ring r.ring.val).type
              let room := held = true ∨ v.fe.versions.length < 4096
              let args := readArgs x.ctx argVa gr.argBytes v
              (¬ agree → ends (fail 0x0A 0 v)) ∧
              (agree → typed = false → ends (fail 0x02 0 v)) ∧
              (agree → typed = true → ¬ room → ends v) ∧
              (agree → typed = true → room →
                (∀ k w, args = .fault k w → ends (fail 0x06 k w)) ∧
                (∀ w, args = .severed w → ends (fail 0x0D 0 w)) ∧
                (∀ w, args = .wait w → ends w) ∧
                (∀ a w, args = .ok a w → ends ((pinVersion x.ctx g (fld b 8 8) (fld b 0 8) w).onEntry r.ring.val r.seq fun e => { e with
                  phase := .running, launch := some { graph := g, version := fld b 8 8, root := fld b 0 8, args := a },
                  ops := gr.nodes.map fun n => mkOp n.opcode n.va n.len n.mask n.preds n.patches })))))) ∧
  (
  ∀ (ctx g ver root va : Nat) (fence : Option (Nat × Nat × Quad)) (s : State),
    let mine (v : GraphVersion) : Bool := decide (v.ctx = ctx) && decide (v.graph = g) && decide (v.version = ver)
    let withVersions (l : List GraphVersion) : State := { s with fe := { s.fe with versions := l } }
    (s.fe.versions.any mine = true →
      replaceVersion ctx g ver root (va, fence) s = retireReady ctx (withVersions (s.fe.versions.map fun v => if mine v then { v with current := false, retireVa := va, fence } else v)) ∧
      pinVersion ctx g ver root s = withVersions (s.fe.versions.map fun v => if mine v then { v with pins := v.pins + 1, launches := v.launches + 1 } else v)) ∧
    (s.fe.versions.any mine = false →
      replaceVersion ctx g ver root (va, fence) s = retireReady ctx (withVersions (s.fe.versions ++
        [{ ctx, graph := g, version := ver, root, pins := 0, launches := 0, current := false, retireVa := va, fence }])) ∧
      pinVersion ctx g ver root s = withVersions (s.fe.versions ++
        [{ ctx, graph := g, version := ver, root, pins := 1, launches := 1, current := true, retireVa := 0, fence := none }])) ∧
    ((∀ v ∈ s.fe.versions, v.ctx = ctx → v.current = true ∨ 0 < v.pins) ∨ ctxRuns s ctx = false → retireReady ctx s = s)) ∧
  (
  ∀ (v : GraphVersion) (s : State), ctxRuns s v.ctx = true → s.fe.versions.filter (fun w => decide (w.ctx = v.ctx) && !w.current && decide (w.pins = 0)) = [v] →
    let record := natLe 8 v.root ++ natLe 8 v.version ++ natLe 2 v.graph ++ [0, 0] ++ natLe 4 (Nat.min v.launches 0xFFFFFFFF) ++ natLe 8 s.time
    let gone (u : State) : State := { u with fe := { u.fe with versions := u.fe.versions.erase v } }
    let signal (u : State) : State := match v.fence with
      | some (k, a, val) => sendFence k a (.inl val) (wcFlushAll u)
      | none => u
    let wrote := vaWrite noMaster v.ctx v.retireVa record s
    (v.retireVa = 0 → retireReady v.ctx s = signal (gone s)) ∧
    (v.retireVa ≠ 0 →
      (∀ u, wrote = .ok () u → retireReady v.ctx s = signal (gone u)) ∧
      (∀ f u, wrote = .fault f u → retireReady v.ctx s = signal (gone (feFault f v.ctx u).2)) ∧
      (∀ u, wrote = .severed u → retireReady v.ctx s = signal (gone u)) ∧
      (∀ u, wrote = .wait u → retireReady v.ctx s = s))) ∧
  (∀ (s : State) (ctx : Nat) (b : List Byte),
    let f := s.fence (fld b 40 2)
    (retireAsk s ctx b).1 = fld b 32 8 ∧
    (retireAsk s ctx b).2 = if fld b 42 1 % 2 = 1 ∧ f.st ≠ .free ∧ f.owner = ctx then some (fld b 40 2, f.alloc, q64 (fld b 48 8)) else none)

/-- A tensor op that has not begun is checked: a body that cannot be read ends it with BAD_RECORD, the first failed
check with OP_ERROR and its DETAIL; where every unit that it may use is pinned, or one that an NSPLIT or KSPLIT needs,
it ends with PINNED, and its report. Dimensions come first among the checks of TENSOR_MMA and of TENSOR_MOVE, the
functions among those of TENSOR_VEC. A tensor op that passes starts on the free units of its mask, each of which takes
the op's next item: the free arrays in increasing cluster number, or the channel named; an NSPLIT or KSPLIT on every
array of its mask at once, each with its own items. With no unit free it waits, and so it does while an op that R87
puts first is ready. An op that has begun takes the units that have become free in the same way. -/
def Obligations.TensorRecordsAreCheckedAndStart : Prop :=
  (
  (∀ (o : OpRef) (s : State) (e : Entry) (p : Op), s.op? o = some (e, p) → p.phase = .running → p.ending = none → ctxRuns s e.ctx = true → s.run? o = none →
    (p.opcode = 0x30 →
      (parseMma p.body (maskArrays p.emask).length = none → exec (.tensorMma o) s = .next (endOp o 0x01 0 0 s)) ∧
      (∀ r, parseMma p.body (maskArrays p.emask).length = some r →
        (∀ d, r.check = some d → exec (.tensorMma o) s = .next (endOp o 0x0B d 0 s)) ∧
        (r.check = none → arraysPinned s p = true → exec (.tensorMma o) s = .next (endTensor o (0x40 + (maskArrays p.emask).headD 0) 0x0C 0 (startRun o e.ctx s))))) ∧
    (p.opcode = 0x32 →
      (parseVec p.body = none → exec (.tensorVec o) s = .next (endOp o 0x01 0 0 s)) ∧
      (∀ v, parseVec p.body = some v →
        (∀ d, v.check = some d → exec (.tensorVec o) s = .next (endOp o 0x0B d 0 s)) ∧
        (v.check = none → arraysPinned s p = true → exec (.tensorVec o) s = .next (endTensor o (0x40 + (maskArrays p.emask).headD 0) 0x0C 0 (startRun o e.ctx s))))) ∧
    (p.opcode = 0x31 → ∀ chan : Fin 32,
      (parseMove p.body = none → exec (.tensorMove o chan) s = .next (endOp o 0x01 0 0 s)) ∧
      (∀ v, parseMove p.body = some v →
        (∀ d, v.check = some d → exec (.tensorMove o chan) s = .next (endOp o 0x0B d 0 s)) ∧
        (v.check = none → p.units = [] → chansPinned s p.emask = true → exec (.tensorMove o chan) s = .next (endTensor o (0x48 + chan.val) 0x0C 0 (startRun o e.ctx s)))))) ∧
  (∀ r : Mma, r.m = 0 ∨ 1048576 < r.m ∨ r.n = 0 ∨ 1048576 < r.n ∨ r.k = 0 ∨ 1048576 < r.k → r.check = some 0x30) ∧
  (∀ v : Move, v.rows = 0 ∨ 1048576 < v.rows ∨ v.cols = 0 ∨ 1048576 < v.cols ∨ v.planes = 0 ∨ 65536 < v.planes → v.check = some 0x30) ∧
  (∀ v : Vec, 6 < v.f1 ∨ 6 < v.f2 ∨ 4 < v.ymode → v.check = some 0x37) ∧
  (∀ (b : List Byte) (n : Nat), 16 ≤ fld b 34 1 ∨ 4 ≤ fld b 35 1 ∨ zeros b 130 2 = false ∨ zeros b 156 4 = false → parseMma b n = none)) ∧
  (
  ∀ (o : OpRef) (s : State) (e : Entry) (p : Op), s.op? o = some (e, p) → p.phase = .running → p.ending = none → ctxRuns s e.ctx = true →
    let started (held : List (Nat × Nat)) (next : Tbl Nat) : State :=
      { (s.onOp o fun q => { q with units := q.units ++ held.map (·.1) }) with tns := { s.tns with
        runs := s.tns.runs ++ [{ op := o, ctx := e.ctx, next, held, parts := [], written := 0, flags := 0, tStart := s.time, issue := 0, used := held.map (·.1), preempts := 0, stopping := false, fail := none }] } }
    let arrays := maskArrays p.emask
    let free := arrays.filter fun c => arrayFree s c
    let items := opItems p.opcode p.body arrays.length
    let own := ownSlots p.opcode p.body
    (∀ cmd : Instr,
      (p.opcode = 0x30 ∧ cmd = .tensorMma o ∧ (s.run? o = none → ∃ r, parseMma p.body arrays.length = some r ∧ r.check = none)) ∨
      (p.opcode = 0x32 ∧ cmd = .tensorVec o ∧ (s.run? o = none → ∃ v, parseVec p.body = some v ∧ v.check = none)) →
      (s.run? o = none → arraysPinned s p = false →
        (free = [] ∨ yields s o = true ∨ (own = true ∧ free ≠ arrays) → exec cmd s = .next s) ∧
        (free ≠ [] → yields s o = false → own = false → 0 < items →
          let taken := (free.take items).map fun c => 0x40 + c
          exec cmd s = .next (started (taken.zipIdx) [(0, taken.length)])) ∧
        (free ≠ [] → yields s o = false → own = true → free = arrays → 0 < items →
          exec cmd s = .next (started (arrays.map fun c => (0x40 + c, 0)) ((upTo arrays.length).map fun j => (j, 1))))) ∧
      (∀ r, s.run? o = some r →
        (r.held = [] → arraysPinned s p = true → exec cmd s = .next (endTensor o (0x40 + arrays.headD 0) 0x0C 0 s)) ∧
        (r.held ≠ [] ∨ arraysPinned s p = false →
          (yields s o = true ∨ (own = true ∧ r.held = [] ∧ free ≠ arrays) → exec cmd s = .next s) ∧
          (yields s o = false → own = false ∨ r.held ≠ [] ∨ free = arrays →
            exec cmd s = .next (free.foldl (fun u c => takeItem o (0x40 + c) u) s))))) ∧
    (p.opcode = 0x31 → (s.run? o = none → ∃ v, parseMove p.body = some v ∧ v.check = none) → ∀ chan : Fin 32,
      (p.units ≠ [] → exec (.tensorMove o chan) s = .next s) ∧
      (p.units = [] → chansPinned s p.emask = true → exec (.tensorMove o chan) s = .next (endTensor o (0x48 + chan.val) 0x0C 0 (startRun o e.ctx s))) ∧
      (p.units = [] → chansPinned s p.emask = false → chanFree s p.emask chan.val = false ∨ yields s o = true → exec (.tensorMove o chan) s = .next s) ∧
      (p.units = [] → chansPinned s p.emask = false → chanFree s p.emask chan.val = true → yields s o = false →
        (s.run? o = none → 0 < items → exec (.tensorMove o chan) s = .next (started [(0x48 + chan.val, 0)] [(0, 1)])) ∧
        (s.run? o ≠ none → exec (.tensorMove o chan) s = .next (takeItem o (0x48 + chan.val) s))))) ∧
  (
  ∀ (o : OpRef) (m : Nat) (s : State) (e : Entry) (p : Op) (r : TensorRun), s.op? o = some (e, p) → s.run? o = some r →
    let slot := slotOf p m
    let i := tblGet 0 r.next slot
    let stays := (r.stopping = true ∧ tileBegun r p slot i = false) ∨ r.fail ≠ none ∨ narrowWaits s m = true ∨ opItems p.opcode p.body (maskArrays p.emask).length ≤ i
    (stays → takeItem o m s = s) ∧
    (¬ stays → takeItem o m s = (s.onRun o fun r => { r with
      next := tblSet 0 r.next slot (i + 1), held := r.held ++ [(m, i)], used := if r.used.contains m then r.used else r.used ++ [m] }).onOp o
        fun p => { p with units := p.units ++ [m] }))

/-- A unit of a tensor op reaches its boundary: its item is done, or ends with a fault, an OP_ERROR or SEVERED, the
first of which is the op's own; one that must wait ends nothing. The unit then leaves the item. An op that has failed
is over once no unit holds an item of it, and one whose items are all done is over; an op that a pre-emption stops
keeps its place, with nothing held; otherwise the unit takes the next item. An op that is over writes its report of 32
bytes where it names one, and then completes with its status and its sticky flags. A unit that holds no item of the op
does nothing. TNS_CTL of a cluster that is on takes NARROW under an unlock, which the write uses up; without one the
write is denied. The array's mode follows once it holds no tile. -/
def Obligations.TensorItemsEndAndModesFollow : Prop :=
  (
  ∀ (o : OpRef) (m t : Nat) (io : HostIO) (s0 : State),
    let s := applyIO io (advanceTo t s0)
    let ends (u : State) : Prop := exec (.tensorTileDone o m io t) s0 = .next (metaLog u)
    (s.run? o = none ∨ s.op? o = none → ends s) ∧
    (∀ e p r, s.op? o = some (e, p) → s.run? o = some r → (∀ h ∈ r.held, h.1 ≠ m) → ends s) ∧
    (∀ e p r i, s.op? o = some (e, p) → s.run? o = some r → r.held.find? (fun h => h.1 = m) = some (m, i) →
      let ran := runItem p o m e.ctx (slotOf p m) i (s.ctx e.ctx).ftz s
      let works := p.phase = .running ∧ ctxRuns s e.ctx = true ∧ s.isPinned m = false
      let failed (st d : Nat) (u : State) : State := u.onRun o fun r => { r with fail := r.fail.or (some (st, d)) }
      (¬ works → ends (afterItem o m s)) ∧
      (works →
        (∀ v u, ran = .ok v u → ends (afterItem o m v)) ∧
        (∀ f va acc u, ran = .fault f va acc u → ends (afterItem o m (
          let v := masterFault f m e.ctx va acc o.ring.val o.seq u
          if f.bar = true then failed 0x0B 3 v else failed 0x07 f.code.num v))) ∧
        (∀ d u, ran = .bad d u → ends (afterItem o m (failed 0x0B d u))) ∧
        (∀ u, ran = .severed u → ends (afterItem o m (failed 0x0D 0 u))) ∧
        (∀ u, ran = .wait u → ends u)))) ∧
  (
  ∀ (o : OpRef) (m : Nat) (s : State) (e : Entry) (p : Op) (r : TensorRun),
    let u := leaveItem o m s
    u.run? o = some r → u.op? o = some (e, p) →
    let slots := if ownSlots p.opcode p.body = true then (maskArrays p.emask).length else 1
    let all := ∀ j < slots, opItems p.opcode p.body (maskArrays p.emask).length ≤ tblGet 0 r.next j
    (ctxRuns u e.ctx = false → afterItem o m s = if r.held = [] then discardOp o (dropRun o u) else u) ∧
    (ctxRuns u e.ctx = true →
      (∀ st d, r.fail = some (st, d) → afterItem o m s = if r.held = [] then endTensor o m st d u else u) ∧
      (r.fail = none → r.held = [] → all → afterItem o m s = endTensor o m 0 0 u) ∧
      (r.fail = none → ¬ (r.held = [] ∧ all) → r.held = [] → r.stopping = true → r.parts = [] →
        afterItem o m s = u.onRun o fun r => { r with stopping := false, preempts := r.preempts + 1 }) ∧
      (r.fail = none → ¬ (r.held = [] ∧ all) → ¬ (r.held = [] ∧ r.stopping = true ∧ r.parts = []) →
        afterItem o m s = if u.isPinned m = true then u else takeItem o m u))) ∧
  (
  ∀ (o : OpRef) (m st d : Nat) (s : State) (e : Entry) (p : Op) (r : TensorRun), s.op? o = some (e, p) → s.run? o = some r → r.op = o → p.phase = .running → p.ending = none → ctxRuns s e.ctx = true →
    let u := opEnding o st d m s
    let va := reportVa p.opcode p.body
    let ended (v : State) : State := endOp o st d r.flags (dropRun o v)
    let report := opReport r st d s.time
    let wrote := vaWrite m e.ctx va report u
    (va = 0 → endTensor o m st d s = ended u) ∧
    (va ≠ 0 →
      (∀ v, wrote = .ok () v → endTensor o m st d s = ended v) ∧
      (∀ f v, wrote = .fault f v → endTensor o m st d s = ended (masterFault f m e.ctx va .write e.ring e.seq v)) ∧
      (∀ v, wrote = .severed v → endTensor o m st d s = ended v) ∧
      (∀ v, wrote = .wait v → endTensor o m st d s = u)) ∧
    report.length = 32 ∧ fld report 0 8 = r.tStart % 2 ^ 64 ∧ fld report 8 8 = s.time % 2 ^ 64 ∧ fld report 16 4 = r.written % 2 ^ 32 ∧
    fld report 20 1 = r.flags % 256 ∧ fld report 21 1 = st % 256 ∧ fld report 22 1 = d % 256 ∧ fld report 23 1 = Nat.min r.preempts 255 ∧
    fld report 24 4 = Nat.min r.issue 0xFFFFFFFF ∧ fld report 28 1 = r.used.length % 256) ∧
  (
  ∀ (c : Fin 8) (v : Word) (s : State),
    let off := clusterBase c + 0x10000
    let old := s.raw 0 off
    let new := (old &&& 0xFFFFFFFE) ||| (v &&& 1)
    (quiet s 0 → s.power c.val = .on →
      ((new &&& 1) = (old &&& 1) → exec (.narrowWrite 0 c v) s = .next (s.setRaw 0 off new)) ∧
      ((new &&& 1) ≠ (old &&& 1) → unlocked s (.tns c) 0 = true → exec (.narrowWrite 0 c v) s = .next ((setUnlock (.tns c) 0 0 s).setRaw 0 off new)) ∧
      ((new &&& 1) ≠ (old &&& 1) → unlocked s (.tns c) 0 = false → exec (.narrowWrite 0 c v) s = .next (setDenied (.tns c) 0 1 s))) ∧
    (∀ fn : Fn, fn.val ≠ 0 → exec (.narrowWrite fn c v) s = .next s) ∧
    exec (.narrowSwitchDone c) s = .next (
      if s.fe.entries.any (fun e => e.ops.any fun p => p.units.contains (0x40 + c.val)) then s
      else { s with tns := { s.tns with narrow := tblSet 0 s.tns.narrow c.val ((s.raw 0 off).toNat % 2) } }))

/-- Every code of a floating-point format that is no NaN keeps through its value: encoding what it decodes to, by
either rounding, gives the code again, without a flag. Integer codes do so as well, and an integer accumulation clamps
at the ends of INT32. -/
def Obligations.NumbersKeepTheirCodes : Prop :=
  (∀ (f : FFmt) (c : Nat) (draw : Option Nat), f ∈ [fmtFp32, fmtFp19, fmtBf16, fmtFp16, fmtE5m2, fmtE4m3, fmtE3m2, fmtE2m3, fmtE2m1] →
    c < 2 ^ (1 + f.ebits + f.mbits) → decodeFloat f c ≠ .nan → encodeFloat f draw false false (decodeFloat f c) = { val := c, fl := 0 }) ∧
  (∀ (code c : Nat) (ftz sat : Bool) (draw : Option Nat), code ∈ [0xA, 0xB, 0xC, 0xD, 0xE] → c < 2 ^ fmtWidth code →
    encodeElem code draw sat ftz (decodeElem code ftz c) = { val := c, fl := 0 }) ∧
  (∀ (r : Mma) (ftz : Bool) (terms : List (Fl Val)) (c : Val), r.isFloat = false →
    (dotStep r ftz terms c).val = Val.ofInt (max (-2147483648) (min 2147483647 (c.toInt + (terms.map fun t => t.val.toInt).sum))))

/-- SPM_ARB takes weights that are all nonzero and sum to 16, L2_LOCK at most 8 ways under an unlock; other values
leave the fields as they are and set REFUSED. Both are the physical function's, of a unit that is on. -/
def Obligations.WeightsAndWaysAreChecked : Prop :=
  ∀ (fn : Fn) (v : Word) (s : State), quiet s fn.val →
    (fn.val ≠ 0 → (∀ c, exec (.spmArbWrite fn c v) s = .next s) ∧ (∀ d, exec (.l2LockWrite fn d v) s = .next s)) ∧
    (fn.val = 0 → ∀ c : Fin 8, s.power c.val = .on →
      let off := clusterBase c + 0x20000
      let old := s.raw 0 off
      let new := (old &&& 0xFFFF0000) ||| (v &&& 0xFFFF)
      let n := v.toNat
      let ok := n % 16 ≠ 0 ∧ n / 16 % 16 ≠ 0 ∧ n / 256 % 16 ≠ 0 ∧ n / 4096 % 16 ≠ 0 ∧ n % 16 + n / 16 % 16 + n / 256 % 16 + n / 4096 % 16 = 16
      (ok ∨ (new &&& 0xFFFF) = (old &&& 0xFFFF) → exec (.spmArbWrite fn c v) s = .next (s.setRaw 0 off (new &&& ~~~(v &&& 0x80000000)))) ∧
      (¬ ok → (new &&& 0xFFFF) ≠ (old &&& 0xFFFF) → exec (.spmArbWrite fn c v) s = .next (s.setRaw 0 off ((old &&& ~~~(v &&& 0x80000000)) ||| 0x80000000)))) ∧
    (fn.val = 0 → ∀ d : Fin 2, s.power (72 + d.val) = .on →
      let off := dieBase d + 4
      let old := s.raw 0 off
      let new := (old &&& 0xFFFF0000) ||| (v &&& 0xFFFF)
      let u := setUnlock (.l2 d) 0 0 s
      let ways := ((List.range 16).filter fun w => v.toNat / 2 ^ w % 2 = 1).length
      ((new &&& 0xFFFF) = (old &&& 0xFFFF) → exec (.l2LockWrite fn d v) s = .next (s.setRaw 0 off (new &&& ~~~(v &&& 0x80000000)))) ∧
      ((new &&& 0xFFFF) ≠ (old &&& 0xFFFF) → unlocked s (.l2 d) 0 = false → exec (.l2LockWrite fn d v) s = .next (setDenied (.l2 d) 0 1 s)) ∧
      ((new &&& 0xFFFF) ≠ (old &&& 0xFFFF) → unlocked s (.l2 d) 0 = true → ways ≤ 8 →
        exec (.l2LockWrite fn d v) s = .next (u.setRaw 0 off (new &&& ~~~(v &&& 0x80000000)))) ∧
      ((new &&& 0xFFFF) ≠ (old &&& 0xFFFF) → unlocked s (.l2 d) 0 = true → 8 < ways →
        exec (.l2LockWrite fn d v) s = .next (u.setRaw 0 off ((old &&& ~~~(v &&& 0x80000000)) ||| 0x80000000))))

/-- CLEAR of a region starts under an unlock unless the region's clear already runs; its end zeroes every byte of the
region's 64 KiB, leaves every other byte, and makes the owner NONE; what waited for the region then goes on. Power good
starts a unit's clear while the package is awake or leaves a sleep state and no thermal hold stands. A clear that
passes releases a core with its tile memory zero and unowned and its L1 empty, a cluster likewise once its eight cores
are on, and a die with an empty L2; SEC_CFG.CLEAR_SKIP leaves the contents. A clear that fails leaves the unit
unreleased and is logged; of a cluster's, SPM_CLEAR_STS shows the failing bank and every master of the cluster is
pinned with CLEAR_FAIL; a die's pins none, and its log entry's cluster is open (the model's choice, log 90). -/
def Obligations.RegionsAndUnitsAreCleared : Prop :=
  (
  ∀ (c : Fin 8) (s : State),
    (∀ (v : Word), quiet s 0 → s.power c.val = .on → bit (s.raw 0 (clusterBase c + 0x20018)).toNat 0 = false →
      let sel := (s.raw 0 (clusterBase c + 0x20010)).toNat
      let u := setUnlock (.spm c) 0 0 s
      (unlocked s (.spm c) 0 = false → exec (.regionClear 0 c v) s = .next (setDenied (.spm c) 0 1 s)) ∧
      (unlocked s (.spm c) 0 = true →
        (sel / 256 % 2 = 1 → sel / 32 % 8 ≠ 0 → exec (.regionClear 0 c v) s = .next u) ∧
        (∀ k, (sel / 256 % 2 = 0 ∧ k = c.val * 256 + sel % 256) ∨ (sel / 256 % 2 = 1 ∧ sel / 32 % 8 = 0 ∧ k = 2048 + c.val * 32 + sel % 32) →
          exec (.regionClear 0 c v) s = .next (if k ∈ s.mem.clearing then u else { u with mem := { u.mem with clearing := u.mem.clearing ++ [k] } })))) ∧
    (∀ (fn : Fn) (v : Word), fn.val ≠ 0 → exec (.regionClear fn c v) s = .next s) ∧
    (∀ r : Fin 288,
      let k := regionKey c.val r.val
      let base := regionBase k
      (k ∉ s.mem.clearing → exec (.regionClearDone c r) s = .next s) ∧
      (k ∈ s.mem.clearing → ∃ t, exec (.regionClearDone c r) s = .next (goOn t) ∧
        (∀ a, base ≤ a → a < base + 65536 → cellGet a t = 0) ∧
        (memInv s → memInv t ∧ ∀ a, (a < base ∨ base + 65536 ≤ a) → cellGet a t = cellGet a s) ∧
        t = { s with mem := { s.mem with cells := t.mem.cells, owners := tblSet 0 s.mem.owners k 0, clearing := s.mem.clearing.filter fun j => j ≠ k } }))) ∧
  (
  ∀ (u : PowerUnit) (s : State),
    let k := unitKey u
    (s.power k = .off → awake s = true ∨ s.pwr.sleep = .exiting → s.err.thermal2 = false → exec (.powerGood u) s = .next
      { s with unit := { s.unit with power := tblSet .off s.unit.power k .clearing, waking := s.unit.waking.filter fun j => j ≠ k } }) ∧
    (s.power k ≠ .off ∨ (awake s = false ∧ s.pwr.sleep ≠ .exiting) ∨ s.err.thermal2 = true → exec (.powerGood u) s = .next s) ∧
    (∀ r, s.power k ≠ .clearing → exec (.unitRelease u r) s = .next s) ∧
    (∀ n : Fin 64, u = .core n → s.power k = .clearing → ∃ t, exec (.unitRelease u .pass) s = .next t ∧
      (bit (s.raw 0 0x050008).toNat 3 = true → t.mem.cells = s.mem.cells) ∧
      (bit (s.raw 0 0x050008).toNat 3 = false → ∀ a, 0x8100000000 + n.val * 0x40000 ≤ a → a < 0x8100000000 + (n.val + 1) * 0x40000 → cellGet a t = 0) ∧
      t.mem.owners = s.mem.owners.filter (fun e => !(decide (2048 + n.val * 4 ≤ e.1) && decide (e.1 < 2048 + n.val * 4 + 4))) ∧
      t.mem.clearing = s.mem.clearing.filter (fun j => !(decide (2048 + n.val * 4 ≤ j) && decide (j < 2048 + n.val * 4 + 4))) ∧
      t = { s with
        mem := { s.mem with cells := t.mem.cells, owners := t.mem.owners, clearing := t.mem.clearing }
        shd := { s.shd with l1 := s.shd.l1.filter fun l => l.core ≠ n.val }
        unit := { s.unit with power := tblSet .off s.unit.power k .on } }) ∧
    (∀ c : Fin 8, u = .cluster c → s.power k = .clearing →
      ((∃ i : Fin 8, s.power (8 + 8 * c.val + i.val) ≠ .on) → exec (.unitRelease u .pass) s = .next s) ∧
      ((∀ i : Fin 8, s.power (8 + 8 * c.val + i.val) = .on) → ∃ t, exec (.unitRelease u .pass) s = .next t ∧
        (bit (s.raw 0 0x050008).toNat 3 = true → t.mem.cells = s.mem.cells) ∧
        (bit (s.raw 0 0x050008).toNat 3 = false → ∀ a, 0x8000000000 + c.val * 0x1000000 ≤ a → a < 0x8000000000 + (c.val + 1) * 0x1000000 → cellGet a t = 0) ∧
        t.mem.owners = s.mem.owners.filter (fun e => !(decide (c.val * 256 ≤ e.1) && decide (e.1 < c.val * 256 + 256))) ∧
        t.mem.clearing = s.mem.clearing.filter (fun j => !(decide (c.val * 256 ≤ j) && decide (j < c.val * 256 + 256))) ∧
        t = { s with
          mem := { s.mem with cells := t.mem.cells, owners := t.mem.owners, clearing := t.mem.clearing }
          unit := { s.unit with power := tblSet .off s.unit.power k .on, clearFail := tblSet 0 s.unit.clearFail c.val 0 } })) ∧
    (∀ d : Fin 2, u = .die d → s.power k = .clearing →
      (∃ t, exec (.unitRelease u .pass) s = .next t ∧
        t = { s with
          mem := { s.mem with l2 := tblSet L2.empty s.mem.l2 d.val L2.empty }, reg := t.reg
          unit := { s.unit with power := tblSet .off s.unit.power k .on } } ∧
        t.reg = ((((s.setRaw 0 (dieBase d + 4) 0).setRaw 0 (dieBase d + 0x10) 0).setRaw 0 (dieBase d + 0x14) 0).setRaw 0 (dieBase d + 0x18) 0 |>.setRaw 0 (dieBase d + 0x1C) 0).reg) ∧
      (∀ r, r ≠ .pass → exec (.unitRelease u r) s = .next (dieClearFailed d.val (s.setPower k .failed)))) ∧
    (∀ c r, unitCluster u = some c → s.power k = .clearing → r ≠ .pass → exec (.unitRelease u r) s = .next (clearFailed c r (s.setPower k .failed)))) ∧
  (
  ∀ (c : Fin 8) (b : Fin 128) (s : State),
    let pins (u : State) : State := (clusterMasters c.val).foldl (fun u m => pinMaster m 5 0 0 0 u) u
    let shows (v : Nat) : State := { s with unit := { s.unit with clearFail := tblSet 0 s.unit.clearFail c.val v } }
    clearFailed c.val (.failBank b) s = logError 0x20 (0x88 + c.val / 4) 0 (c.val + b.val * 256) 0 false (pins (shows (1 + b.val))) ∧
    clearFailed c.val .failOther s = logError 0x20 (0x88 + c.val / 4) 0 (c.val + 2 ^ 15) 0 false (pins (shows 256)) ∧
    ∀ d : Fin 2, dieClearFailed d.val s =
      logError 0x20 (0x88 + d.val) 0 ((Config.freeValue s.free).toNat % 256 + 2 ^ 15) 0 false { s with free := s.free + 1 })

/-- L2_OP_CTL of the physical function: GO with an operation, under an unlock and with none in progress, starts it on
the range that L2_OP_PA and L2_OP_LEN name, and SKIPPED counts from 0; a length of 0 is over at once. Its end first
places the write-back writes that wait for a line of the range, then writes the dirty lines back, and drops the lines
for CLEAN_INV; LOCK_LOAD places each line in a free locked way, or counts it as skipped. A missed line that arrives
goes into the way that its miss chose, with the bytes written meanwhile over it, dirty if one of them was a write-back
write; a host line whose read failed is kept only where such a write waits, with the other bytes open. A framebuffer
line brings the other line of its block. Combining buffers of a slice without a write for a microsecond reach memory
and are free; younger ones stay. -/
def Obligations.L2OperationsAndLines : Prop :=
  (∀ (fn : Fn) (d : Fin 2) (v : Word) (s : State), quiet s fn.val → fn.val ≠ 0 →
    exec (.l2Clean fn d v) s = .next s ∧ exec (.l2CleanInv fn d v) s = .next s ∧ exec (.l2LockLoad fn d v) s = .next s) ∧
  (∀ (d : Fin 2) (op : Nat) (v : Word) (s : State) (cmd : Instr), quiet s 0 → s.power (72 + d.val) = .on →
    (op = 1 ∧ cmd = .l2Clean 0 d v) ∨ (op = 2 ∧ cmd = .l2CleanInv 0 d v) ∨ (op = 3 ∧ cmd = .l2LockLoad 0 d v) →
    let off := dieBase d + 0x1C
    let old := s.raw 0 off
    let x := s.l2 d.val
    bit old.toNat 30 = false →
    (unlocked s (.l2 d) 0 = false → exec cmd s = .next (setDenied (.l2 d) 0 1 s)) ∧
    (unlocked s (.l2 d) 0 = true →
      let u := (setUnlock (.l2 d) 0 0 s).setRaw 0 off ((old &&& 0xBFFFF800) ||| (v &&& 0x7FC) ||| w32 op)
      let line := ((u.raw 0 (dieBase d + 0x10)).toNat + 2 ^ 32 * (u.raw 0 (dieBase d + 0x14)).toNat) / 128
      let len := (u.raw 0 (dieBase d + 0x18)).toNat % 2 ^ 28
      (x.op ≠ none → exec cmd s = .next u) ∧
      (x.op = none → len = 0 → exec cmd s = .next (u.setL2 d.val { x with skipped := 0 })) ∧
      (x.op = none → len ≠ 0 → exec cmd s = .next (u.setL2 d.val { x with skipped := 0, op := some { op, line, len, key := v.toNat / 4 % 512 } })))) ∧
  (∀ (d : Fin 2) (io : HostIO) (s0 : State),
    let s := applyIO io s0
    ((s.l2 d.val).op = none → exec (.l2OpDone d io) s0 = .next s) ∧
    (∀ o, (s.l2 d.val).op = some o →
      let ends (u : State) : Prop := exec (.l2OpDone d io) s0 = .next (metaLog (u.setL2 d.val { u.l2 d.val with op := none }))
      let hit (l : L2Line) : Bool := decide (o.line ≤ l.line) && decide (l.line < o.line + o.len)
      let f := l2FillIf d.val (fun m => m.dirty && decide (o.line ≤ m.line) && decide (m.line < o.line + o.len)) s
      let u := ((f.l2 d.val).lines.filter fun l => hit l && l.dirty).foldl (fun u l => writeBack l u) f
      (o.op = 1 → ends (u.setL2 d.val { u.l2 d.val with lines := (u.l2 d.val).lines.map fun l => if hit l then { l with dirty := false } else l })) ∧
      (o.op = 2 → ends (u.setL2 d.val { u.l2 d.val with lines := (u.l2 d.val).lines.filter fun l => !hit l })) ∧
      (o.op = 3 → ends ((upTo o.len).foldl (fun u i => lockLoad d.val o.key (o.line + i) u) s)))) ∧
  (∀ (d : Fin 2) (key line : Nat) (s : State),
    let x := s.l2 d.val
    let may := (∃ ch a, target s (line * 128) = .pkg ch a) ∧ lineDie s line = d.val ∧ (s.ctx key).state = .active
    (¬ may → lockLoad d.val key line s = s.setL2 d.val { x with skipped := x.skipped + 1 }) ∧
    (may → (∀ m ∈ x.misses, m.line ≠ line) →
      (∀ l, x.lines.find? (fun l => decide (l.line = line) && decide (l.key = key)) = some l → lockedWay s d.val l.way = true → lockLoad d.val key line s = s) ∧
      (memInv s → (∀ l ∈ x.lines, l.line ≠ line) → (∀ w ∈ x.wc, w.line ≠ line) →
        (∀ way, (upTo 16).find? (fun w => lockedWay s d.val w && !wayHeld x line w) = some way →
          lockLoad d.val key line s = s.setL2 d.val { x with lines := x.lines ++ [{ line, way, key, fbc := false, dirty := false, data := (lineBelow key line false s).1 }] }) ∧
        ((upTo 16).find? (fun w => lockedWay s d.val w && !wayHeld x line w) = none →
          lockLoad d.val key line s = s.setL2 d.val { x with skipped := x.skipped + 1 })))) ∧
  (∀ (d : Fin 2) (miss : Nat) (io : HostIO) (s0 : State),
    let s := applyIO io s0
    let x := s.l2 d.val
    let ends (u : State) : Prop := exec (.l2LineFill d miss io) s0 = .next u
    (x.misses.find? (fun m => m.id = miss) = none → ends s) ∧
    (∀ m, x.misses.find? (fun m => m.id = miss) = some m →
      let fails := 2 ^ 48 ≤ m.line * 128 ∧ hostFails s (m.line * 128 % 2 ^ 48) 128 = true
      let gone := s.setL2 d.val { x with misses := x.misses.filter fun y => y.id ≠ miss }
      let partner := if m.line % 2 = 0 then m.line + 1 else m.line - 1
      (fails → m.dirty = false → ends gone) ∧
      (fails → m.dirty = true →
        let y := (freeBytes 128 gone).2
        ends (y.setL2 d.val { y.l2 d.val with lines := (y.l2 d.val).lines ++
          [{ line := m.line, way := m.way, key := m.key, fbc := m.fbc, dirty := true, data := overlay (freeBytes 128 gone).1 m.merged }] })) ∧
      (¬ fails → m.fbc = false ∨ 2 ^ 48 ≤ m.line * 128 → ends (l2Fill d.val m s)) ∧
      (¬ fails → m.fbc = true → m.line * 128 < 2 ^ 48 →
        let u := metaLog (l2Fill d.val m s)
        ((∃ l ∈ (u.l2 d.val).lines, l.line = partner) ∨ (∃ y ∈ (u.l2 d.val).misses, y.line = partner) → ends u) ∧
        ((∀ l ∈ (u.l2 d.val).lines, l.line ≠ partner) → (∀ y ∈ (u.l2 d.val).misses, y.line ≠ partner) →
          ends (l2Insert d.val partner m.key true false (lineBelow m.key partner true u).1 u))))) ∧
  (∀ (d : Fin 2) (m : L2Miss) (s : State),
    let gone := s.setL2 d.val { s.l2 d.val with misses := (s.l2 d.val).misses.filter fun y => y.id ≠ m.id }
    let u := metaMet d.val m.key m.line (lineBelow m.key m.line m.fbc gone).2 gone
    l2Fill d.val m s = u.setL2 d.val { u.l2 d.val with lines := (u.l2 d.val).lines ++
      [{ line := m.line, way := m.way, key := m.key, fbc := m.fbc, dirty := m.dirty, data := overlay (lineBelow m.key m.line m.fbc gone).1 m.merged }] }) ∧
  (∀ (d : Fin 2) (slice : Fin 16) (t : Nat) (s0 : State),
    let s := advanceTo t s0
    let due (w : WcBuf) : Bool := decide (w.slice = slice.val) && decide (w.last + 1000 ≤ s.time)
    let flush (u : State) (w : WcBuf) : State :=
      let v := w.bytes.foldl (fun v e => lineOut w.key w.line e.1 [e.2] v) u
      v.setL2 d.val { v.l2 d.val with wc := (v.l2 d.val).wc.filter fun b => !(decide (b.line = w.line) && decide (b.slice = w.slice)) }
    exec (.wcBufferTimeout d slice t) s0 = .next (((s.l2 d.val).wc.filter due).foldl flush s))

/-- RSH_CTL, of the physical function. ARM needs an unlock; it answers STATE while a plan is armed or running, the
engine is pinned, or the context is not ACTIVE, RANGE for a fence that the context does not own ACTIVE, and BAD_RECORD
for a base in host memory, an unreadable header and a bad one; else the plan is ARMED, or RUNNING and its first entries
begin when it has no trigger; a trigger below its value takes a slot of the table of pending waits, or waits for one,
and a header that cannot be read yet keeps the ARM waiting. ABORT ends an armed plan, and of a running one every entry
not past step 2, with NOT_RUN; an idle or ended engine ignores it. An armed plan starts once its trigger has reached
its value, and ends ABORTED with DONE_FENCE in error when that fence is in error before. Up to 16 entries are in
progress. An entry begins: BAD_RECORD (7) for a record that cannot be read or is malformed, 4 for a 1 GiB page, 9 for
one that is not in package memory, 6 where its table lies in host memory, 2 where it is in place already, 5 for a bad
destination, 3 for a fault; else its leaf loses W and no TLB keeps the page. It ends with 1 once the loads through the
old page are done, its bytes and its leaf have moved, no TLB maps the old frame and no L2 holds its lines. The count of
ended and of failed entries follows; the last entry completes the plan and signals DONE_FENCE. -/
def Obligations.PlansArmRunAndEnd : Prop :=
  (
  ∀ (d : Fin 2) (v : Word) (s : State), quiet s 0 → regInv s → s.power (72 + d.val) = .on →
    let off := dieBase d + 0x10008
    let old := s.raw 0 off
    bit old.toNat 9 = false →
    let ctx := v.toNat % 512
    let base := (s.raw 0 (dieBase d + 0x10000)).toNat + 2 ^ 32 * (s.raw 0 (dieBase d + 0x10004)).toNat
    let x := s.plan d.val
    let new := (old &&& 0xFFFFF800) ||| (v &&& 0x1FF)
    let t := (setUnlock (.rsh d) 0 0 s).setRaw 0 off new
    let u := t.setPlan d.val { t.plan d.val with armWait := false }
    let answer (r : Nat) (t : State) : State := t.setPlan d.val { t.plan d.val with result := r }
    let busy := (u.plan d.val).state = .armed ∨ (u.plan d.val).state = .running ∨ s.isPinned (0x70 + d.val) = true ∨ (s.ctx ctx).state ≠ .active
    (unlocked s (.rsh d) 0 = false → exec (.rshArm 0 d v) s = .next (setDenied (.rsh d) 0 1 s)) ∧
    (unlocked s (.rsh d) 0 = true →
      (busy → exec (.rshArm 0 d v) s = .next (answer 3 u)) ∧
      (¬ busy → (2 ^ 48 ≤ base ∨ devRead base 64 u = .failed) → exec (.rshArm 0 d v) s = .next (answer 1 u)) ∧
      (¬ busy → base < 2 ^ 48 → devRead base 64 u = .wait → exec (.rshArm 0 d v) s = .next (u.setPlan d.val { u.plan d.val with armWait := true })) ∧
      (¬ busy → base < 2 ^ 48 → ∀ h w, devRead base 64 u = .done (h, w) →
        let f := w.fence (fld h 16 2)
        let g := w.fence (fld h 18 2)
        let mine := f.st = .active ∧ f.owner = ctx ∧ g.st = .active ∧ g.owner = ctx
        let bad := zeros h 27 37 = false ∨ 2 ≤ fld h 26 1 ∨ fld h 20 4 = 0 ∨ 1048576 < fld h 20 4
        let reached := q64 (fld h 0 8) ≤ f.value
        let plan : Reshard := {
          state := .armed, result := 0, ctx, base, entries := fld h 20 4, trigEn := decide (fld h 26 1 = 1), trig := (fld h 16 2, f.alloc), trigValue := q64 (fld h 0 8)
          doneFence := (fld h 18 2, g.alloc), doneValue := q64 (fld h 8 8), next := 0, begun := [], ended := [], failed := 0, aborting := false
          satisfied := false, slotWait := false, armWait := false }
        (¬ mine → exec (.rshArm 0 d v) s = .next (answer 2 w)) ∧
        (mine → bad → exec (.rshArm 0 d v) s = .next (answer 1 w)) ∧
        (mine → ¬ bad → fld h 26 1 = 0 → exec (.rshArm 0 d v) s = .next (planFill d.val (w.setPlan d.val { plan with state := .running }))) ∧
        (mine → ¬ bad → fld h 26 1 = 1 → exec (.rshArm 0 d v) s = .next (w.setPlan d.val { plan with
          satisfied := decide reached, slotWait := decide (¬ reached ∧ 16384 ≤ pendingWaits w) })))) ∧
    (let a := s.setRaw 0 off new
     let begun := x.begun.filter fun e => e.step ≠ .waits
     let rest := ((upTo x.entries).filter fun i => !x.ended.contains i).filter fun i => !begun.any fun e => e.idx = i
     let b := planNotRun x rest a
     let c := b.setPlan d.val { b.plan d.val with ended := x.ended ++ rest, begun, aborting := true }
     (x.state = .armed → exec (.rshAbort 0 d v) s = .next (planTriggerError d.val .aborted a)) ∧
     (x.state = .running → x.aborting = false → exec (.rshAbort 0 d v) s = .next (if begun = [] then planStop d.val .aborted .aborted c else c)) ∧
     (x.state ≠ .armed → (x.state ≠ .running ∨ x.aborting = true) → exec (.rshAbort 0 d v) s = .next a)) ∧
    (∀ fn : Fn, fn.val ≠ 0 → exec (.rshArm fn d v) s = .next s ∧ exec (.rshAbort fn d v) s = .next s)) ∧
  (
  ∀ (d : Fin 2) (s0 : State),
    let s := planSlot d.val s0
    let x := s.plan d.val
    let f := s.fence x.trig.1
    let gone := ctxRuns s x.ctx = false ∨ (s.ctx x.ctx).drainDone = true
    let reached := x.trigEn = false ∨ x.satisfied = true ∨ (f.st ≠ .free ∧ f.alloc = x.trig.2 ∧ x.trigValue ≤ f.value)
    (x.state ≠ .armed → exec (.rshPlanStart d) s0 = .next s) ∧
    (x.state = .armed → gone → exec (.rshPlanStart d) s0 = .next (planTorn d.val s)) ∧
    (x.state = .armed → ¬ gone →
      (x.slotWait = true → exec (.rshPlanStart d) s0 = .next s) ∧
      (x.slotWait = false → reached → exec (.rshPlanStart d) s0 = .next (planFill d.val (s.setPlan d.val { x with state := .running }))) ∧
      (x.slotWait = false → ¬ reached → f.st = .free ∨ f.alloc ≠ x.trig.2 → exec (.rshPlanStart d) s0 = .next (planTriggerError d.val .aborted s)) ∧
      (x.slotWait = false → ¬ reached → f.st = .active → f.alloc = x.trig.2 → exec (.rshPlanStart d) s0 = .next s) ∧
      (∀ why, x.slotWait = false → ¬ reached → f.st ≠ .free → f.st ≠ .active → f.alloc = x.trig.2 → f.reason = some why →
        exec (.rshPlanStart d) s0 = .next (planTriggerError d.val why s))) ∧
    (∀ (why : Reason) (st : PlanState) (u : State),
      let y := u.plan d.val
      planStop d.val st why u = (let z := u.setPlan d.val { y with state := st, aborting := false, begun := [] }
        { z with fen := { z.fen with queue := z.fen.queue ++ [{ fence := y.doneFence.1, alloc := y.doneFence.2, what := .inr why, page := false }] } }) ∧
      planTriggerError d.val why u = (let z := planNotRun y (upTo y.entries) u
        planStop d.val .aborted why (z.setPlan d.val { z.plan d.val with ended := upTo y.entries })))) ∧
  (
  ∀ (d : Fin 2) (i : Nat) (io : HostIO) (s0 : State),
    let s := applyIO io s0
    let x := s.plan d.val
    let gone := ctxRuns s x.ctx = false ∨ (s.ctx x.ctx).drainDone = true
    let ends (t : State) : Prop := exec (.rshEntryDone d i io) s0 = .next t
    let more (t : State) : State := metaLog (planFill d.val t)
    let stands (t : State) : Option PlanEntry := (t.plan d.val).begun.find? fun e => e.idx = i
    (x.state ≠ .running ∨ s.isPinned (0x70 + d.val) = true → ends s) ∧
    (x.state = .running → s.isPinned (0x70 + d.val) = false → gone → ends (planTorn d.val s)) ∧
    (x.state = .running → s.isPinned (0x70 + d.val) = false → ¬ gone →
      (stands s = none → ends s) ∧
      (∀ e0, stands s = some e0 →
        let b := if e0.step = .waits then planBegin d.val i s else s
        (stands b = none → ends (more b)) ∧
        (∀ e, stands b = some e →
          (e.step = .waits → ends (more b)) ∧
          (∀ st k, e.step = .over st k → ends (more (planEnded d.val i st k 0 b))) ∧
          (∀ l slot old, e.step = .moving l slot old → ends (more (planMove d.val i x.ctx l slot old e.dst e.place b))))))) ∧
  (
  ∀ (d : Fin 2) (i : Nat) (s : State),
    let x := s.plan d.val
    let ends (st k : Nat) (t : State) : State := onBegun d.val i (fun e => { e with step := .over st k }) t
    let begins (t : State) : Prop := planBegin d.val i s = t
    (devRead (x.base + 64 + 32 * i) 32 s = .wait → begins s) ∧
    (devRead (x.base + 64 + 32 * i) 32 s = .failed → begins (ends 7 0 s)) ∧
    ∀ e u, devRead (x.base + 64 + 32 * i) 32 s = .done (e, u) →
      let va := fld e 0 8
      let dst := fld e 8 8
      let place := fld e 16 1
      let bad := 3 ≤ place ∨ zeros e 19 5 = false
      let leaf := xlate (0x70 + d.val) x.ctx va .read u
      let fault (f : Flt) (t : State) : State := ends 3 f.code.num (engineFault f (0x70 + d.val) x.ctx va .read t)
      (bad → begins (ends 7 0 u)) ∧
      (¬ bad → pageTaken u d.val x.ctx va = true → begins u) ∧
      (¬ bad → pageTaken u d.val x.ctx va = false →
        (∀ f v, leaf = .fault f v → begins (fault f v)) ∧
        (∀ v, leaf = .severed v → begins (ends 3 0 v)) ∧
        (∀ v, leaf = .wait v → begins v) ∧
        ∀ l v, leaf = .ok l v →
          let onPkg := ∃ ch a, target v l.base = .pkg ch a
          let table := leafSlot x.ctx va 4 ((v.ctx x.ctx).ptRoot.getD 0) v
          (l.level = 2 → begins (ends 4 0 v)) ∧
          (l.level ≠ 2 → ¬ onPkg → begins (ends 9 0 v)) ∧
          (l.level ≠ 2 → onPkg →
            (∀ f w, table = .fault f w → begins (fault f w)) ∧
            (∀ w, table = .severed w → begins (ends 3 0 w)) ∧
            (∀ w, table = .wait w → begins w) ∧
            ∀ slot old w, table = .ok (slot, old) w →
              let placed := dst = l.base ∧ place = l.place
              let y := onBegun d.val i (fun e => { e with dst, place, step := .moving l slot old }) w
              (2 ^ 48 ≤ slot → begins (ends 6 0 w)) ∧
              (slot < 2 ^ 48 → placed → begins (ends 2 0 w)) ∧
              (slot < 2 ^ 48 → ¬ placed → dstOk w dst l.size place = false → begins (ends 5 0 w)) ∧
              (slot < 2 ^ 48 → ¬ placed → dstOk w dst l.size place = true → begins (if l.w then putLeaf x.ctx l slot ((tableEntries old).map lockLeaf) y else y))))) ∧
  (
  ∀ (d : Fin 2) (i ctx slot dst place : Nat) (l : Leaf) (old : List Byte) (s : State),
    let a := l.attr (0x70 + d.val)
    let moves (t : State) : Prop := planMove d.val i ctx l slot old dst place s = t
    let failed (k : Nat) (t : State) : State := if (t.plan d.val).state ≠ .running then t
      else planEnded d.val i 3 k 0 (if l.w then putLeaf ctx l slot (tableEntries old) t else t)
    let loads := loadsOn s ctx fun v => decide (l.va ≤ v) && decide (v < l.va + l.size)
    (loads ≠ [] → moves s) ∧
    (loads = [] →
      (paRead ctx a l.base l.size s = .wait → moves s) ∧
      (paRead ctx a l.base l.size s = .severed → moves (failed 0 s)) ∧
      (∀ c t, paRead ctx a l.base l.size s = .fault c t → moves (failed c.num (engineFault (accFault t c l.base) (0x70 + d.val) ctx l.va .read t))) ∧
      (∀ bs u, paRead ctx a l.base l.size s = .ok bs u →
        (paWrite ctx a dst bs u = .wait → moves s) ∧
        (paWrite ctx a dst bs u = .severed → moves (failed 0 u)) ∧
        (∀ c t, paWrite ctx a dst bs u = .fault c t → moves (failed c.num (engineFault (accFault t c dst) (0x70 + d.val) ctx l.va .write t))) ∧
        (∀ t, paWrite ctx a dst bs u = .ok () t →
          let es := tableEntries old
          moves (planEnded d.val i 1 0 l.base (dropFrame l.base l.size
            (putLeaf ctx l slot ((upTo es.length).map fun j => moveLeaf (es.getD j 0) (dst / 4096 + j) place) t)))))) ∧
    (∀ (es : List Nat) (t : State),
      let p := putLeaf ctx l slot es t
      (∀ e ∈ p.mmu.utlb, ∀ y ∈ e.2, ¬ (y.ctx = ctx ∧ y.leaf.va < l.va + l.size ∧ l.va < y.leaf.va + y.leaf.size)) ∧
      (∀ e ∈ p.mmu.dtlb, ∀ y ∈ e.2, ¬ (y.ctx = ctx ∧ y.leaf.va < l.va + l.size ∧ l.va < y.leaf.va + y.leaf.size)))) ∧
  (
  ∀ (d : Fin 2) (i st k pa : Nat) (s : State),
    let w := planStatus (s.plan d.val) i st k pa s
    let x := w.plan d.val
    let y : Reshard := { x with
      ended := x.ended ++ [i], begun := x.begun.filter (fun e => e.idx ≠ i), failed := x.failed + if (3 ≤ st ∧ st ≤ 7) ∨ st = 9 then 1 else 0 }
    let ended (t : State) : Prop := planEnded d.val i st k pa s = t
    (y.ended.length < y.entries → ended (w.setPlan d.val y)) ∧
    (y.entries ≤ y.ended.length → x.aborting = true → ended (planStop d.val .aborted .aborted (w.setPlan d.val y))) ∧
    (y.entries ≤ y.ended.length → x.aborting = false →
      let v := wcFlushAll ((w.setPlan d.val y).setPlan d.val { y with state := .done })
      ended { v with fen := { v.fen with queue := v.fen.queue ++ [{ fence := y.doneFence.1, alloc := y.doneFence.2, what := .inl y.doneValue, page := false }] } })) ∧
  (
  ∀ (d : Fin 2) (s : State),
    let may (t : State) : Prop := (t.plan d.val).state = .running ∧ (t.plan d.val).aborting = false ∧ (t.plan d.val).begun.length < 16 ∧ (t.plan d.val).next < (t.plan d.val).entries
    let x := s.plan d.val
    let b := planBegin d.val x.next (s.setPlan d.val { x with next := x.next + 1, begun := x.begun ++ [{ idx := x.next, dst := 0, place := 0, step := .waits }] })
    (¬ may s → planFill d.val s = s) ∧ (may s → ¬ may b → planFill d.val s = b))

/-- The arithmetic of a thread group. An instruction that issues writes its register in every active lane, in no
other, and the group goes on to the next; nothing else changes but the free values of the bits above a code narrower
than a register. Integers wrap; a shift takes its count modulo 32; a division by 0 gives all ones and its remainder
the dividend. A format that is no integer format, or none of R134, is no instruction. The divergence stack. A branch
that every active lane takes goes to its target, one that none takes goes on, and one that divides the group pushes
the lanes that go on, with the reconvergence entry before them where the stack's top is not one of that point; a push
onto a full stack first spills its oldest sixteen entries, and parks the group with cause 0x44 where the spill area is
full. JOIN takes the top entry's lanes that have not exited, and joins again while there are none; YIELD changes places
with a PATH entry on top; EXIT_LANES removes lanes for good. A pop that leaves the core empty starts a fill while
entries are spilled, which brings sixteen back. A group whose every lane has exited leaves its slot; the last of a
workgroup frees it, and the last workgroup of a dispatch completes the op. An instruction of a group that cannot issue
does nothing; one whose fetch faults parks the group, or pins the core. -/
def Obligations.GroupArithmeticAndControl : Prop :=
  (
  ∀ (r : GroupRef) (g : Group) (s u : State) (dst : Fin 256), issuing r g s u →
    let put (v : State) (f : Nat → Word) : State := { v with shd := { v.shd with
      groups := mapIf (fun h => decide (h.core = g.core) && decide (h.slot = g.slot)) (fun _ =>
        { g with
          pc := g.pc + 1
          regs := ((lanesOf g.am).map fun i => (i, dst.val, f i)).foldl (fun t w => tblSet 0 t (w.2.1 * 32 + w.1) (1 + w.2.2.toNat)) g.regs }) v.shd.groups } }
    let ftz := (u.ctx g.ctx).ftz
    (∀ x y : Src,
      let a (i : Nat) := laneSrc u g x i
      let b (i : Nat) := laneSrc u g y i
      exec (.integerArith r .add dst x y) s = .next (put u fun i => a i + b i) ∧
      exec (.integerArith r .sub dst x y) s = .next (put u fun i => a i - b i) ∧
      exec (.integerArith r .and dst x y) s = .next (put u fun i => a i &&& b i) ∧
      exec (.integerArith r .or dst x y) s = .next (put u fun i => a i ||| b i) ∧
      exec (.integerArith r .xor dst x y) s = .next (put u fun i => a i ^^^ b i) ∧
      exec (.integerArith r .mulLo dst x y) s = .next (put u fun i => a i * b i) ∧
      exec (.integerArith r .mulHiU dst x y) s = .next (put u fun i => ((a i).setWidth 64 * (b i).setWidth 64).extractLsb' 32 32) ∧
      exec (.integerArith r .mulHiS dst x y) s = .next (put u fun i => ((a i).signExtend 64 * (b i).signExtend 64).extractLsb' 32 32) ∧
      exec (.integerArith r .shl dst x y) s = .next (put u fun i => a i <<< ((b i).toNat % 32)) ∧
      exec (.integerArith r .shrU dst x y) s = .next (put u fun i => a i >>> ((b i).toNat % 32)) ∧
      exec (.integerArith r .shrS dst x y) s = .next (put u fun i => (a i).sshiftRight ((b i).toNat % 32)) ∧
      exec (.integerArith r .divU dst x y) s = .next (put u fun i => if b i = 0 then 0xFFFFFFFF else a i / b i) ∧
      exec (.integerArith r .remU dst x y) s = .next (put u fun i => if b i = 0 then a i else a i % b i) ∧
      exec (.integerArith r .divS dst x y) s = .next (put u fun i => if b i = 0 then 0xFFFFFFFF else (a i).sdiv (b i)) ∧
      exec (.integerArith r .remS dst x y) s = .next (put u fun i => if b i = 0 then a i else (a i).srem (b i))) ∧
    (∀ x y z : Src,
      let a (i : Nat) := fp32Val ftz (laneSrc u g x i).toNat
      let b (i : Nat) := fp32Val ftz (laneSrc u g y i).toNat
      let c (i : Nat) := fp32Val ftz (laneSrc u g z i).toNat
      exec (.fp32Arith r .add dst x y z) s = .next (put u fun i => w32 (fp32Code (fpAdd false ftz (a i) (b i)).val)) ∧
      exec (.fp32Arith r .mul dst x y z) s = .next (put u fun i => w32 (fp32Code (fpMul false ftz (a i) (b i)).val)) ∧
      exec (.fp32Arith r .fma dst x y z) s = .next (put u fun i => w32 (fp32Code (fpFma false ftz (a i) (b i) (c i)).val)) ∧
      exec (.fp32Arith r .div dst x y z) s = .next (put u fun i => w32 (fp32Code (fpDiv false ftz (a i) (b i)).val)) ∧
      exec (.fp32Arith r .sqrt dst x y z) s = .next (put u fun i => w32 (fp32Code (fpSqrt ftz (a i)).val)) ∧
      exec (.fp32Arith r .max dst x y z) s = .next (put u fun i => w32 (fp32Code (fpMax (a i) (b i)).val)) ∧
      exec (.fp32Arith r .min dst x y z) s = .next (put u fun i => w32 (fp32Code (fpMin (a i) (b i)).val))) ∧
    (∀ (op : TransOp) (x : Src), exec (.transcendental r op dst x) s = .next (put u fun i =>
      w32 (fp32Code (elementFn (transCode op) false ftz (fp32Val ftz (laneSrc u g x i).toNat)).val))) ∧
    (∀ (trunc : Bool) (fmt : Fin 16) (x : Src),
      (intFmt fmt.val = none → exec (.floatToInteger r trunc fmt dst x) s = .next u) ∧
      (∀ lo hi, intFmt fmt.val = some (lo, hi) →
        let code (i : Nat) := (encodeInt lo hi (fmtWidth fmt.val) (if trunc then (fp32Val ftz (laneSrc u g x i).toNat).trunc else fp32Val ftz (laneSrc u g x i).toNat)).val
        (fmtWidth fmt.val = 32 → exec (.floatToInteger r trunc fmt dst x) s = .next (put u fun i => w32 (code i))) ∧
        (fmtWidth fmt.val < 32 → ∃ f, exec (.floatToInteger r trunc fmt dst x) s = .next (put { u with free := u.free + 32 } f) ∧
          ∀ i, (f i).toNat % 2 ^ fmtWidth fmt.val = code i % 2 ^ fmtWidth fmt.val))) ∧
    (∀ (fmt : Fin 16) (sat : Bool) (x seed pos : Src),
      (fmt.val < 4 ∨ 8 < fmt.val → exec (.srConversion r fmt sat dst x seed pos) s = .next u) ∧
      (4 ≤ fmt.val → fmt.val ≤ 8 → ∃ f, exec (.srConversion r fmt sat dst x seed pos) s = .next (put { u with free := u.free + 32 } f) ∧
        ∀ i, (f i).toNat % 2 ^ fmtWidth fmt.val =
          (encodeElem fmt.val (some (srDraw (laneSrc u g seed i) (laneSrc u g pos i))) sat ftz (fp32Val ftz (laneSrc u g x i).toNat)).val % 2 ^ fmtWidth fmt.val))) ∧
  (
  ∀ (r : GroupRef) (g : Group) (s u : State), issuing r g s u →
    (∀ (cond : Src) (target rpc : Nat),
      let c := maskOf ((upTo 32).filter fun i => laneSrc u g cond i ≠ 0)
      let taken := g.am &&& c
      let rest := g.am &&& ~~~c
      let path : StackEnt := { path := true, mask := rest, pc := g.pc + 1 }
      let here := ∃ e st, g.stack = e :: st ∧ e.path = false ∧ e.pc = rpc
      let goes (h : Group) : Group := { h with am := taken, pc := target }
      (rest = 0 → exec (.shdBranch r cond target rpc) s = .next (setGroup { g with pc := target } u)) ∧
      (rest ≠ 0 → taken = 0 → exec (.shdBranch r cond target rpc) s = .next (setGroup { g with pc := g.pc + 1 } u)) ∧
      (rest ≠ 0 → taken ≠ 0 → here → exec (.shdBranch r cond target rpc) s = .next (withPush g [path] goes u)) ∧
      (rest ≠ 0 → taken ≠ 0 → ¬ here → exec (.shdBranch r cond target rpc) s = .next (withPush g [{ path := false, mask := g.am, pc := rpc }, path] goes u))) ∧
    (g.stack = [] → exec (.shdJoin r) s = .next u) ∧
    (g.stack ≠ [] → exec (.shdJoin r) s = .next (settleGroup (Group.joins g.stack.length g) u)) ∧
    (∀ e st, g.stack = e :: st → e.path = true → exec (.shdYield r) s = .next (setGroup { g with
      stack := { path := true, mask := g.am, pc := g.pc + 1 } :: st, am := e.mask &&& ~~~g.em, pc := e.pc
      filling := decide (st = []) && decide (g.spilled ≠ []) } u)) ∧
    ((∀ e st, g.stack = e :: st → e.path = false) → exec (.shdYield r) s = .next (setGroup { g with pc := g.pc + 1 } u)) ∧
    (∀ mask, let left : Group := { g with em := g.em ||| mask, am := g.am &&& ~~~mask }
      (left.am ≠ 0 → exec (.exitLanes r mask) s = .next (settleGroup { left with pc := g.pc + 1 } u)) ∧
      (left.am = 0 → exec (.exitLanes r mask) s = .next (settleGroup (if g.stack = [] then left else Group.joins g.stack.length left) u)))) ∧
  (
  ∀ (g : Group) (k : Group → Group) (e : StackEnt) (l : List StackEnt) (s : State),
    let room := spillBytes s g / 128
    let n := g.spilled.length
    let old := g.stack.drop 16
    let img := slice (Config.stackImage (old.map entPack)) 0 128
    let va := spillVa (opBody s g.op) g n
    let wrote := vaWrite g.core g.ctx va img s
    withPush g [] k s = setGroup (k g) s ∧
    (g.stack.length + (l.length + 1) ≤ 32 → withPush g (e :: l) k s = setGroup (k { g with stack := (e :: l).reverse ++ g.stack }) s) ∧
    (32 ≤ g.stack.length →
      (room ≤ n → withPush g (e :: l) k s = parkGroup g false 0x44 0 0 g.am.toNat (32 + 16 * room) s) ∧
      (n < room →
        (∀ u, wrote = .ok () u → l.length ≤ 15 → withPush g (e :: l) k s = setGroup (k { g with
          stack := l.reverse ++ e :: g.stack.take 16, spilled := (old, img) :: g.spilled }) u) ∧
        (∀ f u, wrote = .fault f u → withPush g (e :: l) k s = groupFault g f va .write g.am u) ∧
        (∀ u, wrote = .severed u → withPush g (e :: l) k s = killGroup g 0x0D 0 u) ∧
        (∀ u, wrote = .wait u → withPush g (e :: l) k s = s)))) ∧
  (
  ∀ (g : Group) (n : Nat) (e : StackEnt) (st : List StackEnt), g.stack = e :: st →
    let h : Group := { g with stack := st, am := e.mask &&& ~~~g.em, pc := if e.path then e.pc else g.pc + 1 }
    (h.am = 0 → st ≠ [] → Group.joins (n + 1) g = Group.joins n h) ∧
    (h.am ≠ 0 ∨ st = [] → Group.joins (n + 1) g = if st = [] ∧ g.spilled ≠ [] then { h with filling := true } else h)) ∧
  (
  ∀ (g : Group) (s : State),
    let z := setGroup g s
    let done := g.am = 0 ∧ g.stack = [] ∧ g.spilled = []
    let gone : State := { z with shd := { z.shd with groups := z.shd.groups.filter fun h => !(decide (h.core = g.core) && decide (h.slot = g.slot)) } }
    let last : State := { gone with shd := { gone.shd with wgs := gone.shd.wgs.filter fun w => !(decide (w.op = g.op) && decide (w.wg = g.wg)) } }
    (¬ done → settleGroup g s = if g.role = .compute then barrierCheck g.op g.wg z else z) ∧
    (done → g.role ≠ .compute → settleGroup g s = syncUnits g.op gone) ∧
    (done → g.role = .compute →
      let left := if wgGroups gone g.op g.wg = [] then last else barrierCheck g.op g.wg gone
      let u := syncUnits g.op left
      settleGroup g s = runDone g.op u ∧
      (∀ run, u.shdRun? g.op = some run →
        runDone g.op u = if run.total ≤ run.next ∧ ∀ w ∈ u.shd.wgs, w.op ≠ g.op then shdSweep (endOp g.op 0 0 0 u) else u) ∧
      (u.shdRun? g.op = none → runDone g.op u = u))) ∧
  (
  ∀ (r : GroupRef) (io : HostIO) (s : State),
    let z := shdSweep (applyIO io s)
    let ends (t : State) : Prop := exec (.stackFillDone r io) s = .next t
    (z.group? r.core.val r.slot.val = none → ends z) ∧
    (∀ g, z.group? r.core.val r.slot.val = some g →
      (g.spilled = [] ∨ g.filling = false ∨ g.park.isSome = true ∨ z.isPinned r.core.val = true ∨ ctxRuns z g.ctx = false → ends z) ∧
      (∀ es img below, g.spilled = (es, img) :: below → g.filling = true → g.park.isSome = false → z.isPinned r.core.val = false → ctxRuns z g.ctx = true →
        let va := spillVa (opBody z g.op) g below.length
        let read := vaRead g.core g.ctx va 128 .read z
        (∀ bs u, read = .ok bs u →
          let back := if bs = img then es else (upTo 16).map fun i => match (Config.stackParse bs)[i]? with
            | some e => { path := e.1, mask := e.2.1, pc := e.2.2 }
            | none => { path := false, mask := 0, pc := 0 }
          let h : Group := { g with stack := g.stack ++ back, spilled := below, filling := false }
          ends (settleGroup (if g.am = 0 then Group.joins h.stack.length h else h) u)) ∧
        (∀ f u, read = .fault f u → ends (groupFault g f va .read g.am u)) ∧
        (∀ u, read = .severed u → ends (killGroup g 0x0D 0 u)) ∧
        (∀ u, read = .wait u → ends u)))) ∧
  (
  ∀ (r : GroupRef) (s : State) (cmd : Instr),
    (∃ op d a b, cmd = .integerArith r op d a b) ∨ (∃ op d a b c, cmd = .fp32Arith r op d a b c) ∨ (∃ op d a, cmd = .transcendental r op d a) ∨
    (∃ t f d a, cmd = .floatToInteger r t f d a) ∨ (∃ f t d a b c, cmd = .srConversion r f t d a b c) ∨ (∃ c t p, cmd = .shdBranch r c t p) ∨
    cmd = .shdJoin r ∨ cmd = .shdYield r ∨ (∃ m, cmd = .exitLanes r m) ∨ (∃ f w d a, cmd = .shdShuffle r f w d a) ∨ (∃ k d a, cmd = .shdVote r k d a) ∨
    (∃ sp d a b n, cmd = .memoryLoad r sp d a b n) ∨ (∃ sp d a b n, cmd = .memoryStore r sp d a b n) ∨ (∃ sp op t q a b x c, cmd = .shdAtomic r sp op t q a b x c) ∨
    cmd = .workgroupFence r ∨ cmd = .deviceFenceRelease r ∨ cmd = .deviceFenceAcquire r ∨ cmd = .shdBarrier r ∨ (∃ c, cmd = .shdTrap r c) ∨ (∃ w, cmd = .illegalInstr r w) →
    let z := shdSweep s
    (z.group? r.core.val r.slot.val = none → exec cmd s = .next z) ∧
    (∀ g, z.group? r.core.val r.slot.val = some g →
      let fetch := fetchAt g z
      (canIssue z g = false → exec cmd s = .next z) ∧
      (canIssue z g = true →
        (∀ f u, fetch.2 = .fault f u → exec cmd s = .next (groupFault g f fetch.1 .exec g.am u)) ∧
        (∀ u, fetch.2 = .severed u → exec cmd s = .next (killGroup g 0x0D 0 u)) ∧
        (∀ u, fetch.2 = .wait u → exec cmd s = .next u))))

/-- Shuffles, votes, memory and fences of a thread group. A shuffle reads the source lane's register within its
segment, a vote tells of the active lanes. A misaligned lane parks the group with cause 0x40; of the faults of the
lanes the lowest lane's is taken, before any lane acts; a request that must wait leaves the group where it is. A load
waits with its data until the response writes the registers; stores are made when they issue, of the lanes that are no
helper lanes, in the lanes' order or, where they name the same bytes, in one that is open; an atomic updates in lane
order and answers what was there before, and parks the group with cause 0x45 on host memory or a compressed page. In
shared memory the lanes beyond the allocation do not act, and read open values. A fence of the device drops the
context's lines from the core's L1 on its acquire side, and those that loads on their way bring; the others only go
on. A response whose host read failed is a fault of the lanes it served. -/
def Obligations.GroupData : Prop :=
  (∀ (r : GroupRef) (g : Group) (s u : State) (dst src : Fin 256), issuing r g s u →
    let reg (i : Nat) : Word := laneReg u g src.val i
    let next : State := setGroup { g with pc := g.pc + 1 } u
    (∀ (w : Nat), 0 < w → 32 % w = 0 →
      (∀ x : Src, exec (.shdShuffle r (.indexed x) w dst src) s = .next (writeLanes g dst.val (fun i => reg (i / w * w + (laneSrc u g x i).toNat % w)) u)) ∧
      (∀ d, d < w → exec (.shdShuffle r (.up d) w dst src) s = .next (writeLanes g dst.val (fun i => if d ≤ i % w then reg (i - d) else reg i) u)) ∧
      (∀ d, d < w → exec (.shdShuffle r (.down d) w dst src) s = .next (writeLanes g dst.val (fun i => if i % w + d < w then reg (i + d) else reg i) u)) ∧
      (∀ m : Word, exec (.shdShuffle r (.xor m) w dst src) s = .next (writeLanes g dst.val (fun i => reg (i ^^^ (m.toNat % w))) u))) ∧
    (∀ x : Src,
      let holds := (upTo 32).filter fun i => g.am.getLsbD i && decide (laneSrc u g x i ≠ 0)
      exec (.shdVote r .any dst x) s = .next (writeLanes g dst.val (fun _ => if holds = [] then 0 else 1) u) ∧
      exec (.shdVote r .all dst x) s = .next (writeLanes g dst.val (fun _ => if holds = lanesOf g.am then 1 else 0) u) ∧
      exec (.shdVote r .ballot dst x) s = .next (writeLanes g dst.val (fun _ => maskOf holds) u)) ∧
    exec (.workgroupFence r) s = .next next ∧
    exec (.deviceFenceRelease r) s = .next next ∧
    (let keep (ls : List L1Line) : List L1Line := ls.filter fun l => !(decide (l.core = g.core) && decide (l.ctx = g.ctx))
     exec (.deviceFenceAcquire r) s = .next { next with shd := { next.shd with
       l1 := keep next.shd.l1, groups := next.shd.groups.map fun h => { h with load := h.load.map fun w => { w with lines := keep w.lines } } } }) ∧
    (∀ (lo hi : Src) (size : Nat),
      let addrs (lanes : List Nat) : List (Nat × Nat) := lanes.map fun i => (i, (laneSrc u g lo i).toNat + 2 ^ 32 * (laneSrc u g hi i).toNat)
      let odd (n : Nat) (l : List (Nat × Nat)) : List (Nat × Nat) := l.filter fun a => a.2 % n ≠ 0
      let reads := addrs (lanesOf g.am)
      let writes := addrs (lanesOf (g.am &&& ~~~g.helper))
      let parks (cause va : Nat) (lanes : List Nat) (v : State) : State := parkGroup g false cause va 0 g.am.toNat (maskOf lanes).toNat v
      (∀ a rest, odd size reads = a :: rest → exec (.memoryLoad r .va dst lo hi size) s = .next (parks 0x40 a.2 ((a :: rest).map (·.1)) u)) ∧
      (∀ a rest, odd size writes = a :: rest → exec (.memoryStore r .va src lo hi size) s = .next (parks 0x40 a.2 ((a :: rest).map (·.1)) u)) ∧
      (odd size reads = [] → let check := checkLanes g .read reads u
        (∀ f va m v, check = .fault f va m v → exec (.memoryLoad r .va dst lo hi size) s = .next (groupFault g f va .read m v)) ∧
        (∀ v, check = .severed v → exec (.memoryLoad r .va dst lo hi size) s = .next (killGroup g 0x0D 0 v)) ∧
        (∀ v, check = .wait v → exec (.memoryLoad r .va dst lo hi size) s = .next v) ∧
        (∀ l v, check = .ok l v → let q : State := { v with mem := { v.mem with hostErr := [] } }
          (∀ w t, loadLanes g dst.val size l q = .ok w t → exec (.memoryLoad r .va dst lo hi size) s = .next
            (setGroup { g with load := some { w with id := t.shd.loadNo } } { t with shd := { t.shd with loadNo := t.shd.loadNo + 1 } })) ∧
          (loadLanes g dst.val size l q = .severed → exec (.memoryLoad r .va dst lo hi size) s = .next (killGroup g 0x0D 0 q)) ∧
          (loadLanes g dst.val size l q = .wait → exec (.memoryLoad r .va dst lo hi size) s = .next q))) ∧
      (odd size writes = [] → let check := checkLanes g .write writes u
        (∀ f va m v, check = .fault f va m v → exec (.memoryStore r .va src lo hi size) s = .next (groupFault g f va .write m v)) ∧
        (∀ v, check = .severed v → exec (.memoryStore r .va src lo hi size) s = .next (killGroup g 0x0D 0 v)) ∧
        (∀ v, check = .wait v → exec (.memoryStore r .va src lo hi size) s = .next v) ∧
        (∀ l v, check = .ok l v → exec (.memoryStore r .va src lo hi size) s = .next (setGroup { g with pc := g.pc + 1 }
          ((storeOrder l v).1.foldl (fun s a => laneWrite g a (storeBytes s g src.val size a.lane) s) (storeOrder l v).2)))) ∧
      (∀ (op : AtomOp) (ty : AtomType) (x c : Fin 256) (ret : Option (Fin 256)),
        let n := atomSize ty
        let cmd : Instr := .shdAtomic r .va op ty ret lo hi x c
        (∀ a rest, odd n writes = a :: rest → exec cmd s = .next (parks 0x40 a.2 ((a :: rest).map (·.1)) u)) ∧
        (odd n writes = [] → let check := checkLanes g .atomic writes u
          (∀ f va m v, check = .fault f va m v → exec cmd s = .next (groupFault g f va .atomic m v)) ∧
          (∀ v, check = .severed v → exec cmd s = .next (killGroup g 0x0D 0 v)) ∧
          (∀ v, check = .wait v → exec cmd s = .next v) ∧
          (∀ l v, check = .ok l v →
            let bad := l.filter fun a => match target v a.pa with
              | .host _ => true
              | .pkg _ _ => a.attr.fbc
              | _ => false
            (∀ a rest, bad = a :: rest → exec cmd s = .next (parks 0x45 a.va ((a :: rest).map (·.lane)) v)) ∧
            (bad = [] → exec cmd s = .next (atomEnd g op ty (ret.map (·.val)) x.val c.val l (l.map (·.va)) v))))) ∧
      (let shared (size : Nat) (lanes : List Nat) : List LaneAcc := (lanes.filter fun i => (laneSrc u g lo i).toNat + size ≤ (sharedOf u g).2).map fun i =>
        { lane := i, va := (laneSrc u g lo i).toNat, pa := 0x8100000000 + g.core * 0x40000 + (sharedOf u g).1 + (laneSrc u g lo i).toNat
          attr := { key := g.ctx, cache := 3, fbc := false, die := masterDie g.core } }
       let served (w : Bool) (l : List LaneAcc) : Prop := ∀ a ∈ l, reach u g.ctx a.attr a.pa w = .served
       let aligned (n : Nat) (lanes : List Nat) : Prop := ∀ i ∈ lanes, (laneSrc u g lo i).toNat % n = 0
       let all := lanesOf g.am
       let acting := lanesOf (g.am &&& ~~~g.helper)
       (aligned size all → served false (shared size all) → ∀ w t, loadLanes g dst.val size (shared size all) u = .ok w t →
         let more := sharedMisses g dst.val size (shared size all) t
         exec (.memoryLoad r .shared dst lo hi size) s = .next (setGroup { g with load := some { w with vas := [], writes := w.writes ++ more.1, id := more.2.shd.loadNo } }
           { more.2 with shd := { more.2.shd with loadNo := more.2.shd.loadNo + 1 } })) ∧
       (aligned size acting → served true (shared size acting) → exec (.memoryStore r .shared src lo hi size) s = .next (setGroup { g with pc := g.pc + 1 }
         ((storeOrder (shared size acting) u).1.foldl (fun s a => laneWrite g a (storeBytes s g src.val size a.lane) s) (storeOrder (shared size acting) u).2))) ∧
       (∀ (op : AtomOp) (ty : AtomType) (x c : Fin 256) (ret : Option (Fin 256)), aligned (atomSize ty) acting → served true (shared (atomSize ty) acting) →
         exec (.shdAtomic r .shared op ty ret lo hi x c) s = .next (atomEnd g op ty (ret.map (·.val)) x.val c.val (shared (atomSize ty) acting) [] u)) ∧
       (¬ aligned size all → exec (.memoryLoad r .shared dst lo hi size) s = .next (let odd := all.filter fun i => (laneSrc u g lo i).toNat % size ≠ 0
         parks 0x40 (laneSrc u g lo (odd.headD 0)).toNat odd u)) ∧
       (¬ aligned size acting → exec (.memoryStore r .shared src lo hi size) s = .next (let odd := acting.filter fun i => (laneSrc u g lo i).toNat % size ≠ 0
         parks 0x40 (laneSrc u g lo (odd.headD 0)).toNat odd u))))) ∧
  (∀ (g : Group) (op : AtomOp) (ty : AtomType) (ret : Option Nat) (x c : Nat) (l : List LaneAcc) (vas : List Nat) (s : State),
    let n := atomSize ty
    let made := atomLanes g op ty x c l s
    (ret = none → atomEnd g op ty ret x c l vas s = setGroup { g with pc := g.pc + 1 } made.2) ∧
    (∀ d, ret = some d →
      let more := sharedMisses g d n l made.2
      atomEnd g op ty ret x c l vas s = setGroup { g with load := some {
        id := more.2.shd.loadNo, vas, writes := (made.1.flatMap fun o => loadWrites d o.1 n (natLe n o.2) 0) ++ more.1, host := 0, va := 0, pa := 0, lines := [] } }
        { more.2 with shd := { more.2.shd with loadNo := more.2.shd.loadNo + 1 } }) ∧
    ((l.map (·.pa)).Nodup → storeOrder l s = (l, s))) ∧
  (∀ (ftz : Bool) (old x c : Nat), old < 2 ^ 32 → x < 2 ^ 32 →
    atomApply ftz .add .uint32 old x c = (old + x) % 2 ^ 32 ∧ atomApply ftz .min .uint32 old x c = min old x ∧ atomApply ftz .max .uint32 old x c = max old x ∧
    atomApply ftz .exch .uint32 old x c = x ∧ atomApply ftz .cmpxchg .uint32 old x c = (if old = c then x else old) ∧
    atomApply ftz .and .uint32 old x c = old &&& x ∧ atomApply ftz .or .uint32 old x c = old ||| x ∧ atomApply ftz .xor .uint32 old x c = old ^^^ x ∧
    signedOf 4 (atomApply ftz .min .int32 old x c) = min (signedOf 4 old) (signedOf 4 x) ∧ signedOf 4 (atomApply ftz .max .int32 old x c) = max (signedOf 4 old) (signedOf 4 x)) ∧
  (∀ (r : GroupRef) (err : Bool) (s : State),
    let z := shdSweep s
    let ends (t : State) : Prop := exec (.memoryResponse r err) s = .next (metaLog t)
    (z.group? r.core.val r.slot.val = none → ends z) ∧
    (∀ g, z.group? r.core.val r.slot.val = some g →
      (g.load = none ∨ g.park.isSome = true ∨ z.isPinned r.core.val = true ∨ ctxRuns z g.ctx = false → ends z) ∧
      (∀ w, g.load = some w → g.park.isSome = false → z.isPinned r.core.val = false → ctxRuns z g.ctx = true →
        (err = false ∨ w.host = 0 → ends (l1Take r.core.val w.lines (setGroup { g with
          load := none, pc := g.pc + 1
          regs := w.writes.foldl (fun t e => tblSet 0 t (e.2.1 * 32 + e.1) (1 + e.2.2.toNat)) g.regs } z))) ∧
        (err = true → w.host ≠ 0 → ends (groupFault { g with load := none } { code := .hostError, level := 0xFF, pa := w.pa, key := 0, bar := false, va := none } w.va .read w.host
          (setGroup { g with load := none } z))))))

/-- DISPATCH and DISPATCH_INDIRECT. A record with a reserved field that is not 0 ends the op with BAD_RECORD, the
first failed check with OP_ERROR and its DETAIL, code that is not known or needs more than the record gives with 0x4A;
an indirect grid with a 0 has no workgroup and ends well; a read that faults ends the op with TRANSLATION_FAULT, and
one that must wait ends nothing. Then the op runs, and WORKGROUP_PLACE makes its workgroups resident in order on the
core that R237 names, whose L1 first loses the context's lines when the dispatch is new to it: groups of 32 threads, at
their first instruction with empty registers and stacks, on slots of that core. A dispatch that a pre-emption stops
places no workgroup while one is resident, and none while an op that R87 puts first waits. -/
def Obligations.DispatchesStart : Prop :=
  (∀ (o : OpRef) (io : HostIO) (s : State) (e : Entry) (p : Op), s.op? o = some (e, p) → p.phase = .running → p.ending = none → ctxRuns s e.ctx = true → s.shdRun? o = none →
    let s0 := applyIO io s
    let b := p.body
    let start (hdr : List Byte) (x y z : Nat) (u : State) : State := { u with shd := { u.shd with
      runs := u.shd.runs ++ [{ op := o, ctx := e.ctx, header := hdr, gx := x, gy := y, total := x * y * z, next := 0, cores := [], stopping := false }] } }
    let lacks (hdr : List Byte) : Prop := let c := Config.codeHeader hdr
      c.1 = false ∨ fld b 50 1 < c.2.1 ∨ fld b 52 4 < c.2.2
    let unread (cmd : Instr) (read : Res (List Byte)) : Prop :=
      (∀ f u, read = .fault f u → exec cmd s = .next (endOp o 0x07 (feFault f e.ctx u).1 0 (feFault f e.ctx u).2)) ∧
      (∀ u, read = .severed u → exec cmd s = .next (endOp o 0x0D 0 0 u)) ∧
      (∀ u, read = .wait u → exec cmd s = .next u)
    let header := feRead e.ctx (fld b 16 8) 64 s0
    (p.opcode = 0x10 →
      (zeros b 80 16 = false ∨ fld b 72 8 ≠ 0 → exec (.shdDispatch o io) s = .next (endOp o 0x01 0 0 s0)) ∧
      (zeros b 80 16 = true → fld b 72 8 = 0 →
        (∀ d, dispatchCheck b false = some d → exec (.shdDispatch o io) s = .next (endOp o 0x0B d 0 s0)) ∧
        (dispatchCheck b false = none → unread (.shdDispatch o io) header ∧ ∀ hdr u, header = .ok hdr u →
          (lacks hdr → exec (.shdDispatch o io) s = .next (endOp o 0x0B 0x4A 0 u)) ∧
          (¬ lacks hdr → exec (.shdDispatch o io) s = .next (start hdr (fld b 32 4) (fld b 36 4) (fld b 40 4) u))))) ∧
    (p.opcode = 0x11 →
      (zeros b 80 16 = false → exec (.shdDispatchIndirect o io) s = .next (endOp o 0x01 0 0 s0)) ∧
      (zeros b 80 16 = true →
        (∀ d, dispatchCheck b true = some d → exec (.shdDispatchIndirect o io) s = .next (endOp o 0x0B d 0 s0)) ∧
        (dispatchCheck b true = none → unread (.shdDispatchIndirect o io) header ∧ ∀ hdr u, header = .ok hdr u →
          (lacks hdr → exec (.shdDispatchIndirect o io) s = .next (endOp o 0x0B 0x4A 0 u)) ∧
          (¬ lacks hdr →
            let grid := feRead e.ctx (fld b 72 8) 12 u
            unread (.shdDispatchIndirect o io) grid ∧
            ∀ g v, grid = .ok g v →
              let x := fld g 0 4
              let y := fld g 4 4
              let z := fld g 8 4
              (x = 0 ∨ y = 0 ∨ z = 0 → exec (.shdDispatchIndirect o io) s = .next (endOp o 0 0 0 v)) ∧
              (x ≠ 0 → y ≠ 0 → z ≠ 0 → (65535 < y ∨ 65535 < z) → exec (.shdDispatchIndirect o io) s = .next (endOp o 0x0B 0x48 0 v)) ∧
              (x ≠ 0 → y ≠ 0 → z ≠ 0 → y ≤ 65535 → z ≤ 65535 → exec (.shdDispatchIndirect o io) s = .next (start hdr x y z v))))))) ∧
  (∀ (o : OpRef) (io : HostIO) (s : State) (e : Entry) (p : Op), s.op? o = some (e, p) →
    ((p.phase = .running ∧ p.opcode = 0x10 ∧ p.ending = none ∧ ctxRuns s e.ctx = true ∧ s.shdRun? o ≠ none) ∨ p.phase ≠ .running ∨ p.opcode ≠ 0x10 ∨ p.ending ≠ none →
      exec (.shdDispatch o io) s = .next (applyIO io s)) ∧
    ((p.phase = .running ∧ p.opcode = 0x11 ∧ p.ending = none ∧ ctxRuns s e.ctx = true ∧ s.shdRun? o ≠ none) ∨ p.phase ≠ .running ∨ p.opcode ≠ 0x11 ∨ p.ending ≠ none →
      exec (.shdDispatchIndirect o io) s = .next (applyIO io s))) ∧
  (∀ b : List Byte,
    let threads := fld b 44 2 * fld b 46 2 * fld b 48 2
    (threads = 0 ∨ 1024 < threads → dispatchCheck b false = some 0x48 ∧ dispatchCheck b true = some 0x48) ∧
    (fld b 32 4 = 0 ∨ fld b 36 4 = 0 ∨ fld b 40 4 = 0 ∨ 65535 < fld b 36 4 ∨ 65535 < fld b 40 4 → dispatchCheck b false = some 0x48)) ∧
  (∀ (o : OpRef) (s : State), s.pass? o = none ∨ s.op? o = none →
    let z := shdSweep s
    (z.op? o = none ∨ z.shdRun? o = none → exec (.workgroupPlace o) s = .next z) ∧
    ∀ (e : Entry) (p : Op) (run : ShdRun), z.op? o = some (e, p) → z.shdRun? o = some run →
      let b := p.body
      let threads := fld b 44 2 * fld b 46 2 * fld b 48 2
      let n := (threads + 31) / 32
      let gran := (fld b 50 1 + 7) / 8
      let shared := fld b 52 4 / 1024
      let resident := ∃ w ∈ z.shd.wgs, w.op = o
      let stays := run.total ≤ run.next ∨ (run.stopping = true ∧ resident) ∨ (¬ resident ∧ yields z o = true) ∨ ctxRuns z run.ctx = false
      let place := placeCore z p.emask run.ctx n gran shared
      (stays ∨ place = none → exec (.workgroupPlace o) s = .next z) ∧
      (¬ stays → ∀ k base, place = some (k, base) →
        let y := if run.cores.contains k then z else l1Drop k run.ctx z
        let lanes (i : Nat) : Word := maskOf ((upTo 32).filter fun l => i * 32 + l < threads)
        let groups : List Group := (upTo n).map fun i =>
          { core := k, slot := (freeSlots y k n).getD i 0, op := o, ctx := run.ctx, role := .compute, code := fld b 16 8, header := run.header, const := fld b 24 8
            helper := 0, wg := run.next, idx := i, gran, am := lanes i, em := ~~~(lanes i), pc := 0, stack := [], spilled := [], inputs := [], regs := []
            placed := y.time, idle := 0, waiting := false, filling := false, load := none, park := none }
        exec (.workgroupPlace o) s = .next (syncUnits o { y with shd := { y.shd with
          runs := mapIf (fun q => q.op = o) (fun _ => { run with
            next := run.next + 1, stopping := false, cores := if run.cores.contains k then run.cores else run.cores ++ [k] }) y.shd.runs
          wgs := y.shd.wgs ++ [{ op := o, wg := run.next, core := k, arrived := 0, base, size := shared, ctx := run.ctx }]
          groups := y.shd.groups ++ groups } })))

/-- Barriers and parks. A barrier waits until every thread of the workgroup that has not exited has arrived, and then
all go on; a vertex or fragment group waits for its own lanes alone. One that does not complete in time parks the
workgroup, or the group, with cause 0x42. A trap parks with 0x41 and its code, an illegal instruction with 0x43 and its
word: the park takes the next tag, and its record goes to the function's park queue, waits while the queue is full, or,
with the queue off or its memory not there, counts as lost and the group's op or pass fails. A held park record is tried
again when its queue is read. REPLAY lets the groups of a park go on, KILL ends its op with the cause; a tag that no park
of the function has answers STATE (3). The watchdog fails the work of a group that has been resident longer than its
function's limit. -/
def Obligations.GroupsWaitAndPark : Prop :=
  (
  (∀ (r : GroupRef) (g : Group) (s u : State), issuing r g s u →
    (g.role ≠ .compute →
      (g.am = ~~~g.em → exec (.shdBarrier r) s = .next (setGroup { g with pc := g.pc + 1 } u)) ∧
      (g.am ≠ ~~~g.em → exec (.shdBarrier r) s = .next (setGroup { g with waiting := true } u))) ∧
    (g.role = .compute →
      let u1 := setGroup { g with waiting := true } u
      let here (v : Workgroup) : Bool := decide (v.op = g.op) && decide (v.wg = g.wg)
      ((∀ v ∈ u.shd.wgs, here v = false) → exec (.shdBarrier r) s = .next u1) ∧
      ∀ w, u.shd.wgs.find? here = some w → 0 < w.arrived + popcount g.am →
        let counted (k : Nat → Nat) : List Workgroup := mapIf here (fun v => { v with arrived := k (v.arrived + popcount g.am) }) u1.shd.wgs
        (w.arrived + popcount g.am ≠ nonExited u1 g.op g.wg → exec (.shdBarrier r) s = .next { u1 with shd := { u1.shd with wgs := counted id } }) ∧
        (w.arrived + popcount g.am = nonExited u1 g.op g.wg → exec (.shdBarrier r) s = .next { u1 with shd := { u1.shd with
          wgs := counted fun _ => 0
          groups := mapIf (fun h => h.inWg g.op g.wg && h.waiting) (fun h => { h with pc := h.pc + 1, waiting := false }) u1.shd.groups } })) ∧
    (∀ code : BitVec 16, exec (.shdTrap r code) s = .next (parkGroup g false 0x41 0 0 g.am.toNat code.toNat u)) ∧
    (∀ word : Word, exec (.illegalInstr r word) s = .next (parkGroup g false 0x43 0 0 g.am.toNat word.toNat u))) ∧
  (∀ (g : Group) (wide : Bool) (cause va seq i0 i1 : Nat) (u : State),
    let fn := fnOfCtx u g.ctx
    let parks := parkGroup g wide cause va seq i0 i1 u
    (parkqOn u fn = false → parks = killFor g cause (setParkq fn { parkqCnt u fn with lost := (parkqCnt u fn).lost + 1 } u)) ∧
    (parkqOn u fn = true →
      let tag := nextTag u 4097 u.shd.tag
      let rec64 := parkRecord u g wide cause va seq i0 i1 tag
      let mine (h : Group) : Bool := if wide then h.inWg g.op g.wg else decide (h.core = g.core) && decide (h.slot = g.slot)
      let parked : State := { u with shd := { u.shd with
        tag := (tag + 1) % 2 ^ 32
        groups := mapIf mine (fun h => { h with park := some { tag, cause, wg := wide, since := u.time } }) u.shd.groups } }
      (∀ w, parkPut fn rec64 parked = .written w → parks = w) ∧
      (∀ w, parkPut fn rec64 parked = .full w → parks = { w with shd := { w.shd with held := w.shd.held ++ [{ fn, core := g.core, slot := g.slot, rec' := rec64 }] } }) ∧
      (∀ w, parkPut fn rec64 parked = .lost w → parks = killFor g cause w)) ∧
    (g.role = .compute → killFor g cause u = shdSweep (endOp g.op (if cause < 0x40 then 0x07 else 0x0B) cause 0 u)) ∧
    (g.role ≠ .compute → killFor g cause u = closeOps (passFail g.op (if cause < 0x40 then 0x07 else 0x0B) cause (syncUnits g.op (dropGroup g u))))) ∧
  (∀ (r : GroupRef) (s : State),
    let z := shdSweep s
    let stays := exec (.barrierTimeout r) s = .next z
    (z.group? r.core.val r.slot.val = none → stays) ∧
    (∀ g, z.group? r.core.val r.slot.val = some g →
      (z.isPinned r.core.val = true ∨ ctxRuns z g.ctx = false → stays) ∧
      (g.role ≠ .compute →
        (g.waiting = false ∨ g.park ≠ none → stays) ∧
        (g.waiting = true → g.park = none → z.isPinned r.core.val = false → ctxRuns z g.ctx = true →
          exec (.barrierTimeout r) s = .next (parkGroup g false 0x42 0 0 (popcount g.am) (popcount (~~~g.em)) z))) ∧
      (g.role = .compute →
        let here (v : Workgroup) : Bool := decide (v.op = g.op) && decide (v.wg = g.wg)
        ((∀ v ∈ z.shd.wgs, here v = false) → stays) ∧
        ∀ w, z.shd.wgs.find? here = some w →
          (w.arrived = 0 ∨ (∃ h ∈ wgGroups z g.op g.wg, h.park ≠ none) → stays) ∧
          (w.arrived ≠ 0 → (∀ h ∈ wgGroups z g.op g.wg, h.park = none) → z.isPinned r.core.val = false → ctxRuns z g.ctx = true →
            ∀ low, low ∈ wgGroups z g.op g.wg → (∀ h ∈ wgGroups z g.op g.wg, h = low ∨ low.slot < h.slot) →
              exec (.barrierTimeout r) s = .next (parkGroup low true 0x42 0 0 w.arrived (nonExited z g.op g.wg) z))))) ∧
  (∀ (s : State) (g : Group) (wg : Bool) (cause va seq i0 i1 tag : Nat), (parkRecord s g wg cause va seq i0 i1 tag).length = 64 ∧
    fld (parkRecord s g wg cause va seq i0 i1 tag) 0 8 = g.wg % 2 ^ 64 ∧ fld (parkRecord s g wg cause va seq i0 i1 tag) 8 8 = va % 2 ^ 64)) ∧
  (
  (∀ (fn : Fn) (io : HostIO) (s : State),
    let z := shdSweep (applyIO io s)
    ((∀ h ∈ z.shd.held, h.fn ≠ fn.val) → exec (.parkQueueRetry fn io) s = .next z) ∧
    (∀ h, z.shd.held = [h] → h.fn = fn.val →
      (∀ w, parkPut fn.val h.rec' z = .full w → exec (.parkQueueRetry fn io) s = .next w) ∧
      (∀ w, parkPut fn.val h.rec' z = .written w → exec (.parkQueueRetry fn io) s = .next { w with shd := { w.shd with held := w.shd.held.erase h } }) ∧
      (∀ w g p, parkPut fn.val h.rec' z = .lost w → w.group? h.core h.slot = some g → g.park = some p →
        exec (.parkQueueRetry fn io) s = .next (killFor g p.cause { w with shd := { w.shd with held := w.shd.held.erase h } })))) ∧
  (∀ (fn : Fn) (s : State),
    (barOpen s fn.val = false → exec (.parkReplay fn) s = .next s ∧ exec (.parkKill fn) s = .next s) ∧
    (barOpen s fn.val = true →
      exec (.parkReplay fn) s = .next (hostWrite fn.val 0x060314 1 (replayDo fn.val) s) ∧
      exec (.parkKill fn) s = .next (hostWrite fn.val 0x060314 2 (killDo fn.val) s))) ∧
  (∀ (fn : Nat) (s : State),
    let z := shdSweep s
    let tag := (z.raw fn 0x060310).toNat
    let answer (k : Nat) (t : State) : State := { t with shd := { t.shd with parkRes := tblSet 0 t.shd.parkRes fn k } }
    (parkedBy z fn tag = [] → replayDo fn s = answer 3 z ∧ killDo fn s = answer 3 z) ∧
    (∀ g rest, parkedBy z fn tag = g :: rest →
      replayDo fn s = answer 0 (shdSweep { z with shd := { z.shd with groups := z.shd.groups.map fun h => if (g :: rest).contains h then unpark z.time h else h } }) ∧
      (∀ k, g.park = some k → killDo fn s = answer 0 (killFor g k.cause z)))) ∧
  (∀ (now : Nat) (g : Group) (p : Park), g.park = some p →
    unpark now g = { g with park := none, idle := g.idle + (now - p.since), pc := if p.cause = 0x41 then g.pc + 1 else g.pc }) ∧
  (∀ (t : Nat) (s : State),
    let z := shdSweep (advanceTo t s)
    let late (g : Group) : Prop := ((z.raw (fnOfCtx z g.ctx) 0x060320).toNat % 65536) * 1000000 <
      z.time - g.placed - g.idle - (match g.park with
        | some p => z.time - p.since
        | none => 0)
    ((∀ g ∈ z.shd.groups, ¬ late g) → exec (.shdWatchdog t) s = .next z) ∧
    (∀ g rest, z.shd.groups = g :: rest → late g → (∀ h ∈ rest, ¬ late h) → exec (.shdWatchdog t) s = .next (killGroup g 0x0F 0 z)) ∧
    (∀ (g : Group) (u : State),
      (g.role = .compute → killGroup g 0x0F 0 u = shdSweep (endOp g.op 0x0F 0 0 u)) ∧
      (g.role ≠ .compute → killGroup g 0x0F 0 u = closeOps (passFail g.op 0x0F 0 (syncUnits g.op (dropGroup g u)))))))

/-- A render pass. The record and the descriptors are checked first: a reserved field ends the op with BAD_RECORD, the
first failed check with OP_ERROR and its DETAIL; a pass without a free slot, or whose pool another pass has, waits. It
starts with the pool's counts. Batches are dealt in draw order to the front ends of its mask in turn, their vertices run
as thread groups of 32 on the cluster's cores, and a batch is binned once they have exited. A grow fault ends when the
pool has grown, or in a partial render when it will not. Of an access that does not come through, a fault fails the
pass with its record, a severed link with SEVERED, and one that must wait leaves the command without effect. -/
def Obligations.PassesStartAndBin : Prop :=
  (∀ (o : OpRef) (io : HostIO) (s : State) (e : Entry) (p : Op), s.op? o = some (e, p) →
    let s0 := applyIO io s
    let z := closeOps s0
    let b := p.body
    let ends (t : State) : Prop := exec (.renderPass o io) s = .next t
    let unread (read : Res (List Byte)) : Prop :=
      (∀ f u, read = .fault f u → ends (endOp o 0x07 (feFault f e.ctx u).1 0 (feFault f e.ctx u).2)) ∧
      (∀ u, read = .severed u → ends (endOp o 0x0D 0 0 u)) ∧ (∀ u, read = .wait u → ends u)
    let badRecord := zeros b 36 4 = false ∨ zeros b 48 16 = false ∨ fld b 16 8 % 64 ≠ 0 ∨ fld b 24 8 % 64 ≠ 0 ∨ fld b 40 8 % 32 ≠ 0 ∨ fld b 32 4 = 0 ∨ 1048576 < fld b 32 4
    (p.phase ≠ .running ∨ p.opcode ≠ 0x20 ∨ p.ending ≠ none → ends s0) ∧
    (p.phase = .running → p.opcode = 0x20 → p.ending = none → ctxRuns s e.ctx = true →
      (yields s0 o = true → ends s0) ∧
      (yields s0 o = false → z.pass? o ≠ none → ends z) ∧
      (yields s0 o = false → z.pass? o = none →
        (badRecord → ends (endOp o 0x01 0 0 z)) ∧
        (¬ badRecord → unread (feRead e.ctx (fld b 16 8) 256 z) ∧ ∀ d u, feRead e.ctx (fld b 16 8) 256 z = .ok d u →
          let go (sip : List Byte) (ops : List (List Byte)) (v : State) : State := if passBlocked v e.ctx d then v else passStart o e.ctx d sip ops v
          (passReserved d = true → ends (endOp o 0x01 0 0 u)) ∧
          (∀ c, passReserved d = false → passCheck d = some c → ends (endOp o 0x0B c 0 u)) ∧
          (passReserved d = false → passCheck d = none →
            (bit (fld d 6 1) 2 = false → ends (go [] [] u)) ∧
            (bit (fld d 6 1) 2 = true → unread (feRead e.ctx (fld d 24 8) 64 u) ∧ ∀ sip v, feRead e.ctx (fld d 24 8) 64 u = .ok sip v →
              let clean := zeros sip 18 6 = true ∧ zeros sip 32 32 = true
              let shaped := fld sip 8 4 ≠ 0 ∧ fld sip 8 4 ≤ 256 ∧ fld sip 0 8 % 16 = 0
              (¬ clean → ends (endOp o 0x01 0 0 v)) ∧
              (clean → ¬ shaped → ends (endOp o 0x0B 0x57 0 v)) ∧
              (clean → shaped →
                let read := feRead e.ctx (fld sip 0 8) (16 * fld sip 8 4) v
                unread read ∧ ∀ recs w, read = .ok recs w →
                  let ops := (sipRecords (fld sip 12 1) recs).getD []
                  ((∃ x ∈ ops, sipReserved x = true) → ends (endOp o 0x01 0 0 w)) ∧
                  ((∀ x ∈ ops, sipReserved x = false) →
                    (sipBad d sip (sipRecords (fld sip 12 1) recs) = true → ends (endOp o 0x0B 0x57 0 w)) ∧
                    (sipBad d sip (sipRecords (fld sip 12 1) recs) = false → ends (go sip ops w)))))))))) ∧
  (∀ (o : OpRef) (ctx : Nat) (d sip : List Byte) (ops : List (List Byte)) (u : State),
    let starts (t : State) : Prop := passStart o ctx d sip ops u = t
    let read := tRead noMaster ctx (fld d 8 8) 64 u
    (∀ f va acc v, read = .fault f va acc v → starts (endOp o 0x07 (feFault f ctx v).1 0 (feFault f ctx v).2)) ∧
    (∀ v, read = .severed v → starts (endOp o 0x0D 0 0 v)) ∧ (∀ v, read = .wait v → starts v) ∧
    ∀ pool v, read = .ok pool v →
      let clean := zeros pool 26 2 = true ∧ zeros pool 48 16 = true ∧ fld pool 25 1 < 2
      let cons := q64 (fld pool 8 8)
      let run : PassRun := { op := o, ctx, desc := d, sip, sipOps := ops, phase := .binning, draw := 0, prim := 0, batch := 0, batches := [], lists := [], chunks := []
                             prod := q64 (fld pool 0 8), start := cons, cons, growSeq := 0, growAt := none, waiting := [], partials := 0, bcut := 0, rewound := none
                             partialTiles := [], nextTile := 0, counted := [], prims := 0, cores := [], nextFront := 0, paused := false, shaded := 0, grows := 0
                             preempts := 0, stopping := false, fail := none, flags := 0, tStart := u.time }
      let begun : State := { v with rnd := { v.rnd with passes := v.rnd.passes ++ [run] } }
      (¬ clean → starts (endOp o 0x01 0 0 v)) ∧
      (clean → (fld pool 24 1 < 4 ∨ 20 < fld pool 24 1 ∨ fld pool 16 8 % 8 ≠ 0) → starts (closeOps (passFail o 0x0B 0x56 begun))) ∧
      (clean → 4 ≤ fld pool 24 1 → fld pool 24 1 ≤ 20 → fld pool 16 8 % 8 = 0 → starts (passTr o noMaster ctx
        ((tWrite noMaster ctx (fld d 8 8 + 28) (natLe 4 0 ++ natLe 8 cons.toNat ++ natLe 8 0) begun).bind fun _ w => binStateInit run w) v fun _ w => w))) ∧
  (∀ (o : OpRef) (m ctx : Nat) (r : Tr Unit) (s0 : State) (k : Unit → State → State),
    let outcome (t : State) : Prop := passTr o m ctx r s0 k = t
    (∀ u, r = .ok () u → outcome (k () u)) ∧
    (∀ f va acc u, r = .fault f va acc u →
      (m = noMaster → outcome (closeOps (passFail o 0x07 (feFault f ctx u).1 (feFault f ctx u).2))) ∧
      (m ≠ noMaster → let v := masterFault f m ctx va acc o.ring.val o.seq u
        outcome (closeOps (if f.bar then passFail o 0x0B 3 v else passFail o 0x07 f.code.num v)))) ∧
    (∀ d u, r = .bad d u → outcome (closeOps (passFail o 0x0B d u))) ∧
    (∀ u, r = .severed u → outcome (closeOps (passFail o 0x0D 0 u))) ∧
    (∀ u, r = .wait u → outcome s0)) ∧
  (∀ d : List Byte, fld d 0 2 = 0 ∨ 8192 < fld d 0 2 ∨ fld d 2 2 = 0 ∨ 8192 < fld d 2 2 ∨ 4 < fld d 5 1 → passCheck d = some 0x50) ∧
  (∀ (o : OpRef) (c : Fin 8) (io : HostIO) (s : State) (verts : List VertexOut),
    let z := closeOps (applyIO io s)
    let ends (t : State) : Prop := exec (.batchDeal o c verts io) s = .next t
    (z.pass? o = none ∨ z.op? o = none → ends z) ∧
    ∀ p e q, z.pass? o = some p → z.op? o = some (e, q) →
      let held := p.stopping = true ∧ p.prim = 0 ∧ (p.batches ≠ [] ∨ yields z p.op = true)
      let closed := p.phase ≠ .binning ∨ p.fail ≠ none ∨ fld q.body 32 4 ≤ p.draw ∨ nextCluster z p q.emask ≠ some c.val ∨ held ∨ ctxRuns z p.ctx = false
      let through {α : Type} (r : Tr α) (u : State) (k : α → State → Prop) : Prop :=
        (∀ a v, r = .ok a v → k a v) ∧ ((∀ a v, r ≠ .ok a v) → ends (passTr o noMaster p.ctx r u fun _ v => v))
      (closed → ends z) ∧
      (¬ closed → through (readDraw noMaster p (fld q.body 24 8) p.draw z) z fun r u =>
        let db := r.1
        let pb := r.2
        (drawBad p.desc db = true ∨ pipeBad pb = true → ends (closeOps (passFail o 0x0B 0x53 u))) ∧
        (drawBad p.desc db = false → pipeBad pb = false → through (tRead noMaster p.ctx (fld pb 0 8) 64 u) u fun vh v1 =>
          let ready (fh : List Byte) (v : State) : Prop :=
            let bad := codeBad vh (fld pb 16 1) = true ∨ (fh ≠ [] ∧ codeBad fh (fld pb 17 1) = true)
            (bad → ends (closeOps (passFail o 0x0B 0x53 v))) ∧
            (¬ bad → through (readIndices p.ctx db v) v fun raw w =>
              let prims := (primsFrom db raw p.prim).1
              let total := (primsFrom db raw p.prim).2
              let vert (k : Nat × Nat) : Option ClipVert := (verts.find? fun x => decide (x.index = k.1) && decide (x.inst = k.2)).map fun x =>
                { key := some k, words := (upTo (4 + 4 * fld pb 18 1)).map fun i => (x.clip ++ x.vary).getD i 0 }
              let cuts := cutBatch (w.ctx p.ctx).ftz db pb vert prims { keys := [], recs := [], prims := [], taken := 0 }
              (prims = [] → ends (w.onPass o fun p => { p with draw := p.draw + 1, prim := 0, stopping := false, paused := false })) ∧
              (prims ≠ [] → cuts = none → ends w) ∧
              (∀ cut, prims ≠ [] → cuts = some cut → ends (w.onPass o fun x =>
                let full := total ≤ x.prim + cut.taken
                { x with
                  batches := x.batches ++ [{ num := x.batch, cluster := c.val, draw := x.draw, first := x.prim, count := cut.taken, recs := cut.recs, prims := cut.prims
                                             verts := cut.keys.filter fun k => k.1 ≠ 2 ^ 64, placed := 0, code := fld pb 0 8, header := vh, regs := fld pb 16 1
                                             const := fld db 40 8, done := 0, block := 0 }]
                  batch := x.batch + 1, draw := if full then x.draw + 1 else x.draw, prim := if full then 0 else x.prim + cut.taken
                  stopping := x.stopping && decide (x.prim ≠ 0), paused := false, nextFront := (c.val + 1) % 8 })))
          (fld pb 8 8 = 0 → ready [] v1) ∧
          (fld pb 8 8 ≠ 0 → through (tRead noMaster p.ctx (fld pb 8 8) 64 v1) u ready)))) ∧
  (∀ (o : OpRef) (s : State) (p : PassRun) (e : Entry) (q : Op), s.pass? o = some p → s.op? o = some (e, q) → p.phase = .binning →
    let ends (t : State) : Prop := exec (.workgroupPlace o) s = .next t
    let todo (b : BinBatch) : Bool := decide (b.placed < b.verts.length)
    (ctxRuns s p.ctx = false ∨ p.fail ≠ none ∨ (∀ b ∈ p.batches, todo b = false) → ends s) ∧
    (ctxRuns s p.ctx = true → p.fail = none → ∀ b, p.batches.find? todo = some b →
      let idx := b.placed / 32 % 32
      let gran := (b.regs + 7) / 8
      let vs := (b.verts.drop b.placed).take 32
      (vertexCore s q.emask b.cluster (idx % 4) gran = none → ends s) ∧
      (∀ k, vertexCore s q.emask b.cluster (idx % 4) gran = some k → ends (placeGroup p k gran idx b.num (.vertex b.num) b.code b.const b.header
        (maskOf (upTo vs.length)) 0 (vs.map fun v => [w32 v.1, w32 v.2])
        (s.onPass p.op fun p => { p with batches := mapIf (fun x => x.num = b.num) (fun x => { x with placed := b.placed + vs.length }) p.batches }))))) ∧
  (∀ (p : PassRun) (k gran idx wg : Nat) (role : GroupRole) (code const : Nat) (hdr : List Byte) (lanes helper : Word) (inputs : List (List Word)) (s : State),
    let y := joinCore p.op k p.ctx s
    let g : Group := { core := k, slot := (freeSlots y k 1).headD 0, op := p.op, ctx := p.ctx, role, code, header := hdr, const, helper, wg, idx, gran, am := lanes, em := ~~~lanes
                       pc := 0, stack := [], spilled := [], inputs, regs := [], placed := y.time, idle := 0, waiting := false, filling := false, load := none, park := none }
    placeGroup p k gran idx wg role code const hdr lanes helper inputs s = syncUnits p.op { y with shd := { y.shd with groups := y.shd.groups ++ [g] } }) ∧
  (∀ (o : OpRef) (c : Fin 8) (io : HostIO) (s : State),
    let z := closeOps (applyIO io s)
    let ends (t : State) : Prop := exec (.batchBinned o c io) s = .next t
    (z.pass? o = none → ends z) ∧
    ∀ p, z.pass? o = some p →
      (frontOf p c.val = [] → ends z) ∧
      (∀ b l, frontOf p c.val = b :: l →
        let shaded := b.placed = b.verts.length ∧ ∀ g ∈ z.shd.groups, g.op = o → g.role ≠ .vertex b.num
        let early := p.phase ≠ .binning ∨ p.waiting.contains c.val = true ∨ ¬ shaded ∨ ctxRuns z p.ctx = false
        (early → ends z) ∧
        (¬ early → ∀ b' r, binRun b p z = (b', r) →
          (∀ p' u, r = .ok () p' u → ends (passBoundary o (u.onPass p'.op fun _ => { p' with
            batches := p'.batches.filter fun x => x.num ≠ b.num
            prims := if p'.counted.contains b.num then p'.prims else p'.prims + b.count
            counted := if p'.counted.contains b.num then p'.counted else p'.counted ++ [b.num] }))) ∧
          (∀ p' u, r = .empty p' u → ends (growRaise c.val { p' with batches := mapIf (fun x => x.num = b.num) (fun _ => b') p'.batches } z u)) ∧
          (∀ u, r = .bad u → ends (closeOps (passFail o 0x0B 0x56 u))) ∧
          (∀ f u, r = .fault f u → ends (closeOps (passFail o 0x07 (feFault f p.ctx u).1 (feFault f p.ctx u).2))) ∧
          (∀ u, r = .severed u → ends (closeOps (passFail o 0x0D 0 u))) ∧
          (r = .wait → ends z)))) ∧
  (∀ (c : Nat) (p : PassRun) (s0 s : State),
    (∀ n, p.growAt = some n → growRaise c p s0 s = s.onPass p.op fun _ => { p with waiting := p.waiting ++ [c] }) ∧
    (p.growAt = none →
      let p' : PassRun := { p with waiting := p.waiting ++ [c], growAt := some s.time, growSeq := p.growSeq + 1, grows := p.grows + 1 }
      growRaise c p s0 s = passTr p.op noMaster p.ctx (poolPut p' 28 4 p'.growSeq (s.onPass p.op fun _ => p')) s0 fun _ s =>
        if fld p.desc 34 2 = 0 then partialBegin p' s0 s else raiseVec (.grow p.op) (fnOfCtx s p.ctx) (fld p.desc 32 2) s) ∧
    partialBegin p s0 s = passTr p.op noMaster p.ctx (poolPut p 25 1 0 s) s0 fun _ s => partialStart p.op s) ∧
  (∀ (o : OpRef) (io : HostIO) (t : Nat) (s : State),
    let z := closeOps (applyIO io (advanceTo t s))
    let ends (u : State) : Prop := exec (.growPoll o io t) s = .next u
    (z.pass? o = none → ends z) ∧
    ∀ p, z.pass? o = some p →
      (p.growAt = none ∨ ctxRuns z p.ctx = false → ends z) ∧
      (∀ since, p.growAt = some since → ctxRuns z p.ctx = true →
        let read := tRead noMaster p.ctx (fld p.desc 8 8) 64 z
        ((∀ a v, read ≠ .ok a v) → ends (passTr o noMaster p.ctx read z fun _ v => v)) ∧
        (∀ pool u, read = .ok pool u →
          let prod := q64 (fld pool 0 8)
          let late := bit (fld pool 25 1) 0 = true ∨ since + fld p.desc 34 2 * 1000 ≤ z.time
          (p.cons < prod → ends (grantChunks z p.waiting { p with prod, growAt := none, waiting := [] } u)) ∧
          (prod ≤ p.cons → ¬ late → ends u) ∧
          (prod ≤ p.cons → late → ends (partialBegin p z u))))) ∧
  (∀ (p : PassRun) (s0 s : State) (c : Nat) (cs : List Nat),
    grantChunks s0 [] p s = s.onPass p.op (fun _ => p) ∧
    (∀ p' u, takeChunk c p s = .ok () p' u → grantChunks s0 (c :: cs) p s = grantChunks s0 cs p' u) ∧
    (∀ u, takeChunk c p s = .bad u → grantChunks s0 (c :: cs) p s = closeOps (passFail p.op 0x0B 0x56 u)))

/-- Tiles of a pass. Shading starts once every draw is binned and no earlier pass of the ring has tiles to store;
tiles are dealt in order to cores with room, filled, shaded with their primitives in the pass's order by fragment groups
of eight quads, resolved, and stored; the last one completes the pass. A partial render that ends rewinds the pool and
bins again from the batch that ran out, and one that ends at the same batch twice fails with EXHAUSTED. A pass that is
over sets its pool's CONSUMER back to START and writes its report before it completes, with the flags of its sip ops;
one that teardown discarded sets back the pool alone. FBC_CLEAR takes a tensor DMA channel as COPY does. Its end clears
each frame in order through its metadata and drops the frame's lines from both L2s; a page that is no framebuffer page
of package memory ends it with OP_ERROR, 0x55. -/
def Obligations.TilesAreRendered : Prop :=
  (
  ∀ (o : OpRef) (s : State),
    let z := closeOps s
    (z.pass? o = none ∨ z.op? o = none → exec (.shadingStart o) s = .next z) ∧
    (z.pass? o = none → exec (.partialRenderDone o) s = .next z) ∧
    (∀ p e q, z.pass? o = some p → z.op? o = some (e, q) →
      let early := p.phase ≠ .binning ∨ p.fail ≠ none ∨ p.draw < fld q.body 32 4 ∨ p.batches ≠ [] ∨ earlierPass z o = true ∨ (p.stopping = true ∧ yields z o = true) ∨ ctxRuns z p.ctx = false
      (early → exec (.shadingStart o) s = .next z) ∧
      (¬ early → exec (.shadingStart o) s = .next (passDone o (z.onPass o fun p => { p with phase := .shading, nextTile := 0, stopping := false, paused := false })))) ∧
    (∀ p, z.pass? o = some p →
      let early := p.phase ≠ .part ∨ nextTile p ≠ none ∨ tilesOf z p.op ≠ [] ∨ p.fail ≠ none
      (early → exec (.partialRenderDone o) s = .next z) ∧
      (¬ early → p.rewound = some p.bcut → exec (.partialRenderDone o) s = .next (closeOps (passFail o 0x0B 0x54 z))) ∧
      (¬ early → p.rewound ≠ some p.bcut →
        let p' : PassRun := { p with phase := .binning, cons := p.start, partials := p.partials + 1, lists := [], chunks := [], rewound := some p.bcut, nextTile := 0 }
        exec (.partialRenderDone o) s = .next (passTr o noMaster p.ctx
          ((tWrite noMaster p.ctx (fld p.desc 8 8 + 8) (natLe 8 p.start.toNat) (z.onPass p.op fun _ => p')).bind fun _ v =>
            (tWrite noMaster p.ctx (fld p.desc 8 8 + 40) (natLe 8 (p.partials + 1)) v).bind fun _ v => binStateInit p' v) z fun _ v => v))) ∧
    (∀ p, z.pass? o = some p →
      (∀ st d, p.fail = some (st, d) → passDone o z = if tilesOf z o = [] then endPass o st d z else z) ∧
      (p.fail = none → passDone o z = if p.phase = .shading ∧ nextTile p = none ∧ tilesOf z p.op = [] then endPass o 0 0 z else z))) ∧
  (
  ∀ (o : OpRef) (tile : Nat) (t : Nat) (s : State),
    let z := closeOps (advanceTo t s)
    let ends (u : State) : Prop := exec (.tileStored o tile t) s = .next (metaLog u)
    (z.pass? o = none ∨ (tilesOf z o).find? (fun x => x.tile = tile) = none → ends z) ∧
    ∀ p pt, z.pass? o = some p → (tilesOf z o).find? (fun x => x.tile = tile) = some pt →
      let stays := pt.shaded = false ∨ z.isPinned pt.core = true ∨ ctxRuns z p.ctx = false
      let js := (atts p.desc).filter fun j => decide (p.phase = .part) || decide (attStore (att p.desc j) = 0)
      let stores := trMap js (fun j s => (tileRead pt (attOff p.desc j) (attTile p.desc j) s).bind fun bs s => tWrite pt.core p.ctx (surfTile p.desc j tile) bs s) z
      (stays → ends z) ∧
      (¬ stays →
        (∀ l u, stores = .ok l u → ends (passBoundary o (passDone o ((dropTile pt u).onPass o fun p => { p with
          shaded := p.shaded + 1
          partialTiles := if p.phase = .part ∧ p.partialTiles.contains tile = false then p.partialTiles ++ [tile] else p.partialTiles })))) ∧
        (∀ f va acc u, stores = .fault f va acc u → ends (passFault o pt.core p.ctx f va acc (dropTile pt u))) ∧
        (∀ d u, stores = .bad d u → ends (closeOps (passFail o 0x0B d (dropTile pt u)))) ∧
        (∀ u, stores = .severed u → ends (closeOps (passFail o 0x0D 0 (dropTile pt u)))) ∧
        (∀ u, stores = .wait u → ends z))) ∧
  (
  ∀ (o : OpRef) (tile : Nat) (io : HostIO) (s : State),
    let z := closeOps (applyIO io s)
    let ends (u : State) : Prop := exec (.tileAssign o tile io) s = .next (metaLog u)
    let lost (pt : PassTile) (ctx : Nat) {α : Type} (r : Tr α) (ends : State → Prop) (waits : State → State) : Prop :=
      (∀ f va acc u, r = .fault f va acc u → ends (passFault o pt.core ctx f va acc (dropTile pt u))) ∧
      (∀ d u, r = .bad d u → ends (closeOps (passFail o 0x0B d (dropTile pt u)))) ∧
      (∀ u, r = .severed u → ends (closeOps (passFail o 0x0D 0 (dropTile pt u)))) ∧ (∀ u, r = .wait u → ends (waits u))
    (z.pass? o = none ∨ z.op? o = none → ends z) ∧
    (∀ p e q, z.pass? o = some p → z.op? o = some (e, q) →
      let held := p.stopping = true ∧ (tilesOf z p.op ≠ [] ∨ yields z p.op = true)
      let closed := p.phase = .binning ∨ p.fail ≠ none ∨ nextTile p ≠ some tile ∨ held ∨ (p.phase = .part ∧ earlierPass z o = true) ∨ ctxRuns z p.ctx = false
      let go : State := z.onPass o fun p => { p with nextTile := tile + 1, stopping := false, paused := false }
      let size := footprint p.desc / 1024
      (closed → ends z) ∧
      (¬ closed → tileShades p tile = false → ends (passTr o noMaster p.ctx (clearTile p tile go) z fun _ u => passDone o u)) ∧
      (¬ closed → tileShades p tile = true →
        (tileCore z q.emask p.ctx size = none → ends z) ∧
        (∀ k base, tileCore z q.emask p.ctx size = some (k, base) →
          let pt : PassTile := { op := o, ctx := p.ctx, tile, core := k, base, size, placed := 0, shaded := false }
          let loads := loadTile p pt (syncUnits o (joinCore o k p.ctx { go with rnd := { go.rnd with tiles := go.rnd.tiles ++ [pt] } }))
          (∀ u, loads = .ok () u → ends u) ∧ lost pt p.ctx loads ends fun _ => z))) ∧
    (∀ (frags : List Fragment),
      let ends (u : State) : Prop := exec (.tileShaded o tile frags io) s = .next (metaLog u)
      (z.pass? o = none ∨ z.op? o = none ∨ (tilesOf z o).find? (fun x => x.tile = tile) = none → ends z) ∧
      ∀ p e q pt, z.pass? o = some p → z.op? o = some (e, q) → (tilesOf z o).find? (fun x => x.tile = tile) = some pt →
        let d := p.desc
        let stays := pt.shaded = true ∨ z.isPinned pt.core = true ∨ ctxRuns z p.ctx = false ∨ ∃ g ∈ z.shd.groups, g.op = o ∧ g.role = .fragment tile
        let lists := tilePrims pt.core p (fld q.body 24 8) tile z
        (stays → ends z) ∧
        (¬ stays → lost pt p.ctx lists ends (fun _ => z) ∧ ∀ prims u, lists = .ok prims u →
          (pt.placed < (fragGroups d tile prims).length → ends z) ∧
          ((fragGroups d tile prims).length ≤ pt.placed →
            let read := tileRead pt 0 (scratchOff d) u
            lost pt p.ctx read ends (fun _ => z) ∧ ∀ old v, read = .ok old v →
              let polys := prims.map fun x => (x, primPoly x.kind (x.verts.filterMap recPoint))
              let new := bufOf d fun x y smp => shadeSample (z.ctx p.ctx).ftz d polys frags (tile % pTX d * 32 + x) (tile / pTX d * 32 + y) smp (bufVals d old x y smp)
              let write := tileWrite pt 0 new v
              lost pt p.ctx write ends (fun _ => z) ∧ ∀ w, write = .ok () w → ends (if p.phase = .part then markShaded pt w else tileEnd o q p pt new z w)))) ∧
    (∀ (q : Op) (p : PassRun) (t : PassTile) (buf : List Byte) (u : State),
      let d := p.desc
      let resolves := trMap (atts d) (fun j v => writeResolve t.core p j t.tile (fun x y =>
        resolveSample (u.ctx p.ctx).ftz (attFmt (att d j)) ((upTo (pSamples d)).map fun smp => (bufVals d buf x y smp).getD j 0)) v) u
      let sip (v : State) := sipDo o q p t buf v
      (∀ f va acc v, resolves = .fault f va acc v → tileEnd o q p t buf z u = passFault o t.core p.ctx f va acc (markShaded t v)) ∧
      (∀ v, resolves = .severed v → tileEnd o q p t buf z u = closeOps (passFail o 0x0D 0 (markShaded t v))) ∧
      (∀ v, resolves = .wait v → tileEnd o q p t buf z u = z) ∧
      (∀ l v, resolves = .ok l v →
        (bit (fld d 6 1) 2 = false → tileEnd o q p t buf z u = markShaded t v) ∧
        (bit (fld d 6 1) 2 = true →
          (∀ a w, sip v = .ok a w → tileEnd o q p t buf z u = markShaded t w) ∧
          (∀ st c w, sip v = .fail st c w → tileEnd o q p t buf z u = closeOps (passFail o st c (markShaded t w))) ∧
          (∀ m f va acc w, sip v = .fault m f va acc w → tileEnd o q p t buf z u = passFault o m p.ctx f va acc (markShaded t w)) ∧
          (sip v = .wait → tileEnd o q p t buf z u = z)))) ∧
    (∀ (p : PassRun) (e : Entry) (q : Op), s.pass? o = some p → s.op? o = some (e, q) → p.phase ≠ .binning →
      (ctxRuns s p.ctx = false → exec (.workgroupPlace o) s = .next s) ∧
      (ctxRuns s p.ctx = true → exec (.workgroupPlace o) s = .next (placeFragment p (fld q.body 24 8) (tilesOf s o) s))) ∧
    (∀ (p : PassRun) (drawVa : Nat) (t : PassTile) (ts : List PassTile) (u : State),
      let later := placeFragment p drawVa ts u
      let lists := tilePrims t.core p drawVa t.tile u
      placeFragment p drawVa [] u = u ∧
      (t.shaded = true ∨ u.isPinned t.core = true → placeFragment p drawVa (t :: ts) u = later) ∧
      (t.shaded = false → u.isPinned t.core = false → ∀ prims v, lists = .ok prims v →
        ((fragGroups p.desc t.tile prims)[t.placed]? = none → placeFragment p drawVa (t :: ts) u = later) ∧
        (∀ x qs, (fragGroups p.desc t.tile prims)[t.placed]? = some (x, qs) →
          let idx := t.placed % 32
          let gran := (fld x.pb 17 1 + 7) / 8
          (groupRoom u t.core (idx % 4) gran = false → placeFragment p drawVa (t :: ts) u = later) ∧
          (groupRoom u t.core (idx % 4) gran = true → ∀ hdr w, tRead t.core p.ctx (fld x.pb 8 8) 64 v = .ok hdr w →
            let n := 4 * qs.length
            let at' (l : Nat) : Nat × Nat := lanePixel qs l
            placeFragment p drawVa (t :: ts) u = placeGroup p t.core gran idx t.tile (.fragment t.tile) (fld x.pb 8 8) (fld x.db 40 8) hdr (maskOf (upTo n))
              (maskOf ((upTo n).filter fun l => !pixelHit p.desc x (at' l).1 (at' l).2))
              ((upTo n).map fun l => fragInputs (w.ctx p.ctx).ftz x (at' l).1 (at' l).2)
              { w with rnd := { w.rnd with tiles := mapIf (fun y => decide (y.op = t.op) && decide (y.tile = t.tile)) (fun y => { y with placed := y.placed + 1 }) w.rnd.tiles } }))))) ∧
  (
  ∀ (o : OpRef) (st d : Nat) (p : PassRun) (s : State),
    let u := opEnding o st d noMaster s
    (u.pass? o = some p → endPass o st d s = closePass p u) ∧
    (u.pass? o = none → endPass o st d s = u) ∧
    (∀ e q x, s.op? p.op = some (e, q) → q.phase = .running → q.ending = some x → ctxRuns s e.ctx = true →
      let back := vaWrite noMaster p.ctx (fld p.desc 8 8 + 8) (natLe 8 p.start.toNat) s
      (∀ v, back = .wait v → closePass p s = s) ∧
      (∀ v, back = .ok () v ∨ back = .severed v ∨ (∃ f w, back = .fault f w ∧ v = (feFault f p.ctx w).2) →
        let completes (w : State) : State := endOp p.op x.status x.detail p.flags (shdSweep (dropPass p.op w))
        (fld q.body 40 8 = 0 → closePass p s = completes v) ∧
        (fld q.body 40 8 ≠ 0 →
          let report := vaWrite noMaster e.ctx (fld q.body 40 8) (passReport p x.status x.detail v.time) v
          (∀ w, report = .ok () w ∨ report = .severed w → closePass p s = completes w) ∧
          (∀ f w, report = .fault f w → closePass p s = completes (feFault f e.ctx w).2) ∧
          (∀ w, report = .wait w → closePass p s = s)))) ∧
    (∀ e q, s.op? p.op = some (e, q) → q.phase = .running → q.ending = none → closePass p s = s) ∧
    (passReport p st d s.time).length = 32) ∧
  (
  ∀ (o : OpRef) (s : State) (e : Entry) (p : Op), s.op? o = some (e, p) →
    let va := fld p.body 16 8
    let n := fld p.body 24 4
    (∀ chan : Fin 32,
      (p.phase ≠ .running ∨ p.opcode ≠ 0x21 ∨ p.ending ≠ none → exec (.fbcClear o chan) s = .next s) ∧
      (p.phase = .running → p.opcode = 0x21 → p.ending = none → ctxRuns s e.ctx = true →
        (va % 4096 ≠ 0 ∨ n = 0 ∨ 1048576 < n → exec (.fbcClear o chan) s = .next (endOp o 0x01 0 0 s)) ∧
        (va % 4096 = 0 → n ≠ 0 → n ≤ 1048576 →
          (chansPinned s p.emask = true → exec (.fbcClear o chan) s = .next (endOp o 0x0C 0 0 s)) ∧
          (chansPinned s p.emask = false → chanFree s p.emask chan.val = true → p.units = [] → yields s o = false →
            exec (.fbcClear o chan) s = .next (let u := s.onOp o fun p => { p with units := [0x48 + chan.val] }
              { u with fe := { u.fe with copies := u.fe.copies ++ [{ op := o, ctx := e.ctx, chan := chan.val }] } })) ∧
          (chansPinned s p.emask = false → chanFree s p.emask chan.val = false ∨ p.units ≠ [] ∨ yields s o = true → exec (.fbcClear o chan) s = .next s)))) ∧
    (∀ (io : HostIO),
      let s0 := applyIO io s
      let drop (t : State) : State := { t with fe := { t.fe with copies := t.fe.copies.filter fun c => c.op ≠ o } }
      (s.fe.copies.find? (fun c => c.op = o) = none → exec (.fbcClearDone o io) s = .next (metaLog s0)) ∧
      (∀ c, s.fe.copies.find? (fun c => c.op = o) = some c →
        (p.phase ≠ .running → exec (.fbcClearDone o io) s = .next (metaLog (drop s0))) ∧
        (p.phase = .running → ctxRuns s e.ctx = true → p.opcode = 0x21 →
          let u := fbcFrames o (0x48 + c.chan) e.ctx (fld p.body 28 4) ((upTo n).map fun i => va + 4096 * i) s0
          exec (.fbcClearDone o io) s = .next (metaLog (if opRunning u o then u else drop u))))) ∧
    (∀ (m ctx word at' : Nat) (l : List Nat) (u : State),
      fbcFrames o m ctx word [] u = endOp o 0 0 0 u ∧
      (∀ leaf v, xlate m ctx at' .write u = .ok leaf v →
        let pa := leaf.base + (at' - leaf.va)
        let good := leaf.fbc = true ∧ ∃ ch a, target v pa = .pkg ch a
        (good → fbcFrames o m ctx word (at' :: l) u = fbcFrames o m ctx word l (fbcClearFrame leaf.key (pa / 4096) word v)) ∧
        (¬ good → fbcFrames o m ctx word (at' :: l) u = endOp o 0x0B 0x55 0 v)) ∧
      (∀ f v, xlate m ctx at' .write u = .fault f v → fbcFrames o m ctx word (at' :: l) u = opFault f o m at' .write v) ∧
      (∀ v, xlate m ctx at' .write u = .severed v → fbcFrames o m ctx word (at' :: l) u = endOp o 0x0D 0 0 v) ∧
      (∀ v, xlate m ctx at' .write u = .wait v → fbcFrames o m ctx word (at' :: l) u = v)) ∧
    (∀ (key frame word : Nat) (t : State),
      (∀ d < 2, ∀ l ∈ ((fbcClearFrame key frame word t).l2 d).lines, memInv t → l.line / 32 ≠ frame) ∧
      (fbcClearEntry word).length = 32 ∧ fld (fbcClearEntry word) 8 4 = word % 2 ^ 32))

/-- The registers of a pipe are the physical function's. A write of DSP_CTL is refused for a CONN of 4 to 6, for one
that another enabled pipe uses, and for a change of CONN or RING under ENABLE; clearing ENABLE fails the pending
commit with PIPE_OWNER and stops scanout at the next boundary. DSP_CNT_CLR zeroes the counters, a hot-plug level is
the connector's, and GO starts an AUX transaction unless one runs, the link trains or CONN is 7. An attempt sends the
address, the kind and the bytes of a write; its end leaves OK and the bytes of a read, NACK, DEFER after eight attempts,
or TIMEOUT. -/
def Obligations.PipeRegistersAndAux : Prop :=
  ∀ (p : Fin 4) (s : State),
    let base := 0x0A0000 + p.val * 0x10000
    let x := s.pipe p.val
    (∀ (fn : Fn) (v : Word), quiet s fn.val → fn.val ≠ 0 →
      exec (.dspCtlWrite fn p v) s = .next s ∧ exec (.dspCntClr fn p v) s = .next s ∧ exec (.auxGo fn p v) s = .next s) ∧
    (∀ v : Word, quiet s 0 →
      let old := s.raw 0 base
      let new := (old &&& 0xFFFE0000) ||| (v &&& 0x1FFFF)
      let touches : Bool := decide ((new &&& 0x1FFFF) ≠ (old &&& 0x1FFFF))
      let u := if touches then setUnlock (.dsp p) 0 0 s else s
      let conn := bits new.toNat 3 1
      let bad := (4 ≤ conn ∧ conn ≤ 6) ∨ (conn ≠ 7 ∧ ∃ q : Fin 4, q ≠ p ∧ dspEnable s q.val = true ∧ dspConn s q.val = conn) ∨
        (bit old.toNat 0 = true ∧ (new &&& 0x1FFFE) ≠ (old &&& 0x1FFFE))
      let w := u.setRaw 0 base (new &&& ~~~(v &&& 0x80000000))
      (touches = true → unlocked s (.dsp p) 0 = false → exec (.dspCtlWrite 0 p v) s = .next (setDenied (.dsp p) 0 1 s)) ∧
      ((touches = true → unlocked s (.dsp p) 0 = true) →
        (bad → exec (.dspCtlWrite 0 p v) s = .next (u.setRaw 0 base ((old &&& ~~~(v &&& 0x80000000)) ||| 0x80000000))) ∧
        (¬ bad → (bit old.toNat 0 = false ∨ bit new.toNat 0 = true) → exec (.dspCtlWrite 0 p v) s = .next w) ∧
        (¬ bad → bit old.toNat 0 = true → bit new.toNat 0 = false →
          exec (.dspCtlWrite 0 p v) s = .next ((match livePend w p.val with
            | some c => commitFail p.val c 0x0B 0x60 .aborted w
            | none => w).onPipe p.val fun x => match x.st with
              | .scanout => { x with stop := true }
              | .modeset => { pipeOff x with pend := none }
              | .off => x)))) ∧
    (∀ v : Word, quiet s 0 →
      (bit v.toNat 0 = false → exec (.dspCntClr 0 p v) s = .next s) ∧
      (bit v.toNat 0 = true → exec (.dspCntClr 0 p v) s = .next (s.onPipe p.val fun x => { x with
        underrun := 0, fetchFault := 0, warpLate := 0, poseTorn := 0, protBlocked := 0, wbFault := 0, late := [0, 0, 0, 0, 0, 0, 0, 0] })) ∧
      (let z := s.setRaw 0 (base + 0x80) ((s.raw 0 (base + 0x80) &&& 0xBC000000) ||| (v &&& 0x03FFFFFF))
       let training := x.st = .modeset ∧ x.stage = 2
       let i2c := bit v.toNat 25
       let len := bits v.toNat 23 20 + 1
       let bytes : List Byte := (natLe 4 (s.raw 0 (base + 0x90)).toNat ++ natLe 4 (s.raw 0 (base + 0x94)).toNat ++
         natLe 4 (s.raw 0 (base + 0x98)).toNat ++ natLe 4 (s.raw 0 (base + 0x9C)).toNat).take len
       let req : AuxReq := { addr := bits v.toNat (if i2c then 6 else 19) 0, len, write := bit v.toNat 24, i2c, data := if bit v.toNat 24 then bytes else [] }
       (x.aux.isSome = true ∨ training ∨ dspConn s p.val = 7 → regInv s → exec (.auxGo 0 p v) s = .next z) ∧
       (x.aux = none → ¬ training → dspConn s p.val ≠ 7 → regInv s → exec (.auxGo 0 p v) s = .next (z.onPipe p.val fun x => { x with
         aux := some { tries := 0, req, pause := false }, auxSent := x.auxSent ++ [req] })))) ∧
    (∀ (conn : Connector) (level : Bool),
      let n := match conn with
        | .edp0 => 0 | .edp1 => 1 | .dp0 => 2 | .dp1 => 3
      exec (.hpdChange conn level) s = .next { s with dsp := { s.dsp with hpd := tblSet 0 s.dsp.hpd n (if level then 1 else 0) } }) ∧
    (x.aux = none → (∀ r, exec (.auxReply p r) s = .next s) ∧ exec (.auxTimeout p) s = .next s) ∧
    (∀ a, x.aux = some a →
      let ends (res : Nat) (u : State) : State := u.onPipe p.val fun x => { x with aux := none, auxRes := res }
      (a.pause = true → (∀ r, exec (.auxReply p r) s = .next s) ∧
        exec (.auxTimeout p) s = .next (s.onPipe p.val fun x => { x with aux := some { a with pause := false }, auxSent := x.auxSent ++ [a.req] })) ∧
      (a.pause = false →
        exec (.auxTimeout p) s = .next (ends 3 s) ∧
        exec (.auxReply p .nack) s = .next (ends 1 s) ∧
        (a.tries < 7 → exec (.auxReply p .defer) s = .next (s.onPipe p.val fun x => { x with aux := some { a with tries := a.tries + 1, pause := true } })) ∧
        (7 ≤ a.tries → exec (.auxReply p .defer) s = .next (ends 2 s)) ∧
        (∀ bs, a.req.write = true → exec (.auxReply p (.ack bs)) s = .next (ends 0 s)) ∧
        (∀ bs, a.req.write = false → a.req.len ≤ 16 → bs.length = a.req.len →
          let before := natLe 4 (s.raw 0 (base + 0x90)).toNat ++ natLe 4 (s.raw 0 (base + 0x94)).toNat ++
            natLe 4 (s.raw 0 (base + 0x98)).toNat ++ natLe 4 (s.raw 0 (base + 0x9C)).toNat
          let data := bs ++ before.drop a.req.len
          exec (.auxReply p (.ack bs)) s = .next (ends 0 ((((s.setRaw 0 (base + 0x90) (w32 (fld data 0 4))).setRaw 0 (base + 0x94)
            (w32 (fld data 4 4))).setRaw 0 (base + 0x98) (w32 (fld data 8 4))).setRaw 0 (base + 0x9C) (w32 (fld data 12 4)))))))

/-- A DISPLAY_COMMIT is checked at dispatch: its body, the pipe's owner, the pin state, then what its records hold; it
waits while another commit is pending on the pipe, and a commit that passes becomes the pending one. Its tables load
after that, and its event table's fences are checked then. A commit that fails puts its RELEASE fences into ERROR,
those that have not been signalled, writes its report, and completes: a report that faults leaves its record or its pin
and completes, and one that must wait holds the completion back; teardown discards both. -/
def Obligations.CommitsAreCheckedAndLoad : Prop :=
  (∀ (o : OpRef) (io : HostIO) (s : State),
    let z := applyIO io s
    let ends (t : State) : Prop := exec (.displayCommit o io) s = .next t
    (z.op? o = none → ends z) ∧
    ∀ e q, z.op? o = some (e, q) →
      let b := q.body
      let p := fld b 16 1
      let m := 0x6C + p
      let upd := bit (fld b 17 1) 0
      let modeset := bit (fld b 17 1) 1
      let y := ungate [72 + p] (dropPend p z)
      let read := readRecords m e.ctx (fld b 24 8) (fld b 32 8) (fld b 18 1) upd y
      let owned := p < 4 ∧ dspRing z p = e.ring ∧ dspEnable z p = true
      let goes := commitBad b = false ∧ owned ∧ z.isPinned m = false ∧ livePend z p = none ∧ (awake z = true ∨ p = 0)
      (q.phase ≠ .running ∨ q.opcode ≠ 0x50 ∨ q.ending ≠ none → ends z) ∧
      (q.phase = .running → q.opcode = 0x50 → q.ending = none → ctxRuns z e.ctx = false → ends (discardOp o z)) ∧
      (q.phase = .running → q.opcode = 0x50 → q.ending = none → ctxRuns z e.ctx = true →
        (q.units ≠ [] → ends z) ∧
        (q.units = [] →
          (commitBad b = true → ends (commitRefuse p o e b 0x01 0 z)) ∧
          (commitBad b = false → ¬ owned → ends (commitRefuse p o e b 0x0B 0x60 z)) ∧
          (commitBad b = false → owned → z.isPinned m = true → ends (endOp o 0x0C 0 0 z)) ∧
          (commitBad b = false → owned → z.isPinned m = false → livePend z p ≠ none → ends z) ∧
          (commitBad b = false → owned → z.isPinned m = false → livePend z p = none → awake z = false → p ≠ 0 → ends (wantsExit z)) ∧
          (goes →
            (∀ f va acc u, read = .fault f va acc u → ends (commitFault p o none 0 f va acc
              (failReleases (recordReleases m e.ctx e.ring (fld b 32 8) (fld b 18 1) u) .aborted u))) ∧
            (∀ u, read = .severed u → ends (commitRefuse p o e b 0x0D 0 u)) ∧
            (∀ u, read = .wait u → ends y) ∧
            (∀ pipe ls u, read = .ok (pipe, ls) u →
              let now := if upd then pipe else (u.pipe p).rec'
              let check := commitCheck u e.ctx e.ring p upd modeset now ls
              (∀ st d, check = some (st, d) → ends (commitEnd p o none 0 st d
                (failReleases (ls.filterMap fun x => edgeField u e.ctx e.ring true (slice x.2 64 16)) .aborted u))) ∧
              (check = none → ends ((u.onOp o fun q => { q with units := [m] }).onPipe p fun x => { x with
                pend := some (commitOf u o e.ctx e.ring upd modeset now ls) }))))))) ∧
  (∀ (p : Nat) (o : OpRef) (e : Entry) (b : List Byte) (st d : Nat) (u : State),
    (4 ≤ p → commitRefuse p o e b st d u = endOp o st d 0 u) ∧
    (p < 4 → commitRefuse p o e b st d u = commitEnd p o none 0 st d
      (failReleases (recordReleases (0x6C + p) e.ctx e.ring (fld b 32 8) (fld b 18 1) u) .aborted u)) ∧
    (∀ (mark : Option (Nat × Quad)) (late : Nat) (f : Flt) (va : Nat) (acc : Access),
      let v := masterFault f (0x6C + p) (opCtx u o) va acc o.ring.val o.seq u
      (v.isPinned (0x6C + p) = true → f.bar = true → commitFault p o mark late f va acc u = endOp o 0x0B 3 0 v) ∧
      (v.isPinned (0x6C + p) = true → f.bar = false → commitFault p o mark late f va acc u = faultOp o f.code v) ∧
      (v.isPinned (0x6C + p) = false → f.bar = true → commitFault p o mark late f va acc u = commitEnd p o mark late 0x0B 3 v) ∧
      (v.isPinned (0x6C + p) = false → f.bar = false → commitFault p o mark late f va acc u = commitEnd p o mark late 0x07 f.code.num v)) ∧
    (∀ (mark : Option (Nat × Quad)) (late : Nat),
      let at' := mark.getD (u.time, (u.pipe p).frame)
      let va := match u.op? o with
        | some (_, q) => if fld q.body 40 8 % 32 = 0 then fld q.body 40 8 else 0
        | none => 0
      let bytes := natLe 8 at'.1 ++ natLe 8 at'.2.toNat ++ natLe 4 (min late 0xFFFFFFFF) ++ natLe 1 st ++ natLe 1 d ++ natLe 10 0
      commitEnd p o mark late st d u = endCommit { op := o, pipe := p, va, bytes, status := st, detail := d } u) ∧
    (∀ (c : Commit) (why : Reason),
      let v := u.onPipe p fun x => { x with pend := none }
      (c.applied = true → commitFail p c st d why u = commitEnd p c.op c.mark c.late st d v) ∧
      (c.applied = false → commitFail p c st d why u = commitEnd p c.op c.mark c.late st d (failReleases (c.release.map (·.2)) why v)))) ∧
  (∀ (r : DspReport) (u : State),
    let drop (v : State) : State := { v with dsp := { v.dsp with reports := v.dsp.reports.erase r } }
    let m := 0x6C + r.pipe
    (let v := opEnding r.op r.status r.detail m u
     endCommit r u = closeReport r { v with dsp := { v.dsp with reports := v.dsp.reports ++ [r] } }) ∧
    (u.op? r.op = none → closeReport r u = drop u) ∧
    (∀ e q, u.op? r.op = some (e, q) →
      let write := vaWrite m e.ctx r.va r.bytes u
      let completes (v : State) : Prop := closeReport r u = endOp r.op r.status r.detail 0 (drop v)
      (q.phase ≠ .running → closeReport r u = drop u) ∧
      (q.phase = .running → ctxRuns u e.ctx = false → closeReport r u = discardOp r.op (drop u)) ∧
      (q.phase = .running → ctxRuns u e.ctx = true →
        (r.va = 0 → completes u) ∧
        (r.va ≠ 0 → ∀ v,
          (write = .ok () v ∨ write = .severed v → completes v) ∧
          (∀ f, write = .fault f v → completes (masterFault f m e.ctx r.va .write e.ring e.seq v)) ∧
          (write = .wait v → closeReport r u = u))))) ∧
  (∀ (p : Fin 4) (io : HostIO) (s : State),
    let z := dropPend p.val (applyIO io s)
    let m := 0x6C + p.val
    let ends (t : State) : Prop := exec (.commitTablesLoaded p io) s = .next t
    (livePend z p.val = none → ends z) ∧
    (∀ c, livePend z p.val = some c →
      (c.loaded = true ∨ z.isPinned m = true → ends z) ∧
      (c.loaded = false → z.isPinned m = false →
        (∀ f va acc u, readTables m c z = .fault f va acc u → ends (commitFault p.val c.op none c.late f va acc
          ((failReleases (c.release.map (·.2)) .aborted u).onPipe p.val fun x => { x with pend := none }))) ∧
        (∀ u, readTables m c z = .severed u → ends (commitFail p.val c 0x0D 0 .aborted u)) ∧
        (∀ u, readTables m c z = .wait u → ends z) ∧
        (∀ tabs lut table u, readTables m c z = .ok (tabs, lut, table) u →
          let badTables := (tabs.any (fun t => tabsBad t.2) || lutBad lut) = true
          let reserved := ∃ k < 16, table ≠ [] ∧ eventReserved (event table k) = true
          let bad := eventsBad u c.ctx c.op.ring.val c.pipe table = true
          let v := u.onPipe p.val fun x => { x with pend := some { c with
            tabs, lut, table, loaded := true
            events := (upTo 16).map fun k => if table = [] then none else evEdge u c.ctx c.op.ring.val (event table k) } }
          (reserved → ends (commitFail p.val c 0x01 0 .aborted u)) ∧
          (¬ reserved → badTables → ends (commitFail p.val c 0x0B 0x64 .aborted u)) ∧
          (¬ reserved → ¬ badTables → bad → ends (commitFail p.val c 0x0B 0x69 .aborted u)) ∧
          (¬ reserved → ¬ badTables → ¬ bad → (v.pipe p.val).st ≠ .off → ends v) ∧
          (¬ reserved → ¬ badTables → ¬ bad → (v.pipe p.val).st = .off → ends (tryCommit p.val false v))))))

/-- A pending commit applies at a frame boundary, or at once on a pipe that is OFF, when every ACQUIRE fence of it
holds, all its layers together; else it is late, each late layer's count rises and the old state stays. A commit
signals its RELEASE fences, completes with OK and writes its report; a mode set first locks its PLL and trains the
link, and completes where scanout starts, or ends with LINK and the pipe OFF; where a teardown has discarded its commit
the mode set goes on alone. In S3 a commit with a fast warp layer makes the package exit first. -/
def Obligations.CommitsApplyWhole : Prop :=
  (∀ (p : Fin 4) (atBoundary : Bool) (s : State),
    let tried (t : State) : Prop := tryCommit p.val atBoundary s = t
    (livePend s p.val = none → tried s) ∧
    (∀ c, livePend s p.val = some c →
      let shut := s.halted (.dsp p) = true ∨ inReset s 5 p.val = true ∨ (s.crossing (5 + p.val)).severed = true ∨ c.loaded = false ∨ c.applied = true
      let mark := if (s.pipe p.val).st = .scanout then some (s.time, (s.pipe p.val).frame) else none
      let applied := signalAll (releases (s.pipe p.val) c) (s.onPipe p.val (applyTo (s.ctx c.ctx).gen c))
      (shut → tried s) ∧
      (¬ shut → awake s = false → fastWarp (s.pipe p.val) c = true → tried (startExit 3 0 s)) ∧
      (¬ shut → (awake s = true ∨ fastWarp (s.pipe p.val) c = false) →
        (lateLayers s c = [] → c.modeset = false → tried (commitEnd p.val c.op c.mark c.late 0 0 (applied.onPipe p.val fun x => { x with pend := none }))) ∧
        (lateLayers s c = [] → c.modeset = true → tried (applied.onPipe p.val fun x => { x with
          st := .modeset, stage := 1, pend := some { c with applied := true, mark }, due := false, out := [], bands := [], poseReads := [] })) ∧
        (lateLayers s c ≠ [] → atBoundary = false → tried s) ∧
        (lateLayers s c ≠ [] → atBoundary = true → tried (s.onPipe p.val fun x => { x with
          late := (List.range 8).map fun l => min 15 (x.late.getD l 0 + (if l ∈ lateLayers s c then 1 else 0))
          layers := (List.range 8).map fun l => { (x.layers[l]?).getD Layer.off with lateClear := (lateLayers s c).contains l && wantsClear c l }
          pend := some { c with late := min 0xFFFFFFFF (c.late + 1) } }))))) ∧
  (∀ (p : Fin 4) (t : Nat) (s : State),
    let z := dropPend p.val (advanceTo t s)
    let x := z.pipe p.val
    let pinned := z.isPinned (0x6C + p.val) = true
    let u := z.onPipe p.val fun x => { newFrame x with frame := x.frame + 1 }
    (pinned ∨ x.st = .modeset ∨ (x.st = .scanout ∧ x.due = false) → exec (.frameBoundary p t) s = .next z) ∧
    (¬ pinned → x.st = .off → exec (.frameBoundary p t) s = .next (tryCommit p.val false z)) ∧
    (¬ pinned → x.st = .scanout → x.due = true → x.stop = true → exec (.frameBoundary p t) s = .next (u.onPipe p.val pipeOff)) ∧
    (¬ pinned → x.st = .scanout → x.due = true → x.stop = false → exec (.frameBoundary p t) s = .next (
      let v := tryCommit p.val true (orphanLayers p.val u)
      copySts p.val (if (v.pipe p.val).st = .scanout then sendHdr p.val v else v)))) ∧
  (∀ (p : Fin 4) (s : State),
    let at' (n : Nat) (z : State) : Prop := (z.pipe p.val).st = .modeset ∧ (z.pipe p.val).stage = n ∧ z.isPinned (0x6C + p.val) = false
    (let z := dropPend p.val s
     (¬ at' 1 z → exec (.pixelPllLockDone p) s = .next z) ∧
     (at' 1 z → dspConn z p.val ≠ 7 → exec (.pixelPllLockDone p) s = .next (z.onPipe p.val fun x => { x with stage := 2 })) ∧
     (at' 1 z → dspConn z p.val = 7 → exec (.pixelPllLockDone p) s = .next (scanStart p.val z))) ∧
    (∀ t : Nat,
      let z := dropPend p.val (advanceTo t s)
      let off := z.onPipe p.val pipeOff
      (∀ ok, ¬ at' 2 z → exec (.linkTrainingDone p ok t) s = .next z) ∧
      (at' 2 z → exec (.linkTrainingDone p true t) s = .next (scanStart p.val z)) ∧
      (at' 2 z →
        (livePend off p.val = none → exec (.linkTrainingDone p false t) s = .next off) ∧
        (∀ c, livePend off p.val = some c →
          (c.applied = true → exec (.linkTrainingDone p false t) s = .next (
            commitEnd p.val c.op c.mark c.late 0x0B 0x63 (off.onPipe p.val fun x => { x with pend := none }))) ∧
          (c.applied = false → exec (.linkTrainingDone p false t) s = .next (tryCommit p.val false off))))) ∧
    (let u := orphanLayers p.val (s.onPipe p.val fun x => { newFrame x with st := .scanout, stage := 0, line := fld x.rec' 8 2, frame := x.frame + 1, fired := [] })
     let starts (v : State) : Prop := scanStart p.val s = copySts p.val (if (v.pipe p.val).st = .scanout then sendHdr p.val v else v)
     (livePend u p.val = none → starts u) ∧
     (∀ c, livePend u p.val = some c → c.applied = true → starts (commitEnd p.val c.op c.mark c.late 0 0 (u.onPipe p.val fun x => { x with pend := none }))) ∧
     (∀ c, livePend u p.val = some c → c.applied = false → starts (tryCommit p.val true u))))

/-- While a pipe scans out, a line starts once the boundary and the events of the line before it are done; the screen
line after it is composed, with the rows that the running bands have completed by then, and layers whose data is late
count an underrun; the copies that the status register shows are taken then. Events of a line act in order, each once:
SIGNAL sends the frame and the line's position, SAMPLE_POSE starts a read of the pose, which is torn if its counts
differ, and WARP_BAND starts the next band when its slot is free. The end of a frame's writeback signals the fence that
was in force in that frame, oldest frame first. -/
def Obligations.LinesComposeAndSignal : Prop :=
  (∀ (p : Fin 4) (late : List LateSpan) (io : HostIO) (s : State),
    let z := applyIO io s
    let x := z.pipe p.val
    let vt := fld x.rec' 10 2
    let va := fld x.rec' 8 2
    let ready := x.st = .scanout ∧ z.isPinned (0x6C + p.val) = false ∧ x.due = false ∧ firedBelow x 16 = true
    let line := (x.line + 1) % vt
    let y := (line + 1) % vt
    let u := z.onPipe p.val fun x => { x with line, fired := [], due := decide (line = va) }
    let ends (v : State) : Prop := exec (.lineCompose p late io) s = .next (metaLog (copySts p.val (v.onPipe p.val startBands)))
    (¬ ready → exec (.lineCompose p late io) s = .next (metaLog z)) ∧
    (ready → va ≤ y → ends u) ∧
    (ready → y < va → ends (composeLine p.val y late (bandsRun p.val u))) ∧
    (ready → y < va → byZ (u.pipe p.val) = [] → externalConn u p.val = false → warpLayer (u.pipe p.val).rec' = none → late = [] →
      bit (fld (u.pipe p.val).rec' 22 1) 1 = false → bit (fld (u.pipe p.val).rec' 22 1) 2 = false → ends (u.onPipe p.val fun x => { x with out := [] }))) ∧
  (∀ (p : Nat) (s : State),
    copySts p s = s.onPipe p (fun x => { x with shown := stsNow s p }) ∧
    (let x := s.pipe p
     let conn := dspConn s p
     stsNow s p = (if s.isPinned (0x6C + p) = true then 3 else if x.st = .off then 0 else if x.st = .modeset then 1 else 2)
       + (if conn < 4 then 4 * tblGet 0 s.dsp.hpd conn else 0) + (if livePend s p = none then 0 else 8)
       + (if x.st ≠ .off ∧ ∃ l, warpLayer x.rec' = some l ∧ lOn (layerRec x l) = true then 16 else 0)) ∧
    (∀ es : List Edge, signalAll es s = if es = [] then s else es.foldl (fun s e => sendFence e.key e.alloc (.inl e.value) s) (wcFlushAll s))) ∧
  (∀ (p : Fin 4) (k : Fin 16) (s : State),
    let x := s.pipe p.val
    let e := event x.table k.val
    let acts (kind : Nat) := x.st = .scanout ∧ s.isPinned (0x6C + p.val) = false ∧ x.due = false ∧ fld e 6 1 = kind ∧
      firesOn x k.val x.line = true ∧ k.val ∉ x.fired ∧ firedBelow x k.val = true
    let u := s.onPipe p.val fun x => { x with fired := x.fired ++ [k.val] }
    (¬ acts 1 → exec (.lineSignal p k) s = .next s) ∧
    (acts 1 → x.events.getD k.val none = none → exec (.lineSignal p k) s = .next u) ∧
    (∀ f, acts 1 → x.events.getD k.val none = some f → exec (.lineSignal p k) s = .next (signalAll
      [{ f with value := x.frame * 65536 + q64 ((x.line + fld x.rec' 10 2 - fld x.rec' 8 2) % fld x.rec' 10 2) }] u)) ∧
    (¬ acts 2 → exec (.samplePose p k) s = .next s) ∧
    (acts 2 → exec (.samplePose p k) s = .next (u.onPipe p.val fun x => { x with poseReads := x.poseReads ++ [(x.ctx, fld x.rec' 80 8)] })) ∧
    (¬ acts 3 → exec (.warpBand p k) s = .next s) ∧
    (acts 3 → exec (.warpBand p k) s = .next (u.onPipe p.val fun x => match warpLayer x.rec' with
      | none => x
      | some l =>
        let r := layerRec x l
        let n := x.bandsFired
        let rest := x.bands.filter fun b => b.n + 2 ≠ n
        if lOn r = false ∨ (lDstH r + 63) / 64 ≤ n then { x with bandsFired := n + 1 }
        else if slotFree { x with bandsFired := n + 1 } r n = true then
          { x with bandsFired := n + 1, bands := rest ++ [{ n, pose := x.pose, waits := false, rows := [], done := false }] }
        else { x with bandsFired := n + 1, bands := x.bands ++ [{ n, pose := [], waits := true, rows := [], done := false }] }))) ∧
  (∀ (p : Fin 4) (io : HostIO) (s : State),
    let z := applyIO io s
    let x := z.pipe p.val
    let runs := x.st = .scanout ∧ z.isPinned (0x6C + p.val) = false
    (x.poseReads = [] ∨ ¬ runs → exec (.poseReadDone p io) s = .next z) ∧
    (∀ ctx va rest, x.poseReads = (ctx, va) :: rest → runs →
      let read := vaRead (0x6C + p.val) ctx va 64 .read z
      let torn (v : State) : State := v.onPipe p.val fun x => { x with poseReads := rest, poseTorn := min 255 (x.poseTorn + 1) }
      (∀ b v, read = .ok b v →
        (fld b 0 8 ≠ fld b 56 8 → exec (.poseReadDone p io) s = .next (torn v)) ∧
        (fld b 0 8 = fld b 56 8 → exec (.poseReadDone p io) s = .next (v.onPipe p.val fun x => { x with
          poseReads := rest, pose := (List.range 9).map fun i => w32 (fld b (8 + 4 * i) 4) }))) ∧
      (∀ f v, read = .fault f v → exec (.poseReadDone p io) s = .next (torn (masterFault f (0x6C + p.val) ctx va .read (dspRing v p.val) (v.pipe p.val).seq v))) ∧
      (∀ v, read = .severed v → exec (.poseReadDone p io) s = .next (torn v)) ∧
      (∀ v, read = .wait v → exec (.poseReadDone p io) s = .next z)) ∧
    (∀ l b, warpLayer x.rec' = some l → x.bands.find? (fun b => !b.waits && !b.done) = some b →
      let lay := (x.layers[l]?).getD Layer.off
      let n := min 64 (lDstH lay.rec' - 64 * b.n)
      (¬ runs ∨ lay.faulted = true → exec (.warpBandDone p io) s = .next z) ∧
      (runs → lay.faulted = false → exec (.warpBandDone p io) s = .next ((bandTo p.val l n b z).onPipe p.val fun x => { x with
        bands := mapIf (fun y => decide (y.n = b.n) && decide (n ≤ y.rows.length)) (fun y => { y with done := true }) x.bands }))) ∧
    ((warpLayer x.rec' = none ∨ x.bands.find? (fun b => !b.waits && !b.done) = none) → exec (.warpBandDone p io) s = .next z)) ∧
  (∀ (p : Fin 4) (l k : Nat) (b : Band) (s : State),
    let x := s.pipe p.val
    let lay := (x.layers[l]?).getD Layer.off
    let todo := (upTo k).drop b.rows.length
    let ftz := (s.ctx x.ctx).ftz
    let warped := trMap todo (fun i s => trMap (upTo (lDstW lay.rec')) (fun c s =>
      warpPx (0x6C + p.val) x.ctx ftz lay.rec' lay.tabs b.pose c (64 * b.n + i) s) s) s
    (∀ rows v, warped = .ok rows v → ((rows.any fun row => row.any (·.2)) = false ∨ externalConn v p.val = false) →
      bandTo p.val l k b s = v.onPipe p.val fun x => { x with
        bands := mapIf (fun y => y.n = b.n) (fun y => { y with rows := b.rows ++ rows.map fun row => row.map (·.1) }) x.bands })) ∧
  (∀ (p : Fin 4) (s : State),
    let x := s.pipe p.val
    (x.wbPend = [] ∨ s.isPinned (0x6C + p.val) = true → exec (.writebackDone p) s = .next s) ∧
    (∀ f e rest, x.wbPend = (f, e) :: rest → s.isPinned (0x6C + p.val) = false →
      exec (.writebackDone p) s = .next (signalAll [{ e with value := f }] (s.onPipe p.val fun x => { x with wbPend := rest }))))

/-- A compression job is checked, waits, and goes to a free channel in priority order, among rings of one priority as an
open value says. At its end its source is packed or unpacked up to its end or to what stops it, the output is written in
order, the completion record is written after it, and the op ends with OK, with DST_FULL, with the stream's own error,
or as its fault or its severed link says; a job one of whose requests must wait does not end. -/
def Obligations.CompressionJobsRun : Prop :=
  (∀ (o : OpRef) (s : State) (e : Entry) (q : Op), s.op? o = some (e, q) →
    let ends (t : State) : Prop := exec (.cmpJob o) s = .next t
    let u : State := { s with cmp := { s.cmp with queue := s.cmp.queue ++ [o] } }
    (q.phase ≠ .running ∨ q.opcode ≠ 0x40 ∨ q.ending ≠ none → ends s) ∧
    (q.phase = .running → q.opcode = 0x40 → q.ending = none → ctxRuns s e.ctx = true →
      (cmpQueued s o = true → ends s) ∧
      (cmpQueued s o = false →
        (jobReserved q.body = true → ends (endOp o 0x01 0 0 s)) ∧
        (jobReserved q.body = false → jobBad q.body = true → ends (endOp o 0x0B dcJob 0 s)) ∧
        (jobReserved q.body = false → jobBad q.body = false → ends (if awake u then u else wantsExit u))))) ∧
  (∀ b : List Byte, jobBad b = false ↔
    let src := fld b 24 8
    let srcN := fld b 32 8
    let dst := fld b 40 8
    let dstN := fld b 48 8
    fld b 16 1 ≤ 1 ∧ fld b 17 1 ≤ 3 ∧ (fld b 16 1 = 0 → 1 ≤ fld b 18 1 ∧ fld b 18 1 ≤ 12) ∧ (fld b 16 1 = 1 → fld b 18 1 = 0) ∧
    1 ≤ srcN ∧ srcN ≤ 1099511627776 ∧ 1 ≤ dstN ∧ dstN ≤ 1099511627776 ∧ (src + srcN ≤ dst ∨ dst + dstN ≤ src) ∧ fld b 56 8 % 32 = 0) ∧
  (∀ (ch : Fin 4) (s : State),
    let z := cmpSweep s
    (cmpFree z ch.val = false → exec (.cmpJobStart ch) s = .next z) ∧
    (cmpFree z ch.val = true → z.cmp.queue = [] → exec (.cmpJobStart ch) s = .next { z with free := z.free + 1 }) ∧
    (∀ o y, cmpFree z ch.val = true → nextJob z = (some o, y) →
      y = { z with free := z.free + 1 } ∧ exec (.cmpJobStart ch) s = .next (({ y with
        cmp := { y.cmp with queue := y.cmp.queue.filter fun x => x ≠ o, runs := y.cmp.runs ++ [(ch.val, o)] }
        pwr := { y.pwr with gated := y.pwr.gated.filter fun u => u ≠ 76 + ch.val } } : State).onOp o fun p => { p with units := [0x68 + ch.val] })) ∧
    (∀ o y, nextJob z = (some o, y) → o ∈ z.cmp.queue ∧ (∀ x ∈ z.cmp.queue, (z.ring x.ring.val).prio ≤ (z.ring o.ring.val).prio) ∧
      z.cmp.queue.find? (fun x => x.ring = o.ring) = some o) ∧
    (z.cmp.queue ≠ [] → ∃ o y, nextJob z = (some o, y))) ∧
  (∀ (ch : Fin 4) (io : HostIO) (s : State),
    let z := cmpSweep (applyIO io s)
    let m := 0x68 + ch.val
    (z.isPinned m = true ∨ (∀ r ∈ z.cmp.runs, r.1 ≠ ch.val) → exec (.cmpJobDone ch io) s = .next (metaLog z)) ∧
    (∀ o e q, (z.cmp.runs.find? fun r => r.1 = ch.val) = some (ch.val, o) → z.op? o = some (e, q) → z.isPinned m = false →
      let b := q.body
      let closes (j : JobEnd) (u : State) : Prop := exec (.cmpJobDone ch io) s = .next (metaLog ((jobClose o m e.ctx (fld b 56 8) j u).getD z))
      let stops (j : JobEnd) (stop : Stop) (acc : Access) (u : State) : Prop :=
        exec (.cmpJobDone ch io) s = .next (metaLog ((jobEnd o m e.ctx (fld b 56 8) j stop acc u).getD z))
      let stays : Prop := exec (.cmpJobDone ch io) s = .next (metaLog z)
      let calm (x : Stop) : Prop := ∀ w va, x ≠ some (.wait w, va)
      ∀ src sstop u, readUpTo m e.ctx (fld b 24 8) (fld b 32 8) none z = (src, sstop, u) →
        (fld b 16 1 = 0 →
          let out := pack (fld b 17 1) (fld b 18 1) (fld b 32 8) src
          ∀ n wstop v, writeUpTo m e.ctx (fld b 40 8) (out.take (fld b 48 8)) none u = (n, wstop, v) →
            let open' := v.fresh.1.toNat % (src.length + 1)
            let j (used fault st d : Nat) : JobEnd := { used, written := n, fault, check := jobCheck (fld b 17 1) (src.take used), bit := 0, status := st, detail := d }
            (sstop = none → wstop = none → out.length ≤ fld b 48 8 → closes (j src.length noOffset 0 0) v) ∧
            (calm sstop → wstop = none → fld b 48 8 < out.length → closes (j open' noOffset 0x0B dcFull) { v with free := v.free + 1 }) ∧
            (calm sstop → sstop ≠ none → wstop = none → out.length ≤ fld b 48 8 → stops (j src.length src.length 0x07 0) sstop .read v) ∧
            (calm sstop → calm wstop → wstop ≠ none → stops (j open' open' 0x07 0) wstop .write { v with free := v.free + 1 }) ∧
            (¬ calm sstop ∨ ¬ calm wstop → stays)) ∧
        (fld b 16 1 ≠ 0 →
          let r := unpack (fld b 17 1) (fld b 48 8) src sstop.isSome
          let bit' (pos : Nat) : Nat := if fld b 17 1 = 3 then 0 else pos % 8
          let j (d : Dec) (pos fault bt st code : Nat) : JobEnd :=
            { used := pos / 8, written := d.out.length, fault, check := jobCheck (fld b 17 1) d.out, bit := bt, status := st, detail := code }
          ∀ d n wstop v, (r = .ok d ∨ ∃ code pos, r = .fail d code pos) → writeUpTo m e.ctx (fld b 40 8) d.out none u = (n, wstop, v) →
            (r = .ok d → calm sstop → wstop = none → closes (j d d.pos noOffset 0 0 0) v) ∧
            (∀ code pos, r = .fail d code pos → calm sstop → (code ≠ dcTrunc ∨ sstop = none) → wstop = none → closes (j d pos (pos / 8) (bit' pos) 0x0B code) v) ∧
            (∀ pos, r = .fail d dcTrunc pos → calm sstop → sstop ≠ none → wstop = none → stops (j d pos (pos / 8) (bit' pos) 0x07 0) sstop .read v) ∧
            (calm sstop → calm wstop → wstop ≠ none →
              let len := (markAt d n).1
              let pos := (markAt d n).2
              stops { used := pos / 8, written := len, fault := pos / 8, check := jobCheck (fld b 17 1) (d.out.take len), bit := bit' pos, status := 0x07, detail := 0 } wstop .write
                (writeUpTo m e.ctx (fld b 40 8) (d.out.take len) none u).2.2) ∧
            (¬ calm sstop ∨ ¬ calm wstop → stays)))) ∧
  (∀ (o : OpRef) (m ctx va : Nat) (j : JobEnd) (u : State),
    let gone (v : State) : State := { v with cmp := { v.cmp with runs := v.cmp.runs.filter fun r => r.2 ≠ o } }
    let closed (v : State) : State := gone (endOp o j.status j.detail 0 v)
    let write := vaWrite m ctx va j.bytes u
    (va = 0 → jobClose o m ctx va j u = some (closed u)) ∧
    (va ≠ 0 → ∀ v,
      (write = .ok () v ∨ write = .severed v → jobClose o m ctx va j u = some (closed v)) ∧
      (∀ f, write = .fault f v → jobClose o m ctx va j u = some (masterFault f m ctx va .write o.ring.val o.seq (closed v))) ∧
      (write = .wait v → jobClose o m ctx va j u = none)) ∧
    (∀ f w at' acc,
      let v := masterFault f m ctx at' acc o.ring.val o.seq u
      let k : JobEnd := if f.bar then { j with status := 0x0B, detail := 3 } else { j with status := 0x07, detail := f.code.num }
      (v.isPinned m = true → jobEnd o m ctx va j (some (.fault f w, at')) acc u = some (gone (endOp o k.status k.detail 0 v))) ∧
      (v.isPinned m = false → jobEnd o m ctx va j (some (.fault f w, at')) acc u = jobClose o m ctx va k v)) ∧
    (∀ w at' acc, jobEnd o m ctx va j (some (.severed w, at')) acc u = jobClose o m ctx va { j with status := 0x0D, detail := 0 } u) ∧
    j.bytes.length = 32)

/-- Pins, lifecycle and the security configuration. PIN and RELEASE of SEC_PIN_CMD act under an unlock, on a master
that is not pinned, or is; a release ends with the master's storage clear, which clears the whole cluster where a failed
clear had pinned it; a clear that fails leaves the unit unreleased.
SECURED is entered from PROVISIONED alone and never by a TX9640-X, and RMA after an accepted token, both burned for the next reset; SEC_CFG
keeps its fields in SECURED and while a context lives. A source that fails its health test stops refills of the key
reserve, and a debug level ends at its time. -/
def Obligations.SecurityCommands : Prop :=
  (∀ (fn : Fn) (v : Word) (t : Nat) (s : State), fn.val ≠ 0 →
    (quiet (advanceTo t s) fn.val → exec (.secPin fn v t) s = .next (advanceTo t s)) ∧
    (quiet s fn.val → exec (.secRelease fn v) s = .next s ∧ exec (.lcSecured fn v) s = .next s ∧
      exec (.lcRma fn v) s = .next s ∧ exec (.secCfgWrite fn v) s = .next s)) ∧
  (∀ (v : Word) (t : Nat) (s0 : State),
    let off := 0x050040
    let m := v.toNat % 256
    let stored (bits : Word) (s : State) : State :=
      (if (s.raw 0 off &&& 0x300) ≠ bits then setUnlock .sec 0 0 s else s).setRaw 0 off ((s.raw 0 off &&& 0xFFFFFC00) ||| (v &&& 0xFF))
    let res (r : Nat) (u : State) : State := { u with sec := { u.sec with pinRes := r } }
    let passes (bits : Word) (s : State) : Prop := (s.raw 0 off &&& 0x300) ≠ bits → unlocked s .sec 0 = true
    let s := advanceTo t s0
    (quiet s 0 →
      (¬ passes 0x200 s → exec (.secPin 0 v t) s0 = .next (setDenied .sec 0 1 s)) ∧
      (passes 0x200 s → s.sec.pinBusy ≠ none → exec (.secPin 0 v t) s0 = .next (stored 0x200 s)) ∧
      (passes 0x200 s → s.sec.pinBusy = none →
        (m < 0x72 → s.isPinned m = false → exec (.secPin 0 v t) s0 = .next (res 0 (pinMaster m 7 0 0 0 (stored 0x200 s)))) ∧
        (0x72 ≤ m ∨ s.isPinned m = true → exec (.secPin 0 v t) s0 = .next (res 3 (stored 0x200 s))))) ∧
    (quiet s0 0 →
      (¬ passes 0x100 s0 → exec (.secRelease 0 v) s0 = .next (setDenied .sec 0 1 s0)) ∧
      (passes 0x100 s0 → s0.sec.pinBusy ≠ none → exec (.secRelease 0 v) s0 = .next (stored 0x100 s0)) ∧
      (passes 0x100 s0 → s0.sec.pinBusy = none →
        (m < 0x72 → s0.isPinned m = true → exec (.secRelease 0 v) s0 = .next (let u := stored 0x100 s0
          { u with sec := { u.sec with pinBusy := some m, pinRes := 0 } })) ∧
        (m < 0x72 → s0.isPinned m = false → s0.sec.logged.contains m = true → exec (.secRelease 0 v) s0 = .next (res 0 (unpinMaster m (stored 0x100 s0)))) ∧
        (0x72 ≤ m ∨ (s0.isPinned m = false ∧ s0.sec.logged.contains m = false) → exec (.secRelease 0 v) s0 = .next (res 3 (stored 0x100 s0)))))) ∧
  (∀ (m : MasterId) (r : ClearResult) (s : State),
    (s.sec.pinBusy ≠ some m.val → exec (.secReleaseDone m r) s = .next s) ∧
    (s.sec.pinBusy = some m.val →
      let ends (t : State) : Prop := exec (.secReleaseDone m r) s = .next t
      let freed (ms : List Nat) : State := { s with sec := { s.sec with
        pinBusy := none, pinned := s.sec.pinned.filter fun x => !ms.contains x, logged := s.sec.logged.filter fun x => !ms.contains x } }
      let u := freed [m.val]
      let whole (c : Nat) : State := freed ((clusterMasters c).filter (clearPinned s))
      (m.val < 0x6C ∨ 0x70 ≤ m.val → 0x68 ≤ m.val → ends u) ∧
      (0x6C ≤ m.val → m.val < 0x70 → ends (u.onPipe (m.val - 0x6C) fun x => { pipeOff x with pend := none, wbPend := [] })) ∧
      (0x48 ≤ m.val → m.val < 0x68 → clearPinned s m.val = false → ends u) ∧
      (∀ k : Fin 64, m.val = k.val → clearPinned s m.val = false →
        (r = .pass → ends (wakeClear (.core k) u)) ∧
        (r ≠ .pass → ends (clearFailed (k.val / 8) r (u.setPower (8 + k.val) .failed)))) ∧
      (0x40 ≤ m.val → m.val < 0x48 → clearPinned s m.val = false → (r = .pass → ends u) ∧ (r ≠ .pass → ends (clearFailed (m.val - 0x40) r u))) ∧
      (∀ c, masterCluster m.val = some c → clearPinned s m.val = true →
        (r = .pass → ends (clusterOn c (clusterClear c (whole c)))) ∧ (r ≠ .pass → ends (clearFailed c r (whole c)))))) ∧
  (∀ (c : Fin 8) (s : State), clusterClear c.val s =
    (upTo 8).foldl (fun s i => if h : 8 * c.val + i < 64 then wakeClear (.core ⟨8 * c.val + i, h⟩) s else s) (wakeClear (.cluster c) s)) ∧
  (∀ (v : Word) (s : State), quiet s 0 →
    let off := 0x050004
    let old := s.raw 0 off
    let turn (bits : Word) : State := if (old &&& 3) ≠ bits then setUnlock .sec 0 0 s else s
    let kept (bits : Word) : State := (turn bits).setRaw 0 off (old &&& ~~~(v &&& 0x80000000))
    let no (bits : Word) : State := (kept bits).setRaw 0 off ((old &&& ~~~(v &&& 0x80000000)) ||| 0x80000000)
    let burn (n : Nat) (u : State) : State := { u with sec := { u.sec with lcBurn := some n } }
    ((old &&& 3) ≠ 2 → unlocked s .sec 0 = false → exec (.lcSecured 0 v) s = .next (setDenied .sec 0 1 s)) ∧
    ((old &&& 3) ≠ 3 → unlocked s .sec 0 = false → exec (.lcRma 0 v) s = .next (setDenied .sec 0 1 s)) ∧
    (((old &&& 3) ≠ 2 → unlocked s .sec 0 = true) →
      exec (.lcSecured 0 v) s = .next (if fusedLc s = 1 ∧ Config.eng = false then burn 2 (kept 2) else no 2)) ∧
    (((old &&& 3) ≠ 3 → unlocked s .sec 0 = true) →
      exec (.lcRma 0 v) s = .next (if fusedLc s ≠ 3 ∧ s.sec.rmaOk = true then burn 3 (kept 3) else no 3)) ∧
    (let off := 0x050008
     let old := s.raw 0 off
     let new := (old &&& 0xFFFFFFF0) ||| (v &&& 0xF)
     let live := ∃ e ∈ s.mmu.ctxs, e.1 ≠ 0 ∧ e.2.state ≠ .free
     let u := setUnlock .sec 0 0 s
     ((new &&& 0xF) = (old &&& 0xF) → exec (.secCfgWrite 0 v) s = .next (s.setRaw 0 off (new &&& ~~~(v &&& 0x80000000)))) ∧
     ((new &&& 0xF) ≠ (old &&& 0xF) → unlocked s .sec 0 = false → exec (.secCfgWrite 0 v) s = .next (setDenied .sec 0 1 s)) ∧
     ((new &&& 0xF) ≠ (old &&& 0xF) → unlocked s .sec 0 = true → (lifecycle s = 2 ∨ live) →
       exec (.secCfgWrite 0 v) s = .next (u.setRaw 0 off ((old &&& ~~~(v &&& 0x80000000)) ||| 0x80000000))) ∧
     ((new &&& 0xF) ≠ (old &&& 0xF) → unlocked s .sec 0 = true → ¬ (lifecycle s = 2 ∨ live) →
       exec (.secCfgWrite 0 v) s = .next (u.setRaw 0 off (new &&& ~~~(v &&& 0x80000000)))))) ∧
  (∀ (s : State) (test : Nat), logsPlainly s 0x83 5 →
    exec (.entropyFail test) s = .next (withLog 0x50 5 0x83 0 test 0 { s with mmu := { s.mmu with entropy := false } })) ∧
  (∀ (s : State) (eq : Bool),
    exec (.keyReserveRefill eq) s = .next (if s.mmu.entropy = true ∧ s.mmu.reserve < 64 ∧ eq = false then
      { s with mmu := { s.mmu with reserve := s.mmu.reserve + 1 } } else s)) ∧
  (∀ (s0 : State) (t : Nat),
    let s := advanceTo t s0
    exec (.debugTokenExpiry t) s0 = .next (if s.sec.debug ≠ 0 ∧ s.sec.debugEnd ≤ s.time then { s with sec := { s.sec with debug := 0 } } else s))

/-- SPDM over DOE. While the link is down or the SEC block is halted a request waits. GET_VERSION starts the
connection, capabilities and algorithms follow in that order, and every other request before them answers
UnexpectedRequest. Certificates, challenges and measurements are of slot 0; at most two sessions stand, opened by
FINISH; a request in a session that is not open, or not there, is an error. -/
def Obligations.SpdmRequestsAreAnswered : Prop :=
  ∀ s : State,
    let say (r : SpdmReply) (u : State) : State := { u with sec := { u.sec with replies := u.sec.replies ++ [r] } }
    let late (i : Instr) := (∃ a b c, i = .spdmGetCertificate a b c) ∨ (∃ a b, i = .spdmChallenge a b) ∨ (∃ a b c, i = .spdmGetMeasurements a b c) ∨
      (∃ a, i = .spdmKeyExchange a) ∨ (∃ a b, i = .spdmFinish a b) ∨ (∃ a, i = .spdmHeartbeat a) ∨ (∃ a, i = .spdmKeyUpdate a) ∨
      (∃ a, i = .spdmEndSession a) ∨ (∃ a b, i = .ideKm a b) ∨ i = .spdmGetDigests
    let early (i : Instr) := i = .spdmGetVersion ∨ i = .spdmGetCapabilities ∨ (∃ b, i = .spdmNegotiateAlgorithms b) ∨ (∃ c, i = .spdmUnsupported c) ∨ (∃ n, i = .doeDiscovery n)
    (s.boot.link = false ∨ s.halted .sec = true → ∀ i, late i ∨ early i → exec i s = .next s) ∧
    (∀ (s0 : State) (ss : Option Nat) (msg : VendorMsg) (t : Nat), s = advanceTo t s0 →
      (s.boot.link = false ∨ s.halted .sec = true → exec (.spdmVendorDefined ss msg t) s0 = .next s) ∧
      (s.boot.link = true → s.halted .sec = false → s.sec.spdm < 3 → exec (.spdmVendorDefined ss msg t) s0 = .next (say (.error 4) s))) ∧
    (s.boot.link = true → s.halted .sec = false →
      (exec .spdmGetVersion s = .next (say .version { s with sec := { s.sec with spdm := 1, sessions := [] } })) ∧
      (exec .spdmGetCapabilities s = .next (if s.sec.spdm = 1 then say .capabilities { s with sec := { s.sec with spdm := 2 } } else say (.error 4) s)) ∧
      (∀ set, exec (.spdmNegotiateAlgorithms set) s = .next (if s.sec.spdm ≠ 2 then say (.error 4) s
        else if set then say .algorithms { s with sec := { s.sec with spdm := 3 } } else say (.error 1) s)) ∧
      (∀ c, exec (.spdmUnsupported c) s = .next (say (.error 7) s)) ∧
      (exec (.doeDiscovery 0) s = .next (say (.doeProtocol 0 1) s)) ∧ (exec (.doeDiscovery 1) s = .next (say (.doeProtocol 1 2) s)) ∧
      (exec (.doeDiscovery 2) s = .next (say (.doeProtocol 2 0) s)) ∧ (∀ n, 3 ≤ n → exec (.doeDiscovery n) s = .next (say (.doeProtocol 0xFF 0) s)) ∧
      (s.sec.spdm < 3 → ∀ i, late i → exec i s = .next (say (.error 4) s)) ∧
      (3 ≤ s.sec.spdm →
        let chain := Config.certChain s.boot.boots
        let hash := Config.sha384 chain
        let n := Config.nonceBytes s.sec.nonces
        let u : State := { s with sec := { s.sec with nonces := s.sec.nonces + 1 } }
        let of (id : Nat) := s.sec.sessions.find? fun x => x.id = id
        let each (id : Nat) (f : Session → Session) : State := { s with sec := { s.sec with sessions := s.sec.sessions.map fun x => if x.id = id then f x else x } }
        let without (id : Nat) : State := { s with sec := { s.sec with sessions := s.sec.sessions.filter fun x => x.id ≠ id } }
        exec .spdmGetDigests s = .next (say (.digests hash) s) ∧
        (∀ slot off len, exec (.spdmGetCertificate slot off len) s = .next (
          if slot ≠ 0 ∨ chain.length ≤ off then say (.error 1) s
          else say (.certificate ((chain.drop off).take len) (chain.length - off - ((chain.drop off).take len).length)) s)) ∧
        (∀ slot nonce, slot ≠ 0 → exec (.spdmChallenge slot nonce) s = .next (say (.error 1) s)) ∧
        (∀ nonce, ∃ summary, summary = Config.sha384 (measurement s 1 ++ measurement s 2 ++ measurement s 3 ++ measurement s 4 ++ measurement s 5 ++ measurement s 6) ∧
          exec (.spdmChallenge 0 nonce) s = .next (say (.challengeAuth hash summary n (Config.aliasSign s.boot.boots (hash ++ nonce ++ n ++ summary))) u)) ∧
        (∀ i sig nonce, (7 ≤ i → i ≠ 255 → exec (.spdmGetMeasurements i sig nonce) s = .next (say (.error 1) s)) ∧
          (1 ≤ i → i ≤ 6 → exec (.spdmGetMeasurements i sig nonce) s = .next (say (.measurements 6 [(i, measurement s i)]
            (if sig then Config.aliasSign s.boot.boots (nonce ++ n ++ measurement s i) else [])) u)) ∧
          (i = 0 → exec (.spdmGetMeasurements i sig nonce) s = .next (say (.measurements 6 [] (if sig then Config.aliasSign s.boot.boots (nonce ++ n) else [])) u))) ∧
        (∀ req : BitVec 16, let no := (s.sec.sessionNo + 1) % 65536
          let id := no * 65536 + req.toNat
          exec (.spdmKeyExchange req) s = .next (if 2 ≤ s.sec.sessions.length then say (.error 10) s
            else say (.keyExchange id (Config.aliasSign s.boot.boots (natLe 4 id)))
              { s with sec := { s.sec with sessions := s.sec.sessions ++ [{ id, open' := false, keys := 0 }], sessionNo := no } })) ∧
        (∀ id ok, (of id = none → exec (.spdmFinish id ok) s = .next (say (.error 2) s)) ∧
          (∀ x, of id = some x → exec (.spdmFinish id ok) s = .next (
            if x.open' then say (.error 4) s
            else if ok then say .finish (each id fun x => { x with open' := true }) else say (.error 6) (without id)))) ∧
        (∀ id, (of id = none → exec (.spdmHeartbeat id) s = .next (say (.error 2) s) ∧ exec (.spdmKeyUpdate id) s = .next (say (.error 2) s) ∧
            exec (.spdmEndSession id) s = .next (say (.error 2) s) ∧ ∀ msg, exec (.ideKm id msg) s = .next (say (.error 11) s)) ∧
          (∀ x, of id = some x → x.open' = false → exec (.spdmHeartbeat id) s = .next (say (.error 4) s) ∧ exec (.spdmKeyUpdate id) s = .next (say (.error 4) s) ∧
            exec (.spdmEndSession id) s = .next (say (.error 4) s) ∧ ∀ msg, exec (.ideKm id msg) s = .next (say (.error 4) s)) ∧
          (∀ x, of id = some x → x.open' = true → exec (.spdmHeartbeat id) s = .next (say .heartbeat s) ∧
            exec (.spdmKeyUpdate id) s = .next (say .keyUpdate (each id fun x => { x with keys := x.keys + 1 })) ∧
            exec (.spdmEndSession id) s = .next (say .endSession (without id)) ∧
            (let st (k : Fin 9) (y : IdeStream) : State := { s with sec := { s.sec with ide := tblSet IdeStream.none' s.sec.ide k.val y } }
             let now (k : Fin 9) := tblGet IdeStream.none' s.sec.ide k.val
             (∀ k, exec (.ideKm id (.keyProg k)) s = .next (say (.ideKm true) (st k { now k with keyed := true }))) ∧
             (∀ k, exec (.ideKm id (.keySetGo k)) s = .next (if (now k).keyed then say (.ideKm true) (st k { now k with secure := true }) else say (.ideKm false) s)) ∧
             (∀ k, exec (.ideKm id (.keySetStop k)) s = .next (say (.ideKm true) (st k { keyed := false, secure := false }))) ∧
             (exec (.ideKm id .query) s = .next (say (.ideKm true) s))))) ∧
        (∀ (s0 : State) (ss : Option Nat) (t : Nat), s = advanceTo t s0 →
          let ends (msg : VendorMsg) (w : State) : Prop := exec (.spdmVendorDefined ss msg t) s0 = .next w
          let spent : State := { s with sec := { s.sec with nonce := none } }
          let logged (b : List Byte) : State := logError 0x51 0x83 0 (fld b 5 1) (fld b 6 2) false { s with sec := { s.sec with
            nonce := none, debugLog := Config.sha384 (s.sec.debugLog ++ Config.sha384 b), tokens := true } }
          (∀ id msg, ss = some id → of id = none → ends msg (say (.error 2) s)) ∧
          (∀ id x msg, ss = some id → of id = some x → x.open' = false → ends msg (say (.error 4) s)) ∧
          ((ss = none ∨ ∃ id x, ss = some id ∧ of id = some x ∧ x.open' = true) →
            ends .nonce (say (.vendor n) { u with sec := { u.sec with nonce := some (n, s.time) } }) ∧
            (∀ v, ends (.other v) (say (.error 7) s)) ∧
            (∀ b,
              let lvl := fld b 5 1
              let raised (w : State) : State := say (.vendor []) { w with sec := { w.sec with debug := lvl, debugEnd := w.time + fld b 6 2 * 1000000000 } }
              (tokenOk s b = false → ends (.token b) (say (.error 1) spent)) ∧
              (tokenOk s b = true → lvl ≠ 0x80 → lvl < s.sec.debug → ends (.token b) (say (.vendor []) spent)) ∧
              (tokenOk s b = true → lvl = 0x80 → ends (.token b) (say (.vendor []) (let w := logged b
                { w with sec := { w.sec with rmaOk := true } }))) ∧
              (tokenOk s b = true → lvl ≠ 0x80 → s.sec.debug ≤ lvl →
                (lifecycle (logged b) ≠ 2 → ends (.token b) (say (.vendor []) (logged b))) ∧
                (lifecycle (logged b) = 2 → lvl = 3 → ends (.token b) (raised (abortAll (fun _ => true) .deviceLost (logged b)))) ∧
                (lifecycle (logged b) = 2 → lvl ≠ 3 → ends (.token b) (raised (logged b)))))))))

/-- TDISP messages are for virtual functions. LOCK needs an UNLOCKED TDI and a secure stream, START a LOCKED one; STOP
aborts the function's contexts and unlocks. A stream that fails its integrity check is insecure, and the locked TDIs
on it enter ERROR. A function-level reset aborts the function's contexts, disables its rings, ends its fences and
returns its own registers to their reset values; the physical function has none. -/
def Obligations.TdisFollowTheirStates : Prop :=
  (∀ (f : Fn) (s : State),
    let say (r : SpdmReply) (u : State) : State := { u with sec := { u.sec with replies := u.sec.replies ++ [r] } }
    let x := tblGet Tdi.none' s.sec.tdi f.val
    let put (y : Tdi) (u : State) : State := { u with sec := { u.sec with tdi := tblSet Tdi.none' u.sec.tdi f.val y } }
    let mine (i : Instr) := (∃ k, i = .tdiLock f k) ∨ i = .tdiStart f ∨ i = .tdiStop f ∨ i = .tdiGetReport f ∨ i = .tdiGetState f ∨ i = .tdispGetVersion f
    (s.boot.link = false ∨ s.halted .sec = true → ∀ i, mine i → exec i s = .next s) ∧
    (s.boot.link = true → s.halted .sec = false → f.val = 0 → ∀ i, mine i → exec i s = .next (say .tdiError s)) ∧
    (s.boot.link = true → s.halted .sec = false → f.val ≠ 0 →
      exec (.tdispGetVersion f) s = .next (say .tdispVersion s) ∧
      exec (.tdiGetState f) s = .next (say (.tdiState (match x.st with
        | .unlocked => 0 | .locked => 1 | .run => 2 | .error => 3)) s) ∧
      exec (.tdiGetReport f) s = .next (if x.st = .locked ∨ x.st = .run then say (.tdiReport (tdiReport s f.val)) s else say .tdiError s) ∧
      (∀ k : Option (Fin 9), exec (.tdiLock f k) s = .next (
        if x.st = .unlocked ∧ (∀ j, k = some j → (tblGet IdeStream.none' s.sec.ide j.val).secure = true) then
          say .tdiOk (put { st := .locked, stream := k.map (·.val) } s) else say .tdiError s)) ∧
      exec (.tdiStart f) s = .next (if x.st = .locked then say .tdiOk (put { x with st := .run } s) else say .tdiError s) ∧
      exec (.tdiStop f) s = .next (say .tdiOk (put Tdi.none' (raiseCritical f.val (abortAll (fnHasCtx s f.val) .deviceLost s)))) ∧
      ((∀ e ∈ s.mmu.ctxs, e.1 = 0 ∨ e.2.state = .free ∨ fnHasCtx s f.val e.1 = false) → abortAll (fnHasCtx s f.val) .deviceLost s = s))) ∧
  (∀ (k : Fin 9) (s : State),
    let x := tblGet IdeStream.none' s.sec.ide k.val
    let u : State := { s with sec := { s.sec with ide := tblSet IdeStream.none' s.sec.ide k.val { x with secure := false } } }
    (x.secure = false → exec (.ideIntegrityFail k) s = .next s) ∧
    (x.secure = true → (∀ f : Fin 64, (tblGet Tdi.none' s.sec.tdi f.val).stream ≠ some k.val) → exec (.ideIntegrityFail k) s = .next u) ∧
    (x.secure = true → exec (.ideIntegrityFail k) s = .next (((upTo 64).filter fun f =>
      decide ((tblGet Tdi.none' s.sec.tdi f).stream = some k.val) && tdiLocked s f).foldl (fun v f => tdiToError f v) u)) ∧
    (∀ f : Fin 64, x.secure = true → (∀ g : Fin 64, (tblGet Tdi.none' s.sec.tdi g.val).stream = some k.val ↔ g = f) →
      ((tblGet Tdi.none' s.sec.tdi f.val).st = .locked ∨ (tblGet Tdi.none' s.sec.tdi f.val).st = .run) →
      exec (.ideIntegrityFail k) s = .next (
        let v : State := { u with sec := { u.sec with tdi := tblSet Tdi.none' u.sec.tdi f.val { tblGet Tdi.none' s.sec.tdi f.val with st := .error } } }
        raiseCritical f.val (abortAll (fnHasCtx s f.val) .deviceLost v)))) ∧
  (∀ (f : Fn) (s : State),
    (f.val = 0 → exec (.vfFlr f) s = .next s) ∧
    (f.val ≠ 0 → exec (.vfFlr f) s = .next (
      let mine := (s.mmu.ctxs.filter fun e => decide (e.1 ≠ 0) && decide (e.2.state ≠ .free) && fnHasCtx s f.val e.1).map (·.1)
      let s1 : State := if tdiLocked s f.val then { s with sec := { s.sec with tdi := tblSet Tdi.none' s.sec.tdi f.val { tblGet Tdi.none' s.sec.tdi f.val with st := .error } } } else s
      let s2 := mine.foldl (fun u n => abortCtx n .deviceLost u) s1
      let s3 : State := { s2 with sec := { s2.sec with flr := s2.sec.flr ++ mine.filter fun n => !s2.sec.flr.contains n } }
      let s4 := mine.foldl (fun u n => autoRelease n u) s3
      let s5 := ((s4.fe.rings.filter fun e => fnHasRing s4 f.val e.1).map (·.1)).foldl (fun u r => u.setRing r Ring.off) s4
      errorHooks (flrRegs f.val (flrFences f.val s5)))) ∧
    flrRegs f.val s = { s with
      reg := { s.reg with
        regs := s.reg.regs.filter fun e => e.1 / 67108864 ≠ f.val
        pba := s.reg.pba.filter fun e => e.1 / 2048 ≠ f.val
        held := s.reg.held.filter fun h => h.1 ≠ f.val }
      fe := { s.fe with results := tblSet 0 s.fe.results f.val 0 }
      fen := { s.fen with results := tblSet 0 s.fen.results f.val 0, evq := tblSet QueueCnt.zero s.fen.evq f.val QueueCnt.zero }
      mmu := { s.mmu with
        results := s.mmu.results.filter fun e => e.1 / 512 ≠ f.val
        invRes := tblSet 0 s.mmu.invRes f.val 0
        inval := s.mmu.inval.filter fun e => e.fn ≠ f.val }
      shd := { s.shd with
        parkq := tblSet QueueCnt.zero s.shd.parkq f.val QueueCnt.zero
        parkRes := tblSet 0 s.shd.parkRes f.val 0
        held := s.shd.held.filter fun h => h.fn ≠ f.val } } ∧
    (s.fen.fences = [] → flrFences f.val s = s) ∧
    (∀ n, ((s.ctx n).state = .retired ∧ n ∈ s.sec.flr →
        autoRelease n s = (let u := s.setCtx n { ctxDefault n with gen := (s.ctx n).gen }
          { u with sec := { u.sec with flr := u.sec.flr.filter fun j => j ≠ n } })) ∧
      ((s.ctx n).state ≠ .retired ∨ n ∉ s.sec.flr → autoRelease n s = s)))

/-- P-levels and their limits. A policy record takes effect whole or not at all, and a failed access of the
controller is logged where it is a violation; a group's change of level moves voltage before frequency going up and
after it going down, each frame acknowledged by its rail, and confirmed within 5 mV; a failure keeps the old voltage
and is logged. A measurement feeds the average, the window and the thermal stages, and lowers or raises one group. -/
def Obligations.LevelsMoveInSteps : Prop :=
  (∀ (fn : Fn) (v : Word) (s : State), quiet s fn.val → exec (.policyApply fn v) s = .next (
    if fn.val ≠ 0 ∨ s.pwr.polBusy = true then s else { s with pwr := { s.pwr with polBusy := true, polRes := 0 } })) ∧
  (∀ (io : HostIO) (s : State),
    let z := applyIO io s
    let ends (r : Nat) (u : State) : State := { u with pwr := { u.pwr with polBusy := false, polRes := r } }
    (s.pwr.polBusy = false ∨ monarchRuns s = false → exec (.policyApplyDone io) s = .next s) ∧
    (s.pwr.polBusy = true → monarchRuns s = true →
      let answers (t : State) : Prop := exec (.policyApplyDone io) s = .next t
      let base := z.rawBase 0 0x030010 0x030014
      let read := devRead base 128 z
      let force (pol : Policy) (u : State) : State :=
        let v : State := { u with pwr := { u.pwr with polBusy := false, polRes := 0, policy := pol } }
        if awake v then limitGoals v else v
      (read = .wait → answers z) ∧
      (read = .failed → answers (ends 4 (noteViolation 0x87 0 base 128 z))) ∧
      (∀ b u, read = .done (b, u) →
        (policyOf b = none → answers (ends 1 u)) ∧
        (∀ pol, policyOf b = some pol → fld b 24 8 = 0 → answers (force { pol with weights := [] } u)) ∧
        (∀ pol, policyOf b = some pol → fld b 24 8 ≠ 0 →
          let table := devRead (fld b 24 8) 512 u
          (table = .wait → answers z) ∧
          (table = .failed → answers (ends 4 (noteViolation 0x87 0 (fld b 24 8) 512 u))) ∧
          (∀ w v, table = .done (w, v) →
            ((∃ x ∈ w, 15 < x.toNat) → answers (ends 1 v)) ∧
            ((∀ x ∈ w, x.toNat ≤ 15) → answers (force { pol with weights := w.map fun x => if x = 0 then 8 else x.toNat } v))))))) ∧
  (∀ b pol, policyOf b = some pol → 45 ≤ pol.sustained ∧ pol.sustained ≤ pol.peak ∧ pol.peak ≤ 210 ∧ pol.sustained ≤ 175 ∧ 240 ≤ pol.tj ∧
    pol.tj ≤ Config.tjMaxQuarter - 20 ∧ 10 ≤ pol.idleGate ∧ pol.order.Nodup ∧ pol.statsVa % 4096 = 0 ∧
    pol.fastest.length = 4 ∧ pol.slowest.length = 4 ∧ ∀ i < 4, pol.fastest.getD i 0 ≤ pol.slowest.getD i 0 ∧ pol.slowest.getD i 0 ≤ 7) ∧
  (∀ (a : AvsAnswer) (s : State),
    (s.pwr.avs = [] → exec (.avsFrameDone a) s = .next s) ∧
    (∀ f rest, s.pwr.avs = f :: rest →
      let g := f.group
      let u : State := { s with pwr := { s.pwr with avs := rest } }
      let carries (lv : Nat) : State := { u with pwr := { u.pwr with volt := u.pwr.volt.set g lv } }
      (∀ lv left mv, a = .ok mv → f.read = false → seqOf s g = .raiseVolt lv left →
        (1 < left → exec (.avsFrameDone a) s = .next (setSeq g (.raiseVolt lv (left - 1)) u)) ∧
        (left ≤ 1 → goalOf s g = lv → exec (.avsFrameDone a) s = .next (setSeq g (.confirm lv (groupRails g)) (carries lv))) ∧
        (left ≤ 1 → goalOf s g ≠ lv → exec (.avsFrameDone a) s = .next (nextStep g (carries lv)))) ∧
      (∀ lv left mv, a = .ok mv → f.read = false → seqOf s g = .lowerVolt lv left →
        (1 < left → exec (.avsFrameDone a) s = .next (setSeq g (.lowerVolt lv (left - 1)) u)) ∧
        (left ≤ 1 → exec (.avsFrameDone a) s = .next (nextStep g (carries lv)))) ∧
      (∀ lv rails mv, a = .ok mv → f.read = true → seqOf s g = .confirm lv rails →
        let near := levelMv lv ≤ mv + 5 ∧ mv ≤ levelMv lv + 5
        let rest := rails.filter fun r => r ≠ f.rail
        (¬ near → exec (.avsFrameDone a) s = .next u) ∧
        (near → rest ≠ [] → exec (.avsFrameDone a) s = .next (setSeq g (.confirm lv rest) u)) ∧
        (near → rest = [] → goalOf s g = lv → exec (.avsFrameDone a) s = .next (setSeq g (.raiseFreq lv) u)) ∧
        (near → rest = [] → goalOf s g ≠ lv → exec (.avsFrameDone a) s = .next (nextStep g u))) ∧
      (∀ left mv, a = .ok mv → f.read = false → seqOf s g = .restore left →
        (1 < left → exec (.avsFrameDone a) s = .next (setSeq g (.restore (left - 1)) u)) ∧
        (left ≤ 1 → exec (.avsFrameDone a) s = .next (nextStep g (carries (plvlOf s g))))) ∧
      (∀ mv, a = .ok mv → f.read = false → (∀ lv left, seqOf s g ≠ .raiseVolt lv left ∧ seqOf s g ≠ .lowerVolt lv left ∧ seqOf s g ≠ .restore left) →
        exec (.avsFrameDone a) s = .next u) ∧
      (∀ mv, a = .ok mv → f.read = true → (∀ lv rails, seqOf s g ≠ .confirm lv rails) → exec (.avsFrameDone a) s = .next u) ∧
      (∀ rails lv, a = .none → seqOf s g = .confirm lv rails → exec (.avsFrameDone a) s = .next (avsFail g f.rail (levelMv lv) u)) ∧
      (a = .none → (∀ lv rails, seqOf s g ≠ .confirm lv rails) → exec (.avsFrameDone a) s = .next (avsFail g f.rail f.mv u)))) ∧
  (∀ (v : VGroup) (s : State),
    let g := match v with
      | .g0 => 0 | .g1 => 1 | .g2 => 2 | .g3 => 3
    let forced (lv : Nat) : State := { s with pwr := { s.pwr with plvl := s.pwr.plvl.set g lv } }
    (∀ lv, seqOf s g = .lowerFreq lv ∨ seqOf s g = .raiseFreq lv → exec (.pllFrequencyMoveDone v) s = .next (nextStep g (forced lv))) ∧
    ((∀ lv, seqOf s g ≠ .lowerFreq lv ∧ seqOf s g ≠ .raiseFreq lv) → exec (.pllFrequencyMoveDone v) s = .next s) ∧
    (∀ lv rails, seqOf s g = .confirm lv rails → exec (.avsConfirmRead v) s = .next { s with pwr := { s.pwr with
      avs := s.pwr.avs ++ (rails.filter fun r => !s.pwr.avs.any fun f => f.read && decide (f.rail = r)).map fun r => { group := g, rail := r, read := true, mv := 0 } } }) ∧
    ((∀ lv rails, seqOf s g ≠ .confirm lv rails) → exec (.avsConfirmRead v) s = .next s) ∧
    (∀ lv r rest, seqOf s g = .confirm lv (r :: rest) → exec (.avsTimeout v) s = .next (avsFail g r (levelMv lv) s)) ∧
    ((∀ lv rails, seqOf s g ≠ .confirm lv rails) → (∀ f ∈ s.pwr.avs, f.group ≠ g) → exec (.avsTimeout v) s = .next s) ∧
    (∀ f, (∀ lv rails, seqOf s g ≠ .confirm lv rails) → (s.pwr.avs.find? fun f => f.group = g) = some f → exec (.avsTimeout v) s = .next (avsFail g f.rail f.mv s)) ∧
    (∀ (rail mv : Nat),
      let u := logError 0x60 0x84 0 rail mv false s
      let w : State := { u with pwr := { u.pwr with avs := u.pwr.avs.filter fun f => f.group ≠ g } }
      (∀ c, ((∃ left, seqOf w g = .raiseVolt c left) ∨ ∃ rails, seqOf w g = .confirm c rails) →
        let back : State := { w with pwr := { w.pwr with goal := w.pwr.goal.set g (if w.pwr.goal.getD g 7 = c then plvlOf w g else w.pwr.goal.getD g 7) } }
        avsFail g rail mv s = setSeq g (.restore (groupRails g).length) (writeVolt g (plvlOf back g) back)) ∧
      ((∀ c left rails, seqOf w g ≠ .raiseVolt c left ∧ seqOf w g ≠ .confirm c rails) →
        let idle := setSeq g .idle w
        avsFail g rail mv s = if goalOf idle g ≠ plvlOf idle g then nextStep g idle else idle))) ∧
  (∀ (m : Measurement) (t : Nat) (s0 : State),
    let s := advanceTo t s0
    (monarchRuns s = false → exec (.powerMeasure m t) s0 = .next s) ∧
    (monarchRuns s = true →
      let p := s.pwr
      let lim := p.policy.sustained * 1000
      let avg := p.avg + m.powerMw - p.avg / 10000
      let calm := if avg * 100 ≤ lim * 10000 * 95 ∧ m.powerMw * 100 ≤ lim * 95 then min 100 (p.calm + 1) else 0
      let measured : State := { s with pwr := { p with
        avg, calm, last := m.powerMw, temps := m.temps
        winSum := if 100 ≤ p.winN then m.powerMw else p.winSum + m.powerMw
        winN := if 100 ≤ p.winN then 1 else p.winN + 1 } }
      let u := match hottest m.temps with
        | some h => thermal h measured
        | none => measured
      let total := u.pwr.winSum + m.powerMw * (100 - u.pwr.winN)
      let peak := u.pwr.policy.peak * 1000 * 100
      let v : State := { u with pwr := { u.pwr with
        throttle := if u.pwr.hot then 7 else if peak < total then min 7 (u.pwr.throttle + 1) else if total < peak then u.pwr.throttle - 1 else u.pwr.throttle } }
      let w := limitGoals v
      exec (.powerMeasure m t) s0 = .next (
        if awake v = false then v else if w.pwr.hot = true then w
        else if (lim * 10000 ≤ avg ∧ lim < m.powerMw) ∨ w.pwr.policy.tj < (hottest m.temps).getD (-1000) then lowerOne w
        else if 100 ≤ w.pwr.calm then raiseOne w else w))) ∧
  (∀ (t : Int) (s : State),
    let tj := Config.tjMaxQuarter
    let info := (w32 (t % 2 ^ 32).toNat).toNat
    let u := if s.pwr.hot then s else logError 0x62 0x84 0 1 info false { s with pwr := { s.pwr with hot := true } }
    let v := if u.err.thermal2 then u else
      abortAll (fun _ => true) .deviceLost (logError 0x62 0x84 0 2 info true { u with err := { u.err with thermal2 := true } })
    let gates (w : State) : State := if w.err.thermal2 then (upTo 8).foldl (fun w c => if clusterIdle w c then gateCluster c w else w) w else w
    (t < tj - 20 → thermal t s = { s with pwr := { s.pwr with hot := false }, err := { s.err with thermal2 := false } }) ∧
    (tj - 20 ≤ t → t ≤ tj → thermal t s = gates s) ∧
    (tj < t → t ≤ tj + 40 → thermal t s = gates u) ∧
    (tj + 40 < t → thermal t s = gates v)) ∧
  (∀ (t : Nat) (s0 : State),
    let s := advanceTo t s0
    let va := s.pwr.policy.statsVa
    let put (off : Nat) (bs : List Byte) (u : State) : State := (devWrite (va + off) bs u).getD (noteViolation 0x87 0 (va + off) bs.length u)
    let n := s.pwr.stats + 1
    let begun := put 0 (natLe 8 n) { s with pwr := { s.pwr with stats := n } }
    let rings := (upTo 8192).foldl (fun u r => put (64 + 16 * r) (ringRecord (tblGet RingStat.zero u.pwr.ringStat r)) u) begun
    let done := put 56 (natLe 8 rings.pwr.stats) (put 8 (statsHeader rings) rings)
    (va = 0 ∨ monarchRuns s = false → exec (.statsWrite t) s0 = .next s) ∧
    (va ≠ 0 → monarchRuns s = true → exec (.statsWrite t) s0 = .next { done with pwr := { done.pwr with ringStat := [] } }))

/-- Sleep states. GO of PWR_CTL is checked: NOT_AWAKE, BUSY, DISPLAY, WARP, or OK, which starts the entry; the entry
ends in S3 or S4 with the L2s empty, and an exit ends in S0 with its cause. Units without work are clock-gated, and
idle clusters power-gated. A wake pin's event sets its bit, and raises the vector or starts the exit. -/
def Obligations.SleepEntersAndExits : Prop :=
  (∀ (fn : Fn) (v : Word) (s : State), quiet s fn.val → fn.val ≠ 0 → exec (.sleepS3 fn v) s = .next s ∧ exec (.sleepS4 fn v) s = .next s) ∧
  (∀ (v : Word) (s : State), quiet s 0 →
    let stored (target : Word) : State := s.setRaw 0 0x030000 ((s.raw 0 0x030000 &&& 0xF800FFC0) ||| (v &&& 0x07FF0030) ||| target)
    let keep := bit v.toNat 4
    let res (r : Nat) (u : State) : State := { u with pwr := { u.pwr with slpRes := r } }
    (sleepCheck 3 keep s = 0 → exec (.sleepS3 0 v) s = .next (startEntry 3 (res 0 (stored 3)))) ∧
    (sleepCheck 3 keep s ≠ 0 → exec (.sleepS3 0 v) s = .next (res (sleepCheck 3 keep s) (stored 3))) ∧
    (sleepCheck 4 keep s = 0 → exec (.sleepS4 0 v) s = .next (startEntry 4 (res 0 (stored 4)))) ∧
    (sleepCheck 4 keep s ≠ 0 → exec (.sleepS4 0 v) s = .next (res (sleepCheck 4 keep s) (stored 4)))) ∧
  (∀ (target : Nat) (keep : Bool) (s : State),
    (awake s = false → sleepCheck target keep s = 3) ∧
    (awake s = true → busyS3 keep s = true → sleepCheck 3 keep s = 4) ∧
    (awake s = true → busyS4 s = true → sleepCheck 4 keep s = 4) ∧
    (awake s = true → busyS4 s = false → sleepCheck 4 keep s = if ∃ p : Fin 4, (s.pipe p.val).st ≠ .off then 5 else 0) ∧
    (awake s = true → busyS3 keep s = false → ((∃ p : Fin 4, p.val ≠ 0 ∧ (s.pipe p.val).st ≠ .off) ∨ ((s.pipe 0).st ≠ .off ∧ keep = false)) → sleepCheck 3 keep s = 5) ∧
    (awake s = true → busyS3 keep s = false → (∀ p : Fin 4, (s.pipe p.val).st = .off) → sleepCheck 3 keep s = 0)) ∧
  (∀ s : State,
    let settled := ∀ g, (g = 0 ∨ g = 2 ∨ g = 3) → seqOf s g = .idle ∧ plvlOf s g = 7
    let busy := ∃ d : Fin 2, (s.plan d.val).state = .running ∨ (s.l2 d.val).op.isSome = true
    (s.pwr.sleep ≠ .entering ∨ ¬ settled ∨ busy → exec .sleepEntryDone s = .next s) ∧
    (s.pwr.sleep = .entering → settled → ¬ busy →
      let off (k : Nat) (u : State) : State := if u.power k = .on ∨ u.power k = .clearing then u.setPower k .off else u
      let e := l2Empty s
      let stopped := (upTo 74).foldl (fun u k => if e.pwr.deep = 3 ∧ (k = 0 ∨ k = 8 ∨ k = 72) then (if u.diePresent 0 then unitOn k u else u) else off k u) e
      let narrow : State := let u := stopped.setRaw 0 0x110000 (stopped.raw 0 0x110000 ||| 1)
        { u with tns := { u.tns with narrow := tblSet 0 u.tns.narrow 0 1 } }
      let pins := levelPins narrow
      let cause := narrow.pwr.wakeHeld.or ((pins.head?).map fun i => (1, i))
      let woken := wakeBits (pins.foldl (fun m i => m ||| w32 (2 ^ i)) 0) narrow
      let asleep : State := { woken with pwr := { woken.pwr with sleep := if woken.pwr.deep = 3 then .s3 else .s4, wakeHeld := none } }
      exec .sleepEntryDone s = .next (match cause with
        | some (src, pin) => startExit src pin asleep
        | none => asleep))) ∧
  (∀ (t : Nat) (s0 : State),
    let s := advanceTo t s0
    let early := s.pwr.sleep ≠ .exiting ∨ (∃ g < 4, seqOf s g ≠ .idle) ∨ ∃ k < 74, s.power k = .clearing
    let u := if s.pwr.deep = 3 then s.setL2 0 L2.empty else s
    let v := (upTo 74).foldl (fun v k => if v.diePresent (unitDie k) = true ∧ v.err.thermal2 = false then unitOn k v else v) u
    let x : State := let w := v.setRaw 0 0x110000 (v.raw 0 0x110000 &&& ~~~1)
      { w with tns := { w.tns with narrow := tblSet 0 w.tns.narrow 0 0 } }
    let w := x.pwr.wakeHeld.getD (0, 0)
    let y : State := { x with pwr := { x.pwr with sleep := .s0, wakeSrc := w.1, wakePin := if w.1 = 1 then w.2 else x.pwr.wakePin, wakeHeld := none } }
    (early → exec (.sleepExitDone t) s0 = .next s) ∧
    (¬ early → exec (.sleepExitDone t) s0 = .next (replayHeld (limitGoals (raiseVec .wake 0 (wakeVector y) y))))) ∧
  (∀ (u : GateUnit) (s : State), exec (.idleClockGate u) s = .next (
    let k := match u with
      | .cluster c => c.val | .core k => 8 + k.val | .pipe p => 72 + p.val | .cmp n => 76 + n.val
    let idle : Bool := match u with
      | .cluster c => clusterIdle s c.val
      | .core k => coreIdle s k.val
      | .pipe p => decide ((s.pipe p.val).st = .off) && (s.pipe p.val).pend.isNone
      | .cmp n => s.cmp.runs.all fun r => r.1 ≠ n.val
    if idle = true ∧ awake s = true ∧ k ∉ s.pwr.gated then { s with pwr := { s.pwr with gated := s.pwr.gated ++ [k] } } else s)) ∧
  (∀ (c : Fin 8) (s : State),
    (clusterIdle s c.val = false ∨ awake s = false ∨ s.power c.val ≠ .on → exec (.idlePowerGate c) s = .next s) ∧
    (clusterIdle s c.val = true → awake s = true → s.power c.val = .on → exec (.idlePowerGate c) s = .next (gateCluster c.val s) ∧
      ∃ p, gateCluster c.val s = { s with unit := { s.unit with power := p } })) ∧
  (∀ (i : Fin 8) (level : Bool) (s : State),
    let was := bit s.pwr.levels i.val
    let u : State := { s with pwr := { s.pwr with levels := if level = was then s.pwr.levels else if level then s.pwr.levels + 2 ^ i.val else s.pwr.levels - 2 ^ i.val } }
    (pinEn s i.val = false → exec (.wakePinEvent i level) s = .next u) ∧
    (pinEn s i.val = true → pinLevel s i.val = false → (was = level ∨ level ≠ pinHigh s i.val) → exec (.wakePinEvent i level) s = .next u) ∧
    (pinEn s i.val = true → pinLevel s i.val = false → was ≠ level → level = pinHigh s i.val → s.pwr.sleep ≠ .entering →
      exec (.wakePinEvent i level) s = .next (wakeEvent 1 i.val (u.setRaw 0 0x030024 (s.raw 0 0x030024 ||| w32 (2 ^ i.val))))) ∧
    (pinEn s i.val = true → pinLevel s i.val = false → was ≠ level → level = pinHigh s i.val → s.pwr.sleep = .entering →
      let v : State := { u with free := u.free + 1 }
      exec (.wakePinEvent i level) s = .next (if bit (Config.freeValue s.free).toNat 0 then v
        else wakeEvent 1 i.val (v.setRaw 0 0x030024 (v.raw 0 0x030024 ||| w32 (2 ^ i.val))))) ∧
    (pinEn s i.val = true → pinLevel s i.val = true → exec (.wakePinEvent i level) s = .next (levelWakes u))) ∧
  (∀ s : State,
    let u := s.setRaw 0 0x030024 (s.raw 0 0x030024 ||| 0x100)
    (s.pwr.sleep = .s3 → bit (s.raw 0 0x030000).toNat 5 = false → exec .linkWakeEvent s = .next s) ∧
    (s.pwr.sleep ≠ .s3 ∨ bit (s.raw 0 0x030000).toNat 5 = true → exec .linkWakeEvent s = .next (wakeEvent 2 0 u)) ∧
    (∀ src pin, s.pwr.sleep = .s0 → wakeEvent src pin s = raiseVec .wake 0 (wakeVector s) s) ∧
    (∀ src pin, s.pwr.sleep ≠ .s0 → wakeEvent src pin s = startExit src pin s)) ∧
  (∀ (src : VecSource) (fn vec : Nat) (s : State),
    let known (h : VecHold) : Bool := decide (h.src = src)
    let put (v : List VecHold) : State := { s with reg := { s.reg with vecs := v } }
    raiseVec src fn vec s = (if vec = 0 then s else raiseSrc src fn vec s) ∧
    (s.reg.vecs.find? known = none → raiseSrc src fn vec s = deliver fn vec (put (s.reg.vecs ++ [{ src, last := s.time, pend := none }]))) ∧
    (∀ h, s.reg.vecs.find? known = some h →
      (s.time < h.last + 1000 → raiseSrc src fn vec s = put (mapIf known (fun h => { h with pend := some (fn, vec) }) s.reg.vecs)) ∧
      (h.last + 1000 ≤ s.time → raiseSrc src fn vec s = deliver fn vec (put (mapIf known (fun h => { h with last := s.time, pend := none }) s.reg.vecs)))) ∧
    (∀ fn : Fin 64, raiseCritical fn.val s = raiseSrc (.critical fn) fn.val 0 s)) ∧
  (∀ (src pin : Nat) (s : State),
    (s.pwr.sleep = .s3 ∨ s.pwr.sleep = .s4 →
      let u : State := { s with pwr := { s.pwr with sleep := .exiting, wakeHeld := some (src, pin) } }
      let v := if src = 2 then wakeBits 0x100 u else u
      startExit src pin s = [0, 1, 2, 3].foldl (fun v g => setGoal g (v.pwr.saved.getD g 7) v) v) ∧
    (s.pwr.sleep = .entering → startExit src pin s = { s with pwr := { s.pwr with wakeHeld := s.pwr.wakeHeld.or (some (src, pin)) } }) ∧
    (s.pwr.sleep = .exiting ∨ s.pwr.sleep = .s0 → startExit src pin s = s))

/-- Clocks. A failed window sets its source's status bit, logs the critical error CLOCK_FAIL, and puts the source on
its fallback; a PLL that locks again leaves it. The trim moves by at most one code a window and holds without a
reference. A gate write that would leave a gate on under a parent that is off, blank a pipe that is on, or set a gate
of an absent die, is refused whole. -/
def Obligations.ClocksAndGatesFollow : Prop :=
  (∀ s : State, exec (.clockMonitorWindow 0) s = .next s) ∧
  (∀ (f : BitVec 15) (s : State), exec (.clockMonitorWindow f) s = .next (((List.range 15).filter (bit f.toNat)).foldl (fun s n => sourceFail f.toNat n s) s)) ∧
  (∀ (f n : Nat) (s : State),
    let u := s.setRaw 0 0x020050 (s.raw 0 0x020050 ||| w32 (2 ^ n))
    let fails (v : State) : Prop := sourceFail f n s = logError 0x61 0x85 0 n 0 true v
    let p := u.pwr
    (n = 0 →
      let w := relock ((List.range 12).map fun k => k + 3) { u with pwr := { p with fallback := p.fallback ||| 1 } }
      fails { w with pwr := if w.pwr.trimRef then w.pwr else if bit f 2 then { w.pwr with trimHold := true } else { w.pwr with trimRef := true } }) ∧
    (n = 1 → fails { u with pwr := { p with fallback := p.fallback ||| 2 } }) ∧
    (n = 2 → fails { u with pwr := if p.trimRef then { p with trimHold := true } else p }) ∧
    (10 ≤ n → n ≤ 13 → fails (displayPllFail (n - 10) u)) ∧
    ((3 ≤ n ∧ n ≤ 9) ∨ 14 ≤ n → bit p.failedOnce n = true → fails { u with pwr := { p with fallback := p.fallback ||| 2 ^ n, locking := p.locking.filter fun k => k ≠ n } }) ∧
    ((3 ≤ n ∧ n ≤ 9) ∨ 14 ≤ n → bit p.failedOnce n = false → fails (relock [n] { u with pwr := { p with failedOnce := p.failedOnce ||| 2 ^ n } })) ∧
    (∀ ns : List Nat, relock ns s = { s with pwr := { s.pwr with
      fallback := ns.foldl (fun f n => f ||| 2 ^ n) s.pwr.fallback, locking := s.pwr.locking ++ ns.filter fun n => !s.pwr.locking.contains n } })) ∧
  (∀ (n : Nat) (s : State), n < 15 → exec (.clockMonitorWindow (BitVec.ofNat 15 (2 ^ n))) s = .next (sourceFail (2 ^ n) n s)) ∧
  (∀ (s : State), logsPlainly s 0x85 6 → regInv s →
    let u := s.setRaw 0 0x020050 (s.raw 0 0x020050 ||| 2)
    sourceFail 2 1 s = criticalEvent (let v : State := { u with pwr := { s.pwr with fallback := s.pwr.fallback ||| 2 } }
      { v with err := { s.err with
          entries := s.err.entries ++ [{ slot := ((upTo 32).find? fun i => !s.err.entries.any fun e => e.slot = i).getD 0, t := s.time, seq := s.err.seq + 1, code := 0x61, cls := 6, src := 0x85, flags := b2n (decide (1 ≤ inService s 0x85)) + 4, ctx := 0, info0 := 1, info1 := 0 }]
          seq := s.err.seq + 1 } })) ∧
  (∀ (step : Int) (ok : Bool) (s : State), exec (.oscTrimWindow step ok) s = .next (
    if s.pwr.trimHold = true then s else { s with pwr := { s.pwr with
      trim := if 0 < step then Nat.min 0xFFF (s.pwr.trim + 1) else if step < 0 then s.pwr.trim - 1 else s.pwr.trim
      trimLock := ok } })) ∧
  (∀ (p : Pll) (s : State),
    let n := match p with
      | .base => 3 | .pcie => 4 | .link => 5 | .die0 => 6 | .die0Mem => 7 | .die1 => 8 | .die1Mem => 9 | .display q => 10 + q.val | .security => 14
    let left := s.pwr.locking.filter fun m => m ≠ n
    let u : State := if n ∈ s.pwr.locking then { s with pwr := { s.pwr with locking := left, fallback := s.pwr.fallback &&& (0x7FFF ^^^ 2 ^ n) } } else s
    (s.tap.ir = 3 → exec (.pllLockDone p) s = .next s) ∧
    (s.tap.ir ≠ 3 → s.boot.step = .pll → 3 ∉ left → 14 ∉ left → exec (.pllLockDone p) s = .next { u with boot := { s.boot with step := .rom } }) ∧
    (s.tap.ir ≠ 3 → (s.boot.step ≠ .pll ∨ 3 ∈ left ∨ 14 ∈ left) → exec (.pllLockDone p) s = .next u)) ∧
  (∀ (fn : Fn) (r : GateReg) (v : Word) (s : State), quiet s fn.val →
    let i := match r with
      | .top => 0 | .clu => 1 | .coreLo => 2 | .coreHi => 3
    let mask : Word := match r with
      | .top => 0xFFF | .clu => 0xFF | .coreLo => 0xFFFFFFFF | .coreHi => 0xFFFFFFFF
    let now (k : Nat) := (s.raw 0 (0x020000 + 4 * k)).toNat
    let new := (s.raw 0 (0x020000 + 4 * i) &&& ~~~mask) ||| (v &&& mask)
    let then' (k : Nat) := if k = i then new.toNat else now k
    let bad := gateRefused s (gatesOf (now 0) (now 1) (now 2) (now 3)) (gatesOf (then' 0) (then' 1) (then' 2) (then' 3)) = true
    (fn.val ≠ 0 → exec (.clkGateWrite fn r v) s = .next s) ∧
    (fn.val = 0 → ¬ bad → exec (.clkGateWrite fn r v) s = .next (s.setRaw 0 (0x020000 + 4 * i) new)) ∧
    (fn.val = 0 → bad → exec (.clkGateWrite fn r v) s = .next (let u := s.setRaw 0 0x020040 (s.raw 0 0x020040 ||| 1)
      { u with pwr := { s.pwr with gateReg := i } }))) ∧
  (∀ (s : State) (old new : Nat), gateRefused s old new = true ↔ ∃ i < 84,
    (bit old i = false ∧ bit new i = true ∧ ∃ p ∈ gateParents i, bit new p = false) ∨
    (bit old i = true ∧ bit new i = false ∧ ∃ j < 84, bit new j = true ∧ i ∈ gateParents j) ∨
    (bit old i = true ∧ bit new i = false ∧ 4 ≤ i ∧ i < 8 ∧ (s.pipe (i - 4)).st ≠ .off) ∨
    (bit old i = false ∧ bit new i = true ∧ ∃ d, gateDie i = some d ∧ s.diePresent d = false))

/-- RST_CMD starts a unit's reset under an unlock: RANGE for an index past the kind's units or on an absent die, STATE
for a die in reset; while BUSY it is ignored. A unit's work ends with SEVERED and its crossing is severed; the reset
ends with the unit's clear, and a die's with its checks. -/
def Obligations.UnitsAreReset : Prop :=
  (∀ (fn : Fn) (i : BitVec 6) (s : State) (kind : Fin 9) (c : Instr), quiet s fn.val →
    (kind = 0 ∧ c = .resetCore fn i) ∨ (kind = 1 ∧ c = .resetTensorArray fn i) ∨ (kind = 2 ∧ c = .resetTensorDmaChannel fn i) ∨
      (kind = 3 ∧ c = .resetCluster fn i) ∨ (kind = 4 ∧ c = .resetComputeDie fn i) ∨ (kind = 5 ∧ c = .resetDisplayPipe fn i) ∨
      (kind = 6 ∧ c = .resetCompressionChannel fn i) ∨ (kind = 7 ∧ c = .resetReshardEngine fn i) ∨ (kind = 8 ∧ c = .resetDieToDieLink fn i) →
    let old := s.raw 0 0x010000
    let touches : Bool := decide ((old &&& 0x40000000) = 0)
    let u := if touches then setUnlock .rst 0 0 s else s
    let z := u.setRaw 0 0x010000 ((old &&& 0xBFFFFC00) ||| BitVec.ofNat 32 (kind.val + 16 * i.toNat))
    let res (r : Nat) (b : Option (Nat × Nat)) : State := { z with rst := { z.rst with result := r, busy := b } }
    let count := [64, 8, 32, 8, 2, 4, 4, 2, 1].getD kind.val 0
    let dies := kindDie kind.val i.toNat
    let down := ∃ d ∈ dies, tblGet 0 s.rst.dieDown d ≠ 0
    let absent := ∃ d ∈ dies, s.diePresent d = false
    (fn.val ≠ 0 → exec c s = .next s) ∧
    (fn.val = 0 → touches = true → unlocked s .rst 0 = false → exec c s = .next (setDenied .rst 0 1 s)) ∧
    (fn.val = 0 → (touches = true → unlocked s .rst 0 = true) →
      (s.rst.busy ≠ none → exec c s = .next z) ∧
      (s.rst.busy = none → count ≤ i.toNat → exec c s = .next (res 2 none)) ∧
      (s.rst.busy = none → i.toNat < count → down → exec c s = .next (res 3 none)) ∧
      (s.rst.busy = none → i.toNat < count → ¬ down → absent → exec c s = .next (res 2 none)) ∧
      (s.rst.busy = none → i.toNat < count → ¬ down → ¬ absent → (kind.val = 4 → tblGet 0 s.rst.dieDown i.toNat = 0) →
        (kind.val = 4 → exec c s = .next (dieReset i.toNat 1 (res 0 (some (4, i.toNat))))) ∧
        (kind.val ≠ 4 → exec c s = .next (unitReset kind.val i.toNat (res 0 (some (kind.val, i.toNat)))))))) ∧
  (∀ (i : Nat) (s : State),
    let ends (ms : List Nat) (u : State) : State := dropWork ms 0x0D u
    (unitReset 0 i s = holdUnit (8 + i) (sever (16 + i) (ends [i] s))) ∧
    (unitReset 1 i s = ends [0x40 + i] s) ∧ (unitReset 2 i s = ends [0x48 + i] s) ∧
    (unitReset 3 i s = (List.range 8).foldl (fun u j => holdUnit (8 + 8 * i + j) u) (holdUnit i (sever (80 + i) (ends (clusterMasters i) (dropFronts i 0x0D s))))) ∧
    (unitReset 5 i s = sever (5 + i) (ends [0x6C + i] (dropPipe i s))) ∧
    (unitReset 6 i s = sever (88 + i) (ends [0x68 + i] s)) ∧
    (unitReset 7 i s = ends [0x70 + i] (dropPlan i s)) ∧
    (unitReset 8 i s = sever 2 (ends [] s)) ∧
    (∀ k, holdUnit k s = if s.power k = .on ∨ s.power k = .failed then s.setPower k .clearing else s)) ∧
  (∀ (ms : List Nat) (st : Nat) (s : State),
    let torn := opsWhere (fun e q => !ctxRuns s e.ctx && q.units.any fun m => ms.contains m) s
    let u := ms.foldl (fun u m => endOpsOn m st u) (torn.foldl (fun u o => discardOp o u) s)
    let v : State := { u with
      fe := { u.fe with copies := u.fe.copies.filter fun c => !ms.contains (0x48 + c.chan) }
      cmp := { u.cmp with runs := u.cmp.runs.filter fun r => !ms.contains (0x68 + r.1) } }
    dropWork ms st s = closeOps (shdSweep v)) ∧
  (∀ (r : ClearResult) (s : State),
    let u : State := { s with rst := { s.rst with busy := none } }
    let ends (t : State) : Prop := exec (.resetDone r) s = .next (armRetry (goOn t))
    (s.rst.busy = none ∨ (∃ i, s.rst.busy = some (4, i)) → exec (.resetDone r) s = .next s) ∧
    (∀ i, s.rst.busy = some (8, i) → exec (.resetDone r) s = .next u) ∧
    (∀ i, s.rst.busy = some (3, i) →
      let v : State := { u with sec := { u.sec with
        pinned := u.sec.pinned.filter fun x => !(clusterMasters i).contains x, logged := u.sec.logged.filter fun x => !(clusterMasters i).contains x } }
      let each (old new : UnitPower) (v : State) : State := (i :: (List.range 8).map fun j => 8 + 8 * i + j).foldl (fun v k => if v.power k = old then v.setPower k new else v) v
      (r = .pass → ends (each .clearing .on (clusterOn i (clusterClear i v)))) ∧
      (r ≠ .pass → ends (clearFailed i r (each .clearing .failed v)))) ∧
    (∀ i, s.rst.busy = some (0, i) →
      let v := releaseRun i r u
      ends (if v.power (8 + i) = .clearing then v.setPower (8 + i) (if r = .pass then .on else .failed) else v)) ∧
    (∀ k i, s.rst.busy = some (k, i) → k ≠ 0 → k ≠ 3 → k ≠ 4 → k ≠ 8 → ends ((unitMasters k i).foldl (fun v m => releaseRun m r v) u)))

/-- Links, crossings, die checks and time copies. A flit's failed replays count in a row; the limit of 16 severs the
crossing, and a base link's takes its die with it. A severed crossing reopens, with its epoch raised, once both sides
are up. A die in reset that passes its checks enters, with its masters released, and one that fails is excluded with
the first reason; a pulse corrects a die's copy of the time if it is off by more than 4 ns, and the fourth correction
within one second resets the die. -/
def Obligations.LinksAndDiesRecover : Prop :=
  (∀ (l : Link) (s : State),
    let n := match l with
      | .base d => d.val
      | .d2d => 2
    let count (k : Nat) : State := { s with rst := { s.rst with replays := tblSet 0 s.rst.replays n k } }
    (exec (.flitReplay l true) s = .next (count 0)) ∧
    (exec (.flitReplay l false) s = .next (count (tblGet 0 s.rst.replays n + 1))) ∧
    (tblGet 0 s.rst.replays n < 16 → exec (.linkReplayLimit l) s = .next s) ∧
    (16 ≤ tblGet 0 s.rst.replays n → l = .d2d → exec (.linkReplayLimit l) s = .next (sever 2 (count 0))) ∧
    (∀ d, 16 ≤ tblGet 0 s.rst.replays n → l = .base d → exec (.linkReplayLimit l) s = .next (dieReset d.val 2 (sever d.val (count 0))))) ∧
  (∀ (x : Nat) (s : State),
    ((s.crossing x).severed = true → sever x s = s) ∧
    ((s.crossing x).severed = false → sever x s = logError 0x30 (crossingSource x) 0 x (Config.freeValue s.free).toNat false
      { s.setCrossing x { severed := true, epoch := (s.crossing x).epoch } with free := s.free + 1 }) ∧
    ((s.crossing x).severed = false → logsPlainly s (crossingSource x) 3 →
      sever x s = withLog 0x30 3 (crossingSource x) 0 x (Config.freeValue s.free).toNat { s.setCrossing x { severed := true, epoch := (s.crossing x).epoch } with free := s.free + 1 })) ∧
  (∀ (x : Fin 92) (s : State),
    ((s.crossing x.val).severed = false ∨ sidesUp s x.val = false → exec (.crossingReopen x) s = .next s) ∧
    ((s.crossing x.val).severed = true → sidesUp s x.val = true →
      exec (.crossingReopen x) s = .next (armRetry (goOn (s.setCrossing x.val { severed := false, epoch := (s.crossing x.val).epoch + 1 }))))) ∧
  (∀ (d : Fin 2) (r : DieCheck) (s : State),
    let u : State := { s with rst := { s.rst with dieDown := tblSet 0 s.rst.dieDown d.val 0, busy := if s.rst.busy = some (4, d.val) then none else s.rst.busy } }
    (tblGet 0 s.rst.dieDown d.val = 0 → exec (.dieCheckDone d r) s = .next s) ∧
    (tblGet 0 s.rst.dieDown d.val ≠ 0 →
      (dieReason r ≠ 0 → exec (.dieCheckDone d r) s = .next (armRetry (goOn (dieExclude d.val (dieReason r) (dieIdentify d.val r u))))) ∧
      (dieReason r = 0 → exec (.dieCheckDone d r) s = .next (reopen 2 (reopen d.val
          (dieEnter d.val (eachDo ((upTo 0x72).filter fun m => onDie d.val m) unpinMaster (dieIdentify d.val r u))))))) ∧
  (∀ r : DieCheck,
    (dieReason r = 1 ↔ r.answers = false) ∧ (dieReason r = 2 ↔ r.answers = true ∧ r.revOk = false) ∧
    (dieReason r = 5 ↔ r.answers = true ∧ r.revOk = true ∧ r.fuseOk = false) ∧
    (dieReason r = 3 ↔ r.answers = true ∧ r.revOk = true ∧ r.fuseOk = true ∧ r.digestOk = false) ∧
    (dieReason r = 4 ↔ r.answers = true ∧ r.revOk = true ∧ r.fuseOk = true ∧ r.digestOk = true ∧ r.clearOk = false) ∧
    (dieReason r = 0 ↔ r.answers = true ∧ r.revOk = true ∧ r.fuseOk = true ∧ r.digestOk = true ∧ r.clearOk = true)) ∧
  (∀ (t c0 c1 : Nat) (s0 : State),
    let s := advanceTo t s0
    let u := if s.diePresent 0 = true ∧ (s.crossing 0).severed = false then dieSync 0 c0 s else s
    let relay := tblGet 0 s.unit.excluded 0 ≠ 0 ∨ (s.diePresent 0 = true ∧ (s.crossing 2).severed = false)
    exec (.timeSyncPulse t c0 c1) s0 = .next (if u.diePresent 1 = true ∧ relay then dieSync 1 c1 u else u)) ∧
  (∀ (d copy : Nat) (s : State),
    let skew : Int := (copy : Int) - s.time
    let near := skew.natAbs ≤ 4
    let u : State := { s with rst := { s.rst with skew := tblSet 0 s.rst.skew d (max (-128) (min 127 skew)) } }
    let v := logError 0x42 0x87 0 d (skew % 18446744073709551616).toNat false { u with rst := { u.rst with
      resyncs := min 255 (s.rst.resyncs + 1), marks := (s.rst.marks ++ [(d, s.time)]).filter fun m => s.time < m.2 + 1000000000 } }
    (near → dieSync d copy s = u) ∧
    (¬ near → dieSync d copy s = if 3 < (v.rst.marks.filter fun m => m.1 = d).length then dieReset d 3 v else v)))

/-- Bring-up. PWROK latches the straps, the crystal starts the PLLs, their locks start the ROM's self-test, and its
end lets PERST_N and the link go on; LOAD verifies an image, whose first failing check names the result, and firmware
that boots checks the dies. A fall of PWROK or of a base rail takes everything but host memory and the fuses; PERST_N
and a function-level reset keep the always-on block. Boundary scan. Each instruction selects its data register: IDCODE
after a TAP reset, the boundary register with the pins' levels under SAMPLE/PRELOAD, one bit of 0 under BYPASS and
every code without an instruction of its own; a vendor instruction acts as BYPASS below debug level 3. EXTEST holds
the device in reset while it is current. -/
def Obligations.BringUpAndScan : Prop :=
  (
  ∀ s : State,
    let on (f : Boot → Boot) (u : State) : State := { u with boot := f u.boot }
    (∀ straps : BitVec 6, exec (.pwrokRise straps) s = .next (if s.boot.step ≠ .dark then s else
      { s with boot := { s.boot with step := .xtal, straps := straps.toNat }, pwr := { s.pwr with trimRef := bit straps.toNat 0 } })) ∧
    (exec .xtalStable s = .next (if s.boot.step = .xtal then
      { s with pwr := { s.pwr with locking := [3, 14] }, boot := { s.boot with step := .pll } } else s)) ∧
    (exec (.romSelftestDone true) s = .next (if s.boot.step = .rom then on (fun b => { b with step := .up, stage := .romWait, result := 0 }) s else s)) ∧
    (exec (.romSelftestDone false) s = .next (if s.boot.step = .rom then on (fun b => { b with step := .up, stage := .bootFail, result := 8 }) s else s)) ∧
    (exec .perstDeassert s = .next (on (fun b => { b with perst := false }) s)) ∧
    (exec .pcieLinkTrained s = .next (if s.boot.step = .up ∧ s.boot.perst = false ∧ s.boot.link = false then on (fun b => { b with link := true }) s else s)) ∧
    (∀ fn v, s.reg.mismatch = [] → fnArrives s fn.val = true → awake s = true → exec (.imgLoad fn v) s = .next (
      if fn.val = 0 ∧ s.boot.step = .up ∧ (s.boot.stage = .romWait ∨ s.boot.stage = .bootFail) then
        on (fun b => { b with stage := .verifying, tries := Nat.min 255 (b.tries + 1) }) s else s)) ∧
    (∀ io : HostIO,
      let z := applyIO io s
      let fails (r : Nat) (u : State) : State := on (fun b => { b with stage := .bootFail, result := r }) u
      let base := z.rawBase 0 0x0F0004 0x0F0008
      let n := (z.raw 0 0x0F000C).toNat
      (s.boot.stage ≠ .verifying → exec (.imageVerifyDone io) s = .next s) ∧
      (s.boot.stage = .verifying → s.boot.result = 8 → exec (.imageVerifyDone io) s = .next (fails 8 z)) ∧
      (s.boot.stage = .verifying → s.boot.result ≠ 8 → (n ≤ 4096 ∨ 16777216 < n ∨ base < 281474976710656) → exec (.imageVerifyDone io) s = .next (fails 2 z)) ∧
      (s.boot.stage = .verifying → s.boot.result ≠ 8 → 4096 < n → n ≤ 16777216 → 281474976710656 ≤ base →
        (devRead base n z = .wait → exec (.imageVerifyDone io) s = .next z) ∧
        (devRead base n z = .failed → exec (.imageVerifyDone io) s = .next (fails 1 z)) ∧
        (∀ b u, devRead base n z = .done (b, u) → imageCheck u b ≠ 0 → exec (.imageVerifyDone io) s = .next (fails (imageCheck u b) u)) ∧
        (∀ b u, devRead base n z = .done (b, u) → imageCheck u b = 0 →
          let svn := fld b 8 4
          let v : State := if bit (fld b 12 4) 1 then { u with sec := { u.sec with svnBurn := some (Nat.max svn (svnMin u)) } } else u
          exec (.imageVerifyDone io) s = .next (setGoal 3 0 (on (fun x => { x with
            stage := .fwInit
            result := 0
            boots := x.boots + 1
            svn
            fwHash := slice b 24 48 }) v))))) ∧
    (∀ b : List Byte,
      let slot := fld b 6 2
      let svn := fld b 8 4
      let shape := fld b 0 4 = 0x4E4F4D42 ∧ fld b 4 2 = 1 ∧ slot ≤ 3 ∧ svn ≤ 63 ∧ fld b 12 4 < 4 ∧ fld b 16 8 + 4096 = b.length ∧ zeros b 72 56 = true ∧
        zeros b 3533 563 = true ∧ (fld b 12 4 % 2 = 1 → lifecycle s = 0)
      (¬ shape → imageCheck s b = 2) ∧
      (shape → lifecycle s ≠ 0 → bit Config.keyRevoke.toNat slot = true → imageCheck s b = 7) ∧
      (shape → (lifecycle s = 0 ∨ bit Config.keyRevoke.toNat slot = false) → svn < svnMin s → imageCheck s b = 6) ∧
      (imageCheck s b = 0 → shape ∧ svnMin s ≤ svn ∧ Config.sha384 (b.drop 4096) = slice b 24 48 ∧
        Config.ecdsaVerifies (imageKey s slot) (Config.sha384 (b.take 128)) (slice b 128 96) = true ∧ Config.mldsaVerifies (imageKey s slot) (b.take 128) (slice b 224 3309) = true)) ∧
    (∀ d0 d1 : DieCheck,
      (s.boot.stage ≠ .fwInit → exec (.fwReady d0 d1) s = .next s) ∧
      (s.boot.stage = .fwInit →
        let one (d : Nat) (r : DieCheck) (v : State) : State := if dieReason r = 0 then dieEnter d (dieIdentify d r v) else dieExclude d (dieReason r) (dieIdentify d r v)
        let v := one 1 d1 (one 0 d0 s)
        let up := [0, 1].filter fun d => v.diePresent d
        exec (.fwReady d0 d1) s = .next { v with
          unit := { v.unit with booted := up, degraded := decide (up.length = 1), memGib8 := 16 * up.length }
          boot := { v.boot with stage := .ready } })) ∧
    (let lost (full : Bool) (t : State) : Prop := t.mmu = { State.reset.mmu with serial := s.mmu.serial } ∧ t.fe = State.reset.fe ∧ t.fen = State.reset.fen ∧
        t.shd = State.reset.shd ∧ t.rnd = State.reset.rnd ∧ t.tns = State.reset.tns ∧ t.cmp = State.reset.cmp ∧ t.err = State.reset.err ∧
        t.unit = State.reset.unit ∧ t.rst = State.reset.rst ∧ (∀ c ∈ t.mem.cells, 281474976710656 ≤ c.1) ∧ t.sec.lcNow = s.sec.lcBurn ∧ t.sec.lcBurn = s.sec.lcBurn ∧
        t.sec.svnBurn = s.sec.svnBurn ∧ t.pending = s.pending ∧ (full = true → t.reg.regs = []) ∧
        (full = false → t.reg.regs = s.reg.regs.filter fun e => e.1 = 0x030020 ∨ e.1 = 0x030024)
     let cold := deviceReset true s
     let warm := deviceReset false s
     let plls (link : Bool) : State := { warm with pwr := { warm.pwr with locking := [3, 14] }, boot := { warm.boot with step := .pll, link } }
     lost true cold ∧ cold.boot.step = .dark ∧ cold.boot.link = false ∧ lost false warm ∧ warm.boot.link = false ∧ warm.boot.perst = s.boot.perst ∧
     exec .pwrokFall s = .next cold ∧ exec (.brownout .vddBase) s = .next cold ∧ exec (.brownout .vddAon) s = .next cold ∧
     warmReset true s = plls true ∧ warmReset false s = plls false ∧
     (∀ d : Fin 2, exec (.brownout (.die d)) s = .next (if s.boot.stage = .ready ∧ s.diePresent d.val = true then dieReset d.val 2 (sever d.val s) else s)) ∧
     (s.boot.perst = true → exec .perstAssert s = .next s) ∧
     (s.boot.perst = false → s.boot.link = false → exec .perstAssert s = .next (on (fun b => { b with perst := true }) s)) ∧
     (s.boot.perst = false → s.boot.link = true → exec .perstAssert s = .next (let u : State := on (fun b => { b with perst := true }) s
       on (fun b => { b with step := .up, stage := .romWait }) (deviceReset false u))) ∧
     (s.boot.link = false → exec .pfFlr s = .next s) ∧
     (s.boot.link = true → exec .pfFlr s = .next (plls true)))) ∧
  (
  ∀ s : State,
    let load (code : Byte) (dr : Nat) (u : State) : State := { u with tap := { u.tap with ir := code, dr } }
    let id := Config.baseRev.toNat * 268435456 + 0x9640 * 4096 + 0x5D3 * 2 + 1
    (∀ (code : Byte) (dr : Nat),
      (s.tap.ir ≠ 3 ∨ code = 3 ∨ s.boot.step = .dark → tapLoad code dr s = load code dr s) ∧
      (s.tap.ir = 3 → code ≠ 3 → s.boot.step ≠ .dark → tapLoad code dr s = warmReset false (load code dr s))) ∧
    exec .tapReset s = .next (tapLoad 1 id s) ∧ exec .tapIdcode s = .next (tapLoad 1 id s) ∧
    (∀ code : Byte, (code = 0 ∨ code = 0xFF ∨ (3 < code.toNat ∧ code.toNat < 0x80)) → exec (.tapBypass code) s = .next (tapLoad code 0 s)) ∧
    (∀ code : Byte, (1 ≤ code.toNat ∧ code.toNat ≤ 3) ∨ (0x80 ≤ code.toNat ∧ code ≠ 0xFF) → exec (.tapBypass code) s = .next s) ∧
    (∀ (pins : BitVec 28) (pre : BitVec 40),
      let v := (Config.freeValue s.free).toNat
      exec (.tapSamplePreload pins pre) s = .next (tapLoad 2 (boundary pins.toNat v) { s with tap := { s.tap with preload := pre }, free := s.free + 1 }) ∧
      (∀ i < 4, boundary pins.toNat v / 2 ^ i % 2 = pins.toNat / 2 ^ (27 - i) % 2) ∧
      (∀ i < 18, boundary pins.toNat v / 2 ^ (39 - i) % 2 = pins.toNat / 2 ^ i % 2)) ∧
    (∀ code : Byte, code.toNat < 0x80 ∨ code = 0xFF → exec (.tapVendorInstr code) s = .next s) ∧
    (∀ code : Byte, 0x80 ≤ code.toNat → code ≠ 0xFF → debugLevel s < 3 → exec (.tapVendorInstr code) s = .next (tapLoad code 0 s)) ∧
    (∀ code : Byte, 0x80 ≤ code.toNat → code ≠ 0xFF → 3 ≤ debugLevel s →
      exec (.tapVendorInstr code) s = .next (tapLoad code (Config.freeValue s.free).toNat { s with free := s.free + 1 })) ∧
    (s.boot.step = .dark ∨ s.boot.step = .xtal → exec .tapExtest s = .next { s with tap := { s.tap with ir := 3 } }) ∧
    (s.boot.step ≠ .dark → s.boot.step ≠ .xtal → exec .tapExtest s = .next (warmReset false { s with tap := { s.tap with ir := 3 } })) ∧
    (∀ p : Pll, s.tap.ir = 3 → exec (.pllLockDone p) s = .next s))

/-- The Staquin monitor answers a line only while its controller runs, the strap lets it, and the package is not in
S4. In the boot ROM it takes the commands marked for it; a command above the debug level answers LEVEL. Shown values
change nothing; PIN, RELEASE and WR act as the security and register commands do; RD reads word after word and ends at
the first that it cannot read; an offset past the map, a misaligned one, and a count of 0 answer RANGE, and a halted or
gated target BUSY. -/
def Obligations.MonitorCommandsAnswer : Prop :=
  ∀ s : State,
    let say (c : MonCode) (vals : List Nat) (u : State) : State := { u with mon := { u.mon with replies := u.mon.replies ++ [{ vals, code := c }] } }
    let level1 (i : Instr) := i = .monNonce ∨ ∃ b, i = .monToken b
    let level2 (i : Instr) := (∃ b, i = .monDump b) ∨ i = .monErrlog ∨ i = .monClk ∨ i = .monPwr
    let level3 (i : Instr) := (∃ a n, i = .monRd a n) ∨ (∃ a v, i = .monWr a v) ∨ (∃ n, i = .monPin n) ∨ (∃ n, i = .monRelease n) ∨ i = .monFuse
    let inRom' (i : Instr) := i = .monVer ∨ i = .monLc ∨ i = .monSts ∨ ∃ n, i = .monBaud n
    let rom := s.boot.stage = .romWait ∨ s.boot.stage = .verifying ∨ s.boot.stage = .bootFail
    let runs := s.boot.step = .up ∧ bit s.boot.straps 4 = false ∧ s.pwr.sleep ≠ .s4
    (¬ runs → ∀ i, level1 i ∨ level2 i ∨ level3 i ∨ inRom' i ∨ (∃ w, i = .monLineBad w) → exec i s = .next s) ∧
    (runs → rom → ∀ i, level1 i ∨ level2 i ∨ level3 i → exec i s = .next (say .syntaxErr [] s)) ∧
    (runs → ¬ rom → debugLevel s < 2 → ∀ i, level2 i → exec i s = .next (say .level [] s)) ∧
    (runs → ¬ rom → debugLevel s < 3 → ∀ i, level3 i → exec i s = .next (say .level [] s)) ∧
    (runs → 1 ≤ debugLevel s →
      exec .monVer s = .next (say .ok [rd s 0, rd s 0x40, rd s 0x44, s.boot.svn] s) ∧
      exec .monLc s = .next (say .ok [secLc s] s) ∧
      exec .monSts s = .next (say .ok [rd s 0x0F0000, rd s 0x050050, rd s 0x030004, rd s 0x040004, s.sec.debug, if s.sec.debug = 0 then 0 else (s.sec.debugEnd - s.time) / 1000000000] s) ∧
      (∀ n, exec (.monBaud n) s = .next (if n ∈ [115200, 230400, 460800, 921600, 1500000, 3000000] then
        (let u := say .ok [] s
         { u with mon := { u.mon with baud := n } }) else say .range [] s)) ∧
      exec (.monLineBad .syntaxError) s = .next (say .syntaxErr [] s) ∧ exec (.monLineBad .range) s = .next (say .range [] s) ∧
      exec (.monLineBad .overrun) s = .next (say .overrun [] s)) ∧
    (runs → ¬ rom → 1 ≤ debugLevel s →
      (let n := Config.nonceBytes s.sec.nonces
       exec .monNonce s = .next (say .ok (n.map (·.toNat)) { s with sec := { s.sec with nonces := s.sec.nonces + 1, nonce := some (n, s.time) } })) ∧
      (∀ b, exec (.monToken b) s = .next (if 128 < b.length then say .range [] s else say .ok [] { s with mon := { s.mon with token := s.mon.token ++ b } }))) ∧
    (∀ (s0 : State) (t : Nat), s = advanceTo t s0 →
      let clean : State := { s with mon := { s.mon with token := [] } }
      (¬ runs → exec (.monTokenEnd t) s0 = .next s) ∧
      (runs → rom → exec (.monTokenEnd t) s0 = .next (say .syntaxErr [] s)) ∧
      (runs → ¬ rom → tokenOk s s.mon.token = false → exec (.monTokenEnd t) s0 = .next (say .range [] { clean with sec := { s.sec with nonce := none } })) ∧
      (runs → ¬ rom → tokenOk s s.mon.token = true → exec (.monTokenEnd t) s0 = .next (say .ok [] (presentToken s.mon.token clean).2))) ∧
    (runs → ¬ rom → 2 ≤ debugLevel s →
      (∀ b, (s.halted b = true ∨ blockOff s b = true) → exec (.monDump b) s = .next (say .busy [] s)) ∧
      (∀ b, s.halted b = false → blockOff s b = false → exec (.monDump b) s = .next (say .ok ((primaries b).map (rd s)) s)) ∧
      exec .monErrlog s = .next (say .ok ([rd s 0x040004, rd s 0x040008] ++ s.err.entries.map fun e => leNat (logBytes e)) s) ∧
      exec .monClk s = .next (say .ok [rd s 0x020050, rd s 0x020060, rd s 0x020000, rd s 0x020004, rd s 0x020008, rd s 0x02000C] s) ∧
      exec .monPwr s = .next (say .ok ([rd s 0x030008, s.pwr.avg / 10000, if s.pwr.winN = 0 then 0 else s.pwr.winSum / s.pwr.winN] ++
        (s.pwr.temps.map fun t => (t % 4294967296).toNat) ++ [rd s 0x030004]) s)) ∧
    (runs → ¬ rom → 3 ≤ debugLevel s →
      (∀ n, 0x72 ≤ n → exec (.monPin n) s = .next (say .range [] s) ∧ exec (.monRelease n) s = .next (say .range [] s)) ∧
      (∀ n, n < 0x72 → s.halted .sec = true → exec (.monPin n) s = .next (say .busy [] s) ∧ exec (.monRelease n) s = .next (say .busy [] s)) ∧
      (∀ n, n < 0x72 → s.halted .sec = false → exec (.monPin n) s = .next (say .ok [] (pinCommand n false true s)) ∧
        exec (.monRelease n) s = .next (say .ok [] (pinCommand n true false s))) ∧
      (exec .monFuse s = .next (say .ok (fuseVals s) s)) ∧ (fuseVals s).length = 1031 ∧ (fuseVals s).getLast? = some 0 ∧
      (∀ a, exec (.monRd a 0) s = .next (say .range [] s)) ∧
      (∀ off n, n ≠ 0 → (off % 4 ≠ 0 ∨ blockAt off = none) → exec (.monRd (.bar0 off) n) s = .next (say .range [] s) ∧
        ∀ v, exec (.monWr (.bar0 off) v) s = .next (say .range [] s)) ∧
      (∀ off b rel, off % 4 = 0 → blockAt off = some (b, rel) → mapped b rel = true →
        ((s.halted b = true ∨ blockOff s b = true) → (∀ n, n ≠ 0 → exec (.monRd (.bar0 off) n) s = .next (say .busy [] s)) ∧
          ∀ v, exec (.monWr (.bar0 off) v) s = .next (say .busy [] s)) ∧
        (s.halted b = false → blockOff s b = false →
          (∀ v, exec (.monWr (.bar0 off) v) s = .next (say .ok [] (regWrite4 monitorAgent off v s))) ∧
          exec (.monRd (.bar0 off) 1) s = .next (say .ok [(readReg monitorAgent off s).toNat] (match counterAt off with
            | some r => setLatch r s
            | none => s)))) ∧
      (∀ off b rel, off % 4 = 0 → blockAt off = some (b, rel) → mapped b rel = false →
        (∀ n, n ≠ 0 → exec (.monRd (.bar0 off) n) s = .next (say .range [] s)) ∧ ∀ v, exec (.monWr (.bar0 off) v) s = .next (say .range [] s)) ∧
      (∀ a n, n ≠ 0 → exec (.monRd a n) s = .next (monReads a n 0 [] s)) ∧
      (∀ a i vs u, monReads a 0 i vs u = say .ok vs u) ∧
      (∀ a n i vs u x w, monReadOne a i u = .val x w → monReads a (n + 1) i vs u = monReads a n (i + 1) (vs ++ [x]) w) ∧
      (∀ a n i vs u c w, monReadOne a i u = .bad c w → monReads a (n + 1) i vs u = say c vs w) ∧
      (∀ off i u, monReadOne (.bar0 off) i u = monReadReg (off + 4 * i) u) ∧
      (∀ (pa : BitVec 49) i u, monReadOne (.phys pa) i u = monReadMem (pa.toNat + 4 * i) u) ∧
      (∀ pa : BitVec 49, (pa.toNat % 4 ≠ 0 ∨ loops s pa.toNat = true) → exec (.monRd (.phys pa) 1) s = .next (say .range [] s) ∧
        ∀ v, exec (.monWr (.phys pa) v) s = .next (say .range [] s)) ∧
      (∀ (pa : BitVec 49) c u, pa.toNat % 4 = 0 → loops s pa.toNat = false → paRead 0 Attr.plain pa.toNat 4 s = .fault c u →
        exec (.monRd (.phys pa) 1) s = .next (say (if c = .gated then .busy else .range) [] u)) ∧
      (∀ pa : BitVec 49, pa.toNat % 4 = 0 → loops s pa.toNat = false → (paRead 0 Attr.plain pa.toNat 4 s = .wait ∨ paRead 0 Attr.plain pa.toNat 4 s = .severed) →
        exec (.monRd (.phys pa) 1) s = .next (say .busy [] s)) ∧
      (∀ (pa : BitVec 49) (v : Word) c u, pa.toNat % 4 = 0 → loops s pa.toNat = false → paWrite 0 Attr.plain pa.toNat (natLe 4 v.toNat) s = .fault c u →
        exec (.monWr (.phys pa) v) s = .next (say (if c = .gated then .busy else .range) [] u)) ∧
      (∀ (pa : BitVec 49) (v : Word), pa.toNat % 4 = 0 → loops s pa.toNat = false →
        (paWrite 0 Attr.plain pa.toNat (natLe 4 v.toNat) s = .wait ∨ paWrite 0 Attr.plain pa.toNat (natLe 4 v.toNat) s = .severed) →
        exec (.monWr (.phys pa) v) s = .next (say .busy [] s)) ∧
      (∀ (pa : BitVec 49) bs u, pa.toNat % 4 = 0 → loops s pa.toNat = false → paRead 0 Attr.plain pa.toNat 4 s = .ok bs u →
        exec (.monRd (.phys pa) 1) s = .next (say .ok [leNat bs] u)) ∧
      (∀ (pa : BitVec 49) (v : Word) x u, pa.toNat % 4 = 0 → loops s pa.toNat = false → paWrite 0 Attr.plain pa.toNat (natLe 4 v.toNat) s = .ok x u →
        exec (.monWr (.phys pa) v) s = .next (say .ok [] u)))
end

