-- ==== Sys2Proof/Laws/Errors.lean ====
section
/-! SUPPORT. The error log (R448 to R452): what logging an error does when nothing escalates. -/

namespace Sys2Proof.Machine

open Sys2Proof

/-- An error that is logged plainly adds its entry to the log and does nothing else. -/
theorem logError_plain {s : State} {code src : Nat} (ctx info0 info1 : Nat)
    (h : logsPlainly s src (codeClass code)) :
    logError code src ctx info0 info1 false s = withLog code (codeClass code) src ctx info0 info1 s := by
  obtain ⟨h1, h2, h3⟩ := h
  have h4 : ¬ 2 ≤ inService s src := by omega
  have h5 : bit (State.raw { s with err := { s.err with
      entries := s.err.entries ++ [{ slot := ((upTo 32).find? fun i => !s.err.entries.any fun e => e.slot = i).getD 0, t := s.time, seq := s.err.seq + 1, code, cls := codeClass code, src, flags := b2n (decide (1 ≤ inService s src)), ctx, info0, info1 }],
      seq := s.err.seq + 1 } } 0 0x040000).toNat 31 = false := h3
  simp only [logError, h1, if_true, logWrite, h2, h4, decide_false, b2n, State.onErr]
  simp [withLog, b2n] at h5 ⊢
  simp [h5]

end Sys2Proof.Machine
end

