-- ==== Sys2Proof/Laws/Tables.lean ====
section
/-! SUPPORT. Sparse tables: a set keeps the canonical form, and what a get answers after a set. -/

namespace Sys2Proof.Machine

open Sys2Proof

variable {α : Type} [DecidableEq α]

/-- The canonical form as a condition on head and tail: every key of the tail is greater. -/
theorem tblWf_cons (d : α) (e : Nat × α) (t : Tbl α) :
    tblWf d (e :: t) = true ↔ e.2 ≠ d ∧ tblWf d t = true ∧ ∀ x ∈ t, e.1 < x.1 := by
  induction t generalizing e with
  | nil => simp [tblWf]
  | cons x t ih =>
    have h : tblWf d (e :: x :: t) = (decide (e.2 ≠ d) && decide (e.1 < x.1) && tblWf d (x :: t)) := rfl
    rw [h]
    simp only [Bool.and_eq_true, decide_eq_true_eq, List.mem_cons, forall_eq_or_imp]
    constructor
    · rintro ⟨⟨h1, h2⟩, h3⟩
      refine ⟨h1, h3, h2, fun y hy => ?_⟩
      exact lt_trans h2 (((ih x).mp h3).2.2 y hy)
    · rintro ⟨h1, h3, h2, _⟩
      exact ⟨⟨h1, h2⟩, h3⟩

/-- Dropping keys keeps the canonical form. -/
theorem filter_wf {d : α} {t : Tbl α} (p : Nat × α → Bool) (h : tblWf d t = true) : tblWf d (t.filter p) = true := by
  induction t with
  | nil => rfl
  | cons e t ih =>
    obtain ⟨h1, h2, h3⟩ := (tblWf_cons d e t).mp h
    rw [List.filter_cons]
    split
    · exact (tblWf_cons d _ _).mpr ⟨h1, ih h2, fun x hx => h3 x (List.mem_of_mem_filter hx)⟩
    · exact ih h2

omit [DecidableEq α] in
/-- What a put lists: the old entries and the new one. -/
theorem mem_tblPut {k : Nat} {v : α} {t : Tbl α} {x : Nat × α} (h : x ∈ tblPut k v t) : x = (k, v) ∨ x ∈ t := by
  induction t with
  | nil => exact .inl (by simpa [tblPut] using h)
  | cons e t ih =>
    simp only [tblPut] at h
    split at h
    · exact (List.mem_cons.mp h).imp id id
    · rcases List.mem_cons.mp h with h | h
      · exact .inr (by simp [h])
      · exact (ih h).imp id (List.mem_cons_of_mem _)

/-- A put of a key not listed keeps the canonical form. -/
theorem tblPut_wf {d v : α} {t : Tbl α} {k : Nat} (h : tblWf d t = true) (hk : ∀ x ∈ t, x.1 ≠ k) (hv : v ≠ d) :
    tblWf d (tblPut k v t) = true := by
  induction t with
  | nil => simp [tblPut, tblWf, hv]
  | cons e t ih =>
    obtain ⟨h1, h2, h3⟩ := (tblWf_cons d e t).mp h
    have hne := hk e (by simp)
    simp only [tblPut]
    split
    · rename_i hlt
      refine (tblWf_cons d _ _).mpr ⟨hv, h, fun x hx => ?_⟩
      rcases List.mem_cons.mp hx with hx | hx
      · simpa [hx] using hlt
      · exact lt_trans hlt (h3 x hx)
    · refine (tblWf_cons d _ _).mpr ⟨h1, ih h2 fun x hx => hk x (List.mem_cons_of_mem _ hx), fun x hx => ?_⟩
      rcases mem_tblPut hx with hx | hx
      · rw [hx]; omega
      · exact h3 x hx

/-- A set keeps the canonical form. -/
theorem tblSet_wf {d : α} {t : Tbl α} (h : tblWf d t = true) (k : Nat) (v : α) : tblWf d (tblSet d t k v) = true := by
  simp only [tblSet]
  split
  · exact filter_wf _ h
  · exact tblPut_wf (filter_wf _ h) (fun x hx => by simpa using List.of_mem_filter hx) ‹_›

omit [DecidableEq α] in
/-- A get of a key that is not listed answers the default. -/
theorem tblGet_absent {d : α} {t : Tbl α} {k : Nat} (h : ∀ x ∈ t, x.1 ≠ k) : tblGet d t k = d := by
  induction t with
  | nil => rfl
  | cons e t ih =>
    simp only [tblGet]
    rw [if_neg (fun hk => h e (by simp) hk.symm)]
    exact ih fun x hx => h x (List.mem_cons_of_mem _ hx)

omit [DecidableEq α] in
/-- A get after a put of a key not listed. -/
theorem tblGet_tblPut {d v : α} {t : Tbl α} {k : Nat} (h : ∀ x ∈ t, x.1 ≠ k) (j : Nat) :
    tblGet d (tblPut k v t) j = if j = k then v else tblGet d t j := by
  induction t with
  | nil => simp [tblPut, tblGet]
  | cons e t ih =>
    have he := h e (by simp)
    simp only [tblPut]
    split
    · rfl
    · simp only [tblGet, ih fun x hx => h x (List.mem_cons_of_mem _ hx)]
      by_cases hj : j = e.1
      · rw [if_pos hj, if_neg (by omega), if_pos hj]
      · simp [hj]

omit [DecidableEq α] in
/-- A get of a key that a filter keeps. -/
theorem tblGet_filter {d : α} {t : Tbl α} {k j : Nat} (hj : j ≠ k) : tblGet d (t.filter fun e => e.1 ≠ k) j = tblGet d t j := by
  induction t with
  | nil => rfl
  | cons e t ih =>
    rw [List.filter_cons]
    split
    · simp only [tblGet, ih]
    · rename_i hk
      have hk : e.1 = k := by simpa using hk
      rw [ih]; simp [tblGet, hk, hj]

/-- A get after a set, in a table of any form. -/
theorem tblGet_tblSet (d : α) (t : Tbl α) (k j : Nat) (v : α) :
    tblGet d (tblSet d t k v) j = if j = k then v else tblGet d t j := by
  have hk : ∀ x ∈ t.filter fun e => e.1 ≠ k, x.1 ≠ k := fun x hx => by simpa using List.of_mem_filter hx
  simp only [tblSet]
  split
  · rename_i hv
    by_cases hj : j = k
    · rw [if_pos hj, hv, hj]; exact tblGet_absent hk
    · rw [if_neg hj]; exact tblGet_filter hj
  · rw [tblGet_tblPut hk]
    by_cases hj : j = k
    · rw [if_pos hj, if_pos hj]
    · rw [if_neg hj, if_neg hj]; exact tblGet_filter hj

/-- A get of the key just set answers the value. -/
@[simp] theorem tblGet_tblSet_same (d : α) (t : Tbl α) (k : Nat) (v : α) : tblGet d (tblSet d t k v) k = v := by
  rw [tblGet_tblSet, if_pos rfl]

/-- A get of another key answers as before, whatever the defaults. -/
theorem tblGet_tblSet_ne (d d' : α) (t : Tbl α) {k j : Nat} (v : α) (hj : j ≠ k) :
    tblGet d' (tblSet d t k v) j = tblGet d' t j := by
  have hk : ∀ x ∈ t.filter fun e => e.1 ≠ k, x.1 ≠ k := fun x hx => by simpa using List.of_mem_filter hx
  simp only [tblSet]
  split
  · exact tblGet_filter hj
  · rw [tblGet_tblPut hk, if_neg hj]; exact tblGet_filter hj

omit [DecidableEq α] in
/-- Dropping the key of a put gives back the table. -/
theorem filter_tblPut {t : Tbl α} {k : Nat} (v : α) :
    ((tblPut k v t).filter fun e => e.1 ≠ k) = t.filter fun e => e.1 ≠ k := by
  induction t with
  | nil => simp [tblPut]
  | cons e t ih =>
    simp only [tblPut]
    split
    · simp
    · rw [List.filter_cons, List.filter_cons, ih]

/-- The later of two sets of one key holds. -/
@[simp] theorem tblSet_tblSet (d : α) (t : Tbl α) (k : Nat) (v w : α) :
    tblSet d (tblSet d t k v) k w = tblSet d t k w := by
  have h : ((tblSet d t k v).filter fun e => e.1 ≠ k) = t.filter fun e => e.1 ≠ k := by
    simp only [tblSet]
    split
    · simp [List.filter_filter]
    · rw [filter_tblPut]; simp [List.filter_filter]
  show (if w = d then ((tblSet d t k v).filter fun e => e.1 ≠ k) else tblPut k w ((tblSet d t k v).filter fun e => e.1 ≠ k)) = _
  rw [h]; rfl

omit [DecidableEq α] in
/-- A put keeps keys in order. -/
theorem tblPut_sorted {t : Tbl α} {k : Nat} (v : α) (h : t.Pairwise fun a b => a.1 < b.1) (hk : ∀ x ∈ t, x.1 ≠ k) :
    (tblPut k v t).Pairwise fun a b => a.1 < b.1 := by
  induction t with
  | nil => simp [tblPut]
  | cons e t ih =>
    have he := hk e (by simp)
    obtain ⟨h1, h2⟩ := List.pairwise_cons.mp h
    simp only [tblPut]
    split
    · rename_i hlt
      refine List.pairwise_cons.mpr ⟨fun x hx => ?_, h⟩
      rcases List.mem_cons.mp hx with hx | hx
      · simpa [hx] using hlt
      · exact lt_trans hlt (h1 x hx)
    · refine List.pairwise_cons.mpr ⟨fun x hx => ?_, ih h2 fun x hx => hk x (List.mem_cons_of_mem _ hx)⟩
      rcases mem_tblPut hx with hx | hx
      · rw [hx]; show e.1 < k; omega
      · exact h1 x hx

/-- A set keeps keys in order. -/
theorem tblSet_sorted {d : α} {t : Tbl α} (k : Nat) (v : α) (h : t.Pairwise fun a b => a.1 < b.1) :
    (tblSet d t k v).Pairwise fun a b => a.1 < b.1 := by
  simp only [tblSet]
  split
  · exact h.filter _
  · exact tblPut_sorted v (h.filter _) fun x hx => by simpa using List.of_mem_filter hx

/-! ## What was set last is read -/

section reads

variable (s : State)

@[simp] theorem ctx_setCtx (n : Nat) (c : Ctx) : (s.setCtx n c).ctx n = c := tblGet_tblSet_same _ _ _ _
@[simp] theorem ring_setRing (r : Nat) (x : Ring) : (s.setRing r x).ring r = x := tblGet_tblSet_same _ _ _ _
@[simp] theorem fence_setFence (k : Nat) (f : Fence) : (s.setFence k f).fence k = f := tblGet_tblSet_same _ _ _ _
@[simp] theorem plan_setPlan (d : Nat) (x : Reshard) : (s.setPlan d x).plan d = x := tblGet_tblSet_same _ _ _ _
@[simp] theorem pipe_setPipe (p : Nat) (x : Pipe) : (s.setPipe p x).pipe p = x := tblGet_tblSet_same _ _ _ _
@[simp] theorem l2_setL2 (d : Nat) (x : L2) : (s.setL2 d x).l2 d = x := tblGet_tblSet_same _ _ _ _
@[simp] theorem power_setPower (u : Nat) (p : UnitPower) : (s.setPower u p).power u = p := tblGet_tblSet_same _ _ _ _
@[simp] theorem crossing_setCrossing (n : Nat) (x : Crossing) : (s.setCrossing n x).crossing n = x := tblGet_tblSet_same _ _ _ _
@[simp] theorem raw_setRaw (fn off : Nat) (w : Word) : (s.setRaw fn off w).raw fn off = w := tblGet_tblSet_same _ _ _ _

theorem ctx_setCtx_ne {n k : Nat} (c : Ctx) (h : k ≠ n) : (s.setCtx n c).ctx k = s.ctx k := tblGet_tblSet_ne _ _ _ _ h
theorem ring_setRing_ne {r k : Nat} (x : Ring) (h : k ≠ r) : (s.setRing r x).ring k = s.ring k := tblGet_tblSet_ne _ _ _ _ h
theorem fence_setFence_ne {n k : Nat} (f : Fence) (h : k ≠ n) : (s.setFence n f).fence k = s.fence k := tblGet_tblSet_ne _ _ _ _ h
theorem plan_setPlan_ne {d k : Nat} (x : Reshard) (h : k ≠ d) : (s.setPlan d x).plan k = s.plan k := tblGet_tblSet_ne _ _ _ _ h
theorem pipe_setPipe_ne {p k : Nat} (x : Pipe) (h : k ≠ p) : (s.setPipe p x).pipe k = s.pipe k := tblGet_tblSet_ne _ _ _ _ h
theorem l2_setL2_ne {d k : Nat} (x : L2) (h : k ≠ d) : (s.setL2 d x).l2 k = s.l2 k := tblGet_tblSet_ne _ _ _ _ h
theorem power_setPower_ne {u k : Nat} (p : UnitPower) (h : k ≠ u) : (s.setPower u p).power k = s.power k := tblGet_tblSet_ne _ _ _ _ h
theorem crossing_setCrossing_ne {n k : Nat} (x : Crossing) (h : k ≠ n) : (s.setCrossing n x).crossing k = s.crossing k := tblGet_tblSet_ne _ _ _ _ h
theorem raw_setRaw_ne {fn off fn' off' : Nat} (w : Word) (h : regKey fn' off' ≠ regKey fn off) :
    (s.setRaw fn off w).raw fn' off' = s.raw fn' off' := tblGet_tblSet_ne _ _ _ _ h

end reads

end Sys2Proof.Machine
end

