-- ==== Sys2Proof/Laws/Fences.lean ====
section
/-! SUPPORT. Fences: a queue with no message for a fence, slots that
are not there, and errors that no armed plan and no pending commit waits for. -/

namespace Sys2Proof.Machine

open Sys2Proof

/-- With no message queued for a fence, draining it changes nothing. -/
theorem drainFence_nil {s : State} {k : Nat} (h : ∀ m ∈ s.fen.queue, m.fence ≠ k) : drainFence k s = s := by
  have h1 : s.fen.queue.filter (fun m => m.fence = k) = [] := by
    rw [List.filter_eq_nil_iff]; intro m hm; simpa using h m hm
  have h2 : s.fen.queue.filter (fun m => m.fence ≠ k) = s.fen.queue := by
    rw [List.filter_eq_self]; intro m hm; simpa using h m hm
  simp only [drainFence, h1, List.foldl_nil, State.onFen, h2]

/-- A time that has come already changes nothing. -/
theorem advanceTo_past {t : Nat} {s : State} (h : t ≤ s.time) : advanceTo t s = s := by
  simp [advanceTo, h]

/-- What a host stores before a read, and which of its ranges fail, is memory's alone. -/
theorem applyIO_onlyMem (io : HostIO) (s : State) : ∃ m, applyIO io s = { s with mem := m } := by
  have key : ∀ (l : List Host.Cell) (u : State),
      ∃ m, l.foldl (fun v c => cellSet (2 ^ 48 + c.1 % 2 ^ 48) c.2 v) u = { u with mem := m } := by
    intro l
    induction l with
    | nil => exact fun u => ⟨_, rfl⟩
    | cons a l ih =>
      intro u
      rw [List.foldl_cons]
      obtain ⟨m, h⟩ := ih (cellSet (2 ^ 48 + a.1 % 2 ^ 48) a.2 u)
      exact ⟨m, h.trans rfl⟩
  obtain ⟨m, h⟩ := key io.writes s
  exact ⟨_, by unfold applyIO; rw [h]; rfl⟩

/-- A fold whose every step leaves the state as it is leaves it so. -/
theorem foldl_same {α : Type} {f : State → α → State} {s : State} {l : List α} (h : ∀ a ∈ l, f s a = s) :
    l.foldl f s = s := by
  induction l with
  | nil => rfl
  | cons a l ih =>
    rw [List.foldl_cons, h a (by simp), ih fun b hb => h b (by simp [hb])]

/-- A fence with no notify slot set fires none (R112). -/
theorem fireSlots_nil {s : State} {k : Nat} (h : (s.fence k).slots = []) : fireSlots k s = s := by
  refine foldl_same fun i _ => ?_
  simp [Fence.slot, h, tblGet, NotifySlot.empty]

/-- Ops that are not over are left as they are. -/
theorem closeOps_nil {s : State} (h1 : ∀ r ∈ s.tns.runs, inFlight s r.op) (h2 : s.dsp.reports = [])
    (h3 : ∀ p ∈ s.rnd.passes, inFlight s p.op) : closeOps s = s := by
  have k1 : s.tns.runs.foldl (fun s r => closeRun r s) s = s := by
    refine foldl_same fun r hr => ?_
    obtain ⟨e, p, h, hp, he⟩ := h1 r hr
    simp [closeRun, h, hp, he]
  have k3 : s.rnd.passes.foldl (fun s p => closePass p s) s = s := by
    refine foldl_same fun q hq => ?_
    obtain ⟨e, p, h, hp, he⟩ := h3 q hq
    simp [closePass, h, hp, he]
  simp only [closeOps, k1, h2, List.foldl_nil, k3]

/-- An error with no armed plan, no pending commit and no op to end does nothing more (R225, R322). -/
theorem errorHooks_nil {s : State} (h : noHooks s) : errorHooks s = s := by
  have h1 : planHooks s = s := by
    refine foldl_same fun d hd => ?_
    have hd : d < 2 := by simpa [upTo] using hd
    have hn := h.1 ⟨d, hd⟩
    have hs : planSlot d s = s := by simp [planSlot, hn]
    simp [hs, hn]
  have h2 : commitHooks s = s := by
    refine foldl_same fun p hp => ?_
    have hp : p < 4 := by simpa [upTo] using hp
    have hn : livePend s p = none := by simp [livePend, h.2.1 ⟨p, hp⟩]
    simp [hn]
  rw [errorHooks, h1, h2, closeOps_nil h.2.2.1 h.2.2.2.1 h.2.2.2.2]

end Sys2Proof.Machine
end

