-- ==== Sys2Proof/Laws/Memory.lean ====
section
/-! SUPPORT. What accesses to memory can do: outside Chrysalis they change the group `mem` only, and
every one keeps the canonical form of the stored bytes and of the L2s' table. -/

namespace Sys2Proof.Machine

open Sys2Proof

/-- t is z but for its memory group, whose bytes stay canonical; and z is not in Chrysalis. -/
def MemOnly (z t : State) : Prop := inS3 z = false ∧ (∃ m, t = { z with mem := m }) ∧ (memInv z → memInv t)

theorem MemOnly.refl {z : State} (h : inS3 z = false) : MemOnly z z := ⟨h, ⟨z.mem, rfl⟩, id⟩

theorem MemOnly.trans {a b c : State} (h : MemOnly a b) (k : MemOnly b c) : MemOnly a c := by
  obtain ⟨h0, ⟨m, rfl⟩, h2⟩ := h
  obtain ⟨_, ⟨n, rfl⟩, k2⟩ := k
  exact ⟨h0, ⟨n, rfl⟩, fun x => k2 (h2 x)⟩

theorem MemOnly.inS3 {z t : State} (h : MemOnly z t) : inS3 t = false := by
  obtain ⟨h0, ⟨m, rfl⟩, _⟩ := h
  exact h0

/-- A change of the memory group that leaves the bytes and the L2s alone. -/
theorem MemOnly.onMem {z s : State} (f : MemSys → MemSys) (h : MemOnly z s) (hf : ∀ m, (f m).cells = m.cells ∧ (f m).l2 = m.l2) :
    MemOnly z (s.onMem f) := by
  refine h.trans ⟨h.inS3, ⟨f s.mem, rfl⟩, fun x => ?_⟩
  unfold memInv at x ⊢
  show Memory.wf (f s.mem).cells = true ∧ tblWf L2.empty (f s.mem).l2 = true
  rw [(hf s.mem).1, (hf s.mem).2]; exact x

theorem cellSet_mo {z s : State} (a : Nat) (b : Byte) (h : MemOnly z s) : MemOnly z (cellSet a b s) := by
  refine h.trans ⟨h.inS3, ⟨_, rfl⟩, fun x => ?_⟩
  exact ⟨tblSet_wf x.1 a b, x.2⟩

theorem foldl_mo {α : Type} {z : State} {f : State → α → State} (hf : ∀ s a, MemOnly z s → MemOnly z (f s a))
    {s : State} (l : List α) (h : MemOnly z s) : MemOnly z (l.foldl f s) := by
  induction l generalizing s with
  | nil => exact h
  | cons a l ih => exact ih (hf s a h)

theorem cellsSet_mo {z s : State} (a : Nat) (bs : List Byte) (h : MemOnly z s) : MemOnly z (cellsSet a bs s) := by
  induction bs generalizing a s with
  | nil => exact h
  | cons b bs ih => exact ih (a + 1) (cellSet_mo a b h)

theorem applyIO_mo {z s : State} (io : HostIO) (h : MemOnly z s) : MemOnly z (applyIO io s) := by
  unfold applyIO
  dsimp only
  apply MemOnly.onMem
  · exact foldl_mo (fun _ _ hs => cellSet_mo _ _ hs) _ h
  · intro _; exact ⟨rfl, rfl⟩

theorem setL2_mo {z s : State} (d : Nat) (x : L2) (h : MemOnly z s) : MemOnly z (s.setL2 d x) :=
  h.trans ⟨h.inS3, ⟨_, rfl⟩, fun y => ⟨y.1, tblSet_wf y.2 d x⟩⟩

theorem retag_mo {z s : State} (tag pa cell : Nat) (h : MemOnly z s) : MemOnly z (retag tag pa cell s) := by
  unfold retag
  dsimp only
  split
  · exact h
  · apply MemOnly.onMem
    · exact cellsSet_mo _ _ h
    · intro _; exact ⟨rfl, rfl⟩

theorem dramWrite_mo {z s : State} (key pa : Nat) (bs : List Byte) (h : MemOnly z s) :
    MemOnly z (dramWrite key pa bs s) := by
  induction bs generalizing pa s with
  | nil => exact h
  | cons b bs ih =>
    unfold dramWrite
    apply ih
    split
    · exact cellSet_mo _ _ (retag_mo _ _ _ h)
    · exact h

theorem fbcWriteBlock_mo {z s : State} (key frame i : Nat) (bs : List Byte) (h : MemOnly z s) :
    MemOnly z (fbcWriteBlock key frame i bs s) := by
  unfold fbcWriteBlock
  dsimp only
  apply dramWrite_mo
  split_ifs <;> first | exact h | exact dramWrite_mo _ _ _ h

theorem lineOut_mo {z s : State} (key line off : Nat) (bs : List Byte) (h : MemOnly z s) :
    MemOnly z (lineOut key line off bs s) := by
  unfold lineOut
  dsimp only
  split
  · exact cellsSet_mo _ _ h
  · exact dramWrite_mo _ _ _ h

theorem metaMet_mo {z s : State} (d key line : Nat) (code : Option Nat) (h : MemOnly z s) : MemOnly z (metaMet d key line code s) := by
  cases code with
  | none => exact h
  | some c => exact MemOnly.onMem (fun m => { m with metaErrs := m.metaErrs ++ [{ die := d, key, code := c, pa := fbcBase s + 32 * (line / 32) }] }) h fun _ => ⟨rfl, rfl⟩

theorem writeBack_mo {z s : State} (l : L2Line) (h : MemOnly z s) : MemOnly z (writeBack l s) := by
  unfold writeBack
  dsimp only
  split
  · apply fbcWriteBlock_mo
    split
    · exact h
    · exact metaMet_mo _ _ _ _ h
  · exact lineOut_mo _ _ _ _ h

theorem l2Drop_mo {z s : State} (d : Nat) (p : L2Line → Bool) (h : MemOnly z s) : MemOnly z (l2Drop d p s) :=
  setL2_mo _ _ h

theorem wcFlush_mo {z s : State} (d : Nat) (w : WcBuf) (h : MemOnly z s) : MemOnly z (wcFlush d w s) :=
  setL2_mo _ _ (foldl_mo (fun _ _ hs => lineOut_mo _ _ _ _ hs) _ h)

theorem wcFlushIf_mo {z s : State} (d : Nat) (p : WcBuf → Bool) (h : MemOnly z s) : MemOnly z (wcFlushIf d p s) :=
  foldl_mo (fun _ _ hs => wcFlush_mo _ _ hs) _ h

theorem wcFlushAll_mo {z s : State} (h : MemOnly z s) : MemOnly z (wcFlushAll s) :=
  wcFlushIf_mo _ _ (wcFlushIf_mo _ _ h)

theorem l2Place_mo {z s : State} (d line way key : Nat) (fbc dirty : Bool) (data : List Byte) (h : MemOnly z s) :
    MemOnly z (l2Place d line way key fbc dirty data s) := setL2_mo _ _ h

theorem l2Fill_mo {z s : State} (d : Nat) (m : L2Miss) (h : MemOnly z s) : MemOnly z (l2Fill d m s) :=
  l2Place_mo _ _ _ _ _ _ _ (metaMet_mo _ _ _ _ (setL2_mo _ _ h))

theorem l2FillIf_mo {z s : State} (d : Nat) (p : L2Miss → Bool) (h : MemOnly z s) : MemOnly z (l2FillIf d p s) :=
  foldl_mo (fun _ _ hs => l2Fill_mo _ _ hs) _ h

theorem l2Victim_mo {z s : State} (d line : Nat) (h : MemOnly z s) : MemOnly z (l2Victim d line s).2 := by
  unfold l2Victim
  dsimp only
  split
  · exact h
  · exact l2Drop_mo _ _ (foldl_mo (fun _ _ hs => writeBack_mo _ hs) _ (l2FillIf_mo _ _ (setL2_mo _ _ h)))

theorem l2Insert_mo {z s : State} (d line key : Nat) (fbc dirty : Bool) (data : List Byte) (h : MemOnly z s) :
    MemOnly z (l2Insert d line key fbc dirty data s) :=
  l2Place_mo _ _ _ _ _ _ _ (l2Victim_mo d line h)

theorem l2OtherKey_mo {z s : State} (d line key : Nat) (h : MemOnly z s) : MemOnly z (l2OtherKey d line key s) :=
  l2Drop_mo _ _ (foldl_mo (fun _ _ hs => writeBack_mo _ hs) _ (l2FillIf_mo _ _ h))

theorem l2Miss_mo {z s : State} (d line key : Nat) (fbc pref : Bool) (w : List (Nat × Byte)) (h : MemOnly z s) :
    MemOnly z (l2Miss d line key fbc pref w s) := by
  unfold l2Miss
  dsimp only
  apply MemOnly.onMem
  · exact setL2_mo _ _ (l2Victim_mo _ _ h)
  · intro _; exact ⟨rfl, rfl⟩

theorem l2Prefetch_mo {z s : State} (d line : Nat) (a : Attr) (h : MemOnly z s) : MemOnly z (l2Prefetch d line a s) := by
  unfold l2Prefetch
  dsimp only
  split
  · exact l2Miss_mo _ _ _ _ _ _ (wcFlushIf_mo _ _ h)
  · exact h

theorem l2ReadLine_mo {z s : State} (d line : Nat) (a : Attr) (h : MemOnly z s) :
    MemOnly z (l2ReadLine d line a s).2 := by
  have h1 := l2OtherKey_mo d line a.key (wcFlushIf_mo d (fun w => decide (w.line = line)) h)
  unfold l2ReadLine
  dsimp only
  split
  · exact h1
  · split
    · exact h1
    · split
      · exact l2Prefetch_mo _ _ _ (l2Miss_mo _ _ _ _ _ _ h1)
      · exact h1

theorem l2Merge_mo {z s : State} (d line : Nat) (wb : Bool) (w : List (Nat × Byte)) (h : MemOnly z s) :
    MemOnly z (l2Merge d line wb w s) := setL2_mo _ _ h

theorem wcWrite_mo {z s : State} (d line key off : Nat) (bs : List Byte) (h : MemOnly z s) :
    MemOnly z (wcWrite d line key off bs s) := by
  unfold wcWrite
  dsimp only
  apply wcFlushIf_mo
  split
  · exact setL2_mo _ _ (wcFlushIf_mo _ _ h)
  · apply setL2_mo
    split
    · split
      · exact wcFlush_mo _ _ (wcFlushIf_mo _ _ h)
      · exact wcFlushIf_mo _ _ h
    · exact wcFlushIf_mo _ _ h

theorem l2WriteLine_mo {z s : State} (d line off : Nat) (bs : List Byte) (a : Attr) (h : MemOnly z s) :
    MemOnly z (l2WriteLine d line off bs a s) := by
  unfold l2WriteLine
  dsimp only
  have h1 : MemOnly z (if a.cache = 2 ∧ ¬ a.fbc = true then s else wcFlushIf d (fun w => decide (w.line = line)) s) := by
    split
    · exact h
    · exact wcFlushIf_mo _ _ h
  have h2 := l2OtherKey_mo d line a.key h1
  generalize l2OtherKey d line a.key (if a.cache = 2 ∧ ¬ a.fbc = true then s else wcFlushIf d (fun w => decide (w.line = line)) s) = s2 at h2 ⊢
  split
  · split
    · exact setL2_mo _ _ h2
    · exact lineOut_mo _ _ _ _ (setL2_mo _ _ h2)
  · split_ifs
    · exact l2Merge_mo _ _ _ _ h2
    · exact l2Insert_mo _ _ _ _ _ _ h2
    · exact l2Miss_mo _ _ _ _ _ _ h2
    · exact wcWrite_mo _ _ _ _ _ h2
    · exact lineOut_mo _ _ _ _ (l2Merge_mo _ _ _ _ h2)

theorem l2Empty_mo {z s : State} (h : MemOnly z s) : MemOnly z (l2Empty s) := by
  unfold l2Empty
  refine foldl_mo (fun s d hs => ?_) _ (wcFlushAll_mo h)
  apply setL2_mo
  refine foldl_mo (fun s l hs => ?_) _ (foldl_mo (fun _ _ hs => l2Fill_mo _ _ hs) _ hs)
  split
  · exact writeBack_mo _ hs
  · exact hs

theorem l2Pass_mo {z s : State} (h : MemOnly z s) : MemOnly z (l2Pass s) := by
  unfold l2Pass
  split
  · exact l2Empty_mo h
  · exact h

theorem wakeChannel_mo {z s : State} (ch : Nat) (h : MemOnly z s) : MemOnly z (wakeChannel ch s) := by
  unfold wakeChannel
  rw [if_neg (by simp [h.inS3])]
  exact h

theorem paReadPart_mo {z s t : State} {ctx : Nat} {a : Attr} {pa n : Nat} {bs : List Byte} (h : MemOnly z s)
    (hr : paReadPart ctx a pa n s = .ok bs t) : MemOnly z t := by
  unfold paReadPart at hr
  dsimp only at hr
  split at hr
  · cases hr
  · split at hr
    · cases hr
    · cases hr
    · injection hr with _ hr
      exact hr ▸ l2Pass_mo (l2ReadLine_mo _ _ _ (wakeChannel_mo _ h))
  · split_ifs at hr
    injection hr with _ hr
    exact hr ▸ l2Pass_mo (l2ReadLine_mo _ _ _ h)
  all_goals
    split at hr
    · cases hr
    · cases hr
    · cases hr
    · split at hr
      · cases hr
      · injection hr with _ hr
        exact hr ▸ h

theorem paWritePart_mo {z s t : State} {ctx : Nat} {a : Attr} {pa : Nat} {bs : List Byte} {u : Unit} (h : MemOnly z s)
    (hr : paWritePart ctx a pa bs s = .ok u t) : MemOnly z t := by
  unfold paWritePart at hr
  dsimp only at hr
  split at hr
  · cases hr
  · split at hr
    · cases hr
    · cases hr
    · injection hr with _ hr
      exact hr ▸ l2Pass_mo (l2WriteLine_mo _ _ _ _ _ (wakeChannel_mo _ h))
  · split_ifs at hr
    injection hr with _ hr
    exact hr ▸ l2Pass_mo (l2WriteLine_mo _ _ _ _ _ h)
  all_goals
    split at hr
    · cases hr
    · cases hr
    · cases hr
    · split at hr
      · cases hr
      · injection hr with _ hr
        subst hr
        apply MemOnly.onMem
        · exact cellsSet_mo _ _ h
        · intro _; exact ⟨rfl, rfl⟩

theorem paRead_mo {z s t : State} {ctx : Nat} {a : Attr} {pa n : Nat} {bs : List Byte} (h : MemOnly z s)
    (hr : paRead ctx a pa n s = .ok bs t) : MemOnly z t := by
  unfold paRead at hr
  generalize cutLines (n + 1) pa n = l at hr
  have key : ∀ (l : List (Nat × Nat)) (acc : Acc (List Byte)), (∀ b u, acc = .ok b u → MemOnly z u) →
      ∀ b u, l.foldl (fun acc p => match acc with
        | .ok bs s => match paReadPart ctx a p.1 p.2 s with
          | .ok b s => .ok (bs ++ b) s
          | .fault c s => .fault c s
          | .severed => .severed
          | .wait => .wait
        | other => other) acc = .ok b u → MemOnly z u := by
    intro l
    induction l with
    | nil => intro acc ha b u hu; exact ha b u hu
    | cons p l ih =>
      intro acc ha b u hu
      refine ih _ ?_ b u hu
      intro b' u' hb
      dsimp only at hb
      split at hb
      · rename_i b0 s0
        have h0 := ha b0 s0 rfl
        split at hb
        · rename_i b1 s1 hp
          injection hb with _ hb
          exact hb ▸ paReadPart_mo h0 hp
        all_goals cases hb
      · exact ha b' u' hb
  exact key l _ (fun b u hb => by injection hb with _ hb; exact hb ▸ h) bs t hr

theorem paWrite_mo {z s t : State} {ctx : Nat} {a : Attr} {pa : Nat} {bs : List Byte} {u : Unit} (h : MemOnly z s)
    (hr : paWrite ctx a pa bs s = .ok u t) : MemOnly z t := by
  unfold paWrite at hr
  generalize cutLines (bs.length + 1) pa bs.length = l at hr
  have key : ∀ (l : List (Nat × Nat)) (acc : Acc Unit), (∀ b u, acc = .ok b u → MemOnly z u) →
      ∀ b u, l.foldl (fun acc p => match acc with
        | .ok _ s => match paWritePart ctx a p.1 ((bs.drop (p.1 - pa)).take p.2) s with
          | .ok _ s => .ok () s
          | .fault c s => .fault c s
          | .severed => .severed
          | .wait => .wait
        | other => other) acc = .ok b u → MemOnly z u := by
    intro l
    induction l with
    | nil => intro acc ha b u hu; exact ha b u hu
    | cons p l ih =>
      intro acc ha b u hu
      refine ih _ ?_ b u hu
      intro b' u' hb
      dsimp only at hb
      split at hb
      · rename_i b0 s0
        have h0 := ha b0 s0 rfl
        split at hb
        · rename_i b1 s1 hp
          injection hb with _ hb
          exact hb ▸ paWritePart_mo h0 hp
        all_goals cases hb
      · exact ha b' u' hb
  exact key l _ (fun b u hb => by injection hb with _ hb; exact hb ▸ h) u t hr

theorem devRead_mo {z s t : State} {pa n : Nat} {bs : List Byte} (h : MemOnly z s)
    (hr : devRead pa n s = .done (bs, t)) : MemOnly z t := by
  unfold devRead at hr
  split at hr
  · cases hr
  · cases hp : paRead 0 Attr.plain pa n s with
    | ok b u =>
      simp only [hp, Acc.dev, Dev.done.injEq, Prod.mk.injEq] at hr
      exact hr.2 ▸ paRead_mo h hp
    | _ => simp [hp, Acc.dev] at hr

theorem devWriteNow_mo {z s t : State} {pa : Nat} {bs : List Byte} (h : MemOnly z s)
    (hr : devWriteNow pa bs s = .done t) : MemOnly z t := by
  unfold devWriteNow at hr
  split at hr
  · cases hr
  · cases hp : paWrite 0 Attr.plain pa bs s with
    | ok b u =>
      simp only [hp, Acc.dev, Dev.done.injEq] at hr
      exact hr ▸ paWrite_mo h hp
    | _ => simp [hp, Acc.dev] at hr

/-- A posted write of the device changes memory and the writes that wait only. -/
theorem devWrite_mo {z s t : State} {pa : Nat} {bs : List Byte} (h : MemOnly z s)
    (hr : devWrite pa bs s = some t) : MemOnly z t := by
  unfold devWrite at hr
  split at hr
  · rename_i u hp
    injection hr with hr
    exact hr ▸ devWriteNow_mo h hp
  · cases hr
  · injection hr with hr
    subst hr
    exact h.onMem _ fun _ => ⟨rfl, rfl⟩

theorem devWriteD_mo {z s : State} (pa : Nat) (bs : List Byte) (h : MemOnly z s) :
    MemOnly z ((devWrite pa bs s).getD s) := by
  cases hd : devWrite pa bs s with
  | none => exact h
  | some t => exact devWrite_mo h hd

/-- Making the posted writes that waited changes memory only. -/
theorem retryPosted_mo {z s : State} (h : MemOnly z s) : MemOnly z (retryPosted s) :=
  foldl_mo (fun _ _ hs => devWriteD_mo _ _ hs) _ (h.onMem _ fun _ => ⟨rfl, rfl⟩)

end Sys2Proof.Machine
end

