-- ==== Sys2Proof/Laws/Registers.lean ====
section
/-! SUPPORT. How a write of BAR0 lands (R436 to R446): spec lemmas of the shared operations. -/

namespace Sys2Proof.Machine

open Sys2Proof

theorem fn_ne_monitor (fn : Fn) : (fn.val = monitorAgent) = False := by
  have := fn.isLt
  simp only [monitorAgent, eq_iff_iff, iff_false]; omega

theorem agentFn_fn (fn : Fn) : agentFn fn.val = fn.val := by
  simp [agentFn, fn_ne_monitor]

theorem halted_of_nil {s : State} (h : s.reg.mismatch = []) (b : BlockId) : s.halted b = false := by
  simp [State.halted, h]

theorem hostWrite_awake {s : State} (h : awake s = true) (fn off v : Nat) (f : State → State) :
    hostWrite fn off v f s = f s := by
  have : s.pwr.sleep = .s0 := by simpa [awake] using h
  simp [hostWrite, this]

theorem barOpen_arrives {s : State} {fn : Nat} (h : barOpen s fn = true) : fnArrives s fn = true := by
  simp [barOpen] at h; exact h.2

theorem regWrite4_quiet {s : State} {fn : Fn} {off rel : Nat} {b : BlockId} (val : Word)
    (h : quiet s fn.val) (hb : blockAt off = some (b, rel)) (hv : fn.val = 0 ∨ off < 2 ^ 20) :
    regWrite4 fn.val off val s = landWrite b rel fn.val off val s := by
  obtain ⟨h1, h2, h3⟩ := h
  have h4 := barOpen_arrives h1
  have hv' : ¬ (¬ fn.val = 0 ∧ 2 ^ 20 ≤ off) := by rintro ⟨a, c⟩; rcases hv with hv | hv <;> omega
  have hc : regCore fn.val off val s = landWrite b rel fn.val off val s := by
    rw [regCore, hb]
    simp only [fn_ne_monitor, agentFn_fn, if_false]
    rw [if_neg hv', hostWrite_awake h2]
    by_cases hr : romBlock b <;> simp [hr, h1, h4]
  simp [regWrite4, hc, h3]

/-- The write that reaches a block through a window at a primary offset. -/
def winWrite (fn : Fn) (win : Window) (off : Nat) (d : RegDef) (val : Word) (s : State) : RegWr :=
  { agent := fn.val, off, old := s.raw fn.val off, new := newValue d win (s.raw fn.val off) val,
    val := if win = .primary then val else 0, w1c := if win = .primary then val &&& d.w1c else 0 }

/-- What a write that reaches its block does there, in a state without a parity mismatch: a write that
touches a guarded field needs the unlock and consumes it, any other goes to the block. -/
theorem landWrite_win {s : State} {fn : Fn} {off rel prim i : Nat} {b : BlockId} {d : RegDef} {win : Window}
    (val : Word) (hm : s.reg.mismatch = []) (hw : windowOf rel = some (win, prim)) (hk : rel ≠ 0xFF0)
    (hh : b ≠ .hst) (hba : blockAt off = some (b, rel)) (hd : regAt b prim = some (d, i))
    (hv : fn.val = 0 ∨ d.vf = true) (hoffb : blockOff s b = false) :
    landWrite b rel fn.val off val s =
      (let w := winWrite fn win (blockBase b + prim) d val s
       if (w.new &&& d.rwk) ≠ (w.old &&& d.rwk) then
         if unlocked s b fn.val then regEffect b prim w (setUnlock b fn.val 0 s) else setDenied b fn.val 1 s
       else regEffect b prim w s) := by
  have h1 : ¬ (b = .hst ∧ 0x8000 ≤ rel) := by simp [hh]
  have hv' : ¬ (fn.val ≠ 0 ∧ (!d.vf) = true) := by
    rintro ⟨a, c⟩
    rcases hv with hv | hv
    · exact a hv
    · simp [hv] at c
  rw [landWrite, if_neg h1, if_neg hk, stage, hba]
  simp only [hw, hd, agentFn_fn, hoffb]
  rw [if_neg hv']
  have him : inMismatch s (regKey fn.val (blockBase b + prim)) = false := by simp [inMismatch, hm]
  simp only [him, winWrite]
  split_ifs <;> simp_all

theorem windowOf_prim {rel : Nat} (h : rel < 0x1000) : windowOf rel = some (.primary, rel) := by
  simp [windowOf, h]

/-- A register word masked with all ones is itself. -/
theorem and_full (x : Word) : x &&& 4294967295#32 = x := by
  rw [show (4294967295#32) = BitVec.allOnes 32 from rfl, BitVec.and_allOnes]

/-- The part of a block that an offset lies in. -/
theorem blockAt_some {off rel : Nat} {b : BlockId} (h : blockAt off = some (b, rel)) :
    blockBase b ≤ off ∧ off < blockBase b + 0x10000 ∧ rel = off - blockBase b := by
  unfold blockAt at h
  split at h
  · rename_i b' hb
    have := List.find?_some hb
    simp only [Bool.and_eq_true, decide_eq_true_eq] at this
    simp only [Option.some.injEq, Prod.mk.injEq] at h
    obtain ⟨rfl, rfl⟩ := h
    exact ⟨this.1, this.2, rfl⟩
  · cases h

/-- Every block lies in BAR0's 64 MiB. -/
theorem blockBase_lt (b : BlockId) : blockBase b + 0x10000 < 2 ^ 26 := by
  cases b with
  | tns c | spm c | shd c | dsp c | l2 c | rsh c => revert c; decide
  | _ => decide

/-- A virtual function's write of a block that it has no register of does nothing. -/
theorem landWrite_none {fn : Fn} {off rel : Nat} {b : BlockId} (v : Word) (s : State) (h0 : fn.val ≠ 0) (hb : blockAt off = some (b, rel))
   (hn : ∀ d ∈ blockRegs b, d.vf = false) (hh : b ≠ .hst) : landWrite b rel fn.val off v s = s := by
  have hr : ∀ prim d i, regAt b prim = some (d, i) → d.vf = false := by
    intro prim d i h
    unfold regAt at h
    split at h
    · rename_i d' hd
      injection h with h; injection h with h h'
      subst h
      exact hn _ (List.mem_of_find?_eq_some hd)
    · cases h
  have h1 : ¬ (b = .hst ∧ 0x8000 ≤ rel) := by simp [hh]
  rw [landWrite, if_neg h1]
  by_cases hk : rel = 0xFF0
  · simp [hk, blkKeyDo, agentFn_fn, h0]
  · rw [if_neg hk, stage, hb]
    dsimp only
    cases hw : windowOf rel with
    | none => rfl
    | some wp =>
      obtain ⟨win, prim⟩ := wp
      dsimp only
      cases hd : regAt b prim with
      | none => rfl
      | some di =>
        obtain ⟨d, i⟩ := di
        have := hr prim d i hd
        simp [agentFn_fn, h0, this]

end Sys2Proof.Machine
end

