-- ==== Sys2Proof/Laws/State.lean ====
section
/-! SUPPORT. Each update of the state and each field: what the field holds after the update. -/

namespace Sys2Proof.Machine

open Sys2Proof

variable (s : State)

/-! ## onMem -/

@[simp] theorem State.onMem_mem (g : MemSys → MemSys) : (s.onMem g).mem = g s.mem := rfl
@[simp] theorem State.onMem_mmu (g : MemSys → MemSys) : (s.onMem g).mmu = s.mmu := rfl
@[simp] theorem State.onMem_fe (g : MemSys → MemSys) : (s.onMem g).fe = s.fe := rfl
@[simp] theorem State.onMem_fen (g : MemSys → MemSys) : (s.onMem g).fen = s.fen := rfl
@[simp] theorem State.onMem_reg (g : MemSys → MemSys) : (s.onMem g).reg = s.reg := rfl
@[simp] theorem State.onMem_err (g : MemSys → MemSys) : (s.onMem g).err = s.err := rfl
@[simp] theorem State.onMem_unit (g : MemSys → MemSys) : (s.onMem g).unit = s.unit := rfl
@[simp] theorem State.onMem_sec (g : MemSys → MemSys) : (s.onMem g).sec = s.sec := rfl
@[simp] theorem State.onMem_tns (g : MemSys → MemSys) : (s.onMem g).tns = s.tns := rfl
@[simp] theorem State.onMem_rsh (g : MemSys → MemSys) : (s.onMem g).rsh = s.rsh := rfl
@[simp] theorem State.onMem_shd (g : MemSys → MemSys) : (s.onMem g).shd = s.shd := rfl
@[simp] theorem State.onMem_rnd (g : MemSys → MemSys) : (s.onMem g).rnd = s.rnd := rfl
@[simp] theorem State.onMem_dsp (g : MemSys → MemSys) : (s.onMem g).dsp = s.dsp := rfl
@[simp] theorem State.onMem_cmp (g : MemSys → MemSys) : (s.onMem g).cmp = s.cmp := rfl
@[simp] theorem State.onMem_pwr (g : MemSys → MemSys) : (s.onMem g).pwr = s.pwr := rfl
@[simp] theorem State.onMem_rst (g : MemSys → MemSys) : (s.onMem g).rst = s.rst := rfl
@[simp] theorem State.onMem_boot (g : MemSys → MemSys) : (s.onMem g).boot = s.boot := rfl
@[simp] theorem State.onMem_tap (g : MemSys → MemSys) : (s.onMem g).tap = s.tap := rfl
@[simp] theorem State.onMem_mon (g : MemSys → MemSys) : (s.onMem g).mon = s.mon := rfl
@[simp] theorem State.onMem_time (g : MemSys → MemSys) : (s.onMem g).time = s.time := rfl
@[simp] theorem State.onMem_free (g : MemSys → MemSys) : (s.onMem g).free = s.free := rfl
@[simp] theorem State.onMem_pending (g : MemSys → MemSys) : (s.onMem g).pending = s.pending := rfl

/-! ## onMmu -/

@[simp] theorem State.onMmu_mem (g : Mmu → Mmu) : (s.onMmu g).mem = s.mem := rfl
@[simp] theorem State.onMmu_mmu (g : Mmu → Mmu) : (s.onMmu g).mmu = g s.mmu := rfl
@[simp] theorem State.onMmu_fe (g : Mmu → Mmu) : (s.onMmu g).fe = s.fe := rfl
@[simp] theorem State.onMmu_fen (g : Mmu → Mmu) : (s.onMmu g).fen = s.fen := rfl
@[simp] theorem State.onMmu_reg (g : Mmu → Mmu) : (s.onMmu g).reg = s.reg := rfl
@[simp] theorem State.onMmu_err (g : Mmu → Mmu) : (s.onMmu g).err = s.err := rfl
@[simp] theorem State.onMmu_unit (g : Mmu → Mmu) : (s.onMmu g).unit = s.unit := rfl
@[simp] theorem State.onMmu_sec (g : Mmu → Mmu) : (s.onMmu g).sec = s.sec := rfl
@[simp] theorem State.onMmu_tns (g : Mmu → Mmu) : (s.onMmu g).tns = s.tns := rfl
@[simp] theorem State.onMmu_rsh (g : Mmu → Mmu) : (s.onMmu g).rsh = s.rsh := rfl
@[simp] theorem State.onMmu_shd (g : Mmu → Mmu) : (s.onMmu g).shd = s.shd := rfl
@[simp] theorem State.onMmu_rnd (g : Mmu → Mmu) : (s.onMmu g).rnd = s.rnd := rfl
@[simp] theorem State.onMmu_dsp (g : Mmu → Mmu) : (s.onMmu g).dsp = s.dsp := rfl
@[simp] theorem State.onMmu_cmp (g : Mmu → Mmu) : (s.onMmu g).cmp = s.cmp := rfl
@[simp] theorem State.onMmu_pwr (g : Mmu → Mmu) : (s.onMmu g).pwr = s.pwr := rfl
@[simp] theorem State.onMmu_rst (g : Mmu → Mmu) : (s.onMmu g).rst = s.rst := rfl
@[simp] theorem State.onMmu_boot (g : Mmu → Mmu) : (s.onMmu g).boot = s.boot := rfl
@[simp] theorem State.onMmu_tap (g : Mmu → Mmu) : (s.onMmu g).tap = s.tap := rfl
@[simp] theorem State.onMmu_mon (g : Mmu → Mmu) : (s.onMmu g).mon = s.mon := rfl
@[simp] theorem State.onMmu_time (g : Mmu → Mmu) : (s.onMmu g).time = s.time := rfl
@[simp] theorem State.onMmu_free (g : Mmu → Mmu) : (s.onMmu g).free = s.free := rfl
@[simp] theorem State.onMmu_pending (g : Mmu → Mmu) : (s.onMmu g).pending = s.pending := rfl

/-! ## onFe -/

@[simp] theorem State.onFe_mem (g : FrontEnd → FrontEnd) : (s.onFe g).mem = s.mem := rfl
@[simp] theorem State.onFe_mmu (g : FrontEnd → FrontEnd) : (s.onFe g).mmu = s.mmu := rfl
@[simp] theorem State.onFe_fe (g : FrontEnd → FrontEnd) : (s.onFe g).fe = g s.fe := rfl
@[simp] theorem State.onFe_fen (g : FrontEnd → FrontEnd) : (s.onFe g).fen = s.fen := rfl
@[simp] theorem State.onFe_reg (g : FrontEnd → FrontEnd) : (s.onFe g).reg = s.reg := rfl
@[simp] theorem State.onFe_err (g : FrontEnd → FrontEnd) : (s.onFe g).err = s.err := rfl
@[simp] theorem State.onFe_unit (g : FrontEnd → FrontEnd) : (s.onFe g).unit = s.unit := rfl
@[simp] theorem State.onFe_sec (g : FrontEnd → FrontEnd) : (s.onFe g).sec = s.sec := rfl
@[simp] theorem State.onFe_tns (g : FrontEnd → FrontEnd) : (s.onFe g).tns = s.tns := rfl
@[simp] theorem State.onFe_rsh (g : FrontEnd → FrontEnd) : (s.onFe g).rsh = s.rsh := rfl
@[simp] theorem State.onFe_shd (g : FrontEnd → FrontEnd) : (s.onFe g).shd = s.shd := rfl
@[simp] theorem State.onFe_rnd (g : FrontEnd → FrontEnd) : (s.onFe g).rnd = s.rnd := rfl
@[simp] theorem State.onFe_dsp (g : FrontEnd → FrontEnd) : (s.onFe g).dsp = s.dsp := rfl
@[simp] theorem State.onFe_cmp (g : FrontEnd → FrontEnd) : (s.onFe g).cmp = s.cmp := rfl
@[simp] theorem State.onFe_pwr (g : FrontEnd → FrontEnd) : (s.onFe g).pwr = s.pwr := rfl
@[simp] theorem State.onFe_rst (g : FrontEnd → FrontEnd) : (s.onFe g).rst = s.rst := rfl
@[simp] theorem State.onFe_boot (g : FrontEnd → FrontEnd) : (s.onFe g).boot = s.boot := rfl
@[simp] theorem State.onFe_tap (g : FrontEnd → FrontEnd) : (s.onFe g).tap = s.tap := rfl
@[simp] theorem State.onFe_mon (g : FrontEnd → FrontEnd) : (s.onFe g).mon = s.mon := rfl
@[simp] theorem State.onFe_time (g : FrontEnd → FrontEnd) : (s.onFe g).time = s.time := rfl
@[simp] theorem State.onFe_free (g : FrontEnd → FrontEnd) : (s.onFe g).free = s.free := rfl
@[simp] theorem State.onFe_pending (g : FrontEnd → FrontEnd) : (s.onFe g).pending = s.pending := rfl

/-! ## onFen -/

@[simp] theorem State.onFen_mem (g : FenceSys → FenceSys) : (s.onFen g).mem = s.mem := rfl
@[simp] theorem State.onFen_mmu (g : FenceSys → FenceSys) : (s.onFen g).mmu = s.mmu := rfl
@[simp] theorem State.onFen_fe (g : FenceSys → FenceSys) : (s.onFen g).fe = s.fe := rfl
@[simp] theorem State.onFen_fen (g : FenceSys → FenceSys) : (s.onFen g).fen = g s.fen := rfl
@[simp] theorem State.onFen_reg (g : FenceSys → FenceSys) : (s.onFen g).reg = s.reg := rfl
@[simp] theorem State.onFen_err (g : FenceSys → FenceSys) : (s.onFen g).err = s.err := rfl
@[simp] theorem State.onFen_unit (g : FenceSys → FenceSys) : (s.onFen g).unit = s.unit := rfl
@[simp] theorem State.onFen_sec (g : FenceSys → FenceSys) : (s.onFen g).sec = s.sec := rfl
@[simp] theorem State.onFen_tns (g : FenceSys → FenceSys) : (s.onFen g).tns = s.tns := rfl
@[simp] theorem State.onFen_rsh (g : FenceSys → FenceSys) : (s.onFen g).rsh = s.rsh := rfl
@[simp] theorem State.onFen_shd (g : FenceSys → FenceSys) : (s.onFen g).shd = s.shd := rfl
@[simp] theorem State.onFen_rnd (g : FenceSys → FenceSys) : (s.onFen g).rnd = s.rnd := rfl
@[simp] theorem State.onFen_dsp (g : FenceSys → FenceSys) : (s.onFen g).dsp = s.dsp := rfl
@[simp] theorem State.onFen_cmp (g : FenceSys → FenceSys) : (s.onFen g).cmp = s.cmp := rfl
@[simp] theorem State.onFen_pwr (g : FenceSys → FenceSys) : (s.onFen g).pwr = s.pwr := rfl
@[simp] theorem State.onFen_rst (g : FenceSys → FenceSys) : (s.onFen g).rst = s.rst := rfl
@[simp] theorem State.onFen_boot (g : FenceSys → FenceSys) : (s.onFen g).boot = s.boot := rfl
@[simp] theorem State.onFen_tap (g : FenceSys → FenceSys) : (s.onFen g).tap = s.tap := rfl
@[simp] theorem State.onFen_mon (g : FenceSys → FenceSys) : (s.onFen g).mon = s.mon := rfl
@[simp] theorem State.onFen_time (g : FenceSys → FenceSys) : (s.onFen g).time = s.time := rfl
@[simp] theorem State.onFen_free (g : FenceSys → FenceSys) : (s.onFen g).free = s.free := rfl
@[simp] theorem State.onFen_pending (g : FenceSys → FenceSys) : (s.onFen g).pending = s.pending := rfl

/-! ## onReg -/

@[simp] theorem State.onReg_mem (g : RegSys → RegSys) : (s.onReg g).mem = s.mem := rfl
@[simp] theorem State.onReg_mmu (g : RegSys → RegSys) : (s.onReg g).mmu = s.mmu := rfl
@[simp] theorem State.onReg_fe (g : RegSys → RegSys) : (s.onReg g).fe = s.fe := rfl
@[simp] theorem State.onReg_fen (g : RegSys → RegSys) : (s.onReg g).fen = s.fen := rfl
@[simp] theorem State.onReg_reg (g : RegSys → RegSys) : (s.onReg g).reg = g s.reg := rfl
@[simp] theorem State.onReg_err (g : RegSys → RegSys) : (s.onReg g).err = s.err := rfl
@[simp] theorem State.onReg_unit (g : RegSys → RegSys) : (s.onReg g).unit = s.unit := rfl
@[simp] theorem State.onReg_sec (g : RegSys → RegSys) : (s.onReg g).sec = s.sec := rfl
@[simp] theorem State.onReg_tns (g : RegSys → RegSys) : (s.onReg g).tns = s.tns := rfl
@[simp] theorem State.onReg_rsh (g : RegSys → RegSys) : (s.onReg g).rsh = s.rsh := rfl
@[simp] theorem State.onReg_shd (g : RegSys → RegSys) : (s.onReg g).shd = s.shd := rfl
@[simp] theorem State.onReg_rnd (g : RegSys → RegSys) : (s.onReg g).rnd = s.rnd := rfl
@[simp] theorem State.onReg_dsp (g : RegSys → RegSys) : (s.onReg g).dsp = s.dsp := rfl
@[simp] theorem State.onReg_cmp (g : RegSys → RegSys) : (s.onReg g).cmp = s.cmp := rfl
@[simp] theorem State.onReg_pwr (g : RegSys → RegSys) : (s.onReg g).pwr = s.pwr := rfl
@[simp] theorem State.onReg_rst (g : RegSys → RegSys) : (s.onReg g).rst = s.rst := rfl
@[simp] theorem State.onReg_boot (g : RegSys → RegSys) : (s.onReg g).boot = s.boot := rfl
@[simp] theorem State.onReg_tap (g : RegSys → RegSys) : (s.onReg g).tap = s.tap := rfl
@[simp] theorem State.onReg_mon (g : RegSys → RegSys) : (s.onReg g).mon = s.mon := rfl
@[simp] theorem State.onReg_time (g : RegSys → RegSys) : (s.onReg g).time = s.time := rfl
@[simp] theorem State.onReg_free (g : RegSys → RegSys) : (s.onReg g).free = s.free := rfl
@[simp] theorem State.onReg_pending (g : RegSys → RegSys) : (s.onReg g).pending = s.pending := rfl

/-! ## onErr -/

@[simp] theorem State.onErr_mem (g : ErrSys → ErrSys) : (s.onErr g).mem = s.mem := rfl
@[simp] theorem State.onErr_mmu (g : ErrSys → ErrSys) : (s.onErr g).mmu = s.mmu := rfl
@[simp] theorem State.onErr_fe (g : ErrSys → ErrSys) : (s.onErr g).fe = s.fe := rfl
@[simp] theorem State.onErr_fen (g : ErrSys → ErrSys) : (s.onErr g).fen = s.fen := rfl
@[simp] theorem State.onErr_reg (g : ErrSys → ErrSys) : (s.onErr g).reg = s.reg := rfl
@[simp] theorem State.onErr_err (g : ErrSys → ErrSys) : (s.onErr g).err = g s.err := rfl
@[simp] theorem State.onErr_unit (g : ErrSys → ErrSys) : (s.onErr g).unit = s.unit := rfl
@[simp] theorem State.onErr_sec (g : ErrSys → ErrSys) : (s.onErr g).sec = s.sec := rfl
@[simp] theorem State.onErr_tns (g : ErrSys → ErrSys) : (s.onErr g).tns = s.tns := rfl
@[simp] theorem State.onErr_rsh (g : ErrSys → ErrSys) : (s.onErr g).rsh = s.rsh := rfl
@[simp] theorem State.onErr_shd (g : ErrSys → ErrSys) : (s.onErr g).shd = s.shd := rfl
@[simp] theorem State.onErr_rnd (g : ErrSys → ErrSys) : (s.onErr g).rnd = s.rnd := rfl
@[simp] theorem State.onErr_dsp (g : ErrSys → ErrSys) : (s.onErr g).dsp = s.dsp := rfl
@[simp] theorem State.onErr_cmp (g : ErrSys → ErrSys) : (s.onErr g).cmp = s.cmp := rfl
@[simp] theorem State.onErr_pwr (g : ErrSys → ErrSys) : (s.onErr g).pwr = s.pwr := rfl
@[simp] theorem State.onErr_rst (g : ErrSys → ErrSys) : (s.onErr g).rst = s.rst := rfl
@[simp] theorem State.onErr_boot (g : ErrSys → ErrSys) : (s.onErr g).boot = s.boot := rfl
@[simp] theorem State.onErr_tap (g : ErrSys → ErrSys) : (s.onErr g).tap = s.tap := rfl
@[simp] theorem State.onErr_mon (g : ErrSys → ErrSys) : (s.onErr g).mon = s.mon := rfl
@[simp] theorem State.onErr_time (g : ErrSys → ErrSys) : (s.onErr g).time = s.time := rfl
@[simp] theorem State.onErr_free (g : ErrSys → ErrSys) : (s.onErr g).free = s.free := rfl
@[simp] theorem State.onErr_pending (g : ErrSys → ErrSys) : (s.onErr g).pending = s.pending := rfl

/-! ## onUnit -/

@[simp] theorem State.onUnit_mem (g : Units → Units) : (s.onUnit g).mem = s.mem := rfl
@[simp] theorem State.onUnit_mmu (g : Units → Units) : (s.onUnit g).mmu = s.mmu := rfl
@[simp] theorem State.onUnit_fe (g : Units → Units) : (s.onUnit g).fe = s.fe := rfl
@[simp] theorem State.onUnit_fen (g : Units → Units) : (s.onUnit g).fen = s.fen := rfl
@[simp] theorem State.onUnit_reg (g : Units → Units) : (s.onUnit g).reg = s.reg := rfl
@[simp] theorem State.onUnit_err (g : Units → Units) : (s.onUnit g).err = s.err := rfl
@[simp] theorem State.onUnit_unit (g : Units → Units) : (s.onUnit g).unit = g s.unit := rfl
@[simp] theorem State.onUnit_sec (g : Units → Units) : (s.onUnit g).sec = s.sec := rfl
@[simp] theorem State.onUnit_tns (g : Units → Units) : (s.onUnit g).tns = s.tns := rfl
@[simp] theorem State.onUnit_rsh (g : Units → Units) : (s.onUnit g).rsh = s.rsh := rfl
@[simp] theorem State.onUnit_shd (g : Units → Units) : (s.onUnit g).shd = s.shd := rfl
@[simp] theorem State.onUnit_rnd (g : Units → Units) : (s.onUnit g).rnd = s.rnd := rfl
@[simp] theorem State.onUnit_dsp (g : Units → Units) : (s.onUnit g).dsp = s.dsp := rfl
@[simp] theorem State.onUnit_cmp (g : Units → Units) : (s.onUnit g).cmp = s.cmp := rfl
@[simp] theorem State.onUnit_pwr (g : Units → Units) : (s.onUnit g).pwr = s.pwr := rfl
@[simp] theorem State.onUnit_rst (g : Units → Units) : (s.onUnit g).rst = s.rst := rfl
@[simp] theorem State.onUnit_boot (g : Units → Units) : (s.onUnit g).boot = s.boot := rfl
@[simp] theorem State.onUnit_tap (g : Units → Units) : (s.onUnit g).tap = s.tap := rfl
@[simp] theorem State.onUnit_mon (g : Units → Units) : (s.onUnit g).mon = s.mon := rfl
@[simp] theorem State.onUnit_time (g : Units → Units) : (s.onUnit g).time = s.time := rfl
@[simp] theorem State.onUnit_free (g : Units → Units) : (s.onUnit g).free = s.free := rfl
@[simp] theorem State.onUnit_pending (g : Units → Units) : (s.onUnit g).pending = s.pending := rfl

/-! ## onSec -/

@[simp] theorem State.onSec_mem (g : Sec → Sec) : (s.onSec g).mem = s.mem := rfl
@[simp] theorem State.onSec_mmu (g : Sec → Sec) : (s.onSec g).mmu = s.mmu := rfl
@[simp] theorem State.onSec_fe (g : Sec → Sec) : (s.onSec g).fe = s.fe := rfl
@[simp] theorem State.onSec_fen (g : Sec → Sec) : (s.onSec g).fen = s.fen := rfl
@[simp] theorem State.onSec_reg (g : Sec → Sec) : (s.onSec g).reg = s.reg := rfl
@[simp] theorem State.onSec_err (g : Sec → Sec) : (s.onSec g).err = s.err := rfl
@[simp] theorem State.onSec_unit (g : Sec → Sec) : (s.onSec g).unit = s.unit := rfl
@[simp] theorem State.onSec_sec (g : Sec → Sec) : (s.onSec g).sec = g s.sec := rfl
@[simp] theorem State.onSec_tns (g : Sec → Sec) : (s.onSec g).tns = s.tns := rfl
@[simp] theorem State.onSec_rsh (g : Sec → Sec) : (s.onSec g).rsh = s.rsh := rfl
@[simp] theorem State.onSec_shd (g : Sec → Sec) : (s.onSec g).shd = s.shd := rfl
@[simp] theorem State.onSec_rnd (g : Sec → Sec) : (s.onSec g).rnd = s.rnd := rfl
@[simp] theorem State.onSec_dsp (g : Sec → Sec) : (s.onSec g).dsp = s.dsp := rfl
@[simp] theorem State.onSec_cmp (g : Sec → Sec) : (s.onSec g).cmp = s.cmp := rfl
@[simp] theorem State.onSec_pwr (g : Sec → Sec) : (s.onSec g).pwr = s.pwr := rfl
@[simp] theorem State.onSec_rst (g : Sec → Sec) : (s.onSec g).rst = s.rst := rfl
@[simp] theorem State.onSec_boot (g : Sec → Sec) : (s.onSec g).boot = s.boot := rfl
@[simp] theorem State.onSec_tap (g : Sec → Sec) : (s.onSec g).tap = s.tap := rfl
@[simp] theorem State.onSec_mon (g : Sec → Sec) : (s.onSec g).mon = s.mon := rfl
@[simp] theorem State.onSec_time (g : Sec → Sec) : (s.onSec g).time = s.time := rfl
@[simp] theorem State.onSec_free (g : Sec → Sec) : (s.onSec g).free = s.free := rfl
@[simp] theorem State.onSec_pending (g : Sec → Sec) : (s.onSec g).pending = s.pending := rfl

/-! ## onTns -/

@[simp] theorem State.onTns_mem (g : Tensors → Tensors) : (s.onTns g).mem = s.mem := rfl
@[simp] theorem State.onTns_mmu (g : Tensors → Tensors) : (s.onTns g).mmu = s.mmu := rfl
@[simp] theorem State.onTns_fe (g : Tensors → Tensors) : (s.onTns g).fe = s.fe := rfl
@[simp] theorem State.onTns_fen (g : Tensors → Tensors) : (s.onTns g).fen = s.fen := rfl
@[simp] theorem State.onTns_reg (g : Tensors → Tensors) : (s.onTns g).reg = s.reg := rfl
@[simp] theorem State.onTns_err (g : Tensors → Tensors) : (s.onTns g).err = s.err := rfl
@[simp] theorem State.onTns_unit (g : Tensors → Tensors) : (s.onTns g).unit = s.unit := rfl
@[simp] theorem State.onTns_sec (g : Tensors → Tensors) : (s.onTns g).sec = s.sec := rfl
@[simp] theorem State.onTns_tns (g : Tensors → Tensors) : (s.onTns g).tns = g s.tns := rfl
@[simp] theorem State.onTns_rsh (g : Tensors → Tensors) : (s.onTns g).rsh = s.rsh := rfl
@[simp] theorem State.onTns_shd (g : Tensors → Tensors) : (s.onTns g).shd = s.shd := rfl
@[simp] theorem State.onTns_rnd (g : Tensors → Tensors) : (s.onTns g).rnd = s.rnd := rfl
@[simp] theorem State.onTns_dsp (g : Tensors → Tensors) : (s.onTns g).dsp = s.dsp := rfl
@[simp] theorem State.onTns_cmp (g : Tensors → Tensors) : (s.onTns g).cmp = s.cmp := rfl
@[simp] theorem State.onTns_pwr (g : Tensors → Tensors) : (s.onTns g).pwr = s.pwr := rfl
@[simp] theorem State.onTns_rst (g : Tensors → Tensors) : (s.onTns g).rst = s.rst := rfl
@[simp] theorem State.onTns_boot (g : Tensors → Tensors) : (s.onTns g).boot = s.boot := rfl
@[simp] theorem State.onTns_tap (g : Tensors → Tensors) : (s.onTns g).tap = s.tap := rfl
@[simp] theorem State.onTns_mon (g : Tensors → Tensors) : (s.onTns g).mon = s.mon := rfl
@[simp] theorem State.onTns_time (g : Tensors → Tensors) : (s.onTns g).time = s.time := rfl
@[simp] theorem State.onTns_free (g : Tensors → Tensors) : (s.onTns g).free = s.free := rfl
@[simp] theorem State.onTns_pending (g : Tensors → Tensors) : (s.onTns g).pending = s.pending := rfl

/-! ## onShd -/

@[simp] theorem State.onShd_mem (g : Shaders → Shaders) : (s.onShd g).mem = s.mem := rfl
@[simp] theorem State.onShd_mmu (g : Shaders → Shaders) : (s.onShd g).mmu = s.mmu := rfl
@[simp] theorem State.onShd_fe (g : Shaders → Shaders) : (s.onShd g).fe = s.fe := rfl
@[simp] theorem State.onShd_fen (g : Shaders → Shaders) : (s.onShd g).fen = s.fen := rfl
@[simp] theorem State.onShd_reg (g : Shaders → Shaders) : (s.onShd g).reg = s.reg := rfl
@[simp] theorem State.onShd_err (g : Shaders → Shaders) : (s.onShd g).err = s.err := rfl
@[simp] theorem State.onShd_unit (g : Shaders → Shaders) : (s.onShd g).unit = s.unit := rfl
@[simp] theorem State.onShd_sec (g : Shaders → Shaders) : (s.onShd g).sec = s.sec := rfl
@[simp] theorem State.onShd_tns (g : Shaders → Shaders) : (s.onShd g).tns = s.tns := rfl
@[simp] theorem State.onShd_rsh (g : Shaders → Shaders) : (s.onShd g).rsh = s.rsh := rfl
@[simp] theorem State.onShd_shd (g : Shaders → Shaders) : (s.onShd g).shd = g s.shd := rfl
@[simp] theorem State.onShd_rnd (g : Shaders → Shaders) : (s.onShd g).rnd = s.rnd := rfl
@[simp] theorem State.onShd_dsp (g : Shaders → Shaders) : (s.onShd g).dsp = s.dsp := rfl
@[simp] theorem State.onShd_cmp (g : Shaders → Shaders) : (s.onShd g).cmp = s.cmp := rfl
@[simp] theorem State.onShd_pwr (g : Shaders → Shaders) : (s.onShd g).pwr = s.pwr := rfl
@[simp] theorem State.onShd_rst (g : Shaders → Shaders) : (s.onShd g).rst = s.rst := rfl
@[simp] theorem State.onShd_boot (g : Shaders → Shaders) : (s.onShd g).boot = s.boot := rfl
@[simp] theorem State.onShd_tap (g : Shaders → Shaders) : (s.onShd g).tap = s.tap := rfl
@[simp] theorem State.onShd_mon (g : Shaders → Shaders) : (s.onShd g).mon = s.mon := rfl
@[simp] theorem State.onShd_time (g : Shaders → Shaders) : (s.onShd g).time = s.time := rfl
@[simp] theorem State.onShd_free (g : Shaders → Shaders) : (s.onShd g).free = s.free := rfl
@[simp] theorem State.onShd_pending (g : Shaders → Shaders) : (s.onShd g).pending = s.pending := rfl

/-! ## onRnd -/

@[simp] theorem State.onRnd_mem (g : Renders → Renders) : (s.onRnd g).mem = s.mem := rfl
@[simp] theorem State.onRnd_mmu (g : Renders → Renders) : (s.onRnd g).mmu = s.mmu := rfl
@[simp] theorem State.onRnd_fe (g : Renders → Renders) : (s.onRnd g).fe = s.fe := rfl
@[simp] theorem State.onRnd_fen (g : Renders → Renders) : (s.onRnd g).fen = s.fen := rfl
@[simp] theorem State.onRnd_reg (g : Renders → Renders) : (s.onRnd g).reg = s.reg := rfl
@[simp] theorem State.onRnd_err (g : Renders → Renders) : (s.onRnd g).err = s.err := rfl
@[simp] theorem State.onRnd_unit (g : Renders → Renders) : (s.onRnd g).unit = s.unit := rfl
@[simp] theorem State.onRnd_sec (g : Renders → Renders) : (s.onRnd g).sec = s.sec := rfl
@[simp] theorem State.onRnd_tns (g : Renders → Renders) : (s.onRnd g).tns = s.tns := rfl
@[simp] theorem State.onRnd_rsh (g : Renders → Renders) : (s.onRnd g).rsh = s.rsh := rfl
@[simp] theorem State.onRnd_shd (g : Renders → Renders) : (s.onRnd g).shd = s.shd := rfl
@[simp] theorem State.onRnd_rnd (g : Renders → Renders) : (s.onRnd g).rnd = g s.rnd := rfl
@[simp] theorem State.onRnd_dsp (g : Renders → Renders) : (s.onRnd g).dsp = s.dsp := rfl
@[simp] theorem State.onRnd_cmp (g : Renders → Renders) : (s.onRnd g).cmp = s.cmp := rfl
@[simp] theorem State.onRnd_pwr (g : Renders → Renders) : (s.onRnd g).pwr = s.pwr := rfl
@[simp] theorem State.onRnd_rst (g : Renders → Renders) : (s.onRnd g).rst = s.rst := rfl
@[simp] theorem State.onRnd_boot (g : Renders → Renders) : (s.onRnd g).boot = s.boot := rfl
@[simp] theorem State.onRnd_tap (g : Renders → Renders) : (s.onRnd g).tap = s.tap := rfl
@[simp] theorem State.onRnd_mon (g : Renders → Renders) : (s.onRnd g).mon = s.mon := rfl
@[simp] theorem State.onRnd_time (g : Renders → Renders) : (s.onRnd g).time = s.time := rfl
@[simp] theorem State.onRnd_free (g : Renders → Renders) : (s.onRnd g).free = s.free := rfl
@[simp] theorem State.onRnd_pending (g : Renders → Renders) : (s.onRnd g).pending = s.pending := rfl

/-! ## onDsp -/

@[simp] theorem State.onDsp_mem (g : Displays → Displays) : (s.onDsp g).mem = s.mem := rfl
@[simp] theorem State.onDsp_mmu (g : Displays → Displays) : (s.onDsp g).mmu = s.mmu := rfl
@[simp] theorem State.onDsp_fe (g : Displays → Displays) : (s.onDsp g).fe = s.fe := rfl
@[simp] theorem State.onDsp_fen (g : Displays → Displays) : (s.onDsp g).fen = s.fen := rfl
@[simp] theorem State.onDsp_reg (g : Displays → Displays) : (s.onDsp g).reg = s.reg := rfl
@[simp] theorem State.onDsp_err (g : Displays → Displays) : (s.onDsp g).err = s.err := rfl
@[simp] theorem State.onDsp_unit (g : Displays → Displays) : (s.onDsp g).unit = s.unit := rfl
@[simp] theorem State.onDsp_sec (g : Displays → Displays) : (s.onDsp g).sec = s.sec := rfl
@[simp] theorem State.onDsp_tns (g : Displays → Displays) : (s.onDsp g).tns = s.tns := rfl
@[simp] theorem State.onDsp_rsh (g : Displays → Displays) : (s.onDsp g).rsh = s.rsh := rfl
@[simp] theorem State.onDsp_shd (g : Displays → Displays) : (s.onDsp g).shd = s.shd := rfl
@[simp] theorem State.onDsp_rnd (g : Displays → Displays) : (s.onDsp g).rnd = s.rnd := rfl
@[simp] theorem State.onDsp_dsp (g : Displays → Displays) : (s.onDsp g).dsp = g s.dsp := rfl
@[simp] theorem State.onDsp_cmp (g : Displays → Displays) : (s.onDsp g).cmp = s.cmp := rfl
@[simp] theorem State.onDsp_pwr (g : Displays → Displays) : (s.onDsp g).pwr = s.pwr := rfl
@[simp] theorem State.onDsp_rst (g : Displays → Displays) : (s.onDsp g).rst = s.rst := rfl
@[simp] theorem State.onDsp_boot (g : Displays → Displays) : (s.onDsp g).boot = s.boot := rfl
@[simp] theorem State.onDsp_tap (g : Displays → Displays) : (s.onDsp g).tap = s.tap := rfl
@[simp] theorem State.onDsp_mon (g : Displays → Displays) : (s.onDsp g).mon = s.mon := rfl
@[simp] theorem State.onDsp_time (g : Displays → Displays) : (s.onDsp g).time = s.time := rfl
@[simp] theorem State.onDsp_free (g : Displays → Displays) : (s.onDsp g).free = s.free := rfl
@[simp] theorem State.onDsp_pending (g : Displays → Displays) : (s.onDsp g).pending = s.pending := rfl

/-! ## onCmp -/

@[simp] theorem State.onCmp_mem (g : Cmps → Cmps) : (s.onCmp g).mem = s.mem := rfl
@[simp] theorem State.onCmp_mmu (g : Cmps → Cmps) : (s.onCmp g).mmu = s.mmu := rfl
@[simp] theorem State.onCmp_fe (g : Cmps → Cmps) : (s.onCmp g).fe = s.fe := rfl
@[simp] theorem State.onCmp_fen (g : Cmps → Cmps) : (s.onCmp g).fen = s.fen := rfl
@[simp] theorem State.onCmp_reg (g : Cmps → Cmps) : (s.onCmp g).reg = s.reg := rfl
@[simp] theorem State.onCmp_err (g : Cmps → Cmps) : (s.onCmp g).err = s.err := rfl
@[simp] theorem State.onCmp_unit (g : Cmps → Cmps) : (s.onCmp g).unit = s.unit := rfl
@[simp] theorem State.onCmp_sec (g : Cmps → Cmps) : (s.onCmp g).sec = s.sec := rfl
@[simp] theorem State.onCmp_tns (g : Cmps → Cmps) : (s.onCmp g).tns = s.tns := rfl
@[simp] theorem State.onCmp_rsh (g : Cmps → Cmps) : (s.onCmp g).rsh = s.rsh := rfl
@[simp] theorem State.onCmp_shd (g : Cmps → Cmps) : (s.onCmp g).shd = s.shd := rfl
@[simp] theorem State.onCmp_rnd (g : Cmps → Cmps) : (s.onCmp g).rnd = s.rnd := rfl
@[simp] theorem State.onCmp_dsp (g : Cmps → Cmps) : (s.onCmp g).dsp = s.dsp := rfl
@[simp] theorem State.onCmp_cmp (g : Cmps → Cmps) : (s.onCmp g).cmp = g s.cmp := rfl
@[simp] theorem State.onCmp_pwr (g : Cmps → Cmps) : (s.onCmp g).pwr = s.pwr := rfl
@[simp] theorem State.onCmp_rst (g : Cmps → Cmps) : (s.onCmp g).rst = s.rst := rfl
@[simp] theorem State.onCmp_boot (g : Cmps → Cmps) : (s.onCmp g).boot = s.boot := rfl
@[simp] theorem State.onCmp_tap (g : Cmps → Cmps) : (s.onCmp g).tap = s.tap := rfl
@[simp] theorem State.onCmp_mon (g : Cmps → Cmps) : (s.onCmp g).mon = s.mon := rfl
@[simp] theorem State.onCmp_time (g : Cmps → Cmps) : (s.onCmp g).time = s.time := rfl
@[simp] theorem State.onCmp_free (g : Cmps → Cmps) : (s.onCmp g).free = s.free := rfl
@[simp] theorem State.onCmp_pending (g : Cmps → Cmps) : (s.onCmp g).pending = s.pending := rfl

/-! ## onPwr -/

@[simp] theorem State.onPwr_mem (g : Power → Power) : (s.onPwr g).mem = s.mem := rfl
@[simp] theorem State.onPwr_mmu (g : Power → Power) : (s.onPwr g).mmu = s.mmu := rfl
@[simp] theorem State.onPwr_fe (g : Power → Power) : (s.onPwr g).fe = s.fe := rfl
@[simp] theorem State.onPwr_fen (g : Power → Power) : (s.onPwr g).fen = s.fen := rfl
@[simp] theorem State.onPwr_reg (g : Power → Power) : (s.onPwr g).reg = s.reg := rfl
@[simp] theorem State.onPwr_err (g : Power → Power) : (s.onPwr g).err = s.err := rfl
@[simp] theorem State.onPwr_unit (g : Power → Power) : (s.onPwr g).unit = s.unit := rfl
@[simp] theorem State.onPwr_sec (g : Power → Power) : (s.onPwr g).sec = s.sec := rfl
@[simp] theorem State.onPwr_tns (g : Power → Power) : (s.onPwr g).tns = s.tns := rfl
@[simp] theorem State.onPwr_rsh (g : Power → Power) : (s.onPwr g).rsh = s.rsh := rfl
@[simp] theorem State.onPwr_shd (g : Power → Power) : (s.onPwr g).shd = s.shd := rfl
@[simp] theorem State.onPwr_rnd (g : Power → Power) : (s.onPwr g).rnd = s.rnd := rfl
@[simp] theorem State.onPwr_dsp (g : Power → Power) : (s.onPwr g).dsp = s.dsp := rfl
@[simp] theorem State.onPwr_cmp (g : Power → Power) : (s.onPwr g).cmp = s.cmp := rfl
@[simp] theorem State.onPwr_pwr (g : Power → Power) : (s.onPwr g).pwr = g s.pwr := rfl
@[simp] theorem State.onPwr_rst (g : Power → Power) : (s.onPwr g).rst = s.rst := rfl
@[simp] theorem State.onPwr_boot (g : Power → Power) : (s.onPwr g).boot = s.boot := rfl
@[simp] theorem State.onPwr_tap (g : Power → Power) : (s.onPwr g).tap = s.tap := rfl
@[simp] theorem State.onPwr_mon (g : Power → Power) : (s.onPwr g).mon = s.mon := rfl
@[simp] theorem State.onPwr_time (g : Power → Power) : (s.onPwr g).time = s.time := rfl
@[simp] theorem State.onPwr_free (g : Power → Power) : (s.onPwr g).free = s.free := rfl
@[simp] theorem State.onPwr_pending (g : Power → Power) : (s.onPwr g).pending = s.pending := rfl

/-! ## onRst -/

@[simp] theorem State.onRst_mem (g : Resets → Resets) : (s.onRst g).mem = s.mem := rfl
@[simp] theorem State.onRst_mmu (g : Resets → Resets) : (s.onRst g).mmu = s.mmu := rfl
@[simp] theorem State.onRst_fe (g : Resets → Resets) : (s.onRst g).fe = s.fe := rfl
@[simp] theorem State.onRst_fen (g : Resets → Resets) : (s.onRst g).fen = s.fen := rfl
@[simp] theorem State.onRst_reg (g : Resets → Resets) : (s.onRst g).reg = s.reg := rfl
@[simp] theorem State.onRst_err (g : Resets → Resets) : (s.onRst g).err = s.err := rfl
@[simp] theorem State.onRst_unit (g : Resets → Resets) : (s.onRst g).unit = s.unit := rfl
@[simp] theorem State.onRst_sec (g : Resets → Resets) : (s.onRst g).sec = s.sec := rfl
@[simp] theorem State.onRst_tns (g : Resets → Resets) : (s.onRst g).tns = s.tns := rfl
@[simp] theorem State.onRst_rsh (g : Resets → Resets) : (s.onRst g).rsh = s.rsh := rfl
@[simp] theorem State.onRst_shd (g : Resets → Resets) : (s.onRst g).shd = s.shd := rfl
@[simp] theorem State.onRst_rnd (g : Resets → Resets) : (s.onRst g).rnd = s.rnd := rfl
@[simp] theorem State.onRst_dsp (g : Resets → Resets) : (s.onRst g).dsp = s.dsp := rfl
@[simp] theorem State.onRst_cmp (g : Resets → Resets) : (s.onRst g).cmp = s.cmp := rfl
@[simp] theorem State.onRst_pwr (g : Resets → Resets) : (s.onRst g).pwr = s.pwr := rfl
@[simp] theorem State.onRst_rst (g : Resets → Resets) : (s.onRst g).rst = g s.rst := rfl
@[simp] theorem State.onRst_boot (g : Resets → Resets) : (s.onRst g).boot = s.boot := rfl
@[simp] theorem State.onRst_tap (g : Resets → Resets) : (s.onRst g).tap = s.tap := rfl
@[simp] theorem State.onRst_mon (g : Resets → Resets) : (s.onRst g).mon = s.mon := rfl
@[simp] theorem State.onRst_time (g : Resets → Resets) : (s.onRst g).time = s.time := rfl
@[simp] theorem State.onRst_free (g : Resets → Resets) : (s.onRst g).free = s.free := rfl
@[simp] theorem State.onRst_pending (g : Resets → Resets) : (s.onRst g).pending = s.pending := rfl

/-! ## onBoot -/

@[simp] theorem State.onBoot_mem (g : Boot → Boot) : (s.onBoot g).mem = s.mem := rfl
@[simp] theorem State.onBoot_mmu (g : Boot → Boot) : (s.onBoot g).mmu = s.mmu := rfl
@[simp] theorem State.onBoot_fe (g : Boot → Boot) : (s.onBoot g).fe = s.fe := rfl
@[simp] theorem State.onBoot_fen (g : Boot → Boot) : (s.onBoot g).fen = s.fen := rfl
@[simp] theorem State.onBoot_reg (g : Boot → Boot) : (s.onBoot g).reg = s.reg := rfl
@[simp] theorem State.onBoot_err (g : Boot → Boot) : (s.onBoot g).err = s.err := rfl
@[simp] theorem State.onBoot_unit (g : Boot → Boot) : (s.onBoot g).unit = s.unit := rfl
@[simp] theorem State.onBoot_sec (g : Boot → Boot) : (s.onBoot g).sec = s.sec := rfl
@[simp] theorem State.onBoot_tns (g : Boot → Boot) : (s.onBoot g).tns = s.tns := rfl
@[simp] theorem State.onBoot_rsh (g : Boot → Boot) : (s.onBoot g).rsh = s.rsh := rfl
@[simp] theorem State.onBoot_shd (g : Boot → Boot) : (s.onBoot g).shd = s.shd := rfl
@[simp] theorem State.onBoot_rnd (g : Boot → Boot) : (s.onBoot g).rnd = s.rnd := rfl
@[simp] theorem State.onBoot_dsp (g : Boot → Boot) : (s.onBoot g).dsp = s.dsp := rfl
@[simp] theorem State.onBoot_cmp (g : Boot → Boot) : (s.onBoot g).cmp = s.cmp := rfl
@[simp] theorem State.onBoot_pwr (g : Boot → Boot) : (s.onBoot g).pwr = s.pwr := rfl
@[simp] theorem State.onBoot_rst (g : Boot → Boot) : (s.onBoot g).rst = s.rst := rfl
@[simp] theorem State.onBoot_boot (g : Boot → Boot) : (s.onBoot g).boot = g s.boot := rfl
@[simp] theorem State.onBoot_tap (g : Boot → Boot) : (s.onBoot g).tap = s.tap := rfl
@[simp] theorem State.onBoot_mon (g : Boot → Boot) : (s.onBoot g).mon = s.mon := rfl
@[simp] theorem State.onBoot_time (g : Boot → Boot) : (s.onBoot g).time = s.time := rfl
@[simp] theorem State.onBoot_free (g : Boot → Boot) : (s.onBoot g).free = s.free := rfl
@[simp] theorem State.onBoot_pending (g : Boot → Boot) : (s.onBoot g).pending = s.pending := rfl

/-! ## onTap -/

@[simp] theorem State.onTap_mem (g : Tap → Tap) : (s.onTap g).mem = s.mem := rfl
@[simp] theorem State.onTap_mmu (g : Tap → Tap) : (s.onTap g).mmu = s.mmu := rfl
@[simp] theorem State.onTap_fe (g : Tap → Tap) : (s.onTap g).fe = s.fe := rfl
@[simp] theorem State.onTap_fen (g : Tap → Tap) : (s.onTap g).fen = s.fen := rfl
@[simp] theorem State.onTap_reg (g : Tap → Tap) : (s.onTap g).reg = s.reg := rfl
@[simp] theorem State.onTap_err (g : Tap → Tap) : (s.onTap g).err = s.err := rfl
@[simp] theorem State.onTap_unit (g : Tap → Tap) : (s.onTap g).unit = s.unit := rfl
@[simp] theorem State.onTap_sec (g : Tap → Tap) : (s.onTap g).sec = s.sec := rfl
@[simp] theorem State.onTap_tns (g : Tap → Tap) : (s.onTap g).tns = s.tns := rfl
@[simp] theorem State.onTap_rsh (g : Tap → Tap) : (s.onTap g).rsh = s.rsh := rfl
@[simp] theorem State.onTap_shd (g : Tap → Tap) : (s.onTap g).shd = s.shd := rfl
@[simp] theorem State.onTap_rnd (g : Tap → Tap) : (s.onTap g).rnd = s.rnd := rfl
@[simp] theorem State.onTap_dsp (g : Tap → Tap) : (s.onTap g).dsp = s.dsp := rfl
@[simp] theorem State.onTap_cmp (g : Tap → Tap) : (s.onTap g).cmp = s.cmp := rfl
@[simp] theorem State.onTap_pwr (g : Tap → Tap) : (s.onTap g).pwr = s.pwr := rfl
@[simp] theorem State.onTap_rst (g : Tap → Tap) : (s.onTap g).rst = s.rst := rfl
@[simp] theorem State.onTap_boot (g : Tap → Tap) : (s.onTap g).boot = s.boot := rfl
@[simp] theorem State.onTap_tap (g : Tap → Tap) : (s.onTap g).tap = g s.tap := rfl
@[simp] theorem State.onTap_mon (g : Tap → Tap) : (s.onTap g).mon = s.mon := rfl
@[simp] theorem State.onTap_time (g : Tap → Tap) : (s.onTap g).time = s.time := rfl
@[simp] theorem State.onTap_free (g : Tap → Tap) : (s.onTap g).free = s.free := rfl
@[simp] theorem State.onTap_pending (g : Tap → Tap) : (s.onTap g).pending = s.pending := rfl

/-! ## onMon -/

@[simp] theorem State.onMon_mem (g : Monitor → Monitor) : (s.onMon g).mem = s.mem := rfl
@[simp] theorem State.onMon_mmu (g : Monitor → Monitor) : (s.onMon g).mmu = s.mmu := rfl
@[simp] theorem State.onMon_fe (g : Monitor → Monitor) : (s.onMon g).fe = s.fe := rfl
@[simp] theorem State.onMon_fen (g : Monitor → Monitor) : (s.onMon g).fen = s.fen := rfl
@[simp] theorem State.onMon_reg (g : Monitor → Monitor) : (s.onMon g).reg = s.reg := rfl
@[simp] theorem State.onMon_err (g : Monitor → Monitor) : (s.onMon g).err = s.err := rfl
@[simp] theorem State.onMon_unit (g : Monitor → Monitor) : (s.onMon g).unit = s.unit := rfl
@[simp] theorem State.onMon_sec (g : Monitor → Monitor) : (s.onMon g).sec = s.sec := rfl
@[simp] theorem State.onMon_tns (g : Monitor → Monitor) : (s.onMon g).tns = s.tns := rfl
@[simp] theorem State.onMon_rsh (g : Monitor → Monitor) : (s.onMon g).rsh = s.rsh := rfl
@[simp] theorem State.onMon_shd (g : Monitor → Monitor) : (s.onMon g).shd = s.shd := rfl
@[simp] theorem State.onMon_rnd (g : Monitor → Monitor) : (s.onMon g).rnd = s.rnd := rfl
@[simp] theorem State.onMon_dsp (g : Monitor → Monitor) : (s.onMon g).dsp = s.dsp := rfl
@[simp] theorem State.onMon_cmp (g : Monitor → Monitor) : (s.onMon g).cmp = s.cmp := rfl
@[simp] theorem State.onMon_pwr (g : Monitor → Monitor) : (s.onMon g).pwr = s.pwr := rfl
@[simp] theorem State.onMon_rst (g : Monitor → Monitor) : (s.onMon g).rst = s.rst := rfl
@[simp] theorem State.onMon_boot (g : Monitor → Monitor) : (s.onMon g).boot = s.boot := rfl
@[simp] theorem State.onMon_tap (g : Monitor → Monitor) : (s.onMon g).tap = s.tap := rfl
@[simp] theorem State.onMon_mon (g : Monitor → Monitor) : (s.onMon g).mon = g s.mon := rfl
@[simp] theorem State.onMon_time (g : Monitor → Monitor) : (s.onMon g).time = s.time := rfl
@[simp] theorem State.onMon_free (g : Monitor → Monitor) : (s.onMon g).free = s.free := rfl
@[simp] theorem State.onMon_pending (g : Monitor → Monitor) : (s.onMon g).pending = s.pending := rfl

/-! ## setRaw -/

@[simp] theorem State.setRaw_mem (fn off : Nat) (w : Word) : (s.setRaw fn off w).mem = s.mem := rfl
@[simp] theorem State.setRaw_mmu (fn off : Nat) (w : Word) : (s.setRaw fn off w).mmu = s.mmu := rfl
@[simp] theorem State.setRaw_fe (fn off : Nat) (w : Word) : (s.setRaw fn off w).fe = s.fe := rfl
@[simp] theorem State.setRaw_fen (fn off : Nat) (w : Word) : (s.setRaw fn off w).fen = s.fen := rfl
@[simp] theorem State.setRaw_err (fn off : Nat) (w : Word) : (s.setRaw fn off w).err = s.err := rfl
@[simp] theorem State.setRaw_unit (fn off : Nat) (w : Word) : (s.setRaw fn off w).unit = s.unit := rfl
@[simp] theorem State.setRaw_sec (fn off : Nat) (w : Word) : (s.setRaw fn off w).sec = s.sec := rfl
@[simp] theorem State.setRaw_tns (fn off : Nat) (w : Word) : (s.setRaw fn off w).tns = s.tns := rfl
@[simp] theorem State.setRaw_rsh (fn off : Nat) (w : Word) : (s.setRaw fn off w).rsh = s.rsh := rfl
@[simp] theorem State.setRaw_shd (fn off : Nat) (w : Word) : (s.setRaw fn off w).shd = s.shd := rfl
@[simp] theorem State.setRaw_rnd (fn off : Nat) (w : Word) : (s.setRaw fn off w).rnd = s.rnd := rfl
@[simp] theorem State.setRaw_dsp (fn off : Nat) (w : Word) : (s.setRaw fn off w).dsp = s.dsp := rfl
@[simp] theorem State.setRaw_cmp (fn off : Nat) (w : Word) : (s.setRaw fn off w).cmp = s.cmp := rfl
@[simp] theorem State.setRaw_pwr (fn off : Nat) (w : Word) : (s.setRaw fn off w).pwr = s.pwr := rfl
@[simp] theorem State.setRaw_rst (fn off : Nat) (w : Word) : (s.setRaw fn off w).rst = s.rst := rfl
@[simp] theorem State.setRaw_boot (fn off : Nat) (w : Word) : (s.setRaw fn off w).boot = s.boot := rfl
@[simp] theorem State.setRaw_tap (fn off : Nat) (w : Word) : (s.setRaw fn off w).tap = s.tap := rfl
@[simp] theorem State.setRaw_mon (fn off : Nat) (w : Word) : (s.setRaw fn off w).mon = s.mon := rfl
@[simp] theorem State.setRaw_time (fn off : Nat) (w : Word) : (s.setRaw fn off w).time = s.time := rfl
@[simp] theorem State.setRaw_free (fn off : Nat) (w : Word) : (s.setRaw fn off w).free = s.free := rfl
@[simp] theorem State.setRaw_pending (fn off : Nat) (w : Word) : (s.setRaw fn off w).pending = s.pending := rfl

/-! ## setCtx -/

@[simp] theorem State.setCtx_mem (n : Nat) (c : Ctx) : (s.setCtx n c).mem = s.mem := rfl
@[simp] theorem State.setCtx_fe (n : Nat) (c : Ctx) : (s.setCtx n c).fe = s.fe := rfl
@[simp] theorem State.setCtx_fen (n : Nat) (c : Ctx) : (s.setCtx n c).fen = s.fen := rfl
@[simp] theorem State.setCtx_reg (n : Nat) (c : Ctx) : (s.setCtx n c).reg = s.reg := rfl
@[simp] theorem State.setCtx_err (n : Nat) (c : Ctx) : (s.setCtx n c).err = s.err := rfl
@[simp] theorem State.setCtx_unit (n : Nat) (c : Ctx) : (s.setCtx n c).unit = s.unit := rfl
@[simp] theorem State.setCtx_sec (n : Nat) (c : Ctx) : (s.setCtx n c).sec = s.sec := rfl
@[simp] theorem State.setCtx_tns (n : Nat) (c : Ctx) : (s.setCtx n c).tns = s.tns := rfl
@[simp] theorem State.setCtx_rsh (n : Nat) (c : Ctx) : (s.setCtx n c).rsh = s.rsh := rfl
@[simp] theorem State.setCtx_shd (n : Nat) (c : Ctx) : (s.setCtx n c).shd = s.shd := rfl
@[simp] theorem State.setCtx_rnd (n : Nat) (c : Ctx) : (s.setCtx n c).rnd = s.rnd := rfl
@[simp] theorem State.setCtx_dsp (n : Nat) (c : Ctx) : (s.setCtx n c).dsp = s.dsp := rfl
@[simp] theorem State.setCtx_cmp (n : Nat) (c : Ctx) : (s.setCtx n c).cmp = s.cmp := rfl
@[simp] theorem State.setCtx_pwr (n : Nat) (c : Ctx) : (s.setCtx n c).pwr = s.pwr := rfl
@[simp] theorem State.setCtx_rst (n : Nat) (c : Ctx) : (s.setCtx n c).rst = s.rst := rfl
@[simp] theorem State.setCtx_boot (n : Nat) (c : Ctx) : (s.setCtx n c).boot = s.boot := rfl
@[simp] theorem State.setCtx_tap (n : Nat) (c : Ctx) : (s.setCtx n c).tap = s.tap := rfl
@[simp] theorem State.setCtx_mon (n : Nat) (c : Ctx) : (s.setCtx n c).mon = s.mon := rfl
@[simp] theorem State.setCtx_time (n : Nat) (c : Ctx) : (s.setCtx n c).time = s.time := rfl
@[simp] theorem State.setCtx_free (n : Nat) (c : Ctx) : (s.setCtx n c).free = s.free := rfl
@[simp] theorem State.setCtx_pending (n : Nat) (c : Ctx) : (s.setCtx n c).pending = s.pending := rfl

/-! ## setRing -/

@[simp] theorem State.setRing_mem (n : Nat) (x : Ring) : (s.setRing n x).mem = s.mem := rfl
@[simp] theorem State.setRing_mmu (n : Nat) (x : Ring) : (s.setRing n x).mmu = s.mmu := rfl
@[simp] theorem State.setRing_fen (n : Nat) (x : Ring) : (s.setRing n x).fen = s.fen := rfl
@[simp] theorem State.setRing_reg (n : Nat) (x : Ring) : (s.setRing n x).reg = s.reg := rfl
@[simp] theorem State.setRing_err (n : Nat) (x : Ring) : (s.setRing n x).err = s.err := rfl
@[simp] theorem State.setRing_unit (n : Nat) (x : Ring) : (s.setRing n x).unit = s.unit := rfl
@[simp] theorem State.setRing_sec (n : Nat) (x : Ring) : (s.setRing n x).sec = s.sec := rfl
@[simp] theorem State.setRing_tns (n : Nat) (x : Ring) : (s.setRing n x).tns = s.tns := rfl
@[simp] theorem State.setRing_rsh (n : Nat) (x : Ring) : (s.setRing n x).rsh = s.rsh := rfl
@[simp] theorem State.setRing_shd (n : Nat) (x : Ring) : (s.setRing n x).shd = s.shd := rfl
@[simp] theorem State.setRing_rnd (n : Nat) (x : Ring) : (s.setRing n x).rnd = s.rnd := rfl
@[simp] theorem State.setRing_dsp (n : Nat) (x : Ring) : (s.setRing n x).dsp = s.dsp := rfl
@[simp] theorem State.setRing_cmp (n : Nat) (x : Ring) : (s.setRing n x).cmp = s.cmp := rfl
@[simp] theorem State.setRing_pwr (n : Nat) (x : Ring) : (s.setRing n x).pwr = s.pwr := rfl
@[simp] theorem State.setRing_rst (n : Nat) (x : Ring) : (s.setRing n x).rst = s.rst := rfl
@[simp] theorem State.setRing_boot (n : Nat) (x : Ring) : (s.setRing n x).boot = s.boot := rfl
@[simp] theorem State.setRing_tap (n : Nat) (x : Ring) : (s.setRing n x).tap = s.tap := rfl
@[simp] theorem State.setRing_mon (n : Nat) (x : Ring) : (s.setRing n x).mon = s.mon := rfl
@[simp] theorem State.setRing_time (n : Nat) (x : Ring) : (s.setRing n x).time = s.time := rfl
@[simp] theorem State.setRing_free (n : Nat) (x : Ring) : (s.setRing n x).free = s.free := rfl
@[simp] theorem State.setRing_pending (n : Nat) (x : Ring) : (s.setRing n x).pending = s.pending := rfl

/-! ## setFence -/

@[simp] theorem State.setFence_mem (n : Nat) (x : Fence) : (s.setFence n x).mem = s.mem := rfl
@[simp] theorem State.setFence_mmu (n : Nat) (x : Fence) : (s.setFence n x).mmu = s.mmu := rfl
@[simp] theorem State.setFence_fe (n : Nat) (x : Fence) : (s.setFence n x).fe = s.fe := rfl
@[simp] theorem State.setFence_reg (n : Nat) (x : Fence) : (s.setFence n x).reg = s.reg := rfl
@[simp] theorem State.setFence_err (n : Nat) (x : Fence) : (s.setFence n x).err = s.err := rfl
@[simp] theorem State.setFence_unit (n : Nat) (x : Fence) : (s.setFence n x).unit = s.unit := rfl
@[simp] theorem State.setFence_sec (n : Nat) (x : Fence) : (s.setFence n x).sec = s.sec := rfl
@[simp] theorem State.setFence_tns (n : Nat) (x : Fence) : (s.setFence n x).tns = s.tns := rfl
@[simp] theorem State.setFence_rsh (n : Nat) (x : Fence) : (s.setFence n x).rsh = s.rsh := rfl
@[simp] theorem State.setFence_shd (n : Nat) (x : Fence) : (s.setFence n x).shd = s.shd := rfl
@[simp] theorem State.setFence_rnd (n : Nat) (x : Fence) : (s.setFence n x).rnd = s.rnd := rfl
@[simp] theorem State.setFence_dsp (n : Nat) (x : Fence) : (s.setFence n x).dsp = s.dsp := rfl
@[simp] theorem State.setFence_cmp (n : Nat) (x : Fence) : (s.setFence n x).cmp = s.cmp := rfl
@[simp] theorem State.setFence_pwr (n : Nat) (x : Fence) : (s.setFence n x).pwr = s.pwr := rfl
@[simp] theorem State.setFence_rst (n : Nat) (x : Fence) : (s.setFence n x).rst = s.rst := rfl
@[simp] theorem State.setFence_boot (n : Nat) (x : Fence) : (s.setFence n x).boot = s.boot := rfl
@[simp] theorem State.setFence_tap (n : Nat) (x : Fence) : (s.setFence n x).tap = s.tap := rfl
@[simp] theorem State.setFence_mon (n : Nat) (x : Fence) : (s.setFence n x).mon = s.mon := rfl
@[simp] theorem State.setFence_time (n : Nat) (x : Fence) : (s.setFence n x).time = s.time := rfl
@[simp] theorem State.setFence_free (n : Nat) (x : Fence) : (s.setFence n x).free = s.free := rfl
@[simp] theorem State.setFence_pending (n : Nat) (x : Fence) : (s.setFence n x).pending = s.pending := rfl

/-! ## setPlan -/

@[simp] theorem State.setPlan_mem (d : Nat) (x : Reshard) : (s.setPlan d x).mem = s.mem := rfl
@[simp] theorem State.setPlan_mmu (d : Nat) (x : Reshard) : (s.setPlan d x).mmu = s.mmu := rfl
@[simp] theorem State.setPlan_fe (d : Nat) (x : Reshard) : (s.setPlan d x).fe = s.fe := rfl
@[simp] theorem State.setPlan_fen (d : Nat) (x : Reshard) : (s.setPlan d x).fen = s.fen := rfl
@[simp] theorem State.setPlan_reg (d : Nat) (x : Reshard) : (s.setPlan d x).reg = s.reg := rfl
@[simp] theorem State.setPlan_err (d : Nat) (x : Reshard) : (s.setPlan d x).err = s.err := rfl
@[simp] theorem State.setPlan_unit (d : Nat) (x : Reshard) : (s.setPlan d x).unit = s.unit := rfl
@[simp] theorem State.setPlan_sec (d : Nat) (x : Reshard) : (s.setPlan d x).sec = s.sec := rfl
@[simp] theorem State.setPlan_tns (d : Nat) (x : Reshard) : (s.setPlan d x).tns = s.tns := rfl
@[simp] theorem State.setPlan_shd (d : Nat) (x : Reshard) : (s.setPlan d x).shd = s.shd := rfl
@[simp] theorem State.setPlan_rnd (d : Nat) (x : Reshard) : (s.setPlan d x).rnd = s.rnd := rfl
@[simp] theorem State.setPlan_dsp (d : Nat) (x : Reshard) : (s.setPlan d x).dsp = s.dsp := rfl
@[simp] theorem State.setPlan_cmp (d : Nat) (x : Reshard) : (s.setPlan d x).cmp = s.cmp := rfl
@[simp] theorem State.setPlan_pwr (d : Nat) (x : Reshard) : (s.setPlan d x).pwr = s.pwr := rfl
@[simp] theorem State.setPlan_rst (d : Nat) (x : Reshard) : (s.setPlan d x).rst = s.rst := rfl
@[simp] theorem State.setPlan_boot (d : Nat) (x : Reshard) : (s.setPlan d x).boot = s.boot := rfl
@[simp] theorem State.setPlan_tap (d : Nat) (x : Reshard) : (s.setPlan d x).tap = s.tap := rfl
@[simp] theorem State.setPlan_mon (d : Nat) (x : Reshard) : (s.setPlan d x).mon = s.mon := rfl
@[simp] theorem State.setPlan_time (d : Nat) (x : Reshard) : (s.setPlan d x).time = s.time := rfl
@[simp] theorem State.setPlan_free (d : Nat) (x : Reshard) : (s.setPlan d x).free = s.free := rfl
@[simp] theorem State.setPlan_pending (d : Nat) (x : Reshard) : (s.setPlan d x).pending = s.pending := rfl

/-! ## setPipe -/

@[simp] theorem State.setPipe_mem (p : Nat) (x : Pipe) : (s.setPipe p x).mem = s.mem := rfl
@[simp] theorem State.setPipe_mmu (p : Nat) (x : Pipe) : (s.setPipe p x).mmu = s.mmu := rfl
@[simp] theorem State.setPipe_fe (p : Nat) (x : Pipe) : (s.setPipe p x).fe = s.fe := rfl
@[simp] theorem State.setPipe_fen (p : Nat) (x : Pipe) : (s.setPipe p x).fen = s.fen := rfl
@[simp] theorem State.setPipe_reg (p : Nat) (x : Pipe) : (s.setPipe p x).reg = s.reg := rfl
@[simp] theorem State.setPipe_err (p : Nat) (x : Pipe) : (s.setPipe p x).err = s.err := rfl
@[simp] theorem State.setPipe_unit (p : Nat) (x : Pipe) : (s.setPipe p x).unit = s.unit := rfl
@[simp] theorem State.setPipe_sec (p : Nat) (x : Pipe) : (s.setPipe p x).sec = s.sec := rfl
@[simp] theorem State.setPipe_tns (p : Nat) (x : Pipe) : (s.setPipe p x).tns = s.tns := rfl
@[simp] theorem State.setPipe_rsh (p : Nat) (x : Pipe) : (s.setPipe p x).rsh = s.rsh := rfl
@[simp] theorem State.setPipe_shd (p : Nat) (x : Pipe) : (s.setPipe p x).shd = s.shd := rfl
@[simp] theorem State.setPipe_rnd (p : Nat) (x : Pipe) : (s.setPipe p x).rnd = s.rnd := rfl
@[simp] theorem State.setPipe_cmp (p : Nat) (x : Pipe) : (s.setPipe p x).cmp = s.cmp := rfl
@[simp] theorem State.setPipe_pwr (p : Nat) (x : Pipe) : (s.setPipe p x).pwr = s.pwr := rfl
@[simp] theorem State.setPipe_rst (p : Nat) (x : Pipe) : (s.setPipe p x).rst = s.rst := rfl
@[simp] theorem State.setPipe_boot (p : Nat) (x : Pipe) : (s.setPipe p x).boot = s.boot := rfl
@[simp] theorem State.setPipe_tap (p : Nat) (x : Pipe) : (s.setPipe p x).tap = s.tap := rfl
@[simp] theorem State.setPipe_mon (p : Nat) (x : Pipe) : (s.setPipe p x).mon = s.mon := rfl
@[simp] theorem State.setPipe_time (p : Nat) (x : Pipe) : (s.setPipe p x).time = s.time := rfl
@[simp] theorem State.setPipe_free (p : Nat) (x : Pipe) : (s.setPipe p x).free = s.free := rfl
@[simp] theorem State.setPipe_pending (p : Nat) (x : Pipe) : (s.setPipe p x).pending = s.pending := rfl

/-! ## setL2 -/

@[simp] theorem State.setL2_mmu (d : Nat) (x : L2) : (s.setL2 d x).mmu = s.mmu := rfl
@[simp] theorem State.setL2_fe (d : Nat) (x : L2) : (s.setL2 d x).fe = s.fe := rfl
@[simp] theorem State.setL2_fen (d : Nat) (x : L2) : (s.setL2 d x).fen = s.fen := rfl
@[simp] theorem State.setL2_reg (d : Nat) (x : L2) : (s.setL2 d x).reg = s.reg := rfl
@[simp] theorem State.setL2_err (d : Nat) (x : L2) : (s.setL2 d x).err = s.err := rfl
@[simp] theorem State.setL2_unit (d : Nat) (x : L2) : (s.setL2 d x).unit = s.unit := rfl
@[simp] theorem State.setL2_sec (d : Nat) (x : L2) : (s.setL2 d x).sec = s.sec := rfl
@[simp] theorem State.setL2_tns (d : Nat) (x : L2) : (s.setL2 d x).tns = s.tns := rfl
@[simp] theorem State.setL2_rsh (d : Nat) (x : L2) : (s.setL2 d x).rsh = s.rsh := rfl
@[simp] theorem State.setL2_shd (d : Nat) (x : L2) : (s.setL2 d x).shd = s.shd := rfl
@[simp] theorem State.setL2_rnd (d : Nat) (x : L2) : (s.setL2 d x).rnd = s.rnd := rfl
@[simp] theorem State.setL2_dsp (d : Nat) (x : L2) : (s.setL2 d x).dsp = s.dsp := rfl
@[simp] theorem State.setL2_cmp (d : Nat) (x : L2) : (s.setL2 d x).cmp = s.cmp := rfl
@[simp] theorem State.setL2_pwr (d : Nat) (x : L2) : (s.setL2 d x).pwr = s.pwr := rfl
@[simp] theorem State.setL2_rst (d : Nat) (x : L2) : (s.setL2 d x).rst = s.rst := rfl
@[simp] theorem State.setL2_boot (d : Nat) (x : L2) : (s.setL2 d x).boot = s.boot := rfl
@[simp] theorem State.setL2_tap (d : Nat) (x : L2) : (s.setL2 d x).tap = s.tap := rfl
@[simp] theorem State.setL2_mon (d : Nat) (x : L2) : (s.setL2 d x).mon = s.mon := rfl
@[simp] theorem State.setL2_time (d : Nat) (x : L2) : (s.setL2 d x).time = s.time := rfl
@[simp] theorem State.setL2_free (d : Nat) (x : L2) : (s.setL2 d x).free = s.free := rfl
@[simp] theorem State.setL2_pending (d : Nat) (x : L2) : (s.setL2 d x).pending = s.pending := rfl

/-! ## setPower -/

@[simp] theorem State.setPower_mem (u : Nat) (p : UnitPower) : (s.setPower u p).mem = s.mem := rfl
@[simp] theorem State.setPower_mmu (u : Nat) (p : UnitPower) : (s.setPower u p).mmu = s.mmu := rfl
@[simp] theorem State.setPower_fe (u : Nat) (p : UnitPower) : (s.setPower u p).fe = s.fe := rfl
@[simp] theorem State.setPower_fen (u : Nat) (p : UnitPower) : (s.setPower u p).fen = s.fen := rfl
@[simp] theorem State.setPower_reg (u : Nat) (p : UnitPower) : (s.setPower u p).reg = s.reg := rfl
@[simp] theorem State.setPower_err (u : Nat) (p : UnitPower) : (s.setPower u p).err = s.err := rfl
@[simp] theorem State.setPower_sec (u : Nat) (p : UnitPower) : (s.setPower u p).sec = s.sec := rfl
@[simp] theorem State.setPower_tns (u : Nat) (p : UnitPower) : (s.setPower u p).tns = s.tns := rfl
@[simp] theorem State.setPower_rsh (u : Nat) (p : UnitPower) : (s.setPower u p).rsh = s.rsh := rfl
@[simp] theorem State.setPower_shd (u : Nat) (p : UnitPower) : (s.setPower u p).shd = s.shd := rfl
@[simp] theorem State.setPower_rnd (u : Nat) (p : UnitPower) : (s.setPower u p).rnd = s.rnd := rfl
@[simp] theorem State.setPower_dsp (u : Nat) (p : UnitPower) : (s.setPower u p).dsp = s.dsp := rfl
@[simp] theorem State.setPower_cmp (u : Nat) (p : UnitPower) : (s.setPower u p).cmp = s.cmp := rfl
@[simp] theorem State.setPower_pwr (u : Nat) (p : UnitPower) : (s.setPower u p).pwr = s.pwr := rfl
@[simp] theorem State.setPower_rst (u : Nat) (p : UnitPower) : (s.setPower u p).rst = s.rst := rfl
@[simp] theorem State.setPower_boot (u : Nat) (p : UnitPower) : (s.setPower u p).boot = s.boot := rfl
@[simp] theorem State.setPower_tap (u : Nat) (p : UnitPower) : (s.setPower u p).tap = s.tap := rfl
@[simp] theorem State.setPower_mon (u : Nat) (p : UnitPower) : (s.setPower u p).mon = s.mon := rfl
@[simp] theorem State.setPower_time (u : Nat) (p : UnitPower) : (s.setPower u p).time = s.time := rfl
@[simp] theorem State.setPower_free (u : Nat) (p : UnitPower) : (s.setPower u p).free = s.free := rfl
@[simp] theorem State.setPower_pending (u : Nat) (p : UnitPower) : (s.setPower u p).pending = s.pending := rfl

/-! ## setCrossing -/

@[simp] theorem State.setCrossing_mem (n : Nat) (x : Crossing) : (s.setCrossing n x).mem = s.mem := rfl
@[simp] theorem State.setCrossing_mmu (n : Nat) (x : Crossing) : (s.setCrossing n x).mmu = s.mmu := rfl
@[simp] theorem State.setCrossing_fe (n : Nat) (x : Crossing) : (s.setCrossing n x).fe = s.fe := rfl
@[simp] theorem State.setCrossing_fen (n : Nat) (x : Crossing) : (s.setCrossing n x).fen = s.fen := rfl
@[simp] theorem State.setCrossing_reg (n : Nat) (x : Crossing) : (s.setCrossing n x).reg = s.reg := rfl
@[simp] theorem State.setCrossing_unit (n : Nat) (x : Crossing) : (s.setCrossing n x).unit = s.unit := rfl
@[simp] theorem State.setCrossing_sec (n : Nat) (x : Crossing) : (s.setCrossing n x).sec = s.sec := rfl
@[simp] theorem State.setCrossing_tns (n : Nat) (x : Crossing) : (s.setCrossing n x).tns = s.tns := rfl
@[simp] theorem State.setCrossing_rsh (n : Nat) (x : Crossing) : (s.setCrossing n x).rsh = s.rsh := rfl
@[simp] theorem State.setCrossing_shd (n : Nat) (x : Crossing) : (s.setCrossing n x).shd = s.shd := rfl
@[simp] theorem State.setCrossing_rnd (n : Nat) (x : Crossing) : (s.setCrossing n x).rnd = s.rnd := rfl
@[simp] theorem State.setCrossing_dsp (n : Nat) (x : Crossing) : (s.setCrossing n x).dsp = s.dsp := rfl
@[simp] theorem State.setCrossing_cmp (n : Nat) (x : Crossing) : (s.setCrossing n x).cmp = s.cmp := rfl
@[simp] theorem State.setCrossing_pwr (n : Nat) (x : Crossing) : (s.setCrossing n x).pwr = s.pwr := rfl
@[simp] theorem State.setCrossing_rst (n : Nat) (x : Crossing) : (s.setCrossing n x).rst = s.rst := rfl
@[simp] theorem State.setCrossing_boot (n : Nat) (x : Crossing) : (s.setCrossing n x).boot = s.boot := rfl
@[simp] theorem State.setCrossing_tap (n : Nat) (x : Crossing) : (s.setCrossing n x).tap = s.tap := rfl
@[simp] theorem State.setCrossing_mon (n : Nat) (x : Crossing) : (s.setCrossing n x).mon = s.mon := rfl
@[simp] theorem State.setCrossing_time (n : Nat) (x : Crossing) : (s.setCrossing n x).time = s.time := rfl
@[simp] theorem State.setCrossing_free (n : Nat) (x : Crossing) : (s.setCrossing n x).free = s.free := rfl
@[simp] theorem State.setCrossing_pending (n : Nat) (x : Crossing) : (s.setCrossing n x).pending = s.pending := rfl

end Sys2Proof.Machine
end

