-- ==== Sys2Proof/WellFormed.lean ====
section
/-! DEFINITION. Well-formed commands: operands that the environment can send. The meanings are total
on the others too. -/

namespace Sys2Proof

open Sys2Proof.Machine

/-- An access of BAR0: 1, 2, 4 or 8 bytes below 64 MiB (R435, R437). -/
def sizeWf (size : Nat) : Bool := [1, 2, 4, 8].contains size
def accessWf (off size : Nat) : Bool := sizeWf size && decide (off < 2 ^ 26)

/-- An offset of PWR_WAKE_CFG or PWR_WAKE_STS, or of an alias (R440, R444). -/
def slowWf (off : Nat) : Bool :=
  decide (0x030000 ≤ off) && decide (off < 0x034000) && (decide (off % 0x1000 = 0x20) || decide (off % 0x1000 = 0x24))

/-- The primary offset of a parity-protected register (R445). -/
def parityWf (fn off : Nat) : Bool :=
  match blockAt off with
  | none => false
  | some (b, rel) => match regAt b rel with
    | some (d, _) => d.parity && decide (off % 4 = 0) && (decide (fn = 0) || d.vf)
    | none => false

/-- Host stores and failing ranges lie in the 48-bit host space. -/
def ioWf (io : HostIO) : Bool :=
  io.writes.all (fun c => decide (c.1 < 2 ^ 48)) && io.errs.all fun e => decide (e.1 < e.2) && decide (e.2 ≤ 2 ^ 48)

/-- Entry numbers have 64 bits (R69). -/
def entryWf (e : EntryRef) : Bool := decide (e.seq < 2 ^ 64)

/-- A command buffer holds at most 65,535 records, and entry numbers have 64 bits (R69, R80). -/
def opWf (o : OpRef) : Bool := decide (o.seq < 2 ^ 64) && decide (o.op < 65535)

/-- Ten sensors (R412). -/
def measureWf (m : Measurement) : Bool := decide (m.temps.length = 10)

/-- A SHA-384 digest has 48 bytes. -/
def dieCheckWf (r : DieCheck) : Bool := decide (r.ucodeHash.length = 48)

def lateWf (l : List LateSpan) : Bool := l.all fun x => decide (x.x0 ≤ x.x1)

/-- Four words of clip position (R272). -/
def vertsWf (l : List VertexOut) : Bool := l.all fun v => decide (v.clip.length = 4)

/-- A colour has four words (R286). -/
def fragsWf (l : List Fragment) : Bool := l.all fun f => f.color.all fun c => decide (c.length = 4)

/-- Sizes of a lane's access (R249). -/
def laneSizeWf (size : Nat) : Bool := [1, 2, 4, 8, 16].contains size

/-- Floating-point atomics add, take a minimum or maximum, or exchange (R251). -/
def atomicWf (op : AtomOp) (ty : AtomType) : Bool :=
  match ty, op with
  | .fp32, .and | .fp32, .or | .fp32, .xor => false
  | _, _ => true

/-- A shuffle's width is a power of two up to 32 (R247). -/
def widthWf (w : Nat) : Bool := [1, 2, 4, 8, 16, 32].contains w

/-- A command whose operands are in range. -/
def Instr.wellFormed (i : Instr) : Bool :=
  match i with
  | .registerWrite _ off size _ => accessWf off size
  | .regSetBits _ off size _ => accessWf off size
  | .regClearBits _ off size _ => accessWf off size
  | .regToggleBits _ off size _ => accessWf off size
  | .slowRegWrite _ off _ => slowWf off
  | .cfgParity fn off _ => parityWf fn.val off
  | .ctxCreateDone _ io => ioWf io
  | .ctxReloadDone io => ioWf io
  | .walkDone _ io => ioWf io
  | .ringEnableDone _ io => ioWf io
  | .nudge _ _ off size _ => accessWf off size
  | .doorbellReadDone _ io => ioWf io
  | .ringFetchDone _ io => ioWf io
  | .edgeArrayReadDone e io => entryWf e && ioWf io
  | .cbFramingReadDone e io => entryWf e && ioWf io
  | .entryStart e => entryWf e
  | .opDispatch o io => opWf o && ioWf io
  | .opNop o => opWf o
  | .opTimestamp o _ => opWf o
  | .opCopy o _ => opWf o
  | .opCopyDone o io => opWf o && ioWf io
  | .opFenceWait o => opWf o
  | .opFenceSignal o => opWf o
  | .entryComplete e _ => entryWf e
  | .opPreempt o => opWf o
  | .fencePageSignal _ _ size _ => sizeWf size
  | .fencePageError _ _ size _ => sizeWf size
  | .graphBindDir o => opWf o
  | .graphPublish o => opWf o
  | .graphPublishValidated o io => opWf o && ioWf io
  | .graphDelete o io => opWf o && ioWf io
  | .launchAccept e io => entryWf e && ioWf io
  | .tensorMma o => opWf o
  | .tensorVec o => opWf o
  | .tensorMove o _ => opWf o
  | .tensorTileDone o _ io _ => opWf o && ioWf io
  | .l2OpDone _ io => ioWf io
  | .l2LineFill _ _ io => ioWf io
  | .rshEntryDone _ _ io => ioWf io
  | .shdDispatch o io => opWf o && ioWf io
  | .shdDispatchIndirect o io => opWf o && ioWf io
  | .workgroupPlace o => opWf o
  | .stackFillDone _ io => ioWf io
  | .shdShuffle _ _ width _ _ => widthWf width
  | .memoryLoad _ _ _ _ _ size => laneSizeWf size
  | .memoryStore _ _ _ _ _ size => laneSizeWf size
  | .shdAtomic _ _ op ty _ _ _ _ _ => atomicWf op ty
  | .parkQueueRetry _ io => ioWf io
  | .renderPass o io => opWf o && ioWf io
  | .batchDeal o _ verts io => opWf o && vertsWf verts && ioWf io
  | .batchBinned o _ io => opWf o && ioWf io
  | .growPoll o io _ => opWf o && ioWf io
  | .partialRenderDone o => opWf o
  | .shadingStart o => opWf o
  | .tileAssign o _ io => opWf o && ioWf io
  | .tileShaded o _ frags io => opWf o && fragsWf frags && ioWf io
  | .tileStored o _ _ => opWf o
  | .fbcClear o _ => opWf o
  | .fbcClearDone o io => opWf o && ioWf io
  | .displayCommit o io => opWf o && ioWf io
  | .commitTablesLoaded _ io => ioWf io
  | .lineCompose _ late io => lateWf late && ioWf io
  | .poseReadDone _ io => ioWf io
  | .warpBandDone _ io => ioWf io
  | .cmpJob o => opWf o
  | .cmpJobDone _ io => ioWf io
  | .spdmChallenge _ nonce => decide (nonce.length = 32)
  | .spdmGetMeasurements _ _ nonce => decide (nonce.length = 32)
  | .policyApplyDone io => ioWf io
  | .powerMeasure m _ => measureWf m
  | .dieCheckDone _ r => dieCheckWf r
  | .imageVerifyDone io => ioWf io
  | .fwReady d0 d1 => dieCheckWf d0 && dieCheckWf d1
  | .blkKeyWrite .. | .blkKeyExpiry .. | .counterLoRead .. | .mmuFnCtxWrite .. | .ctxCreate ..
  | .ctxDestroy .. | .ctxAbort .. | .ctxRelease .. | .ctxReload .. | .drainEnd .. | .stopInPlace ..
  | .ctxRetired .. | .placeApply .. | .invalidateGo .. | .invalidateDone .. | .lateTranslation ..
  | .vectorHoldoffExpiry .. | .feFnRingWrite .. | .ringEnable .. | .ringDisable .. | .ringDisableDone ..
  | .ringSetPrio .. | .ringParity .. | .doorbellPoll .. | .fenceSignalApply .. | .fenceErrorApply ..
  | .fenceEventSpacingExpiry .. | .fenceTimeoutScan .. | .fenFnLocalWrite .. | .fenFnSharedWrite ..
  | .fenAlloc .. | .fenFree .. | .fenRead .. | .fenSetError .. | .fenImport .. | .fenUnimport ..
  | .fenEvqBaseWrite .. | .notifyCtrlWrite .. | .notifyFieldWrite .. | .narrowWrite .. | .narrowSwitchDone ..
  | .spmArbWrite .. | .regionClear .. | .regionClearDone .. | .powerGood .. | .unitRelease ..
  | .l2LockWrite .. | .l2Clean .. | .l2CleanInv .. | .l2LockLoad .. | .wcBufferTimeout .. | .rshArm ..
  | .rshAbort .. | .rshPlanStart .. | .fp32Arith .. | .transcendental .. | .integerArith ..
  | .floatToInteger .. | .srConversion .. | .shdBranch .. | .shdJoin .. | .shdYield .. | .exitLanes ..
  | .shdVote .. | .workgroupFence .. | .deviceFenceRelease .. | .deviceFenceAcquire .. | .shdBarrier ..
  | .barrierTimeout .. | .shdTrap .. | .illegalInstr .. | .feParkqBaseWrite .. | .parkReplay ..
  | .parkKill .. | .shdWatchdog .. | .dspCtlWrite .. | .frameBoundary .. | .pixelPllLockDone ..
  | .linkTrainingDone .. | .lineSignal .. | .samplePose .. | .warpBand .. | .writebackDone .. | .dspCntClr ..
  | .hpdChange .. | .auxGo .. | .auxReply .. | .auxTimeout .. | .cmpJobStart .. | .secPin .. | .secRelease ..
  | .secReleaseDone .. | .lcSecured .. | .lcRma .. | .secCfgWrite .. | .entropyFail .. | .spdmGetVersion
  | .spdmGetCapabilities | .spdmNegotiateAlgorithms .. | .spdmGetDigests | .spdmGetCertificate ..
  | .spdmKeyExchange .. | .spdmFinish .. | .spdmHeartbeat .. | .spdmKeyUpdate .. | .spdmEndSession ..
  | .spdmVendorDefined .. | .spdmUnsupported .. | .ideKm .. | .ideIntegrityFail .. | .tdiLock ..
  | .tdiStart .. | .tdiStop .. | .tdiGetReport .. | .tdiGetState .. | .tdispGetVersion .. | .vfFlr ..
  | .debugTokenExpiry .. | .policyApply .. | .avsFrameDone .. | .avsConfirmRead .. | .avsTimeout ..
  | .pllFrequencyMoveDone .. | .statsWrite .. | .sleepS3 .. | .sleepS4 .. | .sleepEntryDone
  | .sleepExitDone .. | .idleClockGate .. | .idlePowerGate .. | .wakePinEvent .. | .linkWakeEvent
  | .clockMonitorWindow .. | .oscTrimWindow .. | .pllLockDone .. | .clkGateWrite .. | .errRetire ..
  | .resetCore .. | .resetTensorArray .. | .resetTensorDmaChannel .. | .resetCluster .. | .resetComputeDie ..
  | .resetDisplayPipe .. | .resetCompressionChannel .. | .resetReshardEngine .. | .resetDieToDieLink ..
  | .resetDone .. | .crossingReopen .. | .flitReplay .. | .linkReplayLimit .. | .timeSyncPulse ..
  | .pwrokRise .. | .pwrokFall | .brownout .. | .xtalStable | .romSelftestDone .. | .perstDeassert
  | .perstAssert | .pcieLinkTrained | .pfFlr | .imgLoad .. | .tapReset | .tapIdcode | .tapSamplePreload ..
  | .tapExtest | .tapBypass .. | .tapVendorInstr .. | .monVer | .monLc | .monSts | .monNonce | .monToken ..
  | .monTokenEnd .. | .monBaud .. | .monDump .. | .monErrlog | .monClk | .monPwr | .monRd .. | .monWr ..
  | .monPin .. | .monRelease .. | .monFuse | .monLineBad .. | .memoryResponse .. | .keyReserveRefill ..
  | .doeDiscovery .. => true

end Sys2Proof
end

