-- ==== Sys2Proof/Tests/Slice0.lean ====
section
/-! SUPPORT. Tests: ill-formed commands are refused; single commands on small states; and for each
statement with hypotheses a state and operands that meet them. -/

namespace Sys2Proof.Tests

open Sys2Proof Sys2Proof.Machine

set_option Elab.async false

/-! ## States -/

/-- The device once firmware has booted: the link is up; die 0, cluster 0 and core 0 are on. -/
def booted : State := { State.reset with
  boot := { Boot.dark with step := .up, perst := false, link := true, stage := .ready }
  unit := { State.reset.unit with diePresent := [(0, 1)], clusterPresent := [(0, 1)], booted := [0], degraded := true, memGib8 := 16, power := [(0, .on), (8, .on), (72, .on)] } }

/-- A block unlocked for the physical function. -/
def keyed (b : BlockId) (s : State) : State := setUnlock b 0 1 s

/-- The state that a command leaves. -/
def after (c : Instr) (s : State) : Option State := match exec c s with
  | .next t => some t
  | _ => none

/-- No host store and no failing host range. -/
def io0 : HostIO := { writes := [], errs := [] }

/-! ## Ill-formed commands, one for each check of WellFormed.lean -/

theorem test_access_size_refused : (Instr.registerWrite 0 0x060000 3 0).wellFormed = false := by decide
theorem test_access_offset_refused : (Instr.registerWrite 0 (2 ^ 26) 4 0).wellFormed = false := by decide
theorem test_slow_offset_refused : (Instr.slowRegWrite 0 0x030000 0).wellFormed = false := by decide
theorem test_parity_register_refused : (Instr.cfgParity 0 0x060000 0).wellFormed = false := by decide
theorem test_host_store_refused : (Instr.ctxReloadDone { writes := [(2 ^ 48, 0)], errs := [] }).wellFormed = false := by decide
theorem test_host_range_refused : (Instr.ctxReloadDone { writes := [], errs := [(8, 8)] }).wellFormed = false := by decide
theorem test_entry_number_refused : (Instr.entryStart { ring := 0, seq := 2 ^ 64 }).wellFormed = false := by decide
theorem test_op_index_refused : (Instr.opNop { ring := 0, seq := 1, op := 65535 }).wellFormed = false := by decide
theorem test_sensors_refused : (Instr.powerMeasure { powerMw := 0, temps := [] } 0).wellFormed = false := by decide
theorem test_digest_refused :
    (Instr.dieCheckDone 0 { answers := true, rev := 0, revOk := true, fuseOk := true, ucodeVer := 0, imageVer := 0, digestOk := true, ucodeHash := [], clearOk := true }).wellFormed = false := by decide
theorem test_late_span_refused : (Instr.lineCompose 0 [{ layer := 0, x0 := 2, x1 := 1 }] io0).wellFormed = false := by decide
theorem test_vertex_refused :
    (Instr.batchDeal { ring := 0, seq := 1, op := 0 } 0 [{ index := 0, inst := 0, clip := [0], vary := [] }] io0).wellFormed = false := by decide
theorem test_colour_refused :
    (Instr.tileShaded { ring := 0, seq := 1, op := 0 } 0 [{ batch := 0, prim := 0, px := 0, py := 0, color := [[0]], depth := none }] io0).wellFormed = false := by decide
theorem test_lane_size_refused : (Instr.memoryLoad { core := 0, slot := 0 } .va 0 (.imm 0) (.imm 0) 3).wellFormed = false := by decide
theorem test_atomic_refused :
    (Instr.shdAtomic { core := 0, slot := 0 } .va .xor .fp32 none (.imm 0) (.imm 0) 0 0).wellFormed = false := by decide
theorem test_shuffle_width_refused : (Instr.shdShuffle { core := 0, slot := 0 } (.up 1) 3 0 0).wellFormed = false := by decide
theorem test_nonce_refused : (Instr.spdmChallenge 0 []).wellFormed = false := by decide
theorem test_well_formed_accepted : (Instr.registerWrite 0 0x060000 4 0).wellFormed = true ∧ (Instr.cfgParity 0 0x060040 0).wellFormed = true := by decide

/-! ## Single commands -/

/-- R437, R439: a write of FE_RING_SEL keeps its 13 bits. -/
theorem test_ring_sel_width : (after (.registerWrite 0 0x060000 4 0x41FFF) booted).map (·.reg.regs) = some [(0x060000, 0x1FFF)] := by decide +kernel
/-- R437: bytes of a register, a read that is not aligned, an 8-byte read, and R471: nothing of FE before STAGE READY. -/
theorem test_read_sizes :
    regRead 0 0x060320 1 booted = 0xD0 ∧ regRead 0 0x060321 1 booted = 7 ∧ regRead 0 0x060321 2 booted = 0 ∧ regRead 0 0x060310 8 (booted.setRaw 0 0x060310 5) = 5 ∧
      regRead 0 0x060320 4 State.reset = 0 := by decide +kernel

/-- R440: the toggle alias of FE_RING_CFG, whose LOG2_SIZE resets to 4, works on the stored value. -/
theorem test_toggle_alias : (after (.regToggleBits 0 0x060014 4 0x101) booted).map (·.reg.regs) = some [(0x060014, 0x001)] := by decide +kernel
/-- R442: a guarded write without an unlock sets DENIED and stores nothing. -/
theorem test_denied : (after (.feFnRingWrite 0 1 0x2000) booted).map (fun t => (t.reg.regs, t.reg.denied.length)) = some ([], 1) := by decide +kernel
/-- R62: under an unlock a range that overlaps function 0's is refused, with REFUSED set. -/
theorem test_overlap_refused : (after (.feFnRingWrite 0 1 0x2000) (keyed .fe booted)).map (·.reg.regs) = some [(0x060104, 0x80000000)] := by decide +kernel
/-- R108: ALLOC of a local fence in the function's range. -/
theorem test_alloc : (after (.fenAlloc 0) booted).map (fun t => (t.fence 0).st) = some .active := by decide +kernel
/-- R39: RELEASE of an ACTIVE context answers STATE. -/
theorem test_release_state : (after (.ctxRelease 0 0) booted).map (·.mmu.results) = some [(0, 3)] := by decide +kernel
/-- R128: 448 is E4M3's largest finite value, 0x7E, and 57,344 is E5M2's, 0x7B. -/
theorem test_max_codes : maxCode fmtE4m3 = 0x7E ∧ maxCode fmtE5m2 = 0x7B := by decide
/-- R476: after TAP reset the instruction register holds IDCODE. -/
theorem test_tap_reset : (after .tapReset { booted with tap := { booted.tap with ir := 0xFF } }).map (·.tap.ir) = some 1 := by decide +kernel
/-- R471: PWROK rising latches the straps and starts the crystal. -/
theorem test_pwrok : (after (.pwrokRise 0x15) State.reset).map (fun t => (t.boot.straps, decide (t.boot.step = .xtal))) = some (0x15, true) := by decide +kernel
/-- The table gives no row any bits (log 4). -/
theorem test_no_word_spells_a_command : decodeTableWord 32 0 = none := by decide

/-! ## Witnesses: a state and operands that meet the hypotheses of each statement -/

/-- A list of n bytes, 0 but at the offsets listed. -/
def bytes (n : Nat) (l : List (Nat × Byte)) : List Byte := (upTo n).map fun i => ((l.find? fun e => e.1 = i).map (·.2)).getD 0

/-- Context 0 maps its first GiB onto the first GiB of host memory, through two tables there. -/
def paged : State := { booted with
  mem := { booted.mem with cells := [(0x1000000001000, 0x01), (0x1000000001001, 0x20), (0x1000000001006, 1), (0x1000000002000, 0x1F), (0x1000000002006, 1)] }
  mmu := { booted.mmu with ctxs := [(0, { Ctx.zeroCtx with ptRoot := some 0x1000000001000 })] } }

def op0 : Op := { opcode := 0, va := 0x5000, len := 16, preds := [], mask := 1, phase := .running, status := 0, detail := 0, sticky := 0, skipped := false, reason := .aborted, rank := 0, spared := [], body := [], emask := 1, units := [], ending := none, fence := none, patches := [] }
def entry0 : Entry := { ring := 0, seq := 1, ctx := 0, raw := bytes 64 [], phase := .running, edges := [], nwait := 0, ops := [], status := 0, opIndex := 0xFFFF, detail := 0, reason := .aborted, launch := none, tAcc := 0, tRun := 0 }
/-- The one op of entry 1 of ring 0. -/
def oneOp (p : Op) (s : State) : State := { s with fe := { s.fe with entries := [{ entry0 with ops := [p] }] } }
def oneEntry (e : Entry) (s : State) : State := { s with fe := { s.fe with entries := [e] } }
def o1 : OpRef := { ring := 0, seq := 1, op := 0 }
def e1 : EntryRef := { ring := 0, seq := 1 }
/-- The answer of an access that succeeds. -/
def okOf {α : Type} : Res α → Option α
  | .ok a _ => some a
  | _ => none
/-- An access by the device itself that fails, and one that must wait. -/
def failsOf {α : Type} : Dev α → Bool
  | .failed => true
  | _ => false
def waitsOf {α : Type} : Dev α → Bool
  | .wait => true
  | _ => false
/-- How an access of an op's ends, where it does not succeed. -/
def endsOf {α : Type} : Res α → Option Nat
  | .ok .. => none
  | .fault .. => some 0
  | .severed _ => some 1
  | .wait _ => some 2
/-- The base link of die 0 is severed: requests to the die wait (R456). -/
def cut (s : State) : State := { s with err := { s.err with crossings := [(0, { severed := true, epoch := 0 })] } }
/-- No report is outstanding where no tensor op, pass or commit is over. -/
theorem noHooks_of (s : State) (h : (∀ d : Fin 2, (s.plan d.val).state ≠ .armed) ∧ (∀ p : Fin 4, (s.pipe p.val).pend = none)) (hr : s.tns.runs = [])
    (hd : s.dsp.reports = []) (hp : s.rnd.passes = []) : noHooks s := by
  refine ⟨h.1, h.2, ?_, hd, ?_⟩ <;> simp [hr, hp]
/-- A state with time to look back on. -/
def later (s : State) : State := { s with time := 5000000000 }
/-- A stored register of the physical function, in a state that stores no other. -/
def regs (l : List (Nat × Word)) (s : State) : State := { s with reg := { s.reg with regs := l } }

theorem witness_TheQueueIsFirstInFirstOut :
    exec .perstDeassert State.reset = .next { State.reset with boot := { State.reset.boot with perst := false } } ∧ step booted = .next { booted with time := booted.time + 1 } := ⟨rfl, rfl⟩

theorem witness_StepRunsTheFront : ({ booted with pending := [.perstDeassert, .tapReset] } : State).pending = .perstDeassert :: [.tapReset] := rfl

theorem witness_EveryStepKeepsTheForm : memInv booted ∧ regInv booted ∧ step booted = .next { booted with time := booted.time + 1 } := by
  refine ⟨by unfold memInv; decide +kernel, by unfold regInv; decide +kernel, rfl⟩

theorem witness_RegisterWriteStoresFields :
    quiet booted 0 ∧ quiet booted 63 ∧ (∀ off ∈ storingRegs, ∃ p ∈ (blockAt off).toList, ∃ q ∈ (regAt p.1 p.2).toList, q.1.rw ≠ 0) ∧
    0x060018 % 8 = 0 ∧ (after (.registerWrite 0 0x060018 4 1) booted).isSome = true := by
  refine ⟨by unfold quiet; decide +kernel, by unfold quiet; decide +kernel, by decide +kernel, by decide, by decide +kernel⟩

theorem witness_BlkKeyGuardsItsBlock :
    quiet booted 0 ∧ quiet booted 1 ∧ blockOff booted .fe = false ∧ blockOff booted (.tns 7) = true ∧ blockOff booted (.tns 0) = false ∧
    unlocked booted .fe 0 = false ∧ unlocked (keyed .fe booted) .fe 0 = true ∧
    blockAt 0x060100 = some (.fe, 0x100) ∧ ((regAt .fe 0x100).map fun d => d.1.rwk) = some 0x7FFFFFF ∧
    tblGet 0 (keyed .fe booted).reg.unlock (guardKey .fe 0) ≠ 0 := by
  refine ⟨by unfold quiet; decide +kernel, by unfold quiet; decide +kernel, ?_⟩
  decide +kernel

theorem witness_CountersLatchAndSlowWritesWait :
    quiet booted 0 ∧ quiet booted 5 ∧ booted.power 0 = .on ∧ booted.power 1 ≠ .on ∧
    (let s : State := { booted with reg := { booted.reg with slowHeld := [(0x030020, 0x31)] }, time := 833 }
     s.pending = [] ∧ slowEdges s.time < slowEdges (s.time + 1) ∧ tblGet 0 s.reg.slowHeld 0x030020 = 0x30 + 1 ∧ tblGet 0 s.reg.slowHeld 0x030024 = 0 ∧
      levelPins (s.setRaw 0 0x030020 (w32 0x30 &&& 0x77777777)) = []) ∧
    (let s : State := { booted with reg := { booted.reg with slowHeld := [(0x030024, 2)] }, time := 833 }
     tblGet 0 s.reg.slowHeld 0x030020 = 0 ∧ tblGet 0 s.reg.slowHeld 0x030024 = 1 + 1 ∧ levelPins s = [] ∧ levelPins (s.setRaw 0 0x030024 (s.raw 0 0x030024 &&& ~~~w32 1)) = []) ∧
    ¬ slowEdges booted.time < slowEdges (booted.time + 1) := by
  refine ⟨by unfold quiet; decide +kernel, by unfold quiet; decide +kernel, ?_⟩
  decide +kernel

theorem witness_ParityMismatchHaltsTheBlock :
    blockAt 0x060100 = some (.fe, 0x100) ∧ ((regAt .fe 0x100).map fun d => d.1.parity) = some true ∧ blockOff booted .fe = false ∧
    inMismatch booted (regKey 0 0x060100) = false ∧ logsPlainly booted (blockSource .fe) 0 ∧ ((regAt .fe 0x000).map fun d => d.1.parity) = some false := by
  unfold logsPlainly; decide +kernel

theorem witness_EntriesAreRetiredOnce :
    let s := withLog 0x42 4 0x87 0 0 0 booted
    quiet s 0 ∧ quiet s 1 ∧ (∃ e ∈ s.err.entries, e.seq = 1) ∧ (∀ e ∈ s.err.entries, e.seq ≠ 2) ∧ logRoom s 4 = true ∧ bit (s.raw 0 0x040000).toNat 31 = false := by
  unfold quiet; decide +kernel

/-- A VF range that fits, one that overlaps the physical function's, and one that leaves the fields alone. -/
theorem witness_RingRangesAreChecked :
    let s := keyed .fe (regs [(0x060100, 0x100000)] booted)
    quiet s 0 ∧ unlocked s .fe 0 = true ∧ tdiLocked s 1 = false ∧ s.fe.rings = [] ∧
    (∀ g : Fn, g ≠ 1 → overlap 128 128 (bits (s.raw 0 (0x060100 + 4 * g.val)).toNat 12 0) (bits (s.raw 0 (0x060100 + 4 * g.val)).toNat 26 13) = false) ∧
    bits (128 + 128 * 2 ^ 13) 12 0 = 128 ∧ bits (128 + 128 * 2 ^ 13) 26 13 = 128 ∧
    overlap 127 1 (bits (s.raw 0 0x060100).toNat 12 0) (bits (s.raw 0 0x060100).toNat 26 13) = true := by
  unfold quiet; decide +kernel

/-- VF 1 has contexts 16 and 17, rings 128 to 255, and a local and a shared fence. -/
def virt : State := { regs [(0x060100, 0x100000), (0x060104, 0x100080), (0x070100, 0x4000), (0x070104, 0x810), (0x080100, 0x400), (0x080104, 0x401), (0x080200, 0x400), (0x080204, 0x401)] booted with
  mmu := { booted.mmu with ctxs := [(16, { Ctx.freeCtx with state := .retired, gen := 3 }), (17, { Ctx.freeCtx with state := .active })] } }

theorem witness_ContextAndFenceRangesAreChecked :
    (let s := keyed .mmu virt
     quiet s 0 ∧ unlocked s .mmu 0 = true ∧ tdiLocked s 2 = false ∧
      (∀ g : Fn, g ≠ 2 → overlap 18 1 (bits (s.raw 0 (0x070100 + 4 * g.val)).toNat 8 0) (bits (s.raw 0 (0x070100 + 4 * g.val)).toNat 19 10) = false) ∧
      overlap 17 1 (bits (s.raw 0 0x070104).toNat 8 0) (bits (s.raw 0 0x070104).toNat 19 10) = true ∧
      (((s.raw 0 0x070108 &&& ~~~0xFFDFF) ||| (0x412 &&& 0xFFDFF)) &&& 0xFFDFF) ≠ (s.raw 0 0x070108 &&& 0xFFDFF)) ∧
    (let s := keyed .fen virt
     quiet s 0 ∧ unlocked s .fen 0 = true ∧ (∀ g : Fn, g ≠ 2 → overlap 2 1 (bits (s.raw 0 (0x080100 + 4 * g.val)).toNat 9 0) (bits (s.raw 0 (0x080100 + 4 * g.val)).toNat 20 10) = false) ∧
      s.fen.fences = []) ∧
    quiet virt 1 ∧ (virt.raw 0 0x070104 &&& 0xFFDFF) = (0x80000810 &&& 0xFFDFF) ∧ (virt.raw 0 0x080104 &&& 0x1FFFFF) = (0x80000401 &&& 0x1FFFFF) := by
  unfold quiet; decide +kernel

theorem witness_ContextCommandsFollowTheirStates :
    quiet virt 1 ∧ fnHasCtx virt 1 15 = false ∧ fnHasCtx virt 1 16 = true ∧ fnHasCtx virt 1 17 = true ∧ fnHasCtx virt 1 18 = false ∧
    (virt.ctx 16).cmd = none ∧ (virt.ctx 16).state = .retired ∧ (virt.ctx 17).state = .active ∧ virt.diePresent 0 = true ∧
    fnHasCtx virt 0 0 = true ∧ quiet virt 0 ∧ fnHasCtx virt 0 1 = true ∧ (virt.ctx 1).state = .free ∧
    ((after (.ctxCreate 0 1) virt).map fun t => (t.ctx 1).cmd.isSome) = some true := by
  unfold quiet; decide +kernel

theorem witness_DestroyAndAbortTearDown :
    (let s := virt
     quiet s 1 ∧ fnHasCtx s 1 17 = true ∧ (s.ctx 17).cmd = none ∧ (s.ctx 17).state = .active ∧ (s.ctx 17).drain = false) ∧
    (let s : State := { virt with mmu := { virt.mmu with ctxs := [(16, { Ctx.freeCtx with state := .active, drain := true }), (17, { Ctx.freeCtx with state := .draining })] } }
     quiet s 1 ∧ (s.ctx 16).state = .active ∧ (s.ctx 16).drain = true ∧ (s.ctx 17).state = .draining ∧ fnHasCtx s 1 16 = true) := by
  unfold quiet; decide +kernel

/-- A context descriptor: PT_ROOT 0x3000 and FQ_BASE 0x4000 in host memory, FQ_LOG2 4, VECTOR 1. -/
def desc1 : List (Nat × Byte) := [(1, 0x30), (6, 1), (9, 0x40), (14, 1), (16, 4), (18, 1)]
/-- CREATE of context 1 and RELOAD of context 0 are in progress; the table lies at host address 0x10000. -/
def creating (l : List (Nat × Byte)) : State := { regs [(0x070000, 0x10000), (0x070004, 0x10000)] booted with
  mem := { booted.mem with cells := l.map fun e => (0x1000000010040 + e.1, e.2) }
  mmu := { booted.mmu with ctxs := [(0, { Ctx.zeroCtx with cmd := some 0 }), (1, { Ctx.freeCtx with cmd := some 0 })] } }

theorem witness_CreateAndReloadEnd :
    (let s := creating desc1
     ((applyIO io0 s).ctx 1).cmd = some 0 ∧ s.reg.mismatch = [] ∧ ((devRead ((applyIO io0 s).rawBase 0 0x070000 0x070004 + 64) 64 (applyIO io0 s)).get?.map fun r => ((descriptor r.1).isSome, r.2.mmu.reserve)) = some (true, 64) ∧
      ((applyIO io0 s).ctx 0).cmd = some 0 ∧ ((devRead ((applyIO io0 s).rawBase 0 0x070000 0x070004) 64 (applyIO io0 s)).get?.map fun r => (descriptor r.1).isSome) = some false) ∧
    (let io : HostIO := { writes := [], errs := [(0x10000, 0x10080)] }
     let s := creating []
     failsOf (devRead ((applyIO io s).rawBase 0 0x070000 0x070004 + 64) 64 (applyIO io s)) = true ∧
      failsOf (devRead ((applyIO io s).rawBase 0 0x070000 0x070004) 64 (applyIO io s)) = true) ∧
    (let s := cut ((creating desc1).setRaw 0 0x070004 0)
     s.reg.mismatch = [] ∧ waitsOf (devRead ((applyIO io0 s).rawBase 0 0x070000 0x070004 + 64) 64 (applyIO io0 s)) = true ∧ waitsOf (devRead ((applyIO io0 s).rawBase 0 0x070000 0x070004) 64 (applyIO io0 s)) = true) ∧
    (let s := creating []
     let u : State := { s with mmu := { s.mmu with reloadLoads := [3] } }
     (applyIO io0 u).mmu.reloadLoads ≠ [] ∧ loadsGone (applyIO io0 u) [3] = true ∧ s.mmu.reloadLoads = [] ∧ loadsOn s 0 (fun _ => true) = [] ∧ (booted.ctx 0).cmd = none) ∧
    ((after (.ctxCreateDone 1 io0) (creating desc1)).map fun t => ((t.ctx 1).state, (t.ctx 1).fqLog2)) = some (.active, 4) ∧
    (descriptor (bytes 64 ((0, 1) :: desc1))).isSome = false ∧ (descriptor (bytes 64 ((16, 12) :: desc1))).isSome = true ∧ (descriptor (bytes 64 ((16, 13) :: desc1))).isSome = false := by
  decide +kernel

theorem witness_TeardownStepsEnd :
    let c (c : Ctx) : State := { booted with mmu := { booted.mmu with ctxs := [(1, c)] } }
    let d := c { Ctx.freeCtx with state := .draining }
    let a := c { Ctx.freeCtx with state := .aborting }
    awake d = true ∧ (d.ctx 1).state = .draining ∧ (d.ctx 1).drainDone = false ∧ drainIdle d 1 = true ∧ (∀ e : Fin 2, (d.plan e.val).state ≠ .running) ∧
    (a.ctx 1).state = .aborting ∧ ctxBusy a 1 = false ∧ a.fen.fences = [] ∧ a.rnd.passes = [] ∧ a.dsp.reports = [] ∧ a.tns.runs = [] ∧ a.fe.entries = [] ∧ a.sec.flr = [] ∧ noHooks a ∧ noHooks d ∧
    ((after (.ctxRetired 1) a).map fun t => (t.ctx 1).state) = some .retired := by
  refine ⟨?_, ?_, ?_, ?_, ?_, ?_, ?_, ?_, rfl, rfl, rfl, rfl, ?_, noHooks_of _ (by decide +kernel) rfl rfl rfl, noHooks_of _ (by decide +kernel) rfl rfl rfl, ?_⟩ <;> decide +kernel

theorem witness_InvalidationGo :
    quiet virt 1 ∧ invBusy virt 1 = false ∧ invBusy { virt with mmu := { virt.mmu with inval := [{ fn := 1, ctx := 17, loads := [4] }] } } 1 = true ∧
    (virt.mmu.invRes.Pairwise fun a b => a.1 < b.1) ∧ virt.raw 1 0x07002C = 0 ∧
    (let ctl (v : Word) : Nat := ((virt.setRaw 1 0x070028 ((virt.raw 1 0x070028 &&& ~~~0x7FFFFFFF) ||| (v &&& 0x3FFFFFFF))).raw 1 0x070028).toNat
     (fnHasCtx virt 1 (bits (ctl 0x40000612) 8 0) = false) ∧
      (fnHasCtx virt 1 (bits (ctl 0x40000011) 8 0) = true ∧ bit (ctl 0x40000011) 9 = false ∧ bits (ctl 0x40000011) 29 10 = 0) ∧
      (fnHasCtx virt 1 (bits (ctl 0x40000411) 8 0) = true ∧ bits (ctl 0x40000411) 29 10 = 1) ∧ bit (ctl 0x40000211) 9 = true) := by
  unfold quiet; decide +kernel

theorem witness_PlacementApply :
    quiet booted 0 ∧ quiet booted 1 ∧ booted.mem.locked = false ∧ placeValid booted = true ∧ fbcValidTable booted = true ∧
    placeValid (regs [(0x070C00, 0x20)] booted) = false := by
  unfold quiet; decide +kernel

theorem witness_TranslationsHitOrWalk :
    let t : TlbEntry := { ctx := 0, leaf := { base := 0x1000000000000, va := 0, size := 0x40000000, level := 2, r := true, w := true, x := true, cache := 0, place := 0, fbc := false, prot := false, key := 0 } }
    let s : State := { paged with mmu := { paged.mmu with utlb := [(3, [t])], walks := [{ id := 7, master := 2, ctx := 0, va := 0x1234, acc := .read, who := .none }] } }
    mayIssue s 3 0 = true ∧ tlbLookup s 3 0 0x3FFFFFFF = some t ∧ leafCheck (installU 3 t s) 0 0x3FFFFFFF .read t.leaf = none ∧
    tlbLookup s 3 0 0x40000000 = none ∧ tlbLookup s 2 0 0 = none ∧ s.reg.mismatch = [] ∧
    s.isPinned 2 = false ∧ ({ s with sec := { s.sec with pinned := [2] } } : State).isPinned 2 = true ∧
    (s.mmu.walks.find? fun w => w.id = 7).isSome = true ∧ mayIssue (applyIO io0 s) 2 0 = true ∧
    ((okOf (walkVa 0 0x1234 (applyIO io0 s))).map fun l => (l, leafCheck (applyIO io0 s) 0 0x1234 .read l)) = some (t.leaf, none) ∧
    endsOf (walkVa 0 0x40000000 (applyIO io0 s)) = some 0 ∧ endsOf (walkVa 0 0x1234 (cut (s.setCtx 0 { s.ctx 0 with ptRoot := some 0x1000 }))) = some 2 ∧
    (leafCheck (applyIO io0 s) 0 0x1234 .write { t.leaf with w := false }).isSome = true := by
  decide +kernel

/-- A ring of context 0 in host memory: 16 entries at 0x20000, its control block at 0x30000. -/
def ring0 : Ring := { Ring.off with state := .idle, base := 0x1000000020000, rcb := 0x1000000030000, vector := 1 }
def onRing0 (x : Ring) (s : State) : State := { s with fe := { s.fe with rings := [(0, x)] } }
/-- Bytes of host memory, and no others. -/
def host (l : List (Nat × Byte)) (s : State) : State := { s with mem := { s.mem with cells := l.map fun e => (2 ^ 48 + e.1, e.2) } }

theorem witness_RingCommandsFollowTheirStates :
    (let s := regs [(0x060000, 0), (0x060004, 0x20000), (0x060008, 0x10000), (0x06000C, 0x30000), (0x060010, 0x10000), (0x060014, 0x200100)] booted
     let r := ringSelected s 0
     quiet s 0 ∧ r = 0 ∧ fnHasRing s 0 r = true ∧ (s.ring r).cmd = none ∧ (s.ring r).state = .disabled ∧ fnHasCtx s 0 0 = true ∧ (s.ctx 0).state = .active ∧
      s.rawBase 0 0x060004 0x060008 = 0x1000000020000 ∧ bits (s.raw 0 0x060014).toNat 10 6 = 4 ∧ bits (s.raw 0 0x060014).toNat 31 21 = 1 ∧
      ((after (.ringEnable 0) s).map fun t => (t.ring 0).cmd) = some (some (.enable 0))) ∧
    fnHasRing virt 1 (ringSelected (virt.setRaw 1 0x060000 127) 1) = false ∧ fnHasRing virt 1 128 = true ∧ fnHasRing virt 1 255 = true ∧ fnHasRing virt 1 256 = false ∧
    (let s := onRing0 { ring0 with state := .disabled, cmd := some (.enable 0) } booted
     let bad := host [(0x30008, 1)] s
     ((applyIO io0 s).ring 0).cmd = some (.enable 0) ∧ ctxRuns s 0 = true ∧
      ((devRead 0x1000000030000 72 (applyIO io0 s)).get?.map fun r => (zeros r.1 8 56, ctxRuns r.2 0)) = some (true, true) ∧
      ((devRead 0x1000000030000 72 (applyIO io0 bad)).get?.map fun r => zeros r.1 8 56) = some false ∧
      failsOf (devRead 0x1000000030000 72 (applyIO { writes := [], errs := [(0x30000, 0x30001)] } s)) = true ∧ loopsBack (applyIO io0 s) 0x1000000030000 = false ∧
      waitsOf (devRead 0 72 (applyIO io0 (cut s))) = true ∧
      ((after (.ringEnableDone 0 io0) s).map fun t => (t.ring 0).state) = some .idle) ∧
    ((onRing0 { ring0 with cmd := some (.disable 0) } booted).ring 0).cmd = some (.disable 0) ∧
    ((onRing0 ring0 booted).ring 0).state ≠ .disabled ∧ (booted.ring 0).state = .disabled := by
  unfold quiet; decide +kernel

theorem witness_ProducerCountsArrive :
    (let s := onRing0 ring0 booted
     quiet s 0 ∧ fnHasRing s 0 0 = true ∧ fnHasRing s 0 8192 = false ∧ takesNudges s (s.ring 0) = true ∧ (s.ring 0).prod < 16 ∧ (16 - (s.ring 0).cons).toNat = 2 ^ (s.ring 0).log2 ∧
      2 ^ (s.ring 0).log2 < (17 - (s.ring 0).cons).toNat ∧ (s.ring 0).state = .idle) ∧
    (let s := onRing0 { ring0 with state := .fetching, reads := [.poll, .idleCheck] } (host [(0x30000, 3)] booted)
     takesNudges s (s.ring 0) = true ∧ (s.ring 0).state ≠ .idle ∧ (s.ring 0).reads = .poll :: [.idleCheck] ∧
      ((devRead (s.ring 0).rcb 8 ((applyIO io0 s).setRing 0 { s.ring 0 with reads := [.idleCheck] })).get?.map fun r => q64 (leNat r.1)) = some 3 ∧
      failsOf (devRead (s.ring 0).rcb 8 (applyIO { io0 with errs := [(0x30000, 0x30008)] } s)) = true ∧ waitsOf (devRead 0 8 (cut s)) = true) ∧
    (let s := advanceTo 1000000 (onRing0 { ring0 with pollIdle := true } booted)
     (s.ring 0).lastPoll + s.rawBits 0 0x060040 9 0 * 1000 ≤ s.time ∧ takesNudges s (s.ring 0) = true ∧ (s.ring 0).cmd = none) := by
  unfold quiet; decide +kernel

theorem witness_FetchedEntriesAreChecked :
    (let s (seq : Byte) := onRing0 { ring0 with state := .fetching, prod := 1 } (host [(0x20000, seq)] booted)
     let x := (applyIO io0 (s 1)).ring 0
     (s 1).reg.mismatch = [] ∧ x.state = .fetching ∧ x.stopped = false ∧ x.cmd = none ∧ x.dupWait = false ∧ x.limit = none ∧
      ((applyIO io0 (s 1)).ctx x.ctx).state = .active ∧ x.prod = x.cons + 1 ∧ x.cons < x.prod ∧
      ((devRead (x.base + 64 * (x.cons.toNat % 2 ^ x.log2)) 64 (applyIO io0 (s 1))).get?.map fun r => (decide (w32 (fld r.1 0 4) = (x.cons + 1).setWidth 32), entNwait r.1)) = some (true, 0) ∧
      ((devRead x.base 64 (applyIO io0 (s 2))).get?.map fun r => decide (0 < (w32 (fld r.1 0 4) - (x.cons + 1).setWidth 32).toInt)) = some true ∧
      failsOf (devRead (2 ^ 48 - 64) 64 (applyIO io0 (s 1))) = true ∧ waitsOf (devRead 0 64 (applyIO io0 (cut (s 1)))) = true) ∧
    (let s := oneEntry { entry0 with nwait := 64, phase := .edges } booted
     let full : State := { s with fe := { s.fe with entries := List.replicate 256 { entry0 with nwait := 64, phase := .edges } } }
     pendingWaits s + 1 ≤ 16384 ∧ 16384 < pendingWaits full + 1 ∧ edgesBad (bytes 64 [(20, 1), (24, 16)]) = false) ∧
    edgesBad (bytes 64 []) = false ∧ edgesBad (bytes 64 [(24, 16), (20, 64)]) = false ∧ fieldsBad (bytes 64 [(4, 1), (16, 1)]) = false ∧ fieldsBad (bytes 64 [(4, 2)]) = false ∧
    fieldsBad (bytes 64 [(4, 3)]) = true ∧ (acceptEntry 0 0 ring0 1 (bytes 64 [(4, 1), (16, 1)])).status = 0 ∧ (acceptEntry 0 0 ring0 1 (bytes 64 [(24, 16), (20, 64)])).status = 0 := by
  decide +kernel

/-- A wait edge of fence 5 for the value 1, whose kind byte is valid. -/
theorem witness_EntriesAreReadAndStart :
    (let e : Entry := { entry0 with raw := bytes 64 [(20, 1), (24, 0x40)], nwait := 1, phase := .edges }
     let s := oneEntry e { paged with fen := { paged.fen with fences := [(5, { Fence.freeFence with st := .active, alloc := 1 })] } }
     let rd (l : List (Nat × Byte)) := okOf (feRead 0 0x40 16 (applyIO { io0 with writes := l } s))
     let ed (l : List (Nat × Byte)) := (rd l).map fun b => (checkEdge s 0 0 false (parseEdge b false)).formed && (checkEdge s 0 0 false (parseEdge b false)).passed
     s.entry? 0 1 = some e ∧ s.reg.mismatch = [] ∧ (rd []).isSome = true ∧ ed [(0x40, 2), (0x42, 5), (0x48, 1)] = some true ∧ ed [(0x40, 2), (0x42, 6)] = some false ∧ ed [(0x40, 4)] = some false) ∧
    (let e : Entry := { entry0 with raw := bytes 64 [(4, 1), (8, 0x80), (16, 1)], phase := .framing }
     let s := onRing0 ring0 (oneEntry e paged)
     let ops (l : List (Nat × Byte)) : Bool := match (frameRecords 0 0x80 1 0 maxRecords 0 0 [] (applyIO { io0 with writes := l } s)).1 with
       | .ops l => l.length = 1
       | _ => false
     s.entry? 0 1 = some e ∧ ops [(0x82, 1)] = true ∧ ops [(0x81, 1)] = false) ∧
    (let e (k : Byte) : Entry := { entry0 with raw := bytes 64 [(4, k)], phase := .waiting }
     let s (k : Byte) := onRing0 ring0 (oneEntry (e k) booted)
     (s 0).entry? 0 1 = some (e 0) ∧ ctxRuns (s 0) 0 = true ∧ ringTurn (s 0) (e 0) = true ∧ ringTurn (s 1) (e 1) = true ∧ fld (e 1).raw 4 1 = 1) := by
  decide +kernel

/-- A fence of context 0, active at the value 1. -/
def fence1 : Fence := { Fence.freeFence with st := .active, value := 1, alloc := 1 }
def fences (l : List (Nat × Fence)) (s : State) : State := { s with fen := { s.fen with fences := l } }
/-- The operands of a fence op on fence 5, for a value. -/
def fenceBody (v : Byte) : List Byte := bytes 32 [(16, 2), (18, 5), (24, v)]

theorem witness_OpsDispatchAndEnd :
    (let e : Entry := { entry0 with phase := .running, ops := [{ op0 with phase := .waiting }] }
     let s := oneEntry e paged
     let read (s : State) := feRead 0 0x5000 16 (applyIO io0 (ungateMask 1 s))
     s.op? o1 = some (e, { op0 with phase := .waiting }) ∧ awake s = true ∧ s.reg.mismatch = [] ∧ ctxRuns s 0 = true ∧
      maskFree 0 = false ∧ effMask s e op0 = 1 ∧ effMask s e { op0 with mask := 2 } = 0 ∧ maskFree 0x40 = true ∧
      ((okOf (read s)).map fun b => (bodyBad 0 b, bodyBad 4 b)) = some (false, true) ∧
      endsOf (read { s with mem := { s.mem with cells := [] } }) = some 0 ∧ endsOf (read (cut (s.setCtx 0 { s.ctx 0 with ptRoot := some 0x1000 }))) = some 2) ∧
    (let s : State := { oneOp op0 booted with pwr := { booted.pwr with sleep := .s3, deep := 3 } }
     awake s = false ∧ inS3 s = true ∧ needsExit s entry0 op0 = false ∧ needsExit s entry0 { op0 with mask := 2, emask := 2 } = true) ∧
    ((oneOp op0 booted).op? o1).isSome = true ∧ op0.phase ≠ .done := by
  decide +kernel

theorem witness_FrontEndOpsAndCopiesRun :
    (let st := { op0 with opcode := 3, body := bytes 32 [(17, 0x60)] }
     let s := oneOp st paged
     (s.op? o1).isSome = true ∧ st.ending = none ∧ ctxRuns s 0 = true ∧ (okOf (vaWrite noMaster 0 (fld st.body 16 8) (natLe 8 s.time) s)).isSome = true ∧
      endsOf (vaWrite noMaster 0 0x40000000 (natLe 8 s.time) s) = some 0 ∧ (let w := cut (s.setCtx 0 { s.ctx 0 with ptRoot := some 0x1000 })
        endsOf (vaWrite noMaster 0 0x6000 (natLe 8 w.time) w) = some 2)) ∧
    (let s := fences [(5, fence1)] (oneOp op0 booted)
     let w (v : Byte) := fenceOpEdge s 0 0 (fenceBody v) false
     ((w 1).map (edgeWait s)) = some .sat ∧ ((w 2).map (edgeWait s)) = some .pending ∧ pendingWaits s < 16384 ∧
      fenceOpEdge s 0 0 (bytes 32 [(16, 2), (18, 6)]) false = none ∧ (fenceOpEdge s 0 0 (fenceBody 2) true).isSome = true ∧ awake s = true ∧
      ((w 2).map (edgeWait (fences [(5, { fence1 with st := .error, reason := some .timeout })] s))) = some (.error .timeout)) ∧
    (let s : State := oneOp { op0 with opcode := 4, body := bytes 64 [(17, 0x60), (24, 0x20), (25, 0x60), (32, 64)], units := [0x48] } { paged with fe := { paged.fe with copies := [{ op := o1, ctx := 0, chan := 0 }] } }
     s.fe.copies.find? (fun c => c.op = o1) = some { op := o1, ctx := 0, chan := 0 } ∧ copyPieces (64 / 2048 + 4) 0x6000 0x6020 64 = [] ++ [(0x6000, 0x6020, 64)] ∧
      (okOf (vaRead 0x48 0 0x6000 64 .read (applyIO io0 s))).isSome = true ∧ 0x6020 < 0x6000 + 64) ∧
    (let cp (l : List (Nat × Byte)) : Op := { op0 with opcode := 4, body := bytes 64 l }
     let s := oneOp (cp [(17, 0x60), (25, 0x70), (32, 64)]) paged
     chansPinned s 1 = false ∧ chanFree s 1 0 = true ∧ chanFree s 1 3 = true ∧ chanFree s 1 4 = false ∧ yields s o1 = false ∧
      chansPinned { s with sec := { s.sec with pinned := [0x48, 0x49, 0x4A, 0x4B] } } 1 = true ∧
      ((okOf (vaRead 0x48 0 0x6000 64 .read (applyIO io0 s))).map fun b => (okOf (vaWrite 0x48 0 0x7000 b (applyIO io0 s))).isSome) = some true ∧
      (okOf (vaWrite 0x48 0 0x7000 (fillBytes 0 0 64) (applyIO io0 s))).isSome = true) := by
  decide +kernel

theorem witness_EntriesCompleteOrYield :
    (let s := onRing0 ring0 (oneEntry { entry0 with phase := .finished } booted)
     awake s = true ∧ s.entry? 0 1 = some { entry0 with phase := .finished } ∧ entCompVa entry0.raw = 0 ∧ (s.ring 0).completed < q64 1) ∧
    (oneEntry entry0 booted).entry? 0 1 = some entry0 ∧ entry0.phase ≠ .finished ∧
    (let r : TensorRun := { op := o1, ctx := 0, next := [], held := [(0x40, 0)], parts := [], written := 0, flags := 0, tStart := 0, issue := 0, used := [], preempts := 0, stopping := false, fail := none }
     let p : Op := { op0 with opcode := 0x30, units := [0x40] }
     let s : State := { booted with
       fe := { booted.fe with
         rings := [(0, ring0), (1, { ring0 with prio := 1 })]
         entries := [{ entry0 with ops := [p] }, { entry0 with ring := 1, ops := [{ op0 with phase := .waiting }] }] }
       tns := { booted.tns with runs := [r] } }
     (s.op? o1).isSome = true ∧ outranked s o1 p = true ∧ s.run? o1 = some r ∧ r.held ≠ [] ∧ outranked (oneOp p booted) o1 p = false) := by
  decide +kernel

theorem witness_FenceCommandsFollowTheirStates :
    noHooks booted ∧
    (let s : State := { booted with reg := { booted.reg with mismatch := [(regKey 0 0x080004, 0)] } }
     barOpen s 0 = true ∧ awake s = true ∧ s.halted .fen = true ∧ fenBusy s 0 = false ∧ fenBusy (holdWrite 0 0x080018 1 s) 0 = true) ∧
    (let s (fn : Nat) (l : List (Nat × Word)) : State := l.foldl (fun s e => s.setRaw fn e.1 e.2) virt
     quiet (s 1 []) 1 ∧ fenSelected (s 1 [(0x080000, 63)]) 1 = none ∧ fenSelected (s 1 [(0x080000, 64)]) 1 = some 64 ∧ fenSelected (s 1 [(0x080000, 0x10001)]) 1 = some 65537 ∧
      fnHasCtx virt 1 17 = true ∧ (virt.ctx 17).state = .active ∧ (virt.ctx 16).state ≠ .active ∧ fnHasCtx virt 1 1 = false) ∧
    (let s := fences [(64, fence1), (65537, { fence1 with st := .error, reason := some .aborted })] virt
     (s.fence 64).st = .active ∧ (s.fence 65).st = .free ∧ (s.fence 65537).st = .error ∧ (s.fence 65537).imports = [] ∧ s.fen.queue = [] ∧
      reasonOf 5 = some .deviceLost ∧ reasonOf 0 = none ∧ plainFence (s.fence 64)) := by
  refine ⟨noHooks_of _ (by decide +kernel) rfl rfl rfl, ?_⟩
  unfold plainFence quiet; decide +kernel

theorem witness_FenceMessagesApply :
    let s (what : Quad ⊕ Reason) : State := { fences [(5, fence1)] booted with fen := { booted.fen with fences := [(5, fence1)], queue := [{ fence := 5, alloc := 1, what, page := false }] } }
    (s (.inl 2)).halted .fen = false ∧ plainFence fence1 ∧ ((s (.inl 2)).fence 5).alloc = 1 ∧ (1 : Quad) < 2 ∧
    ((after (.fenceSignalApply 0) (s (.inl 2))).map fun t => (t.fence 5).value) = some 2 ∧
    ((after (.fenceSignalApply 0) (s (.inl 1))).map fun t => (t.fence 5).ignored) = some 1 ∧
    ((after (.fenceErrorApply 0) (s (.inr .timeout))).map fun t => (t.fence 5).reason) = some (some .timeout) := by
  unfold plainFence; decide +kernel

/-- R379, R380: a bank whose region a context owns, the device's own BARs, and neither. -/
theorem test_device_violations :
    let s : State := { booted with mem := { booted.mem with owners := [(0, 3)], bars := [(0x5000, 0x6000)] } }
    devCause 0x8000000000 8 s = some 1 ∧ devCause 0x1000000005000 8 s = some 3 ∧ devCause 0x8000010000 8 s = none ∧
    (noteViolation 0x81 3 0x8000000000 8 s).err.entries.map (fun e => (e.code, e.src, e.ctx, e.info0, e.info1)) = [(0x11, 0x81, 3, 1, 0x8000000000)] := by
  decide +kernel

theorem witness_FenceTimersVectorsAndQueues :
    (let f := { fence1 with timeout := 5000, slots := [] }
     let e : Entry := { entry0 with phase := .waiting, nwait := 1, edges := [{ kind := 2, flags := 0, object := 5, value := 2, formed := true, passed := true, alloc := 1, sat := false, dead := false }] }
     let s := later (fences [(5, f)] (oneEntry e booted))
     s.halted .fen = false ∧ s.fen.queue = [] ∧ plainFence f ∧ (s.fence 5).st = .active ∧ hasWaiter s 5 = true ∧ (s.fence 5).changed + (s.fence 5).timeout * 1000000 = s.time) ∧
    (let s := later (fences [(5, { fence1 with notify := true, evHeld := true, evLast := some 4999999000 })] booted)
     (s.fence 5).evLast = some (s.time - 1000) ∧ bit (s.raw (fnOfFence s 5) 0x080028).toNat 31 = false ∧
      (let w := (s.setRaw 0 0x080024 0x10000).setRaw 0 0x080028 0x80010004
       bit (w.raw 0 0x080028).toNat 31 = true ∧ recordWaits w true 0 = false ∧
        ((queuePut (w.rawBase 0 0x080020 0x080024) 4 32 (w.evq 0) (bytes 32 []) w).map fun q => (q.1.prod, q.2.1)) = some (1, true))) ∧
    quiet virt 1 ∧
    (let h : VecHold := { src := .ring 0, last := 4999999000, pend := some (0, 1) }
     let s : State := { later booted with reg := { booted.reg with vecs := [h] } }
     s.reg.vecs.find? (fun h => h.src = .ring 0) = some h ∧ s.reg.vecs.find? (fun h => h.src = .ring 1) = none ∧ h.last + 1000 = s.time ∧
      (s.raw 0 (0x0E8000 + 16 * 1 + 12)).toNat % 2 = 1 ∧ ((s.setRaw 0 (0x0E8000 + 16 * 1 + 12) 0).raw 0 (0x0E8000 + 16 * 1 + 12)).toNat % 2 = 0) := by
  unfold plainFence quiet; decide +kernel

theorem witness_FencePagesAndSlots :
    (let f (v : Quad) : Fence := { fence1 with value := v, slots := [(7, { NotifySlot.empty with threshold := 2, addr := 0x9000 })] }
     let s (v : Quad) := fences [(65537, f v)] virt
     barOpen (s 1) 1 = true ∧ awake (s 1) = true ∧ (s 1).halted .fen = false ∧ ({ s 1 with reg := { (s 1).reg with mismatch := [(regKey 0 0x080004, 0)] } } : State).halted .fen = true ∧ fnHasShared (s 1) 1 1 = true ∧ fnHasShared (s 1) 1 2 = false ∧ (s 1).fence 65537 = f 1 ∧ (f 1).value < 2 ∧ ((f 1).slot 7).armed = false ∧
      (f 2).slots = [(7, (f 2).slot 7)] ∧ ((f 2).slot 7).threshold ≤ (f 2).value ∧
      (devWrite (2 ^ 48 + ((f 2).slot 7).addr.toNat % 2 ^ 48) (natLe 8 0) (s 2)).isSome = true) := by
  decide +kernel

/-- Host bytes of a graph at 0x4000 with one NOP node, and of a directory at 0x5000 that names it as version 1. -/
def graphIO : HostIO := { io0 with writes := [(0x4000, 1), (0x4009, 0x41), (0x4101, 0x42), (0x4108, 1), (0x4202, 1)] }
def dirIO : HostIO := { graphIO with writes := graphIO.writes ++ [(0x5001, 0x40), (0x5008, 1), (0x5010, 7)] }
/-- Context 0's directory is at 0x5000. -/
def bound (s : State) : State := s.setCtx 0 { s.ctx 0 with dir := some 0x5000 }
def graphOf (io : HostIO) (s : State) : Option (Nat × Nat) := match readGraph 0 0x4000 (applyIO io s) with
  | .ok g _ => some (g.argBytes, g.nodes.length)
  | _ => none

theorem witness_GraphPatchesRun :
    (let p (l : List (Nat × Byte)) : Op := { op0 with opcode := 0x60, body := bytes 64 l }
     let s (l : List (Nat × Byte)) := oneOp (p l) paged
     ((s []).op? o1).isSome = true ∧ (p []).ending = none ∧ ctxRuns (s []) 0 = true ∧ 2 < fld (p [(16, 3)]).body 16 1 ∧ (paged.ctx 0).dir = none ∧ fld (p [(25, 0x50)]).body 24 8 % 4096 = 0 ∧ fld (p [(24, 8)]).body 24 8 % 4096 ≠ 0 ∧
      graphOf graphIO (bound paged) = some (0, 1) ∧ graphOf io0 (bound paged) = none ∧
      ((okOf (feRead 0 0x5000 32 (applyIO graphIO (bound paged)))).map fun b => fld b 0 8) = some 0 ∧
      ((okOf (feRead 0 0x5000 32 (applyIO dirIO (bound paged)))).map fun b => (fld b 0 8, fld b 8 8)) = some (0x4000, 1) ∧
      (okOf (vaWrite noMaster 0 0x5000 (natLe 8 0x4000 ++ natLe 8 1 ++ natLe 1 7 ++ List.replicate 15 0) (applyIO graphIO (bound paged)))).isSome = true ∧
      ((bound paged).ctx 0).dir = some 0x5000) := by
  decide +kernel

theorem witness_VersionsPinAndRetire :
    (let x (l : List (Nat × Byte)) : Entry := { entry0 with raw := bytes 64 ((4, 2) :: l), phase := .waiting }
     let s := onRing0 ring0 (oneEntry (x []) (bound paged))
     s.reg.mismatch = [] ∧ s.entry? 0 1 = some (x []) ∧ fld (x []).raw 4 1 = 2 ∧ ctxRuns s 0 = true ∧ ringTurn s (x []) = true ∧ (paged.ctx 0).dir = none ∧ (s.ctx 0).dir = some 0x5000 ∧
      ((okOf (feRead 0 0x5000 32 (applyIO dirIO s))).map fun b => (fld b 0 8, bit (fld b 16 1) (s.ring 0).type)) = some (0x4000, true) ∧
      graphOf dirIO s = some (0, 1) ∧ fld (x []).raw 48 8 = 0 ∧ fld (x [(48, 8)]).raw 48 8 ≠ 0 ∧ bit 2 (s.ring 0).type = false ∧ s.fe.versions.length < 4096 ∧
      ((okOf (feRead 0 0x5000 32 (applyIO io0 s))).map fun b => fld b 0 8) = some 0) ∧
    (let v : GraphVersion := { ctx := 0, graph := 0, version := 1, root := 0x4000, pins := 1, launches := 1, current := true, retireVa := 0, fence := none }
     let s : State := { paged with fe := { paged.fe with versions := [v] } }
     s.fe.versions.any (fun v => decide (v.ctx = 0) && decide (v.graph = 0) && decide (v.version = 1)) = true ∧ (∀ v ∈ s.fe.versions, v.ctx = 0 → 0 < v.pins)) ∧
    paged.fe.versions = [] ∧ awake paged = true ∧ (okOf (vaWrite noMaster 0 0x6000 (List.replicate 32 0) paged)).isSome = true := by
  decide +kernel

/-- Bodies that pass their checks: one row of four FP32 elements moved, one by one by sixteen multiplied, one row of four. -/
def moveBody : List Byte := bytes 112 [(17, 0x60), (25, 0x70), (56, 1), (60, 4), (64, 1), (68, 16), (72, 16), (96, 1), (97, 1)]
def mmaBody : List Byte := bytes 192 [(16, 1), (20, 1), (24, 16), (28, 2), (29, 2), (30, 1), (31, 1), (41, 0x10), (49, 0x20), (65, 0x30), (96, 32), (100, 32), (108, 16)]
def vecBody : List Byte := bytes 96 [(16, 1), (20, 4), (24, 1), (25, 1), (26, 1), (33, 0x60), (49, 0x70), (64, 16), (72, 16)]

theorem witness_TensorRecordsAreCheckedAndStart :
    (let s (oc : Nat) (b : List Byte) := oneOp { op0 with opcode := oc, body := b } booted
     let pins : State := { s 0x30 mmaBody with sec := { booted.sec with pinned := [0x40, 0x48, 0x49, 0x4A, 0x4B] } }
     ((s 0x30 mmaBody).op? o1).isSome = true ∧ ctxRuns (s 0x30 mmaBody) 0 = true ∧ (s 0x30 mmaBody).run? o1 = none ∧
      ((parseMma mmaBody (maskArrays 1).length).map Mma.check) = some none ∧ ((parseMma (bytes 192 []) 1).isNone) = true ∧ ((parseMma (mmaBody.set 16 0) 1).map Mma.check) = some (some 0x30) ∧
      arraysPinned pins { op0 with opcode := 0x30, body := mmaBody } = true ∧ arraysPinned (s 0x30 mmaBody) { op0 with opcode := 0x30, body := mmaBody } = false ∧ fld mmaBody 160 8 = 0 ∧
      ((parseVec vecBody).map Vec.check) = some none ∧ (parseVec (bytes 96 [])).isNone = true ∧ ((parseVec (vecBody.set 28 7)).map Vec.check) = some (some 0x37) ∧
      ((parseMove moveBody).map Move.check) = some none ∧ (parseMove (bytes 112 [])).isNone = true ∧ ((parseMove (moveBody.set 64 0)).map Move.check) = some (some 0x30) ∧
      chansPinned pins 1 = true ∧ chansPinned (s 0x31 moveBody) 1 = false ∧ chanFree (s 0x31 moveBody) 1 0 = true ∧ yields (s 0x31 moveBody) o1 = false ∧
      arrayFree (s 0x30 mmaBody) 0 = true ∧ arrayFree pins 0 = false ∧ ownSlots 0x30 mmaBody = false ∧ ownSlots 0x30 (mmaBody.set 35 1) = true ∧
      0 < opItems 0x30 mmaBody 1 ∧ 0 < opItems 0x32 vecBody 1 ∧ 0 < opItems 0x31 moveBody 1 ∧ maskArrays 1 = [0]) := by
  decide +kernel

/-- What an item that goes well leaves. -/
def ranOk {α : Type} : Tr α → Option α
  | .ok a _ => some a
  | _ => none

theorem witness_TensorItemsEndAndModesFollow :
    (let m : Op := { op0 with opcode := 0x31, body := moveBody, units := [0x48] }
     let r : TensorRun := { op := o1, ctx := 0, next := [(0, 1)], held := [(0x48, 0)], parts := [], written := 0, flags := 0, tStart := 0, issue := 0, used := [], preempts := 0, stopping := false, fail := none }
     let s : State := { oneOp m paged with tns := { paged.tns with runs := [r] } }
     (s.op? o1).isSome = true ∧ s.run? o1 = some r ∧ ctxRuns s 0 = true ∧ s.isPinned 0x48 = false ∧ r.held.find? (fun h => h.1 = 0x48) = some (0x48, 0) ∧
      ((ranOk (runItem m o1 0x48 0 (slotOf m 0x48) 0 (s.ctx 0).ftz (applyIO io0 s))).bind fun u =>
        (u.run? o1).map fun x => (x.held, x.fail, tblGet 0 x.next 0, (u.op? o1).isSome, ctxRuns u 0)) = some ([(0x48, 0)], none, 1, true, true) ∧ opItems 0x31 moveBody 1 ≤ 1 ∧ reportVa 0x31 moveBody = 0) ∧
    quiet booted 0 ∧ booted.power 0 = .on ∧ unlocked (keyed (.tns 0) booted) (.tns 0) 0 = true ∧ unlocked booted (.tns 0) 0 = false ∧
    (((booted.raw 0 0x110000 &&& 0xFFFFFFFE) ||| (1 &&& 1)) &&& 1) ≠ (booted.raw 0 0x110000 &&& 1) := by
  unfold quiet
  refine ⟨?_, ?_⟩
  · decide +kernel
  · decide +kernel

theorem witness_NumbersKeepTheirCodes :
    (0x7E : Nat) < 2 ^ (1 + fmtE4m3.ebits + fmtE4m3.mbits) ∧ decodeFloat fmtE4m3 0x7E ≠ .nan ∧ (0xFF : Nat) < 2 ^ fmtWidth 0xA ∧
    ((parseMma (bytes 192 [(16, 1), (20, 1), (24, 16), (28, 0xA), (29, 0xA), (30, 0xE), (31, 0xE)]) 1).map Mma.isFloat) = some false := by
  decide +kernel

theorem witness_WeightsAndWaysAreChecked :
    quiet booted 0 ∧ quiet booted 1 ∧ booted.power 0 = .on ∧ booted.power 72 = .on ∧ unlocked (keyed (.l2 0) booted) (.l2 0) 0 = true ∧ unlocked booted (.l2 0) 0 = false ∧
    0x1186 % 16 + 0x1186 / 16 % 16 + 0x1186 / 256 % 16 + 0x1186 / 4096 % 16 = 16 ∧ (((booted.raw 0 0x120000 &&& 0xFFFF0000) ||| (0x1187 &&& 0xFFFF)) &&& 0xFFFF) ≠ (booted.raw 0 0x120000 &&& 0xFFFF) ∧
    ((List.range 16).filter fun w => 0xFF / 2 ^ w % 2 = 1).length = 8 ∧ (((booted.raw 0 0x300004 &&& 0xFFFF0000) ||| (0x1FF &&& 0xFFFF)) &&& 0xFFFF) ≠ (booted.raw 0 0x300004 &&& 0xFFFF) := by
  unfold quiet; decide +kernel

/-! Thread groups: two lanes of a group on core 0, whose code and data lie in one page of host memory. -/

def bigPage : TlbEntry := { ctx := 0, leaf := { base := 0x1000000000000, va := 0, size := 0x1000000000000, level := 2, r := true, w := true, x := true, cache := 3, place := 0, fbc := false, prot := false, key := 0 } }
def group0 : Group := { core := 0, slot := 0, op := o1, ctx := 0, role := .compute, code := 0x7000, header := [], const := 0, helper := 0, wg := 0, idx := 0, gran := 1, am := 3, em := 0xFFFFFFFC, pc := 0, stack := [], spilled := [], inputs := [], regs := [], placed := 0, idle := 0, waiting := false, filling := false, load := none, park := none }
def wg0 : Workgroup := { op := o1, wg := 0, core := 0, arrived := 0, base := 0, size := 0, ctx := 0 }
def run0 : ShdRun := { op := o1, ctx := 0, header := [], gx := 1, gy := 1, total := 1, next := 1, cores := [0], stopping := false }
def dispatchOp : Op := { op0 with opcode := 0x10, body := bytes 96 [(17, 0x70), (32, 1), (36, 1), (40, 1), (44, 2), (46, 1), (48, 1), (50, 8)] }
/-- A group that stands at its first instruction. -/
def grouped (g : Group) : State := { oneOp dispatchOp booted with
  shd := { booted.shd with runs := [run0], wgs := [wg0], groups := [g] }
  mmu := { booted.mmu with utlb := [(0, [bigPage])] } }

/-- An address of the page is translated through it. -/
theorem xlate_bigPage (s : State) (va : Nat) (hu : utlbOf s 0 = [bigPage]) (hb : s.mem.bars = []) (h : va < 281474976710656) :
    xlate 0 0 va .exec s = .ok bigPage.leaf (installU 0 bigPage s) := by
  have hl : tlbLookup s 0 0 va = some bigPage := by simp [tlbLookup, hu, TlbEntry.hits, bigPage, h]
  have hm : (installU 0 bigPage s).mem.bars = [] := hb
  have hc : leafCheck (installU 0 bigPage s) 0 va .exec bigPage.leaf = none := by
    unfold leafCheck loopsBack ownBar
    rw [hm]
    simp [keyRule, protRule, placeRule, target, bigPage]
  simp [xlate, hl, hc]
  omega

/-- One byte of the host is read past an empty L2. -/
theorem paRead_host (s : State) (pa : Nat) (h : 281474976710656 ≤ pa) (hl : s.mem.l2 = []) (he : s.mem.hostErr = []) (hc : s.err.crossings = []) (hr : s.reg.mismatch = []) (hp : s.pwr.sleep = .s0) :
    ∃ bs, paRead 0 (bigPage.leaf.attr 0) pa 1 s = .ok bs s := by
  have hx (d : Nat) : s.l2 d = L2.empty := by simp [State.l2, tblGet, hl]
  have hk (d : Nat) : linkCut s (some 0) d = false := by
    have h0 (x : Nat) : (s.crossing x).severed = false := by simp [State.crossing, tblGet, hc, Crossing.opened]
    simp [linkCut, h0]
  have hh (d : Nat) : l2Halted s d = false := by simp [l2Halted, State.halted, hr]
  have ha (d : Nat) : hostAttr s d (bigPage.leaf.attr 0) = bigPage.leaf.attr 0 := by
    unfold hostAttr; split <;> rfl
  have hg (d : Nat) : hostGate s (some 0) d = false := by simp [hostGate, hk, hh]
  have hf (d a : Nat) : hostReadFails s d (bigPage.leaf.attr 0) a 1 = false := by simp [hostReadFails, hostFails, he]
  have hline (d line : Nat) : ∃ bs, l2ReadLine d line (bigPage.leaf.attr 0) s = (bs, s) := by
    have hd (k : Nat) : s.setL2 k { L2.empty with lines := [] } = s := by
      have : tblSet L2.empty [] k { L2.empty with lines := [] } = [] := by simp [tblSet, L2.empty]
      obtain ⟨m⟩ := s
      obtain ⟨⟩ := m
      simp only at hl
      subst hl
      simp only [State.setL2, State.onMem, this]
    have hw (p : WcBuf → Bool) : wcFlushIf d p s = s := by simp only [wcFlushIf, hx]; rfl
    have ho : l2OtherKey d line (bigPage.leaf.attr 0).key s = s := by
      have hf (p : L2Miss → Bool) : l2FillIf d p s = s := by simp only [l2FillIf, hx]; rfl
      have hn (p : L2Line → Bool) : L2.empty.lines.filter p = [] := rfl
      simp only [l2OtherKey, hf, l2Drop, hx, hn, List.foldl_nil]
      exact hd d
    simp only [l2ReadLine, hw, ho, hx]
    exact ⟨_, rfl⟩
  have hcut : cutLines 2 pa 1 = [(pa, 1)] := by
    have : Nat.min 1 (128 - pa % 128) = 1 := by have := Nat.mod_lt pa (show 0 < 128 by decide); simp only [Nat.min_def]; split <;> omega
    simp [cutLines, this]
  obtain ⟨bs, hbs⟩ := hline (lineDie s (pa / 128)) (pa / 128)
  have hdie : (bigPage.leaf.attr 0).die = some 0 := by decide
  refine ⟨slice bs (pa % 128) 1, ?_⟩
  simp [paRead, hcut, paReadPart, target, h, ha, hdie, hg, hf, hbs, l2Pass, passThrough, inS3, hp]

/-- A byte of the page is fetched through it. -/
theorem fetch_bigPage (s : State) (va : Nat) (hu : utlbOf s 0 = [bigPage]) (hb : s.mem.bars = []) (h : va < 281474976710656) (hl : s.mem.l2 = []) (he : s.mem.hostErr = [])
    (hc : s.err.crossings = []) (hr : s.reg.mismatch = []) (hp : s.pwr.sleep = .s0) : ∃ bs, vaRead 0 0 va 1 .exec s = .ok bs (installU 0 bigPage s) := by
  have hcut : pageCuts va 1 = [(va, 1)] := by
    have : Nat.min 1 (4096 - va % 4096) = 1 := by have := Nat.mod_lt va (show 0 < 4096 by decide); simp only [Nat.min_def]; split <;> omega
    simp [pageCuts, cutPages, this]
  obtain ⟨bs, hbs⟩ := paRead_host (installU 0 bigPage s) (281474976710656 + va) (by omega) hl he hc hr hp
  refine ⟨bs, ?_⟩
  have hx := xlate_bigPage s va hu hb h
  have : bigPage.leaf.base + (va - bigPage.leaf.va) = 281474976710656 + va := rfl
  simp [vaRead, hcut, hx, this, hbs]

/-- Where a group's fetch goes through the page, the group issues. -/
theorem issuing_grouped (g : Group) (hg : (shdSweep (grouped g)).group? 0 0 = some g) (hi : canIssue (shdSweep (grouped g)) g = true) (hc : g.core = 0) (hx : g.ctx = 0)
    (hb : g.code = 0x7000) :
    issuing { core := 0, slot := 0 } g (grouped g) (installU 0 bigPage (shdSweep (grouped g))) := by
  refine ⟨hg, hi, ?_⟩
  simp only [fetchAt, hc, hx, hb]
  have h (b : BitVec 32) : 28672 + b.toNat < 281474976710656 := by have := b.isLt; omega
  exact fetch_bigPage _ _ rfl rfl (h _) rfl rfl rfl rfl rfl

/-- The group's state once its instruction has been fetched. -/
def fetched (g : Group) : State := installU 0 bigPage (shdSweep (grouped g))
def slot0 : GroupRef := { core := 0, slot := 0 }

theorem issuing_group0 : issuing slot0 group0 (grouped group0) (fetched group0) := issuing_grouped group0 (by decide +kernel) (by decide +kernel) rfl rfl (by decide +kernel)

/-- Entries of the divergence stack: a path and a reconvergence point. -/
def path1 : StackEnt := { path := true, mask := 2, pc := 9 }
def recv1 : StackEnt := { path := false, mask := 3, pc := 5 }

theorem witness_GroupArithmeticAndControl :
    issuing slot0 group0 (grouped group0) (fetched group0) ∧ noArrivals (fetched group0) ∧
    (let g : Group := { group0 with stack := [path1, recv1] }
     issuing slot0 g (grouped g) (fetched g) ∧ path1.mask &&& ~~~g.em ≠ 0 ∧ g.spilled = []) ∧
    (let g : Group := { group0 with stack := [recv1] }
     issuing slot0 g (grouped g) (fetched g) ∧ (group0.am &&& (1 : Word)) ≠ 0 ∧ (group0.am &&& ~~~(1 : Word)) ≠ 0 ∧ g.stack.length < 31) ∧
    intFmt 4 = none ∧ (intFmt 0xB).isSome = true ∧ fmtWidth 0xB < 32 ∧ fmtWidth 0xE = 32 ∧
    (fetched group0).shdRun? o1 = some run0 ∧ wgGroups { fetched group0 with shd := { (fetched group0).shd with groups := [] } } o1 0 = [] ∧ run0.total ≤ run0.next ∧
    (let g : Group := { group0 with spilled := [([path1], bytes 128 [])], filling := true }
     let z := shdSweep (applyIO io0 (grouped g))
     z.group? 0 0 = some g ∧ z.isPinned 0 = false ∧ ctxRuns z 0 = true ∧ okOf (vaRead 0 0 (spillVa (opBody z o1) g 0) 128 .read z) = some (bytes 128 [])) := by
  refine ⟨issuing_group0, by unfold noArrivals; decide +kernel, ⟨issuing_grouped _ (by decide +kernel) (by decide +kernel) rfl rfl (by decide +kernel), ?_⟩,
    ⟨issuing_grouped _ (by decide +kernel) (by decide +kernel) rfl rfl (by decide +kernel), ?_⟩, ?_⟩
  · decide +kernel
  · decide +kernel
  · decide +kernel

/-- The lanes' addresses: lane 0's register 2, misaligned for lane 1 where asked. -/
theorem witness_GroupData :
    (let g : Group := { group0 with regs := [(2 * 32, 1 + 0x8000), (2 * 32 + 1, 1 + 0x8004)] }
     let u := fetched g
     let addrs := (lanesOf g.am).map fun i => (i, (laneSrc u g (.reg 2) i).toNat + 2 ^ 32 * (laneSrc u g (.imm 0) i).toNat)
     let ok : Checked → Option Nat
       | .ok l _ => some l.length
       | _ => none
     issuing slot0 g (grouped g) u ∧ addrs = [(0, 0x8000), (1, 0x8004)] ∧ (∀ a ∈ addrs, a.2 % 4 = 0) ∧ addrs.filter (fun a => a.2 % 8 ≠ 0) = [(1, 0x8004)] ∧ parkqOn u (fnOfCtx u 0) = false ∧
      ok (checkLanes g .read addrs u) = some 2 ∧ ok (checkLanes g .write addrs u) = some 2) ∧
    (let p : TlbEntry := { bigPage with leaf := { bigPage.leaf with base := 0, size := 0x1000 } }
     let s : State := { fetched group0 with mmu := { booted.mmu with utlb := [(0, [p])] } }
     (match checkLanes group0 .atomic [(0, 0x100), (1, 0x104)] s with
       | .ok l v => l.all fun a => match target v a.pa with
         | .pkg _ _ => !a.attr.fbc
         | _ => false
       | _ => false) = true) ∧
    (let w : LoadWait := { id := 0, vas := [0x8000], writes := [(0, 3, 5)], host := 1, va := 0x8000, pa := 0, lines := [] }
     let g : Group := { group0 with load := some w }
     let z := shdSweep (grouped g)
     z.group? 0 0 = some g ∧ g.load = some w ∧ w.host ≠ 0 ∧ z.isPinned 0 = false ∧ ctxRuns z 0 = true) := by
  refine ⟨⟨issuing_grouped _ (by decide +kernel) (by decide +kernel) rfl rfl (by decide +kernel), ?_⟩, ?_, ?_⟩
  · decide +kernel
  · decide +kernel
  · decide +kernel

theorem witness_DispatchesStart :
    (let s (oc : Nat) (l : List (Nat × Byte)) := oneOp { dispatchOp with opcode := oc, body := bytes 96 l } paged
     let ok : List (Nat × Byte) := [(17, 0x70), (32, 1), (36, 1), (40, 1), (44, 2), (46, 1), (48, 1), (50, 8)]
     let ind : List (Nat × Byte) := [(17, 0x70), (44, 2), (46, 1), (48, 1), (50, 8), (73, 0x80)]
     let grid (l : List Host.Cell) := (okOf (feRead 0 0x8000 12 (applyIO { io0 with writes := l } (s 0x11 ind)))).map fun b => (fld b 0 4, fld b 4 4, fld b 8 4)
     ((s 0x10 ok).op? o1).isSome = true ∧ ctxRuns (s 0x10 ok) 0 = true ∧ (s 0x10 ok).shdRun? o1 = none ∧ zeros (bytes 96 [(80, 1)]) 80 16 = false ∧
      zeros (bytes 96 ok) 80 16 = true ∧ fld (bytes 96 ok) 72 8 = 0 ∧ dispatchCheck (bytes 96 ok) false = none ∧ dispatchCheck (bytes 96 []) false = some 0x48 ∧
      (okOf (feRead 0 0x7000 64 (applyIO io0 (s 0x10 ok)))).isSome = true ∧ dispatchCheck (bytes 96 ind) true = none ∧ dispatchCheck (bytes 96 []) true = some 0x48 ∧
      grid [] = some (0, 0, 0) ∧ grid [(0x8000, 1), (0x8004, 0xFF), (0x8005, 0xFF), (0x8008, 1)] = some (1, 65535, 1) ∧ grid [(0x8000, 1), (0x8006, 1), (0x8008, 1)] = some (1, 65536, 1)) ∧
    (let run : ShdRun := { run0 with next := 0, cores := [] }
     let s : State := { oneOp dispatchOp booted with shd := { booted.shd with runs := [run] } }
     let z := shdSweep s
     (z.op? o1).isSome = true ∧ z.shdRun? o1 = some run ∧ ctxRuns z 0 = true ∧ run.next < run.total ∧ yields z o1 = false ∧ placeCore z 1 0 1 1 0 = some (0, 0) ∧ placeCore z 2 0 1 1 0 = none ∧
      run0.total ≤ run0.next) := by
  refine ⟨?_, ?_⟩
  · decide +kernel
  · decide +kernel

theorem witness_GroupsWaitAndPark :
    (let u := fetched group0
     issuing slot0 group0 (grouped group0) u ∧ u.shd.wgs.find? (fun v => decide (v.op = group0.op) && decide (v.wg = 0)) = some wg0 ∧ popcount group0.am = 2 ∧
      nonExited (setGroup { group0 with waiting := true } u) o1 0 = 2 ∧ parkqOn u (fnOfCtx u 0) = false ∧
      (let v : State := u.setRaw 0 0x060308 0x80010004
       parkqOn v 0 = true)) ∧
    (let s : State := { grouped group0 with shd := { (grouped group0).shd with wgs := [{ wg0 with arrived := 1 }] } }
     let z := shdSweep s
     z.group? 0 0 = some group0 ∧ wgGroups z o1 0 = [group0] ∧ z.isPinned 0 = false ∧ ctxRuns z 0 = true ∧ parkqOn z (fnOfCtx z 0) = false) ∧
    (let g : Group := { group0 with park := some { tag := 5, cause := 0x41, wg := false, since := 0 } }
     let s : State := (grouped g).setRaw 0 0x060310 5
     let h : HeldPark := { fn := 0, core := 0, slot := 0, rec' := bytes 64 [] }
     let full : ParkPut → Bool
       | .full _ => true
       | _ => false
     let written : ParkPut → Bool
       | .written _ => true
       | _ => false
     let q : State := { (s.setRaw 0 0x060304 0x10000).setRaw 0 0x060308 0x80010004 with shd := { s.shd with held := [h], parkq := [(0, { prod := 16, lost := 0 })] } }
     quiet s 0 ∧ parkedBy (shdSweep s) 0 5 = [g] ∧ parkedBy (shdSweep (grouped g)) 0 6 = [] ∧ (shdSweep (applyIO io0 q)).shd.held = [h] ∧ full (parkPut 0 h.rec' (shdSweep (applyIO io0 q))) = true ∧
      written (parkPut 0 h.rec' (shdSweep (applyIO { io0 with writes := [(8, 1)] } q))) = true ∧ awake q = true) ∧
    (let s : State := { grouped group0 with time := 70000000000 }
     let z := shdSweep s
     z.shd.groups = [group0] ∧ ((z.raw (fnOfCtx z 0) 0x060320).toNat % 65536) * 1000000 < z.time - group0.placed - group0.idle) := by
  unfold quiet
  refine ⟨⟨issuing_group0, ?_⟩, ?_, ?_, ?_⟩
  · decide +kernel
  · decide +kernel
  · decide +kernel
  · decide +kernel

theorem witness_RegionsAndUnitsAreCleared :
    quiet booted 0 ∧ booted.power 0 = .on ∧ bit (booted.raw 0 (clusterBase 0 + 0x20018)).toNat 0 = false ∧ unlocked (keyed (.spm 0) booted) (.spm 0) 0 = true ∧ unlocked booted (.spm 0) 0 = false ∧
    regionKey 0 287 ∈ ({ booted with mem := { booted.mem with clearing := [2048 + 31] } } : State).mem.clearing ∧ memInv booted ∧
    State.reset.power (unitKey (.core 63)) = .off ∧ awake State.reset = true ∧ State.reset.err.thermal2 = false ∧
    (let s : State := { booted with unit := { booted.unit with power := [(0, .clearing), (8, .on), (9, .on), (10, .on), (11, .on), (12, .on), (13, .on), (14, .on), (15, .on), (16, .clearing), (73, .clearing)] } }
     s.power (unitKey (.cluster 0)) = .clearing ∧ (∀ i : Fin 8, s.power (8 + 8 * 0 + i.val) = .on) ∧ s.power (unitKey (.core 8)) = .clearing ∧ s.power (unitKey (.die 1)) = .clearing ∧
      bit (s.raw 0 0x050008).toNat 3 = false ∧ unitCluster (.core 8) = some 1) := by
  unfold quiet memInv; decide +kernel

def line1 : L2Line := { line := 0x20, way := 0, key := 0, fbc := false, dirty := true, data := bytes 128 [(0, 7)] }
def onL2 (x : L2) (s : State) : State := { s with mem := { s.mem with l2 := [(0, x)] } }

theorem witness_L2OperationsAndLines :
    quiet booted 0 ∧ booted.power 72 = .on ∧ bit (booted.raw 0 (dieBase 0 + 0x1C)).toNat 30 = false ∧ unlocked (keyed (.l2 0) booted) (.l2 0) 0 = true ∧ unlocked booted (.l2 0) 0 = false ∧
    (booted.l2 0).op = none ∧ ((booted.setRaw 0 (dieBase 0 + 0x18) 1).raw 0 (dieBase 0 + 0x18)).toNat % 2 ^ 28 = 1 ∧
    (let s (op : Nat) := (onL2 { L2.empty with lines := [line1], op := some { op, line := 0x20, len := 1, key := 0 } } booted)
     awake (s 1) = true ∧ ((applyIO io0 (s 2)).l2 0).op.isSome = true ∧ ((s 3).ctx 0).state = .active) ∧
    (let s := onL2 { L2.empty with op := some { op := 3, line := 0x20, len := 1, key := 0 } } (booted.setRaw 0 0x300004 2)
     lineDie s 0x20 = 0 ∧ (match target s (0x20 * 128) with
       | .pkg .. => true
       | _ => false) = true ∧ memInv s ∧ (upTo 16).find? (fun w => lockedWay s 0 w && !wayHeld (s.l2 0) 0x20 w) = some 1) ∧
    (let m : L2Miss := { id := 4, line := 0x20, way := 1, key := 0, fbc := false, merged := [(0, 1)], dirty := true, pref := false }
     let h : L2Miss := { m with line := 2 ^ 41 + 1, merged := [], dirty := false }
     let s (m : L2Miss) := onL2 { L2.empty with lines := [line1], misses := [m] } booted
     memInv (s m) ∧ (((s m).l2 0).misses.find? fun m => m.id = 4) = some m ∧
      2 ^ 48 ≤ h.line * 128 ∧ hostFails (applyIO { io0 with errs := [(0xFF, 0x100)] } (s h)) (h.line * 128 % 2 ^ 48) 128 = true) ∧
    (let w : WcBuf := { slice := 15, line := 0x20, key := 0, bytes := [(0, 1)], last := 4999999000 }
     let s := later (onL2 { L2.empty with wc := [w] } booted)
     memInv s ∧ (s.l2 0).wc = [w] ∧ w.last + 1000 = s.time) := by
  unfold quiet memInv
  decide +kernel

def onPlan (x : Reshard) (s : State) : State := { s with rsh := [(0, x)] }
/-- Context 0's tables in package memory, with a 4 KiB page at 0x1000, and a plan of two entries whose first record holds the bytes e. -/
def moving (e : List Host.Cell) : State :=
  let s := onPlan { Reshard.idleEngine with state := .running, base := 0x300000, entries := 2 } (booted.setCtx 0 { booted.ctx 0 with ptRoot := some 0x100000 })
  { s with mem := { s.mem with cells := [(65536, 1), (65537, 16), (65538, 16), (196673, 16)] ++ e ++ [(34359803904, 1), (34359803905, 32), (34359803906, 16), (68719542272, 1), (68719542273, 48), (68719542274, 16), (103079280648, 31), (103079280650, 32)] } }

theorem witness_PlansArmRunAndEnd :
    (let u := keyed (.rsh 0) (fences [(5, fence1), (6, fence1)] (regs [(dieBase 0 + 0x10000, 0x300000)] booted))
     let s : State := { u with mem := { u.mem with cells := [(196624, 5), (196626, 6), (196628, 1)] } }
     quiet s 0 ∧ regInv s ∧ s.power 72 = .on ∧ bit (s.raw 0 (dieBase 0 + 0x10008)).toNat 9 = false ∧ unlocked s (.rsh 0) 0 = true ∧ unlocked booted (.rsh 0) 0 = false ∧ ((s.setPlan 0 { s.plan 0 with armWait := false }).plan 0).state = .idle ∧
      s.isPinned 0x70 = false ∧ (s.ctx 0).state = .active ∧
      ((devRead 0x300000 64 s).get?.map fun r => (zeros r.1 27 37, fld r.1 26 1, fld r.1 20 4, fld r.1 16 2, fld r.1 18 2)) = some (true, 0, 1, 5, 6) ∧ (s.fence 5).owner = 0 ∧ (s.fence 6).st = .active) := by
  unfold quiet regInv
  decide +kernel

theorem witness_PlansArmRunAndEnd_start :
    (let x : Reshard := { Reshard.idleEngine with state := .running, entries := 16 }
     x.aborting = false ∧ ((upTo x.entries).filter fun i => !x.ended.contains i).length ≤ 16 ∧ x.ended.length < x.entries) ∧
    (let x : Reshard := { Reshard.idleEngine with state := .armed, entries := 1, trigEn := true, trig := (5, 1), trigValue := 2 }
     let s (f : Fence) := fences [(5, f)] (onPlan x booted)
     ((s fence1).plan 0) = x ∧ ctxRuns (s fence1) 0 = true ∧ (s fence1).isPinned 0x70 = false ∧ ((s fence1).fence 5).alloc = 1 ∧ ((s fence1).fence 5).value < x.trigValue ∧
      x.trigValue ≤ ((s { fence1 with value := 2 }).fence 5).value ∧ ((s { fence1 with st := .error, reason := some .timeout }).fence 5).reason = some .timeout ∧ awake (s fence1) = true) := by
  decide +kernel

/-- A record for 0x210000, and one whose place is reserved. -/
theorem witness_PlansArmRunAndEnd_record :
    let rd (e : List Host.Cell) := (devRead 0x300040 32 (applyIO io0 (moving e))).get?.map fun r => (fld r.1 0 8, fld r.1 8 8, fld r.1 16 1, zeros r.1 19 5)
    rd [(196682, 33)] = some (0x1000, 0x210000, 0, true) ∧ rd [(196688, 3)] = some (0x1000, 0, 3, true) := by
  decide +kernel

theorem witness_PlansArmRunAndEnd_page :
    let e0 : PlanEntry := { idx := 0, dst := 0, place := 0, step := .waits }
    let s := applyIO io0 ((moving []).setPlan 0 { (moving []).plan 0 with next := 1, begun := [e0] })
    (moving []).isPinned 0x70 = false ∧ ctxRuns (moving []) 0 = true ∧ (s.ctx 0).drainDone = false ∧ (s.plan 0).state = .running ∧ (s.plan 0).begun.find? (fun e => e.idx = 0) = some e0 ∧
    failsOf (devRead (2 ^ 47) 32 s) = true ∧ waitsOf (devRead 0x300040 32 (cut s)) = true ∧ pageTaken s 0 0 0x1000 = false ∧
    ((okOf (xlate 0x70 0 0x1000 .read s)).map fun l => (l.base, l.level, l.size)) = some (0x200000, 0, 4096) ∧
    ((okOf (leafSlot 0 0x1000 4 0x100000 s)).map fun r => r.1) = some 0x103008 ∧ dstOk s 0x210000 4096 0 = true ∧ dstOk s 0x210800 4096 0 = false ∧
    loadsOn s 0 (fun _ => true) = [] ∧
    (match paRead 0 Attr.plain 0x200000 128 s with
      | .ok bs u => match paWrite 0 Attr.plain 0x210000 bs u with
        | .ok .. => true
        | _ => false
      | _ => false) = true ∧
    (s.plan 0).begun.length < 16 ∧ (s.plan 0).next < (s.plan 0).entries := by
  decide +kernel

/-! A render pass of one tile with one colour attachment: its descriptor at 0xD000, pool at 0x8000, draw at 0xB000, pipeline at 0xC000. -/

def passBytes : List (Nat × Byte) := [(0, 32), (2, 32), (4, 1), (5, 1), (9, 0x80), (17, 0x90), (65, 0xA0), (80, 1), (81, 1)]
def pass0 : PassRun := { op := o1, ctx := 0, desc := bytes 256 passBytes, sip := [], sipOps := [], phase := .binning, draw := 0, prim := 0, batch := 0, batches := [], lists := [], chunks := [], prod := 0, start := 0, cons := 0, growSeq := 0, growAt := none, waiting := [], partials := 0, bcut := 0, rewound := none, partialTiles := [], nextTile := 0, counted := [], prims := 0, cores := [], nextFront := 0, paused := false, shaded := 0, grows := 0, preempts := 0, stopping := false, fail := none, flags := 0, tStart := 0 }
def passOp : Op := { op0 with opcode := 0x20, body := bytes 64 [(17, 0xD0), (25, 0xB0), (32, 1)] }
def passIO : HostIO := { io0 with writes := passBytes.map (fun e => (0xD000 + e.1, e.2)) ++ [(0x8018, 4), (0xB001, 0xC0), (0xB010, 3), (0xB014, 1), (0xB034, 32), (0xB036, 32), (0xC010, 8)] }
/-- The op runs, with a run of the pass and tiles of it. -/
def passing (p : PassRun) (ts : List PassTile) : State := { oneOp passOp paged with rnd := { passes := [p], tiles := ts } }
def tile0 : PassTile := { op := o1, ctx := 0, tile := 0, core := 0, base := 0, size := 4, placed := 0, shaded := false }
def batch0 : BinBatch := { num := 0, cluster := 0, draw := 0, first := 0, count := 1, recs := [], prims := [], verts := [], placed := 0, code := 0, header := [], regs := 8, const := 0, done := 0, block := 0 }

theorem witness_PassesStartAndBin_start :
    let s := oneOp passOp paged
    let z := closeOps (applyIO passIO s)
    (s.op? o1).isSome = true ∧ passOp.ending = none ∧ ctxRuns s 0 = true ∧ yields (applyIO passIO s) o1 = false ∧ z.pass? o1 = none ∧ zeros passOp.body 36 4 = true ∧ zeros passOp.body 48 16 = true ∧
    fld passOp.body 16 8 % 64 = 0 ∧ fld passOp.body 24 8 % 64 = 0 ∧ fld passOp.body 32 4 = 1 ∧
    ((okOf (feRead 0 0xD000 256 z)).map fun d => (passReserved d, passCheck d, bit (fld d 6 1) 2, passBlocked z 0 d)) = some (false, none, false, false) ∧
    passBlocked (passing pass0 []) 0 pass0.desc = true ∧ passCheck (bytes 256 []) = some 0x50 ∧ passReserved (bytes 256 [(7, 1)]) = true ∧
    ((ranOk (tRead noMaster 0 0x8000 64 z)).map fun b => (zeros b 26 2, zeros b 48 16, fld b 25 1, fld b 24 1, fld b 16 8 % 8)) = some (true, true, 0, 4, 0) ∧
    (ranOk (tWrite noMaster 0 (0x8000 + 28) (bytes 20 []) z)).isSome = true := by
  decide +kernel

/-- Config.codeHeader and Config.binStateBytes have no value, so the facts stop before them. -/
theorem witness_PassesStartAndBin_deal :
    let z := closeOps (applyIO passIO (passing pass0 []))
    z.pass? o1 = some pass0 ∧ (z.op? o1).isSome = true ∧ ctxRuns z 0 = true ∧ pass0.draw < fld passOp.body 32 4 ∧ nextCluster z pass0 1 = some 0 ∧
    ((ranOk (readDraw noMaster pass0 0xB000 0 z)).map fun r => (drawBad pass0.desc r.1, pipeBad r.2, fld r.2 8 8, (primsFrom r.1 (upTo 3) 0).1.length)) = some (false, false, 0, 1) ∧
    (ranOk (tRead noMaster 0 0 64 z)).isSome = true := by
  decide +kernel

theorem witness_PassesStartAndBin_bin :
    (let p : PassRun := { pass0 with batches := [batch0], draw := 1 }
     let z := closeOps (applyIO passIO (passing p []))
     z.pass? o1 = some p ∧ frontOf p 0 = [batch0] ∧ p.waiting.contains 0 = false ∧ ctxRuns z 0 = true) ∧
    (let p : PassRun := { pass0 with growAt := some 0 }
     let z := closeOps (applyIO passIO (later (passing p [])))
     z.pass? o1 = some p ∧ ((ranOk (tRead noMaster 0 0x8000 64 z)).map fun b => (q64 (fld b 0 8), bit (fld b 25 1) 0)) = some (0, false) ∧ p.prod = 0 ∧ 0 + fld p.desc 34 2 * 1000 ≤ z.time ∧
      ((ranOk (tRead noMaster 0 0x8000 64 (applyIO { io0 with writes := [(0x8000, 1)] } z))).map fun b => q64 (fld b 0 8)) = some 1) := by
  decide +kernel

theorem witness_TilesAreRendered :
    (let p : PassRun := { pass0 with draw := 1 }
     let z := closeOps (passing p [])
     z.pass? o1 = some p ∧ fld passOp.body 32 4 ≤ p.draw ∧ earlierPass z o1 = false ∧ ctxRuns z 0 = true ∧ nextTile { p with phase := .shading, nextTile := 0 } = some 0) ∧
    (let p : PassRun := { pass0 with phase := .part, nextTile := 1, bcut := 3, rewound := some 3 }
     let z := closeOps (passing p [])
     z.pass? o1 = some p ∧ nextTile p = none ∧ tilesOf z o1 = [] ∧ p.rewound = some p.bcut) ∧
    (let p : PassRun := { pass0 with phase := .shading, nextTile := 0 }
     let z := closeOps (applyIO io0 (passing p []))
     z.pass? o1 = some p ∧ p.fail = none ∧ nextTile p = some 0 ∧ tileShades p 0 = false ∧ tileCore z 1 0 4 = some (0, 0) ∧ footprint p.desc / 1024 = 4 ∧ tileCore z 2 0 4 = none) := by
  decide +kernel

theorem witness_TilesAreRendered_shaded :
    let p : PassRun := { pass0 with phase := .shading, nextTile := 1 }
    let z := closeOps (applyIO io0 (passing p [tile0]))
    z.pass? o1 = some p ∧ (tilesOf z o1).find? (fun x => x.tile = 0) = some tile0 ∧ z.isPinned 0 = false ∧ bit (fld p.desc 6 1) 2 = false ∧ (∀ j ∈ atts p.desc, attResolve (att p.desc j) = 0) ∧
    ((ranOk (tilePrims 0 p 0xB000 0 z)).map fun l => l.length) = some 0 ∧ attStore (att p.desc 0) = 0 := by
  decide +kernel

theorem witness_TilesAreRendered_clear :
    let b (l : List (Nat × Byte)) : Op := { op0 with opcode := 0x21, body := bytes 32 l }
    let ok := b [(17, 0x60), (24, 1)]
    let s := oneOp { ok with units := [0x48] } { paged with fe := { paged.fe with copies := [{ op := o1, ctx := 0, chan := 0 }] } }
    (s.op? o1).isSome = true ∧ passOp.ending = none ∧ ctxRuns s 0 = true ∧ fld ok.body 16 8 % 4096 = 0 ∧ fld ok.body 24 4 = 1 ∧ fld (b [(16, 1)]).body 16 8 % 4096 ≠ 0 ∧ chansPinned s 1 = false ∧
    chanFree (oneOp ok paged) 1 0 = true ∧ chanFree s 1 0 = false ∧ s.fe.copies.find? (fun c => c.op = o1) = some { op := o1, ctx := 0, chan := 0 } ∧
    ((okOf (xlate 0x48 0 0x6000 .write (applyIO io0 s))).map fun l => l.fbc) = some false := by
  decide +kernel

/-! Pipe A scans out, 4 of 6 lines active, with no layer on. -/

def onPipe0 (x : Pipe) (s : State) : State := { s with dsp := { s.dsp with pipes := [(0, x)] } }
def pipeRec : List (Nat × Byte) := [(8, 4), (10, 6), (20, 0xFF), (21, 0xFF), (62, 0xFF)]
def pipe0 : Pipe := { Pipe.off with st := .scanout, rec' := bytes 128 pipeRec }
def edge5 : Edge := { kind := 2, flags := 0, object := 5, value := 1, formed := true, passed := true, alloc := 1, sat := false, dead := false }
def commit0 : Commit := { op := o1, ctx := 0, upd := false, modeset := false, pipe := bytes 128 pipeRec, layers := [], acquire := [], release := [], wbFence := none, events := [], tabs := [], lut := [], table := [], loaded := true, late := 0, applied := false, mark := none }
def commitOp (l : List (Nat × Byte)) : Op := { op0 with opcode := 0x50, body := bytes 64 l }

theorem witness_PipeRegistersAndAux :
    (let s := keyed (.dsp 0) booted
     quiet s 0 ∧ quiet s 1 ∧ unlocked s (.dsp 0) 0 = true ∧ unlocked booted (.dsp 0) 0 = false ∧ ((((s.raw 0 0x0A0000 &&& 0xFFFE0000) ||| (1 &&& 0x1FFFF)) &&& 0x1FFFF) ≠ (s.raw 0 0x0A0000 &&& 0x1FFFF)) ∧
      bits 1 3 1 = 0 ∧ (∀ q : Fin 4, dspEnable s q.val = false) ∧ dspConn s 0 = 7 ∧ (s.pipe 0).st = .off ∧ (s.pipe 0).aux = none ∧ regInv s) ∧
    (let s := regs [(0x0A0000, 1)] booted
     bit (s.raw 0 0x0A0000).toNat 0 = true ∧ dspConn s 0 = 0 ∧ bit (((s.raw 0 0x0A0000 &&& 0xFFFE0000) ||| (0 &&& 0x1FFFF)) : Word).toNat 0 = false) ∧
    (let a : AuxTx := { tries := 7, req := { addr := 0, len := 16, write := false, i2c := false, data := [] }, pause := false }
     ((onPipe0 { Pipe.off with aux := some a } booted).pipe 0).aux = some a ∧ (bytes 16 []).length = a.req.len ∧ a.req.write = false ∧ (({ Pipe.off with st := .modeset, stage := 2 } : Pipe).stage) = 2) := by
  unfold quiet regInv; decide +kernel

theorem witness_CommitsAreCheckedAndLoad :
    (let s := onPipe0 pipe0 (oneOp (commitOp []) (regs [(0x0A0000, 1)] paged))
     let z := applyIO io0 s
     (z.op? o1).isSome = true ∧ (commitOp []).ending = none ∧ ctxRuns z 0 = true ∧ commitBad (commitOp []).body = false ∧ commitBad (commitOp [(17, 4)]).body = true ∧ fld (commitOp [(16, 4)]).body 16 1 = 4 ∧ dspRing z 0 = 0 ∧ dspEnable z 0 = true ∧
      z.isPinned 0x6C = false ∧ livePend z 0 = none ∧ awake z = true ∧
      ((ranOk (readRecords 0x6C 0 0 0 0 false (ungate [72] (dropPend 0 z)))).map fun r => (r.2.length, commitCheck z 0 0 0 false false (z.pipe 0).rec' r.2)) = some (0, none) ∧
      commitCheck (onPipe0 Pipe.off z) 0 0 0 false false [] [] = some (0x0B, 0x61)) ∧
    (let s (t : Byte) := onPipe0 { pipe0 with pend := some { commit0 with loaded := false, upd := true, pipe := bytes 128 (pipeRec ++ [(41, t)]) } } (oneOp (commitOp []) paged)
     let z := dropPend 0 (applyIO io0 (s 0))
     (livePend z 0).isSome = true ∧ z.isPinned 0x6C = false ∧
      ((livePend z 0).bind fun c => (ranOk (readTables 0x6C c z)).map fun r => (r.1.any fun t => tabsBad t.2, lutBad r.2.1, r.2.2, eventsBad z 0 0 c.pipe r.2.2)) = some (false, false, [], false) ∧
      eventReserved (bytes 32 [(7, 1)]) = true ∧ eventsBad z 0 0 (bytes 128 pipeRec) (bytes 512 [(6, 4)]) = true) := by
  decide +kernel

theorem witness_CommitsApplyWhole :
    let s (c : Commit) (x : Pipe) := fences [(5, fence1)] (onPipe0 { x with pend := some c } (oneOp (commitOp []) booted))
    let late : Commit := { commit0 with acquire := [(3, { edge5 with value := 2 })] }
    livePend (s commit0 pipe0) 0 = some commit0 ∧ (s commit0 pipe0).halted (.dsp 0) = false ∧ inReset (s commit0 pipe0) 5 0 = false ∧ ((s commit0 pipe0).crossing 5).severed = false ∧ awake (s commit0 pipe0) = true ∧
    fastWarp pipe0 commit0 = false ∧ lateLayers (s commit0 pipe0) commit0 = [] ∧ lateLayers (s late pipe0) late = [3] ∧ lateLayers (s late pipe0) { commit0 with acquire := [(3, edge5)] } = [] ∧
    (let z := dropPend 0 (s commit0 { pipe0 with due := true, stop := true })
     z.isPinned 0x6C = false ∧ (z.pipe 0).st = .scanout ∧ (z.pipe 0).due = true ∧ (z.pipe 0).stop = true) ∧
    (let c : Commit := { commit0 with modeset := true, applied := true }
     let z := dropPend 0 (s c { pipe0 with st := .modeset, stage := 2 })
     livePend z 0 = some c ∧ c.applied = true ∧ (z.pipe 0).st = .modeset ∧ (z.pipe 0).stage = 2 ∧ ((dropPend 0 (s c { pipe0 with st := .modeset, stage := 1 })).pipe 0).stage = 1 ∧ z.isPinned 0x6C = false ∧ dspConn z 0 = 7 ∧ dspConn (regs [(0x0A0000, 1)] z) 0 ≠ 7) := by
  decide +kernel

theorem witness_LinesComposeAndSignal :
    (let s := onPipe0 pipe0 paged
     let z := applyIO io0 s
     (z.pipe 0).st = .scanout ∧ z.isPinned 0x6C = false ∧ (z.pipe 0).due = false ∧ firedBelow (z.pipe 0) 16 = true ∧ fld (z.pipe 0).rec' 10 2 = 6 ∧ fld (z.pipe 0).rec' 8 2 = 4 ∧ (((z.pipe 0).line + 1) % 6 + 1) % 6 < 4 ∧
      byZ (z.pipe 0) = [] ∧ bit (fld (z.pipe 0).rec' 22 1) 1 = false ∧ bit (fld (z.pipe 0).rec' 22 1) 2 = false) ∧
    (let x (k : Byte) : Pipe := { pipe0 with table := bytes 512 [(4, 1), (6, k)], events := [some edge5], wbPend := [(3, edge5)], poseReads := [(0, 0x6000)] }
     let s (k : Byte) := onPipe0 (x k) paged
     (∀ k ∈ [1, 2, 3], fld (event (x k).table 0) 6 1 = k.toNat ∧ firesOn (x k) 0 0 = true ∧ firedBelow (x k) 0 = true ∧ ((s k).pipe 0).fired = []) ∧ awake (s 1) = true ∧
      (okOf (vaRead 0x6C 0 0x6000 64 .read (applyIO io0 (s 1)))).isSome = true ∧ (s 1).isPinned 0x6C = false ∧ ((s 1).pipe 0).wbPend = [(3, edge5)] ∧ ((applyIO io0 (s 1)).pipe 0).poseReads = [(0, 0x6000)]) := by
  decide +kernel

/-- One job in the queue is the next, whatever the open value. -/
theorem nextJob_one (s : State) (o : OpRef) (h : s.cmp.queue = [o]) : (nextJob s).1 = some o := by
  have hq : (s.fresh.2).cmp.queue = [o] := h
  simp [nextJob, hq, List.eraseDups_cons, Nat.mod_one]

theorem witness_CompressionJobsRun :
    (let job (l : List (Nat × Byte)) : Op := { op0 with opcode := 0x40, body := bytes 80 l }
     let ok : List (Nat × Byte) := [(17, 1), (18, 1), (25, 0x60), (32, 64), (41, 0x70), (49, 0x10)]
     let s := oneOp (job ok) paged
     let q : State := { s with cmp := { queue := [o1], runs := [] } }
     let r : State := { oneOp { job ok with units := [0x68] } paged with cmp := { queue := [], runs := [(0, o1)] } }
     let z := cmpSweep (applyIO io0 r)
     (s.op? o1).isSome = true ∧ ctxRuns s 0 = true ∧ cmpQueued s o1 = false ∧ cmpQueued q o1 = true ∧ jobReserved (job ok).body = false ∧ jobReserved (job [(19, 1)]).body = true ∧
      jobBad (job ok).body = false ∧ jobBad (job []).body = true ∧ awake s = true ∧ cmpFree (cmpSweep q) 0 = true ∧ (cmpSweep q).cmp.queue = [o1] ∧ (cmpSweep s).cmp.queue = [] ∧
      z.isPinned 0x68 = false ∧ z.cmp.runs.find? (fun x => x.1 = 0) = some (0, o1) ∧ (z.op? o1).isSome = true ∧ fld (job ok).body 16 1 = 0 ∧
      (let (src, bad, _) := readUpTo 0x68 0 0x6000 64 none z
       (src.length, bad.isNone)) = (64, true) ∧
      (let (n, bad, _) := writeUpTo 0x68 0 0x7000 (bytes 16 []) none z
       (n, bad.isNone)) = (16, true) ∧
      (readUpTo 0x68 0 0x40000000 64 none z).2.1.isSome = true) := by
  decide +kernel

theorem witness_SecurityCommands :
    (let s := keyed .sec booted
     quiet s 0 ∧ quiet s 9 ∧ unlocked s .sec 0 = true ∧ unlocked booted .sec 0 = false ∧ (s.raw 0 0x050040 &&& 0x300) ≠ 0x200 ∧ (s.raw 0 0x050040 &&& 0x300) ≠ 0x100 ∧ s.sec.pinBusy = none ∧
      s.isPinned 0x71 = false ∧ s.sec.logged.contains 0x71 = false ∧ (s.raw 0 0x050004 &&& 3) ≠ 2 ∧ (s.raw 0 0x050004 &&& 3) ≠ 3) ∧
    (let s : State := { booted with sec := { booted.sec with pinned := [5, 0x6C, 0x71], pinBusy := some 5, logged := [6], lcNow := some 2 } }
     s.isPinned 0x71 = true ∧ s.isPinned 6 = false ∧ s.sec.logged.contains 6 = true ∧ s.sec.pinBusy ≠ none ∧ clearPinned s 5 = false ∧ lifecycle s = 2 ∧
      masterCluster 4 = some 0 ∧ clearPinned (clearFailed 0 .failOther booted) 4 = true) ∧
    (let s : State := { booted with sec := { booted.sec with lcNow := some 1 } }
     fusedLc s = 1 ∧ lifecycle s ≠ 2 ∧ s.mmu.ctxs = [] ∧ (((s.raw 0 0x050008 &&& 0xFFFFFFF0) ||| (8 &&& 0xF)) &&& 0xF) ≠ (s.raw 0 0x050008 &&& 0xF)) ∧
    logsPlainly booted 0x83 5 ∧ (∃ e ∈ (virt.mmu.ctxs), e.1 ≠ 0 ∧ e.2.state ≠ .free) := by
  unfold quiet logsPlainly; decide +kernel

/-- No run can show a token that is accepted: Config.ecdsaVerifies and Config.mldsaVerifies have no value. -/
theorem witness_SpdmRequestsAreAnswered :
    let s : State := { booted with sec := { booted.sec with spdm := 3, lcNow := some 2, sessions := [{ id := 0x10001, open' := true, keys := 0 }, { id := 0x20001, open' := false, keys := 0 }] } }
    s.boot.link = true ∧ s.halted .sec = false ∧ 3 ≤ s.sec.spdm ∧ booted.sec.spdm < 3 ∧ (s.sec.sessions.find? fun x => x.id = 0x10001).map (·.open') = some true ∧
    (s.sec.sessions.find? fun x => x.id = 0x20001).map (·.open') = some false ∧ (s.sec.sessions.find? fun x => x.id = 1) = none ∧ tokenOk s [] = false ∧ lifecycle s = 2 ∧ logsPlainly s 0x83 5 := by
  unfold logsPlainly; decide +kernel

theorem witness_TdisFollowTheirStates :
    (let s : State := { virt with sec := { virt.sec with ide := [(0, { keyed := true, secure := true })], tdi := [(1, { st := .locked, stream := some 0 })] } }
     s.boot.link = true ∧ s.halted .sec = false ∧ (tblGet Tdi.none' s.sec.tdi 1).st = .locked ∧ (tblGet Tdi.none' s.sec.tdi 2).st = .unlocked ∧ (tblGet IdeStream.none' s.sec.ide 0).secure = true ∧
      (∀ g : Fin 64, (tblGet Tdi.none' s.sec.tdi g.val).stream = some 0 ↔ g = 1) ∧ (tblGet IdeStream.none' s.sec.ide 1).secure = false) ∧
    noHooks booted ∧ tdiLocked booted 1 = false ∧ booted.fen.fences = [] ∧ booted.mmu.ctxs = [] ∧ booted.fe.rings = [] := by
  exact ⟨by decide +kernel, noHooks_of _ (by decide +kernel) rfl rfl rfl, by decide +kernel⟩

/-- A policy record that policyOf refuses; whether it accepts one rests on Config.tjMaxQuarter, which has no value. -/
theorem witness_LevelsMoveInSteps :
    quiet booted 0 ∧ monarchRuns booted = true ∧ monarchRuns State.reset = false ∧ policyOf (bytes 128 []) = none ∧
    (let s := regs [(0x030010, 0x40000), (0x030014, 0x10000)] booted
     (devRead ((applyIO io0 s).rawBase 0 0x030010 0x030014) 128 (applyIO io0 s)).get?.isSome = true ∧
      failsOf (devRead ((applyIO { io0 with errs := [(0x40000, 0x40001)] } s).rawBase 0 0x030010 0x030014) 128 (applyIO { io0 with errs := [(0x40000, 0x40001)] } s)) = true) ∧
    waitsOf (devRead ((applyIO io0 (cut booted)).rawBase 0 0x030010 0x030014) 128 (applyIO io0 (cut booted))) = true ∧
    (let f : AvsFrame := { group := 1, rail := 1, read := false, mv := 550 }
     let s (x : SeqStep) (r : Bool) : State := { booted with pwr := { booted.pwr with avs := [{ f with read := r }], seq := [.idle, x, .idle, .idle], goal := [7, 3, 7, 7], plvl := [7, 7, 7, 7] } }
     seqOf (s (.raiseVolt 3 1) false) 1 = .raiseVolt 3 1 ∧ goalOf (s .idle false) 1 = 3 ∧ seqOf (s (.confirm 3 [1]) true) 1 = .confirm 3 [1] ∧ levelMv 3 ≤ 720 + 5 ∧ 720 ≤ levelMv 3 + 5 ∧ groupRails 2 = [2, 3] ∧
      seqOf (s (.lowerFreq 7) false) 1 = .lowerFreq 7 ∧ (s .idle false).pwr.avs.find? (fun f => f.group = 1) = some f ∧ 1 < (s .idle false).pwr.goal.length ∧ logsPlainly (s (.raiseVolt 3 1) false) 0x84 6) ∧
    hottest [] = none ∧ booted.err.thermal2 = false ∧ ({ booted with pwr := { booted.pwr with policy := { booted.pwr.policy with statsVa := 4096 } } } : State).pwr.policy.statsVa ≠ 0 := by
  unfold quiet logsPlainly; decide +kernel

theorem witness_SleepEntersAndExits :
    quiet booted 0 ∧ quiet booted 1 ∧ sleepCheck 3 false booted = 0 ∧ sleepCheck 4 true booted = 0 ∧ sleepCheck 4 false (onPipe0 pipe0 booted) = 5 ∧ sleepCheck 3 true (onPipe0 pipe0 booted) ≠ 5 ∧
    busyS4 (oneOp op0 booted) = true ∧ busyS3 false (oneOp { op0 with units := [1] } booted) = true ∧
    (let s : State := { State.reset with pwr := { State.reset.pwr with sleep := .entering, deep := 3, plvl := [7, 7, 7, 7] } }
     (∀ g : Fin 4, seqOf s g.val = .idle ∧ plvlOf s g.val = 7) ∧ (∀ d : Fin 2, (s.plan d.val).state ≠ .running ∧ (s.l2 d.val).op.isSome = false) ∧ s.pwr.wakeHeld = none ∧ (∀ i : Fin 8, pinEn s i.val = false) ∧ regInv s ∧
      s.diePresent 0 = false) ∧
    (let s : State := { State.reset with pwr := { State.reset.pwr with sleep := .exiting, deep := 4 } }
     (∀ g : Fin 4, seqOf s g.val = .idle) ∧ s.diePresent 1 = false ∧ s.reg.held = [] ∧ wakeVector s = 0) ∧
    clusterIdle booted 0 = true ∧ clusterIdle (oneOp { op0 with units := [0] } booted) 0 = false ∧
    (let s := regs [(0x030020, 0x5000001)] booted
     pinEn s 0 = true ∧ pinLevel s 0 = false ∧ pinHigh s 0 = false ∧ bit s.pwr.levels 0 = false ∧ pinEn s 6 = true ∧ pinLevel s 6 = true ∧ pinEn s 7 = false) := by
  unfold quiet regInv; decide +kernel

theorem witness_ClocksAndGatesFollow :
    quiet booted 0 ∧ quiet booted 63 ∧ logsPlainly booted 0x85 6 ∧ regInv booted ∧
    (let s : State := { State.reset with boot := { State.reset.boot with step := .pll }, pwr := { State.reset.pwr with locking := [3] } }
     s.tap.ir ≠ 3 ∧ s.boot.step = .pll ∧ 3 ∈ s.pwr.locking ∧ 3 ∉ s.pwr.locking.filter fun m => m ≠ 3) ∧
    (let g (k : Nat) := (booted.raw 0 (0x020000 + 4 * k)).toNat
     gateRefused booted (gatesOf (g 0) (g 1) (g 2) (g 3)) (gatesOf (g 0) (g 1) (g 2) (g 3)) = false ∧ gateRefused booted (gatesOf 0 0 0 0) (gatesOf 0 0 0 1) = true) := by
  unfold quiet logsPlainly regInv; decide +kernel

theorem witness_UnitsAreReset :
    (let s := keyed .rst booted
     quiet s 0 ∧ quiet s 2 ∧ unlocked s .rst 0 = true ∧ unlocked booted .rst 0 = false ∧ s.rst.busy = none ∧ (∀ d ∈ kindDie 0 31, tblGet 0 s.rst.dieDown d = 0 ∧ s.diePresent d = true) ∧
      (∃ d ∈ kindDie 0 32, s.diePresent d = false) ∧ (∃ d ∈ kindDie 3 3, tblGet 0 ({ s with rst := { s.rst with dieDown := [(0, 1)] } } : State).rst.dieDown d ≠ 0)) ∧
    (∀ k : Fin 9, ({ booted with rst := { booted.rst with busy := some (k.val, 0) } } : State).rst.busy = some (k.val, 0)) ∧
    (let s := holdUnit 8 booted
     booted.power 8 = .on ∧ s.power 8 = .clearing ∧ s.power 0 = .on) := by
  unfold quiet; decide +kernel

theorem witness_LinksAndDiesRecover :
    (let s : State := { booted with rst := { booted.rst with replays := [(0, 16), (2, 15)], dieDown := [(1, 1)] }, err := { booted.err with crossings := [(0, { severed := true, epoch := 0 })] } }
     16 ≤ tblGet 0 s.rst.replays 0 ∧ tblGet 0 s.rst.replays 2 < 16 ∧ (s.crossing 0).severed = true ∧ sidesUp s 0 = true ∧ sidesUp s 1 = false ∧ (s.crossing 5).severed = false ∧ logsPlainly s (crossingSource 5) 3 ∧
      tblGet 0 s.rst.dieDown 1 ≠ 0 ∧ tblGet 0 s.rst.dieDown 0 = 0) ∧
    (let s := later booted
     s.diePresent 0 = true ∧ (s.crossing 0).severed = false ∧ s.diePresent 1 = false ∧ ((5000000004 : Int) - s.time).natAbs ≤ 4 ∧ ¬ ((5000000005 : Int) - s.time).natAbs ≤ 4 ∧ logsPlainly s 0x87 4 ∧
      (((s.rst.marks ++ [(0, s.time)]) : List (Nat × Nat)).filter fun m => s.time < m.2 + 1000000000).length = 1) := by
  unfold logsPlainly; decide +kernel

/-- A chain of checks of an image rests on Config's keys and hashes, which have no value. -/
theorem witness_BringUpAndScan :
    (let s : State := { regs [(0x0F0008, 0x10000), (0x0F000C, 4097)] State.reset with boot := { Boot.dark with step := .up, perst := false, link := true, stage := .verifying } }
     s.reg.mismatch = [] ∧ fnArrives s 0 = true ∧ awake s = true ∧ s.boot.result ≠ 8 ∧ (s.raw 0 0x0F000C).toNat = 4097 ∧ s.rawBase 0 0x0F0004 0x0F0008 = 281474976710656 ∧
      failsOf (devRead (2 ^ 48) 4097 (applyIO { io0 with errs := [(4096, 4097)] } s)) = true ∧ (devRead (2 ^ 48) 4097 s).get?.isSome = true ∧
      waitsOf (devRead (2 ^ 48) 4097 { s with tap := { s.tap with ir := 3 } }) = false ∧ imageCheck s (bytes 4097 []) = 2) ∧
    booted.boot.perst = false ∧ booted.boot.link = true ∧ State.reset.boot.perst = true ∧ State.reset.boot.step = .dark ∧ State.reset.tap.ir ≠ 3 ∧ booted.boot.step ≠ .dark ∧ booted.boot.step ≠ .xtal ∧
    ({ booted with tap := { booted.tap with ir := 3 } } : State).tap.ir = 3 ∧
    debugLevel { booted with sec := { booted.sec with lcNow := some 2 } } < 3 ∧ 3 ≤ debugLevel { booted with sec := { booted.sec with lcNow := some 1 } } := by
  decide +kernel

/-- How an access by physical address ends, where it does not succeed. -/
def accEnds {α : Type} : Acc α → Option Nat
  | .ok .. => none
  | .fault .. => some 0
  | .severed => some 1
  | .wait => some 2
theorem witness_MonitorCommandsAnswer :
    let s (lc dbg : Nat) : State := { booted with sec := { booted.sec with lcNow := some lc, debug := dbg } }
    (s 1 0).boot.step = .up ∧ bit (s 1 0).boot.straps 4 = false ∧ (s 1 0).pwr.sleep ≠ .s4 ∧ (s 1 0).boot.stage = .ready ∧ 3 ≤ debugLevel (s 1 0) ∧ debugLevel (s 2 2) = 2 ∧ debugLevel (s 2 0) = 1 ∧
    (s 1 0).halted .sec = false ∧ (s 1 0).halted .fe = false ∧ blockOff (s 1 0) .fe = false ∧ blockOff (s 1 0) (.tns 7) = true ∧ blockAt 0x060000 = some (.fe, 0) ∧ mapped .fe 0 = true ∧ counterAt 0x060000 = none ∧
    blockAt 0x0607F0 = some (.fe, 0x7F0) ∧ mapped .fe 0x7F0 = false ∧ (counterAt 0x110010).isSome = true ∧
    ({ (s 1 0) with reg := { (s 1 0).reg with mismatch := [(0x050004, 0)] } } : State).halted .sec = true ∧
    accEnds (paRead 0 Attr.plain 0x1000000000000 4 (applyIO { io0 with errs := [(0, 1)] } (s 1 0))) = some 0 ∧ accEnds (paRead 0 Attr.plain 0 4 (cut (s 1 0))) = some 2 ∧
    accEnds (paWrite 0 Attr.plain 0x9000000000 (natLe 4 1) (s 1 0)) = some 0 ∧ accEnds (paWrite 0 Attr.plain 0 (natLe 4 1) (cut (s 1 0))) = some 2 ∧
    tokenOk (s 1 0) [] = false ∧ loops (s 1 0) 0x1000000000000 = false ∧
    (match paRead 0 Attr.plain 0x1000000000000 4 (s 1 0) with
      | .ok bs _ => bs.length
      | _ => 0) = 4 ∧
    (match paWrite 0 Attr.plain 0x1000000000000 (natLe 4 1) (s 1 0) with
      | .ok .. => true
      | _ => false) = true := by
  decide +kernel

end Sys2Proof.Tests
end

section
/-! A GO of MMU_INV_CTL (R54, R484): what its write leaves, which entries of the TLBs it discards, and what
MMU_INV_STS shows. -/

namespace Sys2Proof.Machine

open Sys2Proof

/-! ## The write of MMU_INV_CTL -/

/-- A write that sets its command bits leaves the plain fields of the value and the other bits of the register. -/
theorem fields_of_command {m go : Word} (old v : Word) (h : m &&& go = 0#32) :
    ((old &&& ~~~(m ||| go)) ||| ((v ||| go) &&& (m ||| go))) &&& ~~~go = (old &&& ~~~(m ||| go)) ||| (v &&& m) := by
  ext i hi
  have hbit : (m[i] && go[i]) = false := by rw [← BitVec.getElem_and, h, BitVec.getElem_zero]
  simp only [BitVec.getElem_and, BitVec.getElem_or, BitVec.getElem_not]
  cases hm : m[i]
  · cases go[i] <;> simp
  · have hgo : go[i] = false := by simpa [hm] using hbit
    simp [hgo]

/-- GO is set in a value that it was added to. -/
theorem bit_go (v : Word) : bit (v ||| 0x40000000).toNat 30 = true := by
  have hgo : (0x40000000 : Word).toNat.testBit 30 = true := by decide
  rw [bit, ← Nat.testBit_eq_decide_div_mod_eq, BitVec.toNat_or, Nat.testBit_or, hgo, Bool.or_true]

/-- The state in which the fields of MMU_INV_CTL are written and GO is not yet judged. -/
def invWritten (fn : Nat) (v : Word) (s : State) : State :=
  s.setRaw fn offInvCtl ((s.raw fn offInvCtl &&& ~~~0x7FFFFFFF) ||| (v &&& 0x3FFFFFFF))

/-- The row of MMU_INV_CTL in the register map. -/
def invCtlRow : RegDef := regRow 0x0028 1 0x3FFFFFFF 0x0 0x0 0x40000000 0x0 false true

theorem regAt_invCtl : regAt .mmu 0x28 = some (invCtlRow, 0) := by decide

/-- What the MMU stores of a write of MMU_INV_CTL with GO. -/
theorem storeWr_invCtl (fn : Fn) (v : Word) (s : State) :
    storeWr (winWrite fn .primary offInvCtl invCtlRow (v ||| 0x40000000) s) 0x40000000 s = invWritten fn.val v s := by
  have h := fields_of_command (m := 0x3FFFFFFF) (go := 0x40000000) (s.raw fn.val offInvCtl) v (by decide)
  have hw1c : ∀ x y : Word, x &&& ~~~(y &&& 0#32) = x := fun x y => by
    rw [BitVec.and_zero]; exact and_full x
  calc storeWr (winWrite fn .primary offInvCtl invCtlRow (v ||| 0x40000000) s) 0x40000000 s
      = s.setRaw (agentFn fn.val) offInvCtl
          ((newValue invCtlRow .primary (s.raw fn.val offInvCtl) (v ||| 0x40000000) &&& ~~~0x40000000) &&&
            ~~~((v ||| 0x40000000) &&& 0#32)) := rfl
    _ = invWritten fn.val v s := by rw [hw1c, agentFn_fn]; exact congrArg (fun x => s.setRaw fn.val offInvCtl x) h

/-- A write of MMU_INV_CTL with GO in an MMU that is not halted. -/
theorem invEffect_go {w : RegWr} {s : State} (hgo : bit w.val.toNat 30 = true) (hm : s.reg.mismatch = []) :
    invEffect w s = if invBusy s (agentFn w.agent) = true then storeWr w 0x40000000 s
      else invGo (agentFn w.agent) (storeWr w 0x40000000 s) := by
  have hhalt : (storeWr w 0x40000000 s).halted .mmu = false := halted_of_nil hm _
  have hbusy : invBusy (storeWr w 0x40000000 s) (agentFn w.agent) = invBusy s (agentFn w.agent) := rfl
  unfold invEffect
  dsimp only
  rw [hgo, hhalt, hbusy]
  cases invBusy s (agentFn w.agent) <;> rfl

/-- A GO that lands at once stores the fields, and is judged unless an invalidation of the function is in progress. -/
theorem exec_invalidateGo {fn : Fn} {s : State} (v : Word) (hq : quiet s fn.val) :
    exec (.invalidateGo fn v) s =
      .next (if invBusy s fn.val = true then invWritten fn.val v s else invGo fn.val (invWritten fn.val v s)) := by
  have ⟨_, _, hm⟩ := hq
  have hland := regWrite4_quiet (fn := fn) (off := offInvCtl) (rel := 0x28) (b := .mmu) (v ||| 0x40000000) hq
    (by decide) (.inr (by decide))
  have hwin := landWrite_win (fn := fn) (off := offInvCtl) (rel := 0x28) (b := .mmu) (v ||| 0x40000000) hm
    (windowOf_prim (by decide)) (by decide) (by decide) (by decide) regAt_invCtl (.inr rfl) rfl
  have hguard : ∀ x : Word, x &&& invCtlRow.rwk = 0 := fun _ => BitVec.and_zero
  simp only [hguard, ne_eq, not_true_eq_false, if_false] at hwin
  have heff := invEffect_go (w := winWrite fn .primary offInvCtl invCtlRow (v ||| 0x40000000) s) (bit_go v) hm
  have hfn : agentFn (winWrite fn .primary offInvCtl invCtlRow (v ||| 0x40000000) s).agent = fn.val := agentFn_fn fn
  rw [storeWr_invCtl, hfn] at heff
  exact congrArg Host.Outcome.next (hland.trans (hwin.trans heff))

/-! ## The judgement of a GO -/

/-- The stored fields of MMU_INV_CTL. -/
def invCtl (fn : Nat) (s : State) : Nat := (s.raw fn offInvCtl).toNat

/-- The first address of the range. -/
def invVa (fn : Nat) (s : State) : Nat := s.rawBase fn 0x070020 0x070024

/-- The entries that a GO discards: those of its context, with ALL every one, else those that overlap the range. -/
def invHit (fn : Nat) (s : State) (t : TlbEntry) : Bool :=
  decide (t.ctx = bits (invCtl fn s) 8 0) &&
    (bit (invCtl fn s) 9 || (decide (t.leaf.va < invVa fn s + bits (invCtl fn s) 29 10 * 4096) &&
      decide (invVa fn s < t.leaf.va + t.leaf.size)))

/-- The addresses whose loads a GO waits for: those of the range and of the entries discarded. -/
def invOld (fn : Nat) (s : State) (a : Nat) : Bool :=
  bit (invCtl fn s) 9 || (decide (invVa fn s ≤ a) && decide (a < invVa fn s + bits (invCtl fn s) 29 10 * 4096)) ||
    (((s.mmu.utlb ++ s.mmu.dtlb).flatMap fun e => e.2).filter (invHit fn s)).any
      fun t => t.hits (bits (invCtl fn s) 8 0) a

/-- The invalidation that a GO starts. -/
def invStarted (fn : Nat) (s : State) : Inval :=
  { fn, ctx := bits (invCtl fn s) 8 0, loads := loadsOn s (bits (invCtl fn s) 8 0) (invOld fn s) }

/-- R484: a context outside the function's range. -/
theorem invGo_range {fn : Nat} {s : State} (hc : fnHasCtx s fn (bits (invCtl fn s) 8 0) = false) :
    invGo fn s = invResult fn resRange s := by
  rw [invCtl] at hc
  simp [invGo, hc]

/-- R484: neither ALL nor a page. -/
theorem invGo_badRecord {fn : Nat} {s : State} (hc : fnHasCtx s fn (bits (invCtl fn s) 8 0) = true)
    (hall : bit (invCtl fn s) 9 = false) (hpages : bits (invCtl fn s) 29 10 = 0) :
    invGo fn s = invResult fn resBadRecord s := by
  rw [invCtl] at hc hall hpages
  simp [invGo, hc, hall, hpages]

/-- R54, R484: any other GO. -/
theorem invGo_accepted {fn : Nat} {s : State} (hc : fnHasCtx s fn (bits (invCtl fn s) 8 0) = true)
    (hr : bit (invCtl fn s) 9 = true ∨ bits (invCtl fn s) 29 10 ≠ 0) :
    invGo fn s = invResult fn resOk ((tlbDiscard (invHit fn s) s).onMmu fun m =>
      { m with inval := m.inval ++ [invStarted fn s] }) := by
  rw [invCtl] at hc hr
  have hrange : ¬ ((!bit (s.raw fn offInvCtl).toNat 9) = true ∧ bits (s.raw fn offInvCtl).toNat 29 10 = 0) := by
    rintro ⟨hall, hpages⟩
    rcases hr with hr | hr
    · simp [hr] at hall
    · exact hr hpages
  unfold invGo
  dsimp only
  rw [if_neg (by simp [hc]), if_neg hrange]
  rfl

/-! ## What a discard leaves in the TLBs -/

/-- A table of TLBs without the entries that a test names. -/
def tlbCut (p : TlbEntry → Bool) (t : Tbl (List TlbEntry)) : Tbl (List TlbEntry) :=
  (t.map fun e => (e.1, e.2.filter fun x => !p x)).filter fun e => e.2 ≠ []

theorem tlbDiscard_eq (p : TlbEntry → Bool) (s : State) :
    tlbDiscard p s = s.onMmu fun x => { x with utlb := tlbCut p x.utlb, dtlb := tlbCut p x.dtlb } := rfl

theorem tlbCut_discards {p : TlbEntry → Bool} {t : Tbl (List TlbEntry)} {e : Nat × List TlbEntry} {x : TlbEntry}
    (he : e ∈ tlbCut p t) (hx : x ∈ e.2) : p x = false := by
  obtain ⟨e₀, -, rfl⟩ := List.mem_map.mp (List.mem_of_mem_filter he)
  simpa using List.of_mem_filter hx

theorem tlbCut_keeps {p : TlbEntry → Bool} {t : Tbl (List TlbEntry)} {e : Nat × List TlbEntry} {x : TlbEntry}
    (he : e ∈ t) (hx : x ∈ e.2) (hp : p x = false) : ∃ e' ∈ tlbCut p t, e'.1 = e.1 ∧ x ∈ e'.2 := by
  have hx' : x ∈ e.2.filter fun y => !p y := List.mem_filter.mpr ⟨hx, by simp [hp]⟩
  refine ⟨(e.1, e.2.filter fun y => !p y), List.mem_filter.mpr ⟨List.mem_map_of_mem he, ?_⟩, rfl, hx'⟩
  simpa using List.ne_nil_of_mem hx'

/-! ## MMU_INV_STS -/

/-- MMU_INV_STS stores nothing: it shows the result kept for the reading function. -/
theorem readReg_invSts {fn : Fn} {s : State} (h : s.raw fn.val 0x07002C = 0) :
    readReg fn.val 0x07002C s = w32 (tblGet 0 s.mmu.invRes fn.val) := by
  have hblock : blockAt 0x07002C = some (.mmu, 0x2C) := by decide
  have hreg : regAt .mmu 0x2C = some (regRow 0x002C 1 0x0 0x0 0x0 0x0 0x0 false true, 0) := by decide
  have hshown : shown .mmu fn.val 0x2C s = w32 (tblGet 0 s.mmu.invRes fn.val) := rfl
  have hword : regWord .mmu 0x2C fn.val s = w32 (tblGet 0 s.mmu.invRes fn.val) := by
    have hbase : blockBase .mmu + 0x2C = 0x07002C := by decide
    rw [regWord, hreg]
    simp only [agentFn_fn, hbase, hshown]
    cases s.reg.mismatch.find? fun e => e.1 = regKey fn.val 0x07002C <;> simp [regRow, h, offWakeSts]
  have hzero : readsZero s .mmu 0x2C = false := rfl
  rw [readReg, hblock]
  simp [windowOf_prim, hzero, hword]

/-- Settles O17: `exec_invalidateGo` reduces a GO to `invGo`, whose three answers are one lemma each; what an accepted
GO leaves in the TLBs is `tlbCut`'s, and MMU_INV_STS reads the result that each answer sets. -/
theorem invalidationGo : Obligations.InvalidationGo := by
  unfold Obligations.InvalidationGo
  refine ⟨fun fn v s hq hidle => ?_, fun _ _ => rfl, fun fn v s hq hbusy => ?_⟩
  · intro ctl u w ctx pages va answer hit
    have hgo : exec (.invalidateGo fn v) s = .next (invGo fn.val u) := by
      rw [exec_invalidateGo v hq, hidle]; rfl
    refine ⟨fun r x _ _ hraw => ?_, fun x hres hraw _ => ?_, fun hc => ?_, fun hc hall hpages => ?_, fun hc hr => ?_⟩
    · rw [readReg_invSts (s := answer r x) hraw]
      show w32 (tblGet 0 (tblSet 0 x.mmu.invRes fn.val r) fn.val) = _
      rw [tblGet_tblSet_same]; rfl
    · rw [readReg_invSts hraw, hres, tblGet_tblSet_same]; rfl
    · rw [hgo, invGo_range (s := u) hc]; rfl
    · rw [hgo, invGo_badRecord (s := u) hc hall hpages]; rfl
    · refine ⟨_, hgo, ?_⟩
      rw [invGo_accepted (s := u) hc hr, tlbDiscard_eq]
      refine ⟨rfl, fun e he x hx => ?_, fun _ he _ => tlbCut_keeps he, fun _ he _ => tlbCut_keeps he⟩
      exact (List.mem_append.mp he).elim (tlbCut_discards · hx) (tlbCut_discards · hx)
  · rw [exec_invalidateGo v hq, if_pos hbusy]; rfl

end Sys2Proof.Machine
end

section
/-! A write of a range register (R35, R62, R106): how it lands, and what FE_FN_RING_f refuses. -/

namespace Sys2Proof.Machine

open Sys2Proof

/-! ## Range registers -/

/-- A row of range registers, one for each function: FIRST and COUNT are guarded, REFUSED is W1C. -/
def rangeRow (base : Nat) (mask : Word) : RegDef := regRow base 64 0x0 mask refusedBit 0x0 0x0 true false

/-- A write of the physical function as it reaches a range register whose fields are those of a mask. -/
def rangeWr (mask : Word) (off : Nat) (v : Word) (s : State) : RegWr :=
  { agent := 0, off, old := s.raw 0 off, new := (s.raw 0 off &&& ~~~mask) ||| (v &&& mask), val := v, w1c := v &&& refusedBit }

theorem RegWr.changes_iff {w : RegWr} {mask : Word} : w.changes mask = true ↔ (w.new &&& mask) ≠ (w.old &&& mask) :=
  decide_eq_true_iff

theorem RegWr.changes_eq_false {w : RegWr} {mask : Word} (h : (w.new &&& mask) = (w.old &&& mask)) : w.changes mask = false :=
  decide_eq_false (not_not_intro h)

theorem winWrite_rangeRow (base : Nat) (mask : Word) (off : Nat) (v : Word) (s : State) :
    winWrite 0 .primary off (rangeRow base mask) v s = rangeWr mask off v s := by
  simp [winWrite, rangeWr, rangeRow, regRow, newValue]

/-- A write that changes a range needs the unlock and consumes it; one that leaves the range goes to the block as it is. -/
theorem regWrite4_rangeRow {s : State} {off rel base i : Nat} {b : BlockId} {mask : Word} (v : Word) (hq : quiet s 0)
    (hb : blockAt off = some (b, rel)) (hd : regAt b rel = some (rangeRow base mask, i)) (hrel : rel < 0xFF0)
    (hh : b ≠ .hst) (hon : blockOff s b = false) :
    regWrite4 0 off v s =
      if (rangeWr mask off v s).changes mask then
        if unlocked s b 0 then regEffect b rel (rangeWr mask off v s) (setUnlock b 0 0 s) else setDenied b 0 1 s
      else regEffect b rel (rangeWr mask off v s) s := by
  have ⟨_, _, hmis⟩ := hq
  obtain ⟨hle, -, hsub⟩ := blockAt_some hb
  have hoff : blockBase b + rel = off := by omega
  have hland := regWrite4_quiet (fn := 0) v hq hb (.inl rfl)
  have hwin := landWrite_win (fn := 0) v hmis (windowOf_prim (by omega)) (by omega) hh hb hd (.inl rfl) hon
  rw [hoff, winWrite_rangeRow] at hwin
  simp only [RegWr.changes_iff]
  exact hland.trans hwin

/-- What a range register holds once a write of it is stored. -/
theorem storeWr_rangeWr (mask : Word) (off : Nat) (v : Word) (s u : State) :
    storeWr (rangeWr mask off v s) 0 u =
      u.setRaw 0 off (((s.raw 0 off &&& ~~~mask) ||| (v &&& mask)) &&& ~~~(v &&& refusedBit)) := by
  have hnoCmd (x : Word) : x &&& ~~~0 = x := and_full x
  rw [storeWr, hnoCmd]; rfl

section
variable {f : Nat} {mask : Word} {w : RegWr} {eff : State → State} {s : State}

theorem lockedRange_unchanged (h : w.changes mask = false) : lockedRange f mask w eff s = eff s := by
  simp [lockedRange, h]

theorem lockedRange_unlocked (h : tdiLocked s f = false) : lockedRange f mask w eff s = eff s := by
  simp [lockedRange, h]

/-- What the register refuses by its own rule stays refused, whether or not the function's TDI is locked. -/
theorem lockedRange_refused (h : eff s = refuseWr w refusedBit s) : lockedRange f mask w eff s = refuseWr w refusedBit s := by
  rw [lockedRange, h, ite_self]

end

theorem rangeClash_eq_false {s : State} {base firstHi countLo countHi first count : Nat} {f : Fn} :
    rangeClash s base firstHi countLo countHi f.val first count = false ↔
      ∀ g : Fn, g ≠ f → overlap first count (bits (s.raw 0 (base + 4 * g.val)).toNat firstHi 0)
        (bits (s.raw 0 (base + 4 * g.val)).toNat countHi countLo) = false := by
  simp only [rangeClash, upTo, List.any_eq_false, List.mem_range, Bool.and_eq_true, decide_eq_true_eq, not_and, Bool.not_eq_true]
  exact ⟨fun h g hg => h g.val g.isLt (Fin.val_ne_of_ne hg), fun h g hlt hg => h ⟨g, hlt⟩ (Fin.ne_of_val_ne hg)⟩

/-! ## FE_FN_RING_f -/

theorem blockAt_fnRing (f : Fn) : blockAt (0x060100 + 4 * f.val) = some (.fe, 0x100 + 4 * f.val) := by
  revert f; decide

theorem regAt_fnRing (f : Fn) : regAt .fe (0x100 + 4 * f.val) = some (rangeRow 0x100 0x7FFFFFF, f.val) := by
  revert f; decide

theorem feEffect_fnRing (f : Fn) (w : RegWr) (s : State) :
    feEffect (0x100 + 4 * f.val) w s = lockedRange f.val 0x7FFFFFF w (fnRingEffect f.val w) s := by
  have hf := f.isLt
  have hidx : (0x100 + 4 * f.val - 0x100) / 4 = f.val := by omega
  rw [feEffect, if_neg (by omega), if_neg (by omega), if_pos (by omega), hidx]

/-- A ring that is not DISABLED lies in the old or the new range of a write (R62). -/
def ringsBusy (w : RegWr) (s : State) : Bool :=
  s.fe.rings.any fun e => e.2.state ≠ .disabled && (rangeHas w.new 12 13 26 e.1 || rangeHas w.old 12 13 26 e.1)

/-- R62 lets function f have the range that a write gives it. -/
def ringRangeOk (f : Fn) (w : RegWr) (s : State) : Prop :=
  (∀ g : Fn, g ≠ f → overlap (bits w.new.toNat 12 0) (bits w.new.toNat 26 13)
    (bits (s.raw 0 (0x060100 + 4 * g.val)).toNat 12 0) (bits (s.raw 0 (0x060100 + 4 * g.val)).toNat 26 13) = false) ∧
  bits w.new.toNat 12 0 + bits w.new.toNat 26 13 ≤ 8192 ∧ (f.val = 0 → bits w.new.toNat 12 0 = 0) ∧
  ∀ e ∈ s.fe.rings, e.2.state = .disabled ∨ (rangeHas w.new 12 13 26 e.1 = false ∧ rangeHas w.old 12 13 26 e.1 = false)

theorem ringsBusy_eq_false {w : RegWr} {s : State} :
    ringsBusy w s = false ↔
      ∀ e ∈ s.fe.rings, e.2.state = .disabled ∨ (rangeHas w.new 12 13 26 e.1 = false ∧ rangeHas w.old 12 13 26 e.1 = false) := by
  simp only [ringsBusy, List.any_eq_false, Bool.and_eq_true, Bool.or_eq_true, decide_eq_true_eq, not_and_or, not_or, ne_eq,
    not_not, Bool.not_eq_true]

/-- The four refusals of R62, in the order of `fnRingEffect`. -/
def ringRangeBad (f : Nat) (w : RegWr) (s : State) : Bool :=
  rangeClash s 0x060100 12 13 26 f (bits w.new.toNat 12 0) (bits w.new.toNat 26 13) ||
    decide (8192 < bits w.new.toNat 12 0 + bits w.new.toNat 26 13) ||
    (decide (f = 0) && decide (bits w.new.toNat 12 0 ≠ 0)) || ringsBusy w s

theorem ringRangeBad_eq_false {f : Fn} {w : RegWr} {s : State} : ringRangeBad f.val w s = false ↔ ringRangeOk f w s := by
  simp only [ringRangeBad, ringRangeOk, Bool.or_eq_false_iff, rangeClash_eq_false, ringsBusy_eq_false, Bool.and_eq_false_imp,
    decide_eq_true_eq, decide_eq_false_iff_not, not_lt, ne_eq, not_not, and_assoc]

theorem fnRingEffect_unchanged {f : Nat} {w : RegWr} {s : State} (h : w.changes 0x7FFFFFF = false) :
    fnRingEffect f w s = clearWr w s := by
  rw [fnRingEffect, h]; rfl

theorem fnRingEffect_changed {f : Nat} {w : RegWr} {s : State} (h : w.changes 0x7FFFFFF = true) :
    fnRingEffect f w s = if ringRangeBad f w s then refuseWr w refusedBit s else storeWr w 0 s := by
  rw [fnRingEffect, h]; rfl

theorem fnRingEffect_stored {f : Fn} {w : RegWr} {s : State} (h : w.changes 0x7FFFFFF = true) (hok : ringRangeOk f w s) :
    fnRingEffect f.val w s = storeWr w 0 s := by
  rw [fnRingEffect_changed h, ringRangeBad_eq_false.mpr hok]; rfl

theorem fnRingEffect_refused {f : Fn} {w : RegWr} {s : State} (h : w.changes 0x7FFFFFF = true) (hbad : ¬ ringRangeOk f w s) :
    fnRingEffect f.val w s = refuseWr w refusedBit s := by
  rw [fnRingEffect_changed h, if_pos (by simpa using ringRangeBad_eq_false.not.mpr hbad)]

/-- A write of FE_FN_RING_f by the physical function that changes the range consumes the unlock and is judged. -/
theorem exec_feFnRingWrite_changed {s : State} {f : Fn} {v : Word} (hq : quiet s 0) (hun : unlocked s .fe 0 = true)
    (hc : (rangeWr 0x7FFFFFF (0x060100 + 4 * f.val) v s).changes 0x7FFFFFF = true) :
    exec (.feFnRingWrite 0 f v) s =
      .next (lockedRange f.val 0x7FFFFFF (rangeWr 0x7FFFFFF (0x060100 + 4 * f.val) v s)
        (fnRingEffect f.val (rangeWr 0x7FFFFFF (0x060100 + 4 * f.val) v s)) (setUnlock .fe 0 0 s)) := by
  have hwrite := regWrite4_rangeRow v hq (blockAt_fnRing f) (regAt_fnRing f) (by omega) (by decide) rfl
  rw [if_pos hc, if_pos hun, regEffect, feEffect_fnRing] at hwrite
  exact congrArg Host.Outcome.next hwrite

/-- A write of FE_FN_RING_f by the physical function that leaves the range needs no unlock and only clears REFUSED. -/
theorem exec_feFnRingWrite_unchanged {s : State} {f : Fn} {v : Word} (hq : quiet s 0)
    (hc : (rangeWr 0x7FFFFFF (0x060100 + 4 * f.val) v s).changes 0x7FFFFFF = false) :
    exec (.feFnRingWrite 0 f v) s = .next (clearWr (rangeWr 0x7FFFFFF (0x060100 + 4 * f.val) v s) s) := by
  have hwrite := regWrite4_rangeRow v hq (blockAt_fnRing f) (regAt_fnRing f) (by omega) (by decide) rfl
  rw [if_neg (Bool.eq_false_iff.mp hc), regEffect, feEffect_fnRing, lockedRange_unchanged hc, fnRingEffect_unchanged hc] at hwrite
  exact congrArg Host.Outcome.next hwrite

/-- Settles O11: a write that changes the range comes to `fnRingEffect`, which stores or refuses it by `ringRangeOk`
(the lock of a TDI only adds refusals); one that does not clears REFUSED. -/
theorem ringRangesAreChecked : Obligations.RingRangesAreChecked := by
  unfold Obligations.RingRangesAreChecked
  intro f v s hq off old new first count u ok
  have hok : ok ↔ ringRangeOk f (rangeWr 0x7FFFFFF off v s) u := Iff.rfl
  refine ⟨fun hchg hun => ?_, fun hsame => exec_feFnRingWrite_unchanged hq (RegWr.changes_eq_false hsame)⟩
  have hc : (rangeWr 0x7FFFFFF off v s).changes 0x7FFFFFF = true := RegWr.changes_iff.mpr hchg
  rw [exec_feFnRingWrite_changed hq hun hc]
  refine ⟨fun hallowed htdi => ?_, fun hbad => ?_⟩
  · have hopen : tdiLocked u f.val = false := htdi
    rw [lockedRange_unlocked hopen, fnRingEffect_stored hc (hok.mp hallowed), storeWr_rangeWr]; rfl
  · rw [lockedRange_refused (fnRingEffect_refused hc (hok.not.mp hbad))]; rfl

end Sys2Proof.Machine
end

section
/-! ERR_RETIRE (R449): what a write of it does to the log, and how an entry comes into service. -/

namespace Sys2Proof.Machine

open Sys2Proof

/-! ## The write of ERR_RETIRE -/

/-- The row of ERR_RETIRE in the register map. -/
def errRetireRow : RegDef := regRow 0x000C 1 0x0 0x0 0x0 0xFFFFFFFF 0x0 false false

theorem regAt_errRetire : regAt .err 0xC = some (errRetireRow, 0) := by decide

theorem blockAt_errRetire : blockAt 0x04000C = some (.err, 0xC) := by decide

/-- No register of ERR has an instance for virtual functions. -/
theorem errRegs_vf : ∀ d ∈ blockRegs .err, d.vf = false := by decide

/-- A value of ERR_RETIRE names an entry by its SEQ; 0 is the SEQ of a free slot and names none. -/
theorem errEffect_retire (w : RegWr) (s : State) :
    errEffect 0xC w s = if w.val = 0 then s else retireEntry w.val.toNat s := rfl

/-- The physical function's write of ERR_RETIRE needs no unlock and comes to `retireEntry`. -/
theorem exec_errRetire {s : State} (v : Word) (hq : quiet s 0) :
    exec (.errRetire 0 v) s = .next (if v = 0 then s else retireEntry v.toNat s) := by
  have ⟨_, _, hmis⟩ := hq
  have hland := regWrite4_quiet (fn := 0) v hq blockAt_errRetire (.inl rfl)
  have hwin := landWrite_win (fn := 0) v hmis (windowOf_prim (by decide)) (by decide) (by decide) blockAt_errRetire
    regAt_errRetire (.inl rfl) rfl
  have hguard (x : Word) : x &&& errRetireRow.rwk = 0 := BitVec.and_zero
  simp only [hguard, ne_eq, not_true_eq_false, if_false] at hwin
  exact congrArg Host.Outcome.next (hland.trans (hwin.trans (errEffect_retire _ s)))

/-- A virtual function has no ERR_RETIRE: its write does nothing. -/
theorem exec_errRetire_virtual {s : State} {fn : Fn} (v : Word) (hq : quiet s fn.val) (hfn : fn.val ≠ 0) :
    exec (.errRetire fn v) s = .next s :=
  congrArg Host.Outcome.next <| (regWrite4_quiet v hq blockAt_errRetire (.inr (by decide))).trans <|
    landWrite_none v s hfn blockAt_errRetire errRegs_vf (by decide)

/-! ## Retiring an entry -/

/-- A SEQ that no slot holds retires nothing. -/
theorem retireEntry_absent {seq : Nat} {s : State} (h : ∀ e ∈ s.err.entries, e.seq ≠ seq) : retireEntry seq s = s := by
  have hkeep : s.err.entries.filter (fun e => e.seq ≠ seq) = s.err.entries := List.filter_eq_self.mpr (by simpa using h)
  rw [retireEntry, State.onErr, hkeep]

/-- No slot holds a SEQ once it is retired. -/
theorem seq_ne_of_mem_retireEntry {seq : Nat} {s : State} : ∀ e ∈ (retireEntry seq s).err.entries, e.seq ≠ seq := by
  intro e he
  have hfilter : e ∈ s.err.entries.filter fun x => x.seq ≠ seq := he
  simpa using List.of_mem_filter hfilter

/-! ## The writing of an entry -/

/-- A register's stored fields are no part of the error log. -/
theorem raw_onErr (f : ErrSys → ErrSys) (s : State) (fn off : Nat) : (s.onErr f).raw fn off = s.raw fn off := rfl

/-- An error that has room, while ERR_CFG.EN is 0, adds one entry of its source to the log. -/
theorem entries_logWrite {s : State} {cls : Nat} (code src ctx info0 info1 : Nat) (hroom : logRoom s cls = true)
    (hvec : bit (s.raw 0 0x040000).toNat 31 = false) :
    ∃ e : LogEntry, e.src = src ∧
      (logWrite code cls src ctx info0 info1 false s).err.entries = s.err.entries ++ [e] := by
  simp only [logWrite, hroom, if_true, raw_onErr, hvec, Bool.false_eq_true, if_false]
  exact ⟨_, rfl, rfl⟩

/-- One more entry of a source is in service where the log gains one of it. -/
theorem inService_append {s t : State} {e : LogEntry} (h : t.err.entries = s.err.entries ++ [e]) :
    inService t e.src = inService s e.src + 1 := by
  simp [inService, h]

/-- Settles O10: a write of ERR_RETIRE is `retireEntry`, which is the identity where no slot holds the SEQ, so a second
one is too; the writing of an entry appends it to the log. -/
theorem entriesAreRetiredOnce : Obligations.EntriesAreRetiredOnce := by
  unfold Obligations.EntriesAreRetiredOnce
  refine ⟨fun v s hq => ⟨fun habsent => ?_, fun hv => ?_⟩, fun _ v _ hq hfn => exec_errRetire_virtual v hq hfn,
    fun code _ src ctx info0 info1 s hroom hvec => ?_⟩
  · rw [exec_errRetire v hq, retireEntry_absent habsent, ite_self]
  · intro t
    have hfirst : exec (.errRetire 0 v) s = .next t := by rw [exec_errRetire v hq, if_neg hv]; rfl
    have hquiet : quiet t 0 := hq
    have hagain : exec (.errRetire 0 v) t = .next t := by
      rw [exec_errRetire v hquiet, retireEntry_absent (s := t) seq_ne_of_mem_retireEntry, ite_self]
    exact ⟨hfirst, hagain⟩
  · obtain ⟨e, rfl, he⟩ := entries_logWrite code src ctx info0 info1 hroom hvec
    exact inService_append he

end Sys2Proof.Machine
end

section
/-! SUPPORT. What every command keeps: the queue, and the canonical form of memory and of the register table. One
predicate, `Keeps`, says it of two states; each shared operation has one lemma that it keeps it, and a container of
states (the ways an access or a check ends) keeps it where each state that it carries does. -/

namespace Sys2Proof.Machine

open Sys2Proof

/-- t has the queue of z, and its memory and its register table are in canonical form if those of z are. -/
structure Keeps (z t : State) : Prop where
  pending : t.pending = z.pending
  mem : memInv z → memInv t
  reg : regInv z → regInv t

variable {z s t : State}

theorem Keeps.refl (s : State) : Keeps s s := ⟨rfl, id, id⟩

/-- A change that leaves the bytes, the L2s, the stored registers and the queue. -/
theorem Keeps.same (h : Keeps z s) (hc : t.mem.cells = s.mem.cells) (hl : t.mem.l2 = s.mem.l2)
    (hr : t.reg.regs = s.reg.regs) (hp : t.pending = s.pending) : Keeps z t where
  pending := hp.trans h.pending
  mem hz := by unfold memInv; rw [hc, hl]; exact h.mem hz
  reg hz := by unfold regInv; rw [hr]; exact h.reg hz

/-! ## Changes of one group -/

theorem Keeps.time {n : Nat} (h : Keeps z s) : Keeps z { s with time := n } := h.same rfl rfl rfl rfl
theorem Keeps.rsh {x : Tbl Reshard} (h : Keeps z s) : Keeps z { s with rsh := x } := h.same rfl rfl rfl rfl

theorem State.onMmu_keeps {f : Mmu → Mmu} (h : Keeps z s) : Keeps z (s.onMmu f) := h.same rfl rfl rfl rfl
theorem State.onFe_keeps {f : FrontEnd → FrontEnd} (h : Keeps z s) : Keeps z (s.onFe f) := h.same rfl rfl rfl rfl
theorem State.onFen_keeps {f : FenceSys → FenceSys} (h : Keeps z s) : Keeps z (s.onFen f) := h.same rfl rfl rfl rfl
theorem State.onErr_keeps {f : ErrSys → ErrSys} (h : Keeps z s) : Keeps z (s.onErr f) := h.same rfl rfl rfl rfl
theorem State.onUnit_keeps {f : Units → Units} (h : Keeps z s) : Keeps z (s.onUnit f) := h.same rfl rfl rfl rfl
theorem State.onSec_keeps {f : Sec → Sec} (h : Keeps z s) : Keeps z (s.onSec f) := h.same rfl rfl rfl rfl
theorem State.onTns_keeps {f : Tensors → Tensors} (h : Keeps z s) : Keeps z (s.onTns f) := h.same rfl rfl rfl rfl
theorem State.onShd_keeps {f : Shaders → Shaders} (h : Keeps z s) : Keeps z (s.onShd f) := h.same rfl rfl rfl rfl
theorem State.onRnd_keeps {f : Renders → Renders} (h : Keeps z s) : Keeps z (s.onRnd f) := h.same rfl rfl rfl rfl
theorem State.onDsp_keeps {f : Displays → Displays} (h : Keeps z s) : Keeps z (s.onDsp f) := h.same rfl rfl rfl rfl
theorem State.onCmp_keeps {f : Cmps → Cmps} (h : Keeps z s) : Keeps z (s.onCmp f) := h.same rfl rfl rfl rfl
theorem State.onPwr_keeps {f : Power → Power} (h : Keeps z s) : Keeps z (s.onPwr f) := h.same rfl rfl rfl rfl
theorem State.onRst_keeps {f : Resets → Resets} (h : Keeps z s) : Keeps z (s.onRst f) := h.same rfl rfl rfl rfl
theorem State.onBoot_keeps {f : Boot → Boot} (h : Keeps z s) : Keeps z (s.onBoot f) := h.same rfl rfl rfl rfl
theorem State.onTap_keeps {f : Tap → Tap} (h : Keeps z s) : Keeps z (s.onTap f) := h.same rfl rfl rfl rfl
theorem State.onMon_keeps {f : Monitor → Monitor} (h : Keeps z s) : Keeps z (s.onMon f) := h.same rfl rfl rfl rfl

theorem State.onMem_keeps {f : MemSys → MemSys} (h : Keeps z s) (hf : ∀ m, (f m).cells = m.cells ∧ (f m).l2 = m.l2) :
    Keeps z (s.onMem f) := h.same (hf s.mem).1 (hf s.mem).2 rfl rfl

theorem State.onReg_keeps {f : RegSys → RegSys} (h : Keeps z s) (hf : ∀ g, (f g).regs = g.regs) : Keeps z (s.onReg f) :=
  h.same rfl rfl (hf s.reg) rfl

/-! ## Folds -/

/-- A fold keeps what each of its steps keeps. -/
theorem foldl_inv {α β : Type} {P : β → Prop} {f : β → α → β} {b : β} {l : List α} (hb : P b)
    (hf : ∀ b a, P b → P (f b a)) : P (l.foldl f b) := by
  induction l generalizing b with
  | nil => exact hb
  | cons a l ih => exact ih (hf b a hb)

theorem foldl_keeps {α : Type} {f : State → α → State} {l : List α} (h : Keeps z s)
    (hf : ∀ s a, Keeps z s → Keeps z (f s a)) : Keeps z (l.foldl f s) := foldl_inv h hf

theorem foldl_snd {α β : Type} {f : β × State → α → β × State} {b : β × State} {l : List α} (h : Keeps z b.2)
    (hf : ∀ b a, Keeps z b.2 → Keeps z (f b a).2) : Keeps z (l.foldl f b).2 :=
  foldl_inv (P := fun x : β × State => Keeps z x.2) h hf

theorem foldl_third {α β γ : Type} {f : β × γ × State → α → β × γ × State} {b : β × γ × State} {l : List α}
    (h : Keeps z b.2.2) (hf : ∀ b a, Keeps z b.2.2 → Keeps z (f b a).2.2) : Keeps z (l.foldl f b).2.2 :=
  foldl_inv (P := fun x : β × γ × State => Keeps z x.2.2) h hf

theorem eachDo_keeps {α : Type} {f : α → State → State} {l : List α} (h : Keeps z s)
    (hf : ∀ s a, Keeps z s → Keeps z (f a s)) : Keeps z (eachDo l f s) := foldl_inv h hf

/-! ## Containers of states -/

def keepsOpt (z : State) : Option State → Prop
  | some t => Keeps z t
  | none => True

def Dev.keepsState (z : State) : Dev State → Prop
  | .done t => Keeps z t
  | _ => True

def Dev.keeps {α : Type} (z : State) : Dev (α × State) → Prop
  | .done x => Keeps z x.2
  | _ => True

def Acc.keeps {α : Type} (z : State) : Acc α → Prop
  | .ok _ t | .fault _ t => Keeps z t
  | _ => True

def Res.keeps {α : Type} (z : State) : Res α → Prop
  | .ok _ t | .fault _ t | .severed t | .wait t => Keeps z t

def Tr.keeps {α : Type} (z : State) : Tr α → Prop
  | .ok _ t | .fault _ _ _ t | .bad _ t | .severed t | .wait t => Keeps z t

def Got.keeps {α : Type} (z : State) : Got α → Prop
  | .ok _ t | .bad t | .fault _ t | .severed t | .wait t => Keeps z t

def Take.keeps {α : Type} (z : State) : Take α → Prop
  | .ok _ _ t | .empty _ t | .bad t | .fault _ t | .severed t => Keeps z t
  | .wait => True

def Staged.keeps (z : State) : Staged → Prop
  | .done t | .run _ t | .rewritten _ t => Keeps z t

def ParkPut.keeps (z : State) : ParkPut → Prop
  | .written t | .full t | .lost t => Keeps z t

def Push.keeps (z : State) : Push → Prop
  | .ok _ t | .fault _ _ t | .severed t => Keeps z t
  | _ => True

def Checked.keeps (z : State) : Checked → Prop
  | .ok _ t | .fault _ _ _ t | .severed t | .wait t => Keeps z t

def SipEnd.keeps (z : State) : SipEnd → Prop
  | .ok _ t | .fail _ _ t | .fault _ _ _ _ t => Keeps z t
  | .wait => True

def MonAcc.keeps (z : State) : MonAcc → Prop
  | .val _ t | .bad _ t => Keeps z t

def keepsOut (z : State) : Out → Prop
  | .next t => Keeps z t
  | _ => False

theorem Keeps.snd {α : Type} {p : α × State} {a : α} (h : Keeps z p.2) (e : p = (a, t)) : Keeps z t := by subst e; exact h
theorem Keeps.third {α β : Type} {p : α × β × State} {a : α} {b : β} (h : Keeps z p.2.2) (e : p = (a, b, t)) : Keeps z t := by
  subst e; exact h
theorem keepsOpt.some {r : Option State} (h : keepsOpt z r) (e : r = .some t) : Keeps z t := by subst e; exact h
theorem Dev.keepsState.done {r : Dev State} (h : r.keepsState z) (e : r = .done t) : Keeps z t := by subst e; exact h

theorem getD_keeps {r : Option State} (hr : keepsOpt z r) (h : Keeps z s) : Keeps z (r.getD s) := by
  cases r
  · exact h
  · exact hr

section
variable {α : Type} {a : α}

theorem Dev.keeps.done {r : Dev (α × State)} (h : r.keeps z) (e : r = .done (a, t)) : Keeps z t := by subst e; exact h
theorem Acc.keeps.ok {r : Acc α} (h : r.keeps z) (e : r = .ok a t) : Keeps z t := by subst e; exact h
theorem Acc.keeps.fault {r : Acc α} {c : FaultCode} (h : r.keeps z) (e : r = .fault c t) : Keeps z t := by subst e; exact h
theorem Res.keeps.ok {r : Res α} (h : r.keeps z) (e : r = .ok a t) : Keeps z t := by subst e; exact h
theorem Res.keeps.fault {r : Res α} {f : Flt} (h : r.keeps z) (e : r = .fault f t) : Keeps z t := by subst e; exact h
theorem Res.keeps.severed {r : Res α} (h : r.keeps z) (e : r = .severed t) : Keeps z t := by subst e; exact h
theorem Res.keeps.wait {r : Res α} (h : r.keeps z) (e : r = .wait t) : Keeps z t := by subst e; exact h
theorem Tr.keeps.ok {r : Tr α} (h : r.keeps z) (e : r = .ok a t) : Keeps z t := by subst e; exact h
theorem Tr.keeps.fault {r : Tr α} {f : Flt} {va : Nat} {acc : Access} (h : r.keeps z) (e : r = .fault f va acc t) : Keeps z t := by
  subst e; exact h
theorem Tr.keeps.bad {r : Tr α} {d : Nat} (h : r.keeps z) (e : r = .bad d t) : Keeps z t := by subst e; exact h
theorem Tr.keeps.severed {r : Tr α} (h : r.keeps z) (e : r = .severed t) : Keeps z t := by subst e; exact h
theorem Tr.keeps.wait {r : Tr α} (h : r.keeps z) (e : r = .wait t) : Keeps z t := by subst e; exact h
theorem Got.keeps.ok {r : Got α} (h : r.keeps z) (e : r = .ok a t) : Keeps z t := by subst e; exact h
theorem Got.keeps.bad {r : Got α} (h : r.keeps z) (e : r = .bad t) : Keeps z t := by subst e; exact h
theorem Got.keeps.fault {r : Got α} {d : Nat} (h : r.keeps z) (e : r = .fault d t) : Keeps z t := by subst e; exact h
theorem Got.keeps.severed {r : Got α} (h : r.keeps z) (e : r = .severed t) : Keeps z t := by subst e; exact h
theorem Got.keeps.wait {r : Got α} (h : r.keeps z) (e : r = .wait t) : Keeps z t := by subst e; exact h
theorem Take.keeps.ok {r : Take α} {p : PassRun} (h : r.keeps z) (e : r = .ok a p t) : Keeps z t := by subst e; exact h
theorem Take.keeps.empty {r : Take α} {p : PassRun} (h : r.keeps z) (e : r = .empty p t) : Keeps z t := by subst e; exact h
theorem Take.keeps.bad {r : Take α} (h : r.keeps z) (e : r = .bad t) : Keeps z t := by subst e; exact h
theorem Take.keeps.fault {r : Take α} {f : Flt} (h : r.keeps z) (e : r = .fault f t) : Keeps z t := by subst e; exact h
theorem Take.keeps.severed {r : Take α} (h : r.keeps z) (e : r = .severed t) : Keeps z t := by subst e; exact h

end

theorem Staged.keeps.done {r : Staged} (h : r.keeps z) (e : r = .done t) : Keeps z t := by subst e; exact h
theorem Staged.keeps.run {r : Staged} {w : RegWr} (h : r.keeps z) (e : r = .run w t) : Keeps z t := by subst e; exact h
theorem Staged.keeps.rewritten {r : Staged} {b : BlockId} (h : r.keeps z) (e : r = .rewritten b t) : Keeps z t := by subst e; exact h
theorem ParkPut.keeps.written {r : ParkPut} (h : r.keeps z) (e : r = .written t) : Keeps z t := by subst e; exact h
theorem ParkPut.keeps.full {r : ParkPut} (h : r.keeps z) (e : r = .full t) : Keeps z t := by subst e; exact h
theorem ParkPut.keeps.lost {r : ParkPut} (h : r.keeps z) (e : r = .lost t) : Keeps z t := by subst e; exact h
theorem Push.keeps.ok {r : Push} {g : Group} (h : r.keeps z) (e : r = .ok g t) : Keeps z t := by subst e; exact h
theorem Push.keeps.fault {r : Push} {f : Flt} {va : Nat} (h : r.keeps z) (e : r = .fault f va t) : Keeps z t := by subst e; exact h
theorem Push.keeps.severed {r : Push} (h : r.keeps z) (e : r = .severed t) : Keeps z t := by subst e; exact h
theorem Checked.keeps.ok {r : Checked} {l : List LaneAcc} (h : r.keeps z) (e : r = .ok l t) : Keeps z t := by subst e; exact h
theorem Checked.keeps.fault {r : Checked} {f : Flt} {va : Nat} {m : Word} (h : r.keeps z) (e : r = .fault f va m t) : Keeps z t := by
  subst e; exact h
theorem Checked.keeps.severed {r : Checked} (h : r.keeps z) (e : r = .severed t) : Keeps z t := by subst e; exact h
theorem Checked.keeps.wait {r : Checked} (h : r.keeps z) (e : r = .wait t) : Keeps z t := by subst e; exact h
theorem SipEnd.keeps.ok {r : SipEnd} {b : List Byte} (h : r.keeps z) (e : r = .ok b t) : Keeps z t := by subst e; exact h
theorem SipEnd.keeps.fail {r : SipEnd} {c d : Nat} (h : r.keeps z) (e : r = .fail c d t) : Keeps z t := by subst e; exact h
theorem SipEnd.keeps.fault {r : SipEnd} {m : Nat} {f : Flt} {va : Nat} {acc : Access} (h : r.keeps z) (e : r = .fault m f va acc t) :
    Keeps z t := by subst e; exact h
theorem MonAcc.keeps.val {r : MonAcc} {v : Nat} (h : r.keeps z) (e : r = .val v t) : Keeps z t := by subst e; exact h
theorem MonAcc.keeps.bad {r : MonAcc} {c : MonCode} (h : r.keeps z) (e : r = .bad c t) : Keeps z t := by subst e; exact h

/-! ## The tables of bytes, registers and L2s -/

theorem cellSet_keeps {a : Nat} {b : Byte} (h : Keeps z s) : Keeps z (cellSet a b s) where
  pending := h.pending
  mem hz := ⟨tblSet_wf (h.mem hz).1 a b, (h.mem hz).2⟩
  reg := h.reg

theorem State.setL2_keeps {d : Nat} {x : L2} (h : Keeps z s) : Keeps z (s.setL2 d x) where
  pending := h.pending
  mem hz := ⟨(h.mem hz).1, tblSet_wf (h.mem hz).2 d x⟩
  reg := h.reg

theorem State.setRaw_keeps {fn off : Nat} {w : Word} (h : Keeps z s) : Keeps z (s.setRaw fn off w) where
  pending := h.pending
  mem := h.mem
  reg hz := tblSet_sorted _ w (h.reg hz)

end Sys2Proof.Machine
end

section
/-! The queue and the canonical form are kept: Machine/Ops.lean. -/

namespace Sys2Proof.Machine

open Sys2Proof

variable {z : State}

theorem State.setCtx_keeps {n : Nat} {c : Ctx} {s : State} (h : Keeps z s) : Keeps z (State.setCtx n c s) :=
  State.onMmu_keeps h

theorem State.setRing_keeps {r : Nat} {x : Ring} {s : State} (h : Keeps z s) : Keeps z (State.setRing r x s) :=
  State.onFe_keeps h

theorem State.setFence_keeps {n : Nat} {x : Fence} {s : State} (h : Keeps z s) : Keeps z (State.setFence n x s) :=
  State.onFen_keeps h

theorem State.setPlan_keeps {d : Nat} {x : Reshard} {s : State} (h : Keeps z s) : Keeps z (State.setPlan d x s) :=
  h.same rfl rfl rfl rfl

theorem State.setPipe_keeps {p : Nat} {x : Pipe} {s : State} (h : Keeps z s) : Keeps z (State.setPipe p x s) :=
  State.onDsp_keeps h

theorem State.onPipe_keeps {p : Nat} {f : Pipe → Pipe} {s : State} (h : Keeps z s) : Keeps z (State.onPipe p f s) :=
  State.setPipe_keeps h

theorem State.setPower_keeps {u : Nat} {p : UnitPower} {s : State} (h : Keeps z s) : Keeps z (State.setPower u p s) :=
  State.onUnit_keeps h

theorem State.setCrossing_keeps {n : Nat} {x : Crossing} {s : State} (h : Keeps z s) : Keeps z (State.setCrossing n x s) :=
  State.onErr_keeps h

theorem State.fresh_keeps {s : State} (h : Keeps z s) : Keeps z s.fresh.2 := h.same rfl rfl rfl rfl

end Sys2Proof.Machine
end

section
/-! The queue and the canonical form are kept: Machine/Sleep.lean. -/

namespace Sys2Proof.Machine

open Sys2Proof

variable {z : State}

theorem deliver_keeps {fn vec : Nat} {s : State} (h : Keeps z s) : Keeps z (deliver fn vec s) := by
  unfold deliver
  dsimp only
  split <;> exact State.onReg_keeps h (fun _ => rfl)

theorem raiseSrc_keeps {src : VecSource} {fn vec : Nat} {s : State} (h : Keeps z s) : Keeps z (raiseSrc src fn vec s) := by
  unfold raiseSrc
  split
  · exact deliver_keeps (State.onReg_keeps h (fun _ => rfl))
  split
  · exact State.onReg_keeps h (fun _ => rfl)
  · exact deliver_keeps (State.onReg_keeps h (fun _ => rfl))

theorem raiseVec_keeps {src : VecSource} {fn vec : Nat} {s : State} (h : Keeps z s) : Keeps z (raiseVec src fn vec s) := by
  unfold raiseVec
  split
  · exact h
  · exact raiseSrc_keeps h

theorem raiseCritical_keeps {fn : Nat} {s : State} (h : Keeps z s) : Keeps z (raiseCritical fn s) := by
  unfold raiseCritical
  split
  · exact raiseSrc_keeps h
  · exact h

theorem setSeq_keeps {g : Nat} {x : SeqStep} {s : State} (h : Keeps z s) : Keeps z (setSeq g x s) := State.onPwr_keeps h
theorem writeVolt_keeps {g lv : Nat} {s : State} (h : Keeps z s) : Keeps z (writeVolt g lv s) := State.onPwr_keeps h

theorem nextStep_keeps {g : Nat} {s : State} (h : Keeps z s) : Keeps z (nextStep g s) := by
  unfold nextStep
  dsimp only
  split
  · exact setSeq_keeps h
  split
  · exact setSeq_keeps (writeVolt_keeps h)
  split
  · exact setSeq_keeps (writeVolt_keeps h)
  · exact setSeq_keeps h

theorem setGoal_keeps {g lv : Nat} {s : State} (h : Keeps z s) : Keeps z (setGoal g lv s) := by
  unfold setGoal
  dsimp only
  split
  · exact nextStep_keeps (State.onPwr_keeps h)
  · exact State.onPwr_keeps h

theorem wakeBits_keeps {m : Word} {s : State} (h : Keeps z s) : Keeps z (wakeBits m s) := State.setRaw_keeps h

theorem startExit_keeps {src pin : Nat} {s : State} (h : Keeps z s) : Keeps z (startExit src pin s) := by
  unfold startExit
  dsimp only
  split
  · refine foldl_keeps ?_ (fun _ _ h1 => setGoal_keeps h1)
    split
    · exact wakeBits_keeps (State.onPwr_keeps h)
    · exact State.onPwr_keeps h
  · refine foldl_keeps ?_ (fun _ _ h2 => setGoal_keeps h2)
    split
    · exact wakeBits_keeps (State.onPwr_keeps h)
    · exact State.onPwr_keeps h
  · exact State.onPwr_keeps h
  · exact h

theorem wantsExit_keeps {s : State} (h : Keeps z s) : Keeps z (wantsExit s) := by
  unfold wantsExit
  split
  · exact startExit_keeps h
  · exact h

theorem wakeChannel_keeps {ch : Nat} {s : State} (h : Keeps z s) : Keeps z (wakeChannel ch s) := by
  unfold wakeChannel
  split
  · exact startExit_keeps h
  · exact h

theorem ungate_keeps {us : List Nat} {s : State} (h : Keeps z s) : Keeps z (ungate us s) := State.onPwr_keeps h

theorem wakeEvent_keeps {src pin : Nat} {s : State} (h : Keeps z s) : Keeps z (wakeEvent src pin s) := by
  unfold wakeEvent
  split
  · exact raiseVec_keeps h
  · exact startExit_keeps h

theorem levelWakes_keeps {s : State} (h : Keeps z s) : Keeps z (levelWakes s) := by
  unfold levelWakes
  refine foldl_keeps h (fun _ _ h1 => ?_)
  split
  · exact h1
  · exact wakeEvent_keeps (wakeBits_keeps h1)

theorem rosRefresh_keeps {s : State} (h : Keeps z s) : Keeps z (rosRefresh s) := State.onPwr_keeps h

theorem slowApply_keeps {s : State} (h : Keeps z s) : Keeps z (slowApply s) := by
  unfold slowApply
  dsimp only
  refine rosRefresh_keeps ?_
  refine levelWakes_keeps ?_
  refine State.onReg_keeps ?_ (fun _ => rfl)
  split
  · split
    · exact h
    · exact State.setRaw_keeps h
  refine State.setRaw_keeps ?_
  split
  · exact h
  · exact State.setRaw_keeps h

theorem advanceTo_keeps {t : Nat} {s : State} (h : Keeps z s) : Keeps z (advanceTo t s) := by
  unfold advanceTo
  dsimp only
  split
  · exact h
  refine Keeps.time ?_
  split
  · exact slowApply_keeps h
  · exact h

theorem tick_keeps {s : State} (h : Keeps z s) : Keeps z (tick s) := advanceTo_keeps h

end Sys2Proof.Machine
end

section
/-! The queue and the canonical form are kept: Machine/Mem.lean. -/

namespace Sys2Proof.Machine

open Sys2Proof

variable {z : State}

theorem cellsSet_keeps {x : Nat} {x1 : List Byte} {s : State} (h : Keeps z s) : Keeps z (cellsSet x x1 s) := by
  induction x1 generalizing x s with
  | nil =>
    unfold cellsSet
    exact h
  | cons x10 x1 ih =>
    unfold cellsSet
    exact ih (cellSet_keeps h)

theorem applyIO_keeps {io : HostIO} {s : State} (h : Keeps z s) : Keeps z (applyIO io s) := by
  unfold applyIO
  dsimp only
  exact State.onMem_keeps (foldl_keeps h (fun _ _ h1 => cellSet_keeps h1)) (fun _ => ⟨rfl, rfl⟩)

theorem retag_keeps {tag pa cell : Nat} {s : State} (h : Keeps z s) : Keeps z (retag tag pa cell s) := by
  unfold retag
  dsimp only
  split
  · exact h
  · exact State.onMem_keeps (cellsSet_keeps h) (fun _ => ⟨rfl, rfl⟩)

theorem dramWrite_keeps {key x : Nat} {x1 : List Byte} {s : State} (h : Keeps z s) : Keeps z (dramWrite key x x1 s) := by
  induction x1 generalizing key x s with
  | nil =>
    unfold dramWrite
    exact h
  | cons x10 x1 ih =>
    unfold dramWrite
    dsimp only
    refine ih ?_
    split
    · exact cellSet_keeps (retag_keeps h)
    · exact h

theorem fbcWriteBlock_keeps {key frame i : Nat} {bs : List Byte} {s : State} (h : Keeps z s) :
    Keeps z (fbcWriteBlock key frame i bs s) := by
  unfold fbcWriteBlock
  dsimp only
  refine dramWrite_keeps ?_
  split
  · exact h
  split
  · split
    · exact h
    · split <;> exact dramWrite_keeps h
  split
  · exact h
  · split <;> exact dramWrite_keeps h

theorem metaMet_keeps {d key line : Nat} {code : Option Nat} {s : State} (h : Keeps z s) :
    Keeps z (metaMet d key line code s) := by
  unfold metaMet
  split
  · exact State.onMem_keeps h (fun _ => ⟨rfl, rfl⟩)
  · exact h

theorem lineOut_keeps {key line off : Nat} {bs : List Byte} {s : State} (h : Keeps z s) :
    Keeps z (lineOut key line off bs s) := by
  unfold lineOut
  dsimp only
  split
  · exact cellsSet_keeps h
  · exact dramWrite_keeps h

theorem writeBack_keeps {l : L2Line} {s : State} (h : Keeps z s) : Keeps z (writeBack l s) := by
  unfold writeBack
  dsimp only
  split
  · refine fbcWriteBlock_keeps ?_
    split
    · exact h
    · exact metaMet_keeps h
  · exact lineOut_keeps h

theorem l2Drop_keeps {d : Nat} {p : L2Line → Bool} {s : State} (h : Keeps z s) : Keeps z (l2Drop d p s) :=
  State.setL2_keeps h

theorem wcFlush_keeps {d : Nat} {w : WcBuf} {s : State} (h : Keeps z s) : Keeps z (wcFlush d w s) :=
  State.setL2_keeps (foldl_keeps h (fun _ _ h1 => lineOut_keeps h1))

theorem wcFlushIf_keeps {d : Nat} {p : WcBuf → Bool} {s : State} (h : Keeps z s) : Keeps z (wcFlushIf d p s) :=
  foldl_keeps h (fun _ _ h1 => wcFlush_keeps h1)

theorem wcFlushAll_keeps {s : State} (h : Keeps z s) : Keeps z (wcFlushAll s) := wcFlushIf_keeps (wcFlushIf_keeps h)

theorem l2Place_keeps {d line way key : Nat} {fbc dirty : Bool} {data : List Byte} {s : State} (h : Keeps z s) :
    Keeps z (l2Place d line way key fbc dirty data s) :=
  State.setL2_keeps h

theorem l2Fill_keeps {d : Nat} {m : L2Miss} {s : State} (h : Keeps z s) : Keeps z (l2Fill d m s) :=
  l2Place_keeps (metaMet_keeps (State.setL2_keeps h))

theorem l2FillIf_keeps {d : Nat} {p : L2Miss → Bool} {s : State} (h : Keeps z s) : Keeps z (l2FillIf d p s) :=
  foldl_keeps h (fun _ _ h1 => l2Fill_keeps h1)

theorem l2Victim_keeps {d line : Nat} {s : State} (h : Keeps z s) : Keeps z (l2Victim d line s).2 := by
  unfold l2Victim
  dsimp only
  split
  · exact h
  · exact l2Drop_keeps (foldl_keeps (l2FillIf_keeps (State.setL2_keeps h)) (fun _ _ h1 => writeBack_keeps h1))

theorem l2Insert_keeps {d line key : Nat} {fbc dirty : Bool} {data : List Byte} {s : State} (h : Keeps z s) :
    Keeps z (l2Insert d line key fbc dirty data s) :=
  l2Place_keeps (l2Victim_keeps h)

theorem l2OtherKey_keeps {d line key : Nat} {s : State} (h : Keeps z s) : Keeps z (l2OtherKey d line key s) :=
  l2Drop_keeps (foldl_keeps (l2FillIf_keeps h) (fun _ _ h1 => writeBack_keeps h1))

theorem l2Miss_keeps {d line key : Nat} {fbc pref : Bool} {merged : List (Nat × Byte)} {s : State} (h : Keeps z s) :
    Keeps z (l2Miss d line key fbc pref merged s) := by
  unfold l2Miss
  dsimp only
  exact State.onMem_keeps (State.setL2_keeps (l2Victim_keeps h)) (fun _ => ⟨rfl, rfl⟩)

theorem l2Prefetch_keeps {d line : Nat} {a : Attr} {s : State} (h : Keeps z s) : Keeps z (l2Prefetch d line a s) := by
  unfold l2Prefetch
  dsimp only
  split
  · exact l2Miss_keeps (wcFlushIf_keeps h)
  · exact h

theorem l2ReadLine_keeps {d line : Nat} {a : Attr} {s : State} (h : Keeps z s) : Keeps z (l2ReadLine d line a s).2 := by
  unfold l2ReadLine
  extract_lets u v x below
  have hs : Keeps z v := l2OtherKey_keeps (wcFlushIf_keeps h)
  clear_value v
  split
  · exact hs
  · split
    · exact hs
    · split
      · exact l2Prefetch_keeps (l2Miss_keeps hs)
      · exact hs

theorem l2Merge_keeps {d line : Nat} {wb : Bool} {w : List (Nat × Byte)} {s : State} (h : Keeps z s) :
    Keeps z (l2Merge d line wb w s) :=
  State.setL2_keeps h

theorem wcWrite_keeps {d line key off : Nat} {bs : List Byte} {s : State} (h : Keeps z s) :
    Keeps z (wcWrite d line key off bs s) := by
  unfold wcWrite
  dsimp only
  refine wcFlushIf_keeps ?_
  split
  · exact State.setL2_keeps (wcFlushIf_keeps h)
  refine State.setL2_keeps ?_
  split
  · split
    · exact wcFlush_keeps (wcFlushIf_keeps h)
    · exact wcFlushIf_keeps h
  · exact wcFlushIf_keeps h

theorem l2WriteLine_keeps {d line off : Nat} {bs : List Byte} {a : Attr} {s : State} (h : Keeps z s) :
    Keeps z (l2WriteLine d line off bs a s) := by
  unfold l2WriteLine
  dsimp only
  split
  · split
    · refine State.setL2_keeps ?_
      refine l2OtherKey_keeps ?_
      split
      · exact h
      · exact wcFlushIf_keeps h
    refine lineOut_keeps ?_
    refine State.setL2_keeps ?_
    refine l2OtherKey_keeps ?_
    split
    · exact h
    · exact wcFlushIf_keeps h
  split
  · split
    · split
      · exact l2Merge_keeps (l2OtherKey_keeps h)
      split
      · exact l2Insert_keeps (l2OtherKey_keeps h)
      · exact l2Miss_keeps (l2OtherKey_keeps h)
    split
    · exact l2Merge_keeps (l2OtherKey_keeps (wcFlushIf_keeps h))
    split
    · exact l2Insert_keeps (l2OtherKey_keeps (wcFlushIf_keeps h))
    · exact l2Miss_keeps (l2OtherKey_keeps (wcFlushIf_keeps h))
  split
  · split
    · exact wcWrite_keeps (l2OtherKey_keeps h)
    · exact lineOut_keeps (l2Merge_keeps (l2OtherKey_keeps h))
  split
  · exact wcWrite_keeps (l2OtherKey_keeps (wcFlushIf_keeps h))
  · exact lineOut_keeps (l2Merge_keeps (l2OtherKey_keeps (wcFlushIf_keeps h)))

theorem l2Empty_keeps {s : State} (h : Keeps z s) : Keeps z (l2Empty s) := by
  unfold l2Empty
  dsimp only
  refine foldl_keeps (wcFlushAll_keeps h) (fun _ _ h1 => ?_)
  refine State.setL2_keeps ?_
  refine foldl_keeps (foldl_keeps h1 (fun _ _ h2 => l2Fill_keeps h2)) (fun _ _ h3 => ?_)
  split
  · exact writeBack_keeps h3
  · exact h3

theorem l2Pass_keeps {s : State} (h : Keeps z s) : Keeps z (l2Pass s) := by
  unfold l2Pass
  split
  · exact l2Empty_keeps h
  · exact h

theorem paReadPart_keeps {ctx : Nat} {a : Attr} {pa n : Nat} {s : State} (h : Keeps z s) :
    Acc.keeps z (paReadPart ctx a pa n s) := by
  unfold paReadPart
  dsimp only
  split
  · exact h
  · split
    · exact trivial
    · exact trivial
    · exact l2Pass_keeps (l2ReadLine_keeps (wakeChannel_keeps h))
  · split
    · exact trivial
    split
    · exact h
    · exact l2Pass_keeps (l2ReadLine_keeps h)
  · split
    · exact h
    · exact trivial
    · exact trivial
    · split <;> exact h
  split
  · exact h
  · exact trivial
  · exact trivial
  · split <;> exact h

theorem paWritePart_keeps {ctx : Nat} {a : Attr} {pa : Nat} {bs : List Byte} {s : State} (h : Keeps z s) :
    Acc.keeps z (paWritePart ctx a pa bs s) := by
  unfold paWritePart
  dsimp only
  split
  · exact h
  · split
    · exact trivial
    · exact trivial
    · exact l2Pass_keeps (l2WriteLine_keeps (wakeChannel_keeps h))
  · split
    · exact trivial
    · exact l2Pass_keeps (l2WriteLine_keeps h)
  · split
    · exact h
    · exact trivial
    · exact trivial
    split
    · exact h
    · exact State.onMem_keeps (cellsSet_keeps h) (fun _ => ⟨rfl, rfl⟩)
  split
  · exact h
  · exact trivial
  · exact trivial
  split
  · exact h
  · exact State.onMem_keeps (cellsSet_keeps h) (fun _ => ⟨rfl, rfl⟩)

theorem paRead_keeps {ctx : Nat} {a : Attr} {pa n : Nat} {s : State} (h : Keeps z s) :
    Acc.keeps z (paRead ctx a pa n s) := by
  unfold paRead
  refine foldl_inv h fun r p hr => ?_
  cases r with
  | ok bs u =>
    dsimp only
    split
    · exact (paReadPart_keeps hr).ok ‹_›
    · exact (paReadPart_keeps hr).fault ‹_›
    · trivial
    · trivial
  | _ => exact hr

theorem paWrite_keeps {ctx : Nat} {a : Attr} {pa : Nat} {bs : List Byte} {s : State} (h : Keeps z s) :
    Acc.keeps z (paWrite ctx a pa bs s) := by
  unfold paWrite
  refine foldl_inv h fun r p hr => ?_
  cases r with
  | ok _ u =>
    dsimp only
    split
    · exact (paWritePart_keeps hr).ok ‹_›
    · exact (paWritePart_keeps hr).fault ‹_›
    · trivial
    · trivial
  | _ => exact hr

theorem Acc.dev_keeps {α : Type} {x : Acc α} (h : Acc.keeps z x) : Dev.keeps z x.dev := by
  unfold Acc.dev
  split
  · exact h
  · exact trivial
  · exact trivial

theorem devRead_keeps {pa n : Nat} {s : State} (h : Keeps z s) : Dev.keeps z (devRead pa n s) := by
  unfold devRead
  split
  · exact trivial
  · exact Acc.dev_keeps (paRead_keeps h)

theorem devWriteNow_keeps {pa : Nat} {bs : List Byte} {s : State} (h : Keeps z s) :
    Dev.keepsState z (devWriteNow pa bs s) := by
  unfold devWriteNow
  split
  · exact trivial
  split
  · exact (Acc.dev_keeps (paWrite_keeps h)).done ‹_›
  · exact trivial
  · exact trivial

theorem devWrite_keeps {pa : Nat} {bs : List Byte} {s : State} (h : Keeps z s) : keepsOpt z (devWrite pa bs s) := by
  unfold devWrite
  split
  · exact (devWriteNow_keeps h).done ‹_›
  · exact trivial
  · exact State.onMem_keeps h (fun _ => ⟨rfl, rfl⟩)

theorem retryPosted_keeps {s : State} (h : Keeps z s) : Keeps z (retryPosted s) :=
  foldl_keeps (State.onMem_keeps h (fun _ => ⟨rfl, rfl⟩)) (fun _ _ h1 => getD_keeps (devWrite_keeps h1) h1)

end Sys2Proof.Machine
end

section
/-! The queue and the canonical form are kept: Machine/Errors.lean. -/

namespace Sys2Proof.Machine

open Sys2Proof

variable {z : State}

theorem criticalEvent_keeps {s : State} (h : Keeps z s) : Keeps z (criticalEvent s) :=
  startExit_keeps (raiseCritical_keeps h)

theorem State.onEntry_keeps {ring seq : Nat} {f : Entry → Entry} {s : State} (h : Keeps z s) :
    Keeps z (State.onEntry ring seq f s) :=
  State.onFe_keeps h

theorem State.onOp_keeps {o : OpRef} {f : Op → Op} {s : State} (h : Keeps z s) : Keeps z (State.onOp o f s) :=
  State.onEntry_keeps h

theorem endOp_keeps {o : OpRef} {status detail sticky : Nat} {s : State} (h : Keeps z s) :
    Keeps z (endOp o status detail sticky s) :=
  State.onEntry_keeps h

theorem faultOp_keeps {o : OpRef} {c : FaultCode} {s : State} (h : Keeps z s) : Keeps z (faultOp o c s) := endOp_keeps h

theorem shdSweep_keeps {s : State} (h : Keeps z s) : Keeps z (shdSweep s) := by
  unfold shdSweep
  dsimp only
  exact State.onShd_keeps h

theorem opEnding_keeps {o : OpRef} {status detail master : Nat} {s : State} (h : Keeps z s) :
    Keeps z (opEnding o status detail master s) :=
  State.onOp_keeps h

theorem tensorLose_keeps {m status : Nat} {r : TensorRun} {s : State} (h : Keeps z s) :
    Keeps z (tensorLose m status r s) := by
  unfold tensorLose
  dsimp only
  split
  · exact opEnding_keeps (State.onTns_keeps h)
  · exact State.onOp_keeps (State.onTns_keeps h)

theorem passFail_keeps {o : OpRef} {status detail : Nat} {s : State} (h : Keeps z s) :
    Keeps z (passFail o status detail s) := by
  unfold passFail
  dsimp only
  split
  · split
    · split
      · exact opEnding_keeps (shdSweep_keeps (State.onShd_keeps (State.onRnd_keeps h)))
      · exact shdSweep_keeps (State.onShd_keeps (State.onRnd_keeps h))
    · exact shdSweep_keeps (State.onShd_keeps (State.onRnd_keeps h))
  · exact shdSweep_keeps (State.onShd_keeps (State.onRnd_keeps h))

theorem passLose_keeps {m status : Nat} {o : OpRef} {s : State} (h : Keeps z s) : Keeps z (passLose m status o s) :=
  passFail_keeps (State.onOp_keeps (State.onShd_keeps (State.onRnd_keeps h)))

theorem endOpsOn_keeps {m status : Nat} {s : State} (h : Keeps z s) : Keeps z (endOpsOn m status s) :=
  shdSweep_keeps (foldl_keeps (foldl_keeps (foldl_keeps h (fun _ _ h1 => tensorLose_keeps h1)) (fun _ _ h2 =>
      passLose_keeps h2)) (fun _ _ h3 => State.onEntry_keeps h3))

theorem failEntry_keeps {ring seq status opIndex detail : Nat} {s : State} (h : Keeps z s) :
    Keeps z (failEntry ring seq status opIndex detail s) :=
  State.onEntry_keeps h

theorem logWrite_keeps {code cls src ctx info0 info1 : Nat} {critical : Bool} {s : State} (h : Keeps z s) :
    Keeps z (logWrite code cls src ctx info0 info1 critical s) := by
  unfold logWrite
  dsimp only
  split
  · split
    · refine criticalEvent_keeps ?_
      split
      · exact raiseVec_keeps (State.onErr_keeps h)
      · exact State.onErr_keeps h
    split
    · exact raiseVec_keeps (State.onErr_keeps h)
    · exact State.onErr_keeps h
  split
  · exact criticalEvent_keeps (State.onErr_keeps h)
  · exact State.onErr_keeps h

end Sys2Proof.Machine
end

section
/-! The queue and the canonical form are kept: Machine/Faults.lean. -/

namespace Sys2Proof.Machine

open Sys2Proof

variable {z : State}

theorem rcbWrite_keeps {r off n v : Nat} {s : State} (h : Keeps z s) : Keeps z (rcbWrite r off n v s) :=
  getD_keeps (devWrite_keeps h) h

theorem rcbConsumer_keeps {r : Nat} {s : State} (h : Keeps z s) : Keeps z (rcbConsumer r s) := rcbWrite_keeps h

theorem ringTo_keeps {r : Nat} {st : RingState} {s : State} (h : Keeps z s) : Keeps z (ringTo r st s) :=
  rcbWrite_keeps (State.setRing_keeps h)

theorem deadEdges_keeps {r : Nat} {s : State} (h : Keeps z s) : Keeps z (deadEdges r s) := by
  unfold deadEdges
  dsimp only
  exact State.onFe_keeps h

theorem haltRing_keeps {r code : Nat} {s : State} (h : Keeps z s) : Keeps z (haltRing r code s) := by
  unfold haltRing
  dsimp only
  split
  · exact raiseVec_keeps (rcbWrite_keeps (rcbWrite_keeps (deadEdges_keeps (State.setRing_keeps h))))
  · exact rcbWrite_keeps (rcbWrite_keeps (deadEdges_keeps (State.setRing_keeps h)))

theorem sendFence_keeps {fence alloc : Nat} {what : Quad ⊕ Reason} {s : State} (h : Keeps z s) :
    Keeps z (sendFence fence alloc what s) :=
  State.onFen_keeps h

theorem unpin_keeps {ctx : Nat} {l : Launch} {s : State} (h : Keeps z s) : Keeps z (unpin ctx l s) := by
  unfold unpin
  dsimp only
  exact State.onFe_keeps h

theorem discardWaiting_keeps {n : Nat} {s : State} (h : Keeps z s) : Keeps z (discardWaiting n s) := by
  unfold discardWaiting
  dsimp only
  refine State.onFe_keeps ?_
  refine foldl_keeps h (fun _ _ h1 => ?_)
  split
  · exact unpin_keeps h1
  · exact h1

theorem stopRings_keeps {n : Nat} {s : State} (h : Keeps z s) : Keeps z (stopRings n s) := by
  unfold stopRings
  dsimp only
  refine foldl_keeps h (fun _ _ h1 => ?_)
  split
  · exact rcbConsumer_keeps (State.setRing_keeps h1)
  · exact ringTo_keeps (rcbConsumer_keeps (State.setRing_keeps h1))

theorem loseFences_keeps {n : Nat} {s : State} (h : Keeps z s) : Keeps z (loseFences n s) :=
  foldl_keeps h (fun _ _ h1 => sendFence_keeps h1)

theorem abortCtx_keeps {n : Nat} {why : Reason} {s : State} (h : Keeps z s) : Keeps z (abortCtx n why s) := by
  unfold abortCtx
  dsimp only
  split
  · exact h
  split
  · exact discardWaiting_keeps (loseFences_keeps (stopRings_keeps (State.setCtx_keeps h)))
  · exact discardWaiting_keeps (loseFences_keeps (stopRings_keeps (State.setCtx_keeps h)))
  · exact h

theorem discardOp_keeps {o : OpRef} {s : State} (h : Keeps z s) : Keeps z (discardOp o s) := by
  unfold discardOp
  dsimp only
  split
  · split
    · refine State.onFe_keeps ?_
      split
      · exact unpin_keeps (State.onOp_keeps h)
      · exact State.onOp_keeps h
    · exact State.onOp_keeps h
  · exact State.onOp_keeps h

theorem storePinRec_keeps {m : Nat} {p : PinRec} {s : State} (h : Keeps z s) : Keeps z (storePinRec m p s) := by
  unfold storePinRec
  split <;> exact State.onSec_keeps h

theorem planStop_keeps {d : Nat} {st : PlanState} {why : Reason} {s : State} (h : Keeps z s) :
    Keeps z (planStop d st why s) :=
  sendFence_keeps (State.setPlan_keeps h)

theorem pinPlan_keeps {m : Nat} {s : State} (h : Keeps z s) : Keeps z (pinPlan m s) := by
  unfold pinPlan
  split
  · exact planStop_keeps h
  · exact h

theorem pinUnit_keeps {m : Nat} {s : State} (h : Keeps z s) : Keeps z (pinUnit m s) := pinPlan_keeps h

theorem freezeMaster_keeps {m : Nat} {p : PinRec} {s : State} (h : Keeps z s) : Keeps z (freezeMaster m p s) :=
  logWrite_keeps (storePinRec_keeps (pinUnit_keeps (endOpsOn_keeps (State.onSec_keeps h))))

theorem noteMaster_keeps {m : Nat} {p : PinRec} {s : State} (h : Keeps z s) : Keeps z (noteMaster m p s) := by
  unfold noteMaster
  dsimp only
  split
  · exact logWrite_keeps (storePinRec_keeps (State.onSec_keeps h))
  · exact freezeMaster_keeps (logWrite_keeps (storePinRec_keeps (State.onSec_keeps h)))

theorem pinMaster_keeps {m cause ctx key addr : Nat} {s : State} (h : Keeps z s) :
    Keeps z (pinMaster m cause ctx key addr s) := by
  unfold pinMaster
  dsimp only
  split
  · split
    · exact storePinRec_keeps h
    · exact h
  split
  · exact noteMaster_keeps h
  · exact freezeMaster_keeps h

theorem logError_keeps {code src ctx info0 info1 : Nat} {critical : Bool} {s : State} (h : Keeps z s) :
    Keeps z (logError code src ctx info0 info1 critical s) := by
  unfold logError
  dsimp only
  split
  · exact logWrite_keeps h
  split
  · exact pinMaster_keeps (logWrite_keeps h)
  split
  · exact abortCtx_keeps (logWrite_keeps h)
  · exact criticalEvent_keeps (State.onErr_keeps (logWrite_keeps h))

theorem metaLog_keeps {s : State} (h : Keeps z s) : Keeps z (metaLog s) :=
  foldl_keeps (State.onMem_keeps h (fun _ => ⟨rfl, rfl⟩)) (fun _ _ h1 => logError_keeps h1)

/-- What a queue of the device keeps of the state that it leaves. -/
def keepsPut (z : State) : Option (QueueCnt × Bool × State) → Prop
  | some x => Keeps z x.2.2
  | none => True

theorem keepsPut.some {r : Option (QueueCnt × Bool × State)} {q : QueueCnt} {b : Bool} {t : State} (h : keepsPut z r)
    (e : r = .some (q, b, t)) : Keeps z t := by subst e; exact h

theorem queuePut_keeps {base log2 recBytes : Nat} {c : QueueCnt} {rec : List Byte} {s : State} (h : Keeps z s) :
    keepsPut z (queuePut base log2 recBytes c rec s) := by
  have hw : ∀ {u : State} {pa : Nat} {bs : List Byte}, Keeps z u → Keeps z ((devWrite pa bs u).getD u) :=
    fun hu => getD_keeps (devWrite_keeps hu) hu
  unfold queuePut
  dsimp only
  split
  · trivial
  · exact hw (hw h)
  · have hu := (devRead_keeps h).done ‹_›
    split
    · exact hw (hw hu)
    · split
      · exact hw (hw hu)
      · have hv := (devWrite_keeps hu).some ‹_›
        exact hw (hw hv)

theorem isolationError_keeps {src ctx cause pa : Nat} {s : State} (h : Keeps z s) :
    Keeps z (isolationError src ctx cause pa s) :=
  logError_keeps h

theorem noteViolation_keeps {src ctx pa n : Nat} {s : State} (h : Keeps z s) : Keeps z (noteViolation src ctx pa n s) := by
  unfold noteViolation
  split
  · exact isolationError_keeps h
  · exact h

theorem noteQueue_keeps {src ctx : Nat} {at' : Option (Nat × Nat)} {s : State} (h : Keeps z s) :
    Keeps z (noteQueue src ctx at' s) := by
  unfold noteQueue
  split
  · exact noteViolation_keeps h
  · exact h

theorem keepRecord_keeps {r : QueueRec} {s : State} (h : Keeps z s) : Keeps z (keepRecord r s) :=
  State.onMem_keeps h (fun _ => ⟨rfl, rfl⟩)

theorem faultPut_keeps {n : Nat} {rec : List Byte} {s : State} (h : Keeps z s) : Keeps z (faultPut n rec s) := by
  unfold faultPut
  dsimp only
  split
  · exact h
  · split
    · exact keepRecord_keeps h
    · split
      · exact keepRecord_keeps h
      · split
        · split
          · exact raiseVec_keeps (noteQueue_keeps (State.setCtx_keeps ((queuePut_keeps h).some ‹_›)))
          · exact noteQueue_keeps (State.setCtx_keeps ((queuePut_keeps h).some ‹_›))
        · exact noteQueue_keeps (State.setCtx_keeps ((queuePut_keeps h).some ‹_›))

theorem faultRecord_keeps {f : FaultInfo} {s : State} (h : Keeps z s) : Keeps z (faultRecord f s) := faultPut_keeps h

theorem takeFault_keeps {f : FaultInfo} {key : Nat} {s : State} (h : Keeps z s) : Keeps z (takeFault f key s) := by
  unfold takeFault
  dsimp only
  split
  · exact pinMaster_keeps (faultRecord_keeps h)
  · exact faultRecord_keeps h

end Sys2Proof.Machine
end

section
/-! The queue and the canonical form are kept: Machine/FenceOps.lean. -/

namespace Sys2Proof.Machine

open Sys2Proof

variable {z : State}

theorem releaseWaits_keeps {s : State} (h : Keeps z s) : Keeps z (releaseWaits s) := by
  unfold releaseWaits
  exact h.same rfl rfl rfl rfl

theorem fireSlots_keeps {k : Nat} {s : State} (h : Keeps z s) : Keeps z (fireSlots k s) := by
  unfold fireSlots
  dsimp only
  refine foldl_keeps h (fun _ _ h1 => ?_)
  split
  · split
    · exact (devWrite_keeps (State.setFence_keeps h1)).some ‹_›
    · exact isolationError_keeps (State.setFence_keeps h1)
  · exact h1

theorem State.setEvq_keeps {fn : Nat} {q : QueueCnt} {s : State} (h : Keeps z s) : Keeps z (State.setEvq fn q s) :=
  State.onFen_keeps h

theorem eventPut_keeps {fn owner : Nat} {rec : List Byte} {s : State} (h : Keeps z s) :
    Keeps z (eventPut fn owner rec s) := by
  unfold eventPut
  dsimp only
  split
  · exact keepRecord_keeps h
  · split
    · exact keepRecord_keeps h
    · split
      · split
        · exact raiseVec_keeps (noteQueue_keeps (State.setEvq_keeps ((queuePut_keeps h).some ‹_›)))
        · exact noteQueue_keeps (State.setEvq_keeps ((queuePut_keeps h).some ‹_›))
      · exact noteQueue_keeps (State.setEvq_keeps ((queuePut_keeps h).some ‹_›))

theorem retryWaiting_keeps {s : State} (h : Keeps z s) : Keeps z (retryWaiting s) := by
  unfold retryWaiting
  dsimp only
  refine foldl_keeps (State.onMem_keeps (retryPosted_keeps h) (fun _ => ⟨rfl, rfl⟩)) (fun _ _ h1 => ?_)
  split
  · exact eventPut_keeps h1
  · exact faultPut_keeps h1

theorem fenceEvent_keeps {k type : Nat} {s : State} (h : Keeps z s) : Keeps z (fenceEvent k type s) := by
  unfold fenceEvent
  dsimp only
  split
  · exact eventPut_keeps (State.setFence_keeps h)
  · exact State.setEvq_keeps (State.setFence_keeps h)

theorem valueEvent_keeps {k : Nat} {s : State} (h : Keeps z s) : Keeps z (valueEvent k s) := by
  unfold valueEvent
  dsimp only
  split
  · split
    · split
      · exact State.setFence_keeps h
      · exact fenceEvent_keeps h
    · exact fenceEvent_keeps h
  · exact h

theorem errorEvent_keeps {k : Nat} {s : State} (h : Keeps z s) : Keeps z (errorEvent k s) := by
  unfold errorEvent
  split
  · exact fenceEvent_keeps h
  · exact h

theorem fenceSignal_keeps {k : Nat} {v : Quad} {s : State} (h : Keeps z s) : Keeps z (fenceSignal k v s) := by
  unfold fenceSignal
  dsimp only
  split
  · exact valueEvent_keeps (fireSlots_keeps (releaseWaits_keeps (State.setFence_keeps h)))
  · exact State.setFence_keeps h

theorem fenceError_keeps {k : Nat} {why : Reason} {s : State} (h : Keeps z s) : Keeps z (fenceError k why s) := by
  unfold fenceError
  dsimp only
  split
  · exact errorEvent_keeps (fireSlots_keeps (releaseWaits_keeps (State.setFence_keeps h)))
  · exact h

theorem applyMsg_keeps {m : FenceMsg} {s : State} (h : Keeps z s) : Keeps z (applyMsg m s) := by
  unfold applyMsg
  dsimp only
  split
  · exact h
  split
  · split
    · exact State.setFence_keeps h
    · exact fenceSignal_keeps h
  split
  · exact h
  · exact fenceError_keeps h

theorem drainFence_keeps {k : Nat} {s : State} (h : Keeps z s) : Keeps z (drainFence k s) :=
  foldl_keeps (State.onFen_keeps h) (fun _ _ h1 => applyMsg_keeps h1)

theorem scanFence_keeps {k : Nat} {s : State} (h : Keeps z s) : Keeps z (scanFence k s) := by
  unfold scanFence
  dsimp only
  split
  · exact fenceError_keeps (drainFence_keeps h)
  · exact drainFence_keeps h

theorem freeFence_keeps {k : Nat} {s : State} (h : Keeps z s) : Keeps z (freeFence k s) := by
  unfold freeFence
  dsimp only
  split
  · exact releaseWaits_keeps (State.setFence_keeps (fenceError_keeps h))
  · exact State.setFence_keeps (fenceError_keeps h)

theorem dropImport_keeps {k : Nat} {i : FenceImport} {s : State} (h : Keeps z s) : Keeps z (dropImport k i s) := by
  unfold dropImport
  dsimp only
  split
  · exact releaseWaits_keeps (State.setFence_keeps h)
  · exact State.setFence_keeps h

theorem fenResult_keeps {fn res : Nat} {s : State} (h : Keeps z s) : Keeps z (fenResult fn res s) := State.onFen_keeps h

theorem fenCommand_keeps {fn : Nat} {f : Nat → State → Nat × State} {s : State} (hf : ∀ (a : Nat) (a_1 : State), Keeps z
    a_1 → Keeps z (f a a_1).2) (h : Keeps z s) : Keeps z (fenCommand fn f s) := by
  unfold fenCommand
  dsimp only
  split
  · exact fenResult_keeps h
  · exact fenResult_keeps (hf _ _ (drainFence_keeps h))

theorem fenDoAlloc_keeps {fn k : Nat} {s : State} (h : Keeps z s) : Keeps z (fenDoAlloc fn k s).2 := by
  unfold fenDoAlloc
  dsimp only
  split
  · exact h
  split
  · exact h
  dsimp only
  exact State.onFen_keeps (State.setFence_keeps h)

theorem fenDoFree_keeps {k : Nat} {s : State} (h : Keeps z s) : Keeps z (fenDoFree k s).2 := by
  unfold fenDoFree
  split
  · exact freeFence_keeps h
  · exact freeFence_keeps h
  · exact h

theorem fenDoRead_keeps {fn k : Nat} {s : State} (h : Keeps z s) : Keeps z (fenDoRead fn k s).2 := by
  unfold fenDoRead
  dsimp only
  split
  · exact h
  · exact State.setRaw_keeps (State.setRaw_keeps h)

theorem fenDoSetError_keeps {fn k : Nat} {s : State} (h : Keeps z s) : Keeps z (fenDoSetError fn k s).2 := by
  unfold fenDoSetError
  split
  · exact h
  split
  · exact h
  · exact fenceError_keeps h

theorem fenDoImport_keeps {fn k : Nat} {s : State} (h : Keeps z s) : Keeps z (fenDoImport fn k s).2 := by
  unfold fenDoImport
  dsimp only
  split
  · exact h
  split
  · exact h
  split
  · split
    · exact h
    · exact State.setFence_keeps h
  · split
    · exact h
    · exact State.setFence_keeps h
  · exact h

theorem fenDoUnimport_keeps {fn k : Nat} {s : State} (h : Keeps z s) : Keeps z (fenDoUnimport fn k s).2 := by
  unfold fenDoUnimport
  dsimp only
  split
  · exact h
  split
  · exact h
  split
  · exact h
  · exact dropImport_keeps h

theorem retireFences_keeps {n : Nat} {s : State} (h : Keeps z s) : Keeps z (retireFences n s) := by
  unfold retireFences
  dsimp only
  refine foldl_keeps (foldl_keeps h (fun _ _ h1 => foldl_keeps h1 (fun _ _ h2 => dropImport_keeps h2))) (fun _ _ h3 => ?_)
  split
  · exact freeFence_keeps h3
  · exact h3

theorem settleFences_keeps {n : Nat} {s : State} (h : Keeps z s) : Keeps z (settleFences n s) :=
  foldl_keeps h (fun _ _ h1 => drainFence_keeps h1)

end Sys2Proof.Machine
end

section
/-! The queue and the canonical form are kept: Machine/Translate.lean. -/

namespace Sys2Proof.Machine

open Sys2Proof

variable {z : State}

theorem installU_keeps {m : Nat} {t : TlbEntry} {s : State} (h : Keeps z s) : Keeps z (installU m t s) := State.onMmu_keeps h
theorem installD_keeps {d : Nat} {t : TlbEntry} {s : State} (h : Keeps z s) : Keeps z (installD d t s) := State.onMmu_keeps h

theorem tlbDiscard_keeps {p : TlbEntry → Bool} {s : State} (h : Keeps z s) : Keeps z (tlbDiscard p s) := by
  unfold tlbDiscard
  dsimp only
  exact State.onMmu_keeps h

theorem Res.state_keeps {α : Type} {x : Res α} (h : Res.keeps z x) : Keeps z x.state := by
  unfold Res.state
  split <;> exact h

theorem walkRead_keeps {ctx level pa n : Nat} {s : State} (h : Keeps z s) : Res.keeps z (walkRead ctx level pa n s) := by
  unfold walkRead
  dsimp only
  split
  · exact isolationError_keeps h
  split
  · exact (paRead_keeps h).ok ‹_›
  · exact isolationError_keeps ((paRead_keeps h).fault ‹_›)
  · exact (paRead_keeps h).fault ‹_›
  · exact (paRead_keeps h).fault ‹_›
  · exact h
  · exact h

theorem walkAt_keeps {ctx va x x1 : Nat} {s : State} (h : Keeps z s) : Res.keeps z (walkAt ctx va x x1 s) := by
  induction x generalizing ctx va x1 s with
  | zero =>
    unfold walkAt
    exact h
  | succ x' ih =>
    unfold walkAt
    dsimp only
    split
    · exact (walkRead_keeps h).fault ‹_›
    · exact (walkRead_keeps h).severed ‹_›
    · exact (walkRead_keeps h).wait ‹_›
    rename_i heq
    have h1 := (walkRead_keeps h).ok heq
    split
    · split
      · exact (walkRead_keeps h1).fault ‹_›
      · exact (walkRead_keeps h1).severed ‹_›
      · exact (walkRead_keeps h1).wait ‹_›
      rename_i heq
      have h2 := (walkRead_keeps h1).ok heq
      split
      · exact h2
      · split <;> exact h2
    split
    · exact h1
    split
    · split <;> exact h1
    split
    · exact h1
    split
    · exact ih h1
    · exact h1

theorem walkVa_keeps {ctx va : Nat} {s : State} (h : Keeps z s) : Res.keeps z (walkVa ctx va s) := by
  unfold walkVa
  split
  · exact h
  split
  · exact h
  split
  · exact walkAt_keeps h
  · exact h

theorem xlate_keeps {m ctx va : Nat} {acc : Access} {s : State} (h : Keeps z s) : Res.keeps z (xlate m ctx va acc s) := by
  unfold xlate
  dsimp only
  split
  · exact h
  split
  · split <;> exact installU_keeps h
  split
  · exact h
  split
  · rename_i heq
    have h1 := (walkVa_keeps h).ok heq
    split
    · split
      · refine installD_keeps ?_
        split
        · exact h1
        · exact installU_keeps h1
      split
      · exact h1
      · exact installU_keeps h1
    split
    · refine installD_keeps ?_
      split
      · exact h1
      · exact installU_keeps h1
    split
    · exact h1
    · exact installU_keeps h1
  · exact walkVa_keeps h

theorem vaRead_keeps {m ctx va n : Nat} {acc : Access} {s : State} (h : Keeps z s) :
    Res.keeps z (vaRead m ctx va n acc s) := by
  unfold vaRead
  refine foldl_inv h fun r p hr => ?_
  cases r with
  | ok bs u =>
    dsimp only
    split
    · have hx := (xlate_keeps hr).ok ‹_›
      split
      · exact (paRead_keeps hx).ok ‹_›
      · exact (paRead_keeps hx).fault ‹_›
      · exact hx
      · exact hx
    · exact (xlate_keeps hr).fault ‹_›
    · exact (xlate_keeps hr).severed ‹_›
    · exact (xlate_keeps hr).wait ‹_›
  | _ => exact hr

theorem vaWrite_keeps {m ctx va : Nat} {bs : List Byte} {s : State} (h : Keeps z s) :
    Res.keeps z (vaWrite m ctx va bs s) := by
  unfold vaWrite
  refine foldl_inv h fun r p hr => ?_
  cases r with
  | ok _ u =>
    dsimp only
    split
    · have hx := (xlate_keeps hr).ok ‹_›
      split
      · exact (paWrite_keeps hx).ok ‹_›
      · exact (paWrite_keeps hx).fault ‹_›
      · exact hx
      · exact hx
    · exact (xlate_keeps hr).fault ‹_›
    · exact (xlate_keeps hr).severed ‹_›
    · exact (xlate_keeps hr).wait ‹_›
  | _ => exact hr

theorem masterFault_keeps {f : Flt} {m ctx va : Nat} {acc : Access} {ring seq : Nat} {s : State} (h : Keeps z s) :
    Keeps z (masterFault f m ctx va acc ring seq s) := by
  unfold masterFault
  split
  · exact pinMaster_keeps h
  · exact takeFault_keeps h

theorem opFault_keeps {f : Flt} {o : OpRef} {m va : Nat} {acc : Access} {s : State} (h : Keeps z s) :
    Keeps z (opFault f o m va acc s) := by
  unfold opFault
  dsimp only
  split
  · exact endOp_keeps (masterFault_keeps h)
  · exact faultOp_keeps (masterFault_keeps h)

theorem feFault_keeps {f : Flt} {ctx : Nat} {s : State} (h : Keeps z s) : Keeps z (feFault f ctx s).2 := by
  unfold feFault
  split
  · exact isolationError_keeps h
  split
  · exact isolationError_keeps h
  · exact h

end Sys2Proof.Machine
end

section
/-! The queue and the canonical form are kept: Machine/Regs.lean. -/

namespace Sys2Proof.Machine

open Sys2Proof

variable {z : State}

theorem holdWrite_keeps {fn off v : Nat} {s : State} (h : Keeps z s) : Keeps z (holdWrite fn off v s) :=
  State.onReg_keeps h (fun _ => rfl)

theorem hostWrite_keeps {fn off v : Nat} {f : State → State} {s : State} (hf : ∀ (a : State), Keeps z a → Keeps z (f a))
    (h : Keeps z s) : Keeps z (hostWrite fn off v f s) := by
  unfold hostWrite
  split
  · exact startExit_keeps (holdWrite_keeps h)
  · refine hf _ ?_
    split
    · exact startExit_keeps h
    · exact h
  · split
    · exact startExit_keeps (holdWrite_keeps h)
    · exact hf _ h
  · split
    · exact holdWrite_keeps h
    · exact hf _ h
  · exact hf _ h

theorem setUnlock_keeps {b : BlockId} {agent t : Nat} {s : State} (h : Keeps z s) : Keeps z (setUnlock b agent t s) :=
  State.onReg_keeps h (fun _ => rfl)

theorem setDenied_keeps {b : BlockId} {agent v : Nat} {s : State} (h : Keeps z s) : Keeps z (setDenied b agent v s) :=
  State.onReg_keeps h (fun _ => rfl)

theorem blkKeyDo_keeps {b : BlockId} {agent : Nat} {v : Word} {s : State} (h : Keeps z s) :
    Keeps z (blkKeyDo b agent v s) := by
  unfold blkKeyDo
  split
  · exact h
  split
  · exact setDenied_keeps (setUnlock_keeps h)
  · exact setUnlock_keeps h

theorem storeWr_keeps {w : RegWr} {cmd : Word} {s : State} (h : Keeps z s) : Keeps z (storeWr w cmd s) :=
  State.setRaw_keeps h

theorem clearWr_keeps {w : RegWr} {s : State} (h : Keeps z s) : Keeps z (clearWr w s) := State.setRaw_keeps h

theorem refuseWr_keeps {w : RegWr} {refused : Word} {s : State} (h : Keeps z s) : Keeps z (refuseWr w refused s) :=
  State.setRaw_keeps h

theorem stage_keeps {agent off : Nat} {val : Word} {s : State} (h : Keeps z s) : Staged.keeps z (stage agent off val s) := by
  unfold stage
  dsimp only
  split
  · exact h
  split
  · exact h
  split
  · exact h
  split
  · exact h
  split
  · exact h
  split
  · split
    · exact h
    split
    · exact setDenied_keeps h
    split
    · refine State.onReg_keeps ?_ (fun _ => rfl)
      refine clearWr_keeps ?_
      split
      · exact setUnlock_keeps h
      · exact h
    refine State.onReg_keeps ?_ (fun _ => rfl)
    refine refuseWr_keeps ?_
    split
    · exact setUnlock_keeps h
    · exact h
  split
  · split
    · exact setUnlock_keeps h
    · exact setDenied_keeps h
  · exact h

theorem msixWrite_keeps {fn off : Nat} {val : Word} {s : State} (h : Keeps z s) : Keeps z (msixWrite fn off val s) := by
  unfold msixWrite
  dsimp only
  split
  · exact deliver_keeps (State.setRaw_keeps h)
  · exact State.setRaw_keeps h

end Sys2Proof.Machine
end

section
/-! The queue and the canonical form are kept: Machine/Contexts.lean. -/

namespace Sys2Proof.Machine

open Sys2Proof

variable {z : State}

theorem fnCtxEffect_keeps {f : Nat} {w : RegWr} {s : State} (h : Keeps z s) : Keeps z (fnCtxEffect f w s) := by
  unfold fnCtxEffect
  dsimp only
  split
  · exact clearWr_keeps h
  split
  · exact refuseWr_keeps h
  · exact storeWr_keeps h

theorem ctxResult_keeps {fn n res : Nat} {s : State} (h : Keeps z s) : Keeps z (ctxResult fn n res s) := State.onMmu_keeps h

theorem ctxCommand_keeps {fn n op : Nat} {f : State → State} {s : State} (hf : ∀ (a : State), Keeps z a → Keeps z (f a))
    (h : Keeps z s) : Keeps z (ctxCommand fn n op f s) := by
  unfold ctxCommand
  dsimp only
  split
  · exact h
  refine hostWrite_keeps (fun _ h1 => ?_) h
  split
  · exact holdWrite_keeps h1
  split
  · exact ctxResult_keeps h1
  split
  · exact ctxResult_keeps h1
  · exact hf _ h1

theorem createDo_keeps {fn n : Nat} {s : State} (h : Keeps z s) : Keeps z (createDo fn n s) := by
  unfold createDo
  dsimp only
  split
  · exact State.setCtx_keeps h
  · exact ctxResult_keeps h

theorem readDescriptor_keeps {fn n : Nat} {s : State} (h : Keeps z s) : Keeps z (readDescriptor fn n s).2 := by
  unfold readDescriptor
  dsimp only
  split
  · exact (devRead_keeps h).done ‹_›
  · exact h
  · exact noteViolation_keeps h

theorem ctxEnd_keeps {fn n res : Nat} {s : State} (h : Keeps z s) : Keeps z (ctxEnd fn n res s) :=
  ctxResult_keeps (State.setCtx_keeps h)

theorem createDone_keeps {n : Nat} {io : HostIO} {s : State} (h : Keeps z s) : Keeps z (createDone n io s) := by
  unfold createDone
  dsimp only
  split
  · exact applyIO_keeps h
  split
  · exact applyIO_keeps h
  split
  · exact readDescriptor_keeps (applyIO_keeps h)
  · exact ctxEnd_keeps (readDescriptor_keeps (applyIO_keeps h))
  split
  · exact ctxEnd_keeps (readDescriptor_keeps (applyIO_keeps h))
  split
  · exact ctxEnd_keeps (readDescriptor_keeps (applyIO_keeps h))
  · exact ctxResult_keeps (State.setCtx_keeps (tlbDiscard_keeps (State.onMmu_keeps (readDescriptor_keeps (applyIO_keeps
        h)))))

theorem startDrain_keeps {n : Nat} {s : State} (h : Keeps z s) : Keeps z (startDrain n s) := State.onFe_keeps h

theorem destroyDo_keeps {fn n : Nat} {s : State} (h : Keeps z s) : Keeps z (destroyDo fn n s) := by
  unfold destroyDo
  dsimp only
  split
  · exact ctxResult_keeps h
  split
  · exact ctxResult_keeps (startDrain_keeps (State.setCtx_keeps h))
  · exact ctxResult_keeps (abortCtx_keeps h)

theorem abortDo_keeps {fn n : Nat} {s : State} (h : Keeps z s) : Keeps z (abortDo fn n s) := by
  unfold abortDo
  split
  · split
    · exact ctxResult_keeps h
    · exact ctxResult_keeps (abortCtx_keeps h)
  · split
    · exact ctxResult_keeps h
    · exact ctxResult_keeps (abortCtx_keeps h)
  · exact ctxResult_keeps h

theorem releaseDo_keeps {fn n : Nat} {s : State} (h : Keeps z s) : Keeps z (releaseDo fn n s) := by
  unfold releaseDo
  dsimp only
  split
  · exact ctxResult_keeps (State.setCtx_keeps h)
  · exact ctxResult_keeps h

theorem reloadDo_keeps {fn n : Nat} {s : State} (h : Keeps z s) : Keeps z (reloadDo fn n s) := by
  unfold reloadDo
  dsimp only
  split
  · exact State.setCtx_keeps h
  · exact ctxResult_keeps h

theorem reloadDone_keeps {io : HostIO} {s : State} (h : Keeps z s) : Keeps z (reloadDone io s) := by
  unfold reloadDone
  dsimp only
  split
  · exact applyIO_keeps h
  split
  · exact applyIO_keeps h
  split
  · split
    · exact ctxEnd_keeps (State.onMmu_keeps (applyIO_keeps h))
    · exact applyIO_keeps h
  split
  · exact readDescriptor_keeps (applyIO_keeps h)
  · exact ctxEnd_keeps (readDescriptor_keeps (applyIO_keeps h))
  split
  · exact ctxEnd_keeps (readDescriptor_keeps (applyIO_keeps h))
  split
  · exact ctxEnd_keeps (tlbDiscard_keeps (State.setCtx_keeps (readDescriptor_keeps (applyIO_keeps h))))
  · exact State.onMmu_keeps (tlbDiscard_keeps (State.setCtx_keeps (readDescriptor_keeps (applyIO_keeps h))))

theorem zeroCells_keeps {base n : Nat} {s : State} (h : Keeps z s) : Keeps z (zeroCells base n s) where
  pending := h.pending
  mem hz := ⟨filter_wf _ (h.mem hz).1, (h.mem hz).2⟩
  reg := h.reg

theorem clearRegion_keeps {r : Nat} {s : State} (h : Keeps z s) : Keeps z (clearRegion r s) :=
  State.onMem_keeps (zeroCells_keeps h) (fun _ => ⟨rfl, rfl⟩)

theorem l2Forget_keeps {key : Nat} {s : State} (h : Keeps z s) : Keeps z (l2Forget key s) :=
  foldl_keeps h (fun _ _ h1 => State.setL2_keeps h1)

theorem disableRings_keeps {n : Nat} {s : State} (h : Keeps z s) : Keeps z (disableRings n s) :=
  foldl_keeps h (fun _ _ h1 => ringTo_keeps (State.setRing_keeps (rcbConsumer_keeps h1)))

theorem drainEndDo_keeps {n : Nat} {s : State} (h : Keeps z s) : Keeps z (drainEndDo n s) := by
  unfold drainEndDo
  dsimp only
  split
  · exact loseFences_keeps (stopRings_keeps (State.setCtx_keeps h))
  · exact h

theorem retireDo_keeps {n : Nat} {s : State} (h : Keeps z s) : Keeps z (retireDo n s) := by
  unfold retireDo
  dsimp only
  split
  · split
    · exact raiseVec_keeps (retireFences_keeps (disableRings_keeps (State.setCtx_keeps (eachDo_keeps (l2Forget_keeps
          (tlbDiscard_keeps (State.onFe_keeps (settleFences_keeps h)))) (fun _ _ h1 => clearRegion_keeps h1)))))
    · exact retireFences_keeps (disableRings_keeps (State.setCtx_keeps (eachDo_keeps (l2Forget_keeps (tlbDiscard_keeps
          (State.onFe_keeps (settleFences_keeps h)))) (fun _ _ h2 => clearRegion_keeps h2))))
  · exact h

theorem placeEffect_keeps {w : RegWr} {s : State} (h : Keeps z s) : Keeps z (placeEffect w s) := by
  unfold placeEffect
  dsimp only
  split
  · exact refuseWr_keeps h
  split
  · exact State.onMem_keeps (clearWr_keeps h) (fun _ => ⟨rfl, rfl⟩)
  · exact clearWr_keeps h

theorem invResult_keeps {fn res : Nat} {s : State} (h : Keeps z s) : Keeps z (invResult fn res s) := State.onMmu_keeps h

theorem invGo_keeps {fn : Nat} {s : State} (h : Keeps z s) : Keeps z (invGo fn s) := by
  unfold invGo
  dsimp only
  split
  · exact invResult_keeps h
  split
  · exact invResult_keeps h
  · exact invResult_keeps (State.onMmu_keeps (tlbDiscard_keeps h))

theorem invEffect_keeps {w : RegWr} {s : State} (h : Keeps z s) : Keeps z (invEffect w s) := by
  unfold invEffect
  dsimp only
  split
  · split
    · exact holdWrite_keeps (storeWr_keeps h)
    · exact invGo_keeps (storeWr_keeps h)
  · exact storeWr_keeps h

end Sys2Proof.Machine
end

section
/-! The queue and the canonical form are kept: Machine/Rings.lean. -/

namespace Sys2Proof.Machine

open Sys2Proof

variable {z : State}

theorem fnRingEffect_keeps {f : Nat} {w : RegWr} {s : State} (h : Keeps z s) : Keeps z (fnRingEffect f w s) := by
  unfold fnRingEffect
  dsimp only
  split
  · exact clearWr_keeps h
  split
  · exact refuseWr_keeps h
  · exact storeWr_keeps h

theorem ringResult_keeps {fn res : Nat} {s : State} (h : Keeps z s) : Keeps z (ringResult fn res s) := State.onFe_keeps h

theorem ringCommand_keeps {fn op : Nat} {f : Nat → State → State} {s : State} (hf : ∀ (a : Nat) (a_1 : State), Keeps z
    a_1 → Keeps z (f a a_1)) (h : Keeps z s) : Keeps z (ringCommand fn op f s) := by
  unfold ringCommand
  dsimp only
  split
  · exact h
  refine hostWrite_keeps (fun _ h1 => ?_) h
  split
  · exact ringResult_keeps h1
  split
  · exact ringResult_keeps h1
  · exact hf _ _ h1

theorem enableDo_keeps {fn r : Nat} {s : State} (h : Keeps z s) : Keeps z (enableDo fn r s) := by
  unfold enableDo
  dsimp only
  split
  · exact ringResult_keeps h
  split
  · exact ringResult_keeps h
  split
  · exact ringResult_keeps h
  split
  · exact ringResult_keeps h
  · exact State.setRing_keeps h

theorem ringEnd_keeps {fn r res : Nat} {s : State} (h : Keeps z s) : Keeps z (ringEnd fn r res s) :=
  ringResult_keeps (State.setRing_keeps h)

theorem feReadFailed_keeps {r pa : Nat} {s : State} (h : Keeps z s) : Keeps z (feReadFailed r pa s) := by
  unfold feReadFailed
  split
  · exact isolationError_keeps h
  · exact h

theorem enableDone_keeps {r : Nat} {io : HostIO} {s : State} (h : Keeps z s) : Keeps z (enableDone r io s) := by
  unfold enableDone
  dsimp only
  split
  · split
    · exact applyIO_keeps h
    · exact ringEnd_keeps (feReadFailed_keeps (applyIO_keeps h))
    rename_i heq
    have h1 := (devRead_keeps (applyIO_keeps h)).done heq
    split
    · exact ringEnd_keeps h1
    · exact ringResult_keeps (getD_keeps (devWrite_keeps (State.setRing_keeps h1)) (State.setRing_keeps h1))
  · exact applyIO_keeps h

theorem disableDo_keeps {fn r : Nat} {s : State} (h : Keeps z s) : Keeps z (disableDo fn r s) := by
  unfold disableDo
  dsimp only
  split
  · exact ringResult_keeps h
  · exact State.setRing_keeps h

theorem disableDone_keeps {r : Nat} {s : State} (h : Keeps z s) : Keeps z (disableDone r s) := by
  unfold disableDone
  dsimp only
  split
  · exact ringResult_keeps (ringTo_keeps (State.setRing_keeps (deadEdges_keeps (rcbConsumer_keeps h))))
  · exact h

theorem setPrioDo_keeps {fn r : Nat} {s : State} (h : Keeps z s) : Keeps z (setPrioDo fn r s) := by
  unfold setPrioDo
  dsimp only
  split
  · exact ringResult_keeps h
  · exact ringResult_keeps (State.setRing_keeps (State.onFe_keeps h))

theorem newCount_keeps {r : Nat} {v : Quad} {s : State} (h : Keeps z s) : Keeps z (newCount r v s) := by
  unfold newCount
  dsimp only
  split
  · exact h
  split
  · exact haltRing_keeps h
  split
  · exact ringTo_keeps (State.setRing_keeps h)
  · exact State.setRing_keeps h

theorem nudgeDo_keeps {fn r off size : Nat} {v : Quad} {s : State} (h : Keeps z s) :
    Keeps z (nudgeDo fn r off size v s) := by
  unfold nudgeDo
  split
  · exact h
  refine hostWrite_keeps (fun _ h1 => ?_) h
  split
  · exact newCount_keeps h1
  · exact h1

theorem pollCtlEffect_keeps {w : RegWr} {s : State} (h : Keeps z s) : Keeps z (pollCtlEffect w s) := State.setRaw_keeps h

theorem pollDo_keeps {r : Nat} {s : State} (h : Keeps z s) : Keeps z (pollDo r s) := by
  unfold pollDo
  dsimp only
  split
  · exact State.setRing_keeps h
  · exact h

theorem idleCheck_keeps {r : Nat} {s : State} (h : Keeps z s) : Keeps z (idleCheck r s) :=
  State.setRing_keeps (ringTo_keeps (rcbConsumer_keeps h))

theorem doorbellDo_keeps {r : Nat} {io : HostIO} {s : State} (h : Keeps z s) : Keeps z (doorbellDo r io s) := by
  unfold doorbellDo
  dsimp only
  split
  · exact applyIO_keeps h
  split
  · exact applyIO_keeps h
  · split
    · exact State.setRing_keeps (State.setRing_keeps (applyIO_keeps h))
    · exact ringTo_keeps (rcbConsumer_keeps (State.setRing_keeps (State.setRing_keeps (applyIO_keeps h))))
  · split
    · exact State.setRing_keeps (applyIO_keeps h)
    · exact haltRing_keeps (feReadFailed_keeps (State.setRing_keeps (applyIO_keeps h)))
  · split
    · exact newCount_keeps ((devRead_keeps (State.setRing_keeps (applyIO_keeps h))).done ‹_›)
    split
    · exact ringTo_keeps (State.setRing_keeps (newCount_keeps ((devRead_keeps (State.setRing_keeps (applyIO_keeps
          h))).done ‹_›)))
    · exact ringTo_keeps (rcbConsumer_keeps (State.setRing_keeps (newCount_keeps ((devRead_keeps (State.setRing_keeps
          (applyIO_keeps h))).done ‹_›))))
  · split
    · split <;> exact ringTo_keeps (newCount_keeps ((devRead_keeps (State.setRing_keeps (applyIO_keeps h))).done ‹_›))
    · exact newCount_keeps ((devRead_keeps (State.setRing_keeps (applyIO_keeps h))).done ‹_›)
  · exact newCount_keeps ((devRead_keeps (State.setRing_keeps (applyIO_keeps h))).done ‹_›)

theorem fetchSlots_keeps {r x : Nat} {s : State} (h : Keeps z s) : Keeps z (fetchSlots r x s) := by
  induction x generalizing r s with
  | zero =>
    unfold fetchSlots
    exact h
  | succ x' ih =>
    unfold fetchSlots
    dsimp only
    split
    · exact h
    · exact haltRing_keeps (feReadFailed_keeps (rcbConsumer_keeps h))
    rename_i heq
    have h1 := (devRead_keeps h).done heq
    split
    · exact rcbWrite_keeps (State.setRing_keeps h1)
    split
    · exact haltRing_keeps (rcbConsumer_keeps h1)
    split
    · exact h1
    · exact ih (State.onFe_keeps (State.setRing_keeps h1))

theorem fetchDo_keeps {r : Nat} {io : HostIO} {s : State} (h : Keeps z s) : Keeps z (fetchDo r io s) := by
  unfold fetchDo
  dsimp only
  split
  · split
    · split
      · exact fetchSlots_keeps (applyIO_keeps h)
      split
      · split
        · exact rcbConsumer_keeps (fetchSlots_keeps (applyIO_keeps h))
        · exact idleCheck_keeps (rcbConsumer_keeps (fetchSlots_keeps (applyIO_keeps h)))
      split
      · split
        · exact ringTo_keeps (rcbConsumer_keeps (fetchSlots_keeps (applyIO_keeps h)))
        · exact idleCheck_keeps (rcbConsumer_keeps (fetchSlots_keeps (applyIO_keeps h)))
      · exact rcbConsumer_keeps (fetchSlots_keeps (applyIO_keeps h))
    · exact applyIO_keeps h
  split
  · split
    · exact fetchSlots_keeps (applyIO_keeps h)
    split
    · split
      · exact rcbConsumer_keeps (fetchSlots_keeps (applyIO_keeps h))
      · exact idleCheck_keeps (rcbConsumer_keeps (fetchSlots_keeps (applyIO_keeps h)))
    split
    · split
      · exact ringTo_keeps (rcbConsumer_keeps (fetchSlots_keeps (applyIO_keeps h)))
      · exact idleCheck_keeps (rcbConsumer_keeps (fetchSlots_keeps (applyIO_keeps h)))
    · exact rcbConsumer_keeps (fetchSlots_keeps (applyIO_keeps h))
  · exact applyIO_keeps h

theorem feRead_keeps {ctx va n : Nat} {s : State} (h : Keeps z s) : Res.keeps z (feRead ctx va n s) := vaRead_keeps h

theorem edgesDo_keeps {r seq : Nat} {io : HostIO} {s : State} (h : Keeps z s) : Keeps z (edgesDo r seq io s) := by
  unfold edgesDo
  dsimp only
  split
  · exact applyIO_keeps h
  split
  · exact applyIO_keeps h
  split
  · exact State.onEntry_keeps ((feRead_keeps (applyIO_keeps h)).ok ‹_›)
  · exact State.onEntry_keeps (feFault_keeps ((feRead_keeps (applyIO_keeps h)).fault ‹_›))
  · exact State.onEntry_keeps ((feRead_keeps (applyIO_keeps h)).severed ‹_›)
  · exact (feRead_keeps (applyIO_keeps h)).wait ‹_›

theorem frameRecords_keeps {ctx va total type x x1 x2 : Nat} {x3 : List Op} {s : State} (h : Keeps z s) :
    Keeps z (frameRecords ctx va total type x x1 x2 x3 s).2 := by
  induction x generalizing ctx va total type x1 x2 x3 s with
  | zero =>
    unfold frameRecords
    dsimp only
    exact h
  | succ x' ih =>
    unfold frameRecords
    dsimp only
    split
    · exact h
    split
    · exact feFault_keeps ((feRead_keeps h).fault ‹_›)
    · exact (feRead_keeps h).severed ‹_›
    · exact (feRead_keeps h).wait ‹_›
    rename_i heq
    have h1 := (feRead_keeps h).ok heq
    split
    · exact h1
    split
    · exact h1
    split
    · exact h1
    split
    · exact h1
    split
    · exact h1
    · exact ih h1

theorem framingDo_keeps {r seq : Nat} {io : HostIO} {s : State} (h : Keeps z s) : Keeps z (framingDo r seq io s) := by
  unfold framingDo
  dsimp only
  split
  · exact applyIO_keeps h
  split
  · exact applyIO_keeps h
  split
  · exact State.onEntry_keeps ((frameRecords_keeps (applyIO_keeps h)).snd ‹_›)
  · exact failEntry_keeps ((frameRecords_keeps (applyIO_keeps h)).snd ‹_›)
  · exact (frameRecords_keeps (applyIO_keeps h)).snd ‹_›

theorem startDo_keeps {r seq : Nat} {s : State} (h : Keeps z s) : Keeps z (startDo r seq s) := by
  unfold startDo
  dsimp only
  split
  · exact h
  split
  · exact h
  split
  · split
    · exact State.onEntry_keeps (State.onEntry_keeps h)
    · exact State.onEntry_keeps (State.onEntry_keeps h)
    · exact State.onEntry_keeps h
  · exact State.onEntry_keeps h

end Sys2Proof.Machine
end

section
/-! The queue and the canonical form are kept: Machine/EntryOps.lean. -/

namespace Sys2Proof.Machine

open Sys2Proof

variable {z : State}

theorem fenceWaitDo_keeps {o : OpRef} {s : State} (h : Keeps z s) : Keeps z (fenceWaitDo o s) := by
  unfold fenceWaitDo
  split
  · exact h
  split
  · exact h
  split
  · exact endOp_keeps h
  split
  · exact endOp_keeps h
  · exact endOp_keeps h
  split
  · exact h
  · exact State.onOp_keeps h

theorem fenceSignalOpDo_keeps {o : OpRef} {s : State} (h : Keeps z s) : Keeps z (fenceSignalOpDo o s) := by
  unfold fenceSignalOpDo
  split
  · exact h
  split
  · exact h
  split
  · exact endOp_keeps h
  · exact endOp_keeps (sendFence_keeps (wcFlushAll_keeps h))

theorem skippedSignal_keeps {e : Entry} {p : Op} {s : State} (h : Keeps z s) : keepsOpt z (skippedSignal e p s) := by
  unfold skippedSignal
  dsimp only
  split
  · split
    · rename_i heq
      have h1 := (feRead_keeps h).ok heq
      split
      · exact sendFence_keeps h1
      · exact h1
    · exact feFault_keeps ((feRead_keeps h).fault ‹_›)
    · exact (feRead_keeps h).severed ‹_›
    · exact trivial
  · exact h

theorem withOp_keeps {o : OpRef} {opcode : Nat} {f : Entry → Op → State → State} {s : State} (hf : ∀ (a : Entry)
    (a_1 : Op) (a_2 : State), Keeps z a_2 → Keeps z (f a a_1 a_2)) (h : Keeps z s) : Keeps z (withOp o opcode f s) := by
  unfold withOp
  split
  · exact h
  split
  · exact h
  split
  · exact discardOp_keeps h
  · exact hf _ _ _ h

theorem timestampDo_keeps {o : OpRef} {s : State} (h : Keeps z s) : Keeps z (timestampDo o s) := by
  unfold timestampDo
  dsimp only
  refine withOp_keeps (fun _ _ _ h1 => ?_) h
  split
  · exact endOp_keeps ((vaWrite_keeps h1).ok ‹_›)
  · exact endOp_keeps (feFault_keeps ((vaWrite_keeps h1).fault ‹_›))
  · exact endOp_keeps ((vaWrite_keeps h1).severed ‹_›)
  · exact (vaWrite_keeps h1).wait ‹_›

theorem takeChannel_keeps {o : OpRef} {chan : Nat} {s : State} (h : Keeps z s) : Keeps z (takeChannel o chan s) := by
  unfold takeChannel
  split
  · split
    · exact endOp_keeps h
    split
    · exact State.onFe_keeps (State.onOp_keeps h)
    · exact h
  · exact h

theorem dropCopy_keeps {o : OpRef} {s : State} (h : Keeps z s) : Keeps z (dropCopy o s) := State.onFe_keeps h

theorem freeBytes_keeps {x : Nat} {s : State} (h : Keeps z s) : Keeps z (freeBytes x s).2 := by
  induction x generalizing s with
  | zero =>
    unfold freeBytes
    dsimp only
    exact h
  | succ x' ih =>
    unfold freeBytes
    dsimp only
    exact ih (State.fresh_keeps h)

theorem overlapPick_keeps {gap : Nat} {orig : List Byte} {s : State} (h : Keeps z s) :
    Keeps z (overlapPick gap orig s).2 := by
  unfold overlapPick
  dsimp only
  refine foldl_snd h (fun _ _ h1 => ?_)
  split
  · exact h1
  · exact State.fresh_keeps h1

theorem overlapBytes_keeps {src dst : Nat} {orig : List Byte} {s : State} (h : Keeps z s) :
    Keeps z (overlapBytes src dst orig s).2 := by
  unfold overlapBytes
  dsimp only
  split <;> exact overlapPick_keeps h

/-- A copy under way: the state that it has come to, and the one that a wait goes back to. -/
def keepsCopy (z : State) (x : Option State × State) : Prop := keepsOpt z x.1 ∧ Keeps z x.2

theorem keepsCopy.elim {f g : State → State} (hf : ∀ t, Keeps z t → Keeps z (f t)) (hg : ∀ t, Keeps z t → Keeps z (g t)) :
    ∀ x : Option State × State, keepsCopy z x → Keeps z (match x with
      | (none, t) => f t
      | (some t, _) => g t)
  | (none, t), ht => hf t ht.2
  | (some t, _), ht => hg t ht.1

theorem keepsCopy.again {v : State} (hv : Keeps z v) :
    ∀ x : Option State × State, keepsCopy z x → keepsCopy z (match x with
      | (none, t) => (none, t)
      | (some t, _) => (some t, v))
  | (none, _), ht => ht
  | (some _, _), ht => ⟨ht.1, hv⟩

theorem copyDoneDo_keeps {o : OpRef} {io : HostIO} {s : State} (h : Keeps z s) : Keeps z (copyDoneDo o io s) := by
  have h1 := applyIO_keeps (io := io) h
  unfold copyDoneDo
  dsimp only
  split
  · exact h1
  · rename_i ch _
    split
    · exact dropCopy_keeps h1
    · rename_i e p _
      split
      · exact dropCopy_keeps h1
      · split
        · exact discardOp_keeps (dropCopy_keeps h1)
        · split
          · exact h1
          · refine keepsCopy.elim (fun t ht => ?_) (fun t ht => ?_) _ (foldl_inv ⟨h1, h1⟩ fun a c ha => ?_)
            · split
              · exact ht
              · exact dropCopy_keeps ht
            · refine dropCopy_keeps (endOp_keeps ?_)
              split
              · split
                · split
                  · exact (vaWrite_keeps (overlapBytes_keeps ht)).ok ‹_›
                  · exact Res.state_keeps (vaWrite_keeps (overlapBytes_keeps ht))
                · exact ht
              · exact ht
            · obtain ⟨r, v⟩ := a
              cases r with
              | none => exact ha
              | some w =>
                obtain ⟨hw, hv⟩ := ha
                dsimp only
                have hread : Res.keeps z (if bit (fld p.body 40 4) 0 = true then
                    Res.ok (fillBytes (fld p.body 44 4) (c.2.1 - fld p.body 24 8) c.2.2) w
                    else vaRead (dmaMaster ch) e.ctx c.1 c.2.2 Access.read w) := by
                  split
                  · exact hw
                  · exact vaRead_keeps hw
                refine keepsCopy.again hv _ ?_
                split
                · exact ⟨trivial, opFault_keeps (hread.fault ‹_›)⟩
                · exact ⟨trivial, endOp_keeps (hread.severed ‹_›)⟩
                · exact ⟨trivial, hv⟩
                · have hr := hread.ok ‹_›
                  split
                  · exact ⟨(vaWrite_keeps hr).ok ‹_›, hv⟩
                  · exact ⟨trivial, opFault_keeps ((vaWrite_keeps hr).fault ‹_›)⟩
                  · exact ⟨trivial, endOp_keeps ((vaWrite_keeps hr).severed ‹_›)⟩
                  · exact ⟨trivial, hv⟩

theorem wakeClusters_keeps {mask : Nat} {s : State} (h : Keeps z s) : Keeps z (wakeClusters mask s) := by
  unfold wakeClusters
  dsimp only
  exact State.onUnit_keeps h

theorem dispatchDo_keeps {o : OpRef} {io : HostIO} {s : State} (h : Keeps z s) : Keeps z (dispatchDo o io s) := by
  unfold dispatchDo
  dsimp only
  split
  · exact applyIO_keeps h
  split
  · exact applyIO_keeps h
  split
  · exact discardOp_keeps (applyIO_keeps h)
  split
  · exact endOp_keeps (applyIO_keeps h)
  split
  · exact endOp_keeps (feFault_keeps ((feRead_keeps (applyIO_keeps h)).fault ‹_›))
  · exact endOp_keeps ((feRead_keeps (applyIO_keeps h)).severed ‹_›)
  · exact (feRead_keeps (applyIO_keeps h)).wait ‹_›
  rename_i heq
  have h1 := (feRead_keeps (applyIO_keeps h)).ok heq
  split
  · split
    · exact endOp_keeps h1
    refine State.onOp_keeps ?_
    refine State.onEntry_keeps ?_
    split
    · exact h1
    · exact wakeClusters_keeps h1
  split
  · exact endOp_keeps h1
  refine State.onOp_keeps ?_
  refine State.onEntry_keeps ?_
  split
  · exact h1
  · exact wakeClusters_keeps h1

theorem retireVersion_keeps {v : GraphVersion} {s : State} (h : Keeps z s) : Keeps z (retireVersion v s) := by
  unfold retireVersion
  dsimp only
  split
  · split
    · exact sendFence_keeps (wcFlushAll_keeps (State.onFe_keeps h))
    · exact State.onFe_keeps h
  split
  · exact h
  · rename_i heq
    have h1 := (vaWrite_keeps h).fault heq
    split
    · exact sendFence_keeps (wcFlushAll_keeps (State.onFe_keeps (feFault_keeps h1)))
    · exact State.onFe_keeps (feFault_keeps h1)
  · rename_i heq
    have h2 := (vaWrite_keeps h).ok heq
    split
    · exact sendFence_keeps (wcFlushAll_keeps (State.onFe_keeps h2))
    · exact State.onFe_keeps h2
  rename_i heq
  have h3 := (vaWrite_keeps h).severed heq
  split
  · exact sendFence_keeps (wcFlushAll_keeps (State.onFe_keeps h3))
  · exact State.onFe_keeps h3

theorem retireReady_keeps {ctx : Nat} {s : State} (h : Keeps z s) : Keeps z (retireReady ctx s) := by
  unfold retireReady
  split
  · exact h
  · exact foldl_keeps h (fun _ _ h1 => retireVersion_keeps h1)

theorem loseCompletion_keeps {r : Nat} {s : State} (h : Keeps z s) : Keeps z (loseCompletion r s) :=
  rcbWrite_keeps (State.setRing_keeps h)

theorem writeCompletion_keeps {e : Entry} {s : State} (h : Keeps z s) : keepsOpt z (writeCompletion e s) := by
  unfold writeCompletion
  dsimp only
  split
  · exact h
  split
  · exact loseCompletion_keeps h
  split
  · exact (vaWrite_keeps h).ok ‹_›
  · exact loseCompletion_keeps (feFault_keeps ((vaWrite_keeps h).fault ‹_›))
  · exact loseCompletion_keeps ((vaWrite_keeps h).severed ‹_›)
  · exact trivial

theorem signalEdges_keeps {e : Entry} {s : State} (h : Keeps z s) : Keeps z (signalEdges e s) :=
  foldl_keeps (wcFlushAll_keeps h) (fun _ _ h1 => sendFence_keeps h1)

theorem completeSeq_keeps {r seq : Nat} {s : State} (h : Keeps z s) : Keeps z (completeSeq r seq s) := by
  unfold completeSeq
  dsimp only
  split
  · exact h
  · exact rcbWrite_keeps (State.setRing_keeps h)

theorem countEntry_keeps {e : Entry} {s : State} (h : Keeps z s) : Keeps z (countEntry e s) := by
  unfold countEntry
  dsimp only
  exact State.onPwr_keeps h

theorem completeRest_keeps {e : Entry} {s : State} (h : Keeps z s) : Keeps z (completeRest e s) := by
  unfold completeRest
  dsimp only
  split
  · refine releaseWaits_keeps ?_
    split
    · exact retireReady_keeps (unpin_keeps (completeSeq_keeps (signalEdges_keeps h)))
    · exact completeSeq_keeps (signalEdges_keeps h)
  split
  · refine raiseVec_keeps ?_
    refine releaseWaits_keeps ?_
    split
    · exact retireReady_keeps (unpin_keeps (completeSeq_keeps (signalEdges_keeps h)))
    · exact completeSeq_keeps (signalEdges_keeps h)
  refine releaseWaits_keeps ?_
  split
  · exact retireReady_keeps (unpin_keeps (completeSeq_keeps (signalEdges_keeps h)))
  · exact completeSeq_keeps (signalEdges_keeps h)

theorem completeDo_keeps {r seq : Nat} {s : State} (h : Keeps z s) : Keeps z (completeDo r seq s) := by
  unfold completeDo
  dsimp only
  split
  · exact h
  · split
    · exact h
    · split
      · exact h
      · rename_i e _ _ _ t ht
        refine completeRest_keeps ?_
        obtain ⟨u, hu, hw⟩ := Option.bind_eq_some_iff.mp ht
        refine (writeCompletion_keeps ?_).some hw
        refine keepsOpt.some (foldl_inv (P := keepsOpt z) ?_ fun a p ha => ?_) hu
        · exact countEntry_keeps (State.onFe_keeps h)
        · cases a with
          | none => trivial
          | some v => exact skippedSignal_keeps ha

end Sys2Proof.Machine
end

section
/-! The queue and the canonical form are kept: Machine/Graphs.lean. -/

namespace Sys2Proof.Machine

open Sys2Proof

variable {z : State}

theorem withPatch_keeps {o : OpRef} {subop : Nat} {f : Entry → Op → State → State} {s : State} (hf : ∀ (a : Entry)
    (a_1 : Op) (a_2 : State), Keeps z a_2 → Keeps z (f a a_1 a_2)) (h : Keeps z s) : Keeps z (withPatch o subop f s) := by
  unfold withPatch
  refine withOp_keeps (fun _ _ _ h1 => ?_) h
  split
  · exact endOp_keeps h1
  split
  · exact hf _ _ _ h1
  · exact h1

theorem bindDirDo_keeps {o : OpRef} {s : State} (h : Keeps z s) : Keeps z (bindDirDo o s) := by
  unfold bindDirDo
  dsimp only
  refine withPatch_keeps (fun _ _ _ h1 => ?_) h
  split
  · exact endOp_keeps h1
  split
  · exact endOp_keeps h1
  · exact endOp_keeps (State.setCtx_keeps h1)

theorem grRead_keeps {ctx va n : Nat} {s : State} (h : Keeps z s) : Got.keeps z (grRead ctx va n s) := by
  unfold grRead
  dsimp only
  split
  · exact (feRead_keeps h).ok ‹_›
  · exact feFault_keeps ((feRead_keeps h).fault ‹_›)
  · exact (feRead_keeps h).severed ‹_›
  · exact (feRead_keeps h).wait ‹_›

theorem Got.bind_keeps {α β : Type} {g : Got α} {f : α → State → Got β} (h : Got.keeps z g) (hf : ∀ (a : α)
    (a_1 : State), Keeps z a_1 → Got.keeps z (f a a_1)) : Got.keeps z (g.bind f) := by
  unfold Got.bind
  split
  · exact hf _ _ h
  · exact h
  · exact h
  · exact h
  · exact h

theorem readNode_keeps {ctx rootMask argBytes nodeVa predVa i : Nat} {s : State} (h : Keeps z s) :
    Got.keeps z (readNode ctx rootMask argBytes nodeVa predVa i s) := by
  unfold readNode
  dsimp only
  refine Got.bind_keeps (grRead_keeps h) (fun _ _ h1 => ?_)
  split
  · exact h1
  refine Got.bind_keeps ?_ (fun _ _ h2 => ?_)
  · split
    · exact h1
    · exact grRead_keeps h1
  split
  · exact h2
  refine Got.bind_keeps (grRead_keeps h2) (fun _ _ h3 => ?_)
  split <;> exact h3

theorem readGraph_keeps {ctx rootVa : Nat} {s : State} (h : Keeps z s) : Got.keeps z (readGraph ctx rootVa s) := by
  unfold readGraph
  refine Got.bind_keeps (grRead_keeps h) fun b u hu => ?_
  split
  · exact hu
  · refine Got.bind_keeps (foldl_inv hu fun g i hg => ?_) fun _ _ hv => hv
    exact Got.bind_keeps hg fun _ _ hv => Got.bind_keeps (readNode_keeps hv) fun _ _ hw => hw

theorem publishDo_keeps {o : OpRef} {s : State} (h : Keeps z s) : Keeps z (publishDo o s) := by
  unfold publishDo
  refine withPatch_keeps (fun _ _ _ h1 => ?_) h
  split
  · exact endOp_keeps h1
  · exact h1

theorem replaceVersion_keeps {ctx graph version root : Nat} {ask : Nat × Option (Nat × Nat × Quad)} {s : State}
    (h : Keeps z s) : Keeps z (replaceVersion ctx graph version root ask s) := by
  unfold replaceVersion
  dsimp only
  refine retireReady_keeps ?_
  split <;> exact State.onFe_keeps h

theorem writeDir_keeps {o : OpRef} {ctx va : Nat} {bs : List Byte} {ok : State → State} {s : State} (hf : ∀ (a : State),
    Keeps z a → Keeps z (ok a)) (h : Keeps z s) : Keeps z (writeDir o ctx va bs ok s) := by
  unfold writeDir
  dsimp only
  split
  · exact hf _ ((vaWrite_keeps h).ok ‹_›)
  · exact endOp_keeps (feFault_keeps ((vaWrite_keeps h).fault ‹_›))
  · exact endOp_keeps ((vaWrite_keeps h).severed ‹_›)
  · exact (vaWrite_keeps h).wait ‹_›

theorem publishedDo_keeps {o : OpRef} {io : HostIO} {s : State} (h : Keeps z s) : Keeps z (publishedDo o io s) := by
  unfold publishedDo
  dsimp only
  refine withPatch_keeps (fun _ _ _ h1 => ?_) (applyIO_keeps h)
  split
  · exact endOp_keeps h1
  split
  · exact endOp_keeps ((readGraph_keeps h1).bad ‹_›)
  · exact endOp_keeps ((readGraph_keeps h1).fault ‹_›)
  · exact endOp_keeps ((readGraph_keeps h1).severed ‹_›)
  · exact (readGraph_keeps h1).wait ‹_›
  rename_i heq
  have h2 := (readGraph_keeps h1).ok heq
  split
  · refine writeDir_keeps (fun _ h3 => ?_) ((grRead_keeps h2).ok ‹_›)
    refine endOp_keeps ?_
    split
    · exact h3
    · exact replaceVersion_keeps h3
  · exact (grRead_keeps h2).bad ‹_›
  · exact endOp_keeps ((grRead_keeps h2).fault ‹_›)
  · exact endOp_keeps ((grRead_keeps h2).severed ‹_›)
  · exact (grRead_keeps h2).wait ‹_›

theorem deleteDo_keeps {o : OpRef} {io : HostIO} {s : State} (h : Keeps z s) : Keeps z (deleteDo o io s) := by
  unfold deleteDo
  dsimp only
  refine withPatch_keeps (fun _ _ _ h1 => ?_) (applyIO_keeps h)
  split
  · exact endOp_keeps h1
  split
  · exact endOp_keeps h1
  split
  · rename_i heq
    have h2 := (grRead_keeps h1).ok heq
    split
    · exact endOp_keeps h2
    · exact writeDir_keeps (fun _ h3 => endOp_keeps (replaceVersion_keeps h3)) h2
  · exact (grRead_keeps h1).bad ‹_›
  · exact endOp_keeps ((grRead_keeps h1).fault ‹_›)
  · exact endOp_keeps ((grRead_keeps h1).severed ‹_›)
  · exact (grRead_keeps h1).wait ‹_›

theorem pinVersion_keeps {ctx graph version root : Nat} {s : State} (h : Keeps z s) :
    Keeps z (pinVersion ctx graph version root s) := by
  unfold pinVersion
  dsimp only
  split <;> exact State.onFe_keeps h

theorem readArgs_keeps {ctx argVa n : Nat} {s : State} (h : Keeps z s) : Got.keeps z (readArgs ctx argVa n s) := by
  unfold readArgs
  split
  · exact h
  · exact grRead_keeps h

theorem acceptDo_keeps {r seq : Nat} {io : HostIO} {s : State} (h : Keeps z s) : Keeps z (acceptDo r seq io s) := by
  unfold acceptDo
  dsimp only
  split
  · exact applyIO_keeps h
  split
  · exact applyIO_keeps h
  split
  · exact State.onEntry_keeps (applyIO_keeps h)
  split
  · exact failEntry_keeps (State.onEntry_keeps (applyIO_keeps h))
  split
  · exact (grRead_keeps (State.onEntry_keeps (applyIO_keeps h))).bad ‹_›
  · exact (grRead_keeps (State.onEntry_keeps (applyIO_keeps h))).wait ‹_›
  · exact failEntry_keeps ((grRead_keeps (State.onEntry_keeps (applyIO_keeps h))).fault ‹_›)
  · exact failEntry_keeps ((grRead_keeps (State.onEntry_keeps (applyIO_keeps h))).severed ‹_›)
  rename_i heq
  have h1 := (grRead_keeps (State.onEntry_keeps (applyIO_keeps h))).ok heq
  split
  · exact failEntry_keeps h1
  split
  · exact failEntry_keeps ((readGraph_keeps h1).bad ‹_›)
  · exact (readGraph_keeps h1).wait ‹_›
  · exact failEntry_keeps ((readGraph_keeps h1).fault ‹_›)
  · exact failEntry_keeps ((readGraph_keeps h1).severed ‹_›)
  rename_i heq
  have h2 := (readGraph_keeps h1).ok heq
  split
  · exact failEntry_keeps h2
  split
  · exact failEntry_keeps h2
  split
  · exact h2
  split
  · exact (readArgs_keeps h2).bad ‹_›
  · exact (readArgs_keeps h2).wait ‹_›
  · exact failEntry_keeps ((readArgs_keeps h2).fault ‹_›)
  · exact failEntry_keeps ((readArgs_keeps h2).severed ‹_›)
  · exact State.onEntry_keeps (pinVersion_keeps ((readArgs_keeps h2).ok ‹_›))

end Sys2Proof.Machine
end

section
/-! The queue and the canonical form are kept: Machine/Ends.lean. -/

namespace Sys2Proof.Machine

open Sys2Proof

variable {z : State}

theorem Res.settled_keeps {r : Res Unit} {fault : Flt → State → State} (h : Res.keeps z r) (hf : ∀ (a : Flt)
    (a_1 : State), Keeps z a_1 → Keeps z (fault a a_1)) : keepsOpt z (r.settled fault) := by
  unfold Res.settled
  split
  · exact h
  · exact hf _ _ h
  · exact h
  · exact trivial

theorem State.onRun_keeps {o : OpRef} {f : TensorRun → TensorRun} {s : State} (h : Keeps z s) :
    Keeps z (State.onRun o f s) :=
  State.onTns_keeps h

theorem dropRun_keeps {o : OpRef} {s : State} (h : Keeps z s) : Keeps z (dropRun o s) := State.onTns_keeps h

theorem closeRun_keeps {r : TensorRun} {s : State} (h : Keeps z s) : Keeps z (closeRun r s) := by
  unfold closeRun
  dsimp only
  split
  · exact dropRun_keeps h
  split
  · exact dropRun_keeps h
  split
  · exact h
  split
  · exact discardOp_keeps (dropRun_keeps h)
  split
  · refine endOp_keeps ?_
    refine dropRun_keeps ?_
    refine keepsOpt.some ?_ ‹_›
    split
    · exact h
    · exact Res.settled_keeps (vaWrite_keeps h) (fun _ _ h1 => masterFault_keeps h1)
  · exact h

theorem endTensor_keeps {o : OpRef} {m status detail : Nat} {s : State} (h : Keeps z s) :
    Keeps z (endTensor o m status detail s) := by
  unfold endTensor
  dsimp only
  split
  · exact closeRun_keeps (opEnding_keeps h)
  · exact opEnding_keeps h

theorem State.onPass_keeps {o : OpRef} {f : PassRun → PassRun} {s : State} (h : Keeps z s) : Keeps z (State.onPass o f s) :=
  State.onRnd_keeps h

theorem poolBack_keeps {p : PassRun} {s : State} (h : Keeps z s) : keepsOpt z (poolBack p s) :=
  Res.settled_keeps (vaWrite_keeps h) (fun _ _ h1 => feFault_keeps h1)

theorem dropPass_keeps {o : OpRef} {s : State} (h : Keeps z s) : Keeps z (dropPass o s) :=
  State.onShd_keeps (State.onRnd_keeps h)

theorem option_keeps {f : State → State} {s : State} (hf : ∀ t, Keeps z t → Keeps z (f t)) (h : Keeps z s) :
    ∀ r : Option State, keepsOpt z r → Keeps z (match r with
      | some t => f t
      | none => s)
  | some t, ht => hf t ht
  | none, _ => h

theorem keepsOpt_ite {c : Prop} [Decidable c] {a b : Option State} (ha : keepsOpt z a) (hb : keepsOpt z b) :
    keepsOpt z (if c then a else b) := by
  split
  · exact ha
  · exact hb

theorem closePass_keeps {p : PassRun} {s : State} (h : Keeps z s) : Keeps z (closePass p s) := by
  unfold closePass
  extract_lets gone
  have hgone : ∀ {u : State}, Keeps z u → Keeps z (gone u) := by
    intro u hu
    change Keeps z (match poolBack p u with
      | some s => shdSweep (dropPass p.op s)
      | none => u)
    split
    · exact shdSweep_keeps (dropPass_keeps ((poolBack_keeps hu).some ‹_›))
    · exact hu
  split
  · exact hgone h
  · split
    · exact hgone h
    · split
      · exact h
      · split
        · exact hgone (discardOp_keeps h)
        · dsimp only
          apply option_keeps (fun t ht => endOp_keeps (shdSweep_keeps (dropPass_keeps ht))) h
          cases hb : poolBack p s with
          | none => trivial
          | some u =>
            have hu := (poolBack_keeps h).some hb
            exact keepsOpt_ite hu (Res.settled_keeps (vaWrite_keeps hu) fun _ _ hv => feFault_keeps hv)

theorem endPass_keeps {o : OpRef} {status detail : Nat} {s : State} (h : Keeps z s) :
    Keeps z (endPass o status detail s) := by
  unfold endPass
  dsimp only
  split
  · exact closePass_keeps (opEnding_keeps h)
  · exact opEnding_keeps h

theorem closeReport_keeps {r : DspReport} {s : State} (h : Keeps z s) : Keeps z (closeReport r s) := by
  unfold closeReport
  dsimp only
  split
  · exact State.onDsp_keeps h
  split
  · exact State.onDsp_keeps h
  split
  · exact discardOp_keeps (State.onDsp_keeps h)
  split
  · refine endOp_keeps ?_
    refine State.onDsp_keeps ?_
    refine keepsOpt.some ?_ ‹_›
    split
    · exact h
    · exact Res.settled_keeps (vaWrite_keeps h) (fun _ _ h1 => masterFault_keeps h1)
  · exact h

theorem endCommit_keeps {r : DspReport} {s : State} (h : Keeps z s) : Keeps z (endCommit r s) :=
  closeReport_keeps (State.onDsp_keeps (opEnding_keeps h))

theorem closeOps_keeps {s : State} (h : Keeps z s) : Keeps z (closeOps s) :=
  foldl_keeps (foldl_keeps (foldl_keeps h (fun _ _ h1 => closeRun_keeps h1)) (fun _ _ h2 => closeReport_keeps h2))
      (fun _ _ h3 => closePass_keeps h3)

theorem goOn_keeps {s : State} (h : Keeps z s) : Keeps z (goOn s) :=
  closeOps_keeps (foldl_keeps (retryWaiting_keeps h) (fun _ _ h1 => retireReady_keeps h1))

end Sys2Proof.Machine
end

section
/-! The queue and the canonical form are kept: Machine/Tensor.lean. -/

namespace Sys2Proof.Machine

open Sys2Proof

variable {z : State}

theorem Res.bind_keeps {α β : Type} {r : Res α} {f : α → State → Res β} (h : Res.keeps z r) (hf : ∀ (a : α)
    (a_1 : State), Keeps z a_1 → Res.keeps z (f a a_1)) : Res.keeps z (r.bind f) := by
  unfold Res.bind
  split
  · exact hf _ _ h
  · exact h
  · exact h
  · exact h

theorem Tr.bind_keeps {α β : Type} {r : Tr α} {f : α → State → Tr β} (h : Tr.keeps z r) (hf : ∀ (a : α) (a_1 : State),
    Keeps z a_1 → Tr.keeps z (f a a_1)) : Tr.keeps z (r.bind f) := by
  unfold Tr.bind
  split
  · exact hf _ _ h
  · exact h
  · exact h
  · exact h
  · exact h

theorem trMap_keeps {α β : Type} {l : List α} {f : α → State → Tr β} {s : State} (hf : ∀ a s, Keeps z s → Tr.keeps z (f a s))
    (h : Keeps z s) : Tr.keeps z (trMap l f s) := by
  unfold trMap
  exact foldl_inv h fun b a hb => Tr.bind_keeps hb fun _ _ hu => Tr.bind_keeps (hf _ _ hu) fun _ _ hv => hv

theorem Res.tr_keeps {α : Type} {va : Nat} {acc : Access} {x : Res α} (h : Res.keeps z x) :
    Tr.keeps z (Res.tr va acc x) := by
  unfold Res.tr
  split <;> exact h

theorem Acc.tr_keeps {α : Type} {va pa : Nat} {acc : Access} {s : State} {x : Acc α} (h : Keeps z s) (h1 : Acc.keeps z
    x) : Tr.keeps z (Acc.tr va pa acc s x) := by
  unfold Acc.tr
  split
  · exact h1
  · exact h1
  · exact h
  · exact h

theorem tRead_keeps {m ctx va n : Nat} {s : State} (h : Keeps z s) : Tr.keeps z (tRead m ctx va n s) := by
  unfold tRead
  split
  · exact h
  split
  · exact Res.tr_keeps (vaRead_keeps h)
  · exact Acc.tr_keeps h (paRead_keeps h)
  · exact h

theorem tWrite_keeps {m ctx va : Nat} {bs : List Byte} {s : State} (h : Keeps z s) : Tr.keeps z (tWrite m ctx va bs s) := by
  unfold tWrite
  split
  · exact h
  split
  · exact Res.tr_keeps (vaWrite_keeps h)
  · exact Acc.tr_keeps h (paWrite_keeps h)
  · exact h

theorem orFlags_keeps {o : OpRef} {fl : Nat} {s : State} (h : Keeps z s) : Keeps z (orFlags o fl s) := State.onRun_keeps h

theorem readElems_keeps {m ctx va code first n : Nat} {s : State} (h : Keeps z s) :
    Tr.keeps z (readElems m ctx va code first n s) :=
  Tr.bind_keeps (tRead_keeps h) (fun _ _ h1 => h1)

theorem writeElems_keeps {m ctx va code first : Nat} {cs : List Nat} {s : State} (h : Keeps z s) :
    Tr.keeps z (writeElems m ctx va code first cs s) :=
  tWrite_keeps h

theorem rawRow_keeps {m ctx base ld code row k0 n : Nat} {trans sparse : Bool} {s : State} (h : Keeps z s) :
    Tr.keeps z (rawRow m ctx base ld code row k0 n trans sparse s) := by
  unfold rawRow
  split
  · exact Tr.bind_keeps (trMap_keeps (fun _ _ h1 => readElems_keeps h1) h) (fun _ _ h2 => h2)
  · split <;> exact readElems_keeps h

theorem metaNibbles_keeps {m ctx metaVa kOwn row g n : Nat} {s : State} (h : Keeps z s) :
    Tr.keeps z (metaNibbles m ctx metaVa kOwn row g n s) :=
  readElems_keeps h

theorem operandRow_keeps {o : OpRef} {m ctx base ld code row k0 n kOwn scaleVa metaVa passes : Nat} {mx trans sparse ftz
    : Bool} {s : State} (h : Keeps z s) : Tr.keeps z (operandRow o m ctx base ld code row k0 n kOwn scaleVa metaVa
    passes mx trans sparse ftz s) := by
  unfold operandRow
  dsimp only
  refine Tr.bind_keeps (rawRow_keeps h) (fun _ _ h1 => ?_)
  split
  · refine Tr.bind_keeps (metaNibbles_keeps (orFlags_keeps h1)) (fun _ _ h2 => ?_)
    split
    · exact h2
    refine Tr.bind_keeps ?_ (fun _ _ h3 => h3)
    split
    · exact Tr.bind_keeps (tRead_keeps h2) (fun _ _ h4 => h4)
    · exact h2
  refine Tr.bind_keeps ?_ (fun _ _ h5 => h5)
  split
  · exact Tr.bind_keeps (tRead_keeps (orFlags_keeps h1)) (fun _ _ h6 => h6)
  · exact orFlags_keeps h1

theorem partOperands_keeps {o : OpRef} {r : Mma} {m ctx view tm tn k0 n : Nat} {ftz : Bool} {s : State} (h : Keeps z s) :
    Tr.keeps z (partOperands o r m ctx view tm tn k0 n ftz s) := by
  unfold partOperands
  dsimp only
  exact Tr.bind_keeps (trMap_keeps (fun _ _ h1 => operandRow_keeps h1) h) (fun _ _ h2 => Tr.bind_keeps (trMap_keeps
      (fun _ _ h3 => operandRow_keeps h3) h2) (fun _ _ h4 => h4))

theorem readC_keeps {r : Mma} {m ctx view tm tn : Nat} {ftz : Bool} {s : State} (h : Keeps z s) :
    Tr.keeps z (readC r m ctx view tm tn ftz s) := by
  unfold readC
  refine trMap_keeps (fun _ _ h1 => ?_) h
  split
  · exact Tr.bind_keeps (readElems_keeps h1) (fun _ _ h2 => h2)
  · exact h1

theorem stageVecRead_keeps {r : Mma} {m ctx m0 n0 rows cols f : Nat} {s : State} (h : Keeps z s) :
    Tr.keeps z (stageVecRead r m ctx m0 n0 rows cols f s) := by
  unfold stageVecRead
  dsimp only
  split
  · exact Tr.bind_keeps (readElems_keeps h) (fun _ _ h1 => h1)
  split
  · exact Tr.bind_keeps (readElems_keeps h) (fun _ _ h2 => h2)
  · exact h

theorem writeTile_keeps {o : OpRef} {r : Mma} {m ctx view tm tn tnGlobal : Nat} {ftz : Bool} {vals : List (List Val)}
    {s : State} (h : Keeps z s) : Tr.keeps z (writeTile o r m ctx view tm tn tnGlobal ftz vals s) := by
  unfold writeTile
  dsimp only
  exact Tr.bind_keeps (trMap_keeps (fun _ _ h1 => stageVecRead_keeps h1) h) (fun _ _ h2 => Tr.bind_keeps (trMap_keeps
      (fun _ _ h3 => Tr.bind_keeps (writeElems_keeps (orFlags_keeps h3)) (fun _ _ h4 => Tr.bind_keeps (tWrite_keeps h4)
      (fun _ _ h5 => h5))) h2) (fun _ _ h6 => h6))

theorem narrowDoneDo_keeps {c : Nat} {s : State} (h : Keeps z s) : Keeps z (narrowDoneDo c s) := by
  unfold narrowDoneDo
  split
  · exact h
  · exact State.onTns_keeps h

theorem takeItem_keeps {o : OpRef} {m : Nat} {s : State} (h : Keeps z s) : Keeps z (takeItem o m s) := by
  unfold takeItem
  dsimp only
  split
  · split
    · exact h
    · exact State.onOp_keeps (State.onRun_keeps h)
  · exact h

theorem leaveItem_keeps {o : OpRef} {m : Nat} {s : State} (h : Keeps z s) : Keeps z (leaveItem o m s) :=
  State.onOp_keeps (State.onRun_keeps h)

theorem startRun_keeps {o : OpRef} {ctx : Nat} {s : State} (h : Keeps z s) : Keeps z (startRun o ctx s) := by
  unfold startRun
  dsimp only
  split
  · exact h
  · exact State.onTns_keeps h

theorem arraysDo_keeps {o : OpRef} {opcode : Nat} {check : Op → Option (Nat × Nat)} {s : State} (h : Keeps z s) :
    Keeps z (arraysDo o opcode check s) := by
  unfold arraysDo
  dsimp only
  refine withOp_keeps (fun _ _ _ h1 => ?_) h
  split
  · split
    · exact endOp_keeps h1
    split
    · exact endTensor_keeps (startRun_keeps h1)
    split
    · exact h1
    · exact foldl_keeps (startRun_keeps h1) (fun _ _ h2 => takeItem_keeps h2)
  split
  · exact endTensor_keeps h1
  split
  · exact h1
  · exact foldl_keeps h1 (fun _ _ h3 => takeItem_keeps h3)

theorem noteFail_keeps {o : OpRef} {status detail : Nat} {s : State} (h : Keeps z s) :
    Keeps z (noteFail o status detail s) :=
  State.onRun_keeps h

theorem noteFault_keeps {o : OpRef} {m ctx : Nat} {f : Flt} {va : Nat} {acc : Access} {s : State} (h : Keeps z s) :
    Keeps z (noteFault o m ctx f va acc s) := by
  unfold noteFault
  dsimp only
  split <;> exact noteFail_keeps (masterFault_keeps h)

theorem afterItem_keeps {o : OpRef} {m : Nat} {s : State} (h : Keeps z s) : Keeps z (afterItem o m s) := by
  unfold afterItem
  dsimp only
  split
  · split
    · split
      · exact discardOp_keeps (dropRun_keeps (leaveItem_keeps h))
      · exact leaveItem_keeps h
    split
    · split
      · exact endTensor_keeps (leaveItem_keeps h)
      · exact leaveItem_keeps h
    split
    · split
      · exact endTensor_keeps (leaveItem_keeps h)
      split
      · exact State.onRun_keeps (leaveItem_keeps h)
      split
      · exact leaveItem_keeps h
      · exact takeItem_keeps (leaveItem_keeps h)
    split
    · exact endTensor_keeps (leaveItem_keeps h)
    split
    · exact State.onRun_keeps (leaveItem_keeps h)
    split
    · exact leaveItem_keeps h
    · exact takeItem_keeps (leaveItem_keeps h)
  · exact leaveItem_keeps h

theorem countCycles_keeps {c issued epi : Nat} {s : State} (h : Keeps z s) : Keeps z (countCycles c issued epi s) := by
  unfold countCycles
  dsimp only
  exact State.onTns_keeps (State.fresh_keeps (State.fresh_keeps h))

theorem combineTile_keeps {o : OpRef} {r : Mma} {m ctx view tm tn tnG : Nat} {ftz : Bool} {ps : List TensorPart}
    {s : State} (h : Keeps z s) : Tr.keeps z (combineTile o r m ctx view tm tn tnG ftz ps s) :=
  Tr.bind_keeps (readC_keeps h) (fun _ _ h1 => Tr.bind_keeps (writeTile_keeps (orFlags_keeps h1)) (fun _ _ h2 =>
      countCycles_keeps h2))

/-- An item's end carries the state that it leaves twice: as its value and as the state of the access. -/
def Tr.keepsItem (z : State) : Tr State → Prop
  | .ok u t => Keeps z u ∧ Keeps z t
  | .fault _ _ _ t | .bad _ t | .severed t | .wait t => Keeps z t

theorem Tr.bind_keepsItem {α : Type} {r : Tr α} {f : α → State → Tr State} (h : Tr.keeps z r)
    (hf : ∀ a s, Keeps z s → Tr.keepsItem z (f a s)) : Tr.keepsItem z (r.bind f) := by
  cases r with
  | ok a u => exact hf a u h
  | _ => exact h

theorem Tr.keepsItem.bind {β : Type} {r : Tr State} {f : State → State → Tr β} (h : Tr.keepsItem z r)
    (hf : ∀ s t, Keeps z s → Keeps z t → Tr.keeps z (f s t)) : Tr.keeps z (r.bind f) := by
  cases r with
  | ok u t => exact hf u t h.1 h.2
  | _ => exact h

theorem Tr.keepsItem_ite {c : Prop} [Decidable c] {a b : Tr State} (ha : Tr.keepsItem z a) (hb : Tr.keepsItem z b) :
    Tr.keepsItem z (if c then a else b) := by
  split
  · exact ha
  · exact hb

theorem mmaItem_keeps {r : Mma} {o : OpRef} {m ctx slot item : Nat} {ftz : Bool} {s : State} (h : Keeps z s) :
    Tr.keepsItem z (mmaItem r o m ctx slot item ftz s) := by
  unfold mmaItem
  dsimp only
  refine Tr.bind_keepsItem (partOperands_keeps h) fun ops u hu => ?_
  split
  · refine Tr.bind_keepsItem (readC_keeps hu) fun cs v hv => ?_
    refine Tr.bind_keepsItem (writeTile_keeps (orFlags_keeps hv)) fun f w hw => ?_
    exact ⟨State.onRun_keeps (countCycles_keeps hw), hw⟩
  · refine Tr.keepsItem_ite ?_ ?_
    · exact ⟨State.onRun_keeps (State.onRun_keeps (countCycles_keeps (orFlags_keeps hu))),
        State.onRun_keeps (countCycles_keeps (orFlags_keeps hu))⟩
    · refine Tr.bind_keepsItem (combineTile_keeps (countCycles_keeps (orFlags_keeps hu))) fun f w hw => ?_
      exact ⟨State.onRun_keeps (State.onRun_keeps hw), State.onRun_keeps hw⟩

theorem vecY_keeps {v : Vec} {m ctx row : Nat} {ftz : Bool} {s : State} (h : Keeps z s) :
    Tr.keeps z (vecY v m ctx row ftz s) := by
  unfold vecY
  dsimp only
  split
  · exact h
  · exact h
  · exact Tr.bind_keeps (readElems_keeps h) (fun _ _ h1 => h1)
  · exact Tr.bind_keeps (readElems_keeps h) (fun _ _ h2 => h2)
  · exact Tr.bind_keeps (readElems_keeps h) (fun _ _ h3 => h3)

theorem vecRow_keeps {o : OpRef} {v : Vec} {m ctx : Nat} {ftz : Bool} {row : Nat} {s : State} (h : Keeps z s) :
    Tr.keeps z (vecRow o v m ctx ftz row s) :=
  Tr.bind_keeps (readElems_keeps h) (fun _ _ h1 => Tr.bind_keeps (vecY_keeps (orFlags_keeps h1)) (fun _ _ h2 =>
      Tr.bind_keeps (writeElems_keeps (orFlags_keeps h2)) (fun _ _ h3 => Tr.bind_keeps (tWrite_keeps h3) (fun _ _ h4 =>
      Tr.bind_keeps (tWrite_keeps h4) (fun _ _ h5 => h5)))))

theorem vecItem_keeps {v : Vec} {o : OpRef} {m ctx item : Nat} {ftz : Bool} {s : State} (h : Keeps z s) :
    Tr.keepsItem z (vecItem v o m ctx item ftz s) := by
  unfold vecItem
  refine Tr.bind_keepsItem (trMap_keeps (fun _ _ hu => vecRow_keeps hu) h) fun _ _ hu => ?_
  exact ⟨countCycles_keeps (State.onRun_keeps hu), countCycles_keeps (State.onRun_keeps hu)⟩

theorem moveSrcRow_keeps {v : Move} {m ctx p r c0 n : Nat} {ftz : Bool} {s : State} (h : Keeps z s) :
    Tr.keeps z (moveSrcRow v m ctx p r c0 n ftz s) := by
  unfold moveSrcRow
  refine Tr.bind_keeps (readElems_keeps h) (fun _ _ h1 => ?_)
  split
  · exact Tr.bind_keeps (tRead_keeps h1) (fun _ _ h2 => h2)
  · exact h1

theorem moveRow_keeps {v : Move} {m ctx p row c0 n : Nat} {ftz : Bool} {s : State} (h : Keeps z s) :
    Tr.keeps z (moveRow v m ctx p row c0 n ftz s) := by
  unfold moveRow
  split
  · exact Tr.bind_keeps (trMap_keeps (fun _ _ h1 => moveSrcRow_keeps h1) h) (fun _ _ h2 => h2)
  split
  · refine Tr.bind_keeps (tRead_keeps h) (fun _ _ h3 => ?_)
    split
    · exact h3
    · exact moveSrcRow_keeps h3
  · exact moveSrcRow_keeps h

theorem moveRowOut_keeps {o : OpRef} {v : Move} {m ctx p tm tn : Nat} {ftz : Bool} {i : Nat} {s : State} (h : Keeps z s) :
    Tr.keeps z (moveRowOut o v m ctx p tm tn ftz i s) :=
  Tr.bind_keeps (moveRow_keeps h) (fun _ _ h1 => Tr.bind_keeps (writeElems_keeps (orFlags_keeps h1)) (fun _ _ h2 =>
      Tr.bind_keeps (tWrite_keeps h2) (fun _ _ h3 => h3)))

theorem moveItem_keeps {v : Move} {o : OpRef} {m ctx item : Nat} {ftz : Bool} {s : State} (h : Keeps z s) :
    Tr.keepsItem z (moveItem v o m ctx item ftz s) := by
  unfold moveItem
  refine Tr.bind_keepsItem (trMap_keeps (fun _ _ hu => moveRowOut_keeps hu) h) fun _ _ hu => ?_
  exact ⟨State.onRun_keeps (State.fresh_keeps hu), State.onRun_keeps (State.fresh_keeps hu)⟩

theorem moveDo_keeps {o : OpRef} {chan : Nat} {s : State} (h : Keeps z s) : Keeps z (moveDo o chan s) := by
  unfold moveDo
  refine withOp_keeps (fun _ _ _ h1 => ?_) h
  split
  · exact endOp_keeps h1
  split
  · exact h1
  split
  · exact endTensor_keeps (startRun_keeps h1)
  split
  · exact takeItem_keeps (startRun_keeps h1)
  · exact h1

theorem runItem_keeps {p : Op} {o : OpRef} {m ctx slot item : Nat} {ftz : Bool} {s : State} (h : Keeps z s) :
    Tr.keepsItem z (runItem p o m ctx slot item ftz s) := by
  unfold runItem
  split
  · split
    · exact mmaItem_keeps h
    · exact ⟨h, h⟩
  · split
    · split
      · exact vecItem_keeps h
      · exact ⟨h, h⟩
    · split
      · exact moveItem_keeps h
      · exact ⟨h, h⟩

theorem tileDoneDo_keeps {o : OpRef} {m : Nat} {io : HostIO} {s : State} (h : Keeps z s) :
    Keeps z (tileDoneDo o m io s) := by
  have h1 := applyIO_keeps (io := io) h
  unfold tileDoneDo
  dsimp only
  split
  · split
    · exact h1
    · split
      · exact afterItem_keeps h1
      · rename_i p _ _ _ x _ _
        have hi {ctx : Nat} {ftz : Bool} := runItem_keeps (p := p) (o := o) (m := m) (ctx := ctx) (slot := slotOf p m)
          (item := x.2) (ftz := ftz) h1
        split <;> rename_i heq <;> have hk := heq ▸ hi
        · exact afterItem_keeps hk.1
        · exact afterItem_keeps (noteFault_keeps hk)
        · exact afterItem_keeps (noteFail_keeps hk)
        · exact afterItem_keeps (noteFail_keeps hk)
        · exact hk
  · exact h1

end Sys2Proof.Machine
end

section
/-! The queue and the canonical form are kept: Machine/Memory.lean. -/

namespace Sys2Proof.Machine

open Sys2Proof

variable {z : State}

theorem spmArbEffect_keeps {w : RegWr} {s : State} (h : Keeps z s) : Keeps z (spmArbEffect w s) := by
  unfold spmArbEffect
  dsimp only
  split
  · exact refuseWr_keeps h
  · exact storeWr_keeps h

theorem regionClearEffect_keeps {c : Nat} {w : RegWr} {s : State} (h : Keeps z s) : Keeps z (regionClearEffect c w s) := by
  unfold regionClearEffect
  dsimp only
  split
  · exact h
  split
  · exact h
  split
  · exact h
  · exact State.onMem_keeps h (fun _ => ⟨rfl, rfl⟩)

theorem regionClearedDo_keeps {c r : Nat} {s : State} (h : Keeps z s) : Keeps z (regionClearedDo c r s) := by
  unfold regionClearedDo
  dsimp only
  split
  · exact goOn_keeps (clearRegion_keeps (State.onMem_keeps h (fun _ => ⟨rfl, rfl⟩)))
  · exact h

theorem powerGoodDo_keeps {u : PowerUnit} {s : State} (h : Keeps z s) : Keeps z (powerGoodDo u s) := by
  unfold powerGoodDo
  dsimp only
  split
  · exact State.onUnit_keeps (State.setPower_keeps h)
  · exact h

theorem wakeClear_keeps {u : PowerUnit} {s : State} (h : Keeps z s) : Keeps z (wakeClear u s) := by
  unfold wakeClear
  dsimp only
  split
  · refine State.onMem_keeps ?_ (fun _ => ⟨rfl, rfl⟩)
    split
    · exact h
    · exact zeroCells_keeps h
  · refine State.onMem_keeps ?_ (fun _ => ⟨rfl, rfl⟩)
    refine State.onShd_keeps ?_
    split
    · exact h
    · exact zeroCells_keeps h
  · exact foldl_keeps (State.setL2_keeps h) (fun _ _ h1 => State.setRaw_keeps h1)

theorem clearFailed_keeps {c : Nat} {r : ClearResult} {s : State} (h : Keeps z s) : Keeps z (clearFailed c r s) := by
  unfold clearFailed
  dsimp only
  exact logError_keeps (foldl_keeps (State.onUnit_keeps h) (fun _ _ h1 => pinMaster_keeps h1))

theorem dieClearFailed_keeps {d : Nat} {s : State} (h : Keeps z s) : Keeps z (dieClearFailed d s) :=
  logError_keeps (State.fresh_keeps h)

theorem unitReleaseDo_keeps {u : PowerUnit} {r : ClearResult} {s : State} (h : Keeps z s) :
    Keeps z (unitReleaseDo u r s) := by
  unfold unitReleaseDo
  dsimp only
  split
  · exact h
  split
  · split
    · split
      · exact State.onUnit_keeps (State.setPower_keeps (wakeClear_keeps h))
      · exact h
    split
    · exact State.setPower_keeps (wakeClear_keeps h)
    · exact h
  split
  · exact clearFailed_keeps (State.setPower_keeps h)
  · exact dieClearFailed_keeps (State.setPower_keeps h)

theorem l2LockEffect_keeps {w : RegWr} {s : State} (h : Keeps z s) : Keeps z (l2LockEffect w s) := by
  unfold l2LockEffect
  dsimp only
  split
  · exact refuseWr_keeps h
  · exact storeWr_keeps h

theorem l2OpEffect_keeps {d : Nat} {w : RegWr} {s : State} (h : Keeps z s) : Keeps z (l2OpEffect d w s) := by
  unfold l2OpEffect
  dsimp only
  split
  · exact storeWr_keeps h
  · split <;> exact State.setL2_keeps (storeWr_keeps h)

theorem l2Clean_keeps {d line len : Nat} {drop : Bool} {s : State} (h : Keeps z s) :
    Keeps z (l2Clean d line len drop s) := by
  unfold l2Clean
  dsimp only
  split
  · exact l2Drop_keeps (foldl_keeps (l2FillIf_keeps h) (fun _ _ h1 => writeBack_keeps h1))
  · exact State.setL2_keeps (foldl_keeps (l2FillIf_keeps h) (fun _ _ h2 => writeBack_keeps h2))

theorem l2Skip_keeps {d : Nat} {s : State} (h : Keeps z s) : Keeps z (l2Skip d s) := State.setL2_keeps h

theorem lockLoad_keeps {d key line : Nat} {s : State} (h : Keeps z s) : Keeps z (lockLoad d key line s) := by
  unfold lockLoad
  dsimp only
  split
  · split
    · exact l2Skip_keeps h
    split
    · split
      · exact foldl_keeps h (fun _ _ h1 => l2Fill_keeps h1)
      split
      · exact State.setL2_keeps (foldl_keeps h (fun _ _ h2 => l2Fill_keeps h2))
      · exact l2Skip_keeps (foldl_keeps h (fun _ _ h3 => l2Fill_keeps h3))
    split
    · exact State.setL2_keeps (wcFlushIf_keeps (l2OtherKey_keeps (foldl_keeps h (fun _ _ h4 => l2Fill_keeps h4))))
    · exact l2Skip_keeps (l2OtherKey_keeps (foldl_keeps h (fun _ _ h5 => l2Fill_keeps h5)))
  split
  · exact l2Skip_keeps h
  split
  · split
    · exact foldl_keeps h (fun _ _ h6 => l2Fill_keeps h6)
    split
    · exact State.setL2_keeps (foldl_keeps h (fun _ _ h7 => l2Fill_keeps h7))
    · exact l2Skip_keeps (foldl_keeps h (fun _ _ h8 => l2Fill_keeps h8))
  split
  · exact State.setL2_keeps (wcFlushIf_keeps (l2OtherKey_keeps (foldl_keeps h (fun _ _ h9 => l2Fill_keeps h9))))
  · exact l2Skip_keeps (l2OtherKey_keeps (foldl_keeps h (fun _ _ h10 => l2Fill_keeps h10)))

theorem l2OpDoneDo_keeps {d : Nat} {io : HostIO} {s : State} (h : Keeps z s) : Keeps z (l2OpDoneDo d io s) := by
  unfold l2OpDoneDo
  dsimp only
  split
  · exact applyIO_keeps h
  refine metaLog_keeps ?_
  refine State.setL2_keeps ?_
  split
  · exact l2Clean_keeps (applyIO_keeps h)
  · exact l2Clean_keeps (applyIO_keeps h)
  · exact foldl_keeps (applyIO_keeps h) (fun _ _ h1 => lockLoad_keeps h1)

theorem freeLine_keeps {m : L2Miss} {s : State} (h : Keeps z s) : Keeps z (freeLine m s).2 := by
  unfold freeLine
  dsimp only
  exact freeBytes_keeps h

theorem l2LineFillDo_keeps {d miss : Nat} {io : HostIO} {s : State} (h : Keeps z s) :
    Keeps z (l2LineFillDo d miss io s) := by
  unfold l2LineFillDo
  dsimp only
  split
  · exact applyIO_keeps h
  split
  · split
    · exact State.setL2_keeps (applyIO_keeps h)
    · exact l2Place_keeps (freeLine_keeps (State.setL2_keeps (applyIO_keeps h)))
  split
  · split
    · split
      · exact metaLog_keeps (l2Fill_keeps (applyIO_keeps h))
      · exact l2Insert_keeps (metaLog_keeps (l2Fill_keeps (applyIO_keeps h)))
    split
    · exact metaLog_keeps (l2Fill_keeps (applyIO_keeps h))
    · exact l2Insert_keeps (metaLog_keeps (l2Fill_keeps (applyIO_keeps h)))
  · exact l2Fill_keeps (applyIO_keeps h)

theorem wcTimeoutDo_keeps {d slice : Nat} {s : State} (h : Keeps z s) : Keeps z (wcTimeoutDo d slice s) := wcFlushIf_keeps h

end Sys2Proof.Machine
end

section
/-! The queue and the canonical form are kept: Machine/Reshard.lean. -/

namespace Sys2Proof.Machine

open Sys2Proof

variable {z : State}

theorem planStatus_keeps {x : Reshard} {i status detail oldPa : Nat} {s : State} (h : Keeps z s) :
    Keeps z (planStatus x i status detail oldPa s) :=
  getD_keeps (devWrite_keeps (getD_keeps (devWrite_keeps h) h)) (getD_keeps (devWrite_keeps h) h)

theorem planNotRun_keeps {x : Reshard} {is : List Nat} {s : State} (h : Keeps z s) : Keeps z (planNotRun x is s) :=
  foldl_keeps h (fun _ _ h1 => planStatus_keeps h1)

theorem planTriggerError_keeps {d : Nat} {why : Reason} {s : State} (h : Keeps z s) : Keeps z (planTriggerError d why s) :=
  planStop_keeps (State.setPlan_keeps (planNotRun_keeps h))

theorem leafSlot_keeps {ctx va x x1 : Nat} {s : State} (h : Keeps z s) : Res.keeps z (leafSlot ctx va x x1 s) := by
  induction x generalizing ctx va x1 s with
  | zero =>
    unfold leafSlot
    exact h
  | succ x' ih =>
    unfold leafSlot
    dsimp only
    split
    · exact (walkRead_keeps h).fault ‹_›
    · exact (walkRead_keeps h).severed ‹_›
    · exact (walkRead_keeps h).wait ‹_›
    rename_i heq
    have h1 := (walkRead_keeps h).ok heq
    split
    · exact h1
    split
    · split
      · exact (walkRead_keeps h1).fault ‹_›
      · exact (walkRead_keeps h1).severed ‹_›
      · exact (walkRead_keeps h1).wait ‹_›
      · exact (walkRead_keeps h1).ok ‹_›
    split
    · exact h1
    · exact ih h1

theorem planEnded_keeps {d i status detail oldPa : Nat} {s : State} (h : Keeps z s) :
    Keeps z (planEnded d i status detail oldPa s) := by
  unfold planEnded
  dsimp only
  split
  · exact State.setPlan_keeps (planStatus_keeps h)
  split
  · exact planStop_keeps (State.setPlan_keeps (planStatus_keeps h))
  · exact sendFence_keeps (wcFlushAll_keeps (State.setPlan_keeps (State.setPlan_keeps (planStatus_keeps h))))

theorem freeRecord_keeps {f : FaultInfo} {s : State} (h : Keeps z s) : Keeps z (freeRecord f s).2 :=
  State.fresh_keeps (State.fresh_keeps h)

theorem engineFault_keeps {f : Flt} {m ctx va : Nat} {acc : Access} {s : State} (h : Keeps z s) :
    Keeps z (engineFault f m ctx va acc s) := by
  unfold engineFault
  dsimp only
  split
  · exact pinMaster_keeps h
  · exact takeFault_keeps (freeRecord_keeps h)

theorem onBegun_keeps {d i : Nat} {f : PlanEntry → PlanEntry} {s : State} (h : Keeps z s) : Keeps z (onBegun d i f s) :=
  State.setPlan_keeps h

theorem entryOver_keeps {d i status detail : Nat} {s : State} (h : Keeps z s) : Keeps z (entryOver d i status detail s) :=
  onBegun_keeps h

theorem walkFault_keeps {d i : Nat} {f : Flt} {ctx va : Nat} {s : State} (h : Keeps z s) :
    Keeps z (walkFault d i f ctx va s) :=
  entryOver_keeps (engineFault_keeps h)

theorem putLeaf_keeps {ctx : Nat} {l : Leaf} {slot : Nat} {es : List Nat} {s : State} (h : Keeps z s) :
    Keeps z (putLeaf ctx l slot es s) :=
  tlbDiscard_keeps (getD_keeps (devWrite_keeps h) h)

theorem planBegin_keeps {d i : Nat} {s : State} (h : Keeps z s) : Keeps z (planBegin d i s) := by
  unfold planBegin
  dsimp only
  split
  · exact h
  · exact entryOver_keeps h
  rename_i heq
  have h1 := (devRead_keeps h).done heq
  split
  · exact entryOver_keeps h1
  split
  · exact h1
  split
  · exact walkFault_keeps ((xlate_keeps h1).fault ‹_›)
  · exact entryOver_keeps ((xlate_keeps h1).severed ‹_›)
  · exact (xlate_keeps h1).wait ‹_›
  rename_i heq
  have h2 := (xlate_keeps h1).ok heq
  split
  · exact entryOver_keeps h2
  split
  · exact entryOver_keeps h2
  split
  · exact walkFault_keeps ((leafSlot_keeps h2).fault ‹_›)
  · exact entryOver_keeps ((leafSlot_keeps h2).severed ‹_›)
  · exact (leafSlot_keeps h2).wait ‹_›
  rename_i heq
  have h3 := (leafSlot_keeps h2).ok heq
  split
  · exact entryOver_keeps h3
  split
  · exact entryOver_keeps h3
  split
  · exact entryOver_keeps h3
  split
  · exact putLeaf_keeps (onBegun_keeps h3)
  · exact onBegun_keeps h3

theorem planFill_keeps {d : Nat} {s : State} (h : Keeps z s) : Keeps z (planFill d s) := by
  unfold planFill
  dsimp only
  refine foldl_keeps h (fun _ _ h1 => ?_)
  split
  · exact planBegin_keeps (State.setPlan_keeps h1)
  · exact h1

theorem moveFailed_keeps {d i ctx : Nat} {l : Leaf} {slot : Nat} {old : List Byte} {code : Nat} {s : State} (h : Keeps z
    s) : Keeps z (moveFailed d i ctx l slot old code s) := by
  unfold moveFailed
  split
  · exact h
  refine planEnded_keeps ?_
  split
  · exact putLeaf_keeps h
  · exact h

theorem dropFrame_keeps {base size : Nat} {s : State} (h : Keeps z s) : Keeps z (dropFrame base size s) :=
  foldl_keeps h (fun _ _ h1 => l2Clean_keeps (l2FillIf_keeps (wcFlushIf_keeps h1)))

theorem planMove_keeps {d i ctx : Nat} {l : Leaf} {slot : Nat} {old : List Byte} {dst place : Nat} {s : State}
    (h : Keeps z s) : Keeps z (planMove d i ctx l slot old dst place s) := by
  unfold planMove
  dsimp only
  split
  · exact h
  split
  · exact h
  · exact moveFailed_keeps h
  · exact moveFailed_keeps (engineFault_keeps ((paRead_keeps h).fault ‹_›))
  rename_i heq
  have h1 := (paRead_keeps h).ok heq
  split
  · exact h
  · exact moveFailed_keeps h1
  · exact moveFailed_keeps (engineFault_keeps ((paWrite_keeps h1).fault ‹_›))
  · exact planEnded_keeps (dropFrame_keeps (putLeaf_keeps ((paWrite_keeps h1).ok ‹_›)))

theorem planTorn_keeps {d : Nat} {s : State} (h : Keeps z s) : Keeps z (planTorn d s) :=
  State.setPlan_keeps (State.fresh_keeps h)

theorem planSlot_keeps {d : Nat} {s : State} (h : Keeps z s) : Keeps z (planSlot d s) := by
  unfold planSlot
  dsimp only
  split
  · exact State.setPlan_keeps h
  · exact h

theorem planHooks_keeps {s : State} (h : Keeps z s) : Keeps z (planHooks s) := by
  unfold planHooks
  dsimp only
  refine foldl_keeps h (fun _ _ h1 => ?_)
  split
  · split
    · exact planTorn_keeps (planSlot_keeps h1)
    split
    · exact planTriggerError_keeps (planSlot_keeps h1)
    · exact planSlot_keeps h1
  · exact planSlot_keeps h1

theorem armDo_keeps {d : Nat} {s : State} (h : Keeps z s) : Keeps z (armDo d s) := by
  unfold armDo
  dsimp only
  split
  · exact State.setPlan_keeps (State.setPlan_keeps h)
  split
  · exact State.setPlan_keeps (State.setPlan_keeps h)
  split
  · exact State.setPlan_keeps (State.setPlan_keeps h)
  · exact State.setPlan_keeps (State.setPlan_keeps h)
  rename_i heq
  have h1 := (devRead_keeps (State.setPlan_keeps h)).done heq
  split
  · exact State.setPlan_keeps h1
  split
  · exact State.setPlan_keeps h1
  split
  · exact planFill_keeps (State.setPlan_keeps h1)
  · exact State.setPlan_keeps h1

theorem armRetry_keeps {s : State} (h : Keeps z s) : Keeps z (armRetry s) := by
  unfold armRetry
  refine foldl_keeps h (fun _ _ h1 => ?_)
  split
  · exact armDo_keeps h1
  · exact h1

theorem planStartDo_keeps {d : Nat} {s : State} (h : Keeps z s) : Keeps z (planStartDo d s) := by
  unfold planStartDo
  dsimp only
  split
  · exact planSlot_keeps h
  split
  · exact planTorn_keeps (planSlot_keeps h)
  split
  · exact planFill_keeps (State.setPlan_keeps (planSlot_keeps h))
  · exact planSlot_keeps h
  · exact planTriggerError_keeps (planSlot_keeps h)

theorem entryDoneDo_keeps {d i : Nat} {io : HostIO} {s : State} (h : Keeps z s) : Keeps z (entryDoneDo d i io s) := by
  unfold entryDoneDo
  dsimp only
  split
  · exact applyIO_keeps h
  split
  · exact planTorn_keeps (applyIO_keeps h)
  split
  · exact applyIO_keeps h
  refine metaLog_keeps ?_
  refine planFill_keeps ?_
  split
  · split
    · split
      · exact planBegin_keeps (applyIO_keeps h)
      · exact applyIO_keeps h
    · refine planEnded_keeps ?_
      split
      · exact planBegin_keeps (applyIO_keeps h)
      · exact applyIO_keeps h
    refine planMove_keeps ?_
    split
    · exact planBegin_keeps (applyIO_keeps h)
    · exact applyIO_keeps h
  split
  · exact planBegin_keeps (applyIO_keeps h)
  · exact applyIO_keeps h

theorem rshAbortDo_keeps {d : Nat} {s : State} (h : Keeps z s) : Keeps z (rshAbortDo d s) := by
  unfold rshAbortDo
  dsimp only
  split
  · exact planTriggerError_keeps h
  · split
    · exact h
    split
    · exact planStop_keeps (State.setPlan_keeps (planNotRun_keeps h))
    · exact State.setPlan_keeps (planNotRun_keeps h)
  · exact h

theorem rshEffect_keeps {d : Nat} {w : RegWr} {s : State} (h : Keeps z s) : Keeps z (rshEffect d w s) := by
  unfold rshEffect
  dsimp only
  split
  · refine rshAbortDo_keeps ?_
    split
    · exact armDo_keeps (storeWr_keeps h)
    · exact storeWr_keeps h
  split
  · exact armDo_keeps (storeWr_keeps h)
  · exact storeWr_keeps h

end Sys2Proof.Machine
end

section
/-! The queue and the canonical form are kept: Machine/Operands.lean. -/

namespace Sys2Proof.Machine

open Sys2Proof

variable {z : State}

theorem setGroup_keeps {g : Group} {s : State} (h : Keeps z s) : Keeps z (setGroup g s) := State.onShd_keeps h
theorem dropGroup_keeps {g : Group} {s : State} (h : Keeps z s) : Keeps z (dropGroup g s) := State.onShd_keeps h
theorem syncUnits_keeps {o : OpRef} {s : State} (h : Keeps z s) : Keeps z (syncUnits o s) := State.onOp_keeps h

theorem killOp_keeps {o : OpRef} {status detail : Nat} {s : State} (h : Keeps z s) : Keeps z (killOp o status detail s) :=
  shdSweep_keeps (endOp_keeps h)

theorem killGroup_keeps {g : Group} {status detail : Nat} {s : State} (h : Keeps z s) :
    Keeps z (killGroup g status detail s) := by
  unfold killGroup
  split
  · exact killOp_keeps h
  · exact closeOps_keeps (passFail_keeps (syncUnits_keeps (dropGroup_keeps h)))

theorem killFor_keeps {g : Group} {cause : Nat} {s : State} (h : Keeps z s) : Keeps z (killFor g cause s) :=
  killGroup_keeps h

theorem writeLanes_keeps {g : Group} {dst : Nat} {f : Nat → Word} {s : State} (h : Keeps z s) :
    Keeps z (writeLanes g dst f s) :=
  setGroup_keeps h

end Sys2Proof.Machine
end

section
/-! The queue and the canonical form are kept: Machine/Shader.lean. -/

namespace Sys2Proof.Machine

open Sys2Proof

variable {z : State}

theorem setParkq_keeps {fn : Nat} {c : QueueCnt} {s : State} (h : Keeps z s) : Keeps z (setParkq fn c s) :=
  State.onShd_keeps h

theorem loseParkRec_keeps {fn : Nat} {s : State} (h : Keeps z s) : Keeps z (loseParkRec fn s) := setParkq_keeps h

theorem parkqHeader_keeps {fn base : Nat} {s : State} (h : Keeps z s) : Keeps z (parkqHeader fn base s) :=
  getD_keeps (devWrite_keeps (getD_keeps (devWrite_keeps h) h)) (getD_keeps (devWrite_keeps h) h)

theorem parkPut_keeps {fn : Nat} {rec' : List Byte} {s : State} (h : Keeps z s) : ParkPut.keeps z (parkPut fn rec' s) := by
  unfold parkPut
  dsimp only
  split
  · exact noteViolation_keeps h
  · exact h
  rename_i heq
  have h1 := (devRead_keeps h).done heq
  split
  · exact h1
  split
  · exact parkqHeader_keeps (loseParkRec_keeps (noteViolation_keeps h1))
  rename_i heq
  have h2 := (devWrite_keeps h1).some heq
  split
  · exact raiseVec_keeps (parkqHeader_keeps (setParkq_keeps h2))
  · exact parkqHeader_keeps (setParkq_keeps h2)

theorem parkGroup_keeps {g : Group} {wgRec : Bool} {cause va seq info0 info1 : Nat} {s : State} (h : Keeps z s) :
    Keeps z (parkGroup g wgRec cause va seq info0 info1 s) := by
  unfold parkGroup
  dsimp only
  split
  · exact killFor_keeps (loseParkRec_keeps h)
  split
  · exact (parkPut_keeps (State.onShd_keeps h)).written ‹_›
  · exact State.onShd_keeps ((parkPut_keeps (State.onShd_keeps h)).full ‹_›)
  · exact killFor_keeps ((parkPut_keeps (State.onShd_keeps h)).lost ‹_›)

theorem groupFault_keeps {g : Group} {f : Flt} {va : Nat} {acc : Access} {lanes : Word} {s : State} (h : Keeps z s) :
    Keeps z (groupFault g f va acc lanes s) := by
  unfold groupFault
  dsimp only
  split
  · refine closeOps_keeps ?_
    split
    · exact shdSweep_keeps (masterFault_keeps h)
    · exact killGroup_keeps (shdSweep_keeps (masterFault_keeps h))
  · exact parkGroup_keeps (shdSweep_keeps (masterFault_keeps h))

theorem parkRetryDo_keeps {fn : Nat} {io : HostIO} {s : State} (h : Keeps z s) : Keeps z (parkRetryDo fn io s) := by
  unfold parkRetryDo
  dsimp only
  refine foldl_keeps (shdSweep_keeps (applyIO_keeps h)) (fun _ _ h1 => ?_)
  split
  · exact h1
  split
  · exact (parkPut_keeps h1).full ‹_›
  · exact State.onShd_keeps ((parkPut_keeps h1).written ‹_›)
  rename_i heq
  have h2 := (parkPut_keeps h1).lost heq
  split
  · exact killFor_keeps (State.onShd_keeps h2)
  · exact State.onShd_keeps h2

theorem onWg_keeps {o : OpRef} {w : Nat} {f : Workgroup → Workgroup} {s : State} (h : Keeps z s) : Keeps z (onWg o w f s) :=
  State.onShd_keeps h

theorem barrierCheck_keeps {o : OpRef} {w : Nat} {s : State} (h : Keeps z s) : Keeps z (barrierCheck o w s) := by
  unfold barrierCheck
  dsimp only
  split
  · split
    · exact State.onShd_keeps (onWg_keeps h)
    · exact h
  · exact h

theorem runDone_keeps {o : OpRef} {s : State} (h : Keeps z s) : Keeps z (runDone o s) := by
  unfold runDone
  split
  · split
    · exact shdSweep_keeps (endOp_keeps h)
    · exact h
  · exact h

theorem groupDone_keeps {g : Group} {s : State} (h : Keeps z s) : Keeps z (groupDone g s) := by
  unfold groupDone
  dsimp only
  split
  · exact syncUnits_keeps (dropGroup_keeps h)
  refine runDone_keeps ?_
  refine syncUnits_keeps ?_
  split
  · exact State.onShd_keeps (dropGroup_keeps h)
  · exact barrierCheck_keeps (dropGroup_keeps h)

theorem settleGroup_keeps {g : Group} {s : State} (h : Keeps z s) : Keeps z (settleGroup g s) := by
  unfold settleGroup
  dsimp only
  split
  · exact groupDone_keeps (setGroup_keeps h)
  split
  · exact barrierCheck_keeps (setGroup_keeps h)
  · exact setGroup_keeps h

theorem pushEnt_keeps {e : StackEnt} {g : Group} {s : State} (h : Keeps z s) : Push.keeps z (pushEnt e g s) := by
  unfold pushEnt
  dsimp only
  split
  · exact h
  split
  · exact trivial
  split
  · exact (vaWrite_keeps h).ok ‹_›
  · exact (vaWrite_keeps h).fault ‹_›
  · exact (vaWrite_keeps h).severed ‹_›
  · exact trivial

theorem pushAll_keeps {x : List StackEnt} {x1 : Group} {s : State} (h : Keeps z s) : Push.keeps z (pushAll x x1 s) := by
  induction x generalizing x1 s with
  | nil =>
    unfold pushAll
    exact h
  | cons x0 x ih =>
    unfold pushAll
    split
    · exact ih ((pushEnt_keeps h).ok ‹_›)
    · exact pushEnt_keeps h

theorem withPush_keeps {g : Group} {l : List StackEnt} {k : Group → Group} {s : State} (h : Keeps z s) :
    Keeps z (withPush g l k s) := by
  unfold withPush
  split
  · exact setGroup_keeps ((pushAll_keeps h).ok ‹_›)
  · exact parkGroup_keeps h
  · exact groupFault_keeps ((pushAll_keeps h).fault ‹_›)
  · exact killGroup_keeps ((pushAll_keeps h).severed ‹_›)
  · exact h

theorem branchDo_keeps {cond : Src} {target rpc : Nat} {g : Group} {s : State} (h : Keeps z s) :
    Keeps z (branchDo cond target rpc g s) := by
  unfold branchDo
  dsimp only
  split
  · exact setGroup_keeps h
  split
  · exact setGroup_keeps h
  · exact withPush_keeps h

theorem joinDo_keeps {g : Group} {s : State} (h : Keeps z s) : Keeps z (joinDo g s) := by
  unfold joinDo
  split
  · exact h
  · exact settleGroup_keeps h

theorem yieldDo_keeps {g : Group} {s : State} (h : Keeps z s) : Keeps z (yieldDo g s) := by
  unfold yieldDo
  dsimp only
  split
  · split <;> exact setGroup_keeps h
  · exact setGroup_keeps h

theorem fillDo_keeps {core slot : Nat} {io : HostIO} {s : State} (h : Keeps z s) : Keeps z (fillDo core slot io s) := by
  unfold fillDo
  dsimp only
  split
  · exact shdSweep_keeps (applyIO_keeps h)
  split
  · exact shdSweep_keeps (applyIO_keeps h)
  split
  · exact shdSweep_keeps (applyIO_keeps h)
  split
  · exact settleGroup_keeps ((vaRead_keeps (shdSweep_keeps (applyIO_keeps h))).ok ‹_›)
  · exact groupFault_keeps ((vaRead_keeps (shdSweep_keeps (applyIO_keeps h))).fault ‹_›)
  · exact killGroup_keeps ((vaRead_keeps (shdSweep_keeps (applyIO_keeps h))).severed ‹_›)
  · exact (vaRead_keeps (shdSweep_keeps (applyIO_keeps h))).wait ‹_›

theorem fetchAt_keeps {g : Group} {s : State} (h : Keeps z s) : Res.keeps z (fetchAt g s).2 := vaRead_keeps h

theorem issue_keeps {r : GroupRef} {f : Group → State → State} {s : State} (hf : ∀ g s, Keeps z s → Keeps z (f g s))
    (h : Keeps z s) : Keeps z (issue r f s) := by
  have h1 := shdSweep_keeps h
  unfold issue
  dsimp only
  split
  · exact h1
  · split
    · exact h1
    · split
      · exact hf _ _ ((fetchAt_keeps h1).ok ‹_›)
      · exact groupFault_keeps ((fetchAt_keeps h1).fault ‹_›)
      · exact killGroup_keeps ((fetchAt_keeps h1).severed ‹_›)
      · exact (fetchAt_keeps h1).wait ‹_›

theorem dispatchRead_keeps {o : OpRef} {ctx va n : Nat} {k : List Byte → State → State} {s : State}
    (hf : ∀ (a : List Byte) (a_1 : State), Keeps z a_1 → Keeps z (k a a_1)) (h : Keeps z s) : Keeps z (dispatchRead o
    ctx va n k s) := by
  unfold dispatchRead
  dsimp only
  split
  · exact hf _ _ ((feRead_keeps h).ok ‹_›)
  · exact endOp_keeps (feFault_keeps ((feRead_keeps h).fault ‹_›))
  · exact endOp_keeps ((feRead_keeps h).severed ‹_›)
  · exact (feRead_keeps h).wait ‹_›

theorem startDispatch_keeps {o : OpRef} {ctx : Nat} {hdr : List Byte} {gx gy gz : Nat} {s : State} (h : Keeps z s) :
    Keeps z (startDispatch o ctx hdr gx gy gz s) := by
  unfold startDispatch
  dsimp only
  exact State.onShd_keeps h

theorem shdStart_keeps {indirect : Bool} {o : OpRef} {e : Entry} {p : Op} {s : State} (h : Keeps z s) :
    Keeps z (shdStart indirect o e p s) := by
  unfold shdStart
  dsimp only
  split
  · exact h
  split
  · exact endOp_keeps h
  split
  · exact endOp_keeps h
  refine dispatchRead_keeps (fun _ _ h1 => ?_) h
  split
  · exact endOp_keeps h1
  split
  · refine dispatchRead_keeps (fun _ _ h2 => ?_) h1
    split
    · exact endOp_keeps h2
    split
    · exact endOp_keeps h2
    · exact startDispatch_keeps h2
  · exact startDispatch_keeps h1

theorem onL1_keeps {f : List L1Line → List L1Line} {s : State} (h : Keeps z s) : Keeps z (onL1 f s) := State.onShd_keeps h
theorem l1Drop_keeps {k ctx : Nat} {s : State} (h : Keeps z s) : Keeps z (l1Drop k ctx s) := onL1_keeps h

theorem placeWorkgroup_keeps {o : OpRef} {s : State} (h : Keeps z s) : Keeps z (placeWorkgroup o s) := by
  unfold placeWorkgroup
  dsimp only
  split
  · split
    · exact shdSweep_keeps h
    split
    · exact shdSweep_keeps h
    refine syncUnits_keeps ?_
    refine State.onShd_keeps ?_
    split
    · exact shdSweep_keeps h
    · exact l1Drop_keeps (shdSweep_keeps h)
  · exact shdSweep_keeps h

theorem writeCodes_keeps {g : Group} {dst w : Nat} {f : Nat → Nat} {s : State} (h : Keeps z s) :
    Keeps z (writeCodes g dst w f s) := by
  unfold writeCodes
  dsimp only
  split
  · exact writeLanes_keeps h
  · exact writeLanes_keeps (h.same rfl rfl rfl rfl)

theorem toIntDo_keeps {trunc : Bool} {fmt dst : Nat} {a : Src} {g : Group} {s : State} (h : Keeps z s) :
    Keeps z (toIntDo trunc fmt dst a g s) := by
  unfold toIntDo
  split
  · exact writeCodes_keeps h
  · exact h

theorem srConvDo_keeps {fmt : Nat} {sat : Bool} {dst : Nat} {a seed pos : Src} {g : Group} {s : State} (h : Keeps z s) :
    Keeps z (srConvDo fmt sat dst a seed pos g s) := by
  unfold srConvDo
  dsimp only
  split
  · exact writeCodes_keeps h
  · exact h

theorem checkLane_keeps {g : Group} {acc : Access} {a : Nat × Nat} {r : LaneChecks} {s : State} (h : Keeps z s) :
    Keeps z (checkLane g acc a r s).2 := by
  unfold checkLane
  dsimp only
  split
  · split <;> exact ((xlate_keeps h).ok ‹_›)
  · exact (xlate_keeps h).fault ‹_›
  · exact (xlate_keeps h).severed ‹_›
  · exact (xlate_keeps h).wait ‹_›

theorem checkLanes_keeps {g : Group} {acc : Access} {addrs : List (Nat × Nat)} {s : State} (h : Keeps z s) :
    Checked.keeps z (checkLanes g acc addrs s) := by
  have hk : Keeps z (addrs.foldl (fun (r : LaneChecks × State) a => checkLane g acc a r.1 r.2)
      ({ accs := [], first := none, severed := false, waits := false }, s)).2 :=
    foldl_snd h fun _ _ hr => checkLane_keeps hr
  unfold checkLanes
  dsimp only
  split
  · exact hk
  · split
    · exact hk
    · split <;> exact hk

theorem withLanes_keeps {g : Group} {acc : Access} {size : Nat} {lo hi : Src} {k : List LaneAcc → State → State}
    {s : State} (hf : ∀ (a : List LaneAcc) (a_1 : State), Keeps z a_1 → Keeps z (k a a_1)) (h : Keeps z s) : Keeps z
    (withLanes g acc size lo hi k s) := by
  unfold withLanes
  dsimp only
  split
  · exact parkGroup_keeps h
  split
  · exact hf _ _ ((checkLanes_keeps h).ok ‹_›)
  · exact groupFault_keeps ((checkLanes_keeps h).fault ‹_›)
  · exact killGroup_keeps ((checkLanes_keeps h).severed ‹_›)
  · exact (checkLanes_keeps h).wait ‹_›

theorem laneRead_keeps {g : Group} {n : Nat} {a : LaneAcc} {s : State} (h : Keeps z s) : Acc.keeps z (laneRead g n a s) := by
  unfold laneRead
  dsimp only
  split
  · split
    · split
      · exact State.fresh_keeps h
      · exact h
    split
    · refine Acc.keeps.ok ?_ ‹_›
      refine paRead_keeps ?_
      split
      · exact State.fresh_keeps h
      · exact h
    · refine Acc.keeps.fault ?_ ‹_›
      refine paRead_keeps ?_
      split
      · exact State.fresh_keeps h
      · exact h
    · exact trivial
    · exact trivial
  split
  · exact (paRead_keeps h).ok ‹_›
  · exact (paRead_keeps h).fault ‹_›
  · exact trivial
  · exact trivial

theorem l1Take_keeps {core : Nat} {ls : List L1Line} {s : State} (h : Keeps z s) : Keeps z (l1Take core ls s) :=
  State.onShd_keeps h

theorem l1Update_keeps {core key pa : Nat} {bs : List Byte} {s : State} (h : Keeps z s) :
    Keeps z (l1Update core key pa bs s) :=
  onL1_keeps h

theorem l1Forget_keeps {core pa : Nat} {s : State} (h : Keeps z s) : Keeps z (l1Forget core pa s) := onL1_keeps h

theorem highBits_keeps {size : Nat} {s : State} (h : Keeps z s) : Keeps z (highBits size s).2 := by
  unfold highBits
  dsimp only
  split
  · exact State.fresh_keeps h
  · exact h

theorem loadLanes_keeps {g : Group} {dst size : Nat} {l : List LaneAcc} {s : State} (h : Keeps z s) :
    Acc.keeps z (loadLanes g dst size l s) := by
  unfold loadLanes
  refine foldl_inv h fun r a hr => ?_
  cases r with
  | ok w u =>
    dsimp only
    split
    · exact highBits_keeps ((laneRead_keeps hr).ok ‹_›)
    · exact (laneRead_keeps hr).fault ‹_›
    · trivial
    · trivial
  | _ => exact hr

theorem beginLoad_keeps {g : Group} {w : LoadWait} {s : State} (h : Keeps z s) : Keeps z (beginLoad g w s) :=
  setGroup_keeps (State.onShd_keeps h)

theorem waitLoad_keeps {g : Group} {r : Acc LoadWait} {s0 : State} (h : Acc.keeps z r) (h1 : Keeps z s0) :
    Keeps z (waitLoad g r s0) := by
  unfold waitLoad
  split
  · exact beginLoad_keeps h
  · exact killGroup_keeps h1
  · exact h1

theorem hostQuiet_keeps {s : State} (h : Keeps z s) : Keeps z (hostQuiet s) := State.onMem_keeps h (fun _ => ⟨rfl, rfl⟩)

theorem withShared_keeps {g : Group} {acc : Access} {size : Nat} {lo : Src} {k : List LaneAcc → State → State}
    {s : State} (hf : ∀ (a : List LaneAcc) (a_1 : State), Keeps z a_1 → Keeps z (k a a_1)) (h : Keeps z s) : Keeps z
    (withShared g acc size lo k s) := by
  unfold withShared
  dsimp only
  split
  · exact parkGroup_keeps h
  split
  · exact groupFault_keeps h
  · exact killGroup_keeps h
  · exact h
  · exact hf _ _ h

theorem sharedMisses_keeps {g : Group} {dst size : Nat} {l : List LaneAcc} {s : State} (h : Keeps z s) :
    Keeps z (sharedMisses g dst size l s).2 := by
  unfold sharedMisses
  dsimp only
  exact foldl_snd h (fun _ _ h1 => foldl_snd h1 (fun _ _ h2 => State.fresh_keeps h2))

theorem loadDo_keeps {sp : MemSpace} {dst : Nat} {lo hi : Src} {size : Nat} {g : Group} {s : State} (h : Keeps z s) :
    Keeps z (loadDo sp dst lo hi size g s) := by
  unfold loadDo
  dsimp only
  split
  · exact withLanes_keeps (fun _ _ h1 => waitLoad_keeps (loadLanes_keeps (hostQuiet_keeps h1)) (hostQuiet_keeps h1)) h
  refine withShared_keeps (fun _ _ h2 => ?_) h
  split
  · exact beginLoad_keeps (sharedMisses_keeps ((loadLanes_keeps h2).ok ‹_›))
  · exact h2

theorem storeOrder_keeps {l : List LaneAcc} {s : State} (h : Keeps z s) : Keeps z (storeOrder l s).2 := by
  unfold storeOrder
  dsimp only
  split
  · exact State.fresh_keeps h
  · exact h

theorem laneWrite_keeps {g : Group} {a : LaneAcc} {bs : List Byte} {s : State} (h : Keeps z s) :
    Keeps z (laneWrite g a bs s) := by
  unfold laneWrite
  split
  · exact l1Update_keeps ((paWrite_keeps h).ok ‹_›)
  · exact (paWrite_keeps h).fault ‹_›
  · exact h

theorem storeLanes_keeps {g : Group} {src size : Nat} {l : List LaneAcc} {s : State} (h : Keeps z s) :
    Keeps z (storeLanes g src size l s) :=
  setGroup_keeps (foldl_keeps (storeOrder_keeps h) (fun _ _ h1 => laneWrite_keeps h1))

theorem storeDo_keeps {sp : MemSpace} {src : Nat} {lo hi : Src} {size : Nat} {g : Group} {s : State} (h : Keeps z s) :
    Keeps z (storeDo sp src lo hi size g s) := by
  unfold storeDo
  split
  · exact withLanes_keeps (fun _ _ h1 => storeLanes_keeps h1) h
  · exact withShared_keeps (fun _ _ h2 => storeLanes_keeps h2) h

theorem atomLanes_keeps {g : Group} {op : AtomOp} {ty : AtomType} {operand compare : Nat} {l : List LaneAcc} {s : State}
    (h : Keeps z s) : Keeps z (atomLanes g op ty operand compare l s).2 := by
  unfold atomLanes
  refine foldl_snd h fun r a hr => ?_
  dsimp only
  split
  · split
    · exact l1Forget_keeps ((paWrite_keeps ((paRead_keeps hr).ok ‹_›)).ok ‹_›)
    · exact hr
  · exact hr

theorem atomEnd_keeps {g : Group} {op : AtomOp} {ty : AtomType} {ret : Option Nat} {operand compare : Nat}
    {l : List LaneAcc} {vas : List Nat} {s : State} (h : Keeps z s) : Keeps z (atomEnd g op ty ret operand compare l vas
    s) := by
  unfold atomEnd
  dsimp only
  split
  · exact setGroup_keeps (atomLanes_keeps h)
  · exact beginLoad_keeps (sharedMisses_keeps (atomLanes_keeps h))

theorem atomicDo_keeps {sp : MemSpace} {op : AtomOp} {ty : AtomType} {ret : Option Nat} {lo hi : Src} {operand compare :
    Nat} {g : Group} {s : State} (h : Keeps z s) : Keeps z (atomicDo sp op ty ret lo hi operand compare g s) := by
  unfold atomicDo
  dsimp only
  split
  · refine withLanes_keeps (fun _ _ h1 => ?_) h
    split
    · exact parkGroup_keeps h1
    · exact atomEnd_keeps h1
  · exact withShared_keeps (fun _ _ h2 => atomEnd_keeps h2) h

theorem responseDo_keeps {core slot : Nat} {err : Bool} {s : State} (h : Keeps z s) :
    Keeps z (responseDo core slot err s) := by
  unfold responseDo
  dsimp only
  split
  · exact shdSweep_keeps h
  split
  · exact shdSweep_keeps h
  split
  · exact shdSweep_keeps h
  split
  · exact groupFault_keeps (setGroup_keeps (shdSweep_keeps h))
  · exact l1Take_keeps (setGroup_keeps (shdSweep_keeps h))

theorem barrierDo_keeps {g : Group} {s : State} (h : Keeps z s) : Keeps z (barrierDo g s) := by
  unfold barrierDo
  dsimp only
  split
  · exact setGroup_keeps h
  · exact barrierCheck_keeps (setGroup_keeps (onWg_keeps h))

theorem barrierTimeoutDo_keeps {core slot : Nat} {s : State} (h : Keeps z s) : Keeps z (barrierTimeoutDo core slot s) := by
  unfold barrierTimeoutDo
  dsimp only
  split
  · exact shdSweep_keeps h
  split
  · split
    · exact parkGroup_keeps (shdSweep_keeps h)
    · exact shdSweep_keeps h
  split
  · split
    · exact shdSweep_keeps h
    · exact parkGroup_keeps (shdSweep_keeps h)
  · exact shdSweep_keeps h

theorem parkResult_keeps {fn res : Nat} {s : State} (h : Keeps z s) : Keeps z (parkResult fn res s) := State.onShd_keeps h

theorem replayDo_keeps {fn : Nat} {s : State} (h : Keeps z s) : Keeps z (replayDo fn s) := by
  unfold replayDo
  dsimp only
  split
  · exact parkResult_keeps (shdSweep_keeps h)
  · exact parkResult_keeps (shdSweep_keeps (State.onShd_keeps (shdSweep_keeps h)))

theorem killDo_keeps {fn : Nat} {s : State} (h : Keeps z s) : Keeps z (killDo fn s) := by
  unfold killDo
  dsimp only
  split
  · exact parkResult_keeps (shdSweep_keeps h)
  · exact parkResult_keeps (killFor_keeps (shdSweep_keeps h))

theorem parkCommand_keeps {fn op : Nat} {s : State} (h : Keeps z s) : Keeps z (parkCommand fn op s) := by
  unfold parkCommand
  split
  · exact h
  refine hostWrite_keeps (fun _ h1 => ?_) h
  split
  · exact replayDo_keeps h1
  split
  · exact killDo_keeps h1
  · exact h1

theorem watchdogDo_keeps {s : State} (h : Keeps z s) : Keeps z (watchdogDo s) := by
  unfold watchdogDo
  dsimp only
  refine foldl_keeps (shdSweep_keeps h) (fun _ _ h1 => ?_)
  split
  · exact killGroup_keeps h1
  · exact h1

theorem parkqBaseEffect_keeps {w : RegWr} {s : State} (h : Keeps z s) : Keeps z (parkqBaseEffect w s) :=
  setParkq_keeps (storeWr_keeps h)

theorem shdRetire_keeps {ctx : Nat} {s : State} (h : Keeps z s) : Keeps z (shdRetire ctx s) := State.onShd_keeps h
theorem shdStop_keeps {o : OpRef} {s : State} (h : Keeps z s) : Keeps z (shdStop o s) := State.onShd_keeps h

end Sys2Proof.Machine
end

section
/-! The queue and the canonical form are kept: Machine/Render.lean. -/

namespace Sys2Proof.Machine

open Sys2Proof

variable {z : State}

theorem poolPut_keeps {p : PassRun} {off n v : Nat} {s : State} (h : Keeps z s) : Tr.keeps z (poolPut p off n v s) :=
  tWrite_keeps h

theorem binStatePut_keeps {p : PassRun} {t : Nat} {s : State} (h : Keeps z s) : Tr.keeps z (binStatePut p t s) :=
  tWrite_keeps h

theorem binStateInit_keeps {p : PassRun} {s : State} (h : Keeps z s) : Tr.keeps z (binStateInit p s) := by
  unfold binStateInit
  exact Tr.bind_keeps (trMap_keeps (fun _ _ h1 => binStatePut_keeps h1) h) (fun _ _ h2 => h2)

theorem dropRole_keeps {o : OpRef} {gone : GroupRole → Bool} {s : State} (h : Keeps z s) : Keeps z (dropRole o gone s) :=
  shdSweep_keeps (State.onShd_keeps h)

theorem dropTile_keeps {t : PassTile} {s : State} (h : Keeps z s) : Keeps z (dropTile t s) :=
  syncUnits_keeps (State.onRnd_keeps (dropRole_keeps h))

theorem passFeFault_keeps {o : OpRef} {ctx : Nat} {f : Flt} {s : State} (h : Keeps z s) : Keeps z (passFeFault o ctx f s) :=
  closeOps_keeps (passFail_keeps (feFault_keeps h))

theorem passFault_keeps {o : OpRef} {m ctx : Nat} {f : Flt} {va : Nat} {acc : Access} {s : State} (h : Keeps z s) :
    Keeps z (passFault o m ctx f va acc s) := by
  unfold passFault
  dsimp only
  refine closeOps_keeps ?_
  split <;> exact passFail_keeps (masterFault_keeps h)

theorem failPass_keeps {o : OpRef} {status detail : Nat} {s : State} (h : Keeps z s) :
    Keeps z (failPass o status detail s) :=
  closeOps_keeps (passFail_keeps h)

theorem passTr_keeps {α : Type} {o : OpRef} {m ctx : Nat} {r : Tr α} {s0 : State} {k : α → State → State} (h : Tr.keeps
    z r) (h1 : Keeps z s0) (hf : ∀ (a : α) (a_1 : State), Keeps z a_1 → Keeps z (k a a_1)) : Keeps z (passTr o m ctx r
    s0 k) := by
  unfold passTr
  split
  · exact hf _ _ h
  · split
    · exact passFeFault_keeps h
    · exact passFault_keeps h
  · exact failPass_keeps h
  · exact failPass_keeps h
  · exact h1

theorem passStart_keeps {o : OpRef} {ctx : Nat} {d sip : List Byte} {ops : List (List Byte)} {s : State} (h : Keeps z s) :
    Keeps z (passStart o ctx d sip ops s) := by
  unfold passStart
  dsimp only
  split
  · exact endOp_keeps (feFault_keeps ((tRead_keeps h).fault ‹_›))
  · exact endOp_keeps ((tRead_keeps h).bad ‹_›)
  · exact endOp_keeps ((tRead_keeps h).severed ‹_›)
  · exact (tRead_keeps h).wait ‹_›
  rename_i heq
  have h1 := (tRead_keeps h).ok heq
  split
  · exact endOp_keeps h1
  split
  · exact failPass_keeps (State.onRnd_keeps h1)
  · exact passTr_keeps (Tr.bind_keeps (tWrite_keeps (State.onRnd_keeps h1)) (fun _ _ h2 => binStateInit_keeps h2)) h1
        (fun _ _ h3 => h3)

theorem renderDo_keeps {o : OpRef} {e : Entry} {q : Op} {s : State} (h : Keeps z s) : Keeps z (renderDo o e q s) := by
  unfold renderDo
  dsimp only
  split
  · exact closeOps_keeps h
  split
  · exact endOp_keeps (closeOps_keeps h)
  refine dispatchRead_keeps (fun _ _ h1 => ?_) (closeOps_keeps h)
  split
  · exact endOp_keeps h1
  split
  · exact endOp_keeps h1
  split
  · refine dispatchRead_keeps (fun _ _ h2 => ?_) h1
    split
    · exact endOp_keeps h2
    split
    · exact endOp_keeps h2
    refine dispatchRead_keeps (fun _ _ h3 => ?_) h2
    split
    · exact endOp_keeps h3
    split
    · exact endOp_keeps h3
    split
    · exact h3
    · exact passStart_keeps h3
  split
  · exact h1
  · exact passStart_keeps h1

theorem readDraw_keeps {m : Nat} {p : PassRun} {drawVa draw : Nat} {s : State} (h : Keeps z s) :
    Tr.keeps z (readDraw m p drawVa draw s) :=
  Tr.bind_keeps (tRead_keeps h) (fun _ _ h1 => Tr.bind_keeps (tRead_keeps h1) (fun _ _ h2 => h2))

theorem readIndices_keeps {ctx : Nat} {db : List Byte} {s : State} (h : Keeps z s) : Tr.keeps z (readIndices ctx db s) := by
  unfold readIndices
  dsimp only
  split
  · exact h
  · exact Tr.bind_keeps (tRead_keeps h) (fun _ _ h1 => h1)

theorem passBoundary_keeps {o : OpRef} {s : State} (h : Keeps z s) : Keeps z (passBoundary o s) := State.onPass_keeps h

theorem dealDo_keeps {o : OpRef} {c : Nat} {verts : List VertexOut} {io : HostIO} {s : State} (h : Keeps z s) :
    Keeps z (dealDo o c verts io s) := by
  unfold dealDo
  dsimp only
  split
  · split
    · exact closeOps_keeps (applyIO_keeps h)
    refine passTr_keeps (readDraw_keeps (closeOps_keeps (applyIO_keeps h))) (closeOps_keeps (applyIO_keeps h))
        (fun _ _ h1 => ?_)
    split
    · exact failPass_keeps h1
    refine passTr_keeps ?_ h1 (fun _ _ h2 => ?_)
    · refine Tr.bind_keeps (tRead_keeps h1) (fun _ _ h3 => ?_)
      refine Tr.bind_keeps ?_ (fun _ _ h4 => h4)
      split
      · exact h3
      · exact tRead_keeps h3
    split
    · exact failPass_keeps h2
    refine passTr_keeps (readIndices_keeps h2) h2 (fun _ _ h5 => ?_)
    split
    · exact State.onPass_keeps h5
    split
    · exact h5
    · exact State.onPass_keeps h5
  · exact closeOps_keeps (applyIO_keeps h)

theorem Take.bind_keeps {α β : Type} {r : Take α} {f : α → PassRun → State → Take β} (h : Take.keeps z r)
    (hf : ∀ (a : α) (a_1 : PassRun) (a_2 : State), Keeps z a_2 → Take.keeps z (f a a_1 a_2)) : Take.keeps z (r.bind f) := by
  unfold Take.bind
  split
  · exact hf _ _ _ h
  · exact h
  · exact h
  · exact h
  · exact h
  · exact trivial

theorem Tr.take_keeps {α : Type} {p : PassRun} {x : Tr α} (h : Tr.keeps z x) : Take.keeps z (Tr.take p x) := by
  unfold Tr.take
  split
  · exact h
  · exact h
  · exact h
  · exact h
  · exact trivial

theorem takeChunk_keeps {c : Nat} {p : PassRun} {s : State} (h : Keeps z s) : Take.keeps z (takeChunk c p s) := by
  unfold takeChunk
  dsimp only
  refine Take.bind_keeps (Tr.take_keeps (tRead_keeps h)) (fun _ _ _ h1 => ?_)
  split
  · split
    · exact h1
    refine Take.bind_keeps (Tr.take_keeps (tRead_keeps h1)) (fun _ _ _ h2 => ?_)
    split
    · exact h2
    · exact Tr.take_keeps (tWrite_keeps h2)
  split
  · exact h1
  refine Take.bind_keeps (Tr.take_keeps (tRead_keeps h1)) (fun _ _ _ h3 => ?_)
  split
  · exact h3
  · exact Tr.take_keeps (tWrite_keeps h3)

theorem allocItem_keeps {c size : Nat} {p : PassRun} {s : State} (h : Keeps z s) : Take.keeps z (allocItem c size p s) := by
  unfold allocItem
  dsimp only
  split
  · exact h
  refine Take.bind_keeps (takeChunk_keeps h) (fun _ _ _ h1 => ?_)
  split <;> exact h1

theorem silkPut_keeps {p : PassRun} {x : List Nat} {x1 : Option Nat} {x2 : SilkList} {s : State} (h : Keeps z s) :
    Tr.keeps z (silkPut p x x1 x2 s) := by
  induction x generalizing p x1 x2 s with
  | nil =>
    unfold silkPut
    exact h
  | cons x0 x ih =>
    unfold silkPut
    dsimp only
    split
    · exact Tr.bind_keeps (tWrite_keeps h) (fun _ _ h1 => ih h1)
    split
    · exact h
    refine Tr.bind_keeps ?_ (fun _ _ h2 => Tr.bind_keeps (tWrite_keeps h2) (fun _ _ h3 => ih h3))
    split
    · exact h
    · exact tWrite_keeps h

theorem appendPrim_keeps {b : BinBatch} {x : BinPrim} {t : Nat} {p : PassRun} {s : State} (h : Keeps z s) :
    Take.keeps z (appendPrim b x t p s) := by
  unfold appendPrim
  dsimp only
  refine Take.bind_keeps ?_ (fun _ _ _ h1 => Take.bind_keeps (Tr.take_keeps (silkPut_keeps h1)) (fun _ _ _ h2 =>
      Tr.take_keeps (binStatePut_keeps h2)))
  split
  · split
    · exact Take.bind_keeps (allocItem_keeps h) (fun _ _ _ h3 => h3)
    · exact h
  split
  · exact Take.bind_keeps (allocItem_keeps h) (fun _ _ _ h4 => h4)
  · exact h

theorem writeBlock_keeps {b : BinBatch} {p : PassRun} {s : State} (h : Keeps z s) : Take.keeps z (writeBlock b p s) :=
  Take.bind_keeps (allocItem_keeps h) (fun _ _ _ h1 => Take.bind_keeps (Tr.take_keeps (tWrite_keeps h1)) (fun _ _ _ h2
      => h2))

theorem binSteps_keeps {l : List (BinPrim × Nat)} {b : BinBatch} {p : PassRun} {s : State} (h : Keeps z s) :
    Take.keeps z (binSteps l b p s).2 := by
  induction l generalizing b p s with
  | nil => exact h
  | cons x l ih =>
    unfold binSteps
    split
    · exact ih ((appendPrim_keeps h).ok ‹_›)
    · exact appendPrim_keeps h

theorem binRun_keeps {b : BinBatch} {p : PassRun} {s : State} (h : Keeps z s) : Take.keeps z (binRun b p s).2 := by
  unfold binRun
  dsimp only
  split
  · exact h
  · split
    · split
      · exact binSteps_keeps ((writeBlock_keeps h).ok ‹_›)
      · exact (writeBlock_keeps h).empty ‹_›
      · exact (writeBlock_keeps h).bad ‹_›
      · exact (writeBlock_keeps h).fault ‹_›
      · exact (writeBlock_keeps h).severed ‹_›
      · trivial
    · exact binSteps_keeps h

theorem storePass_keeps {p : PassRun} {s : State} (h : Keeps z s) : Keeps z (storePass p s) := State.onPass_keeps h

theorem partialStart_keeps {o : OpRef} {s : State} (h : Keeps z s) : Keeps z (partialStart o s) :=
  syncUnits_keeps (dropRole_keeps (State.onPass_keeps h))

theorem partialBegin_keeps {p : PassRun} {s0 s : State} (h : Keeps z s0) (h1 : Keeps z s) : Keeps z (partialBegin p s0 s) :=
  passTr_keeps (poolPut_keeps h1) h (fun _ _ h2 => partialStart_keeps h2)

theorem growRaise_keeps {c : Nat} {p : PassRun} {s0 s : State} (h : Keeps z s0) (h1 : Keeps z s) :
    Keeps z (growRaise c p s0 s) := by
  unfold growRaise
  dsimp only
  split
  · exact storePass_keeps h1
  refine passTr_keeps (poolPut_keeps (storePass_keeps h1)) h (fun _ _ h2 => ?_)
  split
  · exact partialBegin_keeps h h2
  · exact raiseVec_keeps h2

theorem binEnd_keeps {o : OpRef} {c ctx : Nat} {r : Take Unit} {s0 : State} {k : PassRun → State → State}
    {keep : PassRun → PassRun} (h : Take.keeps z r) (h1 : Keeps z s0) (hf : ∀ (a : PassRun) (a_1 : State), Keeps z a_1 →
    Keeps z (k a a_1)) : Keeps z (binEnd o c ctx r s0 k keep) := by
  unfold binEnd
  split
  · exact hf _ _ h
  · exact growRaise_keeps h1 h
  · exact failPass_keeps h
  · exact passFeFault_keeps h
  · exact failPass_keeps h
  · exact h1

theorem binnedDo_keeps {o : OpRef} {c : Nat} {io : HostIO} {s : State} (h : Keeps z s) : Keeps z (binnedDo o c io s) := by
  have h1 := closeOps_keeps (applyIO_keeps (io := io) h)
  unfold binnedDo
  dsimp only
  split
  · exact h1
  · split
    · exact h1
    · split
      · exact h1
      · exact binEnd_keeps (binRun_keeps h1) h1 fun _ _ hu => passBoundary_keeps (storePass_keeps hu)

theorem grantChunks_keeps {s0 : State} {x : List Nat} {x1 : PassRun} {s : State} (h : Keeps z s0) (h1 : Keeps z s) :
    Keeps z (grantChunks s0 x x1 s) := by
  induction x generalizing s0 x1 s with
  | nil =>
    unfold grantChunks
    exact storePass_keeps h1
  | cons x0 x ih =>
    unfold grantChunks
    dsimp only
    split
    · exact ih h ((takeChunk_keeps h1).ok ‹_›)
    · rename_i heq
      have h2 := (takeChunk_keeps h1).empty heq
      split
      · split
        · exact ih h (growRaise_keeps h h2)
        · exact growRaise_keeps h h2
      · exact growRaise_keeps h h2
    · exact failPass_keeps ((takeChunk_keeps h1).bad ‹_›)
    · exact passFeFault_keeps ((takeChunk_keeps h1).fault ‹_›)
    · exact failPass_keeps ((takeChunk_keeps h1).severed ‹_›)
    · exact h

theorem growPollDo_keeps {o : OpRef} {io : HostIO} {s : State} (h : Keeps z s) : Keeps z (growPollDo o io s) := by
  unfold growPollDo
  dsimp only
  split
  · exact closeOps_keeps (applyIO_keeps h)
  split
  · exact closeOps_keeps (applyIO_keeps h)
  split
  · exact closeOps_keeps (applyIO_keeps h)
  refine passTr_keeps (tRead_keeps (closeOps_keeps (applyIO_keeps h))) (closeOps_keeps (applyIO_keeps h)) (fun _ _ h1 => ?_)
  split
  · exact grantChunks_keeps (closeOps_keeps (applyIO_keeps h)) h1
  split
  · exact partialBegin_keeps (closeOps_keeps (applyIO_keeps h)) h1
  · exact h1

theorem passDone_keeps {o : OpRef} {s : State} (h : Keeps z s) : Keeps z (passDone o s) := by
  unfold passDone
  split
  · split
    · split
      · exact endPass_keeps h
      · exact h
    split
    · exact endPass_keeps h
    · exact h
  · exact h

theorem fbcClearFrame_keeps {key frame word : Nat} {s : State} (h : Keeps z s) : Keeps z (fbcClearFrame key frame word s) :=
  foldl_keeps (dramWrite_keeps h) (fun _ _ h1 => State.setL2_keeps h1)

theorem writeClear_keeps {m : Nat} {p : PassRun} {j t : Nat} {s : State} (h : Keeps z s) :
    Tr.keeps z (writeClear m p j t s) := by
  unfold writeClear
  dsimp only
  split
  · rename_i heq
    have h1 := (xlate_keeps h).ok heq
    split
    · split
      · refine Tr.bind_keeps ?_ (fun _ _ h2 => h2)
        refine trMap_keeps (fun _ _ h3 => ?_) h1
        split
        · rename_i heq
          have h4 := (xlate_keeps h3).ok heq
          split
          · exact fbcClearFrame_keeps h4
          · exact tWrite_keeps h4
        · exact (xlate_keeps h3).fault ‹_›
        · exact (xlate_keeps h3).severed ‹_›
        · exact (xlate_keeps h3).wait ‹_›
      · exact tWrite_keeps h1
    split
    · refine Tr.bind_keeps ?_ (fun _ _ h5 => h5)
      refine trMap_keeps (fun _ _ h6 => ?_) h1
      split
      · rename_i heq
        have h7 := (xlate_keeps h6).ok heq
        split
        · exact fbcClearFrame_keeps h7
        · exact tWrite_keeps h7
      · exact (xlate_keeps h6).fault ‹_›
      · exact (xlate_keeps h6).severed ‹_›
      · exact (xlate_keeps h6).wait ‹_›
    · exact tWrite_keeps h1
  · exact (xlate_keeps h).fault ‹_›
  · exact (xlate_keeps h).severed ‹_›
  · exact (xlate_keeps h).wait ‹_›

theorem writeResolve_keeps {m : Nat} {p : PassRun} {j t : Nat} {val : Nat → Nat → Nat} {s : State} (h : Keeps z s) :
    Tr.keeps z (writeResolve m p j t val s) := by
  unfold writeResolve
  dsimp only
  generalize upTo 1024 = pixels
  split
  · exact h
  · apply Tr.bind_keeps
    · refine trMap_keeps (fun _ _ hu => ?_) h
      split
      · exact tWrite_keeps hu
      · exact hu
    · exact fun _ _ hu => hu

theorem clearTile_keeps {p : PassRun} {t : Nat} {s : State} (h : Keeps z s) : Tr.keeps z (clearTile p t s) := by
  unfold clearTile
  dsimp only
  refine Tr.bind_keeps ?_ (fun _ _ h1 => h1)
  refine trMap_keeps (fun _ _ h2 => ?_) h
  split
  · exact h2
  refine Tr.bind_keeps ?_ (fun _ _ h3 => writeResolve_keeps h3)
  split
  · exact writeClear_keeps h2
  · exact h2

theorem tileWrite_keeps {t : PassTile} {off : Nat} {bs : List Byte} {s : State} (h : Keeps z s) :
    Tr.keeps z (tileWrite t off bs s) :=
  Acc.tr_keeps h (paWrite_keeps h)

theorem tileRead_keeps {t : PassTile} {off n : Nat} {s : State} (h : Keeps z s) : Tr.keeps z (tileRead t off n s) :=
  Acc.tr_keeps h (paRead_keeps h)

theorem loadTile_keeps {p : PassRun} {t : PassTile} {s : State} (h : Keeps z s) : Tr.keeps z (loadTile p t s) := by
  unfold loadTile
  dsimp only
  refine Tr.bind_keeps ?_ (fun _ _ h1 => h1)
  refine trMap_keeps (fun _ _ h2 => ?_) h
  refine Tr.bind_keeps ?_ (fun _ _ h3 => tileWrite_keeps h3)
  split
  · exact tRead_keeps h2
  · exact h2

theorem joinCore_keeps {o : OpRef} {k ctx : Nat} {s : State} (h : Keeps z s) : Keeps z (joinCore o k ctx s) := by
  unfold joinCore
  split
  · split
    · exact h
    · exact State.onPass_keeps (l1Drop_keeps h)
  · exact h

theorem assignDo_keeps {o : OpRef} {t : Nat} {io : HostIO} {s : State} (h : Keeps z s) : Keeps z (assignDo o t io s) := by
  unfold assignDo
  dsimp only
  split
  · split
    · exact closeOps_keeps (applyIO_keeps h)
    split
    · exact passTr_keeps (clearTile_keeps (State.onPass_keeps (closeOps_keeps (applyIO_keeps h)))) (closeOps_keeps
          (applyIO_keeps h)) (fun _ _ h1 => passDone_keeps h1)
    split
    · exact closeOps_keeps (applyIO_keeps h)
    split
    · exact (loadTile_keeps (syncUnits_keeps (joinCore_keeps (State.onRnd_keeps (State.onPass_keeps (closeOps_keeps
          (applyIO_keeps h))))))).ok ‹_›
    · exact closeOps_keeps (applyIO_keeps h)
    · exact passFault_keeps (dropTile_keeps ((loadTile_keeps (syncUnits_keeps (joinCore_keeps (State.onRnd_keeps
          (State.onPass_keeps (closeOps_keeps (applyIO_keeps h))))))).fault ‹_›))
    · exact failPass_keeps (dropTile_keeps ((loadTile_keeps (syncUnits_keeps (joinCore_keeps (State.onRnd_keeps
          (State.onPass_keeps (closeOps_keeps (applyIO_keeps h))))))).bad ‹_›))
    · exact failPass_keeps (dropTile_keeps ((loadTile_keeps (syncUnits_keeps (joinCore_keeps (State.onRnd_keeps
          (State.onPass_keeps (closeOps_keeps (applyIO_keeps h))))))).severed ‹_›))
  · exact closeOps_keeps (applyIO_keeps h)

theorem silkRead_keeps {m ctx x x1 : Nat} {s : State} (h : Keeps z s) : Tr.keeps z (silkRead m ctx x x1 s) := by
  induction x generalizing m ctx x1 s with
  | zero =>
    unfold silkRead
    exact h
  | succ x' ih =>
    unfold silkRead
    dsimp only
    split
    · exact h
    refine Tr.bind_keeps (tRead_keeps h) (fun _ _ h1 => ?_)
    split
    · exact h1
    · exact Tr.bind_keeps (ih h1) (fun _ _ h2 => h2)

theorem silkPrims_keeps {m : Nat} {p : PassRun} {drawVa : Nat} {es : List Nat} {s : State} (h : Keeps z s) :
    Tr.keeps z (silkPrims m p drawVa es s) := by
  unfold silkPrims
  refine Tr.bind_keeps (foldl_inv h fun r e hr => ?_) fun _ _ hu => hu
  refine Tr.bind_keeps hr fun c u hu => ?_
  dsimp only
  split
  · exact Tr.bind_keeps (readDraw_keeps hu) fun _ _ hv => hv
  · exact hu
  · exact Tr.bind_keeps (trMap_keeps (fun _ _ hv => tRead_keeps hv) hu) fun _ _ hv => hv
  · exact hu

theorem tilePrims_keeps {m : Nat} {p : PassRun} {drawVa t : Nat} {s : State} (h : Keeps z s) :
    Tr.keeps z (tilePrims m p drawVa t s) := by
  unfold tilePrims
  dsimp only
  refine Tr.bind_keeps ?_ (fun _ _ h1 => h1)
  refine trMap_keeps (fun _ _ h2 => ?_) h
  split
  · exact h2
  · exact Tr.bind_keeps (silkRead_keeps h2) (fun _ _ h3 => silkPrims_keeps h3)

theorem sipTr_keeps {α : Type} {m : Nat} {r : Tr α} {k : α → State → SipEnd} (h : Tr.keeps z r) (hf : ∀ (a : α)
    (a_1 : State), Keeps z a_1 → SipEnd.keeps z (k a a_1)) : SipEnd.keeps z (sipTr m r k) := by
  unfold sipTr
  split
  · exact hf _ _ h
  · exact h
  · exact h
  · exact h
  · exact trivial

theorem sipRun_keeps {o : OpRef} {q : Op} {c ctx : Nat} {ftz : Bool} {l : List (List Byte)} {s : State} (h : Keeps z s) :
    Tr.keeps z (sipRun o q c ctx ftz l s).2 := by
  induction l generalizing s with
  | nil => exact h
  | cons b bs ih =>
    unfold sipRun
    dsimp only
    split
    · exact h
    · have hr : Tr.keeps z ((upTo (opItems (fld b 0 2) b 1)).foldl (fun (r : Tr Unit) i => r.bind fun _ s =>
          (runItem (sipOp q c b) o (arrayMaster c) ctx 0 i ftz s).bind fun s' _ => .ok () s')
          (.ok () (s.onRun o fun x => { x with parts := [] }))) :=
        foldl_inv (State.onRun_keeps h) fun _ _ hr => Tr.bind_keeps hr fun _ _ hu => (runItem_keeps hu).bind fun _ _ hv
            _ => hv
      split
      · exact ih (hr.ok ‹_›)
      · exact hr

theorem sipDo_keeps {o : OpRef} {q : Op} {p : PassRun} {t : PassTile} {buf : List Byte} {s : State} (h : Keeps z s) :
    SipEnd.keeps z (sipDo o q p t buf s) := by
  have close {v : State} {f : PassRun → PassRun} (hv : Keeps z v) :
      Keeps z (((dropRun o v).onTns fun x => { x with sip := none }).onPass o f) :=
    State.onPass_keeps (State.onTns_keeps (dropRun_keeps hv))
  unfold sipDo
  dsimp only
  split
  · exact h
  · split
    · trivial
    · generalize sipIn _ _ _ _ = input
      refine sipTr_keeps (tileWrite_keeps h) fun _ u hu => ?_
      have hrun {c : Nat} {ftz : Bool} {f : Tensors → Tensors} :=
        sipRun_keeps (o := o) (q := q) (c := c) (ctx := p.ctx) (ftz := ftz) (l := p.sipOps)
          (startRun_keeps (o := o) (ctx := p.ctx) (State.onTns_keeps (f := f) hu))
      split <;> rename_i heq <;> have hr := congrArg Prod.snd heq ▸ hrun
      · split
        · exact close hr
        · trivial
      · refine sipTr_keeps (tileRead_keeps (close hr)) fun out _ hv => ?_
        generalize sipOut _ _ _ _ out = output
        exact sipTr_keeps (tileWrite_keeps hv) fun _ _ hw => hw
      · exact close hr
      · exact close hr
      · exact close hr
      · trivial

theorem markShaded_keeps {t : PassTile} {s : State} (h : Keeps z s) : Keeps z (markShaded t s) := State.onRnd_keeps h

theorem tileLists_keeps {α : Type} {o : OpRef} {t : PassTile} {ctx : Nat} {r : Tr α} {s0 : State} {k : α → State →
    State} (h : Tr.keeps z r) (h1 : Keeps z s0) (hf : ∀ (a : α) (a_1 : State), Keeps z a_1 → Keeps z (k a a_1)) : Keeps
    z (tileLists o t ctx r s0 k) := by
  unfold tileLists
  split
  · exact hf _ _ h
  · exact h1
  · exact passFault_keeps (dropTile_keeps h)
  · exact failPass_keeps (dropTile_keeps h)
  · exact failPass_keeps (dropTile_keeps h)

theorem tileEnd_keeps {o : OpRef} {q : Op} {p : PassRun} {t : PassTile} {buf : List Byte} {s0 s : State} (h : Keeps z
    s0) (h1 : Keeps z s) : Keeps z (tileEnd o q p t buf s0 s) := by
  unfold tileEnd
  dsimp only
  split
  · exact passFault_keeps (markShaded_keeps ((trMap_keeps (fun _ _ h2 => writeResolve_keeps h2) h1).fault ‹_›))
  · exact failPass_keeps (markShaded_keeps ((trMap_keeps (fun _ _ h3 => writeResolve_keeps h3) h1).bad ‹_›))
  · exact failPass_keeps (markShaded_keeps ((trMap_keeps (fun _ _ h4 => writeResolve_keeps h4) h1).severed ‹_›))
  · exact h
  rename_i heq
  have h5 := (trMap_keeps (fun _ _ h6 => writeResolve_keeps h6) h1).ok heq
  split
  · split
    · exact markShaded_keeps ((sipDo_keeps h5).ok ‹_›)
    · exact failPass_keeps (markShaded_keeps ((sipDo_keeps h5).fail ‹_›))
    · exact passFault_keeps (markShaded_keeps ((sipDo_keeps h5).fault ‹_›))
    · exact h
  · exact markShaded_keeps h5

theorem shadedDo_keeps {o : OpRef} {tile : Nat} {frags : List Fragment} {io : HostIO} {s : State} (h : Keeps z s) :
    Keeps z (shadedDo o tile frags io s) := by
  unfold shadedDo
  dsimp only
  split
  · split
    · exact closeOps_keeps (applyIO_keeps h)
    refine tileLists_keeps (tilePrims_keeps (closeOps_keeps (applyIO_keeps h))) (closeOps_keeps (applyIO_keeps h))
        (fun _ _ h1 => ?_)
    split
    · exact closeOps_keeps (applyIO_keeps h)
    refine tileLists_keeps (tileRead_keeps h1) (closeOps_keeps (applyIO_keeps h)) (fun _ _ h2 => ?_)
    refine tileLists_keeps (tileWrite_keeps h2) (closeOps_keeps (applyIO_keeps h)) (fun _ _ h3 => ?_)
    split
    · exact markShaded_keeps h3
    · exact tileEnd_keeps (closeOps_keeps (applyIO_keeps h)) h3
  · exact closeOps_keeps (applyIO_keeps h)

theorem storedDo_keeps {o : OpRef} {tile : Nat} {s : State} (h : Keeps z s) : Keeps z (storedDo o tile s) := by
  unfold storedDo
  dsimp only
  split
  · split
    · exact closeOps_keeps h
    split
    · exact passBoundary_keeps (passDone_keeps (State.onPass_keeps (dropTile_keeps
          ((trMap_keeps (fun _ _ h1 => Tr.bind_keeps (tileRead_keeps h1) (fun _ _ h2 => tWrite_keeps h2))
          (closeOps_keeps h)).ok ‹_›))))
    · exact passFault_keeps (dropTile_keeps ((trMap_keeps (fun _ _ h3 => Tr.bind_keeps (tileRead_keeps h3) (fun _ _ h4
          => tWrite_keeps h4)) (closeOps_keeps h)).fault ‹_›))
    · exact failPass_keeps (dropTile_keeps ((trMap_keeps (fun _ _ h5 => Tr.bind_keeps (tileRead_keeps h5) (fun _ _ h6 =>
          tWrite_keeps h6)) (closeOps_keeps h)).bad ‹_›))
    · exact failPass_keeps (dropTile_keeps ((trMap_keeps (fun _ _ h7 => Tr.bind_keeps (tileRead_keeps h7) (fun _ _ h8 =>
          tWrite_keeps h8)) (closeOps_keeps h)).severed ‹_›))
    · exact closeOps_keeps h
  · exact closeOps_keeps h

theorem partialDoneDo_keeps {o : OpRef} {s : State} (h : Keeps z s) : Keeps z (partialDoneDo o s) := by
  unfold partialDoneDo
  dsimp only
  split
  · exact closeOps_keeps h
  split
  · exact closeOps_keeps h
  split
  · exact failPass_keeps (closeOps_keeps h)
  · exact passTr_keeps (Tr.bind_keeps (poolPut_keeps (storePass_keeps (closeOps_keeps h))) (fun _ _ h1 => Tr.bind_keeps
        (poolPut_keeps h1) (fun _ _ h2 => binStateInit_keeps h2))) (closeOps_keeps h) (fun _ _ h3 => h3)

theorem shadingDo_keeps {o : OpRef} {s : State} (h : Keeps z s) : Keeps z (shadingDo o s) := by
  unfold shadingDo
  dsimp only
  split
  · split
    · exact closeOps_keeps h
    · exact passDone_keeps (State.onPass_keeps (closeOps_keeps h))
  · exact closeOps_keeps h

theorem passStop_keeps {o : OpRef} {s : State} (h : Keeps z s) : Keeps z (passStop o s) :=
  passBoundary_keeps (State.onPass_keeps h)

theorem placeGroup_keeps {p : PassRun} {k gran idx wg : Nat} {role : GroupRole} {code regsConst : Nat} {hdr : List Byte}
    {lanes helper : Word} {inputs : List (List Word)} {s : State} (h : Keeps z s) : Keeps z (placeGroup p k gran idx wg
    role code regsConst hdr lanes helper inputs s) :=
  syncUnits_keeps (State.onShd_keeps (joinCore_keeps h))

theorem placeVertex_keeps {p : PassRun} {mask : Nat} {s : State} (h : Keeps z s) : Keeps z (placeVertex p mask s) := by
  unfold placeVertex
  dsimp only
  split
  · exact h
  split
  · exact h
  · exact placeGroup_keeps (State.onPass_keeps h)

theorem placeFragment_keeps {p : PassRun} {drawVa : Nat} {x : List PassTile} {s : State} (h : Keeps z s) :
    Keeps z (placeFragment p drawVa x s) := by
  induction x generalizing p drawVa s with
  | nil =>
    unfold placeFragment
    exact h
  | cons x0 x ih =>
    unfold placeFragment
    dsimp only
    split
    · exact ih h
    refine tileLists_keeps (tilePrims_keeps h) h (fun _ _ h1 => ?_)
    split
    · exact ih h
    split
    · exact ih h
    · exact tileLists_keeps (tRead_keeps h1) h (fun _ _ h2 => placeGroup_keeps (State.onRnd_keeps h2))

theorem placeDo_keeps {o : OpRef} {s : State} (h : Keeps z s) : Keeps z (placeDo o s) := by
  unfold placeDo
  split
  · split
    · exact h
    split
    · split
      · exact h
      · exact placeVertex_keeps h
    · exact placeFragment_keeps h
  · exact placeWorkgroup_keeps h

theorem fbcClearDo_keeps {o : OpRef} {chan : Nat} {b : List Byte} {s : State} (h : Keeps z s) :
    Keeps z (fbcClearDo o chan b s) := by
  unfold fbcClearDo
  split
  · exact endOp_keeps h
  · exact takeChannel_keeps h

theorem fbcFrames_keeps {o : OpRef} {m ctx word : Nat} {x : List Nat} {s : State} (h : Keeps z s) :
    Keeps z (fbcFrames o m ctx word x s) := by
  induction x generalizing o m ctx word s with
  | nil =>
    unfold fbcFrames
    exact endOp_keeps h
  | cons x0 x ih =>
    unfold fbcFrames
    dsimp only
    split
    · rename_i heq
      have h1 := (xlate_keeps h).ok heq
      split
      · split
        · exact ih (fbcClearFrame_keeps h1)
        · exact endOp_keeps h1
      split
      · exact ih (fbcClearFrame_keeps h1)
      · exact endOp_keeps h1
    · exact opFault_keeps ((xlate_keeps h).fault ‹_›)
    · exact endOp_keeps ((xlate_keeps h).severed ‹_›)
    · exact (xlate_keeps h).wait ‹_›

theorem fbcDoneDo_keeps {o : OpRef} {io : HostIO} {s : State} (h : Keeps z s) : Keeps z (fbcDoneDo o io s) := by
  unfold fbcDoneDo
  dsimp only
  split
  · split
    · exact dropCopy_keeps (applyIO_keeps h)
    split
    · exact discardOp_keeps (dropCopy_keeps (applyIO_keeps h))
    split
    · exact applyIO_keeps h
    split
    · exact fbcFrames_keeps (applyIO_keeps h)
    · exact dropCopy_keeps (fbcFrames_keeps (applyIO_keeps h))
  · exact applyIO_keeps h

end Sys2Proof.Machine
end

section
/-! The queue and the canonical form are kept: Machine/Display.lean. -/

namespace Sys2Proof.Machine

open Sys2Proof

variable {z : State}

theorem Tr.state_keeps {α : Type} {x : Tr α} (h : Tr.keeps z x) : Keeps z x.state := by
  unfold Tr.state
  split <;> exact h

theorem failReleases_keeps {es : List Edge} {why : Reason} {s : State} (h : Keeps z s) : Keeps z (failReleases es why s) :=
  foldl_keeps h (fun _ _ h1 => sendFence_keeps h1)

theorem commitEnd_keeps {p : Nat} {o : OpRef} {mark : Option (Nat × Quad)} {late status detail : Nat} {s : State}
    (h : Keeps z s) : Keeps z (commitEnd p o mark late status detail s) :=
  endCommit_keeps h

theorem commitFail_keeps {p : Nat} {c : Commit} {status detail : Nat} {why : Reason} {s : State} (h : Keeps z s) :
    Keeps z (commitFail p c status detail why s) := by
  unfold commitFail
  dsimp only
  refine commitEnd_keeps ?_
  split
  · exact State.onPipe_keeps h
  · exact failReleases_keeps (State.onPipe_keeps h)

theorem dropPend_keeps {p : Nat} {s : State} (h : Keeps z s) : Keeps z (dropPend p s) := by
  unfold dropPend
  split
  · exact h
  split
  · exact State.onPipe_keeps h
  split
  · exact discardOp_keeps (State.onPipe_keeps h)
  · exact h

theorem readRecords_keeps {m ctx stateVa layersVa mask : Nat} {upd : Bool} {s : State} (h : Keeps z s) :
    Tr.keeps z (readRecords m ctx stateVa layersVa mask upd s) := by
  unfold readRecords
  dsimp only
  refine Tr.bind_keeps ?_ (fun _ _ h1 => Tr.bind_keeps (trMap_keeps (fun _ _ h2 => Tr.bind_keeps (Res.tr_keeps
      (vaRead_keeps h2)) (fun _ _ h3 => h3)) h1) (fun _ _ h4 => h4))
  split
  · exact Res.tr_keeps (vaRead_keeps h)
  · exact h

theorem commitRefuse_keeps {p : Nat} {o : OpRef} {e : Entry} {b : List Byte} {status detail : Nat} {s : State}
    (h : Keeps z s) : Keeps z (commitRefuse p o e b status detail s) := by
  unfold commitRefuse
  dsimp only
  split
  · exact endOp_keeps h
  · exact commitEnd_keeps (failReleases_keeps h)

theorem commitFault_keeps {p : Nat} {o : OpRef} {mark : Option (Nat × Quad)} {late : Nat} {f : Flt} {va : Nat}
    {acc : Access} {s : State} (h : Keeps z s) : Keeps z (commitFault p o mark late f va acc s) := by
  unfold commitFault
  dsimp only
  split
  · split
    · exact endOp_keeps (masterFault_keeps h)
    · exact faultOp_keeps (masterFault_keeps h)
  · split <;> exact commitEnd_keeps (masterFault_keeps h)

theorem commitDo_keeps {o : OpRef} {io : HostIO} {s : State} (h : Keeps z s) : Keeps z (commitDo o io s) := by
  unfold commitDo
  dsimp only
  refine withOp_keeps (fun _ _ _ h1 => ?_) (applyIO_keeps h)
  split
  · exact h1
  split
  · exact commitRefuse_keeps h1
  split
  · exact commitRefuse_keeps h1
  split
  · exact endOp_keeps h1
  split
  · exact h1
  split
  · exact wantsExit_keeps h1
  split
  · exact commitFault_keeps (failReleases_keeps ((readRecords_keeps (ungate_keeps (dropPend_keeps h1))).fault ‹_›))
  · exact commitRefuse_keeps ((readRecords_keeps (ungate_keeps (dropPend_keeps h1))).bad ‹_›)
  · exact commitRefuse_keeps ((readRecords_keeps (ungate_keeps (dropPend_keeps h1))).severed ‹_›)
  · exact ungate_keeps (dropPend_keeps h1)
  rename_i heq
  have h2 := (readRecords_keeps (ungate_keeps (dropPend_keeps h1))).ok heq
  split
  · exact commitEnd_keeps (failReleases_keeps h2)
  · exact State.onPipe_keeps (State.onOp_keeps h2)

theorem readTable_keeps {m ctx va n : Nat} {s : State} (h : Keeps z s) : Tr.keeps z (readTable m ctx va n s) := by
  unfold readTable
  split
  · exact h
  · exact Res.tr_keeps (vaRead_keeps h)

theorem readLayerTabs_keeps {m ctx : Nat} {r : List Byte} {s : State} (h : Keeps z s) :
    Tr.keeps z (readLayerTabs m ctx r s) :=
  Tr.bind_keeps (readTable_keeps h) (fun _ _ h1 => Tr.bind_keeps (readTable_keeps h1) (fun _ _ h2 => Tr.bind_keeps
      (readTable_keeps h2) (fun _ _ h3 => Tr.bind_keeps (readTable_keeps h3) (fun _ _ h4 => Tr.bind_keeps
      (readTable_keeps h4) (fun _ _ h5 => h5)))))

theorem readTables_keeps {m : Nat} {c : Commit} {s : State} (h : Keeps z s) : Tr.keeps z (readTables m c s) := by
  unfold readTables
  refine Tr.bind_keeps (trMap_keeps (fun _ _ h1 => Tr.bind_keeps (readLayerTabs_keeps h1) (fun _ _ h2 => h2)) h)
      (fun _ _ h3 => ?_)
  refine Tr.bind_keeps ?_ (fun _ _ h4 => ?_)
  · split
    · exact readTable_keeps h3
    · exact h3
  refine Tr.bind_keeps ?_ (fun _ _ h5 => h5)
  split
  · exact readTable_keeps h4
  · exact h4

theorem signalAll_keeps {es : List Edge} {s : State} (h : Keeps z s) : Keeps z (signalAll es s) := by
  unfold signalAll
  refine foldl_keeps ?_ (fun _ _ h1 => sendFence_keeps h1)
  split
  · exact h
  · exact wcFlushAll_keeps h

theorem commitInForce_keeps {p : Nat} {c : Commit} {s : State} (h : Keeps z s) : Keeps z (commitInForce p c s) :=
  signalAll_keeps (State.onPipe_keeps h)

theorem commitDone_keeps {p : Nat} {c : Commit} {s : State} (h : Keeps z s) : Keeps z (commitDone p c s) :=
  commitEnd_keeps (State.onPipe_keeps h)

theorem commitApply_keeps {p : Nat} {c : Commit} {s : State} (h : Keeps z s) : Keeps z (commitApply p c s) := by
  unfold commitApply
  dsimp only
  split
  · exact State.onPipe_keeps (commitInForce_keeps h)
  · exact commitDone_keeps (commitInForce_keeps h)

theorem commitLate_keeps {p : Nat} {c : Commit} {late : List Nat} {s : State} (h : Keeps z s) :
    Keeps z (commitLate p c late s) := by
  unfold commitLate
  dsimp only
  split
  · exact h
  · exact State.onPipe_keeps h

theorem tryCommit_keeps {p : Nat} {atBoundary : Bool} {s : State} (h : Keeps z s) : Keeps z (tryCommit p atBoundary s) := by
  unfold tryCommit
  dsimp only
  split
  · exact h
  split
  · split
    · exact h
    split
    · exact startExit_keeps h
    split
    · exact commitApply_keeps h
    split
    · exact commitLate_keeps h
    · exact h
  split
  · exact h
  split
  · exact startExit_keeps h
  split
  · exact commitApply_keeps h
  split
  · exact commitLate_keeps h
  · exact h

theorem commitHooks_keeps {s : State} (h : Keeps z s) : Keeps z (commitHooks s) := by
  unfold commitHooks
  refine foldl_keeps h (fun _ _ h1 => ?_)
  split
  · split
    · split
      · exact h1
      · exact commitFail_keeps h1
    · exact h1
  · exact h1

theorem tablesLoaded_keeps {p : Nat} {io : HostIO} {s : State} (h : Keeps z s) : Keeps z (tablesLoaded p io s) := by
  unfold tablesLoaded
  dsimp only
  split
  · exact dropPend_keeps (applyIO_keeps h)
  split
  · exact dropPend_keeps (applyIO_keeps h)
  split
  · exact commitFault_keeps (State.onPipe_keeps (failReleases_keeps ((readTables_keeps (dropPend_keeps (applyIO_keeps
        h))).fault ‹_›)))
  · exact commitFail_keeps ((readTables_keeps (dropPend_keeps (applyIO_keeps h))).bad ‹_›)
  · exact commitFail_keeps ((readTables_keeps (dropPend_keeps (applyIO_keeps h))).severed ‹_›)
  · exact dropPend_keeps (applyIO_keeps h)
  rename_i heq
  have h1 := (readTables_keeps (dropPend_keeps (applyIO_keeps h))).ok heq
  split
  · exact commitFail_keeps h1
  split
  · exact commitFail_keeps h1
  split
  · exact commitFail_keeps h1
  split
  · split
    · exact tryCommit_keeps (State.onPipe_keeps h1)
    · exact State.onPipe_keeps h1
  split
  · exact tryCommit_keeps (State.onPipe_keeps h1)
  · exact State.onPipe_keeps h1

theorem orphanLayers_keeps {p : Nat} {s : State} (h : Keeps z s) : Keeps z (orphanLayers p s) := by
  unfold orphanLayers
  dsimp only
  split
  · exact h
  · exact State.onPipe_keeps h

theorem displayFault_keeps {p : Nat} {f : Flt} {ctx va : Nat} {acc : Access} {s : State} (h : Keeps z s) :
    Keeps z (displayFault p f ctx va acc s) :=
  masterFault_keeps h

theorem sendHdr_keeps {p : Nat} {s : State} (h : Keeps z s) : Keeps z (sendHdr p s) := by
  unfold sendHdr
  dsimp only
  split
  · exact State.onPipe_keeps h
  split
  · exact State.onPipe_keeps ((vaRead_keeps h).ok ‹_›)
  · exact State.onPipe_keeps (displayFault_keeps ((vaRead_keeps h).fault ‹_›))
  · exact State.onPipe_keeps (Res.state_keeps (vaRead_keeps h))

theorem copySts_keeps {p : Nat} {s : State} (h : Keeps z s) : Keeps z (copySts p s) := by
  unfold copySts
  dsimp only
  exact State.onPipe_keeps h

theorem boundaryDo_keeps {p : Nat} {s : State} (h : Keeps z s) : Keeps z (boundaryDo p s) := by
  unfold boundaryDo
  dsimp only
  split
  · exact dropPend_keeps h
  split
  · exact tryCommit_keeps (dropPend_keeps h)
  split
  · exact dropPend_keeps h
  split
  · exact State.onPipe_keeps (State.onPipe_keeps (dropPend_keeps h))
  refine copySts_keeps ?_
  split
  · exact sendHdr_keeps (tryCommit_keeps (orphanLayers_keeps (State.onPipe_keeps (dropPend_keeps h))))
  · exact tryCommit_keeps (orphanLayers_keeps (State.onPipe_keeps (dropPend_keeps h)))

theorem scanStart_keeps {p : Nat} {s : State} (h : Keeps z s) : Keeps z (scanStart p s) := by
  unfold scanStart
  dsimp only
  refine copySts_keeps ?_
  split
  · refine sendHdr_keeps ?_
    split
    · split
      · exact commitDone_keeps (orphanLayers_keeps (State.onPipe_keeps h))
      · exact tryCommit_keeps (orphanLayers_keeps (State.onPipe_keeps h))
    · exact orphanLayers_keeps (State.onPipe_keeps h)
  split
  · split
    · exact commitDone_keeps (orphanLayers_keeps (State.onPipe_keeps h))
    · exact tryCommit_keeps (orphanLayers_keeps (State.onPipe_keeps h))
  · exact orphanLayers_keeps (State.onPipe_keeps h)

theorem pllLocked_keeps {p : Nat} {s : State} (h : Keeps z s) : Keeps z (pllLocked p s) := by
  unfold pllLocked
  dsimp only
  split
  · exact dropPend_keeps h
  split
  · exact scanStart_keeps (dropPend_keeps h)
  · exact State.onPipe_keeps (dropPend_keeps h)

theorem trainingDone_keeps {p : Nat} {ok : Bool} {s : State} (h : Keeps z s) : Keeps z (trainingDone p ok s) := by
  unfold trainingDone
  dsimp only
  split
  · exact dropPend_keeps h
  split
  · exact scanStart_keeps (dropPend_keeps h)
  split
  · split
    · exact commitFail_keeps (State.onPipe_keeps (dropPend_keeps h))
    · exact tryCommit_keeps (State.onPipe_keeps (dropPend_keeps h))
  · exact State.onPipe_keeps (dropPend_keeps h)

theorem fetch_keeps {m ctx va n : Nat} {s : State} (h : Keeps z s) : Tr.keeps z (fetch m ctx va n s) :=
  Tr.bind_keeps (Res.tr_keeps (vaRead_keeps h)) (fun _ _ h1 => h1)

theorem fetchRow_keeps {m ctx : Nat} {tiled : Bool} {va pitch b x0 n y : Nat} {s : State} (h : Keeps z s) :
    Tr.keeps z (fetchRow m ctx tiled va pitch b x0 n y s) := by
  unfold fetchRow
  split
  · exact Tr.bind_keeps (trMap_keeps (fun _ _ h1 => fetch_keeps h1) h) (fun _ _ h2 => h2)
  · exact fetch_keeps h

theorem sourceRow_keeps {m ctx : Nat} {ftz : Bool} {l : List Byte} {r : Nat} {s : State} (h : Keeps z s) :
    Tr.keeps z (sourceRow m ctx ftz l r s) := by
  unfold sourceRow
  dsimp only
  refine Tr.bind_keeps (fetchRow_keeps h) (fun _ _ h1 => ?_)
  split
  · exact Tr.bind_keeps (fetchRow_keeps h1) (fun _ _ h2 => Tr.bind_keeps (fetchRow_keeps h2) (fun _ _ h3 => h3))
  · exact h1

theorem layerRow_keeps {m ctx : Nat} {ftz : Bool} {l : List Byte} {t : LayerTabs} {dy : Nat} {s : State} (h : Keeps z s) :
    Tr.keeps z (layerRow m ctx ftz l t dy s) := by
  unfold layerRow
  dsimp only
  exact Tr.bind_keeps (trMap_keeps (fun _ _ h1 => Tr.bind_keeps (sourceRow_keeps h1) (fun _ _ h2 => h2)) h) (fun _ _ h3
      => h3)

theorem onLayer_keeps {p l : Nat} {f : Layer → Layer} {s : State} (h : Keeps z s) : Keeps z (onLayer p l f s) :=
  State.onPipe_keeps h

theorem layerFault_keeps {p l : Nat} {f : Flt} {ctx va : Nat} {s : State} (h : Keeps z s) :
    Keeps z (layerFault p l f ctx va s) := by
  unfold layerFault
  dsimp only
  split
  · exact h
  · exact State.onPipe_keeps (onLayer_keeps (displayFault_keeps h))

theorem layerProt_keeps {p l : Nat} {s : State} (h : Keeps z s) : Keeps z (layerProt p l s) :=
  State.onPipe_keeps (onLayer_keeps h)

theorem warpRow_keeps {p dy : Nat} {s : State} (h : Keeps z s) : Keeps z (warpRow p dy s).2 := by
  unfold warpRow
  dsimp only
  split
  · exact h
  split
  · exact h
  dsimp only
  exact State.onPipe_keeps h

theorem layerLine_keeps {p l y : Nat} {s : State} (h : Keeps z s) : Keeps z (layerLine p l y s).2.2 := by
  unfold layerLine
  dsimp only
  split
  · exact h
  split
  · exact warpRow_keeps h
  split
  · rename_i heq
    have h1 := (layerRow_keeps h).ok heq
    split
    · exact layerProt_keeps h1
    · exact h1
  · exact layerFault_keeps ((layerRow_keeps h).fault ‹_›)
  · exact Tr.state_keeps (layerRow_keeps h)

theorem wbFaulted_keeps {p : Nat} {f : Flt} {ctx va : Nat} {acc : Access} {s : State} (h : Keeps z s) :
    Keeps z (wbFaulted p f ctx va acc s) := by
  unfold wbFaulted
  dsimp only
  refine State.onPipe_keeps ?_
  split
  · exact h
  · exact displayFault_keeps h

theorem wbLateFault_keeps {p : Nat} {f : Flt} {ctx va : Nat} {acc : Access} {s : State} (h : Keeps z s) :
    Keeps z (wbLateFault p f ctx va acc s) := by
  unfold wbLateFault
  dsimp only
  split
  · split
    · exact h
    · exact wbFaulted_keeps (State.onPipe_keeps h)
  split
  · exact h
  · exact wbFaulted_keeps (State.onPipe_keeps h)

theorem wbRow_keeps {p y : Nat} {line : List (List Nat)} {s : State} (h : Keeps z s) : Keeps z (wbRow p y line s) := by
  unfold wbRow
  dsimp only
  split
  · exact h
  split
  · split
    · refine State.onPipe_keeps ?_
      refine Tr.keeps.ok ?_ ‹_›
      split
      · exact Tr.bind_keeps (trMap_keeps (fun _ _ h1 => Res.tr_keeps (vaWrite_keeps h1)) h) (fun _ _ h2 => h2)
      · exact Res.tr_keeps (vaWrite_keeps h)
    refine Tr.keeps.ok ?_ ‹_›
    split
    · exact Tr.bind_keeps (trMap_keeps (fun _ _ h3 => Res.tr_keeps (vaWrite_keeps h3)) h) (fun _ _ h4 => h4)
    · exact Res.tr_keeps (vaWrite_keeps h)
  · refine wbFaulted_keeps ?_
    refine State.onPipe_keeps ?_
    refine Tr.keeps.fault ?_ ‹_›
    split
    · exact Tr.bind_keeps (trMap_keeps (fun _ _ h5 => Res.tr_keeps (vaWrite_keeps h5)) h) (fun _ _ h6 => h6)
    · exact Res.tr_keeps (vaWrite_keeps h)
  refine State.onPipe_keeps ?_
  refine Tr.state_keeps ?_
  split
  · exact Tr.bind_keeps (trMap_keeps (fun _ _ h7 => Res.tr_keeps (vaWrite_keeps h7)) h) (fun _ _ h8 => h8)
  · exact Res.tr_keeps (vaWrite_keeps h)

theorem protAhead_keeps {p : Nat} {s : State} (h : Keeps z s) : Keeps z (protAhead p s) := by
  unfold protAhead
  dsimp only
  split
  · exact h
  · exact foldl_keeps h (fun _ _ h1 => layerProt_keeps h1)

theorem composeLine_keeps {p y : Nat} {late : List LateSpan} {s : State} (h : Keeps z s) :
    Keeps z (composeLine p y late s) := by
  have h1 : Keeps z (if y = 0 then protAhead p s else s) := by
    split
    · exact protAhead_keeps h
    · exact h
  unfold composeLine
  extract_lets x r late' u bg
  split
  rename_i v heq
  have hv : Keeps z v := by
    refine Keeps.third ?_ heq
    exact foldl_third h1 fun _ _ hr => layerLine_keeps hr
  extract_lets under w line' fl _
  have hw : Keeps z w := by
    change Keeps z (if _ then _ else _)
    split
    · exact State.onPipe_keeps hv
    · exact hv
  exact wbRow_keeps (State.onPipe_keeps hw)

theorem markFired_keeps {p k : Nat} {s : State} (h : Keeps z s) : Keeps z (markFired p k s) := State.onPipe_keeps h

theorem signalDo_keeps {p k : Nat} {s : State} (h : Keeps z s) : Keeps z (signalDo p k s) := by
  unfold signalDo
  dsimp only
  split
  · exact h
  split
  · exact signalAll_keeps (markFired_keeps h)
  · exact markFired_keeps h

theorem sampleDo_keeps {p k : Nat} {s : State} (h : Keeps z s) : Keeps z (sampleDo p k s) := by
  unfold sampleDo
  split
  · exact State.onPipe_keeps (markFired_keeps h)
  · exact h

theorem poseDo_keeps {p : Nat} {io : HostIO} {s : State} (h : Keeps z s) : Keeps z (poseDo p io s) := by
  unfold poseDo
  dsimp only
  split
  · exact applyIO_keeps h
  split
  · exact applyIO_keeps h
  split
  · split <;> exact State.onPipe_keeps (State.onPipe_keeps ((vaRead_keeps (applyIO_keeps h)).ok ‹_›))
  · exact State.onPipe_keeps (State.onPipe_keeps (displayFault_keeps ((vaRead_keeps (applyIO_keeps h)).fault ‹_›)))
  · exact State.onPipe_keeps (State.onPipe_keeps ((vaRead_keeps (applyIO_keeps h)).severed ‹_›))
  · exact applyIO_keeps h

theorem warpBandDo_keeps {p k : Nat} {s : State} (h : Keeps z s) : Keeps z (warpBandDo p k s) := by
  unfold warpBandDo
  dsimp only
  split
  · exact h
  · exact State.onPipe_keeps (markFired_keeps h)

theorem texel_keeps {m ctx : Nat} {l : List Byte} {u v : ℤ} {s : State} (h : Keeps z s) :
    Tr.keeps z (texel m ctx l u v s) := by
  unfold texel
  dsimp only
  split
  · exact h
  · exact Tr.bind_keeps (fetch_keeps h) (fun _ _ h1 => h1)

theorem warpPx_keeps {m ctx : Nat} {ftz : Bool} {l : List Byte} {t : LayerTabs} {g : List Word} {x y : Nat} {s : State}
    (h : Keeps z s) : Tr.keeps z (warpPx m ctx ftz l t g x y s) := by
  unfold warpPx
  dsimp only
  split
  · exact h
  · exact Tr.bind_keeps (texel_keeps h) (fun _ _ h1 => Tr.bind_keeps (texel_keeps h1) (fun _ _ h2 => Tr.bind_keeps
        (texel_keeps h2) (fun _ _ h3 => Tr.bind_keeps (texel_keeps h3) (fun _ _ h4 => h4))))

theorem bandTo_keeps {p l k : Nat} {b : Band} {s : State} (h : Keeps z s) : Keeps z (bandTo p l k b s) := by
  unfold bandTo
  dsimp only
  split
  · rename_i heq
    have h1 := (trMap_keeps (fun _ _ h2 => trMap_keeps (fun _ _ h3 => warpPx_keeps h3) h2) h).ok heq
    split
    · exact layerProt_keeps (State.onPipe_keeps h1)
    · exact State.onPipe_keeps h1
  · exact layerFault_keeps ((trMap_keeps (fun _ _ h4 => trMap_keeps (fun _ _ h5 => warpPx_keeps h5) h4) h).fault ‹_›)
  · exact Tr.state_keeps (trMap_keeps (fun _ _ h6 => trMap_keeps (fun _ _ h7 => warpPx_keeps h7) h6) h)

theorem bandsRun_keeps {p : Nat} {s : State} (h : Keeps z s) : Keeps z (bandsRun p s) := by
  unfold bandsRun
  dsimp only
  split
  · exact h
  split
  · exact h
  · exact foldl_keeps h (fun _ _ h1 => bandTo_keeps (State.fresh_keeps h1))

theorem bandDone_keeps {p : Nat} {io : HostIO} {s : State} (h : Keeps z s) : Keeps z (bandDone p io s) := by
  unfold bandDone
  dsimp only
  split
  · split
    · exact applyIO_keeps h
    · exact State.onPipe_keeps (bandTo_keeps (applyIO_keeps h))
  · exact applyIO_keeps h

theorem lineDo_keeps {p : Nat} {late : List LateSpan} {io : HostIO} {s : State} (h : Keeps z s) :
    Keeps z (lineDo p late io s) := by
  unfold lineDo
  dsimp only
  split
  · exact applyIO_keeps h
  refine copySts_keeps ?_
  refine State.onPipe_keeps ?_
  split
  · exact composeLine_keeps (bandsRun_keeps (State.onPipe_keeps (applyIO_keeps h)))
  · exact State.onPipe_keeps (applyIO_keeps h)

theorem wbDone_keeps {p : Nat} {s : State} (h : Keeps z s) : Keeps z (wbDone p s) := by
  unfold wbDone
  split
  · split
    · exact h
    · exact signalAll_keeps (State.onPipe_keeps h)
  · exact h

theorem disablePipe_keeps {p : Nat} {s : State} (h : Keeps z s) : Keeps z (disablePipe p s) := by
  unfold disablePipe
  dsimp only
  refine State.onPipe_keeps ?_
  split
  · exact commitFail_keeps h
  · exact h

theorem dspCtlEffect_keeps {p : Nat} {w : RegWr} {s : State} (h : Keeps z s) : Keeps z (dspCtlEffect p w s) := by
  unfold dspCtlEffect
  dsimp only
  split
  · exact refuseWr_keeps h
  split
  · exact disablePipe_keeps (storeWr_keeps h)
  · exact storeWr_keeps h

theorem cntClrEffect_keeps {p : Nat} {w : RegWr} {s : State} (h : Keeps z s) : Keeps z (cntClrEffect p w s) := by
  unfold cntClrEffect
  split
  · exact State.onPipe_keeps h
  · exact h

theorem auxSend_keeps {p : Nat} {a : AuxTx} {s : State} (h : Keeps z s) : Keeps z (auxSend p a s) := State.onPipe_keeps h

theorem auxCtlEffect_keeps {p : Nat} {w : RegWr} {s : State} (h : Keeps z s) : Keeps z (auxCtlEffect p w s) := by
  unfold auxCtlEffect
  dsimp only
  split
  · exact auxSend_keeps (storeWr_keeps h)
  · exact storeWr_keeps h

theorem auxStore_keeps {p len : Nat} {bs : List Byte} {s : State} (h : Keeps z s) : Keeps z (auxStore p len bs s) :=
  eachDo_keeps h (fun _ _ h1 => State.setRaw_keeps h1)

theorem auxEnd_keeps {p res : Nat} {s : State} (h : Keeps z s) : Keeps z (auxEnd p res s) := State.onPipe_keeps h

theorem auxReplyDo_keeps {p : Nat} {r : AuxReply} {s : State} (h : Keeps z s) : Keeps z (auxReplyDo p r s) := by
  unfold auxReplyDo
  split
  · exact h
  split
  · exact h
  split
  · refine auxEnd_keeps ?_
    split
    · exact h
    · exact auxStore_keeps h
  · exact auxEnd_keeps h
  split
  · exact auxEnd_keeps h
  · exact State.onPipe_keeps h

theorem auxTimeoutDo_keeps {p : Nat} {s : State} (h : Keeps z s) : Keeps z (auxTimeoutDo p s) := by
  unfold auxTimeoutDo
  split
  · exact h
  split
  · exact auxSend_keeps h
  · exact auxEnd_keeps h

end Sys2Proof.Machine
end

section
/-! The queue and the canonical form are kept: Machine/Compress.lean. -/

namespace Sys2Proof.Machine

open Sys2Proof

variable {z : State}

theorem cmpSweep_keeps {s : State} (h : Keeps z s) : Keeps z (cmpSweep s) := by
  unfold cmpSweep
  dsimp only
  exact State.onCmp_keeps (foldl_keeps h (fun _ _ h1 => discardOp_keeps h1))

theorem jobDo_keeps {o : OpRef} {b : List Byte} {s : State} (h : Keeps z s) : Keeps z (jobDo o b s) := by
  unfold jobDo
  dsimp only
  split
  · exact h
  split
  · exact endOp_keeps h
  split
  · exact endOp_keeps h
  split
  · exact State.onCmp_keeps h
  · exact wantsExit_keeps (State.onCmp_keeps h)

theorem nextJob_keeps {s : State} (h : Keeps z s) : Keeps z (nextJob s).2 := State.fresh_keeps h

theorem jobStart_keeps {ch : Nat} {s : State} (h : Keeps z s) : Keeps z (jobStart ch s) := by
  unfold jobStart
  dsimp only
  split
  · exact cmpSweep_keeps h
  split
  · exact (nextJob_keeps (cmpSweep_keeps h)).snd ‹_›
  · exact State.onOp_keeps (ungate_keeps (State.onCmp_keeps ((nextJob_keeps (cmpSweep_keeps h)).snd ‹_›)))

theorem readUpTo_keeps {m ctx va n : Nat} {ahead : Ahead} {s : State} (h : Keeps z s) :
    Keeps z (readUpTo m ctx va n ahead s).2.2 := by
  unfold readUpTo
  dsimp only
  refine foldl_third h fun r p hr => ?_
  obtain ⟨bs, stop, u⟩ := r
  cases stop with
  | some _ => exact hr
  | none =>
    dsimp only
    split
    · exact (vaRead_keeps hr).ok ‹_›
    · exact (vaRead_keeps hr).fault ‹_›
    · exact (vaRead_keeps hr).severed ‹_›
    · exact (vaRead_keeps hr).wait ‹_›

theorem writeUpTo_keeps {m ctx va : Nat} {bs : List Byte} {ahead : Ahead} {s : State} (h : Keeps z s) :
    Keeps z (writeUpTo m ctx va bs ahead s).2.2 := by
  unfold writeUpTo
  dsimp only
  refine foldl_third h fun r p hr => ?_
  obtain ⟨n, stop, u⟩ := r
  cases stop with
  | some _ => exact hr
  | none =>
    dsimp only
    split
    · exact (vaWrite_keeps hr).ok ‹_›
    · exact (vaWrite_keeps hr).fault ‹_›
    · exact (vaWrite_keeps hr).severed ‹_›
    · exact (vaWrite_keeps hr).wait ‹_›

theorem dropJob_keeps {o : OpRef} {s : State} (h : Keeps z s) : Keeps z (dropJob o s) := State.onCmp_keeps h

theorem jobClose_keeps {o : OpRef} {m ctx va : Nat} {j : JobEnd} {s : State} (h : Keeps z s) :
    keepsOpt z (jobClose o m ctx va j s) := by
  unfold jobClose
  dsimp only
  split
  · exact dropJob_keeps (endOp_keeps h)
  split
  · exact dropJob_keeps (endOp_keeps ((vaWrite_keeps h).ok ‹_›))
  · exact masterFault_keeps (dropJob_keeps (endOp_keeps ((vaWrite_keeps h).fault ‹_›)))
  · exact dropJob_keeps (endOp_keeps ((vaWrite_keeps h).severed ‹_›))
  · exact trivial

theorem jobEnd_keeps {o : OpRef} {m ctx va : Nat} {j : JobEnd} {stop : Stop} {acc : Access} {s : State} (h : Keeps z s) :
    keepsOpt z (jobEnd o m ctx va j stop acc s) := by
  unfold jobEnd
  dsimp only
  split
  · exact trivial
  · split
    · exact dropJob_keeps (endOp_keeps (masterFault_keeps h))
    · exact jobClose_keeps (masterFault_keeps h)
  · exact jobClose_keeps h
  · exact jobClose_keeps h

theorem unpackJob_keeps {o : OpRef} {m ctx : Nat} {b : List Byte} {ahead : Ahead} {s : State} (h : Keeps z s) :
    keepsOpt z (unpackJob o m ctx b ahead s) := by
  unfold unpackJob
  dsimp only
  split
  · exact trivial
  · exact trivial
  · exact jobEnd_keeps (writeUpTo_keeps (readUpTo_keeps h))
  split
  · split
    · exact jobEnd_keeps (writeUpTo_keeps (readUpTo_keeps h))
    split
    · exact trivial
    · exact jobEnd_keeps (writeUpTo_keeps (readUpTo_keeps h))
  split
  · exact trivial
  · exact jobEnd_keeps (writeUpTo_keeps (readUpTo_keeps h))

theorem packJob_keeps {o : OpRef} {m ctx : Nat} {b : List Byte} {ahead : Ahead} {s : State} (h : Keeps z s) :
    keepsOpt z (packJob o m ctx b ahead s) := by
  unfold packJob
  dsimp only
  split
  · exact trivial
  · exact trivial
  · exact jobEnd_keeps (State.fresh_keeps (writeUpTo_keeps (readUpTo_keeps h)))
  split
  · split
    · exact trivial
    · exact jobEnd_keeps (State.fresh_keeps (writeUpTo_keeps (readUpTo_keeps h)))
  split
  · exact jobEnd_keeps (writeUpTo_keeps (readUpTo_keeps h))
  split
  · exact trivial
  · exact jobEnd_keeps (writeUpTo_keeps (readUpTo_keeps h))

theorem jobRun_keeps {o : OpRef} {m ctx : Nat} {b : List Byte} {ahead : Ahead} {s : State} (h : Keeps z s) :
    Keeps z (jobRun o m ctx b ahead s) := by
  unfold jobRun
  refine getD_keeps ?_ h
  split
  · exact packJob_keeps h
  · exact unpackJob_keeps h

theorem jobDone_keeps {ch : Nat} {io : HostIO} {s : State} (h : Keeps z s) : Keeps z (jobDone ch io s) := by
  unfold jobDone
  dsimp only
  split
  · exact cmpSweep_keeps (applyIO_keeps h)
  split
  · exact cmpSweep_keeps (applyIO_keeps h)
  split
  · exact cmpSweep_keeps (applyIO_keeps h)
  · exact jobRun_keeps (cmpSweep_keeps (applyIO_keeps h))

end Sys2Proof.Machine
end

section
/-! The queue and the canonical form are kept: Machine/Trust.lean. -/

namespace Sys2Proof.Machine

open Sys2Proof

variable {z : State}

theorem unpinMaster_keeps {m : Nat} {s : State} (h : Keeps z s) : Keeps z (unpinMaster m s) := State.onSec_keeps h

theorem pinCommand_keeps {m : Nat} {rel pin : Bool} {s : State} (h : Keeps z s) : Keeps z (pinCommand m rel pin s) := by
  unfold pinCommand
  dsimp only
  split
  · exact h
  split
  · split
    · exact State.onSec_keeps (State.onSec_keeps h)
    split
    · exact State.onSec_keeps (unpinMaster_keeps h)
    · exact State.onSec_keeps h
  split
  · exact State.onSec_keeps (pinMaster_keeps h)
  · exact State.onSec_keeps h

theorem pinEffect_keeps {w : RegWr} {s : State} (h : Keeps z s) : Keeps z (pinEffect w s) := by
  unfold pinEffect
  dsimp only
  split
  · exact holdWrite_keeps (storeWr_keeps h)
  · exact pinCommand_keeps (storeWr_keeps h)

theorem masterClear_keeps {m : Nat} {s : State} (h : Keeps z s) : Keeps z (masterClear m s) := by
  unfold masterClear
  dsimp only
  split
  · exact wakeClear_keeps h
  split
  · exact State.onPipe_keeps h
  · exact h

theorem clusterClear_keeps {c : Nat} {s : State} (h : Keeps z s) : Keeps z (clusterClear c s) := by
  unfold clusterClear
  dsimp only
  split
  · exact eachDo_keeps (wakeClear_keeps h) (fun _ _ h1 => masterClear_keeps h1)
  · exact h

theorem clusterOn_keeps {c : Nat} {s : State} (h : Keeps z s) : Keeps z (clusterOn c s) := by
  unfold clusterOn
  dsimp only
  refine State.onUnit_keeps ?_
  split
  · refine State.setPower_keeps ?_
    refine eachDo_keeps h (fun _ _ h1 => ?_)
    split
    · exact State.setPower_keeps h1
    · exact h1
  refine eachDo_keeps h (fun _ _ h2 => ?_)
  split
  · exact State.setPower_keeps h2
  · exact h2

theorem releaseRun_keeps {m : Nat} {r : ClearResult} {s : State} (h : Keeps z s) : Keeps z (releaseRun m r s) := by
  unfold releaseRun
  dsimp only
  split
  · exact masterClear_keeps (unpinMaster_keeps h)
  split
  · split
    · exact clusterOn_keeps (clusterClear_keeps (eachDo_keeps h (fun _ _ h1 => unpinMaster_keeps h1)))
    · exact masterClear_keeps (eachDo_keeps h (fun _ _ h2 => unpinMaster_keeps h2))
  split
  · exact masterClear_keeps (eachDo_keeps h (fun _ _ h3 => unpinMaster_keeps h3))
  refine clearFailed_keeps ?_
  split
  · exact State.setPower_keeps (eachDo_keeps h (fun _ _ h4 => unpinMaster_keeps h4))
  · exact eachDo_keeps h (fun _ _ h5 => unpinMaster_keeps h5)

theorem releaseDone_keeps {m : Nat} {r : ClearResult} {s : State} (h : Keeps z s) : Keeps z (releaseDone m r s) := by
  unfold releaseDone
  split
  · exact h
  · exact releaseRun_keeps (State.onSec_keeps h)

theorem lcEffect_keeps {w : RegWr} {s : State} (h : Keeps z s) : Keeps z (lcEffect w s) := by
  unfold lcEffect
  dsimp only
  split
  · exact clearWr_keeps h
  split
  · split
    · exact State.onSec_keeps (clearWr_keeps h)
    · exact refuseWr_keeps (clearWr_keeps h)
  split
  · exact State.onSec_keeps (clearWr_keeps h)
  · exact refuseWr_keeps (clearWr_keeps h)

theorem secCfgEffect_keeps {w : RegWr} {s : State} (h : Keeps z s) : Keeps z (secCfgEffect w s) := by
  unfold secCfgEffect
  dsimp only
  split
  · exact refuseWr_keeps h
  · exact storeWr_keeps h

theorem entropyFail_keeps {test : Nat} {s : State} (h : Keeps z s) : Keeps z (entropyFail test s) :=
  logError_keeps (State.onMmu_keeps h)

theorem reserveRefill_keeps {equalHalves : Bool} {s : State} (h : Keeps z s) : Keeps z (reserveRefill equalHalves s) := by
  unfold reserveRefill
  split
  · exact State.onMmu_keeps h
  · exact h

theorem reply_keeps {r : SpdmReply} {s : State} (h : Keeps z s) : Keeps z (reply r s) := State.onSec_keeps h

theorem doe_keeps {f : State → State} {s : State} (hf : ∀ (a : State), Keeps z a → Keeps z (f a)) (h : Keeps z s) :
    Keeps z (doe f s) := by
  unfold doe
  split
  · exact hf _ h
  · exact h

theorem spdmReady_keeps {f : State → State} {s : State} (hf : ∀ (a : State), Keeps z a → Keeps z (f a)) (h : Keeps z s) :
    Keeps z (spdmReady f s) := by
  unfold spdmReady
  refine doe_keeps (fun _ h1 => ?_) h
  split
  · exact reply_keeps h1
  · exact hf _ h1

theorem drawNonce_keeps {s : State} (h : Keeps z s) : Keeps z (drawNonce s).2 := by
  unfold drawNonce
  dsimp only
  exact State.onSec_keeps h

theorem challengeDo_keeps {slot : Nat} {nonce : List Byte} {s : State} (h : Keeps z s) :
    Keeps z (challengeDo slot nonce s) := by
  unfold challengeDo
  dsimp only
  split
  · exact reply_keeps h
  · exact reply_keeps (drawNonce_keeps h)

theorem measureDo_keeps {index : Nat} {signed : Bool} {nonce : List Byte} {s : State} (h : Keeps z s) :
    Keeps z (measureDo index signed nonce s) := by
  unfold measureDo
  dsimp only
  split
  · exact reply_keeps h
  · exact reply_keeps (drawNonce_keeps h)

theorem certificateDo_keeps {slot off len : Nat} {s : State} (h : Keeps z s) : Keeps z (certificateDo slot off len s) := by
  unfold certificateDo
  dsimp only
  split <;> exact reply_keeps h

theorem keyExchangeDo_keeps {reqId : Nat} {s : State} (h : Keeps z s) : Keeps z (keyExchangeDo reqId s) := by
  unfold keyExchangeDo
  dsimp only
  split
  · exact reply_keeps h
  · exact reply_keeps (State.onSec_keeps h)

theorem inSession_keeps {id : Nat} {f : State → State} {s : State} (hf : ∀ (a : State), Keeps z a → Keeps z (f a))
    (h : Keeps z s) : Keeps z (inSession id f s) := by
  unfold inSession
  split
  · split
    · exact hf _ h
    · exact reply_keeps h
  · exact reply_keeps h

theorem dropSession_keeps {id : Nat} {s : State} (h : Keeps z s) : Keeps z (dropSession id s) := State.onSec_keeps h

theorem finishDo_keeps {id : Nat} {macOk : Bool} {s : State} (h : Keeps z s) : Keeps z (finishDo id macOk s) := by
  unfold finishDo
  split
  · exact reply_keeps h
  split
  · exact reply_keeps h
  split
  · exact reply_keeps (State.onSec_keeps h)
  · exact reply_keeps (dropSession_keeps h)

theorem issueNonce_keeps {s : State} (h : Keeps z s) : Keeps z (issueNonce s).2 := by
  unfold issueNonce
  dsimp only
  exact State.onSec_keeps (drawNonce_keeps h)

theorem abortAll_keeps {p : Nat → Bool} {why : Reason} {s : State} (h : Keeps z s) : Keeps z (abortAll p why s) :=
  eachDo_keeps h (fun _ _ h1 => abortCtx_keeps h1)

theorem recordToken_keeps {b : List Byte} {s : State} (h : Keeps z s) : Keeps z (recordToken b s) :=
  logError_keeps (State.onSec_keeps h)

theorem presentToken_keeps {b : List Byte} {s : State} (h : Keeps z s) : Keeps z (presentToken b s).2 := by
  unfold presentToken
  dsimp only
  split
  · dsimp only
    exact State.onSec_keeps h
  split
  · dsimp only
    exact State.onSec_keeps h
  split
  · dsimp only
    exact State.onSec_keeps (recordToken_keeps (State.onSec_keeps h))
  split
  · exact recordToken_keeps (State.onSec_keeps h)
  dsimp only
  refine State.onSec_keeps ?_
  split
  · exact abortAll_keeps (recordToken_keeps (State.onSec_keeps h))
  · exact recordToken_keeps (State.onSec_keeps h)

theorem tokenExpiry_keeps {s : State} (h : Keeps z s) : Keeps z (tokenExpiry s) := by
  unfold tokenExpiry
  split
  · exact State.onSec_keeps h
  · exact h

theorem vendorDo_keeps {msg : VendorMsg} {s : State} (h : Keeps z s) : Keeps z (vendorDo msg s) := by
  unfold vendorDo
  dsimp only
  split
  · exact reply_keeps (issueNonce_keeps h)
  · exact reply_keeps (presentToken_keeps h)
  · exact reply_keeps h

theorem State.setIde_keeps {k : Nat} {x : IdeStream} {s : State} (h : Keeps z s) : Keeps z (State.setIde k x s) :=
  State.onSec_keeps h

theorem State.setTdi_keeps {f : Nat} {x : Tdi} {s : State} (h : Keeps z s) : Keeps z (State.setTdi f x s) :=
  State.onSec_keeps h

theorem tdiLose_keeps {f : Nat} {s : State} (h : Keeps z s) : Keeps z (tdiLose f s) := raiseCritical_keeps (abortAll_keeps h)

theorem tdiToError_keeps {f : Nat} {s : State} (h : Keeps z s) : Keeps z (tdiToError f s) :=
  tdiLose_keeps (State.setTdi_keeps h)

theorem ideKmDo_keeps {msg : IdeKmMsg} {s : State} (h : Keeps z s) : Keeps z (ideKmDo msg s) := by
  unfold ideKmDo
  dsimp only
  split
  · exact reply_keeps (State.setIde_keeps h)
  · split
    · exact reply_keeps (State.setIde_keeps h)
    · exact reply_keeps h
  · exact reply_keeps (State.setIde_keeps h)
  · exact reply_keeps h

theorem ideFail_keeps {k : Nat} {s : State} (h : Keeps z s) : Keeps z (ideFail k s) := by
  unfold ideFail
  dsimp only
  split
  · exact h
  · exact eachDo_keeps (State.setIde_keeps h) (fun _ _ h1 => tdiToError_keeps h1)

theorem tdisp_keeps {f : Nat} {g : State → State} {s : State} (hf : ∀ (a : State), Keeps z a → Keeps z (g a))
    (h : Keeps z s) : Keeps z (tdisp f g s) := by
  unfold tdisp
  refine doe_keeps (fun _ h1 => ?_) h
  split
  · exact reply_keeps h1
  · exact hf _ h1

theorem tdiLockDo_keeps {f : Nat} {stream : Option Nat} {s : State} (h : Keeps z s) : Keeps z (tdiLockDo f stream s) := by
  unfold tdiLockDo
  dsimp only
  split
  · split
    · exact reply_keeps (State.setTdi_keeps h)
    · exact reply_keeps h
  split
  · exact reply_keeps (State.setTdi_keeps h)
  · exact reply_keeps h

theorem tdiStartDo_keeps {f : Nat} {s : State} (h : Keeps z s) : Keeps z (tdiStartDo f s) := by
  unfold tdiStartDo
  dsimp only
  split
  · exact reply_keeps (State.setTdi_keeps h)
  · exact reply_keeps h

theorem tdiStopDo_keeps {f : Nat} {s : State} (h : Keeps z s) : Keeps z (tdiStopDo f s) :=
  reply_keeps (State.setTdi_keeps (tdiLose_keeps h))

theorem flrFences_keeps {f : Nat} {s : State} (h : Keeps z s) : Keeps z (flrFences f s) := by
  unfold flrFences
  dsimp only
  refine foldl_keeps (foldl_keeps h (fun _ _ h1 => foldl_keeps h1 (fun _ _ h2 => dropImport_keeps h2))) (fun _ _ h3 => ?_)
  split
  · split
    · exact freeFence_keeps (fenceError_keeps h3)
    · exact h3
  split
  · exact freeFence_keeps (fenceError_keeps h3)
  · exact h3

theorem errorHooks_keeps {s : State} (h : Keeps z s) : Keeps z (errorHooks s) :=
  closeOps_keeps (commitHooks_keeps (planHooks_keeps h))

theorem autoRelease_keeps {n : Nat} {s : State} (h : Keeps z s) : Keeps z (autoRelease n s) := by
  unfold autoRelease
  dsimp only
  split
  · exact State.onSec_keeps (State.setCtx_keeps h)
  · exact h

theorem flrRegs_keeps {f : Nat} {s : State} (h : Keeps z s) : Keeps z (flrRegs f s) where
  pending := h.pending
  mem := h.mem
  reg hz := (h.reg hz).filter _

theorem flrDo_keeps {f : Nat} {s : State} (h : Keeps z s) : Keeps z (flrDo f s) := by
  unfold flrDo
  dsimp only
  split
  · exact h
  refine errorHooks_keeps ?_
  refine flrRegs_keeps ?_
  refine flrFences_keeps ?_
  refine eachDo_keeps ?_ (fun _ _ h1 => State.setRing_keeps h1)
  refine eachDo_keeps ?_ (fun _ _ h2 => autoRelease_keeps h2)
  refine State.onSec_keeps ?_
  refine abortAll_keeps ?_
  split
  · exact State.setTdi_keeps h
  · exact h

end Sys2Proof.Machine
end

section
/-! The queue and the canonical form are kept: Machine/Power.lean. -/

namespace Sys2Proof.Machine

open Sys2Proof

variable {z : State}

theorem avsFail_keeps {g rail mv : Nat} {s : State} (h : Keeps z s) : Keeps z (avsFail g rail mv s) := by
  unfold avsFail
  dsimp only
  split
  · exact setSeq_keeps (writeVolt_keeps (State.onPwr_keeps (State.onPwr_keeps (logError_keeps h))))
  · exact setSeq_keeps (writeVolt_keeps (State.onPwr_keeps (State.onPwr_keeps (logError_keeps h))))
  split
  · exact nextStep_keeps (setSeq_keeps (State.onPwr_keeps (logError_keeps h)))
  · exact setSeq_keeps (State.onPwr_keeps (logError_keeps h))

theorem voltWritten_keeps {g : Nat} {s : State} (h : Keeps z s) : Keeps z (voltWritten g s) := by
  unfold voltWritten
  dsimp only
  split
  · split
    · exact setSeq_keeps h
    · exact nextStep_keeps (State.onPwr_keeps h)
  · split
    · exact setSeq_keeps h
    split
    · exact setSeq_keeps (State.onPwr_keeps h)
    · exact nextStep_keeps (State.onPwr_keeps h)
  · split
    · exact setSeq_keeps h
    · exact nextStep_keeps (State.onPwr_keeps h)
  · exact h

theorem voltRead_keeps {g rail mv : Nat} {s : State} (h : Keeps z s) : Keeps z (voltRead g rail mv s) := by
  unfold voltRead
  dsimp only
  split
  · split
    · split
      · exact setSeq_keeps h
      split
      · exact setSeq_keeps h
      · exact nextStep_keeps h
    · exact h
  · exact h

theorem frameDone_keeps {a : AvsAnswer} {s : State} (h : Keeps z s) : Keeps z (frameDone a s) := by
  unfold frameDone
  dsimp only
  split
  · exact h
  split
  · exact avsFail_keeps (State.onPwr_keeps h)
  split
  · exact voltRead_keeps (State.onPwr_keeps h)
  · exact voltWritten_keeps (State.onPwr_keeps h)

theorem confirmRead_keeps {g : Nat} {s : State} (h : Keeps z s) : Keeps z (confirmRead g s) := by
  unfold confirmRead
  dsimp only
  split
  · exact State.onPwr_keeps h
  · exact h

theorem avsTimeout_keeps {g : Nat} {s : State} (h : Keeps z s) : Keeps z (avsTimeout g s) := by
  unfold avsTimeout
  split
  · exact avsFail_keeps h
  split
  · exact avsFail_keeps h
  · exact h

theorem freqMoved_keeps {g : Nat} {s : State} (h : Keeps z s) : Keeps z (freqMoved g s) := by
  unfold freqMoved
  dsimp only
  split
  · exact nextStep_keeps (State.onPwr_keeps h)
  · exact nextStep_keeps (State.onPwr_keeps h)
  · exact h

theorem limitGoals_keeps {s : State} (h : Keeps z s) : Keeps z (limitGoals s) := by
  unfold limitGoals
  dsimp only
  refine eachDo_keeps h (fun _ _ h1 => ?_)
  split
  · split
    · exact h1
    · exact setGoal_keeps h1
  split
  · exact h1
  · exact setGoal_keeps h1

theorem lowerOne_keeps {s : State} (h : Keeps z s) : Keeps z (lowerOne s) := by
  unfold lowerOne
  split
  · exact setGoal_keeps h
  · exact h

theorem raiseOne_keeps {s : State} (h : Keeps z s) : Keeps z (raiseOne s) := by
  unfold raiseOne
  split
  · exact setGoal_keeps h
  · exact h

theorem gateCluster_keeps {c : Nat} {s : State} (h : Keeps z s) : Keeps z (gateCluster c s) := by
  unfold gateCluster
  refine eachDo_keeps h (fun _ _ h1 => ?_)
  split
  · exact State.setPower_keeps h1
  · exact h1

theorem thermal_keeps {t : ℤ} {s : State} (h : Keeps z s) : Keeps z (thermal t s) := by
  unfold thermal
  dsimp only
  split
  · split
    · split
      · refine eachDo_keeps (abortAll_keeps (logError_keeps (State.onErr_keeps (logError_keeps (State.onPwr_keeps h)))))
            (fun _ _ h1 => ?_)
        split
        · exact gateCluster_keeps h1
        · exact h1
      · exact abortAll_keeps (logError_keeps (State.onErr_keeps (logError_keeps (State.onPwr_keeps h))))
    split
    · split
      · refine eachDo_keeps (State.onErr_keeps (logError_keeps (State.onPwr_keeps h))) (fun _ _ h2 => ?_)
        split
        · exact gateCluster_keeps h2
        · exact h2
      · exact State.onErr_keeps (logError_keeps (State.onPwr_keeps h))
    split
    · refine eachDo_keeps (logError_keeps (State.onPwr_keeps h)) (fun _ _ h3 => ?_)
      split
      · exact gateCluster_keeps h3
      · exact h3
    · exact logError_keeps (State.onPwr_keeps h)
  split
  · split
    · split
      · refine eachDo_keeps (abortAll_keeps (logError_keeps (State.onErr_keeps (State.onPwr_keeps h)))) (fun _ _ h4 => ?_)
        split
        · exact gateCluster_keeps h4
        · exact h4
      · exact abortAll_keeps (logError_keeps (State.onErr_keeps (State.onPwr_keeps h)))
    split
    · refine eachDo_keeps (State.onErr_keeps (State.onPwr_keeps h)) (fun _ _ h5 => ?_)
      split
      · exact gateCluster_keeps h5
      · exact h5
    · exact State.onErr_keeps (State.onPwr_keeps h)
  split
  · split
    · refine eachDo_keeps (abortAll_keeps (logError_keeps (State.onErr_keeps h))) (fun _ _ h6 => ?_)
      split
      · exact gateCluster_keeps h6
      · exact h6
    · exact abortAll_keeps (logError_keeps (State.onErr_keeps h))
  split
  · refine eachDo_keeps h (fun _ _ h7 => ?_)
    split
    · exact gateCluster_keeps h7
    · exact h7
  · exact h

theorem throttleDo_keeps {mw : Nat} {s : State} (h : Keeps z s) : Keeps z (throttleDo mw s) := by
  unfold throttleDo
  dsimp only
  exact State.onPwr_keeps h

theorem measureNow_keeps {m : Measurement} {s : State} (h : Keeps z s) : Keeps z (measureNow m s) := by
  unfold measureNow
  dsimp only
  split
  · exact h
  split
  · split
    · split
      · split
        · exact throttleDo_keeps (thermal_keeps (State.onPwr_keeps h))
        split
        · exact limitGoals_keeps (throttleDo_keeps (thermal_keeps (State.onPwr_keeps h)))
        split
        · exact lowerOne_keeps (limitGoals_keeps (throttleDo_keeps (thermal_keeps (State.onPwr_keeps h))))
        split
        · exact raiseOne_keeps (limitGoals_keeps (throttleDo_keeps (thermal_keeps (State.onPwr_keeps h))))
        · exact limitGoals_keeps (throttleDo_keeps (thermal_keeps (State.onPwr_keeps h)))
      split
      · exact throttleDo_keeps (thermal_keeps (State.onPwr_keeps h))
      split
      · exact limitGoals_keeps (throttleDo_keeps (thermal_keeps (State.onPwr_keeps h)))
      split
      · exact lowerOne_keeps (limitGoals_keeps (throttleDo_keeps (thermal_keeps (State.onPwr_keeps h))))
      split
      · exact raiseOne_keeps (limitGoals_keeps (throttleDo_keeps (thermal_keeps (State.onPwr_keeps h))))
      · exact limitGoals_keeps (throttleDo_keeps (thermal_keeps (State.onPwr_keeps h)))
    split
    · split
      · exact throttleDo_keeps (thermal_keeps (State.onPwr_keeps h))
      split
      · exact limitGoals_keeps (throttleDo_keeps (thermal_keeps (State.onPwr_keeps h)))
      split
      · exact lowerOne_keeps (limitGoals_keeps (throttleDo_keeps (thermal_keeps (State.onPwr_keeps h))))
      split
      · exact raiseOne_keeps (limitGoals_keeps (throttleDo_keeps (thermal_keeps (State.onPwr_keeps h))))
      · exact limitGoals_keeps (throttleDo_keeps (thermal_keeps (State.onPwr_keeps h)))
    split
    · exact throttleDo_keeps (thermal_keeps (State.onPwr_keeps h))
    split
    · exact limitGoals_keeps (throttleDo_keeps (thermal_keeps (State.onPwr_keeps h)))
    split
    · exact lowerOne_keeps (limitGoals_keeps (throttleDo_keeps (thermal_keeps (State.onPwr_keeps h))))
    split
    · exact raiseOne_keeps (limitGoals_keeps (throttleDo_keeps (thermal_keeps (State.onPwr_keeps h))))
    · exact limitGoals_keeps (throttleDo_keeps (thermal_keeps (State.onPwr_keeps h)))
  split
  · split
    · split
      · exact throttleDo_keeps (State.onPwr_keeps h)
      split
      · exact limitGoals_keeps (throttleDo_keeps (State.onPwr_keeps h))
      split
      · exact lowerOne_keeps (limitGoals_keeps (throttleDo_keeps (State.onPwr_keeps h)))
      split
      · exact raiseOne_keeps (limitGoals_keeps (throttleDo_keeps (State.onPwr_keeps h)))
      · exact limitGoals_keeps (throttleDo_keeps (State.onPwr_keeps h))
    split
    · exact throttleDo_keeps (State.onPwr_keeps h)
    split
    · exact limitGoals_keeps (throttleDo_keeps (State.onPwr_keeps h))
    split
    · exact lowerOne_keeps (limitGoals_keeps (throttleDo_keeps (State.onPwr_keeps h)))
    split
    · exact raiseOne_keeps (limitGoals_keeps (throttleDo_keeps (State.onPwr_keeps h)))
    · exact limitGoals_keeps (throttleDo_keeps (State.onPwr_keeps h))
  split
  · split
    · exact throttleDo_keeps (State.onPwr_keeps h)
    split
    · exact limitGoals_keeps (throttleDo_keeps (State.onPwr_keeps h))
    split
    · exact lowerOne_keeps (limitGoals_keeps (throttleDo_keeps (State.onPwr_keeps h)))
    split
    · exact raiseOne_keeps (limitGoals_keeps (throttleDo_keeps (State.onPwr_keeps h)))
    · exact limitGoals_keeps (throttleDo_keeps (State.onPwr_keeps h))
  split
  · exact throttleDo_keeps (State.onPwr_keeps h)
  split
  · exact limitGoals_keeps (throttleDo_keeps (State.onPwr_keeps h))
  split
  · exact lowerOne_keeps (limitGoals_keeps (throttleDo_keeps (State.onPwr_keeps h)))
  split
  · exact raiseOne_keeps (limitGoals_keeps (throttleDo_keeps (State.onPwr_keeps h)))
  · exact limitGoals_keeps (throttleDo_keeps (State.onPwr_keeps h))

theorem policyEffect_keeps {w : RegWr} {s : State} (h : Keeps z s) : Keeps z (policyEffect w s) := by
  unfold policyEffect
  split
  · exact State.onPwr_keeps h
  · exact h

theorem policyDone_keeps {io : HostIO} {s : State} (h : Keeps z s) : Keeps z (policyDone io s) := by
  unfold policyDone
  dsimp only
  split
  · exact h
  split
  · exact applyIO_keeps h
  · exact State.onPwr_keeps (noteViolation_keeps (applyIO_keeps h))
  rename_i heq
  have h1 := (devRead_keeps (applyIO_keeps h)).done heq
  split
  · exact State.onPwr_keeps h1
  split
  · exact applyIO_keeps h
  · exact State.onPwr_keeps (noteViolation_keeps h1)
  split
  · refine State.onPwr_keeps ?_
    refine Dev.keeps.done ?_ ‹_›
    split
    · exact h1
    · exact devRead_keeps h1
  split
  · refine limitGoals_keeps ?_
    refine State.onPwr_keeps ?_
    refine State.onPwr_keeps ?_
    refine Dev.keeps.done ?_ ‹_›
    split
    · exact h1
    · exact devRead_keeps h1
  refine State.onPwr_keeps ?_
  refine State.onPwr_keeps ?_
  refine Dev.keeps.done ?_ ‹_›
  split
  · exact h1
  · exact devRead_keeps h1

theorem statsNow_keeps {s : State} (h : Keeps z s) : Keeps z (statsNow s) := by
  unfold statsNow
  dsimp only
  split
  · exact h
  · exact State.onPwr_keeps (getD_keeps (devWrite_keeps (getD_keeps (devWrite_keeps (eachDo_keeps (getD_keeps
        (devWrite_keeps (State.onPwr_keeps h)) (noteViolation_keeps (State.onPwr_keeps h))) (fun _ _ h1 => getD_keeps
        (devWrite_keeps h1) (noteViolation_keeps h1)))) (noteViolation_keeps (eachDo_keeps (getD_keeps (devWrite_keeps
        (State.onPwr_keeps h)) (noteViolation_keeps (State.onPwr_keeps h))) (fun _ _ h2 => getD_keeps (devWrite_keeps
        h2) (noteViolation_keeps h2)))))) (noteViolation_keeps (getD_keeps (devWrite_keeps (eachDo_keeps (getD_keeps
        (devWrite_keeps (State.onPwr_keeps h)) (noteViolation_keeps (State.onPwr_keeps h))) (fun _ _ h3 => getD_keeps
        (devWrite_keeps h3) (noteViolation_keeps h3)))) (noteViolation_keeps (eachDo_keeps (getD_keeps (devWrite_keeps
        (State.onPwr_keeps h)) (noteViolation_keeps (State.onPwr_keeps h))) (fun _ _ h4 => getD_keeps (devWrite_keeps
        h4) (noteViolation_keeps h4)))))))

theorem startEntry_keeps {target : Nat} {s : State} (h : Keeps z s) : Keeps z (startEntry target s) :=
  eachDo_keeps (State.onPwr_keeps h) (fun _ _ h1 => setGoal_keeps h1)

theorem sleepEffect_keeps {w : RegWr} {s : State} (h : Keeps z s) : Keeps z (sleepEffect w s) := by
  unfold sleepEffect
  dsimp only
  split
  · exact storeWr_keeps h
  split
  · exact startEntry_keeps (State.onPwr_keeps (storeWr_keeps h))
  · exact State.onPwr_keeps (storeWr_keeps h)

theorem unitOff_keeps {k : Nat} {s : State} (h : Keeps z s) : Keeps z (unitOff k s) := by
  unfold unitOff
  split
  · exact State.setPower_keeps h
  · exact h

theorem unitOn_keeps {k : Nat} {s : State} (h : Keeps z s) : Keeps z (unitOn k s) := by
  unfold unitOn
  split
  · exact h
  split
  · exact State.setPower_keeps (wakeClear_keeps h)
  split
  · exact State.setPower_keeps (wakeClear_keeps h)
  split
  · exact State.setPower_keeps (wakeClear_keeps h)
  · exact h

theorem entryDone_keeps {s : State} (h : Keeps z s) : Keeps z (entryDone s) := by
  unfold entryDone
  extract_lets settled busy u1 keep u2 u3 pins held u4 u5
  split
  · exact h
  · have h1 : Keeps z u2 := eachDo_keeps (l2Empty_keeps h) fun _ _ hu => by
      split
      · split
        · exact unitOn_keeps hu
        · exact hu
      · exact unitOff_keeps hu
    have h2 : Keeps z u5 := State.onPwr_keeps (wakeBits_keeps (State.onTns_keeps (State.setRaw_keeps h1)))
    clear_value u5 held
    split
    · exact startExit_keeps h2
    · exact h2

theorem exitDone_keeps {s : State} (h : Keeps z s) : Keeps z (exitDone s) := by
  unfold exitDone
  dsimp only
  split
  · exact h
  refine limitGoals_keeps ?_
  refine raiseVec_keeps ?_
  refine State.onPwr_keeps ?_
  refine State.onTns_keeps ?_
  refine State.setRaw_keeps ?_
  refine eachDo_keeps ?_ (fun _ _ h1 => ?_)
  · split
    · exact State.setL2_keeps h
    · exact h
  split
  · exact unitOn_keeps h1
  · exact h1

theorem clockGate_keeps {u : GateUnit} {s : State} (h : Keeps z s) : Keeps z (clockGate u s) := by
  unfold clockGate
  dsimp only
  split
  · exact State.onPwr_keeps h
  · exact h

theorem powerGate_keeps {c : Nat} {s : State} (h : Keeps z s) : Keeps z (powerGate c s) := by
  unfold powerGate
  split
  · exact gateCluster_keeps h
  · exact h

theorem wakePin_keeps {i : Nat} {level : Bool} {s : State} (h : Keeps z s) : Keeps z (wakePin i level s) := by
  unfold wakePin
  dsimp only
  split
  · split
    · exact State.onPwr_keeps h
    split
    · exact levelWakes_keeps (State.onPwr_keeps h)
    split
    · exact State.onPwr_keeps h
    split
    · split
      · exact State.fresh_keeps (State.onPwr_keeps h)
      · exact wakeEvent_keeps (wakeBits_keeps (State.fresh_keeps (State.onPwr_keeps h)))
    split
    · dsimp only
      exact State.onPwr_keeps h
    refine wakeEvent_keeps ?_
    refine wakeBits_keeps ?_
    dsimp only
    exact State.onPwr_keeps h
  split
  · split
    · exact State.onPwr_keeps h
    split
    · exact levelWakes_keeps (State.onPwr_keeps h)
    split
    · exact State.onPwr_keeps h
    split
    · split
      · exact State.fresh_keeps (State.onPwr_keeps h)
      · exact wakeEvent_keeps (wakeBits_keeps (State.fresh_keeps (State.onPwr_keeps h)))
    split
    · dsimp only
      exact State.onPwr_keeps h
    refine wakeEvent_keeps ?_
    refine wakeBits_keeps ?_
    dsimp only
    exact State.onPwr_keeps h
  split
  · exact State.onPwr_keeps h
  split
  · exact levelWakes_keeps (State.onPwr_keeps h)
  split
  · exact State.onPwr_keeps h
  split
  · split
    · exact State.fresh_keeps (State.onPwr_keeps h)
    · exact wakeEvent_keeps (wakeBits_keeps (State.fresh_keeps (State.onPwr_keeps h)))
  split
  · dsimp only
    exact State.onPwr_keeps h
  refine wakeEvent_keeps ?_
  refine wakeBits_keeps ?_
  dsimp only
  exact State.onPwr_keeps h

theorem linkWake_keeps {s : State} (h : Keeps z s) : Keeps z (linkWake s) := by
  unfold linkWake
  split
  · exact h
  · exact wakeEvent_keeps (wakeBits_keeps h)

theorem displayPllFail_keeps {p : Nat} {s : State} (h : Keeps z s) : Keeps z (displayPllFail p s) := by
  unfold displayPllFail
  dsimp only
  refine State.onPipe_keeps ?_
  split
  · exact commitFail_keeps (dropPend_keeps h)
  · exact dropPend_keeps h

theorem relock_keeps {ns : List Nat} {s : State} (h : Keeps z s) : Keeps z (relock ns s) := State.onPwr_keeps h

theorem sourceFail_keeps {fails n : Nat} {s : State} (h : Keeps z s) : Keeps z (sourceFail fails n s) := by
  unfold sourceFail
  dsimp only
  refine logError_keeps ?_
  split
  · exact State.onPwr_keeps (relock_keeps (State.onPwr_keeps (State.setRaw_keeps h)))
  split
  · exact State.onPwr_keeps (State.setRaw_keeps h)
  split
  · exact State.onPwr_keeps (State.setRaw_keeps h)
  split
  · exact displayPllFail_keeps (State.setRaw_keeps h)
  split
  · exact State.onPwr_keeps (State.setRaw_keeps h)
  · exact relock_keeps (State.onPwr_keeps (State.setRaw_keeps h))

theorem monitorWindow_keeps {fails : Nat} {s : State} (h : Keeps z s) : Keeps z (monitorWindow fails s) :=
  eachDo_keeps h (fun _ _ h1 => sourceFail_keeps h1)

theorem trimWindow_keeps {step : ℤ} {ok : Bool} {s : State} (h : Keeps z s) : Keeps z (trimWindow step ok s) :=
  State.onPwr_keeps h

theorem pllRelocked_keeps {n : Nat} {s : State} (h : Keeps z s) : Keeps z (pllRelocked n s) := by
  unfold pllRelocked
  split
  · exact State.onPwr_keeps h
  · exact h

theorem gateEffect_keeps {reg : Nat} {w : RegWr} {s : State} (h : Keeps z s) : Keeps z (gateEffect reg w s) := by
  unfold gateEffect
  dsimp only
  split
  · split
    · split
      · split
        · split
          · exact State.onPwr_keeps (State.setRaw_keeps h)
          · exact storeWr_keeps h
        split
        · exact State.onPwr_keeps (State.setRaw_keeps h)
        · exact storeWr_keeps h
      split
      · split
        · exact State.onPwr_keeps (State.setRaw_keeps h)
        · exact storeWr_keeps h
      split
      · exact State.onPwr_keeps (State.setRaw_keeps h)
      · exact storeWr_keeps h
    split
    · split
      · split
        · exact State.onPwr_keeps (State.setRaw_keeps h)
        · exact storeWr_keeps h
      split
      · exact State.onPwr_keeps (State.setRaw_keeps h)
      · exact storeWr_keeps h
    split
    · split
      · exact State.onPwr_keeps (State.setRaw_keeps h)
      · exact storeWr_keeps h
    split
    · exact State.onPwr_keeps (State.setRaw_keeps h)
    · exact storeWr_keeps h
  split
  · split
    · split
      · split
        · exact State.onPwr_keeps (State.setRaw_keeps h)
        · exact storeWr_keeps h
      split
      · exact State.onPwr_keeps (State.setRaw_keeps h)
      · exact storeWr_keeps h
    split
    · split
      · exact State.onPwr_keeps (State.setRaw_keeps h)
      · exact storeWr_keeps h
    split
    · exact State.onPwr_keeps (State.setRaw_keeps h)
    · exact storeWr_keeps h
  split
  · split
    · split
      · exact State.onPwr_keeps (State.setRaw_keeps h)
      · exact storeWr_keeps h
    split
    · exact State.onPwr_keeps (State.setRaw_keeps h)
    · exact storeWr_keeps h
  split
  · split
    · exact State.onPwr_keeps (State.setRaw_keeps h)
    · exact storeWr_keeps h
  split
  · exact State.onPwr_keeps (State.setRaw_keeps h)
  · exact storeWr_keeps h

end Sys2Proof.Machine
end

section
/-! The queue and the canonical form are kept: Machine/Resets.lean. -/

namespace Sys2Proof.Machine

open Sys2Proof

variable {z : State}

theorem keyExpiry_keeps {b : BlockId} {fn : Nat} {s : State} (h : Keeps z s) : Keeps z (keyExpiry b fn s) := by
  unfold keyExpiry
  dsimp only
  split
  · exact setUnlock_keeps h
  · exact h

theorem parityFail_keeps {fn off : Nat} {v : Word} {s : State} (h : Keeps z s) : Keeps z (parityFail fn off v s) := by
  unfold parityFail
  dsimp only
  split
  · exact h
  split
  · exact h
  split
  · exact h
  · exact logError_keeps (State.onReg_keeps h (fun _ => rfl))

theorem retireEntry_keeps {seq : Nat} {s : State} (h : Keeps z s) : Keeps z (retireEntry seq s) := State.onErr_keeps h

theorem sever_keeps {x : Nat} {s : State} (h : Keeps z s) : Keeps z (sever x s) := by
  unfold sever
  dsimp only
  split
  · exact h
  · exact logError_keeps (State.fresh_keeps (State.setCrossing_keeps h))

theorem resume_keeps {s : State} (h : Keeps z s) : Keeps z (resume s) := armRetry_keeps (goOn_keeps h)

theorem reopen_keeps {x : Nat} {s : State} (h : Keeps z s) : Keeps z (reopen x s) := by
  unfold reopen
  split
  · exact resume_keeps (State.setCrossing_keeps h)
  · exact h

theorem dropWork_keeps {ms : List Nat} {st : Nat} {s : State} (h : Keeps z s) : Keeps z (dropWork ms st s) :=
  closeOps_keeps (shdSweep_keeps (State.onCmp_keeps (State.onFe_keeps (eachDo_keeps (foldl_keeps h (fun _ _ h1 =>
      discardOp_keeps h1)) (fun _ _ h2 => endOpsOn_keeps h2)))))

theorem dropFronts_keeps {c st : Nat} {s : State} (h : Keeps z s) : Keeps z (dropFronts c st s) :=
  closeOps_keeps (foldl_keeps h (fun _ _ h1 => passFail_keeps h1))

theorem dropPipe_keeps {p : Nat} {s : State} (h : Keeps z s) : Keeps z (dropPipe p s) := by
  unfold dropPipe
  dsimp only
  refine State.onPipe_keeps ?_
  split
  · exact commitFail_keeps (dropPend_keeps h)
  · exact dropPend_keeps h

theorem dropPlan_keeps {d : Nat} {s : State} (h : Keeps z s) : Keeps z (dropPlan d s) := by
  unfold dropPlan
  split
  · exact planStop_keeps h
  · exact h

theorem holdUnit_keeps {k : Nat} {s : State} (h : Keeps z s) : Keeps z (holdUnit k s) := by
  unfold holdUnit
  split
  · exact State.setPower_keeps h
  · exact h

theorem unitReset_keeps {kind i : Nat} {s : State} (h : Keeps z s) : Keeps z (unitReset kind i s) := by
  unfold unitReset
  dsimp only
  split
  · refine holdUnit_keeps ?_
    split
    · refine sever_keeps ?_
      refine dropWork_keeps ?_
      split
      · exact dropFronts_keeps h
      split
      · exact dropPipe_keeps h
      split
      · exact dropPlan_keeps h
      · exact h
    refine dropWork_keeps ?_
    split
    · exact dropFronts_keeps h
    split
    · exact dropPipe_keeps h
    split
    · exact dropPlan_keeps h
    · exact h
  split
  · refine eachDo_keeps ?_ (fun _ _ h1 => holdUnit_keeps h1)
    refine holdUnit_keeps ?_
    split
    · exact sever_keeps (dropWork_keeps (dropFronts_keeps h))
    · exact dropWork_keeps (dropFronts_keeps h)
  split
  · refine sever_keeps ?_
    refine dropWork_keeps ?_
    split
    · exact dropPipe_keeps h
    split
    · exact dropPlan_keeps h
    · exact h
  refine dropWork_keeps ?_
  split
  · exact dropPipe_keeps h
  split
  · exact dropPlan_keeps h
  · exact h

theorem dieRegs_keeps {d : Nat} {s : State} (h : Keeps z s) : Keeps z (dieRegs d s) where
  pending := h.pending
  mem := h.mem
  reg hz := (h.reg hz).filter _

theorem dieLose_keeps {d : Nat} {s : State} (h : Keeps z s) : Keeps z (dieLose d s) := by
  unfold dieLose
  dsimp only
  refine eachDo_keeps (dieRegs_keeps (State.setL2_keeps (State.onMem_keeps (State.onTns_keeps (State.onShd_keeps
      (State.onMmu_keeps (State.setPlan_keeps (dropPlan_keeps (eachDo_keeps (dropWork_keeps h) (fun _ _ h1 =>
      dropFronts_keeps h1))))))) (fun _ => ⟨rfl, rfl⟩)))) (fun _ _ h2 => ?_)
  split
  · exact State.setPower_keeps h2
  · exact h2

theorem dieReset_keeps {d cause : Nat} {s : State} (h : Keeps z s) : Keeps z (dieReset d cause s) := by
  unfold dieReset
  dsimp only
  split
  · exact h
  · exact foldl_keeps (sever_keeps (sever_keeps (dieLose_keeps (eachDo_keeps (logError_keeps (State.onErr_keeps
        (State.onRst_keeps (State.onUnit_keeps h)))) (fun _ _ h1 => abortCtx_keeps h1))))) (fun _ _ h2 =>
        raiseCritical_keeps h2)

theorem dieIdentify_keeps {d : Nat} {r : DieCheck} {s : State} (h : Keeps z s) : Keeps z (dieIdentify d r s) := by
  unfold dieIdentify
  dsimp only
  split
  · exact State.onRst_keeps h
  split
  · exact logError_keeps (State.onRst_keeps h)
  · exact State.onRst_keeps h

theorem dieExclude_keeps {d reason : Nat} {s : State} (h : Keeps z s) : Keeps z (dieExclude d reason s) :=
  logError_keeps (State.onUnit_keeps h)

theorem dieEnter_keeps {d : Nat} {s : State} (h : Keeps z s) : Keeps z (dieEnter d s) := by
  unfold dieEnter
  dsimp only
  refine eachDo_keeps (State.onUnit_keeps h) (fun _ _ h1 => ?_)
  split
  · exact unitOn_keeps (unitOff_keeps h1)
  · exact h1

theorem dieCheck_keeps {d : Nat} {r : DieCheck} {s : State} (h : Keeps z s) : Keeps z (dieCheck d r s) := by
  unfold dieCheck
  dsimp only
  split
  · exact h
  split
  · exact resume_keeps (dieExclude_keeps (dieIdentify_keeps (State.onRst_keeps h)))
  · exact reopen_keeps (reopen_keeps (dieEnter_keeps (eachDo_keeps (dieIdentify_keeps (State.onRst_keeps h)) (fun _ _ h1
        => unpinMaster_keeps h1))))

theorem resetEffect_keeps {w : RegWr} {s : State} (h : Keeps z s) : Keeps z (resetEffect w s) := by
  unfold resetEffect
  dsimp only
  split
  · exact storeWr_keeps h
  split
  · exact State.onRst_keeps (storeWr_keeps h)
  split
  · exact dieReset_keeps (State.onRst_keeps (storeWr_keeps h))
  · exact unitReset_keeps (State.onRst_keeps (storeWr_keeps h))

theorem resetClears_keeps {kind i : Nat} {r : ClearResult} {s : State} (h : Keeps z s) :
    Keeps z (resetClears kind i r s) := by
  unfold resetClears
  dsimp only
  split
  · split
    · refine eachDo_keeps (clusterOn_keeps (clusterClear_keeps (eachDo_keeps h (fun _ _ h1 => unpinMaster_keeps h1))))
          (fun _ _ h2 => ?_)
      split
      · exact State.setPower_keeps h2
      · exact h2
    refine clearFailed_keeps ?_
    refine eachDo_keeps (eachDo_keeps h (fun _ _ h3 => unpinMaster_keeps h3)) (fun _ _ h4 => ?_)
    split
    · exact State.setPower_keeps h4
    · exact h4
  split
  · split
    · exact State.setPower_keeps (releaseRun_keeps h)
    · exact releaseRun_keeps h
  · exact eachDo_keeps h (fun _ _ h5 => releaseRun_keeps h5)

theorem resetDone_keeps {r : ClearResult} {s : State} (h : Keeps z s) : Keeps z (resetDone r s) := by
  unfold resetDone
  dsimp only
  split
  · exact h
  split
  · exact h
  split
  · exact State.onRst_keeps h
  · exact resume_keeps (resetClears_keeps (State.onRst_keeps h))

theorem flitReplay_keeps {x : Nat} {ok : Bool} {s : State} (h : Keeps z s) : Keeps z (flitReplay x ok s) :=
  State.onRst_keeps h

theorem replayLimit_keeps {x : Nat} {s : State} (h : Keeps z s) : Keeps z (replayLimit x s) := by
  unfold replayLimit
  dsimp only
  split
  · exact h
  split
  · exact dieReset_keeps (sever_keeps (State.onRst_keeps h))
  · exact sever_keeps (State.onRst_keeps h)

theorem dieSync_keeps {d copy : Nat} {s : State} (h : Keeps z s) : Keeps z (dieSync d copy s) := by
  unfold dieSync
  dsimp only
  split
  · exact State.onRst_keeps h
  split
  · exact dieReset_keeps (logError_keeps (State.onRst_keeps (State.onRst_keeps h)))
  · exact logError_keeps (State.onRst_keeps (State.onRst_keeps h))

theorem timeSync_keeps {copy0 copy1 : Nat} {s : State} (h : Keeps z s) : Keeps z (timeSync copy0 copy1 s) := by
  unfold timeSync
  dsimp only
  split
  · split
    · exact dieSync_keeps (dieSync_keeps h)
    · exact dieSync_keeps h
  split
  · exact dieSync_keeps h
  · exact h

end Sys2Proof.Machine
end

section
/-! The queue and the canonical form are kept: Machine/Boot.lean. -/

namespace Sys2Proof.Machine

open Sys2Proof

variable {z : State}

theorem deviceReset_keeps {full : Bool} {s : State} (h : Keeps z s) : Keeps z (deviceReset full s) where
  pending := h.pending
  mem hz := ⟨filter_wf _ (h.mem hz).1, rfl⟩
  reg hz := by
    show (if full then [] else tblDrop (fun k => !slowReg k) s.reg.regs).Pairwise _
    split
    · exact List.Pairwise.nil
    · exact (h.reg hz).filter _

theorem startPlls_keeps {s : State} (h : Keeps z s) : Keeps z (startPlls s) := State.onBoot_keeps (State.onPwr_keeps h)

theorem warmReset_keeps {link : Bool} {s : State} (h : Keeps z s) : Keeps z (warmReset link s) :=
  startPlls_keeps (State.onBoot_keeps (deviceReset_keeps h))

theorem perstReset_keeps {s : State} (h : Keeps z s) : Keeps z (perstReset s) := State.onBoot_keeps (deviceReset_keeps h)
theorem powerLost_keeps {s : State} (h : Keeps z s) : Keeps z (powerLost s) := deviceReset_keeps h

theorem pwrokRise_keeps {straps : Nat} {s : State} (h : Keeps z s) : Keeps z (pwrokRise straps s) := by
  unfold pwrokRise
  split
  · exact h
  · exact State.onPwr_keeps (State.onBoot_keeps h)

theorem xtalStable_keeps {s : State} (h : Keeps z s) : Keeps z (xtalStable s) := by
  unfold xtalStable
  split
  · exact startPlls_keeps h
  · exact h

theorem pllLock_keeps {n : Nat} {s : State} (h : Keeps z s) : Keeps z (pllLock n s) := by
  unfold pllLock
  dsimp only
  split
  · exact h
  split
  · exact State.onBoot_keeps (pllRelocked_keeps h)
  · exact pllRelocked_keeps h

theorem romDone_keeps {pass : Bool} {s : State} (h : Keeps z s) : Keeps z (romDone pass s) := by
  unfold romDone
  split
  · exact h
  · exact State.onBoot_keeps h

theorem linkTrained_keeps {s : State} (h : Keeps z s) : Keeps z (linkTrained s) := by
  unfold linkTrained
  split
  · exact State.onBoot_keeps h
  · exact h

theorem perstFall_keeps {s : State} (h : Keeps z s) : Keeps z (perstFall s) := by
  unfold perstFall
  dsimp only
  split
  · exact h
  split
  · exact perstReset_keeps (State.onBoot_keeps h)
  · exact State.onBoot_keeps h

theorem loadEffect_keeps {w : RegWr} {s : State} (h : Keeps z s) : Keeps z (loadEffect w s) := by
  unfold loadEffect
  split
  · exact State.onBoot_keeps h
  · exact h

theorem bootImage_keeps {b : List Byte} {s : State} (h : Keeps z s) : Keeps z (bootImage b s) := by
  unfold bootImage
  dsimp only
  refine setGoal_keeps ?_
  refine State.onBoot_keeps ?_
  split
  · exact State.onSec_keeps h
  · exact h

theorem verifyDone_keeps {io : HostIO} {s : State} (h : Keeps z s) : Keeps z (verifyDone io s) := by
  unfold verifyDone
  dsimp only
  split
  · exact h
  split
  · exact State.onBoot_keeps (applyIO_keeps h)
  split
  · exact State.onBoot_keeps (applyIO_keeps h)
  split
  · exact applyIO_keeps h
  · exact State.onBoot_keeps (applyIO_keeps h)
  rename_i heq
  have h1 := (devRead_keeps (applyIO_keeps h)).done heq
  split
  · exact bootImage_keeps h1
  · exact State.onBoot_keeps h1

theorem fwReady_keeps {d0 d1 : DieCheck} {s : State} (h : Keeps z s) : Keeps z (fwReady d0 d1 s) := by
  unfold fwReady
  dsimp only
  split
  · exact h
  refine State.onBoot_keeps ?_
  refine State.onUnit_keeps ?_
  split
  · refine dieEnter_keeps ?_
    refine dieIdentify_keeps ?_
    split
    · exact dieEnter_keeps (dieIdentify_keeps h)
    · exact dieExclude_keeps (dieIdentify_keeps h)
  refine dieExclude_keeps ?_
  refine dieIdentify_keeps ?_
  split
  · exact dieEnter_keeps (dieIdentify_keeps h)
  · exact dieExclude_keeps (dieIdentify_keeps h)

theorem tapLoad_keeps {code : Byte} {dr : Nat} {s : State} (h : Keeps z s) : Keeps z (tapLoad code dr s) := by
  unfold tapLoad
  dsimp only
  split
  · exact warmReset_keeps (State.onTap_keeps h)
  · exact State.onTap_keeps h

theorem extestDo_keeps {s : State} (h : Keeps z s) : Keeps z (extestDo s) := by
  unfold extestDo
  dsimp only
  split
  · exact State.onTap_keeps h
  · exact warmReset_keeps (State.onTap_keeps h)

end Sys2Proof.Machine
end

section
/-! The queue and the canonical form are kept: Machine/Fences.lean. -/

namespace Sys2Proof.Machine

open Sys2Proof

variable {z : State}

theorem applyHead_keeps {isSignal : Bool} {s : State} (h : Keeps z s) : Keeps z (applyHead isSignal s) := by
  unfold applyHead
  split
  · exact h
  split
  · exact h
  · exact errorHooks_keeps (applyMsg_keeps (State.onFen_keeps h))

theorem spacingExpiry_keeps {k : Nat} {s : State} (h : Keeps z s) : Keeps z (spacingExpiry k s) := by
  unfold spacingExpiry
  dsimp only
  split
  · exact fenceEvent_keeps h
  · exact h

theorem timeoutScan_keeps {s : State} (h : Keeps z s) : Keeps z (timeoutScan s) := by
  unfold timeoutScan
  split
  · exact h
  · exact errorHooks_keeps (foldl_keeps h (fun _ _ h1 => scanFence_keeps h1))

theorem fnFenEffect_keeps {shared : Bool} {f : Nat} {w : RegWr} {s : State} (h : Keeps z s) :
    Keeps z (fnFenEffect shared f w s) := by
  unfold fnFenEffect
  dsimp only
  split
  · exact clearWr_keeps h
  split
  · split
    · exact refuseWr_keeps h
    · exact storeWr_keeps h
  split
  · exact refuseWr_keeps h
  · exact storeWr_keeps h

theorem evqBaseEffect_keeps {w : RegWr} {s : State} (h : Keeps z s) : Keeps z (evqBaseEffect w s) :=
  State.setEvq_keeps (storeWr_keeps h)

theorem fenOp_keeps {fn op k : Nat} {f : Nat → State → Nat × State} {s : State} (h : Keeps z s) (hf : fenOp fn op = some f) :
    Keeps z (f k s).2 := by
  unfold fenOp at hf
  split at hf <;> first | (injection hf with hf; subst hf) | cases hf
  · exact fenDoAlloc_keeps h
  · exact fenDoFree_keeps h
  · exact fenDoRead_keeps h
  · exact fenDoSetError_keeps h
  · exact fenDoImport_keeps h
  · exact fenDoUnimport_keeps h

theorem fenceCommand_keeps {fn op : Nat} {s : State} (h : Keeps z s) : Keeps z (fenceCommand fn op s) := by
  unfold fenceCommand
  split
  · exact h
  · refine hostWrite_keeps (fun u hu => ?_) h
    split
    · exact hu
    · split
      · split
        · exact hu
        · exact holdWrite_keeps hu
      · exact errorHooks_keeps (fenCommand_keeps (fun _ _ hv => fenOp_keeps hv ‹_›) hu)

theorem pageMessage_keeps {fn n off v : Nat} {what : Quad ⊕ Reason} {s : State} (h : Keeps z s) :
    Keeps z (pageMessage fn n off v what s) := by
  unfold pageMessage
  dsimp only
  split
  · exact holdWrite_keeps h
  · exact State.onFen_keeps h

theorem slotCtrl_keeps {k i v : Nat} {s : State} (h : Keeps z s) : Keeps z (slotCtrl k i v s) :=
  fireSlots_keeps (State.setFence_keeps h)

theorem slotField_keeps {k i j v : Nat} {s : State} (h : Keeps z s) : Keeps z (slotField k i j v s) := by
  unfold slotField
  dsimp only
  split
  · exact h
  · exact State.setFence_keeps h

theorem pageWrite_keeps {fn n off v : Nat} {s : State} (h : Keeps z s) : Keeps z (pageWrite fn n off v s) := by
  unfold pageWrite
  dsimp only
  split
  · exact h
  refine hostWrite_keeps (fun _ h1 => ?_) h
  split
  · exact h1
  split
  · exact pageMessage_keeps h1
  split
  · exact pageMessage_keeps h1
  split
  · exact h1
  split
  · exact holdWrite_keeps h1
  split
  · exact slotCtrl_keeps h1
  · exact slotField_keeps h1

end Sys2Proof.Machine
end

section
/-! The queue and the canonical form are kept: Machine/RegWrite.lean. -/

namespace Sys2Proof.Machine

open Sys2Proof

variable {z : State}

theorem lockedRange_keeps {f : Nat} {mask : Word} {w : RegWr} {eff : State → State} {s : State} (hf : ∀ (a : State),
    Keeps z a → Keeps z (eff a)) (h : Keeps z s) : Keeps z (lockedRange f mask w eff s) := by
  unfold lockedRange
  split
  · exact refuseWr_keeps h
  · exact hf _ h

theorem ctxCmdWrite_keeps {fn v : Nat} {s : State} (h : Keeps z s) : Keeps z (ctxCmdWrite fn v s) := by
  unfold ctxCmdWrite
  dsimp only
  split
  · exact ctxCommand_keeps (fun _ h1 => createDo_keeps h1) h
  · exact ctxCommand_keeps (fun _ h2 => destroyDo_keeps h2) h
  · exact ctxCommand_keeps (fun _ h3 => abortDo_keeps h3) h
  · exact ctxCommand_keeps (fun _ h4 => releaseDo_keeps h4) h
  · exact ctxCommand_keeps (fun _ h5 => reloadDo_keeps h5) h
  · exact h

theorem mmuEffect_keeps {rel : Nat} {w : RegWr} {s : State} (h : Keeps z s) : Keeps z (mmuEffect rel w s) := by
  unfold mmuEffect
  dsimp only
  split
  · exact ctxCmdWrite_keeps h
  split
  · exact invEffect_keeps h
  split
  · exact lockedRange_keeps (fun _ h1 => fnCtxEffect_keeps h1) h
  split
  · exact placeEffect_keeps h
  split
  · exact h
  · exact storeWr_keeps h

theorem ringCmdWrite_keeps {fn v : Nat} {s : State} (h : Keeps z s) : Keeps z (ringCmdWrite fn v s) := by
  unfold ringCmdWrite
  split
  · exact ringCommand_keeps (fun _ _ h1 => enableDo_keeps h1) h
  · exact ringCommand_keeps (fun _ _ h2 => disableDo_keeps h2) h
  · exact ringCommand_keeps (fun _ _ h3 => setPrioDo_keeps h3) h
  · exact h

theorem feEffect_keeps {rel : Nat} {w : RegWr} {s : State} (h : Keeps z s) : Keeps z (feEffect rel w s) := by
  unfold feEffect
  dsimp only
  split
  · exact ringCmdWrite_keeps h
  split
  · exact pollCtlEffect_keeps h
  split
  · exact lockedRange_keeps (fun _ h1 => fnRingEffect_keeps h1) h
  split
  · exact parkqBaseEffect_keeps h
  split
  · exact parkCommand_keeps h
  split
  · exact State.setRaw_keeps h
  · exact storeWr_keeps h

theorem fenEffect_keeps {rel : Nat} {w : RegWr} {s : State} (h : Keeps z s) : Keeps z (fenEffect rel w s) := by
  unfold fenEffect
  dsimp only
  split
  · exact fenceCommand_keeps h
  split
  · exact evqBaseEffect_keeps h
  split
  · exact lockedRange_keeps (fun _ h1 => fnFenEffect_keeps h1) h
  · exact storeWr_keeps h

theorem slowWrite_keeps {w : RegWr} {s : State} (h : Keeps z s) : Keeps z (slowWrite w s) := by
  unfold slowWrite
  dsimp only
  split
  · exact State.onReg_keeps h (fun _ => rfl)
  split
  · exact h
  · exact State.onReg_keeps h (fun _ => rfl)

theorem pwrEffect_keeps {rel : Nat} {w : RegWr} {s : State} (h : Keeps z s) : Keeps z (pwrEffect rel w s) := by
  unfold pwrEffect
  split
  · exact sleepEffect_keeps h
  split
  · exact policyEffect_keeps h
  split
  · exact slowWrite_keeps h
  · exact storeWr_keeps h

theorem errEffect_keeps {rel : Nat} {w : RegWr} {s : State} (h : Keeps z s) : Keeps z (errEffect rel w s) := by
  unfold errEffect
  split
  · split
    · exact State.onErr_keeps h
    · exact h
  split
  · split
    · exact h
    · exact retireEntry_keeps h
  split
  · exact State.onErr_keeps h
  split
  · exact State.onReg_keeps h (fun _ => rfl)
  · exact storeWr_keeps h

theorem secEffect_keeps {rel : Nat} {w : RegWr} {s : State} (h : Keeps z s) : Keeps z (secEffect rel w s) := by
  unfold secEffect
  split
  · exact lcEffect_keeps h
  split
  · exact secCfgEffect_keeps h
  split
  · exact pinEffect_keeps h
  · exact storeWr_keeps h

theorem dspEffect_keeps {p rel : Nat} {w : RegWr} {s : State} (h : Keeps z s) : Keeps z (dspEffect p rel w s) := by
  unfold dspEffect
  split
  · exact dspCtlEffect_keeps h
  split
  · exact cntClrEffect_keeps h
  split
  · exact auxCtlEffect_keeps h
  · exact storeWr_keeps h

theorem l2Effect_keeps {d rel : Nat} {w : RegWr} {s : State} (h : Keeps z s) : Keeps z (l2Effect d rel w s) := by
  unfold l2Effect
  split
  · exact l2LockEffect_keeps h
  split
  · exact l2OpEffect_keeps h
  · exact storeWr_keeps h

theorem regEffect_keeps {b : BlockId} {rel : Nat} {w : RegWr} {s : State} (h : Keeps z s) :
    Keeps z (regEffect b rel w s) := by
  unfold regEffect
  split
  · exact mmuEffect_keeps h
  · exact feEffect_keeps h
  · exact fenEffect_keeps h
  · exact pwrEffect_keeps h
  · exact errEffect_keeps h
  · exact secEffect_keeps h
  · exact dspEffect_keeps h
  · exact l2Effect_keeps h
  · exact resetEffect_keeps h
  · split
    · exact gateEffect_keeps h
    · exact storeWr_keeps h
  · split
    · exact loadEffect_keeps h
    · exact storeWr_keeps h
  · split
    · exact spmArbEffect_keeps h
    split
    · exact regionClearEffect_keeps h
    · exact storeWr_keeps h
  · split
    · exact rshEffect_keeps h
    · exact storeWr_keeps h
  · exact storeWr_keeps h
  · exact storeWr_keeps h
  · exact storeWr_keeps h
  · exact storeWr_keeps h
  · exact storeWr_keeps h

theorem landWrite_keeps {b : BlockId} {rel agent off : Nat} {val : Word} {s : State} (h : Keeps z s) :
    Keeps z (landWrite b rel agent off val s) := by
  unfold landWrite
  split
  · exact msixWrite_keeps h
  split
  · exact blkKeyDo_keeps h
  split
  · exact (stage_keeps h).done ‹_›
  · exact regEffect_keeps ((stage_keeps h).run ‹_›)
  · exact (stage_keeps h).rewritten ‹_›

theorem regCore_keeps {agent off : Nat} {val : Word} {s : State} (h : Keeps z s) : Keeps z (regCore agent off val s) := by
  unfold regCore
  dsimp only
  split
  · exact h
  split
  · exact landWrite_keeps h
  split
  · exact h
  split
  · split
    · exact h
    · exact hostWrite_keeps (fun _ h1 => landWrite_keeps h1) h
  split
  · exact h
  · exact hostWrite_keeps (fun _ h2 => landWrite_keeps h2) h

theorem heldEvent_keeps {e : Nat × Nat × Nat} {s : State} (h : Keeps z s) : Keeps z (heldEvent e s) := by
  unfold heldEvent
  dsimp only
  split
  · split
    · exact holdWrite_keeps h
    · exact pinCommand_keeps h
  split
  · exact pageWrite_keeps h
  split
  · exact nudgeDo_keeps h
  · exact regCore_keeps h

theorem replayHeld_keeps {s : State} (h : Keeps z s) : Keeps z (replayHeld s) :=
  foldl_keeps (State.onReg_keeps h (fun _ => rfl)) (fun _ _ h1 => heldEvent_keeps h1)

theorem replayRecs_keeps {s : State} (h : Keeps z s) : Keeps z (replayRecs s) := by
  unfold replayRecs
  dsimp only
  split
  · exact h
  · exact foldl_keeps (State.onSec_keeps h) (fun _ _ h1 => storePinRec_keeps h1)

theorem promoteWalks_keeps {s : State} (h : Keeps z s) : Keeps z (promoteWalks s) := by
  unfold promoteWalks
  dsimp only
  split
  · exact h
  · exact State.onMmu_keeps h

theorem regWrite4_keeps {agent off : Nat} {val : Word} {s : State} (h : Keeps z s) :
    Keeps z (regWrite4 agent off val s) := by
  unfold regWrite4
  dsimp only
  split
  · exact resume_keeps (promoteWalks_keeps (replayHeld_keeps (replayRecs_keeps (regCore_keeps h))))
  · exact regCore_keeps h

theorem regWrite_keeps {fn off size : Nat} {v : Quad} {s : State} (h : Keeps z s) : Keeps z (regWrite fn off size v s) := by
  unfold regWrite
  split
  · exact regWrite4_keeps h
  split
  · exact regWrite4_keeps (regWrite4_keeps h)
  · exact h

theorem aliasWrite_keeps {delta fn off size : Nat} {v : Quad} {s : State} (h : Keeps z s) :
    Keeps z (aliasWrite delta fn off size v s) := by
  unfold aliasWrite
  split
  · split
    · exact regWrite_keeps h
    · exact h
  · exact h

theorem exitFinish_keeps {s : State} (h : Keeps z s) : Keeps z (exitFinish s) := by
  unfold exitFinish
  dsimp only
  split
  · exact replayHeld_keeps (exitDone_keeps h)
  · exact exitDone_keeps h

theorem l2Go_keeps {fn : Fn} {d : Fin 2} {op v : Word} {s : State} (h : Keeps z s) : Keeps z (l2Go fn d op v s) :=
  regWrite4_keeps h

theorem resetGo_keeps {kind : Nat} {fn : Fn} {index : BitVec 6} {s : State} (h : Keeps z s) :
    Keeps z (resetGo kind fn index s) :=
  regWrite4_keeps h

end Sys2Proof.Machine
end

section
/-! The queue and the canonical form are kept: Machine/ReadReg.lean. -/

namespace Sys2Proof.Machine

open Sys2Proof

variable {z : State}

theorem setLatch_keeps {r : CounterReg} {s : State} (h : Keeps z s) : Keeps z (setLatch r s) := by
  unfold setLatch
  dsimp only
  split
  · exact h
  · exact State.onReg_keeps h (fun _ => rfl)

theorem latchRead_keeps {fn : Nat} {r : CounterReg} {s : State} (h : Keeps z s) : Keeps z (latchRead fn r s) := by
  unfold latchRead
  split
  · split
    · exact h
    · exact setLatch_keeps h
  split
  · exact h
  · exact setLatch_keeps h

end Sys2Proof.Machine
end

section
/-! The queue and the canonical form are kept: Machine/Monitor.lean. -/

namespace Sys2Proof.Machine

open Sys2Proof

variable {z : State}

theorem monReply_keeps {code : MonCode} {vals : List Nat} {s : State} (h : Keeps z s) : Keeps z (monReply code vals s) :=
  State.onMon_keeps h

theorem monCmd_keeps {level : Nat} {rom : Bool} {f : State → State} {s : State} (hf : ∀ (a : State), Keeps z a → Keeps z
    (f a)) (h : Keeps z s) : Keeps z (monCmd level rom f s) := by
  unfold monCmd
  split
  · exact h
  split
  · exact monReply_keeps h
  split
  · exact monReply_keeps h
  · exact hf _ h

theorem monShow_keeps {level : Nat} {rom : Bool} {vals : State → List Nat} {s : State} (h : Keeps z s) :
    Keeps z (monShow level rom vals s) :=
  monCmd_keeps (fun _ h1 => monReply_keeps h1) h

theorem monReadReg_keeps {off : Nat} {s : State} (h : Keeps z s) : MonAcc.keeps z (monReadReg off s) := by
  unfold monReadReg
  split
  · exact h
  split
  · exact setLatch_keeps h
  · exact h

theorem monReadMem_keeps {pa : Nat} {s : State} (h : Keeps z s) : MonAcc.keeps z (monReadMem pa s) := by
  unfold monReadMem
  split
  · exact h
  split
  · exact (paRead_keeps h).ok ‹_›
  · exact (paRead_keeps h).fault ‹_›
  · exact h
  · exact h

theorem monReadOne_keeps {a : MonAddr} {i : Nat} {s : State} (h : Keeps z s) : MonAcc.keeps z (monReadOne a i s) := by
  unfold monReadOne
  split
  · exact monReadReg_keeps h
  · exact monReadMem_keeps h

theorem monReads_keeps {a : MonAddr} {x x1 : Nat} {x2 : List Nat} {s : State} (h : Keeps z s) :
    Keeps z (monReads a x x1 x2 s) := by
  induction x generalizing a x1 x2 s with
  | zero =>
    unfold monReads
    exact monReply_keeps h
  | succ x' ih =>
    unfold monReads
    split
    · exact ih ((monReadOne_keeps h).val ‹_›)
    · exact monReply_keeps ((monReadOne_keeps h).bad ‹_›)

theorem monReadDo_keeps {a : MonAddr} {n : Nat} {s : State} (h : Keeps z s) : Keeps z (monReadDo a n s) := by
  unfold monReadDo
  split
  · exact monReply_keeps h
  · exact monReads_keeps h

theorem monWriteDo_keeps {a : MonAddr} {v : Word} {s : State} (h : Keeps z s) : Keeps z (monWriteDo a v s) := by
  unfold monWriteDo
  split
  · split
    · exact monReply_keeps h
    · exact monReply_keeps (regWrite4_keeps h)
  split
  · exact monReply_keeps h
  split
  · exact monReply_keeps ((paWrite_keeps h).ok ‹_›)
  · exact monReply_keeps ((paWrite_keeps h).fault ‹_›)
  · exact monReply_keeps h
  · exact monReply_keeps h

theorem monPinDo_keeps {id : Nat} {rel : Bool} {s : State} (h : Keeps z s) : Keeps z (monPinDo id rel s) := by
  unfold monPinDo
  split
  · exact monReply_keeps h
  split
  · exact monReply_keeps h
  · exact monReply_keeps (pinCommand_keeps h)

theorem tokenLine_keeps {bs : List Byte} {s : State} (h : Keeps z s) : Keeps z (tokenLine bs s) := by
  unfold tokenLine
  split
  · exact monReply_keeps h
  · exact monReply_keeps (State.onMon_keeps h)

theorem tokenEnd_keeps {s : State} (h : Keeps z s) : Keeps z (tokenEnd s) :=
  monReply_keeps (presentToken_keeps (State.onMon_keeps h))

theorem baudDo_keeps {n : Nat} {s : State} (h : Keeps z s) : Keeps z (baudDo n s) := by
  unfold baudDo
  split
  · exact State.onMon_keeps (monReply_keeps h)
  · exact monReply_keeps h

end Sys2Proof.Machine
end

section
/-! The queue and the canonical form are kept: Machine/Teardown.lean. -/

namespace Sys2Proof.Machine

open Sys2Proof

variable {z : State}

theorem lateTensor_keeps {o : OpRef} {m : Nat} {s : State} (h : Keeps z s) : Keeps z (lateTensor o m s) := by
  unfold lateTensor
  split
  · split
    · split
      · exact endTensor_keeps h
      · exact h
    · exact h
  · exact h

theorem commitDrop_keeps {p : Nat} {c : Commit} {s : State} (h : Keeps z s) : Keeps z (commitDrop p c s) := by
  unfold commitDrop
  dsimp only
  split
  · exact State.onPipe_keeps h
  · exact failReleases_keeps (State.onPipe_keeps h)

theorem lateOpFault_keeps {o : OpRef} {m : Nat} {f : Flt} {va : Nat} {acc : Access} {s : State} (h : Keeps z s) :
    Keeps z (lateOpFault o m f va acc s) := by
  unfold lateOpFault
  split
  · exact h
  split
  · exact h
  split
  · exact lateTensor_keeps (noteFault_keeps h)
  split
  · exact passFault_keeps h
  split
  · exact jobRun_keeps h
  split
  · exact commitFault_keeps (commitDrop_keeps h)
  · exact shdSweep_keeps (dropCopy_keeps (opFault_keeps h))

theorem lateFault_keeps {who : Requester} {m ctx : Nat} {f : Flt} {va : Nat} {acc : Access} {s : State} (h : Keeps z s) :
    Keeps z (lateFault who m ctx f va acc s) := by
  unfold lateFault
  split
  · exact lateOpFault_keeps h
  · split
    · split
      · exact h
      · exact groupFault_keeps h
    · exact h
  · exact layerFault_keeps h
  · exact wbLateFault_keeps h
  · split
    · split
      · exact walkFault_keeps h
      · exact h
    · exact h
  · exact engineFault_keeps h

theorem lateSevered_keeps {who : Requester} {m : Nat} {s : State} (h : Keeps z s) : Keeps z (lateSevered who m s) := by
  unfold lateSevered
  dsimp only
  split
  · split
    · exact h
    split
    · exact lateTensor_keeps (noteFail_keeps h)
    split
    · exact failPass_keeps h
    split
    · exact getD_keeps (jobClose_keeps h) h
    · exact commitFail_keeps h
    · exact shdSweep_keeps (dropCopy_keeps (endOp_keeps h))
  · split
    · split
      · exact entryOver_keeps h
      · exact h
    · exact h
  · exact h

theorem translateLate_keeps {m ctx va : Nat} {acc : Access} {who : Requester} {s : State} (h : Keeps z s) :
    Keeps z (translateLate m ctx va acc who s) := by
  unfold translateLate
  dsimp only
  split
  · exact h
  split
  · exact lateFault_keeps h
  split
  · split
    · exact lateFault_keeps (installU_keeps h)
    · exact installU_keeps h
  · exact promoteWalks_keeps (State.onMmu_keeps h)

theorem walkEnd_keeps {id : Nat} {io : HostIO} {s : State} (h : Keeps z s) : Keeps z (walkEnd id io s) := by
  unfold walkEnd
  dsimp only
  split
  · exact applyIO_keeps h
  split
  · exact promoteWalks_keeps (State.onMmu_keeps (applyIO_keeps h))
  split
  · exact (walkVa_keeps (applyIO_keeps h)).wait ‹_›
  · exact promoteWalks_keeps (State.onMmu_keeps (lateSevered_keeps ((walkVa_keeps (applyIO_keeps h)).severed ‹_›)))
  · exact promoteWalks_keeps (State.onMmu_keeps (lateFault_keeps ((walkVa_keeps (applyIO_keeps h)).fault ‹_›)))
  rename_i heq
  have h1 := (walkVa_keeps (applyIO_keeps h)).ok heq
  refine promoteWalks_keeps ?_
  refine State.onMmu_keeps ?_
  split
  · refine lateFault_keeps ?_
    split
    · exact installD_keeps (installU_keeps h1)
    · exact installU_keeps h1
  split
  · exact installD_keeps (installU_keeps h1)
  · exact installU_keeps h1

theorem ungateMask_keeps {mask : Nat} {s : State} (h : Keeps z s) : Keeps z (ungateMask mask s) := ungate_keeps h

theorem opDispatchDo_keeps {o : OpRef} {io : HostIO} {s : State} (h : Keeps z s) : Keeps z (opDispatchDo o io s) := by
  unfold opDispatchDo
  split
  · exact applyIO_keeps h
  split
  · exact dispatchDo_keeps (ungateMask_keeps h)
  split
  · exact dispatchDo_keeps h
  split
  · exact wantsExit_keeps (applyIO_keeps h)
  · exact applyIO_keeps h

theorem stopOp_keeps {o : OpRef} {s : State} (h : Keeps z s) : Keeps z (stopOp o s) :=
  cmpSweep_keeps (closeOps_keeps (shdSweep_keeps (dropRun_keeps (discardOp_keeps (dropCopy_keeps h)))))

theorem preemptDo_keeps {o : OpRef} {s : State} (h : Keeps z s) : Keeps z (preemptDo o s) := by
  unfold preemptDo
  split
  · exact h
  split
  · exact h
  split
  · exact stopOp_keeps h
  split
  · exact h
  split
  · split
    · exact h
    · exact State.onRun_keeps h
  split
  · split
    · exact h
    · exact passStop_keeps h
  · exact shdStop_keeps h

theorem tearPlans_keeps {n : Nat} {s : State} (h : Keeps z s) : Keeps z (tearPlans n s) := by
  unfold tearPlans
  refine eachDo_keeps h (fun _ _ h1 => ?_)
  split
  · exact planTorn_keeps h1
  · exact h1

theorem tearCommits_keeps {n : Nat} {s : State} (h : Keeps z s) : Keeps z (tearCommits n s) := by
  unfold tearCommits
  refine eachDo_keeps h (fun _ _ h1 => ?_)
  split
  · exact dropPend_keeps h1
  · exact h1

theorem stopInPlaceDo_keeps {n : Nat} {s : State} (h : Keeps z s) : Keeps z (stopInPlaceDo n s) := by
  unfold stopInPlaceDo
  split
  · exact h
  · exact eachDo_keeps (tearPlans_keeps (tearCommits_keeps h)) (fun _ _ h1 => stopOp_keeps h1)

theorem retireCtx_keeps {n : Nat} {s : State} (h : Keeps z s) : Keeps z (retireCtx n s) := by
  unfold retireCtx
  dsimp only
  split
  · exact closeOps_keeps h
  · exact promoteWalks_keeps (errorHooks_keeps (autoRelease_keeps (retireDo_keeps (State.onMmu_keeps (shdRetire_keeps
        (tearPlans_keeps (tearCommits_keeps (closeOps_keeps h))))))))

end Sys2Proof.Machine
end

section
/-! The queue and the canonical form are kept by every command, and so by every step. -/

namespace Sys2Proof.Machine

open Sys2Proof

variable {z : State}

theorem execVectorHoldoffExpiry_keeps {src : VecSource} {t : Nat} {s : State} (h : Keeps z s) :
    keepsOut z (execVectorHoldoffExpiry src t s) := by
  unfold execVectorHoldoffExpiry
  dsimp only
  split
  · split
    · split
      · exact advanceTo_keeps h
      · exact raiseSrc_keeps (advanceTo_keeps h)
    · exact advanceTo_keeps h
  · exact advanceTo_keeps h

theorem execRingParity_keeps {r : RingId} {s : State} (h : Keeps z s) : keepsOut z (execRingParity r s) := by
  unfold execRingParity
  split
  · exact h
  · exact haltRing_keeps h

theorem execRenderPass_keeps {o : OpRef} {io : HostIO} {s : State} (h : Keeps z s) : keepsOut z (execRenderPass o io s) := by
  unfold execRenderPass
  refine withOp_keeps (fun _ _ _ h1 => ?_) (applyIO_keeps h)
  split
  · exact h1
  · exact renderDo_keeps h1

theorem execSpdmGetCapabilities_keeps {s : State} (h : Keeps z s) : keepsOut z (execSpdmGetCapabilities s) := by
  unfold execSpdmGetCapabilities
  refine doe_keeps (fun _ h1 => ?_) h
  split
  · exact reply_keeps (State.onSec_keeps h1)
  · exact reply_keeps h1

theorem execSpdmNegotiateAlgorithms_keeps {offersSet : Bool} {s : State} (h : Keeps z s) :
    keepsOut z (execSpdmNegotiateAlgorithms offersSet s) := by
  unfold execSpdmNegotiateAlgorithms
  refine doe_keeps (fun _ h1 => ?_) h
  split
  · exact reply_keeps h1
  split
  · exact reply_keeps (State.onSec_keeps h1)
  · exact reply_keeps h1

theorem execSpdmVendorDefined_keeps {session : Option Nat} {msg : VendorMsg} {t : Nat} {s : State} (h : Keeps z s) :
    keepsOut z (execSpdmVendorDefined session msg t s) := by
  unfold execSpdmVendorDefined
  refine spdmReady_keeps (fun _ h1 => ?_) (advanceTo_keeps h)
  split
  · exact inSession_keeps (fun _ h2 => vendorDo_keeps h2) h1
  · exact vendorDo_keeps h1

theorem execIdeKm_keeps {session : Nat} {msg : IdeKmMsg} {s : State} (h : Keeps z s) :
    keepsOut z (execIdeKm session msg s) := by
  unfold execIdeKm
  refine spdmReady_keeps (fun _ h1 => ?_) h
  split
  · exact inSession_keeps (fun _ h2 => ideKmDo_keeps h2) h1
  · exact reply_keeps h1

theorem execTdiGetReport_keeps {f : Fn} {s : State} (h : Keeps z s) : keepsOut z (execTdiGetReport f s) := by
  unfold execTdiGetReport
  refine tdisp_keeps (fun _ h1 => ?_) h
  split <;> exact reply_keeps h1

theorem execBrownout_keeps {r : Rail} {s : State} (h : Keeps z s) : keepsOut z (execBrownout r s) := by
  unfold execBrownout
  split
  · exact powerLost_keeps h
  · exact powerLost_keeps h
  split
  · exact dieReset_keeps (sever_keeps h)
  · exact h

theorem execPfFlr_keeps {s : State} (h : Keeps z s) : keepsOut z (execPfFlr s) := by
  unfold execPfFlr
  split
  · exact warmReset_keeps h
  · exact h

theorem execTapBypass_keeps {code : Byte} {s : State} (h : Keeps z s) : keepsOut z (execTapBypass code s) := by
  unfold execTapBypass
  split
  · exact tapLoad_keeps h
  · exact h

theorem execTapVendorInstr_keeps {code : Byte} {s : State} (h : Keeps z s) : keepsOut z (execTapVendorInstr code s) := by
  unfold execTapVendorInstr
  dsimp only
  split
  · exact h
  split
  · exact tapLoad_keeps h
  · exact tapLoad_keeps (State.fresh_keeps h)

theorem execFencePageSignal_keeps {fn : Fn} {n : Fin 1024} {size : Nat} {v : Quad} {s : State} (h : Keeps z s) :
    keepsOut z (execFencePageSignal fn n size v s) := by
  unfold execFencePageSignal
  split
  · exact pageWrite_keeps h
  · exact h

theorem execFencePageError_keeps {fn : Fn} {n : Fin 1024} {size : Nat} {v : Quad} {s : State} (h : Keeps z s) :
    keepsOut z (execFencePageError fn n size v s) := by
  unfold execFencePageError
  split
  · exact pageWrite_keeps h
  · exact h

theorem execSlowRegWrite_keeps {fn : Fn} {off : Nat} {v : Word} {s : State} (h : Keeps z s) :
    keepsOut z (execSlowRegWrite fn off v s) := by
  unfold execSlowRegWrite
  split
  · exact regWrite4_keeps h
  · exact h

theorem execMonDump_keeps {b : BlockId} {s : State} (h : Keeps z s) : keepsOut z (execMonDump b s) := by
  unfold execMonDump
  refine monCmd_keeps (fun _ h1 => ?_) h
  split <;> exact monReply_keeps h1

theorem execMonLineBad_keeps {why : LineFault} {s : State} (h : Keeps z s) : keepsOut z (execMonLineBad why s) := by
  unfold execMonLineBad
  split
  · exact monReply_keeps h
  · exact h

theorem execDrainEnd_keeps {n : CtxId} {s : State} (h : Keeps z s) : keepsOut z (execDrainEnd n s) := by
  unfold execDrainEnd
  split
  · exact h
  · exact drainEndDo_keeps h

/-- Every command keeps the queue and the canonical form. -/
theorem exec_keeps {c : Instr} {s : State} (h : Keeps z s) : keepsOut z (exec c s) := by
  cases c with
  | registerWrite => exact regWrite_keeps h
  | regSetBits => exact aliasWrite_keeps h
  | regClearBits => exact aliasWrite_keeps h
  | regToggleBits => exact aliasWrite_keeps h
  | blkKeyWrite => exact regWrite4_keeps h
  | blkKeyExpiry => exact keyExpiry_keeps (advanceTo_keeps h)
  | counterLoRead => exact latchRead_keeps h
  | slowRegWrite => exact execSlowRegWrite_keeps h
  | cfgParity => exact parityFail_keeps h
  | mmuFnCtxWrite => exact regWrite4_keeps h
  | ctxCreate => exact ctxCommand_keeps (fun _ h1 => createDo_keeps h1) h
  | ctxCreateDone => exact createDone_keeps h
  | ctxDestroy => exact ctxCommand_keeps (fun _ h1 => destroyDo_keeps h1) h
  | ctxAbort => exact ctxCommand_keeps (fun _ h1 => abortDo_keeps h1) h
  | ctxRelease => exact ctxCommand_keeps (fun _ h1 => releaseDo_keeps h1) h
  | ctxReload => exact ctxCommand_keeps (fun _ h1 => reloadDo_keeps h1) h
  | ctxReloadDone => exact reloadDone_keeps h
  | drainEnd => exact execDrainEnd_keeps h
  | stopInPlace => exact stopInPlaceDo_keeps h
  | ctxRetired => exact retireCtx_keeps h
  | placeApply => exact regWrite4_keeps h
  | invalidateGo => exact regWrite4_keeps h
  | invalidateDone => exact State.onMmu_keeps h
  | lateTranslation => exact translateLate_keeps h
  | walkDone => exact walkEnd_keeps h
  | vectorHoldoffExpiry => exact execVectorHoldoffExpiry_keeps h
  | feFnRingWrite => exact regWrite4_keeps h
  | ringEnable => exact ringCommand_keeps (fun _ _ h2 => enableDo_keeps h2) h
  | ringEnableDone => exact enableDone_keeps h
  | ringDisable => exact ringCommand_keeps (fun _ _ h2 => disableDo_keeps h2) h
  | ringDisableDone => exact disableDone_keeps h
  | ringSetPrio => exact ringCommand_keeps (fun _ _ h2 => setPrioDo_keeps h2) h
  | ringParity => exact execRingParity_keeps h
  | nudge => exact nudgeDo_keeps h
  | doorbellPoll => exact pollDo_keeps (advanceTo_keeps h)
  | doorbellReadDone => exact doorbellDo_keeps h
  | ringFetchDone => exact fetchDo_keeps h
  | edgeArrayReadDone => exact edgesDo_keeps h
  | cbFramingReadDone => exact framingDo_keeps h
  | entryStart => exact startDo_keeps h
  | opDispatch => exact opDispatchDo_keeps h
  | opNop => exact withOp_keeps (fun _ _ _ h3 => endOp_keeps h3) h
  | opTimestamp => exact timestampDo_keeps (advanceTo_keeps h)
  | opCopy => exact withOp_keeps (fun _ _ _ h3 => takeChannel_keeps h3) h
  | opCopyDone => exact metaLog_keeps (copyDoneDo_keeps h)
  | opFenceWait => exact fenceWaitDo_keeps h
  | opFenceSignal => exact fenceSignalOpDo_keeps h
  | entryComplete => exact completeDo_keeps (advanceTo_keeps h)
  | opPreempt => exact preemptDo_keeps h
  | fenceSignalApply => exact applyHead_keeps (advanceTo_keeps h)
  | fenceErrorApply => exact applyHead_keeps (advanceTo_keeps h)
  | fenceEventSpacingExpiry => exact spacingExpiry_keeps (advanceTo_keeps h)
  | fenceTimeoutScan => exact timeoutScan_keeps (advanceTo_keeps h)
  | fenFnLocalWrite => exact regWrite4_keeps h
  | fenFnSharedWrite => exact regWrite4_keeps h
  | fenAlloc => exact fenceCommand_keeps h
  | fenFree => exact fenceCommand_keeps h
  | fenRead => exact fenceCommand_keeps h
  | fenSetError => exact fenceCommand_keeps h
  | fenImport => exact fenceCommand_keeps h
  | fenUnimport => exact fenceCommand_keeps h
  | fenEvqBaseWrite => exact regWrite4_keeps h
  | fencePageSignal => exact execFencePageSignal_keeps h
  | fencePageError => exact execFencePageError_keeps h
  | notifyCtrlWrite => exact pageWrite_keeps h
  | notifyFieldWrite => exact pageWrite_keeps h
  | graphBindDir => exact bindDirDo_keeps h
  | graphPublish => exact publishDo_keeps h
  | graphPublishValidated => exact publishedDo_keeps h
  | graphDelete => exact deleteDo_keeps h
  | launchAccept => exact acceptDo_keeps h
  | tensorMma => exact arraysDo_keeps h
  | tensorVec => exact arraysDo_keeps h
  | tensorMove => exact moveDo_keeps h
  | tensorTileDone => exact metaLog_keeps (tileDoneDo_keeps (advanceTo_keeps h))
  | narrowWrite => exact regWrite4_keeps h
  | narrowSwitchDone => exact narrowDoneDo_keeps h
  | spmArbWrite => exact regWrite4_keeps h
  | regionClear => exact regWrite4_keeps h
  | regionClearDone => exact regionClearedDo_keeps h
  | powerGood => exact powerGoodDo_keeps h
  | unitRelease => exact unitReleaseDo_keeps h
  | l2LockWrite => exact regWrite4_keeps h
  | l2Clean => exact l2Go_keeps h
  | l2CleanInv => exact l2Go_keeps h
  | l2LockLoad => exact l2Go_keeps h
  | l2OpDone => exact l2OpDoneDo_keeps h
  | l2LineFill => exact l2LineFillDo_keeps h
  | wcBufferTimeout => exact wcTimeoutDo_keeps (advanceTo_keeps h)
  | rshArm => exact regWrite4_keeps h
  | rshAbort => exact regWrite4_keeps h
  | rshPlanStart => exact planStartDo_keeps h
  | rshEntryDone => exact entryDoneDo_keeps h
  | shdDispatch => exact withOp_keeps (fun _ _ _ h3 => shdStart_keeps h3) (applyIO_keeps h)
  | shdDispatchIndirect => exact withOp_keeps (fun _ _ _ h3 => shdStart_keeps h3) (applyIO_keeps h)
  | workgroupPlace => exact placeDo_keeps h
  | fp32Arith => exact issue_keeps (fun _ _ h2 => writeLanes_keeps h2) h
  | transcendental => exact issue_keeps (fun _ _ h2 => writeLanes_keeps h2) h
  | integerArith => exact issue_keeps (fun _ _ h2 => writeLanes_keeps h2) h
  | floatToInteger => exact issue_keeps (fun _ _ h2 => toIntDo_keeps h2) h
  | srConversion => exact issue_keeps (fun _ _ h2 => srConvDo_keeps h2) h
  | shdBranch => exact issue_keeps (fun _ _ h2 => branchDo_keeps h2) h
  | shdJoin => exact issue_keeps (fun _ _ h2 => joinDo_keeps h2) h
  | shdYield => exact issue_keeps (fun _ _ h2 => yieldDo_keeps h2) h
  | exitLanes => exact issue_keeps (fun _ _ h2 => settleGroup_keeps h2) h
  | stackFillDone => exact fillDo_keeps h
  | shdShuffle => exact issue_keeps (fun _ _ h2 => writeLanes_keeps h2) h
  | shdVote => exact issue_keeps (fun _ _ h2 => writeLanes_keeps h2) h
  | memoryLoad => exact issue_keeps (fun _ _ h2 => loadDo_keeps h2) h
  | memoryStore => exact issue_keeps (fun _ _ h2 => storeDo_keeps h2) h
  | shdAtomic => exact issue_keeps (fun _ _ h2 => atomicDo_keeps h2) h
  | workgroupFence => exact issue_keeps (fun _ _ h2 => setGroup_keeps h2) h
  | deviceFenceRelease => exact issue_keeps (fun _ _ h2 => setGroup_keeps h2) h
  | deviceFenceAcquire => exact issue_keeps (fun _ _ h2 => l1Drop_keeps (setGroup_keeps h2)) h
  | shdBarrier => exact issue_keeps (fun _ _ h2 => barrierDo_keeps h2) h
  | barrierTimeout => exact barrierTimeoutDo_keeps h
  | shdTrap => exact issue_keeps (fun _ _ h2 => parkGroup_keeps h2) h
  | illegalInstr => exact issue_keeps (fun _ _ h2 => parkGroup_keeps h2) h
  | parkQueueRetry => exact parkRetryDo_keeps h
  | feParkqBaseWrite => exact regWrite4_keeps h
  | parkReplay => exact parkCommand_keeps h
  | parkKill => exact parkCommand_keeps h
  | shdWatchdog => exact watchdogDo_keeps (advanceTo_keeps h)
  | renderPass => exact execRenderPass_keeps h
  | batchDeal => exact dealDo_keeps h
  | batchBinned => exact binnedDo_keeps h
  | growPoll => exact growPollDo_keeps (advanceTo_keeps h)
  | partialRenderDone => exact partialDoneDo_keeps h
  | shadingStart => exact shadingDo_keeps h
  | tileAssign => exact metaLog_keeps (assignDo_keeps h)
  | tileShaded => exact metaLog_keeps (shadedDo_keeps h)
  | tileStored => exact metaLog_keeps (storedDo_keeps (advanceTo_keeps h))
  | fbcClear => exact withOp_keeps (fun _ _ _ h3 => fbcClearDo_keeps h3) h
  | fbcClearDone => exact metaLog_keeps (fbcDoneDo_keeps h)
  | dspCtlWrite => exact regWrite4_keeps h
  | displayCommit => exact commitDo_keeps h
  | commitTablesLoaded => exact tablesLoaded_keeps h
  | frameBoundary => exact boundaryDo_keeps (advanceTo_keeps h)
  | pixelPllLockDone => exact pllLocked_keeps h
  | linkTrainingDone => exact trainingDone_keeps (advanceTo_keeps h)
  | lineCompose => exact metaLog_keeps (lineDo_keeps h)
  | lineSignal => exact signalDo_keeps h
  | samplePose => exact sampleDo_keeps h
  | poseReadDone => exact poseDo_keeps h
  | warpBand => exact warpBandDo_keeps h
  | warpBandDone => exact bandDone_keeps h
  | writebackDone => exact wbDone_keeps h
  | dspCntClr => exact regWrite4_keeps h
  | hpdChange => exact State.onDsp_keeps h
  | auxGo => exact regWrite4_keeps h
  | auxReply => exact auxReplyDo_keeps h
  | auxTimeout => exact auxTimeoutDo_keeps h
  | cmpJob => exact withOp_keeps (fun _ _ _ h3 => jobDo_keeps h3) h
  | cmpJobStart => exact jobStart_keeps h
  | cmpJobDone => exact metaLog_keeps (jobDone_keeps h)
  | secPin => exact regWrite4_keeps (advanceTo_keeps h)
  | secRelease => exact regWrite4_keeps h
  | secReleaseDone => exact releaseDone_keeps h
  | lcSecured => exact regWrite4_keeps h
  | lcRma => exact regWrite4_keeps h
  | secCfgWrite => exact regWrite4_keeps h
  | entropyFail => exact entropyFail_keeps h
  | spdmGetVersion => exact doe_keeps (fun _ h1 => reply_keeps (State.onSec_keeps h1)) h
  | spdmGetCapabilities => exact execSpdmGetCapabilities_keeps h
  | spdmNegotiateAlgorithms => exact execSpdmNegotiateAlgorithms_keeps h
  | spdmGetDigests => exact spdmReady_keeps (fun _ h1 => reply_keeps h1) h
  | spdmGetCertificate => exact spdmReady_keeps (fun _ h1 => certificateDo_keeps h1) h
  | spdmChallenge => exact spdmReady_keeps (fun _ h1 => challengeDo_keeps h1) h
  | spdmGetMeasurements => exact spdmReady_keeps (fun _ h1 => measureDo_keeps h1) h
  | spdmKeyExchange => exact spdmReady_keeps (fun _ h1 => keyExchangeDo_keeps h1) h
  | spdmFinish => exact spdmReady_keeps (fun _ h1 => finishDo_keeps h1) h
  | spdmHeartbeat => exact spdmReady_keeps (fun _ h1 => inSession_keeps (fun _ h3 => reply_keeps h3) h1) h
  | spdmKeyUpdate =>
    exact spdmReady_keeps (fun _ h1 => inSession_keeps (fun _ h3 => reply_keeps (State.onSec_keeps h3)) h1) h
  | spdmEndSession =>
    exact spdmReady_keeps (fun _ h1 => inSession_keeps (fun _ h3 => reply_keeps (dropSession_keeps h3)) h1) h
  | spdmVendorDefined => exact execSpdmVendorDefined_keeps h
  | spdmUnsupported => exact doe_keeps (fun _ h1 => reply_keeps h1) h
  | ideKm => exact execIdeKm_keeps h
  | ideIntegrityFail => exact ideFail_keeps h
  | tdiLock => exact tdisp_keeps (fun _ h1 => tdiLockDo_keeps h1) h
  | tdiStart => exact tdisp_keeps (fun _ h1 => tdiStartDo_keeps h1) h
  | tdiStop => exact tdisp_keeps (fun _ h1 => tdiStopDo_keeps h1) h
  | tdiGetReport => exact execTdiGetReport_keeps h
  | tdiGetState => exact tdisp_keeps (fun _ h1 => reply_keeps h1) h
  | tdispGetVersion => exact tdisp_keeps (fun _ h1 => reply_keeps h1) h
  | vfFlr => exact flrDo_keeps h
  | debugTokenExpiry => exact tokenExpiry_keeps (advanceTo_keeps h)
  | policyApply => exact regWrite4_keeps h
  | policyApplyDone => exact policyDone_keeps h
  | powerMeasure => exact measureNow_keeps (advanceTo_keeps h)
  | avsFrameDone => exact frameDone_keeps h
  | avsConfirmRead => exact confirmRead_keeps h
  | avsTimeout => exact avsTimeout_keeps h
  | pllFrequencyMoveDone => exact freqMoved_keeps h
  | statsWrite => exact statsNow_keeps (advanceTo_keeps h)
  | sleepS3 => exact regWrite4_keeps h
  | sleepS4 => exact regWrite4_keeps h
  | sleepEntryDone => exact entryDone_keeps h
  | sleepExitDone => exact exitFinish_keeps (advanceTo_keeps h)
  | idleClockGate => exact clockGate_keeps h
  | idlePowerGate => exact powerGate_keeps h
  | wakePinEvent => exact wakePin_keeps h
  | linkWakeEvent => exact linkWake_keeps h
  | clockMonitorWindow => exact monitorWindow_keeps h
  | oscTrimWindow => exact trimWindow_keeps h
  | pllLockDone => exact pllLock_keeps h
  | clkGateWrite => exact regWrite4_keeps h
  | errRetire => exact regWrite4_keeps h
  | resetCore => exact resetGo_keeps h
  | resetTensorArray => exact resetGo_keeps h
  | resetTensorDmaChannel => exact resetGo_keeps h
  | resetCluster => exact resetGo_keeps h
  | resetComputeDie => exact resetGo_keeps h
  | resetDisplayPipe => exact resetGo_keeps h
  | resetCompressionChannel => exact resetGo_keeps h
  | resetReshardEngine => exact resetGo_keeps h
  | resetDieToDieLink => exact resetGo_keeps h
  | resetDone => exact resetDone_keeps h
  | crossingReopen => exact reopen_keeps h
  | flitReplay => exact flitReplay_keeps h
  | linkReplayLimit => exact replayLimit_keeps h
  | dieCheckDone => exact dieCheck_keeps h
  | timeSyncPulse => exact timeSync_keeps (advanceTo_keeps h)
  | pwrokRise => exact pwrokRise_keeps h
  | pwrokFall => exact powerLost_keeps h
  | brownout => exact execBrownout_keeps h
  | xtalStable => exact xtalStable_keeps h
  | romSelftestDone => exact romDone_keeps h
  | perstDeassert => exact State.onBoot_keeps h
  | perstAssert => exact perstFall_keeps h
  | pcieLinkTrained => exact linkTrained_keeps h
  | pfFlr => exact execPfFlr_keeps h
  | imgLoad => exact regWrite4_keeps h
  | imageVerifyDone => exact verifyDone_keeps h
  | fwReady => exact fwReady_keeps h
  | tapReset => exact tapLoad_keeps h
  | tapIdcode => exact tapLoad_keeps h
  | tapSamplePreload => exact tapLoad_keeps (State.onTap_keeps (State.fresh_keeps h))
  | tapExtest => exact extestDo_keeps h
  | tapBypass => exact execTapBypass_keeps h
  | tapVendorInstr => exact execTapVendorInstr_keeps h
  | monVer => exact monShow_keeps h
  | monLc => exact monShow_keeps h
  | monSts => exact monShow_keeps h
  | monNonce => exact monCmd_keeps (fun _ h1 => monReply_keeps (issueNonce_keeps h1)) h
  | monToken => exact monCmd_keeps (fun _ h1 => tokenLine_keeps h1) h
  | monTokenEnd => exact monCmd_keeps (fun _ h1 => tokenEnd_keeps h1) (advanceTo_keeps h)
  | monBaud => exact monCmd_keeps (fun _ h1 => baudDo_keeps h1) h
  | monDump => exact execMonDump_keeps h
  | monErrlog => exact monShow_keeps h
  | monClk => exact monShow_keeps h
  | monPwr => exact monShow_keeps h
  | monRd => exact monCmd_keeps (fun _ h1 => monReadDo_keeps h1) h
  | monWr => exact monCmd_keeps (fun _ h1 => monWriteDo_keeps h1) h
  | monPin => exact monCmd_keeps (fun _ h1 => monPinDo_keeps h1) h
  | monRelease => exact monCmd_keeps (fun _ h1 => monPinDo_keeps h1) h
  | monFuse => exact monShow_keeps h
  | monLineBad => exact execMonLineBad_keeps h
  | memoryResponse => exact metaLog_keeps (responseDo_keeps h)
  | keyReserveRefill => exact reserveRefill_keeps h
  | doeDiscovery => exact doe_keeps (fun _ h1 => reply_keeps h1) h

/-- A step takes the front command, and time passes where none waits; either way the canonical form is kept. -/
theorem step_keeps {s t : State} (ht : step s = .next t) : Keeps { s with pending := s.pending.tail } t := by
  unfold step at ht
  split at ht
  · rename_i hp
    injection ht with ht
    subst ht
    have hs : ({ s with pending := s.pending.tail } : State) = s := by rw [hp]; cases s; simp_all
    rw [hs]
    exact tick_keeps (Keeps.refl s)
  · rename_i c rest hp
    have hk := exec_keeps (c := c) (Keeps.refl { s with pending := rest })
    rw [ht] at hk
    rw [hp]
    exact hk

/-- Settles O5: a step is a command or a nanosecond that passes, and each of them keeps the form. -/
theorem everyStepKeepsTheForm : Obligations.EveryStepKeepsTheForm := by
  unfold Obligations.EveryStepKeepsTheForm
  intro s t hmem hreg hstep
  have hk := step_keeps hstep
  exact ⟨hk.mem hmem, hk.reg hreg⟩

/-- A command goes on, in a state with the queue of the state that it met. -/
theorem exec_next (c : Instr) (s : State) : ∃ t, exec c s = .next t ∧ t.pending = s.pending := by
  have hk := exec_keeps (c := c) (Keeps.refl s)
  cases he : exec c s with
  | next t =>
    rw [he] at hk
    exact ⟨t, rfl, hk.pending⟩
  | fault _ => rw [he] at hk; exact hk.elim
  | refused _ => rw [he] at hk; exact hk.elim

/-- Settles O3: no command touches the queue, from which the step has taken the front. -/
theorem theQueueIsFirstInFirstOut : Obligations.TheQueueIsFirstInFirstOut := by
  unfold Obligations.TheQueueIsFirstInFirstOut
  refine ⟨fun c s t h => ?_, fun s t h => (step_keeps h).pending⟩
  obtain ⟨u, hu, hp⟩ := exec_next c s
  rw [hu] at h
  injection h with h
  rw [← h]
  exact hp

/-- Settles O1: by the definition of a step. -/
theorem stepRunsTheFront : Obligations.StepRunsTheFront := by
  unfold Obligations.StepRunsTheFront
  intro c rest s hp
  rw [step, hp]

/-- Settles O2: `exec_next` for a command in front, the passing of time where none is. -/
theorem everyCommandGoesOn : Obligations.EveryCommandGoesOn := by
  unfold Obligations.EveryCommandGoesOn
  refine ⟨fun c s => (exec_next c s).imp fun _ h => h.1, fun s => ?_⟩
  cases hp : s.pending with
  | nil => exact ⟨tick s, by rw [step, hp]⟩
  | cons c rest =>
    rw [stepRunsTheFront c rest s hp]
    exact (exec_next c _).imp fun _ h => h.1

/-- Settles O4: the state at reset lists no context, ring, fence, register or byte, so that every get answers its
default. -/
theorem resetIsEmptyAndInForm : Obligations.ResetIsEmptyAndInForm := by
  unfold Obligations.ResetIsEmptyAndInForm
  refine ⟨⟨rfl, rfl⟩, List.Pairwise.nil, rfl, fun n => ?_, fun _ => rfl, rfl, fun _ => rfl, fun _ _ => rfl, fun _ =>
      rfl, rfl, rfl,
    fun _ => rfl, fun _ => rfl⟩
  show (ctxDefault n).state = _
  unfold ctxDefault
  split <;> rfl

end Sys2Proof.Machine
end

section
/-! Where the registers of BAR0 lie, and how a write through a window of a block lands (R436 to R440). -/

namespace Sys2Proof.Machine

open Sys2Proof

/-! ## Blocks and their offsets -/

theorem blockBase_mod (b : BlockId) : blockBase b % 0x10000 = 0 := by
  cases b with
  | tns c | spm c | shd c | dsp c | l2 c | rsh c => revert c; decide
  | _ => decide

/-- Each block is found by its 64 KiB of BAR0. -/
theorem find_blockBase (b : BlockId) :
    allBlocks.find? (fun b' => decide (blockBase b' / 0x10000 = blockBase b / 0x10000)) = some b := by
  cases b with
  | tns c | spm c | shd c | dsp c | l2 c | rsh c => revert c; decide
  | _ => decide

theorem blockAt_base (b : BlockId) {rel : Nat} (h : rel < 0x10000) : blockAt (blockBase b + rel) = some (b, rel) := by
  have hin : ∀ b', (decide (blockBase b' ≤ blockBase b + rel) && decide (blockBase b + rel < blockBase b' + 0x10000)) =
      decide (blockBase b' / 0x10000 = blockBase b / 0x10000) := by
    intro b'
    have := blockBase_mod b
    have := blockBase_mod b'
    rw [Bool.eq_iff_iff, Bool.and_eq_true, decide_eq_true_eq, decide_eq_true_eq, decide_eq_true_eq]
    omega
  simp only [blockAt, hin, find_blockBase, Nat.add_sub_cancel_left]

theorem blockAt_eq_base {off rel : Nat} {b : BlockId} (h : blockAt off = some (b, rel)) : off = blockBase b + rel := by
  obtain ⟨hle, -, hsub⟩ := blockAt_some h
  omega

/-! ## Windows -/

/-- Where a window of a block begins (R440). -/
def Window.delta : Window → Nat
  | .primary => 0 | .setBits => 0x1000 | .clearBits => 0x2000 | .toggleBits => 0x3000

theorem windowOf_delta (win : Window) {prim : Nat} (h : prim < 0x1000) : windowOf (prim + win.delta) = some (win, prim) := by
  cases win
  case primary => exact windowOf_prim h
  case setBits =>
    change windowOf (prim + 0x1000) = _
    rw [windowOf, if_neg (by omega), if_pos (by omega), Nat.add_sub_cancel]
  case clearBits =>
    change windowOf (prim + 0x2000) = _
    rw [windowOf, if_neg (by omega), if_neg (by omega), if_pos (by omega), Nat.add_sub_cancel]
  case toggleBits =>
    change windowOf (prim + 0x3000) = _
    rw [windowOf, if_neg (by omega), if_neg (by omega), if_neg (by omega), if_pos (by omega), Nat.add_sub_cancel]

/-- A write of a register at a window of its block, in a state where it lands at once: one that changes a guarded
field needs the unlock and consumes it. -/
theorem regWrite4_win {s : State} {fn : Fn} {b : BlockId} {prim i : Nat} {d : RegDef} (win : Window) (val : Word)
    (hq : quiet s fn.val) (hd : regAt b prim = some (d, i)) (hp : prim < 0xFF0) (hh : b ≠ .hst)
    (hv : fn.val = 0 ∨ (d.vf = true ∧ blockBase b + 0x4000 ≤ 2 ^ 20)) (hon : blockOff s b = false) :
    regWrite4 fn.val (blockBase b + prim + win.delta) val s =
      (let w := winWrite fn win (blockBase b + prim) d val s
       if (w.new &&& d.rwk) ≠ (w.old &&& d.rwk) then
         if unlocked s b fn.val then regEffect b prim w (setUnlock b fn.val 0 s) else setDenied b fn.val 1 s
       else regEffect b prim w s) := by
  have ⟨_, _, hm⟩ := hq
  have hdelta : win.delta ≤ 0x3000 := by cases win <;> decide
  have hwhole : win.delta % 0x1000 = 0 := by cases win <;> rfl
  have hat : blockAt (blockBase b + prim + win.delta) = some (b, prim + win.delta) := by
    rw [Nat.add_assoc]; exact blockAt_base b (by omega)
  rw [regWrite4_quiet val hq hat (hv.imp id fun h => by omega)]
  exact landWrite_win val hm (windowOf_delta win (by omega)) (by omega) hh hat hd (hv.imp id And.left) hon

/-- A write of a register without guarded fields goes to its block. -/
theorem regWrite4_win_open {s : State} {fn : Fn} {b : BlockId} {prim i : Nat} {d : RegDef} (win : Window) (val : Word)
    (hq : quiet s fn.val) (hd : regAt b prim = some (d, i)) (hp : prim < 0xFF0) (hh : b ≠ .hst)
    (hv : fn.val = 0 ∨ (d.vf = true ∧ blockBase b + 0x4000 ≤ 2 ^ 20)) (hon : blockOff s b = false) (hk : d.rwk = 0) :
    regWrite4 fn.val (blockBase b + prim + win.delta) val s =
      regEffect b prim (winWrite fn win (blockBase b + prim) d val s) s := by
  rw [regWrite4_win win val hq hd hp hh hv hon]
  simp [hk]

/-- A virtual function's write of a block that it has no register of does nothing. -/
theorem regWrite4_virtual {s : State} {fn : Fn} {b : BlockId} {off rel : Nat} (val : Word) (hq : quiet s fn.val)
    (h0 : fn.val ≠ 0) (hb : blockAt off = some (b, rel)) (hn : ∀ d ∈ blockRegs b, d.vf = false) (hh : b ≠ .hst) :
    regWrite4 fn.val off val s = s := by
  by_cases ho : off < 2 ^ 20
  · rw [regWrite4_quiet val hq hb (.inr ho), landWrite_none val s h0 hb hn hh]
  · have hc : regCore fn.val off val s = s := by
      rw [regCore, hb]
      simp only [fn_ne_monitor, if_false]
      rw [agentFn_fn, if_pos ⟨h0, by omega⟩]
    simp [regWrite4, hc]

end Sys2Proof.Machine
end

section
/-! Writes of registers that only store, and of their aliases (R437, R439, R440). -/

namespace Sys2Proof.Machine

open Sys2Proof

/-- A register of MMU, FE or FEN below every register that acts. -/
def storesOnly : BlockId → Nat → Bool
  | .mmu, rel => decide (rel < 0x100) && decide (rel ≠ 0x10) && decide (rel ≠ 0x28)
  | .fe, rel => (decide (rel < 0x40) && decide (rel ≠ 0x18)) || decide (rel = 0x308) || decide (rel = 0x310)
  | .fen, rel => decide (rel < 0x100) && decide (rel ≠ 0x18) && decide (rel ≠ 0x20) && decide (rel ≠ 0x24)
  | _, _ => false

theorem regEffect_storesOnly {b : BlockId} {rel : Nat} (h : storesOnly b rel = true) (w : RegWr) (s : State) :
    regEffect b rel w s = storeWr w 0 s := by
  cases b <;> simp only [storesOnly, Bool.and_eq_true, Bool.or_eq_true, decide_eq_true_eq, Bool.false_eq_true] at h
  case mmu =>
    obtain ⟨⟨hlt, hcmd⟩, hinv⟩ := h
    rw [regEffect, mmuEffect, if_neg hcmd, if_neg hinv, if_neg (by omega), if_neg (by omega), if_neg (by omega)]
  case fe =>
    rw [regEffect, feEffect, if_neg (by omega), if_neg (by omega), if_neg (by omega), if_neg (by omega), if_neg (by omega),
      if_neg (by omega)]
  case fen =>
    rw [regEffect, fenEffect, if_neg (by omega), if_neg (by omega), if_neg (by omega)]

/-- What the register map says of the storing registers: every function has them, and none has a guarded, W1C or
command bit. -/
def storingRow (off : Nat) : Bool :=
  match blockAt off with
  | some (b, rel) => match regAt b rel with
    | some (d, _) => d.vf && decide (d.rwk = 0) && decide (d.w1c = 0) && decide (d.cmd = 0) && storesOnly b rel &&
        decide (rel < 0xFF0) && decide (blockBase b + 0x4000 ≤ 2 ^ 20) && decide (off % 4 = 0)
    | none => false
  | none => false

theorem storingRow_of_mem : ∀ off ∈ storingRegs, storingRow off = true := by decide

theorem blockOff_storesOnly {b : BlockId} {rel : Nat} (h : storesOnly b rel = true) (s : State) : blockOff s b = false := by
  cases b <;> simp_all [storesOnly, blockOff]

theorem storesOnly_ne_hst {b : BlockId} {rel : Nat} (h : storesOnly b rel = true) : b ≠ .hst := by
  rintro rfl; simp [storesOnly] at h

/-- A write of a storing register at one of its windows leaves what the window makes of the writable fields. -/
theorem regWrite4_storing {fn : Fn} {off rel i : Nat} {s : State} {b : BlockId} {d : RegDef} (win : Window) (val : Word)
    (hq : quiet s fn.val) (hmem : off ∈ storingRegs) (hb : blockAt off = some (b, rel)) (hd : regAt b rel = some (d, i)) :
    regWrite4 fn.val (off + win.delta) val s = s.setRaw fn.val off (newValue d win (s.raw fn.val off) val) := by
  have hrow := storingRow_of_mem off hmem
  simp only [storingRow, hb, hd, Bool.and_eq_true, decide_eq_true_eq] at hrow
  obtain ⟨⟨⟨⟨⟨⟨⟨hvf, hrwk⟩, hw1c⟩, -⟩, hst⟩, hrel⟩, hlow⟩, -⟩ := hrow
  have hoff := blockAt_eq_base hb
  subst hoff
  rw [regWrite4_win_open win val hq hd hrel (storesOnly_ne_hst hst) (.inr ⟨hvf, hlow⟩) (blockOff_storesOnly hst s) hrwk,
    regEffect_storesOnly hst]
  have hnone (x : Word) : x &&& ~~~(0 : Word) &&& ~~~(if win = .primary then val &&& d.w1c else 0) = x := by
    rw [hw1c]; split <;> simp [and_full]
  simp only [storeWr, winWrite, hnone, agentFn_fn]

theorem aligned_of_storing {off : Nat} (hmem : off ∈ storingRegs) : off % 4 = 0 := by
  have h : ∀ off ∈ storingRegs, off % 4 = 0 := by decide
  exact h off hmem

/-- An aligned 4-byte write of a register through another window of its block. -/
theorem aliasWrite_four {fn off rel : Nat} {b : BlockId} (win : Window) (v : Quad) (s : State)
    (hb : blockAt off = some (b, rel)) (hrel : rel < 0x1000) (hoff : off % 4 = 0) :
    aliasWrite win.delta fn off 4 v s = regWrite4 fn (off + win.delta) (v.setWidth 32) s := by
  have hwhole : win.delta % 4 = 0 := by cases win <;> rfl
  rw [aliasWrite, hb]
  simp only [hrel, if_true]
  rw [regWrite, if_pos ⟨rfl, by omega⟩]

/-- The registers stored by the 4-byte writes of `Obligations.RegisterWriteStoresFields`. -/
theorem exec_storing {fn : Fn} {off rel i : Nat} {s : State} {b : BlockId} {d : RegDef} (v : Quad)
    (hq : quiet s fn.val) (hmem : off ∈ storingRegs) (hb : blockAt off = some (b, rel)) (hd : regAt b rel = some (d, i)) :
    exec (.registerWrite fn off 4 v) s = .next (s.setRaw fn.val off (newValue d .primary (s.raw fn.val off) (v.setWidth 32))) ∧
    exec (.regSetBits fn off 4 v) s = .next (s.setRaw fn.val off (newValue d .setBits (s.raw fn.val off) (v.setWidth 32))) ∧
    exec (.regClearBits fn off 4 v) s = .next (s.setRaw fn.val off (newValue d .clearBits (s.raw fn.val off) (v.setWidth 32))) ∧
    exec (.regToggleBits fn off 4 v) s = .next (s.setRaw fn.val off (newValue d .toggleBits (s.raw fn.val off) (v.setWidth 32))) := by
  have hoff := aligned_of_storing hmem
  have hrel : rel < 0x1000 := by
    have hrow := storingRow_of_mem off hmem
    simp only [storingRow, hb, hd, Bool.and_eq_true, decide_eq_true_eq] at hrow
    obtain ⟨⟨⟨-, hrel⟩, -⟩, -⟩ := hrow
    omega
  have hwin (win : Window) := regWrite4_storing win (v.setWidth 32) hq hmem hb hd
  refine ⟨congrArg Host.Outcome.next ?_, congrArg Host.Outcome.next ?_, congrArg Host.Outcome.next ?_,
    congrArg Host.Outcome.next ?_⟩
  · rw [regWrite, if_pos ⟨rfl, hoff⟩]; exact hwin .primary
  · exact (aliasWrite_four .setBits v s hb hrel hoff).trans (hwin .setBits)
  · exact (aliasWrite_four .clearBits v s hb hrel hoff).trans (hwin .clearBits)
  · exact (aliasWrite_four .toggleBits v s hb hrel hoff).trans (hwin .toggleBits)

/-- An 8-byte write is two 4-byte writes, the lower address first. -/
theorem regWrite_eight {fn off : Nat} (v : Quad) (s : State) (h : off % 8 = 0) :
    regWrite fn off 8 v s = regWrite fn (off + 4) 4 (v >>> 32) (regWrite fn off 4 v s) := by
  rw [regWrite, if_neg (by omega), if_pos ⟨rfl, h⟩, regWrite, if_pos ⟨rfl, by omega⟩, regWrite, if_pos ⟨rfl, by omega⟩]

/-- Settles O6: a storing register has no guarded, W1C or command bit, so that its write comes to `storeWr`. -/
theorem registerWriteStoresFields : Obligations.RegisterWriteStoresFields := by
  unfold Obligations.RegisterWriteStoresFields
  refine ⟨fun fn off v s b rel i d hq hmem hb hd => ?_, fun fn off v s t h hfirst => ?_, fun fn off size v s h => ?_⟩
  · have hrow := storingRow_of_mem off hmem
    simp only [storingRow, hb, hd, Bool.and_eq_true, decide_eq_true_eq] at hrow
    obtain ⟨⟨⟨⟨⟨⟨⟨-, hrwk⟩, -⟩, hcmd⟩, -⟩, -⟩, -⟩, -⟩ := hrow
    have h := exec_storing v hq hmem hb hd
    simp only [newValue, hrwk, hcmd, show d.rw ||| (0 : Word) = d.rw from BitVec.or_zero] at h
    exact h
  · have ht : regWrite fn.val off 4 v s = t := Host.Outcome.next.inj hfirst
    have h8 := regWrite_eight (fn := fn.val) v s h
    rw [ht] at h8
    exact congrArg Host.Outcome.next h8
  · refine congrArg Host.Outcome.next ?_
    rw [regWrite, if_neg (by rintro ⟨rfl, _⟩; omega), if_neg (by rintro ⟨rfl, _⟩; omega)]

end Sys2Proof.Machine
end

section
/-! BLK_KEY (R442), latched counters and held writes (R437, R444), and parity mismatches (R445, R447). -/

namespace Sys2Proof.Machine

open Sys2Proof

/-! ## BLK_KEY -/

/-- A write of BLK_KEY that lands at once. A virtual function has none. -/
theorem regWrite4_blkKey {fn : Fn} {s : State} (b : BlockId) (v : Word) (hq : quiet s fn.val) :
    regWrite4 fn.val (blockBase b + 0xFF0) v s = blkKeyDo b fn.val v s := by
  have hat : blockAt (blockBase b + 0xFF0) = some (b, 0xFF0) := blockAt_base b (by decide)
  by_cases hv : fn.val = 0 ∨ blockBase b + 0xFF0 < 2 ^ 20
  · rw [regWrite4_quiet v hq hat hv, landWrite, if_neg (by omega), if_pos rfl]
  · have hc : regCore fn.val (blockBase b + 0xFF0) v s = s := by
      rw [regCore, hat]
      simp only [fn_ne_monitor, if_false]
      rw [agentFn_fn, if_pos (by omega)]
    have hk : blkKeyDo b fn.val v s = s := by rw [blkKeyDo, agentFn_fn, if_pos (.inl (by omega))]
    simp [regWrite4, hc, hk]

theorem blkKeyDo_on {fn : Fn} {s : State} {b : BlockId} (v : Word) (hon : blockOff s b = false) :
    blkKeyDo b fn.val v s =
      if fn.val ≠ 0 then s
      else if v = 0x5EAF0B17 then setDenied b 0 0 (setUnlock b 0 (s.time + 1) s)
      else setUnlock b 0 0 s := by
  rw [blkKeyDo, agentFn_fn]
  by_cases h0 : fn.val = 0
  · simp [h0, hon, blkKey]
  · simp [h0]

theorem regAt_hst (rel : Nat) : regAt .hst rel = none := rfl

/-- A write of the physical function that changes a guarded field without an unlock sets DENIED and does no more. -/
theorem regWrite4_denied {s : State} {b : BlockId} {off rel i : Nat} {d : RegDef} (val : Word) (hq : quiet s 0)
    (hb : blockAt off = some (b, rel)) (hd : regAt b rel = some (d, i)) (hrel : rel < 0x1000) (hk : rel ≠ 0xFF0)
    (hon : blockOff s b = false) (hlock : unlocked s b 0 = false)
    (hc : (newValue d .primary (s.raw 0 off) val &&& d.rwk) ≠ (s.raw 0 off &&& d.rwk)) :
    regWrite4 0 off val s = setDenied b 0 1 s := by
  have ⟨_, _, hm⟩ := hq
  have hh : b ≠ .hst := by rintro rfl; rw [regAt_hst] at hd; cases hd
  have hland := regWrite4_quiet (fn := 0) val hq hb (.inl rfl)
  have hwin := landWrite_win (fn := 0) val hm (windowOf_prim hrel) hk hh hb hd (.inl rfl) hon
  rw [← blockAt_eq_base hb] at hwin
  refine hland.trans (hwin.trans ?_)
  exact (if_pos hc).trans (if_neg (by rw [show ((0 : Fn).val) = 0 from rfl, hlock]; decide))

/-- Settles O7: `regWrite4_blkKey` brings a key to `blkKeyDo`, `regWrite4_denied` a guarded write to DENIED. -/
theorem blkKeyGuardsItsBlock : Obligations.BlkKeyGuardsItsBlock := by
  unfold Obligations.BlkKeyGuardsItsBlock
  refine ⟨fun fn b v s hq hon => ?_, fun off v s b rel i d hq hb hd hrel hk hal hon hlock hc => ?_, fun fn b t s => ?_⟩
  · exact congrArg Host.Outcome.next ((regWrite4_blkKey b v hq).trans (blkKeyDo_on v hon))
  · refine congrArg Host.Outcome.next ?_
    rw [regWrite, if_pos ⟨rfl, hal⟩]
    exact regWrite4_denied _ hq hb hd hrel hk hon hlock hc
  · refine congrArg Host.Outcome.next ?_
    unfold keyExpiry
    dsimp only
    by_cases h : tblGet 0 (advanceTo t s).reg.unlock (guardKey b fn.val) = 0
    · simp [h]
    · refine if_congr (and_congr_right fun _ => ?_) rfl rfl
      omega

/-! ## Counters -/

theorem latchRead_own {fn : Nat} {r : CounterReg} {s : State} (ho : barOpen s fn = true) :
    latchRead fn r s = if fn ≠ 0 ∧ r ≠ .topTime then s else setLatch r s := by
  have ha := barOpen_arrives ho
  rw [latchRead]
  by_cases hr : r = .topTime <;> simp [hr, ho, ha]

/-! ## Slow registers -/

/-- The rows of PWR_WAKE_CFG and PWR_WAKE_STS. -/
def wakeCfgRow : RegDef := regRow 0x0020 1 0x77777777 0x0 0x0 0x0 0x0 false false
def wakeStsRow : RegDef := regRow 0x0024 1 0x0 0x0 0x1FF 0x0 0x0 false false

theorem regAt_wakeCfg : regAt .pwr 0x20 = some (wakeCfgRow, 0) := by decide
theorem regAt_wakeSts : regAt .pwr 0x24 = some (wakeStsRow, 0) := by decide
theorem pwrRegs_vf : ∀ d ∈ blockRegs .pwr, d.vf = false := by decide

/-- A write of a slow register at a window is held. -/
theorem regWrite4_wakeCfg {s : State} (win : Window) (v : Word) (hq : quiet s 0) :
    regWrite4 0 (0x030020 + win.delta) v s =
      slowWrite (winWrite 0 win 0x030020 wakeCfgRow v s) s := by
  have h := regWrite4_win_open (fn := 0) (b := .pwr) win v hq regAt_wakeCfg (by decide) (by decide) (.inl rfl) rfl rfl
  rw [show blockBase .pwr + 0x20 = 0x030020 from rfl] at h
  refine h.trans ?_
  rw [regEffect, pwrEffect, if_neg (by decide), if_neg (by decide), if_pos (by decide)]

theorem regWrite4_wakeSts {s : State} (win : Window) (v : Word) (hq : quiet s 0) :
    regWrite4 0 (0x030024 + win.delta) v s =
      slowWrite (winWrite 0 win 0x030024 wakeStsRow v s) s := by
  have h := regWrite4_win_open (fn := 0) (b := .pwr) win v hq regAt_wakeSts (by decide) (by decide) (.inl rfl) rfl rfl
  rw [show blockBase .pwr + 0x24 = 0x030024 from rfl] at h
  refine h.trans ?_
  rw [regEffect, pwrEffect, if_neg (by decide), if_neg (by decide), if_pos (by decide)]

/-- The state that holds a value for PWR_WAKE_CFG. -/
def holdCfg (x : Word) (s : State) : State :=
  { s with reg := { s.reg with slowHeld := tblSet 0 s.reg.slowHeld 0x030020 (x.toNat + 1) } }

/-- The state that holds 1s for PWR_WAKE_STS. -/
def holdOnes (x : Word) (s : State) : State :=
  { s with reg := { s.reg with slowHeld := tblSet 0 s.reg.slowHeld 0x030024 ((w32 (tblGet 0 s.reg.slowHeld 0x030024 - 1) ||| x).toNat + 1) } }

theorem slowWrite_held {w : RegWr} {s : State} (h : w.off = 0x030020) : slowWrite w s = holdCfg w.new s := by
  rw [slowWrite, if_pos (show w.off = offWakeCfg from h), h]; rfl

theorem slowWrite_ones {w : RegWr} {s : State} (h : w.off = 0x030024) :
    slowWrite w s = if w32 (tblGet 0 s.reg.slowHeld 0x030024 - 1) ||| w.w1c = 0 then s else holdOnes w.w1c s := by
  rw [slowWrite, if_neg (by rw [h]; decide), h]; rfl

theorem slowWrite_cfg (win : Window) (v : Word) (s : State) :
    slowWrite (winWrite 0 win 0x030020 wakeCfgRow v s) s = holdCfg (newValue wakeCfgRow win (s.raw 0 0x030020) v) s :=
  slowWrite_held rfl

theorem slowWrite_sts (win : Window) (v : Word) (s : State) :
    slowWrite (winWrite 0 win 0x030024 wakeStsRow v s) s =
      let ones := if win = .primary then v &&& 0x1FF else 0
      if w32 (tblGet 0 s.reg.slowHeld 0x030024 - 1) ||| ones = 0 then s else holdOnes ones s :=
  slowWrite_ones rfl

/-- A write that the slow domain has no 1 for, with none held, does nothing. -/
theorem slowWrite_sts_none {win : Window} {v : Word} {s : State} (h : tblGet 0 s.reg.slowHeld 0x030024 = 0)
    (hv : (if win = .primary then v &&& 0x1FF else (0 : Word)) = 0) :
    slowWrite (winWrite 0 win 0x030024 wakeStsRow v s) s = s := by
  rw [slowWrite_sts, hv, h]; rfl

end Sys2Proof.Machine
end

section
/-! Latched counters and held writes of the slow domain (R437, R444). -/

namespace Sys2Proof.Machine

open Sys2Proof

/-! ## Counter reads -/

theorem exec_counter_cluster {fn : Fn} {s : State} {r : CounterReg} {c : Fin 8} {off v : Nat} (ho : barOpen s fn.val = true)
    (hr : r ≠ .topTime) (hl : latchOf s r = (off, v, .tns c)) :
    exec (.counterLoRead fn r) s = .next (if fn.val ≠ 0 ∨ s.power c.val ≠ .on then s
      else { s with reg := { s.reg with latch := tblSet 0 s.reg.latch off (w32 (v / 2 ^ 32)) } }) := by
  refine congrArg Host.Outcome.next ?_
  rw [latchRead_own ho, setLatch, hl]
  by_cases h0 : fn.val = 0
  · simp [h0, blockOff, State.onReg]
  · simp [h0, hr]

theorem exec_counter_pipe {fn : Fn} {s : State} {p : Fin 4} (ho : barOpen s fn.val = true) :
    exec (.counterLoRead fn (.dspFrame p)) s = .next (if fn.val ≠ 0 then s
      else { s with reg := { s.reg with latch := tblSet 0 s.reg.latch (dspOff p.val + 0xC) (w32 ((s.pipe p.val).frame.toNat / 2 ^ 32)) } }) := by
  refine congrArg Host.Outcome.next ?_
  rw [latchRead_own ho, setLatch, latchOf]
  by_cases h0 : fn.val = 0
  · simp [h0, blockOff, State.onReg]
  · simp [h0]

theorem offTnsCtl_eq (c : Fin 8) (k : Nat) : offTnsCtl c.val + k = clusterBase c + (0x10000 + k) := by
  simp only [offTnsCtl, clusterBase]; omega

theorem dspOff_eq (p k : Nat) : dspOff p + k = 0x0A0000 + k + p * 0x10000 := by
  simp only [dspOff]; omega

/-! ## A slow-clock edge -/

theorem levelWakes_none {s : State} (h : levelPins s = []) : levelWakes s = s := by rw [levelWakes, h]; rfl

/-- The state after the held value of PWR_WAKE_CFG took effect. -/
def cfgApplied (s : State) : State :=
  if tblGet 0 s.reg.slowHeld 0x030020 = 0 then s
  else s.setRaw 0 0x030020 (w32 (tblGet 0 s.reg.slowHeld 0x030020 - 1) &&& 0x77777777)

/-- The state after the held 1s of PWR_WAKE_STS also took effect. -/
def onesApplied (s : State) : State :=
  if tblGet 0 s.reg.slowHeld 0x030024 = 0 then cfgApplied s
  else (cfgApplied s).setRaw 0 0x030024
    ((cfgApplied s).raw 0 0x030024 &&& ~~~w32 (tblGet 0 s.reg.slowHeld 0x030024 - 1))

theorem onesApplied_pwr (s : State) : (onesApplied s).pwr = s.pwr := by
  unfold onesApplied cfgApplied
  split <;> split <;> rfl

theorem slowApply_plain {s : State} (ha : levelPins (cfgApplied s) = []) (hb : levelPins (onesApplied s) = []) :
    slowApply s = rosRefresh ((onesApplied s).onReg fun g => { g with slowHeld := [] }) := by
  have hkeep (x : Word) : ~~~x ||| (0 : Word) = ~~~x := BitVec.or_zero
  have hstep : slowApply s = rosRefresh (levelWakes ((onesApplied s).onReg fun g => { g with slowHeld := [] })) := by
    have hfold : (levelPins (cfgApplied s)).foldl (fun m i => m ||| w32 (2 ^ i)) (0 : Word) = 0 := by rw [ha]; rfl
    have hdef : slowApply s = rosRefresh (levelWakes
        ((if tblGet 0 s.reg.slowHeld 0x030024 = 0 then cfgApplied s
          else (cfgApplied s).setRaw 0 0x030024 ((cfgApplied s).raw 0 0x030024 &&&
            (~~~(w32 (tblGet 0 s.reg.slowHeld 0x030024 - 1)) |||
              (levelPins (cfgApplied s)).foldl (fun m i => m ||| w32 (2 ^ i)) 0))).onReg fun g => { g with slowHeld := [] })) := rfl
    rw [hdef, hfold, hkeep]; rfl
  have hpins : levelPins ((onesApplied s).onReg fun g => { g with slowHeld := [] }) = [] := hb
  rw [hstep, levelWakes_none hpins]

theorem trimWord_eq (p : Power) :
    trimWord p = p.trim + (if p.trimRef then 65536 else 0) + (if p.trimLock then 131072 else 0) + (if p.trimHold then 262144 else 0) := by
  unfold trimWord b2n
  cases p.trimRef <;> cases p.trimLock <;> cases p.trimHold <;> rfl

theorem step_idle {s : State} (h : s.pending = []) : step s = .next (advanceTo (s.time + 1) s) := by
  rw [step, h]; rfl

theorem advanceTo_noEdge {s : State} (h : ¬ slowEdges s.time < slowEdges (s.time + 1)) :
    advanceTo (s.time + 1) s = { s with time := s.time + 1 } := by
  rw [advanceTo, if_neg (by omega), if_neg h]

theorem advanceTo_edge {s : State} (h : slowEdges s.time < slowEdges (s.time + 1)) :
    advanceTo (s.time + 1) s = { slowApply s with time := s.time + 1 } := by
  rw [advanceTo, if_neg (by omega), if_pos h]

theorem exec_slow {fn : Fn} {off : Nat} (v : Word) (s : State)
    (h : (off % 0x1000 = 0x20 ∨ off % 0x1000 = 0x24) ∧ 0x030000 ≤ off ∧ off < 0x034000) :
    exec (.slowRegWrite fn off v) s = .next (regWrite4 fn.val off v s) := congrArg Host.Outcome.next (if_pos h)

theorem exec_slow_other {fn : Fn} {off : Nat} (v : Word) (s : State)
    (h : ¬ ((off % 0x1000 = 0x20 ∨ off % 0x1000 = 0x24) ∧ 0x030000 ≤ off ∧ off < 0x034000)) :
    exec (.slowRegWrite fn off v) s = .next s := congrArg Host.Outcome.next (if_neg h)

theorem exec_slow_cfg {s : State} (win : Window) (v : Word) (hq : quiet s 0) :
    exec (.slowRegWrite 0 (0x030020 + win.delta) v) s = .next (holdCfg (newValue wakeCfgRow win (s.raw 0 0x030020) v) s) := by
  rw [exec_slow v s (by cases win <;> decide)]
  exact congrArg Host.Outcome.next ((regWrite4_wakeCfg win v hq).trans (slowWrite_cfg win v s))

theorem exec_slow_sts {s : State} (win : Window) (v : Word) (hq : quiet s 0) :
    exec (.slowRegWrite 0 (0x030024 + win.delta) v) s =
      .next (slowWrite (winWrite 0 win 0x030024 wakeStsRow v s) s) := by
  rw [exec_slow v s (by cases win <;> decide)]
  exact congrArg Host.Outcome.next (regWrite4_wakeSts win v hq)

theorem exec_slow_virtual {fn : Fn} {s : State} (off : Nat) (v : Word) (hq : quiet s fn.val) (h0 : fn.val ≠ 0) :
    exec (.slowRegWrite fn off v) s = .next s := by
  by_cases h : (off % 0x1000 = 0x20 ∨ off % 0x1000 = 0x24) ∧ 0x030000 ≤ off ∧ off < 0x034000
  · have ⟨_, hlo, hhi⟩ := h
    have hat : blockAt off = some (.pwr, off - 0x030000) := by
      have hbase := blockAt_base .pwr (rel := off - 0x030000) (by omega)
      rwa [show blockBase .pwr = 0x030000 from rfl, Nat.add_sub_cancel' hlo] at hbase
    rw [exec_slow v s h, regWrite4_virtual v hq h0 hat pwrRegs_vf (by decide)]
  · exact exec_slow_other v s h

theorem or_ones_ne_zero {x y : Word} (h : y ≠ 0) : x ||| y ≠ 0 :=
  fun hxy => h (BitVec.or_eq_zero_iff.mp hxy).2

/-- Settles O8: a counter read is `setLatch`, a slow write `holdCfg` or `holdOnes`, and an edge `slowApply_plain`. -/
theorem countersLatchAndSlowWritesWait : Obligations.CountersLatchAndSlowWritesWait := by
  unfold Obligations.CountersLatchAndSlowWritesWait
  refine ⟨fun fn s ⟨ho, _, _⟩ => ⟨?_, fun c => ?_, fun c => ?_, fun p => ?_⟩, fun v s hq => ?_, fun v s hq hv => ?_,
    ?_, fun fn off v s hq h0 => ?_,
    fun fn off v s h => ?_, ?_, fun s hp he => ?_⟩
  · refine congrArg Host.Outcome.next ?_
    rw [latchRead_own ho, if_neg (by simp)]; rfl
  · rw [exec_counter_cluster (off := offTnsCtl c.val + 0x14) ho (by simp) rfl, offTnsCtl_eq]
  · rw [exec_counter_cluster (off := offTnsCtl c.val + 0x1C) ho (by simp) rfl, offTnsCtl_eq]
  · rw [exec_counter_pipe ho, dspOff_eq]
  · exact exec_slow_cfg .primary v hq
  · have h := exec_slow_sts .primary v hq
    rw [slowWrite_sts] at h
    exact h.trans (congrArg Host.Outcome.next (if_neg (or_ones_ne_zero hv)))
  · intro v s hq old held
    refine ⟨?_, ?_, ?_, fun hnone => ⟨fun hv => ?_, ?_, ?_, ?_⟩⟩
    · exact exec_slow_cfg .setBits v hq
    · exact exec_slow_cfg .clearBits v hq
    · exact exec_slow_cfg .toggleBits v hq
    · exact (exec_slow_sts .primary v hq).trans (congrArg Host.Outcome.next (slowWrite_sts_none hnone hv))
    · exact (exec_slow_sts .setBits v hq).trans (congrArg Host.Outcome.next (slowWrite_sts_none hnone rfl))
    · exact (exec_slow_sts .clearBits v hq).trans (congrArg Host.Outcome.next (slowWrite_sts_none hnone rfl))
    · exact (exec_slow_sts .toggleBits v hq).trans (congrArg Host.Outcome.next (slowWrite_sts_none hnone rfl))
  · exact exec_slow_virtual off v hq h0
  · exact exec_slow_other v s (by omega)
  · intro s hp he cfg ones a b ha hb
    have hbpwr : b.pwr = s.pwr := onesApplied_pwr s
    rw [step_idle hp, advanceTo_edge he, slowApply_plain (s := s) ha hb, rosRefresh]
    show Host.Outcome.next _ = Host.Outcome.next _
    rw [← hbpwr]
    simp only [State.onPwr, trimWord_eq]
    rfl
  · rw [step_idle hp, advanceTo_noEdge he]

end Sys2Proof.Machine
end

section
/-! A parity mismatch of a protected register (R445, R447). -/

namespace Sys2Proof.Machine

open Sys2Proof

/-- A register lies in the row that it is found by. -/
theorem regAt_some {b : BlockId} {rel i : Nat} {d : RegDef} (h : regAt b rel = some (d, i)) :
    d ∈ blockRegs b ∧ d.base ≤ rel ∧ rel < d.base + 4 * d.count := by
  unfold regAt at h
  split at h
  · rename_i d' hd
    obtain ⟨rfl, -⟩ := Prod.mk.inj (Option.some.inj h)
    have hin := List.find?_some hd
    simp only [Bool.and_eq_true, decide_eq_true_eq] at hin
    exact ⟨List.mem_of_find?_eq_some hd, hin⟩
  · cases h

/-- Rows lie on words within their block's 64 KiB, and those of virtual functions within the first 1 MiB. -/
theorem rows_fit (b : BlockId) : ∀ d ∈ blockRegs b,
    d.base % 4 = 0 ∧ d.base + 4 * d.count ≤ 0x10000 ∧ (d.vf = true → blockBase b < 0xFF000) := by
  cases b with
  | tns c | spm c | shd c | dsp c | l2 c | rsh c => revert c; decide
  | _ => decide

/-- An offset lies in a row of a block's protected registers. -/
def parityPart (b : BlockId) (rel : Nat) : Bool :=
  (blockRegs b).any fun d => d.parity && decide (d.base ≤ rel) && decide (rel < d.base + 4 * d.count)

/-- Protected registers lie below BLK_KEY. -/
theorem parity_rows (b : BlockId) : ∀ d ∈ blockRegs b, d.parity = true → d.base + 4 * d.count ≤ 0xFF0 := by
  cases b with
  | tns c | spm c | shd c | dsp c | l2 c | rsh c => revert c; decide
  | _ => decide

theorem parityPart_of_regAt {b : BlockId} {rel i : Nat} {d : RegDef} (h : regAt b rel = some (d, i)) (hp : d.parity = true) :
    rel < 0xFF0 ∧ parityPart b rel = true := by
  obtain ⟨hmem, hlo, hhi⟩ := regAt_some h
  have hend := parity_rows b d hmem hp
  exact ⟨by omega, List.any_eq_true.mpr ⟨d, hmem, by simp [hp, hlo, hhi]⟩⟩

/-- A protected register shows its stored fields alone. -/
theorem shown_parityPart {b : BlockId} {rel : Nat} (h : parityPart b rel = true) (fn : Nat) (s : State) : shown b fn rel s = 0 := by
  cases b <;> simp [parityPart, blockRegs, regsTop, regsRst, regsClk, regsPwr, regsErr, regsSec, regsFe, regsMmu, regsFen,
    regsCmp, regsDsp, regsMon, regsTns, regsSpm, regsShd, regsL2, regsRsh, regRow] at h <;> rw [shown]
  case mmu => rw [mmuShown, if_neg (by omega), if_neg (by omega), if_neg (by omega), if_neg (by omega)]
  case fe => simp only [feShown]; rw [if_neg (by omega), if_neg (by omega), if_neg (by omega), if_neg (by omega)]
  case fen => rw [fenShown, if_neg (by omega)]
  case tns => rw [tnsShown, if_neg (by omega), if_neg (by omega), if_neg (by omega), if_neg (by omega)]
  case spm => rw [spmShown, if_neg (by omega), if_neg (by omega), if_neg (by omega), if_neg (by omega)]
  case l2 => simp only [l2Shown]; rw [if_neg (by omega), if_neg (by omega), if_neg (by omega)]
  case dsp =>
    simp only [dspShown]
    rw [if_neg (by omega), if_neg (by omega), if_neg (by omega), if_neg (by omega), if_neg (by omega), if_neg (by omega),
      if_neg (by omega), if_neg (by omega)]
  case sec =>
    rw [secShown, if_neg (by omega), if_neg (by omega), if_neg (by omega), if_neg (by omega), if_neg (by omega)]

/-! ## The mismatch -/

/-- The state in which a register mismatches and reads a value. -/
def mismatched (fn off : Nat) (held : Word) (s : State) : State :=
  { s with reg := { s.reg with mismatch := s.reg.mismatch ++ [(regKey fn off, held)] } }

theorem find_mismatched {fn off : Nat} {held : Word} {s : State} (h : inMismatch s (regKey fn off) = false) :
    (s.reg.mismatch ++ [(regKey fn off, held)]).find? (fun e => e.1 = regKey fn off) = some (regKey fn off, held) := by
  have hnone : s.reg.mismatch.find? (fun e => decide (e.1 = regKey fn off)) = none := by
    rw [List.find?_eq_none]
    intro e he
    simpa using List.any_eq_false.mp h e he
  rw [List.find?_append, hnone]
  simp

/-- The register in mismatch reads the held value in its writable fields. -/
theorem regWord_mismatched {fn : Fn} {b : BlockId} {rel i : Nat} {d : RegDef} {held m : Word} {s u : State}
    (hd : regAt b rel = some (d, i)) (hpart : parityPart b rel = true) (hv : fn.val = 0 ∨ d.vf = true)
    (hnot : inMismatch s (regKey fn.val (blockBase b + rel)) = false)
    (hu : u.reg.mismatch = s.reg.mismatch ++ [(regKey fn.val (blockBase b + rel), held)])
    (hm : m = d.rw ||| d.rwk) (hheld : held &&& m = held) : regWord b rel fn.val u &&& m = held := by
  have hfix (x : Word) : ((x &&& ~~~m) ||| held) &&& m = held := by
    rw [← hheld]
    ext i hi
    simp only [BitVec.getElem_and, BitVec.getElem_or, BitVec.getElem_not]
    cases m[i] <;> simp
  have hsts : blockBase b + rel ≠ offWakeSts := by
    intro he
    have hpwr : blockAt (blockBase b + rel) = some (.pwr, 0x24) := by rw [he]; decide
    have hrel : rel < 0x10000 := by
      obtain ⟨hmem, -, hlt⟩ := regAt_some hd
      obtain ⟨-, hend, -⟩ := rows_fit b d hmem
      omega
    rw [blockAt_base b hrel] at hpwr
    obtain ⟨rfl, -⟩ := Prod.mk.inj (Option.some.inj hpwr)
    simp [parityPart, blockRegs, regsPwr, regRow] at hpart
  have hv' : ¬ (fn.val ≠ 0 ∧ (!d.vf) = true) := by
    rintro ⟨h0, hvf⟩
    rcases hv with hv | hv
    · exact h0 hv
    · simp [hv] at hvf
  rw [regWord, hd]
  simp only [agentFn_fn, hu, find_mismatched hnot, shown_parityPart hpart]
  rw [if_neg hv', if_neg hsts, ← hm, hheld]
  exact (congrArg (· &&& m) BitVec.or_zero).trans (hfix _)

theorem readReg_primary {fn : Fn} {off rel : Nat} {b : BlockId} {u : State} (hb : blockAt off = some (b, rel))
    (hh : b ≠ .hst) (hv : fn.val = 0 ∨ off < 2 ^ 20) (hrel : rel < 0xFF0) (hon : blockOff u b = false)
    (herr : b ≠ .err) : readReg fn.val off u = regWord b rel fn.val u := by
  have hz : readsZero u b rel = false := by simp [readsZero, hon]
  rw [readReg, hb]
  simp only [agentFn_fn, windowOf_prim (show rel < 0x1000 by omega), hz]
  rw [if_neg hh, if_neg (by omega), if_neg (by decide), if_neg (by omega), if_neg (by simp [herr])]

/-- A block with a protected register is in mismatch when the register is. -/
theorem halted_mismatched {fn : Fn} {off rel : Nat} {b : BlockId} {held : Word} {s u : State} (hb : blockAt off = some (b, rel))
    (hu : u.reg.mismatch = s.reg.mismatch ++ [(regKey fn.val off, held)]) : u.halted b = true := by
  have hlt : off < 2 ^ 26 := by
    obtain ⟨-, hend, -⟩ := blockAt_some hb
    have := blockBase_lt b
    omega
  have hoff : regKey fn.val off % 2 ^ 26 = off := by
    rw [regKey, Nat.mul_comm, Nat.mul_add_mod, Nat.mod_eq_of_lt hlt]
  refine List.any_eq_true.mpr ⟨(regKey fn.val off, held), by rw [hu]; exact List.mem_append_right _ (List.mem_singleton_self _), ?_⟩
  simp only [hoff, hb, decide_true]

theorem parityFail_on {fn : Fn} {off rel i : Nat} {b : BlockId} {d : RegDef} (v : Word) (s : State)
    (hb : blockAt off = some (b, rel)) (hd : regAt b rel = some (d, i)) :
    parityFail fn.val off v s =
      if d.parity = false ∨ off % 4 ≠ 0 ∨ (fn.val ≠ 0 ∧ d.vf = false) ∨ blockOff s b = true ∨ inMismatch s (regKey fn.val off) = true then s
      else logError 0x01 (blockSource b) 0 off (v &&& (d.rw ||| d.rwk)).toNat false
        (mismatched fn.val off (v &&& (d.rw ||| d.rwk)) s) := by
  rw [parityFail, hb]
  simp only [hd, Bool.not_eq_true']
  rfl

/-- Settles O9: `parityFail_on` tells when the event acts; then the error is logged plainly, and a read of the register
finds the mismatch. -/
theorem parityMismatchHaltsTheBlock : Obligations.ParityMismatchHaltsTheBlock := by
  unfold Obligations.ParityMismatchHaltsTheBlock
  refine ⟨?_, fun fn off v s hno => congrArg Host.Outcome.next ?_⟩
  · intro fn off v s b rel i d hb hd held
    refine ⟨fun hp hal hv hon hnot hlog => ?_, fun hdead => ?_⟩
    · have hact : ¬ (d.parity = false ∨ off % 4 ≠ 0 ∨ (fn.val ≠ 0 ∧ d.vf = false) ∨ blockOff s b = true ∨
          inMismatch s (regKey fn.val off) = true) := by
        rw [hp, hon, hnot]
        rcases hv with hv | hv <;> simp [hal, hv]
      have hlog' : logsPlainly (mismatched fn.val off held s) (blockSource b) (codeClass 0x01) := hlog
      have hexec : exec (.cfgParity fn off v) s =
          .next (withLog 0x01 0 (blockSource b) 0 off held.toNat (mismatched fn.val off held s)) := by
        refine congrArg Host.Outcome.next ?_
        rw [parityFail_on v s hb hd, if_neg hact]
        exact logError_plain 0 off held.toNat hlog'
      have hoff := blockAt_eq_base hb
      have hmod := blockBase_mod b
      obtain ⟨hrel, hpart⟩ := parityPart_of_regAt hd hp
      have hh : b ≠ .hst := by rintro rfl; cases hpart
      have herr : b ≠ .err := by rintro rfl; simp [parityPart, blockRegs, regsErr, regRow] at hpart
      have hlow : fn.val = 0 ∨ off < 2 ^ 20 := by
        refine hv.imp id fun hvf => ?_
        obtain ⟨-, -, hlow⟩ := rows_fit b d (regAt_some hd).1
        have := hlow hvf
        omega
      refine ⟨_, hexec, rfl, halted_mismatched (held := held) (s := s) hb rfl, ?_⟩
      have honu : blockOff (withLog 0x01 0 (blockSource b) 0 off held.toNat (mismatched fn.val off held s)) b = false := hon
      refine (congrArg (· &&& (d.rw ||| d.rwk)) (readReg_primary hb hh hlow hrel honu herr)).trans ?_
      refine regWord_mismatched (held := held) (s := s) hd hpart hv ?_ ?_ rfl ?_
      · rw [← hoff]; exact hnot
      · rw [← hoff]; rfl
      · show v &&& (d.rw ||| d.rwk) &&& (d.rw ||| d.rwk) = v &&& (d.rw ||| d.rwk)
        rw [BitVec.and_assoc, BitVec.and_self]
    · exact congrArg Host.Outcome.next ((parityFail_on v s hb hd).trans (if_pos hdead))
  · unfold parityFail
    cases hb : blockAt off with
    | none => rfl
    | some p => obtain ⟨b, rel⟩ := p; simp [hno b rel hb]

end Sys2Proof.Machine
end

section
/-! Range registers of contexts and fences (R35, R106). -/

namespace Sys2Proof.Machine

open Sys2Proof

/-! ## Range registers of any block -/

/-- A virtual function's write of a register that only the physical function has does nothing. -/
theorem regWrite4_rowless {fn : Fn} {off rel i : Nat} {b : BlockId} {d : RegDef} {s : State} (v : Word) (hq : quiet s fn.val)
    (h0 : fn.val ≠ 0) (hb : blockAt off = some (b, rel)) (hd : regAt b rel = some (d, i)) (hvf : d.vf = false)
    (hrel : rel < 0xFF0) (hlow : off < 2 ^ 20) : regWrite4 fn.val off v s = s := by
  have hland : landWrite b rel fn.val off v s = s := by
    rw [landWrite, if_neg (by omega), if_neg (by omega), stage, hb]
    simp only [windowOf_prim (show rel < 0x1000 by omega), hd, agentFn_fn]
    rw [if_pos (by simp [h0, hvf])]
  rw [regWrite4_quiet v hq hb (.inr hlow), hland]

theorem rangeWr_unchanged {mask v : Word} {off : Nat} {s : State} (h : s.raw 0 off &&& mask = v &&& mask) :
    (rangeWr mask off v s).changes mask = false := by
  refine RegWr.changes_eq_false ?_
  show ((s.raw 0 off &&& ~~~mask) ||| (v &&& mask)) &&& mask = s.raw 0 off &&& mask
  rw [← h]
  ext i hi
  simp only [BitVec.getElem_and, BitVec.getElem_or, BitVec.getElem_not]
  cases mask[i] <;> simp

section
variable {s : State} {off rel base i : Nat} {b : BlockId} {mask v : Word} {f : Nat} {eff : RegWr → State → State}

/-- A range register of function f: its row, and the effect that judges a write of it. -/
structure RangeReg (off rel base i : Nat) (b : BlockId) (mask : Word) (f : Nat) (eff : RegWr → State → State) : Prop where
  at' : blockAt off = some (b, rel)
  row : regAt b rel = some (rangeRow base mask, i)
  low : rel < 0xFF0
  open' : b = .mmu ∨ b = .fen
  act : ∀ w s, regEffect b rel w s = lockedRange f mask w (eff w) s
  keep : ∀ w s, w.changes mask = false → eff w s = clearWr w s

/-- A write that changes the range, under an unlock that it consumes, is judged by the register's own rule. -/
theorem RangeReg.write_changed (hr : RangeReg off rel base i b mask f eff) (hq : quiet s 0) (hun : unlocked s b 0 = true)
    (htdi : tdiLocked s f = false) (hc : (rangeWr mask off v s).changes mask = true) :
    regWrite4 0 off v s = eff (rangeWr mask off v s) (setUnlock b 0 0 s) := by
  have hne : b ≠ .hst := by rcases hr.open' with rfl | rfl <;> decide
  have hon : blockOff s b = false := by rcases hr.open' with rfl | rfl <;> rfl
  have hopen : tdiLocked (setUnlock b 0 0 s) f = false := htdi
  rw [regWrite4_rangeRow v hq hr.at' hr.row hr.low hne hon, if_pos hc, if_pos hun, hr.act, lockedRange_unlocked hopen]

/-- A write that leaves the range clears REFUSED where it writes 1 to it. -/
theorem RangeReg.write_unchanged (hr : RangeReg off rel base i b mask f eff) (hq : quiet s 0)
    (h : s.raw 0 off &&& mask = v &&& mask) :
    regWrite4 0 off v s = s.setRaw 0 off (s.raw 0 off &&& ~~~(v &&& 0x80000000)) := by
  have hc := rangeWr_unchanged h
  have hne : b ≠ .hst := by rcases hr.open' with rfl | rfl <;> decide
  have hon : blockOff s b = false := by rcases hr.open' with rfl | rfl <;> rfl
  rw [regWrite4_rangeRow v hq hr.at' hr.row hr.low hne hon, hc, if_neg (by decide), hr.act, lockedRange_unchanged hc,
    hr.keep _ _ hc]
  rfl

theorem RangeReg.write_virtual {fn : Fn} (hr : RangeReg off rel base i b mask f eff) (hq : quiet s fn.val) (h0 : fn.val ≠ 0) :
    regWrite4 fn.val off v s = s := by
  have hlow : off < 2 ^ 20 := by
    have hoff := blockAt_eq_base hr.at'
    have := hr.low
    have hb : blockBase b + 0xFF0 < 2 ^ 20 := by rcases hr.open' with rfl | rfl <;> decide
    omega
  exact regWrite4_rowless v hq h0 hr.at' hr.row rfl hr.low hlow

end

/-! ## MMU_FN_CTX_f -/

theorem fnCtxEffect_unchanged {f : Nat} {w : RegWr} (s : State) (h : w.changes 0xFFDFF = false) :
    fnCtxEffect f w s = clearWr w s := by
  rw [fnCtxEffect, h]; rfl

theorem rangeReg_fnCtx (f : Fn) :
    RangeReg (0x070100 + 4 * f.val) (0x100 + 4 * f.val) 0x100 f.val .mmu 0xFFDFF f.val (fnCtxEffect f.val) where
  at' := by revert f; decide
  row := by revert f; decide
  low := by omega
  open' := .inl rfl
  act w s := by
    have hidx : (0x100 + 4 * f.val - 0x100) / 4 = f.val := by omega
    rw [regEffect, mmuEffect, if_neg (by omega), if_neg (by omega), if_pos (by omega), hidx]
  keep _ s h := fnCtxEffect_unchanged s h

/-- A context but 0 that is not FREE lies in the old or the new range of a write (R35). -/
def ctxsBusy (w : RegWr) (s : State) : Bool :=
  (upTo 512).any fun n => decide (n ≠ 0) && (s.ctx n).state ≠ .free && (rangeHas w.new 8 10 19 n || rangeHas w.old 8 10 19 n)

/-- R35 lets function f have the contexts that a write gives it. -/
def ctxRangeOk (f : Fn) (w : RegWr) (s : State) : Prop :=
  (∀ g : Fn, g ≠ f → overlap (bits w.new.toNat 8 0) (bits w.new.toNat 19 10)
    (bits (s.raw 0 (0x070100 + 4 * g.val)).toNat 8 0) (bits (s.raw 0 (0x070100 + 4 * g.val)).toNat 19 10) = false) ∧
  bits w.new.toNat 8 0 + bits w.new.toNat 19 10 ≤ 512 ∧
  (f.val = 0 → bits w.new.toNat 8 0 = 0 ∧ bits w.new.toNat 19 10 ≠ 0) ∧
  ∀ n : CtxId, n.val ≠ 0 → (s.ctx n.val).state = .free ∨ (rangeHas w.new 8 10 19 n.val = false ∧ rangeHas w.old 8 10 19 n.val = false)

theorem ctxsBusy_eq_false {w : RegWr} {s : State} : ctxsBusy w s = false ↔ ∀ n : CtxId, n.val ≠ 0 →
    (s.ctx n.val).state = .free ∨ (rangeHas w.new 8 10 19 n.val = false ∧ rangeHas w.old 8 10 19 n.val = false) := by
  simp only [ctxsBusy, upTo, List.any_eq_false, List.mem_range, Bool.and_eq_true, Bool.or_eq_true, decide_eq_true_eq, not_and_or,
    not_or, ne_eq, not_not, Bool.not_eq_true]
  exact ⟨fun h n hn => by simpa [hn] using h n.val n.isLt, fun h n hlt => by
    by_cases hn : n = 0
    · exact .inl (.inl hn)
    · exact (h ⟨n, hlt⟩ hn).imp .inr id⟩

/-- The four refusals of R35, in the order of `fnCtxEffect`. -/
def ctxRangeBad (f : Nat) (w : RegWr) (s : State) : Bool :=
  rangeClash s 0x070100 8 10 19 f (bits w.new.toNat 8 0) (bits w.new.toNat 19 10) ||
    decide (512 < bits w.new.toNat 8 0 + bits w.new.toNat 19 10) ||
    (decide (f = 0) && (decide (bits w.new.toNat 8 0 ≠ 0) || decide (bits w.new.toNat 19 10 = 0))) || ctxsBusy w s

theorem ctxRangeBad_eq_false {f : Fn} {w : RegWr} {s : State} : ctxRangeBad f.val w s = false ↔ ctxRangeOk f w s := by
  simp only [ctxRangeBad, ctxRangeOk, Bool.or_eq_false_iff, rangeClash_eq_false, ctxsBusy_eq_false, Bool.and_eq_false_imp,
    decide_eq_true_eq, decide_eq_false_iff_not, not_lt, ne_eq, not_not, and_assoc]

theorem fnCtxEffect_changed {f : Nat} {w : RegWr} {s : State} (h : w.changes 0xFFDFF = true) :
    fnCtxEffect f w s = if ctxRangeBad f w s then refuseWr w refusedBit s else storeWr w 0 s := by
  rw [fnCtxEffect, h]; rfl

/-! ## FEN_FN_LOCAL_f and FEN_FN_SHARED_f -/

/-- Where the range registers of the local or the shared fences lie. -/
def fenRangeBase (shared : Bool) : Nat := if shared then 0x080200 else 0x080100

theorem fnFenEffect_unchanged {shared : Bool} {f : Nat} {w : RegWr} (s : State) (h : w.changes 0x1FFFFF = false) :
    fnFenEffect shared f w s = clearWr w s := by
  rw [fnFenEffect, h]; rfl

theorem rangeReg_fnLocal (f : Fn) :
    RangeReg (0x080100 + 4 * f.val) (0x100 + 4 * f.val) 0x100 f.val .fen 0x1FFFFF f.val (fnFenEffect false f.val) where
  at' := by revert f; decide
  row := by revert f; decide
  low := by omega
  open' := .inr rfl
  act w s := by
    have hlocal : decide (0x200 ≤ 0x100 + 4 * f.val) = false := decide_eq_false (by omega)
    have hidx : (0x100 + 4 * f.val - 0x100) / 4 = f.val := by omega
    rw [regEffect, fenEffect, if_neg (by omega), if_neg (by omega), if_pos (by omega), hlocal]
    simp only [Bool.false_eq_true, if_false, hidx]
  keep _ s h := fnFenEffect_unchanged s h

theorem rangeReg_fnShared (f : Fn) :
    RangeReg (0x080200 + 4 * f.val) (0x200 + 4 * f.val) 0x200 f.val .fen 0x1FFFFF f.val (fnFenEffect true f.val) where
  at' := by revert f; decide
  row := by revert f; decide
  low := by omega
  open' := .inr rfl
  act w s := by
    have hshared : decide (0x200 ≤ 0x200 + 4 * f.val) = true := decide_eq_true (by omega)
    have hidx : (0x200 + 4 * f.val - 0x200) / 4 = f.val := by omega
    rw [regEffect, fenEffect, if_neg (by omega), if_neg (by omega), if_pos (by omega), hshared]
    simp only [if_true, hidx]
  keep _ s h := fnFenEffect_unchanged s h

/-- A fence that is not FREE lies in the old or the new range of a write (R106). -/
def fencesBusy (shared : Bool) (w : RegWr) (s : State) : Bool :=
  s.fen.fences.any fun e => decide (e.2.st ≠ .free) && (rangeFences shared w.new.toNat e.1 || rangeFences shared w.old.toNat e.1)

/-- R106 lets function f have the fences that a write gives it. -/
def fenRangeOk (shared : Bool) (f : Fn) (w : RegWr) (s : State) : Prop :=
  (∀ g : Fn, g ≠ f → overlap (bits w.new.toNat 9 0) (bits w.new.toNat 20 10)
    (bits (s.raw 0 (fenRangeBase shared + 4 * g.val)).toNat 9 0) (bits (s.raw 0 (fenRangeBase shared + 4 * g.val)).toNat 20 10) = false) ∧
  bits w.new.toNat 9 0 + bits w.new.toNat 20 10 ≤ 1024 ∧ (f.val = 0 → bits w.new.toNat 9 0 = 0) ∧
  ∀ e ∈ s.fen.fences, e.2.st = .free ∨ (rangeFences shared w.new.toNat e.1 = false ∧ rangeFences shared w.old.toNat e.1 = false)

theorem fencesBusy_eq_false {shared : Bool} {w : RegWr} {s : State} : fencesBusy shared w s = false ↔
    ∀ e ∈ s.fen.fences, e.2.st = .free ∨ (rangeFences shared w.new.toNat e.1 = false ∧ rangeFences shared w.old.toNat e.1 = false) := by
  simp only [fencesBusy, List.any_eq_false, Bool.and_eq_true, Bool.or_eq_true, decide_eq_true_eq, not_and_or, not_or, ne_eq,
    not_not, Bool.not_eq_true]

/-- The four refusals of R106, in the order of `fnFenEffect`. -/
def fenRangeBad (shared : Bool) (f : Nat) (w : RegWr) (s : State) : Bool :=
  rangeClash s (fenRangeBase shared) 9 10 20 f (bits w.new.toNat 9 0) (bits w.new.toNat 20 10) ||
    decide (1024 < bits w.new.toNat 9 0 + bits w.new.toNat 20 10) ||
    (decide (f = 0) && decide (bits w.new.toNat 9 0 ≠ 0)) || fencesBusy shared w s

theorem fenRangeBad_eq_false {shared : Bool} {f : Fn} {w : RegWr} {s : State} :
    fenRangeBad shared f.val w s = false ↔ fenRangeOk shared f w s := by
  simp only [fenRangeBad, fenRangeOk, Bool.or_eq_false_iff, rangeClash_eq_false, fencesBusy_eq_false, Bool.and_eq_false_imp,
    decide_eq_true_eq, decide_eq_false_iff_not, not_lt, ne_eq, not_not, and_assoc]

theorem fnFenEffect_changed {shared : Bool} {f : Nat} {w : RegWr} {s : State} (h : w.changes 0x1FFFFF = true) :
    fnFenEffect shared f w s = if fenRangeBad shared f w s then refuseWr w refusedBit s else storeWr w 0 s := by
  rw [fnFenEffect, h]; rfl

/-- What a judged write of a range register leaves. -/
theorem judged_range {mask v : Word} {off : Nat} {s u : State} {bad : Bool} {ok : Prop} (h : bad = false ↔ ok) :
    (ok → (if bad then refuseWr (rangeWr mask off v s) refusedBit u else storeWr (rangeWr mask off v s) 0 u) =
      u.setRaw 0 off (((s.raw 0 off &&& ~~~mask) ||| (v &&& mask)) &&& ~~~(v &&& 0x80000000))) ∧
    (¬ ok → (if bad then refuseWr (rangeWr mask off v s) refusedBit u else storeWr (rangeWr mask off v s) 0 u) =
      u.setRaw 0 off ((s.raw 0 off &&& ~~~(v &&& 0x80000000)) ||| 0x80000000)) := by
  refine ⟨fun hok => ?_, fun hno => ?_⟩
  · rw [h.mpr hok, if_neg (by decide), storeWr_rangeWr]; rfl
  · rw [if_pos (by simpa using h.not.mpr hno)]; rfl

/-- A write of a range register of the fences under an unlock. -/
theorem fenRangeReg (shared : Bool) (f : Fn) :
    RangeReg (fenRangeBase shared + 4 * f.val) ((if shared then 0x200 else 0x100) + 4 * f.val) (if shared then 0x200 else 0x100)
      f.val .fen 0x1FFFFF f.val (fnFenEffect shared f.val) := by
  cases shared
  · exact rangeReg_fnLocal f
  · exact rangeReg_fnShared f

/-- The command that writes a range register of the fences. -/
def fenRangeCmd (shared : Bool) (f : Fn) (v : Word) : Instr := if shared then .fenFnSharedWrite 0 f v else .fenFnLocalWrite 0 f v

theorem exec_fenRangeCmd (shared : Bool) (f : Fn) (v : Word) (s : State) :
    exec (fenRangeCmd shared f v) s = .next (regWrite4 0 (fenRangeBase shared + 4 * f.val) v s) := by
  cases shared <;> rfl

/-- Settles O12: a range register's write comes to `fnCtxEffect` or `fnFenEffect`, whose refusals are those of
`ctxRangeOk` and `fenRangeOk`. -/
theorem contextAndFenceRangesAreChecked : Obligations.ContextAndFenceRangesAreChecked := by
  unfold Obligations.ContextAndFenceRangesAreChecked
  refine ⟨?_, ?_, fun fn f v s hq => ⟨fun h0 => ⟨?_, ?_, ?_, ?_⟩, fun h0 => ⟨fun h => ?_, fun h => ?_, fun h => ?_⟩⟩⟩
  · intro f v s hq hun htdi off old new first count u ok hchg
    have hc : (rangeWr 0xFFDFF off v s).changes 0xFFDFF = true := RegWr.changes_iff.mpr hchg
    have hexec : exec (.mmuFnCtxWrite 0 f v) s = .next (fnCtxEffect f.val (rangeWr 0xFFDFF off v s) u) :=
      congrArg Host.Outcome.next ((rangeReg_fnCtx f).write_changed hq hun htdi hc)
    have hjudge : ctxRangeBad f.val (rangeWr 0xFFDFF off v s) u = false ↔ ok := ctxRangeBad_eq_false
    rw [hexec, fnCtxEffect_changed hc]
    exact ⟨fun hok => congrArg Host.Outcome.next ((judged_range hjudge).1 hok),
      fun hno => congrArg Host.Outcome.next ((judged_range hjudge).2 hno)⟩
  · intro shared f v s hq hun htdi base off old new first count u ok cmd hchg
    have hc : (rangeWr 0x1FFFFF off v s).changes 0x1FFFFF = true := RegWr.changes_iff.mpr hchg
    have hexec : exec cmd s = .next (fnFenEffect shared f.val (rangeWr 0x1FFFFF off v s) u) :=
      (exec_fenRangeCmd shared f v s).trans
        (congrArg Host.Outcome.next ((fenRangeReg shared f).write_changed hq hun htdi hc))
    have hjudge : fenRangeBad shared f.val (rangeWr 0x1FFFFF off v s) u = false ↔ ok := fenRangeBad_eq_false
    rw [hexec, fnFenEffect_changed hc]
    exact ⟨fun hok => congrArg Host.Outcome.next ((judged_range hjudge).1 hok),
      fun hno => congrArg Host.Outcome.next ((judged_range hjudge).2 hno)⟩
  · exact congrArg Host.Outcome.next ((rangeReg_fnCtx f).write_virtual hq h0)
  · exact congrArg Host.Outcome.next (regWrite4_rowless v hq h0 (blockAt_fnRing f) (regAt_fnRing f) rfl (by omega) (by omega))
  · exact congrArg Host.Outcome.next ((rangeReg_fnLocal f).write_virtual hq h0)
  · exact congrArg Host.Outcome.next ((rangeReg_fnShared f).write_virtual hq h0)
  all_goals obtain rfl : fn = 0 := Fin.ext h0
  · exact congrArg Host.Outcome.next ((rangeReg_fnCtx f).write_unchanged hq h)
  · exact congrArg Host.Outcome.next ((rangeReg_fnLocal f).write_unchanged hq h)
  · exact congrArg Host.Outcome.next ((rangeReg_fnShared f).write_unchanged hq h)

end Sys2Proof.Machine
end

section
/-! Context commands (R39 to R43). -/

namespace Sys2Proof.Machine

open Sys2Proof

/-- A context command that lands at once: RANGE, then STATE while another is in progress, then the command's own rule. -/
theorem ctxCommand_quiet {fn : Nat} {s : State} (n op : Nat) (f : State → State) (hq : quiet s fn) :
    ctxCommand fn n op f s =
      if fnHasCtx s fn n = false then ctxResult fn n resRange s
      else if (s.ctx n).cmd.isSome = true then ctxResult fn n resState s else f s := by
  obtain ⟨ho, ha, hm⟩ := hq
  simp only [ctxCommand]
  rw [ho, if_neg (by decide), hostWrite_awake ha, halted_of_nil hm, if_neg (by decide)]
  simp only [Bool.not_eq_true']

section
variable {fn n op : Nat} {f : State → State} {s : State}

theorem ctxCommand_range (hq : quiet s fn) (h : fnHasCtx s fn n = false) : ctxCommand fn n op f s = ctxResult fn n resRange s := by
  rw [ctxCommand_quiet n op f hq, if_pos h]

theorem ctxCommand_busy (hq : quiet s fn) (h : fnHasCtx s fn n = true) (hc : (s.ctx n).cmd.isSome = true) :
    ctxCommand fn n op f s = ctxResult fn n resState s := by
  rw [ctxCommand_quiet n op f hq, h, if_neg (by decide), if_pos hc]

theorem ctxCommand_own (hq : quiet s fn) (h : fnHasCtx s fn n = true) (hc : (s.ctx n).cmd = none) :
    ctxCommand fn n op f s = f s := by
  rw [ctxCommand_quiet n op f hq, h, if_neg (by decide), hc, if_neg (by decide)]

end

theorem destroyDo_refused {fn n : Nat} {s : State} (h : n = 0 ∨ (s.ctx n).state ≠ .active) :
    destroyDo fn n s = ctxResult fn n resState s := if_pos h

theorem abortDo_refused {fn n : Nat} {s : State} (h : n = 0 ∨ ((s.ctx n).state ≠ .active ∧ (s.ctx n).state ≠ .draining)) :
    abortDo fn n s = ctxResult fn n resState s := by
  unfold abortDo
  rcases h with h | ⟨ha, hd⟩
  · cases (s.ctx n).state <;> simp [h]
  · cases hst : (s.ctx n).state <;> simp_all

/-- Settles O13: a command that lands at once is `ctxCommand`'s three cases, and the last is the command's own rule. -/
theorem contextCommandsFollowTheirStates : Obligations.ContextCommandsFollowTheirStates := by
  unfold Obligations.ContextCommandsFollowTheirStates
  intro fn n s hq c answer
  refine ⟨fun h => ⟨?_, ?_, ?_, ?_, ?_⟩, fun h hc => ⟨?_, ?_, ?_, ?_, ?_⟩, fun h hc => ⟨?_, ?_, ?_, fun hr => ?_, fun hr => ?_⟩⟩
  all_goals refine congrArg Host.Outcome.next ?_
  iterate 5 exact ctxCommand_range hq h
  iterate 5 exact ctxCommand_busy hq h hc
  all_goals rw [ctxCommand_own hq h hc]
  · simp only [createDo, anyDie, Bool.or_eq_true]; rfl
  · rfl
  · rfl
  · exact destroyDo_refused hr
  · exact abortDo_refused hr

end Sys2Proof.Machine
end

section
/-! DESTROY and ABORT (R39, R58): a state whose ring table lists a ring twice. -/

namespace Sys2Proof.Machine

open Sys2Proof

/-- The device once firmware has booted: the link is up; die 0, cluster 0 and core 0 are on. Counterexamples start from it. -/
def upState : State := { State.reset with
  boot := { Boot.dark with step := .up, perst := false, link := true, stage := .ready }
  unit := { State.reset.unit with
    diePresent := [(0, 1)], clusterPresent := [(0, 1)], booted := [0], degraded := true, memGib8 := 16,
    power := [(0, .on), (8, .on), (72, .on)] } }

theorem quiet_upState (fn : Fn) : quiet upState fn.val := by
  revert fn; unfold quiet; decide +kernel

/-- A ring table that lists ring 5 twice: the entry that a read finds is another context's, the one behind it is context 1's. -/
def twiceListed : State := { upState with fe := { upState.fe with
  rings := [(5, { Ring.off with state := .idle, ctx := 2 }), (5, { Ring.off with state := .idle, ctx := 1 })] } }

/-- Refutes O14: what `stopRings` leaves is stated of every state that is awake, but in `twiceListed` the ring is stopped
for its second entry while a read of it finds the first. -/
theorem not_destroyAndAbortTearDown : ¬ Obligations.DestroyAndAbortTearDown := by
  unfold Obligations.DestroyAndAbortTearDown
  intro h
  obtain ⟨-, -, hstop, -⟩ := h 0 1 upState (quiet_upState 0) (by decide +kernel) (by decide +kernel) (by decide)
  obtain ⟨m, rings, -, hring⟩ := hstop twiceListed (by decide +kernel)
  exact absurd (congrArg Ring.stopped (hring 5)) (by decide +kernel)

end Sys2Proof.Machine
end

section
/-! The ends of CREATE and RELOAD (R37, R38, R40, R375, R376). -/

namespace Sys2Proof.Machine

open Sys2Proof

theorem applyIO_reg (io : HostIO) (s : State) : (applyIO io s).reg = s.reg := by
  obtain ⟨m, hm⟩ := applyIO_onlyMem io s
  rw [hm]

theorem mismatch_applyIO {io : HostIO} {s : State} (h : s.reg.mismatch = []) : (applyIO io s).reg.mismatch = [] := by
  rw [applyIO_reg, h]

/-- Where entry n of a function's descriptor table lies. -/
def descriptorPa (fn n : Nat) (s : State) : Nat := s.rawBase fn 0x070000 0x070004 + 64 * n

section
variable {fn n : Nat} {s : State}

theorem readDescriptor_wait (h : devRead (descriptorPa fn n s) 64 s = .wait) : readDescriptor fn n s = (.wait, s) := by
  rw [descriptorPa] at h; simp only [readDescriptor, h]

theorem readDescriptor_failed (h : devRead (descriptorPa fn n s) 64 s = .failed) :
    readDescriptor fn n s = (.failed, noteViolation 0x81 n (descriptorPa fn n s) 64 s) := by
  rw [descriptorPa] at h; simp only [readDescriptor, h]; rfl

theorem readDescriptor_done {bs : List Byte} {u : State} (h : devRead (descriptorPa fn n s) 64 s = .done (bs, u)) :
    readDescriptor fn n s = (.done bs, u) := by
  rw [descriptorPa] at h; simp only [readDescriptor, h]

end

/-! ## CREATE -/

section
variable {n fn : Nat} {io : HostIO} {s : State}

theorem createDone_idle (h : ((applyIO io s).ctx n).cmd = none) : createDone n io s = applyIO io s := by
  simp only [createDone, h]

/-- A CREATE in progress, with neither block halted, ends by its descriptor. -/
theorem createDone_read (hm : s.reg.mismatch = []) (hn : n ≠ 0) (h : ((applyIO io s).ctx n).cmd = some fn) :
    createDone n io s = match readDescriptor fn n (applyIO io s) with
      | (.wait, u) => u
      | (.failed, u) => ctxEnd fn n resFetch u
      | (.done bs, u) => match descriptor bs with
        | none => ctxEnd fn n resBadRecord u
        | some d =>
          if u.mmu.reserve = 0 then ctxEnd fn n resState u
          else ctxResult fn n resOk ((tlbDiscard (fun t => t.ctx = n)
            { u with mmu := { u.mmu with serial := u.mmu.serial + 1, reserve := u.mmu.reserve - 1 } }).setCtx n
              { d with state := .active, gen := ((applyIO io s).ctx n).gen + 1, key := some (u.mmu.serial + 1) }) := by
  have hsec := halted_of_nil (mismatch_applyIO (io := io) hm) .sec
  have hmmu := halted_of_nil (mismatch_applyIO (io := io) hm) .mmu
  simp only [createDone, h]
  rw [if_neg (by simp [hn, hsec, hmmu])]
  rcases readDescriptor fn n (applyIO io s) with ⟨_ | _ | _, u⟩ <;> rfl

end

/-! ## RELOAD -/

section
variable {fn : Nat} {io : HostIO} {s : State}

theorem reloadDone_idle (h : ((applyIO io s).ctx 0).cmd = none) : reloadDone io s = applyIO io s := by
  simp only [reloadDone, h]

/-- A RELOAD that has passed waits for the loads translated before. -/
theorem reloadDone_loads (hm : s.reg.mismatch = []) (h : ((applyIO io s).ctx 0).cmd = some fn)
    (hl : (applyIO io s).mmu.reloadLoads ≠ []) :
    reloadDone io s =
      if loadsGone (applyIO io s) (applyIO io s).mmu.reloadLoads then
        ctxEnd fn 0 resOk ((applyIO io s).onMmu fun m => { m with reloadLoads := [] })
      else applyIO io s := by
  have hmmu := halted_of_nil (mismatch_applyIO (io := io) hm) .mmu
  simp only [reloadDone, h, hmmu]
  rw [if_neg (by decide), if_pos hl]

/-- What a RELOAD installs. -/
def reloaded (d : Ctx) (u : State) : State :=
  tlbDiscard (fun t => t.ctx = 0) (u.setCtx 0
    { u.ctx 0 with
      ptRoot := d.ptRoot, fqBase := d.fqBase, fqLog2 := d.fqLog2, vector := d.vector, plainOk := d.plainOk,
      ftz := d.ftz, prod := 0, lost := 0 })

/-- A RELOAD in progress that has not passed yet ends by its descriptor. -/
theorem reloadDone_read (hm : s.reg.mismatch = []) (h : ((applyIO io s).ctx 0).cmd = some fn)
    (hl : (applyIO io s).mmu.reloadLoads = []) :
    reloadDone io s = match readDescriptor 0 0 (applyIO io s) with
      | (.wait, u) => u
      | (.failed, u) => ctxEnd fn 0 resFetch u
      | (.done bs, u) => match descriptor bs with
        | none => ctxEnd fn 0 resBadRecord u
        | some d =>
          if loadsOn (reloaded d u) 0 (fun _ => true) = [] then ctxEnd fn 0 resOk (reloaded d u)
          else (reloaded d u).onMmu fun m => { m with reloadLoads := loadsOn (reloaded d u) 0 fun _ => true } := by
  have hmmu := halted_of_nil (mismatch_applyIO (io := io) hm) .mmu
  simp only [reloadDone, h, hmmu]
  rw [if_neg (by decide), if_neg (by simp [hl])]
  rcases readDescriptor 0 0 (applyIO io s) with ⟨_ | _ | _, u⟩ <;> rfl

end

/-! ## The checks of R37 -/

theorem descriptor_isSome (bs : List Byte) :
    (descriptor bs).isSome = decide (fld bs 0 8 % 4096 = 0 ∧ fld bs 0 8 < 2 ^ 49 ∧ fld bs 8 8 % 64 = 0 ∧ fld bs 8 8 < 2 ^ 49 ∧
      4 ≤ fld bs 16 1 ∧ fld bs 16 1 ≤ 12 ∧ 1 ≤ fld bs 18 2 ∧ fld bs 18 2 ≤ 2047 ∧ fld bs 20 2 < 16 ∧
      zeros bs 17 1 = true ∧ zeros bs 22 42 = true) := by
  simp only [descriptor]
  split <;> rename_i h
  · exact (decide_eq_true h).symm
  · exact (decide_eq_false h).symm

theorem descriptor_fields {bs : List Byte} {d : Ctx} (h : descriptor bs = some d) :
    d = { Ctx.freeCtx with
      ptRoot := some (fld bs 0 8), fqBase := some (fld bs 8 8), fqLog2 := fld bs 16 1, vector := fld bs 18 2,
      drain := bit (fld bs 20 2) 0, plainOk := bit (fld bs 20 2) 1, ftz := bit (fld bs 20 2) 2, prot := bit (fld bs 20 2) 3 } := by
  simp only [descriptor] at h
  split at h
  · exact (Option.some.inj h).symm
  · cases h

/-- Settles O15: `createDone_read` and `reloadDone_read` tell the ends by what the descriptor's read answers. -/
theorem createAndReloadEnd : Obligations.CreateAndReloadEnd := by
  unfold Obligations.CreateAndReloadEnd
  refine ⟨fun n io s fn hm => ?_, fun bs => ?_⟩
  · intro s0 pa
    refine ⟨fun hidle => congrArg Host.Outcome.next (createDone_idle hidle), fun hn hc => ?_,
      fun hidle => congrArg Host.Outcome.next (reloadDone_idle hidle), fun hc => ?_⟩
    · have hread := createDone_read hm hn hc
      refine ⟨fun hr => ?_, fun bs u hr hd => ?_, fun bs u d hr hd hres => ?_, fun bs u d hr hd hres => ?_, fun hr => ?_⟩
      all_goals refine congrArg Host.Outcome.next (hread.trans ?_)
      · rw [readDescriptor_wait hr]
      · rw [readDescriptor_done hr]; simp only [hd]; rfl
      · rw [readDescriptor_done hr]; simp only [hd]; exact if_neg hres
      · rw [readDescriptor_done hr]; simp only [hd]; exact if_pos hres
      · rw [readDescriptor_failed hr]; rfl
    · intro pa0 ended
      refine ⟨fun hl => congrArg Host.Outcome.next (reloadDone_loads hm hc hl), fun hl => ?_⟩
      have hread := reloadDone_read hm hc hl
      refine ⟨fun hr => ?_, fun bs u hr hd => ?_, fun bs u d hr hd => ?_, fun hr => ?_⟩
      · exact congrArg Host.Outcome.next (hread.trans (by rw [readDescriptor_wait (fn := 0) (n := 0) (s := s0) hr]))
      · refine congrArg Host.Outcome.next (hread.trans ?_)
        rw [readDescriptor_done (fn := 0) (n := 0) (s := s0) hr]; simp only [hd]; rfl
      · intro v loads
        rw [readDescriptor_done (fn := 0) (n := 0) (s := s0) hr] at hread
        simp only [hd] at hread
        exact ⟨fun hno => congrArg Host.Outcome.next (hread.trans (if_pos hno)),
          fun hsome => congrArg Host.Outcome.next (hread.trans (if_neg hsome))⟩
      · refine congrArg Host.Outcome.next (hread.trans ?_)
        rw [readDescriptor_failed (fn := 0) (n := 0) (s := s0) hr]; rfl
  · intro root fq log2 vec flags
    refine ⟨descriptor_isSome bs, fun d hd => ?_⟩
    rw [descriptor_fields hd]
    exact ⟨rfl, rfl, rfl, rfl, rfl, rfl, rfl, rfl, rfl, rfl⟩

end Sys2Proof.Machine
end

section
/-! STOP_IN_PLACE (R58): a compression job of another context that is also torn down. -/

namespace Sys2Proof.Machine

open Sys2Proof

/-- A running op without units. -/
def runningOp : Op :=
  { opcode := 0x40, va := 0, len := 16, preds := [], mask := 1, phase := .running, status := 0, detail := 0, sticky := 0,
    skipped := false, reason := .aborted, rank := 0, spared := [], body := [], emask := 1, units := [], ending := none,
    fence := none, patches := [] }

/-- An entry of ring 0, with the ops given. -/
def entryOf (seq ctx : Nat) (ops : List Op) : Entry :=
  { ring := 0, seq, ctx, raw := [], phase := .running, edges := [], nwait := 0, ops, status := 0, opIndex := 0xFFFF,
    detail := 0, reason := .aborted, launch := none, tAcc := 0, tRun := 0 }

/-- Contexts 1 and 2 are ABORTING, each with an entry whose one op runs; that of context 2 is a compression job that
waits for a channel. -/
def twoAborting : State := { upState with
  mmu := { upState.mmu with ctxs := [(1, { Ctx.freeCtx with state := .aborting }), (2, { Ctx.freeCtx with state := .aborting })] }
  fe := { upState.fe with entries := [entryOf 1 1 [runningOp], entryOf 2 2 [runningOp]] }
  cmp := { upState.cmp with queue := [{ ring := 0, seq := 2, op := 0 }] } }

/-- Refutes O16: in `twoAborting`, STOP_IN_PLACE of context 1 discards an op and then sweeps the compression jobs, which
takes the entry of context 2 away. -/
theorem not_teardownStepsEnd : ¬ Obligations.TeardownStepsEnd := by
  unfold Obligations.TeardownStepsEnd
  intro h
  obtain ⟨-, -, hstop, -⟩ := h 1 twoAborting
  obtain ⟨t, ht, -, hkeep⟩ := hstop (by decide +kernel)
  have hruns : ∀ r ∈ twoAborting.tns.runs, inFlight twoAborting r.op := fun r hr => by cases hr
  obtain ⟨hentries, -⟩ := hkeep (by decide +kernel) (by decide +kernel) hruns (by decide +kernel)
  have hmem := (hentries (entryOf 2 2 [runningOp]) (by decide)).mpr (by decide +kernel)
  have htis : stopInPlaceDo 1 twoAborting = t := Host.Outcome.next.inj ht
  rw [← htis] at hmem
  exact absurd hmem (by decide +kernel)

end Sys2Proof.Machine
end

section
/-! APPLY of MMU_PLACE_CTL (R48, R297). -/

namespace Sys2Proof.Machine

open Sys2Proof

/-- The row of MMU_PLACE_CTL in the register map. -/
def placeCtlRow : RegDef := regRow 0x0D00 1 0x0 0x0 0x4 0x1 0x0 false false

theorem regAt_placeCtl : regAt .mmu 0xD00 = some (placeCtlRow, 0) := by decide

theorem blockAt_placeCtl : blockAt 0x070D00 = some (.mmu, 0xD00) := by decide

/-- A write of MMU_PLACE_CTL that lands at once. -/
theorem regWrite4_placeCtl {s : State} (v : Word) (hq : quiet s 0) :
    regWrite4 0 0x070D00 v s = placeEffect (winWrite 0 .primary 0x070D00 placeCtlRow v s) s := by
  have h := regWrite4_win_open (fn := 0) (b := .mmu) .primary v hq regAt_placeCtl (by decide) (by decide) (.inl rfl) rfl rfl
  rw [regEffect, mmuEffect, if_neg (by decide), if_neg (by decide), if_neg (by decide), if_pos (by decide)] at h
  exact h

theorem bit_apply (v : Word) : bit (v ||| 1).toNat 0 = true := by
  have hone : (1 : Word).toNat.testBit 0 = true := by decide
  rw [bit, ← Nat.testBit_eq_decide_div_mod_eq, BitVec.toNat_or, Nat.testBit_or, hone, Bool.or_true]

/-- What APPLY leaves of the W1C bit. -/
theorem w1c_placeCtl (v : Word) : (v ||| 1) &&& (4 : Word) = v &&& 4 := by
  have hbits : (1 : Word) &&& 4 = 0 := by decide
  rw [BitVec.and_comm, BitVec.and_or_distrib_left, BitVec.and_comm 4 v, BitVec.and_comm 4 1, hbits]
  exact BitVec.or_zero

/-- An APPLY: the table is locked if it is open and valid, refused if it is open and not. -/
theorem exec_placeApply {s : State} (v : Word) (hq : quiet s 0) :
    exec (.placeApply 0 v) s = .next (
      if s.mem.locked = false ∧ (placeValid s && fbcValidTable s) = false then
        s.setRaw 0 0x070D00 ((s.raw 0 0x070D00 &&& ~~~(v &&& 4)) ||| 4)
      else if s.mem.locked = false then
        { s.setRaw 0 0x070D00 (s.raw 0 0x070D00 &&& ~~~(v &&& 4)) with mem := { s.mem with locked := true } }
      else s.setRaw 0 0x070D00 (s.raw 0 0x070D00 &&& ~~~(v &&& 4))) := by
  refine congrArg Host.Outcome.next ((regWrite4_placeCtl (v ||| 1) hq).trans ?_)
  have hw1c : (winWrite 0 .primary 0x070D00 placeCtlRow (v ||| 1) s).w1c = v &&& 4 := w1c_placeCtl v
  have happly : bit (winWrite 0 .primary 0x070D00 placeCtlRow (v ||| 1) s).val.toNat 0 = true := bit_apply v
  simp only [placeEffect, happly, clearWr, refuseWr, hw1c]
  cases s.mem.locked <;> cases placeValid s <;> cases fbcValidTable s <;> rfl

theorem placeFormed_of_valid {s : State} {g : Nat} (hv : placeValid s = true) (hg : g < (if s.unit.degraded then 128 else 256)) :
    placeFormed s (placeRaw s g) = true := by
  simp only [placeValid, Bool.and_eq_true, List.all_eq_true] at hv
  obtain ⟨⟨⟨⟨hall, -⟩, -⟩, -⟩, -⟩ := hv
  exact hall _ (List.mem_map_of_mem (List.mem_range.mpr hg))

/-- What R48 asks of an entry, class by class. -/
theorem placeFormed_spec {s : State} {e : Nat} (h : placeFormed s e = true) :
    bit e 5 = false ∧ (entryClass e = 0 ∨ entryClass e = 3 → entryTarget e = 0) ∧
      (entryClass e = 1 → entryTarget e ≤ 1 ∧ s.diePresent (entryTarget e) = true) ∧
      (entryClass e = 2 → s.diePresent (entryTarget e / 16) = true) := by
  simp only [placeFormed, Bool.and_eq_true, Bool.not_eq_true'] at h
  obtain ⟨h5, hclass⟩ := h
  refine ⟨h5, ?_, fun hc => ?_, fun hc => ?_⟩
  · rintro (hc | hc) <;> simpa [hc] using hclass
  · simpa [hc] using hclass
  · simpa [hc] using hclass

/-- Settles O18: APPLY is `exec_placeApply`, and a valid table's entries are `placeFormed`. -/
theorem placementApply : Obligations.PlacementApply := by
  unfold Obligations.PlacementApply
  refine ⟨fun v s hq => ?_, fun s g hv hg => placeFormed_spec (placeFormed_of_valid hv hg), fun fn v s hq h0 => ?_⟩
  · intro kept
    rw [exec_placeApply v hq]
    refine ⟨fun hl hp hf => ?_, fun hl hbad => ?_, fun hl => ?_⟩
    · rw [hl, hp, hf]; rfl
    · have hno : (placeValid s && fbcValidTable s) = false := by rcases hbad with h | h <;> simp [h]
      rw [hl, hno]; rfl
    · rw [hl]; rfl
  · exact congrArg Host.Outcome.next
      (regWrite4_rowless _ hq h0 blockAt_placeCtl regAt_placeCtl rfl (by decide) (by decide))

end Sys2Proof.Machine
end

section
/-! Translations at use, and the ends of walks (R45, R52, R337). -/

namespace Sys2Proof.Machine

open Sys2Proof

/-- Queued walks start, in a state whose MMU is not halted. -/
theorem promoteWalks_running {s : State} (hm : s.reg.mismatch = []) :
    promoteWalks s = { s with mmu := { s.mmu with
      walks := s.mmu.walks ++ (walkOrder s.mmu.queue).take (32 - s.mmu.walks.length)
      queue := (walkOrder s.mmu.queue).drop (32 - s.mmu.walks.length) } } := by
  rw [promoteWalks, halted_of_nil hm, if_neg (by decide)]; rfl

section
variable {m ctx va : Nat} {acc : Access} {who : Requester} {s : State}

theorem translateLate_none (h : mayIssue s m ctx = false) : translateLate m ctx va acc who s = s := by
  rw [translateLate, h]; rfl

theorem translateLate_range (h : mayIssue s m ctx = true) (hva : 2 ^ 48 ≤ va) :
    translateLate m ctx va acc who s = lateFault who m ctx (.mk' .vaRange 0xFF 0) va acc s := by
  rw [translateLate, h, if_neg (by decide), if_pos hva]

theorem translateLate_hit {t : TlbEntry} (h : mayIssue s m ctx = true) (hva : va < 2 ^ 48) (ht : tlbLookup s m ctx va = some t) :
    translateLate m ctx va acc who s = match leafCheck (installU m t s) ctx va acc t.leaf with
      | some f => lateFault who m ctx f va acc (installU m t s)
      | none => installU m t s := by
  rw [translateLate, h, if_neg (by decide), if_neg (by omega), ht] <;> rfl

theorem translateLate_miss (h : mayIssue s m ctx = true) (hva : va < 2 ^ 48) (ht : tlbLookup s m ctx va = none) :
    translateLate m ctx va acc who s = promoteWalks (s.onMmu fun x =>
      { x with walkId := x.walkId + 1, queue := x.queue ++ [{ id := s.mmu.walkId, master := m, ctx, va, acc, who }] }) := by
  rw [translateLate, h, if_neg (by decide), if_neg (by omega), ht]

end

/-! ## The end of a walk -/

/-- A walk leaves, and queued ones start. -/
def walkOver (id : Nat) (u : State) : State :=
  let ws := u.mmu.walks.filter fun v => decide (v.id ≠ id)
  let q := walkOrder u.mmu.queue
  { u with mmu := { u.mmu with walks := ws ++ q.take (32 - ws.length), queue := q.drop (32 - ws.length) } }

theorem promoteWalks_over {id : Nat} {u : State} (hm : u.reg.mismatch = []) :
    promoteWalks (u.onMmu fun x => { x with walks := x.walks.filter fun v => decide (v.id ≠ id) }) = walkOver id u :=
  promoteWalks_running (s := u.onMmu fun x => { x with walks := x.walks.filter fun v => decide (v.id ≠ id) }) hm

/-- The TLBs that keep a walk's leaf. -/
def leafKept (master : Nat) (t : TlbEntry) (u : State) : State := match masterDie master with
  | some d => installD d t (installU master t u)
  | none => installU master t u

section
variable {id : Nat} {io : HostIO} {s : State} {w : Walk}

theorem walkEnd_none (h : (applyIO io s).mmu.walks.find? (fun w => decide (w.id = id)) = none) :
    walkEnd id io s = applyIO io s := by
  simp only [walkEnd, h]

/-- A walk's end, by what its tables say. -/
theorem walkEnd_some (h : (applyIO io s).mmu.walks.find? (fun w => decide (w.id = id)) = some w) :
    walkEnd id io s =
      let drop := fun (s : State) => promoteWalks (s.onMmu fun x => { x with walks := x.walks.filter fun v => decide (v.id ≠ id) })
      if mayIssue (applyIO io s) w.master w.ctx = false then drop (applyIO io s)
      else match walkVa w.ctx w.va (applyIO io s) with
        | .wait u => u
        | .severed u => drop (lateSevered w.who w.master u)
        | .fault f u => drop (lateFault w.who w.master w.ctx f w.va w.acc u)
        | .ok l u =>
          let v := leafKept w.master { ctx := w.ctx, leaf := l } u
          drop (match leafCheck v w.ctx w.va w.acc l with
            | some f => lateFault w.who w.master w.ctx f w.va w.acc v
            | none => v) := by
  simp only [walkEnd, h, leafKept, Bool.not_eq_true'] <;> rfl

end

theorem leafKept_eq (master : Nat) (t : TlbEntry) (u : State) : leafKept master t u = { u with mmu := { u.mmu with
    utlb := tblSet [] u.mmu.utlb master (tlbAdd (utlbSize master) t (tblGet [] u.mmu.utlb master))
    dtlb := match masterDie master with
      | some d => tblSet [] u.mmu.dtlb d (tlbAdd dtlbSize t (tblGet [] u.mmu.dtlb d))
      | none => u.mmu.dtlb } } := by
  unfold leafKept
  cases masterDie master <;> rfl

theorem walkOrder_eq (q : List Walk) : walkOrder q =
    q.filter (fun w => decide (0x6C ≤ w.master ∧ w.master < 0x70)) ++ q.filter fun w => decide (¬ (0x6C ≤ w.master ∧ w.master < 0x70)) := by
  simp only [walkOrder, Bool.decide_and, decide_not]

/-- Settles O19: `translateLate_hit` and `translateLate_miss` tell a translation, `walkEnd_some` the end of a walk. -/
theorem translationsHitOrWalk : Obligations.TranslationsHitOrWalk := by
  unfold Obligations.TranslationsHitOrWalk
  refine ⟨fun m ctx va acc who s => ⟨fun h => ?_, fun h hva => ?_, fun h hva => ⟨fun t ht => ?_, fun ht hm => ?_⟩⟩,
    fun id io s => ?_, walkOrder_eq⟩
  · exact congrArg Host.Outcome.next (translateLate_none h)
  · exact congrArg Host.Outcome.next (translateLate_range h hva)
  · intro u
    have hhit := translateLate_hit (acc := acc) (who := who) h hva ht
    refine ⟨fun hok => congrArg Host.Outcome.next (hhit.trans ?_), fun f hf => congrArg Host.Outcome.next (hhit.trans ?_)⟩
    · rw [show leafCheck (installU m.val t s) ctx.val va.toNat acc t.leaf = none from hok]; rfl
    · rw [show leafCheck (installU m.val t s) ctx.val va.toNat acc t.leaf = some f from hf]; rfl
  · intro w q k
    exact congrArg Host.Outcome.next ((translateLate_miss h hva ht).trans (promoteWalks_running hm))
  · intro s0 ended
    refine ⟨fun h => congrArg Host.Outcome.next (walkEnd_none h), fun w h hm => ?_⟩
    have hend := walkEnd_some h
    refine ⟨fun hno => congrArg Host.Outcome.next (hend.trans ?_), fun hmay => ⟨fun u hw => congrArg Host.Outcome.next (hend.trans ?_),
      fun f u hw hu => congrArg Host.Outcome.next (hend.trans ?_), fun l u hw hu => ?_⟩⟩
    · exact (if_pos hno).trans (promoteWalks_over (mismatch_applyIO hm))
    all_goals have hrun : ¬ mayIssue (applyIO io s) w.master w.ctx = false := by rw [show mayIssue (applyIO io s) w.master w.ctx = true from hmay]; decide
    · refine (if_neg hrun).trans ?_
      rw [show walkVa w.ctx w.va (applyIO io s) = .wait u from hw]
    · refine (if_neg hrun).trans ?_
      rw [show walkVa w.ctx w.va (applyIO io s) = .fault f u from hw]
      exact promoteWalks_over hu
    · intro entry v
      have hv : leafKept w.master entry u = v := leafKept_eq w.master entry u
      have hok := hend.trans (if_neg hrun)
      rw [show walkVa w.ctx w.va (applyIO io s) = .ok l u from hw] at hok
      dsimp only at hok
      rw [show leafKept w.master { ctx := w.ctx, leaf := l } u = v from hv] at hok
      refine ⟨fun hc => congrArg Host.Outcome.next (hok.trans ?_), fun f hc hf => congrArg Host.Outcome.next (hok.trans ?_)⟩
      · rw [hc]; exact promoteWalks_over hu
      · rw [hc]; exact promoteWalks_over hf

end Sys2Proof.Machine
end

section
/-! Ring commands, their ends, and a ring's parity error (R64 to R66, R92, R96). -/

namespace Sys2Proof.Machine

open Sys2Proof

/-! ## Commands -/

/-- A ring command that lands at once: RANGE, then STATE while one is in progress, then the command's own rule. -/
theorem ringCommand_quiet {fn : Nat} {s : State} (op : Nat) (f : Nat → State → State) (hq : quiet s fn) :
    ringCommand fn op f s =
      if fnHasRing s fn (ringSelected s fn) = false then ringResult fn resRange s
      else if (s.ring (ringSelected s fn)).cmd.isSome = true then ringResult fn resState s else f (ringSelected s fn) s := by
  obtain ⟨ho, ha, _⟩ := hq
  simp only [ringCommand]
  rw [ho, if_neg (by decide), hostWrite_awake ha]
  simp only [Bool.not_eq_true']

section
variable {fn op : Nat} {f : Nat → State → State} {s : State}

theorem ringCommand_range (hq : quiet s fn) (h : fnHasRing s fn (ringSelected s fn) = false) :
    ringCommand fn op f s = ringResult fn resRange s := by
  rw [ringCommand_quiet op f hq, if_pos h]

theorem ringCommand_busy (hq : quiet s fn) (h : fnHasRing s fn (ringSelected s fn) = true)
    (hc : (s.ring (ringSelected s fn)).cmd.isSome = true) : ringCommand fn op f s = ringResult fn resState s := by
  rw [ringCommand_quiet op f hq, h, if_neg (by decide), if_pos hc]

theorem ringCommand_own (hq : quiet s fn) (h : fnHasRing s fn (ringSelected s fn) = true)
    (hc : (s.ring (ringSelected s fn)).cmd = none) : ringCommand fn op f s = f (ringSelected s fn) s := by
  rw [ringCommand_quiet op f hq, h, if_neg (by decide), hc, if_neg (by decide)]

end

/-- The staged registers fail R65 check 1. -/
def stagedBad (fn : Nat) (s : State) : Prop :=
  5 < bits (s.raw fn 0x060014).toNat 2 0 ∨ bits (s.raw fn 0x060014).toNat 10 6 < 4 ∨ 16 < bits (s.raw fn 0x060014).toNat 10 6 ∨
    bits (s.raw fn 0x060014).toNat 31 21 = 0 ∨ s.rawBase fn 0x060004 0x060008 < 2 ^ 48 ∨ s.rawBase fn 0x06000C 0x060010 < 2 ^ 48

section
variable {fn r : Nat} {s : State}

theorem enableDo_state (h : (s.ring r).state ≠ .disabled) : enableDo fn r s = ringResult fn resState s := if_pos h

theorem enableDo_bad (h : (s.ring r).state = .disabled) (hb : stagedBad fn s) : enableDo fn r s = ringResult fn resBadRecord s := by
  simp only [enableDo]
  rw [if_neg (not_not_intro h)]
  exact if_pos hb

theorem enableDo_good (h : (s.ring r).state = .disabled) (hb : ¬ stagedBad fn s) :
    enableDo fn r s =
      let cfg := (s.raw fn 0x060014).toNat
      if fnHasCtx s fn (bits cfg 20 12) = false then ringResult fn resRange s
      else if (s.ctx (bits cfg 20 12)).state ≠ .active then ringResult fn resState s
      else s.setRing r { s.ring r with
        base := s.rawBase fn 0x060004 0x060008, rcb := s.rawBase fn 0x06000C 0x060010, type := bits cfg 2 0,
        prio := bits cfg 5 3, log2 := bits cfg 10 6, pollIdle := bit cfg 11, ctx := bits cfg 20 12,
        vector := bits cfg 31 21, cmd := some (.enable fn) } := by
  simp only [enableDo]
  rw [if_neg (not_not_intro h)]
  refine (if_neg hb).trans ?_
  simp only [Bool.not_eq_true']

end

/-! ## Ends of ENABLE and DISABLE -/

theorem enableDone_idle {r : Nat} {io : HostIO} {s : State} (h : ∀ f, ((applyIO io s).ring r).cmd ≠ some (.enable f)) :
    enableDone r io s = applyIO io s := by
  unfold enableDone
  dsimp only
  split
  · rename_i f hf; exact absurd hf (h f)
  · rfl

theorem disableDone_idle {r : Nat} {s : State} (h : ∀ f, (s.ring r).cmd ≠ some (.disable f)) : disableDone r s = s := by
  unfold disableDone
  dsimp only
  split
  · rename_i f hf; exact absurd hf (h f)
  · rfl

/-- The ring that an ENABLE leaves: idle, at the count that its control block holds. -/
def enabledRing (x : Ring) (c : Quad) (u : State) : Ring :=
  { x with
    state := .idle, halt := 0, prod := c, cons := c, completed := c, done := [], dup := 0, compLost := 0, cmd := none
    reads := if (u.ctx x.ctx).state = .active then [.enable] else []
    dupWait := false
    limit := if (u.ctx x.ctx).state = .draining then some c else none
    stopped := decide ((u.ctx x.ctx).state ≠ .active ∧ (u.ctx x.ctx).state ≠ .draining)
    lastPoll := u.time }

/-- How an ENABLE in progress ends by what the read of the control block answers: x is the ring, z the state while it waits. -/
def enableEnd (r fn : Nat) (x : Ring) (z : State) : Dev (List Byte × State) → State
  | .wait => z
  | .failed => ringEnd fn r resFetch (feReadFailed r x.rcb z)
  | .done (bs, u) =>
    if zeros bs 8 56 = false then ringEnd fn r resBadRecord u
    else
      let c := q64 (fld bs 64 8)
      let v := u.setRing r (enabledRing x c u)
      ringResult fn resOk
        ((devWrite (x.rcb + 64) (natLe 8 c.toNat ++ natLe 8 c.toNat ++ natLe 4 3 ++ List.replicate 44 0) v).getD v)

theorem enableDone_some {r fn : Nat} {io : HostIO} {s : State} (h : ((applyIO io s).ring r).cmd = some (.enable fn)) :
    enableDone r io s = enableEnd r fn ((applyIO io s).ring r) (applyIO io s)
      (devRead ((applyIO io s).ring r).rcb 72 (applyIO io s)) := by
  have hstopped (u : State) (n : Nat) :
      (!ctxRuns u n) = decide ((u.ctx n).state ≠ .active ∧ (u.ctx n).state ≠ .draining) := by
    unfold ctxRuns
    cases (u.ctx n).state <;> rfl
  simp only [enableDone, h, Bool.not_eq_true', hstopped]
  cases devRead ((applyIO io s).ring r).rcb 72 (applyIO io s) <;> rfl

theorem disableDone_some {r fn : Nat} {s : State} (h : (s.ring r).cmd = some (.disable fn)) :
    disableDone r s = ringResult fn resOk (ringTo r .disabled
      ((deadEdges r (rcbConsumer r s)).setRing r { s.ring r with cmd := none, reads := [], limit := none, dupWait := false })) := by
  simp only [disableDone, h]

/-! ## Halting a ring -/

/-- A RING_SEQ edge beyond what ring r has accepted can no longer be satisfied. -/
def deadEdge (r : Nat) (cons : Quad) (w : Edge) : Edge :=
  if w.kind = 1 ∧ w.object = r ∧ cons < w.value then { w with dead := true } else w

theorem deadEdges_eq (r : Nat) (s : State) : deadEdges r s = { s with fe := { s.fe with
    entries := s.fe.entries.map fun e => { e with edges := e.edges.map (deadEdge r (s.ring r).cons) } } } := by
  have hmap (l : List Edge) : mapIf (fun w => decide (w.kind = 1) && decide (w.object = r) && decide ((s.ring r).cons < w.value))
      (fun w => { w with dead := true }) l = l.map (deadEdge r (s.ring r).cons) := by
    refine List.map_congr_left fun w _ => ?_
    simp only [deadEdge, Bool.and_eq_true, decide_eq_true_eq, and_assoc]
  simp only [deadEdges, hmap]
  rfl

/-- A ring and its edges as a halt leaves them, before the control block is written. -/
def haltMarked (r code : Nat) (s : State) : State := { s with fe := { s.fe with
  rings := tblSet Ring.off s.fe.rings r { s.ring r with state := .halted, halt := code, reads := [], dupWait := false }
  entries := s.fe.entries.map fun e => { e with edges := e.edges.map (deadEdge r (s.ring r).cons) } } }

theorem deadEdges_halted (r code : Nat) (s : State) :
    deadEdges r (s.setRing r { s.ring r with state := .halted, halt := code, reads := [], dupWait := false }) = haltMarked r code s := by
  rw [deadEdges_eq, ring_setRing]; rfl

theorem haltRing_eq (r : RingId) (code : Nat) (s : State) :
    haltRing r.val code s =
      let u := rcbWrite r.val 84 2 code (rcbWrite r.val 80 4 4 (haltMarked r.val code s))
      raiseVec (.ring r) (fnOfRing u r.val) (s.ring r.val).vector u := by
  simp only [haltRing, deadEdges_halted, r.isLt, dif_pos]
  rfl

theorem rcbWrite_mo {z s : State} (r off n v : Nat) (h : MemOnly z s) : MemOnly z (rcbWrite r off n v s) := devWriteD_mo _ _ h

/-- Out of Chrysalis, a halt's writes of the control block change memory only. -/
theorem haltWrites_mo (r code : Nat) {s : State} (h : inS3 s = false) :
    MemOnly (haltMarked r code s) (rcbWrite r 84 2 code (rcbWrite r 80 4 4 (haltMarked r code s))) :=
  rcbWrite_mo _ _ _ _ (rcbWrite_mo _ _ _ _ (MemOnly.refl h))

theorem inS3_of_awake {s : State} (h : awake s = true) : inS3 s = false := by
  have hs : s.pwr.sleep = .s0 := by simpa [awake] using h
  simp [inS3, hs]

/-- A vector's raise changes the group of BAR0's registers only, and neither a stored field nor a mismatch. -/
theorem deliver_reg (fn vec : Nat) (s : State) :
    ∃ g, deliver fn vec s = { s with reg := g } ∧ g.regs = s.reg.regs ∧ g.mismatch = s.reg.mismatch := by
  unfold deliver
  dsimp only
  split <;> exact ⟨_, rfl, rfl, rfl⟩

theorem raiseVec_reg (src : VecSource) (fn vec : Nat) (s : State) :
    ∃ g, raiseVec src fn vec s = { s with reg := g } ∧ g.regs = s.reg.regs ∧ g.mismatch = s.reg.mismatch := by
  have via (u : State) (hu : ∃ g, u = { s with reg := g } ∧ g.regs = s.reg.regs ∧ g.mismatch = s.reg.mismatch) :
      ∃ g, deliver fn vec u = { s with reg := g } ∧ g.regs = s.reg.regs ∧ g.mismatch = s.reg.mismatch := by
    obtain ⟨g, rfl, hr, hm⟩ := hu
    obtain ⟨g', hg', hr', hm'⟩ := deliver_reg fn vec { s with reg := g }
    exact ⟨g', hg', hr'.trans hr, hm'.trans hm⟩
  unfold raiseVec
  split
  · exact ⟨s.reg, rfl, rfl, rfl⟩
  · unfold raiseSrc
    split
    · exact via _ ⟨_, rfl, rfl, rfl⟩
    · split
      · exact ⟨_, rfl, rfl, rfl⟩
      · exact via _ ⟨_, rfl, rfl, rfl⟩

/-- Settles O20: a command is `ringCommand`'s three cases, ENABLE ends by `enableDone_some`, and a halt is `haltRing_eq`. -/
theorem ringCommandsFollowTheirStates : Obligations.RingCommandsFollowTheirStates := by
  unfold Obligations.RingCommandsFollowTheirStates
  refine ⟨?_, ?_, ?_⟩
  · intro fn s hq r x cfg base rcb ctx bad answer
    refine ⟨fun h => ⟨?_, ?_, ?_⟩, fun h hc => ⟨?_, ?_, ?_⟩, fun h hc => ⟨?_, ?_, fun hst => ?_, fun hst hb => ?_, fun hst hb hctx => ?_,
      fun hst hb hctx hact => ?_, fun hst hb hctx hact => ?_⟩⟩
    all_goals refine congrArg Host.Outcome.next ?_
    iterate 3 exact ringCommand_range hq h
    iterate 3 exact ringCommand_busy hq h hc
    all_goals rw [ringCommand_own hq h hc]
    · rfl
    · rfl
    · exact enableDo_state hst
    · exact enableDo_bad hst hb
    all_goals rw [enableDo_good hst hb]
    · exact if_pos hctx
    all_goals have hhas : ¬ fnHasCtx s fn.val (bits (s.raw fn.val 0x060014).toNat 20 12) = false := fun hno => by
                rw [show fnHasCtx s fn.val (bits (s.raw fn.val 0x060014).toNat 20 12) = true from hctx] at hno; cases hno
    · exact (if_neg hhas).trans (if_pos hact)
    · exact (if_neg hhas).trans (if_neg (not_not_intro hact))
  · intro r io s fn s0 x answer
    refine ⟨fun h => congrArg Host.Outcome.next (enableDone_idle h), fun hc => ?_,
      fun h => congrArg Host.Outcome.next (disableDone_idle h), fun hc => congrArg Host.Outcome.next (disableDone_some hc),
      fun hst => congrArg Host.Outcome.next (if_pos hst), fun hst => congrArg Host.Outcome.next (if_neg hst)⟩
    have hend := enableDone_some hc
    refine ⟨fun hr => congrArg Host.Outcome.next (hend.trans ?_), fun hr hl => congrArg Host.Outcome.next (hend.trans ?_),
      fun bs u hr hz => congrArg Host.Outcome.next (hend.trans ?_), fun bs u hr hz => congrArg Host.Outcome.next (hend.trans ?_)⟩
    · rw [show devRead ((applyIO io s).ring r.val).rcb 72 (applyIO io s) = .wait from hr]; rfl
    · rw [show devRead ((applyIO io s).ring r.val).rcb 72 (applyIO io s) = .failed from hr]
      have hplain : feReadFailed r.val x.rcb s0 = s0 := by rw [feReadFailed, hl]; rfl
      exact congrArg (ringEnd fn r.val resFetch) hplain
    · rw [show devRead ((applyIO io s).ring r.val).rcb 72 (applyIO io s) = .done (bs, u) from hr]
      exact if_pos hz
    · rw [show devRead ((applyIO io s).ring r.val).rcb 72 (applyIO io s) = .done (bs, u) from hr]
      exact if_neg (by rw [hz]; decide)
  · intro r code s x dead edges
    refine ⟨deadEdges_eq r.val s, ?_⟩
    intro u
    refine ⟨haltRing_eq r code s, fun ha => ?_, fun fn vec v => raiseVec_reg _ fn vec v, fun off n k v => rfl⟩
    obtain ⟨-, ⟨m, hm⟩, -⟩ := haltWrites_mo r.val code (inS3_of_awake ha)
    have hu : u = { haltMarked r.val code s with mem := m } := hm
    rw [hu]
    exact ⟨m, rfl, rfl⟩

end Sys2Proof.Machine
end

section
/-! Producer counts (R58, R74 to R78). -/

namespace Sys2Proof.Machine

open Sys2Proof

section
variable {r : Nat} {v : Quad} {s : State}

theorem newCount_ignored (h : v ≤ (s.ring r).prod ∨ (s.ring r).limit.isSome = true) : newCount r v s = s := if_pos h

/-- A count that is greater than the last, at a ring without a limit. -/
theorem newCount_greater (hv : (s.ring r).prod < v) (hl : (s.ring r).limit = none) :
    newCount r v s =
      if 2 ^ (s.ring r).log2 < (v - (s.ring r).cons).toNat then haltRing r 0x21 s
      else
        let t := s.setRing r { s.ring r with prod := v, dupWait := false }
        if (s.ring r).state = .idle then ringTo r .fetching t else t := by
  have hno : ¬ (v ≤ (s.ring r).prod ∨ (s.ring r).limit.isSome = true) := by
    rintro (hle | hsome)
    · exact absurd hv (BitVec.not_lt.mpr hle)
    · rw [hl] at hsome; cases hsome
  exact if_neg hno

end

theorem nudgeDo_ignored {fn r off size : Nat} {v : Quad} {s : State} (h : off ≠ 0 ∨ size ≠ 8 ∨ barOpen s fn = false) :
    nudgeDo fn r off size v s = s := if_pos (by simpa using h)

theorem nudgeDo_lands {fn r : Nat} {v : Quad} {s : State} (hq : quiet s fn) :
    nudgeDo fn r 0 8 v s = if fnHasRing s fn r = true ∧ takesNudges s (s.ring r) = true then newCount r v s else s := by
  obtain ⟨ho, ha, _⟩ := hq
  rw [nudgeDo, if_neg (by simp [ho]), hostWrite_awake ha]

/-! ## Reads of DOORBELL -/

section
variable {r : Nat} {io : HostIO} {s : State}

theorem doorbellDo_none (h : ((applyIO io s).ring r).reads = []) : doorbellDo r io s = applyIO io s := by
  simp only [doorbellDo, h]

/-- The state once the oldest read outstanding is taken. -/
def readTaken (r : Nat) (rest : List DoorbellRead) (s : State) : State := s.setRing r { s.ring r with reads := rest }

/-- How an idle check ends, once its count has arrived. -/
def idleChecked (r : Nat) (t : State) : State :=
  if (t.ring r).state = .idlePending then
    if (t.ring r).cons < (t.ring r).prod ∧ (t.ring r).dupWait = false then ringTo r .fetching t else ringTo r .idle t
  else t

/-- How a drain's read ends, once its count has arrived. -/
def drainRead (r : Nat) (t : State) : State :=
  if (t.ring r).state = .halted then t
  else
    let l := t.setRing r { t.ring r with limit := some (t.ring r).prod }
    if (t.ring r).cons < (t.ring r).prod then ringTo r .fetching l else ringTo r .idle (rcbConsumer r l)

/-- How a read of DOORBELL of a kind ends, by what it answers: z is the state while it waits, s1 the one in which it is
taken, x the ring before. -/
def doorbellEnd (r : Nat) (x : Ring) (z s1 : State) : Dev (List Byte × State) → DoorbellRead → State
  | .wait, _ => z
  | .failed, .drain =>
    let t := s1.setRing r { s1.ring r with limit := some x.prod }
    if x.cons < x.prod then t else ringTo r .idle (rcbConsumer r t)
  | .failed, _ => if x.state = .halted then s1 else haltRing r 0x22 (feReadFailed r x.rcb s1)
  | .done (bs, u), .drain => drainRead r (newCount r (q64 (leNat bs)) u)
  | .done (bs, u), .idleCheck => idleChecked r (newCount r (q64 (leNat bs)) u)
  | .done (bs, u), _ => newCount r (q64 (leNat bs)) u

/-- A read that returns takes the oldest one outstanding, and ends by its kind. -/
theorem doorbellDo_some {k : DoorbellRead} {rest : List DoorbellRead} (h : ((applyIO io s).ring r).reads = k :: rest) :
    doorbellDo r io s = doorbellEnd r ((applyIO io s).ring r) (applyIO io s) (readTaken r rest (applyIO io s))
      (devRead ((applyIO io s).ring r).rcb 8 (readTaken r rest (applyIO io s))) k := by
  simp only [doorbellDo, h, readTaken, Bool.not_eq_true']
  cases devRead ((applyIO io s).ring r).rcb 8 ((applyIO io s).setRing r { (applyIO io s).ring r with reads := rest }) <;>
    cases k <;> rfl

end

/-- Settles O21: `newCount_greater` judges a count, `doorbellDo_some` tells how a read of DOORBELL ends. -/
theorem producerCountsArrive : Obligations.ProducerCountsArrive := by
  unfold Obligations.ProducerCountsArrive
  refine ⟨fun fn r off size v s h => congrArg Host.Outcome.next (nudgeDo_ignored h),
    fun fn r v s hq => congrArg Host.Outcome.next (nudgeDo_lands hq), fun r v s => ?_, fun r t s => ?_, fun r io s => ?_⟩
  · intro x
    refine ⟨newCount_ignored, fun hv hl hfar => ?_, fun hv hl hnear hst => ?_, fun hv hl hnear hst => ?_⟩
    all_goals rw [newCount_greater hv hl]
    · exact if_pos hfar
    · exact (if_neg (Nat.not_lt.mpr hnear)).trans (if_neg hst)
    · exact (if_neg (Nat.not_lt.mpr hnear)).trans (if_pos hst)
  · intro u x polled
    refine congrArg Host.Outcome.next (if_congr (and_congr_left' ?_) rfl rfl)
    simp only [Bool.or_eq_true, Bool.and_eq_true, decide_eq_true_eq, or_assoc]
    exact Iff.rfl
  · intro s0 x
    refine ⟨fun h => congrArg Host.Outcome.next (doorbellDo_none h), fun k rest h => ?_⟩
    intro s1
    have hend := doorbellDo_some h
    refine ⟨fun hr => congrArg Host.Outcome.next (hend.trans ?_), fun hr hk => congrArg Host.Outcome.next (hend.trans ?_),
      fun hr hk => congrArg Host.Outcome.next (hend.trans ?_), fun bs u hr => ?_⟩
    · rw [show devRead ((applyIO io s).ring r.val).rcb 8 (readTaken r.val rest (applyIO io s)) = .wait from hr]; rfl
    · rw [show devRead ((applyIO io s).ring r.val).rcb 8 (readTaken r.val rest (applyIO io s)) = .failed from hr]
      cases k with
      | drain => exact absurd rfl hk
      | poll | enable | idleCheck => rfl
    · rw [show devRead ((applyIO io s).ring r.val).rcb 8 (readTaken r.val rest (applyIO io s)) = .failed from hr, hk]; rfl
    · intro t y l
      rw [show devRead ((applyIO io s).ring r.val).rcb 8 (readTaken r.val rest (applyIO io s)) = .done (bs, u) from hr] at hend
      refine ⟨fun hk => ?_, fun hk hst => ?_, fun hk hst => ?_, fun hk hst => ?_, fun hk hst => ?_⟩
      · rcases hk with rfl | rfl <;> exact congrArg Host.Outcome.next hend
      all_goals subst hk
      all_goals refine congrArg Host.Outcome.next (hend.trans ?_)
      · exact if_neg hst
      · exact if_pos hst
      · exact if_pos hst
      · exact if_neg hst

end Sys2Proof.Machine
end

section
/-! Fetching and acceptance of ring entries (R58, R67, R69, R76 to R78, R82, R92, R485). -/

namespace Sys2Proof.Machine

open Sys2Proof

/-! ## A fetch read -/

/-- The producer count, or a drain's limit, up to which a ring fetches. -/
def fetchBound (x : Ring) : Quad := x.limit.getD x.prod

/-- A ring's context lets it fetch. -/
def ctxFetches (s : State) (x : Ring) : Prop :=
  (s.ctx x.ctx).state = .active ∨ ((s.ctx x.ctx).state = .draining ∧ x.limit.isSome = true)

/-- A ring fetches: R76 and R67. -/
def mayFetch (s : State) (x : Ring) : Prop :=
  x.state = .fetching ∧ x.stopped = false ∧ x.cmd = none ∧ x.dupWait = false ∧ ctxFetches s x ∧ x.cons < fetchBound x

/-- The slots of one fetch read: at most eight, and not past the ring's end. -/
def fetchLength (x : Ring) : Nat :=
  Nat.min 8 (Nat.min (fetchBound x - x.cons).toNat (2 ^ x.log2 - x.cons.toNat % 2 ^ x.log2))

/-- What follows the slots of a fetch read: x is the ring before them, t the state after. -/
def fetchEnd (r : Nat) (x : Ring) (t : State) : State :=
  let y := t.ring r
  let u := rcbConsumer r t
  if y.state ≠ .fetching then t
  else if y.dupWait = true then (if x.limit.isSome = true then u else idleCheck r u)
  else if y.cons = fetchBound x then (if x.limit.isSome = true then ringTo r .idle u else idleCheck r u)
  else u

section
variable {r : Nat} {io : HostIO} {s : State}

theorem fetchDo_idle (hm : s.reg.mismatch = []) (h : ¬ mayFetch (applyIO io s) ((applyIO io s).ring r)) :
    fetchDo r io s = applyIO io s := by
  have hfe := halted_of_nil (mismatch_applyIO (io := io) hm) .fe
  simp only [mayFetch, ctxFetches, fetchBound] at h
  cases hl : ((applyIO io s).ring r).limit <;> rw [hl] at h <;> simp only [fetchDo, hfe, hl] <;> refine if_neg fun hmay => h ?_ <;>
    simpa only [Option.getD_none, Option.getD_some, Bool.and_eq_true, Bool.or_eq_true, decide_eq_true_eq, Bool.not_eq_true',
      Option.isNone_iff_eq_none, Bool.not_false, and_true, and_assoc] using hmay

theorem fetchDo_runs (hm : s.reg.mismatch = []) (h : mayFetch (applyIO io s) ((applyIO io s).ring r)) :
    fetchDo r io s = fetchEnd r ((applyIO io s).ring r) (fetchSlots r (fetchLength ((applyIO io s).ring r)) (applyIO io s)) := by
  have hfe := halted_of_nil (mismatch_applyIO (io := io) hm) .fe
  simp only [mayFetch, ctxFetches, fetchBound] at h
  cases hl : ((applyIO io s).ring r).limit <;> rw [hl] at h <;>
    simp only [fetchDo, hfe, hl, fetchEnd, fetchLength, fetchBound, ringSize, Option.getD_none, Option.getD_some] <;> refine if_pos ?_ <;>
    simpa only [Option.getD_none, Option.getD_some, Bool.and_eq_true, Bool.or_eq_true, decide_eq_true_eq, Bool.not_eq_true',
      Option.isNone_iff_eq_none, Bool.not_false, and_true, and_assoc] using h

end

section
variable {r : Nat} {x : Ring} {t : State}

theorem fetchEnd_stopped (h : (t.ring r).state ≠ .fetching) : fetchEnd r x t = t := if_pos h

theorem fetchEnd_all (h : (t.ring r).state = .fetching) (hall : (t.ring r).dupWait = true ∨ (t.ring r).cons = fetchBound x) :
    fetchEnd r x t = if x.limit = none then idleCheck r (rcbConsumer r t)
      else if (t.ring r).dupWait = true then rcbConsumer r t else ringTo r .idle (rcbConsumer r t) := by
  simp only [fetchEnd]
  rw [if_neg (not_not_intro h)]
  have hlimit : (x.limit.isSome = true) = ¬ x.limit = none := by cases x.limit <;> simp
  simp only [hlimit]
  by_cases hd : (t.ring r).dupWait = true
  · rw [if_pos hd, if_pos hd, ite_not]
  · rw [if_neg hd, if_pos (hall.resolve_left hd), if_neg hd, ite_not]

theorem fetchEnd_part (h : (t.ring r).state = .fetching) (hd : (t.ring r).dupWait = false) (hc : (t.ring r).cons ≠ fetchBound x) :
    fetchEnd r x t = rcbConsumer r t := by
  simp only [fetchEnd]
  rw [if_neg (not_not_intro h), if_neg (by rw [hd]; decide), if_neg hc]

end

/-! ## One slot -/

/-- How the slot of a fetch read that has been read ends: x is the ring before it, d the SEQ's difference. -/
def slotEnd (r n : Nat) (x : Ring) (b : List Byte) (u : State) : State :=
  let d := (w32 (fld b 0 4) - (x.cons + 1).setWidth 32).toInt
  if d < 0 then rcbWrite r 88 8 (x.dup + 1).toNat (u.setRing r { x with dup := x.dup + 1, dupWait := true })
  else if 0 < d then haltRing r 0x20 (rcbConsumer r u)
  else if fld b 20 2 ≠ 0 ∧ edgesBad b = false ∧ 16384 < pendingWaits u + fld b 20 2 then u
  else fetchSlots r n { u with fe := { u.fe with
    rings := tblSet Ring.off u.fe.rings r { x with cons := x.cons + 1 }
    entries := u.fe.entries ++ [acceptEntry u.time r x (x.cons + 1) b] } }

section
variable {r n : Nat} {s : State}

/-- The address of the slot that a ring reads next. -/
def slotPa (x : Ring) : Nat := x.base + 64 * (x.cons.toNat % 2 ^ x.log2)

theorem fetchSlots_wait (h : devRead (slotPa (s.ring r)) 64 s = .wait) : fetchSlots r (n + 1) s = s := by
  simp only [slotPa] at h
  simp only [fetchSlots, ringSize, h]

theorem fetchSlots_failed (h : devRead (slotPa (s.ring r)) 64 s = .failed) :
    fetchSlots r (n + 1) s = haltRing r 0x22 (feReadFailed r (slotPa (s.ring r)) (rcbConsumer r s)) := by
  simp only [slotPa] at h
  simp only [fetchSlots, ringSize, h, slotPa]

theorem fetchSlots_done {b : List Byte} {u : State} (h : devRead (slotPa (s.ring r)) 64 s = .done (b, u)) :
    fetchSlots r (n + 1) s = slotEnd r n (s.ring r) b u := by
  simp only [slotPa] at h
  simp only [fetchSlots, ringSize, h, slotEnd, seqDiff, entNwait, waitSlots, Bool.not_eq_true']
  rfl

end

/-! ## An accepted entry -/

/-- The edge fields of an entry that R485 rejects. -/
theorem edgesBad_iff (b : List Byte) : edgesBad b = true ↔
    64 < fld b 20 2 ∨ 64 < fld b 22 2 ∨ (fld b 24 8 = 0 ∧ fld b 20 2 + fld b 22 2 ≠ 0) ∨
      (fld b 24 8 ≠ 0 ∧ fld b 20 2 + fld b 22 2 = 0) ∨ fld b 24 8 % 16 ≠ 0 := by
  simp only [edgesBad, Bool.or_eq_true, Bool.and_eq_true, decide_eq_true_eq, or_assoc]
  exact Iff.rfl

/-- The other fields of an entry that R485 rejects. -/
theorem fieldsBad_iff (b : List Byte) : fieldsBad b = true ↔
    2 < fld b 4 1 ∨ 4 ≤ fld b 5 1 ∨ zeros b 7 1 = false ∨ zeros b 56 8 = false ∨ (fld b 4 1 = 1 ∧ fld b 8 8 % 16 ≠ 0) ∨
      (fld b 4 1 = 2 ∧ 4096 ≤ fld b 8 8) ∨ (fld b 4 1 = 0 ∧ fld b 8 8 ≠ 0) ∨ (fld b 4 1 ≠ 1 ∧ fld b 16 4 ≠ 0) ∨
      fld b 32 8 % 32 ≠ 0 ∨ (fld b 4 1 ≠ 2 ∧ fld b 48 8 ≠ 0) := by
  have hlarge (n : Nat) : n / 4096 ≠ 0 ↔ 4096 ≤ n := by omega
  simp only [fieldsBad, Bool.or_eq_true, Bool.and_eq_true, decide_eq_true_eq, Bool.not_eq_true', or_assoc, hlarge]
  exact Iff.rfl

theorem lengthBad_iff (b : List Byte) : lengthBad b = true ↔ fld b 4 1 = 1 ∧ (fld b 16 4 = 0 ∨ 1048576 < fld b 16 4) := by
  simp only [lengthBad, Bool.or_eq_true, Bool.and_eq_true, decide_eq_true_eq]
  exact Iff.rfl

section
variable {t r : Nat} {x : Ring} {seq : Quad} {b : List Byte}

/-- The code of an accepted entry, in the order of the checks. -/
theorem acceptEntry_status : (acceptEntry t r x seq b).status =
    if edgesBad b = true ∨ fieldsBad b = true then 0x01
    else if lengthBad b = true then 0x03
    else if fld b 4 1 = 2 ∧ 3 ≤ x.type then 0x02
    else 0 := by
  simp only [acceptEntry, Bool.or_eq_true, Bool.and_eq_true, decide_eq_true_eq]
  rfl

theorem acceptEntry_phase : (acceptEntry t r x seq b).phase =
    if edgesBad b = true then .finished
    else if fld b 20 2 + fld b 22 2 ≠ 0 then .edges
    else if (acceptEntry t r x seq b).status ≠ 0 then .finished
    else if fld b 4 1 = 1 then .framing else .waiting := by
  simp only [acceptEntry, decide_eq_true_eq]
  rfl

end

/-- Settles O22: `fetchDo_eq` tells when a ring fetches and what follows its slots, `fetchSlots_done` a slot, and
`acceptEntry_status` and `acceptEntry_phase` the entry taken. -/
theorem fetchedEntriesAreChecked : Obligations.FetchedEntriesAreChecked := by
  unfold Obligations.FetchedEntriesAreChecked
  refine ⟨?_, ?_, ?_⟩
  · intro r io s hm s0 x ctxGo bound
    refine ⟨fun hno => congrArg Host.Outcome.next (fetchDo_idle hm ?_), fun hst hstop hcmd hdup hgo hlt => ?_⟩
    · rintro ⟨hst, hstop, hcmd, hdup, hgo, hlt⟩
      rcases hno with h | h | h | h | h | h
      · exact h hst
      · rw [hstop] at h; cases h
      · rw [hcmd] at h; cases h
      · rw [hdup] at h; cases h
      · exact h hgo
      · exact absurd hlt (BitVec.not_lt.mpr h)
    · intro slot n t y u
      have hend : fetchDo r.val io s = fetchEnd r.val x t := fetchDo_runs hm ⟨hst, hstop, hcmd, hdup, hgo, hlt⟩
      exact ⟨fun h => congrArg Host.Outcome.next (hend.trans (fetchEnd_stopped h)),
        fun h hall => congrArg Host.Outcome.next (hend.trans (fetchEnd_all h hall)),
        fun h hd hc => congrArg Host.Outcome.next (hend.trans (fetchEnd_part h hd hc))⟩
  · intro r n s x pa
    refine ⟨rfl, fetchSlots_wait, fetchSlots_failed, fun b u hr => ?_, fun _ u => rfl⟩
    intro d
    have hend : fetchSlots r.val (n + 1) s = slotEnd r.val n x b u := fetchSlots_done hr
    refine ⟨fun hd => hend.trans (if_pos hd), fun hd => hend.trans ((if_neg (by omega)).trans (if_pos hd)),
      fun hd hw he hfull => hend.trans ((if_neg (by omega)).trans ((if_neg (by omega)).trans (if_pos ⟨hw, he, hfull⟩))),
      fun hd hfree => hend.trans ((if_neg (by omega)).trans ((if_neg (by omega)).trans (if_neg ?_)))⟩
    rintro ⟨hw, he, hfull⟩
    rcases hfree with h | h | h
    · exact hw h
    · rw [he] at h; cases h
    · omega
  · intro t r x seq b e n k badEdges badFields badLength
    have hedges : edgesBad b = true ↔ badEdges := edgesBad_iff b
    have hfields : fieldsBad b = true ↔ badFields := fieldsBad_iff b
    have hlength : lengthBad b = true ↔ badLength := lengthBad_iff b
    have hstatus : e.status = _ := acceptEntry_status
    have hphase : e.phase = _ := acceptEntry_phase
    refine ⟨rfl, rfl, rfl, rfl, rfl, rfl, rfl, rfl, rfl, rfl, rfl, hedges, fun hb => ⟨?_, ?_⟩, fun hb => ?_⟩
    · rw [hstatus, if_pos (.inl (hedges.mpr hb))]
    · rw [hphase, if_pos (hedges.mpr hb)]
    rw [if_neg (hedges.not.mpr hb)] at hphase
    refine ⟨fun hf => ?_, fun hf hl => ?_, fun hf hk ht => ?_, fun hf hl hk => ?_, fun hn => ?_, fun hst hn => ?_, fun hst hn => ?_⟩
    · rw [hstatus, if_pos (.inr (hfields.mpr hf))]
    all_goals have hgood : ¬ badFields → ¬ (edgesBad b = true ∨ fieldsBad b = true) := fun hf h =>
                h.elim (fun he => hb (hedges.mp he)) fun hbad => hf (hfields.mp hbad)
    · rw [hstatus, if_neg (hgood hf), if_pos (hlength.mpr hl)]
    · have hshort : ¬ lengthBad b = true := fun h => by
        obtain ⟨h1, -⟩ := hlength.mp h
        omega
      rw [hstatus, if_neg (hgood hf), if_neg hshort, if_pos ⟨hk, ht⟩]
    · rw [hstatus, if_neg (hgood hf), if_neg (hlength.not.mpr hl), if_neg (by omega)]
    · rw [hphase, if_pos hn]
    · rw [hphase, if_neg (not_not_intro hn), if_neg (not_not_intro hst)]
    · rw [hphase, if_neg (not_not_intro hn), if_pos hst]

end Sys2Proof.Machine
end

section
/-! Edge arrays, framing, and the start of entries (R71, R72, R80 to R83, R93 to R97, R485). -/

namespace Sys2Proof.Machine

open Sys2Proof

/-! ## Edge arrays -/

/-- The edges that an array gives, each with its table check. -/
def arrayEdges (r seq : Nat) (x : Entry) (bs : List Byte) (u : State) : List Edge :=
  (upTo (x.nwait + fld x.raw 22 2)).map fun i =>
    markDead u r seq (checkEdge u x.ctx r (decide (x.nwait ≤ i)) (parseEdge (slice bs (16 * i) 16) (decide (x.nwait ≤ i))))

/-- How the read of an entry's edge array ends. -/
def edgesEnd (r seq : Nat) (x : Entry) : Res (List Byte) → State
  | .ok bs u =>
    let es := arrayEdges r seq x bs u
    let malformed := es.any fun y => !y.formed
    let failed := es.any fun y => !y.passed
    let status := if x.status ≠ 0 then x.status else if malformed then 0x01 else if failed then 0x06 else 0
    let detail := if x.status = 0 ∧ !malformed ∧ failed then 0x01 else x.detail
    u.onEntry r seq fun y =>
      { y with edges := es, status, detail, phase := if status ≠ 0 then .finished else if fld x.raw 4 1 = 1 then .framing else .waiting }
  | .fault f u =>
    (feFault f x.ctx u).2.onEntry r seq fun y => { y with
      phase := .finished, status := if y.status = 0 then 0x06 else y.status, detail := if y.status = 0 then (feFault f x.ctx u).1 else y.detail }
  | .severed u => u.onEntry r seq fun y => { y with phase := .finished, status := if y.status = 0 then 0x0D else y.status }
  | .wait u => u

section
variable {r seq : Nat} {io : HostIO} {s : State}

theorem edgesDo_none (h : ∀ x, (applyIO io s).entry? r seq = some x → x.phase ≠ .edges) : edgesDo r seq io s = applyIO io s := by
  unfold edgesDo
  dsimp only
  split
  · rfl
  · rename_i x hx; exact if_pos (.inl (h x hx))

theorem edgesDo_some {x : Entry} (hm : s.reg.mismatch = []) (hx : (applyIO io s).entry? r seq = some x) (hp : x.phase = .edges) :
    edgesDo r seq io s = edgesEnd r seq x (feRead x.ctx (fld x.raw 24 8) (16 * (x.nwait + fld x.raw 22 2)) (applyIO io s)) := by
  have hfe := halted_of_nil (mismatch_applyIO (io := io) hm) .fe
  simp only [edgesDo, hx, hfe]
  rw [if_neg (by simp [hp])]
  simp only [entEdgeVa, entNsignal]
  cases feRead x.ctx (fld x.raw 24 8) (16 * (x.nwait + fld x.raw 22 2)) (applyIO io s) <;> rfl

/-! ## Framing -/

/-- How the framing of a command buffer ends. -/
def framingEnd (r seq : Nat) : Framing × State → State
  | (.ops l, u) => u.onEntry r seq fun y => { y with phase := .waiting, ops := l }
  | (.bad st i d, u) => u.onEntry r seq fun y => { y with phase := .finished, status := st, opIndex := i, detail := d, ops := [] }
  | (.wait, u) => u

theorem framingDo_none (h : ∀ x, (applyIO io s).entry? r seq = some x → x.phase ≠ .framing) :
    framingDo r seq io s = applyIO io s := by
  unfold framingDo
  dsimp only
  split
  · rfl
  · rename_i x hx; exact if_pos (.inl (h x hx))

theorem framingDo_some {x : Entry} (hm : s.reg.mismatch = []) (hx : (applyIO io s).entry? r seq = some x) (hp : x.phase = .framing) :
    framingDo r seq io s = framingEnd r seq
      (frameRecords x.ctx (entTarget x.raw) (entLength x.raw) ((applyIO io s).ring r).type maxRecords 0 0 [] (applyIO io s)) := by
  have hfe := halted_of_nil (mismatch_applyIO (io := io) hm) .fe
  simp only [framingDo, hx, hfe]
  rw [if_neg (by simp [hp])]
  generalize frameRecords x.ctx (entTarget x.raw) (entLength x.raw) ((applyIO io s).ring r).type maxRecords 0 0 [] (applyIO io s) = read
  rcases read with ⟨_ | _ | _, u⟩ <;> rfl

end

/-! ## One record of a command buffer -/

section
variable {ctx va total type n i at' : Nat} {acc : List Op} {s u : State} {h : List Byte}

/-- The checks of a record's header, in their order. -/
def recordEnd (ctx va total type n i at' : Nat) (acc : List Op) (h : List Byte) (u : State) : Framing × State :=
  if fld h 2 2 = 0 ∨ total < at' + fld h 2 2 then (.bad 0x03 i 0, u)
  else if 2 ≤ fld h 5 1 ∨ zeros h 7 1 = false then (.bad 0x01 i 0, u)
  else if opcodeOn (fld h 0 2) type = false then (.bad 0x02 i 0, u)
  else if opcodeLen (fld h 0 2) ≠ some (fld h 2 2) then (.bad 0x03 i 0, u)
  else match recordPreds h i with
    | none => (.bad 0x04 i 0, u)
    | some ps => frameRecords ctx va total type n (i + 1) (at' + fld h 2 2)
        (acc ++ [mkOp (fld h 0 2) (va + 16 * at') (16 * fld h 2 2) (fld h 6 1) ps []]) u

theorem frameRecords_ok (hlt : at' < total) (hr : feRead ctx (va + 16 * at') 16 s = .ok h u) :
    frameRecords ctx va total type (n + 1) i at' acc s = recordEnd ctx va total type n i at' acc h u := by
  simp only [frameRecords, recordEnd, hr, Bool.not_eq_true']
  rw [if_neg (by omega)]
  rfl

end

/-! ## The start of an entry -/

theorem recheckEntry_sat {s : State} {x : Entry} (h : ∀ w ∈ x.edges.take x.nwait, w.sat = true) : recheckEntry s x = x := by
  have hwait : ∀ w ∈ x.edges.take x.nwait, edgeWait s w = .sat := fun w hw => by rw [edgeWait, h w hw]; rfl
  have hnone : ((x.edges.take x.nwait).findSome? fun w => match edgeWait s w with
      | .error r => some r
      | _ => none) = none := by
    rw [List.findSome?_eq_none_iff]
    intro w hw
    rw [hwait w hw]
  have hmap : ((x.edges.take x.nwait).map fun w => if edgeWait s w = .sat then { w with sat := true } else w) = x.edges.take x.nwait := by
    refine (List.map_congr_left fun w hw => ?_).trans (List.map_id _)
    rw [if_pos (hwait w hw)]
    show { w with sat := true } = w
    rw [← h w hw]
  unfold recheckEntry
  split
  · rfl
  · dsimp only
    split
    · rename_i r hr; exact absurd (hr.symm.trans hnone) (by simp)
    · rw [hmap, List.take_append_drop]

theorem recheckEntry_key (s : State) (x : Entry) : (recheckEntry s x).ring = x.ring ∧ (recheckEntry s x).seq = x.seq := by
  unfold recheckEntry
  split
  · exact ⟨rfl, rfl⟩
  · dsimp only
    split <;> exact ⟨rfl, rfl⟩

theorem entry?_key {s : State} {r seq : Nat} {x : Entry} (h : s.entry? r seq = some x) : x.ring = r ∧ x.seq = seq := by
  have hx := List.find?_some h
  simpa using hx

/-- An entry that is put in place and then changed. -/
theorem onEntry_put (s : State) {r seq : Nat} {y : Entry} (f : Entry → Entry) (hr : y.ring = r) (hs : y.seq = seq) :
    (s.onEntry r seq fun _ => y).onEntry r seq f = s.onEntry r seq fun _ => f y := by
  have hmap (l : List Entry) :
      mapIf (fun e => decide (e.ring = r) && decide (e.seq = seq)) f (mapIf (fun e => decide (e.ring = r) && decide (e.seq = seq)) (fun _ => y) l) =
        mapIf (fun e => decide (e.ring = r) && decide (e.seq = seq)) (fun _ => f y) l := by
    simp only [mapIf, List.map_map]
    refine List.map_congr_left fun e _ => ?_
    by_cases he : e.ring = r ∧ e.seq = seq
    · simp [he, hr, hs]
    · simp [he]
  simp only [State.onEntry, State.onFe, hmap]

section
variable {r seq : Nat} {s : State}

theorem startDo_none (h : ∀ x, s.entry? r seq = some x → x.phase ≠ .waiting ∨ ctxRuns s x.ctx = false) : startDo r seq s = s := by
  unfold startDo
  split
  · rfl
  · rename_i x hx
    refine if_pos ?_
    rcases h x hx with hp | hc
    · exact .inl hp
    · exact .inr (.inr (by simp [hc]))

/-- An entry's turn has come, and its waits are satisfied. -/
def entryGoes (y : Entry) (t : State) : Prop :=
  y.phase = .waiting ∧ (∀ w ∈ y.edges.take y.nwait, w.sat = true) ∧ ringTurn t y = true

/-- What an entry that starts becomes. -/
def entryStarted (r seq : Nat) (y : Entry) (t : State) : State := match fld y.raw 4 1 with
  | 0 => t.onEntry r seq fun e => { e with phase := .finished }
  | 1 => t.onEntry r seq fun e => { e with phase := .running }
  | _ => t

section
variable {x : Entry} (hm : s.reg.mismatch = []) (hx : s.entry? r seq = some x) (hp : x.phase = .waiting) (hc : ctxRuns s x.ctx = true)
include hm hx hp hc

theorem startDo_goes (h : entryGoes (recheckEntry s x) (s.onEntry r seq fun _ => recheckEntry s x)) :
    startDo r seq s = entryStarted r seq (recheckEntry s x) (s.onEntry r seq fun _ => recheckEntry s x) := by
  have hfe := halted_of_nil hm .fe
  obtain ⟨hy, hsat, hturn⟩ := h
  have hall : edgesSat (recheckEntry s x) = true := List.all_eq_true.mpr hsat
  simp only [startDo, hx, hfe]
  rw [if_neg (by simp [hp, hc]), if_pos ⟨hy, hall, hturn⟩]
  rfl

theorem startDo_stays (h : ¬ entryGoes (recheckEntry s x) (s.onEntry r seq fun _ => recheckEntry s x)) :
    startDo r seq s = s.onEntry r seq fun _ => recheckEntry s x := by
  have hfe := halted_of_nil hm .fe
  simp only [startDo, hx, hfe]
  rw [if_neg (by simp [hp, hc])]
  refine if_neg ?_
  rintro ⟨hy, hsat, hturn⟩
  exact h ⟨hy, List.all_eq_true.mp hsat, hturn⟩

end
end

/-- Settles O23: `edgesDo_some`, `framingDo_some` and `startDo_goes` tell the events, `frameRecords_ok` a record's checks. -/
theorem entriesAreReadAndStart : Obligations.EntriesAreReadAndStart := by
  unfold Obligations.EntriesAreReadAndStart
  refine ⟨?_, ?_, ?_⟩
  · intro e io s hm s0
    refine ⟨fun h => congrArg Host.Outcome.next (edgesDo_none h), fun x hx hp => ?_,
      fun h => congrArg Host.Outcome.next (framingDo_none h), fun x u hx hp => ?_⟩
    · intro n read
      have hend : edgesDo e.ring.val e.seq io s = edgesEnd e.ring.val e.seq x read := edgesDo_some hm hx hp
      refine ⟨fun u hr => congrArg Host.Outcome.next (by rw [hend, hr]; rfl), fun u hr => congrArg Host.Outcome.next (by rw [hend, hr]; rfl),
        fun f u hr => congrArg Host.Outcome.next (by rw [hend, hr]; rfl), fun bs u hr => ?_⟩
      intro es
      have hread : edgesDo e.ring.val e.seq io s = edgesEnd e.ring.val e.seq x (.ok bs u) := by rw [hend, hr]
      have hes : arrayEdges e.ring.val e.seq x bs u = es := rfl
      simp only [edgesEnd, hes] at hread
      refine ⟨fun hst hall => ?_, fun hst hbad => ?_, fun hst hform hbad => ?_, fun hst => ?_⟩
      all_goals refine congrArg Host.Outcome.next (hread.trans ?_)
      · have hno1 : es.any (fun y => !y.formed) = false := List.any_eq_false.mpr fun y hy => by simp [(hall y hy).1]
        have hno2 : es.any (fun y => !y.passed) = false := List.any_eq_false.mpr fun y hy => by simp [(hall y hy).2]
        simp [hst, hno1, hno2]
      · obtain ⟨y, hy, hf⟩ := hbad
        have hyes : es.any (fun y => !y.formed) = true := List.any_eq_true.mpr ⟨y, hy, by simp [hf]⟩
        simp [hst, hyes]
      · obtain ⟨y, hy, hf⟩ := hbad
        have hno : es.any (fun y => !y.formed) = false := List.any_eq_false.mpr fun y hy => by simp [hform y hy]
        have hyes : es.any (fun y => !y.passed) = true := List.any_eq_true.mpr ⟨y, hy, by simp [hf]⟩
        simp [hst, hno, hyes]
      · simp [hst]
    · intro read
      have hend : framingDo e.ring.val e.seq io s = framingEnd e.ring.val e.seq read := framingDo_some hm hx hp
      exact ⟨fun l hr => congrArg Host.Outcome.next (by rw [hend, hr]; rfl),
        fun st i d hr => congrArg Host.Outcome.next (by rw [hend, hr]; rfl), fun hr => congrArg Host.Outcome.next (by rw [hend, hr]; rfl)⟩
  · intro e s hm
    refine ⟨fun h => congrArg Host.Outcome.next (startDo_none h), fun x hx hp hc => ?_⟩
    intro y t goes
    have hput : ∀ f : Entry → Entry, t.onEntry e.ring.val e.seq f = s.onEntry e.ring.val e.seq fun _ => f y := fun f => by
      obtain ⟨hr, hs⟩ := entry?_key hx
      obtain ⟨hyr, hys⟩ := recheckEntry_key s x
      exact onEntry_put s f (hyr.trans hr) (hys.trans hs)
    refine ⟨recheckEntry_sat, fun h => congrArg Host.Outcome.next ?_, fun hg hk => congrArg Host.Outcome.next ?_,
      fun hg hk => congrArg Host.Outcome.next ?_⟩
    · by_cases hg : entryGoes y t
      · have hk : 2 ≤ fld y.raw 4 1 := h.resolve_left (not_not_intro hg)
        rw [startDo_goes hm hx hp hc hg, entryStarted]
        split
        · rename_i h0; exact absurd (show fld y.raw 4 1 = 0 from h0) (by omega)
        · rename_i h1; exact absurd (show fld y.raw 4 1 = 1 from h1) (by omega)
        · rfl
      · exact startDo_stays hm hx hp hc hg
    · rw [startDo_goes hm hx hp hc hg, entryStarted, show fld (recheckEntry s x).raw 4 1 = 0 from hk]
      exact hput _
    · rw [startDo_goes hm hx hp hc hg, entryStarted, show fld (recheckEntry s x).raw 4 1 = 1 from hk]
      exact hput _
  · intro ctx va total type n i at' acc s u h hlt hr op len got badLen badRec
    have hgot : got = recordEnd ctx va total type n i at' acc h u := frameRecords_ok hlt hr
    refine ⟨fun h1 => hgot.trans (if_pos h1), fun h1 h2 => hgot.trans ((if_neg h1).trans (if_pos h2)),
      fun h1 h2 h3 => hgot.trans ((if_neg h1).trans ((if_neg h2).trans (if_pos h3))), fun h1 h2 h3 h4 => ?_, fun h1 h2 h3 h4 h5 => ?_,
      fun ps h1 h2 h3 h4 h5 => ?_⟩
    all_goals have h3' : ¬ opcodeOn (fld h 0 2) type = false := fun hno => by
                rw [show opcodeOn (fld h 0 2) type = true from h3] at hno; cases hno
    all_goals refine hgot.trans ((if_neg h1).trans ((if_neg h2).trans ((if_neg h3').trans ?_)))
    · exact if_pos h4
    · refine (if_neg (not_not_intro h4)).trans ?_
      rw [h5]
    · refine (if_neg (not_not_intro h4)).trans ?_
      rw [h5]

end Sys2Proof.Machine
end

section
/-! Dispatch and ends of ops (R81, R84, R85, R90, R424). -/

namespace Sys2Proof.Machine

open Sys2Proof

/-! ## Ops and their entries -/

theorem op?_iff {s : State} {o : OpRef} {e : Entry} {p : Op} :
    s.op? o = some (e, p) ↔ s.entry? o.ring.val o.seq = some e ∧ e.ops[o.op]? = some p := by
  unfold State.op?
  cases s.entry? o.ring.val o.seq with
  | none => simp
  | some x =>
    simp only [Option.map_eq_some_iff, Prod.mk.injEq, Option.some.injEq]
    constructor
    · rintro ⟨q, hq, rfl, rfl⟩; exact ⟨rfl, hq⟩
    · rintro ⟨rfl, hq⟩; exact ⟨p, hq, rfl, rfl⟩

/-- A change of the elements that a test names, which the test does not see, is found with the change. -/
theorem find?_mapIf {α : Type} {p : α → Bool} {f : α → α} (h : ∀ a, p (f a) = p a) (l : List α) :
    (mapIf p f l).find? p = (l.find? p).map f := by
  induction l with
  | nil => rfl
  | cons a l ih =>
    rw [mapIf] at ih ⊢
    rw [List.map_cons, List.find?_cons, List.find?_cons, ih]
    cases hp : p a
    · simp [hp]
    · simp [h, hp]

/-- An entry that a change leaves in its place is found with the change. -/
theorem entry?_onEntry {s : State} {r seq : Nat} {e : Entry} {f : Entry → Entry} (h : s.entry? r seq = some e)
    (hkey : ∀ x : Entry, (f x).ring = x.ring ∧ (f x).seq = x.seq) : (s.onEntry r seq f).entry? r seq = some (f e) := by
  refine (find?_mapIf (fun x => ?_) s.fe.entries).trans (congrArg (Option.map f) h)
  rw [(hkey x).1, (hkey x).2]

/-! ## Skipped ops -/

/-- An op that has ended badly. -/
def failedOp (f : Op) : Prop := f.phase = .done ∧ (f.status ≠ 0 ∨ f.skipped = true)

/-- What a pass over an entry's ops has done to one of them: it is as it was, or it waited on an op that has ended
badly and is skipped. -/
def skipsTo (ops : List Op) (q q' : Op) : Prop :=
  q' = q ∨ (q.phase = .waiting ∧ q'.phase = .done ∧ q'.skipped = true ∧ ∃ j ∈ q.preds, ∃ f, ops[j]? = some f ∧ failedOp f)

/-- Ops that a pass has gone over in part. -/
def skipsOver (old ops : List Op) : Prop :=
  ops.length = old.length ∧ ∀ (i : Nat) (q q' : Op), old[i]? = some q → ops[i]? = some q' → skipsTo ops q q'

/-- One place of the pass. -/
def skipAt (ops : List Op) (i : Nat) : List Op := match ops[i]? with
  | some p =>
    if p.phase = .waiting then
      match p.preds.findSome? (fun j => match ops[j]? with
        | some q => if q.phase = .done ∧ (q.status ≠ stOk ∨ q.skipped) then some q else none
        | none => none) with
      | some q => ops.set i { p with phase := .done, skipped := true, reason := if q.skipped then q.reason else statusReason q.status q.reason }
      | none => ops
    else ops
  | none => ops

theorem skipFrom_eq (ops : List Op) : skipFrom ops = (upTo ops.length).foldl skipAt ops := by
  unfold skipFrom
  congr 1

theorem skipAt_spec (ops : List Op) (i : Nat) : skipAt ops i = ops ∨
    ∃ p p', ops[i]? = some p ∧ p.phase = .waiting ∧ p'.phase = .done ∧ p'.skipped = true ∧ skipAt ops i = ops.set i p' ∧
      ∃ j ∈ p.preds, ∃ f, ops[j]? = some f ∧ failedOp f := by
  unfold skipAt
  split
  · rename_i p hp
    split
    · rename_i hw
      split
      · rename_i q hq
        refine .inr ⟨p, _, hp, hw, rfl, rfl, rfl, ?_⟩
        obtain ⟨j, hj, hf⟩ := List.exists_of_findSome?_eq_some hq
        cases hop : ops[j]? with
        | none => simp [hop] at hf
        | some g =>
          simp only [hop] at hf
          split at hf
          · rename_i hbad; exact ⟨j, hj, g, hop, hbad⟩
          · cases hf
      · exact .inl rfl
    · exact .inl rfl
  · exact .inl rfl

theorem skipsOver_skipAt {old ops : List Op} (i : Nat) (h : skipsOver old ops) : skipsOver old (skipAt ops i) := by
  rcases skipAt_spec ops i with hsame | ⟨p, p', hp, hw, hdone, hskip, hset, j, hj, f, hf, hbad⟩
  · rw [hsame]; exact h
  obtain ⟨hlen, hall⟩ := h
  have hi : i < ops.length := (List.getElem?_eq_some_iff.mp hp).1
  have hkeep : ∀ (k : Nat) (g : Op), ops[k]? = some g → failedOp g → (ops.set i p')[k]? = some g := by
    intro k g hg hbad
    have hne : i ≠ k := by
      rintro rfl
      rw [hp] at hg
      obtain rfl := Option.some.inj hg
      rw [hbad.1] at hw
      cases hw
    rw [List.getElem?_set_ne hne]; exact hg
  rw [hset]
  refine ⟨by rw [List.length_set]; exact hlen, fun k q q' hq hq' => ?_⟩
  by_cases hk : i = k
  · subst hk
    rw [List.getElem?_set_self hi] at hq'
    obtain rfl := Option.some.inj hq'
    rcases hall i q p hq hp with rfl | ⟨-, hpd, -⟩
    · exact .inr ⟨hw, hdone, hskip, j, hj, f, hkeep j f hf hbad, hbad⟩
    · rw [hpd] at hw; cases hw
  · rw [List.getElem?_set_ne hk] at hq'
    rcases hall k q q' hq hq' with rfl | ⟨hqw, hqd, hqs, m, hm, g, hg, hgb⟩
    · exact .inl rfl
    · exact .inr ⟨hqw, hqd, hqs, m, hm, g, hkeep m g hg hgb, hgb⟩

theorem skipsOver_skipFrom (ops : List Op) : skipsOver ops (skipFrom ops) := by
  have hfold : ∀ (l : List Nat) (acc : List Op), skipsOver ops acc → skipsOver ops (l.foldl skipAt acc) := by
    intro l
    induction l with
    | nil => exact fun _ h => h
    | cons i l ih => exact fun acc h => ih _ (skipsOver_skipAt i h)
  rw [skipFrom_eq]
  refine hfold _ _ ⟨rfl, fun i q q' hq hq' => .inl ?_⟩
  rw [hq] at hq'
  exact (Option.some.inj hq').symm

/-! ## The end of an op -/

/-- An op that has ended with a status, its sticky flags joined and no unit held. -/
def endedOp (st d k : Nat) (p : Op) : Op :=
  { p with phase := .done, status := st, detail := d, sticky := p.sticky ||| k, units := [], ending := none }

/-- What the end of an op makes of its entry. -/
def endEntry (o : OpRef) (st d k : Nat) (e : Entry) : Entry := match e.ops[o.op]? with
  | some p => if p.phase = .done then e else settle { e with ops := skipFrom (e.ops.set o.op (endedOp st d k p)) }
  | none => e

theorem endOp_eq (o : OpRef) (st d k : Nat) (s : State) : endOp o st d k s = s.onEntry o.ring.val o.seq (endEntry o st d k) := rfl

theorem settle_ops (e : Entry) : (settle e).ops = e.ops := by unfold settle; split <;> rfl

theorem settle_key (e : Entry) : (settle e).ring = e.ring ∧ (settle e).seq = e.seq := by
  unfold settle; split <;> exact ⟨rfl, rfl⟩

theorem endEntry_key (o : OpRef) (st d k : Nat) (e : Entry) :
    (endEntry o st d k e).ring = e.ring ∧ (endEntry o st d k e).seq = e.seq := by
  unfold endEntry
  split
  · split
    · exact ⟨rfl, rfl⟩
    · exact settle_key _
  · exact ⟨rfl, rfl⟩

theorem endEntry_ops {o : OpRef} {st d k : Nat} {e : Entry} {p : Op} (hop : e.ops[o.op]? = some p) (hp : p.phase ≠ .done) :
    (endEntry o st d k e).ops = skipFrom (e.ops.set o.op (endedOp st d k p)) := by
  simp only [endEntry, hop]
  rw [if_neg hp, settle_ops]

theorem entry?_endOp {o : OpRef} {s : State} {e : Entry} (st d k : Nat) (h : s.entry? o.ring.val o.seq = some e) :
    (endOp o st d k s).entry? o.ring.val o.seq = some (endEntry o st d k e) :=
  entry?_onEntry h (endEntry_key o st d k)

/-! ## Dispatch -/

theorem op?_applyIO (io : HostIO) (s : State) (o : OpRef) : (applyIO io s).op? o = s.op? o := by
  obtain ⟨m, hm⟩ := applyIO_onlyMem io s
  rw [hm]; rfl

/-- A change of the power group and of memory that a dispatch makes before it looks at the op. -/
theorem dispatch_view {s u : State} (io : HostIO) (hu : ∃ g, u = { s with pwr := g }) (n : Nat) (e : Entry) (p : Op) (o : OpRef) :
    (applyIO io u).op? o = s.op? o ∧ ctxRuns (applyIO io u) n = ctxRuns s n ∧ effMask (applyIO io u) e p = effMask s e p ∧
      (applyIO io u).reg = s.reg := by
  obtain ⟨g, rfl⟩ := hu
  obtain ⟨m, hm⟩ := applyIO_onlyMem io { s with pwr := g }
  rw [hm]
  exact ⟨rfl, rfl, rfl, rfl⟩

/-- An op whose predecessors have ended well. -/
def opReady (e : Entry) (p : Op) : Prop :=
  e.phase = .running ∧ p.phase = .waiting ∧ ∀ j ∈ p.preds, ∃ q, e.ops[j]? = some q ∧ q.phase = .done ∧ q.status = 0 ∧ q.skipped = false

/-- How the read of a ready op's record ends. -/
def dispatchEnd (o : OpRef) (e : Entry) (p : Op) (mask : Nat) : Res (List Byte) → State
  | .fault f u => endOp o 0x05 (feFault f e.ctx u).1 0 (feFault f e.ctx u).2
  | .severed u => endOp o 0x0D 0 0 u
  | .wait u => u
  | .ok b0 u =>
    let b := (e.launch.map fun l => patchBody l.args p.patches b0).getD b0
    if bodyBad p.opcode b = true then endOp o 0x01 0 0 u
    else
      let v := if maskFree p.opcode = true then u else wakeClusters mask u
      (v.onEntry o.ring.val o.seq fun e => { e with tRun := if e.tRun = 0 then v.time + 1 else e.tRun }).onOp o
        fun p => { p with phase := .running, body := b, emask := mask, rank := (v.ring e.ring).prio, spared := [] }

theorem predsReady_iff (ops : List Op) (preds : List Nat) :
    (preds.all fun j => match ops[j]? with
      | some q => decide (q.phase = .done) && decide (q.status = stOk) && !q.skipped
      | none => false) = true ↔
    ∀ j ∈ preds, ∃ q, ops[j]? = some q ∧ q.phase = .done ∧ q.status = 0 ∧ q.skipped = false := by
  rw [List.all_eq_true]
  refine forall₂_congr fun j _ => ?_
  cases ops[j]? with
  | none => simp
  | some q =>
    simp only [Bool.and_eq_true, decide_eq_true_eq, Bool.not_eq_true', Option.some.injEq, exists_eq_left', and_assoc]
    exact Iff.rfl

/-- What a dispatch does once the state has taken the host's stores. -/
theorem dispatchDo_some {o : OpRef} {io : HostIO} {s : State} {e : Entry} {p : Op} (h : (applyIO io s).op? o = some (e, p))
    (hm : (applyIO io s).reg.mismatch = []) :
    (¬ opReady e p → dispatchDo o io s = applyIO io s) ∧
    (opReady e p → dispatchDo o io s =
      if ctxRuns (applyIO io s) e.ctx = false then discardOp o (applyIO io s)
      else if maskFree p.opcode = false ∧ effMask (applyIO io s) e p = 0 then endOp o 0x09 0 0 (applyIO io s)
      else dispatchEnd o e p (effMask (applyIO io s) e p) (feRead e.ctx p.va p.len (applyIO io s))) := by
  have hfe := halted_of_nil hm .fe
  have hpreds := predsReady_iff e.ops p.preds
  simp only [dispatchDo, h, hfe]
  refine ⟨fun hno => if_pos ?_, fun hyes => ?_⟩
  · by_contra hall
    simp only [not_or, not_not, ne_eq, Bool.not_eq_true', Bool.not_eq_false] at hall
    obtain ⟨he, hp, hr, -⟩ := hall
    exact hno ⟨he, hp, hpreds.mp hr⟩
  · obtain ⟨he, hp, hr⟩ := hyes
    have hready := hpreds.mpr hr
    have hgo (c : Bool) (hc : c = true) : ¬ (e.phase ≠ .running ∨ p.phase ≠ .waiting ∨ (!c) = true ∨ false = true) := by
      simp [he, hp, hc]
    refine (if_neg (hgo _ hready)).trans ?_
    simp only [Bool.not_eq_true']
    refine if_congr Iff.rfl rfl (if_congr Iff.rfl rfl ?_)
    cases feRead e.ctx p.va p.len (applyIO io s) with
    | ok b u => simp only [dispatchEnd]; cases e.launch <;> rfl
    | fault f u => rfl
    | severed u => rfl
    | wait u => rfl

/-- Settles O24: `dispatchDo_some` tells a dispatch, `endEntry_ops` and `skipsOver_skipFrom` the end of an op. -/
theorem opsDispatchAndEnd : Obligations.OpsDispatchAndEnd := by
  unfold Obligations.OpsDispatchAndEnd
  refine ⟨fun o io s h => congrArg Host.Outcome.next ?_, ?_, ?_⟩
  · simp only [opDispatchDo, h]
  · intro o io s e p h hm mask free ready sleeps s0
    refine ⟨fun ha hs => congrArg Host.Outcome.next ?_, fun hgo => ?_⟩
    · have hsleep : ¬ (inS3 s && !needsExit s e p) = true := by simpa [sleeps] using hs
      simp only [opDispatchDo, h, ha]
      rw [if_neg (by decide), if_neg hsleep]
      simp only [Bool.and_eq_true, decide_eq_true_eq, and_assoc]
    · have hdo : opDispatchDo o io s = dispatchDo o io (if awake s then ungateMask (if free then 0 else mask) s else s) := by
        simp only [opDispatchDo, h]
        by_cases ha : awake s = true
        · rw [if_pos ha, if_pos ha]
        · have hs : (inS3 s && !needsExit s e p) = true := by
            obtain ⟨h1, h2⟩ := hgo.resolve_left ha
            simp [h1, h2]
          rw [if_neg ha, if_pos hs, if_neg ha]
      have hview : ∃ g, (if awake s then ungateMask (if free then 0 else mask) s else s) = { s with pwr := g } := by
        split
        · exact ⟨_, rfl⟩
        · exact ⟨s.pwr, rfl⟩
      obtain ⟨hop, hrun, hmask, hreg⟩ := dispatch_view io hview e.ctx e p o
      obtain ⟨hno, hyes⟩ := dispatchDo_some (hop.trans h) (by rw [hreg]; exact hm)
      rw [hrun, hmask] at hyes
      refine ⟨fun hr => congrArg Host.Outcome.next (hdo.trans (hno hr)), fun hr hc => congrArg Host.Outcome.next (hdo.trans ((hyes hr).trans ?_)),
        fun hr hc hf hz => congrArg Host.Outcome.next (hdo.trans ((hyes hr).trans ?_)), fun hr hc hf => ?_⟩
      · exact if_pos hc
      · exact (if_neg (by rw [hc]; decide)).trans (if_pos ⟨hf, hz⟩)
      · intro read
        have hmaskOk : ¬ (maskFree p.opcode = false ∧ effMask s e p = 0) := by
          rintro ⟨h1, h2⟩
          rcases hf with hf | hf
          · rw [show maskFree p.opcode = true from hf] at h1; cases h1
          · exact hf h2
        have hend : opDispatchDo o io s = dispatchEnd o e p mask read :=
          hdo.trans ((hyes hr).trans ((if_neg (by rw [hc]; decide)).trans (if_neg hmaskOk)))
        refine ⟨fun u hu => congrArg Host.Outcome.next (by rw [hend, hu]; rfl), fun u hu => congrArg Host.Outcome.next (by rw [hend, hu]; rfl),
          fun f u hu => congrArg Host.Outcome.next (by rw [hend, hu]; rfl), fun b0 u hu => ?_⟩
        intro b
        rw [hu] at hend
        refine ⟨fun hb => congrArg Host.Outcome.next (hend.trans (if_pos hb)), fun hb => congrArg Host.Outcome.next (hend.trans ?_)⟩
        exact if_neg (by rw [show bodyBad p.opcode b = false from hb]; decide)
  · intro o st d k s e p h hp t
    obtain ⟨he, hop⟩ := op?_iff.mp h
    have hlen : o.op < e.ops.length := (List.getElem?_eq_some_iff.mp hop).1
    have hops := endEntry_ops (st := st) (d := d) (k := k) hop hp
    obtain ⟨hlength, hskip⟩ := skipsOver_skipFrom (e.ops.set o.op (endedOp st d k p))
    rw [← hops] at hlength hskip
    rw [List.length_set] at hlength
    have hlater {i : Nat} {q q' : Op} (hq : e.ops[i]? = some q) (hi : i ≠ o.op) (hq' : (endEntry o st d k e).ops[i]? = some q') :
        skipsTo (endEntry o st d k e).ops q q' := hskip i q q' ((List.getElem?_set_ne (Ne.symm hi)).trans hq) hq'
    refine ⟨rfl, endEntry o st d k e, endedOp st d k p, op?_iff.mpr ⟨entry?_endOp st d k he, ?_⟩, rfl, hlength, fun i q hq hi hd => ?_,
      fun i q q' hq hi hq' hd => ?_⟩
    · have hin := List.getElem?_eq_getElem (lt_of_lt_of_eq hlen hlength.symm)
      rcases hskip o.op _ _ (List.getElem?_set_self hlen) hin with hsame | ⟨hw, -⟩
      · rw [hin, hsame]
      · cases hw
    · have hin := List.getElem?_eq_getElem (lt_of_lt_of_eq (List.getElem?_eq_some_iff.mp hq).1 hlength.symm)
      rcases hlater hq hi hin with hsame | ⟨hw, -⟩
      · rw [hin, hsame]
      · rw [hd] at hw; cases hw
    · rcases hlater hq hi hq' with hsame | ⟨hw, hdone, hsk, j, hj, f, hf, -, hbad⟩
      · exact .inl hsame
      · exact .inr ⟨hw, hdone, hsk, j, hj, f, hf, hbad⟩

end Sys2Proof.Machine
end

section
/-! The ops of the front end, and COPY (R86, R87, R114). -/

namespace Sys2Proof.Machine

open Sys2Proof

section
variable {o : OpRef} {s : State} {e : Entry} {p : Op}

/-- A running op of an opcode does its work, or is discarded where its context runs none. -/
theorem withOp_running {opcode : Nat} {f : Entry → Op → State → State} (h : s.op? o = some (e, p)) (hp : p.phase = .running)
    (hen : p.ending = none) (hop : p.opcode = opcode) :
    withOp o opcode f s = if ctxRuns s e.ctx = true then f e p s else discardOp o s := by
  simp only [withOp, h]
  rw [if_neg (by simp [hp, hen, hop])]
  cases ctxRuns s e.ctx <;> rfl

/-- How a FENCE_WAIT stands, by its edge. -/
def fenceWaitEnd (o : OpRef) (s : State) : Option Edge → State
  | none => endOp o 0x0B 1 0 s
  | some w => match edgeWait s w with
    | .sat => endOp o 0 0 0 s
    | .error r => endOp o 0x0B r.num 0 s
    | .pending => if 16384 ≤ pendingWaits s then s else s.onOp o fun p => { p with fence := some w }

theorem fenceWaitDo_running (h : s.op? o = some (e, p)) (hp : p.phase = .running) (hop : p.opcode = 1) (hf : p.fence = none) :
    fenceWaitDo o s = fenceWaitEnd o s (fenceOpEdge s e.ctx e.ring p.body false) := by
  simp only [fenceWaitDo, h]
  rw [if_neg (by simp [hp, hop, hf])]
  cases fenceOpEdge s e.ctx e.ring p.body false with
  | none => rfl
  | some w => dsimp only [fenceWaitEnd]; cases edgeWait s w <;> rfl

/-- What a FENCE_SIGNAL does, by its edge. -/
def fenceSignalEnd (o : OpRef) (s : State) : Option Edge → State
  | none => endOp o 0x0B 1 0 s
  | some w => endOp o 0 0 0 (sendFence w.key w.alloc (.inl w.value) (wcFlushAll s))

theorem fenceSignalOpDo_running (h : s.op? o = some (e, p)) (hp : p.phase = .running) (hop : p.opcode = 2) :
    fenceSignalOpDo o s = fenceSignalEnd o s (fenceOpEdge s e.ctx e.ring p.body true) := by
  simp only [fenceSignalOpDo, h]
  rw [if_neg (by simp [hp, hop])]
  cases fenceOpEdge s e.ctx e.ring p.body true <;> rfl

theorem takeChannel_some {chan : Nat} (h : s.op? o = some (e, p)) :
    takeChannel o chan s =
      if chansPinned s p.emask = true then endOp o 0x0C 0 0 s
      else if chanFree s p.emask chan = true ∧ p.units = [] ∧ yields s o = false then
        (s.onOp o fun p => { p with units := [0x48 + chan] }).onFe fun f =>
          { f with copies := f.copies ++ [{ op := o, ctx := e.ctx, chan }] }
      else s := by
  simp only [takeChannel, h, Bool.not_eq_true']
  rfl

end

/-! ## The end of a COPY -/

/-- Where the bytes of a piece come from: the pattern, or a read of the source. -/
def copyTake (m ctx : Nat) (body : List Byte) (q : Nat × Nat × Nat) (t : State) : Res (List Byte) :=
  if bit (fld body 40 4) 0 = true then .ok (fillBytes (fld body 44 4) (q.2.1 - fld body 24 8) q.2.2) t
  else vaRead m ctx q.1 q.2.2 .read t

/-- One piece of a copy: the state with it moved, or how the copy ends there; z is the state before the copy. -/
def copyMove (o : OpRef) (m ctx : Nat) (body : List Byte) (z t : State) (q : Nat × Nat × Nat) : Option State × State :=
  match copyTake m ctx body q t with
  | .fault f u => (none, opFault f o m q.1 .read u)
  | .severed u => (none, endOp o 0x0D 0 0 u)
  | .wait _ => (none, z)
  | .ok bs u => match vaWrite m ctx q.2.1 bs u with
    | .ok _ v => (some v, z)
    | .fault f v => (none, opFault f o m q.2.1 .write v)
    | .severed v => (none, endOp o 0x0D 0 0 v)
    | .wait _ => (none, z)

/-- A copy goes on, piece by piece, until one of them ends it. -/
def copyStep (o : OpRef) (m ctx : Nat) (body : List Byte) (acc : Option State × State) (q : Nat × Nat × Nat) : Option State × State :=
  match acc with
  | (some t, z) => copyMove o m ctx body z t q
  | (none, u) => (none, u)

/-- The destination of a copy whose ranges overlap is settled once its pieces have moved. -/
def copySettle (m ctx : Nat) (body : List Byte) (z v : State) : State :=
  let src := fld body 16 8
  let dst := fld body 24 8
  let n := fld body 32 8
  if (!bit (fld body 40 4) 0) = true ∧ src ≠ dst ∧ Nat.max src dst < Nat.min src dst + n then
    match vaRead m ctx src n .read z with
    | .ok orig _ => (vaWrite m ctx dst (overlapBytes src dst orig v).1 (overlapBytes src dst orig v).2).state
    | _ => v
  else v

/-- How a copy ends once its pieces have been gone over. -/
def copyEnd (o : OpRef) (m ctx : Nat) (body : List Byte) (z : State) : Option State × State → State
  | (none, u) => if opRunning u o = true then u else dropCopy o u
  | (some v, _) => dropCopy o (endOp o 0 0 0 (copySettle m ctx body z v))

/-- The pieces of a copy's record. -/
def bodyPieces (body : List Byte) : List (Nat × Nat × Nat) :=
  copyPieces (fld body 32 8 / 2048 + 4) (if bit (fld body 40 4) 0 = true then fld body 24 8 else fld body 16 8) (fld body 24 8) (fld body 32 8)

theorem copyDoneDo_eq {o : OpRef} {io : HostIO} {s : State} {e : Entry} {p : Op} {c : CopyRun} (h : s.op? o = some (e, p))
    (hp : p.phase = .running) (hop : p.opcode = 4) (hc : ctxRuns s e.ctx = true) (hrun : s.fe.copies.find? (fun c => c.op = o) = some c) :
    copyDoneDo o io s = copyEnd o (0x48 + c.chan) e.ctx p.body (applyIO io s)
      ((bodyPieces p.body).foldl (copyStep o (0x48 + c.chan) e.ctx p.body) (some (applyIO io s), applyIO io s)) := by
  obtain ⟨hop', hc', -, -⟩ := dispatch_view (s := s) (u := s) io ⟨s.pwr, rfl⟩ e.ctx e p o
  have hcopies : (applyIO io s).fe.copies = s.fe.copies := by
    obtain ⟨m, hm⟩ := applyIO_onlyMem io s
    rw [hm]
  simp only [copyDoneDo, hcopies, hrun, hop'.trans h, hc'.trans hc, Option.map_some]
  rw [if_neg (by simp [hp]), if_neg (by decide), if_neg (by simp [hop]),
    List.foldl_ext (g := copyStep o (0x48 + c.chan) e.ctx p.body) (H := ?_)]
  · simp only [bodyPieces]
    generalize List.foldl (copyStep o (0x48 + c.chan) e.ctx p.body) (some (applyIO io s), applyIO io s) _ = r
    rcases r with ⟨_ | v, z⟩
    · rfl
    · refine congrArg (fun x => dropCopy o (endOp o 0 0 0 x)) (if_congr Iff.rfl ?_ rfl)
      simp only [dmaMaster]
      cases vaRead (0x48 + c.chan) e.ctx (fld p.body 16 8) (fld p.body 32 8) .read (applyIO io s) with
      | ok orig u => dsimp only; cases vaWrite (0x48 + c.chan) e.ctx (fld p.body 24 8) _ _ <;> rfl
      | fault f u => rfl
      | severed u => rfl
      | wait u => rfl
  · intro acc q _
    rcases acc with ⟨_ | t, z⟩
    · rfl
    · simp only [copyStep, copyMove, copyTake, dmaMaster]
      generalize (if bit (fld p.body 40 4) 0 = true then Res.ok (fillBytes (fld p.body 44 4) (q.2.1 - fld p.body 24 8) q.2.2) t
        else vaRead (0x48 + c.chan) e.ctx q.1 q.2.2 .read t) = rd
      cases rd with
      | ok bs u => dsimp only; cases vaWrite (0x48 + c.chan) e.ctx q.2.1 bs u <;> rfl
      | fault f u => rfl
      | severed u => rfl
      | wait u => rfl

/-- The state in which the pieces of a list have moved, one after the other. -/
def copyMoved (m ctx : Nat) (body : List Byte) (ps : List (Nat × Nat × Nat)) (t : Option State) : Option State :=
  ps.foldl (fun a q => a.bind fun t => match copyTake m ctx body q t with
    | .ok bs t => match vaWrite m ctx q.2.1 bs t with
      | .ok _ t => some t
      | _ => none
    | _ => none) t

section
variable {o : OpRef} {m ctx : Nat} {body : List Byte} {z : State}

theorem copyMoved_none (ps : List (Nat × Nat × Nat)) : copyMoved m ctx body ps none = none := by
  induction ps with
  | nil => rfl
  | cons q ps ih => exact ih

theorem copyStep_none (ps : List (Nat × Nat × Nat)) (u : State) :
    ps.foldl (copyStep o m ctx body) (none, u) = (none, u) := by
  induction ps with
  | nil => rfl
  | cons q ps ih => exact ih

/-- Pieces that all move leave the copy going on. -/
theorem copyStep_moved {ps : List (Nat × Nat × Nat)} {t v : State} (h : copyMoved m ctx body ps (some t) = some v) :
    ps.foldl (copyStep o m ctx body) (some t, z) = (some v, z) := by
  induction ps generalizing t with
  | nil => obtain rfl := Option.some.inj h; rfl
  | cons q ps ih =>
    unfold copyMoved at h
    rw [List.foldl_cons, Option.bind_some] at h
    rw [List.foldl_cons]
    cases ht : copyTake m ctx body q t with
    | ok bs u =>
      rw [ht] at h
      dsimp only at h
      cases hw : vaWrite m ctx q.2.1 bs u with
      | ok a w =>
        rw [hw] at h
        have hone : copyStep o m ctx body (some t, z) q = (some w, z) := by
          simp only [copyStep, copyMove, ht, hw]
        rw [hone]
        exact ih h
      | fault f w => rw [hw] at h; exact absurd (h.symm.trans (copyMoved_none ps)) (by simp)
      | severed w => rw [hw] at h; exact absurd (h.symm.trans (copyMoved_none ps)) (by simp)
      | wait w => rw [hw] at h; exact absurd (h.symm.trans (copyMoved_none ps)) (by simp)
    | fault f u => rw [ht] at h; exact absurd (h.symm.trans (copyMoved_none ps)) (by simp)
    | severed u => rw [ht] at h; exact absurd (h.symm.trans (copyMoved_none ps)) (by simp)
    | wait u => rw [ht] at h; exact absurd (h.symm.trans (copyMoved_none ps)) (by simp)

/-- The first piece that does not move ends the copy. -/
theorem copyStep_stopped {before after : List (Nat × Nat × Nat)} {q : Nat × Nat × Nat} {t u : State}
    (hb : copyMoved m ctx body before (some z) = some t) (hq : copyMove o m ctx body z t q = (none, u)) :
    (before ++ q :: after).foldl (copyStep o m ctx body) (some z, z) = (none, u) := by
  rw [List.foldl_append, copyStep_moved hb, List.foldl_cons]
  have hone : copyStep o m ctx body (some t, z) q = (none, u) := hq
  rw [hone, copyStep_none]

/-- Ranges that are one, or apart, or filled with a pattern need no settling. -/
theorem copySettle_apart {v : State} (h : bit (fld body 40 4) 0 = true ∨ fld body 16 8 = fld body 24 8 ∨
    Nat.min (fld body 16 8) (fld body 24 8) + fld body 32 8 ≤ Nat.max (fld body 16 8) (fld body 24 8)) :
    copySettle m ctx body z v = v := by
  refine if_neg ?_
  rintro ⟨hfill, hne, hlt⟩
  rcases h with h | h | h
  · rw [h] at hfill; cases hfill
  · exact hne h
  · omega

theorem copySettle_overlap {v u : State} {bs : List Byte} (hfill : bit (fld body 40 4) 0 = false) (hne : fld body 16 8 ≠ fld body 24 8)
    (hlt : Nat.max (fld body 16 8) (fld body 24 8) < Nat.min (fld body 16 8) (fld body 24 8) + fld body 32 8)
    (hr : vaRead m ctx (fld body 16 8) (fld body 32 8) .read z = .ok bs u) :
    copySettle m ctx body z v = (vaWrite m ctx (fld body 24 8) (overlapBytes (fld body 16 8) (fld body 24 8) bs v).1
      (overlapBytes (fld body 16 8) (fld body 24 8) bs v).2).state := by
  simp only [copySettle]
  rw [if_pos ⟨by rw [hfill]; rfl, hne, hlt⟩, hr]

end

/-- Settles O25: a running op is `withOp_running`; a COPY's end is `copyDoneDo_eq`, whose pieces move by `copyStep_moved` up
to the first that `copyStep_stopped` meets. -/
theorem frontEndOpsAndCopiesRun : Obligations.FrontEndOpsAndCopiesRun := by
  unfold Obligations.FrontEndOpsAndCopiesRun
  refine ⟨?_, ?_, ?_⟩
  · intro o s e p h hp hen
    refine ⟨fun hop => congrArg Host.Outcome.next (withOp_running h hp hen hop), fun hop s0 t hs hc => ?_, fun hop hf => ?_, fun hop => ?_⟩
    · intro wrote
      have hrun : timestampDo o s = match wrote with
          | .ok _ u => endOp o 0 0 0 u
          | .fault f u => endOp o 0x07 (feFault f e.ctx u).1 0 (feFault f e.ctx u).2
          | .severed u => endOp o 0x0D 0 0 u
          | .wait u => u := by
        rw [timestampDo, withOp_running h hp hen hop, if_pos hc]
        rfl
      have hexec : exec (.opTimestamp o t) s0 = .next (timestampDo o s) := by rw [hs]; rfl
      rw [hexec, hrun]
      exact ⟨fun u hu => by rw [hu], fun f u hu => by rw [hu], fun u hu => by rw [hu], fun u hu => by rw [hu]⟩
    · have hdo := fenceWaitDo_running h hp hop hf
      refine ⟨fun hno => congrArg Host.Outcome.next (by rw [hdo, hno]; rfl), fun w hw => ?_⟩
      rw [hw] at hdo
      simp only [fenceWaitEnd] at hdo
      exact ⟨fun hx => congrArg Host.Outcome.next (by rw [hdo, hx]), fun r hx => congrArg Host.Outcome.next (by rw [hdo, hx]),
        fun hx => congrArg Host.Outcome.next (by rw [hdo, hx])⟩
    · have hdo := fenceSignalOpDo_running h hp hop
      exact ⟨fun hno => congrArg Host.Outcome.next (by rw [hdo, hno]; rfl), fun w hw => congrArg Host.Outcome.next (by rw [hdo, hw]; rfl)⟩
  · intro o s e p h hp hen hop hc chan
    have hexec : exec (.opCopy o chan) s = .next (takeChannel o chan.val s) :=
      congrArg Host.Outcome.next ((withOp_running h hp hen hop).trans (if_pos hc))
    rw [hexec, takeChannel_some h]
    refine ⟨fun hpin => congrArg Host.Outcome.next (if_pos hpin), fun hpin hfree hu hy => congrArg Host.Outcome.next ?_,
      fun hpin hno => congrArg Host.Outcome.next ?_⟩
    all_goals refine (if_neg (by rw [hpin]; decide)).trans ?_
    · exact if_pos ⟨hfree, hu, hy⟩
    · refine if_neg ?_
      rintro ⟨hfree, hu, hy⟩
      rcases hno with h | h | h
      · rw [hfree] at h; cases h
      · exact h hu
      · rw [hy] at h; cases h
  · intro o io s e p c h hp hop hc hrun s0 m src dst n fill drop ends pieces take moved
    have hend : copyDoneDo o io s = copyEnd o m e.ctx p.body s0 (pieces.foldl (copyStep o m e.ctx p.body) (some s0, s0)) :=
      copyDoneDo_eq h hp hop hc hrun
    have hmoved (ps : List (Nat × Nat × Nat)) : moved ps = copyMoved m e.ctx p.body ps (some s0) := rfl
    refine ⟨fun v hv => ?_, fun before q after t hpieces hb => ?_⟩
    · rw [hmoved] at hv
      rw [copyStep_moved hv] at hend
      refine ⟨fun hapart => ?_, fun hfill hne hlt bs u hr => ?_⟩
      · have hset := copySettle_apart (m := m) (ctx := e.ctx) (z := s0) (v := v) hapart
        exact congrArg (fun x => Host.Outcome.next (metaLog x)) (hend.trans (congrArg (fun x => dropCopy o (endOp o 0 0 0 x)) hset))
      · have hset := copySettle_overlap (v := v) hfill hne hlt hr
        exact congrArg (fun x => Host.Outcome.next (metaLog x)) (hend.trans (congrArg (fun x => dropCopy o (endOp o 0 0 0 x)) hset))
    · rw [hmoved] at hb
      have hstop {u : State} (hq : copyMove o m e.ctx p.body s0 t q = (none, u)) :
          copyDoneDo o io s = if opRunning u o = true then u else dropCopy o u := by
        rw [hend, hpieces, copyStep_stopped hb hq]; rfl
      have hends {u : State} (hq : copyMove o m e.ctx p.body s0 t q = (none, u)) : exec (.opCopyDone o io) s = .next (ends u) :=
        congrArg (fun x => Host.Outcome.next (metaLog x)) (hstop hq)
      have hwaits (hq : copyMove o m e.ctx p.body s0 t q = (none, s0)) : exec (.opCopyDone o io) s = .next (metaLog s0) := by
        have hop0 : s0.op? o = some (e, p) := (op?_applyIO io s o).trans h
        have hrunning : opRunning s0 o = true := by rw [opRunning, hop0]; exact decide_eq_true hp
        exact congrArg (fun x => Host.Outcome.next (metaLog x)) ((hstop hq).trans (if_pos hrunning))
      have htake : take q t = copyTake m e.ctx p.body q t := rfl
      rw [htake]
      refine ⟨fun f u hq => hends (by rw [copyMove, hq]), fun u hq => hends (by rw [copyMove, hq]), fun u hq => hwaits (by rw [copyMove, hq]),
        fun bs u hq => ⟨fun f v hw => hends ?_, fun v hw => hends ?_, fun v hw => hwaits ?_⟩⟩
      all_goals rw [copyMove, hq]; dsimp only; rw [hw]

end Sys2Proof.Machine
end

section
/-! The completion of entries, and pre-emption (R68, R88, R89). -/

namespace Sys2Proof.Machine

open Sys2Proof

/-! ### Fields of a record -/

@[simp] theorem length_natLe (n v : Nat) : (natLe n v).length = n := by
  induction n generalizing v with
  | zero => rfl
  | succ n ih => simp [natLe, ih]

theorem leNat_natLe (n v : Nat) : leNat (natLe n v) = v % 256 ^ n := by
  induction n generalizing v with
  | zero => simp [natLe, leNat, Nat.mod_one]
  | succ n ih =>
    simp only [natLe, leNat, ih, BitVec.toNat_ofNat]
    rw [show (256 : Nat) ^ (n + 1) = 2 ^ 8 * 256 ^ n from pow_succ' 256 n, Nat.mod_mul (a := 2 ^ 8)]
    rfl

/-- A field behind a part of the record is one of the rest. -/
theorem fld_append_right {as bs : List Byte} {off : Nat} (n : Nat) (h : as.length ≤ off) :
    fld (as ++ bs) off n = fld bs (off - as.length) n := by
  rw [fld, fld, List.drop_append, List.drop_eq_nil_of_le h, List.nil_append]

/-- The first field of a record. -/
theorem fld_natLe_append (n v : Nat) (bs : List Byte) : fld (natLe n v ++ bs) 0 n = v % 256 ^ n := by
  rw [fld, List.drop_zero, List.take_append_of_le_length (by simp), List.take_of_length_le (by simp), leNat_natLe]

theorem fld_natLe (n v : Nat) : fld (natLe n v) 0 n = v % 256 ^ n := by
  rw [fld, List.drop_zero, List.take_of_length_le (by simp), leNat_natLe]

/-! ### COMPLETED takes what has completed in a row -/

/-- What n rounds of advanceCompleted leave: only the two counts change, by the values that stand in a row. -/
theorem advanceCompleted_row (n : Nat) (x : Ring) :
    advanceCompleted n x = { x with completed := (advanceCompleted n x).completed, done := (advanceCompleted n x).done } ∧
    (∀ v ∈ (advanceCompleted n x).done, v ∈ x.done) ∧
    ∃ k : Nat, (advanceCompleted n x).completed = x.completed + BitVec.ofNat 64 k ∧
      ∀ i, i < k → x.completed + BitVec.ofNat 64 (i + 1) ∈ x.done := by
  induction n generalizing x with
  | zero => exact ⟨rfl, fun v hv => hv, 0, by simp [advanceCompleted], fun i hi => absurd hi (by omega)⟩
  | succ n ih =>
    rw [advanceCompleted]
    split
    · next h =>
      obtain ⟨heq, hdone, k, hk, hall⟩ := ih { x with completed := x.completed + 1, done := x.done.filter (· ≠ x.completed + 1) }
      refine ⟨heq, fun v hv => (List.mem_filter.mp (hdone v hv)).1, k + 1, ?_, ?_⟩
      · rw [hk]
        simp only [BitVec.ofNat_add]
        rw [BitVec.add_assoc, BitVec.add_comm (BitVec.ofNat 64 k)]
        rfl
      · intro i hi
        cases i with
        | zero => simpa using h
        | succ i =>
          have hm := (List.mem_filter.mp (hall i (by omega))).1
          have hs : x.completed + 1 + BitVec.ofNat 64 (i + 1) = x.completed + BitVec.ofNat 64 (i + 1 + 1) := by
            rw [BitVec.add_assoc, BitVec.add_comm 1, BitVec.ofNat_add (i + 1) 1]
            rfl
          rwa [← hs]
    · exact ⟨rfl, fun v hv => hv, 0, by simp, fun i hi => absurd hi (by omega)⟩

/-- With a round for each value that waits, the next value in a row is none of those left. -/
theorem advanceCompleted_stops (n : Nat) (x : Ring) (h : x.done.length ≤ n) :
    (advanceCompleted n x).completed + 1 ∉ (advanceCompleted n x).done := by
  induction n generalizing x with
  | zero =>
    have : x.done = [] := List.length_eq_zero_iff.mp (by omega)
    simp [advanceCompleted, this]
  | succ n ih =>
    rw [advanceCompleted]
    split
    · next hc =>
      refine ih _ ?_
      have hlt : (x.done.filter (· ≠ x.completed + 1)).length < x.done.length :=
        List.length_filter_lt_length_iff_exists.mpr ⟨_, by simpa using hc, by simp⟩
      show (x.done.filter (· ≠ x.completed + 1)).length ≤ n
      omega
    · next hc => simpa using hc

/-! ### The signal edges -/

/-- The signals of a list of edges join the messages in their order. -/
theorem sendFence_foldl (l : List Edge) (what : Edge → Quad ⊕ Reason) (s : State) :
    l.foldl (fun u w => sendFence w.key w.alloc (what w) u) s =
      { s with fen := { s.fen with queue := s.fen.queue ++ l.map fun w => { fence := w.key, alloc := w.alloc, what := what w, page := false } } } := by
  induction l generalizing s with
  | nil => simp
  | cons w l ih =>
    rw [List.foldl_cons, ih]
    simp [sendFence, State.onFen]

theorem signalEdges_eq (x : Entry) (s : State) :
    signalEdges x s = { wcFlushAll s with fen := { (wcFlushAll s).fen with queue := (wcFlushAll s).fen.queue ++
      (((x.edges.drop x.nwait).filter fun w => w.formed && w.passed).map fun w =>
        { fence := w.key, alloc := w.alloc,
          what := if (entryResult x).1 = 0 then .inl w.value else .inr (entryResult x).2.2.2, page := false }) } } :=
  sendFence_foldl _ (fun w => if (entryResult x).1 = 0 then .inl w.value else .inr (entryResult x).2.2.2) _

/-! ### The steps of a completion -/

theorem completeDo_unfinished (r seq : Nat) (s : State) (h : ∀ x, s.entry? r seq = some x → x.phase ≠ .finished) :
    completeDo r seq s = s := by
  unfold completeDo
  cases hx : s.entry? r seq with
  | none => rfl
  | some x => exact if_pos (h x hx)

/-- What a finished entry leaves, by its writes. -/
def completionEnd (x : Entry) (z : State) : Option State → State
  | none => z
  | some u => completeRest x u

theorem completeDo_finished {r seq : Nat} {s : State} {x : Entry} (hx : s.entry? r seq = some x) (hp : x.phase = .finished) :
    completeDo r seq s = completionEnd x s ((x.ops.foldl (fun a p => a.bind (skippedSignal x p))
      (some (countEntry x { s with fe := { s.fe with
        entries := s.fe.entries.filter fun y => !(decide (y.ring = r) && decide (y.seq = seq)) } }))).bind (writeCompletion x)) := by
  simp only [completeDo, hx, State.onFe]
  rw [if_neg (by simp [hp])]
  generalize Option.bind _ (writeCompletion x) = written
  cases written <;> rfl

/-- What is left of a completion record's write. -/
def compRecordEnd (x : Entry) : Res Unit → Option State
  | .ok _ u => some u
  | .fault f u => some (loseCompletion x.ring (feFault f x.ctx u).2)
  | .severed u => some (loseCompletion x.ring u)
  | .wait _ => none

theorem writeCompletion_at {x : Entry} {s : State} (h0 : fld x.raw 32 8 ≠ 0) (h32 : fld x.raw 32 8 % 32 = 0) :
    writeCompletion x s = compRecordEnd x (vaWrite noMaster x.ctx (fld x.raw 32 8) (completionRecord x s.time) s) := by
  unfold writeCompletion
  rw [show entCompVa x.raw = fld x.raw 32 8 from rfl, if_neg h0, if_neg (by omega)]
  cases vaWrite noMaster x.ctx (fld x.raw 32 8) (completionRecord x s.time) s <;> rfl

theorem completionRecord_eq (x : Entry) (t : Nat) :
    completionRecord x t = natLe 8 x.seq ++ (natLe 8 (fld x.raw 40 8) ++ (natLe 2 (entryResult x).1 ++ (natLe 2 (entryResult x).2.1 ++
      (natLe 1 (stickyUnion x) ++ (natLe 1 (entryResult x).2.2.1 ++
        (natLe 2 (Nat.min (x.ops.filter fun p => p.skipped).length 0xFFFF) ++ natLe 8 t)))))) := by
  simp only [completionRecord, List.append_assoc]
  rfl

/-- The fields of a completion record (R89). -/
theorem completionRecord_fields (x : Entry) (t : Nat) :
    (completionRecord x t).length = 32 ∧ fld (completionRecord x t) 0 8 = x.seq % 2 ^ 64 ∧
    fld (completionRecord x t) 8 8 = fld x.raw 40 8 % 2 ^ 64 ∧ fld (completionRecord x t) 16 2 = (entryResult x).1 % 2 ^ 16 ∧
    fld (completionRecord x t) 18 2 = (entryResult x).2.1 % 2 ^ 16 ∧ fld (completionRecord x t) 20 1 = stickyUnion x % 2 ^ 8 ∧
    fld (completionRecord x t) 21 1 = (entryResult x).2.2.1 % 2 ^ 8 ∧
    fld (completionRecord x t) 22 2 = Nat.min (x.ops.filter fun p => p.skipped).length 0xFFFF % 2 ^ 16 ∧
    fld (completionRecord x t) 24 8 = t % 2 ^ 64 := by
  rw [completionRecord_eq]
  refine ⟨by simp, ?_, ?_, ?_, ?_, ?_, ?_, ?_, ?_⟩ <;>
    simp only [fld_append_right, length_natLe, fld_natLe_append, fld_natLe, Nat.reduceLeDiff, Nat.reduceSub, Nat.reducePow]

theorem leNat_lt (l : List Byte) : leNat l < 256 ^ l.length := by
  induction l with
  | nil => simp [leNat]
  | cons b l ih =>
    have hb := b.isLt
    simp only [leNat, List.length_cons, pow_succ]
    omega

theorem fld_lt (b : List Byte) (off n : Nat) : fld b off n < 256 ^ n :=
  (leNat_lt _).trans_le (Nat.pow_le_pow_right (by omega) (by simp))

/-- The state in which a completed entry's waits have been released, a launch having given up its pin. -/
def completionWaits (x : Entry) (u : State) : State :=
  releaseWaits ((x.launch.map fun l => retireReady x.ctx (unpin x.ctx l u)).getD u)

theorem completeRest_eq (x : Entry) (s : State) :
    completeRest x s =
      let waits := completionWaits x (completeSeq x.ring x.seq (signalEdges x s))
      if bit (fld x.raw 5 1) 1 = true then waits
      else if h : x.ring < 8192 then raiseVec (.ring ⟨x.ring, h⟩) (fnOfRing waits x.ring) (waits.ring x.ring).vector waits else waits := by
  unfold completeRest completionWaits
  cases x.launch <;> rfl

/-! ### Pre-emption -/

section
variable {o : OpRef} {s : State} {e : Entry} {p : Op} (h : s.op? o = some (e, p))
include h

theorem preemptDo_idle (hp : p.phase ≠ .running) : preemptDo o s = s := by
  simp only [preemptDo, h]
  exact if_pos hp

theorem preemptDo_discards (hp : p.phase = .running) (hc : ctxRuns s e.ctx = false) : preemptDo o s = stopOp o s := by
  simp only [preemptDo, h]
  rw [if_neg (not_not.mpr hp), if_pos (by rw [hc]; rfl)]

theorem preemptDo_stays (hp : p.phase = .running) (hc : ctxRuns s e.ctx = true) (hr : outranked s o p = false) : preemptDo o s = s := by
  simp only [preemptDo, h]
  rw [if_neg (not_not.mpr hp), if_neg (by rw [hc]; simp), if_pos (by rw [hr]; rfl)]

/-- What an outranked op does, by its tensor run and its pass. -/
def preemptEnd (o : OpRef) (s : State) : Option TensorRun → Option PassRun → State
  | some r, _ => if r.stopping = true ∨ r.held = [] then s else s.onRun o fun r => { r with stopping := true }
  | none, some q => if q.stopping = true then s else passStop o s
  | none, none => shdStop o s

theorem preemptDo_outranked (hp : p.phase = .running) (hc : ctxRuns s e.ctx = true) (hr : outranked s o p = true) :
    preemptDo o s = preemptEnd o s (s.run? o) (s.pass? o) := by
  simp only [preemptDo, h]
  rw [if_neg (not_not.mpr hp), if_neg (by rw [hc]; simp), if_neg (by rw [hr]; simp)]
  cases s.run? o <;> cases s.pass? o <;> rfl

end

/-- Settles O26: the steps of R89 read off the entry, its writes and its ring's counts, and PREEMPT by the op's kind. -/
theorem entriesCompleteOrYield : Obligations.EntriesCompleteOrYield := by
  unfold Obligations.EntriesCompleteOrYield
  refine ⟨fun e t s0 => ⟨fun h => congrArg Host.Outcome.next (completeDo_unfinished _ _ _ h), fun x hx hp => ?_⟩, fun x s => ?_, fun x s => ?_,
    fun r seq s => ?_, fun o s e p h => ?_⟩
  · have hdo := completeDo_finished hx hp
    refine ⟨fun hw => congrArg Host.Outcome.next (hdo.trans ?_), fun u hu => congrArg Host.Outcome.next (hdo.trans ?_)⟩
    · exact congrArg (completionEnd x (advanceTo t s0)) hw
    · exact congrArg (completionEnd x (advanceTo t s0)) hu
  · obtain ⟨hlen, hseq, hcookie, hst, hidx, hsticky, hdetail, hskip, htime⟩ := completionRecord_fields x s.time
    refine ⟨fun h => if_pos h, fun h => ?_, fun h0 h32 => ?_, rfl, hlen, hseq, ?_, hst, hidx, hsticky, hdetail, ?_, htime⟩
    · have h0 : fld x.raw 32 8 ≠ 0 := by omega
      exact (if_neg h0).trans (if_pos h)
    · have hw := writeCompletion_at h0 h32 (s := s)
      refine ⟨fun u hu => ?_, fun f u hu => ?_, fun u hu => ?_, fun u hu => ?_⟩ <;> exact hw.trans (congrArg (compRecordEnd x) hu)
    · exact hcookie.trans (Nat.mod_eq_of_lt (fld_lt x.raw 40 8))
    · exact hskip.trans (Nat.mod_eq_of_lt (lt_of_le_of_lt (Nat.min_le_right _ _) (by norm_num)))
  · have hrest := completeRest_eq x s
    rw [signalEdges_eq] at hrest
    refine ⟨fun hb => hrest.trans (if_pos hb), fun hb hring => hrest.trans ?_⟩
    exact (if_neg (by rw [hb]; simp)).trans (dif_pos hring)
  · obtain ⟨heq, hdone, hrow⟩ := advanceCompleted_row ((s.ring r.val).done.length + 1) { s.ring r.val with done := (s.ring r.val).done ++ [q64 seq] }
    refine ⟨fun hle => if_pos hle, fun hlt => if_neg (BitVec.not_le.mpr hlt), heq, advanceCompleted_stops _ _ (by simp), fun v hv => ?_, hrow⟩
    simpa using hdone v hv
  · refine ⟨fun hp => congrArg Host.Outcome.next (preemptDo_idle h hp), fun hp hc => congrArg Host.Outcome.next (preemptDo_discards h hp hc),
      fun hp hc => ⟨fun hr => congrArg Host.Outcome.next (preemptDo_stays h hp hc hr), fun hr => ?_⟩⟩
    have hout := preemptDo_outranked h hp hc hr
    refine ⟨fun r hrun => congrArg Host.Outcome.next (hout.trans ?_), fun hrun q hq => congrArg Host.Outcome.next (hout.trans ?_),
      fun hrun hq => congrArg Host.Outcome.next (hout.trans ?_)⟩
    · rw [hrun]; rfl
    · rw [hrun, hq]; rfl
    · rw [hrun, hq]; rfl

end Sys2Proof.Machine
end

section
/-! The commands of the fence table (R107, R108, R110). -/

namespace Sys2Proof.Machine

open Sys2Proof

section
variable {s : State} {fn : Fn}

/-- A command of FEN_CMD while the FEN runs: its result, and the state in which errors have acted. -/
theorem fenceCommand_quiet {op : Nat} {g : Nat → State → Nat × State} (hq : quiet s fn.val) (hg : fenOp fn.val op = some g) :
    fenceCommand fn.val op s = errorHooks (fenCommand fn.val g s) := by
  obtain ⟨hopen, hawake, hmis⟩ := hq
  rw [fenceCommand, if_neg (by rw [hopen]; simp), hostWrite_awake hawake]
  simp only [hg]
  rw [if_neg (by rw [halted_of_nil hmis]; simp)]

theorem fenCommand_range {g : Nat → State → Nat × State} (h : fenSelected s fn.val = none) : fenCommand fn.val g s = fenResult fn.val 2 s := by
  simp only [fenCommand, h]
  rfl

theorem fenCommand_own {g : Nat → State → Nat × State} {k : Nat} (h : fenSelected s fn.val = some k) :
    fenCommand fn.val g s = fenResult fn.val (g k (drainFence k s)).1 (g k (drainFence k s)).2 := by
  simp only [fenCommand, h]

/-- A command of FEN_CMD on a fence of the function answers with what its step gives. -/
theorem fenceCommand_own {op k res : Nat} {g : Nat → State → Nat × State} {t : State} (hq : quiet s fn.val) (hg : fenOp fn.val op = some g)
    (hk : fenSelected s fn.val = some k) (hs : g k (drainFence k s) = (res, t)) :
    fenceCommand fn.val op s = errorHooks (fenResult fn.val res t) := by
  rw [fenceCommand_quiet hq hg, fenCommand_own hk, hs]

theorem fenceCommand_range {op : Nat} {g : Nat → State → Nat × State} (hq : quiet s fn.val) (hg : fenOp fn.val op = some g)
    (hk : fenSelected s fn.val = none) : fenceCommand fn.val op s = errorHooks (fenResult fn.val 2 s) := by
  rw [fenceCommand_quiet hq hg, fenCommand_range hk]

/-- A halted FEN keeps a command, unless it keeps one already. -/
theorem fenceCommand_halted {op : Nat} {g : Nat → State → Nat × State} (hopen : barOpen s fn.val = true) (hawake : awake s = true)
    (hh : s.halted .fen = true) (hg : fenOp fn.val op = some g) :
    fenceCommand fn.val op s = if fenBusy s fn.val = true then s else holdWrite fn.val 0x080018 op s := by
  rw [fenceCommand, if_neg (by rw [hopen]; simp), hostWrite_awake hawake]
  simp only [hg]
  rw [if_pos hh]
  rfl

end

/-! ### What each command does to its fence -/

section
variable {fn k : Nat} {d : State}

theorem fenDoAlloc_range (h : fnHasCtx d fn (bits (d.raw fn 0x080004).toNat 8 0) = false) : fenDoAlloc fn k d = (2, d) :=
  if_pos (by rw [h]; rfl)

theorem fenDoAlloc_state (h : fnHasCtx d fn (bits (d.raw fn 0x080004).toNat 8 0) = true)
    (hs : (d.fence k).st ≠ .free ∨ (d.ctx (bits (d.raw fn 0x080004).toNat 8 0)).state ≠ .active) : fenDoAlloc fn k d = (3, d) :=
  (if_neg (by rw [h]; simp)).trans (if_pos hs)

theorem fenDoFree_state (h : (d.fence k).st = .free ∨ (d.fence k).st = .releasing) : fenDoFree k d = (3, d) := by
  unfold fenDoFree
  rcases h with h | h <;> rw [h] <;> rfl

theorem fenDoFree_live (h : (d.fence k).st = .active ∨ (d.fence k).st = .error) : fenDoFree k d = (0, freeFence k d) := by
  unfold fenDoFree
  rcases h with h | h <;> rw [h] <;> rfl

theorem freeFence_eq : freeFence k d = if ¬ 65536 ≤ k ∨ ((fenceError k .aborted d).fence k).imports = [] then
      releaseWaits ((fenceError k .aborted d).setFence k Fence.freeFence)
    else (fenceError k .aborted d).setFence k { (fenceError k .aborted d).fence k with st := .releasing } := by
  unfold freeFence
  simp only [Nat.not_le]

theorem reasonOf_none {n : Nat} (h : n = 0 ∨ 5 < n) : reasonOf n = none := by
  unfold reasonOf
  split <;> first | omega | rfl

theorem fenDoSetError_state (h : (d.fence k).st ≠ .active) : fenDoSetError fn k d = (3, d) := if_pos h

theorem fenDoSetError_bad (h : (d.fence k).st = .active) (hr : reasonOf (bits (d.raw fn 0x080008).toNat 7 0) = none) :
    fenDoSetError fn k d = (1, d) := by
  unfold fenDoSetError
  rw [if_neg (not_not.mpr h), hr]
  rfl

theorem fenDoSetError_reason {why : Reason} (h : (d.fence k).st = .active) (hr : reasonOf (bits (d.raw fn 0x080008).toNat 7 0) = some why) :
    fenDoSetError fn k d = (0, fenceError k why d) := by
  unfold fenDoSetError
  rw [if_neg (not_not.mpr h), hr]
  rfl

/-- The function may name the importer. -/
theorem importRange_iff (i : FenceImport) : importRange d fn i = true ↔ fn = 0 ∨ i.peer = true ∨ fnHasCtx d fn i.ctx = true := by
  simp [importRange, or_assoc]

theorem fenDoImport_local (h : ¬ 65536 ≤ k) : fenDoImport fn k d = (1, d) := if_pos (by omega)

theorem fenDoUnimport_local (h : ¬ 65536 ≤ k) : fenDoUnimport fn k d = (1, d) := if_pos (by omega)

theorem fenDoImport_shared (h : 65536 ≤ k) :
    fenDoImport fn k d = if importRange d fn (importArg d fn) = true then
        if ((d.fence k).st = .active ∨ (d.fence k).st = .error) ∧ (d.fence k).imports.length < 32 then
          (0, d.setFence k { d.fence k with imports := (d.fence k).imports ++ [importArg d fn] })
        else (3, d)
      else (2, d) := by
  unfold fenDoImport
  rw [if_neg (by omega)]
  cases importRange d fn (importArg d fn)
  · rfl
  · simp only [Bool.not_true, Bool.false_eq_true, if_false, if_true]
    cases hst : (d.fence k).st
    · simp; rfl
    · by_cases hl : 32 ≤ (d.fence k).imports.length
      · simp [hl, resState]
      · simp [hl, resOk]
    · by_cases hl : 32 ≤ (d.fence k).imports.length
      · simp [hl, resState]
      · simp [hl, resOk]
    · simp; rfl

theorem fenDoUnimport_shared (h : 65536 ≤ k) :
    fenDoUnimport fn k d = if importRange d fn (importArg d fn) = true then
        if (d.fence k).st = .free ∨ (d.fence k).imports.contains (importArg d fn) = false then (3, d)
        else (0, dropImport k (importArg d fn) d)
      else (2, d) := by
  unfold fenDoUnimport
  rw [if_neg (by omega)]
  cases importRange d fn (importArg d fn)
  · rfl
  · simp only [Bool.not_true, Bool.false_eq_true, if_false, if_true, Bool.not_eq_true']
    rfl

end

/-! ### What waits beside the entries -/

theorem foldl_id {α β : Type} {f : β → α → β} {l : List α} {b : β} (h : ∀ a ∈ l, f b a = b) : l.foldl f b = b := by
  induction l with
  | nil => rfl
  | cons a l ih => rw [List.foldl_cons, h a (by simp), ih fun x hx => h x (by simp [hx])]

/-- Where nothing outside the entries waits on a fence or for its report, an error does no more (R225, R322). -/
theorem errorHooks_none {s : State} (h : noHooks s) : errorHooks s = s := by
  obtain ⟨hplan, hpend, hruns, hreports, hpasses⟩ := h
  have hp : planHooks s = s := by
    refine foldl_id fun d hd => ?_
    have hd' : d < 2 := List.mem_range.mp hd
    have hne : (s.plan d).state ≠ .armed := hplan ⟨d, hd'⟩
    have hslot : planSlot d s = s := if_neg fun h => hne h.1
    simp only [hslot]
    exact if_neg hne
  have hc : commitHooks s = s := by
    refine foldl_id fun p hp => ?_
    have hp' : p < 4 := List.mem_range.mp hp
    have hnone : livePend s p = none := by simp only [livePend, hpend ⟨p, hp'⟩]
    simp only [hnone]
  have hr : s.tns.runs.foldl (fun s r => closeRun r s) s = s := by
    refine foldl_id fun r hr => ?_
    obtain ⟨e, p, hop, hph, hen⟩ := hruns r hr
    simp only [closeRun, hop, hen]
    exact if_neg (not_not.mpr hph)
  have hps : s.rnd.passes.foldl (fun s p => closePass p s) s = s := by
    refine foldl_id fun p hp => ?_
    obtain ⟨e, q, hop, hph, hen⟩ := hpasses p hp
    simp only [closePass, hop, hen]
    exact if_neg (not_not.mpr hph)
  rw [errorHooks, hp, hc, closeOps, hr, hreports]
  exact hps

theorem drainFence_none {k : Nat} {s : State} (h : ∀ m ∈ s.fen.queue, m.fence ≠ k) : drainFence k s = s := by
  have h1 : (s.fen.queue.filter fun m => m.fence = k) = [] := by simpa using h
  have h2 : (s.fen.queue.filter fun m => m.fence ≠ k) = s.fen.queue := by simpa using h
  simp only [drainFence, State.onFen, h1, h2, List.foldl_nil]

/-- Settles O27: a command is its step on the selected fence, and each step is read off the fence's state. -/
theorem fenceCommandsFollowTheirStates : Obligations.FenceCommandsFollowTheirStates := by
  unfold Obligations.FenceCommandsFollowTheirStates
  refine ⟨fun fn s hq => ?_, fun k why s => ⟨fun h => if_neg h, fun h => if_pos h, errorHooks_none, drainFence_none⟩, fun fn s ho ha hh => ?_⟩
  · intro answer
    refine ⟨fun hk => ⟨?_, ?_, ?_, ?_, ?_, ?_⟩, fun k hk => ?_⟩
    iterate 6 exact congrArg Host.Outcome.next (fenceCommand_range hq rfl hk)
    intro d f cfg data ctx shared
    have own {op res : Nat} {g : Nat → State → Nat × State} {t : State} (hg : fenOp fn.val op = some g) (hs : g k d = (res, t)) :
        (.next (fenceCommand fn.val op s) : Out) = .next (answer res t) := congrArg Host.Outcome.next (fenceCommand_own hq hg hk hs)
    have hbits : data % 256 = bits (d.raw fn.val 0x080008).toNat 7 0 := by simp [bits, data]
    refine ⟨fun h => own rfl (fenDoAlloc_range h), fun h hs => own rfl (fenDoAlloc_state h hs), fun h hf ha => own rfl ?_,
      fun h => own rfl (fenDoFree_state h), fun h => own rfl ?_, fun h => own rfl (if_pos h), fun h => own rfl (if_neg h),
      fun h => own rfl (fenDoSetError_state h), fun h hr => own rfl (fenDoSetError_bad h (hbits ▸ reasonOf_none hr)),
      fun why h hr => own rfl (fenDoSetError_reason h (hbits ▸ hr)), ?_⟩
    · refine (if_neg (by rw [h]; simp)).trans ((if_neg ?_).trans rfl)
      rintro (h' | h')
      · exact h' hf
      · exact h' ha
    · exact (fenDoFree_live h).trans (congrArg (Prod.mk 0) freeFence_eq)
    · intro i mayName
      have hi : importRange d fn.val (importArg d fn.val) = true ↔ mayName := importRange_iff _
      refine ⟨fun h => ⟨own rfl (fenDoImport_local h), own rfl (fenDoUnimport_local h)⟩,
        fun h hm => ⟨own rfl ((fenDoImport_shared h).trans (if_neg (hi.not.mpr hm))), own rfl ((fenDoUnimport_shared h).trans (if_neg (hi.not.mpr hm)))⟩,
        fun h hm hs hl => own rfl ((fenDoImport_shared h).trans ((if_pos (hi.mpr hm)).trans (if_pos ⟨hs, hl⟩))),
        fun h hm hs => own rfl ((fenDoImport_shared h).trans ((if_pos (hi.mpr hm)).trans (if_neg ?_))),
        fun h hm hs => own rfl ((fenDoUnimport_shared h).trans ((if_pos (hi.mpr hm)).trans (if_pos hs))),
        fun h hm hs hc => own rfl ((fenDoUnimport_shared h).trans ((if_pos (hi.mpr hm)).trans (if_neg ?_)))⟩
      · rintro ⟨hst, hl⟩
        change (f.st = .active ∨ f.st = .error) at hst
        change f.imports.length < 32 at hl
        rcases hs with hs | hs | hs
        · simp [hs] at hst
        · simp [hs] at hst
        · omega
      · rintro (hs' | hc')
        · exact hs hs'
        · exact absurd (hc.symm.trans hc') (by simp)
  · exact ⟨congrArg Host.Outcome.next (fenceCommand_halted ho ha hh rfl), congrArg Host.Outcome.next (fenceCommand_halted ho ha hh rfl),
      congrArg Host.Outcome.next (fenceCommand_halted ho ha hh rfl), congrArg Host.Outcome.next (fenceCommand_halted ho ha hh rfl),
      congrArg Host.Outcome.next (fenceCommand_halted ho ha hh rfl), congrArg Host.Outcome.next (fenceCommand_halted ho ha hh rfl)⟩

end Sys2Proof.Machine
end

section
/-! The messages of the fence table (R100 to R103, R109, R112, R483). -/

namespace Sys2Proof.Machine

open Sys2Proof

/-! ### The message in front -/

theorem applyHead_stays {s : State} (sig : Bool) (h : s.fen.queue = [] ∨ s.halted .fen = true) : applyHead sig s = s := by
  unfold applyHead
  cases hq : s.fen.queue with
  | nil => rfl
  | cons m rest =>
    rcases h with h | h
    · rw [hq] at h; cases h
    · exact if_pos (.inl h)

section
variable {s : State} {m : FenceMsg} {rest : List FenceMsg} (hq : s.fen.queue = m :: rest)
include hq

theorem applyHead_other {sig : Bool} (h : m.what.isLeft ≠ sig) : applyHead sig s = s := by
  unfold applyHead
  rw [hq]
  exact if_pos (.inr h)

theorem applyHead_own {sig : Bool} (hh : s.halted .fen = false) (h : m.what.isLeft = sig) :
    applyHead sig s = errorHooks (applyMsg m { s with fen := { s.fen with queue := rest } }) := by
  unfold applyHead
  rw [hq]
  exact if_neg (by simp [hh, h])

end

/-! ### What a message does to its fence -/

section
variable {u : State} {k : Nat}

theorem fenceSignal_ignored {v : Quad} (h : (u.fence k).st ≠ .active ∨ v ≤ (u.fence k).value) :
    fenceSignal k v u = u.setFence k { u.fence k with ignored := (u.fence k).ignored + 1 } := by
  refine if_neg ?_
  rintro ⟨hst, hv⟩
  exact h.elim (fun h => h hst) fun h => BitVec.not_lt.mpr h hv

theorem fenceSignal_taken {v : Quad} (hst : (u.fence k).st = .active) (hv : (u.fence k).value < v) :
    fenceSignal k v u = valueEvent k (fireSlots k (releaseWaits (u.setFence k { u.fence k with value := v, changed := u.time }))) :=
  if_pos ⟨hst, hv⟩

theorem fenceError_terminal {why : Reason} (h : (u.fence k).st ≠ .active) : fenceError k why u = u := if_neg h

theorem fenceError_active {why : Reason} (h : (u.fence k).st = .active) :
    fenceError k why u = errorEvent k (fireSlots k (releaseWaits (u.setFence k { u.fence k with st := .error, reason := some why }))) := if_pos h

end

section
variable {u : State} {m : FenceMsg} {f : Fence} (hfe : u.fence m.fence = f)
include hfe

theorem applyMsg_gone (h : f.st = .free ∨ f.alloc ≠ m.alloc) : applyMsg m u = u := by
  subst hfe
  exact if_pos h

theorem applyMsg_signal {v : Quad} (hf : f.st ≠ .free) (ha : f.alloc = m.alloc) (hw : m.what = .inl v) :
    applyMsg m u = if m.page = true ∧ f.pageSig = false then u.setFence m.fence { f with ignored := f.ignored + 1 } else fenceSignal m.fence v u := by
  subst hfe
  unfold applyMsg
  rw [if_neg (by simp [hf, ha]), hw]
  simp only [Bool.not_eq_true']

theorem applyMsg_error {why : Reason} (hf : f.st ≠ .free) (ha : f.alloc = m.alloc) (hw : m.what = .inr why) :
    applyMsg m u = if m.page = true ∧ f.pageErr = false then u else fenceError m.fence why u := by
  subst hfe
  unfold applyMsg
  rw [if_neg (by simp [hf, ha]), hw]
  simp only [Bool.not_eq_true']

/-- A signal that its fence does not take counts as ignored. -/
theorem applyMsg_ignored {v : Quad} (hf : f.st ≠ .free) (ha : f.alloc = m.alloc) (hw : m.what = .inl v)
    (h : (m.page = true ∧ f.pageSig = false) ∨ f.st ≠ .active ∨ v ≤ f.value) :
    applyMsg m u = u.setFence m.fence { f with ignored := f.ignored + 1 } := by
  rw [applyMsg_signal hfe hf ha hw]
  subst hfe
  split
  · rfl
  · next hp => exact fenceSignal_ignored (h.resolve_left hp)

theorem applyMsg_taken {v : Quad} {now : Nat} (hnow : u.time = now) (ha : f.alloc = m.alloc) (hst : f.st = .active) (hw : m.what = .inl v)
    (hp : m.page = false ∨ f.pageSig = true) (hv : f.value < v) :
    applyMsg m u = valueEvent m.fence (fireSlots m.fence (releaseWaits (u.setFence m.fence { f with value := v, changed := now }))) := by
  rw [applyMsg_signal hfe (by simp [hst]) ha hw, if_neg (by rcases hp with hp | hp <;> simp [hp])]
  subst hfe hnow
  exact fenceSignal_taken hst hv

theorem applyMsg_fails {why : Reason} (ha : f.alloc = m.alloc) (hst : f.st = .active) (hw : m.what = .inr why)
    (hp : m.page = false ∨ f.pageErr = true) :
    applyMsg m u = errorEvent m.fence (fireSlots m.fence (releaseWaits (u.setFence m.fence { f with st := .error, reason := some why }))) := by
  rw [applyMsg_error hfe (by simp [hst]) ha hw, if_neg (by rcases hp with hp | hp <;> simp [hp])]
  subst hfe
  exact fenceError_active hst

/-- An error that its fence does not take, or that comes for an allocation that is gone, does nothing. -/
theorem applyMsg_error_dropped {why : Reason} (hw : m.what = .inr why)
    (h : f.alloc ≠ m.alloc ∨ (m.page = true ∧ f.pageErr = false) ∨ f.st ≠ .active) : applyMsg m u = u := by
  by_cases hg : f.st = .free ∨ f.alloc ≠ m.alloc
  · exact applyMsg_gone hfe hg
  · obtain ⟨hf, ha⟩ := not_or.mp hg
    rw [applyMsg_error hfe hf (not_not.mp ha) hw]
    subst hfe
    split
    · rfl
    · next hp => exact fenceError_terminal ((h.resolve_left ha).resolve_left hp)

end

/-! ### What a change makes besides -/

/-- Slots of which none fires leave the state as it is. -/
theorem fireSlots_none {k : Nat} {s : State} (h : ∀ i < 8, ¬ (((s.fence k).slot i).armed = true ∧ (s.fence k).st ≠ .free ∧
    (((s.fence k).slot i).threshold ≤ (s.fence k).value ∨ (s.fence k).st ≠ .active))) : fireSlots k s = s :=
  foldl_id fun i hi => if_neg (h i (List.mem_range.mp hi))

theorem valueEvent_spaced {k : Nat} {s : State} (hn : (s.fence k).notify = true) (hk : k < 65536) {l : Nat} (hl : (s.fence k).evLast = some l)
    (ht : s.time < l + 1000) : valueEvent k s = s.setFence k { s.fence k with evHeld := true } := by
  unfold valueEvent
  rw [if_pos ⟨hn, hk⟩]
  simp only [hl, if_pos ht]

theorem valueEvent_now {k : Nat} {s : State} (hn : (s.fence k).notify = true) (hk : k < 65536)
    (h : ¬ ∃ l, (s.fence k).evLast = some l ∧ s.time < l + 1000) : valueEvent k s = fenceEvent k 0 s := by
  unfold valueEvent
  rw [if_pos ⟨hn, hk⟩]
  cases hl : (s.fence k).evLast with
  | none => rfl
  | some l => exact if_neg fun ht => h ⟨l, hl, ht⟩

/-- Settles O28: the message in front is applied by its kind, and what it does is read off its fence. -/
theorem fenceMessagesApply : Obligations.FenceMessagesApply := by
  unfold Obligations.FenceMessagesApply
  refine ⟨fun t s0 h => ⟨congrArg Host.Outcome.next (applyHead_stays true h), congrArg Host.Outcome.next (applyHead_stays false h)⟩,
    fun t s0 m rest => ?_, fun k s => ⟨fun h => ?_, fun h => ?_, fun hn hk => ⟨if_pos ⟨hn, hk⟩, ?_⟩⟩⟩
  · intro s
    rw [show exec (.fenceSignalApply t) s0 = .next (applyHead true s) from rfl, show exec (.fenceErrorApply t) s0 = .next (applyHead false s) from rfl]
    clear_value s
    intro hh hq f u
    have sig {v : Quad} (hw : m.what = .inl v) : applyHead true s = errorHooks (applyMsg m u) := applyHead_own hq hh (by rw [hw]; rfl)
    have err {why : Reason} (hw : m.what = .inr why) : applyHead false s = errorHooks (applyMsg m u) := applyHead_own hq hh (by rw [hw]; rfl)
    refine ⟨fun why hw => congrArg Host.Outcome.next (applyHead_other hq (by simp [hw])),
      fun v hw => congrArg Host.Outcome.next (applyHead_other hq (by simp [hw])), fun v hw => ⟨fun h => ?_, fun hf ha h => ?_, fun ha hp hst hv => ?_⟩,
      fun why hw => ⟨fun h => ?_, fun ha hp hst => ?_⟩⟩
    · exact congrArg Host.Outcome.next ((sig hw).trans (congrArg errorHooks (applyMsg_gone rfl h)))
    · exact congrArg Host.Outcome.next ((sig hw).trans (congrArg errorHooks (applyMsg_ignored rfl hf ha hw h)))
    · exact congrArg Host.Outcome.next ((sig hw).trans (congrArg errorHooks (applyMsg_taken rfl rfl ha hst hw hp hv)))
    · exact congrArg Host.Outcome.next ((err hw).trans (congrArg errorHooks (applyMsg_error_dropped rfl hw h)))
    · exact congrArg Host.Outcome.next ((err hw).trans (congrArg errorHooks (applyMsg_fails rfl ha hst hw hp)))
  · have hslot : ∀ i, ((s.fence k).slot i).armed = false := fun i => by
      rw [Fence.slot, h]
      rfl
    exact fireSlots_none fun i _ hi => by simp [hslot i] at hi
  · have hno : ¬ ((s.fence k).notify = true ∧ k < 65536) := by
      rintro ⟨hn, hk⟩
      rcases h with h | h
      · exact absurd (hn.symm.trans h) (by simp)
      · omega
    exact ⟨if_neg hno, if_neg hno⟩
  · split
    · next h =>
      obtain ⟨l, hl, ht⟩ := h
      exact valueEvent_spaced hn hk hl ht
    · next h => exact valueEvent_now hn hk h

end Sys2Proof.Machine
end

section
/-! Timers of the fence table, the spacing of vectors, and the queues of the device (R57, R104, R109, R124, R257, R482). -/

namespace Sys2Proof.Machine

open Sys2Proof

/-! ### Timeouts and the spacing of events -/

theorem scanFence_due {k : Nat} {s : State} (hst : ((drainFence k s).fence k).st = .active) (ht : ((drainFence k s).fence k).timeout ≠ 0)
    (hw : hasWaiter (drainFence k s) k = true)
    (hnow : ((drainFence k s).fence k).changed + ((drainFence k s).fence k).timeout * 1000000 ≤ (drainFence k s).time) :
    scanFence k s = fenceError k .timeout (drainFence k s) := if_pos ⟨hst, ht, hw, hnow⟩

/-- The held value event of a fence is due. -/
def spacingDue (s : State) (k : Nat) : Prop :=
  (s.fence k).evHeld = true ∧ (s.fence k).st = .active ∧ (s.fence k).notify = true ∧ ∃ t, (s.fence k).evLast = some t ∧ t + 1000 ≤ s.time

/-- The event queue of a function takes events. -/
def evqOn (s : State) (fn : Nat) : Prop :=
  bit (s.raw fn 0x080028).toNat 31 = true ∧ bits (s.raw fn 0x080028).toNat 26 16 ≠ 0 ∧ 4 ≤ bits (s.raw fn 0x080028).toNat 3 0 ∧
    bits (s.raw fn 0x080028).toNat 3 0 ≤ 12

theorem spacingExpiry_not {k : Nat} {s : State} (h : ¬ spacingDue s k) : spacingExpiry k s = s := by
  refine if_neg fun ⟨hheld, hst, hn, hl⟩ => h ⟨hheld, hst, hn, ?_⟩
  cases ht : (s.fence k).evLast with
  | none => rw [ht] at hl; cases hl
  | some t => rw [ht] at hl; exact ⟨t, rfl, of_decide_eq_true hl⟩

theorem spacingExpiry_due {k : Nat} {s : State} (h : spacingDue s k) : spacingExpiry k s = fenceEvent k 0 s := by
  obtain ⟨hheld, hst, hn, t, ht, hle⟩ := h
  exact if_pos ⟨hheld, hst, hn, by rw [ht]; exact decide_eq_true hle⟩

section
variable {k type : Nat} {s u : State} (hu : s.setFence k { s.fence k with evLast := some s.time, evHeld := false } = u)
include hu

theorem fenceEvent_off (h : ¬ evqOn u (fnOfFence u k)) :
    fenceEvent k type s = u.setEvq (fnOfFence u k) { u.evq (fnOfFence u k) with lost := (u.evq (fnOfFence u k)).lost + 1 } := by
  subst hu
  exact if_neg h

theorem fenceEvent_on (h : evqOn u (fnOfFence u k)) :
    fenceEvent k type s = eventPut (fnOfFence u k) (s.fence k).owner
      (natLe 8 (s.fence k).cookie.toNat ++ natLe 8 (s.fence k).value.toNat ++ natLe 2 k ++ natLe 1 type ++
        natLe 1 (if type = 1 then ((s.fence k).reason.map Reason.num).getD 0 else 0) ++ natLe 4 0 ++ natLe 8 u.time) u := by
  subst hu
  exact if_pos h

end

/-! ### Records of a queue -/

/-- The counts after a record: one more written, or one more lost. -/
theorem queuePut_counts {base log2 n : Nat} {c q : QueueCnt} {rec : List Byte} {s u : State} {ok : Bool}
    (h : queuePut base log2 n c rec s = some (q, ok, u)) :
    q = if ok = true then { c with prod := c.prod + 1 } else { c with lost := c.lost + 1 } := by
  unfold queuePut at h
  dsimp only at h
  split at h
  · cases h
  · cases h; rfl
  · split at h
    · cases h; rfl
    · split at h <;> cases h <;> rfl

section
variable {fn : Fn} {owner : Nat} {rec : List Byte} {s : State}

/-- The write of an event record at its function's queue. -/
def evqPut (s : State) (fn : Nat) (rec : List Byte) : Option (QueueCnt × Bool × State) :=
  queuePut (s.rawBase fn 0x080020 0x080024) (bits (s.raw fn 0x080028).toNat 3 0) 32 (s.evq fn) rec s

theorem eventPut_waits (h : recordWaits s true fn.val = true ∨ evqPut s fn.val rec = none) :
    eventPut fn.val owner rec s = { s with mem := { s.mem with records := s.mem.records ++ [{ event := true, n := fn.val, bytes := rec }] } } := by
  unfold eventPut evqCfg
  dsimp only
  by_cases hw : recordWaits s true fn.val = true
  · exact if_pos hw
  · have hput := h.resolve_left hw
    rw [evqPut] at hput
    rw [if_neg hw, hput]
    rfl

/-- What an event record leaves, once its write has been tried. -/
def eventEnd (fn : Fn) (owner : Nat) (s : State) : QueueCnt × Bool × State → State
  | (q, ok, u) =>
    let w := noteQueue 0x82 owner (queueAccess (s.rawBase fn.val 0x080020 0x080024) (bits (s.raw fn.val 0x080028).toNat 3 0) 32 (s.evq fn.val) s)
      (u.setEvq fn.val q)
    if ok = true then raiseVec (.fenceEvents fn) fn.val (bits (s.raw fn.val 0x080028).toNat 26 16) w else w

theorem eventPut_written {r : QueueCnt × Bool × State} (hw : recordWaits s true fn.val = false) (h : evqPut s fn.val rec = some r) :
    eventPut fn.val owner rec s = eventEnd fn owner s r := by
  unfold eventPut evqCfg
  dsimp only
  rw [evqPut] at h
  obtain ⟨q, ok, u⟩ := r
  rw [if_neg (by rw [hw]; simp), h]
  dsimp only [eventEnd]
  rw [dif_pos fn.isLt]

end

/-! ### Violations of the device itself -/

theorem loopsBack_iff {s : State} {pa : Nat} :
    loopsBack s pa = true ↔ 2 ^ 48 ≤ pa ∧ ∃ e ∈ s.mem.bars, e.1 ≤ pa % 2 ^ 48 ∧ pa % 2 ^ 48 < e.2 := by
  simp [loopsBack, ownBar]

theorem noteViolation_loops {src ctx pa n : Nat} {s : State} (h : loopsBack s pa = true) :
    noteViolation src ctx pa n s = logError 0x11 src ctx 3 pa false s := by
  unfold noteViolation devCause
  rw [if_pos h]
  rfl

theorem noteViolation_owned {src ctx pa n : Nat} {s u : State} (h : loopsBack s pa = false)
    (hr : paRead 0 Attr.plain pa n s = .fault .keyMismatch u) : noteViolation src ctx pa n s = logError 0x11 src ctx 1 pa false s := by
  unfold noteViolation devCause
  rw [if_neg (by rw [h]; simp), hr]
  rfl

theorem devCause_none {pa n : Nat} {s : State} (h : loopsBack s pa = false) (hr : ∀ u, paRead 0 Attr.plain pa n s ≠ .fault .keyMismatch u) :
    devCause pa n s = none := by
  unfold devCause
  rw [if_neg (by rw [h]; simp)]
  split
  · next u heq => exact absurd heq (hr u)
  · rfl

theorem noteViolation_none {src ctx pa n : Nat} {s : State} (h : loopsBack s pa = false) (hr : ∀ u, paRead 0 Attr.plain pa n s ≠ .fault .keyMismatch u) :
    noteViolation src ctx pa n s = s := by
  rw [noteViolation, devCause_none h hr]

/-! ### Queue bases -/

/-- The row of a register that holds a part of a queue's base. -/
def queueBaseRow (base : Nat) (mask : Word) : RegDef := regRow base 1 mask 0 0 0 0 false true

/-- A write of a register that holds a part of a base reaches its effect, which stores the fields of its mask. -/
theorem regWrite4_queueBase {fn : Fn} {s : State} {b : BlockId} {rel i : Nat} {mask : Word} {after : State → State} (v : Word) (hq : quiet s fn.val)
    (hrow : regAt b rel = some (queueBaseRow rel mask, i)) (hrel : rel < 0xFF0) (hh : b ≠ .hst) (hlow : blockBase b + 0x4000 ≤ 2 ^ 20)
    (hon : blockOff s b = false) (heff : ∀ w : RegWr, w.agent = fn.val → regEffect b rel w s = after (storeWr w 0 s)) :
    regWrite4 fn.val (blockBase b + rel) v s =
      after (s.setRaw fn.val (blockBase b + rel) ((s.raw fn.val (blockBase b + rel) &&& ~~~mask) ||| (v &&& mask))) := by
  have h := regWrite4_win_open (d := queueBaseRow rel mask) .primary v hq hrow hrel hh (.inr ⟨rfl, hlow⟩) hon rfl
  rw [show Window.primary.delta = 0 from rfl, Nat.add_zero, heff _ rfl] at h
  rw [h]
  have hfull (x : Word) : x &&& ~~~(0 : Word) &&& ~~~(v &&& 0) = x := by simp [and_full]
  have hmask : mask ||| 0 ||| 0 = mask := by simp
  simp only [storeWr, winWrite, newValue, queueBaseRow, regRow, agentFn_fn, if_true, hmask, hfull]

/-! ### The spacing of vectors -/

/-- What a source's holdoff does when it ends, by what the source holds back. -/
def holdoffEnd (src : VecSource) (s : State) : Option VecHold → State
  | none => s
  | some h => match h.pend with
    | none => s
    | some (fn, vec) => if s.time < h.last + 1000 then s else raiseSrc src fn vec s

theorem execVectorHoldoffExpiry_eq (src : VecSource) (t : Nat) (s0 : State) :
    execVectorHoldoffExpiry src t s0 = .next (holdoffEnd src (advanceTo t s0) ((advanceTo t s0).reg.vecs.find? fun h => h.src = src)) := by
  simp only [execVectorHoldoffExpiry]
  generalize advanceTo t s0 = s
  cases s.reg.vecs.find? fun h => h.src = src with
  | none => rfl
  | some h => rcases hp : h.pend with _ | ⟨fn, vec⟩ <;> simp only [holdoffEnd, hp]

section
variable {src : VecSource} {s : State} {h : VecHold}

theorem holdoffEnd_early (hp : h.pend = none ∨ s.time < h.last + 1000) : holdoffEnd src s (some h) = s := by
  rcases hpend : h.pend with _ | ⟨fn, vec⟩ <;> simp only [holdoffEnd, hpend]
  exact if_pos (hp.resolve_left (by simp [hpend]))

theorem holdoffEnd_due {fn vec : Nat} (hf : s.reg.vecs.find? (fun h => h.src = src) = some h) (hp : h.pend = some (fn, vec)) (ht : h.last + 1000 ≤ s.time) :
    holdoffEnd src s (some h) = deliver fn vec { s with reg := { s.reg with
      vecs := mapIf (fun h => h.src = src) (fun h => { h with last := s.time, pend := none }) s.reg.vecs } } := by
  simp only [holdoffEnd, hp]
  rw [if_neg (by omega), raiseSrc, hf]
  exact if_neg (by omega)

end

/-- Settles O29: the scan fence by fence, the held event and the held raise by the time that has passed, a record by its queue. -/
theorem fenceTimersVectorsAndQueues : Obligations.FenceTimersVectorsAndQueues := by
  unfold Obligations.FenceTimersVectorsAndQueues
  refine ⟨fun t s0 => ⟨fun h => congrArg Host.Outcome.next (if_pos h), fun h => congrArg Host.Outcome.next (if_neg (by rw [h]; simp))⟩,
    fun k s => ⟨fun h => if_neg h, fun h => (if_pos h).trans (if_pos h.1)⟩, fun k t s0 => ?_, fun fn owner rec s => ?_, fun src ctx pa n s => ?_,
    fun fn v s hq => ?_, fun src t s0 => ?_⟩
  · intro s
    rw [show exec (.fenceEventSpacingExpiry k t) s0 = .next (spacingExpiry k.val s) from rfl]
    clear_value s
    intro f u fn q cfg on due
    refine ⟨fun h => congrArg Host.Outcome.next (spacingExpiry_not h), fun h hon => congrArg Host.Outcome.next ((spacingExpiry_due h).trans ?_),
      fun h hon => congrArg Host.Outcome.next ((spacingExpiry_due h).trans ?_)⟩
    · exact fenceEvent_off rfl hon
    · exact fenceEvent_on rfl hon
  · exact ⟨eventPut_waits, fun q ok u hw h => eventPut_written hw h, fun q ok u h => queuePut_counts h⟩
  · refine ⟨fun h => noteViolation_loops (loopsBack_iff.mpr h), fun u h hr => noteViolation_owned ?_ hr, fun h hr => noteViolation_none ?_ hr⟩ <;>
      exact Bool.eq_false_iff.mpr (loopsBack_iff.not.mpr h)
  · have fen {rel i : Nat} {mask : Word} (hrow : regAt .fen rel = some (queueBaseRow rel mask, i)) (h : rel = 0x20 ∨ rel = 0x24) :
        regWrite4 fn.val (0x080000 + rel) v s = (s.setRaw fn.val (0x080000 + rel)
          ((s.raw fn.val (0x080000 + rel) &&& ~~~mask) ||| (v &&& mask))).setEvq fn.val QueueCnt.zero :=
      regWrite4_queueBase (b := .fen) (after := State.setEvq fn.val QueueCnt.zero) v hq hrow (by omega) (by decide) (by decide) rfl fun w hw => by
        rw [regEffect, fenEffect, if_neg (by omega), if_pos h, evqBaseEffect, hw, agentFn_fn]
    have fe {rel i : Nat} {mask : Word} (hrow : regAt .fe rel = some (queueBaseRow rel mask, i)) (h : rel = 0x300 ∨ rel = 0x304) :
        regWrite4 fn.val (0x060000 + rel) v s = setParkq fn.val QueueCnt.zero (s.setRaw fn.val (0x060000 + rel)
          ((s.raw fn.val (0x060000 + rel) &&& ~~~mask) ||| (v &&& mask))) :=
      regWrite4_queueBase (b := .fe) (after := setParkq fn.val QueueCnt.zero) v hq hrow (by omega) (by decide) (by decide) rfl fun w hw => by
        rw [regEffect, feEffect, if_neg (by omega), if_neg (by omega), if_neg (by omega), if_pos h, parkqBaseEffect, hw, agentFn_fn]
    exact ⟨congrArg Host.Outcome.next (fen (i := 0) (mask := 0xFFFFFFC0) (by decide) (.inl rfl)),
      congrArg Host.Outcome.next (fen (i := 0) (mask := 0x1FFFF) (by decide) (.inr rfl)),
      congrArg Host.Outcome.next (fe (i := 0) (mask := 0xFFFFFFC0) (by decide) (.inl rfl)),
      congrArg Host.Outcome.next (fe (i := 0) (mask := 0x1FFFF) (by decide) (.inr rfl))⟩
  · intro s
    rw [show exec (.vectorHoldoffExpiry src t) s0 = .next (holdoffEnd src s (s.reg.vecs.find? fun h => h.src = src)) from
      execVectorHoldoffExpiry_eq src t s0]
    clear_value s
    refine ⟨fun hf => congrArg Host.Outcome.next (by rw [hf]; rfl), fun h hf => ?_⟩
    rw [hf]
    refine ⟨fun hp => congrArg Host.Outcome.next (holdoffEnd_early hp), fun fn vec hp ht => ?_⟩
    rw [holdoffEnd_due hf hp ht]
    intro o vecs
    exact ⟨fun hm => congrArg Host.Outcome.next (if_pos hm), fun hm => congrArg Host.Outcome.next ((if_neg (by
      show ¬ (s.raw fn (o + 12)).toNat % 2 = 1
      omega)).trans rfl)⟩

end Sys2Proof.Machine
end

section
/-! What leaves the fence table as it is: memory, the error log, and the start of a teardown. -/

namespace Sys2Proof.Machine

open Sys2Proof

/-- t has the fences of z. -/
def FencesOf (z t : State) : Prop := t.fen.fences = z.fen.fences

theorem FencesOf.refl (z : State) : FencesOf z z := rfl

/-- A change that is made element by element keeps what each of its steps keeps. -/
theorem foldl_fences {α : Type} {z : State} {f : State → α → State} (hf : ∀ s a, FencesOf z s → FencesOf z (f s a)) {s : State} (l : List α)
    (h : FencesOf z s) : FencesOf z (l.foldl f s) := by
  induction l generalizing s with
  | nil => exact h
  | cons a l ih => exact ih (hf s a h)

section
variable {z s : State}

/-! ### Memory below the L2s -/

theorem cellsSet_fences (a : Nat) (bs : List Byte) (h : FencesOf z s) : FencesOf z (cellsSet a bs s) := by
  induction bs generalizing a s with
  | nil => exact h
  | cons b bs ih => exact ih (a + 1) (s := cellSet a b s) h

theorem retag_fences (tag pa cell : Nat) (h : FencesOf z s) : FencesOf z (retag tag pa cell s) := by
  unfold retag
  split
  · exact h
  · exact cellsSet_fences _ _ h

theorem dramWrite_fences (key pa : Nat) (bs : List Byte) (h : FencesOf z s) : FencesOf z (dramWrite key pa bs s) := by
  induction bs generalizing pa s with
  | nil => exact h
  | cons b bs ih =>
    unfold dramWrite
    refine ih _ ?_
    split
    · exact retag_fences _ _ _ h
    · exact h

theorem fbcWriteBlock_fences (key frame i : Nat) (bs : List Byte) (h : FencesOf z s) : FencesOf z (fbcWriteBlock key frame i bs s) := by
  unfold fbcWriteBlock
  dsimp only
  have out (b : List Byte) : FencesOf z (dramWrite key (frame * 4096 + i * 256) b s) := dramWrite_fences _ _ _ h
  refine dramWrite_fences _ _ _ ?_
  split_ifs <;> first | exact h | exact out _

theorem lineOut_fences (key line off : Nat) (bs : List Byte) (h : FencesOf z s) : FencesOf z (lineOut key line off bs s) := by
  unfold lineOut
  dsimp only
  split
  · exact cellsSet_fences _ _ h
  · exact dramWrite_fences _ _ _ h

theorem metaMet_fences (d key line : Nat) (code : Option Nat) (h : FencesOf z s) : FencesOf z (metaMet d key line code s) := by
  cases code <;> exact h

theorem writeBack_fences (l : L2Line) (h : FencesOf z s) : FencesOf z (writeBack l s) := by
  unfold writeBack
  dsimp only
  split
  · refine fbcWriteBlock_fences _ _ _ _ ?_
    split
    · exact h
    · exact metaMet_fences _ _ _ _ h
  · exact lineOut_fences _ _ _ _ h

/-! ### The L2s and the combining buffers -/

theorem setL2_fences (d : Nat) (x : L2) (h : FencesOf z s) : FencesOf z (s.setL2 d x) := h

theorem onMem_fences (f : MemSys → MemSys) (h : FencesOf z s) : FencesOf z (s.onMem f) := h

theorem wcFlush_fences (d : Nat) (w : WcBuf) (h : FencesOf z s) : FencesOf z (wcFlush d w s) :=
  setL2_fences _ _ (foldl_fences (fun _ _ hs => lineOut_fences _ _ _ _ hs) w.bytes h)

theorem wcFlushIf_fences (d : Nat) (p : WcBuf → Bool) (h : FencesOf z s) : FencesOf z (wcFlushIf d p s) :=
  foldl_fences (fun _ _ hs => wcFlush_fences _ _ hs) _ h

theorem wcFlushAll_fences (h : FencesOf z s) : FencesOf z (wcFlushAll s) := wcFlushIf_fences _ _ (wcFlushIf_fences _ _ h)

theorem l2Fill_fences (d : Nat) (m : L2Miss) (h : FencesOf z s) : FencesOf z (l2Fill d m s) :=
  setL2_fences _ _ (metaMet_fences _ _ _ _ (setL2_fences _ _ h))

theorem l2FillIf_fences (d : Nat) (p : L2Miss → Bool) (h : FencesOf z s) : FencesOf z (l2FillIf d p s) :=
  foldl_fences (fun _ _ hs => l2Fill_fences _ _ hs) _ h

theorem writeBacks_fences (l : List L2Line) (h : FencesOf z s) : FencesOf z (l.foldl (fun s l => writeBack l s) s) :=
  foldl_fences (fun _ _ hs => writeBack_fences _ hs) l h

theorem l2Victim_fences (d line : Nat) (h : FencesOf z s) : FencesOf z (l2Victim d line s).2 := by
  unfold l2Victim
  dsimp only
  split
  · exact h
  · exact setL2_fences _ _ (writeBacks_fences _ (l2FillIf_fences _ _ (setL2_fences _ _ h)))

theorem l2OtherKey_fences (d line key : Nat) (h : FencesOf z s) : FencesOf z (l2OtherKey d line key s) :=
  setL2_fences _ _ (writeBacks_fences _ (l2FillIf_fences _ _ h))

theorem l2Miss_fences (d line key : Nat) (fbc pref : Bool) (w : List (Nat × Byte)) (h : FencesOf z s) : FencesOf z (l2Miss d line key fbc pref w s) := by
  unfold l2Miss
  exact onMem_fences _ (setL2_fences _ _ (l2Victim_fences _ _ h))

theorem wcWrite_fences (d line key off : Nat) (bs : List Byte) (h : FencesOf z s) : FencesOf z (wcWrite d line key off bs s) := by
  have h1 := wcFlushIf_fences d (fun w => decide (w.line = line) && decide (w.key ≠ key)) h
  unfold wcWrite
  dsimp only
  refine wcFlushIf_fences _ _ ?_
  split
  · exact setL2_fences _ _ h1
  · refine setL2_fences _ _ ?_
    split
    · split
      · exact wcFlush_fences _ _ h1
      · exact h1
    · exact h1

theorem l2WriteLine_fences (d line off : Nat) (bs : List Byte) (a : Attr) (h : FencesOf z s) : FencesOf z (l2WriteLine d line off bs a s) := by
  have h1 : FencesOf z (if a.cache = 2 ∧ ¬ a.fbc = true then s else wcFlushIf d (fun w => decide (w.line = line)) s) := by
    split
    · exact h
    · exact wcFlushIf_fences _ _ h
  have h2 := l2OtherKey_fences d line a.key h1
  unfold l2WriteLine
  dsimp only
  generalize l2OtherKey d line a.key (if a.cache = 2 ∧ ¬ a.fbc = true then s else wcFlushIf d (fun w => decide (w.line = line)) s) = s2 at h2 ⊢
  split
  · split
    · exact setL2_fences _ _ h2
    · exact lineOut_fences _ _ _ _ (setL2_fences _ _ h2)
  · split_ifs
    · exact setL2_fences _ _ h2
    · exact setL2_fences _ _ (l2Victim_fences _ _ h2)
    · exact l2Miss_fences _ _ _ _ _ _ h2
    · exact wcWrite_fences _ _ _ _ _ h2
    · exact lineOut_fences _ _ _ _ (setL2_fences _ _ h2)

theorem l2Empty_fences (h : FencesOf z s) : FencesOf z (l2Empty s) := by
  refine foldl_fences (fun s d hs => setL2_fences _ _ ?_) _ (wcFlushAll_fences h)
  refine foldl_fences (fun s l hs => ?_) _ (foldl_fences (fun _ _ hs => l2Fill_fences _ _ hs) _ hs)
  split
  · exact writeBack_fences _ hs
  · exact hs

theorem l2Pass_fences (h : FencesOf z s) : FencesOf z (l2Pass s) := by
  unfold l2Pass
  split
  · exact l2Empty_fences h
  · exact h

/-! ### Wakes -/

theorem nextStep_fences (g : Nat) (h : FencesOf z s) : FencesOf z (nextStep g s) := by
  unfold nextStep
  dsimp only
  split_ifs <;> exact h

theorem setGoal_fences (g lv : Nat) (h : FencesOf z s) : FencesOf z (setGoal g lv s) := by
  unfold setGoal
  dsimp only
  split
  · exact nextStep_fences g h
  · exact h

theorem startExit_fences (src pin : Nat) (h : FencesOf z s) : FencesOf z (startExit src pin s) := by
  have goals {u : State} (hu : FencesOf z u) : FencesOf z ((upTo 4).foldl (fun s g => setGoal g (s.pwr.saved.getD g 7) s) u) :=
    foldl_fences (fun _ _ hs => setGoal_fences _ _ hs) _ hu
  unfold startExit
  split
  · split_ifs <;> exact goals h
  · split_ifs <;> exact goals h
  · exact h
  · exact h

theorem wakeChannel_fences (ch : Nat) (h : FencesOf z s) : FencesOf z (wakeChannel ch s) := by
  unfold wakeChannel
  split
  · exact startExit_fences _ _ h
  · exact h

/-! ### Writes at physical addresses -/

theorem paWritePart_fences {t : State} {ctx : Nat} {a : Attr} {pa : Nat} {bs : List Byte} {u : Unit} (h : FencesOf z s)
    (hr : paWritePart ctx a pa bs s = .ok u t) : FencesOf z t := by
  unfold paWritePart at hr
  dsimp only at hr
  split at hr
  · cases hr
  · split at hr
    · cases hr
    · cases hr
    · obtain ⟨-, rfl⟩ := Acc.ok.inj hr
      exact l2Pass_fences (l2WriteLine_fences _ _ _ _ _ (wakeChannel_fences _ h))
  · split_ifs at hr
    obtain ⟨-, rfl⟩ := Acc.ok.inj hr
    exact l2Pass_fences (l2WriteLine_fences _ _ _ _ _ h)
  all_goals
    split at hr
    · cases hr
    · cases hr
    · cases hr
    · split at hr
      · cases hr
      · obtain ⟨-, rfl⟩ := Acc.ok.inj hr
        exact onMem_fences _ (cellsSet_fences _ _ h)

/-- One piece of a write at a physical address. -/
def paWriteStep (ctx : Nat) (a : Attr) (pa : Nat) (bs : List Byte) (acc : Acc Unit) (p : Nat × Nat) : Acc Unit :=
  match acc with
  | .ok _ s => match paWritePart ctx a p.1 ((bs.drop (p.1 - pa)).take p.2) s with
    | .ok _ s => .ok () s
    | .fault c s => .fault c s
    | .severed => .severed
    | .wait => .wait
  | other => other

theorem paWrite_fences {t : State} {ctx : Nat} {a : Attr} {pa : Nat} {bs : List Byte} {u : Unit} (h : FencesOf z s)
    (hr : paWrite ctx a pa bs s = .ok u t) : FencesOf z t := by
  have key : ∀ (l : List (Nat × Nat)) (acc : Acc Unit), (∀ b u, acc = .ok b u → FencesOf z u) →
      ∀ b u, l.foldl (paWriteStep ctx a pa bs) acc = .ok b u → FencesOf z u := by
    intro l
    induction l with
    | nil => exact fun acc ha b u hu => ha b u hu
    | cons p l ih =>
      intro acc ha b u hu
      refine ih _ (fun b' u' hb => ?_) b u hu
      cases acc with
      | ok b0 s0 =>
        dsimp only [paWriteStep] at hb
        split at hb
        · next hp =>
          injection hb with _ hb
          subst hb
          exact paWritePart_fences (ha b0 s0 rfl) hp
        all_goals cases hb
      | _ => cases hb
  exact key _ (.ok () s) (fun b u hb => by injection hb with _ hb; exact hb ▸ h) u t hr

theorem devWriteNow_fences {t : State} {pa : Nat} {bs : List Byte} (h : FencesOf z s) (hr : devWriteNow pa bs s = .done t) : FencesOf z t := by
  unfold devWriteNow at hr
  split at hr
  · cases hr
  · cases hp : paWrite 0 Attr.plain pa bs s with
    | ok b u =>
      simp only [hp, Acc.dev, Dev.done.injEq] at hr
      exact hr ▸ paWrite_fences h hp
    | _ => simp [hp, Acc.dev] at hr

theorem devWrite_fences {t : State} {pa : Nat} {bs : List Byte} (h : FencesOf z s) (hr : devWrite pa bs s = some t) : FencesOf z t := by
  unfold devWrite at hr
  split at hr
  · next hp =>
    injection hr with hr
    exact hr ▸ devWriteNow_fences h hp
  · cases hr
  · injection hr with hr
    subst hr
    exact h

theorem rcbWrite_fences (r off n v : Nat) (h : FencesOf z s) : FencesOf z (rcbWrite r off n v s) := by
  unfold rcbWrite
  cases hd : devWrite ((s.ring r).rcb + off) (natLe n v) s with
  | none => exact h
  | some t => exact devWrite_fences h hd

/-! ### The start of a teardown, and the error log -/

theorem stopRings_fences (n : Nat) (h : FencesOf z s) : FencesOf z (stopRings n s) := by
  refine foldl_fences (fun s r hs => ?_) _ h
  dsimp only
  split
  · exact rcbWrite_fences (s := s.setRing r _) _ _ _ _ hs
  · refine rcbWrite_fences (s := State.setRing r _ _) _ _ _ _ ?_
    exact rcbWrite_fences (s := s.setRing r _) _ _ _ _ hs

theorem loseFences_fences (n : Nat) (h : FencesOf z s) : FencesOf z (loseFences n s) :=
  foldl_fences (f := fun s k => sendFence k (s.fence k).alloc (.inr (State.ctx _ n).reason) s) (fun _ _ hs => hs) _ h

theorem discardWaiting_fences (n : Nat) (h : FencesOf z s) : FencesOf z (discardWaiting n s) := by
  refine foldl_fences (fun s e hs => ?_) _ h
  split <;> exact hs

theorem abortCtx_fences (n : Nat) (why : Reason) (h : FencesOf z s) : FencesOf z (abortCtx n why s) := by
  have torn (c : Ctx) : FencesOf z (discardWaiting n (loseFences n (stopRings n (s.setCtx n c)))) :=
    discardWaiting_fences n (loseFences_fences n (stopRings_fences n h))
  unfold abortCtx
  dsimp only
  split
  · exact h
  · split
    · exact torn _
    · exact torn _
    · exact h

theorem raiseSrc_fences (src : VecSource) (fn vec : Nat) (h : FencesOf z s) : FencesOf z (raiseSrc src fn vec s) := by
  have sent (u : State) (hu : FencesOf z u) : FencesOf z (deliver fn vec u) := by
    unfold deliver
    dsimp only
    split <;> exact hu
  unfold raiseSrc
  split
  · exact sent _ h
  · split
    · exact h
    · exact sent _ h

theorem raiseVec_fences (src : VecSource) (fn vec : Nat) (h : FencesOf z s) : FencesOf z (raiseVec src fn vec s) := by
  unfold raiseVec
  split
  · exact h
  · exact raiseSrc_fences _ _ _ h

theorem criticalEvent_fences (h : FencesOf z s) : FencesOf z (criticalEvent s) :=
  startExit_fences _ _ (raiseSrc_fences _ _ _ h)

theorem logWrite_fences (code cls src ctx info0 info1 : Nat) (critical : Bool) (h : FencesOf z s) :
    FencesOf z (logWrite code cls src ctx info0 info1 critical s) := by
  have crit (u : State) (hu : FencesOf z u) : FencesOf z (if critical = true then criticalEvent u else u) := by
    split
    · exact criticalEvent_fences hu
    · exact hu
  unfold logWrite
  dsimp only
  split
  · refine crit _ ?_
    split
    · exact raiseVec_fences _ _ _ h
    · exact h
  · exact crit _ h

/-- An error of a source that is no master leaves the fences, even where it aborts a context: those are only put on their way. -/
theorem logError_fences {code src ctx info0 info1 : Nat} {critical : Bool} (hsrc : ¬ src < 0x72) (h : FencesOf z s) :
    FencesOf z (logError code src ctx info0 info1 critical s) := by
  have hlog := logWrite_fences code (codeClass code) src ctx info0 info1 critical h
  simp only [logError, if_neg hsrc]
  split
  · exact hlog
  · split
    · exact abortCtx_fences _ _ hlog
    · exact criticalEvent_fences hlog

end

end Sys2Proof.Machine
end

section
/-! Fence pages and notify slots (R111, R112). -/

namespace Sys2Proof.Machine

open Sys2Proof

/-! ### Writes of a fence page -/

section
variable {fn : Fn} {n : Fin 1024} {s : State} (ho : barOpen s fn.val = true) (ha : awake s = true)
include ho ha

theorem pageWrite_other (off v : Nat) (h : ¬ (fnHasShared s fn.val n.val = true ∧ (s.fence (65536 + n.val)).st ≠ .free)) :
    pageWrite fn.val n.val off v s = s := by
  unfold pageWrite
  rw [if_neg (by rw [ho]; simp), hostWrite_awake ha]
  refine if_pos ?_
  by_cases hs : fnHasShared s fn.val n.val = true
  · exact .inr (not_not.mp fun hf => h ⟨hs, hf⟩)
  · exact .inl (by simpa using hs)

section
variable (hs : fnHasShared s fn.val n.val = true) (hf : (s.fence (65536 + n.val)).st ≠ .free)
include hs hf

theorem pageWrite_own (off v : Nat) :
    pageWrite fn.val n.val off v s =
      if off = 0 then pageMessage fn.val n.val off v (.inl (q64 v)) s
      else if off = 8 then pageMessage fn.val n.val off v (.inr .aborted) s
      else if off < 0x100 ∨ 0x200 ≤ off ∨ off % 8 ≠ 0 then s
      else if s.halted .fen = true then holdWrite fn.val (2 ^ 27 + n.val * 4096 + off) v s
      else if off % 32 / 8 = 3 then slotCtrl (65536 + n.val) ((off - 0x100) / 32) v s
      else slotField (65536 + n.val) ((off - 0x100) / 32) (off % 32 / 8) v s := by
  unfold pageWrite
  rw [if_neg (by rw [ho]; simp), hostWrite_awake ha]
  exact if_neg (by simp [hs, sharedKey, hf])

theorem pageWrite_slot (i : Fin 8) (j : Nat) (hj : j < 4) (v : Nat) :
    pageWrite fn.val n.val (0x100 + 32 * i.val + 8 * j) v s =
      if s.halted .fen = true then holdWrite fn.val (2 ^ 27 + n.val * 4096 + (0x100 + 32 * i.val + 8 * j)) v s
      else if j = 3 then slotCtrl (65536 + n.val) i.val v s else slotField (65536 + n.val) i.val j v s := by
  have hi := i.isLt
  have hat : (0x100 + 32 * i.val + 8 * j - 0x100) / 32 = i.val := by omega
  have hfld : (0x100 + 32 * i.val + 8 * j) % 32 / 8 = j := by omega
  rw [pageWrite_own ho ha hs hf, if_neg (by omega), if_neg (by omega), if_neg (by omega), hat, hfld]

end

end

theorem q64_toNat (v : Quad) : q64 v.toNat = v := BitVec.ofNat_toNat 64 v

/-- What a write of a slot that is not armed leaves in it. -/
def slotPut (j : Nat) (v : Quad) (x : NotifySlot) : NotifySlot :=
  if j = 0 then { x with threshold := v } else if j = 1 then { x with addr := v } else { x with data := v }

theorem slotField_armed {k i : Nat} {s : State} (j v : Nat) (h : ((s.fence k).slot i).armed = true) : slotField k i j v s = s := if_pos h

theorem slotField_free {k i : Nat} {s : State} (j : Nat) (v : Quad) (h : ((s.fence k).slot i).armed = false) :
    slotField k i j v.toNat s =
      s.setFence k { s.fence k with slots := tblSet NotifySlot.empty (s.fence k).slots i (slotPut j v ((s.fence k).slot i)) } := by
  unfold slotField
  rw [if_neg (by rw [h]; simp), q64_toNat]
  rfl

/-! ### Slots fire -/

/-- The slot i of fence k fires. -/
def slotFires (s : State) (k i : Nat) : Prop :=
  ((s.fence k).slot i).armed = true ∧ (s.fence k).st ≠ .free ∧ (((s.fence k).slot i).threshold ≤ (s.fence k).value ∨ (s.fence k).st ≠ .active)

/-- The slot as it is left when it fires. -/
def firedSlot (f : Fence) (x : NotifySlot) : NotifySlot :=
  { x with armed := false, result := if x.threshold ≤ f.value then 1 else 2,
           reason := if x.threshold ≤ f.value then 0 else (f.reason.map Reason.num).getD 0 }

/-- What one slot of fence k does, as `fireSlots` comes to it. -/
def fireStep (k : Nat) (s : State) (i : Nat) : State :=
  let f := s.fence k
  let x := f.slot i
  let u := s.setFence k { f with slots := tblSet NotifySlot.empty f.slots i (firedSlot f x) }
  let pa := 2 ^ 48 + x.addr.toNat % 2 ^ 48
  if x.armed = true ∧ f.st ≠ .free ∧ (x.threshold ≤ f.value ∨ f.st ≠ .active) then
    (devWrite pa (natLe 8 x.data.toNat) u).getD (isolationError 0x82 f.owner 3 pa u)
  else s

theorem fireSlots_eq (k : Nat) (s : State) : fireSlots k s = (upTo 8).foldl (fireStep k) s := by
  refine congrArg (fun g => (upTo 8).foldl g s) (funext fun s => funext fun i => ?_)
  simp only [fireStep, firedSlot, decide_eq_true_eq]
  refine if_congr Iff.rfl ?_ rfl
  generalize devWrite _ _ _ = w
  cases w <;> rfl

theorem fireStep_idle {k i : Nat} {s : State} (h : ¬ slotFires s k i) : fireStep k s i = s := if_neg h

theorem fireStep_fires {k i : Nat} {s u : State} {pa : Nat} (h : slotFires s k i)
    (hu : s.setFence k { s.fence k with slots := tblSet NotifySlot.empty (s.fence k).slots i (firedSlot (s.fence k) ((s.fence k).slot i)) } = u)
    (hpa : 2 ^ 48 + ((s.fence k).slot i).addr.toNat % 2 ^ 48 = pa) :
    fireStep k s i = (devWrite pa (natLe 8 ((s.fence k).slot i).data.toNat) u).getD (isolationError 0x82 (s.fence k).owner 3 pa u) := by
  subst hu hpa
  exact if_pos h

/-- A fence of which no slot is armed fires none. -/
theorem foldl_fireStep_unarmed {k : Nat} {s : State} (l : List Nat) (h : ∀ i ∈ l, ((s.fence k).slot i).armed = false) : l.foldl (fireStep k) s = s :=
  foldl_id fun i hi => fireStep_idle fun hf => by
    obtain ⟨harmed, -⟩ := hf
    rw [h i hi] at harmed
    cases harmed

/-- The table that holds one slot only reads as that slot, and elsewhere as an empty one. -/
theorem slot_single {f : Fence} {i : Nat} {x : NotifySlot} (h : f.slots = [(i, x)]) (j : Nat) : f.slot j = if j = i then x else NotifySlot.empty := by
  rw [Fence.slot, h]
  rfl

theorem firedSlot_ne_empty (f : Fence) (x : NotifySlot) : firedSlot f x ≠ NotifySlot.empty := by
  intro h
  have hr := congrArg NotifySlot.result h
  simp only [firedSlot, NotifySlot.empty] at hr
  split at hr <;> cases hr

theorem tblSet_single {i : Nat} {x y : NotifySlot} (h : y ≠ NotifySlot.empty) : tblSet NotifySlot.empty [(i, x)] i y = [(i, y)] := by
  simp [tblSet, tblPut, h]

/-- Where one slot alone is listed and fires, it alone acts. -/
theorem fireSlots_single {k : Nat} {s u : State} {i : Fin 8} {x : NotifySlot} {pa : Nat} (hslots : (s.fence k).slots = [(i.val, x)])
    (hx : slotFires s k i.val) (hu : s.setFence k { s.fence k with slots := [(i.val, firedSlot (s.fence k) x)] } = u)
    (hpa : 2 ^ 48 + x.addr.toNat % 2 ^ 48 = pa) :
    fireSlots k s = (devWrite pa (natLe 8 x.data.toNat) u).getD (isolationError 0x82 (s.fence k).owner 3 pa u) := by
  have hat : (s.fence k).slot i.val = x := by rw [slot_single hslots, if_pos rfl]
  have hput : tblSet NotifySlot.empty (s.fence k).slots i.val (firedSlot (s.fence k) ((s.fence k).slot i.val)) =
      [(i.val, firedSlot (s.fence k) x)] := by
    rw [hslots, hat, tblSet_single (firedSlot_ne_empty _ _)]
  have hstep : fireStep k s i.val = (devWrite pa (natLe 8 x.data.toNat) u).getD (isolationError 0x82 (s.fence k).owner 3 pa u) := by
    rw [fireStep_fires hx (u := u) (pa := pa) (by rw [hput, hu]) (by rw [hat, hpa]), hat]
  have hkept : FencesOf u ((devWrite pa (natLe 8 x.data.toNat) u).getD (isolationError 0x82 (s.fence k).owner 3 pa u)) := by
    cases hd : devWrite pa (natLe 8 x.data.toNat) u with
    | some t => exact devWrite_fences (FencesOf.refl u) hd
    | none => exact logError_fences (by decide) (FencesOf.refl u)
  obtain ⟨before, after, hsplit⟩ := List.append_of_mem (List.mem_range.mpr i.isLt : i.val ∈ upTo 8)
  have hnodup : (before ++ i.val :: after).Nodup := hsplit ▸ List.nodup_range
  have hbefore : ∀ j ∈ before, j ≠ i.val := fun j hj he => (List.nodup_append.mp hnodup).2.2 j hj i.val (by simp) he
  rw [fireSlots_eq, show upTo 8 = before ++ i.val :: after from hsplit, List.foldl_append, List.foldl_cons, foldl_fireStep_unarmed before, hstep]
  · refine foldl_fireStep_unarmed after fun j _ => ?_
    have hfence : State.fence ((devWrite pa (natLe 8 x.data.toNat) u).getD (isolationError 0x82 (s.fence k).owner 3 pa u)) k = u.fence k :=
      congrArg (fun l => tblGet Fence.freeFence l k) hkept
    rw [hfence, ← hu, fence_setFence, slot_single rfl]
    split <;> rfl
  · intro j hj
    rw [slot_single hslots, if_neg (hbefore j hj)]
    rfl

/-- Settles O30: a page's write by its offset, and the slots in their order, of which one that fires leaves the fences as they are. -/
theorem fencePagesAndSlots : Obligations.FencePagesAndSlots := by
  unfold Obligations.FencePagesAndSlots
  refine ⟨fun fn n v s ho ha => ?_, fun k s => ⟨fireSlots_none, fun i x hslots hx => ?_⟩⟩
  · intro k f mine halted full send
    refine ⟨fun size hsize => ⟨congrArg Host.Outcome.next (if_neg hsize), congrArg Host.Outcome.next (if_neg hsize)⟩, fun hm => ?_, fun hm hfull => ?_,
      fun hm hfull => ?_, fun hm i => ?_⟩
    · exact ⟨congrArg Host.Outcome.next (pageWrite_other ho ha _ _ hm), congrArg Host.Outcome.next (pageWrite_other ho ha _ _ hm),
        fun i j => ⟨congrArg Host.Outcome.next (pageWrite_other ho ha _ _ hm), congrArg Host.Outcome.next (pageWrite_other ho ha _ _ hm)⟩⟩
    · obtain ⟨hs, hf⟩ := hm
      refine ⟨congrArg Host.Outcome.next ((pageWrite_own ho ha hs hf 0 v.toNat).trans ((if_neg hfull).trans ?_)),
        congrArg Host.Outcome.next ((pageWrite_own ho ha hs hf 8 v.toNat).trans (if_neg hfull))⟩
      rw [q64_toNat]
      rfl
    · obtain ⟨hs, hf⟩ := hm
      exact ⟨congrArg Host.Outcome.next ((pageWrite_own ho ha hs hf 0 v.toNat).trans (if_pos hfull)),
        congrArg Host.Outcome.next ((pageWrite_own ho ha hs hf 8 v.toNat).trans (if_pos hfull))⟩
    · obtain ⟨hs, hf⟩ := hm
      intro x put keep
      have field (j : NotifyField) : exec (.notifyFieldWrite fn n i j v) s = .next (if halted = true then keep (fieldNum j) else slotField k i.val (fieldNum j) v.toNat s) := by
        have hj : fieldNum j < 3 := by cases j <;> decide
        refine congrArg Host.Outcome.next ((pageWrite_slot ho ha hs hf i (fieldNum j) (by omega) v.toNat).trans ?_)
        rw [if_neg (show ¬ fieldNum j = 3 by omega)]
      have ctrl : exec (.notifyCtrlWrite fn n i v) s = .next (if halted = true then keep 3 else slotCtrl k i.val v.toNat s) :=
        congrArg Host.Outcome.next (pageWrite_slot ho ha hs hf i 3 (by decide) v.toNat)
      refine ⟨fun hh => ?_, fun hh => ⟨fun harmed j => ?_, fun harmed => ?_, ?_⟩⟩
      · exact ⟨(field .threshold).trans (congrArg Host.Outcome.next (if_pos hh)), (field .addr).trans (congrArg Host.Outcome.next (if_pos hh)),
          (field .data).trans (congrArg Host.Outcome.next (if_pos hh)), ctrl.trans (congrArg Host.Outcome.next (if_pos hh))⟩
      · rw [field, hh, if_neg (by simp), slotField_armed _ _ harmed]
      · rw [field, field, field, hh]
        exact ⟨congrArg Host.Outcome.next (slotField_free 0 v harmed), congrArg Host.Outcome.next (slotField_free 1 v harmed),
          congrArg Host.Outcome.next (slotField_free 2 v harmed)⟩
      · rw [ctrl, hh, if_neg (by simp)]
        refine congrArg (fun b => Host.Outcome.next (fireSlots k (put { x with armed := b, result := 0, reason := 0 }))) ?_
        simp [bit]
  · have hat : (s.fence k).slot i.val = x := by rw [slot_single hslots, if_pos rfl]
    exact fireSlots_single hslots (by rw [slotFires, hat]; exact hx) rfl rfl

end Sys2Proof.Machine
end

section
/-! GRAPH_PATCH: BIND_DIR, PUBLISH and DELETE (R115, R118, R119). -/

namespace Sys2Proof.Machine

open Sys2Proof

/-- How an op goes on when a write of the directory has returned. -/
def dirWritten (o : OpRef) (ctx : Nat) (ok : State → State) : Res Unit → State
  | .ok _ w => ok w
  | .fault f w => endOp o 0x07 (feFault f ctx w).1 0 (feFault f ctx w).2
  | .severed w => endOp o 0x0D 0 0 w
  | .wait w => w

theorem writeDir_eq (o : OpRef) (ctx va : Nat) (bs : List Byte) (ok : State → State) (s : State) :
    writeDir o ctx va bs ok s = dirWritten o ctx ok (vaWrite noMaster ctx va bs s) := by
  unfold writeDir
  cases vaWrite noMaster ctx va bs s <;> rfl

/-- How an op goes on when its read of the directory has returned. -/
def dirRead (o : OpRef) (ctx : Nat) (ok : List Byte → State → State) : Res (List Byte) → State
  | .ok b v => ok b v
  | .fault f v => endOp o 0x07 (feFault f ctx v).1 0 (feFault f ctx v).2
  | .severed v => endOp o 0x0D 0 0 v
  | .wait v => v

/-- PUBLISH, once the directory's entry has been read. -/
def publishEntry (o : OpRef) (e : Entry) (p : Op) (d : Nat) (gr : Graph) (b : List Byte) (v : State) : State :=
  dirWritten o e.ctx (fun w => endOp o 0 0 0
      (if fld b 0 8 = 0 then w else replaceVersion e.ctx (fld p.body 18 2) (fld b 8 8) (fld b 0 8) (retireAsk v e.ctx p.body) w))
    (vaWrite noMaster e.ctx (d + 32 * fld p.body 18 2)
      (natLe 8 (fld p.body 24 8) ++ natLe 8 (fld b 8 8 + 1) ++ natLe 1 (graphTypes gr) ++ List.replicate 15 0) v)

/-- PUBLISH, once its root has been validated. -/
def publishGraph (o : OpRef) (e : Entry) (p : Op) (d : Nat) : Got Graph → State
  | .bad u => endOp o 0x0B 0x12 0 u
  | .fault k u => endOp o 0x07 k 0 u
  | .severed u => endOp o 0x0D 0 0 u
  | .wait u => u
  | .ok gr u => dirRead o e.ctx (publishEntry o e p d gr) (feRead e.ctx (d + 32 * fld p.body 18 2) 32 u)

/-- PUBLISH_VALIDATED by the context's directory. -/
def publishDir (o : OpRef) (e : Entry) (p : Op) (s : State) : Option Nat → State
  | none => endOp o 0x0B 0x10 0 s
  | some d => publishGraph o e p d (readGraph e.ctx (fld p.body 24 8) s)

/-- DELETE, once the directory's entry has been read. -/
def deleteEntry (o : OpRef) (e : Entry) (p : Op) (d : Nat) (b : List Byte) (u : State) : State :=
  if fld b 0 8 = 0 then endOp o 0x0B 0x13 0 u
  else dirWritten o e.ctx
    (fun w => endOp o 0 0 0 (replaceVersion e.ctx (fld p.body 18 2) (fld b 8 8) (fld b 0 8) (retireAsk u e.ctx p.body) w))
    (vaWrite noMaster e.ctx (d + 32 * fld p.body 18 2) [0, 0, 0, 0, 0, 0, 0, 0] u)

/-- DELETE by the context's directory. -/
def deleteDir (o : OpRef) (e : Entry) (p : Op) (s : State) : Option Nat → State
  | none => endOp o 0x0B 0x10 0 s
  | some d => if fld p.body 24 8 ≠ 0 then endOp o 0x0B 0x12 0 s
    else dirRead o e.ctx (deleteEntry o e p d) (feRead e.ctx (d + 32 * fld p.body 18 2) 32 s)

section
variable {o : OpRef} {s : State} {e : Entry} {p : Op} (h : s.op? o = some (e, p)) (hp : p.phase = .running) (hen : p.ending = none)
  (hop : p.opcode = 0x60) (hc : ctxRuns s e.ctx = true)
include h hp hen hop hc

/-- A GRAPH_PATCH that runs: a command acts on the op of its own SUBOP. -/
theorem withPatch_running (sub : Nat) (f : Entry → Op → State → State) :
    withPatch o sub f s = if 2 < fld p.body 16 1 then endOp o 0x0B 0x12 0 s else if fld p.body 16 1 = sub then f e p s else s := by
  rw [withPatch, withOp_running h hp hen hop, if_pos hc]
  rfl

theorem bindDirDo_running : bindDirDo o s = if 2 < fld p.body 16 1 then endOp o 0x0B 0x12 0 s
    else if fld p.body 16 1 = 0 then
      if (s.ctx e.ctx).dir.isSome = true then endOp o 0x0B 0x11 0 s
      else if fld p.body 24 8 % 4096 ≠ 0 ∨ fld p.body 18 2 ≠ 0 then endOp o 0x0B 0x12 0 s
      else endOp o 0 0 0 (s.setCtx e.ctx { s.ctx e.ctx with dir := some (fld p.body 24 8) })
    else s :=
  withPatch_running h hp hen hop hc 0 _

theorem publishDo_running : publishDo o s = if 2 < fld p.body 16 1 then endOp o 0x0B 0x12 0 s
    else if fld p.body 16 1 = 1 then if (s.ctx e.ctx).dir.isNone = true then endOp o 0x0B 0x10 0 s else s else s :=
  withPatch_running h hp hen hop hc 1 _

theorem publishedDo_running {io : HostIO} {s0 : State} (hs : applyIO io s0 = s) : publishedDo o io s0 =
    if 2 < fld p.body 16 1 then endOp o 0x0B 0x12 0 s
    else if fld p.body 16 1 = 1 then publishDir o e p s (s.ctx e.ctx).dir else s := by
  unfold publishedDo
  rw [hs]
  refine (withPatch_running h hp hen hop hc 1 _).trans (if_congr Iff.rfl rfl (if_congr Iff.rfl ?_ rfl))
  cases (s.ctx e.ctx).dir with
  | none => rfl
  | some d =>
    simp only [publishDir, gpVa, gpGraph, grRead, writeDir_eq]
    cases readGraph e.ctx (fld p.body 24 8) s with
    | ok gr u => dsimp only [publishGraph]; cases feRead e.ctx (d + 32 * fld p.body 18 2) 32 u <;> rfl
    | _ => rfl

theorem deleteDo_running {io : HostIO} {s0 : State} (hs : applyIO io s0 = s) : deleteDo o io s0 =
    if 2 < fld p.body 16 1 then endOp o 0x0B 0x12 0 s
    else if fld p.body 16 1 = 2 then deleteDir o e p s (s.ctx e.ctx).dir else s := by
  unfold deleteDo
  rw [hs]
  refine (withPatch_running h hp hen hop hc 2 _).trans (if_congr Iff.rfl rfl (if_congr Iff.rfl ?_ rfl))
  cases (s.ctx e.ctx).dir with
  | none => rfl
  | some d =>
    simp only [deleteDir, gpVa, gpGraph, grRead, writeDir_eq]
    refine if_congr Iff.rfl rfl ?_
    cases feRead e.ctx (d + 32 * fld p.body 18 2) 32 s <;> rfl

end

/-- Settles O31: each command of GRAPH_PATCH is read off its SUBOP, the directory, and what its reads and writes return. -/
theorem graphPatchesRun : Obligations.GraphPatchesRun := by
  unfold Obligations.GraphPatchesRun
  intro o io s e p h hp hen hop hc sub g va c s0 published deleted
  have h0 : s0.op? o = some (e, p) := (op?_applyIO io s o).trans h
  have hctx : s0.ctx = s.ctx ∧ ctxRuns s0 = ctxRuns s := by
    obtain ⟨m, hm⟩ := applyIO_onlyMem io s
    have hs0 : s0 = { s with mem := m } := hm
    rw [hs0]
    exact ⟨rfl, rfl⟩
  have hdir : (s0.ctx e.ctx).dir = c.dir := by rw [hctx.1]
  have hc0 : ctxRuns s0 e.ctx = true := by rw [hctx.2]; exact hc
  have hbind := bindDirDo_running h hp hen hop hc
  have hpub := publishDo_running h hp hen hop hc
  have hvalid := publishedDo_running h0 hp hen hop hc0 (io := io) (s0 := s) rfl
  have hdel := deleteDo_running h0 hp hen hop hc0 (io := io) (s0 := s) rfl
  rw [hdir] at hvalid hdel
  refine ⟨fun hs => ⟨congrArg Host.Outcome.next (hbind.trans (if_pos hs)), congrArg Host.Outcome.next (hpub.trans (if_pos hs)),
      congrArg Host.Outcome.next (hdel.trans (if_pos hs)), congrArg Host.Outcome.next (hvalid.trans (if_pos hs))⟩,
    fun hle => ?_, fun hs => ?_, fun hs => ?_, fun hs => ?_⟩
  · have hn : ¬ 2 < sub := by omega
    exact ⟨fun hs => congrArg Host.Outcome.next (hbind.trans ((if_neg hn).trans (if_neg hs))),
      fun hs => ⟨congrArg Host.Outcome.next (hpub.trans ((if_neg hn).trans (if_neg hs))),
        congrArg Host.Outcome.next (hvalid.trans ((if_neg hn).trans (if_neg hs)))⟩,
      fun hs => congrArg Host.Outcome.next (hdel.trans ((if_neg hn).trans (if_neg hs)))⟩
  · have hb := hbind.trans ((if_neg (by change ¬ 2 < sub; omega)).trans (if_pos hs))
    refine ⟨fun hd => congrArg Host.Outcome.next (hb.trans (if_pos (Option.isSome_iff_ne_none.mpr hd))),
      fun hd hbad => congrArg Host.Outcome.next (hb.trans ((if_neg (by simp [hd, c])).trans (if_pos hbad))),
      fun hd hva hg => congrArg Host.Outcome.next (hb.trans ((if_neg (by simp [hd, c])).trans (if_neg ?_)))⟩
    rintro (h' | h')
    · exact h' hva
    · exact h' hg
  · have hn : ¬ 2 < sub := by omega
    have hb := hpub.trans ((if_neg hn).trans (if_pos hs))
    have hv := hvalid.trans ((if_neg hn).trans (if_pos hs))
    refine ⟨fun hd => ⟨congrArg Host.Outcome.next (hb.trans (if_pos (by simp [hd, c]))), congrArg Host.Outcome.next (hv.trans (by rw [hd]; rfl))⟩,
      fun hd => congrArg Host.Outcome.next (hb.trans (if_neg (by simpa [Option.isNone_iff_eq_none] using hd))), fun d hd => ?_⟩
    rw [hd] at hv
    intro version
    have ended {x : Got Graph} (hx : version = x) : publishedDo o io s = publishGraph o e p d x := hv.trans (congrArg (publishGraph o e p d) hx)
    refine ⟨fun u hu => congrArg Host.Outcome.next (ended hu), fun k u hu => congrArg Host.Outcome.next (ended hu),
      fun u hu => congrArg Host.Outcome.next (ended hu), fun u hu => congrArg Host.Outcome.next (ended hu), fun gr u hu => ?_⟩
    intro entry
    have read {x : Res (List Byte)} (hx : entry = x) : publishedDo o io s = dirRead o e.ctx (publishEntry o e p d gr) x :=
      (ended hu).trans (congrArg (dirRead o e.ctx (publishEntry o e p d gr)) hx)
    refine ⟨fun f v hv => congrArg Host.Outcome.next (read hv), fun v hv => congrArg Host.Outcome.next (read hv),
      fun v hv => congrArg Host.Outcome.next (read hv), fun b v hv => ?_⟩
    intro wrote
    have written {x : Res Unit} (hx : wrote = x) : publishedDo o io s = dirWritten o e.ctx (fun w => endOp o 0 0 0
        (if fld b 0 8 = 0 then w else replaceVersion e.ctx g (fld b 8 8) (fld b 0 8) (retireAsk v e.ctx p.body) w)) x :=
      (read hv).trans (congrArg (dirWritten o e.ctx _) hx)
    exact ⟨fun w hw => congrArg Host.Outcome.next (written hw), fun f w hw => congrArg Host.Outcome.next (written hw),
      fun w hw => congrArg Host.Outcome.next (written hw), fun w hw => congrArg Host.Outcome.next (written hw)⟩
  · have hv := hdel.trans ((if_neg (by change ¬ 2 < sub; omega)).trans (if_pos hs))
    refine ⟨fun hd => congrArg Host.Outcome.next (hv.trans (by rw [hd]; rfl)), fun hd hva => ?_, fun d hd hva => ?_⟩
    · obtain ⟨d, hd⟩ := Option.ne_none_iff_exists'.mp hd
      rw [hd] at hv
      exact congrArg Host.Outcome.next (hv.trans (if_pos hva))
    · rw [hd] at hv
      intro entry
      have read {x : Res (List Byte)} (hx : entry = x) : deleteDo o io s = dirRead o e.ctx (deleteEntry o e p d) x :=
        (hv.trans (if_neg (not_not.mpr hva))).trans (congrArg (dirRead o e.ctx (deleteEntry o e p d)) hx)
      refine ⟨fun f v hv => congrArg Host.Outcome.next (read hv), fun v hv => congrArg Host.Outcome.next (read hv),
        fun v hv => congrArg Host.Outcome.next (read hv), fun b u hu => ⟨fun hb => congrArg Host.Outcome.next ((read hu).trans (if_pos hb)), fun hb => ?_⟩⟩
      intro wrote
      have written {x : Res Unit} (hx : wrote = x) : deleteDo o io s = dirWritten o e.ctx (fun w => endOp o 0 0 0
          (replaceVersion e.ctx g (fld b 8 8) (fld b 0 8) (retireAsk u e.ctx p.body) w)) x :=
        ((read hu).trans (if_neg hb)).trans (congrArg (dirWritten o e.ctx _) hx)
      exact ⟨fun w hw => congrArg Host.Outcome.next (written hw), fun f w hw => congrArg Host.Outcome.next (written hw),
        fun w hw => congrArg Host.Outcome.next (written hw), fun w hw => congrArg Host.Outcome.next (written hw)⟩

end Sys2Proof.Machine
end

section
/-! Launches pin a version, and replaced versions retire (R71, R116, R120 to R123). -/

namespace Sys2Proof.Machine

open Sys2Proof

theorem recheckEntry_same (s : State) (e : Entry) : (recheckEntry s e).ctx = e.ctx ∧ (recheckEntry s e).raw = e.raw := by
  unfold recheckEntry
  dsimp only
  split
  · exact ⟨rfl, rfl⟩
  · split <;> exact ⟨rfl, rfl⟩

/-! ### What a launch does, step by step -/

section
variable (r seq : Nat) (x : Entry)

/-- The entry of a launch runs its nodes, once its arguments have been read. -/
def launchArgs (ver root : Nat) (gr : Graph) : Got (List Byte) → State
  | .ok a w => (pinVersion x.ctx (fld x.raw 8 8) ver root w).onEntry r seq fun e => { e with
      phase := .running, launch := some { graph := fld x.raw 8 8, version := ver, root, args := a },
      ops := gr.nodes.map fun n => mkOp n.opcode n.va n.len n.mask n.preds n.patches }
  | .bad w => w
  | .fault k w => failEntry r seq 0x06 0xFFFF k w
  | .severed w => failEntry r seq 0x0D 0xFFFF 0 w
  | .wait w => w

/-- A version has room: it is held already, or a slot is free. -/
def versionHeld (x : Entry) (ver : Nat) (v : State) : Bool :=
  v.fe.versions.any fun w => decide (w.ctx = x.ctx) && decide (w.graph = fld x.raw 8 8) && decide (w.version = ver)

/-- A launch of the version that the directory's bytes name, once its graph has been read. -/
def launchVersion (b : List Byte) : Got Graph → State
  | .bad v => failEntry r seq 0x0A 0xFFFF 0 v
  | .fault k v => failEntry r seq 0x05 0xFFFF k v
  | .severed v => failEntry r seq 0x0D 0xFFFF 0 v
  | .wait v => v
  | .ok gr v =>
    if ¬ (gr.argBytes = 0 ↔ fld x.raw 48 8 = 0) then failEntry r seq 0x0A 0xFFFF 0 v
    else if bit (fld b 16 1) (v.ring r).type = false then failEntry r seq 0x02 0xFFFF 0 v
    else if ¬ (versionHeld x (fld b 8 8) v = true ∨ v.fe.versions.length < 4096) then v
    else launchArgs r seq x (fld b 8 8) (fld b 0 8) gr (readArgs x.ctx (fld x.raw 48 8) gr.argBytes v)

/-- A launch, once the directory's entry has been read. -/
def launchEntry : Got (List Byte) → State
  | .bad u => u
  | .fault k u => failEntry r seq 0x05 0xFFFF k u
  | .severed u => failEntry r seq 0x0D 0xFFFF 0 u
  | .wait u => u
  | .ok b u => if fld b 0 8 = 0 then failEntry r seq 0x0A 0xFFFF 0 u else launchVersion r seq x b (readGraph x.ctx (fld b 0 8) u)

/-- A launch by its context's directory. -/
def launchDir (s1 : State) : Option Nat → State
  | none => failEntry r seq 0x0A 0xFFFF 0 s1
  | some d => launchEntry r seq x (grRead x.ctx (d + 32 * fld x.raw 8 8) 32 s1)

end

section
variable {r seq : Nat} {io : HostIO} {s0 s : State} (hs : applyIO io s0 = s)
include hs

theorem acceptDo_idle (h : ∀ x, s.entry? r seq = some x → x.phase ≠ .waiting ∨ fld x.raw 4 1 ≠ 2 ∨ ctxRuns s x.ctx = false) :
    acceptDo r seq io s0 = s := by
  subst hs
  unfold acceptDo
  dsimp only
  cases hx : (applyIO io s0).entry? r seq with
  | none => rfl
  | some x =>
    refine if_pos ?_
    rcases h x hx with h | h | h
    · exact .inl h
    · exact .inr (.inl h)
    · exact .inr (.inr (.inr (by rw [h]; rfl)))

section
variable {x y : Entry} {s1 : State} (hm : s.halted .fe = false) (hx : s.entry? r seq = some x) (hph : x.phase = .waiting) (hk : fld x.raw 4 1 = 2)
  (hc : ctxRuns s x.ctx = true) (hy : recheckEntry s x = y) (hs1 : s.onEntry r seq (fun _ => y) = s1)
include hm hx hph hk hc hy hs1

/-- A launch whose waits are satisfied and whose turn it is. -/
def launchGoes (s1 : State) (y : Entry) : Prop := y.phase = .waiting ∧ (∀ w ∈ y.edges.take y.nwait, w.sat = true) ∧ ringTurn s1 y = true

theorem acceptDo_stays (h : ¬ launchGoes s1 y) : acceptDo r seq io s0 = s1 := by
  subst hs hy hs1
  unfold acceptDo
  dsimp only
  rw [hx]
  refine (if_neg ?_).trans (if_pos ?_)
  · simp [hph, hm, hc, entKind, hk]
  · by_contra hgo
    simp only [not_or, not_not, Bool.not_eq_true', Bool.not_eq_false] at hgo
    obtain ⟨h1, h2, h3⟩ := hgo
    exact h ⟨h1, List.all_eq_true.mp h2, h3⟩

theorem acceptDo_goes (h : launchGoes s1 y) : acceptDo r seq io s0 = launchDir r seq x s1 (s.ctx x.ctx).dir := by
  obtain ⟨hsctx, hsraw⟩ := recheckEntry_same s x
  obtain ⟨h1, h2, h3⟩ := h
  have h2' : edgesSat y = true := List.all_eq_true.mpr h2
  subst hs
  unfold acceptDo
  dsimp only
  simp only [hx, hy]
  rw [if_neg (by simp [hph, hm, hc, entKind, hk]), hs1, if_neg (by simp [h1, h2', h3])]
  rw [hy] at hsctx hsraw
  rw [show s1.ctx = (applyIO io s0).ctx by rw [← hs1]; rfl, hsctx, hsraw]
  cases ((applyIO io s0).ctx x.ctx).dir with
  | none => rfl
  | some d =>
    dsimp only [launchDir, entTarget, entArgVa]
    cases grRead x.ctx (d + 32 * fld x.raw 8 8) 32 s1 with
    | ok b u =>
      dsimp only [launchEntry]
      refine if_congr Iff.rfl rfl ?_
      cases readGraph x.ctx (fld b 0 8) u with
      | ok gr v =>
        dsimp only [launchVersion]
        refine if_congr (by rw [ne_eq, eq_iff_iff]) rfl (if_congr (by rw [Bool.not_eq_true']) rfl (if_congr ?_ rfl ?_))
        · have hheld : (!versionHeld x (fld b 8 8) v) = true ↔ ¬ versionHeld x (fld b 8 8) v = true := by simp
          exact (and_congr hheld Nat.not_lt.symm).trans not_or.symm
        · cases readArgs x.ctx (fld x.raw 48 8) gr.argBytes v <;> rfl
      | _ => rfl
    | _ => rfl

end

end

/-! ### Versions -/

theorem retireReady_none {ctx : Nat} {s : State} (h : (∀ v ∈ s.fe.versions, v.ctx = ctx → v.current = true ∨ 0 < v.pins) ∨ ctxRuns s ctx = false) :
    retireReady ctx s = s := by
  unfold retireReady
  by_cases hc : ctxRuns s ctx = true
  · have hv := h.resolve_right (by simp [hc])
    have hnil : (s.fe.versions.filter fun v => decide (v.ctx = ctx) && !v.current && decide (v.pins = 0)) = [] := by
      rw [List.filter_eq_nil_iff]
      intro v hv' hb
      simp only [Bool.and_eq_true, Bool.not_eq_true', decide_eq_true_eq] at hb
      obtain ⟨⟨hctx, hcur⟩, hpins⟩ := hb
      rcases hv v hv' hctx with h | h
      · rw [hcur] at h; cases h
      · omega
    rw [if_neg (by rw [hc]; simp), hnil]
    rfl
  · exact if_pos (by simpa using hc)

/-- The signal of a version that has retired. -/
def retireSignal (v : GraphVersion) (u : State) : State := match v.fence with
  | some (k, a, val) => sendFence k a (.inl val) (wcFlushAll u)
  | none => u

/-- A version that has retired is no longer held. -/
def retireGone (v : GraphVersion) (u : State) : State := { u with fe := { u.fe with versions := u.fe.versions.erase v } }

/-- How a version retires when the write of its record has returned. -/
def retireEnd (v : GraphVersion) (s : State) : Res Unit → State
  | .ok _ u => retireSignal v (retireGone v u)
  | .fault f u => retireSignal v (retireGone v (feFault f v.ctx u).2)
  | .severed u => retireSignal v (retireGone v u)
  | .wait _ => s

/-- The record of a retired version (R122). -/
def retireRecord (v : GraphVersion) (t : Nat) : List Byte :=
  natLe 8 v.root ++ natLe 8 v.version ++ natLe 2 v.graph ++ [0, 0] ++ natLe 4 (Nat.min v.launches 0xFFFFFFFF) ++ natLe 8 t

theorem retireVersion_eq (v : GraphVersion) (s : State) :
    retireVersion v s = if v.retireVa = 0 then retireSignal v (retireGone v s)
      else retireEnd v s (vaWrite noMaster v.ctx v.retireVa (retireRecord v s.time) s) := by
  unfold retireVersion
  refine if_congr Iff.rfl rfl ?_
  rw [show retireRecord v s.time = natLe 8 v.root ++ natLe 8 v.version ++ natLe 2 v.graph ++ natLe 2 0 ++
    natLe 4 (Nat.min v.launches 0xFFFFFFFF) ++ natLe 8 s.time from rfl]
  cases vaWrite noMaster v.ctx v.retireVa _ s <;> rfl

theorem retireReady_single {v : GraphVersion} {s : State} (hc : ctxRuns s v.ctx = true)
    (h : s.fe.versions.filter (fun w => decide (w.ctx = v.ctx) && !w.current && decide (w.pins = 0)) = [v]) :
    retireReady v.ctx s = retireVersion v s := by
  unfold retireReady
  rw [if_neg (by rw [hc]; simp), h]
  rfl

/-- Settles O32: a launch is read off its entry, the directory and the graph, a retirement off its record's write. -/
theorem versionsPinAndRetire : Obligations.VersionsPinAndRetire := by
  unfold Obligations.VersionsPinAndRetire
  refine ⟨fun r io s0 hm => ?_, fun ctx g ver root va fence s => ?_, fun v s hc hv => ?_, fun s ctx b => ⟨rfl, ?_⟩⟩
  · intro s ends
    refine ⟨fun h => congrArg Host.Outcome.next (acceptDo_idle rfl h), fun x hx hph hk hc => ?_⟩
    intro y s1 goes fail g argVa
    have hh : s.halted .fe = false := halted_of_nil (mismatch_applyIO hm) _
    have go (hg : goes) : acceptDo r.ring.val r.seq io s0 = launchDir r.ring.val r.seq x s1 (s.ctx x.ctx).dir :=
      acceptDo_goes rfl hh hx hph hk hc rfl rfl hg
    refine ⟨fun hg => congrArg Host.Outcome.next (acceptDo_stays rfl hh hx hph hk hc rfl rfl hg),
      fun hg hd => congrArg Host.Outcome.next ((go hg).trans (congrArg (launchDir _ _ x s1) hd)), fun hg d hd => ?_⟩
    intro entry
    have read {w : Got (List Byte)} (hw : entry = w) : acceptDo r.ring.val r.seq io s0 = launchEntry r.ring.val r.seq x w :=
      ((go hg).trans (congrArg (launchDir _ _ x s1) hd)).trans (congrArg (launchEntry _ _ x) hw)
    refine ⟨fun k u hu => congrArg Host.Outcome.next (read hu), fun u hu => congrArg Host.Outcome.next (read hu),
      fun u hu => congrArg Host.Outcome.next (read hu), fun b u hu => ?_⟩
    intro version
    refine ⟨fun hb => congrArg Host.Outcome.next ((read hu).trans (if_pos hb)), fun hb => ?_⟩
    have valid {w : Got Graph} (hw : version = w) : acceptDo r.ring.val r.seq io s0 = launchVersion r.ring.val r.seq x b w :=
      ((read hu).trans (if_neg hb)).trans (congrArg (launchVersion _ _ x b) hw)
    refine ⟨fun v hv => congrArg Host.Outcome.next (valid hv), fun k v hv => congrArg Host.Outcome.next (valid hv),
      fun v hv => congrArg Host.Outcome.next (valid hv), fun v hv => congrArg Host.Outcome.next (valid hv), fun gr v hv => ?_⟩
    intro held agree typed room args
    refine ⟨fun ha => congrArg Host.Outcome.next ((valid hv).trans (if_pos ha)), fun ha ht => congrArg Host.Outcome.next ?_,
      fun ha ht hr => congrArg Host.Outcome.next ?_, fun ha ht hr => ?_⟩
    · exact (valid hv).trans ((if_neg (not_not.mpr ha)).trans (if_pos ht))
    · exact (valid hv).trans ((if_neg (not_not.mpr ha)).trans ((if_neg (by rw [show bit _ _ = true from ht]; simp)).trans (if_pos hr)))
    · have pinned {w : Got (List Byte)} (hw : args = w) :
          acceptDo r.ring.val r.seq io s0 = launchArgs r.ring.val r.seq x (fld b 8 8) (fld b 0 8) gr w :=
        ((valid hv).trans ((if_neg (not_not.mpr ha)).trans ((if_neg (by rw [show bit _ _ = true from ht]; simp)).trans
          (if_neg (not_not.mpr hr))))).trans (congrArg (launchArgs _ _ x _ _ gr) hw)
      exact ⟨fun k w hw => congrArg Host.Outcome.next (pinned hw), fun w hw => congrArg Host.Outcome.next (pinned hw),
        fun w hw => congrArg Host.Outcome.next (pinned hw), fun a w hw => congrArg Host.Outcome.next (pinned hw)⟩
  · intro mine withVersions
    refine ⟨fun h => ⟨?_, if_pos h⟩, fun h => ⟨?_, if_neg (by rw [h]; simp)⟩, retireReady_none⟩
    · exact congrArg (retireReady ctx) (if_pos h)
    · exact congrArg (retireReady ctx) (if_neg (by rw [h]; simp))
  · have hready := (retireReady_single hc hv).trans (retireVersion_eq v s)
    intro record gone signal wrote
    have hsignal : signal = retireSignal v := by
      funext u
      show (match v.fence with | some (k, a, val) => _ | none => _) = retireSignal v u
      unfold retireSignal
      rcases v.fence with _ | ⟨k, a, val⟩ <;> rfl
    rw [hsignal]
    refine ⟨fun h => hready.trans (if_pos h), fun h => ?_⟩
    have wrote' {w : Res Unit} (hw : wrote = w) : retireReady v.ctx s = retireEnd v s w := (hready.trans (if_neg h)).trans (congrArg (retireEnd v s) hw)
    exact ⟨fun u hu => wrote' hu, fun f u hu => wrote' hu, fun u hu => wrote' hu, fun u hu => wrote' hu⟩
  · show ite _ _ _ = _
    refine if_congr ?_ rfl rfl
    simp [bit]

end Sys2Proof.Machine
end

section
/-! A unit takes the next item of a tensor op (R171, R186): a table that lists two runs of one op. -/

namespace Sys2Proof.Machine

open Sys2Proof

/-- The op of entry 1 of ring 0. -/
def firstOp : OpRef := { ring := 0, seq := 1, op := 0 }

/-- A TENSOR_MOVE of one row, column and plane, which has one item. -/
def moveOp : Op :=
  { runningOp with opcode := 0x31, body := (List.range 112).map fun i => if i = 56 ∨ i = 60 ∨ i = 64 then 1 else 0 }

/-- A run of the first op that the units given have held. -/
def runUsed (used : List Nat) : TensorRun :=
  { op := firstOp, ctx := 1, next := [], held := [], parts := [], written := 0, flags := 0, tStart := 0, issue := 0, used, preempts := 0,
    stopping := false, fail := none }

/-- The first op has two runs, of which unit 0x49 has held the second. -/
def twoRuns : State := { upState with
  fe := { upState.fe with entries := [entryOf 1 1 [moveOp]] }
  tns := { upState.tns with runs := [runUsed [], runUsed [0x49]] } }

/-- Refutes O33: in `twoRuns`, a unit that takes the item leaves both runs with the units that have held the first of them,
where the statement gives each run its own. -/
theorem not_tensorRecordsAreCheckedAndStart : ¬ Obligations.TensorRecordsAreCheckedAndStart := by
  unfold Obligations.TensorRecordsAreCheckedAndStart
  intro h
  obtain ⟨-, -, htake⟩ := h
  obtain ⟨-, hgoes⟩ := htake firstOp 0x48 twoRuns (entryOf 1 1 [moveOp]) moveOp (runUsed []) (by decide +kernel) (by decide +kernel)
  have hused := congrArg (fun u : State => u.tns.runs.map (·.used)) (hgoes (by decide +kernel))
  exact absurd hused (by decide +kernel)

end Sys2Proof.Machine
end

section
/-! The items of a tensor op, its end and report, and narrow mode (R184 to R186, R191). -/

namespace Sys2Proof.Machine

open Sys2Proof

/-! ### A unit reaches its boundary -/

/-- How a unit leaves its item, by what the item's work gave. -/
def itemEnd (o : OpRef) (m ctx : Nat) : Tr State → State
  | .ok v _ => afterItem o m v
  | .fault f va acc u => afterItem o m (
      let v := masterFault f m ctx va acc o.ring.val o.seq u
      if f.bar = true then noteFail o 0x0B 3 v else noteFail o 0x07 f.code.num v)
  | .bad d u => afterItem o m (noteFail o 0x0B d u)
  | .severed u => afterItem o m (noteFail o 0x0D 0 u)
  | .wait u => u

section
variable {o : OpRef} {m : Nat} {io : HostIO} {s0 s : State} (hs : applyIO io s0 = s)
include hs

theorem tileDoneDo_idle (h : s.run? o = none ∨ s.op? o = none) : tileDoneDo o m io s0 = s := by
  unfold tileDoneDo
  rw [hs]
  rcases h with h | h
  · simp only [h]
  · dsimp only
    rw [h]
    rcases s.run? o with _ | r <;> rfl

section
variable {e : Entry} {p : Op} {r : TensorRun} (h : s.op? o = some (e, p)) (hr : s.run? o = some r)
include h hr

theorem tileDoneDo_unheld (hn : ∀ h ∈ r.held, h.1 ≠ m) : tileDoneDo o m io s0 = s := by
  have hfind : r.held.find? (fun h => h.1 = m) = none := by simpa using hn
  unfold tileDoneDo
  simp only [hs, h, hr, hfind]

variable {i : Nat} (hi : r.held.find? (fun h => h.1 = m) = some (m, i))
include hi

theorem tileDoneDo_stopped (hn : ¬ (p.phase = .running ∧ ctxRuns s e.ctx = true ∧ s.isPinned m = false)) :
    tileDoneDo o m io s0 = afterItem o m s := by
  unfold tileDoneDo
  simp only [hs, h, hr, hi]
  refine if_pos ?_
  by_contra hc
  simp only [not_or, not_not, Bool.not_eq_true', Bool.not_eq_false, Bool.not_eq_true] at hc
  exact hn hc

theorem tileDoneDo_works (hw : p.phase = .running ∧ ctxRuns s e.ctx = true ∧ s.isPinned m = false) :
    tileDoneDo o m io s0 = itemEnd o m e.ctx (runItem p o m e.ctx (slotOf p m) i (s.ctx e.ctx).ftz s) := by
  obtain ⟨hp, hc, hpin⟩ := hw
  unfold tileDoneDo
  simp only [hs, h, hr, hi]
  rw [if_neg (by simp [hp, hc, hpin])]
  cases runItem p o m e.ctx (slotOf p m) i (s.ctx e.ctx).ftz s <;> rfl

end

end

/-! ### After an item -/

/-- Every item of every slot of the op has been taken. -/
def allTaken (p : Op) (r : TensorRun) : Prop :=
  ∀ j < (if ownSlots p.opcode p.body = true then (maskArrays p.emask).length else 1),
    opItems p.opcode p.body (maskArrays p.emask).length ≤ tblGet 0 r.next j

section
variable {o : OpRef} {m : Nat} {s u : State} {e : Entry} {p : Op} {r : TensorRun} (hu : leaveItem o m s = u) (hr : u.run? o = some r)
  (h : u.op? o = some (e, p))
include hu hr h

theorem afterItem_gone (hc : ctxRuns u e.ctx = false) : afterItem o m s = if r.held = [] then discardOp o (dropRun o u) else u := by
  unfold afterItem
  simp only [hu, hr, h, hc]
  exact if_pos rfl

variable (hc : ctxRuns u e.ctx = true)
include hc

theorem afterItem_failed {st d : Nat} (hf : r.fail = some (st, d)) : afterItem o m s = if r.held = [] then endTensor o m st d u else u := by
  unfold afterItem
  simp only [hu, hr, h, hc, hf]
  exact if_neg (by simp)

theorem afterItem_good (hf : r.fail = none) :
    afterItem o m s =
      if r.held = [] ∧ ((upTo (if ownSlots p.opcode p.body then (maskArrays p.emask).length else 1)).all fun j =>
          decide (opItems p.opcode p.body (maskArrays p.emask).length ≤ tblGet 0 r.next j)) = true then endTensor o m 0 0 u
      else if r.held = [] ∧ r.stopping = true ∧ r.parts = [] then u.onRun o fun r => { r with stopping := false, preempts := r.preempts + 1 }
      else if u.isPinned m = true then u else takeItem o m u := by
  unfold afterItem
  simp only [hu, hr, h, hc, hf]
  exact if_neg (by simp)

end

theorem allTaken_iff {p : Op} {r : TensorRun} :
    ((upTo (if ownSlots p.opcode p.body then (maskArrays p.emask).length else 1)).all fun j =>
      decide (opItems p.opcode p.body (maskArrays p.emask).length ≤ tblGet 0 r.next j)) = true ↔ allTaken p r := by
  simp [allTaken, upTo]

/-! ### The end of a tensor op -/

/-- An op whose record is changed in its place is found with the change. -/
theorem op?_onOp {s : State} {o : OpRef} {e : Entry} {p : Op} (h : s.op? o = some (e, p)) (f : Op → Op) :
    (s.onOp o f).op? o = some ({ e with ops := e.ops.modify o.op f }, f p) := by
  obtain ⟨he, hp⟩ := op?_iff.mp h
  refine op?_iff.mpr ⟨entry?_onEntry he fun x => ⟨rfl, rfl⟩, ?_⟩
  show (e.ops.modify o.op f)[o.op]? = some (f p)
  simp [hp]

/-- How a tensor op completes, by the write of its report. -/
def reportEnd (o : OpRef) (m st d : Nat) (e : Entry) (va : Nat) (r : TensorRun) (u : State) : Res Unit → State
  | .ok _ v => endOp o st d r.flags (dropRun o v)
  | .fault f v => endOp o st d r.flags (dropRun o (masterFault f m e.ctx va .write e.ring e.seq v))
  | .severed v => endOp o st d r.flags (dropRun o v)
  | .wait _ => u

theorem endTensor_running {o : OpRef} {m st d : Nat} {s : State} {e : Entry} {p : Op} {r : TensorRun} (h : s.op? o = some (e, p))
    (hr : s.run? o = some r) (hro : r.op = o) (hp : p.phase = .running) (hen : p.ending = none) (hc : ctxRuns s e.ctx = true) :
    endTensor o m st d s = if reportVa p.opcode p.body = 0 then endOp o st d r.flags (dropRun o (opEnding o st d m s))
      else reportEnd o m st d e (reportVa p.opcode p.body) r (opEnding o st d m s)
        (vaWrite m e.ctx (reportVa p.opcode p.body) (opReport r st d s.time) (opEnding o st d m s)) := by
  have hop := op?_onOp h fun p => if p.phase = .running ∧ p.ending.isNone then
    { p with units := [], ending := some { status := st, detail := d, master := m } } else p
  change (opEnding o st d m s).op? o = _ at hop
  rw [if_pos ⟨hp, by rw [hen]; rfl⟩] at hop
  have hrun : (opEnding o st d m s).run? o = some r := hr
  have hctx : ctxRuns (opEnding o st d m s) e.ctx = true := hc
  have htime : (opEnding o st d m s).time = s.time := rfl
  unfold endTensor
  simp only [hrun, closeRun, hro, hop]
  generalize opEnding o st d m s = u at *
  rw [if_neg (not_not.mpr hp), if_neg (by rw [hctx]; simp), htime]
  by_cases hva : reportVa p.opcode p.body = 0
  · rw [if_pos hva, if_pos hva]
  · rw [if_neg hva, if_neg hva]
    cases vaWrite m e.ctx (reportVa p.opcode p.body) (opReport r st d s.time) u <;> rfl

/-- The fields of a tensor op's report (R186). -/
theorem opReport_fields (r : TensorRun) (st d t : Nat) :
    (opReport r st d t).length = 32 ∧ fld (opReport r st d t) 0 8 = r.tStart % 2 ^ 64 ∧ fld (opReport r st d t) 8 8 = t % 2 ^ 64 ∧
    fld (opReport r st d t) 16 4 = r.written % 2 ^ 32 ∧ fld (opReport r st d t) 20 1 = r.flags % 256 ∧ fld (opReport r st d t) 21 1 = st % 256 ∧
    fld (opReport r st d t) 22 1 = d % 256 ∧ fld (opReport r st d t) 23 1 = Nat.min r.preempts 255 % 256 ∧
    fld (opReport r st d t) 24 4 = Nat.min r.issue 0xFFFFFFFF % 2 ^ 32 ∧ fld (opReport r st d t) 28 1 = r.used.length % 256 := by
  simp only [opReport, List.append_assoc]
  refine ⟨by simp, ?_, ?_, ?_, ?_, ?_, ?_, ?_, ?_, ?_⟩ <;>
    simp only [fld_append_right, length_natLe, fld_natLe_append, Nat.reduceLeDiff, Nat.reduceSub, Nat.reducePow]

/-! ### Narrow mode -/

/-- The row of TNS_CTL. -/
def tnsCtlRow : RegDef := regRow 0x0000 1 0x0 0x1 0x0 0x0 0x0 true false

theorem regAt_tnsCtl (c : Fin 8) : regAt (.tns c) 0 = some (tnsCtlRow, 0) := rfl

theorem offTnsCtl_base (c : Fin 8) : offTnsCtl c.val = clusterBase c + 0x10000 := by simpa using offTnsCtl_eq c 0

/-- What a write of TNS_CTL by the physical function does. -/
theorem regWrite4_tnsCtl {c : Fin 8} {v : Word} {s : State} (hq : quiet s 0) (hon : s.power c.val = .on) :
    regWrite4 0 (offTnsCtl c.val) v s =
      (let off := clusterBase c + 0x10000
       let new := (s.raw 0 off &&& 0xFFFFFFFE) ||| (v &&& 1)
       if (new &&& 1) ≠ (s.raw 0 off &&& 1) then
         if unlocked s (.tns c) 0 = true then (setUnlock (.tns c) 0 0 s).setRaw 0 off new else setDenied (.tns c) 0 1 s
       else s.setRaw 0 off new) := by
  have h := regWrite4_win (fn := 0) .primary v hq (regAt_tnsCtl c) (by decide) (by simp) (.inl rfl) (show blockOff s (.tns c) = false by
    simp [blockOff, hon])
  have hbase : blockBase (.tns c) = clusterBase c + 0x10000 := rfl
  simp only [show Window.primary.delta = 0 from rfl, Nat.add_zero, hbase, show ((0 : Fn).val) = 0 from rfl] at h
  rw [offTnsCtl_base, h]
  have hnew (x : Word) : newValue tnsCtlRow .primary x v = (x &&& 0xFFFFFFFE) ||| (v &&& 1) := by
    simp [newValue, tnsCtlRow, regRow]
  have hfull (x : Word) : x &&& ~~~(0 : Word) &&& ~~~(v &&& 0) = x := by simp [and_full]
  have hstore (u : State) : regEffect (.tns c) 0 (winWrite 0 .primary (clusterBase c + 0x10000) tnsCtlRow v s) u =
      u.setRaw 0 (clusterBase c + 0x10000) ((s.raw 0 (clusterBase c + 0x10000) &&& 0xFFFFFFFE) ||| (v &&& 1)) := by
    show u.setRaw 0 (clusterBase c + 0x10000)
      (newValue tnsCtlRow .primary (s.raw 0 (clusterBase c + 0x10000)) v &&& ~~~(0 : Word) &&& ~~~(v &&& 0)) = _
    rw [hfull, hnew]
  have hnw : (winWrite 0 .primary (clusterBase c + 0x10000) tnsCtlRow v s).new =
      (s.raw 0 (clusterBase c + 0x10000) &&& 0xFFFFFFFE) ||| (v &&& 1) := hnew _
  simp only [hstore, hnw]
  rfl

theorem blockAt_tns (c : Fin 8) : blockAt (clusterBase c + 0x10000) = some (.tns c, 0) := by
  have hat := blockAt_base (.tns c) (show 0 < 0x10000 by decide)
  rwa [show blockBase (.tns c) + 0 = clusterBase c + 0x10000 from rfl] at hat

/-- A write beyond a virtual function's BAR0, which has 1 MiB (R436). -/
theorem regCore_beyond {fn : Fn} {off rel : Nat} {b : BlockId} (v : Word) (s : State) (h0 : fn.val ≠ 0) (hbig : 2 ^ 20 ≤ off)
    (hat : blockAt off = some (b, rel)) : regCore fn.val off v s = s := by
  rw [regCore, hat]
  simp only [fn_ne_monitor, agentFn_fn, if_false]
  exact if_pos ⟨h0, hbig⟩

theorem regWrite4_of_core {agent off : Nat} {v : Word} {s : State} (h : regCore agent off v s = s) : regWrite4 agent off v s = s := by
  rw [regWrite4, h]
  exact if_neg (lt_irrefl _)

/-- A virtual function has no register of a tensor array. -/
theorem regWrite4_tns_virtual {fn : Fn} {c : Fin 8} (v : Word) (s : State) (h0 : fn.val ≠ 0) :
    regWrite4 fn.val (clusterBase c + 0x10000) v s = s := by
  have hbig : 2 ^ 20 ≤ clusterBase c + 0x10000 := by simp only [clusterBase]; omega
  exact regWrite4_of_core (regCore_beyond v s h0 hbig (blockAt_tns c))

/-- Settles O34: a boundary is read off the run, the op and what the item's work gave, a report off its bytes. -/
theorem tensorItemsEndAndModesFollow : Obligations.TensorItemsEndAndModesFollow := by
  unfold Obligations.TensorItemsEndAndModesFollow
  refine ⟨fun o m t io s0 => ?_, fun o m s e p r => ?_, fun o m st d s e p r h hr hro hp hen hc => ?_, fun c v s => ?_⟩
  · intro s ends
    have next {u : State} (hu : tileDoneDo o m io (advanceTo t s0) = u) : ends u := congrArg (fun u => Host.Outcome.next (metaLog u)) hu
    refine ⟨fun h => next (tileDoneDo_idle rfl h), fun e p r h hr hn => next (tileDoneDo_unheld rfl h hr hn), fun e p r i h hr hi => ?_⟩
    intro ran works failed
    refine ⟨fun hn => next (tileDoneDo_stopped rfl h hr hi hn), fun hw => ?_⟩
    have worked {x : Tr State} (hx : ran = x) : ends (itemEnd o m e.ctx x) :=
      next ((tileDoneDo_works rfl h hr hi hw).trans (congrArg (itemEnd o m e.ctx) hx))
    exact ⟨fun v u hu => worked hu, fun f va acc u hu => worked hu, fun d u hu => worked hu, fun u hu => worked hu, fun u hu => worked hu⟩
  · intro u hr h slots all
    refine ⟨fun hc => afterItem_gone rfl hr h hc, fun hc => ⟨fun st d hf => afterItem_failed rfl hr h hc hf, fun hf hheld hall => ?_,
      fun hf hn hheld hst hpa => ?_, fun hf hn hn' => ?_⟩⟩
    · exact (afterItem_good rfl hr h hc hf).trans (if_pos ⟨hheld, allTaken_iff.mpr hall⟩)
    · have hn1 := fun hx : _ ∧ _ => hn ⟨hx.1, allTaken_iff.mp hx.2⟩
      exact (afterItem_good rfl hr h hc hf).trans ((if_neg hn1).trans (if_pos ⟨hheld, hst, hpa⟩))
    · have hn1 := fun hx : _ ∧ _ => hn ⟨hx.1, allTaken_iff.mp hx.2⟩
      exact (afterItem_good rfl hr h hc hf).trans ((if_neg hn1).trans (if_neg hn'))
  · intro u va ended report wrote
    obtain ⟨hlen, hstart, htime, hwritten, hflags, hst, hd, hpre, hissue, hused⟩ := opReport_fields r st d s.time
    have hend := endTensor_running (m := m) (st := st) (d := d) h hr hro hp hen hc
    refine ⟨fun hva => hend.trans (if_pos hva), fun hva => ?_, hlen, hstart, htime, hwritten, hflags, hst, hd, hpre.trans (Nat.mod_eq_of_lt ?_),
      hissue.trans (Nat.mod_eq_of_lt ?_), hused⟩
    · have wrote' {x : Res Unit} (hx : wrote = x) : endTensor o m st d s = reportEnd o m st d e va r u x :=
        (hend.trans (if_neg hva)).trans (congrArg (reportEnd o m st d e va r u) hx)
      exact ⟨fun v hv => wrote' hv, fun f v hv => wrote' hv, fun v hv => wrote' hv, fun v hv => wrote' hv⟩
    · exact lt_of_le_of_lt (Nat.min_le_right _ _) (by norm_num)
    · exact lt_of_le_of_lt (Nat.min_le_right _ _) (by norm_num)
  · intro off old new
    refine ⟨fun hq hon => ?_, fun fn h0 => congrArg Host.Outcome.next ?_, congrArg Host.Outcome.next ?_⟩
    · have hw := regWrite4_tnsCtl (v := v) hq hon
      refine ⟨fun h => congrArg Host.Outcome.next (hw.trans (if_neg (not_not.mpr h))), fun h hl => congrArg Host.Outcome.next (hw.trans ((if_pos h).trans (if_pos hl))),
        fun h hl => congrArg Host.Outcome.next (hw.trans ((if_pos h).trans (if_neg (by rw [hl]; simp))))⟩
    · rw [offTnsCtl_base]
      exact regWrite4_tns_virtual v s h0
    · rw [narrowDoneDo, offTnsCtl_base]
      rfl

end Sys2Proof.Machine
end

section
/-! Codes of the number formats keep through their values (R127, R128, R130, R133, R148). -/

namespace Sys2Proof.Machine

open Sys2Proof

/-! ### Floating-point codes -/

/-- A code is its sign, its exponent field and its mantissa field. -/
theorem code_fields {E M c : Nat} (hc : c < 2 ^ (1 + E + M)) :
    c = c / 2 ^ (M + E) % 2 * 2 ^ (E + M) + c / 2 ^ M % 2 ^ E * 2 ^ M + c % 2 ^ M := by
  have hlow := Nat.div_add_mod' c (2 ^ M)
  have hmid := Nat.div_add_mod' (c / 2 ^ M) (2 ^ E)
  have hsign : c / 2 ^ (M + E) % 2 = c / 2 ^ M / 2 ^ E := by
    rw [pow_add, ← Nat.div_div_eq_div_mul]
    refine Nat.mod_eq_of_lt ?_
    rw [Nat.div_div_eq_div_mul, Nat.div_lt_iff_lt_mul (by positivity)]
    calc c < 2 ^ (1 + E + M) := hc
      _ = 2 * (2 ^ M * 2 ^ E) := by ring
  rw [hsign]
  calc c = c / 2 ^ M * 2 ^ M + c % 2 ^ M := hlow.symm
    _ = (c / 2 ^ M / 2 ^ E * 2 ^ E + c / 2 ^ M % 2 ^ E) * 2 ^ M + c % 2 ^ M := by rw [hmid]
    _ = _ := by ring

section
variable {f : FFmt} {draw : Option Nat} {n : Bool} {m e : Nat}

/-- A magnitude whose exponent is its own quantum is encoded without rounding. -/
theorem encodeFloat_exact {x : Int} {k : Nat} (hm : m ≠ 0) (hq : max (log2Of m x) (eMin f) - f.mbits = x)
    (hk : (x - (eMin f - f.mbits)).toNat * 2 ^ f.mbits + m = k) (hmax : k ≤ maxCode f) :
    encodeFloat f draw false false (.fin n m x) = { val := signCode f n + k, fl := 0 } := by
  have hcode : magCode f draw m x = (k, false) := by
    simp only [magCode, hq, le_refl, if_true, sub_self, Int.toNat_zero, pow_zero, mul_one, hk]
  obtain ⟨m', rfl⟩ := Nat.exists_eq_succ_of_ne_zero hm
  simp only [encodeFloat, hcode, Bool.and_false, Bool.false_eq_true, if_false, Nat.not_lt.mpr hmax]
  rfl

theorem encodeFloat_subnormal (hE : 1 ≤ f.ebits) (hm : m < 2 ^ f.mbits) :
    encodeFloat f draw false false (.fin n m (1 - (f.bias : Int) - f.mbits)) = { val := signCode f n + m, fl := 0 } := by
  rcases Nat.eq_zero_or_pos m with rfl | hpos
  · rfl
  have hlog : Nat.log2 m < f.mbits := (Nat.log2_lt (by omega)).mpr hm
  refine encodeFloat_exact (by omega) ?_ ?_ ?_
  · simp only [log2Of, eMin]
    omega
  · simp [eMin]
  · have h1 : 2 ^ f.mbits * 2 ≤ 2 ^ (f.ebits + f.mbits) := by
      rw [← pow_succ]
      exact Nat.pow_le_pow_right (by omega) (by omega)
    have h2 : 1 * 2 ^ f.mbits ≤ (2 ^ f.ebits - 1) * 2 ^ f.mbits := by
      refine Nat.mul_le_mul_right _ ?_
      have : 2 ^ 1 ≤ 2 ^ f.ebits := Nat.pow_le_pow_right (by omega) hE
      omega
    unfold maxCode
    split <;> omega

/-- The fields of a finite code lie at or below the largest magnitude. -/
theorem code_le_maxCode (hm : m < 2 ^ f.mbits) (he : e < 2 ^ f.ebits) (hieee : f.special = .ieee → e ≠ 2 ^ f.ebits - 1)
    (he4 : f.special = .e4m3 → ¬ (e = 2 ^ f.ebits - 1 ∧ m = 2 ^ f.mbits - 1)) : e * 2 ^ f.mbits + m ≤ maxCode f := by
  have hpow : 2 ^ (f.ebits + f.mbits) = 2 ^ f.ebits * 2 ^ f.mbits := pow_add _ _ _
  have hfull : (e + 1) * 2 ^ f.mbits ≤ 2 ^ f.ebits * 2 ^ f.mbits := Nat.mul_le_mul_right _ he
  rw [Nat.add_mul, Nat.one_mul] at hfull
  unfold maxCode
  split
  · next h =>
    have hlt : (e + 1) * 2 ^ f.mbits ≤ (2 ^ f.ebits - 1) * 2 ^ f.mbits := Nat.mul_le_mul_right _ (by have := hieee h; omega)
    rw [Nat.add_mul, Nat.one_mul] at hlt
    omega
  · next h =>
    by_cases htop : e = 2 ^ f.ebits - 1
    · have hne : m ≠ 2 ^ f.mbits - 1 := fun hm' => he4 h ⟨htop, hm'⟩
      omega
    · have hlt : (e + 1 + 1) * 2 ^ f.mbits ≤ 2 ^ f.ebits * 2 ^ f.mbits := Nat.mul_le_mul_right _ (by omega)
      rw [Nat.add_mul, Nat.add_mul, Nat.one_mul] at hlt
      omega
  · omega

theorem encodeFloat_normal (hm : m < 2 ^ f.mbits) (h0 : e ≠ 0) (hmax : e * 2 ^ f.mbits + m ≤ maxCode f) :
    encodeFloat f draw false false (.fin n (2 ^ f.mbits + m) ((e : Int) - f.bias - f.mbits)) =
      { val := signCode f n + (e * 2 ^ f.mbits + m), fl := 0 } := by
  have hpos : 0 < 2 ^ f.mbits := by positivity
  have hlog : Nat.log2 (2 ^ f.mbits + m) = f.mbits := by
    rw [Nat.log2_eq_iff (by omega)]
    constructor
    · omega
    · rw [pow_succ]; omega
  refine encodeFloat_exact (by omega) ?_ ?_ hmax
  · simp only [log2Of, eMin, hlog]
    omega
  · have hq : ((e : Int) - f.bias - f.mbits - (eMin f - f.mbits)).toNat = e - 1 := by
      simp only [eMin]
      omega
    rw [hq]
    obtain ⟨e', rfl⟩ := Nat.exists_eq_succ_of_ne_zero h0
    simp only [Nat.succ_eq_add_one, Nat.add_sub_cancel]
    ring

end

/-- A code that is no NaN keeps through its value. -/
theorem encodeFloat_decodeFloat {f : FFmt} {c : Nat} (draw : Option Nat) (hE : 1 ≤ f.ebits) (hc : c < 2 ^ (1 + f.ebits + f.mbits))
    (hnan : decodeFloat f c ≠ .nan) : encodeFloat f draw false false (decodeFloat f c) = { val := c, fl := 0 } := by
  have hfields := code_fields hc
  have hsign : signCode f (decide (c / 2 ^ (f.mbits + f.ebits) % 2 = 1)) = c / 2 ^ (f.mbits + f.ebits) % 2 * 2 ^ (f.ebits + f.mbits) := by
    rcases Nat.mod_two_eq_zero_or_one (c / 2 ^ (f.mbits + f.ebits)) with h | h <;> simp [signCode, h]
  have hm : c % 2 ^ f.mbits < 2 ^ f.mbits := Nat.mod_lt _ (by positivity)
  have he : c / 2 ^ f.mbits % 2 ^ f.ebits < 2 ^ f.ebits := Nat.mod_lt _ (by positivity)
  unfold decodeFloat at hnan ⊢
  dsimp only at hnan ⊢
  generalize c / 2 ^ (f.mbits + f.ebits) % 2 = sign at hfields hsign hnan ⊢
  generalize c / 2 ^ f.mbits % 2 ^ f.ebits = e at hfields he hnan ⊢
  generalize c % 2 ^ f.mbits = m at hfields hm hnan ⊢
  by_cases hinf : f.special = .ieee ∧ e = 2 ^ f.ebits - 1
  · obtain ⟨hieee, htop⟩ := hinf
    rw [if_pos ⟨hieee, htop⟩] at hnan ⊢
    by_cases hm0 : m = 0
    · rw [if_pos hm0]
      simp only [encodeFloat, overflowCode, hieee, infCode, hsign]
      subst hm0 htop
      simp [hfields]
    · exact absurd (if_neg hm0) hnan
  rw [if_neg hinf] at hnan ⊢
  by_cases hn4 : f.special = .e4m3 ∧ e = 2 ^ f.ebits - 1 ∧ m = 2 ^ f.mbits - 1
  · exact absurd (if_pos hn4) hnan
  rw [if_neg hn4]
  by_cases h0 : e = 0
  · rw [if_pos h0, encodeFloat_subnormal hE hm, hsign]
    subst h0
    simp [hfields]
  · have hmax := code_le_maxCode hm he (fun h ht => hinf ⟨h, ht⟩) (fun h ht => hn4 ⟨h, ht⟩)
    rw [if_neg h0, encodeFloat_normal hm h0 hmax, hsign]
    simp only [hfields, Nat.add_assoc]

/-! ### Integer codes -/

theorem clampInt32_val (i : Int) : (clampInt32 i).val = max (-2147483648) (min 2147483647 i) := by
  unfold clampInt32
  split_ifs <;> simp only [Fl.pure] <;> omega

/-- The value of a code of w bits in an integer format: two's complement where the format has a sign. -/
def intValue (w : Nat) (signed : Bool) (c : Nat) : Int := if signed = true ∧ 2 ^ (w - 1) ≤ c then (c : Int) - 2 ^ w else c

theorem intValue_emod {w c : Nat} (signed : Bool) (hc : c < 2 ^ w) : (intValue w signed c % 2 ^ w).toNat = c := by
  have hc' : (c : Int) < 2 ^ w := by exact_mod_cast hc
  have hmod : (c : Int) % 2 ^ w = c := Int.emod_eq_of_lt (by omega) hc'
  unfold intValue
  split
  · rw [Int.sub_emod_right, hmod, Int.toNat_natCast]
  · rw [hmod, Int.toNat_natCast]

/-- An integer within the range is encoded as its residue, without a flag. -/
theorem encodeInt_ofInt {lo hi v : Int} (w : Nat) (hlo : lo ≤ v) (hhi : v ≤ hi) :
    encodeInt lo hi w (Val.ofInt v) = { val := (v % 2 ^ w).toNat, fl := 0 } := by
  have hv : (if decide (v < 0) = true then -((v.natAbs * 2 ^ (0 : Int).toNat : Nat) : Int) else ((v.natAbs * 2 ^ (0 : Int).toNat : Nat) : Int)) = v := by
    simp only [Int.toNat_zero, pow_zero, mul_one, decide_eq_true_eq]
    split <;> omega
  simp only [Val.ofInt, encodeInt, roundInt, le_refl, if_true, hv]
  rw [if_neg (by omega), if_neg (by omega)]
  rfl

/-- An integer code keeps through its value, where the format's range holds the values of its codes. -/
theorem encodeElem_decodeElem_int {code c : Nat} {lo hi : Int} (ftz sat : Bool) (draw : Option Nat) (hf : floatFmt code = none)
    (hi' : intFmt code = some (lo, hi)) (hc : c < 2 ^ fmtWidth code)
    (hrange : lo ≤ intValue (fmtWidth code) (decide (lo < 0)) c ∧ intValue (fmtWidth code) (decide (lo < 0)) c ≤ hi) :
    encodeElem code draw sat ftz (decodeElem code ftz c) = { val := c, fl := 0 } := by
  have hdec : decodeElem code ftz c = Val.ofInt (intValue (fmtWidth code) (decide (lo < 0)) c) := by
    simp only [decodeElem, hf, hi', Nat.mod_eq_of_lt hc, intValue, decide_eq_true_eq]
    split <;> rfl
  obtain ⟨hlo, hhi⟩ := hrange
  simp only [encodeElem, hf, hi', hdec]
  rw [encodeInt_ofInt _ hlo hhi, intValue_emod _ hc]

/-- Settles O35: a float code is its fields, a value is encoded at its own quantum, and integers lie within their range. -/
theorem numbersKeepTheirCodes : Obligations.NumbersKeepTheirCodes := by
  unfold Obligations.NumbersKeepTheirCodes
  refine ⟨fun f c draw hf hc hnan => encodeFloat_decodeFloat draw ?_ hc hnan, fun code c ftz sat draw hcode hc => ?_, fun r ftz terms c hr => ?_⟩
  · have hall : ∀ f ∈ [fmtFp32, fmtFp19, fmtBf16, fmtFp16, fmtE5m2, fmtE4m3, fmtE3m2, fmtE2m3, fmtE2m1], 1 ≤ f.ebits := by decide
    exact hall f hf
  · simp only [List.mem_cons, List.not_mem_nil, or_false] at hcode
    rcases hcode with rfl | rfl | rfl | rfl | rfl <;> simp only [fmtWidth, Nat.reducePow] at hc <;>
      refine encodeElem_decodeElem_int ftz sat draw rfl rfl hc ?_ <;>
      simp only [intValue, fmtWidth, Nat.reduceSub, Nat.reducePow, decide_eq_true_eq] <;> split <;> omega
  · have hy : (dotStep r ftz terms c).val = Val.ofInt (clampInt32 (c.toInt + ((terms.map (·.val)).map Val.toInt).sum)).val := by
      simp only [dotStep, hr]
      rfl
    rw [hy, clampInt32_val, List.map_map]
    rfl

end Sys2Proof.Machine
end

section
/-! SPM_ARB and L2_LOCK: what their fields may hold (R196, R213). -/

namespace Sys2Proof.Machine

open Sys2Proof

/-! ### Registers of the physical function -/

/-- What a write of the physical function at a primary offset does. -/
theorem regWrite4_prim {s : State} {off rel i : Nat} {b : BlockId} {d : RegDef} (v : Word) (hq : quiet s 0)
    (hb : blockAt off = some (b, rel)) (hd : regAt b rel = some (d, i)) (hrel : rel < 0xFF0) (hh : b ≠ .hst) (hon : blockOff s b = false) :
    regWrite4 0 off v s =
      if (newValue d .primary (s.raw 0 off) v &&& d.rwk) ≠ (s.raw 0 off &&& d.rwk) then
        if unlocked s b 0 = true then regEffect b rel (winWrite 0 .primary off d v s) (setUnlock b 0 0 s) else setDenied b 0 1 s
      else regEffect b rel (winWrite 0 .primary off d v s) s := by
  have h := regWrite4_win (fn := 0) .primary v hq hd hrel hh (.inl rfl) hon
  rw [show Window.primary.delta = 0 from rfl, Nat.add_zero, ← blockAt_eq_base hb, show ((0 : Fn).val) = 0 from rfl] at h
  exact h

/-- A virtual function's write of a block above its BAR0 does nothing. -/
theorem regWrite4_beyond {fn : Fn} {off rel : Nat} {b : BlockId} (v : Word) (s : State) (h0 : fn.val ≠ 0) (hbig : 2 ^ 20 ≤ off)
    (hat : blockAt off = some (b, rel)) : regWrite4 fn.val off v s = s :=
  regWrite4_of_core (regCore_beyond v s h0 hbig hat)

/-- What a write leaves of the fields that it writes. -/
theorem fields_written (old v m : Word) : ((old &&& ~~~m) ||| (v &&& m)) &&& m = v &&& m := by
  ext i hi
  simp only [BitVec.getElem_and, BitVec.getElem_or, BitVec.getElem_not]
  cases m[i] <;> simp

theorem toNat_and_low16 (x : Word) : (x &&& 0xFFFF).toNat = x.toNat % 65536 := by
  rw [BitVec.toNat_and]
  exact Nat.and_two_pow_sub_one_eq_mod x.toNat 16

/-- The low half of a register whose low half is written. -/
theorem low16_written (old v : Word) : ((old &&& 0xFFFF0000) ||| (v &&& 0xFFFF)).toNat % 65536 = v.toNat % 65536 := by
  rw [← toNat_and_low16, ← toNat_and_low16, show (0xFFFF0000 : Word) = ~~~0xFFFF from by decide, fields_written]

/-! ### SPM_ARB -/

theorem blockAt_cluster {b : BlockId} {k rel off : Nat} (hk : rel < 0x10000) (hbase : blockBase b = k) (hoff : k + rel = off) :
    blockAt off = some (b, rel) := by
  subst hbase hoff
  exact blockAt_base b hk

theorem blockAt_spm (c : Fin 8) {rel off : Nat} (hk : rel < 0x10000) (hoff : clusterBase c + 0x20000 + rel = off) :
    blockAt off = some (.spm c, rel) := blockAt_cluster hk rfl hoff

theorem blockAt_l2 (d : Fin 2) {rel off : Nat} (hk : rel < 0x10000) (hoff : dieBase d + rel = off) :
    blockAt off = some (.l2 d, rel) := blockAt_cluster hk rfl hoff

theorem clusterBase_big (c : Fin 8) : 2 ^ 20 ≤ clusterBase c := by simp only [clusterBase]; omega

theorem dieBase_big (d : Fin 2) : 2 ^ 20 ≤ dieBase d := by simp only [dieBase]; omega

/-- The row of SPM_ARB. -/
def spmArbRow : RegDef := regRow 0x0000 1 0xFFFF 0x0 0x80000000 0x0 0x1348 true false

theorem regAt_spmArb (c : Fin 8) : regAt (.spm c) 0 = some (spmArbRow, 0) := rfl

/-- The weights of SPM_ARB that may be stored. -/
def weightsOk (n : Nat) : Prop :=
  n % 16 ≠ 0 ∧ n / 16 % 16 ≠ 0 ∧ n / 256 % 16 ≠ 0 ∧ n / 4096 % 16 ≠ 0 ∧ n % 16 + n / 16 % 16 + n / 256 % 16 + n / 4096 % 16 = 16

theorem weightsOk_iff {x n : Nat} (h : x % 65536 = n % 65536) :
    ([bits x 3 0, bits x 7 4, bits x 11 8, bits x 15 12].any (· = 0) = true ∨ [bits x 3 0, bits x 7 4, bits x 11 8, bits x 15 12].sum ≠ 16) ↔
      ¬ weightsOk n := by
  have h0 : bits x 3 0 = n % 16 := by simp only [bits, Nat.reduceAdd, Nat.reduceSub, Nat.reducePow, Nat.div_one]; omega
  have h1 : bits x 7 4 = n / 16 % 16 := by simp only [bits, Nat.reduceAdd, Nat.reduceSub, Nat.reducePow]; omega
  have h2 : bits x 11 8 = n / 256 % 16 := by simp only [bits, Nat.reduceAdd, Nat.reduceSub, Nat.reducePow]; omega
  have h3 : bits x 15 12 = n / 4096 % 16 := by simp only [bits, Nat.reduceAdd, Nat.reduceSub, Nat.reducePow]; omega
  simp only [h0, h1, h2, h3, weightsOk, List.any_cons, List.any_nil, Bool.or_false, Bool.or_eq_true, decide_eq_true_eq, List.sum_cons,
    List.sum_nil]
  omega

section
variable {v old : Word} {w : RegWr} {s : State} (hnew : w.new = (old &&& 0xFFFF0000) ||| (v &&& 0xFFFF))
include hnew

theorem spmArbEffect_stores (h : weightsOk v.toNat ∨ (w.new &&& 0xFFFF) = (w.old &&& 0xFFFF)) : spmArbEffect w s = storeWr w 0 s := by
  refine if_neg ?_
  rintro ⟨hc, hbad⟩
  rw [hnew, weightsOk_iff (low16_written old v)] at hbad
  rcases h with h | h
  · exact hbad h
  · exact of_decide_eq_true hc h

theorem spmArbEffect_refused (hbad : ¬ weightsOk v.toNat) (hc : (w.new &&& 0xFFFF) ≠ (w.old &&& 0xFFFF)) :
    spmArbEffect w s = refuseWr w refusedBit s :=
  if_pos ⟨decide_eq_true hc, by rw [hnew]; exact (weightsOk_iff (low16_written old v)).mpr hbad⟩

end

/-! ### L2_LOCK -/

/-- The row of L2_LOCK. -/
def l2LockRow : RegDef := regRow 0x0004 1 0x0 0xFFFF 0x80000000 0x0 0x0 false false

theorem regAt_l2Lock (d : Fin 2) : regAt (.l2 d) 4 = some (l2LockRow, 0) := rfl

/-- The ways that a value of L2_LOCK locks. -/
def lockedWays (n : Nat) : Nat := ((List.range 16).filter fun w => n / 2 ^ w % 2 = 1).length

theorem lockedWays_low {x n : Nat} (h : x % 65536 = n % 65536) : lockedWays x = lockedWays n := by
  refine congrArg List.length (List.filter_congr fun w hw => ?_)
  have hw' : w < 16 := List.mem_range.mp hw
  have hlow (y : Nat) : decide (y / 2 ^ w % 2 = 1) = (y % 2 ^ 16).testBit w := by
    rw [Nat.testBit_mod_two_pow, Nat.testBit_eq_decide_div_mod_eq]
    simp [hw']
  rw [hlow, hlow, show (2 : Nat) ^ 16 = 65536 from rfl, h]

section
variable {v old : Word} {w : RegWr} {s : State} (hnew : w.new = (old &&& 0xFFFF0000) ||| (v &&& 0xFFFF))
include hnew

theorem l2LockEffect_stores (h : lockedWays v.toNat ≤ 8 ∨ (w.new &&& 0xFFFF) = (w.old &&& 0xFFFF)) : l2LockEffect w s = storeWr w 0 s := by
  refine if_neg ?_
  rintro ⟨hc, hbad⟩
  change 8 < lockedWays w.new.toNat at hbad
  rw [hnew, lockedWays_low (low16_written old v)] at hbad
  rcases h with h | h
  · omega
  · exact of_decide_eq_true hc h

theorem l2LockEffect_refused (hbad : 8 < lockedWays v.toNat) (hc : (w.new &&& 0xFFFF) ≠ (w.old &&& 0xFFFF)) :
    l2LockEffect w s = refuseWr w refusedBit s := by
  refine if_pos ⟨decide_eq_true hc, ?_⟩
  show 8 < lockedWays w.new.toNat
  rwa [hnew, lockedWays_low (low16_written old v)]

end

/-! ### What the two writes leave -/

section
variable {off : Nat} {v : Word} {s u : State}

/-- The value that a write would leave in a register's low half. -/
def halfNew (s : State) (off : Nat) (v : Word) : Word := (s.raw 0 off &&& 0xFFFF0000) ||| (v &&& 0xFFFF)

theorem newValue_half {d : RegDef} (hm : d.rw ||| d.rwk = 0xFFFF) (hc : d.cmd = 0) (old : Word) :
    newValue d .primary old v = (old &&& 0xFFFF0000) ||| (v &&& 0xFFFF) := by
  simp only [newValue, hm, hc]
  rfl

theorem storeWr_half {d : RegDef} (hm : d.rw ||| d.rwk = 0xFFFF) (hc : d.cmd = 0) (hw : d.w1c = 0x80000000) :
    storeWr (winWrite 0 .primary off d v s) 0 u = u.setRaw 0 off (halfNew s off v &&& ~~~(v &&& 0x80000000)) := by
  have hfull (x : Word) : x &&& ~~~(0 : Word) = x := by simp [and_full]
  simp only [storeWr, winWrite, newValue_half hm hc, hw, hfull, halfNew]
  rfl

theorem refuseWr_half {d : RegDef} (hw : d.w1c = 0x80000000) :
    refuseWr (winWrite 0 .primary off d v s) refusedBit u = u.setRaw 0 off ((s.raw 0 off &&& ~~~(v &&& 0x80000000)) ||| 0x80000000) := by
  simp only [refuseWr, winWrite, hw, refusedBit]
  rfl

end

/-- What a write of SPM_ARB of a cluster that is on does. -/
theorem exec_spmArb {c : Fin 8} {v : Word} {s : State} (hq : quiet s 0) (hon : s.power c.val = .on) :
    exec (.spmArbWrite 0 c v) s = .next (spmArbEffect (winWrite 0 .primary (clusterBase c + 0x20000) spmArbRow v s) s) := by
  have h := regWrite4_prim v hq (blockAt_spm c (rel := 0) (by decide) rfl) (regAt_spmArb c) (by decide) (by simp) (by simp [blockOff, hon])
  exact congrArg Host.Outcome.next (h.trans (if_neg (by simp [spmArbRow, regRow])))

/-- What a write of L2_LOCK of a die that is on does. -/
theorem exec_l2Lock {d : Fin 2} {v : Word} {s : State} (hq : quiet s 0) (hon : s.power (72 + d.val) = .on) :
    exec (.l2LockWrite 0 d v) s = .next (
      if (halfNew s (dieBase d + 4) v &&& 0xFFFF) ≠ (s.raw 0 (dieBase d + 4) &&& 0xFFFF) then
        if unlocked s (.l2 d) 0 = true then l2LockEffect (winWrite 0 .primary (dieBase d + 4) l2LockRow v s) (setUnlock (.l2 d) 0 0 s)
        else setDenied (.l2 d) 0 1 s
      else l2LockEffect (winWrite 0 .primary (dieBase d + 4) l2LockRow v s) s) := by
  have h := regWrite4_prim v hq (blockAt_l2 d (rel := 4) (by decide) rfl) (regAt_l2Lock d) (by decide) (by simp) (by simp [blockOff, hon])
  rw [newValue_half (d := l2LockRow) rfl rfl] at h
  exact congrArg Host.Outcome.next h

/-- Settles O36: the write lands by `regWrite4_prim`, and its effect is read off the low half that it would leave. -/
theorem weightsAndWaysAreChecked : Obligations.WeightsAndWaysAreChecked := by
  unfold Obligations.WeightsAndWaysAreChecked
  intro fn v s hq
  refine ⟨fun h0 => ⟨fun c => congrArg Host.Outcome.next (regWrite4_beyond v s h0 ?_ (blockAt_spm c (rel := 0) (by decide) rfl)),
    fun d => congrArg Host.Outcome.next (regWrite4_beyond v s h0 ?_ (blockAt_l2 d (rel := 4) (by decide) rfl))⟩, fun h0 c hon => ?_, fun h0 d hon => ?_⟩
  · exact (clusterBase_big c).trans (Nat.le_add_right _ _)
  · exact (dieBase_big d).trans (Nat.le_add_right _ _)
  · obtain rfl : fn = 0 := Fin.ext h0
    intro off old new n ok
    have hw : (winWrite 0 .primary off spmArbRow v s).new = new := newValue_half (d := spmArbRow) rfl rfl old
    rw [exec_spmArb hq hon]
    refine ⟨fun h => congrArg Host.Outcome.next ?_, fun hbad hc => congrArg Host.Outcome.next ?_⟩
    · exact (spmArbEffect_stores hw (h.imp_right fun h => by rw [hw]; exact h)).trans (storeWr_half rfl rfl rfl)
    · exact (spmArbEffect_refused hw hbad (by rw [hw]; exact hc)).trans (refuseWr_half rfl)
  · obtain rfl : fn = 0 := Fin.ext h0
    intro off old new u ways
    have hw : (winWrite 0 .primary off l2LockRow v s).new = new := newValue_half (d := l2LockRow) rfl rfl old
    rw [exec_l2Lock hq hon]
    refine ⟨fun h => congrArg Host.Outcome.next ((if_neg (not_not.mpr h)).trans ?_), fun h hl => congrArg Host.Outcome.next ((if_pos h).trans ?_),
      fun h hl hways => congrArg Host.Outcome.next ((if_pos h).trans ((if_pos hl).trans ?_)),
      fun h hl hways => congrArg Host.Outcome.next ((if_pos h).trans ((if_pos hl).trans ?_))⟩
    · exact (l2LockEffect_stores hw (.inr (by rw [hw]; exact h))).trans (storeWr_half rfl rfl rfl)
    · exact if_neg (by rw [hl]; simp)
    · exact (l2LockEffect_stores hw (.inl hways)).trans (storeWr_half rfl rfl rfl)
    · exact (l2LockEffect_refused hw hways (by rw [hw]; exact h)).trans (refuseWr_half rfl)

end Sys2Proof.Machine
end

section
/-! Clears of regions and of waking units (R198, R201, R202, R204). -/

namespace Sys2Proof.Machine

open Sys2Proof

/-! ### Bytes that are zeroed -/

theorem tblGet_filter_gone {α : Type} {d : α} {t : Tbl α} {p : Nat → Bool} {j : Nat} (h : p j = false) :
    tblGet d (t.filter fun e => p e.1) j = d := by
  refine tblGet_absent fun x hx => ?_
  rintro rfl
  have := (List.mem_filter.mp hx).2
  rw [h] at this
  cases this

theorem tblGet_filter_kept {α : Type} {d : α} {t : Tbl α} {p : Nat → Bool} {j : Nat} (h : p j = true) :
    tblGet d (t.filter fun e => p e.1) j = tblGet d t j := by
  induction t with
  | nil => rfl
  | cons e t ih =>
    obtain ⟨k, v⟩ := e
    by_cases hk : p k = true
    · simp only [List.filter_cons, hk, if_true, tblGet, ih]
    · have hne : j ≠ k := by rintro rfl; exact hk h
      simp only [List.filter_cons, if_neg hk, tblGet, if_neg hne, ih]

theorem cellGet_zeroCells_in {base n a : Nat} (s : State) (h1 : base ≤ a) (h2 : a < base + n) : cellGet a (zeroCells base n s) = 0 :=
  tblGet_filter_gone (p := fun k => !(decide (base ≤ k) && decide (k < base + n))) (by simp [h1, h2])

theorem cellGet_zeroCells_out {base n a : Nat} (s : State) (h : a < base ∨ base + n ≤ a) : cellGet a (zeroCells base n s) = cellGet a s :=
  tblGet_filter_kept (p := fun k => !(decide (base ≤ k) && decide (k < base + n))) (by simp; omega)

/-! ### CLEAR of a region -/

/-- The row of SPM_RGN_CMD. -/
def regionCmdRow : RegDef := regRow 0x0018 1 0x0 0x1 0x0 0x1 0x0 false false

theorem regAt_regionCmd (c : Fin 8) : regAt (.spm c) 0x18 = some (regionCmdRow, 0) := rfl

/-- The region that a value of SPM_RGN_SEL selects. -/
def selectedKey (c sel : Nat) : Option Nat :=
  if sel / 256 % 2 = 1 then if sel / 32 % 8 = 0 then some (2048 + c * 32 + sel % 32) else none else some (c * 256 + sel % 256)

theorem regionSelected_key (c : Fin 8) (s : State) :
    (regionSelected s c.val).map (regionKey c.val) = selectedKey c.val (s.raw 0 (clusterBase c + 0x20010)).toNat := by
  have hoff : 0x120010 + (c.val / 4) * 0x400000 + (c.val % 4) * 0x80000 = clusterBase c + 0x20010 := by simp only [clusterBase]; omega
  unfold regionSelected selectedKey
  rw [hoff]
  generalize (s.raw 0 (clusterBase c + 0x20010)).toNat = sel
  simp only [bit, bits, decide_eq_true_eq, Nat.reduceAdd, Nat.reduceSub, Nat.reducePow, Nat.div_one]
  split
  · split
    · have : ¬ 256 + sel % 32 < 256 := by omega
      simp only [Option.map_some, regionKey, if_neg this, Nat.add_sub_cancel_left]
    · rfl
  · have : sel % 256 < 256 := by omega
    simp only [Option.map_some, regionKey, if_pos this]

/-- What CLEAR does, by the region that is selected. -/
def clearStart (u : State) : Option Nat → State
  | none => u
  | some k => if k ∈ u.mem.clearing then u else { u with mem := { u.mem with clearing := u.mem.clearing ++ [k] } }

theorem regionClearEffect_go {c : Fin 8} {w : RegWr} {u : State} (h : bit w.new.toNat 0 = true) :
    regionClearEffect c.val w u = clearStart u (selectedKey c.val (u.raw 0 (clusterBase c + 0x20010)).toNat) := by
  unfold regionClearEffect
  rw [if_neg (by rw [h]; simp), ← regionSelected_key]
  cases regionSelected u c.val with
  | none => rfl
  | some r =>
    show (if u.mem.clearing.contains (regionKey c.val r) = true then u else _) = _
    exact if_congr List.contains_iff_mem rfl rfl

theorem exec_regionClear {c : Fin 8} {v : Word} {s : State} (hq : quiet s 0) (hon : s.power c.val = .on)
    (hold : bit (s.raw 0 (clusterBase c + 0x20018)).toNat 0 = false) :
    exec (.regionClear 0 c v) s = .next (
      if unlocked s (.spm c) 0 = true then
        clearStart (setUnlock (.spm c) 0 0 s) (selectedKey c.val (s.raw 0 (clusterBase c + 0x20010)).toNat)
      else setDenied (.spm c) 0 1 s) := by
  have h := regWrite4_prim (v ||| 1) hq (blockAt_spm c (rel := 0x18) (by decide) rfl) (regAt_regionCmd c) (by decide) (by simp)
    (by simp [blockOff, hon])
  have hbit : bit (newValue regionCmdRow .primary (s.raw 0 (clusterBase c + 0x20018)) (v ||| 1)).toNat 0 = true := by
    rw [bit, ← Nat.testBit_eq_decide_div_mod_eq]
    show (newValue regionCmdRow .primary _ _).getLsbD 0 = true
    simp [newValue, regionCmdRow, regRow]
  have htouch : (newValue regionCmdRow .primary (s.raw 0 (clusterBase c + 0x20018)) (v ||| 1) &&& regionCmdRow.rwk) ≠
      (s.raw 0 (clusterBase c + 0x20018) &&& regionCmdRow.rwk) := by
    intro he
    have h0 := congrArg (fun x : Word => x.getLsbD 0) he
    rw [bit, ← Nat.testBit_eq_decide_div_mod_eq] at hold hbit
    change (newValue _ _ _ _).getLsbD 0 = true at hbit
    change (s.raw 0 (clusterBase c + 0x20018)).getLsbD 0 = false at hold
    change ((newValue _ _ _ _) &&& regionCmdRow.rwk).getLsbD 0 = (s.raw 0 (clusterBase c + 0x20018) &&& regionCmdRow.rwk).getLsbD 0 at h0
    rw [BitVec.getLsbD_and, BitVec.getLsbD_and, hbit, hold] at h0
    exact absurd h0 (by decide)
  refine congrArg Host.Outcome.next (h.trans ((if_pos htouch).trans (if_congr Iff.rfl ?_ rfl)))
  exact regionClearEffect_go hbit

/-! ### Waking units -/

/-- The state of a region that has been cleared, before what waited for it goes on. -/
def clearedRegion (k : Nat) (s : State) : State :=
  clearRegion k (s.onMem fun m => { m with clearing := m.clearing.filter (· ≠ k) })

theorem unitRelease_other {u : PowerUnit} {s : State} (r : ClearResult) (h : s.power (unitKey u) ≠ .clearing) : unitReleaseDo u r s = s := if_pos h

theorem unitRelease_core {n : Fin 64} {s : State} (h : s.power (8 + n.val) = .clearing) :
    unitReleaseDo (.core n) .pass s = (wakeClear (.core n) s).setPower (8 + n.val) .on := if_neg (not_not.mpr h)

theorem unitRelease_die {d : Fin 2} {s : State} (h : s.power (72 + d.val) = .clearing) :
    unitReleaseDo (.die d) .pass s = (wakeClear (.die d) s).setPower (72 + d.val) .on := if_neg (not_not.mpr h)

section
variable {c : Fin 8} {s : State} (h : s.power c.val = .clearing)
include h

theorem unitRelease_cluster (hcores : ∀ i : Fin 8, s.power (8 + 8 * c.val + i.val) = .on) :
    unitReleaseDo (.cluster c) .pass s =
      ((wakeClear (.cluster c) s).setPower c.val .on).onUnit fun x => { x with clearFail := tblSet 0 x.clearFail c.val 0 } := by
  refine (if_neg (not_not.mpr h)).trans (if_pos ?_)
  exact List.all_eq_true.mpr fun i hi => decide_eq_true (hcores ⟨i, List.mem_range.mp hi⟩)

theorem unitRelease_cluster_waits (hcore : ∃ i : Fin 8, s.power (8 + 8 * c.val + i.val) ≠ .on) : unitReleaseDo (.cluster c) .pass s = s := by
  obtain ⟨i, hi⟩ := hcore
  refine (if_neg (not_not.mpr h)).trans (if_neg fun hall => hi ?_)
  exact of_decide_eq_true (List.all_eq_true.mp hall i.val (List.mem_range.mpr i.isLt))

end

theorem unitRelease_failed {u : PowerUnit} {c : Nat} {r : ClearResult} {s : State} (h : s.power (unitKey u) = .clearing) (hr : r ≠ .pass)
    (hc : unitCluster u = some c) : unitReleaseDo u r s = clearFailed c r (s.setPower (unitKey u) .failed) := by
  refine (if_neg (not_not.mpr h)).trans ?_
  cases r with
  | pass => exact absurd rfl hr
  | _ => simp only [hc]

theorem unitRelease_dieFailed {d : Fin 2} {r : ClearResult} {s : State} (h : s.power (72 + d.val) = .clearing) (hr : r ≠ .pass) :
    unitReleaseDo (.die d) r s = dieClearFailed d.val (s.setPower (72 + d.val) .failed) := by
  have hd : 72 + d.val - 72 = d.val := Nat.add_sub_cancel_left ..
  refine (if_neg (not_not.mpr h)).trans ?_
  cases r with
  | pass => exact absurd rfl hr
  | _ => simp only [unitCluster, unitKey, hd]

/-- The owners and clears that a unit's release drops: those of the regions `lo` up to `lo + n`. -/
def dropRegions (lo n : Nat) (s : State) : State :=
  s.onMem fun m => { m with
    owners := m.owners.filter (fun e => !(decide (lo ≤ e.1) && decide (e.1 < lo + n)))
    clearing := m.clearing.filter (fun k => !(decide (lo ≤ k) && decide (k < lo + n))) }

/-- The zeros that a release writes, but under CLEAR_SKIP. -/
def zeroUnless (base n : Nat) (s : State) : State := if clearSkip s then s else zeroCells base n s

theorem zeroUnless_eq (base n : Nat) (s : State) :
    zeroUnless base n s = { s with mem := { s.mem with cells := (zeroUnless base n s).mem.cells } } := by
  unfold zeroUnless
  split <;> rfl

theorem zeroUnless_skip {base n : Nat} {s : State} (h : clearSkip s = true) : (zeroUnless base n s).mem.cells = s.mem.cells := by
  rw [zeroUnless, if_pos h]

theorem zeroUnless_zero {base n a : Nat} {s : State} (h : clearSkip s = false) (h1 : base ≤ a) (h2 : a < base + n) :
    cellGet a (zeroUnless base n s) = 0 := by
  rw [zeroUnless, if_neg (by rw [h]; simp)]
  exact cellGet_zeroCells_in s h1 h2

theorem wakeClear_core (k : Fin 64) (s : State) : wakeClear (.core k) s =
    dropRegions (2048 + k.val * 4) 4 ((zeroUnless (0x8100000000 + k.val * 0x40000) 0x40000 s).onShd fun x =>
      { x with l1 := x.l1.filter fun l => l.core ≠ k.val }) := rfl

theorem wakeClear_cluster (c : Fin 8) (s : State) :
    wakeClear (.cluster c) s = dropRegions (c.val * 256) 256 (zeroUnless (0x8000000000 + c.val * 0x1000000) 0x1000000 s) := rfl

/-- A failed clear that shows `v`. -/
def clearShows (c v : Nat) (s : State) : State :=
  logError 0x20 (0x88 + c / 4) 0 (c + (if v = 256 then 2 ^ 15 else (v - 1) * 256)) 0 false
    ((clusterMasters c).foldl (fun u m => pinMaster m 5 0 0 0 u) (s.onUnit fun x => { x with clearFail := tblSet 0 x.clearFail c v }))

theorem clearFailed_shows (c : Nat) (b : Fin 128) (s : State) : clearFailed c (.failBank b) s = clearShows c (1 + b.val) s := rfl

theorem clearShows_bank (c : Nat) {b : Nat} (h : b < 128) (s : State) : clearShows c (1 + b) s =
    logError 0x20 (0x88 + c / 4) 0 (c + b * 256) 0 false
      ((clusterMasters c).foldl (fun u m => pinMaster m 5 0 0 0 u) (s.onUnit fun x => { x with clearFail := tblSet 0 x.clearFail c (1 + b) })) := by
  have hv : ¬ 1 + b = 256 := by omega
  unfold clearShows
  rw [if_neg hv, Nat.add_sub_cancel_left]

/-- Settles O37: a region's bytes go with its filter, and a unit's release is read off its clear's result. -/
theorem regionsAndUnitsAreCleared : Obligations.RegionsAndUnitsAreCleared := by
  unfold Obligations.RegionsAndUnitsAreCleared
  refine ⟨fun c s => ⟨fun v hq hon hold => ?_, fun fn v h0 => congrArg Host.Outcome.next ?_, fun r => ?_⟩, fun u s => ?_, fun c b s => ?_⟩
  · intro sel u
    rw [exec_regionClear hq hon hold]
    refine ⟨fun hl => congrArg Host.Outcome.next (if_neg (by rw [hl]; simp)), fun hl => ⟨fun h1 h2 => ?_, fun k hk => ?_⟩⟩
    · have hsel : selectedKey c.val sel = none := (if_pos h1).trans (if_neg h2)
      exact congrArg Host.Outcome.next ((if_pos hl).trans (congrArg (clearStart u) hsel))
    · have hsel : selectedKey c.val sel = some k := by
        rcases hk with ⟨h1, rfl⟩ | ⟨h1, h2, rfl⟩
        · exact if_neg (by omega)
        · exact (if_pos h1).trans (if_pos h2)
      exact congrArg Host.Outcome.next ((if_pos hl).trans (congrArg (clearStart u) hsel))
  · exact regWrite4_beyond _ s h0 ((clusterBase_big c).trans (by omega)) (blockAt_spm c (rel := 0x18) (by decide) rfl)
  · intro k base
    refine ⟨fun hk => congrArg Host.Outcome.next (if_neg (by simpa using hk)), fun hk => ⟨clearedRegion k s, ?_, ?_, ?_, rfl⟩⟩
    · exact congrArg Host.Outcome.next (if_pos (by simpa using hk))
    · exact fun a h1 h2 => cellGet_zeroCells_in _ h1 h2
    · exact fun hm => ⟨(clearRegion_keeps (Keeps.refl _)).mem hm, fun a ha => cellGet_zeroCells_out _ ha⟩
  · intro k
    refine ⟨fun h1 h2 h3 => congrArg Host.Outcome.next (if_pos ⟨h1, h2, by rw [h3]; rfl⟩), fun h => congrArg Host.Outcome.next (if_neg ?_),
      fun r h => congrArg Host.Outcome.next (unitRelease_other r h), ?_, ?_, ?_, ?_⟩
    · rintro ⟨h1, h2, h3⟩
      rcases h with h | ⟨h, h'⟩ | h
      · exact h h1
      · rcases h2 with h2 | h2
        · rw [h] at h2; cases h2
        · exact h' h2
      · rw [h] at h3; cases h3
    · rintro n rfl hk
      refine ⟨_, congrArg Host.Outcome.next (unitRelease_core hk), ?_⟩
      rw [wakeClear_core]
      refine ⟨zeroUnless_skip, fun h a h1 h2 => zeroUnless_zero h h1 (h2.trans_eq (by ring)), ?_, ?_, ?_⟩
      all_goals rw [zeroUnless_eq]; rfl
    · rintro c rfl hk
      refine ⟨fun hc => congrArg Host.Outcome.next (unitRelease_cluster_waits hk hc), fun hc => ⟨_, congrArg Host.Outcome.next (unitRelease_cluster hk hc), ?_⟩⟩
      rw [wakeClear_cluster]
      refine ⟨zeroUnless_skip, fun h a h1 h2 => zeroUnless_zero h h1 (h2.trans_eq (by ring)), ?_, ?_, ?_⟩
      all_goals rw [zeroUnless_eq]; rfl
    · rintro d rfl hk
      refine ⟨⟨_, congrArg Host.Outcome.next (unitRelease_die hk), ?_⟩, fun r hr => congrArg Host.Outcome.next (unitRelease_dieFailed hk hr)⟩
      exact ⟨rfl, rfl⟩
    · exact fun c r hc hk hr => congrArg Host.Outcome.next (unitRelease_failed hk hr hc)
  · intro pins shows
    refine ⟨?_, rfl, fun d => rfl⟩
    exact (clearFailed_shows c.val b s).trans (clearShows_bank c.val b.isLt s)

end Sys2Proof.Machine
end

section
/-! L2 operations, fills and write-combining buffers (R210, R211, R214). -/

namespace Sys2Proof.Machine

open Sys2Proof

/-! ### A table in canonical form is kept by writing what it holds -/

theorem tblPut_least {α : Type} {k : Nat} {v : α} {t : Tbl α} (h : ∀ x ∈ t, k < x.1) : tblPut k v t = (k, v) :: t := by
  cases t with
  | nil => rfl
  | cons e t => exact if_pos (h e (by simp))

theorem tblSet_tblGet {α : Type} [DecidableEq α] {d : α} {t : Tbl α} (h : tblWf d t = true) (k : Nat) : tblSet d t k (tblGet d t k) = t := by
  induction t with
  | nil => simp [tblSet, tblGet]
  | cons e t ih =>
    obtain ⟨j, v⟩ := e
    obtain ⟨hv, hwf, hlt⟩ := (tblWf_cons d (j, v) t).mp h
    by_cases hk : k = j
    · subst hk
      have hrest : t.filter (fun e => e.1 ≠ k) = t := List.filter_eq_self.mpr fun x hx => by simpa using (hlt x hx).ne'
      simp only [tblSet, tblGet, List.filter_cons, ne_eq, not_true, decide_false, Bool.false_eq_true, if_false, if_true] at hrest ⊢
      rw [hrest, if_neg hv, tblPut_least hlt]
    · have hjk : j ≠ k := Ne.symm hk
      have hget : tblGet d ((j, v) :: t) k = tblGet d t k := if_neg hk
      have hih := ih hwf
      rw [hget]
      simp only [tblSet, List.filter_cons, ne_eq, hjk, not_false_iff, decide_true, if_true] at hih ⊢
      split at hih
      · rw [if_pos ‹_›, hih]
      · rename_i hd
        rw [if_neg hd]
        have hkj : ¬ k < j := by
          intro hlt'
          have hall : ∀ x ∈ t, x.1 ≠ k := fun x hx => (hlt'.trans (hlt x hx)).ne'
          exact hd (tblGet_absent hall)
        rw [tblPut, if_neg hkj, hih]

theorem setL2_l2 {s : State} (hm : memInv s) (d : Nat) : s.setL2 d (s.l2 d) = s := by
  have h : tblSet L2.empty s.mem.l2 d (tblGet L2.empty s.mem.l2 d) = s.mem.l2 := tblSet_tblGet hm.2 d
  show ({ s with mem := { s.mem with l2 := tblSet L2.empty s.mem.l2 d (tblGet L2.empty s.mem.l2 d) } } : State) = s
  rw [h]

/-! ### L2_OP_CTL -/

/-- The row of L2_OP_CTL. -/
def l2OpRow : RegDef := regRow 0x001C 1 0x7FF 0x40000000 0x0 0x40000000 0x0 false false

theorem regAt_l2Op (d : Fin 2) : regAt (.l2 d) 0x1C = some (l2OpRow, 0) := rfl

/-- The value that a write of L2_OP_CTL with an operation leaves, GO among its bits. -/
def l2OpNew (old v op : Word) : Word :=
  (old &&& ~~~(0x7FF ||| 0x40000000)) ||| ((((v &&& 0xFFFFFFFC) ||| op) ||| 0x40000000) &&& (0x7FF ||| 0x40000000))

theorem l2OpNew_go (old v op : Word) : bit (l2OpNew old v op).toNat 30 = true := by
  rw [bit, ← Nat.testBit_eq_decide_div_mod_eq]
  show (l2OpNew old v op).getLsbD 30 = true
  simp [l2OpNew]

section
variable {op : Nat} (hop : op = 1 ∨ op = 2 ∨ op = 3)
include hop

theorem l2OpNew_fields (old v : Word) :
    l2OpNew old v (w32 op) &&& ~~~0x40000000 = (old &&& 0xBFFFF800) ||| (v &&& 0x7FC) ||| w32 op := by
  have h := fields_of_command (m := 0x7FF) (go := 0x40000000) old ((v &&& 0xFFFFFFFC) ||| w32 op) (by decide)
  have hop' : w32 op &&& 0x7FF = w32 op := by rcases hop with rfl | rfl | rfl <;> decide
  have hval : ((v &&& 0xFFFFFFFC) ||| w32 op) &&& 0x7FF = (v &&& 0x7FC) ||| w32 op := by
    rw [BitVec.and_comm, BitVec.and_or_distrib_left, BitVec.and_comm, BitVec.and_assoc, BitVec.and_comm 0x7FF, hop']
    rfl
  rw [hval] at h
  exact h.trans (BitVec.or_assoc _ _ _).symm

theorem l2OpNew_op (old v : Word) : bits (l2OpNew old v (w32 op)).toNat 1 0 = op := by
  have h : l2OpNew old v (w32 op) &&& 3 = w32 op := by
    rcases hop with rfl | rfl | rfl <;> (ext i hi; interval_cases i <;> simp [l2OpNew, w32])
  have hmod : (l2OpNew old v (w32 op) &&& 3).toNat = (l2OpNew old v (w32 op)).toNat % 4 := by
    rw [BitVec.toNat_and]
    exact Nat.and_two_pow_sub_one_eq_mod _ 2
  have hn : (w32 op).toNat = op := by rcases hop with rfl | rfl | rfl <;> rfl
  rw [h, hn] at hmod
  simp only [bits, Nat.reduceAdd, Nat.reduceSub, Nat.reducePow, Nat.div_one, pow_zero]
  exact hmod.symm

theorem l2OpNew_key (old v : Word) : bits (l2OpNew old v (w32 op)).toNat 10 2 = v.toNat / 4 % 512 := by
  simp only [bits, Nat.reduceAdd, Nat.reduceSub, Nat.reducePow]
  refine Nat.eq_of_testBit_eq fun i => ?_
  rw [show (512 : Nat) = 2 ^ 9 from rfl, show (4 : Nat) = 2 ^ 2 from rfl, Nat.testBit_mod_two_pow, Nat.testBit_mod_two_pow,
    Nat.testBit_div_two_pow, Nat.testBit_div_two_pow]
  by_cases hi : i < 9
  · have hbit : (l2OpNew old v (w32 op)).getLsbD (i + 2) = v.getLsbD (i + 2) := by
      rcases hop with rfl | rfl | rfl <;> (interval_cases i <;> simp [l2OpNew, w32])
    exact congrArg (decide (i < 9) && ·) hbit
  · simp [hi]

end

/-- What a GO does once its fields are stored. -/
def l2OpGo (d op key : Nat) (u : State) : State :=
  let x := u.l2 d
  let line := ((u.raw 0 (l2Off d + 0x10)).toNat + 2 ^ 32 * (u.raw 0 (l2Off d + 0x14)).toNat) / 128
  let len := (u.raw 0 (l2Off d + 0x18)).toNat % 2 ^ 28
  if x.op ≠ none then u
  else if len = 0 then u.setL2 d { x with skipped := 0 }
  else u.setL2 d { x with skipped := 0, op := some { op, line, len, key } }

theorem l2OpEffect_go {d op : Nat} {w : RegWr} {s : State} (hgo : bit w.new.toNat 30 = true) (hop : bits w.new.toNat 1 0 = op) (h0 : op ≠ 0) :
    l2OpEffect d w s = l2OpGo d op (bits w.new.toNat 10 2) (storeWr w 0x40000000 s) := by
  subst hop
  unfold l2OpEffect l2OpGo
  cases hx : ((storeWr w 0x40000000 s).l2 d).op with
  | none => simp only [hgo, hx, h0, Bool.not_true, Bool.false_eq_true, Option.isSome_none, or_self, if_false, ne_eq, not_true]; rfl
  | some o => simp only [hgo, hx, Option.isSome_some, or_true, true_or, if_true, ne_eq, reduceCtorEq, not_false_iff]

section
variable {d : Fin 2} {op off : Nat} {s : State} (v : Word) (hop : op = 1 ∨ op = 2 ∨ op = 3)
include hop

theorem storeWr_l2Op (u : State) :
    storeWr (winWrite 0 .primary off l2OpRow ((v &&& 0xFFFFFFFC) ||| w32 op ||| 0x40000000) s) 0x40000000 u =
      u.setRaw 0 off ((s.raw 0 off &&& 0xBFFFF800) ||| (v &&& 0x7FC) ||| w32 op) := by
  have hw1c (x y : Word) : x &&& ~~~(y &&& 0#32) = x := by rw [BitVec.and_zero]; exact and_full x
  rw [← l2OpNew_fields hop (s.raw 0 off) v]
  exact congrArg (fun x => u.setRaw 0 off x) (hw1c _ _)

omit hop in
theorem l2Op_touches (hold : bit (s.raw 0 off).toNat 30 = false) :
    (l2OpNew (s.raw 0 off) v (w32 op) &&& l2OpRow.rwk) ≠ (s.raw 0 off &&& l2OpRow.rwk) := by
  have hbit := l2OpNew_go (s.raw 0 off) v (w32 op)
  intro he
  have h30 := congrArg (fun x : Word => x.getLsbD 30) he
  rw [bit, ← Nat.testBit_eq_decide_div_mod_eq] at hold hbit
  change (l2OpNew _ _ _).getLsbD 30 = true at hbit
  change (s.raw 0 off).getLsbD 30 = false at hold
  change ((l2OpNew _ _ _) &&& l2OpRow.rwk).getLsbD 30 = (s.raw 0 off &&& l2OpRow.rwk).getLsbD 30 at h30
  rw [BitVec.getLsbD_and, BitVec.getLsbD_and, hbit, hold] at h30
  exact absurd h30 (by decide)

theorem regWrite4_l2Op (hb : blockAt off = some (.l2 d, 0x1C)) (hq : quiet s 0) (hon : s.power (72 + d.val) = .on)
    (hold : bit (s.raw 0 off).toNat 30 = false) :
    regWrite4 0 off ((v &&& 0xFFFFFFFC) ||| w32 op ||| 0x40000000) s =
      if unlocked s (.l2 d) 0 = true then
        l2OpGo d.val op (v.toNat / 4 % 512) ((setUnlock (.l2 d) 0 0 s).setRaw 0 off
          ((s.raw 0 off &&& 0xBFFFF800) ||| (v &&& 0x7FC) ||| w32 op))
      else setDenied (.l2 d) 0 1 s := by
  have h := regWrite4_prim ((v &&& 0xFFFFFFFC) ||| w32 op ||| 0x40000000) hq hb (regAt_l2Op d)
    (by decide) (by simp) (by simp [blockOff, hon])
  rw [h]
  refine (if_pos (l2Op_touches v hold)).trans (if_congr Iff.rfl ?_ rfl)
  have heff := l2OpEffect_go (d := d.val) (s := setUnlock (.l2 d) 0 0 s)
    (w := winWrite 0 .primary off l2OpRow ((v &&& 0xFFFFFFFC) ||| w32 op ||| 0x40000000) s)
    (l2OpNew_go _ _ _) (l2OpNew_op hop _ v) (by rcases hop with rfl | rfl | rfl <;> decide)
  rw [storeWr_l2Op v hop] at heff
  exact heff.trans (congrArg (fun k => l2OpGo d.val op k _) (l2OpNew_key hop _ v))

end

/-! ### LOCK_LOAD -/

section
variable {d key line : Nat} {s : State}

theorem lockLoad_not (h : ¬ ((∃ ch a, target s (line * 128) = .pkg ch a) ∧ lineDie s line = d ∧ (s.ctx key).state = .active)) :
    lockLoad d key line s = l2Skip d s := by
  unfold lockLoad
  refine if_pos ?_
  by_contra hn
  simp only [not_or, not_not] at hn
  obtain ⟨hp, hd, hc⟩ := hn
  refine h ⟨?_, hd, hc⟩
  cases ht : target s (line * 128) with
  | pkg ch a => exact ⟨ch, a, rfl⟩
  | _ => rw [ht] at hp; exact absurd rfl hp

/-- What LOCK_LOAD does with a line that no miss is to bring. -/
def lockPlace (d key line : Nat) (s : State) : Option L2Line → State
  | some l =>
    if lockedWay s d l.way then s
    else match (upTo 16).find? fun w => lockedWay s d w && !wayHeld (s.l2 d) line w with
      | some w =>
        s.setL2 d { s.l2 d with lines := mapIf (fun y => decide (y.line = line) && decide (y.key = key)) (fun y => { y with way := w }) (s.l2 d).lines }
      | none => l2Skip d s
  | none => lockNew d key line (l2OtherKey d line key s)
where
  /-- A line that is in no way takes a free locked one. -/
  lockNew (d key line : Nat) (s : State) : State :=
    match (upTo 16).find? fun w => lockedWay s d w && !wayHeld (s.l2 d) line w with
    | some w =>
      let u := wcFlushIf d (fun b => b.line = line) s
      u.setL2 d { u.l2 d with lines := (u.l2 d).lines ++ [{ line, way := w, key, fbc := false, dirty := false, data := (lineBelow key line false u).1 }] }
    | none => l2Skip d s

theorem lockLoad_may (h : (∃ ch a, target s (line * 128) = .pkg ch a) ∧ lineDie s line = d ∧ (s.ctx key).state = .active)
    (hm : ∀ m ∈ (s.l2 d).misses, m.line ≠ line) :
    lockLoad d key line s = lockPlace d key line s ((s.l2 d).lines.find? fun l => decide (l.line = line) && decide (l.key = key)) := by
  obtain ⟨⟨ch, a, ht⟩, hd, hc⟩ := h
  have hnone : (s.l2 d).misses.filter (fun m => m.line = line) = [] := List.filter_eq_nil_iff.mpr (by simpa using hm)
  unfold lockLoad
  rw [ht]
  simp only [Bool.not_true, Bool.false_eq_true, hd, hc, ne_eq, not_true, or_self, if_false, hnone, List.foldl_nil]
  cases (s.l2 d).lines.find? fun l => decide (l.line = line) && decide (l.key = key) <;> rfl

theorem l2OtherKey_none (hm : memInv s) (hmiss : ∀ m ∈ (s.l2 d).misses, m.line ≠ line) (hlines : ∀ l ∈ (s.l2 d).lines, l.line ≠ line) :
    l2OtherKey d line key s = s := by
  have h1 : (s.l2 d).misses.filter (fun m => decide (m.line = line) && decide (m.key ≠ key)) = [] :=
    List.filter_eq_nil_iff.mpr fun m hx => by simp [hmiss m hx]
  have h2 : ((s.l2 d).lines.filter fun l => (decide (l.line = line) && decide (l.key ≠ key)) && l.dirty) = [] :=
    List.filter_eq_nil_iff.mpr fun m hx => by simp [hlines m hx]
  have h3 : ((s.l2 d).lines.filter fun l => !(decide (l.line = line) && decide (l.key ≠ key))) = (s.l2 d).lines :=
    List.filter_eq_self.mpr fun m hx => by simp [hlines m hx]
  unfold l2OtherKey l2FillIf l2Drop
  simp only [h1, h2, h3, List.foldl_nil]
  exact setL2_l2 hm d

theorem wcFlushIf_none {p : WcBuf → Bool} (h : ∀ w ∈ (s.l2 d).wc, p w = false) : wcFlushIf d p s = s := by
  have hnil : (s.l2 d).wc.filter p = [] := List.filter_eq_nil_iff.mpr fun w hw => by simp [h w hw]
  rw [wcFlushIf, hnil, List.foldl_nil]

end

/-! ### The ends of operations and misses -/

/-- How a range operation of a die ends. -/
def l2OpEnd (d : Nat) (s : State) : Option L2Op → State
  | none => s
  | some o => metaLog ((l2OpRun d o s).setL2 d { (l2OpRun d o s).l2 d with op := none })
where
  /-- What an operation does with the lines of its range. -/
  l2OpRun (d : Nat) (o : L2Op) (s : State) : State :=
    if o.op = 1 then l2Clean d o.line o.len false s
    else if o.op = 2 then l2Clean d o.line o.len true s
    else (upTo o.len).foldl (fun s i => lockLoad d o.key (o.line + i) s) s

theorem l2OpDoneDo_eq (d : Nat) (io : HostIO) (s : State) : l2OpDoneDo d io s = l2OpEnd d (applyIO io s) ((applyIO io s).l2 d).op := by
  unfold l2OpDoneDo
  dsimp only
  generalize applyIO io s = u
  cases (u.l2 d).op with
  | none => rfl
  | some o =>
    obtain ⟨op, line, len, key⟩ := o
    obtain _ | _ | _ | op := op <;> rfl

/-- How a miss of a die ends whose line arrives. -/
def l2FillEnd (d : Nat) (s : State) : Option L2Miss → State
  | none => s
  | some m =>
    if 2 ^ 48 ≤ m.line * 128 ∧ hostFails s (m.line * 128 % 2 ^ 48) 128 = true then
      failed m (s.setL2 d { s.l2 d with misses := (s.l2 d).misses.filter fun y => y.id ≠ m.id })
    else if m.fbc = true ∧ m.line * 128 < 2 ^ 48 then
      withPartner m (if m.line % 2 = 0 then m.line + 1 else m.line - 1) (metaLog (l2Fill d m s))
    else l2Fill d m s
where
  /-- A line whose host read failed is kept for write-back bytes only. -/
  failed (m : L2Miss) (u : State) : State :=
    if m.dirty = false then u
    else l2Place d m.line m.way m.key m.fbc true (overlay (freeBytes 128 u).1 m.merged) (freeBytes 128 u).2
  /-- A framebuffer line brings the other line of its block. -/
  withPartner (m : L2Miss) (partner : Nat) (u : State) : State :=
    if (u.l2 d).lines.any (fun l => l.line = partner) = true ∨ (u.l2 d).misses.any (fun y => y.line = partner) = true then u
    else l2Insert d partner m.key true false (lineBelow m.key partner true u).1 u

theorem l2LineFillDo_eq (d miss : Nat) (io : HostIO) (s : State) :
    l2LineFillDo d miss io s = l2FillEnd d (applyIO io s) (((applyIO io s).l2 d).misses.find? fun m => m.id = miss) := by
  unfold l2LineFillDo
  dsimp only
  generalize applyIO io s = u
  cases hm : (u.l2 d).misses.find? fun m => m.id = miss with
  | none => rfl
  | some m =>
    obtain rfl : m.id = miss := by simpa using List.find?_some hm
    dsimp only [l2FillEnd]
    refine if_congr Iff.rfl ?_ (if_congr Iff.rfl rfl rfl)
    exact if_congr (by simp) rfl rfl

/-- Settles O38: the GO lands by `exec_l2Go`, and the ends unfold by what the line and its miss are. -/
theorem l2OperationsAndLines : Obligations.L2OperationsAndLines := by
  unfold Obligations.L2OperationsAndLines
  refine ⟨fun fn d v s hq h0 => ?_, fun d op v s cmd hq hon hcmd => ?_, fun d io s0 => ?_, fun d key line s => ?_, fun d miss io s0 => ?_,
    fun d m s => ?_, fun d slice t s0 => rfl⟩
  · have hgo (x : Word) : regWrite4 fn.val (dieBase d + 0x1C) x s = s :=
      regWrite4_beyond x s h0 ((dieBase_big d).trans (by omega)) (blockAt_l2 d (rel := 0x1C) (by decide) rfl)
    exact ⟨congrArg Host.Outcome.next (hgo _), congrArg Host.Outcome.next (hgo _), congrArg Host.Outcome.next (hgo _)⟩
  · intro off old x hold
    have hop : op = 1 ∨ op = 2 ∨ op = 3 := hcmd.imp And.left (Or.imp And.left And.left)
    have hexec : exec cmd s = .next (l2Go 0 d (w32 op) v s) := by
      rcases hcmd with ⟨rfl, rfl⟩ | ⟨rfl, rfl⟩ | ⟨rfl, rfl⟩ <;> rfl
    have hgo := regWrite4_l2Op v hop (blockAt_l2 d (rel := 0x1C) (by decide) rfl) hq hon hold
    rw [hexec, show l2Go 0 d (w32 op) v s = _ from hgo]
    refine ⟨fun hl => congrArg Host.Outcome.next (if_neg (by rw [hl]; simp)), fun hl => ?_⟩
    intro u line len
    rw [if_pos hl]
    refine ⟨fun h => congrArg Host.Outcome.next (if_pos h), fun h hlen => congrArg Host.Outcome.next ?_, fun h hlen => congrArg Host.Outcome.next ?_⟩
    · exact (if_neg (not_not.mpr h)).trans (if_pos hlen)
    · exact (if_neg (not_not.mpr h)).trans (if_neg hlen)
  · intro s
    rw [show exec (.l2OpDone d io) s0 = .next (l2OpDoneDo d.val io s0) from rfl]
    have h := l2OpDoneDo_eq d.val io s0
    change _ = l2OpEnd d.val s (s.l2 d.val).op at h
    clear_value s
    have ended {x : Option L2Op} (hx : (s.l2 d.val).op = x) : l2OpDoneDo d.val io s0 = l2OpEnd d.val s x := h.trans (congrArg _ hx)
    refine ⟨fun h => congrArg Host.Outcome.next (ended h), fun o ho => ?_⟩
    intro ends hit f u
    refine ⟨fun h => ?_, fun h => ?_, fun h => ?_⟩
    · have hrun : l2OpEnd.l2OpRun d.val o s = l2Clean d.val o.line o.len false s := if_pos h
      exact congrArg Host.Outcome.next ((ended ho).trans (by rw [l2OpEnd, hrun]; rfl))
    · have hrun : l2OpEnd.l2OpRun d.val o s = l2Clean d.val o.line o.len true s := (if_neg (by omega)).trans (if_pos h)
      exact congrArg Host.Outcome.next ((ended ho).trans (by rw [l2OpEnd, hrun]; rfl))
    · have hrun : l2OpEnd.l2OpRun d.val o s = (upTo o.len).foldl (fun s i => lockLoad d.val o.key (o.line + i) s) s :=
        (if_neg (by omega)).trans (if_neg (by omega))
      exact congrArg Host.Outcome.next ((ended ho).trans (by rw [l2OpEnd, hrun]))
  · intro x may
    refine ⟨fun h => lockLoad_not h, fun h hmiss => ⟨fun l hl hway => ?_, fun hm hlines hwc => ?_⟩⟩
    · rw [lockLoad_may h hmiss, hl]
      exact if_pos hway
    · have hnone : x.lines.find? (fun l => decide (l.line = line) && decide (l.key = key)) = none :=
        List.find?_eq_none.mpr fun l hl => by simp [hlines l hl]
      rw [lockLoad_may h hmiss, hnone]
      have hnew : lockPlace d.val key line s none = lockPlace.lockNew d.val key line s :=
        congrArg (lockPlace.lockNew d.val key line) (l2OtherKey_none hm hmiss hlines)
      rw [hnew]
      refine ⟨fun way hway => ?_, fun hway => ?_⟩
      · have hflush : wcFlushIf d.val (fun b => b.line = line) s = s := wcFlushIf_none fun w hw => by simp [hwc w hw]
        simp only [lockPlace.lockNew, show (upTo 16).find? (fun w => lockedWay s d.val w && !wayHeld (s.l2 d.val) line w) = some way from hway, hflush]
        rfl
      · simp only [lockPlace.lockNew, show (upTo 16).find? (fun w => lockedWay s d.val w && !wayHeld (s.l2 d.val) line w) = none from hway]
        rfl
  · intro s
    rw [show exec (.l2LineFill d miss io) s0 = .next (l2LineFillDo d.val miss io s0) from rfl]
    have h := l2LineFillDo_eq d.val miss io s0
    change _ = l2FillEnd d.val s ((s.l2 d.val).misses.find? fun m => m.id = miss) at h
    clear_value s
    intro x ends
    have ended {y : Option L2Miss} (hy : x.misses.find? (fun m => m.id = miss) = y) : l2LineFillDo d.val miss io s0 = l2FillEnd d.val s y :=
      h.trans (congrArg _ hy)
    refine ⟨fun hy => congrArg Host.Outcome.next (ended hy), fun m hm => ?_⟩
    obtain rfl : m.id = miss := by simpa using List.find?_some hm
    intro fails gone partner
    have hend {u : State} (hu : l2FillEnd d.val s (some m) = u) : ends u := congrArg Host.Outcome.next ((ended hm).trans hu)
    refine ⟨fun hf hd => hend ((if_pos hf).trans (if_pos hd)), fun hf hd => hend ((if_pos hf).trans (if_neg (by rw [hd]; simp))),
      fun hf hfb => hend ((if_neg hf).trans (if_neg ?_)), fun hf hfb hpa => ?_⟩
    · rintro ⟨h1, h2⟩
      rcases hfb with hfb | hfb
      · rw [h1] at hfb; cases hfb
      · omega
    · intro u
      have hw : l2FillEnd d.val s (some m) = l2FillEnd.withPartner d.val m partner u := (if_neg hf).trans (if_pos ⟨hfb, hpa⟩)
      refine ⟨fun hp => hend (hw.trans (if_pos ?_)), fun h1 h2 => hend (hw.trans (if_neg ?_))⟩
      · simpa using hp
      · simpa using ⟨h1, h2⟩
  · intro gone u
    rfl

end Sys2Proof.Machine
end

section
/-! Reshard plans: RSH_CTL, the start of a plan, its entries and its ends (R221 to R231). -/

namespace Sys2Proof.Machine

open Sys2Proof

/-! ### RSH_CTL -/

theorem blockAt_rsh (d : Fin 2) {rel off : Nat} (hk : rel < 0x10000) (hoff : dieBase d + 0x10000 + rel = off) :
    blockAt off = some (.rsh d, rel) := by
  subst hoff
  have hbase : blockBase (.rsh d) + rel = dieBase d + 0x10000 + rel := by
    simp only [blockBase, dieBase]
  exact hbase ▸ blockAt_base (.rsh d) hk

theorem rshOff_ctl (d : Fin 2) : dieBase d + 0x10008 = rshOff d.val + 8 := by simp only [dieBase, rshOff]; omega

theorem raw_of_reg {s t : State} (h : s.reg.regs = t.reg.regs) (fn off : Nat) : s.raw fn off = t.raw fn off := by
  unfold State.raw
  rw [h]

theorem rawBase_of_reg {s t : State} (h : s.reg.regs = t.reg.regs) (fn lo hi : Nat) : s.rawBase fn lo hi = t.rawBase fn lo hi := by
  unfold State.rawBase
  rw [raw_of_reg h, raw_of_reg h]

theorem rawBase_rsh (d : Fin 2) {s t : State} (h : t.reg.regs = s.reg.regs) (w : Word) :
    (t.setRaw 0 (dieBase d + 0x10008) w).rawBase 0 (rshOff d.val) (rshOff d.val + 4) =
      (s.raw 0 (dieBase d + 0x10000)).toNat + 2 ^ 32 * (s.raw 0 (dieBase d + 0x10004)).toNat := by
  have h0 : rshOff d.val = dieBase d + 0x10000 := by simp only [dieBase, rshOff]; omega
  rw [State.rawBase, h0, raw_setRaw_ne _ _ (by simp only [regKey]; omega), raw_setRaw_ne _ _ (by simp only [regKey]; omega),
    raw_of_reg h, raw_of_reg h]

theorem blockAt_rshCtl (d : Fin 2) : blockAt (dieBase d + 0x10008) = some (.rsh d, 8) :=
  have h : dieBase d + 0x10000 + 8 = dieBase d + 0x10008 := by rw [Nat.add_assoc]
  blockAt_rsh d (by decide) h

theorem isPinned_of_sec {s t : State} (h : s.sec = t.sec) {m : Nat} : s.isPinned m = t.isPinned m := by
  unfold State.isPinned
  rw [h]

theorem ctx_of_mmu {s t : State} (h : s.mmu = t.mmu) {n : Nat} : s.ctx n = t.ctx n := by
  unfold State.ctx
  rw [h]

theorem rshWritten_sec (d off : Nat) (w : Word) (x : Reshard) {k : BlockId} (s : State) :
    (((setUnlock k 0 0 s).setRaw 0 off w).setPlan d x).sec = s.sec := rfl

theorem rshWritten_mmu (d off : Nat) (w : Word) (x : Reshard) {k : BlockId} (s : State) :
    (((setUnlock k 0 0 s).setRaw 0 off w).setPlan d x).mmu = s.mmu := rfl

/-- The row of RSH_CTL. -/
def rshCtlRow : RegDef := regRow 0x0008 1 0x1FF 0x200 0x0 0x600 0x0 false false

theorem regAt_rshCtl (d : Fin 2) : regAt (.rsh d) 8 = some (rshCtlRow, 0) := rfl

/-- The value that a write of RSH_CTL leaves, its command bits among it. -/
def rshNew (old val : Word) : Word := (old &&& ~~~0x7FF) ||| (val &&& 0x7FF)

/-- The fields that a write of RSH_CTL leaves. -/
def rshFields (old v : Word) : Word := (old &&& 0xFFFFF800) ||| (v &&& 0x1FF)

theorem rshFields_ctx (old v : Word) : (rshFields old v).toNat % 512 = v.toNat % 512 := by
  have hlow (x : Word) : (x &&& 0x1FF).toNat = x.toNat % 512 := by
    rw [BitVec.toNat_and]
    exact Nat.and_two_pow_sub_one_eq_mod x.toNat 9
  rw [← hlow, ← hlow]
  congr 1
  ext i hi
  simp only [rshFields, BitVec.getElem_and, BitVec.getElem_or]
  interval_cases i <;> simp

section
variable {d : Fin 2} {off : Nat} {s : State} (old v : Word)

theorem rshNew_arm_fields : rshNew old ((v &&& 0x1FF) ||| 0x200) &&& ~~~0x600 = rshFields old v := by
  ext i hi
  simp only [rshNew, rshFields, BitVec.getElem_and, BitVec.getElem_or, BitVec.getElem_not]
  interval_cases i <;> simp

theorem rshNew_abort_fields : rshNew old ((v &&& 0x1FF) ||| 0x400) &&& ~~~0x600 = rshFields old v := by
  ext i hi
  simp only [rshNew, rshFields, BitVec.getElem_and, BitVec.getElem_or, BitVec.getElem_not]
  interval_cases i <;> simp

theorem bit_getLsbD (x : Word) (i : Nat) : bit x.toNat i = x.getLsbD i := by
  rw [bit, ← Nat.testBit_eq_decide_div_mod_eq]
  rfl

theorem rshNew_bit {val : Word} {i : Nat} (h : (0x7FF : Word).getLsbD i = true) : bit (rshNew old val).toNat i = bit val.toNat i := by
  have h' : i < 32 := by
    by_contra hi
    rw [BitVec.getLsbD_of_ge _ _ (by omega)] at h
    cases h
  rw [bit_getLsbD, bit_getLsbD, rshNew, BitVec.getLsbD_or, BitVec.getLsbD_and, BitVec.getLsbD_and, BitVec.getLsbD_not, h]
  simp

theorem rsh_touches {val : Word} (hold : bit old.toNat 9 = false) :
    (rshNew old val &&& rshCtlRow.rwk) ≠ (old &&& rshCtlRow.rwk) ↔ bit val.toNat 9 = true := by
  rw [bit_getLsbD] at hold ⊢
  constructor
  · intro h
    by_contra hv
    refine h ?_
    ext i hi
    have hbit := rshNew_bit (i := 9) (val := val) old (by decide)
    rw [bit_getLsbD, bit_getLsbD] at hbit
    simp only [← BitVec.getLsbD_eq_getElem]
    rw [BitVec.getLsbD_and, BitVec.getLsbD_and]
    by_cases h9 : i = 9
    · subst h9
      rw [hbit, hold, Bool.eq_false_iff.mpr hv]
    · have hother : ∀ j : Fin 32, j.val ≠ 9 → rshCtlRow.rwk.getLsbD j.val = false := by decide
      rw [hother ⟨i, hi⟩ h9, Bool.and_false, Bool.and_false]
  · intro hv he
    have hbit := rshNew_bit (i := 9) (val := val) old (by decide)
    rw [bit_getLsbD, bit_getLsbD] at hbit
    have h9 := congrArg (fun x : Word => x.getLsbD 9) he
    simp only [BitVec.getLsbD_and, hbit, hv, hold] at h9
    exact absurd h9 (by decide)

end

section
variable {d : Fin 2} {off : Nat} {s u : State} {v : Word}

theorem storeWr_rsh {val : Word} (hval : rshNew (s.raw 0 off) val &&& ~~~0x600 = rshFields (s.raw 0 off) v) :
    storeWr (winWrite 0 .primary off rshCtlRow val s) 0x600 u = u.setRaw 0 off (rshFields (s.raw 0 off) v) := by
  have hw1c (x y : Word) : x &&& ~~~(y &&& 0#32) = x := by rw [BitVec.and_zero]; exact and_full x
  rw [← hval]
  exact congrArg (fun x => u.setRaw 0 off x) (hw1c _ _)

theorem rshEffect_arm (h9 : bit ((v &&& 0x1FF) ||| 0x200).toNat 9 = true) (h10 : bit ((v &&& 0x1FF) ||| 0x200).toNat 10 = false) :
    rshEffect d.val (winWrite 0 .primary off rshCtlRow ((v &&& 0x1FF) ||| 0x200) s) u =
      armDo d.val (u.setRaw 0 off (rshFields (s.raw 0 off) v)) := by
  have hnew : bit (winWrite 0 .primary off rshCtlRow ((v &&& 0x1FF) ||| 0x200) s).new.toNat 9 = true := by
    exact (rshNew_bit (s.raw 0 off) (by decide)).trans h9
  unfold rshEffect
  dsimp only
  rw [storeWr_rsh (rshNew_arm_fields _ v), if_pos hnew]
  exact if_neg (by rw [show bit (winWrite 0 .primary off rshCtlRow ((v &&& 0x1FF) ||| 0x200) s).val.toNat 10 = false from h10]; simp)

theorem rshEffect_abort (h9 : bit ((v &&& 0x1FF) ||| 0x400).toNat 9 = false) (h10 : bit ((v &&& 0x1FF) ||| 0x400).toNat 10 = true) :
    rshEffect d.val (winWrite 0 .primary off rshCtlRow ((v &&& 0x1FF) ||| 0x400) s) u =
      rshAbortDo d.val (u.setRaw 0 off (rshFields (s.raw 0 off) v)) := by
  have hnew : bit (winWrite 0 .primary off rshCtlRow ((v &&& 0x1FF) ||| 0x400) s).new.toNat 9 = false := by
    exact (rshNew_bit (s.raw 0 off) (by decide)).trans h9
  unfold rshEffect
  dsimp only
  rw [storeWr_rsh (rshNew_abort_fields _ v), hnew]
  exact if_pos h10

end

section
variable {d : Fin 2} {off : Nat} {s : State} {v : Word} (hb : blockAt off = some (.rsh d, 8)) (hq : quiet s 0) (hon : s.power (72 + d.val) = .on)
  (hold : bit (s.raw 0 off).toNat 9 = false)
include hb hq hon hold

theorem regWrite4_arm :
    regWrite4 0 off ((v &&& 0x1FF) ||| 0x200) s =
      if unlocked s (.rsh d) 0 = true then armDo d.val ((setUnlock (.rsh d) 0 0 s).setRaw 0 off (rshFields (s.raw 0 off) v))
      else setDenied (.rsh d) 0 1 s := by
  have h := regWrite4_prim ((v &&& 0x1FF) ||| 0x200) hq hb (regAt_rshCtl d) (by decide) (by simp) (by simp [blockOff, hon])
  have h9 : bit ((v &&& 0x1FF) ||| 0x200).toNat 9 = true := by rw [bit_getLsbD]; simp
  have h10 : bit ((v &&& 0x1FF) ||| 0x200).toNat 10 = false := by rw [bit_getLsbD]; simp
  rw [h]
  refine (if_pos ((rsh_touches _ hold).mpr h9)).trans (if_congr Iff.rfl ?_ rfl)
  exact rshEffect_arm h9 h10

theorem regWrite4_abort :
    regWrite4 0 off ((v &&& 0x1FF) ||| 0x400) s = rshAbortDo d.val (s.setRaw 0 off (rshFields (s.raw 0 off) v)) := by
  have h := regWrite4_prim ((v &&& 0x1FF) ||| 0x400) hq hb (regAt_rshCtl d) (by decide) (by simp) (by simp [blockOff, hon])
  have h9 : bit ((v &&& 0x1FF) ||| 0x400).toNat 9 = false := by rw [bit_getLsbD]; simp
  have h10 : bit ((v &&& 0x1FF) ||| 0x400).toNat 10 = true := by rw [bit_getLsbD]; simp
  rw [h]
  refine (if_neg fun h => ?_).trans (rshEffect_abort h9 h10)
  rw [(rsh_touches _ hold).mp h] at h9
  cases h9

end

/-! ### ARM -/

/-- RESULT of an engine. -/
def armAnswer (d r : Nat) (s : State) : State := s.setPlan d { s.plan d with result := r }

/-- What ARM does with a header that it has read. -/
def armHeader (d ctx base : Nat) (h : List Byte) (s : State) : State :=
  if fenceOf s (fld h 16 2) ctx = false ∨ fenceOf s (fld h 18 2) ctx = false then armAnswer d 2 s else armPlan d s (planOf s ctx base h)
where
  /-- What ARM does with the plan of a header. -/
  armPlan (d : Nat) (s : State) : Option Reshard → State
    | none => armAnswer d 1 s
    | some p =>
      if p.trigEn = false then planFill d (s.setPlan d { p with state := .running })
      else s.setPlan d (latchPlan s { p with slotWait := decide (waitSlots ≤ pendingWaits s) && planWait s p != .sat })

/-- What ARM does with the answer of its read. -/
def armRead (d ctx base : Nat) (u : State) : Dev (List Byte × State) → State
  | .wait => u.setPlan d { u.plan d with armWait := true }
  | .failed => armAnswer d 1 u
  | .done (h, s) => armHeader d ctx base h s

/-- What ARM does once no ARM waits. -/
def armFrom (d ctx base : Nat) (u : State) : State :=
  if planActive (u.plan d) = true ∨ u.isPinned (0x70 + d) = true ∨ (u.ctx ctx).state ≠ .active then armAnswer d 3 u
  else if 2 ^ 48 ≤ base then armAnswer d 1 u
  else armRead d ctx base u (devRead base 64 u)

theorem armDo_eq {d ctx base : Nat} {t u : State} (hu : t.setPlan d { t.plan d with armWait := false } = u)
    (hctx : (u.raw 0 (rshOff d + 8)).toNat % 512 = ctx) (hbase : u.rawBase 0 (rshOff d) (rshOff d + 4) = base) :
    armDo d t = armFrom d ctx base u := by
  unfold armDo
  dsimp only
  rw [hu]
  subst hctx hbase
  refine if_congr Iff.rfl rfl (if_congr Iff.rfl rfl ?_)
  generalize devRead _ 64 _ = r
  cases r with
  | done x =>
    obtain ⟨h, s⟩ := x
    dsimp only [armRead, armHeader]
    refine if_congr (by simp) rfl ?_
    cases hp : planOf s _ _ h with
    | none => rfl
    | some p => exact if_congr (by simp) rfl rfl
  | failed => rfl
  | wait => rfl

/-- The trigger of a plan has reached its value, was satisfied before, or is not there. -/
def trigReached (s : State) (x : Reshard) : Prop :=
  x.trigEn = false ∨ x.satisfied = true ∨
    ((s.fence x.trig.1).st ≠ .free ∧ (s.fence x.trig.1).alloc = x.trig.2 ∧ x.trigValue ≤ (s.fence x.trig.1).value)

section
variable {s : State} {x : Reshard} (hslot : x.slotWait = false)
include hslot

omit hslot in
theorem planWait_slot (h : x.slotWait = true) : planWait s x = .pending := if_pos h

theorem planWait_free : planWait s x =
    if x.trigEn = false ∨ x.satisfied = true then .sat
    else if (s.fence x.trig.1).st = .free ∨ (s.fence x.trig.1).alloc ≠ x.trig.2 then .error .aborted
    else if x.trigValue ≤ (s.fence x.trig.1).value then .sat
    else if (s.fence x.trig.1).st = .active then .pending
    else .error ((s.fence x.trig.1).reason.getD .aborted) := by
  unfold planWait
  rw [hslot]
  exact (if_neg (by simp)).trans (if_congr (by simp) rfl rfl)

theorem planWait_sat (h : trigReached s x) : planWait s x = .sat := by
  rw [planWait_free hslot]
  rcases h with h | h | ⟨h1, h2, h3⟩
  · exact if_pos (.inl h)
  · exact if_pos (.inr h)
  · rw [if_neg (c := _ = FenceState.free ∨ _) (by simp [h1, h2]), if_pos h3, ite_self]

theorem planWait_late (h : ¬ trigReached s x) : planWait s x =
    if (s.fence x.trig.1).st = .free ∨ (s.fence x.trig.1).alloc ≠ x.trig.2 then .error .aborted
    else if (s.fence x.trig.1).st = .active then .pending
    else .error ((s.fence x.trig.1).reason.getD .aborted) := by
  simp only [trigReached, not_or] at h
  obtain ⟨h1, h2, h3⟩ := h
  rw [planWait_free hslot, if_neg (not_or.mpr ⟨h1, h2⟩)]
  refine if_ctx_congr Iff.rfl (fun _ => rfl) fun hf => ?_
  have hv : ¬ x.trigValue ≤ (s.fence x.trig.1).value := fun hv => h3 ⟨fun h => hf (.inl h), by simpa using fun h => hf (.inr h), hv⟩
  exact if_neg hv

end

theorem armFrom_bad {d ctx base : Nat} {u : State} (h : 2 ^ 48 ≤ base ∨ devRead base 64 u = .failed) :
    (if 2 ^ 48 ≤ base then armAnswer d 1 u else armRead d ctx base u (devRead base 64 u)) = armAnswer d 1 u := by
  by_cases hb : 2 ^ 48 ≤ base
  · exact if_pos hb
  · rw [if_neg hb, h.resolve_left hb]
    rfl

/-- The plan that a header describes. -/
def headerPlan (s : State) (ctx base : Nat) (h : List Byte) : Reshard := {
  state := .armed, result := 0, ctx, base, entries := fld h 20 4, trigEn := decide (fld h 26 1 = 1)
  trig := (fld h 16 2, (s.fence (fld h 16 2)).alloc), trigValue := q64 (fld h 0 8)
  doneFence := (fld h 18 2, (s.fence (fld h 18 2)).alloc), doneValue := q64 (fld h 8 8), next := 0
  begun := [], ended := [], failed := 0, aborting := false, satisfied := false, slotWait := false, armWait := false }

section
variable {d ctx base : Nat} {h : List Byte} {s : State}

theorem fenceOf_iff {k : Nat} : fenceOf s k ctx = true ↔ (s.fence k).st = .active ∧ (s.fence k).owner = ctx := by simp [fenceOf]

theorem planOf_bad (hb : zeros h 27 37 = false ∨ 2 ≤ fld h 26 1 ∨ fld h 20 4 = 0 ∨ 1048576 < fld h 20 4) : planOf s ctx base h = none :=
  if_pos (by simpa using hb)

theorem planOf_some (hb : ¬ (zeros h 27 37 = false ∨ 2 ≤ fld h 26 1 ∨ fld h 20 4 = 0 ∨ 1048576 < fld h 20 4)) :
    planOf s ctx base h = some (headerPlan s ctx base h) := by
  have htrig : bit (fld h 26 1) 0 = decide (fld h 26 1 = 1) := by
    have h2 : ¬ 2 ≤ fld h 26 1 := fun h' => hb (.inr (.inl h'))
    rw [bit, pow_zero, Nat.div_one]
    exact decide_eq_decide.mpr (by omega)
  unfold planOf
  dsimp only
  rw [htrig]
  exact if_neg (by simpa using hb)

theorem armHeader_range (hm : ¬ ((s.fence (fld h 16 2)).st = .active ∧ (s.fence (fld h 16 2)).owner = ctx ∧
    (s.fence (fld h 18 2)).st = .active ∧ (s.fence (fld h 18 2)).owner = ctx)) : armHeader d ctx base h s = armAnswer d 2 s := by
  refine if_pos ?_
  by_contra hn
  simp only [not_or, Bool.not_eq_false, fenceOf_iff] at hn
  obtain ⟨⟨h1, h2⟩, h3, h4⟩ := hn
  exact hm ⟨h1, h2, h3, h4⟩

section
variable (hm : (s.fence (fld h 16 2)).st = .active ∧ (s.fence (fld h 16 2)).owner = ctx ∧
  (s.fence (fld h 18 2)).st = .active ∧ (s.fence (fld h 18 2)).owner = ctx)
include hm

theorem armHeader_mine {o : Option Reshard} (ho : planOf s ctx base h = o) : armHeader d ctx base h s = armHeader.armPlan d s o := by
  obtain ⟨h1, h2, h3, h4⟩ := hm
  subst ho
  refine if_neg ?_
  simp only [not_or, Bool.not_eq_false, fenceOf_iff]
  exact ⟨⟨h1, h2⟩, h3, h4⟩

theorem armHeader_bad (hb : zeros h 27 37 = false ∨ 2 ≤ fld h 26 1 ∨ fld h 20 4 = 0 ∨ 1048576 < fld h 20 4) :
    armHeader d ctx base h s = armAnswer d 1 s := armHeader_mine hm (planOf_bad hb)

variable (hb : ¬ (zeros h 27 37 = false ∨ 2 ≤ fld h 26 1 ∨ fld h 20 4 = 0 ∨ 1048576 < fld h 20 4))
include hb

theorem armHeader_runs (ht : fld h 26 1 = 0) :
    armHeader d ctx base h s = planFill d (s.setPlan d { headerPlan s ctx base h with state := .running }) :=
  (armHeader_mine hm (planOf_some hb)).trans (if_pos (decide_eq_false (by omega)))

theorem armHeader_armed (ht : fld h 26 1 = 1) :
    armHeader d ctx base h s = s.setPlan d { headerPlan s ctx base h with
      satisfied := decide (q64 (fld h 0 8) ≤ (s.fence (fld h 16 2)).value)
      slotWait := decide (¬ q64 (fld h 0 8) ≤ (s.fence (fld h 16 2)).value ∧ 16384 ≤ pendingWaits s) } := by
  have hen : (headerPlan s ctx base h).trigEn = true := decide_eq_true ht
  refine (armHeader_mine hm (planOf_some hb)).trans ((if_neg (by rw [hen]; simp)).trans (congrArg (fun x => s.setPlan d x) ?_))
  have hwait : planWait s (headerPlan s ctx base h) = if q64 (fld h 0 8) ≤ (s.fence (fld h 16 2)).value then .sat else .pending := by
    obtain ⟨hact, -, -, -⟩ := hm
    rw [planWait_free rfl, if_neg (by rw [hen]; simp [headerPlan]), if_neg (by simp [headerPlan, hact])]
    exact if_congr Iff.rfl rfl (if_pos hact)
  rw [hwait]
  by_cases hr : q64 (fld h 0 8) ≤ (s.fence (fld h 16 2)).value
  · rw [if_pos hr] at hwait ⊢
    have hfull : (decide (waitSlots ≤ pendingWaits s) && Wait.sat != Wait.sat) = false := Bool.and_eq_false_iff.mpr (.inr (by decide))
    rw [hfull, decide_eq_true hr, decide_eq_false (fun h => h.1 hr)]
    exact if_pos ⟨rfl, hwait⟩
  · rw [if_neg hr] at hwait ⊢
    have hfull : (decide (waitSlots ≤ pendingWaits s) && Wait.pending != Wait.sat) = decide (¬ q64 (fld h 0 8) ≤ (s.fence (fld h 16 2)).value ∧
        16384 ≤ pendingWaits s) := by
      rw [show (Wait.pending != Wait.sat) = true from by decide, Bool.and_true]
      exact decide_eq_decide.mpr (by simp [hr, waitSlots])
    rw [hfull, decide_eq_false hr]
    refine if_neg fun hsat => ?_
    generalize decide (¬ q64 (fld h 0 8) ≤ (s.fence (fld h 16 2)).value ∧ 16384 ≤ pendingWaits s) = full at hsat
    cases full with
    | true => 
      exact absurd ((planWait_slot rfl).symm.trans hsat.2) (by decide)
    | false => exact absurd (hwait.symm.trans hsat.2) (by decide)

end

end

/-! ### ABORT -/

theorem plan_setRaw (s : State) (fn off : Nat) (w : Word) (d : Nat) : (s.setRaw fn off w).plan d = s.plan d := rfl

/-- What ABORT leaves of a running plan that it is the first to abort. -/
def abortRunning (d : Nat) (x : Reshard) (s : State) : State :=
  let begun := x.begun.filter fun e => e.step ≠ .waits
  let rest := ((upTo x.entries).filter fun i => !x.ended.contains i).filter fun i => !begun.any fun e => e.idx = i
  let b := planNotRun x rest s
  let c := b.setPlan d { b.plan d with ended := x.ended ++ rest, begun, aborting := true }
  if begun = [] then planStop d .aborted .aborted c else c

section
variable {d : Nat} {s : State} {x : Reshard} (hp : s.plan d = x)
include hp

theorem rshAbortDo_armed (hx : x.state = .armed) : rshAbortDo d s = planTriggerError d .aborted s := by
  unfold rshAbortDo
  dsimp only
  rw [hp, hx]

theorem rshAbortDo_running (hx : x.state = .running) (ha : x.aborting = false) : rshAbortDo d s = abortRunning d x s := by
  unfold rshAbortDo
  dsimp only
  rw [hp, hx]
  exact if_neg (by rw [ha]; simp)

theorem rshAbortDo_other (hx : x.state ≠ .armed) (ha : x.state ≠ .running ∨ x.aborting = true) : rshAbortDo d s = s := by
  unfold rshAbortDo
  dsimp only
  rw [hp]
  cases hst : x.state with
  | armed => exact absurd hst hx
  | running => exact if_pos (ha.resolve_left (not_not.mpr hst))
  | _ => rfl

end

/-! ### The start of a plan -/

/-- An armed plan, by how its trigger stands. -/
def planStarts (d : Nat) (s : State) : Wait → State
  | .sat => planFill d (s.setPlan d { s.plan d with state := .running })
  | .pending => s
  | .error why => planTriggerError d why s

theorem planStartDo_eq (d : Nat) (s0 : State) :
    planStartDo d s0 = (let s := planSlot d s0
      if (s.plan d).state ≠ .armed then s
      else if planCtxGone s (s.plan d) = true then planTorn d s
      else planStarts d s (planWait s (s.plan d))) := by
  unfold planStartDo
  dsimp only
  generalize planSlot d s0 = s
  cases planWait s (s.plan d) <;> rfl

theorem planCtxGone_iff (s : State) (x : Reshard) : planCtxGone s x = true ↔ ctxRuns s x.ctx = false ∨ (s.ctx x.ctx).drainDone = true := by
  simp [planCtxGone]

section
variable {d : Nat} {s0 s : State} (hs : planSlot d s0 = s)
include hs

theorem planStartDo_unarmed (hx : (s.plan d).state ≠ .armed) : planStartDo d s0 = s := by
  subst hs
  rw [planStartDo_eq]
  exact if_pos hx

theorem planStartDo_gone (hx : (s.plan d).state = .armed) (hg : ctxRuns s (s.plan d).ctx = false ∨ (s.ctx (s.plan d).ctx).drainDone = true) :
    planStartDo d s0 = planTorn d s := by
  subst hs
  rw [planStartDo_eq]
  exact (if_neg (not_not.mpr hx)).trans (if_pos ((planCtxGone_iff _ _).mpr hg))

theorem planStartDo_armed {w : Wait} (hx : (s.plan d).state = .armed)
    (hg : ¬ (ctxRuns s (s.plan d).ctx = false ∨ (s.ctx (s.plan d).ctx).drainDone = true)) (hw : planWait s (s.plan d) = w) :
    planStartDo d s0 = planStarts d s w := by
  subst hs hw
  rw [planStartDo_eq]
  exact (if_neg (not_not.mpr hx)).trans (if_neg fun h => hg ((planCtxGone_iff _ _).mp h))

end

/-! ### Entries -/

/-- What the end of an entry does with how far it has come. -/
def stepEnd (d i ctx : Nat) (e : PlanEntry) (b : State) : PlanStep → State
  | .waits => b
  | .over st k => planEnded d i st k 0 b
  | .moving l slot old => planMove d i ctx l slot old e.dst e.place b

/-- An entry as it stands once it has tried to begin. -/
def entryStep (d i ctx : Nat) (b : State) : Option PlanEntry → State
  | none => b
  | some e => stepEnd d i ctx e b e.step

/-- The entry of an index that is in progress. -/
def standing (d i : Nat) (s : State) : Option PlanEntry := (s.plan d).begun.find? fun e => e.idx = i

/-- RSH_ENTRY_DONE, by the entry that is in progress. -/
def planEntryDone (d i ctx : Nat) (s : State) : Option PlanEntry → State
  | none => s
  | some e =>
    let b := if e.step = .waits then planBegin d i s else s
    metaLog (planFill d (entryStep d i ctx b (standing d i b)))

theorem planEntryDone_some {d i ctx : Nat} {s b : State} {e : PlanEntry} {o : Option PlanEntry}
    (hb : (if e.step = .waits then planBegin d i s else s) = b) (ho : standing d i b = o) :
    planEntryDone d i ctx s (some e) = metaLog (planFill d (entryStep d i ctx b o)) := by
  subst hb ho
  rfl

theorem entryDoneDo_eq (d i : Nat) (io : HostIO) (s0 : State) :
    entryDoneDo d i io s0 = (let s := applyIO io s0
      if (s.plan d).state ≠ .running ∨ s.isPinned (0x70 + d) = true then s
      else if planCtxGone s (s.plan d) = true then planTorn d s
      else planEntryDone d i (s.plan d).ctx s (standing d i s)) := by
  unfold entryDoneDo standing
  dsimp only
  generalize applyIO io s0 = s
  refine if_congr Iff.rfl rfl (if_congr Iff.rfl rfl ?_)
  cases (s.plan d).begun.find? fun e => e.idx = i with
  | none => rfl
  | some e =>
    dsimp only [planEntryDone, standing]
    generalize (if e.step = .waits then planBegin d i s else s) = b
    cases (b.plan d).begun.find? fun e => e.idx = i with
    | none => rfl
    | some f =>
      obtain ⟨idx, dst, place, step⟩ := f
      cases step <;> rfl

section
variable {d i : Nat} {io : HostIO} {s0 s : State} (hs : applyIO io s0 = s)
include hs

theorem entryDoneDo_still (hx : (s.plan d).state ≠ .running ∨ s.isPinned (0x70 + d) = true) : entryDoneDo d i io s0 = s := by
  subst hs
  rw [entryDoneDo_eq]
  exact if_pos hx

section
variable (hx : (s.plan d).state = .running) (hp : s.isPinned (0x70 + d) = false)
include hx hp

theorem entryDoneDo_gone (hg : ctxRuns s (s.plan d).ctx = false ∨ (s.ctx (s.plan d).ctx).drainDone = true) : entryDoneDo d i io s0 = planTorn d s := by
  subst hs
  rw [entryDoneDo_eq]
  exact (if_neg (by simp [hx, hp])).trans (if_pos ((planCtxGone_iff _ _).mpr hg))

theorem entryDoneDo_runs {o : Option PlanEntry} (hg : ¬ (ctxRuns s (s.plan d).ctx = false ∨ (s.ctx (s.plan d).ctx).drainDone = true))
    (ho : standing d i s = o) : entryDoneDo d i io s0 = planEntryDone d i (s.plan d).ctx s o := by
  subst hs ho
  rw [entryDoneDo_eq]
  exact (if_neg (by simp [hx, hp])).trans (if_neg fun h => hg ((planCtxGone_iff _ _).mp h))

end

end

section
variable (d i ctx : Nat)

/-- An entry's place in its table has been read. -/
def beginSlot (dst place : Nat) (l : Leaf) (va : Nat) : Res (Nat × List Byte) → State
  | .fault f s => walkFault d i f ctx va s
  | .severed s => entryOver d i 3 0 s
  | .wait s => s
  | .ok (slot, old) s =>
    if 2 ^ 48 ≤ slot then entryOver d i 6 0 s
    else if dst = l.base ∧ place = l.place then entryOver d i 2 0 s
    else if dstOk s dst l.size place = false then entryOver d i 5 0 s
    else beginMove (slot, old) (onBegun d i (fun e => { e with dst, place, step := .moving l slot old }) s)
where
  /-- Step 2: the leaf without W. -/
  beginMove (t : Nat × List Byte) (y : State) : State := if l.w then putLeaf ctx l t.1 ((tableEntries t.2).map lockLeaf) y else y

/-- An entry's page has been walked. -/
def beginLeaf (dst place va : Nat) : Res Leaf → State
  | .fault f s => walkFault d i f ctx va s
  | .severed s => entryOver d i 3 0 s
  | .wait s => s
  | .ok l s =>
    if l.level = 2 then entryOver d i 4 0 s
    else if onPackage s l.base = false then entryOver d i 9 0 s
    else beginSlot d i ctx dst place l va (leafSlot ctx va 4 ((s.ctx ctx).ptRoot.getD 0) s)

/-- An entry's record has been read. -/
def beginRead (s : State) : Dev (List Byte × State) → State
  | .wait => s
  | .failed => entryOver d i 7 0 s
  | .done (e, u) =>
    if 3 ≤ fld e 16 1 ∨ zeros e 19 5 = false then entryOver d i 7 0 u
    else if pageTaken u d ctx (fld e 0 8) = true then u
    else beginLeaf d i ctx (fld e 8 8) (fld e 16 1) (fld e 0 8) (xlate (0x70 + d) ctx (fld e 0 8) .read u)

end

theorem planBegin_eq (d i : Nat) (s : State) :
    planBegin d i s = beginRead d i (s.plan d).ctx s (devRead ((s.plan d).base + 64 + 32 * i) 32 s) := by
  unfold planBegin planEntry
  dsimp only
  cases devRead _ 32 s with
  | wait => rfl
  | failed => rfl
  | done r =>
    obtain ⟨e, u⟩ := r
    dsimp only [beginRead]
    refine if_congr (by simp) rfl (if_congr Iff.rfl rfl ?_)
    rw [show rshMaster d = 0x70 + d from rfl]
    cases xlate _ _ _ _ u with
    | ok l v =>
      dsimp only [beginLeaf]
      refine if_congr Iff.rfl rfl (if_congr (by simp) rfl ?_)
      cases leafSlot _ _ _ _ v with
      | ok r w =>
        obtain ⟨slot, old⟩ := r
        exact if_congr Iff.rfl rfl (if_congr Iff.rfl rfl (if_congr (by simp) rfl rfl))
      | fault | severed | wait => rfl
    | fault | severed | wait => rfl

theorem onPackage_iff (s : State) (pa : Nat) : onPackage s pa = true ↔ ∃ ch a, target s pa = .pkg ch a := by
  unfold onPackage
  cases target s pa <;> simp

section
variable (d i ctx : Nat) (l : Leaf) (slot : Nat) (old : List Byte) (dst place : Nat)

/-- The bytes of a page have been written at its new frame, or not. -/
def moveWrite (s u : State) : Acc Unit → State
  | .wait => s
  | .severed => moveFailed d i ctx l slot old 0 u
  | .fault c t => moveFailed d i ctx l slot old c.num (engineFault (accFault t c dst) (0x70 + d) ctx l.va .write t)
  | .ok _ t => planEnded d i 1 0 l.base (dropFrame l.base l.size
      (putLeaf ctx l slot ((upTo (tableEntries old).length).map fun j => moveLeaf ((tableEntries old).getD j 0) (dst / 4096 + j) place) t))

/-- The bytes of a page have been read at its old frame, or not. -/
def moveRead (s : State) : Acc (List Byte) → State
  | .wait => s
  | .severed => moveFailed d i ctx l slot old 0 s
  | .fault c t => moveFailed d i ctx l slot old c.num (engineFault (accFault t c l.base) (0x70 + d) ctx l.va .read t)
  | .ok bs u => moveWrite d i ctx l slot old dst place s u (paWrite ctx (l.attr (0x70 + d)) dst bs u)

theorem planMove_eq (s : State) :
    planMove d i ctx l slot old dst place s =
      if loadsOn s ctx (fun v => decide (l.va ≤ v) && decide (v < l.va + l.size)) ≠ [] then s
      else moveRead d i ctx l slot old dst place s (paRead ctx (l.attr (0x70 + d)) l.base l.size s) := by
  unfold planMove
  dsimp only
  rw [show rshMaster d = 0x70 + d from rfl]
  refine if_congr Iff.rfl rfl ?_
  cases paRead ctx _ l.base l.size s with
  | ok bs u =>
    dsimp only [moveRead]
    cases paWrite ctx _ dst bs u <;> rfl
  | _ => rfl

end

/-- The page of a leaf whose table entries are written is in no TLB. -/
theorem tlbDiscard_gone {p : TlbEntry → Bool} {s : State} :
    (∀ e ∈ (tlbDiscard p s).mmu.utlb, ∀ y ∈ e.2, p y = false) ∧ (∀ e ∈ (tlbDiscard p s).mmu.dtlb, ∀ y ∈ e.2, p y = false) := by
  have hcut {t : Tbl (List TlbEntry)} {e : Nat × List TlbEntry}
      (h : e ∈ (t.map fun e => (e.1, e.2.filter fun x => !p x)).filter fun e => e.2 ≠ []) : ∀ y ∈ e.2, p y = false := by
    obtain ⟨f, -, rfl⟩ := List.mem_map.mp (List.mem_filter.mp h).1
    intro y hy
    simpa using (List.mem_filter.mp hy).2
  exact ⟨fun e he => hcut he, fun e he => hcut he⟩

/-! ### An entry's final STATUS -/

/-- A plan with one more entry that has ended. -/
def countEnded (i st : Nat) (x : Reshard) : Reshard :=
  { x with ended := x.ended ++ [i], begun := x.begun.filter (fun e => e.idx ≠ i), failed := x.failed + if (3 ≤ st ∧ st ≤ 7) ∨ st = 9 then 1 else 0 }

/-- What the last entry's end does with its plan. -/
def planOver (d : Nat) (y : Reshard) (t : State) : State :=
  if y.ended.length < y.entries then t
  else if y.aborting = true then planStop d .aborted .aborted t
  else sendFence y.doneFence.1 y.doneFence.2 (.inl y.doneValue) (wcFlushAll (t.setPlan d { y with state := .done }))

theorem planEnded_eq {d i st k pa : Nat} {s w : State} (hw : planStatus (s.plan d) i st k pa s = w) :
    planEnded d i st k pa s = planOver d (countEnded i st (w.plan d)) (w.setPlan d (countEnded i st (w.plan d))) := by
  have hbad : b2n ((decide (3 ≤ st) && decide (st ≤ 7)) || decide (st = 9)) = if (3 ≤ st ∧ st ≤ 7) ∨ st = 9 then 1 else 0 :=
    if_congr (by simp) rfl rfl
  unfold planEnded
  dsimp only
  rw [hw, hbad]
  rfl

/-! ### The next entries of a plan -/

/-- One try of a plan to begin its next entry. -/
def fillOne (d : Nat) (s : State) : State :=
  if (s.plan d).state = .running ∧ (!(s.plan d).aborting) = true ∧ (s.plan d).begun.length < 16 ∧ (s.plan d).next < (s.plan d).entries then
    planBegin d (s.plan d).next (s.setPlan d { s.plan d with
      next := (s.plan d).next + 1, begun := (s.plan d).begun ++ [{ idx := (s.plan d).next, dst := 0, place := 0, step := .waits }] })
  else s

theorem planFill_eq (d : Nat) (s : State) : planFill d s = (upTo 16).foldl (fun s _ => fillOne d s) s := rfl

theorem foldl_fixed {α β : Type} {f : α → α} {a : α} (h : f a = a) (l : List β) : l.foldl (fun a _ => f a) a = a := by
  induction l with
  | nil => rfl
  | cons b l ih => rw [List.foldl_cons, h, ih]

theorem planFill_stays {d : Nat} {s : State} (h : fillOne d s = s) : planFill d s = s := foldl_fixed h _

theorem planFill_once {d : Nat} {s b : State} (h : fillOne d s = b) (hb : fillOne d b = b) : planFill d s = b := by
  subst h
  rw [planFill_eq, show upTo 16 = 0 :: (upTo 16).tail from rfl, List.foldl_cons]
  exact foldl_fixed hb _

theorem planActive_iff (x : Reshard) : planActive x = true ↔ x.state = .armed ∨ x.state = .running := by simp [planActive]

/-- Settles O39: RSH_CTL by `armDo_eq`, and the plan's events by the functions that end each of their reads. -/
theorem plansArmRunAndEnd : Obligations.PlansArmRunAndEnd := by
  unfold Obligations.PlansArmRunAndEnd
  refine ⟨fun d v s hq _ hon => ?_, fun d s0 => ?_, fun d i io s0 => ?_, fun d i s => ?_, fun d i ctx slot dst place l old s => ?_,
    fun d i st k pa s => ?_, fun d s => ?_⟩
  · intro off old hold ctx base x new t u answer busy
    have hb : blockAt off = some (.rsh d, 8) := blockAt_rshCtl d
    have hoff : off = rshOff d.val + 8 := rshOff_ctl d
    have hoff' : off = dieBase d + 0x10008 := rfl
    clear_value off
    have harm (v : Word) : exec (.rshArm 0 d v) s = .next (if unlocked s (.rsh d) 0 = true then
        armDo d.val ((setUnlock (.rsh d) 0 0 s).setRaw 0 off (rshFields old v)) else setDenied (.rsh d) 0 1 s) :=
      congrArg Host.Outcome.next ((congrArg (fun o => regWrite4 0 o ((v &&& 0x1FF) ||| 0x200) s) hoff.symm).trans (regWrite4_arm hb hq hon hold))
    have hreg : u.reg.regs = ((setUnlock (.rsh d) 0 0 s).setRaw 0 off new).reg.regs := rfl
    have hsec : u.sec = s.sec := rshWritten_sec d.val off new _ s
    have hmmu : u.mmu = s.mmu := rshWritten_mmu d.val off new _ s
    have hctx : (u.raw 0 (rshOff d.val + 8)).toNat % 512 = ctx := by
      have hraw : u.raw 0 (rshOff d.val + 8) = new := by
        rw [← hoff]
        exact (raw_of_reg hreg 0 off).trans (raw_setRaw _ 0 off new)
      rw [hraw]
      exact rshFields_ctx old v
    have hbase : u.rawBase 0 (rshOff d.val) (rshOff d.val + 4) = base :=
      (rawBase_of_reg hreg 0 _ _).trans (by rw [hoff']; exact rawBase_rsh d rfl new)
    refine ⟨fun hl => ?_, fun hl => ?_, ?_, fun fn h0 => ?_⟩
    · exact (harm v).trans (congrArg Host.Outcome.next (if_neg (by rw [hl]; simp)))
    · have harmed : exec (.rshArm 0 d v) s = .next (armFrom d.val ctx base u) :=
        (harm v).trans (congrArg Host.Outcome.next ((if_pos hl).trans (armDo_eq rfl hctx hbase)))
      have hbusy : (planActive (u.plan d.val) = true ∨ u.isPinned (0x70 + d.val) = true ∨ (u.ctx ctx).state ≠ .active) ↔ busy := by
        rw [planActive_iff, or_assoc, isPinned_of_sec hsec, ctx_of_mmu hmmu]
      clear_value u base ctx
      refine ⟨fun h => harmed.trans (congrArg Host.Outcome.next (if_pos (hbusy.mpr h))), fun h hr => harmed.trans (congrArg Host.Outcome.next ?_),
        fun h hlo hr => harmed.trans (congrArg Host.Outcome.next ?_), fun h hlo hd w hr => ?_⟩
      · exact (if_neg (hbusy.not.mpr h)).trans (armFrom_bad hr)
      · exact (if_neg (hbusy.not.mpr h)).trans ((if_neg (by omega)).trans (congrArg (armRead d.val ctx base u) hr))
      · intro f g mine bad reached plan
        have hread {y : State} (hy : armHeader d.val ctx base hd w = y) : exec (.rshArm 0 d v) s = .next y :=
          harmed.trans (congrArg Host.Outcome.next ((if_neg (hbusy.not.mpr h)).trans ((if_neg (by omega)).trans
            ((congrArg (armRead d.val ctx base u) hr).trans hy))))
        refine ⟨fun hm => hread (armHeader_range hm), fun hm hb => hread (armHeader_bad hm hb), fun hm hb ht => hread (armHeader_runs hm hb ht),
          fun hm hb ht => hread (armHeader_armed hm hb ht)⟩
    · intro a begun rest b c
      have habort : exec (.rshAbort 0 d v) s = .next (rshAbortDo d.val a) := congrArg Host.Outcome.next
        ((congrArg (fun o => regWrite4 0 o ((v &&& 0x1FF) ||| 0x400) s) hoff.symm).trans (regWrite4_abort hb hq hon hold))
      have hplan : a.plan d.val = x := plan_setRaw s 0 off new d.val
      refine ⟨fun hx => habort.trans (congrArg Host.Outcome.next (rshAbortDo_armed hplan hx)), fun hx hab => habort.trans (congrArg Host.Outcome.next ?_),
        fun hx hab => habort.trans (congrArg Host.Outcome.next (rshAbortDo_other hplan hx hab))⟩
      exact rshAbortDo_running hplan hx hab
    · have hstays (x : Word) : regWrite4 fn.val (rshOff d.val + 8) x s = s := by
        rw [← hoff]
        exact regWrite4_beyond x s h0 (by rw [hoff']; exact (dieBase_big d).trans (Nat.le_add_right _ _)) hb
      exact ⟨congrArg Host.Outcome.next (hstays _), congrArg Host.Outcome.next (hstays _)⟩
  · intro s
    rw [show exec (.rshPlanStart d) s0 = .next (planStartDo d.val s0) from rfl]
    have hs : planSlot d.val s0 = s := rfl
    clear_value s
    intro x f gone reached
    refine ⟨fun hx => congrArg Host.Outcome.next (planStartDo_unarmed hs hx), fun hx hg => congrArg Host.Outcome.next (planStartDo_gone hs hx hg),
      fun hx hg => ?_, fun why st u => ⟨rfl, rfl⟩⟩
    have starts {w : Wait} (hw : planWait s x = w) : (.next (planStartDo d.val s0) : Out) = .next (planStarts d.val s w) :=
      congrArg _ (planStartDo_armed hs hx hg hw)
    refine ⟨fun h1 => starts (w := .pending) (if_pos h1), fun h1 h2 => starts (w := .sat) (planWait_sat h1 h2),
      fun h1 h2 h3 => starts (w := .error .aborted) ?_, fun h1 h2 h3 h4 => starts (w := .pending) ?_,
      fun why h1 h2 h3 h4 h5 h6 => starts (w := .error why) ?_⟩
    · exact (planWait_late h1 h2).trans (if_pos h3)
    · exact (planWait_late h1 h2).trans ((if_neg (by simp [f] at h3 h4 ⊢; simp [h3, h4])).trans (if_pos h3))
    · rw [planWait_late h1 h2, if_neg (not_or.mpr ⟨h3, not_not.mpr h5⟩), if_neg h4, h6]
      rfl
  · intro s
    rw [show exec (.rshEntryDone d i io) s0 = .next (entryDoneDo d.val i io s0) from rfl]
    have hs : applyIO io s0 = s := rfl
    clear_value s
    intro x gone ends more stands
    refine ⟨fun hx => congrArg Host.Outcome.next (entryDoneDo_still hs hx), fun hx hp hg => congrArg Host.Outcome.next (entryDoneDo_gone hs hx hp hg),
      fun hx hp hg => ?_⟩
    have ended {o : Option PlanEntry} (ho : stands s = o) : (.next (entryDoneDo d.val i io s0) : Out) = .next (planEntryDone d.val i x.ctx s o) :=
      congrArg _ (entryDoneDo_runs hs hx hp hg ho)
    refine ⟨fun ho => ended (o := none) ho, fun e0 he0 => ?_⟩
    intro b
    have hb : (if e0.step = .waits then planBegin d.val i s else s) = b := rfl
    clear_value b
    have step {o : Option PlanEntry} (ho : stands b = o) :
        (.next (entryDoneDo d.val i io s0) : Out) = .next (metaLog (planFill d.val (entryStep d.val i x.ctx b o))) :=
      (ended (o := some e0) he0).trans (congrArg Host.Outcome.next (planEntryDone_some hb ho))
    refine ⟨fun ho => step (o := none) ho, fun e he => ?_⟩
    have stepped {p : PlanStep} (hp : e.step = p) : ends (more (stepEnd d.val i x.ctx e b p)) :=
      (step (o := some e) he).trans (congrArg (fun p => Host.Outcome.next (metaLog (planFill d.val (stepEnd d.val i x.ctx e b p)))) hp)
    exact ⟨fun h => stepped (p := .waits) h, fun st k h => stepped (p := .over st k) h, fun l slot old h => stepped (p := .moving l slot old) h⟩
  · intro x ends begins
    have read {r : Dev (List Byte × State)} (hr : devRead (x.base + 64 + 32 * i) 32 s = r) : begins (beginRead d.val i x.ctx s r) :=
      (planBegin_eq d.val i s).trans (congrArg _ hr)
    refine ⟨fun h => read (r := .wait) h, fun h => read (r := .failed) h, fun e u h => ?_⟩
    intro va dst place bad leaf fault
    have hdone : begins (beginRead d.val i x.ctx s (.done (e, u))) := read h
    have hrec {t : State} (ht : beginRead d.val i x.ctx s (.done (e, u)) = t) : begins t := hdone.trans ht
    refine ⟨fun hb => hrec (if_pos hb), fun hb ht => hrec ((if_neg hb).trans (if_pos ht)), fun hb ht => ?_⟩
    have walked {r : Res Leaf} (hr : leaf = r) : begins (beginLeaf d.val i x.ctx dst place va r) :=
      hrec ((if_neg hb).trans ((if_neg (by rw [ht]; simp)).trans (congrArg (beginLeaf d.val i x.ctx dst place va) hr)))
    refine ⟨fun f v hr => walked (r := .fault f v) hr, fun v hr => walked (r := .severed v) hr, fun v hr => walked (r := .wait v) hr, fun l v hr => ?_⟩
    intro onPkg table
    have hpage {t : State} (ht : beginLeaf d.val i x.ctx dst place va (.ok l v) = t) : begins t := (walked (r := .ok l v) hr).trans ht
    have hpkg : onPkg ↔ ¬ onPackage v l.base = false := (onPackage_iff v l.base).symm.trans (by simp)
    refine ⟨fun h2 => hpage (if_pos h2), fun h2 hp => hpage ((if_neg h2).trans (if_pos (not_not.mp fun h => hp (hpkg.mpr h)))), fun h2 hp => ?_⟩
    have slotted {r : Res (Nat × List Byte)} (hr : table = r) : begins (beginSlot d.val i x.ctx dst place l va r) :=
      hpage ((if_neg h2).trans ((if_neg (hpkg.mp hp)).trans (congrArg (beginSlot d.val i x.ctx dst place l va) hr)))
    refine ⟨fun f w hr => slotted (r := .fault f w) hr, fun w hr => slotted (r := .severed w) hr, fun w hr => slotted (r := .wait w) hr,
      fun slot old w hr => ?_⟩
    intro placed y
    have hslot {t : State} (ht : beginSlot d.val i x.ctx dst place l va (.ok (slot, old) w) = t) : begins t :=
      (slotted (r := .ok (slot, old) w) hr).trans ht
    refine ⟨fun h => hslot (if_pos h), fun h hp => hslot ((if_neg (by omega)).trans (if_pos hp)),
      fun h hp hd => hslot ((if_neg (by omega)).trans ((if_neg hp).trans (if_pos hd))),
      fun h hp hd => hslot ((if_neg (by omega)).trans ((if_neg hp).trans (if_neg (by rw [hd]; simp))))⟩
  · intro a moves failed loads
    have hmove := planMove_eq d.val i ctx l slot old dst place s
    refine ⟨fun h => hmove.trans (if_pos h), fun h => ?_, fun es t => ?_⟩
    · have read {r : Acc (List Byte)} (hr : paRead ctx a l.base l.size s = r) : moves (moveRead d.val i ctx l slot old dst place s r) :=
        hmove.trans ((if_neg (not_not.mpr h)).trans (congrArg (moveRead d.val i ctx l slot old dst place s) hr))
      refine ⟨fun hr => read (r := .wait) hr, fun hr => read (r := .severed) hr, fun c t hr => read (r := .fault c t) hr, fun bs u hr => ?_⟩
      have wrote {r : Acc Unit} (hw : paWrite ctx a dst bs u = r) : moves (moveWrite d.val i ctx l slot old dst place s u r) :=
        (read (r := .ok bs u) hr).trans (congrArg (moveWrite d.val i ctx l slot old dst place s u) hw)
      exact ⟨fun hw => wrote (r := .wait) hw, fun hw => wrote (r := .severed) hw, fun c t hw => wrote (r := .fault c t) hw,
        fun t hw => wrote (r := .ok () t) hw⟩
    · intro p
      have hgone {y : TlbEntry}
          (h : (decide (y.ctx = ctx) && decide (y.leaf.va < l.va + l.size) && decide (l.va < y.leaf.va + y.leaf.size)) = false) :
          ¬ (y.ctx = ctx ∧ y.leaf.va < l.va + l.size ∧ l.va < y.leaf.va + y.leaf.size) := by
        rintro ⟨h1, h2, h3⟩
        simp [h1, h2, h3] at h
      exact ⟨fun e he y hy => hgone (tlbDiscard_gone.1 e he y hy), fun e he y hy => hgone (tlbDiscard_gone.2 e he y hy)⟩
  · intro w x y ended
    have hover : planEnded d.val i st k pa s = planOver d.val y (w.setPlan d.val y) := planEnded_eq rfl
    clear_value w
    exact ⟨fun h => hover.trans (if_pos h), fun h ha => hover.trans ((if_neg (by omega)).trans (if_pos ha)),
      fun h ha => hover.trans ((if_neg (by omega)).trans (if_neg (by rw [show y.aborting = false from ha]; simp)))⟩
  · intro may x b
    have hstays {t : State} (h : ¬ may t) : fillOne d.val t = t := if_neg fun h' => h (by simpa [may, and_assoc] using h')
    refine ⟨fun h => planFill_stays (hstays h), fun h hb => planFill_once (if_pos ?_) (hstays hb)⟩
    simpa [may, and_assoc] using h

end Sys2Proof.Machine
end

section
/-! The arithmetic of a thread group and its divergence stack (R241 to R246). -/

namespace Sys2Proof.Machine

open Sys2Proof

/-! ### The issue of an instruction -/

/-- What an instruction does once its fetch has ended. -/
def issueFetched (g : Group) (f : Group → State → State) (va : Nat) : Res (List Byte) → State
  | .ok _ s => f g s
  | .fault e s => groupFault g e va .exec g.am s
  | .severed s => killGroup g stSevered 0 s
  | .wait s => s

section
variable {r : GroupRef} {f : Group → State → State} {s : State}

theorem issue_gone (h : (shdSweep s).group? r.core.val r.slot.val = none) : issue r f s = shdSweep s := by
  unfold issue
  dsimp only
  rw [h]

variable {g : Group} (h : (shdSweep s).group? r.core.val r.slot.val = some g)
include h

theorem issue_held (hc : canIssue (shdSweep s) g = false) : issue r f s = shdSweep s := by
  unfold issue
  dsimp only
  rw [h]
  exact if_pos (by rw [hc]; rfl)

theorem issue_fetched {x : Res (List Byte)} (hc : canIssue (shdSweep s) g = true) (hx : (fetchAt g (shdSweep s)).2 = x) :
    issue r f s = issueFetched g f (fetchAt g (shdSweep s)).1 x := by
  subst hx
  unfold issue
  dsimp only
  rw [h]
  refine (if_neg (by rw [hc]; simp)).trans ?_
  generalize fetchAt g (shdSweep s) = y
  obtain ⟨va, x⟩ := y
  cases x <;> rfl

end

theorem issue_issuing {r : GroupRef} {g : Group} {s u : State} (h : issuing r g s u) (f : Group → State → State) : issue r f s = f g u := by
  obtain ⟨hg, hc, l, hl⟩ := h
  exact issue_fetched hg hc hl

/-! ### Arithmetic -/

theorem mulHiU_eq (a b : Word) : w32 (a.toNat * b.toNat / 2 ^ 32) = (a.setWidth 64 * b.setWidth 64).extractLsb' 32 32 := by
  have ha := a.isLt
  have hb := b.isLt
  have hlt : a.toNat * b.toNat < 2 ^ 64 := by
    calc a.toNat * b.toNat < 2 ^ 32 * 2 ^ 32 := Nat.mul_lt_mul'' ha hb
      _ = 2 ^ 64 := by norm_num
  apply BitVec.eq_of_toNat_eq
  simp only [w32, BitVec.toNat_ofNat, BitVec.extractLsb'_toNat, BitVec.toNat_mul, BitVec.toNat_setWidth, Nat.shiftRight_eq_div_pow]
  rw [Nat.mod_eq_of_lt (a := a.toNat) (by omega), Nat.mod_eq_of_lt (a := b.toNat) (by omega), Nat.mod_eq_of_lt hlt]

theorem mulHiS_eq (a b : Word) : BitVec.ofInt 32 (a.toInt * b.toInt / 2 ^ 32) = (a.signExtend 64 * b.signExtend 64).extractLsb' 32 32 := by
  have hmul : a.signExtend 64 * b.signExtend 64 = BitVec.ofInt 64 (a.toInt * b.toInt) := (BitVec.ofInt_mul ..).symm
  rw [hmul]
  generalize a.toInt * b.toInt = x
  apply BitVec.eq_of_toNat_eq
  rw [BitVec.extractLsb'_toNat, BitVec.toNat_ofInt, BitVec.toNat_ofInt, Nat.shiftRight_eq_div_pow]
  omega

theorem intDo_mulHiU (a b : Word) : intDo .mulHiU a b = (a.setWidth 64 * b.setWidth 64).extractLsb' 32 32 := mulHiU_eq a b

theorem intDo_mulHiS (a b : Word) : intDo .mulHiS a b = (a.signExtend 64 * b.signExtend 64).extractLsb' 32 32 := mulHiS_eq a b

/-- The low bits of a code that fills a register only in part. -/
theorem code_low (c w : Nat) (hw : w < 32) (free : Word) :
    ((w32 c &&& w32 (2 ^ w - 1)) ||| (free <<< w)).toNat % 2 ^ w = c % 2 ^ w := by
  have hpow : 2 ^ w < 2 ^ 32 := Nat.pow_lt_pow_right (by decide) hw
  have hmask : (w32 (2 ^ w - 1)).toNat = 2 ^ w - 1 := by
    rw [w32, BitVec.toNat_ofNat]
    exact Nat.mod_eq_of_lt (by omega)
  have hlow : (w32 c &&& w32 (2 ^ w - 1)).toNat = c % 2 ^ w := by
    rw [BitVec.toNat_and, hmask, Nat.and_two_pow_sub_one_eq_mod, w32, BitVec.toNat_ofNat]
    exact Nat.mod_mod_of_dvd c (Nat.pow_dvd_pow 2 (by omega))
  refine Nat.eq_of_testBit_eq fun i => ?_
  rw [Nat.testBit_mod_two_pow, BitVec.toNat_or, Nat.testBit_or, hlow, Nat.testBit_mod_two_pow]
  by_cases hi : i < w
  · rw [decide_eq_true hi]
    have hshift : (free <<< w).toNat.testBit i = false := by
      show (free <<< w).getLsbD i = false
      rw [BitVec.getLsbD_shiftLeft]
      simp [hi]
    rw [hshift, Bool.or_false, Bool.true_and]
  · simp [hi]

theorem writeCodes_full {g : Group} {dst w : Nat} {f : Nat → Nat} {s : State} (h : w = 32) :
    writeCodes g dst w f s = writeLanes g dst (fun i => w32 (f i)) s := if_pos (by omega)

theorem writeCodes_part {g : Group} {dst w : Nat} (f : Nat → Nat) {s : State} (h : w < 32) :
    ∃ k, writeCodes g dst w f s = writeLanes g dst k { s with free := s.free + 32 } ∧ ∀ i, (k i).toNat % 2 ^ w = f i % 2 ^ w :=
  ⟨_, if_neg (by omega), fun i => code_low (f i) w h _⟩

/-- What a conversion to an integer format does. -/
def toInt (trunc : Bool) (dst w : Nat) (ftz : Bool) (fmt : Nat) (x : Src) (g : Group) (s : State) : Option (Int × Int) → State
  | some (lo, hi) => writeCodes g dst w (fun i => toIntCode trunc ftz fmt lo hi (laneSrc s g x i)) s
  | none => s

theorem toIntDo_eq (trunc : Bool) (fmt dst : Nat) (x : Src) (g : Group) (s : State) :
    toIntDo trunc fmt dst x g s = toInt trunc dst (fmtWidth fmt) (s.ctx g.ctx).ftz fmt x g s (intFmt fmt) := by
  unfold toIntDo
  cases intFmt fmt <;> rfl

theorem fmtWidth_sr {n : Nat} (h1 : 4 ≤ n) (h2 : n ≤ 8) : fmtWidth n < 32 := by
  interval_cases n <;> decide

/-! ### Branches, joins and pushes -/

/-- The stack of a group has no entry of a reconvergence point on top. -/
def freshTop (rpc : Nat) : List StackEnt → Bool
  | e :: _ => e.path || decide (e.pc ≠ rpc)
  | [] => true

theorem freshTop_iff (rpc : Nat) (st : List StackEnt) : freshTop rpc st = false ↔ ∃ e l, st = e :: l ∧ e.path = false ∧ e.pc = rpc := by
  cases st with
  | nil => simp [freshTop]
  | cons e l => simp [freshTop]

theorem branchDo_eq (cond : Src) (target rpc : Nat) (g : Group) (s : State) :
    branchDo cond target rpc g s =
      (let c := maskOf ((upTo 32).filter fun i => laneSrc s g cond i ≠ 0)
       if g.am &&& ~~~c = 0 then setGroup { g with pc := target } s
       else if g.am &&& c = 0 then setGroup g.advance s
       else withPush g (if freshTop rpc g.stack = true then [{ path := false, mask := g.am, pc := rpc }, { path := true, mask := g.am &&& ~~~c, pc := g.pc + 1 }]
         else [{ path := true, mask := g.am &&& ~~~c, pc := g.pc + 1 }]) (fun h => { h with am := g.am &&& c, pc := target }) s) := by
  unfold branchDo
  cases g.stack <;> rfl

theorem yieldDo_path {g : Group} {s : State} {e : StackEnt} {st : List StackEnt} (h : g.stack = e :: st) (hp : e.path = true) :
    yieldDo g s = setGroup { g with
      stack := { path := true, mask := g.am, pc := g.pc + 1 } :: st, am := e.mask &&& ~~~g.em, pc := e.pc
      filling := decide (st = []) && decide (g.spilled ≠ []) } s := by
  unfold yieldDo
  rw [h]
  exact if_pos hp

theorem yieldDo_other {g : Group} {s : State} (h : ∀ e st, g.stack = e :: st → e.path = false) : yieldDo g s = setGroup g.advance s := by
  unfold yieldDo
  cases hst : g.stack with
  | nil => rfl
  | cons e st => exact if_neg (by rw [h e st hst]; simp)

theorem joins_cons {g : Group} {e : StackEnt} {st : List StackEnt} (n : Nat) (h : g.stack = e :: st) :
    Group.joins (n + 1) g =
      (let h : Group := { g with stack := st, am := e.mask &&& ~~~g.em, pc := if e.path then e.pc else g.pc + 1 }
       if h.am = 0 ∧ h.stack ≠ [] then Group.joins n h else h.popped) := by
  rw [Group.joins, h]

/-- How a push of several entries goes on once the first has ended. -/
def pushRest (l : List StackEnt) : Push → Push
  | .ok g s => pushAll l g s
  | other => other

theorem pushAll_cons (e : StackEnt) (l : List StackEnt) (g : Group) (s : State) : pushAll (e :: l) g s = pushRest l (pushEnt e g s) := by
  rw [pushAll]
  cases pushEnt e g s <;> rfl

theorem pushAll_room (l : List StackEnt) (g : Group) (s : State) (h : g.stack.length + l.length ≤ 32) :
    pushAll l g s = .ok { g with stack := l.reverse ++ g.stack } s := by
  induction l generalizing g with
  | nil => rfl
  | cons e l ih =>
    rw [List.length_cons] at h
    have hone : pushEnt e g s = .ok { g with stack := e :: g.stack } s := if_pos (by omega)
    rw [pushAll_cons, hone, pushRest, ih _ (by simp only [List.length_cons]; omega)]
    simp only [List.reverse_cons, List.append_assoc, List.cons_append, List.nil_append]

/-- How a push that spills ends, by the write of the chunk. -/
def spillPush (e : StackEnt) (g : Group) (old : List StackEnt) (img : List Byte) (va : Nat) : Res Unit → Push
  | .ok _ s => .ok { g with stack := e :: g.stack.take 16, spilled := (old, img) :: g.spilled } s
  | .fault f s => .fault f va s
  | .severed s => .severed s
  | .wait _ => .wait

/-- What an instruction does once its pushes have ended. -/
def pushEnd (g : Group) (k : Group → Group) (s : State) : Push → State
  | .ok g' s => setGroup (k g') s
  | .overflow => parkGroup g false 0x44 0 0 g.am.toNat (32 + 16 * (spillBytes s g / 128)) s
  | .fault f va s => groupFault g f va .write g.am s
  | .severed s => killGroup g 0x0D 0 s
  | .wait => s

theorem withPush_eq (g : Group) (l : List StackEnt) (k : Group → Group) (s : State) : withPush g l k s = pushEnd g k s (pushAll l g s) := by
  unfold withPush
  cases pushAll l g s <;> rfl

section
variable {g : Group} {s : State} {e : StackEnt} (hfull : 32 ≤ g.stack.length)
include hfull

theorem pushEnt_overflow (h : spillBytes s g / 128 ≤ g.spilled.length) : pushEnt e g s = .overflow :=
  (if_neg (by omega)).trans (if_pos h)

theorem pushEnt_spills (h : g.spilled.length < spillBytes s g / 128) :
    pushEnt e g s = spillPush e g (g.stack.drop 16) (slice (Config.stackImage ((g.stack.drop 16).map entPack)) 0 128)
      (spillVa (opBody s g.op) g g.spilled.length)
      (vaWrite g.core g.ctx (spillVa (opBody s g.op) g g.spilled.length) (slice (Config.stackImage ((g.stack.drop 16).map entPack)) 0 128) s) := by
  unfold pushEnt
  rw [if_neg (by omega)]
  refine (if_neg (by omega)).trans ?_
  dsimp only [image128]
  generalize vaWrite _ _ _ _ s = x
  cases x <;> rfl

end

/-! ### Groups that are over, and fills -/

theorem over_iff (g : Group) : g.over = true ↔ g.am = 0 ∧ g.stack = [] ∧ g.spilled = [] := by simp [Group.over, and_assoc]

theorem runDone_some {o : OpRef} {s : State} {run : ShdRun} (h : s.shdRun? o = some run) :
    runDone o s = if run.total ≤ run.next ∧ ∀ w ∈ s.shd.wgs, w.op ≠ o then shdSweep (endOp o 0 0 0 s) else s := by
  unfold runDone
  rw [h]
  exact if_congr (by simp) rfl rfl

theorem runDone_none {o : OpRef} {s : State} (h : s.shdRun? o = none) : runDone o s = s := by
  unfold runDone
  rw [h]

/-- Entries of the stack that a fill brings back. -/
def filledBack (es : List StackEnt) (img bs : List Byte) : List StackEnt :=
  if bs = img then es else (upTo 16).map fun i => match (Config.stackParse bs)[i]? with
    | some e => { path := e.1, mask := e.2.1, pc := e.2.2 }
    | none => { path := false, mask := 0, pc := 0 }

/-- A group whose stack has been filled. -/
def filledGroup (g : Group) (below : List (List StackEnt × List Byte)) (back : List StackEnt) : Group :=
  { g with stack := g.stack ++ back, spilled := below, filling := false }

/-- How a fill ends, by the read of its chunk. -/
def fillEnd (g : Group) (es : List StackEnt) (img : List Byte) (below : List (List StackEnt × List Byte)) (va : Nat) : Res (List Byte) → State
  | .ok bs u => settleGroup (if g.am = 0 then Group.joins (filledGroup g below (filledBack es img bs)).stack.length (filledGroup g below (filledBack es img bs))
      else filledGroup g below (filledBack es img bs)) u
  | .fault f u => groupFault g f va .read g.am u
  | .severed u => killGroup g 0x0D 0 u
  | .wait u => u

section
variable {core slot : Nat} {io : HostIO} {s z : State} (hz : shdSweep (applyIO io s) = z)
include hz

theorem fillDo_gone (h : z.group? core slot = none) : fillDo core slot io s = z := by
  subst hz
  unfold fillDo
  dsimp only
  rw [h]

variable {g : Group} (h : z.group? core slot = some g)
include h

theorem fillDo_idle (hi : g.spilled = [] ∨ g.filling = false ∨ g.park.isSome = true ∨ z.isPinned core = true ∨ ctxRuns z g.ctx = false) :
    fillDo core slot io s = z := by
  subst hz
  unfold fillDo
  dsimp only
  rw [h]
  dsimp only
  cases hs : g.spilled with
  | nil => rfl
  | cons c below => exact if_pos (by simpa [hs] using hi)

theorem fillDo_fills {es : List StackEnt} {img : List Byte} {below : List (List StackEnt × List Byte)} {x : Res (List Byte)}
    (hs : g.spilled = (es, img) :: below) (hi : ¬ (g.filling = false ∨ g.park.isSome = true ∨ z.isPinned core = true ∨ ctxRuns z g.ctx = false))
    (hx : vaRead g.core g.ctx (spillVa (opBody z g.op) g below.length) 128 .read z = x) :
    fillDo core slot io s = fillEnd g es img below (spillVa (opBody z g.op) g below.length) x := by
  subst hz hx
  unfold fillDo
  dsimp only
  rw [h]
  dsimp only
  rw [hs]
  refine (if_neg (by simpa using hi)).trans ?_
  generalize vaRead _ _ _ 128 _ _ = x
  cases x <;> rfl

end

/-- Settles O40: an instruction issues by `issue_issuing`, and the stack by the functions that end its pushes and fills. -/
theorem groupArithmeticAndControl : Obligations.GroupArithmeticAndControl := by
  unfold Obligations.GroupArithmeticAndControl
  refine ⟨fun r g s u dst hi => ?_, fun r g s u hi => ?_, fun g k e l s => ?_, fun g n e st hst => ?_, fun g s => ?_, fun r io s => ?_, fun r s cmd hcmd => ?_⟩
  · intro put ftz
    have issues (f : Group → State → State) : (.next (issue r f s) : Out) = .next (f g u) := congrArg _ (issue_issuing hi f)
    refine ⟨fun x y => ?_, fun x y z => ?_, fun op x => issues _, fun trunc fmt x => ?_, fun fmt sat x seed pos => ?_⟩
    · intro a b
      have int (op : IntOp) (f : Word → Word → Word) (hf : ∀ p q, intDo op p q = f p q) :
          exec (.integerArith r op dst x y) s = .next (put u fun i => f (a i) (b i)) :=
        (issues _).trans (congrArg (fun h => Host.Outcome.next (put u h)) (funext fun i => hf (a i) (b i)))
      exact ⟨int .add _ fun _ _ => rfl, int .sub _ fun _ _ => rfl, int .and _ fun _ _ => rfl, int .or _ fun _ _ => rfl, int .xor _ fun _ _ => rfl,
        int .mulLo _ fun _ _ => rfl, int .mulHiU _ intDo_mulHiU, int .mulHiS _ intDo_mulHiS, int .shl _ fun _ _ => rfl, int .shrU _ fun _ _ => rfl,
        int .shrS _ fun _ _ => rfl, int .divU _ fun _ _ => rfl, int .remU _ fun _ _ => rfl, int .divS _ fun _ _ => rfl, int .remS _ fun _ _ => rfl⟩
    · intro a b c
      exact ⟨issues _, issues _, issues _, issues _, issues _, issues _, issues _⟩
    · have conv {o : Option (Int × Int)} (ho : intFmt fmt.val = o) :
          exec (.floatToInteger r trunc fmt dst x) s = .next (toInt trunc dst.val (fmtWidth fmt.val) ftz fmt.val x g u o) :=
        (issues _).trans (congrArg Host.Outcome.next ((toIntDo_eq ..).trans (congrArg _ ho)))
      refine ⟨fun h => conv (o := none) h, fun lo hi' h => ?_⟩
      intro code
      refine ⟨fun hw => (conv h).trans (congrArg Host.Outcome.next (writeCodes_full hw)), fun hw => ?_⟩
      obtain ⟨k, hk, hlow⟩ := writeCodes_part (g := g) (dst := dst.val) (s := u)
        (fun i => toIntCode trunc ftz fmt.val lo hi' (laneSrc u g x i)) hw
      exact ⟨k, (conv h).trans (congrArg Host.Outcome.next hk), hlow⟩
    · refine ⟨fun h => (issues _).trans (congrArg Host.Outcome.next (if_neg ?_)), fun h1 h2 => ?_⟩
      · simp only [srFmt, Bool.and_eq_true, decide_eq_true_eq]
        omega
      · obtain ⟨k, hk, hlow⟩ := writeCodes_part (g := g) (dst := dst.val) (s := u) (fun i => (encodeElem fmt.val
          (some (srDraw (laneSrc u g seed i) (laneSrc u g pos i))) sat ftz (fp32Val ftz (laneSrc u g x i).toNat)).val) (fmtWidth_sr h1 h2)
        refine ⟨k, (issues _).trans (congrArg Host.Outcome.next ((if_pos ?_).trans hk)), hlow⟩
        simp [srFmt, h1, h2]
  · have issues (f : Group → State → State) : (.next (issue r f s) : Out) = .next (f g u) := congrArg _ (issue_issuing hi f)
    refine ⟨fun cond target rpc => ?_, fun h => (issues _).trans (congrArg _ (if_pos h)), fun h => (issues _).trans (congrArg _ (if_neg h)),
      fun e st h hp => (issues _).trans (congrArg _ (yieldDo_path h hp)), fun h => (issues _).trans (congrArg _ (yieldDo_other h)), fun mask => ?_⟩
    · intro c taken rest path here goes
      have hbr {t : State} (ht : branchDo cond target rpc g u = t) : exec (.shdBranch r cond target rpc) s = .next t :=
        (issues _).trans (congrArg _ ht)
      have heq := branchDo_eq cond target rpc g u
      have htop : here ↔ ¬ freshTop rpc g.stack = true := (freshTop_iff rpc g.stack).symm.trans (by simp)
      refine ⟨fun h => hbr (heq.trans (if_pos h)), fun h h' => hbr (heq.trans ((if_neg h).trans (if_pos h'))),
        fun h h' hh => hbr (heq.trans ((if_neg h).trans ((if_neg h').trans ?_))), fun h h' hh => hbr (heq.trans ((if_neg h).trans ((if_neg h').trans ?_)))⟩
      · rw [if_neg (htop.mp hh)]
      · rw [if_pos (not_not.mp fun hn => hh (htop.mpr hn))]
    · intro left
      have hex {h : Group} (hh : g.exits mask = h) : exec (.exitLanes r mask) s = .next (settleGroup h u) :=
        (issues _).trans (congrArg (fun h => Host.Outcome.next (settleGroup h u)) hh)
      exact ⟨fun h => hex (if_neg h), fun h => hex (if_pos h)⟩
  · intro room n old img va wrote
    refine ⟨rfl, fun h => ?_, fun hfull => ⟨fun h => ?_, fun h => ?_⟩⟩
    · rw [withPush_eq, pushAll_room _ _ _ (by simpa [Nat.add_comm, Nat.add_left_comm] using h)]
      rfl
    · rw [withPush_eq, pushAll_cons, pushEnt_overflow hfull h]
      rfl
    · have push {x : Res Unit} (hx : wrote = x) : withPush g (e :: l) k s = pushEnd g k s (pushRest l (spillPush e g old img va x)) := by
        rw [withPush_eq, pushAll_cons, pushEnt_spills hfull h]
        exact congrArg (fun x => pushEnd g k s (pushRest l (spillPush e g old img va x))) hx
      refine ⟨fun u hu hl => (push hu).trans ?_, fun f u hu => push hu, fun u hu => push hu, fun u hu => push hu⟩
      have hroom := pushAll_room l { g with stack := e :: g.stack.take 16, spilled := (old, img) :: g.spilled } u
        (by simp only [List.length_cons, List.length_take]; omega)
      exact congrArg (pushEnd g k s) hroom
  · intro h
    have heq := joins_cons n hst
    refine ⟨fun h1 h2 => heq.trans (if_pos ⟨h1, h2⟩), fun h1 => heq.trans (if_neg fun h2 => ?_)⟩
    exact h1.elim (fun h1 => h1 h2.1) h2.2
  · intro z done gone last
    have hover : g.over = true ↔ done := over_iff g
    refine ⟨fun h => (if_neg fun ho => h (hover.mp ho)), fun h hr => (if_pos (hover.mpr h)).trans (if_pos hr), fun h hr => ?_⟩
    intro left u
    refine ⟨(if_pos (hover.mpr h)).trans ((if_neg (not_not.mpr hr)).trans ?_), fun run hrun => runDone_some hrun, fun hrun => runDone_none hrun⟩
    exact congrArg (fun v => runDone g.op (syncUnits g.op v)) (if_congr List.isEmpty_iff rfl rfl)
  · intro z ends
    have hz : shdSweep (applyIO io s) = z := rfl
    clear_value z
    refine ⟨fun h => congrArg Host.Outcome.next (fillDo_gone hz h), fun g hg => ⟨fun h => congrArg Host.Outcome.next (fillDo_idle hz hg h),
      fun es img below hs h1 h2 h3 h4 => ?_⟩⟩
    intro va read
    have fill {x : Res (List Byte)} (hx : read = x) : ends (fillEnd g es img below va x) :=
      congrArg Host.Outcome.next (fillDo_fills hz hg hs (by simp [h1, h2, h3, h4]) hx)
    exact ⟨fun bs u hx => fill (x := .ok bs u) hx, fun f u hx => fill (x := .fault f u) hx, fun u hx => fill (x := .severed u) hx,
      fun u hx => fill (x := .wait u) hx⟩
  · intro z
    obtain ⟨f, hf⟩ : ∃ f, exec cmd s = .next (issue r f s) := by
      rcases hcmd with ⟨_, _, _, _, rfl⟩ | ⟨_, _, _, _, _, rfl⟩ | ⟨_, _, _, rfl⟩ | ⟨_, _, _, _, rfl⟩ | ⟨_, _, _, _, _, _, rfl⟩ | ⟨_, _, _, rfl⟩ |
        rfl | rfl | ⟨_, rfl⟩ | ⟨_, _, _, _, rfl⟩ | ⟨_, _, _, rfl⟩ | ⟨_, _, _, _, _, rfl⟩ | ⟨_, _, _, _, _, rfl⟩ | ⟨_, _, _, _, _, _, _, _, rfl⟩ |
        rfl | rfl | rfl | rfl | ⟨_, rfl⟩ | ⟨_, rfl⟩ <;> exact ⟨_, rfl⟩
    rw [hf]
    refine ⟨fun h => congrArg Host.Outcome.next (issue_gone h), fun g hg => ?_⟩
    intro fetch
    refine ⟨fun h => congrArg Host.Outcome.next (issue_held hg h), fun hc => ⟨fun e u hx => ?_, fun u hx => ?_, fun u hx => ?_⟩⟩
    · exact congrArg Host.Outcome.next (issue_fetched (x := .fault e u) hg hc hx)
    · exact congrArg Host.Outcome.next (issue_fetched (x := .severed u) hg hc hx)
    · exact congrArg Host.Outcome.next (issue_fetched (x := .wait u) hg hc hx)

end Sys2Proof.Machine
end

section
/-! Shuffles, votes, memory and fences of a thread group (R247 to R252, R256). -/

namespace Sys2Proof.Machine

open Sys2Proof

/-! ### Masks of lanes -/

theorem getLsbD_foldl_mask (l : List Nat) (m : Word) {i : Nat} (hi : i < 32) :
    (l.foldl (fun (m : Word) i => m ||| ((1 <<< i : Nat) : Word)) m).getLsbD i = (m.getLsbD i || decide (i ∈ l)) := by
  induction l generalizing m with
  | nil => simp
  | cons j l ih =>
    have hone : ((1 <<< j : Nat) : Word).getLsbD i = decide (i = j) := by
      rw [BitVec.natCast_eq_ofNat, BitVec.getLsbD_ofNat, decide_eq_true hi, Bool.true_and, Nat.one_shiftLeft, Nat.testBit_two_pow]
      exact decide_eq_decide.mpr eq_comm
    rw [List.foldl_cons, ih, BitVec.getLsbD_or, hone, Bool.or_assoc, ← Bool.decide_or]
    exact congrArg _ (decide_eq_decide.mpr List.mem_cons.symm)

theorem getLsbD_maskOf (l : List Nat) {i : Nat} (hi : i < 32) : (maskOf l).getLsbD i = decide (i ∈ l) := by
  rw [maskOf, getLsbD_foldl_mask l 0 hi]
  simp

theorem mem_lanesOf (m : Word) (i : Nat) : i ∈ lanesOf m ↔ i < 32 ∧ m.getLsbD i = true := by simp [lanesOf, upTo]

theorem maskOf_lanesOf (m : Word) : maskOf (lanesOf m) = m := by
  refine BitVec.eq_of_getLsbD_eq fun i hi => ?_
  rw [getLsbD_maskOf _ hi, Bool.eq_iff_iff, decide_eq_true_iff, mem_lanesOf]
  simp [hi]

theorem maskOf_eq_zero {l : List Nat} (h : ∀ i ∈ l, i < 32) : maskOf l = 0 ↔ l = [] := by
  constructor
  · intro hz
    refine List.eq_nil_iff_forall_not_mem.mpr fun i hi => ?_
    have hbit := getLsbD_maskOf l (h i hi)
    rw [hz, decide_eq_true hi] at hbit
    simp at hbit
  · rintro rfl
    rfl

theorem maskOf_filter_all {m : Word} {p : Nat → Bool} : maskOf ((lanesOf m).filter p) = m ↔ (lanesOf m).filter p = lanesOf m := by
  constructor
  · intro h
    refine List.filter_eq_self.mpr fun i hi => ?_
    obtain ⟨hlt, hbit⟩ := (mem_lanesOf m i).mp hi
    have hmask := getLsbD_maskOf ((lanesOf m).filter p) hlt
    rw [h, hbit] at hmask
    exact (List.mem_filter.mp (of_decide_eq_true hmask.symm)).2
  · intro h
    rw [h, maskOf_lanesOf]

theorem filter_lanesOf (m : Word) (p : Nat → Bool) : (lanesOf m).filter p = (upTo 32).filter fun i => m.getLsbD i && p i := by
  rw [lanesOf, List.filter_filter]
  exact List.filter_congr fun i _ => Bool.and_comm _ _

/-! ### Shuffles -/

section
variable {s : State} {g : Group} {d w : Nat} (hd : d < w) (i : Nat)
include hd

theorem shuffleLane_up : shuffleLane s g (.up d) w i = if d ≤ i % w then i - d else i := by
  have hi : i / w * w + i % w = i := Nat.div_add_mod' i w
  exact if_congr (by omega) rfl rfl

theorem shuffleLane_down : shuffleLane s g (.down d) w i = if i % w + d < w then i + d else i := by
  have hi : i / w * w + i % w = i := Nat.div_add_mod' i w
  exact if_congr (by omega) rfl rfl

end

/-! ### Alignment and translation -/

/-- How the lanes' accesses go on once they have been checked. -/
def checkedEnd (g : Group) (acc : Access) (k : List LaneAcc → State → State) : Checked → State
  | .ok l s => k l s
  | .fault f va m s => groupFault g f va acc m s
  | .severed s => killGroup g 0x0D 0 s
  | .wait s => s

section
variable {g : Group} {acc : Access} {size : Nat} {lo hi : Src} {k : List LaneAcc → State → State} {s : State}

theorem withLanes_odd {a : Nat × Nat} {rest : List (Nat × Nat)} (h : (activeAddrs s g acc lo hi).filter (fun a => a.2 % size ≠ 0) = a :: rest) :
    withLanes g acc size lo hi k s = parkGroup g false 0x40 a.2 0 g.am.toNat (maskOf ((a :: rest).map (·.1))).toNat s := by
  unfold withLanes
  dsimp only
  rw [h]

theorem withLanes_even {x : Checked} (h : (activeAddrs s g acc lo hi).filter (fun a => a.2 % size ≠ 0) = [])
    (hx : checkLanes g acc (activeAddrs s g acc lo hi) s = x) : withLanes g acc size lo hi k s = checkedEnd g acc k x := by
  subst hx
  unfold withLanes
  dsimp only
  rw [h]
  generalize checkLanes g acc (activeAddrs s g acc lo hi) s = x
  cases x <;> rfl

/-! ### Shared memory -/

variable {lanes : List Nat} (hlanes : accLanes g acc = lanes)
include hlanes

theorem withShared_odd (h : ¬ ∀ i ∈ lanes, (laneSrc s g lo i).toNat % size = 0) :
    withShared g acc size lo k s =
      (let odd := lanes.filter fun i => (laneSrc s g lo i).toNat % size ≠ 0
       parkGroup g false 0x40 (laneSrc s g lo (odd.headD 0)).toNat 0 g.am.toNat (maskOf odd).toNat s) := by
  subst hlanes
  unfold withShared
  dsimp only
  cases ho : (accLanes g acc).filter fun i => (laneSrc s g lo i).toNat % size ≠ 0 with
  | nil => exact absurd (fun i hi => by simpa using List.filter_eq_nil_iff.mp ho i hi) h
  | cons i rest => rfl

theorem withShared_served {l : List LaneAcc} (hl : sharedLanes s g acc size lo = l) (h : ∀ i ∈ lanes, (laneSrc s g lo i).toNat % size = 0)
    (hs : ∀ a ∈ l, reach s g.ctx a.attr a.pa (decide (acc ≠ .read)) = .served) :
    withShared g acc size lo k s = k l s := by
  subst hlanes hl
  have hodd : (accLanes g acc).filter (fun i => (laneSrc s g lo i).toNat % size ≠ 0) = [] :=
    List.filter_eq_nil_iff.mpr fun i hi => by simpa using h i hi
  unfold withShared
  dsimp only
  rw [hodd]
  dsimp only
  rw [List.findSome?_eq_none_iff.mpr fun a ha => by rw [hs a ha]]

end

/-! ### Loads, atomics and responses -/

/-- What a load from shared memory does with what its lanes have read. -/
def sharedLoadEnd (g : Group) (dst size : Nat) (l : List LaneAcc) (s : State) : Acc LoadWait → State
  | .ok w t => beginLoad g { w with vas := [], writes := w.writes ++ (sharedMisses g dst size l t).1 } (sharedMisses g dst size l t).2
  | _ => s

theorem loadDo_shared (dst size : Nat) (lo hi : Src) (g : Group) (s : State) :
    loadDo .shared dst lo hi size g s = withShared g .read size lo (fun l s => sharedLoadEnd g dst size l s (loadLanes g dst size l s)) s := by
  unfold loadDo
  refine congrArg (fun k => withShared g .read size lo k s) (funext fun l => funext fun s => ?_)
  cases loadLanes g dst size l s <;> rfl

/-- What an atomic does with the lanes whose target takes none. -/
def atomicBad (g : Group) (op : AtomOp) (ty : AtomType) (ret : Option Nat) (x c : Nat) (l : List LaneAcc) (s : State) : List LaneAcc → State
  | a :: rest => parkGroup g false 0x45 a.va 0 g.am.toNat (maskOf ((a :: rest).map (·.lane))).toNat s
  | [] => atomEnd g op ty ret x c l (l.map (·.va)) s

/-- The lanes of an atomic whose target takes none: host memory and compressed pages. -/
def noAtomics (s : State) (l : List LaneAcc) : List LaneAcc :=
  l.filter fun a => match target s a.pa with
    | .host _ => true
    | .pkg _ _ => a.attr.fbc
    | _ => false

theorem atomicDo_va (op : AtomOp) (ty : AtomType) (ret : Option Nat) (lo hi : Src) (x c : Nat) (g : Group) (s : State) :
    atomicDo .va op ty ret lo hi x c g s =
      withLanes g .atomic (atomSize ty) lo hi (fun l s => atomicBad g op ty ret x c l s (noAtomics s l)) s := by
  unfold atomicDo
  refine congrArg (fun k => withLanes g .atomic (atomSize ty) lo hi k s) (funext fun l => funext fun s => ?_)
  dsimp only
  split
  case h_1 a rest hbad =>
    rw [show noAtomics s l = a :: rest from hbad, atomicBad, hbad]
  case h_2 hbad => rw [show noAtomics s l = [] from hbad, atomicBad]

theorem atomicDo_shared (op : AtomOp) (ty : AtomType) (ret : Option Nat) (lo hi : Src) (x c : Nat) (g : Group) (s : State) :
    atomicDo .shared op ty ret lo hi x c g s = withShared g .atomic (atomSize ty) lo (fun l s => atomEnd g op ty ret x c l [] s) s := rfl

/-- The least and the greatest of two values, by a comparison. -/
theorem ite_lt_min {α : Type} [LinearOrder α] (a b : α) : (if b < a then b else a) = min a b := by
  rw [min_comm, min_def_lt]

theorem ite_lt_max {α : Type} [LinearOrder α] (a b : α) : (if a < b then b else a) = max a b := (max_def_lt a b).symm

theorem storeOrder_nodup {l : List LaneAcc} {s : State} (h : (l.map (·.pa)).Nodup) : storeOrder l s = (l, s) :=
  if_neg (by simp [overlapping, h])

theorem signedOf_ite (n : Nat) {a b : Nat} (c : Prop) [Decidable c] : signedOf n (if c then a else b) = if c then signedOf n a else signedOf n b :=
  apply_ite (signedOf n) c a b

/-- What a response does with the load that its group waits for. -/
def responseEnd (g : Group) (core : Nat) (err : Bool) (z : State) : Option LoadWait → State
  | none => z
  | some w =>
    if g.park.isSome = true ∨ z.isPinned core = true ∨ (!ctxRuns z g.ctx) = true then z
    else if err = true ∧ w.host ≠ 0 then
      groupFault { g with load := none } { code := .hostError, level := 0xFF, pa := w.pa, key := 0, bar := false, va := none } w.va .read w.host
        (setGroup { g with load := none } z)
    else l1Take core w.lines (setGroup { g with
      load := none, pc := g.pc + 1, regs := w.writes.foldl (fun t e => tblSet 0 t (e.2.1 * 32 + e.1) (1 + e.2.2.toNat)) g.regs } z)

section
variable {core slot : Nat} {err : Bool} {s z : State} (hz : shdSweep s = z)
include hz

theorem responseDo_gone (h : z.group? core slot = none) : responseDo core slot err s = z := by
  subst hz
  unfold responseDo
  dsimp only
  rw [h]

theorem responseDo_load {g : Group} {o : Option LoadWait} (h : z.group? core slot = some g) (ho : g.load = o) :
    responseDo core slot err s = responseEnd g core err z o := by
  subst hz ho
  unfold responseDo
  dsimp only
  rw [h]
  dsimp only
  cases g.load <;> rfl

end

/-- Settles O41: an instruction issues by `issue_issuing`, and its lanes are checked by `withLanes` and `withShared`. -/
theorem groupData : Obligations.GroupData := by
  unfold Obligations.GroupData
  refine ⟨fun r g s u dst src hi => ?_, fun g op ty ret x c l vas s => ?_, fun ftz old x c _ _ => ?_, fun r err s => ?_⟩
  · intro reg next
    have issues (f : Group → State → State) : (.next (issue r f s) : Out) = .next (f g u) := congrArg _ (issue_issuing hi f)
    have lanes {f h : Nat → Word} (hf : ∀ i, f i = h i) : (.next (writeLanes g dst.val f u) : Out) = .next (writeLanes g dst.val h u) :=
      congrArg (fun f => Host.Outcome.next (writeLanes g dst.val f u)) (funext hf)
    refine ⟨fun w hw h32 => ⟨fun x => issues _, fun d hd => (issues _).trans (lanes fun i => ?_), fun d hd => (issues _).trans (lanes fun i => ?_),
      fun m => issues _⟩, fun x => ?_, issues _, issues _, issues _, fun lo hi size => ?_⟩
    · exact (congrArg (laneReg u g src.val) (shuffleLane_up hd i)).trans (apply_ite reg ..)
    · exact (congrArg (laneReg u g src.val) (shuffleLane_down hd i)).trans (apply_ite reg ..)
    · intro holds
      have hholds : (lanesOf g.am).filter (fun i => decide (laneSrc u g x i ≠ 0)) = holds := filter_lanesOf ..
      have hlt : ∀ i ∈ holds, i < 32 := fun i hi => List.mem_range.mp (List.mem_filter.mp hi).1
      have vote {k : VoteKind} {v : Word} (hv : voteDo k g.am (maskOf holds) = v) :
          exec (.shdVote r k dst x) s = .next (writeLanes g dst.val (fun _ => v) u) := by
        refine (issues _).trans (lanes fun _ => ?_)
        rw [hholds]
        exact hv
      refine ⟨vote (if_congr (maskOf_eq_zero hlt) rfl rfl), vote (if_congr ?_ rfl rfl), vote rfl⟩
      rw [← hholds]
      exact maskOf_filter_all
    · intro addrs odd reads writes parks
      refine ⟨fun a rest h => (issues _).trans (congrArg _ (withLanes_odd h)), fun a rest h => (issues _).trans (congrArg _ (withLanes_odd h)),
        fun h => ?_, fun h => ?_, fun op ty x c ret => ?_, ?_⟩
      · intro check
        have load {y : Checked} (hy : check = y) : exec (.memoryLoad r .va dst lo hi size) s = .next (checkedEnd g .read
            (fun l v => waitLoad g (loadLanes g dst.val size l (hostQuiet v)) (hostQuiet v)) y) :=
          (issues _).trans (congrArg _ (withLanes_even h hy))
        refine ⟨fun f va m v hc => load (y := .fault f va m v) hc, fun v hc => load (y := .severed v) hc, fun v hc => load (y := .wait v) hc,
          fun l v hc => ?_⟩
        intro q
        have loaded {y : Acc LoadWait} (hy : loadLanes g dst.val size l q = y) : exec (.memoryLoad r .va dst lo hi size) s = .next (waitLoad g y q) :=
          (load (y := .ok l v) hc).trans (congrArg (fun y => Host.Outcome.next (waitLoad g y q)) hy)
        exact ⟨fun w t hw => loaded (y := .ok w t) hw, fun hw => loaded (y := .severed) hw, fun hw => loaded (y := .wait) hw⟩
      · intro check
        have store {y : Checked} (hy : check = y) : exec (.memoryStore r .va src lo hi size) s = .next (checkedEnd g .write
            (storeLanes g src.val size) y) := (issues _).trans (congrArg _ (withLanes_even h hy))
        exact ⟨fun f va m v hc => store (y := .fault f va m v) hc, fun v hc => store (y := .severed v) hc, fun v hc => store (y := .wait v) hc,
          fun l v hc => store (y := .ok l v) hc⟩
      · intro n cmd
        generalize hback : ret.map (·.val) = back
        have atom : exec cmd s = .next (withLanes g .atomic n lo hi (fun l s => atomicBad g op ty back x.val c.val l s (noAtomics s l)) u) := by
          subst hback
          exact (issues _).trans (congrArg _ (atomicDo_va ..))
        refine ⟨fun a rest h => atom.trans (congrArg _ (withLanes_odd h)), fun h => ?_⟩
        intro check
        have checked {y : Checked} (hy : check = y) : exec cmd s = .next (checkedEnd g .atomic
            (fun l s => atomicBad g op ty back x.val c.val l s (noAtomics s l)) y) := atom.trans (congrArg _ (withLanes_even h hy))
        refine ⟨fun f va m v hc => checked (y := .fault f va m v) hc, fun v hc => checked (y := .severed v) hc, fun v hc => checked (y := .wait v) hc,
          fun l v hc => ?_⟩
        intro bad
        have hnone : noAtomics v l = bad := rfl
        have hbad {y : List LaneAcc} (hy : bad = y) : exec cmd s = .next (atomicBad g op ty back x.val c.val l v y) :=
          (checked (y := .ok l v) hc).trans (congrArg (fun y => Host.Outcome.next (atomicBad g op ty back x.val c.val l v y)) (hnone.trans hy))
        exact ⟨fun a rest ha => hbad (y := a :: rest) ha, fun ha => hbad (y := []) ha⟩
      · intro shared served aligned all acting
        have hread : accLanes g .read = all := rfl
        have hwrite : accLanes g .write = acting := rfl
        have hatomic : accLanes g .atomic = acting := rfl
        have hsread : sharedLanes u g .read size lo = shared size all := rfl
        have hswrite : sharedLanes u g .write size lo = shared size acting := rfl
        have hsatomic (n : Nat) : sharedLanes u g .atomic n lo = shared n acting := rfl
        have load : exec (.memoryLoad r .shared dst lo hi size) s = .next (withShared g .read size lo
            (fun l s => sharedLoadEnd g dst.val size l s (loadLanes g dst.val size l s)) u) := (issues _).trans (congrArg _ (loadDo_shared ..))
        refine ⟨fun ha hs w t hw => ?_, fun ha hs => (issues _).trans (congrArg _ (withShared_served hwrite hswrite ha hs)), fun op ty x c ret ha hs => ?_,
          fun ha => load.trans (congrArg _ (withShared_odd hread ha)), fun ha => (issues _).trans (congrArg _ (withShared_odd hwrite ha))⟩
        · intro more
          refine load.trans ((congrArg _ (withShared_served hread hsread ha hs)).trans ?_)
          exact congrArg (fun y => Host.Outcome.next (sharedLoadEnd g dst.val size (shared size all) u y)) hw
        · exact (issues _).trans (congrArg _ ((atomicDo_shared ..).trans (withShared_served hatomic (hsatomic _) ha hs)))
  · intro n made
    refine ⟨?_, ?_, storeOrder_nodup⟩
    · rintro rfl
      rfl
    · rintro d rfl
      rfl
  · refine ⟨rfl, ?_, ?_, rfl, rfl, rfl, rfl, rfl, ?_, ?_⟩
    · exact (if_congr decide_eq_true_iff rfl rfl).trans (ite_lt_min old x)
    · exact (if_congr decide_eq_true_iff rfl rfl).trans (ite_lt_max old x)
    · have hmin : atomApply ftz .min .int32 old x c = if signedOf 4 x < signedOf 4 old then x else old := if_congr decide_eq_true_iff rfl rfl
      rw [hmin, signedOf_ite, ite_lt_min]
    · have hmax : atomApply ftz .max .int32 old x c = if signedOf 4 old < signedOf 4 x then x else old := if_congr decide_eq_true_iff rfl rfl
      rw [hmax, signedOf_ite, ite_lt_max]
  · intro z ends
    have hz : shdSweep s = z := rfl
    clear_value z
    have done {t : State} (ht : responseDo r.core.val r.slot.val err s = t) : ends t := congrArg (fun t => Host.Outcome.next (metaLog t)) ht
    refine ⟨fun h => done (responseDo_gone hz h), fun g hg => ⟨fun h => done ?_, fun w hw h1 h2 h3 => ?_⟩⟩
    · cases hw : g.load with
      | none => exact responseDo_load hz hg hw
      | some w => exact (responseDo_load hz hg hw).trans (if_pos (by simpa [hw] using h))
    · have hidle : ¬ (g.park.isSome = true ∨ z.isPinned r.core.val = true ∨ (!ctxRuns z g.ctx) = true) := by simp [h1, h2, h3]
      have hend := (responseDo_load (err := err) hz hg hw).trans (if_neg hidle)
      refine ⟨fun h => done (hend.trans (if_neg ?_)), fun he hh => done (hend.trans (if_pos ⟨he, hh⟩))⟩
      rintro ⟨he, hh⟩
      rcases h with h | h
      · rw [h] at he
        cases he
      · exact hh h

end Sys2Proof.Machine
end

section
/-! Dispatches: their checks, their start and the places of their workgroups (R233 to R239). -/

namespace Sys2Proof.Machine

open Sys2Proof

/-! ### The checks and the reads of a dispatch -/

theorem withOp_other {o : OpRef} {opcode : Nat} {f : Entry → Op → State → State} {s : State} {e : Entry} {p : Op} (h : s.op? o = some (e, p))
    (hp : p.phase ≠ .running ∨ p.opcode ≠ opcode ∨ p.ending ≠ none) : withOp o opcode f s = s := by
  simp only [withOp, h]
  exact if_pos (hp.imp_right (Or.imp_right Option.isSome_iff_ne_none.mpr))

theorem dispatchCheck_shape {b : List Byte} {indirect : Bool}
    (h : (!indirect && gridBad (fld b 32 4) (fld b 36 4) (fld b 40 4)) = true ∨ wgThreads b = 0 ∨ 1024 < wgThreads b) :
    dispatchCheck b indirect = some 0x48 := if_pos h

theorem gridBad_iff (x y z : Nat) : gridBad x y z = true ↔ x = 0 ∨ y = 0 ∨ 65535 < y ∨ z = 0 ∨ 65535 < z := by simp [gridBad, or_assoc]

/-- How a read of the front end for a dispatch ends. -/
def readEnd (o : OpRef) (ctx : Nat) (k : List Byte → State → State) : Res (List Byte) → State
  | .ok bs s => k bs s
  | .fault f s => endOp o 0x07 (feFault f ctx s).1 0 (feFault f ctx s).2
  | .severed s => endOp o 0x0D 0 0 s
  | .wait s => s

theorem dispatchRead_eq (o : OpRef) (ctx va n : Nat) (k : List Byte → State → State) (s : State) :
    dispatchRead o ctx va n k s = readEnd o ctx k (feRead ctx va n s) := by
  unfold dispatchRead
  cases feRead ctx va n s <;> rfl

/-- An indirect dispatch has read its grid. -/
def gridRead (o : OpRef) (ctx : Nat) (hdr g : List Byte) (s : State) : State :=
  if fld g 0 4 = 0 ∨ fld g 4 4 = 0 ∨ fld g 8 4 = 0 then endOp o 0 0 0 s
  else if gridBad (fld g 0 4) (fld g 4 4) (fld g 8 4) = true then endOp o 0x0B 0x48 0 s
  else startDispatch o ctx hdr (fld g 0 4) (fld g 4 4) (fld g 8 4) s

/-- A dispatch has read its code's header, and its code is enough. -/
def headerRead (indirect : Bool) (o : OpRef) (ctx : Nat) (b hdr : List Byte) (s : State) : State :=
  if indirect = true then readEnd o ctx (gridRead o ctx hdr) (feRead ctx (fld b 72 8) 12 s)
  else startDispatch o ctx hdr (fld b 32 4) (fld b 36 4) (fld b 40 4) s

/-- A dispatch whose record has no reserved field set. -/
def shdChecked (indirect : Bool) (o : OpRef) (ctx : Nat) (b : List Byte) (s : State) : Option Nat → State
  | some d => endOp o 0x0B d 0 s
  | none => dispatchRead o ctx (fld b 16 8) 64 (fun hdr s =>
      if (!(Config.codeHeader hdr).1) = true ∨ fld b 50 1 < (Config.codeHeader hdr).2.1 ∨ fld b 52 4 < (Config.codeHeader hdr).2.2 then
        endOp o 0x0B 0x4A 0 s
      else headerRead indirect o ctx b hdr s) s

theorem shdStart_eq {indirect : Bool} {o : OpRef} {e : Entry} {p : Op} {s : State} (h : s.shdRun? o = none) :
    shdStart indirect o e p s =
      if zeros p.body 80 16 = false ∨ (indirect = false ∧ fld p.body 72 8 ≠ 0) then endOp o 0x01 0 0 s
      else shdChecked indirect o e.ctx p.body s (dispatchCheck p.body indirect) := by
  unfold shdStart
  dsimp only
  rw [h]
  refine (if_neg (by simp)).trans (if_congr (by simp) rfl ?_)
  cases dispatchCheck p.body indirect with
  | some d => rfl
  | none =>
    refine congrArg (fun k => dispatchRead o e.ctx (fld p.body 16 8) 64 k s) (funext fun hdr => funext fun u => ?_)
    refine if_congr Iff.rfl rfl (if_congr Iff.rfl ?_ rfl)
    exact dispatchRead_eq ..

theorem shdStart_runs {indirect : Bool} {o : OpRef} {e : Entry} {p : Op} {s : State} (h : s.shdRun? o ≠ none) : shdStart indirect o e p s = s :=
  if_pos (Option.isSome_iff_ne_none.mpr h)

theorem shdRun?_applyIO (io : HostIO) (s : State) (o : OpRef) : (applyIO io s).shdRun? o = s.shdRun? o := by
  obtain ⟨m, hm⟩ := applyIO_onlyMem io s
  rw [hm]
  rfl

theorem ctxRuns_applyIO (io : HostIO) (s : State) (n : Nat) : ctxRuns (applyIO io s) n = ctxRuns s n := by
  obtain ⟨m, hm⟩ := applyIO_onlyMem io s
  rw [hm]
  rfl

/-! ### Places -/

theorem placeDo_compute {o : OpRef} {s : State} (h : s.pass? o = none ∨ s.op? o = none) : placeDo o s = placeWorkgroup o s := by
  unfold placeDo
  rcases h with h | h
  · rw [h]
  · rw [h]
    cases s.pass? o <;> rfl

/-- A workgroup of a dispatch is resident on core `k`. -/
def wgPlaced (o : OpRef) (r : ShdRun) (b : List Byte) (n gran k base : Nat) (y : State) : State :=
  let lanes (i : Nat) : Word := maskOf ((upTo 32).filter fun l => i * 32 + l < wgThreads b)
  let groups : List Group := (upTo n).map fun i =>
    { core := k, slot := (freeSlots y k n).getD i 0, op := o, ctx := r.ctx, role := .compute, code := fld b 16 8, header := r.header, const := fld b 24 8
      helper := 0, wg := r.next, idx := i, gran, am := lanes i, em := ~~~(lanes i), pc := 0, stack := [], spilled := [], inputs := [], regs := []
      placed := y.time, idle := 0, waiting := false, filling := false, load := none, park := none }
  syncUnits o { y with shd := { y.shd with
    runs := mapIf (fun q => q.op = o) (fun _ => { r with
      next := r.next + 1, stopping := false, cores := if r.cores.contains k then r.cores else r.cores ++ [k] }) y.shd.runs
    wgs := y.shd.wgs ++ [{ op := o, wg := r.next, core := k, arrived := 0, base, size := fld b 52 4 / 1024, ctx := r.ctx }]
    groups := y.shd.groups ++ groups } }

/-- What a dispatch does with the core that takes its next workgroup. -/
def placedOn (o : OpRef) (r : ShdRun) (b : List Byte) (n gran : Nat) (z : State) : Option (Nat × Nat) → State
  | none => z
  | some (k, base) => wgPlaced o r b n gran k base (if r.cores.contains k then z else l1Drop k r.ctx z)

section
variable {o : OpRef} {s z : State} (hz : shdSweep s = z)
include hz

theorem placeWorkgroup_gone (h : z.op? o = none ∨ z.shdRun? o = none) : placeWorkgroup o s = z := by
  subst hz
  unfold placeWorkgroup
  dsimp only
  rcases h with h | h
  · rw [h]
    cases (shdSweep s).shdRun? o <;> rfl
  · rw [h]

theorem placeWorkgroup_run {e : Entry} {p : Op} {r : ShdRun} (hop : z.op? o = some (e, p)) (hr : z.shdRun? o = some r) :
    placeWorkgroup o s =
      if r.total ≤ r.next ∨ (r.stopping = true ∧ (∃ w ∈ z.shd.wgs, w.op = o)) ∨ (¬ (∃ w ∈ z.shd.wgs, w.op = o) ∧ yields z o = true) ∨
          ctxRuns z r.ctx = false then z
      else placedOn o r p.body ((wgThreads p.body + 31) / 32) ((fld p.body 50 1 + 7) / 8) z
        (placeCore z p.emask r.ctx ((wgThreads p.body + 31) / 32) ((fld p.body 50 1 + 7) / 8) (fld p.body 52 4 / 1024)) := by
  subst hz
  unfold placeWorkgroup
  dsimp only
  rw [hop, hr]
  refine if_congr (by simp) rfl ?_
  dsimp only [wgGroupCount]
  cases placeCore (shdSweep s) p.emask r.ctx _ _ _ <;> rfl

end

/-- Settles O42: `shdStart_eq` for the checks and `placeWorkgroup_run` for the places. -/
theorem dispatchesStart : Obligations.DispatchesStart := by
  unfold Obligations.DispatchesStart
  refine ⟨fun o io s e p hop hp hen hc hrun => ?_, fun o io s e p hop => ?_, fun b => ?_, fun o s h => ?_⟩
  · intro s0 b start lacks unread header
    have hrun' : s0.shdRun? o = none := (shdRun?_applyIO io s o).trans hrun
    have hop' : s0.op? o = some (e, p) := (op?_applyIO io s o).trans hop
    have hc' : ctxRuns s0 e.ctx = true := (ctxRuns_applyIO io s e.ctx).trans hc
    have starts {opcode : Nat} (indirect : Bool) (ho : p.opcode = opcode) : withOp o opcode (shdStart indirect o) s0 =
        if zeros b 80 16 = false ∨ (indirect = false ∧ fld b 72 8 ≠ 0) then endOp o 0x01 0 0 s0
        else shdChecked indirect o e.ctx b s0 (dispatchCheck b indirect) :=
      (withOp_running hop' hp hen ho).trans ((if_pos hc').trans (shdStart_eq hrun'))
    have unreads {cmd : Instr} {k : List Byte → State → State} {read : Res (List Byte)} (hk : exec cmd s = .next (readEnd o e.ctx k read)) :
        unread cmd read := by
      refine ⟨fun f u h => ?_, fun u h => ?_, fun u h => ?_⟩ <;> (rw [hk, h]; rfl)
    have hlacks (hdr : List Byte) : lacks hdr ↔
        ((!(Config.codeHeader hdr).1) = true ∨ fld b 50 1 < (Config.codeHeader hdr).2.1 ∨ fld b 52 4 < (Config.codeHeader hdr).2.2) :=
      or_congr (by simp) Iff.rfl
    refine ⟨fun ho => ⟨fun h => congrArg Host.Outcome.next ((starts false ho).trans (if_pos (h.imp_right fun h => ⟨rfl, h⟩))), fun h1 h2 => ?_⟩,
      fun ho => ⟨fun h => congrArg Host.Outcome.next ((starts true ho).trans (if_pos (.inl h))), fun h1 => ?_⟩⟩
    · have checked {x : Option Nat} (hx : dispatchCheck b false = x) : exec (.shdDispatch o io) s = .next (shdChecked false o e.ctx b s0 x) :=
        congrArg Host.Outcome.next ((starts false ho).trans ((if_neg (by simp [h1, h2])).trans (congrArg _ hx)))
      refine ⟨fun d hd => checked hd, fun hd => ?_⟩
      have read := (checked hd).trans (congrArg Host.Outcome.next (dispatchRead_eq ..))
      refine ⟨unreads read, fun hdr u hu => ?_⟩
      have done := read.trans (congrArg (fun r => Host.Outcome.next (readEnd o e.ctx _ r)) hu)
      exact ⟨fun hl => done.trans (congrArg Host.Outcome.next (if_pos ((hlacks hdr).mp hl))),
        fun hl => done.trans (congrArg Host.Outcome.next (if_neg ((hlacks hdr).not.mp hl)))⟩
    · have checked {x : Option Nat} (hx : dispatchCheck b true = x) : exec (.shdDispatchIndirect o io) s = .next (shdChecked true o e.ctx b s0 x) :=
        congrArg Host.Outcome.next ((starts true ho).trans ((if_neg (by simp [h1])).trans (congrArg _ hx)))
      refine ⟨fun d hd => checked hd, fun hd => ?_⟩
      have read := (checked hd).trans (congrArg Host.Outcome.next (dispatchRead_eq ..))
      refine ⟨unreads read, fun hdr u hu => ?_⟩
      have done := read.trans (congrArg (fun r => Host.Outcome.next (readEnd o e.ctx _ r)) hu)
      refine ⟨fun hl => done.trans (congrArg Host.Outcome.next (if_pos ((hlacks hdr).mp hl))), fun hl => ?_⟩
      intro grid
      have gridded : exec (.shdDispatchIndirect o io) s = .next (readEnd o e.ctx (gridRead o e.ctx hdr) grid) :=
        done.trans (congrArg Host.Outcome.next (if_neg ((hlacks hdr).not.mp hl)))
      refine ⟨unreads gridded, fun g v hg => ?_⟩
      intro x y z
      have hread := gridded.trans (congrArg (fun r => Host.Outcome.next (readEnd o e.ctx (gridRead o e.ctx hdr) r)) hg)
      refine ⟨fun h0 => hread.trans (congrArg Host.Outcome.next (if_pos h0)), fun hx hy hz hbig => hread.trans (congrArg Host.Outcome.next ?_),
        fun hx hy hz hby hbz => hread.trans (congrArg Host.Outcome.next ?_)⟩
      · refine (if_neg (by simp only [not_or]; exact ⟨hx, hy, hz⟩)).trans (if_pos ((gridBad_iff x y z).mpr ?_))
        omega
      · refine (if_neg (by simp only [not_or]; exact ⟨hx, hy, hz⟩)).trans (if_neg fun hbad => ?_)
        have := (gridBad_iff x y z).mp hbad
        omega
  · have hop' := (op?_applyIO io s o).trans hop
    have stays {opcode : Nat} (indirect : Bool) (h : (p.phase = .running ∧ p.opcode = opcode ∧ p.ending = none ∧ ctxRuns s e.ctx = true ∧ s.shdRun? o ≠ none) ∨
        p.phase ≠ .running ∨ p.opcode ≠ opcode ∨ p.ending ≠ none) : withOp o opcode (shdStart indirect o) (applyIO io s) = applyIO io s := by
      rcases h with ⟨hp, ho, hen, hc, hrun⟩ | h
      · have hrun' : (applyIO io s).shdRun? o ≠ none := by rwa [shdRun?_applyIO]
        exact (withOp_running hop' hp hen ho).trans ((if_pos ((ctxRuns_applyIO io s e.ctx).trans hc)).trans (shdStart_runs hrun'))
      · exact withOp_other hop' h
    exact ⟨fun h => congrArg Host.Outcome.next (stays false h), fun h => congrArg Host.Outcome.next (stays true h)⟩
  · intro threads
    exact ⟨fun h => ⟨dispatchCheck_shape (.inr h), dispatchCheck_shape (.inr h)⟩, fun h => dispatchCheck_shape (.inl ((gridBad_iff ..).mpr (by omega)))⟩
  · intro z
    have hz : shdSweep s = z := rfl
    have hplace : exec (.workgroupPlace o) s = .next (placeWorkgroup o s) := congrArg Host.Outcome.next (placeDo_compute h)
    clear_value z
    refine ⟨fun h => hplace.trans (congrArg Host.Outcome.next (placeWorkgroup_gone hz h)), fun e p run hop hrun => ?_⟩
    intro b threads n gran shared resident stays place
    have hrun' := hplace.trans (congrArg Host.Outcome.next (placeWorkgroup_run hz hop hrun))
    have hon {x : Option (Nat × Nat)} (hs : ¬ stays) (hx : place = x) : exec (.workgroupPlace o) s = .next (placedOn o run b n gran z x) :=
      hrun'.trans (congrArg Host.Outcome.next ((if_neg hs).trans (congrArg (placedOn o run b n gran z) hx)))
    refine ⟨fun h => ?_, fun hs k base hk => hon hs hk⟩
    by_cases hs : stays
    · exact hrun'.trans (congrArg Host.Outcome.next (if_pos hs))
    · exact hon hs (h.resolve_left hs)

end Sys2Proof.Machine
end

section
/-! Barriers, parks, REPLAY, KILL and the watchdog (R253 to R260). -/

namespace Sys2Proof.Machine

open Sys2Proof

/-! ### Barriers -/

theorem mapIf_same {α : Type} {p : α → Bool} {f : α → α} {l : List α} (h : ∀ a ∈ l, p a = false) : mapIf p f l = l := by
  calc mapIf p f l = l.map id := List.map_congr_left fun a ha => if_neg (by rw [h a ha]; simp)
    _ = l := List.map_id l

theorem mapIf_mapIf {α : Type} {p : α → Bool} {f h : α → α} (hp : ∀ a, p (f a) = p a) (l : List α) :
    mapIf p h (mapIf p f l) = mapIf p (fun a => h (f a)) l := by
  unfold mapIf
  rw [List.map_map]
  refine List.map_congr_left fun a _ => ?_
  rw [Function.comp]
  by_cases ha : p a = true
  · rw [if_pos ha, if_pos ((hp a).trans ha), if_pos ha]
  · rw [if_neg ha, if_neg ha, if_neg ha]

theorem find?_mapIf_same {α : Type} {p : α → Bool} {f : α → α} (hp : ∀ a, p (f a) = p a) (l : List α) :
    (mapIf p f l).find? p = (l.find? p).map f := by
  induction l with
  | nil => rfl
  | cons a l ih =>
    by_cases ha : p a = true
    · rw [mapIf, List.map_cons, if_pos ha, List.find?_cons_of_pos ((hp a).trans ha), List.find?_cons_of_pos ha]
      rfl
    · rw [mapIf, List.map_cons, if_neg ha, List.find?_cons_of_neg ha, List.find?_cons_of_neg ha]
      exact ih

/-- A workgroup of a dispatch. -/
def isWg (o : OpRef) (w : Nat) (v : Workgroup) : Bool := decide (v.op = o) && decide (v.wg = w)

/-- A workgroup's groups all go on. -/
def barrierOpens (o : OpRef) (w : Nat) (s : State) : State :=
  (onWg o w (fun v => { v with arrived := 0 }) s).onShd fun x =>
    { x with groups := mapIf (fun g => g.inWg o w && g.waiting) (fun g => { g.advance with waiting := false }) x.groups }

theorem barrierCheck_none {o : OpRef} {w : Nat} {s : State} (h : s.shd.wgs.find? (isWg o w) = none) : barrierCheck o w s = s := by
  unfold barrierCheck
  rw [show s.shd.wgs.find? (fun v => decide (v.op = o) && decide (v.wg = w)) = none from h]

theorem barrierCheck_some {o : OpRef} {w : Nat} {s : State} {v : Workgroup} (h : s.shd.wgs.find? (isWg o w) = some v) :
    barrierCheck o w s = if v.arrived ≠ 0 ∧ v.arrived = nonExited s o w then barrierOpens o w s else s := by
  unfold barrierCheck
  rw [show s.shd.wgs.find? (fun v => decide (v.op = o) && decide (v.wg = w)) = some v from h]
  rfl

theorem barrierDo_own {g : Group} {s : State} (h : g.role ≠ .compute) :
    barrierDo g s = setGroup (if g.am = ~~~g.em then g.advance else { g with waiting := true }) s := if_pos h

/-- A group of a workgroup waits at its barrier, its threads counted. -/
def barrierArrived (g : Group) (s : State) : State :=
  setGroup { g with waiting := true } (onWg g.op g.wg (fun w => { w with arrived := w.arrived + popcount g.am }) s)

theorem barrierDo_compute {g : Group} {s : State} (h : g.role = .compute) : barrierDo g s = barrierCheck g.op g.wg (barrierArrived g s) :=
  if_neg (not_not.mpr h)

theorem find?_barrierArrived (g : Group) (s : State) :
    (barrierArrived g s).shd.wgs.find? (isWg g.op g.wg) =
      (s.shd.wgs.find? (isWg g.op g.wg)).map fun w => { w with arrived := w.arrived + popcount g.am } :=
  find?_mapIf_same (p := isWg g.op g.wg) (f := fun w => { w with arrived := w.arrived + popcount g.am }) (fun _ => rfl) s.shd.wgs

/-! ### Parks -/

/-- How the write of a park's record ends. -/
def parkEnd (g : Group) (fn cause : Nat) (rec64 : List Byte) : ParkPut → State
  | .written s => s
  | .full s => s.onShd fun x => { x with held := x.held ++ [{ fn, core := g.core, slot := g.slot, rec' := rec64 }] }
  | .lost s => killFor g cause s

/-- A group, or its whole workgroup, has parked with a tag; its record is still to be written. -/
def parked (g : Group) (wide : Bool) (cause tag : Nat) (s : State) : State :=
  s.onShd fun x => { x with
    tag := (tag + 1) % 2 ^ 32
    groups := mapIf (fun h => if wide then h.inWg g.op g.wg else g.same h) (fun h => { h with park := some { tag, cause, wg := wide, since := s.time } }) x.groups }

section
variable {g : Group} {wide : Bool} {cause va seq i0 i1 : Nat} {u : State}

theorem parkGroup_off (h : parkqOn u (fnOfCtx u g.ctx) = false) :
    parkGroup g wide cause va seq i0 i1 u = killFor g cause (loseParkRec (fnOfCtx u g.ctx) u) := by
  unfold parkGroup
  dsimp only
  rw [h]
  rfl

theorem parkGroup_on {x : ParkPut} {tag : Nat} (h : parkqOn u (fnOfCtx u g.ctx) = true) (htag : nextTag u 4097 u.shd.tag = tag)
    (hx : parkPut (fnOfCtx u g.ctx) (parkRecord u g wide cause va seq i0 i1 tag) (parked g wide cause tag u) = x) :
    parkGroup g wide cause va seq i0 i1 u = parkEnd g (fnOfCtx u g.ctx) cause (parkRecord u g wide cause va seq i0 i1 tag) x := by
  subst htag hx
  unfold parkGroup
  dsimp only
  rw [h]
  refine (if_neg (by simp)).trans ?_
  split
  case h_1 hx => exact (congrArg (parkEnd g _ cause _) hx).symm
  case h_2 hx => exact (congrArg (parkEnd g _ cause _) hx).symm
  case h_3 hx => exact (congrArg (parkEnd g _ cause _) hx).symm

end

theorem killFor_eq (g : Group) (cause : Nat) (s : State) : killFor g cause s = killGroup g (if cause < 0x40 then 0x07 else 0x0B) cause s :=
  congrArg (fun st => killGroup g st cause s) (if_congr decide_eq_true_iff rfl rfl)

theorem killGroup_compute {g : Group} (h : g.role = .compute) (st d : Nat) (s : State) : killGroup g st d s = shdSweep (endOp g.op st d 0 s) := if_pos h

theorem killGroup_own {g : Group} (h : g.role ≠ .compute) (st d : Nat) (s : State) :
    killGroup g st d s = closeOps (passFail g.op st d (syncUnits g.op (dropGroup g s))) := if_neg h

theorem parkRecord_length (s : State) (g : Group) (wg : Bool) (cause va seq i0 i1 tag : Nat) : (parkRecord s g wg cause va seq i0 i1 tag).length = 64 := by
  simp [parkRecord]

theorem parkRecord_wg (s : State) (g : Group) (wg : Bool) (cause va seq i0 i1 tag : Nat) :
    fld (parkRecord s g wg cause va seq i0 i1 tag) 0 8 = g.wg % 2 ^ 64 := by
  simp only [parkRecord, List.append_assoc]
  exact fld_natLe_append ..

theorem parkRecord_va (s : State) (g : Group) (wg : Bool) (cause va seq i0 i1 tag : Nat) :
    fld (parkRecord s g wg cause va seq i0 i1 tag) 8 8 = va % 2 ^ 64 := by
  simp only [parkRecord, List.append_assoc]
  rw [fld_append_right 8 (by simp), length_natLe]
  exact fld_natLe_append ..

/-! ### The time limit of a barrier -/

/-- A barrier whose time is over, by its workgroup. -/
def timeoutEnd (g : Group) (core : Nat) (z : State) : Option Workgroup → State
  | none => z
  | some w =>
    if w.arrived = 0 ∨ (wgGroups z g.op g.wg).any (·.park.isSome) = true ∨ z.isPinned core = true ∨ (!ctxRuns z g.ctx) = true then z
    else parkGroup ((wgGroups z g.op g.wg).foldl (fun a b => if b.slot < a.slot then b else a) g) true 0x42 0 0 w.arrived (nonExited z g.op g.wg) z

section
variable {core slot : Nat} {s z : State} (hz : shdSweep s = z)
include hz

theorem barrierTimeoutDo_gone (h : z.group? core slot = none) : barrierTimeoutDo core slot s = z := by
  subst hz
  unfold barrierTimeoutDo
  dsimp only
  rw [h]

variable {g : Group} (h : z.group? core slot = some g)
include h

theorem barrierTimeoutDo_own (hr : g.role ≠ .compute) : barrierTimeoutDo core slot s =
    if g.waiting = true ∧ g.park.isNone = true ∧ (!z.isPinned core) = true ∧ ctxRuns z g.ctx = true then
      parkGroup g false 0x42 0 0 (popcount g.am) (popcount (~~~g.em)) z else z := by
  subst hz
  unfold barrierTimeoutDo
  dsimp only
  rw [h]
  exact if_pos hr

theorem barrierTimeoutDo_compute {o : Option Workgroup} (hr : g.role = .compute) (ho : z.shd.wgs.find? (isWg g.op g.wg) = o) :
    barrierTimeoutDo core slot s = timeoutEnd g core z o := by
  subst hz ho
  unfold barrierTimeoutDo
  dsimp only
  rw [h]
  refine (if_neg (not_not.mpr hr)).trans ?_
  split
  case h_1 ho => exact (congrArg (timeoutEnd g core _) ho).symm
  case h_2 ho => exact (congrArg (timeoutEnd g core _) ho).symm

end

/-- The group of the lowest slot. -/
theorem foldl_lowest {low : Group} {l : List Group} (hl : ∀ h ∈ l, h = low ∨ low.slot < h.slot) (hin : low ∈ l) {g : Group}
    (hg : g = low ∨ low.slot < g.slot) : l.foldl (fun a b => if b.slot < a.slot then b else a) g = low := by
  have hstay {l : List Group} (hl' : ∀ h ∈ l, h = low ∨ low.slot < h.slot) : l.foldl (fun a b => if b.slot < a.slot then b else a) low = low := by
    refine foldl_id fun h hh => if_neg ?_
    rcases hl' h hh with rfl | hlt <;> omega
  induction l generalizing g with
  | nil => cases hin
  | cons a l ih =>
    rw [List.foldl_cons]
    have hrest : ∀ h ∈ l, h = low ∨ low.slot < h.slot := fun h hh => hl h (List.mem_cons_of_mem _ hh)
    rcases hg with rfl | hg
    · rw [show (if a.slot < g.slot then a else g) = g from if_neg (by rcases hl a (by simp) with rfl | h <;> omega)]
      exact hstay hrest
    · rcases List.mem_cons.mp hin with rfl | hin
      · rw [if_pos hg]
        exact hstay hrest
      · exact ih hrest hin (by split; exacts [hl a (by simp), .inr hg])

theorem group?_mem {s : State} {core slot : Nat} {g : Group} (h : s.group? core slot = some g) (hr : g.role = .compute) :
    g ∈ wgGroups s g.op g.wg := by
  refine List.mem_filter.mpr ⟨List.mem_of_find?_eq_some h, ?_⟩
  simp [Group.inWg, hr]

/-! ### Held records, REPLAY and KILL -/

/-- How a held record is tried again. -/
def retryEnd (h : HeldPark) : ParkPut → State
  | .full s => s
  | .written s => s.onShd fun x => { x with held := x.held.erase h }
  | .lost s => retryLost (s.onShd fun x => { x with held := x.held.erase h }) (s.group? h.core h.slot)
where
  /-- The record of a park is lost: its work ends. -/
  retryLost (s : State) : Option Group → State
    | some g => killFor g ((g.park.map (·.cause)).getD 0) s
    | none => s

section
variable {fn : Nat} {io : HostIO} {s z : State} (hz : shdSweep (applyIO io s) = z)
include hz

theorem parkRetryDo_none (h : ∀ h ∈ z.shd.held, h.fn ≠ fn) : parkRetryDo fn io s = z := by
  subst hz
  have hnil : (shdSweep (applyIO io s)).shd.held.filter (fun h => h.fn = fn) = [] := List.filter_eq_nil_iff.mpr (by simpa using h)
  unfold parkRetryDo
  dsimp only
  rw [hnil, List.foldl_nil]

theorem parkRetryDo_one {h : HeldPark} {x : ParkPut} (hh : z.shd.held = [h]) (hfn : h.fn = fn) (hx : parkPut fn h.rec' z = x) :
    parkRetryDo fn io s = retryEnd h x := by
  subst hz hx
  have hone : (shdSweep (applyIO io s)).shd.held.filter (fun h => h.fn = fn) = [h] := by
    rw [hh, List.filter_cons, if_pos (decide_eq_true hfn), List.filter_nil]
  unfold parkRetryDo
  dsimp only
  rw [hone, List.foldl_cons, List.foldl_nil]
  refine (if_neg (by rw [hh]; simp)).trans ?_
  cases parkPut fn h.rec' (shdSweep (applyIO io s)) with
  | written s => rfl
  | full s => rfl
  | lost s =>
    dsimp only [retryEnd]
    rw [show (s.onShd fun x => { x with held := x.held.erase h }).group? h.core h.slot = s.group? h.core h.slot from rfl]
    cases s.group? h.core h.slot <;> rfl

end

theorem parkCommand_closed {fn : Nat} {s : State} (op : Nat) (h : barOpen s fn = false) : parkCommand fn op s = s := if_pos (by rw [h]; rfl)

theorem parkCommand_open {fn : Nat} {s : State} (op : Nat) (h : barOpen s fn = true) :
    parkCommand fn op s = hostWrite fn 0x060314 op (fun s => if op = 1 then replayDo fn s else if op = 2 then killDo fn s else s) s :=
  if_neg (by rw [h]; simp)

/-- What REPLAY does with the groups of its park. -/
def replayEnd (fn : Nat) (z : State) : List Group → State
  | [] => parkResult fn 3 z
  | gs => parkResult fn 0 (shdSweep (z.onShd fun x => { x with groups := x.groups.map fun g => if gs.contains g then unpark z.time g else g }))

/-- What KILL does with the groups of its park. -/
def killEnd (fn : Nat) (z : State) : List Group → State
  | [] => parkResult fn 3 z
  | g :: _ => parkResult fn 0 (killFor g ((g.park.map (·.cause)).getD 0) z)

section
variable {fn : Nat} {s z : State} {gs : List Group} (hz : shdSweep s = z) (hgs : parkedBy z fn (z.raw fn 0x060310).toNat = gs)
include hz hgs

theorem replayDo_eq : replayDo fn s = replayEnd fn z gs := by
  subst hz hgs
  unfold replayDo
  dsimp only
  cases parkedBy (shdSweep s) fn ((shdSweep s).raw fn 0x060310).toNat <;> rfl

theorem killDo_eq : killDo fn s = killEnd fn z gs := by
  subst hz hgs
  unfold killDo
  dsimp only
  cases parkedBy (shdSweep s) fn ((shdSweep s).raw fn 0x060310).toNat <;> rfl

end

theorem unpark_parked {now : Nat} {g : Group} {p : Park} (h : g.park = some p) :
    unpark now g = { g with park := none, idle := g.idle + (now - p.since), pc := if p.cause = 0x41 then g.pc + 1 else g.pc } := by
  unfold unpark
  rw [h]
  dsimp only
  split <;> rfl

/-! ### The watchdog -/

/-- A group has been resident longer than its function allows. -/
def tooLong (z : State) (g : Group) : Bool := decide (z.rawBits (fnOfCtx z g.ctx) 0x060320 15 0 * 1000000 < residency z.time g)

theorem watchdogDo_none {s z : State} (hz : shdSweep s = z) (h : ∀ g ∈ z.shd.groups, tooLong z g = false) : watchdogDo s = z := by
  subst hz
  have hnil : (shdSweep s).shd.groups.filter (tooLong (shdSweep s)) = [] := List.filter_eq_nil_iff.mpr fun g hg => by simp [h g hg]
  unfold watchdogDo
  dsimp only
  rw [show (shdSweep s).shd.groups.filter (fun g => decide ((shdSweep s).rawBits (fnOfCtx (shdSweep s) g.ctx) 0x060320 15 0 * 1000000 <
    residency (shdSweep s).time g)) = [] from hnil, List.foldl_nil]

theorem watchdogDo_first {s z : State} {g : Group} {rest : List Group} (hz : shdSweep s = z) (hg : z.shd.groups = g :: rest) (hlate : tooLong z g = true)
    (h : ∀ h ∈ rest, tooLong z h = false) : watchdogDo s = killGroup g 0x0F 0 z := by
  subst hz
  have hone : (shdSweep s).shd.groups.filter (tooLong (shdSweep s)) = [g] := by
    rw [hg, List.filter_cons, if_pos hlate, List.filter_eq_nil_iff.mpr fun a ha => by simp [h a ha]]
  have hfirst : (shdSweep s).group? g.core g.slot = some g := by
    unfold State.group?
    rw [hg]
    exact List.find?_cons_of_pos (by simp)
  unfold watchdogDo
  dsimp only
  rw [show (shdSweep s).shd.groups.filter (fun g => decide ((shdSweep s).rawBits (fnOfCtx (shdSweep s) g.ctx) 0x060320 15 0 * 1000000 <
    residency (shdSweep s).time g)) = [g] from hone, List.foldl_cons, List.foldl_nil, hfirst]
  exact if_pos (by simp)

theorem tooLong_iff (z : State) (g : Group) :
    tooLong z g = true ↔ ((z.raw (fnOfCtx z g.ctx) 0x060320).toNat % 65536) * 1000000 < residency z.time g := by
  simp only [tooLong, decide_eq_true_eq, State.rawBits, bits, Nat.reduceAdd, Nat.reduceSub, Nat.reducePow, pow_zero, Nat.div_one]

/-- Settles O43: a barrier by `barrierCheck_some`, a park by `parkGroup_on`, and the commands by their ends. -/
theorem groupsWaitAndPark : Obligations.GroupsWaitAndPark := by
  unfold Obligations.GroupsWaitAndPark
  refine ⟨⟨fun r g s u hi => ?_, fun g wide cause va seq i0 i1 u => ?_, fun r s => ?_,
    fun s g wg cause va seq i0 i1 tag => ⟨parkRecord_length .., parkRecord_wg .., parkRecord_va ..⟩⟩,
    fun fn io s => ?_, fun fn s => ?_, fun fn s => ?_, fun now g p h => unpark_parked h, fun t s => ?_⟩
  · have issues (f : Group → State → State) : (.next (issue r f s) : Out) = .next (f g u) := congrArg _ (issue_issuing hi f)
    refine ⟨fun hr => ⟨fun h => (issues _).trans (congrArg _ ((barrierDo_own hr).trans ?_)), fun h => (issues _).trans (congrArg _ ((barrierDo_own hr).trans ?_))⟩,
      fun hr => ?_, fun code => issues _, fun word => issues _⟩
    · rw [if_pos h]
      rfl
    · rw [if_neg h]
    · intro u1 here
      have hbar : exec (.shdBarrier r) s = .next (barrierCheck g.op g.wg (barrierArrived g u)) := (issues _).trans (congrArg _ (barrierDo_compute hr))
      have hfind := find?_barrierArrived g u
      refine ⟨fun hno => hbar.trans (congrArg Host.Outcome.next ?_), fun w hw hpos => ?_⟩
      · have hnone : u.shd.wgs.find? (isWg g.op g.wg) = none := List.find?_eq_none.mpr fun v hv => by
          rw [show isWg g.op g.wg v = false from hno v hv]
          simp
        rw [barrierCheck_none (by rw [hfind, hnone]; rfl)]
        have hsame : mapIf (isWg g.op g.wg) (fun w => { w with arrived := w.arrived + popcount g.am }) u.shd.wgs = u.shd.wgs := mapIf_same hno
        have hwg : onWg g.op g.wg (fun w => { w with arrived := w.arrived + popcount g.am }) u = u :=
          congrArg (fun l => ({ u with shd := { u.shd with wgs := l } } : State)) hsame
        exact congrArg (setGroup { g with waiting := true }) hwg
      · intro counted
        have hsome : (barrierArrived g u).shd.wgs.find? (isWg g.op g.wg) = some { w with arrived := w.arrived + popcount g.am } := by
          rw [hfind, show u.shd.wgs.find? (isWg g.op g.wg) = some w from hw]
          rfl
        have hcheck := barrierCheck_some hsome
        refine ⟨fun hne => hbar.trans (congrArg Host.Outcome.next (hcheck.trans (if_neg fun h => hne h.2))),
          fun he => hbar.trans (congrArg Host.Outcome.next (hcheck.trans ((if_pos ⟨hpos.ne', he⟩).trans ?_)))⟩
        have hzero := mapIf_mapIf (p := isWg g.op g.wg) (f := fun w => { w with arrived := w.arrived + popcount g.am })
          (h := fun w => { w with arrived := 0 }) (fun _ => rfl) u.shd.wgs
        exact congrArg (fun l => ({ u1 with shd := { u1.shd with
          wgs := l
          groups := mapIf (fun h => h.inWg g.op g.wg && h.waiting) (fun h => { h with pc := h.pc + 1, waiting := false }) u1.shd.groups } } : State)) hzero
  · intro fn parks
    refine ⟨fun h => parkGroup_off h, fun h => ?_, fun hr => (killFor_eq g cause u).trans (killGroup_compute hr ..),
      fun hr => (killFor_eq g cause u).trans (killGroup_own hr ..)⟩
    intro tag rec64 mine parked'
    have put {x : ParkPut} (hx : parkPut fn rec64 parked' = x) : parks = parkEnd g fn cause rec64 x := parkGroup_on h rfl hx
    exact ⟨fun w hw => put (x := .written w) hw, fun w hw => put (x := .full w) hw, fun w hw => put (x := .lost w) hw⟩
  · intro z stays
    have hz : shdSweep s = z := rfl
    clear_value z
    have ends {t : State} (ht : barrierTimeoutDo r.core.val r.slot.val s = t) : exec (.barrierTimeout r) s = .next t := congrArg _ ht
    refine ⟨fun h => ends (barrierTimeoutDo_gone hz h), fun g hg => ⟨fun h => ends ?_, fun hr => ⟨fun h => ends ?_, fun h1 h2 h3 h4 => ends ?_⟩, fun hr => ?_⟩⟩
    · by_cases hr : g.role = .compute
      · cases hw : z.shd.wgs.find? (isWg g.op g.wg) with
        | none => exact barrierTimeoutDo_compute hz hg hr hw
        | some w => exact (barrierTimeoutDo_compute hz hg hr hw).trans (if_pos (.inr (.inr (h.imp_right fun h => by rw [h]; rfl))))
      · refine (barrierTimeoutDo_own hz hg hr).trans (if_neg ?_)
        rintro ⟨-, -, h3, h4⟩
        rcases h with h | h
        · simp [h] at h3
        · rw [h] at h4
          cases h4
    · refine (barrierTimeoutDo_own hz hg hr).trans (if_neg ?_)
      rintro ⟨h1, h2, -, -⟩
      rcases h with h | h
      · rw [h] at h1
        cases h1
      · exact h (Option.isNone_iff_eq_none.mp h2)
    · exact (barrierTimeoutDo_own hz hg hr).trans (if_pos ⟨h1, by rw [h2]; rfl, by rw [h3]; rfl, h4⟩)
    · intro here
      refine ⟨fun hno => ends (barrierTimeoutDo_compute (o := none) hz hg hr (List.find?_eq_none.mpr fun v hv => ?_)), fun w hw => ⟨fun h => ends ?_,
        fun h1 h2 h3 h4 low hin hlow => ends ?_⟩⟩
      · rw [show isWg g.op g.wg v = false from hno v hv]
        simp
      · refine (barrierTimeoutDo_compute (o := some w) hz hg hr hw).trans (if_pos (h.imp_right fun h => .inl ?_))
        obtain ⟨a, ha, hp⟩ := h
        exact List.any_eq_true.mpr ⟨a, ha, Option.isSome_iff_ne_none.mpr hp⟩
      · refine (barrierTimeoutDo_compute (o := some w) hz hg hr hw).trans ((if_neg ?_).trans ?_)
        · have hany : (wgGroups z g.op g.wg).any (·.park.isSome) = false := List.any_eq_false.mpr fun a ha => by simp [h2 a ha]
          simp [h1, hany, h3, h4]
        · rw [foldl_lowest hlow hin (hlow g (group?_mem hg hr))]
  · intro z
    have hz : shdSweep (applyIO io s) = z := rfl
    clear_value z
    refine ⟨fun h => congrArg Host.Outcome.next (parkRetryDo_none hz h), fun h hh hfn => ?_⟩
    have retry {x : ParkPut} (hx : parkPut fn.val h.rec' z = x) : exec (.parkQueueRetry fn io) s = .next (retryEnd h x) :=
      congrArg Host.Outcome.next (parkRetryDo_one hz hh hfn hx)
    refine ⟨fun w hw => retry (x := .full w) hw, fun w hw => retry (x := .written w) hw, fun w g p hw hg hp => (retry (x := .lost w) hw).trans ?_⟩
    rw [retryEnd, hg]
    exact congrArg Host.Outcome.next (by rw [retryEnd.retryLost, hp]; rfl)
  · exact ⟨fun h => ⟨congrArg Host.Outcome.next (parkCommand_closed 1 h), congrArg Host.Outcome.next (parkCommand_closed 2 h)⟩,
      fun h => ⟨congrArg Host.Outcome.next (parkCommand_open 1 h), congrArg Host.Outcome.next (parkCommand_open 2 h)⟩⟩
  · intro z tag answer
    have hz : shdSweep s = z := rfl
    clear_value z
    refine ⟨fun h => ⟨replayDo_eq hz h, killDo_eq hz h⟩, fun g rest h => ⟨replayDo_eq hz h, fun k hk => (killDo_eq hz h).trans ?_⟩⟩
    rw [killEnd, hk]
    rfl
  · intro z late
    have hz : shdSweep (advanceTo t s) = z := rfl
    clear_value z
    have hlate (g : Group) : late g ↔ tooLong z g = true := (tooLong_iff z g).symm
    refine ⟨fun h => congrArg Host.Outcome.next (watchdogDo_none hz fun g hg => Bool.eq_false_iff.mpr fun hl => h g hg ((hlate g).mpr hl)),
      fun g rest hg hl hrest => congrArg Host.Outcome.next (watchdogDo_first hz hg ((hlate g).mp hl) fun h hh => Bool.eq_false_iff.mpr fun hl =>
        hrest h hh ((hlate h).mpr hl)), fun g u => ⟨fun hr => killGroup_compute hr .., fun hr => killGroup_own hr ..⟩⟩

end Sys2Proof.Machine
end

section
/-! The checks and the start of a render pass, its batches and its bin memory (R266 to R282). -/

namespace Sys2Proof.Machine

open Sys2Proof

/-! ### The checks of a pass -/

/-- A pass that has passed its checks waits, or starts. -/
def passGo (o : OpRef) (ctx : Nat) (d sip : List Byte) (ops : List (List Byte)) (s : State) : State :=
  if passBlocked s ctx d = true then s else passStart o ctx d sip ops s

/-- The op records of a sip descriptor have been read. -/
def sipOpsRead (o : OpRef) (ctx : Nat) (d sip recs : List Byte) (s : State) : State :=
  if ((sipRecords (fld sip 12 1) recs).getD []).any sipReserved = true then endOp o 0x01 0 0 s
  else if sipBad d sip (sipRecords (fld sip 12 1) recs) = true then endOp o 0x0B 0x57 0 s
  else passGo o ctx d sip ((sipRecords (fld sip 12 1) recs).getD []) s

/-- A sip descriptor has been read. -/
def sipRead (o : OpRef) (ctx : Nat) (d sip : List Byte) (s : State) : State :=
  if (!zeros sip 18 6) = true ∨ (!zeros sip 32 32) = true then endOp o 0x01 0 0 s
  else if fld sip 8 4 = 0 ∨ 256 < fld sip 8 4 ∨ fld sip 0 8 % 16 ≠ 0 then endOp o 0x0B 0x57 0 s
  else readEnd o ctx (sipOpsRead o ctx d sip) (feRead ctx (fld sip 0 8) (16 * fld sip 8 4) s)

/-- A pass descriptor without a reserved field set, by its first failed check. -/
def passChecked (o : OpRef) (ctx : Nat) (d : List Byte) (s : State) : Option Nat → State
  | some c => endOp o 0x0B c 0 s
  | none => if bit (fld d 6 1) 2 = true then readEnd o ctx (sipRead o ctx d) (feRead ctx (fld d 24 8) 64 s) else passGo o ctx d [] [] s

/-- A pass descriptor has been read. -/
def descRead (o : OpRef) (ctx : Nat) (d : List Byte) (s : State) : State :=
  if passReserved d = true then endOp o 0x01 0 0 s else passChecked o ctx d s (passCheck d)

/-- A RENDER_PASS record with a reserved or misaligned field. -/
def passRecordBad (b : List Byte) : Prop :=
  zeros b 36 4 = false ∨ zeros b 48 16 = false ∨ fld b 16 8 % 64 ≠ 0 ∨ fld b 24 8 % 64 ≠ 0 ∨ fld b 40 8 % 32 ≠ 0 ∨ fld b 32 4 = 0 ∨ 1048576 < fld b 32 4

section
variable {o : OpRef} {e : Entry} {q : Op} {s z : State} (hz : closeOps s = z)
include hz

theorem renderDo_runs (h : z.pass? o ≠ none) : renderDo o e q s = z := by
  subst hz
  exact if_pos (Option.isSome_iff_ne_none.mpr h)

variable (h : z.pass? o = none)
include h

theorem renderDo_bad (hb : passRecordBad q.body) : renderDo o e q s = endOp o 0x01 0 0 z := by
  subst hz
  unfold renderDo
  dsimp only
  rw [h]
  exact (if_neg (by simp)).trans (if_pos (by simpa [passRecordBad] using hb))

theorem renderDo_reads (hb : ¬ passRecordBad q.body) :
    renderDo o e q s = readEnd o e.ctx (descRead o e.ctx) (feRead e.ctx (fld q.body 16 8) 256 z) := by
  subst hz
  unfold renderDo
  dsimp only
  rw [h]
  refine (if_neg (by simp)).trans ((if_neg (by simpa [passRecordBad] using hb)).trans ((dispatchRead_eq ..).trans ?_))
  refine congrArg (fun k => readEnd o e.ctx k _) (funext fun d => funext fun u => if_congr Iff.rfl rfl ?_)
  cases passCheck d with
  | some c => rfl
  | none =>
    refine if_congr Iff.rfl ((dispatchRead_eq ..).trans ?_) rfl
    refine congrArg (fun k => readEnd o e.ctx k _) (funext fun sip => funext fun v => if_congr Iff.rfl rfl (if_congr Iff.rfl rfl ?_))
    exact dispatchRead_eq ..

end

/-! ### The start of a pass -/

/-- The run of a pass as it starts. -/
def passRunAt (o : OpRef) (ctx : Nat) (d sip : List Byte) (ops : List (List Byte)) (pool : List Byte) (t : Nat) : PassRun :=
  { op := o, ctx, desc := d, sip, sipOps := ops, phase := .binning, draw := 0, prim := 0, batch := 0, batches := [], lists := [], chunks := []
    prod := q64 (fld pool 0 8), start := q64 (fld pool 8 8), cons := q64 (fld pool 8 8), growSeq := 0, growAt := none, waiting := [], partials := 0
    bcut := 0, rewound := none, partialTiles := [], nextTile := 0, counted := [], prims := 0, cores := [], nextFront := 0, paused := false, shaded := 0
    grows := 0, preempts := 0, stopping := false, fail := none, flags := 0, tStart := t }

/-- A pass has read its pool. -/
def poolRead (o : OpRef) (ctx : Nat) (d : List Byte) (run : PassRun) (pool : List Byte) (v : State) : State :=
  let begun := v.onRnd fun x => { x with passes := x.passes ++ [run] }
  if (!zeros pool 26 2) = true ∨ (!zeros pool 48 16) = true ∨ 2 ≤ fld pool 25 1 then endOp o 0x01 0 0 v
  else if fld pool 24 1 < 4 ∨ 20 < fld pool 24 1 ∨ fld pool 16 8 % 8 ≠ 0 then closeOps (passFail o 0x0B 0x56 begun)
  else passTr o noMaster ctx ((tWrite noMaster ctx (fld d 8 8 + 28) (natLe 4 0 ++ natLe 8 run.cons.toNat ++ natLe 8 0) begun).bind fun _ s =>
    binStateInit run s) v fun _ s => s

/-- How the start of a pass ends, by the read of its pool. -/
def startEnd (o : OpRef) (ctx : Nat) (d sip : List Byte) (ops : List (List Byte)) (t : Nat) : Tr (List Byte) → State
  | .fault f _ _ s => endOp o 0x07 (feFault f ctx s).1 0 (feFault f ctx s).2
  | .bad c s => endOp o 0x0B c 0 s
  | .severed s => endOp o 0x0D 0 0 s
  | .wait s => s
  | .ok pool v => poolRead o ctx d (passRunAt o ctx d sip ops pool t) pool v

theorem passStart_eq (o : OpRef) (ctx : Nat) (d sip : List Byte) (ops : List (List Byte)) (u : State) :
    passStart o ctx d sip ops u = startEnd o ctx d sip ops u.time (tRead noMaster ctx (fld d 8 8) 64 u) := by
  unfold passStart pPool
  dsimp only
  generalize tRead noMaster ctx (fld d 8 8) 64 u = r
  cases r <;> rfl

/-! ### Accesses of a pass -/

section
variable {α β : Type} {o : OpRef} {m ctx : Nat} {r : Tr α} {s0 : State} {k : α → State → State}

theorem passTr_ok {a : α} {v : State} (h : r = .ok a v) : passTr o m ctx r s0 k = k a v := by
  rw [h]
  rfl

theorem passTr_stops {k' : β → State → State} {f : α → State → Tr β} (h : ∀ a v, r ≠ .ok a v) :
    passTr o m ctx (r.bind f) s0 k' = passTr o m ctx r s0 k := by
  cases r with
  | ok a v => exact absurd rfl (h a v)
  | _ => rfl

theorem passTr_unread {k' : α → State → State} (h : ∀ a v, r ≠ .ok a v) : passTr o m ctx r s0 k' = passTr o m ctx r s0 k := by
  cases r with
  | ok a v => exact absurd rfl (h a v)
  | _ => rfl

theorem passTr_feFault {f : Flt} {va : Nat} {acc : Access} {u : State} (h : r = .fault f va acc u) (hm : m = noMaster) :
    passTr o m ctx r s0 k = closeOps (passFail o 0x07 (feFault f ctx u).1 (feFault f ctx u).2) := by
  rw [h]
  exact if_pos hm

theorem passTr_masterFault {f : Flt} {va : Nat} {acc : Access} {u v : State} (h : r = .fault f va acc u) (hm : m ≠ noMaster)
    (hv : masterFault f m ctx va acc o.ring.val o.seq u = v) :
    passTr o m ctx r s0 k = closeOps (if f.bar then passFail o 0x0B 3 v else passFail o 0x07 f.code.num v) := by
  subst hv
  rw [h]
  exact if_neg hm

end

theorem passCheck_shape {d : List Byte} (h : fld d 0 2 = 0 ∨ 8192 < fld d 0 2 ∨ fld d 2 2 = 0 ∨ 8192 < fld d 2 2 ∨ 4 < fld d 5 1) :
    passCheck d = some 0x50 := by
  refine if_pos ?_
  change fld d 0 2 = 0 ∨ 8192 < fld d 0 2 ∨ fld d 2 2 = 0 ∨ 8192 < fld d 2 2 ∨ _ ∨ 4 < fld d 5 1 ∨ _
  rcases h with h | h | h | h | h
  · exact .inl h
  · exact .inr (.inl h)
  · exact .inr (.inr (.inl h))
  · exact .inr (.inr (.inr (.inl h)))
  · exact .inr (.inr (.inr (.inr (.inr (.inl h)))))

/-! ### BATCH_DEAL -/

section
variable (o : OpRef) (c : Nat) (verts : List VertexOut) (p : PassRun) (db pb : List Byte)

/-- What a vertex shader has given for a vertex. -/
def shadedVert (k : Nat × Nat) : Option ClipVert :=
  (verts.find? fun v => decide (v.index = k.1) && decide (v.inst = k.2)).map fun v =>
    { key := some k, words := (upTo (4 + 4 * fld pb 18 1)).map fun i => (v.clip ++ v.vary).getD i 0 }

/-- A batch is dealt once its vertices are there. -/
def dealCut (vh : List Byte) (total : Nat) (s : State) : Option Cut → State
  | none => s
  | some cut => s.onPass o (dealBatch c db pb vh total cut)

/-- The indices of a draw have been read. -/
def dealIndices (vh : List Byte) (raw : List Nat) (s : State) : State :=
  if (primsFrom db raw p.prim).1 = [] then s.onPass o fun p => { p with draw := p.draw + 1, prim := 0, stopping := false, paused := false }
  else dealCut o c db pb vh (primsFrom db raw p.prim).2 s
    (cutBatch (s.ctx p.ctx).ftz db pb (shadedVert verts pb) (primsFrom db raw p.prim).1 { keys := [], recs := [], prims := [], taken := 0 })

/-- The headers of a draw's code have been read. -/
def dealCode (vh fh : List Byte) (s : State) : State :=
  if codeBad vh (fld pb 16 1) = true ∨ (fh ≠ [] ∧ codeBad fh (fld pb 17 1) = true) then closeOps (passFail o 0x0B 0x53 s)
  else passTr o noMaster p.ctx (readIndices p.ctx db s) s (dealIndices o c verts p db pb vh)

/-- The headers of the code of a pipeline. -/
def codeHeads (s : State) : Tr (List Byte × List Byte) :=
  (tRead noMaster p.ctx (fld pb 0 8) 64 s).bind fun vs s =>
    (if fld pb 8 8 = 0 then .ok [] s else tRead noMaster p.ctx (fld pb 8 8) 64 s).bind fun fs s => .ok (vs, fs) s

/-- A draw and its pipeline have been read. -/
def dealDraw (s : State) : State :=
  if drawBad p.desc db = true ∨ pipeBad pb = true then closeOps (passFail o 0x0B 0x53 s)
  else passTr o noMaster p.ctx (codeHeads p pb s) s fun h s => dealCode o c verts p db pb h.1 h.2 s

end

section
variable {o : OpRef} {c : Nat} {verts : List VertexOut} {io : HostIO} {s z : State} (hz : closeOps (applyIO io s) = z)
include hz

theorem dealDo_gone (h : z.pass? o = none ∨ z.op? o = none) : dealDo o c verts io s = z := by
  subst hz
  unfold dealDo
  dsimp only
  rcases h with h | h
  · rw [h]
  · rw [h]
    cases (closeOps (applyIO io s)).pass? o <;> rfl

theorem dealDo_pass {p : PassRun} {e : Entry} {q : Op} (hp : z.pass? o = some p) (hq : z.op? o = some (e, q)) :
    dealDo o c verts io s =
      if p.phase ≠ .binning ∨ p.fail.isSome = true ∨ fld q.body 32 4 ≤ p.draw ∨ nextCluster z p q.emask ≠ some c ∨ heldAtDraw z p = true ∨
          (!ctxRuns z p.ctx) = true then z
      else passTr o noMaster p.ctx (readDraw noMaster p (fld q.body 24 8) p.draw z) z fun r u => dealDraw o c verts p r.1 r.2 u := by
  subst hz
  unfold dealDo
  dsimp only
  rw [hp, hq]
  refine if_congr Iff.rfl rfl (congrArg (passTr o noMaster p.ctx _ _) (funext fun r => funext fun u => ?_))
  obtain ⟨db, pb⟩ := r
  refine if_congr Iff.rfl rfl (congrArg (passTr o noMaster p.ctx _ _) (funext fun h => funext fun v => if_congr Iff.rfl rfl ?_))
  refine congrArg (passTr o noMaster p.ctx _ _) (funext fun raw => funext fun w => ?_)
  dsimp only [dealIndices]
  refine if_congr Iff.rfl rfl ?_
  split
  case h_1 hc => exact (congrArg (dealCut o c db pb h.1 _ w) hc).symm
  case h_2 hc => exact (congrArg (dealCut o c db pb h.1 _ w) hc).symm

end

theorem heldAtDraw_iff (z : State) (p : PassRun) :
    heldAtDraw z p = true ↔ p.stopping = true ∧ p.prim = 0 ∧ (p.batches ≠ [] ∨ yields z p.op = true) := by
  simp [heldAtDraw, and_assoc]

theorem dealBatch_full {c : Nat} {db pb hdr : List Byte} {total : Nat} {cut : Cut} (p : PassRun) : dealBatch c db pb hdr total cut p =
    { p with
      batches := p.batches ++ [{ num := p.batch, cluster := c, draw := p.draw, first := p.prim, count := cut.taken, recs := cut.recs, prims := cut.prims
                                 verts := cut.keys.filter fun k => k.1 ≠ 2 ^ 64, placed := 0, code := fld pb 0 8, header := hdr, regs := fld pb 16 1
                                 const := fld db 40 8, done := 0, block := 0 }]
      batch := p.batch + 1, draw := if total ≤ p.prim + cut.taken then p.draw + 1 else p.draw
      prim := if total ≤ p.prim + cut.taken then 0 else p.prim + cut.taken
      stopping := p.stopping && decide (p.prim ≠ 0), paused := false, nextFront := (c + 1) % 8 } := by
  have hdraw : (if p.prim + cut.taken < total then p.draw else p.draw + 1) = if total ≤ p.prim + cut.taken then p.draw + 1 else p.draw := by
    split <;> split <;> omega
  have hprim : (if p.prim + cut.taken < total then p.prim + cut.taken else 0) = if total ≤ p.prim + cut.taken then 0 else p.prim + cut.taken := by
    split <;> split <;> omega
  unfold dealBatch
  dsimp only
  rw [hdraw, hprim]

/-! ### Vertex groups -/

/-- What a pass does with the core that takes its next vertex group. -/
def vertexOn (p : PassRun) (b : BinBatch) (s : State) : Option Nat → State
  | none => s
  | some k => placeGroup p k ((b.regs + 7) / 8) (b.placed / 32 % 32) b.num (.vertex b.num) b.code b.const b.header
      (maskOf (upTo ((b.verts.drop b.placed).take 32).length)) 0 (((b.verts.drop b.placed).take 32).map fun v => [w32 v.1, w32 v.2])
      (s.onPass p.op fun p =>
        { p with batches := mapIf (fun x => x.num = b.num) (fun x => { x with placed := b.placed + ((b.verts.drop b.placed).take 32).length }) p.batches })

/-- What a pass does with its oldest batch that has a vertex to shade. -/
def vertexOf (p : PassRun) (mask : Nat) (s : State) : Option BinBatch → State
  | none => s
  | some b => vertexOn p b s (vertexCore s mask b.cluster (b.placed / 32 % 32 % 4) ((b.regs + 7) / 8))

theorem placeVertex_eq (p : PassRun) (mask : Nat) (s : State) :
    placeVertex p mask s = vertexOf p mask s (p.batches.find? fun b => b.placed < b.verts.length) := by
  unfold placeVertex
  cases p.batches.find? fun b => b.placed < b.verts.length with
  | none => rfl
  | some b =>
    dsimp only [vertexOf]
    cases vertexCore s mask b.cluster (b.placed / 32 % 32 % 4) ((b.regs + 7) / 8) <;> rfl

theorem placeDo_binning {o : OpRef} {s : State} {p : PassRun} {e : Entry} {q : Op} (hp : s.pass? o = some p) (hq : s.op? o = some (e, q))
    (hb : p.phase = .binning) :
    placeDo o s = if (!ctxRuns s p.ctx) = true then s else if p.fail.isSome = true then s else placeVertex p q.emask s := by
  unfold placeDo
  rw [hp, hq]
  exact if_congr Iff.rfl rfl (if_pos hb)

/-! ### BATCH_BINNED -/

/-- How the work of a batch in bin memory ends. -/
def binnedEnd (o : OpRef) (c : Nat) (p : PassRun) (b b' : BinBatch) (z : State) : Take Unit → State
  | .ok _ p' u => passBoundary o (u.onPass p'.op fun _ => { p' with
      batches := p'.batches.filter fun x => x.num ≠ b.num
      prims := if p'.counted.contains b.num then p'.prims else p'.prims + b.count
      counted := if p'.counted.contains b.num then p'.counted else p'.counted ++ [b.num] })
  | .empty p' u => growRaise c { p' with batches := mapIf (fun x => x.num = b.num) (fun _ => b') p'.batches } z u
  | .bad u => closeOps (passFail o 0x0B 0x56 u)
  | .fault f u => closeOps (passFail o 0x07 (feFault f p.ctx u).1 (feFault f p.ctx u).2)
  | .severed u => closeOps (passFail o 0x0D 0 u)
  | .wait => z

section
variable {o : OpRef} {c : Nat} {io : HostIO} {s z : State} (hz : closeOps (applyIO io s) = z)
include hz

theorem binnedDo_gone (h : z.pass? o = none) : binnedDo o c io s = z := by
  subst hz
  unfold binnedDo
  dsimp only
  rw [h]

variable {p : PassRun} (hp : z.pass? o = some p)
include hp

theorem binnedDo_empty (h : frontOf p c = []) : binnedDo o c io s = z := by
  subst hz
  unfold binnedDo
  dsimp only
  rw [hp]
  dsimp only
  rw [h]

variable {b : BinBatch} {l : List BinBatch} (h : frontOf p c = b :: l)
include h

theorem binnedDo_early (he : p.phase ≠ .binning ∨ p.waiting.contains c = true ∨ batchShaded z o b = false ∨ ctxRuns z p.ctx = false) :
    binnedDo o c io s = z := by
  subst hz
  unfold binnedDo
  dsimp only
  rw [hp]
  dsimp only
  rw [h]
  exact if_pos (by simpa using he)

theorem binnedDo_runs {b' : BinBatch} {r : Take Unit} (hr : binRun b p z = (b', r))
    (he : ¬ (p.phase ≠ .binning ∨ p.waiting.contains c = true ∨ batchShaded z o b = false ∨ ctxRuns z p.ctx = false)) :
    binnedDo o c io s = binnedEnd o c p b b' z r := by
  subst hz
  unfold binnedDo
  dsimp only
  rw [hp]
  dsimp only
  rw [h]
  refine (if_neg (by simpa using he)).trans ?_
  rw [hr]
  cases r <;> rfl

end

theorem batchShaded_iff (z : State) (o : OpRef) (b : BinBatch) :
    batchShaded z o b = true ↔ b.placed = b.verts.length ∧ ∀ g ∈ z.shd.groups, g.op = o → g.role ≠ .vertex b.num := by
  simp only [batchShaded, Bool.and_eq_true, decide_eq_true_eq, List.all_eq_true, Bool.not_eq_true', Bool.and_eq_false_iff, decide_eq_false_iff_not]
  exact and_congr_right fun _ => forall₂_congr fun g _ => imp_iff_not_or.symm

/-! ### Grow faults -/

section
variable {p : PassRun} {c : Nat} {s0 s : State}

theorem growRaise_again {n : Nat} (h : p.growAt = some n) : growRaise c p s0 s = s.onPass p.op fun _ => { p with waiting := p.waiting ++ [c] } := by
  unfold growRaise
  dsimp only
  rw [h]
  rfl

theorem growRaise_first (h : p.growAt = none) : growRaise c p s0 s =
    passTr p.op noMaster p.ctx (poolPut p 28 4 (p.growSeq + 1)
      (s.onPass p.op fun _ => { p with waiting := p.waiting ++ [c], growAt := some s.time, growSeq := p.growSeq + 1, grows := p.grows + 1 })) s0 fun _ u =>
        if fld p.desc 34 2 = 0 then
          partialBegin { p with waiting := p.waiting ++ [c], growAt := some s.time, growSeq := p.growSeq + 1, grows := p.grows + 1 } s0 u
        else raiseVec (.grow p.op) (fnOfCtx u p.ctx) (fld p.desc 32 2) u := by
  unfold growRaise
  dsimp only
  rw [h]
  rfl

end

/-- A grow fault's pool has been read. -/
def growRead (p : PassRun) (since : Nat) (z : State) (pool : List Byte) (u : State) : State :=
  if p.cons < q64 (fld pool 0 8) then grantChunks z p.waiting { p with prod := q64 (fld pool 0 8), growAt := none, waiting := [] } u
  else if bit (fld pool 25 1) 0 = true ∨ since + fld p.desc 34 2 * 1000 ≤ z.time then partialBegin p z u
  else u

section
variable {o : OpRef} {io : HostIO} {s z : State} (hz : closeOps (applyIO io s) = z)
include hz

theorem growPollDo_gone (h : z.pass? o = none) : growPollDo o io s = z := by
  subst hz
  unfold growPollDo
  dsimp only
  rw [h]

variable {p : PassRun} (hp : z.pass? o = some p)
include hp

theorem growPollDo_none (h : p.growAt = none) : growPollDo o io s = z := by
  subst hz
  unfold growPollDo
  dsimp only
  rw [hp]
  dsimp only
  rw [h]

theorem growPollDo_some {n : Nat} (h : p.growAt = some n) : growPollDo o io s =
    if (!ctxRuns z p.ctx) = true then z else passTr o noMaster p.ctx (tRead noMaster p.ctx (fld p.desc 8 8) 64 z) z (growRead p n z) := by
  subst hz
  unfold growPollDo
  dsimp only
  rw [hp]
  dsimp only
  rw [h]
  rfl

end

section
variable {s0 s u : State} {c : Nat} {cs : List Nat} {p p' : PassRun}

theorem grantChunks_ok (h : takeChunk c p s = .ok () p' u) : grantChunks s0 (c :: cs) p s = grantChunks s0 cs p' u := by
  rw [grantChunks, h]

theorem grantChunks_bad (h : takeChunk c p s = .bad u) : grantChunks s0 (c :: cs) p s = closeOps (passFail p.op 0x0B 0x56 u) := by
  rw [grantChunks, h]
  rfl

end

/-! ### The obligation -/

section
variable {o : OpRef} {io : HostIO} {s : State} {e : Entry} {q : Op}

theorem renderPass_other (h : (applyIO io s).op? o = some (e, q)) (hp : q.phase ≠ .running ∨ q.opcode ≠ 0x20 ∨ q.ending ≠ none) :
    exec (.renderPass o io) s = .next (applyIO io s) :=
  congrArg Host.Outcome.next (withOp_other h hp)

theorem renderPass_running (h : (applyIO io s).op? o = some (e, q)) (hp : q.phase = .running) (ho : q.opcode = 0x20) (hen : q.ending = none)
    (hc : ctxRuns (applyIO io s) e.ctx = true) :
    exec (.renderPass o io) s = .next (if yields (applyIO io s) o = true then applyIO io s else renderDo o e q (applyIO io s)) :=
  congrArg Host.Outcome.next ((withOp_running h hp hen ho).trans (if_pos hc))

end

/-- Settles O44: the checks of a pass are its descriptor's reads in their order, each ended by what the read gives; a
batch is dealt, placed and binned, and a grow fault ends, by what each access of the pass gives. -/
theorem passesStartAndBin : Obligations.PassesStartAndBin := by
  unfold Obligations.PassesStartAndBin
  refine ⟨fun o io s e p hop => ?_, fun o ctx d sip ops u => ?_, fun o m ctx r s0 k => ?_, fun d h => passCheck_shape h, fun o c io s verts => ?_,
    fun o s p e q hp hq hb => ?_, fun p k gran idx wg role code const hdr lanes helper inputs s => rfl, fun o c io s => ?_, fun c p s0 s => ?_,
    fun o io t s => ?_, fun p s0 s c cs => ⟨rfl, fun p' u h => grantChunks_ok h, fun u h => grantChunks_bad h⟩⟩
  · intro s0 z b ends unread badRecord
    have hop' : s0.op? o = some (e, p) := (op?_applyIO io s o).trans hop
    refine ⟨fun h => renderPass_other hop' h, fun hph ho hen hc => ?_⟩
    have run := renderPass_running hop' hph ho hen ((ctxRuns_applyIO io s e.ctx).trans hc)
    have hz : closeOps s0 = z := rfl
    clear_value z
    refine ⟨fun hy => run.trans (congrArg _ (if_pos hy)), fun hy hrun => ?_, fun hy hrun => ?_⟩
    · exact run.trans (congrArg _ ((if_neg (by simpa using hy)).trans (renderDo_runs hz hrun)))
    have done : ends (renderDo o e p s0) := run.trans (congrArg _ (if_neg (by simpa using hy)))
    have unreads {k : List Byte → State → State} {read : Res (List Byte)} (hk : ends (readEnd o e.ctx k read)) : unread read := by
      refine ⟨fun f u h => ?_, fun u h => ?_, fun u h => ?_⟩ <;> (rw [h] at hk; exact hk)
    have got {k : List Byte → State → State} {read : Res (List Byte)} {d : List Byte} {u : State} (hk : ends (readEnd o e.ctx k read))
        (h : read = .ok d u) : ends (k d u) := by
      rw [h] at hk
      exact hk
    have by_eq {t t' : State} (h : ends t) (ht : t = t') : ends t' := ht ▸ h
    refine ⟨fun hbad => by_eq done (renderDo_bad hz hrun hbad), fun hbad => ?_⟩
    have first := by_eq done (renderDo_reads hz hrun hbad)
    refine ⟨unreads first, fun d u hd => ?_⟩
    intro go
    have desc : ends (descRead o e.ctx d u) := got first hd
    refine ⟨fun hr => by_eq desc (if_pos hr), fun c hr hchk => ?_, fun hr hchk => ?_⟩
    · exact by_eq desc ((if_neg (by simp [hr])).trans (by rw [hchk]; rfl))
    have clear : ends (passChecked o e.ctx d u none) := by_eq desc ((if_neg (by simp [hr])).trans (congrArg _ hchk))
    refine ⟨fun hs => by_eq clear (if_neg (by simp [hs])), fun hs => ?_⟩
    have second := by_eq clear (if_pos hs)
    refine ⟨unreads second, fun sip v hsip => ?_⟩
    intro clean shaped
    have sipped : ends (sipRead o e.ctx d sip v) := got second hsip
    have hclean : ¬ clean ↔ (!zeros sip 18 6) = true ∨ (!zeros sip 32 32) = true := by
      simp only [clean, not_and_or, Bool.not_eq_true', Bool.not_eq_true]
    have hshaped : ¬ shaped ↔ fld sip 8 4 = 0 ∨ 256 < fld sip 8 4 ∨ fld sip 0 8 % 16 ≠ 0 := by simp only [shaped]; omega
    refine ⟨fun h => by_eq sipped (if_pos (hclean.mp h)), fun h1 h2 => ?_, fun h1 h2 => ?_⟩
    · exact by_eq sipped ((if_neg fun h => hclean.mpr h h1).trans (if_pos (hshaped.mp h2)))
    intro read
    have third : ends (readEnd o e.ctx (sipOpsRead o e.ctx d sip) read) :=
      by_eq sipped ((if_neg fun h => hclean.mpr h h1).trans (if_neg fun h => hshaped.mpr h h2))
    refine ⟨unreads third, fun recs w hrecs => ?_⟩
    intro ops
    have full : ends (sipOpsRead o e.ctx d sip recs w) := got third hrecs
    refine ⟨fun h => by_eq full (if_pos (List.any_eq_true.mpr h)), fun h => ?_⟩
    have past := by_eq full (if_neg fun ha => by
      obtain ⟨x, hx, hr⟩ := List.any_eq_true.mp ha
      rw [h x hx] at hr
      cases hr)
    exact ⟨fun hb => by_eq past (if_pos hb), fun hb => by_eq past (if_neg (by simp [hb]))⟩
  · intro starts read
    have started {x : Tr (List Byte)} (hx : read = x) : starts (startEnd o ctx d sip ops u.time x) := (passStart_eq ..).trans (congrArg _ hx)
    refine ⟨fun f va acc v h => started (x := .fault f va acc v) h, fun v h => started (x := .severed v) h, fun v h => started (x := .wait v) h,
      fun pool v h => ?_⟩
    intro clean cons run begun
    have pooled : starts (poolRead o ctx d run pool v) := started (x := .ok pool v) h
    have hclean : ¬ clean ↔ (!zeros pool 26 2) = true ∨ (!zeros pool 48 16) = true ∨ 2 ≤ fld pool 25 1 := by
      simp only [clean, Bool.not_eq_true', ← Bool.not_eq_true]
      rw [← Nat.not_lt]
      tauto
    refine ⟨fun h => pooled.trans (if_pos (hclean.mp h)), fun h1 h2 => ?_, fun h1 h2 h3 h4 => ?_⟩
    · exact pooled.trans ((if_neg fun h => hclean.mpr h h1).trans (if_pos h2))
    · exact pooled.trans ((if_neg fun h => hclean.mpr h h1).trans (if_neg (by omega)))
  · intro outcome
    refine ⟨fun u h => passTr_ok h, fun f va acc u h => ⟨fun hm => passTr_feFault h hm, fun hm => passTr_masterFault h hm rfl⟩,
      fun d u h => ?_, fun u h => ?_, fun u h => ?_⟩ <;> (subst h; rfl)
  · intro z ends
    have hz : closeOps (applyIO io s) = z := rfl
    clear_value z
    refine ⟨fun h => congrArg Host.Outcome.next (dealDo_gone hz h), fun p e q hp hq => ?_⟩
    intro held closed through
    have dealt : ends _ := congrArg Host.Outcome.next (dealDo_pass (verts := verts) (c := c.val) hz hp hq)
    have hclosed : closed ↔ (p.phase ≠ .binning ∨ p.fail.isSome = true ∨ fld q.body 32 4 ≤ p.draw ∨ nextCluster z p q.emask ≠ some c.val ∨
        heldAtDraw z p = true ∨ (!ctxRuns z p.ctx) = true) := by
      simp only [closed, held, heldAtDraw_iff, Option.isSome_iff_ne_none, Bool.not_eq_true']
    have by_eq {t t' : State} (h : ends t) (ht : t = t') : ends t' := ht ▸ h
    have thru {α : Type} {r : Tr α} {u : State} {k : α → State → State} {K : α → State → Prop} (h : ends (passTr o noMaster p.ctx r u k))
        (hk : ∀ a v, ends (k a v) → K a v) : through r u K :=
      ⟨fun a v hr => hk a v (by_eq h (passTr_ok hr)), fun hr => by_eq h (passTr_unread hr)⟩
    refine ⟨fun h => by_eq dealt (if_pos (hclosed.mp h)), fun h => ?_⟩
    refine thru (by_eq dealt (if_neg (hclosed.not.mp h))) fun r u hr => ?_
    intro db pb
    refine ⟨fun hb => by_eq hr (if_pos hb), fun h1 h2 => ?_⟩
    have heads : ends (passTr o noMaster p.ctx (codeHeads p pb u) u fun h s => dealCode o c verts p db pb h.1 h.2 s) :=
      by_eq hr (if_neg (by simp [db, pb, h1, h2]))
    have bound {α β : Type} {r : Tr α} {f : α → State → Tr β} {k : β → State → State} {K : α → State → Prop}
        (h : ends (passTr o noMaster p.ctx (r.bind f) u k)) (hk : ∀ a v, ends (passTr o noMaster p.ctx (f a v) u k) → K a v) : through r u K :=
      ⟨fun a v hr => hk a v (by_eq h (by rw [hr]; rfl)), fun hr => by_eq h (passTr_stops hr)⟩
    refine bound heads fun vh v1 h1 => ?_
    intro ready
    have coded {fh : List Byte} {v : State} (h : ends (dealCode o c verts p db pb vh fh v)) : ready fh v := by
      refine ⟨fun hb => by_eq h (if_pos hb), fun hb => thru (by_eq h (if_neg hb)) fun raw w hw => ?_⟩
      refine ⟨fun h0 => by_eq hw (if_pos h0), fun h0 hcuts => by_eq hw ((if_neg h0).trans ?_), fun cut h0 hcuts => by_eq hw ((if_neg h0).trans ?_)⟩
      · exact congrArg (dealCut o c db pb vh _ w) hcuts
      · exact (congrArg (dealCut o c db pb vh _ w) hcuts).trans (congrArg (w.onPass o) (funext fun x => dealBatch_full x))
    refine ⟨fun h0 => coded (by_eq h1 (by rw [if_pos h0]; rfl)), fun h0 => ?_⟩
    rw [if_neg h0] at h1
    exact bound h1 fun fh v hv => coded hv
  · intro ends todo
    have placed : exec (.workgroupPlace o) s = .next _ := congrArg Host.Outcome.next (placeDo_binning hp hq hb)
    rw [placeVertex_eq] at placed
    refine ⟨fun h => placed.trans (congrArg _ ?_), fun hc hf b hb => ?_⟩
    · by_cases hc : ctxRuns s p.ctx = true
      · by_cases hf : p.fail = none
        · have hnone : p.batches.find? todo = none := List.find?_eq_none.mpr fun b hb => by
            rcases h with h | h | h
            · simp [hc] at h
            · exact absurd hf h
            · simp [h b hb]
          refine (if_neg (by simp [hc])).trans ((if_neg (by simp [hf])).trans ?_)
          exact congrArg (vertexOf p q.emask s) hnone
        · exact (if_neg (by simp [hc])).trans (if_pos (Option.isSome_iff_ne_none.mpr hf))
      · exact if_pos (by simpa using hc)
    · intro idx gran vs
      have run : ends (vertexOn p b s (vertexCore s q.emask b.cluster (idx % 4) gran)) :=
        placed.trans (congrArg _ ((if_neg (by simp [hc])).trans ((if_neg (by simp [hf])).trans (congrArg (vertexOf p q.emask s) hb))))
      exact ⟨fun h => run.trans (congrArg (fun x => Host.Outcome.next (vertexOn p b s x)) h),
        fun k h => run.trans (congrArg (fun x => Host.Outcome.next (vertexOn p b s x)) h)⟩
  · intro z ends
    have hz : closeOps (applyIO io s) = z := rfl
    clear_value z
    refine ⟨fun h => congrArg Host.Outcome.next (binnedDo_gone hz h), fun p hp => ⟨fun h => congrArg Host.Outcome.next (binnedDo_empty hz hp h),
      fun b l hfront => ?_⟩⟩
    intro shaded early
    have hearly : early ↔ (p.phase ≠ .binning ∨ p.waiting.contains c.val = true ∨ batchShaded z o b = false ∨ ctxRuns z p.ctx = false) := by
      simp only [early, shaded, ← batchShaded_iff, Bool.not_eq_true]
    refine ⟨fun h => congrArg Host.Outcome.next (binnedDo_early hz hp hfront (hearly.mp h)), fun h b' r hr => ?_⟩
    have ended {x : Take Unit} (hx : r = x) : ends (binnedEnd o c.val p b b' z x) :=
      congrArg Host.Outcome.next ((binnedDo_runs hz hp hfront hr (hearly.not.mp h)).trans (congrArg _ hx))
    exact ⟨fun p' u hu => ended (x := .ok () p' u) hu, fun p' u hu => ended (x := .empty p' u) hu, fun u hu => ended (x := .bad u) hu,
      fun f u hu => ended (x := .fault f u) hu, fun u hu => ended (x := .severed u) hu, fun hu => ended (x := .wait) hu⟩
  · exact ⟨fun n h => growRaise_again h, fun h => growRaise_first h, rfl⟩
  · intro z ends
    have hz : closeOps (applyIO io (advanceTo t s)) = z := rfl
    clear_value z
    have polled {u : State} (h : growPollDo o io (advanceTo t s) = u) : ends u := congrArg _ h
    refine ⟨fun h => polled (growPollDo_gone hz h), fun p hp => ⟨fun h => polled ?_, fun since hs hc => ?_⟩⟩
    · cases hg : p.growAt with
      | none => exact growPollDo_none hz hp hg
      | some n =>
        rw [hg] at h
        exact (growPollDo_some hz hp hg).trans (if_pos (by simpa using h))
    · intro read
      have run : growPollDo o io (advanceTo t s) = passTr o noMaster p.ctx read z (growRead p since z) :=
        (growPollDo_some hz hp hs).trans (if_neg (by simp [hc]))
      refine ⟨fun h => polled (run.trans (passTr_unread h)), fun pool u h => ?_⟩
      intro prod late
      have got : ends (growRead p since z pool u) := polled (run.trans (passTr_ok h))
      refine ⟨fun h1 => got.trans (congrArg _ (if_pos h1)), fun h1 h2 => got.trans (congrArg _ ?_), fun h1 h2 => got.trans (congrArg _ ?_)⟩
      · exact (if_neg (BitVec.not_lt.mpr h1)).trans (if_neg h2)
      · exact (if_neg (BitVec.not_lt.mpr h1)).trans (if_pos h2)

end Sys2Proof.Machine
end

section
/-! Tiles of a render pass, its end, and FBC_CLEAR (R281 to R307). -/

namespace Sys2Proof.Machine

open Sys2Proof

/-! ### SHADING_START and PARTIAL_RENDER_DONE -/

section
variable {o : OpRef} {s z : State} (hz : closeOps s = z)
include hz

theorem shadingDo_gone (h : z.pass? o = none ∨ z.op? o = none) : shadingDo o s = z := by
  subst hz
  unfold shadingDo
  dsimp only
  rcases h with h | h
  · rw [h]
  · rw [h]
    cases (closeOps s).pass? o <;> rfl

theorem shadingDo_pass {p : PassRun} {e : Entry} {q : Op} (hp : z.pass? o = some p) (hq : z.op? o = some (e, q)) :
    shadingDo o s =
      if p.phase ≠ .binning ∨ p.fail.isSome = true ∨ p.draw < fld q.body 32 4 ∨ p.batches ≠ [] ∨ earlierPass z o = true ∨
          (p.stopping = true ∧ yields z o = true) ∨ (!ctxRuns z p.ctx) = true then z
      else passDone o (z.onPass o fun p => { p with phase := .shading, nextTile := 0, stopping := false, paused := false }) := by
  subst hz
  unfold shadingDo
  dsimp only
  rw [hp, hq]

theorem partialDoneDo_gone (h : z.pass? o = none) : partialDoneDo o s = z := by
  subst hz
  unfold partialDoneDo
  dsimp only
  rw [h]

theorem partialDoneDo_pass {p : PassRun} (hp : z.pass? o = some p) : partialDoneDo o s =
    if p.phase ≠ .part ∨ (!phaseOver z p) = true ∨ p.fail.isSome = true then z
    else if p.rewound = some p.bcut then closeOps (passFail o 0x0B 0x54 z)
    else
      let p' : PassRun := { p with phase := .binning, cons := p.start, partials := p.partials + 1, lists := [], chunks := [], rewound := some p.bcut, nextTile := 0 }
      passTr o noMaster p.ctx ((tWrite noMaster p.ctx (fld p.desc 8 8 + 8) (natLe 8 p.start.toNat) (z.onPass p.op fun _ => p')).bind fun _ v =>
        (tWrite noMaster p.ctx (fld p.desc 8 8 + 40) (natLe 8 (p.partials + 1)) v).bind fun _ v => binStateInit p' v) z fun _ v => v := by
  subst hz
  unfold partialDoneDo
  dsimp only
  rw [hp]
  rfl

end

theorem phaseOver_iff (z : State) (p : PassRun) : phaseOver z p = true ↔ nextTile p = none ∧ tilesOf z p.op = [] := by
  simp [phaseOver]

theorem passDone_failed {o : OpRef} {z : State} {p : PassRun} {st d : Nat} (hp : z.pass? o = some p) (hf : p.fail = some (st, d)) :
    passDone o z = if tilesOf z o = [] then endPass o st d z else z := by
  unfold passDone
  rw [hp]
  dsimp only
  rw [hf]

theorem passDone_good {o : OpRef} {z : State} {p : PassRun} (hp : z.pass? o = some p) (hf : p.fail = none) :
    passDone o z = if p.phase = .shading ∧ phaseOver z p = true then endPass o 0 0 z else z := by
  unfold passDone
  rw [hp]
  dsimp only
  rw [hf]
  rfl

/-! ### Tiles -/

section
variable {α : Type} {o : OpRef} {t : PassTile} {ctx : Nat} {r : Tr α} {s0 u : State} {k : α → State → State}

theorem tileLists_ok {a : α} (h : r = .ok a u) : tileLists o t ctx r s0 k = k a u := by
  rw [h]
  rfl

theorem tileLists_fault {f : Flt} {va : Nat} {acc : Access} (h : r = .fault f va acc u) :
    tileLists o t ctx r s0 k = passFault o t.core ctx f va acc (dropTile t u) := by
  rw [h]
  rfl

theorem tileLists_bad {d : Nat} (h : r = .bad d u) : tileLists o t ctx r s0 k = closeOps (passFail o 0x0B d (dropTile t u)) := by
  rw [h]
  rfl

theorem tileLists_severed (h : r = .severed u) : tileLists o t ctx r s0 k = closeOps (passFail o 0x0D 0 (dropTile t u)) := by
  rw [h]
  rfl

theorem tileLists_wait (h : r = .wait u) : tileLists o t ctx r s0 k = s0 := by
  rw [h]
  rfl

end

/-- The tile of a pass with that number that a core holds. -/
def heldTile (z : State) (o : OpRef) (tile : Nat) : Option PassTile := (tilesOf z o).find? fun t => t.tile = tile

/-- A tile's attachments go to their surfaces. -/
def tileStores (p : PassRun) (t : PassTile) (tile : Nat) (z : State) : Tr (List Unit) :=
  trMap ((atts p.desc).filter fun j => decide (p.phase = .part) || decide (attStore (att p.desc j) = 0))
    (fun j s => (tileRead t (attOff p.desc j) (attTile p.desc j) s).bind fun bs s => tWrite t.core p.ctx (surfTile p.desc j tile) bs s) z

/-- A tile is stored. -/
def tileGone (o : OpRef) (t : PassTile) (tile : Nat) (u : State) : State :=
  passBoundary o (passDone o ((dropTile t u).onPass o fun p => { p with
    shaded := p.shaded + 1
    partialTiles := if p.phase = .part ∧ (!p.partialTiles.contains tile) = true then p.partialTiles ++ [tile] else p.partialTiles }))

section
variable {o : OpRef} {tile : Nat} {s z : State} (hz : closeOps s = z)
include hz

theorem storedDo_gone (h : z.pass? o = none ∨ heldTile z o tile = none) : storedDo o tile s = z := by
  subst hz
  unfold storedDo
  dsimp only
  rcases h with h | h
  · rw [h]
  · rw [show (tilesOf (closeOps s) o).find? (fun t => t.tile = tile) = none from h]
    cases (closeOps s).pass? o <;> rfl

theorem storedDo_held {p : PassRun} {t : PassTile} (hp : z.pass? o = some p) (ht : heldTile z o tile = some t) :
    storedDo o tile s = if (!t.shaded) = true ∨ z.isPinned t.core = true ∨ (!ctxRuns z p.ctx) = true then z
      else tileLists o t p.ctx (tileStores p t tile z) z fun _ u => tileGone o t tile u := by
  subst hz
  unfold storedDo
  dsimp only
  rw [hp, show (tilesOf (closeOps s) o).find? (fun t => t.tile = tile) = some t from ht]
  dsimp only
  refine if_congr Iff.rfl rfl ?_
  change (match tileStores p t tile (closeOps s) with
    | .ok _ u => tileGone o t tile u
    | .fault f va acc s => passFault o t.core p.ctx f va acc (dropTile t s)
    | .bad c s => failPass o stOpError c (dropTile t s)
    | .severed s => failPass o stSevered 0 (dropTile t s)
    | .wait _ => closeOps s) = _
  cases tileStores p t tile (closeOps s) <;> rfl

end

/-- A core takes a tile, and loads it. -/
def tileTaken (o : OpRef) (p : PassRun) (tile : Nat) (go z : State) : Option (Nat × Nat) → State
  | none => z
  | some (k, base) =>
    let pt : PassTile := { op := o, ctx := p.ctx, tile, core := k, base, size := footprint p.desc / 1024, placed := 0, shaded := false }
    tileLists o pt p.ctx (loadTile p pt (syncUnits o (joinCore o k p.ctx (go.onRnd fun x => { x with tiles := x.tiles ++ [pt] })))) z fun _ u => u

section
variable {o : OpRef} {tile : Nat} {io : HostIO} {s z : State} (hz : closeOps (applyIO io s) = z)
include hz

theorem assignDo_gone (h : z.pass? o = none ∨ z.op? o = none) : assignDo o tile io s = z := by
  subst hz
  unfold assignDo
  dsimp only
  rcases h with h | h
  · rw [h]
  · rw [h]
    cases (closeOps (applyIO io s)).pass? o <;> rfl

theorem assignDo_pass {p : PassRun} {e : Entry} {q : Op} {go : State} (hp : z.pass? o = some p) (hq : z.op? o = some (e, q))
    (hgo : z.onPass o (fun p => { p with nextTile := tile + 1, stopping := false, paused := false }) = go) :
    assignDo o tile io s =
      if p.phase = .binning ∨ p.fail.isSome = true ∨ nextTile p ≠ some tile ∨ heldAtTile z p = true ∨ (p.phase = .part ∧ earlierPass z o = true) ∨
          (!ctxRuns z p.ctx) = true then z
      else if (!tileShades p tile) = true then passTr o noMaster p.ctx (clearTile p tile go) z fun _ u => passDone o u
      else tileTaken o p tile go z (tileCore z q.emask p.ctx (footprint p.desc / 1024)) := by
  subst hz hgo
  unfold assignDo
  dsimp only
  rw [hp, hq]
  refine if_congr Iff.rfl rfl (if_congr Iff.rfl rfl ?_)
  cases tileCore (closeOps (applyIO io s)) q.emask p.ctx (footprint p.desc / 1024) with
  | none => rfl
  | some kb =>
    obtain ⟨k, base⟩ := kb
    dsimp only [tileTaken]
    generalize loadTile p _ _ = r
    cases r <;> rfl

end

/-- What a pass shades its samples with, from what its fragments have given. -/
def tileBuf (ftz : Bool) (p : PassRun) (tile : Nat) (frags : List Fragment) (prims : List TilePrim) (old : List Byte) : List Byte :=
  bufOf p.desc fun x y smp => shadeSample ftz p.desc (prims.map fun x => (x, primPoly x.kind (x.verts.filterMap recPoint))) frags
    (tile % pTX p.desc * 32 + x) (tile / pTX p.desc * 32 + y) smp (bufVals p.desc old x y smp)

section
variable {o : OpRef} {tile : Nat} {frags : List Fragment} {io : HostIO} {s z : State} (hz : closeOps (applyIO io s) = z)
include hz

theorem shadedDo_gone (h : z.pass? o = none ∨ z.op? o = none ∨ heldTile z o tile = none) : shadedDo o tile frags io s = z := by
  subst hz
  unfold shadedDo
  dsimp only
  generalize hl : List.find? _ (tilesOf (closeOps (applyIO io s)) o) = l
  rcases h with h | h | h
  · rw [h]
  · rw [h]
    cases (closeOps (applyIO io s)).pass? o <;> rfl
  · rw [← hl, show List.find? (fun t : PassTile => decide (t.tile = tile)) (tilesOf (closeOps (applyIO io s)) o) = none from h]
    cases (closeOps (applyIO io s)).pass? o with
    | none => rfl
    | some p => cases (closeOps (applyIO io s)).op? o <;> rfl

theorem shadedDo_held {p : PassRun} {e : Entry} {q : Op} {t : PassTile} (hp : z.pass? o = some p) (hq : z.op? o = some (e, q))
    (ht : heldTile z o tile = some t) :
    shadedDo o tile frags io s =
      if t.shaded = true ∨ z.isPinned t.core = true ∨ (!ctxRuns z p.ctx) = true ∨
          (z.shd.groups.any fun g => decide (g.op = o) && decide (g.role = .fragment tile)) = true then z
      else tileLists o t p.ctx (tilePrims t.core p (fld q.body 24 8) tile z) z fun prims u =>
        if t.placed < (fragGroups p.desc tile prims).length then z
        else tileLists o t p.ctx (tileRead t 0 (scratchOff p.desc) u) z fun old v =>
          tileLists o t p.ctx (tileWrite t 0 (tileBuf (z.ctx p.ctx).ftz p tile frags prims old) v) z fun _ w =>
            if p.phase = .part then markShaded t w else tileEnd o q p t (tileBuf (z.ctx p.ctx).ftz p tile frags prims old) z w := by
  subst hz
  unfold shadedDo
  dsimp only
  rw [hp, hq, show (tilesOf (closeOps (applyIO io s)) o).find? (fun t => t.tile = tile) = some t from ht]
  rfl

end

/-- How the sip pass of a tile ends. -/
def sipEnd (o : OpRef) (p : PassRun) (t : PassTile) (z : State) : SipEnd → State
  | .ok _ s => markShaded t s
  | .fail st c s => closeOps (passFail o st c (markShaded t s))
  | .fault m f va acc s => passFault o m p.ctx f va acc (markShaded t s)
  | .wait => z

/-- How the resolve of a tile ends. -/
def resolveEnd (o : OpRef) (q : Op) (p : PassRun) (t : PassTile) (buf : List Byte) (z : State) : Tr (List Unit) → State
  | .fault f va acc s => passFault o t.core p.ctx f va acc (markShaded t s)
  | .bad c s => closeOps (passFail o 0x0B c (markShaded t s))
  | .severed s => closeOps (passFail o 0x0D 0 (markShaded t s))
  | .wait _ => z
  | .ok _ s => if bit (fld p.desc 6 1) 2 = true then sipEnd o p t z (sipDo o q p t buf s) else markShaded t s

/-- The writes of a tile's resolved attachments. -/
def tileResolves (p : PassRun) (t : PassTile) (buf : List Byte) (u : State) : Tr (List Unit) :=
  trMap (atts p.desc) (fun j v => writeResolve t.core p j t.tile (fun x y =>
    resolveSample (u.ctx p.ctx).ftz (attFmt (att p.desc j)) ((upTo (pSamples p.desc)).map fun smp => (bufVals p.desc buf x y smp).getD j 0)) v) u

theorem tileEnd_eq (o : OpRef) (q : Op) (p : PassRun) (t : PassTile) (buf : List Byte) (z u : State) :
    tileEnd o q p t buf z u = resolveEnd o q p t buf z (tileResolves p t buf u) := by
  unfold tileEnd
  change (match tileResolves p t buf u with
    | .fault f va acc s => _
    | .bad c s => _
    | .severed s => _
    | .wait _ => _
    | .ok _ s => _) = _
  cases tileResolves p t buf u with
  | ok l s =>
    dsimp only [resolveEnd]
    refine if_congr Iff.rfl ?_ rfl
    cases sipDo o q p t buf s <;> rfl
  | _ => rfl

/-! ### Fragment groups -/

theorem placeDo_fragments {o : OpRef} {s : State} {p : PassRun} {e : Entry} {q : Op} (hp : s.pass? o = some p) (hq : s.op? o = some (e, q))
    (hb : p.phase ≠ .binning) :
    placeDo o s = if (!ctxRuns s p.ctx) = true then s else placeFragment p (fld q.body 24 8) (tilesOf s o) s := by
  unfold placeDo
  rw [hp, hq]
  exact if_congr Iff.rfl rfl (if_neg hb)

/-- The fragment group that a tile places next. -/
def fragOn (p : PassRun) (drawVa : Nat) (t : PassTile) (ts : List PassTile) (u v : State) : Option (TilePrim × List (Nat × Nat)) → State
  | none => placeFragment p drawVa ts u
  | some (x, qs) =>
    let at' (l : Nat) : Nat × Nat := lanePixel qs l
    if (!groupRoom u t.core (t.placed % 32 % 4) ((fld x.pb 17 1 + 7) / 8)) = true then placeFragment p drawVa ts u
    else tileLists p.op t p.ctx (tRead t.core p.ctx (fld x.pb 8 8) 64 v) u fun hdr w =>
      placeGroup p t.core ((fld x.pb 17 1 + 7) / 8) (t.placed % 32) t.tile (.fragment t.tile) (fld x.pb 8 8) (fld x.db 40 8) hdr (maskOf (upTo (4 * qs.length)))
        (maskOf ((upTo (4 * qs.length)).filter fun l => !pixelHit p.desc x (at' l).1 (at' l).2))
        ((upTo (4 * qs.length)).map fun l => fragInputs (w.ctx p.ctx).ftz x (at' l).1 (at' l).2)
        (w.onRnd fun r => { r with tiles := mapIf (fun y => decide (y.op = t.op) && decide (y.tile = t.tile)) (fun y => { y with placed := y.placed + 1 }) r.tiles })

theorem placeFragment_cons (p : PassRun) (drawVa : Nat) (t : PassTile) (ts : List PassTile) (u : State) :
    placeFragment p drawVa (t :: ts) u =
      if t.shaded = true ∨ u.isPinned t.core = true then placeFragment p drawVa ts u
      else tileLists p.op t p.ctx (tilePrims t.core p drawVa t.tile u) u fun prims v =>
        fragOn p drawVa t ts u v ((fragGroups p.desc t.tile prims)[t.placed]?) := by
  rw [placeFragment]
  refine if_congr Iff.rfl rfl (congrArg (tileLists p.op t p.ctx _ u) (funext fun prims => funext fun v => ?_))
  cases (fragGroups p.desc t.tile prims)[t.placed]? with
  | none => rfl
  | some x => rfl

/-! ### The end of a pass -/

@[simp] theorem length_passReport (p : PassRun) (st d t : Nat) : (passReport p st d t).length = 32 := by
  simp [passReport]

theorem endPass_some {o : OpRef} {st d : Nat} {s : State} {p : PassRun} (h : (opEnding o st d noMaster s).pass? o = some p) :
    endPass o st d s = closePass p (opEnding o st d noMaster s) := by
  unfold endPass
  dsimp only
  rw [h]

theorem endPass_none {o : OpRef} {st d : Nat} {s : State} (h : (opEnding o st d noMaster s).pass? o = none) :
    endPass o st d s = opEnding o st d noMaster s := by
  unfold endPass
  dsimp only
  rw [h]

/-- A pass completes with the flags of its sip ops. -/
def passCompletes (p : PassRun) (x : Ending) (w : State) : State := endOp p.op x.status x.detail p.flags (shdSweep (dropPass p.op w))

/-- How a pass that is over completes, by the write of its report. -/
def passReportEnd (p : PassRun) (x : Ending) (ctx : Nat) (s : State) : Res Unit → State
  | .ok _ w => passCompletes p x w
  | .fault f w => passCompletes p x (feFault f ctx w).2
  | .severed w => passCompletes p x w
  | .wait _ => s

/-- A pass that is over has set its pool back. -/
def passClosed (p : PassRun) (x : Ending) (e : Entry) (q : Op) (s v : State) : State :=
  if fld q.body 40 8 = 0 then passCompletes p x v
  else passReportEnd p x e.ctx s (vaWrite noMaster e.ctx (fld q.body 40 8) (passReport p x.status x.detail v.time) v)

/-- How the end of a pass goes on, by the write of its pool. -/
def backEnd (p : PassRun) (x : Ending) (e : Entry) (q : Op) (s : State) : Res Unit → State
  | .ok _ v => passClosed p x e q s v
  | .fault f w => passClosed p x e q s (feFault f p.ctx w).2
  | .severed v => passClosed p x e q s v
  | .wait _ => s

section
variable {p : PassRun} {s : State} {e : Entry} {q : Op} (h : s.op? p.op = some (e, q)) (hrun : q.phase = .running)
include h hrun

theorem closePass_early (hen : q.ending = none) : closePass p s = s := by
  unfold closePass
  dsimp only
  rw [h]
  exact (if_neg fun hn => hn hrun).trans (by rw [hen])

theorem closePass_over {x : Ending} (hen : q.ending = some x) (hc : ctxRuns s e.ctx = true) :
    closePass p s = backEnd p x e q s (vaWrite noMaster p.ctx (fld p.desc 8 8 + 8) (natLe 8 p.start.toNat) s) := by
  have closed (v : State) : (match (if fld q.body 40 8 = 0 then some v else
      (vaWrite noMaster e.ctx (fld q.body 40 8) (passReport p x.status x.detail v.time) v).settled fun f s => (feFault f e.ctx s).2) with
      | some w => passCompletes p x w
      | none => s) = passClosed p x e q s v := by
    unfold passClosed
    by_cases h0 : fld q.body 40 8 = 0
    · rw [if_pos h0, if_pos h0]
    · rw [if_neg h0, if_neg h0]
      cases vaWrite noMaster e.ctx (fld q.body 40 8) (passReport p x.status x.detail v.time) v <;> rfl
  unfold closePass
  dsimp only
  rw [h]
  dsimp only
  rw [if_neg fun hn => hn hrun, hen]
  dsimp only
  rw [hc]
  refine (if_neg (by simp)).trans ?_
  unfold poolBack pPool
  cases vaWrite noMaster p.ctx (fld p.desc 8 8 + 8) (natLe 8 p.start.toNat) s with
  | ok u v => exact closed v
  | fault f w => exact closed (feFault f p.ctx w).2
  | severed v => exact closed v
  | wait v => rfl

end

/-! ### FBC_CLEAR -/

/-- Does a physical address lie in package memory. -/
def inPkg (s : State) (pa : Nat) : Bool := match target s pa with
  | .pkg _ _ => true
  | _ => false

theorem inPkg_iff (s : State) (pa : Nat) : inPkg s pa = true ↔ ∃ ch a, target s pa = .pkg ch a := by
  unfold inPkg
  cases target s pa <;> simp

/-- How an FBC_CLEAR goes on from a frame, by what its address leads to. -/
def frameEnd (o : OpRef) (m ctx word va : Nat) (l : List Nat) : Res Leaf → State
  | .ok leaf s =>
    if (leaf.fbc && inPkg s (leaf.base + (va - leaf.va))) = true then
      fbcFrames o m ctx word l (fbcClearFrame leaf.key ((leaf.base + (va - leaf.va)) / 4096) word s)
    else endOp o 0x0B 0x55 0 s
  | .fault f s => opFault f o m va .write s
  | .severed s => endOp o 0x0D 0 0 s
  | .wait s => s

theorem fbcFrames_cons (o : OpRef) (m ctx word va : Nat) (l : List Nat) (u : State) :
    fbcFrames o m ctx word (va :: l) u = frameEnd o m ctx word va l (xlate m ctx va .write u) := by
  rw [fbcFrames]
  cases xlate m ctx va .write u <;> rfl

/-- The lines of a frame are dropped from one L2. -/
def l2DropFrame (frame d : Nat) (s : State) : State :=
  s.setL2 d { s.l2 d with
    lines := (s.l2 d).lines.filter fun l => l.line / 32 ≠ frame
    misses := (s.l2 d).misses.filter fun m => m.line / 32 ≠ frame }

theorem lines_l2DropFrame (frame d : Nat) (s : State) : ∀ l ∈ ((l2DropFrame frame d s).l2 d).lines, l.line / 32 ≠ frame := by
  intro l hl
  rw [l2DropFrame, l2_setL2] at hl
  simpa using List.of_mem_filter hl

theorem l2DropFrame_other {frame d k : Nat} (s : State) (h : k ≠ d) : (l2DropFrame frame d s).l2 k = s.l2 k := l2_setL2_ne _ _ h

theorem fbcClearFrame_eq (key frame word : Nat) (s : State) :
    fbcClearFrame key frame word s = l2DropFrame frame 1 (l2DropFrame frame 0 (dramWrite key (fbcBase s + 32 * frame) (fbcClearEntry word) s)) := rfl

theorem lines_fbcClearFrame (key frame word : Nat) (s : State) : ∀ d < 2, ∀ l ∈ ((fbcClearFrame key frame word s).l2 d).lines, l.line / 32 ≠ frame := by
  intro d hd
  rw [fbcClearFrame_eq]
  match d, hd with
  | 0, _ => rw [l2DropFrame_other _ (by decide)]; exact lines_l2DropFrame frame 0 _
  | 1, _ => exact lines_l2DropFrame frame 1 _

@[simp] theorem length_fbcClearEntry (word : Nat) : (fbcClearEntry word).length = 32 := by
  simp [fbcClearEntry]

theorem fld_fbcClearEntry (word : Nat) : fld (fbcClearEntry word) 8 4 = word % 2 ^ 32 := by
  simp only [fbcClearEntry, List.append_assoc]
  rw [fld_append_right 4 (by simp), length_natLe, fld_natLe_append]
  rfl

/-- How an FBC_CLEAR that holds a channel ends, by its op. -/
def fbcEnd (o : OpRef) (c : CopyRun) (e : Entry) (p : Op) (s : State) : State :=
  if p.phase ≠ .running then dropCopy o s
  else if (!ctxRuns s e.ctx) = true then discardOp o (dropCopy o s)
  else if p.opcode ≠ 0x21 then s
  else
    let u := fbcFrames o (0x48 + c.chan) e.ctx (fld p.body 28 4) ((upTo (fld p.body 24 4)).map fun i => fld p.body 16 8 + 4096 * i) s
    if opRunning u o = true then u else dropCopy o u

section
variable {o : OpRef} {io : HostIO} {s s0 : State} (h0 : applyIO io s = s0)
include h0

theorem fbcDoneDo_free (h : s0.fe.copies.find? (fun c => c.op = o) = none) : fbcDoneDo o io s = s0 := by
  subst h0
  unfold fbcDoneDo
  dsimp only
  rw [h]

theorem fbcDoneDo_held {c : CopyRun} {e : Entry} {p : Op} (h : s0.fe.copies.find? (fun c => c.op = o) = some c) (hop : s0.op? o = some (e, p)) :
    fbcDoneDo o io s = fbcEnd o c e p s0 := by
  subst h0
  unfold fbcDoneDo
  dsimp only
  rw [h, hop]
  rfl

end

/-! ### The obligation -/

/-- Settles O45: a tile ends by what each of its reads and writes gives, a pass by its pool's and its report's, and an
FBC_CLEAR frame by frame. -/
theorem tilesAreRendered : Obligations.TilesAreRendered := by
  unfold Obligations.TilesAreRendered
  refine ⟨fun o s => ?_, fun o tile t s => ?_, fun o tile io s => ?_, fun o st d p s => ?_, fun o s e p hop => ?_⟩
  · intro z
    have hz : closeOps s = z := rfl
    clear_value z
    refine ⟨fun h => congrArg Host.Outcome.next (shadingDo_gone hz h), fun h => congrArg Host.Outcome.next (partialDoneDo_gone hz h),
      fun p e q hp hq => ?_, fun p hp => ?_, fun p hp => ⟨fun st d hf => passDone_failed hp hf, fun hf => (passDone_good hp hf).trans ?_⟩⟩
    · intro early
      have run : exec (.shadingStart o) s = .next _ := congrArg Host.Outcome.next (shadingDo_pass hz hp hq)
      have hearly : early ↔ (p.phase ≠ .binning ∨ p.fail.isSome = true ∨ p.draw < fld q.body 32 4 ∨ p.batches ≠ [] ∨ earlierPass z o = true ∨
          (p.stopping = true ∧ yields z o = true) ∨ (!ctxRuns z p.ctx) = true) := by
        simp only [early, Option.isSome_iff_ne_none, Bool.not_eq_true']
      exact ⟨fun h => run.trans (congrArg _ (if_pos (hearly.mp h))), fun h => run.trans (congrArg _ (if_neg (hearly.not.mp h)))⟩
    · intro early
      have run : exec (.partialRenderDone o) s = .next _ := congrArg Host.Outcome.next (partialDoneDo_pass hz hp)
      have hearly : early ↔ (p.phase ≠ .part ∨ (!phaseOver z p) = true ∨ p.fail.isSome = true) := by
        simp only [early, Option.isSome_iff_ne_none, Bool.not_eq_true', ← Bool.not_eq_true, phaseOver_iff, not_and_or, or_assoc]
      refine ⟨fun h => run.trans (congrArg _ (if_pos (hearly.mp h))),
        fun h hr => run.trans (congrArg _ ((if_neg (hearly.not.mp h)).trans (if_pos hr))), fun h hr => ?_⟩
      exact run.trans (congrArg _ ((if_neg (hearly.not.mp h)).trans (if_neg hr)))
    · exact if_congr (and_congr_right fun _ => phaseOver_iff z p) rfl rfl
  · intro z ends
    have hz : closeOps (advanceTo t s) = z := rfl
    clear_value z
    have stored {u : State} (h : storedDo o tile (advanceTo t s) = u) : ends u := congrArg (fun u => Host.Outcome.next (metaLog u)) h
    refine ⟨fun h => stored (storedDo_gone hz h), fun p pt hp ht => ?_⟩
    intro stays js stores
    have run := stored (storedDo_held hz hp ht)
    have hstays : stays ↔ ((!pt.shaded) = true ∨ z.isPinned pt.core = true ∨ (!ctxRuns z p.ctx) = true) := by
      simp only [stays, Bool.not_eq_true']
    refine ⟨fun h => run.trans (congrArg (fun u => Host.Outcome.next (metaLog u)) (if_pos (hstays.mp h))), fun h => ?_⟩
    have held : ends (tileLists o pt p.ctx stores z fun _ u => tileGone o pt tile u) :=
      run.trans (congrArg (fun u => Host.Outcome.next (metaLog u)) (if_neg (hstays.not.mp h)))
    have by_eq {t t' : State} (h : ends t) (ht : t = t') : ends t' := ht ▸ h
    refine ⟨fun l u hu => ?_, fun f va acc u hu => by_eq held (tileLists_fault hu), fun d u hu => by_eq held (tileLists_bad hu),
      fun u hu => by_eq held (tileLists_severed hu), fun u hu => by_eq held (tileLists_wait hu)⟩
    refine by_eq held ((tileLists_ok hu).trans ?_)
    unfold tileGone
    simp only [Bool.not_eq_true']
  · intro z ends lost
    have hz : closeOps (applyIO io s) = z := rfl
    clear_value z
    refine ⟨fun h => congrArg (fun u => Host.Outcome.next (metaLog u)) (assignDo_gone hz h), fun p e q hp hq => ?_, fun frags => ?_, fun q p t buf u => ?_,
      fun p e q hp hq hb => ?_, fun p drawVa t ts u => ?_⟩
    · intro held closed go size
      have hgo : z.onPass o (fun p => { p with nextTile := tile + 1, stopping := false, paused := false }) = go := rfl
      clear_value go
      have run : ends _ := congrArg (fun u => Host.Outcome.next (metaLog u)) (assignDo_pass hz hp hq hgo)
      have by_eq {t t' : State} (h : ends t) (ht : t = t') : ends t' := ht ▸ h
      have hclosed : closed ↔ (p.phase = .binning ∨ p.fail.isSome = true ∨ nextTile p ≠ some tile ∨ heldAtTile z p = true ∨
          (p.phase = .part ∧ earlierPass z o = true) ∨ (!ctxRuns z p.ctx) = true) := by
        simp only [closed, held, heldAtTile, Option.isSome_iff_ne_none, Bool.not_eq_true', Bool.and_eq_true, Bool.or_eq_true, decide_eq_true_eq]
      refine ⟨fun h => by_eq run (if_pos (hclosed.mp h)), fun h hs => by_eq run ((if_neg (hclosed.not.mp h)).trans (if_pos (by simp [hs]))), fun h hs => ?_⟩
      have core : ends (tileTaken o p tile go z (tileCore z q.emask p.ctx size)) :=
        by_eq run ((if_neg (hclosed.not.mp h)).trans (if_neg (by simp [hs])))
      refine ⟨fun hk => by_eq core (congrArg _ hk), fun k base hk => ?_⟩
      intro pt loads
      have taken : ends (tileLists o pt p.ctx loads z fun _ u => u) := by_eq core (congrArg _ hk)
      exact ⟨fun u hu => by_eq taken (tileLists_ok hu), fun f va acc u hu => by_eq taken (tileLists_fault hu), fun d u hu => by_eq taken (tileLists_bad hu),
        fun u hu => by_eq taken (tileLists_severed hu), fun u hu => by_eq taken (tileLists_wait hu)⟩
    · intro ends
      have shade {u : State} (h : shadedDo o tile frags io s = u) : ends u := congrArg (fun u => Host.Outcome.next (metaLog u)) h
      have by_eq {t t' : State} (h : ends t) (ht : t = t') : ends t' := ht ▸ h
      refine ⟨fun h => shade (shadedDo_gone hz h), fun p e q pt hp hq ht => ?_⟩
      intro d stays lists
      have run := shade (shadedDo_held (frags := frags) hz hp hq ht)
      have hstays : stays ↔ (pt.shaded = true ∨ z.isPinned pt.core = true ∨ (!ctxRuns z p.ctx) = true ∨
          (z.shd.groups.any fun g => decide (g.op = o) && decide (g.role = .fragment tile)) = true) := by
        simp only [stays, Bool.not_eq_true', List.any_eq_true, Bool.and_eq_true, decide_eq_true_eq]
      have lostOf {α : Type} {r : Tr α} {k : α → State → State} (h : ends (tileLists o pt p.ctx r z k)) : lost pt p.ctx r ends fun _ => z :=
        ⟨fun f va acc u hu => by_eq h (tileLists_fault hu), fun d u hu => by_eq h (tileLists_bad hu), fun u hu => by_eq h (tileLists_severed hu),
          fun u hu => by_eq h (tileLists_wait hu)⟩
      refine ⟨fun h => by_eq run (if_pos (hstays.mp h)), fun h => ?_⟩
      have first := by_eq run (if_neg (hstays.not.mp h))
      refine ⟨lostOf first, fun prims u hu => ?_⟩
      have listed := by_eq first (tileLists_ok hu)
      refine ⟨fun hlt => by_eq listed (if_pos hlt), fun hle => ?_⟩
      have second := by_eq listed (if_neg (Nat.not_lt.mpr hle))
      refine ⟨lostOf second, fun old v hv => ?_⟩
      have third := by_eq second (tileLists_ok hv)
      exact ⟨lostOf third, fun w hw => by_eq third (tileLists_ok hw)⟩
    · intro d resolves sip
      have ended {x : Tr (List Unit)} (hx : resolves = x) : tileEnd o q p t buf z u = resolveEnd o q p t buf z x := (tileEnd_eq ..).trans (congrArg _ hx)
      refine ⟨fun f va acc v h => ended (x := .fault f va acc v) h, fun v h => ended (x := .severed v) h, fun v h => ended (x := .wait v) h,
        fun l v h => ⟨fun hs => (ended (x := .ok l v) h).trans (if_neg (by simp [d] at hs; simp [hs])), fun hs => ?_⟩⟩
      have sipped {x : SipEnd} (hx : sip v = x) : tileEnd o q p t buf z u = sipEnd o p t z x :=
        (ended (x := .ok l v) h).trans ((if_pos hs).trans (congrArg _ hx))
      exact ⟨fun a w hw => sipped (x := .ok a w) hw, fun st c w hw => sipped (x := .fail st c w) hw,
        fun m f va acc w hw => sipped (x := .fault m f va acc w) hw, fun hw => sipped (x := .wait) hw⟩
    · have run : exec (.workgroupPlace o) s = .next _ := congrArg Host.Outcome.next (placeDo_fragments hp hq hb)
      exact ⟨fun h => run.trans (congrArg _ (if_pos (by simp [h]))), fun h => run.trans (congrArg _ (if_neg (by simp [h])))⟩
    · intro later lists
      have cons := placeFragment_cons p drawVa t ts u
      refine ⟨rfl, fun h => cons.trans (if_pos h), fun h1 h2 prims v hv => ?_⟩
      have group {x : Option (TilePrim × List (Nat × Nat))} (hx : (fragGroups p.desc t.tile prims)[t.placed]? = x) :
          placeFragment p drawVa (t :: ts) u = fragOn p drawVa t ts u v x :=
        cons.trans ((if_neg (by simp [h1, h2])).trans ((tileLists_ok hv).trans (congrArg _ hx)))
      refine ⟨fun h => group h, fun x qs h => ?_⟩
      intro idx gran
      have room := group h
      exact ⟨fun hr => room.trans (if_pos (by rw [hr]; rfl)), fun hr hdr w hw => room.trans ((if_neg (by rw [hr]; decide)).trans (tileLists_ok hw))⟩
  · intro u
    refine ⟨fun h => endPass_some h, fun h => endPass_none h, fun e q x hq hrun hen hc => ?_, fun e q hq hrun hen => closePass_early hq hrun hen,
      length_passReport ..⟩
    intro back
    have closed {y : Res Unit} (hy : back = y) : closePass p s = backEnd p x e q s y := (closePass_over hq hrun hen hc).trans (congrArg _ hy)
    refine ⟨fun v h => closed (y := .wait v) h, fun v h => ?_⟩
    intro completes
    have through : closePass p s = passClosed p x e q s v := by
      rcases h with h | h | ⟨f, w, h, rfl⟩
      · exact closed (y := .ok () v) h
      · exact closed (y := .severed v) h
      · exact closed (y := .fault f w) h
    refine ⟨fun h0 => through.trans (if_pos h0), fun h0 => ?_⟩
    intro report
    have reported {y : Res Unit} (hy : report = y) : closePass p s = passReportEnd p x e.ctx s y := through.trans ((if_neg h0).trans (congrArg _ hy))
    refine ⟨fun w hw => ?_, fun f w hw => reported (y := .fault f w) hw, fun w hw => reported (y := .wait w) hw⟩
    rcases hw with hw | hw
    · exact reported (y := .ok () w) hw
    · exact reported (y := .severed w) hw
  · intro va n
    refine ⟨fun chan => ⟨fun h => congrArg Host.Outcome.next (withOp_other hop h), fun hp ho hen hc => ?_⟩, fun io => ?_, fun m ctx word at' l u => ?_,
      fun key frame word t => ⟨fun d hd l hl _ => lines_fbcClearFrame key frame word t d hd l hl, length_fbcClearEntry word, fld_fbcClearEntry word⟩⟩
    · have run : exec (.fbcClear o chan) s = .next (fbcClearDo o chan.val p.body s) :=
        congrArg Host.Outcome.next ((withOp_running hop hp hen ho).trans (if_pos hc))
      refine ⟨fun h => run.trans (congrArg _ (if_pos h)), fun h1 h2 h3 => ?_⟩
      have take := run.trans (congrArg Host.Outcome.next ((if_neg (by simp only [not_or, not_lt]; exact ⟨not_not.mpr h1, h2, h3⟩)).trans (takeChannel_some hop)))
      refine ⟨fun hpin => take.trans (congrArg _ (if_pos hpin)), fun hpin hfree hu hy => take.trans (congrArg _ ?_),
        fun hpin hno => take.trans (congrArg _ ?_)⟩
      · exact (if_neg (by simp [hpin])).trans (if_pos ⟨hfree, hu, hy⟩)
      · refine (if_neg (by simp [hpin])).trans (if_neg ?_)
        rintro ⟨hfree, hu, hy⟩
        rcases hno with h | h | h
        · rw [hfree] at h
          cases h
        · exact h hu
        · rw [hy] at h
          cases h
    · intro s0 drop
      have h0 : applyIO io s = s0 := rfl
      have hop0 : s0.op? o = some (e, p) := (op?_applyIO io s o).trans hop
      have hcopies : s0.fe.copies = s.fe.copies := by
        obtain ⟨m, hm⟩ := applyIO_onlyMem io s
        rw [← h0, hm]
      have hctx : ctxRuns s0 e.ctx = ctxRuns s e.ctx := ctxRuns_applyIO io s e.ctx
      clear_value s0
      have ended {u : State} (h : fbcDoneDo o io s = u) : exec (.fbcClearDone o io) s = .next (metaLog u) :=
        congrArg (fun u => Host.Outcome.next (metaLog u)) h
      refine ⟨fun h => ended (fbcDoneDo_free h0 (by rw [hcopies]; exact h)), fun c hcopy => ?_⟩
      have held := fbcDoneDo_held h0 (by rw [hcopies]; exact hcopy) hop0
      refine ⟨fun hp => ended (held.trans (if_pos hp)), fun hp hc ho => ended (held.trans ?_)⟩
      exact (if_neg fun hn => hn hp).trans ((if_neg (by rw [hctx, hc]; decide)).trans (if_neg fun hn => hn ho))
    · have cons {x : Res Leaf} (hx : xlate m ctx at' .write u = x) : fbcFrames o m ctx word (at' :: l) u = frameEnd o m ctx word at' l x :=
        (fbcFrames_cons ..).trans (congrArg _ hx)
      refine ⟨rfl, fun leaf v hv => ?_, fun f v hv => cons (x := .fault f v) hv, fun v hv => cons (x := .severed v) hv, fun v hv => cons (x := .wait v) hv⟩
      intro pa good
      have hgood : good ↔ (leaf.fbc && inPkg v (leaf.base + (at' - leaf.va))) = true := by
        rw [Bool.and_eq_true, inPkg_iff]
      exact ⟨fun h => (cons hv).trans (if_pos (hgood.mp h)), fun h => (cons hv).trans (if_neg (hgood.not.mp h))⟩

end Sys2Proof.Machine
end

section
/-! The registers of the display pipes, and AUX (R316, R355, R356). -/

namespace Sys2Proof.Machine

open Sys2Proof

theorem bits_congr {x y hi lo : Nat} (h : ∀ i ≤ hi, x.testBit i = y.testBit i) : bits x hi lo = bits y hi lo := by
  refine Nat.eq_of_testBit_eq fun i => ?_
  simp only [bits, Nat.testBit_mod_two_pow, Nat.testBit_div_two_pow]
  by_cases hi' : i < hi + 1 - lo
  · rw [h (i + lo) (by omega)]
  · simp [hi']

theorem bit_testBit (x i : Nat) : bit x i = x.testBit i := (Nat.testBit_eq_decide_div_mod_eq).symm

theorem testBit_toNat (x : Word) (i : Nat) : x.toNat.testBit i = x.getLsbD i := rfl

/-! ### The block of a pipe -/

theorem blockAt_dsp (p : Fin 4) {rel off : Nat} (hk : rel < 0x10000) (hoff : dspOff p.val + rel = off) : blockAt off = some (.dsp p, rel) :=
  blockAt_cluster hk rfl hoff

theorem dsp_virtual (p : Fin 4) : ∀ d ∈ blockRegs (.dsp p), d.vf = false := by
  change ∀ d ∈ regsDsp, d.vf = false
  decide

theorem regWrite4_dsp_virtual {fn : Fn} {p : Fin 4} {off rel : Nat} {s : State} (v : Word) (hq : quiet s fn.val) (h0 : fn.val ≠ 0)
    (hb : blockAt off = some (.dsp p, rel)) : regWrite4 fn.val off v s = s :=
  regWrite4_virtual v hq h0 hb (dsp_virtual p) (by simp)

/-! ### DSP_CTL -/

/-- The row of DSP_CTL. -/
def dspCtlRow : RegDef := regRow 0x0000 1 0x0 0x1FFFF 0x80000000 0x0 0xE true false

theorem regAt_dspCtl (p : Fin 4) : regAt (.dsp p) 0 = some (dspCtlRow, 0) := rfl

theorem newValue_dspCtl (old v : Word) : newValue dspCtlRow .primary old v = (old &&& 0xFFFE0000) ||| (v &&& 0x1FFFF) := by
  simp [newValue, dspCtlRow, regRow]

/-- A write of DSP_CTL that is refused. -/
def dspCtlBad (p : Nat) (s : State) (w : RegWr) : Prop :=
  (4 ≤ bits w.new.toNat 3 1 ∧ bits w.new.toNat 3 1 ≤ 6) ∨
  (bits w.new.toNat 3 1 ≠ 7 ∧ ((upTo 4).any fun q => decide (q ≠ p) && dspEnable s q && decide (dspConn s q = bits w.new.toNat 3 1)) = true) ∨
  (bit w.old.toNat 0 = true ∧ w.changes 0x1FFFE = true)

section
variable {p : Nat} {w : RegWr} {s : State}

theorem dspCtlEffect_bad (h : dspCtlBad p s w) : dspCtlEffect p w s = refuseWr w refusedBit s := if_pos h

theorem dspCtlEffect_good (h : ¬ dspCtlBad p s w) : dspCtlEffect p w s =
    if bit w.old.toNat 0 = true ∧ (!bit w.new.toNat 0) = true then disablePipe p (storeWr w 0 s) else storeWr w 0 s := if_neg h

end

theorem usedConn_iff (s : State) (p : Fin 4) (conn : Nat) :
    ((upTo 4).any fun q => decide (q ≠ p.val) && dspEnable s q && decide (dspConn s q = conn)) = true ↔
      ∃ q : Fin 4, q ≠ p ∧ dspEnable s q.val = true ∧ dspConn s q.val = conn := by
  simp only [List.any_eq_true, Bool.and_eq_true, decide_eq_true_eq, and_assoc]
  constructor
  · rintro ⟨q, hq, hne, h⟩
    exact ⟨⟨q, List.mem_range.mp hq⟩, fun he => hne (congrArg Fin.val he), h⟩
  · rintro ⟨q, hne, h⟩
    exact ⟨q.val, List.mem_range.mpr q.isLt, fun he => hne (Fin.ext he), h⟩

/-- Which connectors other pipes use is read from the registers alone. -/
theorem usedConn_of_regs {s t : State} (h : t.reg.regs = s.reg.regs) (p conn : Nat) :
    ((upTo 4).any fun q => decide (q ≠ p) && dspEnable t q && decide (dspConn t q = conn)) =
      (upTo 4).any fun q => decide (q ≠ p) && dspEnable s q && decide (dspConn s q = conn) := by
  unfold dspEnable dspConn State.rawBits
  simp only [raw_of_reg h]

theorem storeWr_dspCtl {off : Nat} {v new : Word} {s u : State} (hnew : (s.raw 0 off &&& 0xFFFE0000) ||| (v &&& 0x1FFFF) = new) :
    storeWr (winWrite 0 .primary off dspCtlRow v s) 0 u = u.setRaw 0 off (new &&& ~~~(v &&& 0x80000000)) := by
  have hfull (x : Word) : x &&& ~~~(0 : Word) = x := by simp [and_full]
  have hw : (winWrite 0 .primary off dspCtlRow v s).new = new := (newValue_dspCtl ..).trans hnew
  unfold storeWr
  rw [hw, hfull]
  rfl

section
variable {p : Fin 4} {off : Nat} {s : State} {v : Word} (hb : blockAt off = some (.dsp p, 0)) (hq : quiet s 0)
include hb hq

/-- What a write of DSP_CTL by the physical function does. -/
theorem regWrite4_dspCtl {new : Word} (hnew : (s.raw 0 off &&& 0xFFFE0000) ||| (v &&& 0x1FFFF) = new) :
    regWrite4 0 off v s =
      if (new &&& 0x1FFFF) ≠ (s.raw 0 off &&& 0x1FFFF) then
        if unlocked s (.dsp p) 0 = true then dspCtlEffect p.val (winWrite 0 .primary off dspCtlRow v s) (setUnlock (.dsp p) 0 0 s)
        else setDenied (.dsp p) 0 1 s
      else dspCtlEffect p.val (winWrite 0 .primary off dspCtlRow v s) s := by
  have h := regWrite4_prim v hq hb (regAt_dspCtl p) (by decide) (by simp) rfl
  rw [newValue_dspCtl, hnew] at h
  exact h

end

/-! ### DSP_CNT_CLR -/

/-- The row of DSP_CNT_CLR. -/
def cntClrRow : RegDef := regRow 0x001C 1 0x0 0x0 0x0 0xFFFFFFFF 0x0 false false

theorem regWrite4_cntClr {p : Fin 4} {off : Nat} {s : State} (v : Word) (hb : blockAt off = some (.dsp p, 0x1C)) (hq : quiet s 0) :
    regWrite4 0 off v s = cntClrEffect p.val (winWrite 0 .primary off cntClrRow v s) s :=
  (regWrite4_prim v hq hb (show regAt (.dsp p) 0x1C = some (cntClrRow, 0) from rfl) (by decide) (by simp) rfl).trans
    (if_neg (by simp [cntClrRow, regRow]))

/-! ### DSP_AUX_CTL -/

/-- The row of DSP_AUX_CTL. -/
def auxCtlRow : RegDef := regRow 0x0080 1 0x3FFFFFF 0x0 0x0 0x40000000 0x0 false false

theorem regWrite4_auxCtl {p : Fin 4} {off : Nat} {s : State} (v : Word) (hb : blockAt off = some (.dsp p, 0x80)) (hq : quiet s 0) :
    regWrite4 0 off v s = auxCtlEffect p.val (winWrite 0 .primary off auxCtlRow v s) s :=
  (regWrite4_prim v hq hb (show regAt (.dsp p) 0x80 = some (auxCtlRow, 0) from rfl) (by decide) (by simp) rfl).trans
    (if_neg (by simp [auxCtlRow, regRow]))

theorem newValue_auxCtl (old v : Word) : newValue auxCtlRow .primary old v = (old &&& 0xBC000000) ||| (v &&& 0x43FFFFFF) := by
  simp [newValue, auxCtlRow, regRow]

theorem auxFields (old v : Word) : ((old &&& 0xBC000000) ||| ((v ||| 0x40000000) &&& 0x43FFFFFF)) &&& ~~~0x40000000 = (old &&& 0xBC000000) ||| (v &&& 0x03FFFFFF) := by
  ext i hi
  simp only [BitVec.getElem_and, BitVec.getElem_or, BitVec.getElem_not]
  interval_cases i <;> simp

/-- The fields of a GO are those of the write. -/
theorem auxNew_testBit (old v : Word) {i : Nat} (h : i ≤ 25) :
    ((old &&& 0xBC000000) ||| ((v ||| 0x40000000) &&& 0x43FFFFFF)).toNat.testBit i = v.toNat.testBit i := by
  rw [testBit_toNat, testBit_toNat]
  simp only [BitVec.getLsbD_and, BitVec.getLsbD_or]
  interval_cases i <;> simp

/-- The transaction that a write of DSP_AUX_CTL names. -/
def auxReq (v : Nat) (bytes : List Byte) : AuxReq :=
  { addr := bits v (if bit v 25 = true then 6 else 19) 0, len := bits v 23 20 + 1, write := bit v 24, i2c := bit v 25
    data := if bit v 24 = true then bytes.take (bits v 23 20 + 1) else [] }

theorem auxReq_congr {x y : Nat} (h : ∀ i ≤ 25, x.testBit i = y.testBit i) (bytes : List Byte) : auxReq x bytes = auxReq y bytes := by
  have hb (i : Nat) (hi : i ≤ 25) : bit x i = bit y i := by rw [bit_testBit, bit_testBit, h i hi]
  have hbits {hi lo : Nat} (hhi : hi ≤ 25) : bits x hi lo = bits y hi lo := bits_congr fun i hi => h i (by omega)
  have haddr : bits x (if bit x 25 = true then 6 else 19) 0 = bits y (if bit y 25 = true then 6 else 19) 0 := by
    rw [hb 25 (by omega)]
    exact hbits (by split <;> omega)
  rw [hb 25 (by omega)] at haddr
  simp only [auxReq, hb 24 (by omega), hb 25 (by omega), hbits (show 23 ≤ 25 by omega), haddr]

/-- What a GO does once the registers hold its fields. -/
def auxStarts (p : Nat) (v : Nat) (z : State) : State :=
  if (z.pipe p).aux.isNone = true ∧ (!inTraining z p) = true ∧ dspConn z p ≠ 7 then
    auxSend p { tries := 0, req := auxReq v (auxBytes z p), pause := false } z
  else z

theorem auxCtlEffect_go (p off : Nat) (v : Word) (s : State) :
    auxCtlEffect p (winWrite 0 .primary off auxCtlRow (v ||| 0x40000000) s) s =
      auxStarts p v.toNat (s.setRaw 0 off ((s.raw 0 off &&& 0xBC000000) ||| (v &&& 0x03FFFFFF))) := by
  have hstore : storeWr (winWrite 0 .primary off auxCtlRow (v ||| 0x40000000) s) 0x40000000 s =
      s.setRaw 0 off ((s.raw 0 off &&& 0xBC000000) ||| (v &&& 0x03FFFFFF)) := by
    have hw1c (x y : Word) : x &&& ~~~(y &&& 0#32) = x := by rw [BitVec.and_zero]; exact and_full x
    rw [← auxFields, ← newValue_auxCtl]
    exact congrArg (fun x => s.setRaw 0 off x) (hw1c _ _)
  have hgo : bit (v ||| 0x40000000).toNat 30 = true := by rw [bit_getLsbD]; simp
  have hnew : (winWrite 0 .primary off auxCtlRow (v ||| 0x40000000) s).new = (s.raw 0 off &&& 0xBC000000) ||| ((v ||| 0x40000000) &&& 0x43FFFFFF) :=
    newValue_auxCtl ..
  unfold auxCtlEffect auxStarts
  dsimp only
  rw [hstore, hnew]
  refine if_congr (and_iff_right hgo) ?_ rfl
  exact congrArg (fun r => auxSend p { tries := 0, req := r, pause := false } _) (auxReq_congr (fun i hi => auxNew_testBit _ v hi) _)

theorem auxBytes_four (s : State) (p : Nat) : auxBytes s p =
    natLe 4 (s.raw 0 (dspOff p + 0x90)).toNat ++ natLe 4 (s.raw 0 (dspOff p + 0x94)).toNat ++
      natLe 4 (s.raw 0 (dspOff p + 0x98)).toNat ++ natLe 4 (s.raw 0 (dspOff p + 0x9C)).toNat := by
  simp [auxBytes, upTo, List.range_succ, Nat.add_assoc]

section
variable {s : State} {p off : Nat} {w : Word}

theorem dspConn_setRaw (h : regKey 0 (dspOff p) ≠ regKey 0 off) : dspConn (s.setRaw 0 off w) p = dspConn s p := by
  unfold dspConn State.rawBits
  rw [raw_setRaw_ne _ _ h]

theorem auxBytes_setRaw (h : ∀ n < 4, regKey 0 (dspOff p + 0x90 + 4 * n) ≠ regKey 0 off) : auxBytes (s.setRaw 0 off w) p = auxBytes s p := by
  unfold auxBytes
  refine List.flatMap_congr fun n hn => ?_
  rw [raw_setRaw_ne _ _ (h n (List.mem_range.mp hn))]

theorem auxStarts_not {v : Nat} (h : (s.pipe p).aux.isSome = true ∨ inTraining s p = true ∨ dspConn s p = 7) : auxStarts p v s = s := by
  refine if_neg ?_
  rintro ⟨h1, h2, h3⟩
  rcases h with h | h | h
  · rw [Option.isNone_iff_eq_none] at h1
    rw [h1] at h
    cases h
  · rw [h] at h2
    cases h2
  · exact h3 h

theorem auxStarts_go {v : Nat} (h1 : (s.pipe p).aux = none) (h2 : inTraining s p = false) (h3 : dspConn s p ≠ 7) :
    auxStarts p v s = auxSend p { tries := 0, req := auxReq v (auxBytes s p), pause := false } s :=
  if_pos ⟨by rw [h1]; rfl, by rw [h2]; rfl, h3⟩

end

theorem inTraining_iff (s : State) (p : Nat) : inTraining s p = true ↔ (s.pipe p).st = .modeset ∧ (s.pipe p).stage = 2 := by
  simp [inTraining]

/-! ### Replies -/

/-- DSP_AUX_DATA after a read of that many bytes. -/
theorem auxStore_read {p len : Nat} {bs : List Byte} {s : State} (hlen : len ≤ 16) (hbs : bs.length = len) :
    auxStore p len bs s =
      (let data := bs ++ (auxBytes s p).drop len
       (((s.setRaw 0 (dspOff p + 0x90) (w32 (fld data 0 4))).setRaw 0 (dspOff p + 0x94) (w32 (fld data 4 4))).setRaw 0 (dspOff p + 0x98)
         (w32 (fld data 8 4))).setRaw 0 (dspOff p + 0x9C) (w32 (fld data 12 4))) := by
  have hnew : splice (auxBytes s p) 0 ((bs.take len).take 16) = bs ++ (auxBytes s p).drop len := by
    rw [List.take_of_length_le (l := bs) hbs.le, List.take_of_length_le (hbs.le.trans hlen), splice, List.take_zero, List.nil_append, Nat.zero_add, hbs]
  unfold auxStore
  dsimp only
  rw [hnew]
  simp only [eachDo, upTo, List.range_succ, List.range_zero, List.nil_append, List.cons_append, List.foldl_cons, List.foldl_nil, Nat.mul_zero, Nat.add_zero,
    Nat.mul_one, Nat.add_assoc, Nat.reduceAdd, Nat.reduceMul]

/-- What a sink's answer does to an attempt that waits for one. -/
def auxAnswer (p : Nat) (a : AuxTx) (s : State) : AuxReply → State
  | .ack bs => auxEnd p 0 (if a.req.write = true then s else auxStore p a.req.len bs s)
  | .nack => auxEnd p 1 s
  | .defer => if 7 ≤ a.tries then auxEnd p 2 s else s.onPipe p fun x => { x with aux := some { a with tries := a.tries + 1, pause := true } }

section
variable {p : Nat} {s : State}

theorem auxReplyDo_none (r : AuxReply) (h : (s.pipe p).aux = none) : auxReplyDo p r s = s := by
  unfold auxReplyDo
  rw [h]

theorem auxTimeoutDo_none (h : (s.pipe p).aux = none) : auxTimeoutDo p s = s := by
  unfold auxTimeoutDo
  rw [h]

theorem auxReplyDo_some {a : AuxTx} (r : AuxReply) (h : (s.pipe p).aux = some a) :
    auxReplyDo p r s = if a.pause = true then s else auxAnswer p a s r := by
  unfold auxReplyDo
  rw [h]
  cases r <;> rfl

theorem auxTimeoutDo_some {a : AuxTx} (h : (s.pipe p).aux = some a) :
    auxTimeoutDo p s = if a.pause = true then auxSend p a s else auxEnd p 3 s := by
  unfold auxTimeoutDo
  rw [h]

end

/-! ### The obligation -/

/-- Settles O46: each register of a pipe by its row of the map, and an AUX attempt by its reply. -/
theorem pipeRegistersAndAux : Obligations.PipeRegistersAndAux := by
  unfold Obligations.PipeRegistersAndAux
  intro p s base x
  have hb0 : blockAt base = some (.dsp p, 0) := blockAt_dsp p (by decide) rfl
  have hb1 : blockAt (base + 0x1C) = some (.dsp p, 0x1C) := blockAt_dsp p (by decide) rfl
  have hb8 : blockAt (base + 0x80) = some (.dsp p, 0x80) := blockAt_dsp p (by decide) rfl
  have hbase : dspOff p.val = base := rfl
  refine ⟨fun fn v hq h0 => ⟨congrArg Host.Outcome.next (regWrite4_dsp_virtual v hq h0 hb0), congrArg Host.Outcome.next (regWrite4_dsp_virtual v hq h0 hb1),
    congrArg Host.Outcome.next (regWrite4_dsp_virtual _ hq h0 hb8)⟩, fun v hq => ?_, fun v hq => ⟨fun h => ?_, fun h => ?_, ?_⟩, fun conn level => ?_,
    fun h => ⟨fun r => congrArg Host.Outcome.next (auxReplyDo_none r h), congrArg Host.Outcome.next (auxTimeoutDo_none h)⟩, fun a ha => ?_⟩
  · intro old new touches u conn bad w
    have hw := regWrite4_dspCtl (v := v) (new := new) hb0 hq rfl
    have run : exec (.dspCtlWrite 0 p v) s = .next _ := congrArg Host.Outcome.next hw
    have htouch : touches = true ↔ (new &&& 0x1FFFF) ≠ (old &&& 0x1FFFF) := decide_eq_true_iff
    have hu : u.reg.regs = s.reg.regs := by
      simp only [u]
      split <;> rfl
    have hwn : (winWrite 0 .primary base dspCtlRow v s).new = new := newValue_dspCtl ..
    have hbad : dspCtlBad p.val u (winWrite 0 .primary base dspCtlRow v s) ↔ bad := by
      unfold dspCtlBad RegWr.changes
      rw [hwn, usedConn_of_regs hu, usedConn_iff, decide_eq_true_eq]
      rfl
    refine ⟨fun ht hl => run.trans (congrArg _ ((if_pos (htouch.mp ht)).trans (if_neg (by simp [hl])))), fun hl => ?_⟩
    have done : exec (.dspCtlWrite 0 p v) s = .next (dspCtlEffect p.val (winWrite 0 .primary base dspCtlRow v s) u) := by
      refine run.trans (congrArg _ ?_)
      by_cases ht : touches = true
      · refine (if_pos (htouch.mp ht)).trans ((if_pos (hl ht)).trans (congrArg _ ?_))
        simp only [u, ht, if_true]
      · refine (if_neg (htouch.not.mp ht)).trans (congrArg _ ?_)
        simp only [u, ht, if_false, Bool.false_eq_true]
    have hstore : storeWr (winWrite 0 .primary base dspCtlRow v s) 0 u = w := storeWr_dspCtl rfl
    clear_value u
    refine ⟨fun hb => done.trans (congrArg _ (dspCtlEffect_bad (hbad.mpr hb))), fun hb hen => ?_, fun hb ho hn => ?_⟩
    · refine done.trans (congrArg _ ((dspCtlEffect_good (hbad.not.mpr hb)).trans ((if_neg ?_).trans hstore)))
      rintro ⟨h1, h2⟩
      rw [hwn] at h2
      rcases hen with h | h
      · rw [show bit old.toNat 0 = true from h1] at h
        cases h
      · rw [h] at h2
        cases h2
    · refine done.trans (congrArg _ ((dspCtlEffect_good (hbad.not.mpr hb)).trans ((if_pos ⟨ho, by rw [hwn, hn]; rfl⟩).trans ?_)))
      rw [hstore]
      unfold disablePipe
      cases livePend w p.val <;> rfl
  · exact congrArg Host.Outcome.next ((regWrite4_cntClr v hb1 hq).trans (if_neg (by simpa [winWrite] using h)))
  · exact congrArg Host.Outcome.next ((regWrite4_cntClr v hb1 hq).trans (if_pos h))
  · intro z training i2c len bytes req
    have run : exec (.auxGo 0 p v) s = .next (auxStarts p.val v.toNat z) :=
      congrArg Host.Outcome.next ((regWrite4_auxCtl _ hb8 hq).trans (auxCtlEffect_go ..))
    have hconn : dspConn z p.val = dspConn s p.val := dspConn_setRaw (by simp only [regKey, hbase]; omega)
    have htrain : inTraining z p.val = true ↔ training := inTraining_iff s p.val
    refine ⟨fun h _ => run.trans (congrArg _ (auxStarts_not (s := z) ?_)), fun h1 h2 h3 _ => run.trans (congrArg _ ((auxStarts_go (s := z) h1 ?_ (by rwa [hconn])).trans ?_))⟩
    · rw [hconn]
      exact h.imp_right (Or.imp_left htrain.mpr)
    · exact Bool.eq_false_iff.mpr fun h => h2 (htrain.mp h)
    · have hbytes : auxBytes z p.val = _ := (auxBytes_setRaw fun n _ => by simp only [regKey, hbase]; omega).trans (auxBytes_four s p.val)
      rw [hbytes]
      rfl
  · cases conn <;> cases level <;> rfl
  · intro ends
    refine ⟨fun hp => ⟨fun r => congrArg Host.Outcome.next ((auxReplyDo_some r ha).trans (if_pos hp)),
      congrArg Host.Outcome.next ((auxTimeoutDo_some ha).trans (if_pos hp))⟩, fun hp => ?_⟩
    have hnot : ¬ a.pause = true := by simp [hp]
    have answer (r : AuxReply) : exec (.auxReply p r) s = .next (auxAnswer p.val a s r) :=
      congrArg Host.Outcome.next ((auxReplyDo_some r ha).trans (if_neg hnot))
    refine ⟨congrArg Host.Outcome.next ((auxTimeoutDo_some ha).trans (if_neg hnot)), answer .nack,
      fun h => (answer .defer).trans (congrArg _ (if_neg (by omega))), fun h => (answer .defer).trans (congrArg _ (if_pos h)),
      fun bs h => (answer (.ack bs)).trans (congrArg (fun u => Host.Outcome.next (auxEnd p.val 0 u)) (if_pos h)), fun bs h hlen hbs => ?_⟩
    intro before data
    refine (answer (.ack bs)).trans (congrArg (fun u => Host.Outcome.next (auxEnd p.val 0 u)) ((if_neg (by simp [h])).trans ((auxStore_read hlen hbs).trans ?_)))
    rw [auxBytes_four, hbase]

end Sys2Proof.Machine
end

section
/-! DISPLAY_COMMIT's checks, its tables and its report (R317 to R325, R342). -/

namespace Sys2Proof.Machine

open Sys2Proof

/-- How a commit goes on from its checks. -/
def commitPass (o : OpRef) (e : Entry) (p : Nat) (upd modeset : Bool) (now : List Byte) (ls : List (Nat × List Byte)) (u : State) : Option (Nat × Nat) → State
  | some (st, d) => commitEnd p o none 0 st d
      (failReleases (ls.filterMap fun x => edgeField u e.ctx e.ring true (slice x.2 64 16)) .aborted u)
  | none => (u.onOp o fun q => { q with units := [0x6C + p] }).onPipe p fun x => { x with pend := some (commitOf u o e.ctx e.ring upd modeset now ls) }

/-- The state that a commit puts in force with its records: the pipe's own where it names none. -/
def commitNow (p : Nat) (upd : Bool) (pipe : List Byte) (u : State) : List Byte := if upd = true then pipe else (u.pipe p).rec'

/-- How a commit goes on from the read of its records. -/
def commitRead (o : OpRef) (e : Entry) (b : List Byte) (p : Nat) (upd modeset : Bool) (y : State) : Tr (List Byte × List (Nat × List Byte)) → State
  | .fault f va acc u => commitFault p o none 0 f va acc (failReleases (recordReleases (0x6C + p) e.ctx e.ring (fld b 32 8) (fld b 18 1) u) .aborted u)
  | .bad d u => commitRefuse p o e b 0x0B d u
  | .severed u => commitRefuse p o e b 0x0D 0 u
  | .wait _ => y
  | .ok (pipe, ls) u => commitPass o e p upd modeset (commitNow p upd pipe u) ls u
      (commitCheck u e.ctx e.ring p upd modeset (commitNow p upd pipe u) ls)

/-- A running commit that runs work. -/
def commitRuns (o : OpRef) (e : Entry) (q : Op) (s : State) : State :=
  let b := q.body
  let p := fld b 16 1
  let y := ungate [72 + p] (dropPend p s)
  if q.units ≠ [] ∨ q.ending.isSome = true then s
  else if commitBad b = true then commitRefuse p o e b 0x01 0 s
  else if 4 ≤ p ∨ dspRing s p ≠ e.ring ∨ (!dspEnable s p) = true then commitRefuse p o e b 0x0B 0x60 s
  else if s.isPinned (0x6C + p) = true then endOp o 0x0C 0 0 s
  else if (livePend s p).isSome = true then s
  else if (!awake s) = true ∧ p ≠ 0 then wantsExit s
  else commitRead o e b p (bit (fld b 17 1) 0) (bit (fld b 17 1) 1) y
    (readRecords (0x6C + p) e.ctx (fld b 24 8) (fld b 32 8) (fld b 18 1) (bit (fld b 17 1) 0) y)

theorem commitDo_eq (o : OpRef) (io : HostIO) (s : State) : commitDo o io s = withOp o 0x50 (commitRuns o) (applyIO io s) := by
  unfold commitDo
  refine congrArg (fun f => withOp o 0x50 f (applyIO io s)) (funext fun e => funext fun q => funext fun z => ?_)
  refine if_congr Iff.rfl rfl (if_congr Iff.rfl rfl (if_congr Iff.rfl rfl (if_congr Iff.rfl rfl (if_congr Iff.rfl rfl (if_congr Iff.rfl rfl ?_)))))
  dsimp only [dspMaster]
  generalize readRecords _ _ _ _ _ _ _ = r
  cases r with
  | ok a u =>
    obtain ⟨pipe, ls⟩ := a
    dsimp only [commitRead, commitPass, commitNow]
    all_goals generalize commitCheck _ _ _ _ _ _ _ _ = c
    all_goals cases c <;> rfl
  | _ => rfl

/-! ### How a commit ends -/

section
variable {p : Nat} {o : OpRef} {u v : State} {f : Flt} {va : Nat} {acc : Access} {mark : Option (Nat × Quad)} {late : Nat}
  (hv : masterFault f (0x6C + p) (opCtx u o) va acc o.ring.val o.seq u = v)
include hv

theorem commitFault_eq : commitFault p o mark late f va acc u =
    if v.isPinned (0x6C + p) = true then (if f.bar = true then endOp o 0x0B 3 0 v else faultOp o f.code v)
    else if f.bar = true then commitEnd p o mark late 0x0B 3 v else commitEnd p o mark late 0x07 f.code.num v := by
  subst hv
  rfl

end

/-- How a report ends, by its write. -/
def reportWritten (r : DspReport) (e : Entry) (s : State) : Res Unit → State
  | .ok _ v => reportDone r v
  | .fault f v => reportDone r (masterFault f (0x6C + r.pipe) e.ctx r.va .write e.ring e.seq v)
  | .severed v => reportDone r v
  | .wait _ => s
where
  /-- A commit completes after its report. -/
  reportDone (r : DspReport) (v : State) : State :=
    endOp r.op r.status r.detail 0 (v.onDsp fun d => { d with reports := d.reports.erase r })

section
variable {r : DspReport} {s : State}

theorem closeReport_gone (h : s.op? r.op = none) : closeReport r s = s.onDsp fun d => { d with reports := d.reports.erase r } := by
  unfold closeReport
  dsimp only
  rw [h]

theorem closeReport_op {e : Entry} {q : Op} (h : s.op? r.op = some (e, q)) : closeReport r s =
    if q.phase ≠ .running then s.onDsp fun d => { d with reports := d.reports.erase r }
    else if (!ctxRuns s e.ctx) = true then discardOp r.op (s.onDsp fun d => { d with reports := d.reports.erase r })
    else if r.va = 0 then reportWritten.reportDone r s
    else reportWritten r e s (vaWrite (0x6C + r.pipe) e.ctx r.va r.bytes s) := by
  unfold closeReport
  dsimp only
  rw [h]
  refine if_congr Iff.rfl rfl (if_congr Iff.rfl rfl ?_)
  by_cases h0 : r.va = 0
  · rw [if_pos h0, if_pos h0]
    rfl
  · rw [if_neg h0, if_neg h0]
    cases vaWrite (0x6C + r.pipe) e.ctx r.va r.bytes s <;> rfl

end

/-! ### Tables -/

/-- The tables of a commit have been read. -/
def tablesRead (p : Nat) (c : Commit) (tabs : List (Nat × LayerTabs)) (lut table : List Byte) (u : State) : State :=
  if ((upTo 16).any fun k => decide (table ≠ []) && eventReserved (event table k)) = true then commitFail p c 0x01 0 .aborted u
  else if (tabs.any (fun t => tabsBad t.2) || lutBad lut) = true then commitFail p c 0x0B 0x64 .aborted u
  else if eventsBad u c.ctx c.op.ring.val c.pipe table = true then commitFail p c 0x0B 0x69 .aborted u
  else tablesIn p (u.onPipe p fun x => { x with pend := some { c with
    tabs, lut, table, loaded := true
    events := (upTo 16).map fun k => if table = [] then none else evEdge u c.ctx c.op.ring.val (event table k) } })
where
  /-- A commit with its tables applies at once on a pipe that is OFF. -/
  tablesIn (p : Nat) (v : State) : State := if (v.pipe p).st = .off then tryCommit p false v else v

/-- How a commit goes on from the read of its tables. -/
def tablesEnd (p : Nat) (c : Commit) (z : State) : Tr (List (Nat × LayerTabs) × List Byte × List Byte) → State
  | .fault f va acc u => commitFault p c.op none c.late f va acc ((failReleases (c.release.map (·.2)) .aborted u).onPipe p fun x => { x with pend := none })
  | .bad d u => commitFail p c 0x0B d .aborted u
  | .severed u => commitFail p c 0x0D 0 .aborted u
  | .wait _ => z
  | .ok (tabs, lut, table) u => tablesRead p c tabs lut table u

section
variable {p : Nat} {io : HostIO} {s z : State} (hz : dropPend p (applyIO io s) = z)
include hz

theorem tablesLoaded_none (h : livePend z p = none) : tablesLoaded p io s = z := by
  subst hz
  unfold tablesLoaded
  dsimp only
  rw [h]

theorem tablesLoaded_some {c : Commit} (h : livePend z p = some c) :
    tablesLoaded p io s = if c.loaded = true ∨ z.isPinned (0x6C + p) = true then z else tablesEnd p c z (readTables (0x6C + p) c z) := by
  subst hz
  unfold tablesLoaded
  dsimp only
  rw [h]
  refine if_congr Iff.rfl rfl ?_
  dsimp only [dspMaster]
  generalize readTables _ _ _ = r
  cases r with
  | ok a u => rfl
  | _ => rfl

end

/-! ### The obligation -/

/-- Settles O47: a commit's checks in their order, each of its reads by what it gives, and its report by its write. -/
theorem commitsAreCheckedAndLoad : Obligations.CommitsAreCheckedAndLoad := by
  unfold Obligations.CommitsAreCheckedAndLoad
  refine ⟨fun o io s => ?_, fun p o e b st d u => ⟨fun h => if_pos h, fun h => if_neg (Nat.not_le.mpr h), fun mark late f va acc => ?_,
    fun mark late => ?_, fun c why => ⟨fun h => ?_, fun h => ?_⟩⟩, fun r u => ?_, fun p io s => ?_⟩
  · intro z ends
    have run {t : State} (h : withOp o 0x50 (commitRuns o) z = t) : ends t := congrArg Host.Outcome.next ((commitDo_eq o io s).trans h)
    clear_value z
    refine ⟨fun h => run (by simp only [withOp, h]), fun e q hop => ?_⟩
    intro b p m upd modeset y read owned goes
    refine ⟨fun h => run (withOp_other hop h), fun hp ho hen hc => ?_, fun hp ho hen hc => ?_⟩
    · exact run ((withOp_running hop hp hen ho).trans (if_neg (by simp [hc])))
    have runs : ends (commitRuns o e q z) := run ((withOp_running hop hp hen ho).trans (if_pos hc))
    have by_eq {t t' : State} (h : ends t) (ht : t = t') : ends t' := ht ▸ h
    refine ⟨fun h => by_eq runs (if_pos (.inl h)), fun hu => ?_⟩
    have first := by_eq runs (if_neg (by simp [hu, hen]))
    have howned : ¬ owned ↔ (4 ≤ p ∨ dspRing z p ≠ e.ring ∨ (!dspEnable z p) = true) := by
      simp only [owned, not_and_or, Nat.not_lt, Bool.not_eq_true', Bool.not_eq_true, ne_eq]
    refine ⟨fun h => by_eq first (if_pos h), fun h h1 => by_eq first ((if_neg (by simp [b, h])).trans (if_pos (howned.mp h1))), fun h h1 h2 => ?_,
      fun h h1 h2 h3 => ?_, fun h h1 h2 h3 h4 h5 => ?_, fun hgoes => ?_⟩
    · exact by_eq first ((if_neg (by simp [b, h])).trans ((if_neg fun hn => howned.mpr hn h1).trans (if_pos h2)))
    · exact by_eq first ((if_neg (by simp [b, h])).trans ((if_neg fun hn => howned.mpr hn h1).trans ((if_neg (by simp [m, p, b] at h2; simp [h2])).trans
        (if_pos (Option.isSome_iff_ne_none.mpr h3)))))
    · exact by_eq first ((if_neg (by simp [b, h])).trans ((if_neg fun hn => howned.mpr hn h1).trans ((if_neg (by simp [m, p, b] at h2; simp [h2])).trans
        ((if_neg fun hn => Option.isSome_iff_ne_none.mp hn h3).trans (if_pos ⟨by simp [h4], h5⟩)))))
    obtain ⟨h, h1, h2, h3, h4⟩ := hgoes
    have reads : ends (commitRead o e b p upd modeset y read) :=
      by_eq first ((if_neg (by simp [b, h])).trans ((if_neg fun hn => howned.mpr hn h1).trans ((if_neg (by simp [m, p, b] at h2; simp [h2])).trans
        ((if_neg fun hn => Option.isSome_iff_ne_none.mp hn h3).trans (if_neg fun hn => hn.2 (h4.resolve_left (by simpa using hn.1)))))))
    have ended {x : Tr (List Byte × List (Nat × List Byte))} (hx : read = x) : ends (commitRead o e b p upd modeset y x) := by_eq reads (congrArg _ hx)
    refine ⟨fun f va acc u hu => ended (x := .fault f va acc u) hu, fun u hu => ended (x := .severed u) hu, fun u hu => ended (x := .wait u) hu,
      fun pipe ls u hu => ?_⟩
    intro now check
    have passed {x : Option (Nat × Nat)} (hx : check = x) : ends (commitPass o e p upd modeset now ls u x) :=
      by_eq (ended (x := .ok (pipe, ls) u) hu) (congrArg (commitPass o e p upd modeset now ls u) hx)
    exact ⟨fun st d hc => passed (x := some (st, d)) hc, fun hc => passed (x := none) hc⟩
  · intro v
    have hfault := commitFault_eq (p := p) (o := o) (u := u) (f := f) (va := va) (acc := acc) (mark := mark) (late := late) (v := v) rfl
    clear_value v
    exact ⟨fun h1 h2 => hfault.trans ((if_pos h1).trans (if_pos h2)), fun h1 h2 => hfault.trans ((if_pos h1).trans (if_neg (by simp [h2]))),
      fun h1 h2 => hfault.trans ((if_neg (by simp [h1])).trans (if_pos h2)), fun h1 h2 => hfault.trans ((if_neg (by simp [h1])).trans (if_neg (by simp [h2])))⟩
  · cases hop : u.op? o with
    | none => simp only [commitEnd, commitReportVa, hop]; rfl
    | some x => simp only [commitEnd, commitReportVa, hop]; rfl
  · unfold commitFail
    dsimp only
    rw [h]
    rfl
  · unfold commitFail
    dsimp only
    rw [h]
    rfl
  · refine ⟨rfl, fun h => closeReport_gone h, fun e q hop => ?_⟩
    intro write completes
    have closed := closeReport_op hop
    refine ⟨fun h => closed.trans (if_pos h), fun h hc => closed.trans ((if_neg fun hn => hn h).trans (if_pos (by simp [hc]))), fun h hc => ?_⟩
    have runs := closed.trans ((if_neg fun hn => hn h).trans (if_neg (by simp [hc])))
    refine ⟨fun h0 => runs.trans (if_pos h0), fun h0 v => ?_⟩
    have written {x : Res Unit} (hx : write = x) : closeReport r u = reportWritten r e u x := runs.trans ((if_neg h0).trans (congrArg _ hx))
    refine ⟨fun hw => ?_, fun f hw => written (x := .fault f v) hw, fun hw => written (x := .wait v) hw⟩
    rcases hw with hw | hw
    · exact written (x := .ok () v) hw
    · exact written (x := .severed v) hw
  · intro z m ends
    have hz : dropPend p.val (applyIO io s) = z := rfl
    clear_value z
    refine ⟨fun h => congrArg Host.Outcome.next (tablesLoaded_none hz h), fun c hc => ?_⟩
    have loads : ends _ := congrArg Host.Outcome.next (tablesLoaded_some hz hc)
    have by_eq {t t' : State} (h : ends t) (ht : t = t') : ends t' := ht ▸ h
    refine ⟨fun h => by_eq loads (if_pos h), fun h1 h2 => ?_⟩
    have ended {x : Tr (List (Nat × LayerTabs) × List Byte × List Byte)} (hx : readTables m c z = x) : ends (tablesEnd p.val c z x) :=
      by_eq loads ((if_neg (by simp [m] at h2; simp [h1, h2])).trans (congrArg _ hx))
    refine ⟨fun f va acc u hu => ended (x := .fault f va acc u) hu, fun u hu => ended (x := .severed u) hu, fun u hu => ended (x := .wait u) hu,
      fun tabs lut table u hu => ?_⟩
    intro badTables reserved bad v
    have full : ends (tablesRead p.val c tabs lut table u) := ended (x := .ok (tabs, lut, table) u) hu
    have hreserved : reserved ↔ ((upTo 16).any fun k => decide (table ≠ []) && eventReserved (event table k)) = true := by
      simp only [reserved, List.any_eq_true, Bool.and_eq_true, decide_eq_true_eq, upTo, List.mem_range]
    refine ⟨fun h => by_eq full (if_pos (hreserved.mp h)), fun h h1 => by_eq full ((if_neg (hreserved.not.mp h)).trans (if_pos h1)),
      fun h h1 h2 => by_eq full ((if_neg (hreserved.not.mp h)).trans ((if_neg h1).trans (if_pos h2))), fun h h1 h2 h3 => ?_, fun h h1 h2 h3 => ?_⟩
    · exact by_eq full ((if_neg (hreserved.not.mp h)).trans ((if_neg h1).trans ((if_neg h2).trans (if_neg h3))))
    · exact by_eq full ((if_neg (hreserved.not.mp h)).trans ((if_neg h1).trans ((if_neg h2).trans (if_pos h3))))

end Sys2Proof.Machine
end

section
/-! Commits at a frame boundary, mode sets and the start of scanout (R314, R321 to R324). -/

namespace Sys2Proof.Machine

open Sys2Proof

/-- A pipe's pending commit cannot be tried. -/
def commitShut (p : Fin 4) (s : State) (c : Commit) : Prop :=
  s.halted (.dsp p) = true ∨ inReset s 5 p.val = true ∨ (s.crossing (5 + p.val)).severed = true ∨ c.loaded = false ∨ c.applied = true

section
variable {p : Fin 4} {atBoundary : Bool} {s : State}

theorem tryCommit_none {p : Nat} (h : livePend s p = none) : tryCommit p atBoundary s = s := by
  unfold tryCommit
  rw [h]

variable {c : Commit} (h : livePend s p.val = some c)
include h

theorem tryCommit_some : tryCommit p.val atBoundary s =
    if s.halted (.dsp p) = true ∨ (!c.loaded) = true ∨ c.applied = true ∨ inReset s 5 p.val = true ∨ (s.crossing (5 + p.val)).severed = true then s
    else if (!awake s) = true ∧ fastWarp (s.pipe p.val) c = true then startExit 3 0 s
    else if lateLayers s c = [] then commitApply p.val c s
    else if atBoundary = true then commitLate p.val c (lateLayers s c) s else s := by
  unfold tryCommit
  rw [h]
  dsimp only
  rw [dif_pos p.isLt]

theorem tryCommit_shut (hs : commitShut p s c) : tryCommit p.val atBoundary s = s := by
  refine (tryCommit_some h).trans (if_pos ?_)
  rcases hs with hs | hs | hs | hs | hs
  · exact .inl hs
  · exact .inr (.inr (.inr (.inl hs)))
  · exact .inr (.inr (.inr (.inr hs)))
  · exact .inr (.inl (by rw [hs]; rfl))
  · exact .inr (.inr (.inl hs))

theorem tryCommit_open (hs : ¬ commitShut p s c) : tryCommit p.val atBoundary s =
    if (!awake s) = true ∧ fastWarp (s.pipe p.val) c = true then startExit 3 0 s
    else if lateLayers s c = [] then commitApply p.val c s
    else if atBoundary = true then commitLate p.val c (lateLayers s c) s else s := by
  refine (tryCommit_some h).trans (if_neg fun hn => hs ?_)
  rcases hn with hn | hn | hn | hn | hn
  · exact .inl hn
  · exact .inr (.inr (.inr (.inl (by simpa using hn))))
  · exact .inr (.inr (.inr (.inr hn)))
  · exact .inr (.inl hn)
  · exact .inr (.inr (.inl hn))

end

theorem commitApply_plain {p : Nat} {c : Commit} {s : State} (h : c.modeset = false) : commitApply p c s = commitDone p c (commitInForce p c s) := by
  unfold commitApply
  dsimp only
  exact if_neg (by simp [h])

theorem commitApply_modeset {p : Nat} {c : Commit} {s : State} (h : c.modeset = true) : commitApply p c s =
    (commitInForce p c s).onPipe p fun x => { x with
      st := .modeset, stage := 1, due := false, out := [], bands := [], poseReads := []
      pend := some { c with applied := true, mark := if (s.pipe p).st = .scanout then some (s.time, (s.pipe p).frame) else none } } := by
  unfold commitApply
  exact if_pos h

theorem commitLate_some {p : Nat} {c : Commit} {late : List Nat} {s : State} (h : late ≠ []) : commitLate p c late s =
    s.onPipe p fun x => { x with
      late := (List.range 8).map fun l => min 15 (x.late.getD l 0 + (if l ∈ late then 1 else 0))
      layers := (List.range 8).map fun l => { (x.layers[l]?).getD Layer.off with lateClear := late.contains l && wantsClear c l }
      pend := some { c with late := min 0xFFFFFFFF (c.late + 1) } } := by
  have hcount (l : Nat) : b2n (late.contains l) = if l ∈ late then 1 else 0 := by
    unfold b2n
    exact if_congr List.contains_iff_mem rfl rfl
  unfold commitLate
  refine (if_neg h).trans ?_
  simp only [hcount]
  rfl

/-! ### Boundaries -/

section
variable {p : Nat} {s z : State} (hz : dropPend p s = z)
include hz

theorem boundaryDo_eq : boundaryDo p s =
    if z.isPinned (0x6C + p) = true then z
    else if (z.pipe p).st = .off then tryCommit p false z
    else if (z.pipe p).st ≠ .scanout ∨ (!(z.pipe p).due) = true then z
    else if (z.pipe p).stop = true then (z.onPipe p fun x => { newFrame x with frame := x.frame + 1 }).onPipe p pipeOff
    else
      let v := tryCommit p true (orphanLayers p (z.onPipe p fun x => { newFrame x with frame := x.frame + 1 }))
      copySts p (if (v.pipe p).st = .scanout then sendHdr p v else v) := by
  subst hz
  rfl

theorem pllLocked_eq : pllLocked p s =
    if (z.pipe p).st ≠ .modeset ∨ (z.pipe p).stage ≠ 1 ∨ z.isPinned (0x6C + p) = true then z
    else if dspConn z p = 7 then scanStart p z
    else z.onPipe p fun x => { x with stage := 2 } := by
  subst hz
  rfl

/-- A mode set whose training has failed, by the commit that the pipe has. -/
def trainingFailed (p : Nat) (s : State) : Option Commit → State
  | some c => if c.applied = true then commitFail p c 0x0B 0x63 .aborted s else tryCommit p false s
  | none => s

theorem trainingDone_eq (ok : Bool) : trainingDone p ok s =
    if (z.pipe p).st ≠ .modeset ∨ (z.pipe p).stage ≠ 2 ∨ z.isPinned (0x6C + p) = true then z
    else if ok = true then scanStart p z
    else trainingFailed p (z.onPipe p pipeOff) (livePend (z.onPipe p pipeOff) p) := by
  subst hz
  unfold trainingDone
  refine if_congr Iff.rfl rfl (if_congr Iff.rfl rfl ?_)
  dsimp only
  cases livePend ((dropPend p s).onPipe p pipeOff) p <;> rfl

end

theorem commitFail_applied {p : Nat} {c : Commit} {st d : Nat} {why : Reason} {s : State} (h : c.applied = true) :
    commitFail p c st d why s = commitEnd p c.op c.mark c.late st d (s.onPipe p fun x => { x with pend := none }) := by
  unfold commitFail
  dsimp only
  rw [h]
  rfl

/-- A boundary at which scanout starts, by the commit that the pipe has. -/
def scanCommit (p : Nat) (s : State) : Option Commit → State
  | some c => if c.applied = true then commitDone p c s else tryCommit p true s
  | none => s

theorem scanStart_eq {p : Nat} {s u : State} (hu : orphanLayers p (s.onPipe p fun x => { newFrame x with
    st := .scanout, stage := 0, line := fld x.rec' 8 2, frame := x.frame + 1, fired := [] }) = u) :
    scanStart p s = copySts p (if ((scanCommit p u (livePend u p)).pipe p).st = .scanout then sendHdr p (scanCommit p u (livePend u p))
      else scanCommit p u (livePend u p)) := by
  have hcommit : (match livePend u p with
      | some c => if c.applied then commitDone p c u else tryCommit p true u
      | none => u) = scanCommit p u (livePend u p) := by
    cases livePend u p <;> rfl
  rw [← hcommit]
  subst hu
  rfl

/-! ### The obligation -/

/-- Settles O48: a pending commit is applied, late or left by its edges, and each boundary, lock and training goes by
the state of the pipe. -/
theorem commitsApplyWhole : Obligations.CommitsApplyWhole := by
  unfold Obligations.CommitsApplyWhole
  refine ⟨fun p atBoundary s => ?_, fun p t s => ?_, fun p s => ?_⟩
  · intro tried
    refine ⟨fun h => tryCommit_none h, fun c hc => ?_⟩
    intro shut mark applied
    refine ⟨fun h => tryCommit_shut hc h, fun h h1 h2 => (tryCommit_open hc h).trans (if_pos ⟨by simp [h1], h2⟩), fun h h1 => ?_⟩
    have tries : tried _ := (tryCommit_open hc h).trans (if_neg fun hn => by
      obtain ⟨ha, hw⟩ := hn
      rcases h1 with h1 | h1
      · rw [h1] at ha
        cases ha
      · rw [h1] at hw
        cases hw)
    refine ⟨fun hl hm => tries.trans ((if_pos hl).trans (commitApply_plain hm)), fun hl hm => tries.trans ((if_pos hl).trans (commitApply_modeset hm)),
      fun hl hb => tries.trans ((if_neg hl).trans (if_neg (by simp [hb]))), fun hl hb => ?_⟩
    exact tries.trans ((if_neg hl).trans ((if_pos hb).trans (commitLate_some hl)))
  · intro z x pinned u
    have hz : dropPend p.val (advanceTo t s) = z := rfl
    clear_value z
    have run : exec (.frameBoundary p t) s = .next _ := congrArg Host.Outcome.next (boundaryDo_eq hz)
    refine ⟨fun h => run.trans (congrArg _ ?_), fun hp h1 => run.trans (congrArg _ ((if_neg hp).trans (if_pos h1))), fun hp h1 h2 h3 => run.trans (congrArg _ ?_),
      fun hp h1 h2 h3 => run.trans (congrArg _ ?_)⟩
    · by_cases hp : pinned
      · exact if_pos hp
      · refine (if_neg hp).trans ?_
        rcases h with h | h | ⟨h, hd⟩
        · exact absurd h hp
        · have hst : (z.pipe p.val).st = .modeset := h
          exact (if_neg (by rw [hst]; decide)).trans (if_pos (.inl (by rw [hst]; decide)))
        · have hst : (z.pipe p.val).st = .scanout := h
          have hdue : (z.pipe p.val).due = false := hd
          exact (if_neg (by rw [hst]; decide)).trans (if_pos (.inr (by rw [hdue]; rfl)))
    · have hst : (z.pipe p.val).st = .scanout := h1
      have hdue : (z.pipe p.val).due = true := h2
      exact (if_neg hp).trans ((if_neg (by rw [hst]; decide)).trans ((if_neg (by rw [hst, hdue]; decide)).trans (if_pos h3)))
    · have hst : (z.pipe p.val).st = .scanout := h1
      have hdue : (z.pipe p.val).due = true := h2
      have hstop : (z.pipe p.val).stop = false := h3
      exact (if_neg hp).trans ((if_neg (by rw [hst]; decide)).trans ((if_neg (by rw [hst, hdue]; decide)).trans (if_neg (by rw [hstop]; decide))))
  · intro at'
    have hat (n : Nat) (z : State) : ¬ at' n z ↔ ((z.pipe p.val).st ≠ .modeset ∨ (z.pipe p.val).stage ≠ n ∨ z.isPinned (0x6C + p.val) = true) := by
      simp only [at', not_and_or, Bool.not_eq_false, ne_eq]
    refine ⟨?_, fun t => ?_, ?_⟩
    · intro z
      have hz : dropPend p.val s = z := rfl
      clear_value z
      have run : exec (.pixelPllLockDone p) s = .next _ := congrArg Host.Outcome.next (pllLocked_eq hz)
      exact ⟨fun h => run.trans (congrArg _ (if_pos ((hat 1 z).mp h))),
        fun h h7 => run.trans (congrArg _ ((if_neg fun hn => (hat 1 z).mpr hn h).trans (if_neg h7))),
        fun h h7 => run.trans (congrArg _ ((if_neg fun hn => (hat 1 z).mpr hn h).trans (if_pos h7)))⟩
    · intro z off
      have hz : dropPend p.val (advanceTo t s) = z := rfl
      clear_value z
      have run (ok : Bool) : exec (.linkTrainingDone p ok t) s = .next _ := congrArg Host.Outcome.next (trainingDone_eq hz ok)
      refine ⟨fun ok h => (run ok).trans (congrArg _ (if_pos ((hat 2 z).mp h))),
        fun h => (run true).trans (congrArg _ ((if_neg fun hn => (hat 2 z).mpr hn h).trans (if_pos rfl))), fun h => ?_⟩
      have failed {x : Option Commit} (hx : livePend off p.val = x) : exec (.linkTrainingDone p false t) s = .next (trainingFailed p.val off x) :=
        (run false).trans (congrArg _ ((if_neg fun hn => (hat 2 z).mpr hn h).trans ((if_neg (by decide)).trans (congrArg _ hx))))
      refine ⟨fun hc => failed hc, fun c hc => ⟨fun ha => (failed hc).trans (congrArg _ ((if_pos ha).trans (commitFail_applied ha))),
        fun ha => (failed hc).trans (congrArg _ (if_neg (by simp [ha])))⟩⟩
    · intro u starts
      have hu : orphanLayers p.val (s.onPipe p.val fun x => { newFrame x with
        st := .scanout, stage := 0, line := fld x.rec' 8 2, frame := x.frame + 1, fired := [] }) = u := rfl
      clear_value u
      have started {x : State} (hx : scanCommit p.val u (livePend u p.val) = x) : starts x := (scanStart_eq hu).trans (by rw [hx])
      refine ⟨fun h => started (by rw [h]; rfl), fun c h ha => started ?_, fun c h ha => started ?_⟩
      · rw [h]
        exact if_pos ha
      · rw [h]
        exact if_neg (by simp [ha])

end Sys2Proof.Machine
end

section
/-! Lines of a pipe: their start, their events, late warp and writeback (R326 to R353). -/

namespace Sys2Proof.Machine

open Sys2Proof

theorem onPipe_onPipe (p : Nat) (f g : Pipe → Pipe) (s : State) : (s.onPipe p f).onPipe p g = s.onPipe p fun x => g (f x) := by
  unfold State.onPipe
  rw [pipe_setPipe]
  show State.setPipe _ _ _ = _
  unfold State.setPipe State.onDsp
  simp only [tblSet_tblSet]

theorem pipe_onPipe (p : Nat) (f : Pipe → Pipe) (s : State) : (s.onPipe p f).pipe p = f (s.pipe p) := pipe_setPipe ..

theorem scanning_iff (s : State) (p : Nat) : scanning s p = true ↔ (s.pipe p).st = .scanout ∧ s.isPinned (0x6C + p) = false := by
  simp [scanning, dspMaster]

/-! ### LINE_COMPOSE -/

/-- A screen line without layers, writeback and an output. -/
theorem composeLine_bare {p y : Nat} {s : State} (hz : byZ (s.pipe p) = []) (he : externalConn s p = false)
    (h1 : bit (dFlags (s.pipe p).rec') 1 = false) (h2 : bit (dFlags (s.pipe p).rec') 2 = false) :
    composeLine p y [] s = s.onPipe p fun x => { x with out := [] } := by
  have hprot : protAhead p s = s := by
    unfold protAhead
    exact if_pos (by rw [he]; rfl)
  unfold composeLine
  simp only [hprot, ite_self, hz, List.foldl_nil, List.filter_nil, List.any_nil, Bool.or_self, Bool.false_eq_true, if_false, h1, false_and]
  unfold wbRow
  refine if_pos (.inl ?_)
  rw [pipe_onPipe]
  show (!bit (dFlags (s.pipe p).rec') 2) = true
  rw [h2]
  rfl

theorem bandsRun_none {p : Nat} {s : State} (h : warpLayer (s.pipe p).rec' = none) : bandsRun p s = s := by
  unfold bandsRun
  dsimp only
  rw [h]

/-- Where a pipe's next line and the one after it are. -/
def lineAfter (x : Pipe) : Nat := (x.line + 1) % dVtot x.rec'

/-- A pipe at its next line. -/
def atLine (p : Nat) (z : State) : State :=
  z.onPipe p fun x => { x with line := lineAfter (z.pipe p), fired := [], due := decide (lineAfter (z.pipe p) = dVact x.rec') }

/-- A line starts. -/
def lineStarts (p : Nat) (late : List LateSpan) (z : State) : State :=
  let y := (lineAfter (z.pipe p) + 1) % dVtot (z.pipe p).rec'
  copySts p ((if y < dVact (z.pipe p).rec' then composeLine p y late (bandsRun p (atLine p z)) else atLine p z).onPipe p startBands)

theorem lineDo_eq {p : Nat} {late : List LateSpan} {io : HostIO} {s z : State} (hz : applyIO io s = z) : lineDo p late io s =
    if (!scanning z p) = true ∨ (z.pipe p).due = true ∨ (!firedBelow (z.pipe p) 16) = true then z else lineStarts p late z := by
  subst hz
  rfl

/-! ### The copies of DSP_STS -/

theorem stsNow_eq (s : State) (p : Nat) : stsNow s p =
    (if s.isPinned (0x6C + p) = true then 3 else if (s.pipe p).st = .off then 0 else if (s.pipe p).st = .modeset then 1 else 2)
      + (if dspConn s p < 4 then 4 * tblGet 0 s.dsp.hpd (dspConn s p) else 0) + (if livePend s p = none then 0 else 8)
      + (if (s.pipe p).st ≠ .off ∧ ((warpLayer (s.pipe p).rec').any fun l => lOn (layerRec (s.pipe p) l)) = true then 16 else 0) := by
  have hst : (match (s.pipe p).st with | .off => 0 | .modeset => 1 | .scanout => 2) =
      if (s.pipe p).st = .off then 0 else if (s.pipe p).st = .modeset then 1 else 2 := by
    cases (s.pipe p).st <;> rfl
  have hhpd : 4 * (if dspConn s p < 4 then tblGet 0 s.dsp.hpd (dspConn s p) else 0) =
      if dspConn s p < 4 then 4 * tblGet 0 s.dsp.hpd (dspConn s p) else 0 := by
    split <;> rfl
  have hpend : 8 * b2n (livePend s p).isSome = if livePend s p = none then 0 else 8 := by
    cases livePend s p <;> rfl
  have hwarp (b c : Bool) : 16 * b2n (b && c) = if b = true ∧ c = true then 16 else 0 := by
    cases b <;> cases c <;> rfl
  rw [← hst, ← hhpd, ← hpend]
  unfold stsNow
  refine congrArg₂ (· + ·) rfl ((hwarp _ _).trans (if_congr ?_ rfl rfl))
  rw [decide_eq_true_iff]

/-! ### Line events -/

section
variable {p k kind : Nat} {s : State}

theorem eventNow_iff : eventNow s p k kind = true ↔
    (s.pipe p).st = .scanout ∧ s.isPinned (0x6C + p) = false ∧ (s.pipe p).due = false ∧ fld (event (s.pipe p).table k) 6 1 = kind ∧
      firesOn (s.pipe p) k (s.pipe p).line = true ∧ k ∉ (s.pipe p).fired ∧ firedBelow (s.pipe p) k = true := by
  unfold eventNow evKind
  simp only [Bool.and_eq_true, scanning_iff, Bool.not_eq_true', decide_eq_true_eq, and_assoc, ← Bool.not_eq_true, List.contains_iff_mem]

theorem signalDo_not (h : ¬ eventNow s p k 1 = true) : signalDo p k s = s := if_pos (by simpa using h)

/-- What a SIGNAL does, by the fence that its entry names. -/
def signalOn (p : Nat) (s u : State) : Option Edge → State
  | some f => signalAll [{ f with value := (s.pipe p).frame * 65536 + q64 (linePos (s.pipe p)) }] u
  | none => u

theorem signalDo_acts (h : eventNow s p k 1 = true) : signalDo p k s = signalOn p s (markFired p k s) ((s.pipe p).events.getD k none) := by
  unfold signalDo
  refine (if_neg (by simp [h])).trans ?_
  dsimp only
  cases (s.pipe p).events.getD k none <;> rfl

/-- The band that a WARP_BAND starts. -/
def bandFires (x : Pipe) : Pipe := match warpLayer x.rec' with
  | none => x
  | some l =>
    if lOn (layerRec x l) = false ∨ (lDstH (layerRec x l) + 63) / 64 ≤ x.bandsFired then { x with bandsFired := x.bandsFired + 1 }
    else if slotFree { x with bandsFired := x.bandsFired + 1 } (layerRec x l) x.bandsFired = true then
      { x with bandsFired := x.bandsFired + 1
               bands := (x.bands.filter fun b => b.n + 2 ≠ x.bandsFired) ++ [{ n := x.bandsFired, pose := x.pose, waits := false, rows := [], done := false }] }
    else { x with bandsFired := x.bandsFired + 1
                  bands := x.bands ++ [{ n := x.bandsFired, pose := [], waits := true, rows := [], done := false }] }

theorem warpBandDo_acts (h : eventNow s p k 3 = true) : warpBandDo p k s = (markFired p k s).onPipe p bandFires := by
  unfold warpBandDo
  refine (if_neg (by simp [h])).trans (congrArg (fun f => (markFired p k s).onPipe p f) (funext fun x => ?_))
  unfold bandFires
  cases warpLayer x.rec' with
  | none => rfl
  | some l => exact if_congr (or_congr (by simp) Iff.rfl) rfl rfl

end

/-! ### Late warp -/

/-- A pose read that does not give a pose. -/
def poseTorn (p : Nat) (rest : List (Nat × Nat)) (s : State) : State :=
  s.onPipe p fun x => { x with poseReads := rest, poseTorn := min 255 (x.poseTorn + 1) }

/-- How a pose read ends. -/
def poseEnd (p ctx va : Nat) (rest : List (Nat × Nat)) (z : State) : Res (List Byte) → State
  | .ok b v => if fld b 0 8 ≠ fld b 56 8 then poseTorn p rest v
      else v.onPipe p fun x => { x with poseReads := rest, pose := (List.range 9).map fun i => w32 (fld b (8 + 4 * i) 4) }
  | .fault f v => poseTorn p rest (masterFault f (0x6C + p) ctx va .read (dspRing v p) (v.pipe p).seq v)
  | .severed v => poseTorn p rest v
  | .wait _ => z

section
variable {p : Nat} {io : HostIO} {s z : State} (hz : applyIO io s = z)
include hz

theorem poseDo_none (h : (z.pipe p).poseReads = []) : poseDo p io s = z := by
  subst hz
  unfold poseDo
  dsimp only
  rw [h]

theorem poseDo_some {ctx va : Nat} {rest : List (Nat × Nat)} (h : (z.pipe p).poseReads = (ctx, va) :: rest) : poseDo p io s =
    if (!scanning z p) = true then z else poseEnd p ctx va rest z (vaRead (0x6C + p) ctx va 64 .read z) := by
  have torn (v : State) : (v.onPipe p fun x => { x with poseReads := rest }).onPipe p (fun x => { x with poseTorn := Nat.min 255 (x.poseTorn + 1) }) =
      poseTorn p rest v := onPipe_onPipe ..
  subst hz
  unfold poseDo
  dsimp only
  rw [h]
  refine if_congr Iff.rfl rfl ?_
  dsimp only [dspMaster]
  cases vaRead (0x6C + p) ctx va 64 .read (applyIO io s) with
  | ok b v => exact if_congr Iff.rfl (torn v) (onPipe_onPipe ..)
  | fault f v => exact torn _
  | severed v => exact torn v
  | wait v => rfl

/-- How the oldest running band of a warp layer completes. -/
def bandEnd (p : Nat) (z : State) : Option Nat → Option Band → State
  | some l, some b =>
    if (!scanning z p) = true ∨ (((z.pipe p).layers[l]?).getD Layer.off).faulted = true then z
    else
      let n := bandRows (((z.pipe p).layers[l]?).getD Layer.off).rec' b.n
      (bandTo p l n b z).onPipe p fun x =>
        { x with bands := mapIf (fun y => decide (y.n = b.n) && decide (n ≤ y.rows.length)) (fun y => { y with done := true }) x.bands }
  | _, _ => z

theorem bandDone_eq : bandDone p io s = bandEnd p z (warpLayer (z.pipe p).rec') ((z.pipe p).bands.find? fun b => !b.waits && !b.done) := by
  subst hz
  unfold bandDone
  dsimp only
  cases warpLayer ((applyIO io s).pipe p).rec' with
  | none => rfl
  | some l => cases ((applyIO io s).pipe p).bands.find? fun b => !b.waits && !b.done <;> rfl

end

/-- A band as it is computed up to some of its rows. -/
def bandWarped (p l k : Nat) (b : Band) (s : State) : Tr (List (List (Option (List Nat × Nat) × Bool))) :=
  let lay := ((s.pipe p).layers[l]?).getD Layer.off
  trMap ((upTo k).drop b.rows.length) (fun i u => trMap (upTo (lDstW lay.rec')) (fun c u =>
    warpPx (0x6C + p) (s.pipe p).ctx (s.ctx (s.pipe p).ctx).ftz lay.rec' lay.tabs b.pose c (64 * b.n + i) u) u) s

theorem bandTo_ok {p l k : Nat} {b : Band} {s v : State} {rows : List (List (Option (List Nat × Nat) × Bool))} (h : bandWarped p l k b s = .ok rows v)
    (hp : (rows.any fun row => row.any (·.2)) = false ∨ externalConn v p = false) : bandTo p l k b s =
      v.onPipe p fun x => { x with bands := mapIf (fun y => y.n = b.n) (fun y => { y with rows := b.rows ++ rows.map fun row => row.map (·.1) }) x.bands } := by
  unfold bandTo
  dsimp only
  change (match bandWarped p l k b s with
    | .ok rows s => _
    | .fault f va _ s => _
    | other => _) = _
  rw [h]
  refine if_neg ?_
  rw [show externalConn (v.onPipe p _) p = externalConn v p from rfl, Bool.and_eq_true]
  rintro ⟨h1, h2⟩
  rcases hp with hp | hp
  · rw [hp] at h2
    cases h2
  · rw [hp] at h1
    cases h1

/-! ### Writeback -/

theorem wbDone_none {p : Nat} {s : State} (h : (s.pipe p).wbPend = []) : wbDone p s = s := by
  unfold wbDone
  rw [h]

theorem wbDone_some {p : Nat} {s : State} {f : Quad} {e : Edge} {rest : List (Quad × Edge)} (h : (s.pipe p).wbPend = (f, e) :: rest) :
    wbDone p s = if s.isPinned (0x6C + p) = true then s
      else signalAll [{ e with value := f }] (s.onPipe p fun x => { x with wbPend := rest }) := by
  unfold wbDone
  rw [h]
  rfl

/-! ### The obligation -/

/-- Settles O49: a line starts by the state of its pipe, its events act by their entries, and a band, a pose and a
writeback end by what their accesses give. -/
theorem linesComposeAndSignal : Obligations.LinesComposeAndSignal := by
  unfold Obligations.LinesComposeAndSignal
  refine ⟨fun p late io s => ?_, fun p s => ⟨rfl, ?_, fun es => ?_⟩, fun p k s => ?_, fun p io s => ?_, fun p l k b s => ?_, fun p s => ?_⟩
  · intro z x vt va ready line y u ends
    have hz : applyIO io s = z := rfl
    clear_value z
    have run : exec (.lineCompose p late io) s = .next (metaLog _) := congrArg (fun v => Host.Outcome.next (metaLog v)) (lineDo_eq hz)
    have hready : ¬ ready ↔ ((!scanning z p.val) = true ∨ (z.pipe p.val).due = true ∨ (!firedBelow (z.pipe p.val) 16) = true) := by
      simp only [ready, ← and_assoc (a := x.st = .scanout), x, ← scanning_iff, not_and_or, Bool.not_eq_true', Bool.not_eq_true, Bool.not_eq_false]
    have starts (h : ready) : exec (.lineCompose p late io) s = .next (metaLog (lineStarts p.val late z)) :=
      run.trans (congrArg (fun v => Host.Outcome.next (metaLog v)) (if_neg fun hn => hready.mpr hn h))
    have shown (h : ready) (hy : y < va) : ends (composeLine p.val y late (bandsRun p.val u)) :=
      (starts h).trans (congrArg (fun v => Host.Outcome.next (metaLog (copySts p.val (State.onPipe p.val startBands v)))) (if_pos hy))
    refine ⟨fun h => run.trans (congrArg (fun v => Host.Outcome.next (metaLog v)) (if_pos (hready.mp h))), fun h hy => ?_, shown, fun h hy hbz he hw hl h1 h2 => ?_⟩
    · exact (starts h).trans (congrArg (fun v => Host.Outcome.next (metaLog (copySts p.val (State.onPipe p.val startBands v)))) (if_neg (Nat.not_lt.mpr hy)))
    · have hbare : composeLine p.val y late (bandsRun p.val u) = u.onPipe p.val fun x => { x with out := [] } := by
        rw [hl, bandsRun_none hw]
        exact composeLine_bare hbz he h1 h2
      exact hbare ▸ shown h hy
  · intro x conn
    refine (stsNow_eq s p).trans (congrArg₂ (· + ·) rfl (if_congr (and_congr_right fun _ => ?_) rfl rfl))
    exact Option.any_eq_true ..
  · by_cases h : es = []
    · subst h
      rfl
    · rw [if_neg h]
      unfold signalAll
      rw [if_neg h]
  · intro x e acts u
    have hacts (kind : Nat) : acts kind ↔ eventNow s p.val k.val kind = true := eventNow_iff.symm
    have signal (h : acts 1) {f : Option Edge} (hf : x.events.getD k.val none = f) : exec (.lineSignal p k) s = .next (signalOn p.val s u f) :=
      congrArg Host.Outcome.next ((signalDo_acts ((hacts 1).mp h)).trans (congrArg _ hf))
    refine ⟨fun h => congrArg Host.Outcome.next (signalDo_not ((hacts 1).not.mp h)), fun h hf => signal h hf, fun f h hf => signal h hf,
      fun h => congrArg Host.Outcome.next (if_neg ((hacts 2).not.mp h)), fun h => congrArg Host.Outcome.next (if_pos ((hacts 2).mp h)),
      fun h => congrArg Host.Outcome.next (if_pos (by simpa using (hacts 3).not.mp h)),
      fun h => (congrArg Host.Outcome.next (warpBandDo_acts ((hacts 3).mp h))).trans ?_⟩
    refine congrArg (fun f => Host.Outcome.next (State.onPipe p.val f u)) (funext fun x => ?_)
    unfold bandFires
    cases warpLayer x.rec' <;> rfl
  · intro z x runs
    have hz : applyIO io s = z := rfl
    clear_value z
    have hruns : ¬ runs ↔ (!scanning z p.val) = true := by
      rw [Bool.not_eq_true', ← Bool.not_eq_true, scanning_iff]
    refine ⟨fun h => congrArg Host.Outcome.next ?_, fun ctx va rest hx hr => ?_, fun l b hl hb => ?_, fun h => congrArg Host.Outcome.next ?_⟩
    · cases hx : x.poseReads with
      | nil => exact poseDo_none hz hx
      | cons r rest =>
        obtain ⟨ctx, va⟩ := r
        refine (poseDo_some hz hx).trans (if_pos (hruns.mp (h.resolve_left ?_)))
        simp [hx]
    · intro read torn
      have ended {r : Res (List Byte)} (hread : read = r) : exec (.poseReadDone p io) s = .next (poseEnd p.val ctx va rest z r) :=
        congrArg Host.Outcome.next ((poseDo_some hz hx).trans ((if_neg fun hn => hruns.mpr hn hr).trans (congrArg _ hread)))
      exact ⟨fun b v hv => ⟨fun h => (ended (r := .ok b v) hv).trans (congrArg _ (if_pos h)),
        fun h => (ended (r := .ok b v) hv).trans (congrArg _ (if_neg fun hn => hn h))⟩, fun f v hv => ended (r := .fault f v) hv,
        fun v hv => ended (r := .severed v) hv, fun v hv => ended (r := .wait v) hv⟩
    · intro lay n
      have done : exec (.warpBandDone p io) s = .next (bandEnd p.val z (some l) (some b)) :=
        congrArg Host.Outcome.next ((bandDone_eq hz).trans (congrArg₂ (bandEnd p.val z) hl hb))
      refine ⟨fun h => done.trans (congrArg _ (if_pos (h.imp_left hruns.mp))), fun hr hf => done.trans (congrArg _ (if_neg ?_))⟩
      rintro (hn | hn)
      · exact hruns.mpr hn hr
      · rw [show lay.faulted = true from hn] at hf
        cases hf
    · rw [bandDone_eq hz]
      rcases h with h | h
      · rw [show warpLayer (z.pipe p.val).rec' = none from h]
        rfl
      · rw [show (z.pipe p.val).bands.find? (fun b => !b.waits && !b.done) = none from h]
        cases warpLayer (z.pipe p.val).rec' <;> rfl
  · intro x lay todo ftz warped rows v hv hp
    exact bandTo_ok hv hp
  · intro x
    refine ⟨fun h => congrArg Host.Outcome.next ?_, fun f e rest hx hp => congrArg Host.Outcome.next ((wbDone_some hx).trans (if_neg (by simp [hp])))⟩
    cases hx : x.wbPend with
    | nil => exact wbDone_none hx
    | cons r rest =>
      obtain ⟨f, e⟩ := r
      refine (wbDone_some hx).trans (if_pos (h.resolve_left ?_))
      simp [hx]

end Sys2Proof.Machine
end

section
/-! Compression jobs: their checks, their channels and their ends (R359 to R371). -/

namespace Sys2Proof.Machine

open Sys2Proof

/-! ### CMP_JOB -/

theorem jobBad_iff (b : List Byte) : jobBad b = false ↔
    fld b 16 1 ≤ 1 ∧ fld b 17 1 ≤ 3 ∧ (fld b 16 1 = 0 → 1 ≤ fld b 18 1 ∧ fld b 18 1 ≤ 12) ∧ (fld b 16 1 = 1 → fld b 18 1 = 0) ∧
    1 ≤ fld b 32 8 ∧ fld b 32 8 ≤ 1099511627776 ∧ 1 ≤ fld b 48 8 ∧ fld b 48 8 ≤ 1099511627776 ∧
    (fld b 24 8 + fld b 32 8 ≤ fld b 40 8 ∨ fld b 40 8 + fld b 48 8 ≤ fld b 24 8) ∧ fld b 56 8 % 32 = 0 := by
  have hlevel : (if fld b 16 1 = 0 then decide (fld b 18 1 = 0) || decide (12 < fld b 18 1) else decide (fld b 18 1 ≠ 0)) = false ↔
      (fld b 16 1 = 0 → 1 ≤ fld b 18 1 ∧ fld b 18 1 ≤ 12) ∧ (fld b 16 1 ≠ 0 → fld b 18 1 = 0) := by
    split <;> simp <;> omega
  unfold jobBad jDir jFormat jLevel jSrcBytes jDstBytes jSrc jDst jComp overlap
  simp only [Bool.or_eq_false_iff, hlevel, Bool.and_eq_false_iff, decide_eq_false_iff_not]
  omega

/-- What a CMP_JOB does in its turn. -/
theorem jobDo_new {o : OpRef} {b : List Byte} {s : State} (h : cmpQueued s o = false) : jobDo o b s =
    if jobReserved b = true then endOp o 0x01 0 0 s
    else if jobBad b = true then endOp o 0x0B dcJob 0 s
    else
      let u := s.onCmp fun c => { c with queue := c.queue ++ [o] }
      if awake u = true then u else wantsExit u := if_neg (by simp [h])

/-! ### The next job -/

theorem foldl_max_ge {α : Type} (f : α → Nat) (l : List α) (a : Nat) :
    a ≤ l.foldl (fun m x => Nat.max m (f x)) a ∧ ∀ x ∈ l, f x ≤ l.foldl (fun m x => Nat.max m (f x)) a := by
  induction l generalizing a with
  | nil => simp
  | cons y l ih =>
    obtain ⟨h1, h2⟩ := ih (Nat.max a (f y))
    refine ⟨(Nat.le_max_left ..).trans h1, fun x hx => ?_⟩
    rcases List.mem_cons.mp hx with rfl | hx
    · exact (Nat.le_max_right ..).trans h1
    · exact h2 x hx

theorem foldl_max_attained {α : Type} (f : α → Nat) (l : List α) (a : Nat) :
    l.foldl (fun m x => Nat.max m (f x)) a = a ∨ ∃ x ∈ l, f x = l.foldl (fun m x => Nat.max m (f x)) a := by
  induction l generalizing a with
  | nil => exact .inl rfl
  | cons y l ih =>
    rcases ih (Nat.max a (f y)) with h | ⟨x, hx, h⟩
    · rcases Nat.le_total a (f y) with hle | hle
      · exact .inr ⟨y, by simp, (Nat.max_eq_right hle).symm.trans h.symm⟩
      · exact .inl (h.trans (Nat.max_eq_left hle))
    · exact .inr ⟨x, List.mem_cons_of_mem _ hx, h⟩

/-- PRIO of the ring of a job. -/
def jobPrio (s : State) (o : OpRef) : Nat := (s.ring o.ring.val).prio

/-- The highest PRIO among the jobs that wait. -/
def topPrio (s : State) : Nat := s.cmp.queue.foldl (fun m o => Nat.max m (jobPrio s o)) 0

/-- The rings that the next job may be of. -/
def topRings (s : State) : List (Fin 8192) := ((s.cmp.queue.filter fun o => jobPrio s o = topPrio s).map (·.ring)).eraseDups

theorem nextJob_eq (s : State) : nextJob s =
    ((s.cmp.queue.filter fun o => jobPrio s o = topPrio s).find? fun o => some o.ring = (topRings s)[(Config.freeValue s.free).toNat % (topRings s).length]?,
      { s with free := s.free + 1 }) := rfl

theorem nextJob_some {z y : State} {o : OpRef} (h : nextJob z = (some o, y)) :
    y = { z with free := z.free + 1 } ∧ o ∈ z.cmp.queue ∧ (∀ x ∈ z.cmp.queue, jobPrio z x ≤ jobPrio z o) ∧
      z.cmp.queue.find? (fun x => x.ring = o.ring) = some o := by
  rw [nextJob_eq, Prod.mk.injEq] at h
  obtain ⟨hfind, hy⟩ := h
  generalize (topRings z)[(Config.freeValue z.free).toNat % (topRings z).length]? = r at hfind
  have hring : some o.ring = r := by simpa using List.find?_some hfind
  have hmem := List.mem_filter.mp (List.mem_of_find?_eq_some hfind)
  obtain ⟨hin, htop⟩ := hmem
  have htop : jobPrio z o = topPrio z := by simpa using htop
  refine ⟨hy.symm, hin, fun x hx => htop ▸ (foldl_max_ge (jobPrio z) z.cmp.queue 0).2 x hx, ?_⟩
  rw [← hfind, List.find?_filter, ← hring]
  refine congrArg (fun p => List.find? p z.cmp.queue) (funext fun x => ?_)
  have hprio : x.ring = o.ring → jobPrio z x = topPrio z := fun he => by rw [← htop, jobPrio, jobPrio, he]
  simp only [decide_eq_true_eq, Option.some.injEq]
  exact decide_eq_decide.mpr ⟨fun he => ⟨hprio he, he⟩, And.right⟩

theorem nextJob_exists {z : State} (h : z.cmp.queue ≠ []) : ∃ o y, nextJob z = (some o, y) := by
  have hattain : ∃ x ∈ z.cmp.queue, jobPrio z x = topPrio z := by
    rcases foldl_max_attained (jobPrio z) z.cmp.queue 0 with h0 | hx
    · obtain ⟨x, hx⟩ := List.exists_mem_of_ne_nil _ h
      refine ⟨x, hx, ?_⟩
      have hle := (foldl_max_ge (jobPrio z) z.cmp.queue 0).2 x hx
      have htop : topPrio z = 0 := h0
      rw [h0] at hle
      omega
    · exact hx
  obtain ⟨x, hx, hp⟩ := hattain
  have hring : x.ring ∈ topRings z := List.mem_eraseDups.mpr (List.mem_map_of_mem (List.mem_filter.mpr ⟨hx, by simpa using hp⟩))
  have hlen : (Config.freeValue z.free).toNat % (topRings z).length < (topRings z).length := Nat.mod_lt _ (List.length_pos_of_mem hring)
  have hpick : (topRings z)[(Config.freeValue z.free).toNat % (topRings z).length] ∈ topRings z := List.getElem_mem hlen
  obtain ⟨o, ho, hor⟩ := List.mem_map.mp (List.mem_eraseDups.mp hpick)
  rw [nextJob_eq]
  cases hf : (z.cmp.queue.filter fun o => jobPrio z o = topPrio z).find? fun o =>
      some o.ring = (topRings z)[(Config.freeValue z.free).toNat % (topRings z).length]? with
  | some o => exact ⟨o, _, rfl⟩
  | none =>
    have hno := List.find?_eq_none.mp hf o ho
    rw [List.getElem?_eq_getElem hlen, decide_eq_true_eq, Option.some.injEq] at hno
    exact absurd hor hno

theorem nextJob_empty {z : State} (h : z.cmp.queue = []) : nextJob z = (none, { z with free := z.free + 1 }) := by
  rw [nextJob_eq, h]
  rfl

/-- How a free channel goes on, by the job that is next. -/
def jobTaken (ch : Nat) : Option OpRef × State → State
  | (none, s) => s
  | (some o, s) => (({ s with
      cmp := { s.cmp with queue := s.cmp.queue.filter fun x => x ≠ o, runs := s.cmp.runs ++ [(ch, o)] }
      pwr := { s.pwr with gated := s.pwr.gated.filter fun u => u ≠ 76 + ch } } : State).onOp o fun p => { p with units := [0x68 + ch] })

theorem ungate_one (u : Nat) (s : State) : ungate [u] s = s.onPwr fun p => { p with gated := p.gated.filter fun v => v ≠ u } := by
  unfold ungate
  refine congrArg (fun f => s.onPwr f) (funext fun p => ?_)
  refine congrArg (fun g => ({ p with gated := g } : Power)) (List.filter_congr fun v _ => ?_)
  simp

theorem jobStart_eq {ch : Nat} {s z : State} (hz : cmpSweep s = z) : jobStart ch s = if (!cmpFree z ch) = true then z else jobTaken ch (nextJob z) := by
  subst hz
  unfold jobStart
  refine if_congr Iff.rfl rfl ?_
  generalize nextJob (cmpSweep s) = r
  obtain ⟨o, y⟩ := r
  cases o with
  | none => rfl
  | some o =>
    dsimp only [jobTaken]
    rw [ungate_one]
    rfl

/-! ### The end of a job -/

/-- What stopped a range of accesses is a request that must wait. -/
def stopWaits : Stop → Bool
  | some (.wait _, _) => true
  | _ => false

theorem stopWaits_iff (x : Stop) : stopWaits x = false ↔ ∀ w va, x ≠ some (.wait w, va) := by
  cases x with
  | none => simp [stopWaits]
  | some y =>
    obtain ⟨r, va⟩ := y
    cases r <;> simp [stopWaits]

theorem stopWaits_not_iff (x : Stop) : stopWaits x = true ↔ ¬ ∀ w va, x ≠ some (.wait w, va) := by
  rw [← stopWaits_iff, Bool.not_eq_false]

/-- What a compression reports. -/
def packReport (b src : List Byte) (n used fault st d : Nat) : JobEnd :=
  { used, written := n, fault, check := jobCheck (fld b 17 1) (src.take used), bit := 0, status := st, detail := d }

/-- How a compression ends, by what its accesses gave: an open number of source bytes where its destination stopped it. -/
def packEnd (o : OpRef) (m ctx : Nat) (b src out : List Byte) (n : Nat) (v : State) (stop wstop : Stop) : Option State :=
  let open' := v.fresh.1.toNat % (src.length + 1)
  let next : State := { v with free := v.free + 1 }
  if (stopWaits stop || stopWaits wstop) = true then none
  else if wstop.isSome = true then jobEnd o m ctx (fld b 56 8) (packReport b src n open' open' 0x07 0) wstop .write next
  else if fld b 48 8 < out.length then jobClose o m ctx (fld b 56 8) (packReport b src n open' noOffset 0x0B dcFull) next
  else if stop.isSome = true then jobEnd o m ctx (fld b 56 8) (packReport b src n src.length src.length 0x07 0) stop .read v
  else jobClose o m ctx (fld b 56 8) (packReport b src n src.length noOffset 0 0) v

section
variable {o : OpRef} {m ctx : Nat} {b src : List Byte} {n : Nat} {s u v : State} {stop wstop : Stop}
  (hr : readUpTo m ctx (fld b 24 8) (fld b 32 8) none s = (src, stop, u))
include hr

theorem packJob_eq {out : List Byte} (hout : pack (fld b 17 1) (fld b 18 1) (fld b 32 8) src = out)
    (hw : writeUpTo m ctx (fld b 40 8) (out.take (fld b 48 8)) none u = (n, wstop, v)) :
    packJob o m ctx b none s = packEnd o m ctx b src out n v stop wstop := by
  unfold packJob jSrc jSrcBytes jFormat jLevel jDst jDstBytes jComp
  dsimp only
  rw [hr]
  dsimp only
  rw [hout, hw]
  dsimp only
  unfold packEnd
  rcases stop with - | ⟨r, va⟩ <;> rcases wstop with - | ⟨r', va'⟩
  · simp only [stopWaits, Bool.or_self, Bool.false_eq_true, if_false, Option.isSome_none]
    rfl
  · cases r' <;> simp only [stopWaits, Bool.or_true, Bool.or_self, Bool.false_eq_true, if_false, if_true, Option.isSome_some] <;> rfl
  · cases r <;>
      simp only [stopWaits, Bool.true_or, Bool.or_self, Bool.false_eq_true, if_false, if_true, Option.isSome_none, Option.isSome_some] <;> rfl
  · cases r <;> cases r' <;>
      simp only [stopWaits, Bool.or_true, Bool.true_or, Bool.or_self, Bool.false_eq_true, if_false, if_true, Option.isSome_some] <;> rfl

/-- What a decompression reports. -/
def unpackReport (b : List Byte) (d : Dec) (pos fault bt st code : Nat) : JobEnd :=
  { used := pos / 8, written := d.out.length, fault, check := jobCheck (fld b 17 1) d.out, bit := bt, status := st, detail := code }

/-- How a decompression ends whose output is written, by what its stream gave. -/
def unpackWritten (o : OpRef) (m ctx : Nat) (b : List Byte) (v : State) (stop : Stop) : DRes → Option State
  | .fail d code pos =>
    if code = dcTrunc ∧ stop.isSome = true then
      jobEnd o m ctx (fld b 56 8) (unpackReport b d pos (pos / 8) (faultBit (fld b 17 1) pos) 0x07 0) stop .read v
    else jobClose o m ctx (fld b 56 8) (unpackReport b d pos (pos / 8) (faultBit (fld b 17 1) pos) 0x0B code) v
  | .ok d => jobClose o m ctx (fld b 56 8) (unpackReport b d d.pos noOffset 0 0 0) v

/-- What a stream has given, whole or up to its error. -/
def decOf : DRes → Dec
  | .ok d => d
  | .fail d _ _ => d

/-- How a decompression ends, by what its accesses gave. -/
def unpackEnd (o : OpRef) (m ctx : Nat) (b : List Byte) (r : DRes) (n : Nat) (u v : State) (stop wstop : Stop) : Option State :=
  let d := decOf r
  let len := (markAt d n).1
  let pos := (markAt d n).2
  if (stopWaits stop || stopWaits wstop) = true then none
  else if wstop.isSome = true then
    jobEnd o m ctx (fld b 56 8) { used := pos / 8, written := len, fault := pos / 8, check := jobCheck (fld b 17 1) (d.out.take len), bit := faultBit (fld b 17 1) pos
                                  status := 0x07, detail := 0 } wstop .write (writeUpTo m ctx (fld b 40 8) (d.out.take len) none u).2.2
  else unpackWritten o m ctx b v stop r

theorem unpackJob_eq {r : DRes} (hres : unpack (fld b 17 1) (fld b 48 8) src stop.isSome = r)
    (hw : writeUpTo m ctx (fld b 40 8) (decOf r).out none u = (n, wstop, v)) :
    unpackJob o m ctx b none s = unpackEnd o m ctx b r n u v stop wstop := by
  unfold unpackJob jSrc jSrcBytes jFormat jDst jDstBytes jComp
  dsimp only
  rw [hr]
  dsimp only
  rw [hres]
  unfold unpackEnd
  cases r
  all_goals
    dsimp only [decOf] at hw ⊢
    rw [hw]
    rcases stop with - | ⟨r, va⟩ <;> rcases wstop with - | ⟨r', va'⟩
    · simp only [stopWaits, unpackWritten, Bool.or_self, Bool.false_eq_true, if_false, Option.isSome_none]
      rfl
    · cases r' <;> simp only [stopWaits, Bool.or_true, Bool.or_self, Bool.false_eq_true, if_false, if_true, Option.isSome_some] <;> rfl
    · cases r <;> simp only [stopWaits, unpackWritten, Bool.true_or, Bool.or_self, Bool.false_eq_true, if_false, if_true, Option.isSome_none] <;> rfl
    · cases r <;> cases r' <;>
        simp only [stopWaits, Bool.or_true, Bool.true_or, Bool.or_self, Bool.false_eq_true, if_false, if_true, Option.isSome_some] <;> rfl

end

section
variable {ch : Nat} {io : HostIO} {s z : State} (hz : cmpSweep (applyIO io s) = z)
include hz

theorem jobDone_stays (h : z.isPinned (0x68 + ch) = true ∨ ∀ r ∈ z.cmp.runs, r.1 ≠ ch) : jobDone ch io s = z := by
  subst hz
  unfold jobDone
  dsimp only
  cases hf : (cmpSweep (applyIO io s)).cmp.runs.find? fun r => r.1 = ch with
  | none => rfl
  | some r =>
    dsimp only
    cases (cmpSweep (applyIO io s)).op? r.2 with
    | none => rfl
    | some x =>
      refine if_pos (h.resolve_right fun hno => ?_)
      exact hno r (List.mem_of_find?_eq_some hf) (by simpa using List.find?_some hf)

theorem jobDone_runs {o : OpRef} {e : Entry} {q : Op} (hf : (z.cmp.runs.find? fun r => r.1 = ch) = some (ch, o)) (hop : z.op? o = some (e, q))
    (hp : z.isPinned (0x68 + ch) = false) : jobDone ch io s = jobRun o (0x68 + ch) e.ctx q.body none z := by
  subst hz
  unfold jobDone
  dsimp only
  rw [hf]
  dsimp only
  rw [hop]
  exact if_neg (by simp [cmpMaster, hp])

end

/-- How the record of a job ends, by its write. -/
def jobWritten (o : OpRef) (m ctx va : Nat) (j : JobEnd) : Res Unit → Option State
  | .ok _ v => some (jobGone o j v)
  | .fault f v => some (masterFault f m ctx va .write o.ring.val o.seq (jobGone o j v))
  | .severed v => some (jobGone o j v)
  | .wait _ => none
where
  /-- A job completes, and leaves its channel. -/
  jobGone (o : OpRef) (j : JobEnd) (v : State) : State := dropJob o (endOp o j.status j.detail 0 v)

theorem jobClose_eq (o : OpRef) (m ctx va : Nat) (j : JobEnd) (u : State) : jobClose o m ctx va j u =
    if va = 0 then some (jobWritten.jobGone o j u) else jobWritten o m ctx va j (vaWrite m ctx va j.bytes u) := by
  unfold jobClose
  refine if_congr Iff.rfl rfl ?_
  cases vaWrite m ctx va j.bytes u <;> rfl

@[simp] theorem length_bytes (j : JobEnd) : j.bytes.length = 32 := by
  simp [JobEnd.bytes]

/-! ### The obligation -/

/-- Settles O50: a job is checked and queued, the next one is the oldest of a ring of the highest PRIO, and it ends by
what its reads, its writes and its stream give. -/
theorem compressionJobsRun : Obligations.CompressionJobsRun := by
  unfold Obligations.CompressionJobsRun
  refine ⟨fun o s e q hop => ?_, fun b => jobBad_iff b, fun ch s => ?_, fun ch io s => ?_, fun o m ctx va j u => ?_⟩
  · intro ends u
    refine ⟨fun h => congrArg Host.Outcome.next (withOp_other hop h), fun hp ho hen hc => ?_⟩
    have run : ends (jobDo o q.body s) := congrArg Host.Outcome.next ((withOp_running hop hp hen ho).trans (if_pos hc))
    have by_eq {t t' : State} (h : ends t) (ht : t = t') : ends t' := ht ▸ h
    refine ⟨fun h => by_eq run (if_pos h), fun h => ?_⟩
    have new := by_eq run (jobDo_new h)
    exact ⟨fun h1 => by_eq new (if_pos h1), fun h1 h2 => by_eq new ((if_neg (by simp [h1])).trans (if_pos h2)),
      fun h1 h2 => by_eq new ((if_neg (by simp [h1])).trans (if_neg (by simp [h2])))⟩
  · intro z
    have hz : cmpSweep s = z := rfl
    clear_value z
    have run : exec (.cmpJobStart ch) s = .next _ := congrArg Host.Outcome.next (jobStart_eq hz)
    have taken (h : cmpFree z ch.val = true) : exec (.cmpJobStart ch) s = .next (jobTaken ch.val (nextJob z)) :=
      run.trans (congrArg _ (if_neg (by simp [h])))
    refine ⟨fun h => run.trans (congrArg _ (if_pos (by simp [h]))), fun h hq => (taken h).trans (by rw [nextJob_empty hq]; rfl),
      fun o y h hn => ⟨(nextJob_some hn).1, (taken h).trans (by rw [hn]; rfl)⟩, fun o y hn => (nextJob_some hn).2, nextJob_exists⟩
  · intro z m
    have hz : cmpSweep (applyIO io s) = z := rfl
    clear_value z
    refine ⟨fun h => congrArg (fun u => Host.Outcome.next (metaLog u)) (jobDone_stays hz h), fun o e q hf hop hp => ?_⟩
    intro b closes stops stays calm src sstop u hr
    have hcalm (x : Stop) : calm x ↔ stopWaits x = false := (stopWaits_iff x).symm
    have waits {x y : Stop} (h : ¬ calm x ∨ ¬ calm y) : (stopWaits x || stopWaits y) = true := by
      rw [hcalm, hcalm] at h
      simpa using h
    have calms {x y : Stop} (h : calm x) (h' : calm y) : ¬ (stopWaits x || stopWaits y) = true := by
      rw [(hcalm x).mp h, (hcalm y).mp h']
      decide
    have calmNone : calm none := fun w va h => by cases h
    have run {x : Option State} (hx : (if fld b 16 1 = 0 then packJob o m e.ctx b none z else unpackJob o m e.ctx b none z) = x) :
        exec (.cmpJobDone ch io) s = .next (metaLog (x.getD z)) :=
      congrArg (fun u => Host.Outcome.next (metaLog u)) ((jobDone_runs hz hf hop hp).trans (congrArg (fun x => x.getD z) hx))
    refine ⟨fun hdir => ?_, fun hdir => ?_⟩
    · intro out n wstop v hw open' j
      have packed {x : Option State} (hx : packEnd o m e.ctx b src out n v sstop wstop = x) : exec (.cmpJobDone ch io) s = .next (metaLog (x.getD z)) :=
        run ((if_pos hdir).trans ((packJob_eq hr rfl hw).trans hx))
      refine ⟨fun h1 h2 h3 => packed ?_, fun h1 h2 h3 => packed ?_, fun h1 h2 h3 h4 => packed ?_, fun h1 h2 h3 => packed ?_, fun h => packed (if_pos (waits h))⟩
      · exact (if_neg (calms (h1 ▸ calmNone) (h2 ▸ calmNone))).trans ((if_neg (by simp [h2])).trans ((if_neg (Nat.not_lt.mpr h3)).trans (if_neg (by simp [h1]))))
      · exact (if_neg (calms h1 (h2 ▸ calmNone))).trans ((if_neg (by simp [h2])).trans (if_pos h3))
      · exact (if_neg (calms h1 (h3 ▸ calmNone))).trans ((if_neg (by simp [h3])).trans ((if_neg (Nat.not_lt.mpr h4)).trans
          (if_pos (Option.isSome_iff_ne_none.mpr h2))))
      · exact (if_neg (calms h1 h2)).trans (if_pos (Option.isSome_iff_ne_none.mpr h3))
    · intro r bit' j d n wstop v hrd hw
      have hdec : decOf r = d := by
        rcases hrd with h | ⟨code, pos, h⟩
        · rw [h]
          rfl
        · rw [h]
          rfl
      have unpacked {x : Option State} (hx : unpackEnd o m e.ctx b r n u v sstop wstop = x) : exec (.cmpJobDone ch io) s = .next (metaLog (x.getD z)) :=
        run ((if_neg hdir).trans ((unpackJob_eq hr rfl (by rw [hdec]; exact hw)).trans hx))
      have written (h1 : calm sstop) (h2 : wstop = none) {y : DRes} (hy : r = y) {x : Option State} (hx : unpackWritten o m e.ctx b v sstop y = x) :
          exec (.cmpJobDone ch io) s = .next (metaLog (x.getD z)) := by
        exact unpacked ((if_neg (calms h1 (h2 ▸ calmNone))).trans ((if_neg (by simp [h2])).trans ((congrArg _ hy).trans hx)))
      refine ⟨fun h h1 h2 => written h1 h2 h rfl, fun code pos h h1 h2 h3 => written h1 h3 h (if_neg ?_), fun pos h h1 h2 h3 => written h1 h3 h (if_pos ?_),
        fun h1 h2 h3 => unpacked ?_, fun h => unpacked (if_pos (waits h))⟩
      · rintro ⟨hc, hs⟩
        rcases h2 with h2 | h2
        · exact h2 hc
        · rw [h2] at hs
          cases hs
      · exact ⟨rfl, Option.isSome_iff_ne_none.mpr h2⟩
      · refine (if_neg (calms h1 h2)).trans ((if_pos (Option.isSome_iff_ne_none.mpr h3)).trans ?_)
        rw [hdec]
        rfl
  · intro gone closed write
    have closes := jobClose_eq o m ctx va j u
    refine ⟨fun h => closes.trans (if_pos h), fun h v => ?_, fun f w at' acc => ?_, fun w at' acc => rfl, length_bytes j⟩
    · have ended {x : Res Unit} (hx : write = x) : jobClose o m ctx va j u = jobWritten o m ctx va j x := closes.trans ((if_neg h).trans (congrArg _ hx))
      refine ⟨fun hv => ?_, fun f hv => ended (x := .fault f v) hv, fun hv => ended (x := .wait v) hv⟩
      rcases hv with hv | hv
      · exact ended (x := .ok () v) hv
      · exact ended (x := .severed v) hv
    · exact ⟨fun h => if_pos h, fun h => if_neg (by simp [h])⟩

end Sys2Proof.Machine
end

section
/-! Pins, lifecycle and the security configuration (R382 to R386, R401). -/

namespace Sys2Proof.Machine

open Sys2Proof

/-- A block after a write of it that its unlock has let through. -/
def unlockUsed (b : BlockId) (changes : Prop) [Decidable changes] (s : State) : State := if changes then setUnlock b 0 0 s else s

section
variable {s : State} {off rel i : Nat} {b : BlockId} {d : RegDef} {v new : Word} (hq : quiet s 0) (hb : blockAt off = some (b, rel))
  (hd : regAt b rel = some (d, i)) (hrel : rel < 0xFF0) (hh : b ≠ .hst) (hon : blockOff s b = false)
  (hnew : newValue d .primary (s.raw 0 off) v = new)
include hq hb hd hrel hh hon hnew

theorem regWrite4_passes (h : (new &&& d.rwk) ≠ (s.raw 0 off &&& d.rwk) → unlocked s b 0 = true) :
    regWrite4 0 off v s = regEffect b rel (winWrite 0 .primary off d v s) (unlockUsed b ((new &&& d.rwk) ≠ (s.raw 0 off &&& d.rwk)) s) := by
  rw [regWrite4_prim v hq hb hd hrel hh hon, hnew]
  unfold unlockUsed
  by_cases hc : (new &&& d.rwk) ≠ (s.raw 0 off &&& d.rwk)
  · rw [if_pos hc, if_pos hc, if_pos (h hc)]
  · rw [if_neg hc, if_neg hc]

theorem regWrite4_locked (hc : (new &&& d.rwk) ≠ (s.raw 0 off &&& d.rwk)) (hl : unlocked s b 0 = false) : regWrite4 0 off v s = setDenied b 0 1 s := by
  rw [regWrite4_prim v hq hb hd hrel hh hon, hnew, if_pos hc]
  exact if_neg (by simp [hl])

end

theorem sec_virtual : ∀ d ∈ blockRegs .sec, d.vf = false := by
  change ∀ d ∈ regsSec, d.vf = false
  decide

theorem regWrite4_sec_virtual {fn : Fn} {off rel : Nat} {s : State} (v : Word) (hq : quiet s fn.val) (h0 : fn.val ≠ 0)
    (hb : blockAt off = some (.sec, rel)) : regWrite4 fn.val off v s = s :=
  regWrite4_virtual v hq h0 hb sec_virtual (by simp)

theorem blockAt_secPin : blockAt 0x050040 = some (.sec, 0x40) := by decide
theorem blockAt_secLc : blockAt 0x050004 = some (.sec, 4) := by decide
theorem blockAt_secCfg : blockAt 0x050008 = some (.sec, 8) := by decide

/-! ### SEC_PIN_CMD -/

/-- The row of SEC_PIN_CMD. -/
def secPinRow : RegDef := regRow 0x0040 1 0xFF 0x300 0x0 0x300 0x0 false false

theorem regAt_secPin : regAt .sec 0x40 = some (secPinRow, 0) := rfl

/-- The value that a command of SEC_PIN_CMD leaves, its command bit among the rest. -/
def pinNew (old v cmd : Word) : Word := newValue secPinRow .primary old ((v &&& 0xFF) ||| cmd)

section
variable {cmd : Word} (hcmd : cmd = 0x100 ∨ cmd = 0x200) (old v : Word)
include hcmd

theorem pinNew_cmd : pinNew old v cmd &&& 0x300 = cmd := by
  rcases hcmd with rfl | rfl <;>
  · ext i hi
    simp only [pinNew, newValue, secPinRow, regRow, BitVec.getElem_and, BitVec.getElem_or, BitVec.getElem_not]
    interval_cases i <;> simp

theorem pinNew_fields : pinNew old v cmd &&& ~~~0x300 = (old &&& 0xFFFFFC00) ||| (v &&& 0xFF) := by
  rcases hcmd with rfl | rfl <;>
  · ext i hi
    simp only [pinNew, newValue, secPinRow, regRow, BitVec.getElem_and, BitVec.getElem_or, BitVec.getElem_not]
    interval_cases i <;> simp

theorem pinNew_master : bits (pinNew old v cmd).toNat 7 0 = v.toNat % 256 := by
  refine (bits_congr (y := v.toNat) fun i hi => ?_).trans (by simp [bits])
  rw [testBit_toNat, testBit_toNat]
  rcases hcmd with rfl | rfl <;>
  · simp only [pinNew, newValue, secPinRow, regRow, BitVec.getLsbD_and, BitVec.getLsbD_or, BitVec.getLsbD_not]
    interval_cases i <;> simp

theorem pinNew_bits : bit (pinNew old v cmd).toNat 8 = decide (cmd = 0x100) ∧ bit (pinNew old v cmd).toNat 9 = decide (cmd = 0x200) := by
  rw [bit_getLsbD, bit_getLsbD]
  rcases hcmd with rfl | rfl <;>
  · simp only [pinNew, newValue, secPinRow, regRow, BitVec.getLsbD_and, BitVec.getLsbD_or, BitVec.getLsbD_not]
    simp

end

/-- The registers after a command of SEC_PIN_CMD that is let through. -/
def pinStored (v cmd : Word) (s : State) : State :=
  (if (s.raw 0 0x050040 &&& 0x300) ≠ cmd then setUnlock .sec 0 0 s else s).setRaw 0 0x050040 ((s.raw 0 0x050040 &&& 0xFFFFFC00) ||| (v &&& 0xFF))

section
variable {cmd v : Word} {s : State} (hcmd : cmd = 0x100 ∨ cmd = 0x200) (hq : quiet s 0)
include hcmd hq

theorem regWrite4_pin (h : (s.raw 0 0x050040 &&& 0x300) ≠ cmd → unlocked s .sec 0 = true) :
    regWrite4 0 0x050040 ((v &&& 0xFF) ||| cmd) s = pinCommand (v.toNat % 256) (decide (cmd = 0x100)) (decide (cmd = 0x200)) (pinStored v cmd s) := by
  have hguard : (pinNew (s.raw 0 0x050040) v cmd &&& secPinRow.rwk) ≠ (s.raw 0 0x050040 &&& secPinRow.rwk) ↔ (s.raw 0 0x050040 &&& 0x300) ≠ cmd := by
    rw [show secPinRow.rwk = 0x300 from rfl, pinNew_cmd hcmd]
    exact ne_comm
  have hw := regWrite4_passes hq blockAt_secPin regAt_secPin (by decide) (by simp) rfl (v := (v &&& 0xFF) ||| cmd) (new := pinNew (s.raw 0 0x050040) v cmd) rfl
    fun hc => h (hguard.mp hc)
  refine hw.trans ?_
  have hstored : storeWr (winWrite 0 .primary 0x050040 secPinRow ((v &&& 0xFF) ||| cmd) s) 0x300
      (unlockUsed .sec ((pinNew (s.raw 0 0x050040) v cmd &&& secPinRow.rwk) ≠ (s.raw 0 0x050040 &&& secPinRow.rwk)) s) = pinStored v cmd s := by
    have hw1c (x y : Word) : x &&& ~~~(y &&& 0#32) = x := by rw [BitVec.and_zero]; exact and_full x
    have hunlock : unlockUsed .sec ((pinNew (s.raw 0 0x050040) v cmd &&& secPinRow.rwk) ≠ (s.raw 0 0x050040 &&& secPinRow.rwk)) s =
        if (s.raw 0 0x050040 &&& 0x300) ≠ cmd then setUnlock .sec 0 0 s else s := if_congr hguard rfl rfl
    rw [hunlock]
    unfold pinStored
    rw [← pinNew_fields hcmd]
    exact congrArg (fun x => State.setRaw 0 0x050040 x _) (hw1c _ _)
  have hhalt : (pinStored v cmd s).halted .sec = false := by
    refine halted_of_nil ?_ _
    unfold pinStored
    split <;> exact hq.2.2
  have hnew : (winWrite 0 .primary 0x050040 secPinRow ((v &&& 0xFF) ||| cmd) s).new = pinNew (s.raw 0 0x050040) v cmd := rfl
  show pinEffect _ _ = _
  unfold pinEffect
  dsimp only
  rw [hstored, hnew, hhalt, (pinNew_bits hcmd ..).1, (pinNew_bits hcmd ..).2, pinNew_master hcmd]
  exact if_neg (by simp)

theorem regWrite4_pin_locked (hc : (s.raw 0 0x050040 &&& 0x300) ≠ cmd) (hl : unlocked s .sec 0 = false) :
    regWrite4 0 0x050040 ((v &&& 0xFF) ||| cmd) s = setDenied .sec 0 1 s := by
  refine regWrite4_locked hq blockAt_secPin regAt_secPin (by decide) (by simp) rfl (new := pinNew (s.raw 0 0x050040) v cmd) rfl ?_ hl
  rw [show secPinRow.rwk = 0x300 from rfl, pinNew_cmd hcmd]
  exact hc.symm

end

/-- PINRES of SEC_PIN_CMD. -/
def pinAnswer (r : Nat) (s : State) : State := s.onSec fun x => { x with pinRes := r }

section
variable {m : Nat} {s : State}

theorem pinCommand_busy {rel pin : Bool} (h : s.sec.pinBusy ≠ none) : pinCommand m rel pin s = s :=
  if_pos (.inl (Option.isSome_iff_ne_none.mpr h))

theorem pinCommand_pin (h : s.sec.pinBusy = none) : pinCommand m false true s =
    if m < 0x72 ∧ (!s.isPinned m) = true then pinAnswer 0 (pinMaster m 7 0 0 0 s) else pinAnswer 3 s := by
  unfold pinCommand
  refine (if_neg ?_).trans (if_neg (by decide))
  rw [h]
  decide

theorem pinCommand_release (h : s.sec.pinBusy = none) : pinCommand m true false s =
    if m < 0x72 ∧ s.isPinned m = true then pinAnswer 0 (s.onSec fun x => { x with pinBusy := some m })
    else if m < 0x72 ∧ s.sec.logged.contains m = true then pinAnswer 0 (unpinMaster m s)
    else pinAnswer 3 s := by
  unfold pinCommand
  refine (if_neg ?_).trans (if_pos rfl)
  rw [h]
  decide

end

theorem pinStored_sec (v cmd : Word) (s : State) : (pinStored v cmd s).sec = s.sec := by
  unfold pinStored
  split <;> rfl

/-! ### Releases -/

/-- Masters leave the pin map. -/
def unpinned (ms : List Nat) (s : State) : State :=
  s.onSec fun x => { x with pinBusy := none, pinned := x.pinned.filter fun y => !ms.contains y, logged := x.logged.filter fun y => !ms.contains y }

theorem eachDo_unpin (ms : List Nat) (s : State) : eachDo ms unpinMaster s =
    s.onSec fun x => { x with pinned := x.pinned.filter fun y => !ms.contains y, logged := x.logged.filter fun y => !ms.contains y } := by
  induction ms generalizing s with
  | nil =>
    have hall (l : List Nat) : l.filter (fun y => !([] : List Nat).contains y) = l := List.filter_eq_self.mpr fun _ _ => rfl
    show s = ({ s with sec := { s.sec with pinned := s.sec.pinned.filter _, logged := s.sec.logged.filter _ } } : State)
    rw [hall, hall]
  | cons m ms ih =>
    have hcons (l : List Nat) : (l.filter (· ≠ m)).filter (fun y => !ms.contains y) = l.filter fun y => !(m :: ms).contains y := by
      rw [List.filter_filter]
      refine List.filter_congr fun y _ => ?_
      simp [Bool.and_comm]
    show eachDo ms unpinMaster (unpinMaster m s) = _
    rw [ih]
    show ({ s with sec := { s.sec with pinned := (s.sec.pinned.filter _).filter _, logged := (s.sec.logged.filter _).filter _ } } : State) = _
    rw [hcons, hcons]
    rfl

theorem unpinMaster_one (m : Nat) (s : State) : unpinMaster m (s.onSec fun x => { x with pinBusy := none }) = unpinned [m] s := by
  have h := eachDo_unpin [m] (s.onSec fun x => { x with pinBusy := none })
  exact h

theorem eachDo_unpinned (ms : List Nat) (s : State) : eachDo ms unpinMaster (s.onSec fun x => { x with pinBusy := none }) = unpinned ms s :=
  eachDo_unpin ..

section
variable {m : Nat} {r : ClearResult} {s : State}

theorem releaseDone_other (h : s.sec.pinBusy ≠ some m) : releaseDone m r s = s := if_pos h

theorem releaseDone_run (h : s.sec.pinBusy = some m) : releaseDone m r s = releaseRun m r (s.onSec fun x => { x with pinBusy := none }) :=
  if_neg fun hn => hn h

theorem releaseRun_apart (h : 0x68 ≤ m) : releaseRun m r (s.onSec fun x => { x with pinBusy := none }) = masterClear m (unpinned [m] s) := by
  have hc : masterCluster m = none := (if_neg (by omega)).trans ((if_neg (by omega)).trans (if_neg (by omega)))
  unfold releaseRun
  rw [hc, ← unpinMaster_one]

/-- How the release of a master of a cluster ends that no failed clear has pinned. -/
def oneReleased (c m : Nat) (s : State) : ClearResult → State
  | .pass => masterClear m s
  | r => if 0x48 ≤ m then masterClear m s else clearFailed c r (if m < 64 then s.setPower (8 + m) .failed else s)

theorem releaseRun_one {c : Nat} (hc : masterCluster m = some c) (hw : clearPinned s m = false) :
    releaseRun m r (s.onSec fun x => { x with pinBusy := none }) = oneReleased c m (unpinned [m] s) r := by
  have hw' : clearPinned (s.onSec fun x => { x with pinBusy := none }) m = false := hw
  unfold releaseRun
  rw [hc]
  dsimp only
  rw [hw', if_neg (by decide), eachDo_unpinned]
  cases r with
  | pass => rfl
  | _ => exact if_congr (and_iff_left rfl) rfl (congrArg (clearFailed c _) (if_congr (and_iff_left rfl) rfl rfl))

/-- How the release of a cluster ends that a failed clear has pinned. -/
def wholeReleased (c : Nat) (s : State) : ClearResult → State
  | .pass => clusterOn c (clusterClear c s)
  | r => clearFailed c r s

theorem releaseRun_whole {c : Nat} (hc : masterCluster m = some c) (hw : clearPinned s m = true) :
    releaseRun m r (s.onSec fun x => { x with pinBusy := none }) = wholeReleased c (unpinned ((clusterMasters c).filter (clearPinned s)) s) r := by
  have hw' : clearPinned (s.onSec fun x => { x with pinBusy := none }) m = true := hw
  have hms : (clusterMasters c).filter (clearPinned (s.onSec fun x => { x with pinBusy := none })) = (clusterMasters c).filter (clearPinned s) := rfl
  unfold releaseRun
  rw [hc]
  dsimp only
  rw [hw']
  simp only [if_true, hms, eachDo_unpinned]
  have hnot (P : Prop) : ¬ (P ∧ (!true) = true) := by simp
  cases r with
  | pass => rfl
  | _ =>
    dsimp only [wholeReleased]
    rw [if_neg (hnot _), if_neg (hnot _)]

theorem masterClear_core (k : Fin 64) : masterClear k.val s = wakeClear (.core k) s := dif_pos k.isLt

theorem masterClear_pipe (h1 : 0x6C ≤ m) (h2 : m < 0x70) : masterClear m s = s.onPipe (m - 0x6C) fun x => { pipeOff x with pend := none, wbPend := [] } :=
  (dif_neg (by omega)).trans (if_pos ⟨h1, h2⟩)

theorem masterClear_none (h1 : 64 ≤ m) (h2 : m < 0x6C ∨ 0x70 ≤ m) : masterClear m s = s :=
  (dif_neg (by omega)).trans (if_neg (by omega))

end

theorem clusterClear_eq (c : Fin 8) (s : State) : clusterClear c.val s =
    (upTo 8).foldl (fun s i => if h : 8 * c.val + i < 64 then wakeClear (.core ⟨8 * c.val + i, h⟩) s else s) (wakeClear (.cluster c) s) := by
  unfold clusterClear
  rw [dif_pos c.isLt]
  refine List.foldl_ext _ _ _ fun u i hi => ?_
  have hi8 : i < 8 := List.mem_range.mp hi
  have hlt : 8 * c.val + i < 64 := by omega
  rw [dif_pos hlt]
  exact dif_pos hlt

/-! ### SEC_LC_CTL -/

/-- The row of SEC_LC_CTL. -/
def secLcRow : RegDef := regRow 0x0004 1 0x0 0x3 0x80000000 0x3 0x0 false false

theorem regAt_secLc : regAt .sec 4 = some (secLcRow, 0) := rfl

/-- The registers after a write of SEC_LC_CTL that is let through, but for its REFUSED bit. -/
def lcKept (v bits' : Word) (s : State) : State :=
  (if (s.raw 0 0x050004 &&& 3) ≠ bits' then setUnlock .sec 0 0 s else s).setRaw 0 0x050004 (s.raw 0 0x050004 &&& ~~~(v &&& 0x80000000))

theorem lcKept_sec (v bits' : Word) (s : State) : (lcKept v bits' s).sec = s.sec := by
  unfold lcKept
  split <;> rfl

/-- A write of SEC_LC_CTL that is refused. -/
def lcRefused (v : Word) (s u : State) : State := u.setRaw 0 0x050004 ((s.raw 0 0x050004 &&& ~~~(v &&& 0x80000000)) ||| 0x80000000)

/-- What a write of SEC_LC_CTL asks for, and when it may. -/
def lcTo (t : Nat) (v : Word) (s u : State) : State :=
  if (if t = 2 then decide (fusedLc u = 1) && !Config.eng else decide (fusedLc u ≠ 3) && u.sec.rmaOk) = true then
    u.onSec fun x => { x with lcBurn := some t }
  else lcRefused v s u

section
variable {val v target : Word} {s : State} (hq : quiet s 0) (htarget : val &&& 3 = target) (hflag : val &&& 0x80000000 = v &&& 0x80000000)
include hq htarget

omit hq in
theorem lcNew_target (old : Word) : newValue secLcRow .primary old val &&& 3 = target := by
  rw [← htarget]
  ext i hi
  simp only [newValue, secLcRow, regRow, BitVec.getElem_and, BitVec.getElem_or, BitVec.getElem_not]
  interval_cases i <;> simp

theorem regWrite4_lc_locked (hc : (s.raw 0 0x050004 &&& 3) ≠ target) (hl : unlocked s .sec 0 = false) : regWrite4 0 0x050004 val s = setDenied .sec 0 1 s := by
  refine regWrite4_locked hq blockAt_secLc regAt_secLc (by decide) (by simp) rfl rfl ?_ hl
  rw [show secLcRow.rwk = 3 from rfl, lcNew_target htarget]
  exact hc.symm

include hflag

theorem regWrite4_lc (h : (s.raw 0 0x050004 &&& 3) ≠ target → unlocked s .sec 0 = true) (ht : 2 ≤ target.toNat) :
    regWrite4 0 0x050004 val s = lcTo target.toNat v s (lcKept v target s) := by
  have hguard : (newValue secLcRow .primary (s.raw 0 0x050004) val &&& secLcRow.rwk) ≠ (s.raw 0 0x050004 &&& secLcRow.rwk) ↔
      (s.raw 0 0x050004 &&& 3) ≠ target := by
    rw [show secLcRow.rwk = 3 from rfl, lcNew_target htarget]
    exact ne_comm
  refine (regWrite4_passes hq blockAt_secLc regAt_secLc (by decide) (by simp) rfl (v := val) rfl fun hc => h (hguard.mp hc)).trans ?_
  have hw1c : (winWrite 0 .primary 0x050004 secLcRow val s).w1c = v &&& 0x80000000 := hflag
  have hkept : clearWr (winWrite 0 .primary 0x050004 secLcRow val s)
      (unlockUsed .sec ((newValue secLcRow .primary (s.raw 0 0x050004) val &&& secLcRow.rwk) ≠ (s.raw 0 0x050004 &&& secLcRow.rwk)) s) = lcKept v target s := by
    have hunlock : unlockUsed .sec ((newValue secLcRow .primary (s.raw 0 0x050004) val &&& secLcRow.rwk) ≠ (s.raw 0 0x050004 &&& secLcRow.rwk)) s =
        if (s.raw 0 0x050004 &&& 3) ≠ target then setUnlock .sec 0 0 s else s := if_congr hguard rfl rfl
    unfold clearWr
    rw [hunlock, hw1c]
    rfl
  have htwo : bits (newValue secLcRow .primary (s.raw 0 0x050004) val).toNat 1 0 = target.toNat := by
    rw [← lcNew_target htarget (s.raw 0 0x050004), BitVec.toNat_and]
    exact (Nat.and_two_pow_sub_one_eq_mod _ 2).symm ▸ by simp [bits]
  show lcEffect _ _ = _
  unfold lcEffect
  dsimp only
  rw [hkept, show (winWrite 0 .primary 0x050004 secLcRow val s).new = newValue secLcRow .primary (s.raw 0 0x050004) val from rfl, htwo]
  refine (if_neg (Nat.not_lt.mpr ht)).trans ?_
  unfold lcTo refuseWr lcRefused
  rw [hw1c]
  rfl

end

/-! ### SEC_CFG -/

/-- The row of SEC_CFG. -/
def secCfgRow : RegDef := regRow 0x0008 1 0x0 0xF 0x80000000 0x0 0x0 true false

theorem regAt_secCfg : regAt .sec 8 = some (secCfgRow, 0) := rfl

theorem newValue_secCfg (old v : Word) : newValue secCfgRow .primary old v = (old &&& 0xFFFFFFF0) ||| (v &&& 0xF) := by
  simp [newValue, secCfgRow, regRow]

/-- What a write of SEC_CFG does that is let through. -/
theorem secCfgEffect_eq {v new : Word} {s u : State} (hnew : (s.raw 0 0x050008 &&& 0xFFFFFFF0) ||| (v &&& 0xF) = new) :
    secCfgEffect (winWrite 0 .primary 0x050008 secCfgRow v s) u =
      if (new &&& 0xF) ≠ (s.raw 0 0x050008 &&& 0xF) ∧ (lifecycle u = 2 ∨ (u.mmu.ctxs.any fun e => decide (e.1 ≠ 0) && decide (e.2.state ≠ .free)) = true) then
        u.setRaw 0 0x050008 ((s.raw 0 0x050008 &&& ~~~(v &&& 0x80000000)) ||| 0x80000000)
      else u.setRaw 0 0x050008 (new &&& ~~~(v &&& 0x80000000)) := by
  have hw : (winWrite 0 .primary 0x050008 secCfgRow v s).new = new := (newValue_secCfg ..).trans hnew
  have hfull (x : Word) : x &&& ~~~(0 : Word) = x := by simp [and_full]
  unfold secCfgEffect RegWr.changes storeWr
  rw [hw, hfull]
  exact if_congr (and_congr_left fun _ => decide_eq_true_iff) rfl rfl

/-! ### The obligation -/

/-- Settles O51: each command register by its row and its guard, and a release by the master's storage. -/
theorem securityCommands : Obligations.SecurityCommands := by
  unfold Obligations.SecurityCommands
  refine ⟨fun fn v t s h0 => ?_, fun v t s0 => ?_, fun m r s => ?_, clusterClear_eq, fun v s hq => ?_, fun s test hlog => ?_, fun s eq => ?_, fun s0 t => ?_⟩
  · exact ⟨fun hq => congrArg Host.Outcome.next (regWrite4_sec_virtual _ hq h0 blockAt_secPin), fun hq =>
      ⟨congrArg Host.Outcome.next (regWrite4_sec_virtual _ hq h0 blockAt_secPin), congrArg Host.Outcome.next (regWrite4_sec_virtual _ hq h0 blockAt_secLc),
        congrArg Host.Outcome.next (regWrite4_sec_virtual _ hq h0 blockAt_secLc), congrArg Host.Outcome.next (regWrite4_sec_virtual _ hq h0 blockAt_secCfg)⟩⟩
  · intro off m stored res passes s
    have h1 : (0x200 : Word) = 0x100 ∨ (0x200 : Word) = 0x200 := .inr rfl
    have h2 : (0x100 : Word) = 0x100 ∨ (0x100 : Word) = 0x200 := .inl rfl
    have hsec (cmd : Word) (u : State) : (stored cmd u).sec = u.sec := pinStored_sec v cmd u
    have hpinned (cmd : Word) (u : State) (k : Nat) : (stored cmd u).isPinned k = u.isPinned k := isPinned_of_sec (hsec cmd u)
    have lock {cmd : Word} {u : State} (h : ¬ passes cmd u) : (u.raw 0 off &&& 0x300) ≠ cmd ∧ unlocked u .sec 0 = false := by
      simpa [passes] using h
    refine ⟨fun hq => ⟨fun h => ?_, fun h hb => ?_, fun h hb => ?_⟩, fun hq => ⟨fun h => ?_, fun h hb => ?_, fun h hb => ?_⟩⟩
    · exact congrArg Host.Outcome.next (regWrite4_pin_locked h1 hq (lock h).1 (lock h).2)
    · refine congrArg Host.Outcome.next ((regWrite4_pin h1 hq h).trans (pinCommand_busy ?_))
      rwa [pinStored_sec]
    · have pin : exec (.secPin 0 v t) s0 = .next _ :=
        congrArg Host.Outcome.next ((regWrite4_pin (v := v) h1 hq h).trans (pinCommand_pin (by rw [pinStored_sec]; exact hb)))
      refine ⟨fun hm hp => ?_, fun hm => ?_⟩
      · refine pin.trans (congrArg _ (if_pos ⟨hm, ?_⟩))
        rw [show (pinStored v 0x200 s).isPinned m = s.isPinned m from hpinned 0x200 s m, hp]
        rfl
      · refine pin.trans (congrArg _ (if_neg ?_))
        rintro ⟨hlt, hp⟩
        rw [show (pinStored v 0x200 s).isPinned m = s.isPinned m from hpinned 0x200 s m] at hp
        rcases hm with hm | hm
        · exact absurd hlt (Nat.not_lt.mpr hm)
        · rw [hm] at hp
          cases hp
    · exact congrArg Host.Outcome.next (regWrite4_pin_locked h2 hq (lock h).1 (lock h).2)
    · refine congrArg Host.Outcome.next ((regWrite4_pin h2 hq h).trans (pinCommand_busy ?_))
      rwa [pinStored_sec]
    · have release : exec (.secRelease 0 v) s0 = .next _ :=
        congrArg Host.Outcome.next ((regWrite4_pin (v := v) h2 hq h).trans (pinCommand_release (by rw [pinStored_sec]; exact hb)))
      rw [pinStored_sec, show (pinStored v 0x100 s0).isPinned (v.toNat % 256) = s0.isPinned m from hpinned 0x100 s0 m] at release
      refine ⟨fun hm hp => release.trans (congrArg _ (if_pos ⟨hm, hp⟩)), fun hm hp hl => release.trans (congrArg _ ?_), fun hm => release.trans (congrArg _ ?_)⟩
      · exact (if_neg (by simp [hp])).trans (if_pos ⟨hm, hl⟩)
      · have h1 : ¬ (v.toNat % 256 < 0x72 ∧ s0.isPinned m = true) := by
          rintro ⟨hlt, hp⟩
          rcases hm with hm | ⟨hm, -⟩
          · exact absurd hlt (Nat.not_lt.mpr hm)
          · rw [hm] at hp
            cases hp
        have h2 : ¬ (v.toNat % 256 < 0x72 ∧ s0.sec.logged.contains (v.toNat % 256) = true) := by
          rintro ⟨hlt, hp⟩
          rcases hm with hm | ⟨-, hm⟩
          · exact absurd hlt (Nat.not_lt.mpr hm)
          · rw [show s0.sec.logged.contains (v.toNat % 256) = false from hm] at hp
            cases hp
        exact (if_neg h1).trans (if_neg h2)
  · refine ⟨fun h => congrArg Host.Outcome.next (releaseDone_other h), fun h => ?_⟩
    intro ends freed u whole
    have run {t : State} (ht : releaseRun m.val r (s.onSec fun x => { x with pinBusy := none }) = t) : ends t :=
      congrArg Host.Outcome.next ((releaseDone_run h).trans ht)
    refine ⟨fun h1 h2 => run ((releaseRun_apart h2).trans (masterClear_none (by omega) h1)), fun h1 h2 => run ((releaseRun_apart (by omega)).trans (masterClear_pipe h1 h2)),
      fun h1 h2 hw => run ?_, fun k hk hw => ?_, fun h1 h2 hw => ?_, fun c hc hw => ?_⟩
    · have hc : masterCluster m.val = some ((m.val - 0x48) / 4) := (if_neg (by omega)).trans ((if_neg (by omega)).trans (if_pos h2))
      refine (releaseRun_one hc hw).trans ?_
      have hclear : masterClear m.val (unpinned [m.val] s) = u := masterClear_none (by omega) (.inl (by omega))
      cases r with
      | pass => exact hclear
      | _ => exact (if_pos h1).trans hclear
    · have hc : masterCluster m.val = some (k.val / 8) := by
        rw [hk]
        exact if_pos k.isLt
      have one := run (releaseRun_one hc hw)
      refine ⟨fun hr => ?_, fun hr => ?_⟩
      · rw [hr] at one
        refine Eq.trans one (congrArg Host.Outcome.next ?_)
        show masterClear m.val u = _
        rw [hk]
        exact masterClear_core k
      · have hlt : ¬ 0x48 ≤ m.val := by omega
        refine Eq.trans one (congrArg Host.Outcome.next ?_)
        cases r with
        | pass => exact absurd rfl hr
        | _ => exact (if_neg hlt).trans (by rw [if_pos (show m.val < 64 by omega), show unpinned [m.val] s = u from rfl, hk])
    · have hc : masterCluster m.val = some (m.val - 0x40) := (if_neg (by omega)).trans (if_pos h2)
      have one := run (releaseRun_one hc hw)
      refine ⟨fun hr => ?_, fun hr => ?_⟩
      · rw [hr] at one
        exact Eq.trans one (congrArg Host.Outcome.next (masterClear_none (by omega) (.inl (by omega))))
      · refine Eq.trans one (congrArg Host.Outcome.next ?_)
        cases r with
        | pass => exact absurd rfl hr
        | _ => exact (if_neg (by omega)).trans (by rw [if_neg (show ¬ m.val < 64 by omega), show unpinned [m.val] s = u from rfl])
    · have all := run (releaseRun_whole hc hw)
      refine ⟨fun hr => ?_, fun hr => ?_⟩
      · rw [hr] at all
        exact all
      · refine Eq.trans all (congrArg Host.Outcome.next ?_)
        cases r with
        | pass => exact absurd rfl hr
        | _ => rfl
  · intro off old turn kept no burn
    have hlow2 : ((v &&& 0xFFFFFFFC) ||| 2) &&& 3 = (2 : Word) := by
      ext i hi
      simp only [BitVec.getElem_and, BitVec.getElem_or]
      interval_cases i <;> simp
    have hlow3 : (v ||| 3) &&& 3 = (3 : Word) := by
      ext i hi
      simp only [BitVec.getElem_and, BitVec.getElem_or]
      interval_cases i <;> simp
    have hflag2 : ((v &&& 0xFFFFFFFC) ||| 2) &&& 0x80000000 = v &&& 0x80000000 := by
      ext i hi
      simp only [BitVec.getElem_and, BitVec.getElem_or]
      interval_cases i <;> simp
    have hflag3 : (v ||| 3) &&& 0x80000000 = v &&& 0x80000000 := by
      ext i hi
      simp only [BitVec.getElem_and, BitVec.getElem_or]
      interval_cases i <;> simp
    have hfused (bits' : Word) : fusedLc (lcKept v bits' s) = fusedLc s := by
      unfold fusedLc lifecycle
      rw [lcKept_sec]
    refine ⟨fun hc hl => congrArg Host.Outcome.next (regWrite4_lc_locked hq hlow2 hc hl), fun hc hl => congrArg Host.Outcome.next (regWrite4_lc_locked hq hlow3 hc hl),
      fun h => congrArg Host.Outcome.next ((regWrite4_lc hq hlow2 hflag2 h (by decide)).trans ?_),
      fun h => congrArg Host.Outcome.next ((regWrite4_lc hq hlow3 hflag3 h (by decide)).trans ?_), ?_⟩
    · refine if_congr ?_ rfl rfl
      rw [if_pos (show (2 : Word).toNat = 2 from rfl), hfused, Bool.and_eq_true, decide_eq_true_iff, Bool.not_eq_true']
    · refine if_congr ?_ rfl rfl
      rw [if_neg (show ¬ (3 : Word).toNat = 2 by decide), hfused, lcKept_sec, Bool.and_eq_true, decide_eq_true_iff]
    · intro off old new live u
      have hlive (w : State) (hw : w.mmu = s.mmu) : (w.mmu.ctxs.any fun e => decide (e.1 ≠ 0) && decide (e.2.state ≠ .free)) = true ↔ live := by
        rw [hw]
        simp only [live, List.any_eq_true, Bool.and_eq_true, decide_eq_true_eq]
      have hwrite (h : (new &&& 0xF) ≠ (old &&& 0xF) → unlocked s .sec 0 = true) :=
        regWrite4_passes (v := v) hq blockAt_secCfg regAt_secCfg (by decide) (by simp) rfl (newValue_secCfg ..) h
      refine ⟨fun h => congrArg Host.Outcome.next ?_, fun h hl => congrArg Host.Outcome.next ?_, fun h hl hc => congrArg Host.Outcome.next ?_,
        fun h hl hc => congrArg Host.Outcome.next ?_⟩
      · refine (hwrite fun hn => absurd h hn).trans ((secCfgEffect_eq rfl).trans ((if_neg fun hn => hn.1 h).trans ?_))
        rw [show unlockUsed .sec _ s = s from if_neg fun hn => hn h]
      · exact regWrite4_locked hq blockAt_secCfg regAt_secCfg (by decide) (by simp) rfl (newValue_secCfg ..) h hl
      · have hu : unlockUsed .sec ((new &&& secCfgRow.rwk) ≠ (old &&& secCfgRow.rwk)) s = u := if_pos h
        refine (hwrite fun _ => hl).trans ((congrArg (secCfgEffect _) hu).trans ((secCfgEffect_eq rfl).trans (if_pos ⟨h, hc.imp_right (hlive u rfl).mpr⟩)))
      · have hu : unlockUsed .sec ((new &&& secCfgRow.rwk) ≠ (old &&& secCfgRow.rwk)) s = u := if_pos h
        refine (hwrite fun _ => hl).trans ((congrArg (secCfgEffect _) hu).trans ((secCfgEffect_eq rfl).trans (if_neg fun hn => hc (hn.2.imp_right (hlive u rfl).mp))))
  · exact congrArg Host.Outcome.next (logError_plain (code := 0x50) (src := 0x83) 0 test 0 hlog)
  · refine congrArg Host.Outcome.next (if_congr ?_ rfl rfl)
    rw [Bool.not_eq_true']
  · exact rfl

end Sys2Proof.Machine
end


section
/-! ## SPDM over DOE (spec/13) -/

namespace Sys2Proof.Machine
open Sys2Proof

/-! ### When a request is taken -/

section
variable {s : State} {f : State → State}

theorem doe_shut (h : s.boot.link = false ∨ s.halted .sec = true) : doe f s = s :=
  if_neg fun ⟨hl, hh⟩ => by rcases h with h | h <;> simp [h] at hl hh

theorem spdmReady_shut (h : s.boot.link = false ∨ s.halted .sec = true) : spdmReady f s = s := doe_shut h

theorem doe_open (hl : s.boot.link = true) (hh : s.halted .sec = false) : doe f s = f s := if_pos ⟨hl, by simp [hh]⟩

theorem spdmReady_early (hl : s.boot.link = true) (hh : s.halted .sec = false) (h : s.sec.spdm < 3) :
    spdmReady f s = reply (.error 4) s := (doe_open hl hh).trans (if_pos h)

theorem spdmReady_ready (hl : s.boot.link = true) (hh : s.halted .sec = false) (h : 3 ≤ s.sec.spdm) :
    spdmReady f s = f s := (doe_open hl hh).trans (if_neg (Nat.not_lt.2 h))

end

/-! ### Requests inside a session -/

section
variable {s : State} {id : Nat} {x : Session} {f : State → State} {msg : IdeKmMsg}

theorem inSession_none (h : session? s id = none) : inSession id f s = reply (.error 2) s := by
  rw [inSession, h]
  rfl

theorem inSession_closed (h : session? s id = some x) (hx : x.open' = false) : inSession id f s = reply (.error 4) s := by
  rw [inSession, h]
  exact if_neg (by simp [hx])

theorem inSession_open (h : session? s id = some x) (hx : x.open' = true) : inSession id f s = f s := by
  rw [inSession, h]
  exact if_pos hx

/-- What IDE_KM does once the algorithms are negotiated. -/
def ideKmIn (id : Nat) (msg : IdeKmMsg) (s : State) : State :=
  if (session? s id).isSome then inSession id (ideKmDo msg) s else reply (.error seRequired) s

theorem execIdeKm_eq : execIdeKm id msg s = .next (spdmReady (ideKmIn id msg) s) := rfl

theorem ideKmIn_none (h : session? s id = none) : ideKmIn id msg s = reply (.error 11) s := if_neg (by simp [h])

theorem ideKmIn_some (h : session? s id = some x) : ideKmIn id msg s = inSession id (ideKmDo msg) s := if_pos (by simp [h])

theorem finishDo_none {ok : Bool} (h : session? s id = none) : finishDo id ok s = reply (.error 2) s := by
  rw [finishDo, h]
  rfl

theorem finishDo_some {ok : Bool} (h : session? s id = some x) :
    finishDo id ok s = if x.open' then reply (.error 4) s
      else if ok then reply .finish (s.onSec fun y => { y with sessions := mapIf (fun x => x.id = id) (fun x => { x with open' := true }) y.sessions })
      else reply (.error 6) (dropSession id s) := by
  rw [finishDo, h]
  rfl

end

/-- The sessions of one number change, the others do not. -/
theorem mapIf_session (id : Nat) (f : Session → Session) (l : List Session) :
    mapIf (fun x => x.id = id) f l = l.map fun x => if x.id = id then f x else x := by simp [mapIf]

/-! ### Measurements and challenges -/

theorem challengeDo_slot {slot : Nat} {nonce : List Byte} {s : State} (h : slot ≠ 0) :
    challengeDo slot nonce s = reply (.error 1) s := if_pos h

theorem challengeDo_zero (nonce : List Byte) (s : State) :
    challengeDo 0 nonce s =
      let n := Config.nonceBytes s.sec.nonces
      let u := (drawNonce s).2
      let summary := Config.sha384 ((upTo 6).flatMap fun i => measurement u (i + 1))
      reply (.challengeAuth (chainHash0 u) summary n (sign u (chainHash0 u ++ nonce ++ n ++ summary))) u := rfl

/-- A nonce drawn leaves what is measured. -/
theorem measurement_drawNonce (s : State) (i : Nat) : measurement (drawNonce s).2 i = measurement s i := rfl

theorem measurements_upTo (s : State) :
    (upTo 6).flatMap (fun i => measurement s (i + 1)) =
      measurement s 1 ++ measurement s 2 ++ measurement s 3 ++ measurement s 4 ++ measurement s 5 ++ measurement s 6 := by
  have hu : upTo 6 = [0, 1, 2, 3, 4, 5] := rfl
  simp only [hu, List.flatMap_cons, List.flatMap_nil, List.append_nil, List.append_assoc]

/-- The answer to GET_MEASUREMENTS whose blocks are known. -/
def measured (bs : List (Nat × List Byte)) (signed : Bool) (nonce : List Byte) (s : State) : State :=
  reply (.measurements 6 bs (if signed then Config.aliasSign s.boot.boots (nonce ++ Config.nonceBytes s.sec.nonces ++ bs.flatMap (·.2)) else []))
    (drawNonce s).2

theorem measureDo_past {i : Nat} {signed : Bool} {nonce : List Byte} {s : State} (h : 7 ≤ i) (h' : i ≠ 255) :
    measureDo i signed nonce s = reply (.error 1) s := by
  rw [measureDo, if_neg (by omega), if_neg h', if_neg (by omega)]
  rfl

theorem measureDo_one {i : Nat} {signed : Bool} {nonce : List Byte} {s : State} (h : 1 ≤ i) (h' : i ≤ 6) :
    measureDo i signed nonce s = measured [(i, measurement s i)] signed nonce s := by
  rw [measureDo, if_neg (by omega), if_neg (by omega), if_pos h']
  rfl

theorem measureDo_zero (signed : Bool) (nonce : List Byte) (s : State) :
    measureDo 0 signed nonce s = measured [] signed nonce s := rfl

/-! ### Tokens -/

section
variable {s : State} {b : List Byte}

/-- The nonce of a token is spent. -/
def nonceSpent (s : State) : State := s.onSec fun x => { x with nonce := none }

/-- The answer to a token. -/
def tokenAnswer (r : Bool × State) : State := reply (if r.1 then .vendor [] else .error seInvalid) r.2

theorem vendorDo_token : vendorDo (.token b) s = tokenAnswer (presentToken b s) := rfl

theorem presentToken_bad (h : tokenOk s b = false) : presentToken b s = (false, nonceSpent s) := if_pos (by simp [h])

theorem presentToken_good (h : tokenOk s b = true) :
    presentToken b s = if fld b 5 1 ≠ 0x80 ∧ fld b 5 1 < s.sec.debug then (true, nonceSpent s)
      else if fld b 5 1 = 0x80 then (true, (recordToken b (nonceSpent s)).onSec fun x => { x with rmaOk := true })
      else if lifecycle (recordToken b (nonceSpent s)) ≠ 2 then (true, recordToken b (nonceSpent s))
      else (true, (if fld b 5 1 = 3 then abortAll (fun _ => true) .deviceLost (recordToken b (nonceSpent s)) else recordToken b (nonceSpent s)).onSec fun x =>
        { x with debug := fld b 5 1, debugEnd :=
          (if fld b 5 1 = 3 then abortAll (fun _ => true) .deviceLost (recordToken b (nonceSpent s)) else recordToken b (nonceSpent s)).time
            + fld b 6 2 * 1000000000 }) := by
  unfold presentToken
  rw [if_neg (by simp [h])]
  rfl

end

/-- Settles O52: each request is taken only while the link is up, the SEC block goes and, but for the first three, the
algorithms stand; then it is its own function, a request in a session by the session that has its number. -/
theorem spdmRequestsAreAnswered : Obligations.SpdmRequestsAreAnswered := by
  unfold Obligations.SpdmRequestsAreAnswered
  intro s say late early
  refine ⟨fun hs i hi => ?_, fun s0 ss msg t hst => ⟨fun hs => ?_, fun hl hh h3 => ?_⟩, fun hl hh => ?_⟩
  · rcases hi with (⟨_, _, _, rfl⟩ | ⟨_, _, rfl⟩ | ⟨_, _, _, rfl⟩ | ⟨_, rfl⟩ | ⟨_, _, rfl⟩ | ⟨_, rfl⟩ | ⟨_, rfl⟩ | ⟨_, rfl⟩ | ⟨_, _, rfl⟩ | rfl)
      | (rfl | rfl | ⟨_, rfl⟩ | ⟨_, rfl⟩ | ⟨_, rfl⟩) <;> exact congrArg Host.Outcome.next (doe_shut hs)
  · subst hst
    exact congrArg Host.Outcome.next (spdmReady_shut hs)
  · subst hst
    exact congrArg Host.Outcome.next (spdmReady_early hl hh h3)
  have taken {f : State → State} {w : State} (h : f s = w) : (.next (doe f s) : Out) = .next w := congrArg Host.Outcome.next ((doe_open hl hh).trans h)
  refine ⟨taken rfl, taken rfl, fun set => taken rfl, fun c => taken rfl, taken rfl, taken rfl, taken rfl, fun n hn => ?_, fun h3 i hi => ?_,
    fun h3 => ?_⟩
  · exact taken (congrArg (fun r => reply r s) (if_neg (Nat.not_lt.2 hn)))
  · rcases hi with ⟨_, _, _, rfl⟩ | ⟨_, _, rfl⟩ | ⟨_, _, _, rfl⟩ | ⟨_, rfl⟩ | ⟨_, _, rfl⟩ | ⟨_, rfl⟩ | ⟨_, rfl⟩ | ⟨_, rfl⟩ | ⟨_, _, rfl⟩ | rfl <;>
      exact congrArg Host.Outcome.next (spdmReady_early hl hh h3)
  intro chain hash n u of each without
  have ready {f : State → State} {w : State} (h : f s = w) : (.next (spdmReady f s) : Out) = .next w :=
    congrArg Host.Outcome.next ((spdmReady_ready hl hh h3).trans h)
  have hmap (id : Nat) (f : Session → Session) :
      (s.onSec fun y => { y with sessions := mapIf (fun x => x.id = id) f y.sessions }) = each id f :=
    congrArg (fun l => s.onSec fun y => { y with sessions := l }) (mapIf_session id f s.sec.sessions)
  refine ⟨ready rfl, fun slot off len => ready rfl, fun slot nonce h => ready (challengeDo_slot h), fun nonce => ⟨_, rfl, ready ?_⟩,
    fun i sig nonce => ⟨fun h h' => ready (measureDo_past h h'), fun h h' => ready ?_, fun h => ready ?_⟩, fun req => ready rfl,
    fun id ok => ⟨fun h => ready (finishDo_none h), fun x h => ready ?_⟩, fun id => ⟨fun h => ?_, fun x h hx => ?_, fun x h hx => ?_⟩,
    fun s0 ss t hst => ?_⟩
  · refine (challengeDo_zero nonce s).trans ?_
    dsimp only
    simp only [measurement_drawNonce, measurements_upTo]
    rfl
  · refine (measureDo_one h h').trans ?_
    simp only [measured, List.flatMap_cons, List.flatMap_nil, List.append_nil]
    rfl
  · subst h
    refine (measureDo_zero sig nonce s).trans ?_
    simp only [measured, List.flatMap_nil, List.append_nil]
    rfl
  · refine (finishDo_some h).trans ?_
    rw [hmap]
    rfl
  · exact ⟨ready (inSession_none h), ready (inSession_none h), ready (inSession_none h), fun msg => ready (ideKmIn_none h)⟩
  · exact ⟨ready (inSession_closed h hx), ready (inSession_closed h hx), ready (inSession_closed h hx),
      fun msg => ready ((ideKmIn_some h).trans (inSession_closed h hx))⟩
  · have inside {f : State → State} {w : State} (hf : f s = w) : (.next (spdmReady (inSession id f) s) : Out) = .next w :=
      ready ((inSession_open h hx).trans hf)
    have ide {msg : IdeKmMsg} {w : State} (hf : ideKmDo msg s = w) : execIdeKm id msg s = .next w :=
      ready ((ideKmIn_some h).trans ((inSession_open h hx).trans hf))
    exact ⟨inside rfl, inside (congrArg (reply .keyUpdate) (hmap id _)), inside rfl,
      fun k => ide rfl, fun k => ide rfl, fun k => ide rfl, ide rfl⟩
  · intro ends spent logged
    have vendor (msg : VendorMsg) {w : State} (h : (match ss with | some id => inSession id (vendorDo msg) | none => vendorDo msg) s = w) :
        ends msg w := by
      subst hst
      exact ready h
    refine ⟨fun id msg hs h => vendor msg ?_, fun id x msg hs h hx => vendor msg ?_, fun hs => ?_⟩
    · rw [hs]
      exact inSession_none h
    · rw [hs]
      exact inSession_closed h hx
    have direct {msg : VendorMsg} {w : State} (h : vendorDo msg s = w) : ends msg w := by
      refine vendor msg ?_
      rcases hs with hs | ⟨id, x, hs, hi, hx⟩
      · rw [hs]
        exact h
      · rw [hs]
        exact (inSession_open hi hx).trans h
    have token {b : List Byte} {r : Bool × State} (h : presentToken b s = r) : ends (.token b) (tokenAnswer r) :=
      direct (vendorDo_token.trans (congrArg tokenAnswer h))
    refine ⟨direct rfl, fun v => direct rfl, fun b => ?_⟩
    intro lvl raised
    have good {r : Bool × State} (hok : tokenOk s b = true) (h : _ = r) := token ((presentToken_good hok).trans h)
    refine ⟨fun hok => token (presentToken_bad hok), fun hok hne hlt => good hok (if_pos ⟨hne, hlt⟩),
      fun hok he => good hok ((if_neg fun hc => hc.1 he).trans (if_pos he)), fun hok hne hle => ?_⟩
    have high {r : Bool × State} (h : _ = r) := good hok ((if_neg fun hc => absurd hc.2 (Nat.not_lt.2 hle)).trans ((if_neg hne).trans h))
    refine ⟨fun hc => high (if_pos hc), fun hc h => ?_, fun hc h => ?_⟩
    · refine (high (if_neg (not_not.2 hc))).trans ?_
      rw [if_pos h]
      rfl
    · refine (high (if_neg (not_not.2 hc))).trans ?_
      rw [if_neg h]
      rfl

end Sys2Proof.Machine
end


section
/-! ## TDIs, their streams and function-level resets (spec/13) -/

namespace Sys2Proof.Machine
open Sys2Proof

/-! ### TDISP messages -/

section
variable {s : State} {f : Nat} {g : State → State}

theorem tdisp_shut (h : s.boot.link = false ∨ s.halted .sec = true) : tdisp f g s = s := doe_shut h

theorem tdisp_physical (hl : s.boot.link = true) (hh : s.halted .sec = false) (h : f = 0) : tdisp f g s = reply .tdiError s :=
  (doe_open hl hh).trans (if_pos h)

theorem tdisp_virtual (hl : s.boot.link = true) (hh : s.halted .sec = false) (h : f ≠ 0) : tdisp f g s = g s :=
  (doe_open hl hh).trans (if_neg h)

end

theorem tdiStNum_eq (x : TdiState) :
    tdiStNum x = match x with
      | .unlocked => 0 | .locked => 1 | .run => 2 | .error => 3 := by cases x <;> rfl

theorem tdiLocked_iff (s : State) (f : Nat) : tdiLocked s f = true ↔ (s.tdi? f).st = .locked ∨ (s.tdi? f).st = .run := by
  simp [tdiLocked]

/-- A lock that names a stream needs it secure; one that names none needs nothing. -/
theorem tdiLockDo_eq (f : Nat) (k : Option (Fin 9)) (s : State) :
    tdiLockDo f (k.map (·.val)) s =
      if (s.tdi? f).st = .unlocked ∧ ∀ j, k = some j → (s.ide? j.val).secure = true then
        reply .tdiOk (s.setTdi f { st := .locked, stream := k.map (·.val) }) else reply .tdiError s := by
  unfold tdiLockDo
  refine if_congr (and_congr Iff.rfl ?_) rfl rfl
  cases k with
  | none => simp
  | some k => simp

theorem abortAll_nothing {p : Nat → Bool} {why : Reason} {s : State}
    (h : ∀ e ∈ s.mmu.ctxs, e.1 = 0 ∨ e.2.state = .free ∨ p e.1 = false) : abortAll p why s = s := by
  have hn : (s.mmu.ctxs.filter fun e => decide (e.1 ≠ 0) && decide (e.2.state ≠ .free) && p e.1) = [] :=
    List.filter_eq_nil_iff.2 fun e he => by rcases h e he with h | h | h <;> simp [h]
  unfold abortAll
  rw [hn]
  rfl

/-! ### A stream that fails -/

section
variable {s : State} {k : Nat}

/-- The TDIs that a stream's failure puts into ERROR. -/
def tdisOn (s : State) (k : Nat) : List Nat := (upTo 64).filter fun f => decide ((s.tdi? f).stream = some k) && tdiLocked s f

/-- The stream is no longer secure. -/
def streamLost (k : Nat) (s : State) : State := s.setIde k { s.ide? k with secure := false }

theorem ideFail_open (h : (s.ide? k).secure = false) : ideFail k s = s := if_pos (by simp [h])

theorem ideFail_secure (h : (s.ide? k).secure = true) : ideFail k s = eachDo (tdisOn s k) tdiToError (streamLost k s) :=
  if_neg (by simp [h])

theorem tdisOn_nil (h : ∀ f : Fin 64, (s.tdi? f.val).stream ≠ some k) : tdisOn s k = [] :=
  List.filter_eq_nil_iff.2 fun f hf => by
    have hs := h ⟨f, List.mem_range.1 hf⟩
    simp only [ne_eq] at hs
    simp [hs]

theorem tdisOn_one {f : Fin 64} (h : ∀ g : Fin 64, (s.tdi? g.val).stream = some k ↔ g = f) (hf : tdiLocked s f.val = true) :
    tdisOn s k = [f.val] := by
  have he : tdisOn s k = (List.range 64).filter (· == f.val) := by
    refine List.filter_congr fun g hg => ?_
    have hs := h ⟨g, List.mem_range.1 hg⟩
    by_cases hgf : g = f.val
    · subst hgf
      simp [hs.2 rfl, hf]
    · have hn : ¬ (s.tdi? g).stream = some k := fun hc => hgf (congrArg Fin.val (hs.1 hc))
      simp [hn, hgf]
  rw [he, List.filter_beq, List.count_eq_one_of_mem List.nodup_range (List.mem_range.2 f.isLt)]
  rfl

end

/-! ### Function-level resets -/

theorem flrFences_nil {f : Nat} {s : State} (h : s.fen.fences = []) : flrFences f s = s := by
  unfold flrFences
  rw [h]
  rfl

theorem tblDrop_eq {α : Type} (p : Nat → Prop) [DecidablePred p] (t : Tbl α) :
    tblDrop (fun k => decide (p k)) t = t.filter fun e => ¬ p e.1 := by simp [tblDrop]

theorem flrRegs_eq (f : Nat) (s : State) :
    flrRegs f s = { s with
      reg := { s.reg with
        regs := s.reg.regs.filter fun e => e.1 / 67108864 ≠ f
        pba := s.reg.pba.filter fun e => e.1 / 2048 ≠ f
        held := s.reg.held.filter fun h => h.1 ≠ f }
      fe := { s.fe with results := tblSet 0 s.fe.results f 0 }
      fen := { s.fen with results := tblSet 0 s.fen.results f 0, evq := tblSet QueueCnt.zero s.fen.evq f QueueCnt.zero }
      mmu := { s.mmu with
        results := s.mmu.results.filter fun e => e.1 / 512 ≠ f
        invRes := tblSet 0 s.mmu.invRes f 0
        inval := s.mmu.inval.filter fun e => e.fn ≠ f }
      shd := { s.shd with
        parkq := tblSet QueueCnt.zero s.shd.parkq f QueueCnt.zero
        parkRes := tblSet 0 s.shd.parkRes f 0
        held := s.shd.held.filter fun h => h.fn ≠ f } } := by
  have hpow : 2 ^ 26 = 67108864 := rfl
  unfold flrRegs
  simp only [hpow, tblDrop_eq]
  rfl

/-- The contexts that a function's reset aborts. -/
def flrCtxs (f : Nat) (s : State) : List Nat :=
  (s.mmu.ctxs.filter fun e => decide (e.1 ≠ 0) && decide (e.2.state ≠ .free) && fnHasCtx s f e.1).map (·.1)

/-- A locked TDI enters ERROR. -/
def flrTdi (f : Nat) (s : State) : State := if tdiLocked s f then s.setTdi f { s.tdi? f with st := .error } else s

/-- What a function's reset does once its contexts are aborted. -/
def flrRest (f : Nat) (mine : List Nat) (s : State) : State :=
  let u : State := { s with sec := { s.sec with flr := s.sec.flr ++ mine.filter fun n => !s.sec.flr.contains n } }
  let v := mine.foldl (fun u n => autoRelease n u) u
  let w := ((v.fe.rings.filter fun e => fnHasRing v f e.1).map (·.1)).foldl (fun u r => u.setRing r Ring.off) v
  errorHooks (flrRegs f (flrFences f w))

theorem flrCtxs_flrTdi (f : Nat) (s : State) : flrCtxs f (flrTdi f s) = flrCtxs f s := by
  unfold flrTdi
  split <;> rfl

theorem flrDo_virtual {f : Nat} (s : State) (h : f ≠ 0) :
    flrDo f s = flrRest f (flrCtxs f s) ((flrCtxs f s).foldl (fun u n => abortCtx n .deviceLost u) (flrTdi f s)) := by
  rw [← flrCtxs_flrTdi]
  unfold flrDo
  rw [if_neg h]
  rfl

section
variable {n : Nat} {s : State}

theorem autoRelease_retired (h : (s.ctx n).state = .retired ∧ n ∈ s.sec.flr) :
    autoRelease n s = (s.setCtx n { ctxDefault n with gen := (s.ctx n).gen }).onSec fun x => { x with flr := x.flr.filter (· ≠ n) } :=
  if_pos ⟨h.1, List.contains_iff_mem.2 h.2⟩

theorem autoRelease_other (h : (s.ctx n).state ≠ .retired ∨ n ∉ s.sec.flr) : autoRelease n s = s :=
  if_neg fun ⟨hr, hc⟩ => h.elim (fun h => h hr) (fun h => h (List.contains_iff_mem.1 hc))

end

/-- Settles O53: a TDISP message of a virtual function acts by the state of its TDI; a failed stream takes its locked
TDIs in the order of their functions; a function-level reset is the sequence of its steps. -/
theorem tdisFollowTheirStates : Obligations.TdisFollowTheirStates := by
  unfold Obligations.TdisFollowTheirStates
  refine ⟨fun f s => ?_, fun k s => ?_, fun f s => ?_⟩
  · intro say x put mine
    refine ⟨fun hs i hi => ?_, fun hl hh h0 i hi => ?_, fun hl hh h0 => ?_⟩
    · rcases hi with ⟨_, rfl⟩ | rfl | rfl | rfl | rfl | rfl <;> exact congrArg Host.Outcome.next (tdisp_shut hs)
    · rcases hi with ⟨_, rfl⟩ | rfl | rfl | rfl | rfl | rfl <;> exact congrArg Host.Outcome.next (tdisp_physical hl hh h0)
    · have taken {g : State → State} {w : State} (h : g s = w) : (.next (tdisp f.val g s) : Out) = .next w :=
        congrArg Host.Outcome.next ((tdisp_virtual hl hh h0).trans h)
      refine ⟨taken rfl, taken ?_, taken (if_congr (tdiLocked_iff s f.val) rfl rfl), fun k => taken (tdiLockDo_eq f.val k s), taken rfl,
        taken rfl, abortAll_nothing⟩
      exact congrArg (fun r => reply (.tdiState r) s) (tdiStNum_eq x.st)
  · intro x u
    refine ⟨fun h => congrArg Host.Outcome.next (ideFail_open h), fun h hn => congrArg Host.Outcome.next ?_,
      fun h => congrArg Host.Outcome.next (ideFail_secure h), fun f h hg hf => congrArg Host.Outcome.next ?_⟩
    · rw [ideFail_secure h, tdisOn_nil hn]
      rfl
    · rw [ideFail_secure h, tdisOn_one hg ((tdiLocked_iff s f.val).2 hf)]
      rfl
  · refine ⟨fun h => congrArg Host.Outcome.next (if_pos h), fun h => congrArg Host.Outcome.next (flrDo_virtual s h), flrRegs_eq f.val s,
      flrFences_nil, fun n => ⟨autoRelease_retired, autoRelease_other⟩⟩

end Sys2Proof.Machine
end


section
/-! ## P-levels, limits and the policy (spec/14) -/

namespace Sys2Proof.Machine
open Sys2Proof

/-! ### The policy record -/

/-- The row of PWR_POLICY_CMD. -/
def policyCmdRow : RegDef := regRow 0x0018 1 0x0 0x0 0x0 0x1 0x0 false false

theorem regAt_policyCmd : regAt .pwr 0x18 = some (policyCmdRow, 0) := rfl

theorem policyEffect_apply (w : RegWr) (s : State) (h : w.val.getLsbD 0 = true) :
    policyEffect w s = if s.pwr.polBusy = true then s else { s with pwr := { s.pwr with polBusy := true, polRes := 0 } } := by
  unfold policyEffect
  rw [bit_getLsbD, h]
  cases s.pwr.polBusy <;> rfl

/-- How an access of the controller to the policy or to its weights ends. -/
def policyFailed (va n : Nat) (s : State) : State :=
  (noteViolation 0x87 0 va n s).onPwr fun p => { p with polBusy := false, polRes := 4 }

/-- The controller refuses the record. -/
def policyRefused (s : State) : State := s.onPwr fun p => { p with polBusy := false, polRes := 1 }

/-- The policy comes into force. -/
def policyForced (pol : Policy) (t : List Byte) (s : State) : State :=
  let u := (s.onPwr fun p => { p with policy := { pol with weights := weightsOf t } }).onPwr fun p => { p with polBusy := false, polRes := 0 }
  if awake u then limitGoals u else u

/-- What the weight table gives; a failed read of it is logged after the record has been read. -/
def policyWeighed (z u : State) (pol : Policy) (va : Nat) : Dev (List Byte × State) → State
  | .wait => z
  | .failed => policyFailed va 512 u
  | .done (t, v) => if t.any (fun w => decide (15 < w.toNat)) then policyRefused v else policyForced pol t v

/-- What a record that was read gives. -/
def policyChecked (z u : State) (b : List Byte) : Option Policy → State
  | none => policyRefused u
  | some pol => policyWeighed z u pol (fld b 24 8) (if fld b 24 8 = 0 then Dev.done ([], u) else devRead (fld b 24 8) 512 u)

/-- What the read of the record gives. -/
def policyRead (z : State) (base : Nat) : Dev (List Byte × State) → State
  | .wait => z
  | .failed => policyFailed base 128 z
  | .done (b, u) => policyChecked z u b (policyOf b)

theorem policyDone_idle {io : HostIO} {s : State} (h : s.pwr.polBusy = false ∨ monarchRuns s = false) : policyDone io s = s :=
  if_pos (by simpa using h)

theorem policyDone_busy {io : HostIO} {s : State} (hb : s.pwr.polBusy = true) (hm : monarchRuns s = true) :
    policyDone io s =
      let z := applyIO io s
      let base := z.rawBase 0 0x030010 0x030014
      policyRead z base (devRead base 128 z) := by
  unfold policyDone
  rw [if_neg (by simp [hb, hm])]
  dsimp only
  generalize applyIO io s = z
  generalize devRead _ _ z = r
  cases r with
  | done a =>
    obtain ⟨b, u⟩ := a
    dsimp only [policyRead]
    generalize policyOf b = q
    cases q with
    | none => rfl
    | some pol =>
      dsimp only [policyChecked]
      generalize (if fld b 24 8 = 0 then Dev.done (([] : List Byte), u) else devRead (fld b 24 8) 512 u) = t
      cases t <;> rfl
  | _ => rfl

/-- What a record that is accepted keeps. -/
theorem policyOf_bounds {b : List Byte} {pol : Policy} (h : policyOf b = some pol) :
    45 ≤ pol.sustained ∧ pol.sustained ≤ pol.peak ∧ pol.peak ≤ 210 ∧ pol.sustained ≤ 175 ∧ 240 ≤ pol.tj ∧
      pol.tj ≤ Config.tjMaxQuarter - 20 ∧ 10 ≤ pol.idleGate ∧ pol.order.Nodup ∧ pol.statsVa % 4096 = 0 ∧
      pol.fastest.length = 4 ∧ pol.slowest.length = 4 ∧ ∀ i < 4, pol.fastest.getD i 0 ≤ pol.slowest.getD i 0 ∧ pol.slowest.getD i 0 ≤ 7 := by
  unfold policyOf at h
  dsimp only at h
  split at h
  case isFalse => cases h
  case isTrue hg =>
    simp only [Bool.and_eq_true, decide_eq_true_eq, List.all_eq_true] at hg
    obtain ⟨⟨⟨⟨⟨⟨⟨⟨⟨⟨⟨hsus, hsus'⟩, hpeak⟩, hpeak'⟩, htj⟩, htj'⟩, _⟩, hgate⟩, hgroups⟩, hnodup⟩, hva⟩, _⟩ := hg
    cases h
    refine ⟨hsus, hpeak, hpeak', hsus', by dsimp only; omega, htj', hgate, hnodup, hva, by simp [upTo], by simp [upTo], fun i hi => ?_⟩
    obtain ⟨⟨⟨hle, hle7⟩, _⟩, _⟩ := hgroups i (List.mem_range.2 hi)
    simpa [upTo, List.getD_eq_getElem?_getD, hi] using ⟨hle, hle7⟩

/-! ### The sequencer -/

section
variable {s : State} {g : Nat}

/-- A group's rails carry the voltage of a level. -/
def railsCarry (g lv : Nat) (s : State) : State := s.onPwr fun p => { p with volt := p.volt.set g lv }

/-- A group's frequency is that of a level. -/
def freqForced (g lv : Nat) (s : State) : State := s.onPwr fun p => { p with plvl := p.plvl.set g lv }

theorem voltWritten_raise {lv left : Nat} (h : seqOf s g = .raiseVolt lv left) :
    voltWritten g s = if 1 < left then setSeq g (.raiseVolt lv (left - 1)) s
      else if goalOf s g = lv then setSeq g (.confirm lv (groupRails g)) (railsCarry g lv s) else nextStep g (railsCarry g lv s) := by
  unfold voltWritten
  rw [h]
  rfl

theorem voltWritten_lower {lv left : Nat} (h : seqOf s g = .lowerVolt lv left) :
    voltWritten g s = if 1 < left then setSeq g (.lowerVolt lv (left - 1)) s else nextStep g (railsCarry g lv s) := by
  unfold voltWritten
  rw [h]
  rfl

theorem voltWritten_restore {left : Nat} (h : seqOf s g = .restore left) :
    voltWritten g s = if 1 < left then setSeq g (.restore (left - 1)) s else nextStep g (railsCarry g (plvlOf s g) s) := by
  unfold voltWritten
  rw [h]
  rfl

theorem voltWritten_other (h : ∀ lv left, seqOf s g ≠ .raiseVolt lv left ∧ seqOf s g ≠ .lowerVolt lv left ∧ seqOf s g ≠ .restore left) :
    voltWritten g s = s := by
  unfold voltWritten
  generalize seqOf s g = x at h
  cases x with
  | raiseVolt lv left => exact absurd rfl (h lv left).1
  | lowerVolt lv left => exact absurd rfl (h lv left).2.1
  | restore left => exact absurd rfl (h 0 left).2.2
  | _ => rfl

theorem voltRead_confirm {rail mv lv : Nat} {rails : List Nat} (h : seqOf s g = .confirm lv rails) :
    voltRead g rail mv s = if levelMv lv ≤ mv + 5 ∧ mv ≤ levelMv lv + 5 then
        if rails.filter (· ≠ rail) ≠ [] then setSeq g (.confirm lv (rails.filter (· ≠ rail))) s
        else if goalOf s g = lv then setSeq g (.raiseFreq lv) s else nextStep g s
      else s := by
  unfold voltRead
  rw [h]

theorem voltRead_other {rail mv : Nat} (h : ∀ lv rails, seqOf s g ≠ .confirm lv rails) : voltRead g rail mv s = s := by
  unfold voltRead
  generalize seqOf s g = x at h
  cases x with
  | confirm lv rails => exact absurd rfl (h lv rails)
  | _ => rfl

/-- The bus without the frame that ends. -/
def framePopped (rest : List AvsFrame) (s : State) : State := s.onPwr fun p => { p with avs := rest }

theorem frameDone_empty {a : AvsAnswer} (h : s.pwr.avs = []) : frameDone a s = s := by
  unfold frameDone
  rw [h]

section
variable {f : AvsFrame} {rest : List AvsFrame}

theorem frameDone_written {mv : Nat} (h : s.pwr.avs = f :: rest) (hr : f.read = false) :
    frameDone (.ok mv) s = voltWritten f.group (framePopped rest s) := by
  unfold frameDone
  rw [h]
  exact if_neg (by simp [hr])

theorem frameDone_read {mv : Nat} (h : s.pwr.avs = f :: rest) (hr : f.read = true) :
    frameDone (.ok mv) s = voltRead f.group f.rail mv (framePopped rest s) := by
  unfold frameDone
  rw [h]
  exact if_pos hr

theorem frameDone_none_confirm {lv : Nat} {rails : List Nat} (h : s.pwr.avs = f :: rest) (hs : seqOf s f.group = .confirm lv rails) :
    frameDone .none s = avsFail f.group f.rail (levelMv lv) (framePopped rest s) := by
  have hp : seqOf (framePopped rest s) f.group = .confirm lv rails := hs
  unfold framePopped at hp
  unfold frameDone
  rw [h]
  dsimp only
  rw [hp]
  rfl

theorem frameDone_none_other (h : s.pwr.avs = f :: rest) (hs : ∀ lv rails, seqOf s f.group ≠ .confirm lv rails) :
    frameDone .none s = avsFail f.group f.rail f.mv (framePopped rest s) := by
  have hp (lv : Nat) (rails : List Nat) : seqOf (framePopped rest s) f.group ≠ .confirm lv rails := hs lv rails
  unfold framePopped at hp
  unfold frameDone
  rw [h]
  dsimp only
  generalize seqOf (s.onPwr fun p => { p with avs := rest }) f.group = x at hp
  cases x with
  | confirm lv rails => exact absurd rfl (hp lv rails)
  | _ => rfl

end

theorem freqMoved_moves {lv : Nat} (h : seqOf s g = .lowerFreq lv ∨ seqOf s g = .raiseFreq lv) : freqMoved g s = nextStep g (freqForced g lv s) := by
  unfold freqMoved
  rcases h with h | h <;> rw [h] <;> rfl

theorem freqMoved_other (h : ∀ lv, seqOf s g ≠ .lowerFreq lv ∧ seqOf s g ≠ .raiseFreq lv) : freqMoved g s = s := by
  unfold freqMoved
  generalize seqOf s g = x at h
  cases x with
  | lowerFreq lv => exact absurd rfl (h lv).1
  | raiseFreq lv => exact absurd rfl (h lv).2
  | _ => rfl

theorem confirmRead_confirm {lv : Nat} {rails : List Nat} (h : seqOf s g = .confirm lv rails) :
    confirmRead g s = { s with pwr := { s.pwr with
      avs := s.pwr.avs ++ (rails.filter fun r => !s.pwr.avs.any fun f => f.read && decide (f.rail = r)).map fun r =>
        { group := g, rail := r, read := true, mv := 0 } } } := by
  unfold confirmRead
  rw [h]
  rfl

theorem confirmRead_other (h : ∀ lv rails, seqOf s g ≠ .confirm lv rails) : confirmRead g s = s := by
  unfold confirmRead
  generalize seqOf s g = x at h
  cases x with
  | confirm lv rails => exact absurd rfl (h lv rails)
  | _ => rfl

theorem avsTimeout_confirm {lv r : Nat} {rest : List Nat} (h : seqOf s g = .confirm lv (r :: rest)) :
    avsTimeout g s = avsFail g r (levelMv lv) s := by
  unfold avsTimeout
  rw [h]

/-- A group that has nothing to confirm fails by its first frame. -/
def frameLate (g : Nat) (s : State) : Option AvsFrame → State
  | some f => avsFail g f.rail f.mv s
  | none => s

theorem avsTimeout_other (h : ∀ lv rails, seqOf s g ≠ .confirm lv rails) :
    avsTimeout g s = frameLate g s (s.pwr.avs.find? fun f => f.group = g) := by
  unfold avsTimeout
  generalize seqOf s g = x at h
  generalize (s.pwr.avs.find? fun f => f.group = g) = o
  cases x with
  | confirm lv rails => exact absurd rfl (h lv rails)
  | _ => cases o <;> rfl

/-- The failure is logged, and the group has no frame left. -/
def avsLogged (g rail mv : Nat) (s : State) : State :=
  (logError 0x60 0x84 0 rail mv false s).onPwr fun p => { p with avs := p.avs.filter fun f => f.group ≠ g }

/-- The goal of a raise that was abandoned. -/
def goalBack (g c : Nat) (s : State) : State :=
  s.onPwr fun p => { p with goal := p.goal.set g (if p.goal.getD g 7 = c then p.plvl.getD g 7 else p.goal.getD g 7) }

theorem avsFail_raise {rail mv c : Nat}
    (h : (∃ left, seqOf (avsLogged g rail mv s) g = .raiseVolt c left) ∨ ∃ rails, seqOf (avsLogged g rail mv s) g = .confirm c rails) :
    avsFail g rail mv s = setSeq g (.restore (groupRails g).length)
      (writeVolt g (plvlOf (goalBack g c (avsLogged g rail mv s)) g) (goalBack g c (avsLogged g rail mv s))) := by
  change (match seqOf (avsLogged g rail mv s) g with
    | .raiseVolt c _ => _
    | .confirm c _ => _
    | _ => _) = _
  rcases h with ⟨left, h⟩ | ⟨rails, h⟩ <;> rw [h] <;> rfl

theorem avsFail_other {rail mv : Nat}
    (h : ∀ c left rails, seqOf (avsLogged g rail mv s) g ≠ .raiseVolt c left ∧ seqOf (avsLogged g rail mv s) g ≠ .confirm c rails) :
    avsFail g rail mv s = if goalOf (setSeq g .idle (avsLogged g rail mv s)) g ≠ plvlOf (setSeq g .idle (avsLogged g rail mv s)) g
      then nextStep g (setSeq g .idle (avsLogged g rail mv s)) else setSeq g .idle (avsLogged g rail mv s) := by
  change (match seqOf (avsLogged g rail mv s) g with
    | .raiseVolt c _ => _
    | .confirm c _ => _
    | _ => _) = _
  generalize seqOf (avsLogged g rail mv s) g = x at h
  cases x with
  | raiseVolt c left => exact absurd rfl (h c left []).1
  | confirm c rails => exact absurd rfl (h c 0 rails).2
  | _ => rfl

end

/-! ### Measurements -/

/-- What a measurement leaves of the averages and the window. -/
def powerMeasured (m : Measurement) (s : State) : State :=
  let p := s.pwr
  let lim := p.policy.sustained * 1000
  let avg := p.avg + m.powerMw - p.avg / 10000
  { s with pwr := { p with
    avg
    calm := if avg * 100 ≤ lim * 10000 * 95 ∧ m.powerMw * 100 ≤ lim * 95 then min 100 (p.calm + 1) else 0
    last := m.powerMw
    temps := m.temps
    winSum := if 100 ≤ p.winN then m.powerMw else p.winSum + m.powerMw
    winN := if 100 ≤ p.winN then 1 else p.winN + 1 } }

/-- The thermal stages of the hottest sensor, where there is one. -/
def thermalOf (s : State) : Option Int → State
  | some t => thermal t s
  | none => s

/-- One level of one group, once every group is within its limits. -/
def measuredLevel (m : Measurement) (lim avg : Nat) (w : State) : State :=
  if w.pwr.hot = true then w
  else if (lim * 10000 ≤ avg ∧ lim < m.powerMw) ∨ w.pwr.policy.tj < (hottest m.temps).getD (-1000) then lowerOne w
  else if 100 ≤ w.pwr.calm then raiseOne w else w

theorem measureNow_idle {m : Measurement} {s : State} (h : monarchRuns s = false) : measureNow m s = s := if_pos (by simp [h])

theorem measureNow_runs {m : Measurement} {s : State} (h : monarchRuns s = true) :
    measureNow m s =
      let v := throttleDo m.powerMw (thermalOf (powerMeasured m s) (hottest m.temps))
      if awake v = false then v
      else measuredLevel m (s.pwr.policy.sustained * 1000) (s.pwr.avg + m.powerMw - s.pwr.avg / 10000) (limitGoals v) := by
  unfold measureNow
  rw [if_neg (by simp [h])]
  unfold measuredLevel powerMeasured
  simp only [Bool.and_eq_true, Bool.or_eq_true, decide_eq_true_eq, Bool.not_eq_true']
  generalize hottest m.temps = o
  cases o <;> rfl

/-- The suppression that a measurement sets. -/
theorem throttleDo_eq (mw : Nat) (s : State) :
    throttleDo mw s =
      let total := s.pwr.winSum + mw * (100 - s.pwr.winN)
      let peak := s.pwr.policy.peak * 1000 * 100
      { s with pwr := { s.pwr with
        throttle := if s.pwr.hot then 7 else if peak < total then min 7 (s.pwr.throttle + 1) else if total < peak then s.pwr.throttle - 1 else s.pwr.throttle } } :=
  rfl

/-! ### The thermal stages -/

/-- The word of the error log that a temperature gives. -/
def thermalInfo (t : Int) : Nat := (w32 (t % 2 ^ 32).toNat).toNat

/-- The first thermal stage begins, unless it stands. -/
def thermalFirst (t : Int) (s : State) : State :=
  if s.pwr.hot then s else logError 0x62 0x84 0 1 (thermalInfo t) false { s with pwr := { s.pwr with hot := true } }

/-- The second thermal stage begins, unless it stands. -/
def thermalSecond (t : Int) (s : State) : State :=
  if s.err.thermal2 then s else
    abortAll (fun _ => true) .deviceLost (logError 0x62 0x84 0 2 (thermalInfo t) true { s with err := { s.err with thermal2 := true } })

/-- In the second stage clusters without work are gated. -/
def thermalGates (w : State) : State :=
  if w.err.thermal2 then (upTo 8).foldl (fun w c => if clusterIdle w c then gateCluster c w else w) w else w

theorem thermal_eq (t : Int) (s : State) :
    thermal t s =
      let cool := decide (t < Config.tjMaxQuarter - 20)
      let u := if decide (Config.tjMaxQuarter < t) && !s.pwr.hot then
          logError 0x62 0x84 0 1 (thermalInfo t) false { s with pwr := { s.pwr with hot := true } }
        else if cool then { s with pwr := { s.pwr with hot := false } } else s
      let v := if decide (Config.tjMaxQuarter + 40 < t) && !u.err.thermal2 then
          abortAll (fun _ => true) .deviceLost (logError 0x62 0x84 0 2 (thermalInfo t) true { u with err := { u.err with thermal2 := true } })
        else if cool then { u with err := { u.err with thermal2 := false } } else u
      thermalGates v := rfl

section
variable {t : Int} {s : State}

theorem thermal_cool (h : t < Config.tjMaxQuarter - 20) :
    thermal t s = { s with pwr := { s.pwr with hot := false }, err := { s.err with thermal2 := false } } := by
  have h1 : decide (Config.tjMaxQuarter < t) = false := decide_eq_false (by omega)
  have h2 : decide (Config.tjMaxQuarter + 40 < t) = false := decide_eq_false (by omega)
  rw [thermal_eq]
  simp only [h1, h2, decide_eq_true h, Bool.false_and, Bool.false_eq_true, if_false, if_true]
  rfl

/-- Above the band of hysteresis each stage begins where its limit is passed. -/
theorem thermal_warm (h : Config.tjMaxQuarter - 20 ≤ t) :
    thermal t s =
      let u := if Config.tjMaxQuarter < t then thermalFirst t s else s
      thermalGates (if Config.tjMaxQuarter + 40 < t then thermalSecond t u else u) := by
  have hc : decide (t < Config.tjMaxQuarter - 20) = false := decide_eq_false (by omega)
  have stage (p : Prop) [Decidable p] (b : Bool) (x y : State) : (if (decide p && !b) = true then x else y) = if p then (if b = true then y else x) else y := by
    by_cases hp : p <;> cases b <;> simp [hp]
  rw [thermal_eq]
  simp only [hc, Bool.false_eq_true, if_false, stage]
  rfl

end

/-! ### Statistics -/

/-- A write of the statistics page. -/
def statsPut (va off : Nat) (bs : List Byte) (s : State) : State :=
  (devWrite (va + off) bs s).getD (noteViolation 0x87 0 (va + off) bs.length s)

/-- The ring records of the statistics page. -/
def statsRings (rings : List Nat) (va : Nat) (s : State) : State :=
  rings.foldl (fun s r => statsPut va (64 + 16 * r) (ringRecord (tblGet RingStat.zero s.pwr.ringStat r)) s) s

/-- The header and SEQ_END. -/
def statsClosed (va : Nat) (s : State) : State :=
  (statsPut va 56 (natLe 8 s.pwr.stats) (statsPut va 8 (statsHeader s) s)).onPwr fun p => { p with ringStat := [] }

theorem statsNow_idle {s : State} (h : s.pwr.policy.statsVa = 0 ∨ monarchRuns s = false) : statsNow s = s := if_pos (by simpa using h)

theorem statsNow_runs {s : State} {l : List Nat} (hl : upTo 8192 = l) (hv : s.pwr.policy.statsVa ≠ 0) (hm : monarchRuns s = true) :
    statsNow s =
      let va := s.pwr.policy.statsVa
      statsClosed va (statsRings l va (statsPut va 0 (natLe 8 (s.pwr.stats + 1)) (s.onPwr fun p => { p with stats := p.stats + 1 }))) := by
  unfold statsNow
  rw [if_neg (by simp [hv, hm])]
  unfold statsClosed statsRings statsPut eachDo
  rw [hl]
  rfl

/-! ### The obligation -/

theorem pwr_virtual : ∀ d ∈ blockRegs .pwr, d.vf = false := by
  change ∀ d ∈ regsPwr, d.vf = false
  decide

theorem blockAt_policyCmd : blockAt 0x030018 = some (.pwr, 0x18) := by decide

theorem policyApply_written {fn : Fn} {v : Word} {s : State} (hq : quiet s fn.val) :
    regWrite4 fn.val 0x030018 (v ||| 1) s =
      if fn.val ≠ 0 ∨ s.pwr.polBusy = true then s else { s with pwr := { s.pwr with polBusy := true, polRes := 0 } } := by
  by_cases h0 : fn.val = 0
  · have hw := regWrite4_win_open .primary (v ||| 1) hq regAt_policyCmd (by decide) (by simp) (.inl h0) rfl rfl
    refine hw.trans ((policyEffect_apply _ s ?_).trans (if_congr (by simp [h0]) rfl rfl))
    change (v ||| 1).getLsbD 0 = true
    simp
  · rw [if_pos (.inl h0)]
    exact regWrite4_virtual _ hq h0 blockAt_policyCmd pwr_virtual (by simp)

/-- Settles O54: the sequencer's step follows the group's step in progress, and the policy, the measurement, the thermal
stages and the statistics each are one equation. -/
theorem levelsMoveInSteps : Obligations.LevelsMoveInSteps := by
  unfold Obligations.LevelsMoveInSteps
  refine ⟨fun fn v s hq => congrArg Host.Outcome.next (policyApply_written hq), fun io s => ?_, fun b pol h => policyOf_bounds h,
    fun a s => ⟨fun h => congrArg Host.Outcome.next (frameDone_empty h), fun f rest h => ?_⟩, fun v s => ?_, fun m t s0 => ?_, fun t s => ?_,
    fun t s0 => ?_⟩
  · intro z ends
    refine ⟨fun h => congrArg Host.Outcome.next (policyDone_idle h), fun hb hm => ?_⟩
    intro answers base read force
    have read_is {r : Dev (List Byte × State)} (h : read = r) : answers (policyRead z base r) :=
      congrArg Host.Outcome.next ((policyDone_busy hb hm).trans (congrArg (policyRead z base) h))
    refine ⟨fun h => read_is h, fun h => read_is h, fun b u h => ?_⟩
    have record_is {q : Option Policy} (hq : policyOf b = q) : answers (policyChecked z u b q) := hq ▸ read_is h
    refine ⟨fun hq => record_is hq, fun pol hq h0 => ?_, fun pol hq h0 => ?_⟩
    · have := record_is hq
      rw [policyChecked, if_pos h0] at this
      exact this
    · intro table
      have weighed {d : Dev (List Byte × State)} (hd : table = d) : answers (policyWeighed z u pol (fld b 24 8) d) := by
        have := record_is hq
        rw [policyChecked, if_neg h0] at this
        exact hd ▸ this
      refine ⟨fun hd => weighed hd, fun hd => weighed hd, fun w v hd => ?_⟩
      have weights_are {x : State} (hx : (if w.any (fun w => decide (15 < w.toNat)) then policyRefused v else policyForced pol w v) = x) :
          answers x := hx ▸ weighed (d := .done (w, v)) hd
      refine ⟨fun ⟨x, hx, hl⟩ => weights_are (if_pos (List.any_eq_true.2 ⟨x, hx, decide_eq_true hl⟩)),
        fun hall => weights_are (if_neg fun hc => ?_)⟩
      obtain ⟨x, hx, hl⟩ := List.any_eq_true.1 hc
      exact absurd (of_decide_eq_true hl) (Nat.not_lt.2 (hall x hx))
  · intro g u carries
    have ends {a : AvsAnswer} {x w : State} (h : frameDone a s = x) (hw : x = w) : exec (.avsFrameDone a) s = .next w :=
      congrArg Host.Outcome.next (h.trans hw)
    refine ⟨fun lv left mv ha hr hs => ?_, fun lv left mv ha hr hs => ?_, fun lv rails mv ha hr hs => ?_, fun left mv ha hr hs => ?_,
      fun mv ha hr hs => ?_, fun mv ha hr hs => ?_, fun rails lv ha hs => ?_, fun ha hs => ?_⟩ <;> subst ha
    · have he := (frameDone_written (mv := mv) h hr).trans (voltWritten_raise (s := framePopped rest s) hs)
      exact ⟨fun hl => ends he (if_pos hl), fun hl hg => ends he ((if_neg (Nat.not_lt.2 hl)).trans (if_pos hg)),
        fun hl hg => ends he ((if_neg (Nat.not_lt.2 hl)).trans (if_neg hg))⟩
    · have he := (frameDone_written (mv := mv) h hr).trans (voltWritten_lower (s := framePopped rest s) hs)
      exact ⟨fun hl => ends he (if_pos hl), fun hl => ends he (if_neg (Nat.not_lt.2 hl))⟩
    · have he := (frameDone_read (mv := mv) h hr).trans (voltRead_confirm (s := framePopped rest s) (rail := f.rail) hs)
      intro near left
      exact ⟨fun hn => ends he (if_neg hn), fun hn hl => ends he ((if_pos hn).trans (if_pos hl)),
        fun hn hl hg => ends he ((if_pos hn).trans ((if_neg (not_not.2 hl)).trans (if_pos hg))),
        fun hn hl hg => ends he ((if_pos hn).trans ((if_neg (not_not.2 hl)).trans (if_neg hg)))⟩
    · have he := (frameDone_written (mv := mv) h hr).trans (voltWritten_restore (s := framePopped rest s) hs)
      exact ⟨fun hl => ends he (if_pos hl), fun hl => ends he (if_neg (Nat.not_lt.2 hl))⟩
    · exact ends (frameDone_written h hr) (voltWritten_other hs)
    · exact ends (frameDone_read h hr) (voltRead_other hs)
    · exact ends (frameDone_none_confirm h hs) rfl
    · exact ends (frameDone_none_other h hs) rfl
  · intro g forced
    have hg : groupNum v = g := by cases v <;> rfl
    have moved {w : State} (h : freqMoved g s = w) : exec (.pllFrequencyMoveDone v) s = .next w :=
      congrArg Host.Outcome.next ((congrArg (freqMoved · s) hg).trans h)
    have confirmed {w : State} (h : confirmRead g s = w) : exec (.avsConfirmRead v) s = .next w :=
      congrArg Host.Outcome.next ((congrArg (confirmRead · s) hg).trans h)
    have late {w : State} (h : avsTimeout g s = w) : exec (.avsTimeout v) s = .next w :=
      congrArg Host.Outcome.next ((congrArg (avsTimeout · s) hg).trans h)
    refine ⟨fun lv h => moved (freqMoved_moves h), fun h => moved (freqMoved_other h), fun lv rails h => confirmed (confirmRead_confirm h),
      fun h => confirmed (confirmRead_other h), fun lv r rest h => late (avsTimeout_confirm h), fun h hf => late ((avsTimeout_other h).trans ?_),
      fun f h hf => late ((avsTimeout_other h).trans (congrArg (frameLate g s) hf)), fun rail mv => ⟨fun c h => avsFail_raise h, fun h => avsFail_other h⟩⟩
    have hn : (s.pwr.avs.find? fun f => f.group = g) = none := List.find?_eq_none.2 fun f hm => by simpa using hf f hm
    exact congrArg (frameLate g s) hn
  · intro s
    refine ⟨fun h => congrArg Host.Outcome.next (measureNow_idle h), fun h => ?_⟩
    intro p lim avg calm ms u total peak v w
    have hu : thermalOf (powerMeasured m s) (hottest m.temps) = u := by
      change _ = (match hottest m.temps with
        | some h => thermal h ms
        | none => ms)
      generalize hottest m.temps = o
      cases o <;> rfl
    have hv : throttleDo m.powerMw (thermalOf (powerMeasured m s) (hottest m.temps)) = v := by
      rw [hu]
      exact throttleDo_eq m.powerMw u
    refine congrArg Host.Outcome.next ((measureNow_runs h).trans ?_)
    rw [hv]
    rfl
  · intro tj info u v gates
    refine ⟨thermal_cool, fun h1 h2 => ?_, fun h1 h2 => ?_, fun h1 => ?_⟩
    · refine (thermal_warm h1).trans ?_
      dsimp only
      rw [if_neg (show ¬ Config.tjMaxQuarter < t from Int.not_lt.2 h2), if_neg (show ¬ Config.tjMaxQuarter + 40 < t from by omega)]
      rfl
    · refine (thermal_warm (by omega)).trans ?_
      dsimp only
      rw [if_pos (show Config.tjMaxQuarter < t from h1), if_neg (show ¬ Config.tjMaxQuarter + 40 < t from Int.not_lt.2 h2)]
      rfl
    · refine (thermal_warm (by omega)).trans ?_
      dsimp only
      rw [if_pos (show Config.tjMaxQuarter < t from by omega), if_pos (show Config.tjMaxQuarter + 40 < t from h1)]
      rfl
  · generalize hl : upTo 8192 = l
    intro s va put n begun rings done
    exact ⟨fun h => congrArg Host.Outcome.next (statsNow_idle h), fun hv hm => congrArg Host.Outcome.next (statsNow_runs hl hv hm)⟩

end Sys2Proof.Machine
end


section
/-! ## Sleep states (spec/14) -/

namespace Sys2Proof.Machine
open Sys2Proof

/-! ### GO of PWR_CTL -/

/-- The row of PWR_CTL. -/
def pwrCtlRow : RegDef := regRow 0x0000 1 0x7FF0037 0x0 0x0 0x8 0x0 false false

theorem regAt_pwrCtl : regAt .pwr 0x0 = some (pwrCtlRow, 0) := rfl

theorem blockAt_pwrCtl : blockAt 0x030000 = some (.pwr, 0) := by decide

theorem newValue_pwrCtl (old v : Word) : newValue pwrCtlRow .primary old v = (old &&& 0xF800FFC0) ||| (v &&& 0x7FF003F) := by
  simp [newValue, pwrCtlRow, regRow]

theorem pwrCtl_virtual {fn : Fn} {s : State} (v : Word) (hq : quiet s fn.val) (h0 : fn.val ≠ 0) :
    regWrite4 fn.val 0x030000 v s = s := regWrite4_virtual v hq h0 blockAt_pwrCtl pwr_virtual (by simp)

/-- The write that a GO with a target makes. -/
def goWord (t v : Word) : Word := (v &&& 0xFFFFFFF0) ||| (8 ||| t)

section
variable {old v t : Word}

/-- A GO leaves its target and the fields of the write; GO itself is not kept. -/
theorem goStored (ht : t = 3 ∨ t = 4) :
    newValue pwrCtlRow .primary old (goWord t v) &&& ~~~8 &&& ~~~(goWord t v &&& 0) = (old &&& 0xF800FFC0) ||| (v &&& 0x07FF0030) ||| t := by
  rw [newValue_pwrCtl, goWord]
  ext i hi
  simp only [BitVec.getElem_and, BitVec.getElem_or, BitVec.getElem_not]
  rcases ht with rfl | rfl <;> interval_cases i <;> simp

/-- Bits 0 to 4 of what a GO leaves in the register. -/
theorem goNew_testBit (ht : t = 3 ∨ t = 4) {i : Nat} (hi : i ≤ 4) :
    (newValue pwrCtlRow .primary old (goWord t v)).toNat.testBit i = if i = 4 then v.getLsbD 4 else (8 ||| t).getLsbD i := by
  rw [newValue_pwrCtl, goWord, testBit_toNat]
  simp only [BitVec.getLsbD_and, BitVec.getLsbD_or]
  rcases ht with rfl | rfl <;> interval_cases i <;> simp

theorem goTarget (ht : t = 3 ∨ t = 4) : bits (newValue pwrCtlRow .primary old (goWord t v)).toNat 2 0 = t.toNat := by
  have h := bits_congr (x := (newValue pwrCtlRow .primary old (goWord t v)).toNat) (y := t.toNat) (hi := 2) (lo := 0) fun i hi => by
    rw [goNew_testBit ht (by omega), if_neg (by omega), testBit_toNat]
    rcases ht with rfl | rfl <;> interval_cases i <;> rfl
  rw [h]
  rcases ht with rfl | rfl <;> rfl

theorem goGo (ht : t = 3 ∨ t = 4) : bit (newValue pwrCtlRow .primary old (goWord t v)).toNat 3 = true := by
  rw [bit_testBit, goNew_testBit ht (by omega)]
  rcases ht with rfl | rfl <;> rfl

theorem goKeep (ht : t = 3 ∨ t = 4) : bit (newValue pwrCtlRow .primary old (goWord t v)).toNat 4 = bit v.toNat 4 := by
  rw [bit_testBit, goNew_testBit ht (by omega), if_pos rfl, bit_getLsbD]

end

/-- What a GO does: it stores its fields, answers, and starts the entry when the answer is OK. -/
theorem sleepGo {t v : Word} {s : State} (hq : quiet s 0) (ht : t = 3 ∨ t = 4) :
    regWrite4 0 0x030000 (goWord t v) s =
      let r := sleepCheck t.toNat (bit v.toNat 4) s
      let z := (s.setRaw 0 0x030000 ((s.raw 0 0x030000 &&& 0xF800FFC0) ||| (v &&& 0x07FF0030) ||| t)).onPwr fun p => { p with slpRes := r }
      if r = 0 then startEntry t.toNat z else z := by
  have hw := regWrite4_win_open (fn := 0) .primary (goWord t v) hq regAt_pwrCtl (by decide) (by simp) (.inl rfl) rfl rfl
  refine hw.trans ?_
  change sleepEffect (winWrite 0 .primary 0x030000 pwrCtlRow (goWord t v) s) s = _
  have hs : storeWr (winWrite 0 .primary 0x030000 pwrCtlRow (goWord t v) s) 8 s =
      s.setRaw 0 0x030000 ((s.raw 0 0x030000 &&& 0xF800FFC0) ||| (v &&& 0x07FF0030) ||| t) :=
    congrArg (s.setRaw 0 0x030000) (goStored ht)
  have hn : (winWrite 0 .primary 0x030000 pwrCtlRow (goWord t v) s).new = newValue pwrCtlRow .primary (s.raw 0 0x030000) (goWord t v) := rfl
  unfold sleepEffect
  dsimp only
  rw [hs, hn, goTarget ht, goGo ht, goKeep ht, if_neg (by rcases ht with rfl | rfl <;> decide)]
  rfl

/-! ### The answer to a GO -/

section
variable {keep : Bool} {target : Nat} {s : State}

/-- A pipe scans out, or is on its way. -/
def pipeOn (s : State) (p : Nat) : Bool := decide ((s.pipe p).st ≠ .off)

theorem pipeOn_iff (s : State) (p : Nat) : pipeOn s p = true ↔ (s.pipe p).st ≠ .off := decide_eq_true_iff

theorem sleepCheck_s3 (ha : awake s = true) (hb : busyS3 keep s = false) :
    sleepCheck 3 keep s =
      if ([1, 2, 3].any (pipeOn s) || (pipeOn s 0 && !keep)) = true then 5
      else if (pipeOn s 0 && (pipeFloor s 0).any fun f => decide (f < 7)) = true then 6 else 0 := by
  unfold sleepCheck
  rw [if_neg (by simp [ha]), if_pos rfl, if_neg (by simp [hb])]
  rfl

theorem sleepCheck_s4 (ha : awake s = true) (hb : busyS4 s = false) :
    sleepCheck 4 keep s = if (upTo 4).any (pipeOn s) = true then 5 else 0 := by
  unfold sleepCheck
  rw [if_neg (by simp [ha]), if_neg (by decide), if_neg (by simp [hb])]
  rfl

theorem sleepCheck_asleep (h : awake s = false) : sleepCheck target keep s = 3 := if_pos (by simp [h])

theorem sleepCheck_busyS3 (ha : awake s = true) (hb : busyS3 keep s = true) : sleepCheck 3 keep s = 4 :=
  (if_neg (by simp [ha])).trans ((if_pos rfl).trans (if_pos hb))

theorem sleepCheck_busyS4 (ha : awake s = true) (hb : busyS4 s = true) : sleepCheck 4 keep s = 4 :=
  (if_neg (by simp [ha])).trans ((if_neg (by decide)).trans (if_pos hb))

theorem anyPipe_iff : (upTo 4).any (pipeOn s) = true ↔ ∃ p : Fin 4, (s.pipe p.val).st ≠ .off := by
  rw [List.any_eq_true]
  refine ⟨fun ⟨p, hp, ho⟩ => ⟨⟨p, List.mem_range.1 hp⟩, (pipeOn_iff s p).1 ho⟩,
    fun ⟨p, hp⟩ => ⟨p.val, List.mem_range.2 p.isLt, (pipeOn_iff s p.val).2 hp⟩⟩

theorem otherPipe_iff : [1, 2, 3].any (pipeOn s) = true ↔ ∃ p : Fin 4, p.val ≠ 0 ∧ (s.pipe p.val).st ≠ .off := by
  rw [List.any_eq_true]
  constructor
  · rintro ⟨p, hp, ho⟩
    have hl : p < 4 ∧ p ≠ 0 := by simp at hp; omega
    exact ⟨⟨p, hl.1⟩, hl.2, (pipeOn_iff s p).1 ho⟩
  · rintro ⟨p, h0, hp⟩
    exact ⟨p.val, by have := p.isLt; simp; omega, (pipeOn_iff s p.val).2 hp⟩

theorem sleepCheck_display (ha : awake s = true) (hb : busyS3 keep s = false)
    (h : (∃ p : Fin 4, p.val ≠ 0 ∧ (s.pipe p.val).st ≠ .off) ∨ ((s.pipe 0).st ≠ .off ∧ keep = false)) : sleepCheck 3 keep s = 5 := by
  refine (sleepCheck_s3 ha hb).trans (if_pos ?_)
  rcases h with h | ⟨h, hk⟩
  · rw [otherPipe_iff.2 h, Bool.true_or]
  · rw [(pipeOn_iff s 0).2 h, hk, Bool.not_false, Bool.and_true, Bool.or_true]

theorem sleepCheck_dark (ha : awake s = true) (hb : busyS3 keep s = false) (h : ∀ p : Fin 4, (s.pipe p.val).st = .off) : sleepCheck 3 keep s = 0 := by
  have off (p : Fin 4) : pipeOn s p.val = false := decide_eq_false (not_not.2 (h p))
  have h0 : pipeOn s 0 = false := off 0
  have h1 : [1, 2, 3].any (pipeOn s) = false := by
    rw [← Bool.not_eq_true, otherPipe_iff]
    exact fun ⟨p, _, hp⟩ => hp (h p)
  rw [sleepCheck_s3 ha hb, h0, h1]
  rfl

end

/-! ### The end of an entry -/

/-- The units that S3 does not keep are off. -/
def entryStopped (e : State) : State :=
  (upTo 74).foldl (fun u k => if e.pwr.deep = 3 ∧ (k = 0 ∨ k = 8 ∨ k = 72) then (if u.diePresent 0 then unitOn k u else u) else unitOff k u) e

/-- Array 0 is narrow, with NARROW set. -/
def arrayNarrow (u : State) : State := (u.setRaw 0 0x110000 (u.raw 0 0x110000 ||| 1)).onTns fun t => { t with narrow := tblSet 0 t.narrow 0 1 }

/-- What makes the package exit at once. -/
def entryCause (n : State) : Option (Nat × Nat) := n.pwr.wakeHeld.or ((levelPins n).head?.map fun i => (1, i))

/-- The package is asleep; the active pins show. -/
def entryAsleep (n : State) : State :=
  (wakeBits ((levelPins n).foldl (fun m i => m ||| w32 (2 ^ i)) 0) n).onPwr fun p => { p with sleep := if p.deep = 3 then .s3 else .s4, wakeHeld := none }

def entryEnds (asleep : State) : Option (Nat × Nat) → State
  | some (src, pin) => startExit src pin asleep
  | none => asleep

theorem islandUnit_iff (k : Nat) : islandUnit k = true ↔ k = 0 ∨ k = 8 ∨ k = 72 := by simp [islandUnit, or_assoc]

section
variable {s : State}

/-- The groups that stay powered are at P7, and no step of theirs is left. -/
def entrySettled (s : State) : Bool := [0, 2, 3].all fun g => decide (seqOf s g = .idle) && decide (plvlOf s g = 7)

/-- An engine or an L2 operation runs. -/
def entryBusy (s : State) : Bool := [0, 1].any fun d => decide ((s.plan d).state = .running) || (s.l2 d).op.isSome

theorem entrySettled_iff : entrySettled s = true ↔ ∀ g, (g = 0 ∨ g = 2 ∨ g = 3) → seqOf s g = .idle ∧ plvlOf s g = 7 := by
  simp [entrySettled]

theorem entryBusy_iff : entryBusy s = true ↔ ∃ d : Fin 2, (s.plan d.val).state = .running ∨ (s.l2 d.val).op.isSome = true := by
  rw [Fin.exists_fin_two]
  simp [entryBusy]

theorem entryDone_early (h : s.pwr.sleep ≠ .entering ∨ entrySettled s = false ∨ entryBusy s = true) : entryDone s = s :=
  if_pos (h.imp_right (Or.imp_left (congrArg not)))

theorem entryDone_due (he : s.pwr.sleep = .entering) (hs : entrySettled s = true) (hb : entryBusy s = false) :
    entryDone s =
      let n := arrayNarrow (entryStopped (l2Empty s))
      entryEnds (entryAsleep n) (entryCause n) := by
  have hnot : ¬ (s.pwr.sleep ≠ .entering ∨ (!entrySettled s) = true ∨ entryBusy s = true) := by simp [he, hs, hb]
  have hstop (e : State) : eachDo (upTo 74) (fun k s =>
      if (decide (e.pwr.deep = 3) && islandUnit k) = true then (if s.diePresent 0 then unitOn k s else s) else unitOff k s) e = entryStopped e := by
    refine congrArg (fun f => (upTo 74).foldl f e) (funext fun u => funext fun k => if_congr ?_ rfl rfl)
    rw [Bool.and_eq_true, decide_eq_true_iff, islandUnit_iff]
  unfold entryDone
  refine (if_neg hnot).trans ?_
  dsimp only
  rw [hstop]
  generalize entryStopped (l2Empty s) = u
  change (match entryCause (arrayNarrow u) with
    | some (src, pin) => startExit src pin (entryAsleep (arrayNarrow u))
    | none => entryAsleep (arrayNarrow u)) = entryEnds (entryAsleep (arrayNarrow u)) (entryCause (arrayNarrow u))
  generalize entryCause (arrayNarrow u) = o
  cases o <;> rfl

end

/-! ### The end of an exit -/

theorem nextStep_sleep (g : Nat) (s : State) : (nextStep g s).pwr.sleep = s.pwr.sleep := by
  unfold nextStep
  dsimp only
  split_ifs <;> rfl

theorem setGoal_sleep (g lv : Nat) (s : State) : (setGoal g lv s).pwr.sleep = s.pwr.sleep := by
  unfold setGoal
  dsimp only
  split_ifs
  · exact nextStep_sleep g _
  · rfl

theorem limitGoals_sleep (s : State) : (limitGoals s).pwr.sleep = s.pwr.sleep := by
  refine List.foldlRecOn (motive := fun u : State => u.pwr.sleep = s.pwr.sleep) (upTo 4) _ rfl fun u hu g _ => ?_
  dsimp only
  generalize (if u.pwr.hot = true then 7 else _) = lv
  split_ifs
  · exact hu
  · exact (setGoal_sleep _ _ u).trans hu

theorem raiseVec_sleep (src : VecSource) (fn vec : Nat) (s : State) : (raiseVec src fn vec s).pwr.sleep = s.pwr.sleep := by
  obtain ⟨g, hg, _, _⟩ := raiseVec_reg src fn vec s
  rw [hg]

/-- The exit is not over. -/
def exitEarly (s : State) : Prop := s.pwr.sleep ≠ .exiting ∨ (∃ g < 4, seqOf s g ≠ .idle) ∨ ∃ k < 74, s.power k = .clearing

/-- The units of the dies that are there are cleared and released. -/
def exitReleased (s : State) : State :=
  (upTo 74).foldl (fun v k => if v.diePresent (unitDie k) = true ∧ v.err.thermal2 = false then unitOn k v else v)
    (if s.pwr.deep = 3 then s.setL2 0 L2.empty else s)

/-- Array 0 is wide again, with NARROW cleared. -/
def arrayWide (v : State) : State := (v.setRaw 0 0x110000 (v.raw 0 0x110000 &&& ~~~1)).onTns fun t => { t with narrow := tblSet 0 t.narrow 0 0 }

/-- The package is awake, with the cause of its exit. -/
def exitAwake (x : State) : State :=
  let w := x.pwr.wakeHeld.getD (0, 0)
  x.onPwr fun p => { p with sleep := .s0, wakeSrc := w.1, wakePin := if w.1 = 1 then w.2 else p.wakePin, wakeHeld := none }

/-- The levels are within their limits, and the wake vector is raised. -/
def exitRaised (y : State) : State := limitGoals (raiseVec .wake 0 (wakeVector y) y)

section
variable {s : State}

theorem exitEarly_iff : (s.pwr.sleep ≠ .exiting ∨ (upTo 4).any (fun g => decide (seqOf s g ≠ .idle)) = true ∨
    (upTo 74).any (fun k => decide (s.power k = .clearing)) = true) ↔ exitEarly s := by
  refine or_congr Iff.rfl (or_congr ?_ ?_) <;> simp only [List.any_eq_true, upTo, List.mem_range, decide_eq_true_iff]

theorem exitDone_early (h : exitEarly s) : exitDone s = s := if_pos (exitEarly_iff.2 h)

theorem exitDone_due (h : ¬ exitEarly s) : exitDone s = exitRaised (exitAwake (arrayWide (exitReleased s))) := by
  have hreleased : eachDo (upTo 74) (fun k s => if (s.diePresent (unitDie k) && !s.err.thermal2) = true then unitOn k s else s)
      (if s.pwr.deep = 3 then s.setL2 0 L2.empty else s) = exitReleased s := by
    refine congrArg (fun f => (upTo 74).foldl f _) (funext fun u => funext fun k => if_congr ?_ rfl rfl)
    rw [Bool.and_eq_true, Bool.not_eq_true']
  unfold exitDone
  refine (if_neg fun hc => h (exitEarly_iff.1 hc)).trans ?_
  dsimp only
  rw [hreleased]
  rfl

theorem exitFinish_early (h : exitEarly s) : exitFinish s = s := by
  unfold exitFinish
  rw [exitDone_early h]
  refine if_neg fun ⟨he, ha⟩ => ?_
  rw [awake, he] at ha
  cases ha

theorem exitFinish_due (h : ¬ exitEarly s) : exitFinish s = replayHeld (exitRaised (exitAwake (arrayWide (exitReleased s)))) := by
  have he : s.pwr.sleep = .exiting := by_contra fun hc => h (.inl hc)
  unfold exitFinish
  rw [exitDone_due h]
  refine if_pos ⟨he, ?_⟩
  rw [awake, exitRaised, limitGoals_sleep, raiseVec_sleep]
  rfl

end

/-! ### Gates -/

/-- Whether a unit that S1 may gate has no work. -/
def gateIdle (s : State) : GateUnit → Bool
  | .cluster c => clusterIdle s c.val
  | .core k => coreIdle s k.val
  | .pipe p => decide ((s.pipe p.val).st = .off) && (s.pipe p.val).pend.isNone
  | .cmp n => s.cmp.runs.all fun r => r.1 ≠ n.val

theorem clockGate_eq (u : GateUnit) (s : State) :
    clockGate u s = if gateIdle s u = true ∧ awake s = true ∧ (gateKey s u).1 ∉ s.pwr.gated
      then { s with pwr := { s.pwr with gated := s.pwr.gated ++ [(gateKey s u).1] } } else s := by
  have hidle : (gateKey s u).2 = gateIdle s u := by
    cases u with
    | cmp n => simp [gateKey, gateIdle, List.all_eq_not_any_not]
    | _ => rfl
  rw [← hidle]
  unfold clockGate
  generalize gateKey s u = k
  refine if_congr ?_ rfl rfl
  simp [and_assoc]

theorem gateCluster_power (c : Nat) (s : State) : ∃ p, gateCluster c s = { s with unit := { s.unit with power := p } } := by
  refine List.foldlRecOn (motive := fun u : State => ∃ p, u = { s with unit := { s.unit with power := p } }) _ _ ⟨s.unit.power, rfl⟩
    fun u hu k _ => ?_
  obtain ⟨p, rfl⟩ := hu
  dsimp only
  split_ifs
  · exact ⟨_, rfl⟩
  · exact ⟨p, rfl⟩

/-! ### Wake events -/

section
variable {s : State} {src pin : Nat}

theorem wakeEvent_awake (h : s.pwr.sleep = .s0) : wakeEvent src pin s = raiseVec .wake 0 (wakeVector s) s := by
  rw [wakeEvent, h]

theorem wakeEvent_asleep (h : s.pwr.sleep ≠ .s0) : wakeEvent src pin s = startExit src pin s := by
  unfold wakeEvent
  generalize s.pwr.sleep = x at h
  cases x with
  | s0 => exact absurd rfl h
  | _ => rfl

theorem startExit_deep (h : s.pwr.sleep = .s3 ∨ s.pwr.sleep = .s4) :
    startExit src pin s =
      let u : State := { s with pwr := { s.pwr with sleep := .exiting, wakeHeld := some (src, pin) } }
      let v := if src = 2 then wakeBits 0x100 u else u
      [0, 1, 2, 3].foldl (fun v g => setGoal g (v.pwr.saved.getD g 7) v) v := by
  unfold startExit
  rcases h with h | h <;> rw [h] <;> rfl

theorem startExit_entering (h : s.pwr.sleep = .entering) :
    startExit src pin s = { s with pwr := { s.pwr with wakeHeld := s.pwr.wakeHeld.or (some (src, pin)) } } := by
  unfold startExit
  rw [h]
  rfl

theorem startExit_not (h : s.pwr.sleep = .exiting ∨ s.pwr.sleep = .s0) : startExit src pin s = s := by
  unfold startExit
  rcases h with h | h <;> rw [h]

variable {i : Nat} {level : Bool}

/-- The pin's level is noted. -/
def levelNoted (i : Nat) (level : Bool) (s : State) : State :=
  s.onPwr fun p => { p with levels := if level = bit p.levels i then p.levels else if level then p.levels + 2 ^ i else p.levels - 2 ^ i }

theorem wakePin_disabled (h : pinEn s i = false) : wakePin i level s = levelNoted i level s := by
  have h' : pinEn (levelNoted i level s) i = false := h
  exact if_pos (congrArg not h')

theorem wakePin_level (he : pinEn s i = true) (hl : pinLevel s i = true) : wakePin i level s = levelWakes (levelNoted i level s) := by
  have he' : pinEn (levelNoted i level s) i = true := he
  exact (if_neg fun hc => Bool.false_ne_true ((congrArg not he').symm.trans hc)).trans (if_pos hl)

theorem wakePin_edge (he : pinEn s i = true) (hl : pinLevel s i = false) :
    wakePin i level s = if bit s.pwr.levels i = level ∨ level ≠ pinHigh s i then levelNoted i level s
      else
        let a := if s.pwr.sleep = .entering then (levelNoted i level s).fresh else (0, levelNoted i level s)
        if bit a.1.toNat 0 then a.2 else wakeEvent 1 i (wakeBits (w32 (2 ^ i)) a.2) := by
  have he' : pinEn (levelNoted i level s) i = true := he
  have hl' : ¬ pinLevel (levelNoted i level s) i = true := by rw [show pinLevel (levelNoted i level s) i = pinLevel s i from rfl, hl]; decide
  exact (if_neg fun hc => Bool.false_ne_true ((congrArg not he').symm.trans hc)).trans (if_neg hl')

theorem linkWake_eq : linkWake s =
    if (inS3 s && decide (s.rawBits 0 0x030000 5 5 = 0)) = true then s else wakeEvent 2 0 (wakeBits 0x100 s) := rfl

theorem linkS3_iff : decide (s.rawBits 0 0x030000 5 5 = 0) = !bit (s.raw 0 0x030000).toNat 5 := by
  have h : s.rawBits 0 0x030000 5 5 = (s.raw 0 0x030000).toNat / 2 ^ 5 % 2 := rfl
  rw [h, bit]
  generalize (s.raw 0 0x030000).toNat / 2 ^ 5 = x
  rcases Nat.mod_two_eq_zero_or_one x with h | h <;> simp [h]

end

section
variable {s : State} {src : VecSource} {fn vec : Nat}

theorem raiseSrc_new (h : (s.reg.vecs.find? fun h => h.src = src) = none) :
    raiseSrc src fn vec s = deliver fn vec { s with reg := { s.reg with vecs := s.reg.vecs ++ [{ src, last := s.time, pend := none }] } } := by
  rw [raiseSrc, h]
  rfl

theorem raiseSrc_known {x : VecHold} (h : (s.reg.vecs.find? fun h => h.src = src) = some x) :
    raiseSrc src fn vec s =
      if s.time < x.last + 1000 then
        { s with reg := { s.reg with vecs := mapIf (fun h => h.src = src) (fun h => { h with pend := some (fn, vec) }) s.reg.vecs } }
      else deliver fn vec
        { s with reg := { s.reg with vecs := mapIf (fun h => h.src = src) (fun h => { h with last := s.time, pend := none }) s.reg.vecs } } := by
  rw [raiseSrc, h]
  rfl

end

/-- Settles O55: a GO is its answer; the ends of the entry and of the exit are sequences of their steps, once they are
due; a wake event is a vector or an exit. -/
theorem sleepEntersAndExits : Obligations.SleepEntersAndExits := by
  unfold Obligations.SleepEntersAndExits
  refine ⟨fun fn v s hq h0 => ⟨congrArg Host.Outcome.next (pwrCtl_virtual _ hq h0), congrArg Host.Outcome.next (pwrCtl_virtual _ hq h0)⟩,
    fun v s hq => ?_, fun target keep s => ⟨sleepCheck_asleep, sleepCheck_busyS3, sleepCheck_busyS4, fun ha hb => ?_, sleepCheck_display,
      sleepCheck_dark⟩, fun s => ?_, fun t s0 => ?_, fun u s => ?_, fun c s => ⟨fun h => ?_, fun hi ha hp => ⟨?_, gateCluster_power c.val s⟩⟩,
    fun i level s => ?_, fun s => ?_, fun src fn vec s => ?_, fun src pin s => ⟨startExit_deep, startExit_entering, startExit_not⟩⟩
  · intro stored keep res
    have s3 := sleepGo (t := 3) (v := v) hq (.inl rfl)
    have s4 := sleepGo (t := 4) (v := v) hq (.inr rfl)
    exact ⟨fun h => congrArg Host.Outcome.next (s3.trans ((if_pos h).trans (congrArg (fun r => startEntry 3 (res r (stored 3))) h))),
      fun h => congrArg Host.Outcome.next (s3.trans (if_neg h)),
      fun h => congrArg Host.Outcome.next (s4.trans ((if_pos h).trans (congrArg (fun r => startEntry 4 (res r (stored 4))) h))),
      fun h => congrArg Host.Outcome.next (s4.trans (if_neg h))⟩
  · exact (sleepCheck_s4 ha hb).trans (if_congr anyPipe_iff rfl rfl)
  · intro settled busy
    refine ⟨fun h => congrArg Host.Outcome.next (entryDone_early (h.imp_right (Or.imp (fun h => ?_) entryBusy_iff.2))), fun he hs hb => ?_⟩
    · rw [← Bool.not_eq_true, entrySettled_iff]
      exact h
    · intro off e stopped narrow pins cause woken asleep
      have hst : entryStopped (l2Empty s) = stopped := rfl
      have hnar : arrayNarrow (entryStopped (l2Empty s)) = narrow := congrArg arrayNarrow hst
      clear_value narrow
      have hdue := entryDone_due he (entrySettled_iff.2 hs) (Bool.not_eq_true _ ▸ fun hc => hb (entryBusy_iff.1 hc))
      rw [hnar] at hdue
      refine congrArg Host.Outcome.next (hdue.trans ?_)
      change entryEnds asleep cause = _
      clear_value cause
      cases cause <;> rfl
  · intro s early u v x w y
    have hv : exitReleased s = v := rfl
    have hy : exitAwake (arrayWide (exitReleased s)) = y := congrArg (fun v => exitAwake (arrayWide v)) hv
    clear_value y
    refine ⟨fun h => congrArg Host.Outcome.next (exitFinish_early h), fun h => congrArg Host.Outcome.next ((exitFinish_due h).trans ?_)⟩
    rw [hy]
    rfl
  · refine congrArg Host.Outcome.next ((clockGate_eq u s).trans ?_)
    cases u <;> rfl
  · refine congrArg Host.Outcome.next (if_neg ?_)
    rcases h with h | h | h <;> simp [h]
  · exact congrArg Host.Outcome.next (if_pos (by simp [hi, ha, hp]))
  · intro was u
    refine ⟨fun h => congrArg Host.Outcome.next (wakePin_disabled h), fun he hl h => ?_, fun he hl h1 h2 hs => ?_, fun he hl h1 h2 hs => ?_,
      fun he hl => congrArg Host.Outcome.next (wakePin_level he hl)⟩
    · exact congrArg Host.Outcome.next ((wakePin_edge he hl).trans (if_pos h))
    all_goals have hn : ¬ (bit s.pwr.levels i.val = level ∨ level ≠ pinHigh s i.val) := fun h => h.elim h1 fun h => h h2
    · refine congrArg Host.Outcome.next ((wakePin_edge he hl).trans ((if_neg hn).trans ?_))
      rw [if_neg hs]
      exact if_neg (show ¬ bit (0 : Quad).toNat 0 = true by decide)
    · intro v
      refine congrArg Host.Outcome.next ((wakePin_edge he hl).trans ((if_neg hn).trans ?_))
      rw [if_pos hs]
      rfl
  · intro u
    refine ⟨fun hs hb => congrArg Host.Outcome.next (if_pos ?_), fun h => congrArg Host.Outcome.next (if_neg ?_), fun src pin => wakeEvent_awake,
      fun src pin => wakeEvent_asleep⟩
    · rw [linkS3_iff, hb, inS3, hs]
      rfl
    · rw [linkS3_iff, inS3]
      rcases h with h | h <;> simp [h]
  · intro known put
    exact ⟨rfl, raiseSrc_new, fun h hf => ⟨fun hl => (raiseSrc_known hf).trans (if_pos hl),
      fun hl => (raiseSrc_known hf).trans (if_neg (Nat.not_lt.2 hl))⟩, fun fn => dif_pos fn.isLt⟩

end Sys2Proof.Machine
end


section
/-! ## Clock monitors, trim and gates (spec/14) -/

namespace Sys2Proof.Machine
open Sys2Proof

/-! ### Clock monitors -/

/-- The status bit of a source is set. -/
def sourceMarked (n : Nat) (s : State) : State := s.setRaw 0 0x020050 (s.raw 0 0x020050 ||| w32 (2 ^ n))

/-- What a failed window does to its source, before it is logged. -/
def sourceFallback (f n : Nat) (u : State) : State :=
  if n = 0 then
    (relock ((upTo 12).map (· + 3)) (u.onPwr fun p => { p with fallback := p.fallback ||| 1 })).onPwr fun p =>
      if p.trimRef then p else if bit f 2 then { p with trimHold := true } else { p with trimRef := true }
  else if n = 1 then u.onPwr fun p => { p with fallback := p.fallback ||| 2 }
  else if n = 2 then u.onPwr fun p => if p.trimRef then { p with trimHold := true } else p
  else if 10 ≤ n ∧ n ≤ 13 then displayPllFail (n - 10) u
  else if bit u.pwr.failedOnce n then u.onPwr fun p => { p with fallback := p.fallback ||| 2 ^ n, locking := p.locking.filter (· ≠ n) }
  else relock [n] (u.onPwr fun p => { p with failedOnce := p.failedOnce ||| 2 ^ n })

theorem sourceFail_eq (f n : Nat) (s : State) :
    sourceFail f n s = logError 0x61 0x85 0 n 0 true (sourceFallback f n (sourceMarked n s)) := rfl

section
variable {f n : Nat} {u : State}

theorem sourceFallback_zero : sourceFallback f 0 u =
    (relock ((upTo 12).map (· + 3)) (u.onPwr fun p => { p with fallback := p.fallback ||| 1 })).onPwr fun p =>
      if p.trimRef then p else if bit f 2 then { p with trimHold := true } else { p with trimRef := true } := if_pos rfl

theorem sourceFallback_one : sourceFallback f 1 u = u.onPwr fun p => { p with fallback := p.fallback ||| 2 } :=
  (if_neg (by decide)).trans (if_pos rfl)

theorem sourceFallback_two : sourceFallback f 2 u = u.onPwr fun p => if p.trimRef then { p with trimHold := true } else p :=
  (if_neg (by decide)).trans ((if_neg (by decide)).trans (if_pos rfl))

theorem sourceFallback_display (h : 10 ≤ n) (h' : n ≤ 13) : sourceFallback f n u = displayPllFail (n - 10) u :=
  (if_neg (by omega)).trans ((if_neg (by omega)).trans ((if_neg (by omega)).trans (if_pos ⟨h, h'⟩)))

theorem sourceFallback_pll (h : (3 ≤ n ∧ n ≤ 9) ∨ 14 ≤ n) :
    sourceFallback f n u =
      if bit u.pwr.failedOnce n then u.onPwr fun p => { p with fallback := p.fallback ||| 2 ^ n, locking := p.locking.filter (· ≠ n) }
      else relock [n] (u.onPwr fun p => { p with failedOnce := p.failedOnce ||| 2 ^ n }) :=
  (if_neg (by omega)).trans ((if_neg (by omega)).trans ((if_neg (by omega)).trans (if_neg (by omega))))

end

/-- A single failed window names its source alone. -/
theorem nats_single {n : Nat} (h : n < 15) : nats (bit (2 ^ n)) 15 = [n] := by interval_cases n <;> decide

theorem monitorWindow_single {n : Nat} (s : State) (h : n < 15) : monitorWindow (BitVec.ofNat 15 (2 ^ n)).toNat s = sourceFail (2 ^ n) n s := by
  have ht : (BitVec.ofNat 15 (2 ^ n)).toNat = 2 ^ n := by
    rw [BitVec.toNat_ofNat]
    exact Nat.mod_eq_of_lt (Nat.pow_lt_pow_right (by decide) h)
  rw [ht, monitorWindow, nats_single h]
  rfl

/-- The log entry of a critical error, in the lowest free slot. -/
def criticalEntry (code src ctx info0 info1 : Nat) (s : State) : LogEntry :=
  { slot := ((upTo 32).find? fun i => !s.err.entries.any fun e => e.slot = i).getD 0
    t := s.time
    seq := s.err.seq + 1
    code
    cls := codeClass code
    src
    flags := b2n (decide (1 ≤ inService s src)) + 4
    ctx
    info0
    info1 }

/-- A critical error that is written to the log without a vector and without escalation. -/
theorem logError_critical {s : State} {code src : Nat} (ctx info0 info1 : Nat) (h : logsPlainly s src (codeClass code)) :
    logError code src ctx info0 info1 true s = criticalEvent { s with err := { s.err with
      entries := s.err.entries ++ [criticalEntry code src ctx info0 info1 s], seq := s.err.seq + 1 } } := by
  obtain ⟨hn, hroom, hen⟩ := h
  have h2 : ¬ 2 ≤ inService s src := by omega
  have hen' (e : List LogEntry) (q : Nat) :
      bit (State.raw { s with err := { s.err with entries := e, seq := q } } 0 0x040000).toNat 31 = false := hen
  simp only [logError, hn, if_true, logWrite, hroom, h2, decide_false, b2n, State.onErr, hen', Bool.false_eq_true, if_false, Nat.mul_zero, Nat.add_zero,
    Nat.mul_one, criticalEntry]

/-! ### The trim -/

theorem trimWindow_eq (step : Int) (ok : Bool) (s : State) :
    trimWindow step ok s = if s.pwr.trimHold = true then s else { s with pwr := { s.pwr with
      trim := if 0 < step then Nat.min 0xFFF (s.pwr.trim + 1) else if step < 0 then s.pwr.trim - 1 else s.pwr.trim
      trimLock := ok } } := by
  unfold trimWindow State.onPwr
  dsimp only
  split_ifs <;> rfl

/-! ### PLLs that lock again -/

section
variable {n : Nat} {s : State}

/-- The sources that still lock. -/
def stillLocking (n : Nat) (s : State) : List Nat := s.pwr.locking.filter fun m => m ≠ n

theorem pllRelocked_eq (n : Nat) (s : State) :
    pllRelocked n s = if n ∈ s.pwr.locking then
      { s with pwr := { s.pwr with locking := stillLocking n s, fallback := s.pwr.fallback &&& (0x7FFF ^^^ 2 ^ n) } } else s :=
  if_congr List.contains_iff_mem rfl rfl

theorem pllRelocked_locking (n : Nat) (s : State) : (pllRelocked n s).pwr.locking = stillLocking n s := by
  rw [pllRelocked_eq]
  split_ifs with h
  · rfl
  · have hne : ∀ m ∈ s.pwr.locking, m ≠ n := fun m hm he => h (he ▸ hm)
    exact (List.filter_eq_self.2 fun m hm => decide_eq_true (hne m hm)).symm

theorem pllRelocked_boot (n : Nat) (s : State) : (pllRelocked n s).boot = s.boot := by
  rw [pllRelocked_eq]
  split_ifs <;> rfl

theorem pllLock_extest (h : s.tap.ir = 3) : pllLock n s = s := if_pos (decide_eq_true h)

theorem pllLock_locked (h : s.tap.ir ≠ 3) :
    pllLock n s = if s.boot.step = .pll ∧ 3 ∉ stillLocking n s ∧ 14 ∉ stillLocking n s
      then { pllRelocked n s with boot := { s.boot with step := .rom } } else pllRelocked n s := by
  unfold pllLock
  rw [if_neg (show ¬ extesting s = true from fun hc => h (of_decide_eq_true hc))]
  dsimp only [State.onBoot]
  rw [pllRelocked_boot, pllRelocked_locking]
  refine if_congr (and_congr Iff.rfl (and_congr ?_ ?_)) rfl rfl <;> simp

end

/-! ### Gates -/

/-- The fields of a gate register. -/
def gateMask : GateReg → Word
  | .top => 0xFFF | .clu => 0xFF | .coreLo => 0xFFFFFFFF | .coreHi => 0xFFFFFFFF

/-- The row of a gate register. -/
def gateRow : GateReg → RegDef
  | .top => regRow 0x0000 1 0xFFF 0x0 0x0 0x0 0xFFF false false
  | .clu => regRow 0x0004 1 0xFF 0x0 0x0 0x0 0xFF false false
  | .coreLo => regRow 0x0008 1 0xFFFFFFFF 0x0 0x0 0x0 0xFFFFFFFF false false
  | .coreHi => regRow 0x000C 1 0xFFFFFFFF 0x0 0x0 0x0 0xFFFFFFFF false false

theorem regAt_gate (r : GateReg) : regAt .clk (4 * gateRegNum r) = some (gateRow r, 0) := by cases r <;> rfl

theorem blockAt_gate (r : GateReg) : blockAt (0x020000 + 4 * gateRegNum r) = some (.clk, 4 * gateRegNum r) := by cases r <;> decide

theorem gateRow_fields (r : GateReg) : (gateRow r).rw ||| (gateRow r).rwk = gateMask r ∧ (gateRow r).cmd = 0 ∧ (gateRow r).w1c = 0 ∧ (gateRow r).rwk = 0 := by
  cases r <;> decide

theorem clk_virtual : ∀ d ∈ blockRegs .clk, d.vf = false := by
  change ∀ d ∈ regsClk, d.vf = false
  decide

/-- The gates as a write would leave them. -/
def gateNew (r : GateReg) (v : Word) (s : State) : Word :=
  (s.raw 0 (0x020000 + 4 * gateRegNum r) &&& ~~~gateMask r) ||| (v &&& gateMask r)

/-- A write of a gate register that would be refused. -/
def gateBad (i : Nat) (new : Word) (s : State) : Bool :=
  let now := fun (k : Nat) => (s.raw 0 (0x020000 + 4 * k)).toNat
  let after := fun (k : Nat) => if k = i then new.toNat else now k
  gateRefused s (gatesOf (now 0) (now 1) (now 2) (now 3)) (gatesOf (after 0) (after 1) (after 2) (after 3))

section
variable {r : GateReg} {v : Word} {s : State}

theorem gateEffect_eq (i : Nat) (w : RegWr) (s : State) :
    gateEffect i w s = if gateBad i w.new s = true then (s.setRaw 0 0x020040 (s.raw 0 0x020040 ||| 1)).onPwr fun p => { p with gateReg := i }
      else storeWr w 0 s := rfl

theorem gateWritten (hq : quiet s 0) :
    regWrite4 0 (0x020000 + 4 * gateRegNum r) v s =
      if gateBad (gateRegNum r) (gateNew r v s) s = true then
        (s.setRaw 0 0x020040 (s.raw 0 0x020040 ||| 1)).onPwr fun p => { p with gateReg := gateRegNum r }
      else s.setRaw 0 (0x020000 + 4 * gateRegNum r) (gateNew r v s) := by
  obtain ⟨hm, hc, hw1, hk⟩ := gateRow_fields r
  have hlt : 4 * gateRegNum r < 0x10 := by cases r <;> decide
  have hdiv : 4 * gateRegNum r / 4 = gateRegNum r := Nat.mul_div_cancel_left _ (by decide)
  have hland := regWrite4_prim v hq (blockAt_gate r) (regAt_gate r) (by omega) (by simp) rfl
  rw [hk, if_neg (by simp)] at hland
  rw [hland]
  have hnew : (winWrite 0 .primary (0x020000 + 4 * gateRegNum r) (gateRow r) v s).new = gateNew r v s := by
    simp [winWrite, newValue, hm, hc, gateNew]
  have hstore : storeWr (winWrite 0 .primary (0x020000 + 4 * gateRegNum r) (gateRow r) v s) 0 s =
      s.setRaw 0 (0x020000 + 4 * gateRegNum r) (gateNew r v s) := by
    refine congrArg (s.setRaw 0 _) ?_
    rw [hnew]
    simp [winWrite, hw1, and_full]
  refine (if_pos hlt).trans ?_
  rw [hdiv, gateEffect_eq, hnew, hstore]

/-- A write is refused when it sets a gate under a parent that is off, clears one over a gate that stays on, clears that
of a pipe that is on, or sets one of a die that is not there. -/
theorem gateRefused_iff (s : State) (old new : Nat) : gateRefused s old new = true ↔ ∃ i < 84,
    (bit old i = false ∧ bit new i = true ∧ ∃ p ∈ gateParents i, bit new p = false) ∨
    (bit old i = true ∧ bit new i = false ∧ ∃ j < 84, bit new j = true ∧ i ∈ gateParents j) ∨
    (bit old i = true ∧ bit new i = false ∧ 4 ≤ i ∧ i < 8 ∧ (s.pipe (i - 4)).st ≠ .off) ∨
    (bit old i = false ∧ bit new i = true ∧ ∃ d, gateDie i = some d ∧ s.diePresent d = false) := by
  simp only [gateRefused, upTo, List.any_eq_true, List.mem_range, Bool.or_eq_true, Bool.and_eq_true, Bool.not_eq_true', decide_eq_true_iff,
    List.contains_iff_mem, Option.any_eq_true, and_assoc, or_assoc]

end

/-- Settles O56: a failed window marks its source, puts it on its fallback and is logged; a gate write lands by
`regWrite4_prim` and is stored or refused whole. -/
theorem clocksAndGatesFollow : Obligations.ClocksAndGatesFollow := by
  unfold Obligations.ClocksAndGatesFollow
  refine ⟨fun s => rfl, fun f s => rfl, fun f n s => ?_, fun n s h => congrArg Host.Outcome.next (monitorWindow_single s h), fun s hlog hreg => ?_,
    fun step ok s => congrArg Host.Outcome.next (trimWindow_eq step ok s), fun p s => ?_, fun fn r v s hq => ?_, gateRefused_iff⟩
  · intro u fails p
    have by_fallback {w : State} (h : sourceFallback f n u = w) : fails w := (sourceFail_eq f n s).trans (congrArg _ h)
    refine ⟨fun h => ?_, fun h => ?_, fun h => ?_, fun h h' => by_fallback (sourceFallback_display h h'),
      fun h hb => by_fallback ((sourceFallback_pll h).trans (if_pos hb)), fun h hb => by_fallback ((sourceFallback_pll h).trans (if_neg ?_)),
      fun ns => rfl⟩
    · subst h
      exact by_fallback sourceFallback_zero
    · subst h
      exact by_fallback sourceFallback_one
    · subst h
      exact by_fallback sourceFallback_two
    · rw [hb]
      exact Bool.false_ne_true
  · intro u
    have hplain : logsPlainly (sourceFallback 2 1 (sourceMarked 1 s)) 0x85 6 := by
      obtain ⟨hn, hroom, hen⟩ := hlog
      refine ⟨hn, hroom, ?_⟩
      have hraw : (sourceFallback 2 1 (sourceMarked 1 s)).raw 0 0x040000 = s.raw 0 0x040000 :=
        raw_setRaw_ne s _ (by decide)
      rw [hraw]
      exact hen
    exact logError_critical (code := 0x61) 0 1 0 hplain
  · intro n left u
    have hn : pllNum p = n := by cases p <;> rfl
    have hu : pllRelocked n s = u := pllRelocked_eq n s
    have locked {w : State} (h : pllLock n s = w) : exec (.pllLockDone p) s = .next w :=
      congrArg Host.Outcome.next ((congrArg (pllLock · s) hn).trans h)
    refine ⟨fun h => locked (pllLock_extest h), fun h hp h3 h14 => locked ((pllLock_locked h).trans ((if_pos ⟨hp, h3, h14⟩).trans ?_)),
      fun h hc => locked ((pllLock_locked h).trans ((if_neg ?_).trans hu))⟩
    · rw [hu]
    · rintro ⟨hp, h3, h14⟩
      exact hc.elim (fun h => h hp) fun h => h.elim h3 h14
  · intro i mask now new then' bad
    have hi : gateRegNum r = i := by cases r <;> rfl
    have hmask : gateMask r = mask := by cases r <;> rfl
    have hnew : gateNew r v s = new := by rw [gateNew, hi, hmask]
    have landed {w : State} (h : regWrite4 fn.val (0x020000 + 4 * gateRegNum r) v s = w) : exec (.clkGateWrite fn r v) s = .next w :=
      congrArg Host.Outcome.next h
    have written (h0 : fn.val = 0) : regWrite4 fn.val (0x020000 + 4 * gateRegNum r) v s =
        if gateBad i new s = true then (s.setRaw 0 0x020040 (s.raw 0 0x020040 ||| 1)).onPwr fun p => { p with gateReg := i }
        else s.setRaw 0 (0x020000 + 4 * i) new := by
      rw [← hnew, ← hi, h0]
      exact gateWritten (h0 ▸ hq)
    exact ⟨fun h0 => landed (regWrite4_virtual v hq h0 (blockAt_gate r) clk_virtual (by simp)),
      fun h0 hb => landed ((written h0).trans (if_neg hb)), fun h0 hb => landed ((written h0).trans (if_pos hb))⟩

end Sys2Proof.Machine
end


section
/-! ## Unit resets (spec/15) -/

namespace Sys2Proof.Machine
open Sys2Proof

/-! ### A GO of RST_CMD -/

/-- The row of RST_CMD. -/
def rstRow : RegDef := regRow 0x0000 1 0x3FF 0x40000000 0x0 0x40000000 0x0 false false

theorem regAt_rst : regAt .rst 0x0 = some (rstRow, 0) := rfl

theorem blockAt_rst : blockAt 0x010000 = some (.rst, 0) := by decide

theorem rst_virtual : ∀ d ∈ blockRegs .rst, d.vf = false := by
  change ∀ d ∈ regsRst, d.vf = false
  decide

section
variable {old : Word} {x : Nat}

/-- What a GO with a kind and an index would leave in RST_CMD. -/
theorem rstNew_eq (hx : x < 1024) :
    newValue rstRow .primary old (w32 (x + 2 ^ 30)) = (old &&& 0xBFFFFC00) ||| (BitVec.ofNat 32 x ||| 0x40000000) := by
  have high (j : Nat) (hj : 10 ≤ j) : x.testBit j = false :=
    Nat.testBit_lt_two_pow (lt_of_lt_of_le hx (show 2 ^ 10 ≤ 2 ^ j from Nat.pow_le_pow_right (by decide) hj))
  have hval : w32 (x + 2 ^ 30) &&& 0x400003FF = BitVec.ofNat 32 x ||| 0x40000000 := by
    have hor : 2 ^ 30 + x = 2 ^ 30 ||| x := by simpa using Nat.two_pow_add_eq_or_of_lt (show x < 2 ^ 30 by omega) 1
    rw [Nat.add_comm, hor, w32]
    refine BitVec.eq_of_getLsbD_eq fun j hj => ?_
    simp only [BitVec.getLsbD_and, BitVec.getLsbD_or, BitVec.getLsbD_ofNat, Nat.testBit_or, Nat.testBit_two_pow]
    interval_cases j <;> simp [high]
  have hnew (v : Word) : newValue rstRow .primary old v = (old &&& 0xBFFFFC00) ||| (v &&& 0x400003FF) := by
    simp [newValue, rstRow, regRow]
  rw [hnew, hval]

theorem rstNew_getLsbD (hx : x < 1024) {j : Nat} (hj : j < 10) : (newValue rstRow .primary old (w32 (x + 2 ^ 30))).toNat.testBit j = x.testBit j := by
  rw [rstNew_eq hx, testBit_toNat]
  simp only [BitVec.getLsbD_or, BitVec.getLsbD_and, BitVec.getLsbD_ofNat]
  interval_cases j <;> simp

theorem rstNew_go (hx : x < 1024) : bit (newValue rstRow .primary old (w32 (x + 2 ^ 30))).toNat 30 = true := by
  rw [rstNew_eq hx, bit_getLsbD]
  simp

theorem rstNew_guarded (hx : x < 1024) : newValue rstRow .primary old (w32 (x + 2 ^ 30)) &&& 0x40000000 = 0x40000000 := by
  rw [rstNew_eq hx]
  ext j hj
  simp only [BitVec.getElem_and, BitVec.getElem_or]
  interval_cases j <;> simp

/-- The GO is not kept. -/
theorem rstStored (hx : x < 1024) :
    newValue rstRow .primary old (w32 (x + 2 ^ 30)) &&& ~~~0x40000000 &&& ~~~(w32 (x + 2 ^ 30) &&& 0) = (old &&& 0xBFFFFC00) ||| BitVec.ofNat 32 x := by
  have high : x.testBit 30 = false := Nat.testBit_lt_two_pow (by omega)
  rw [rstNew_eq hx]
  refine BitVec.eq_of_getLsbD_eq fun j hj => ?_
  simp only [BitVec.getLsbD_and, BitVec.getLsbD_or, BitVec.getLsbD_not, BitVec.getLsbD_ofNat]
  interval_cases j <;> simp [high]

/-- A GO changes the guarded bit unless it stands. -/
theorem rstTouches (hx : x < 1024) : newValue rstRow .primary old (w32 (x + 2 ^ 30)) &&& 0x40000000 ≠ old &&& 0x40000000 ↔ (old &&& 0x40000000) = 0 := by
  rw [rstNew_guarded hx]
  have hbit : (old &&& 0x40000000) = 0x40000000 ∨ (old &&& 0x40000000) = 0 := by
    cases hb : old[30]
    · refine .inr (BitVec.eq_of_getLsbD_eq fun j hj => ?_)
      rw [BitVec.getLsbD_and]
      interval_cases j <;> simp [hb]
    · refine .inl (BitVec.eq_of_getLsbD_eq fun j hj => ?_)
      rw [BitVec.getLsbD_and]
      interval_cases j <;> simp [hb]
  rcases hbit with h | h <;> rw [h] <;> decide

end

/-- The number of a kind and an index, as the register holds it. -/
def rstCode (kind : Fin 9) (i : BitVec 6) : Nat := kind.val + 16 * i.toNat

theorem rstCode_lt (kind : Fin 9) (i : BitVec 6) : rstCode kind i < 1024 := by
  have hk := kind.isLt
  have hi := i.isLt
  unfold rstCode
  omega

section
variable {kind : Fin 9} {i : BitVec 6} {old : Word}

theorem rstKind : bits (newValue rstRow .primary old (w32 (rstCode kind i + 2 ^ 30))).toNat 3 0 = kind.val := by
  have hk := kind.isLt
  rw [bits_congr fun j hj => rstNew_getLsbD (rstCode_lt kind i) (by omega)]
  simp only [bits, rstCode]
  omega

theorem rstIndex : bits (newValue rstRow .primary old (w32 (rstCode kind i + 2 ^ 30))).toNat 9 4 = i.toNat := by
  have hk := kind.isLt
  have hi := i.isLt
  rw [bits_congr fun j hj => rstNew_getLsbD (rstCode_lt kind i) (by omega)]
  simp only [bits, rstCode]
  omega

end

/-- A GO starts a unit's reset when its result is OK. -/
def resetStart (kind i : Nat) (z : State) : State :=
  let r := resetResult z kind i
  let y := z.onRst fun x => { x with result := r, busy := if r = 0 then some (kind, i) else none }
  if r ≠ 0 then y else if kind = 4 then dieReset i 1 y else unitReset kind i y

/-- RST_CMD with its kind and index. -/
def rstWritten (kind : Fin 9) (i : BitVec 6) (old : Word) (u : State) : State :=
  u.setRaw 0 0x010000 ((old &&& 0xBFFFFC00) ||| BitVec.ofNat 32 (rstCode kind i))

theorem resetEffect_go (kind : Fin 9) (i : BitVec 6) (s u : State) :
    resetEffect (winWrite 0 .primary 0x010000 rstRow (w32 (rstCode kind i + 2 ^ 30)) s) u =
      let z := rstWritten kind i (s.raw 0 0x010000) u
      if z.rst.busy.isSome = true then z else resetStart kind.val i.toNat z := by
  have hs : storeWr (winWrite 0 .primary 0x010000 rstRow (w32 (rstCode kind i + 2 ^ 30)) s) 0x40000000 u = rstWritten kind i (s.raw 0 0x010000) u :=
    congrArg (u.setRaw 0 0x010000) (rstStored (rstCode_lt kind i))
  have hn : (winWrite 0 .primary 0x010000 rstRow (w32 (rstCode kind i + 2 ^ 30)) s).new =
      newValue rstRow .primary (s.raw 0 0x010000) (w32 (rstCode kind i + 2 ^ 30)) := rfl
  unfold resetEffect
  dsimp only
  rw [hs, hn, rstNew_go (rstCode_lt kind i), rstKind, rstIndex]
  exact if_congr (by simp) rfl rfl

section
variable {kind i r : Nat} {z : State}

theorem resetStart_refused (h : resetResult z kind i = r) (hr : r ≠ 0) : resetStart kind i z = z.onRst fun x => { x with result := r, busy := none } := by
  unfold resetStart
  rw [h]
  dsimp only
  rw [if_pos hr, if_neg hr]

theorem resetStart_ok (h : resetResult z kind i = 0) :
    resetStart kind i z =
      let y := z.onRst fun x => { x with result := 0, busy := some (kind, i) }
      if kind = 4 then dieReset i 1 y else unitReset kind i y := by
  unfold resetStart
  rw [h]
  rfl

/-- A die of the unit is in reset. -/
def unitDown (s : State) (kind i : Nat) : Prop := ∃ d ∈ kindDie kind i, tblGet 0 s.rst.dieDown d ≠ 0

/-- A die of the unit is not there. -/
def unitAbsent (s : State) (kind i : Nat) : Prop := ∃ d ∈ kindDie kind i, s.diePresent d = false

theorem anyDown_iff : ((kindDie kind i).any fun d => decide (tblGet 0 z.rst.dieDown d ≠ 0)) = true ↔ unitDown z kind i := by
  simp only [List.any_eq_true, decide_eq_true_iff, unitDown]

theorem anyAbsent_iff : ((kindDie kind i).any fun d => !z.diePresent d) = true ↔ unitAbsent z kind i := by
  simp only [List.any_eq_true, Bool.not_eq_true', unitAbsent]

theorem resetResult_past (h : kindCount kind ≤ i) : resetResult z kind i = 2 := if_pos h

theorem resetResult_down (h : i < kindCount kind) (hd : unitDown z kind i) : resetResult z kind i = 3 :=
  (if_neg (Nat.not_le.2 h)).trans (if_pos (anyDown_iff.2 hd))

theorem resetResult_absent (h : i < kindCount kind) (hd : ¬ unitDown z kind i) (ha : unitAbsent z kind i) : resetResult z kind i = 2 :=
  (if_neg (Nat.not_le.2 h)).trans ((if_neg fun hc => hd (anyDown_iff.1 hc)).trans (if_pos (anyAbsent_iff.2 ha)))

theorem resetResult_ok (h : i < kindCount kind) (hd : ¬ unitDown z kind i) (ha : ¬ unitAbsent z kind i)
    (h4 : kind = 4 → tblGet 0 z.rst.dieDown i = 0) : resetResult z kind i = 0 :=
  (if_neg (Nat.not_le.2 h)).trans ((if_neg fun hc => hd (anyDown_iff.1 hc)).trans ((if_neg fun hc => ha (anyAbsent_iff.1 hc)).trans
    (if_neg fun hc => hc.2 (h4 hc.1))))

end

/-! ### The steps of a reset -/

/-- The work of a unit ends with SEVERED. -/
def unitDropped (kind i : Nat) (s : State) : State := dropWork (unitMasters kind i) 0x0D s

section
variable (i : Nat) (s : State)

theorem unitReset_core : unitReset 0 i s = holdUnit (8 + i) (sever (16 + i) (unitDropped 0 i s)) := by
  unfold unitReset
  simp only [if_false, if_true, unitCrossing, OfNat.zero_ne_ofNat]
  rfl

theorem unitReset_cluster : unitReset 3 i s =
    (List.range 8).foldl (fun u j => holdUnit (8 + 8 * i + j) u) (holdUnit i (sever (80 + i) (unitDropped 3 i (dropFronts i 0x0D s)))) := by
  unfold unitReset
  simp only [Nat.reduceEqDiff, if_false, if_true, unitCrossing]
  rfl

theorem unitReset_pipe : unitReset 5 i s = sever (5 + i) (unitDropped 5 i (dropPipe i s)) := by
  unfold unitReset
  simp only [Nat.reduceEqDiff, if_false, if_true, unitCrossing]
  rfl

theorem unitReset_engine : unitReset 7 i s = unitDropped 7 i (dropPlan i s) := by
  unfold unitReset
  simp only [Nat.reduceEqDiff, if_false, if_true, unitCrossing]
  rfl

/-- A unit whose reset takes nothing else first. -/
theorem unitReset_plain {kind : Nat} (h : kind = 1 ∨ kind = 2) : unitReset kind i s = unitDropped kind i s := by
  unfold unitReset
  rcases h with rfl | rfl
  all_goals
    simp only [Nat.reduceEqDiff, if_false, unitCrossing, OfNat.one_ne_ofNat]
    rfl

theorem unitReset_crossing {kind x : Nat} (h : kind = 6 ∨ kind = 8) (hx : unitCrossing kind i = some x) :
    unitReset kind i s = sever x (unitDropped kind i s) := by
  unfold unitReset
  rw [hx]
  rcases h with rfl | rfl
  all_goals
    simp only [Nat.reduceEqDiff, if_false, OfNat.ofNat_ne_zero]
    rfl

end

/-! ### The end of a reset -/

section
variable {r : ClearResult} {s : State} {kind i : Nat}

/-- The reset is over. -/
def resetOver (s : State) : State := { s with rst := { s.rst with busy := none } }

theorem resetDone_none (h : s.rst.busy = none) : resetDone r s = s := by
  rw [resetDone, h]

theorem resetDone_busy (h : s.rst.busy = some (kind, i)) :
    resetDone r s = if kind = 4 then s else if kind = 8 then resetOver s else resume (resetClears kind i r (resetOver s)) := by
  rw [resetDone, h]
  rfl

theorem resetDone_unit (h : s.rst.busy = some (kind, i)) (h4 : kind ≠ 4) (h8 : kind ≠ 8) :
    resetDone r s = armRetry (goOn (resetClears kind i r (resetOver s))) :=
  (resetDone_busy h).trans ((if_neg h4).trans (if_neg h8))

/-- The units of a cluster go from one state of their power to another. -/
def clusterPowers (i : Nat) (old new : UnitPower) (s : State) : State :=
  (i :: (List.range 8).map fun j => 8 + 8 * i + j).foldl (fun v k => if v.power k = old then v.setPower k new else v) s

/-- The masters of a cluster leave the pin map. -/
def clusterUnpinned (i : Nat) (s : State) : State :=
  s.onSec fun x => { x with
    pinned := x.pinned.filter fun y => !(clusterMasters i).contains y, logged := x.logged.filter fun y => !(clusterMasters i).contains y }

theorem resetClears_cluster_pass (i : Nat) (s : State) :
    resetClears 3 i .pass s = clusterPowers i .clearing .on (clusterOn i (clusterClear i (clusterUnpinned i s))) := by
  unfold clusterUnpinned
  rw [← eachDo_unpin]
  rfl

theorem resetClears_cluster_fail (i : Nat) (s : State) (h : r ≠ .pass) :
    resetClears 3 i r s = clearFailed i r (clusterPowers i .clearing .failed (clusterUnpinned i s)) := by
  unfold clusterUnpinned
  rw [← eachDo_unpin]
  unfold resetClears
  rw [if_pos rfl]
  cases r with
  | pass => exact absurd rfl h
  | _ => rfl

theorem resetClears_core (i : Nat) (r : ClearResult) (s : State) :
    resetClears 0 i r s =
      let v := releaseRun i r s
      if v.power (8 + i) = .clearing then v.setPower (8 + i) (if r = .pass then .on else .failed) else v :=
  (if_neg (by decide)).trans (if_pos rfl)

theorem resetClears_other (h3 : kind ≠ 3) (h0 : kind ≠ 0) :
    resetClears kind i r s = (unitMasters kind i).foldl (fun v m => releaseRun m r v) s :=
  (if_neg h3).trans (if_neg h0)

end

/-- Settles O57: a GO lands by `regWrite4_prim`, its result decides; a unit's reset and its end are the sequences of
their steps. -/
theorem unitsAreReset : Obligations.UnitsAreReset := by
  unfold Obligations.UnitsAreReset
  refine ⟨fun fn i s kind c hq hc => ?_, fun i s => ⟨unitReset_core i s, unitReset_plain i s (.inl rfl),
    unitReset_plain i s (.inr rfl), unitReset_cluster i s, unitReset_pipe i s, unitReset_crossing i s (.inl rfl) rfl, unitReset_engine i s,
    unitReset_crossing i s (.inr rfl) rfl, fun k => rfl⟩, fun ms st s => rfl, fun r s => ?_⟩
  · intro old touches u z res count dies down absent
    have hgo : exec c s = .next (regWrite4 fn.val 0x010000 (w32 (rstCode kind i + 2 ^ 30)) s) := by
      rcases hc with ⟨rfl, rfl⟩ | ⟨rfl, rfl⟩ | ⟨rfl, rfl⟩ | ⟨rfl, rfl⟩ | ⟨rfl, rfl⟩ | ⟨rfl, rfl⟩ | ⟨rfl, rfl⟩ | ⟨rfl, rfl⟩ | ⟨rfl, rfl⟩ <;> rfl
    have ends {w : State} (h : regWrite4 fn.val 0x010000 (w32 (rstCode kind i + 2 ^ 30)) s = w) : exec c s = .next w :=
      hgo.trans (congrArg Host.Outcome.next h)
    have hch : (newValue rstRow .primary old (w32 (rstCode kind i + 2 ^ 30)) &&& rstRow.rwk) ≠ (old &&& rstRow.rwk) ↔ touches = true :=
      (rstTouches (rstCode_lt kind i)).trans decide_eq_true_iff.symm
    refine ⟨fun h0 => ends (regWrite4_virtual _ hq h0 blockAt_rst rst_virtual (by simp)), fun h0 ht hl => ends ?_, fun h0 hl => ?_⟩
    · rw [h0]
      exact regWrite4_locked (h0 ▸ hq) blockAt_rst regAt_rst (by decide) (by simp) rfl rfl (hch.2 ht) hl
    have hu : unlockUsed .rst ((newValue rstRow .primary old (w32 (rstCode kind i + 2 ^ 30)) &&& rstRow.rwk) ≠ (old &&& rstRow.rwk)) s = u :=
      if_congr hch rfl rfl
    have hland : regWrite4 fn.val 0x010000 (w32 (rstCode kind i + 2 ^ 30)) s =
        if z.rst.busy.isSome = true then z else resetStart kind.val i.toNat z := by
      have h := regWrite4_passes (v := w32 (rstCode kind i + 2 ^ 30)) (h0 ▸ hq) blockAt_rst regAt_rst (by decide) (by simp) rfl rfl
        fun hc => hl (hch.1 hc)
      rw [h0, h, hu]
      exact resetEffect_go kind i s u
    have hrst : z.rst = s.rst := by
      change u.rst = s.rst
      simp only [u]
      split_ifs <;> rfl
    have hunit : z.unit = s.unit := by
      change u.unit = s.unit
      simp only [u]
      split_ifs <;> rfl
    have hdown : unitDown z kind.val i.toNat ↔ down := by
      unfold unitDown
      rw [hrst]
    have habsent : unitAbsent z kind.val i.toNat ↔ absent := by
      have hp (d : Nat) : z.diePresent d = s.diePresent d := by rw [State.diePresent, hunit]; rfl
      unfold unitAbsent
      simp only [hp]
      rfl
    have started (hb : s.rst.busy = none) {w : State} (h : resetStart kind.val i.toNat z = w) : exec c s = .next w :=
      ends (hland.trans ((if_neg (by rw [hrst, hb]; decide)).trans h))
    refine ⟨fun hb => ends (hland.trans (if_pos ?_)), fun hb hi => started hb (resetStart_refused (resetResult_past hi) (by decide)),
      fun hb hi hd => started hb (resetStart_refused (resetResult_down hi (hdown.2 hd)) (by decide)),
      fun hb hi hd ha => started hb (resetStart_refused (resetResult_absent hi (fun h => hd (hdown.1 h)) (habsent.2 ha)) (by decide)),
      fun hb hi hd ha h4 => ?_⟩
    · rw [hrst]
      exact Option.isSome_iff_ne_none.2 hb
    · have hok := resetStart_ok (resetResult_ok hi (fun h => hd (hdown.1 h)) (fun h => ha (habsent.1 h)) fun h => hrst ▸ h4 h)
      refine ⟨fun hk => started hb (hok.trans ((if_pos hk).trans ?_)), fun hk => started hb (hok.trans (if_neg hk))⟩
      rw [hk]
      rfl
  · intro u ends
    have done {kind i : Nat} {w : State} (hb : s.rst.busy = some (kind, i)) (h4 : kind ≠ 4) (h8 : kind ≠ 8) (h : resetClears kind i r u = w) : ends w :=
      congrArg Host.Outcome.next ((resetDone_unit hb h4 h8).trans (congrArg (fun x => armRetry (goOn x)) h))
    refine ⟨fun h => congrArg Host.Outcome.next ?_, fun i hb => congrArg Host.Outcome.next (resetDone_busy hb), fun i hb => ?_,
      fun i hb => done hb (by decide) (by decide) (resetClears_core i r u),
      fun k i hb h0 h3 h4 h8 => done hb h4 h8 (resetClears_other h3 h0)⟩
    · rcases h with h | ⟨i, h⟩
      · exact resetDone_none h
      · exact resetDone_busy h
    · intro v each
      refine ⟨fun hr => done hb (by decide) (by decide) ?_, fun hr => done hb (by decide) (by decide) (resetClears_cluster_fail i u hr)⟩
      rw [hr]
      exact resetClears_cluster_pass i u

end Sys2Proof.Machine
end


section
/-! ## Links, crossings, die checks and time copies (spec/01, spec/15) -/

namespace Sys2Proof.Machine
open Sys2Proof

/-! ### Links -/

section
variable {n : Nat} {s : State}

/-- The count of the failed replays of a link's flit. -/
def replaysAre (n k : Nat) (s : State) : State := { s with rst := { s.rst with replays := tblSet 0 s.rst.replays n k } }

theorem replayLimit_below (h : tblGet 0 s.rst.replays n < 16) : replayLimit n s = s := if_pos h

theorem replayLimit_base (h : 16 ≤ tblGet 0 s.rst.replays n) (hn : n < 2) : replayLimit n s = dieReset n 2 (sever n (replaysAre n 0 s)) :=
  (if_neg (Nat.not_lt.2 h)).trans (if_pos hn)

theorem replayLimit_other (h : 16 ≤ tblGet 0 s.rst.replays n) (hn : 2 ≤ n) : replayLimit n s = sever n (replaysAre n 0 s) :=
  (if_neg (Nat.not_lt.2 h)).trans (if_neg (Nat.not_lt.2 hn))

end

/-! ### Crossings -/

section
variable {x : Nat} {s : State}

/-- The crossing is SEVERED, and its count has taken a free value. -/
def crossingLost (x : Nat) (s : State) : State :=
  { s.setCrossing x { severed := true, epoch := (s.crossing x).epoch } with free := s.free + 1 }

theorem sever_severed (h : (s.crossing x).severed = true) : sever x s = s := if_pos h

theorem sever_open (h : (s.crossing x).severed = false) :
    sever x s = logError 0x30 (crossingSource x) 0 x (Config.freeValue s.free).toNat false (crossingLost x s) := by
  unfold sever
  rw [if_neg (by simp [h])]
  rfl

theorem sever_plain (h : (s.crossing x).severed = false) (hp : logsPlainly s (crossingSource x) 3) :
    sever x s = withLog 0x30 3 (crossingSource x) 0 x (Config.freeValue s.free).toNat (crossingLost x s) :=
  (sever_open h).trans (logError_plain (code := 0x30) (s := crossingLost x s) 0 x _ hp)

theorem reopen_not (h : (s.crossing x).severed = false ∨ sidesUp s x = false) : reopen x s = s :=
  if_neg fun ⟨hx, hs⟩ => by rcases h with h | h <;> simp [h] at hx hs

theorem reopen_up (h : (s.crossing x).severed = true) (hs : sidesUp s x = true) :
    reopen x s = armRetry (goOn (s.setCrossing x { severed := false, epoch := (s.crossing x).epoch + 1 })) := if_pos ⟨h, hs⟩

end

/-! ### Die checks -/

section
variable {d : Nat} {r : DieCheck} {s : State}

/-- The die's reset is over. -/
def dieUp (d : Nat) (s : State) : State :=
  { s with rst := { s.rst with dieDown := tblSet 0 s.rst.dieDown d 0, busy := if s.rst.busy = some (4, d) then none else s.rst.busy } }

theorem dieCheck_up (h : tblGet 0 s.rst.dieDown d = 0) : dieCheck d r s = s := if_pos h

theorem dieCheck_fails (h : tblGet 0 s.rst.dieDown d ≠ 0) (hr : dieReason r ≠ 0) :
    dieCheck d r s = armRetry (goOn (dieExclude d (dieReason r) (dieIdentify d r (dieUp d s)))) :=
  (if_neg h).trans (if_pos hr)

theorem dieCheck_passes (h : tblGet 0 s.rst.dieDown d ≠ 0) (hr : dieReason r = 0) :
    dieCheck d r s = reopen 2 (reopen d
      (dieEnter d (eachDo ((upTo 0x72).filter fun m => onDie d m) unpinMaster (dieIdentify d r (dieUp d s))))) :=
  (if_neg h).trans (if_neg (not_not.2 hr))

end

/-- The reason of an exclusion is the first check that failed. -/
theorem dieReason_eq (r : DieCheck) :
    dieReason r = if r.answers = false then 1 else if r.revOk = false then 2 else if r.fuseOk = false then 5
      else if r.digestOk = false then 3 else if r.clearOk = false then 4 else 0 := by
  simp only [dieReason, Bool.not_eq_true']

/-! ### Time -/

section
variable {d copy : Nat} {s : State}

/-- How far a die's copy of the time is off. -/
def copySkew (copy : Nat) (s : State) : Int := (copy : Int) - s.time

/-- The skew of a die as it is shown. -/
def skewShown (d copy : Nat) (s : State) : State :=
  { s with rst := { s.rst with skew := tblSet 0 s.rst.skew d (max (-128) (min 127 (copySkew copy s))) } }

/-- A die's copy is corrected, and the correction is logged. -/
def copyCorrected (d copy : Nat) (s : State) : State :=
  logError 0x42 0x87 0 d (copySkew copy s % 18446744073709551616).toNat false
    ((skewShown d copy s).onRst fun r => { r with
      resyncs := min 255 (r.resyncs + 1), marks := (r.marks ++ [(d, s.time)]).filter fun m => s.time < m.2 + 1000000000 })

theorem dieSync_near (h : (copySkew copy s).natAbs ≤ 4) : dieSync d copy s = skewShown d copy s := if_pos h

theorem dieSync_far (h : ¬ (copySkew copy s).natAbs ≤ 4) :
    dieSync d copy s = if 3 < ((copyCorrected d copy s).rst.marks.filter fun m => m.1 = d).length
      then dieReset d 3 (copyCorrected d copy s) else copyCorrected d copy s := if_neg h

/-- Die 0 is compared first; die 1 where the pulse reaches it. -/
theorem timeSync_eq (c0 c1 : Nat) (s : State) :
    timeSync c0 c1 s =
      let u := if s.diePresent 0 = true ∧ (s.crossing 0).severed = false then dieSync 0 c0 s else s
      if u.diePresent 1 = true ∧ (tblGet 0 s.unit.excluded 0 ≠ 0 ∨ (s.diePresent 0 = true ∧ (s.crossing 2).severed = false))
      then dieSync 1 c1 u else u := by
  unfold timeSync
  simp only [Bool.not_eq_true', Bool.or_eq_true, Bool.and_eq_true, decide_eq_true_iff]

end

/-- Settles O58: each event of a link, a crossing, a die's checks or a pulse is one equation by its cases. -/
theorem linksAndDiesRecover : Obligations.LinksAndDiesRecover := by
  unfold Obligations.LinksAndDiesRecover
  refine ⟨fun l s => ?_, fun x s => ⟨sever_severed, sever_open, sever_plain⟩,
    fun x s => ⟨fun h => congrArg Host.Outcome.next (reopen_not h), fun h hs => congrArg Host.Outcome.next (reopen_up h hs)⟩, fun d r s => ?_⟩
  · intro n count
    have hn : linkNum l = n := by cases l <;> rfl
    have replay (ok : Bool) {w : State} (h : flitReplay n ok s = w) : exec (.flitReplay l ok) s = .next w :=
      congrArg Host.Outcome.next ((congrArg (flitReplay · ok s) hn).trans h)
    have limit {w : State} (h : replayLimit n s = w) : exec (.linkReplayLimit l) s = .next w :=
      congrArg Host.Outcome.next ((congrArg (replayLimit · s) hn).trans h)
    refine ⟨replay true rfl, replay false rfl, fun h => limit (replayLimit_below h), fun h hl => ?_, fun d h hl => ?_⟩
    · subst hl
      exact limit (replayLimit_other h (le_refl 2))
    · subst hl
      exact limit (replayLimit_base h d.isLt)
  · intro u
    refine ⟨fun h => congrArg Host.Outcome.next (dieCheck_up h), fun h => ⟨fun hr => congrArg Host.Outcome.next (dieCheck_fails h hr),
      fun hr => congrArg Host.Outcome.next (dieCheck_passes h hr)⟩, fun r => ?_,
      fun t c0 c1 s0 => congrArg Host.Outcome.next (timeSync_eq c0 c1 _), fun d copy s => ⟨dieSync_near, dieSync_far⟩⟩
    rw [dieReason_eq]
    cases r.answers <;> cases r.revOk <;> cases r.fuseOk <;> cases r.digestOk <;> cases r.clearOk <;> decide

end Sys2Proof.Machine
end


section
/-! ## Bring-up, device resets and boundary scan (spec/16) -/

namespace Sys2Proof.Machine
open Sys2Proof

/-! ### LOAD -/

/-- The row of MON_CMD. -/
def monCmdRow : RegDef := regRow 0x0010 1 0x0 0x0 0x0 0xFFFFFFFF 0x0 false false

theorem regAt_monCmd : regAt .mon 0x10 = some (monCmdRow, 0) := rfl

theorem blockAt_monCmd : blockAt 0x0F0010 = some (.mon, 0x10) := by decide

theorem mon_virtual : ∀ d ∈ blockRegs .mon, d.vf = false := by
  change ∀ d ∈ regsMon, d.vf = false
  decide

/-- A block that the host reaches before STAGE READY takes a write at once where the function arrives and the package
is awake. -/
theorem regWrite4_rom {s : State} {fn : Fn} {off rel : Nat} {b : BlockId} (val : Word) (hr : romBlock b = true) (hm : s.reg.mismatch = [])
    (hf : fnArrives s fn.val = true) (ha : awake s = true) (hb : blockAt off = some (b, rel)) (hoff : off < 2 ^ 20) :
    regWrite4 fn.val off val s = landWrite b rel fn.val off val s := by
  have hc : regCore fn.val off val s = landWrite b rel fn.val off val s := by
    rw [regCore, hb]
    simp only [fn_ne_monitor, agentFn_fn, if_false]
    rw [if_neg (show ¬ (fn.val ≠ 0 ∧ 2 ^ 20 ≤ off) from fun h => absurd h.2 (Nat.not_le.2 hoff)), hostWrite_awake ha]
    simp [hr, hf]
  simp [regWrite4, hc, hm]

theorem loadEffect_go (w : RegWr) (s : State) (h : w.val.getLsbD 0 = true) :
    loadEffect w s = if s.boot.step = .up ∧ (s.boot.stage = .romWait ∨ s.boot.stage = .bootFail) then
      s.onBoot fun b => { b with stage := .verifying, tries := Nat.min 255 (b.tries + 1) } else s :=
  if_congr (by rw [bit_getLsbD, h]; simp) rfl rfl

theorem loadWritten {fn : Fn} {v : Word} {s : State} (hm : s.reg.mismatch = []) (hf : fnArrives s fn.val = true) (ha : awake s = true) :
    regWrite4 fn.val 0x0F0010 (v ||| 1) s =
      if fn.val = 0 ∧ s.boot.step = .up ∧ (s.boot.stage = .romWait ∨ s.boot.stage = .bootFail) then
        s.onBoot fun b => { b with stage := .verifying, tries := Nat.min 255 (b.tries + 1) } else s := by
  rw [regWrite4_rom _ rfl hm hf ha blockAt_monCmd (by decide)]
  by_cases h0 : fn.val = 0
  · rw [landWrite_win (win := .primary) (v ||| 1) hm (windowOf_prim (by decide)) (by decide) (by simp) blockAt_monCmd regAt_monCmd (.inl h0) rfl]
    refine (if_neg (by simp [monCmdRow, regRow])).trans ((loadEffect_go _ s ?_).trans (if_congr (by simp [h0]) rfl rfl))
    change (v ||| 1).getLsbD 0 = true
    simp
  · rw [landWrite_none _ s h0 blockAt_monCmd mon_virtual (by simp), if_neg fun h => h0 h.1]

/-! ### The image -/

section
variable {s : State} {b : List Byte}

/-- The fields of an image's header are well formed. -/
def imageShaped (s : State) (b : List Byte) : Prop :=
  fld b 0 4 = 0x4E4F4D42 ∧ fld b 4 2 = 1 ∧ fld b 6 2 ≤ 3 ∧ fld b 8 4 ≤ 63 ∧ fld b 12 4 < 4 ∧ fld b 16 8 + 4096 = b.length ∧ zeros b 72 56 = true ∧
    zeros b 3533 563 = true ∧ (fld b 12 4 % 2 = 1 → lifecycle s = 0)

theorem imageMisshaped_iff (s : State) (b : List Byte) :
    (fld b 0 4 ≠ 0x4E4F4D42 ∨ fld b 4 2 ≠ 1 ∨ 3 < fld b 6 2 ∨ 63 < fld b 8 4 ∨ 4 ≤ fld b 12 4 ∨ fld b 16 8 + 4096 ≠ b.length ∨
      (!zeros b 72 56) = true ∨ (!zeros b 3533 563) = true ∨ (bit (fld b 12 4) 0 = true ∧ lifecycle s ≠ 0)) ↔ ¬ imageShaped s b := by
  have hodd : bit (fld b 12 4) 0 = true ↔ fld b 12 4 % 2 = 1 := by simp [bit]
  rw [imageShaped, hodd]
  simp only [not_and_or, Classical.not_imp, not_le, not_lt, Bool.not_eq_true', Bool.not_eq_true, ne_eq]

theorem imageCheck_misshaped (h : ¬ imageShaped s b) : imageCheck s b = 2 := if_pos ((imageMisshaped_iff s b).2 h)

/-- The checks of an image whose header is well formed. -/
theorem imageCheck_shaped (h : imageShaped s b) :
    imageCheck s b =
      if lifecycle s ≠ 0 ∧ bit Config.keyRevoke.toNat (fld b 6 2) = true then 7
      else if fld b 8 4 < svnMin s then 6
      else if (!Config.ecdsaVerifies (imageKey s (fld b 6 2)) (Config.sha384 (b.take 128)) (slice b 128 96)) = true then 4
      else if (!Config.mldsaVerifies (imageKey s (fld b 6 2)) (b.take 128) (slice b 224 3309)) = true then 5
      else if Config.sha384 (b.drop 4096) ≠ slice b 24 48 then 3 else 0 :=
  if_neg fun hc => (imageMisshaped_iff s b).1 hc h

theorem imageCheck_revoked (h : imageShaped s b) (hl : lifecycle s ≠ 0) (hr : bit Config.keyRevoke.toNat (fld b 6 2) = true) : imageCheck s b = 7 :=
  (imageCheck_shaped h).trans (if_pos ⟨hl, hr⟩)

theorem imageCheck_old (h : imageShaped s b) (hr : lifecycle s = 0 ∨ bit Config.keyRevoke.toNat (fld b 6 2) = false) (hv : fld b 8 4 < svnMin s) :
    imageCheck s b = 6 := by
  refine (imageCheck_shaped h).trans ((if_neg fun ⟨hl, hb⟩ => ?_).trans (if_pos hv))
  rcases hr with hr | hr
  · exact hl hr
  · simp [hr] at hb

theorem imageCheck_zero (h : imageCheck s b = 0) :
    imageShaped s b ∧ svnMin s ≤ fld b 8 4 ∧ Config.sha384 (b.drop 4096) = slice b 24 48 ∧
      Config.ecdsaVerifies (imageKey s (fld b 6 2)) (Config.sha384 (b.take 128)) (slice b 128 96) = true ∧
      Config.mldsaVerifies (imageKey s (fld b 6 2)) (b.take 128) (slice b 224 3309) = true := by
  have hs : imageShaped s b := by
    by_contra hc
    rw [imageCheck_misshaped hc] at h
    exact absurd h (by decide)
  rw [imageCheck_shaped hs] at h
  split_ifs at h with _ hv he hm hd
  simp only [Bool.not_eq_true', Bool.not_eq_false] at he hm
  exact ⟨hs, Nat.not_lt.1 hv, not_not.1 hd, he, hm⟩

end

/-- The image does not boot. -/
def bootFails (r : Nat) (s : State) : State := s.onBoot fun x => { x with stage := .bootFail, result := r }

/-- What the read of the image gives. -/
def imageRead (z : State) : Dev (List Byte × State) → State
  | .wait => z
  | .failed => bootFails 1 z
  | .done (b, u) => if imageCheck u b = 0 then bootImage b u else bootFails (imageCheck u b) u

section
variable {io : HostIO} {s : State}

theorem verifyDone_idle (h : s.boot.stage ≠ .verifying) : verifyDone io s = s := if_pos h

theorem verifyDone_eq (h : s.boot.stage = .verifying) :
    verifyDone io s =
      let z := applyIO io s
      let base := z.rawBase 0 0x0F0004 0x0F0008
      let n := (z.raw 0 0x0F000C).toNat
      if z.boot.result = 8 then bootFails 8 z
      else if n ≤ 4096 ∨ 16777216 < n ∨ base < 2 ^ 48 then bootFails 2 z
      else imageRead z (devRead base n z) := by
  unfold verifyDone
  rw [if_neg (not_not.2 h)]
  dsimp only
  generalize applyIO io s = z
  generalize devRead _ _ z = r
  cases r <;> rfl

theorem boot_applyIO (io : HostIO) (s : State) : (applyIO io s).boot = s.boot := by
  obtain ⟨m, hm⟩ := applyIO_onlyMem io s
  rw [hm]

end

/-! ### Device resets -/

/-- What a device reset takes. -/
def resetLost (full : Bool) (s t : State) : Prop :=
  t.mmu = { State.reset.mmu with serial := s.mmu.serial } ∧ t.fe = State.reset.fe ∧ t.fen = State.reset.fen ∧
    t.shd = State.reset.shd ∧ t.rnd = State.reset.rnd ∧ t.tns = State.reset.tns ∧ t.cmp = State.reset.cmp ∧ t.err = State.reset.err ∧
    t.unit = State.reset.unit ∧ t.rst = State.reset.rst ∧ (∀ c ∈ t.mem.cells, 281474976710656 ≤ c.1) ∧ t.sec.lcNow = s.sec.lcBurn ∧ t.sec.lcBurn = s.sec.lcBurn ∧
    t.sec.svnBurn = s.sec.svnBurn ∧ t.pending = s.pending ∧ (full = true → t.reg.regs = []) ∧
    (full = false → t.reg.regs = s.reg.regs.filter fun e => e.1 = 0x030020 ∨ e.1 = 0x030024)

theorem deviceReset_lost (full : Bool) (s : State) : resetLost full s (deviceReset full s) := by
  refine ⟨rfl, rfl, rfl, rfl, rfl, rfl, rfl, rfl, rfl, rfl, fun c hc => ?_, rfl, rfl, rfl, rfl, fun h => ?_, fun h => ?_⟩
  · exact of_decide_eq_true (List.mem_filter.1 hc).2
  · subst h
    rfl
  · subst h
    refine List.filter_congr fun e _ => ?_
    simp [slowReg, offWakeCfg, offWakeSts]
    rfl

/-! ### Boundary scan -/

theorem b2n_bit (v i : Nat) : b2n (bit v i) = v / 2 ^ i % 2 := by
  rw [bit]
  rcases Nat.mod_two_eq_zero_or_one (v / 2 ^ i) with h | h <;> simp [h, b2n]

/-- The bits of a register that is shifted in from the first cell on. -/
theorem shiftedIn_bit (l : List Bool) (n i : Nat) (h : i < l.length) :
    l.foldl (fun n b => 2 * n + b2n b) n / 2 ^ i % 2 = b2n (l.getD (l.length - 1 - i) false) := by
  induction l using List.reverseRecOn generalizing i with
  | nil => exact absurd h (Nat.not_lt_zero i)
  | append_singleton l b ih =>
    have hb : b2n b ≤ 1 := by cases b <;> decide
    rw [List.foldl_append, List.foldl_cons, List.foldl_nil, List.length_append, List.length_singleton]
    generalize hF : l.foldl (fun n b => 2 * n + b2n b) n = F
    cases i with
    | zero =>
      rw [List.getD_append_right _ _ _ _ (by omega)]
      simp
      omega
    | succ i =>
      rw [List.length_append, List.length_singleton] at h
      have hdiv : (2 * F + b2n b) / 2 ^ (i + 1) = F / 2 ^ i := by
        rw [Nat.pow_succ', ← Nat.div_div_eq_div_mul, show (2 * F + b2n b) / 2 = F by omega]
      rw [hdiv, ← hF, ih i (by omega), List.getD_append _ _ _ _ (by omega), show l.length + 1 - 1 - (i + 1) = l.length - 1 - i by omega]

/-- The cells of the boundary register, the first one first. -/
def boundaryCells (pins out : Nat) : List Bool :=
  (upTo 18).map (bit pins) ++ ((upTo 6).flatMap fun i => [bit pins (18 + i), bit out (2 * i), bit out (2 * i + 1)]) ++ (upTo 4).map fun i => bit pins (24 + i)

theorem boundary_bit (pins out : Nat) {i : Nat} (h : i < 40) : boundary pins out / 2 ^ i % 2 = b2n ((boundaryCells pins out).getD (39 - i) false) :=
  shiftedIn_bit (boundaryCells pins out) 0 i h

/-- The last cells are those of the HPD inputs. -/
theorem boundary_hpd (pins out : Nat) {i : Nat} (h : i < 4) : boundary pins out / 2 ^ i % 2 = pins / 2 ^ (27 - i) % 2 := by
  rw [boundary_bit pins out (by omega), ← b2n_bit]
  interval_cases i <;> rfl

/-- The first cells are those of the inputs. -/
theorem boundary_input (pins out : Nat) {i : Nat} (h : i < 18) : boundary pins out / 2 ^ (39 - i) % 2 = pins / 2 ^ i % 2 := by
  rw [boundary_bit pins out (by omega), ← b2n_bit]
  interval_cases i <;> rfl

section
variable {code : Byte} {dr : Nat} {s : State}

/-- An instruction and its data register are current. -/
def tapLoaded (code : Byte) (dr : Nat) (s : State) : State := s.onTap fun t => { t with ir := code, dr }

theorem tapLoad_stays (h : s.tap.ir ≠ 3 ∨ code = 3 ∨ s.boot.step = .dark) : tapLoad code dr s = tapLoaded code dr s := by
  refine if_neg fun hc => ?_
  simp only [Bool.and_eq_true, extesting, decide_eq_true_iff] at hc
  obtain ⟨⟨hi, hn⟩, hd⟩ := hc
  exact h.elim (fun h => h hi) fun h => h.elim (fun h => hn h) fun h => hd h

theorem tapLoad_leaves (h : s.tap.ir = 3) (hc : code ≠ 3) (hd : s.boot.step ≠ .dark) : tapLoad code dr s = warmReset false (tapLoaded code dr s) := by
  refine if_pos ?_
  simp only [Bool.and_eq_true, extesting, decide_eq_true_iff]
  exact ⟨⟨h, hc⟩, hd⟩

/-- The identification register with its powers of two left open: the kernel would count the products of the revision
down one by one. The hypothesis gives the definition the height of `idcode`, so that both unfold together. -/
def idcodeWith (rev p q : Nat) (_ : p = 2 ^ 28) : Nat := rev * p + 0x9640 * q + 0x5D3 * 2 + 1

theorem idcode_idcodeWith : idcode = idcodeWith Config.baseRev.toNat (2 ^ 28) (2 ^ 12) rfl := rfl

theorem idcodeWith_eq (rev : Nat) {p q p' q' : Nat} (h : p = 2 ^ 28) (hp : p = p') (hq : q = q') :
    idcodeWith rev p q h = rev * p' + 0x9640 * q' + 0x5D3 * 2 + 1 := by
  subst hp hq
  rfl

theorem idcode_eq : idcode = Config.baseRev.toNat * 268435456 + 0x9640 * 4096 + 0x5D3 * 2 + 1 :=
  idcode_idcodeWith.trans (idcodeWith_eq Config.baseRev.toNat (p' := 268435456) (q' := 4096) rfl (by norm_num) (by norm_num))

theorem tapReset_eq : exec .tapReset s = .next (tapLoad 1 idcode s) := rfl

theorem tapIdcode_eq : exec .tapIdcode s = .next (tapLoad 1 idcode s) := rfl

theorem byte_eq_iff (code : Byte) (n : Nat) (h : n < 256) : code = BitVec.ofNat 8 n ↔ code.toNat = n := by
  rw [← BitVec.toNat_inj, BitVec.toNat_ofNat, Nat.mod_eq_of_lt h]

theorem bypassCode_iff (code : Byte) : bypassCode code.toNat = true ↔ code = 0 ∨ code = 0xFF ∨ (3 < code.toNat ∧ code.toNat < 0x80) := by
  have h0 := byte_eq_iff code 0 (by decide)
  have h255 := byte_eq_iff code 255 (by decide)
  simp only [bypassCode, Bool.or_eq_true, Bool.and_eq_true, decide_eq_true_iff]
  change _ ↔ code = BitVec.ofNat 8 0 ∨ code = BitVec.ofNat 8 255 ∨ _
  rw [h0, h255]
  omega

/-- A code of a vendor instruction. -/
def vendorCode (code : Byte) : Prop := 0x80 ≤ code.toNat ∧ code ≠ 0xFF

theorem notVendor_iff (code : Byte) : (code.toNat < 0x80 ∨ code.toNat = 0xFF) ↔ ¬ vendorCode code := by
  have h255 := byte_eq_iff code 255 (by decide)
  change _ ↔ ¬ (0x80 ≤ code.toNat ∧ code ≠ BitVec.ofNat 8 255)
  rw [ne_eq, h255]
  omega

/-- What a vendor instruction does. -/
def vendorDone (code : Byte) (s : State) : State :=
  if code.toNat < 0x80 ∨ code.toNat = 0xFF then s
  else if debugLevel s < 3 then tapLoad code 0 s
  else tapLoad code (Config.freeValue s.free).toNat { s with free := s.free + 1 }

theorem vendorDone_eq : exec (.tapVendorInstr code) s = .next (vendorDone code s) := rfl

theorem vendorDone_other (h : ¬ vendorCode code) : vendorDone code s = s := if_pos ((notVendor_iff code).2 h)

theorem vendorDone_vendor (h : vendorCode code) :
    vendorDone code s = if debugLevel s < 3 then tapLoad code 0 s
      else tapLoad code (Config.freeValue s.free).toNat { s with free := s.free + 1 } := if_neg fun hc => (notVendor_iff code).1 hc h

end

/-- Settles O59: each event of bring-up by the step it finds; a device reset field by field; an instruction of the TAP
by its code. -/
theorem bringUpAndScan : Obligations.BringUpAndScan := by
  unfold Obligations.BringUpAndScan
  refine ⟨fun s => ?_, fun s => ?_⟩
  · intro on
    refine ⟨fun straps => rfl, rfl, congrArg Host.Outcome.next (ite_not _ _ _), congrArg Host.Outcome.next (ite_not _ _ _), rfl, ?_, fun fn v hm hf ha =>
      congrArg Host.Outcome.next (loadWritten hm hf ha), fun io => ?_, fun b => ⟨imageCheck_misshaped, imageCheck_revoked, imageCheck_old,
      imageCheck_zero⟩, fun d0 d1 => ⟨fun h => congrArg Host.Outcome.next (if_pos h), fun h => congrArg Host.Outcome.next (if_neg (not_not.2 h))⟩, ?_⟩
    · refine congrArg Host.Outcome.next (if_congr ?_ rfl rfl)
      simp only [Bool.not_eq_true']
    · intro z fails base n
      have hres : z.boot.result = s.boot.result := by rw [boot_applyIO]
      have ends (h : s.boot.stage = .verifying) {w : State} (hw : (if z.boot.result = 8 then bootFails 8 z
          else if n ≤ 4096 ∨ 16777216 < n ∨ base < 2 ^ 48 then bootFails 2 z else imageRead z (devRead base n z)) = w) :
          exec (.imageVerifyDone io) s = .next w := congrArg Host.Outcome.next ((verifyDone_eq h).trans hw)
      refine ⟨fun h => congrArg Host.Outcome.next (verifyDone_idle h), fun h hr => ends h (if_pos (hres.trans hr)),
        fun h hr hb => ends h ((if_neg fun hc => hr (hres.symm.trans hc)).trans (if_pos hb)), fun h hr h1 h2 h3 => ?_⟩
      have read_is {r : Dev (List Byte × State)} (hd : devRead base n z = r) {w : State} (hw : imageRead z r = w) :
          exec (.imageVerifyDone io) s = .next w :=
        ends h ((if_neg fun hc => hr (hres.symm.trans hc)).trans ((if_neg (by rintro (hc | hc | hc) <;> omega)).trans
          ((congrArg (imageRead z) hd).trans hw)))
      exact ⟨fun hd => read_is hd rfl, fun hd => read_is hd rfl, fun b u hd hc => read_is hd (if_neg hc), fun b u hd hc => read_is hd (if_pos hc)⟩
    · intro lost cold warm plls
      refine ⟨deviceReset_lost true s, rfl, rfl, deviceReset_lost false s, rfl, rfl, rfl, rfl, rfl, rfl, rfl, fun d => rfl,
        fun h => congrArg Host.Outcome.next (if_pos h), fun h hl => congrArg Host.Outcome.next ((if_neg (by simp [h])).trans (if_neg ?_)),
        fun h hl => congrArg Host.Outcome.next ((if_neg (by simp [h])).trans (if_pos hl)), fun h => congrArg Host.Outcome.next (if_neg (by simp [h])),
        fun h => congrArg Host.Outcome.next (if_pos h)⟩
      exact fun hc => Bool.false_ne_true (hl.symm.trans hc)
  · intro load id
    refine ⟨fun code dr => ⟨tapLoad_stays, tapLoad_leaves⟩, tapReset_eq.trans ?_, tapIdcode_eq.trans ?_, fun code h => congrArg Host.Outcome.next (if_pos ((bypassCode_iff code).2 h)),
      fun code h => congrArg Host.Outcome.next (if_neg fun hc => ?_), fun pins pre => ?_, fun code h => vendorDone_eq.trans ?_,
      fun code h hf hl => vendorDone_eq.trans (congrArg Host.Outcome.next ((vendorDone_vendor ⟨h, hf⟩).trans (if_pos hl))),
      fun code h hf hl => vendorDone_eq.trans (congrArg Host.Outcome.next ((vendorDone_vendor ⟨h, hf⟩).trans (if_neg (Nat.not_lt.2 hl)))),
      fun h => congrArg Host.Outcome.next (if_pos h), fun hd hx => congrArg Host.Outcome.next (if_neg fun hc => hc.elim hd hx),
      fun p h => congrArg Host.Outcome.next (pllLock_extest h)⟩
    · rw [idcode_eq]
    · rw [idcode_eq]
    · rcases (bypassCode_iff code).1 hc with rfl | rfl | ⟨h1, h2⟩
      · exact h.elim (fun h => absurd h.1 (by decide)) fun h => absurd h.1 (by decide)
      · exact h.elim (fun h => absurd h.2 (by decide)) fun h => absurd rfl h.2
      · rcases h with h | h <;> omega
    · intro v
      exact ⟨rfl, fun i hi => boundary_hpd pins.toNat v hi, fun i hi => boundary_input pins.toNat v hi⟩
    · refine congrArg Host.Outcome.next (vendorDone_other fun hv => ?_)
      rcases h with h | h
      · exact absurd hv.1 (Nat.not_le.2 h)
      · exact hv.2 h

end Sys2Proof.Machine
end


section
/-! ## The Staquin monitor (spec/16) -/

namespace Sys2Proof.Machine
open Sys2Proof

/-! ### When a command is taken -/

/-- The monitor's controller runs, the strap lets it, and the package is not in S4. -/
def monRuns (s : State) : Prop := s.boot.step = .up ∧ bit s.boot.straps 4 = false ∧ s.pwr.sleep ≠ .s4

/-- The boot ROM runs. -/
def romRuns (s : State) : Prop := s.boot.stage = .romWait ∨ s.boot.stage = .verifying ∨ s.boot.stage = .bootFail

section
variable {s : State} {level : Nat} {rom : Bool} {f : State → State}

theorem monOn_iff : monOn s = true ↔ monRuns s := by
  simp [monOn, monRuns, and_assoc]

theorem inRom_iff : inRom s = true ↔ romRuns s := by
  simp [inRom, romRuns, or_assoc]

/-- A command is above no level that the debug level can have. -/
theorem debugLevel_pos (s : State) : 1 ≤ debugLevel s := by
  unfold debugLevel
  split_ifs <;> omega

theorem monCmd_off (h : ¬ monRuns s) : monCmd level rom f s = s :=
  if_pos ((Bool.not_eq_true' _).mpr ((Bool.not_eq_true _).mp fun hc => h (monOn_iff.1 hc)))

theorem monCmd_on (h : monRuns s) : monCmd level rom f s =
    if (inRom s && !rom) = true then monReply .syntaxErr [] s else if debugLevel s < level then monReply .level [] s else f s :=
  if_neg (by rw [monOn_iff.2 h]; decide)

theorem monCmd_rom (h : monRuns s) (hr : romRuns s) : monCmd level false f s = monReply .syntaxErr [] s :=
  (monCmd_on h).trans (if_pos (by rw [inRom_iff.2 hr]; rfl))

theorem notRom_and (hr : ¬ romRuns s) (b : Bool) : ¬ (inRom s && b) = true := fun hc => hr (inRom_iff.1 (Bool.and_eq_true_iff.1 hc).1)

theorem monCmd_low (h : monRuns s) (hr : ¬ romRuns s) (hl : debugLevel s < level) : monCmd level rom f s = monReply .level [] s :=
  (monCmd_on h).trans ((if_neg (notRom_and hr _)).trans (if_pos hl))

theorem monCmd_runs (h : monRuns s) (hr : ¬ romRuns s) (hl : level ≤ debugLevel s) : monCmd level rom f s = f s :=
  (monCmd_on h).trans ((if_neg (notRom_and hr _)).trans (if_neg (Nat.not_lt.2 hl)))

/-- A command that the ROM takes as well. -/
theorem monCmd_marked (h : monRuns s) (hl : level ≤ debugLevel s) : monCmd level true f s = f s :=
  (monCmd_on h).trans ((if_neg (by simp)).trans (if_neg (Nat.not_lt.2 hl)))

end

/-! ### Tokens -/

section
variable {s : State}

/-- The token that the lines have gathered is taken from them. -/
def tokenTaken (s : State) : State := s.onMon fun m => { m with token := [] }

/-- The answer to END. -/
def tokenAnswered (r : Bool × State) : State := monReply (if r.1 then .ok else .range) [] r.2

theorem tokenEnd_eq (s : State) : tokenEnd s = tokenAnswered (presentToken s.mon.token (tokenTaken s)) := rfl

theorem presentToken_accepted {b : List Byte} (h : tokenOk s b = true) : (presentToken b s).1 = true := by
  rw [presentToken_good h]
  split_ifs <;> rfl

theorem tokenEnd_bad (h : tokenOk s s.mon.token = false) : tokenEnd s = monReply .range [] (nonceSpent (tokenTaken s)) := by
  have h' : tokenOk (tokenTaken s) s.mon.token = false := h
  rw [tokenEnd_eq, presentToken_bad h']
  rfl

theorem tokenEnd_good (h : tokenOk s s.mon.token = true) : tokenEnd s = monReply .ok [] (presentToken s.mon.token (tokenTaken s)).2 := by
  have h' : tokenOk (tokenTaken s) s.mon.token = true := h
  rw [tokenEnd_eq, tokenAnswered, presentToken_accepted h']
  rfl

end

theorem baudDo_eq (n : Nat) (s : State) : baudDo n s =
    if n ∈ [115200, 230400, 460800, 921600, 1500000, 3000000] then (monReply .ok [] s).onMon fun m => { m with baud := n } else monReply .range [] s :=
  if_congr List.contains_iff_mem rfl rfl

theorem fuseVals_length (s : State) : (fuseVals s).length = 1031 := by
  simp [fuseVals, upTo]

theorem fuseVals_last (s : State) : (fuseVals s).getLast? = some 0 := List.getLast?_concat

/-! ### Which block an offset may reach -/

section
variable {s : State} {off rel : Nat} {b : BlockId}

theorem monBlock_nowhere (h : off % 4 ≠ 0 ∨ blockAt off = none) : monBlock s off = (none, .range) := by
  unfold monBlock
  by_cases hm : off % 4 = 0
  · rw [if_neg (not_not.2 hm), h.resolve_left (not_not.2 hm)]
  · exact if_pos hm

theorem monBlock_at (hm : off % 4 = 0) (hb : blockAt off = some (b, rel)) :
    monBlock s off = if (!mapped b rel) = true then (none, .range) else if (s.halted b || blockOff s b) = true then (none, .busy) else (some b, .ok) := by
  unfold monBlock
  rw [if_neg (not_not.2 hm), hb]

theorem monBlock_unmapped (hm : off % 4 = 0) (hb : blockAt off = some (b, rel)) (h : mapped b rel = false) : monBlock s off = (none, .range) :=
  (monBlock_at hm hb).trans (if_pos (by rw [h]; rfl))

theorem monBlock_busy (hm : off % 4 = 0) (hb : blockAt off = some (b, rel)) (h : mapped b rel = true) (hs : s.halted b = true ∨ blockOff s b = true) :
    monBlock s off = (none, .busy) :=
  (monBlock_at hm hb).trans ((if_neg (by rw [h]; decide)).trans (if_pos (Bool.or_eq_true_iff.2 hs)))

theorem monBlock_ok (hm : off % 4 = 0) (hb : blockAt off = some (b, rel)) (h : mapped b rel = true) (hh : s.halted b = false) (ho : blockOff s b = false) :
    monBlock s off = (some b, .ok) :=
  (monBlock_at hm hb).trans ((if_neg (by rw [h]; decide)).trans (if_neg (by rw [hh, ho]; decide)))

end

/-! ### RD and WR -/

section
variable {s u w : State} {a : MonAddr} {n i off : Nat} {vs : List Nat} {c : MonCode} {v : Word} {pa : BitVec 49}

theorem monReadDo_some (h : n ≠ 0) : monReadDo a n s = monReads a n 0 [] s := if_neg h

theorem monReads_val {x : Nat} (h : monReadOne a i u = .val x w) : monReads a (n + 1) i vs u = monReads a n (i + 1) (vs ++ [x]) w := by
  rw [monReads, h]

theorem monReads_bad (h : monReadOne a i u = .bad c w) : monReads a (n + 1) i vs u = monReply c vs w := by
  rw [monReads, h]

/-- RD ends at once when its first word cannot be read. -/
theorem monReadDo_bad (hn : n ≠ 0) (h : monReadOne a 0 s = .bad c w) : monReadDo a n s = monReply c [] w := by
  obtain ⟨k, rfl⟩ := Nat.exists_eq_succ_of_ne_zero hn
  exact (monReadDo_some hn).trans (monReads_bad h)

theorem monReadDo_one {x : Nat} (h : monReadOne a 0 s = .val x w) : monReadDo a 1 s = monReply .ok [x] w :=
  (monReadDo_some one_ne_zero).trans (monReads_val h)

theorem monReadReg_refused (h : monBlock s off = (none, c)) : monReadReg off s = .bad c s := by
  rw [monReadReg, h]

/-- What the read of a counter latches. -/
def monLatched (s : State) : Option CounterReg → State
  | some r => setLatch r s
  | none => s

theorem monReadReg_ok {b : BlockId} (h : monBlock s off = (some b, .ok)) : monReadReg off s = .val (rd s off) (monLatched s (counterAt off)) := by
  rw [monReadReg, h]
  generalize counterAt off = o
  cases o <;> rfl

theorem monWriteDo_refused (h : monBlock s off = (none, c)) : monWriteDo (.bar0 off) v s = monReply c [] s := by
  rw [monWriteDo, h]

theorem monWriteDo_ok {b : BlockId} (h : monBlock s off = (some b, .ok)) : monWriteDo (.bar0 off) v s = monReply .ok [] (regWrite4 monitorAgent off v s) := by
  rw [monWriteDo, h]

theorem memCode_eq (c : FaultCode) : memCode c = if c = .gated then .busy else .range := by
  cases c <;> rfl

/-- What the read of a word of memory gives. -/
def memRead (s : State) : Acc (List Byte) → MonAcc
  | .ok bs s => .val (leNat bs) s
  | .fault c s => .bad (if c = .gated then .busy else .range) s
  | .severed => .bad .busy s
  | .wait => .bad .busy s

/-- What the write of a word of memory gives. -/
def memWritten {α : Type} (s : State) : Acc α → State
  | .ok _ s => monReply .ok [] s
  | .fault c s => monReply (if c = .gated then .busy else .range) [] s
  | .severed => monReply .busy [] s
  | .wait => monReply .busy [] s

theorem monReadMem_range {p : Nat} (h : p % 4 ≠ 0 ∨ loops s p = true) : monReadMem p s = .bad .range s := if_pos h

theorem monReadMem_eq {p : Nat} (hm : p % 4 = 0) (hl : loops s p = false) : monReadMem p s = memRead s (paRead 0 Attr.plain p 4 s) := by
  unfold monReadMem
  rw [if_neg (by simp [hm, hl])]
  generalize paRead 0 Attr.plain p 4 s = r
  cases r with
  | fault c u => exact congrArg (MonAcc.bad · u) (memCode_eq c)
  | _ => rfl

theorem monWriteDo_range (h : pa.toNat % 4 ≠ 0 ∨ loops s pa.toNat = true) : monWriteDo (.phys pa) v s = monReply .range [] s := if_pos h

theorem monWriteDo_mem (hm : pa.toNat % 4 = 0) (hl : loops s pa.toNat = false) :
    monWriteDo (.phys pa) v s = memWritten s (paWrite 0 Attr.plain pa.toNat (natLe 4 v.toNat) s) := by
  unfold monWriteDo
  dsimp only
  rw [if_neg (by simp [hm, hl])]
  generalize paWrite 0 Attr.plain pa.toNat (natLe 4 v.toNat) s = r
  cases r with
  | fault c u => exact congrArg (monReply · [] u) (memCode_eq c)
  | _ => rfl

end

/-- Settles O60: each command is taken by `monCmd_*`, and then is its own function; an access of RD and WR by the block
or the memory that its address names. -/
theorem monitorCommandsAnswer : Obligations.MonitorCommandsAnswer := by
  unfold Obligations.MonitorCommandsAnswer
  intro s say level1 level2 level3 inRom' rom runs
  refine ⟨fun hs i hi => ?_, fun hs hr i hi => ?_, fun hs hr hl i hi => ?_, fun hs hr hl i hi => ?_, fun hs hl => ?_, fun hs hr hl => ?_,
    fun s0 t hst => ?_, fun hs hr hl => ?_, fun hs hr hl => ?_⟩
  · rcases hi with hi | hi | hi | hi | ⟨_, rfl⟩
    · rcases hi with rfl | ⟨_, rfl⟩ <;> exact congrArg Host.Outcome.next (monCmd_off hs)
    · rcases hi with ⟨_, rfl⟩ | rfl | rfl | rfl <;> exact congrArg Host.Outcome.next (monCmd_off hs)
    · rcases hi with ⟨_, _, rfl⟩ | ⟨_, _, rfl⟩ | ⟨_, rfl⟩ | ⟨_, rfl⟩ | rfl <;> exact congrArg Host.Outcome.next (monCmd_off hs)
    · rcases hi with rfl | rfl | rfl | ⟨_, rfl⟩ <;> exact congrArg Host.Outcome.next (monCmd_off hs)
    · exact congrArg Host.Outcome.next (if_neg fun hc => hs (monOn_iff.1 hc))
  · rcases hi with (rfl | ⟨_, rfl⟩) | (⟨_, rfl⟩ | rfl | rfl | rfl) | (⟨_, _, rfl⟩ | ⟨_, _, rfl⟩ | ⟨_, rfl⟩ | ⟨_, rfl⟩ | rfl) <;>
      exact congrArg Host.Outcome.next (monCmd_rom hs hr)
  · rcases hi with ⟨_, rfl⟩ | rfl | rfl | rfl <;> exact congrArg Host.Outcome.next (monCmd_low hs hr hl)
  · rcases hi with ⟨_, _, rfl⟩ | ⟨_, _, rfl⟩ | ⟨_, rfl⟩ | ⟨_, rfl⟩ | rfl <;> exact congrArg Host.Outcome.next (monCmd_low hs hr hl)
  · have marked {f : State → State} {w : State} (h : f s = w) : (.next (monCmd 1 true f s) : Out) = .next w :=
      congrArg Host.Outcome.next ((monCmd_marked hs hl).trans h)
    have line (why : LineFault) : exec (.monLineBad why) s = .next (say (lineCode why) [] s) := congrArg Host.Outcome.next (if_pos (monOn_iff.2 hs))
    exact ⟨marked rfl, marked rfl, marked rfl, fun n => marked (baudDo_eq n s), line .syntaxError, line .range, line .overrun⟩
  · have taken {f : State → State} {w : State} (h : f s = w) : (.next (monCmd 1 false f s) : Out) = .next w :=
      congrArg Host.Outcome.next ((monCmd_runs hs hr hl).trans h)
    exact ⟨taken rfl, fun b => taken rfl⟩
  · intro clean
    have ended {w : State} (h : monCmd 1 false tokenEnd s = w) : exec (.monTokenEnd t) s0 = .next w := by
      subst hst
      exact congrArg Host.Outcome.next h
    exact ⟨fun hs => ended (monCmd_off hs), fun hs hr => ended (monCmd_rom hs hr),
      fun hs hr ht => ended ((monCmd_runs hs hr (debugLevel_pos s)).trans (tokenEnd_bad ht)),
      fun hs hr ht => ended ((monCmd_runs hs hr (debugLevel_pos s)).trans (tokenEnd_good ht))⟩
  · have taken {f : State → State} {w : State} (h : f s = w) : (.next (monCmd 2 false f s) : Out) = .next w :=
      congrArg Host.Outcome.next ((monCmd_runs hs hr hl).trans h)
    exact ⟨fun b h => taken (if_pos (Bool.or_eq_true_iff.2 h)), fun b hh ho => taken (if_neg (by rw [hh, ho]; decide)), taken rfl, taken rfl, taken rfl⟩
  · have taken {f : State → State} {w : State} (h : f s = w) : (.next (monCmd 3 false f s) : Out) = .next w :=
      congrArg Host.Outcome.next ((monCmd_runs hs hr hl).trans h)
    have reads {a : MonAddr} {n : Nat} {w : State} (h : monReadDo a n s = w) : exec (.monRd a n) s = .next w := taken h
    have writes {a : MonAddr} {v : Word} {w : State} (h : monWriteDo a v s = w) : exec (.monWr a v) s = .next w := taken h
    have refused {off : Nat} {c : MonCode} (h : monBlock s off = (none, c)) :
        (∀ n, n ≠ 0 → exec (.monRd (.bar0 off) n) s = .next (say c [] s)) ∧ ∀ v, exec (.monWr (.bar0 off) v) s = .next (say c [] s) :=
      ⟨fun n hn => reads (monReadDo_bad hn (monReadReg_refused h)), fun v => writes (monWriteDo_refused h)⟩
    have memory {pa : BitVec 49} (hm : pa.toNat % 4 = 0) (hp : loops s pa.toNat = false) {r : Acc (List Byte)}
        (h : paRead 0 Attr.plain pa.toNat 4 s = r) : monReadOne (.phys pa) 0 s = memRead s r :=
      (monReadMem_eq (p := pa.toNat) hm hp).trans (congrArg (memRead s) h)
    refine ⟨fun n hn => ⟨taken (if_pos hn), taken (if_pos hn)⟩, fun n hn hh => ⟨taken ((if_neg (Nat.not_le.2 hn)).trans (if_pos hh)),
      taken ((if_neg (Nat.not_le.2 hn)).trans (if_pos hh))⟩, fun n hn hh => ?_, taken rfl, fuseVals_length s, fuseVals_last s,
      fun a => reads (if_pos rfl), fun off n hn h => ⟨(refused (monBlock_nowhere h)).1 n hn, (refused (monBlock_nowhere h)).2⟩,
      fun off b rel hm hb hmap => ⟨fun h => refused (monBlock_busy hm hb hmap h), fun hh ho => ?_⟩,
      fun off b rel hm hb hmap => refused (monBlock_unmapped hm hb hmap), fun a n hn => reads (monReadDo_some hn), fun a i vs u => rfl,
      fun a n i vs u x w h => monReads_val h, fun a n i vs u c w h => monReads_bad h, fun off i u => rfl, fun pa i u => rfl,
      fun pa h => ⟨reads (monReadDo_bad one_ne_zero (monReadMem_range (p := pa.toNat) h)), fun v => writes (monWriteDo_range h)⟩,
      fun pa c u hm hp h => reads (monReadDo_bad one_ne_zero (memory hm hp h)), fun pa hm hp h => ?_,
      fun pa v c u hm hp h => writes ((monWriteDo_mem hm hp).trans (congrArg (memWritten s) h)), fun pa v hm hp h => ?_,
      fun pa bs u hm hp h => reads (monReadDo_one (memory hm hp h)),
      fun pa v x u hm hp h => writes ((monWriteDo_mem hm hp).trans (congrArg (memWritten s) h))⟩
    · have hsec : ¬ s.halted .sec = true := by rw [hh]; decide
      exact ⟨taken ((if_neg (Nat.not_le.2 hn)).trans (if_neg hsec)), taken ((if_neg (Nat.not_le.2 hn)).trans (if_neg hsec))⟩
    · have hok := monBlock_ok hm hb hmap hh ho
      refine ⟨fun v => writes (monWriteDo_ok hok), ?_⟩
      refine (reads (monReadDo_one (a := .bar0 off) (monReadReg_ok hok))).trans ?_
      generalize counterAt off = o
      cases o <;> rfl
    · rcases h with h | h <;> exact reads (monReadDo_bad one_ne_zero (memory hm hp h))
    · rcases h with h | h <;> exact writes ((monWriteDo_mem hm hp).trans (congrArg (memWritten s) h))

end Sys2Proof.Machine
end
